-- ==== Sys2Proof/Word.lean ====
section
/-! DEFINITION. The words of the part: payload words, tags, tagged words (R125, R126), stored codewords
(R283), and the plainest arithmetic on them. -/

namespace Sys2Proof

/-- A 64-bit payload, and a 64-bit device register. -/
abbrev Word := BitVec 64

/-- A byte. -/
abbrev Byte := BitVec 8

/-- A tag code (R126). -/
abbrev Tag := BitVec 4

/-- A stored word of 76 bits: payload 63:0, tag 67:64, check bits 75:68 (R283). -/
abbrev Code := BitVec 76

/-- The tag codes of R126. Codes 0x9 to 0xD are reserved. -/
def Tag.uninit : Tag := 0x0
def Tag.int    : Tag := 0x1
def Tag.uint   : Tag := 0x2
def Tag.sbool  : Tag := 0x3
def Tag.ptr    : Tag := 0x4
def Tag.cptr   : Tag := 0x5
def Tag.time   : Tag := 0x6
def Tag.raw    : Tag := 0x7
def Tag.fixq   : Tag := 0x8
def Tag.status : Tag := 0xE
def Tag.poison : Tag := 0xF

/-- A tag code that the part never produces (R126). -/
def Tag.isReserved (t : Tag) : Bool := 0x9 ≤ t.toNat && t.toNat ≤ 0xD

/-- A tagged word (R125): payload and tag. -/
structure TWord where
  tag : Tag
  val : Word
  deriving DecidableEq, Repr, Inhabited

/-- The word a fill writes (R288). -/
def TWord.uninit : TWord := ⟨Tag.uninit, 0⟩
def TWord.raw (w : Word) : TWord := ⟨Tag.raw, w⟩
def TWord.int (w : Word) : TWord := ⟨Tag.int, w⟩
def TWord.uint (w : Word) : TWord := ⟨Tag.uint, w⟩
def TWord.time (w : Word) : TWord := ⟨Tag.time, w⟩
def TWord.ptr (w : Word) : TWord := ⟨Tag.ptr, w⟩
def TWord.cptr (w : Word) : TWord := ⟨Tag.cptr, w⟩
def TWord.status (w : Word) : TWord := ⟨Tag.status, w⟩

/-- The two canonical SBOOL payloads (R126). -/
def sbTrue  : Word := 0x5A5AA5A55A5AA5A5
def sbFalse : Word := 0xA5A55A5AA5A55A5A

/-- The canonical SBOOL word of a truth value. -/
def TWord.bool (b : Bool) : TWord := ⟨Tag.sbool, if b then sbTrue else sbFalse⟩

/-- Bit `i` of a word as a number, 0 or 1. -/
def bitN (b : Bool) : Nat := if b then 1 else 0

/-- Bits `lo + len - 1 : lo` of a word, as a number (R6). -/
def bitsOf (w : Word) (lo len : Nat) : Nat := w.toNat / 2 ^ lo % 2 ^ len

/-- Bit `i` of a word. -/
def bitAt (w : Word) (i : Nat) : Bool := w.getLsbD i

/-- A word with ones in bits `lo + len - 1 : lo`. -/
def maskOf (lo len : Nat) : Word := BitVec.ofNat 64 ((2 ^ len - 1) * 2 ^ lo)

/-- `w` with bits `lo + len - 1 : lo` replaced by the low bits of `v`. -/
def setBits (w : Word) (lo len v : Nat) : Word :=
  (w &&& ~~~ maskOf lo len) ||| BitVec.ofNat 64 (v % 2 ^ len * 2 ^ lo)

/-- `w` with bit `i` set to `b`. -/
def setBit (w : Word) (i : Nat) (b : Bool) : Word := setBits w i 1 (bitN b)

/-- A saturating count: one more, but never above `top`. -/
def satInc (top n : Nat) : Nat := if n < top then n + 1 else top

/-- Parity of the one bits of a number below `2 ^ n`. -/
def parityN : Nat → Nat → Bool
  | 0, _ => false
  | n + 1, x => (x % 2 == 1) != parityN n (x / 2)

/-- The number of one bits among the low `n` bits. -/
def weightN : Nat → Nat → Nat
  | 0, _ => 0
  | n + 1, x => x % 2 + weightN n (x / 2)

end Sys2Proof
end

