-- ==== Sys2Proof/Syntax.lean ====
section
/-! DEFINITION. The commands of the block: one constructor of `Instr` per row of the opcode table, with the operands
that the manual gives the operation or event. Instruction rows name the pen and the issue slot; event rows name the
unit they happen at and what the outside decides about them. -/

namespace Sys2Proof

/-- A general register number. -/
abbrev Reg := Fin 32
/-- A pen number. -/
abbrev PenN := Fin 64
/-- A mailbox number. -/
abbrev MbN := Fin 4
/-- A line index within the active ruling. -/
abbrev LineN := Fin 32768
/-- A queue pair number. -/
abbrev QpN := Fin 16384

/-- Where an instruction issues (R163): the pen, and whether it is offered as slot 2 of the pair that the pen's last
instruction opened. -/
structure Iss where
  pen    : PenN
  second : Bool
  deriving DecidableEq, Repr

/-- Second source of an arithmetic or logic instruction (R160, formats R and I). -/
inductive Src
  | reg (r : Reg)
  | imm (i : BitVec 16)
  deriving DecidableEq, Repr

/-- Shift amount (R160, formats R and SH). -/
inductive Amt
  | reg (r : Reg)
  | imm (i : BitVec 6)
  deriving DecidableEq, Repr

/-- Addressing mode of the M format (R175). -/
inductive AMode
  | off     (imm : BitVec 14)
  | postInc (imm : BitVec 14)
  | preDec  (imm : BitVec 14)
  | index   (rx : Reg) (s : BitVec 2)
  deriving DecidableEq, Repr

/-- Source of the new mask level (R185, func 0 and 1). -/
inductive MaskSrc
  | imm (level : BitVec 3)
  | reg (r : Reg)
  deriving DecidableEq, Repr

/-- What a read of host memory by the part gives (R326, R354): the words, least significant byte at the lowest address;
or the read fails; or the link falls during it, after some words have come. -/
inductive HostData
  | ok (ws : List Word)
  | readFail
  | linkDown (ws : List Word)
  deriving DecidableEq, Repr

/-- What the comparator of a pen reports (R100 to R103). -/
inductive PenReport
  | diverge (groups : BitVec 8)
  | comparatorSelf
  | fabricCrc
  deriving DecidableEq, Repr

/-- A bank: inkwell bank `b` of a pen, or a reservoir (R274). -/
inductive Bank
  | ink (pen : PenN) (b : Fin 2)
  | rsv (r : Fin 32)
  deriving DecidableEq, Repr

/-- How the blotter's work on one march segment went (R295, R296, R20). -/
inductive MarchOutcome
  | good
  | cellFail
  | yielded
  | windowEnd
  | fabricError
  deriving DecidableEq, Repr

/-- How a self-test ends (R86). -/
inductive Verdict
  | pass
  | fail
  | blotterFault
  deriving DecidableEq, Repr

/-- A switched power domain (R439, R377). -/
inductive Domain
  | pen (n : PenN)
  | rsvPair (k : Fin 16)
  | mac (m : Fin 4)
  | canGpio
  | blotter
  | security
  deriving DecidableEq, Repr

/-- How a scrub pass ends (R294). -/
inductive ScrubEnd
  | completed
  | powerOff
  | fabricError
  | aborted
  deriving DecidableEq, Repr

/-- A completion for a read that the feed engine issued (R326); `ecrcBad` carries data whose ECRC does not match. -/
inductive Completion
  | data (ws : List Word)
  | poisoned
  | unsupported
  | abort
  | ecrcBad (ws : List Word)
  deriving DecidableEq, Repr

/-- An error reported under AER (R326, R344). -/
inductive AerError
  | unsupported
  | poisoned
  | ecrc
  | completionTimeout
  | unexpectedCompletion
  | ideCheck
  deriving DecidableEq, Repr

/-- A write of the configuration space (R322, R323, R325, R326, R328, R339, R344). Of the IDE capability: the RID
association of a stream and its address associations, each a first and a last value. -/
inductive ConfigWrite
  | busMaster (en : Bool)
  | memSpace (en : Bool)
  | ecrcGen (en : Bool)
  | ecrcCheck (en : Bool)
  | complTimeout (range : BitVec 4)
  | msixEnable (en : Bool)
  | msixFuncMask (m : Bool)
  | bar (i : Fin 6) (v : BitVec 32)
  | maxPayload (code : BitVec 3)
  | maxReadRequest (code : BitVec 3)
  | aerClear (e : AerError)
  | ideRid (stream : Fin 4) (first last : BitVec 16)
  | ideAddr (stream : Fin 4) (i : Fin 2) (first last : Word)
  | absentFeature
  deriving DecidableEq, Repr

/-- A data object exchange request (R345). -/
inductive DoeReq
  | discovery (index : BitVec 8)
  | spdm (code : BitVec 8) (param : BitVec 8)
  | securedSpdm (code : BitVec 8) (param : BitVec 8)
  | ideKm (code : BitVec 8) (stream : BitVec 8) (keySet : Bool)
  deriving DecidableEq, Repr

/-- How far an abortable foreground command goes (R351 to R353): to its end, or for some steps, after which it stays
RUNNING; or an access of the Huvas after those steps meets a fabric CRC error, and again when it is repeated (R20). -/
inductive CmdRun
  | whole
  | pause (steps : Nat)
  | crcTwice (steps : Nat)
  deriving DecidableEq, Repr

/-- A CAN frame (R381, R389, R399). `data` holds the bytes on the wire. -/
structure CanFrame where
  id   : BitVec 29
  ide  : Bool
  fdf  : Bool
  brs  : Bool
  esi  : Bool
  rtr  : Bool
  data : List Byte
  deriving DecidableEq, Repr

/-- How a transmission or reception on a CAN bus goes (R399, R400). After an error, the standard gives the transmit and
receive error counters; a transmit error counter above 255 is bus-off. -/
inductive CanOutcome
  | ok
  | arbLost
  | error (tec rec : BitVec 9) (protocolException : Bool)
  deriving DecidableEq, Repr

/-- A gPTP path delay frame (R394). -/
inductive PdelayFrame
  | request
  | response (delayNs : BitVec 32)
  deriving DecidableEq, Repr

/-- The commands: every row of the opcode table, in its order. -/
inductive Instr
  -- arithmetic and logic
  | add (i : Iss) (rd ra : Reg) (b : Src)
  | addt (i : Iss) (rd ra : Reg) (b : Src)
  | sub (i : Iss) (rd ra : Reg) (b : Src)
  | subt (i : Iss) (rd ra : Reg) (b : Src)
  | neg (i : Iss) (rd ra : Reg)
  | negt (i : Iss) (rd ra : Reg)
  | mul (i : Iss) (rd ra : Reg) (b : Src)
  | mulh (i : Iss) (rd ra rb : Reg)
  | mulWriteback (p : PenN)
  | div (i : Iss) (rd ra rb : Reg)
  | divt (i : Iss) (rd ra rb : Reg)
  | rem (i : Iss) (rd ra rb : Reg)
  | divideComplete (p : PenN)
  | and (i : Iss) (rd ra : Reg) (b : Src)
  | or (i : Iss) (rd ra : Reg) (b : Src)
  | xor (i : Iss) (rd ra : Reg) (b : Src)
  | shl (i : Iss) (rd ra : Reg) (a : Amt)
  | shr (i : Iss) (rd ra : Reg) (a : Amt)
  | sar (i : Iss) (rd ra : Reg) (a : Amt)
  | rol (i : Iss) (rd ra : Reg) (a : Amt)
  | clz (i : Iss) (rd ra : Reg)
  | bfx (i : Iss) (rd ra : Reg) (pos len1 : BitVec 6)
  | bfi (i : Iss) (rd ra : Reg) (pos len1 : BitVec 6)
  | perm (i : Iss) (rd ra rb : Reg)
  | tag (i : Iss) (rd ra : Reg) (t : Tag)
  | tagof (i : Iss) (rd ra : Reg)
  | chk (i : Iss) (rs : Reg) (mask : BitVec 16)
  | poison (i : Iss) (rd : Reg)
  -- memory
  | ld (i : Iss) (rt rb : Reg) (m : AMode)
  | st (i : Iss) (rt rb : Reg) (m : AMode)
  | ldb (i : Iss) (rt rb : Reg) (m : AMode)
  | ldh (i : Iss) (rt rb : Reg) (m : AMode)
  | ldw (i : Iss) (rt rb : Reg) (m : AMode)
  | stb (i : Iss) (rt rb : Reg) (m : AMode)
  | sth (i : Iss) (rt rb : Reg) (m : AMode)
  | stw (i : Iss) (rt rb : Reg) (m : AMode)
  | atadd (i : Iss) (rt rb : Reg) (m : AMode)
  | atswp (i : Iss) (rt rb : Reg) (m : AMode)
  | loadWriteback (p : PenN)
  | fabricResponse (p : PenN) (crcError collided : Bool)
  | storeDrain (p : PenN) (collided : Bool)
  | storeAck (p : PenN) (crcError : Bool)
  | draftCopyComplete (p : PenN) (crcError collided : Bool)
  | tableWalkDone (p : PenN)
  | blkcpy (i : Iss) (ra rb rc : Reg)
  | blkfill (i : Iss) (ra rb rc : Reg)
  | blkcmp (i : Iss) (ra rb rc : Reg)
  | blkcrc (i : Iss) (ra rb rc : Reg)
  -- control transfer
  | b (i : Iss) (disp : BitVec 26)
  | bcc (i : Iss) (cond : BitVec 4) (disp : BitVec 22)
  | call (i : Iss) (disp : BitVec 26)
  | bRegister (i : Iss) (rs : Reg)
  | callRegister (i : Iss) (rs : Reg)
  | ret (i : Iss)
  | eret (i : Iss)
  | gret (i : Iss)
  | gate (i : Iss) (n : BitVec 8)
  -- system
  | mask (i : Iss) (rd : Reg) (src : MaskSrc)
  | feat (i : Iss) (rd : Reg) (n : BitVec 4)
  | sealReg (i : Iss) (rd rs : Reg)
  | tlbinvUnlocked (i : Iss)
  | tlbinvAll (i : Iss)
  | tlbinvPage (i : Iss) (rs : Reg)
  | ipi (i : Iss) (rs : Reg) (level : BitVec 3)
  | fence (i : Iss)
  | linend (i : Iss)
  -- pen events
  | interruptEntry (p : PenN)
  | ipiArrive (p : PenN) (level : BitVec 3)
  | penFault (p : PenN) (r : PenReport) (both : Option PenReport)
  | crosslinkDisagree (k : Fin 32)
  -- folio engine
  | folioTick
  | runStart (line : LineN)
  | recoveryRunStart (line : LineN)
  | runBudgetEnd (line : LineN)
  | commit (p : PenN)
  | windowOpen (line : LineN) (reach : Nat) (crcError : Bool)
  | windowClose (line : LineN)
  | fetchMessage (q : QpN) (crcError : Bool)
  | postMessage (q : QpN) (crcError : Bool)
  | queueInterrupt (q : QpN)
  | marchSegment (bank : Bank) (row : Fin 2048) (o : MarchOutcome)
  | selftestStart (p : PenN)
  | selftestVerdict (p : PenN) (v : Verdict)
  | resilverComplete (p : PenN)
  | redraftCompute
  | rulingStoreScrub (index : Fin 147456)
  -- time
  | tickinEdge
  | tickinMiss
  | ppsEdge
  | gptpSync (mac : Fin 4) (masterTime : Word) (logSync : BitVec 8)
  | pdelayRequest (mac : Fin 4)
  | holdoverEntry
  -- Huvas
  | rubricFirmwareReaction
  | voterMismatch (odd : Option (Fin 3))
  | huvasNibCheck (pass : Bool)
  | huvasResync
  | mailboxGo (m : MbN) (opcode token : BitVec 16) (upperHalf : Bool)
  | mailboxAbort (m : MbN)
  | identify (m : MbN)
  | fwLoad (m : MbN) (image : HostData) (badPens : BitVec 64) (badInk : BitVec 128) (badRsv : BitVec 32)
  | timeConfig (m : MbN)
  | memLoad (m : MbN) (data : HostData) (run : CmdRun)
  | memRead (m : MbN) (linkFails : Bool) (run : CmdRun)
  | vslotSet (m : MbN) (data : HostData)
  | partSetup (m : MbN)
  | mirrorSet (m : MbN)
  | lslotSet (m : MbN)
  | seqSel (m : MbN)
  | rulingLoad (m : MbN) (data : HostData) (run : CmdRun)
  | rulingVerify (m : MbN) (run : CmdRun)
  | rulingUnload (m : MbN)
  | activate (m : MbN)
  | switchArm (m : MbN)
  | quiesce (m : MbN)
  | rubricSet (m : MbN) (data : HostData)
  | eventRead (m : MbN) (linkFails : Bool) (run : CmdRun)
  | bankHandover (m : MbN)
  | scrub (m : MbN)
  | march (m : MbN)
  | marginRead (m : MbN) (linkFails : Bool)
  | checkerTest (m : MbN) (seen : BitVec 8)
  | queueSet (m : MbN)
  | shareSet (m : MbN)
  | chansetSet (m : MbN) (data : HostData)
  | portRecordLoad (m : MbN) (data : HostData)
  | tracePair (m : MbN)
  | traceDetach (m : MbN)
  | takeover (m : MbN)
  | penControl (m : MbN)
  | power (m : MbN)
  | dormant (m : MbN)
  | superviseSet (m : MbN)
  | debugEnable (m : MbN)
  -- register operations with rows of their own
  | rulingEntryWrite (w : TWord)
  | vtSlotWrite (w : TWord)
  | pxRecordWrite (w : TWord)
  | ptRecordWrite (w : TWord)
  | folioSwitchWrite (w : TWord)
  | penCtrlRestart (p : PenN)
  | penCtrlFence (p : PenN)
  | penInjectArm (p : PenN) (group : Fin 8)
  | mmuInvAll (p : PenN)
  | mmuLslotLoad (p : PenN) (slots : BitVec 8)
  | checkerInjectWrite (bank : Bank) (w : TWord)
  | blotScrubStart
  | blotScrubAbort
  | scrubPassEnd (e : ScrubEnd)
  | blotMlClear
  | huvEqPop
  | hifQpWrite (w : TWord)
  | trcListWrite (w : TWord)
  | feedDescWrite (w : TWord)
  | submissionRequest (p : PenN) (k : BitVec 8) (w : Word)
  | domainRequestWrite (other : Bool) (w : TWord)
  | domainSwitchOff (d : Domain)
  | domainSwitchOn (d : Domain)
  | bankFillDone (b : Bank)
  | registerWrite (cpa : BitVec 48) (w : TWord) (crcTwice : Bool) (same : Word)
  | registerReadClear (cpa : BitVec 48) (crcTwice : Bool) (same : Word)
  -- host interface
  | doorbell (w : Word)
  | inboundWrite (bar2 : Bool) (off : BitVec 17) (size : BitVec 13) (w : Word) (poisoned ecrcBad : Bool)
  | inboundRead (bar2 : Bool) (off : BitVec 17) (size : BitVec 13) (ecrcBad : Bool)
  | hostCompletion (q : QpN) (c : Completion)
  | completionTimeout (q : QpN)
  | msixUnmask (v : Fin 2048)
  | d3hotWrite
  | d0Write
  | linkDown (perst : Bool)
  | linkUp (speed : BitVec 3) (width : BitVec 5) (flit : Bool)
  | ideCheckFail (stream : Fin 4)
  | ideKeySetGo (stream : Fin 4)
  | doeRequest (r : DoeReq)
  | doeAbort
  -- tracing records
  | recordBegin (raw : List Word)
  | recordUnit (raw : List Word) (crcError : Bool)
  | recordEnd (raw : List Word)
  | recordAck (raw : List Word)
  | recordDigest (raw : List Word)
  | recordFarewell (raw : List Word)
  | traceWatchdog
  -- train I/O
  | ethFrameReceive (mac : Fin 4) (frame : List Byte) (fcsGood : Bool)
  | ethFrameTransmit (mac : Fin 4)
  | ethLinkDown (mac : Fin 4)
  | ethLinkUp (mac : Fin 4)
  | canFrameReceive (c : Fin 8) (f : CanFrame) (o : CanOutcome)
  | canFrameTransmit (c : Fin 8) (o : CanOutcome)
  | canBusOffRecovery (c : Fin 8)
  | feedRecordWrite (crcError : Bool)
  | gpioCapture (levels : Word) (crcError : Bool)
  | gpioSample (s : Fin 8) (levels : Word)
  | gpioReadback (levels : Word)
  -- power, clocks and reset
  | vaonPowerOn
  | mainRailsUp
  | mainPowerReset
  | resetNAssert
  | jtagTrst
  | clockFail
  | pllEthUnlock
  | pcieClockLoss
  | xtalStop
  | fuseLoad (good : Bool)
  | fillDone (cmpFail : BitVec 5)
  | romCheckDone (pass : BitVec 3)
  | avsInterval (margin : BitVec 8)
  | avsTimeout
  | supplyExcursion (cmp : Fin 4) (outside : Bool)
  | tempConversion (tj : BitVec 16)
  | dormantEnter
  | wake (fired : BitVec 3)
  | illegalEncoding (p : PenN)
  | instructionBusFault (p : PenN)
  | avsAcknowledge (readback : BitVec 16)
  | resetNRelease
  | clockReturn
  | xtalStart
  | linkRetrain (speed : BitVec 3) (width : BitVec 5)
  | configWrite (w : ConfigWrite)
  | pdelayReceive (mac : Fin 4) (f : PdelayFrame)
  deriving DecidableEq, Repr

end Sys2Proof
end

