-- ==== Sys2Proof/Decode.lean ====
section
/-! DEFINITION. Commands from words. The opcode table of this block gives no row any bits: the commands are operations
and events, not encoded words, so no word spells a command. (The words of the pens' own instructions are read by
`Machine/Encodings.lean`.) -/

namespace Sys2Proof

/-- The command that a word spells by the table's bits: none. -/
def decodeTableWord (_nbits _w : Nat) : Option Instr := none

end Sys2Proof
end

