-- ==== Sys2Proof/Config.lean ====
section
/-! DEFINITION. What one part fixes and the manual does not: the factory fuses, and the free values, each an
opaque constant without a body, so that no proof can lean on a value of it. Every free value is named in the
assumption log. -/

namespace Sys2Proof

/-- The factory fuse set (R2, R356, R392, R298, R299): device identity, firmware key hash, MAC addresses, ROM
version and the counts of used spares. -/
structure Fuses where
  serial     : Word
  keyHash    : BitVec 384
  romVersion : BitVec 16
  macAddr    : List (BitVec 48)
  inkRepair  : List Word
  rsvRepair  : List Word
  subsystem  : BitVec 32
  deriving DecidableEq, Repr, Inhabited

namespace Config

/-- The fuses of this part: the manual gives fields, never values (R14, "fuse"). -/
opaque fuses : Fuses

/-- SHA-384 of a list of bytes (R356, R357, R345): named by the manual, defined elsewhere. -/
opaque sha384 : List Byte → BitVec 384

/-- SHA-384 of the Huvas ROM, measurement 1 (R345). -/
opaque romHash : BitVec 384

/-- The certificate chain of SPDM slot 0, whose leaf carries the Device Serial Number (R345): signed by the vendor, its
bytes are not in the manual. -/
opaque certChain : Word → List Byte

/-- A signature with the device key, which derives from the identity fuses (R345): key, message digest. -/
opaque spdmSign : Word → BitVec 384 → List Byte

/-- Where the capability list begins (R327): the manual leaves the offsets open. -/
opaque capPointer : BitVec 8

/-- ECDSA P-384 verification under a key (R357, step 8): key, signature, digest. -/
opaque ecdsaVerify : List Byte → List Byte → BitVec 384 → Bool

/-- The SDTv2 safety code over a vital data packet with a SID (R397). -/
opaque sdtv2 : Word → List Byte → BitVec 32

/-- The header FCS of a TRDP frame (R396, R398): IEC 61375-2-3 defines it. -/
opaque trdpFcs : List Byte → BitVec 32

/-- The slew rate, in parts per billion, that the counter takes for a measured offset below its limit (R33):
the manual gives only the bound. -/
opaque slewRate : Int → Nat

/-- Free words, indexed by the state's free-value counter (a value the manual leaves open). -/
opaque freeWord : Nat → Word

/-- Free bits, indexed by the state's free-value counter. -/
opaque freeBool : Nat → Bool

end Config
end Sys2Proof
end

