-- ==== Sys2Proof/Machine/Table.lean ====
section
/-! DEFINITION. Sparse tables: a list of (index, value) pairs in one canonical form, indexes strictly rising and no entry
equal to what an unlisted index holds, so that equal tables are equal lists. -/

namespace Sys2Proof.Machine

/-- A sparse table of values indexed by numbers. -/
abbrev Table (α : Type) := List (Nat × α)

/-- The value at an index; `d` gives what an unlisted index holds. -/
def Table.get {α : Type} (d : Nat → α) : Table α → Nat → α
  | [], k => d k
  | (j, v) :: t, k => if k = j then v else Table.get d t k

/-- Remove an index. -/
def Table.del {α : Type} : Table α → Nat → Table α
  | [], _ => []
  | (j, v) :: t, k => if k = j then Table.del t k else (j, v) :: Table.del t k

/-- Insert or replace, keeping indexes rising. -/
def Table.ins {α : Type} : Table α → Nat → α → Table α
  | [], k, v => [(k, v)]
  | (j, w) :: t, k, v =>
    if k < j then (k, v) :: (j, w) :: t
    else if k = j then (k, v) :: t
    else (j, w) :: Table.ins t k v

/-- Write a value at an index; the default value is not listed. -/
def Table.set {α : Type} [DecidableEq α] (d : Nat → α) (t : Table α) (k : Nat) (v : α) : Table α :=
  if v = d k then Table.del t k else Table.ins t k v

/-- Every listed index is at least `lo`, indexes rise strictly and no entry holds its default. -/
def Table.wfFrom {α : Type} [DecidableEq α] (d : Nat → α) : Nat → Table α → Bool
  | _, [] => true
  | lo, (j, v) :: t => lo ≤ j && v ≠ d j && Table.wfFrom d (j + 1) t

/-- The canonical form. -/
def Table.wf {α : Type} [DecidableEq α] (d : Nat → α) (t : Table α) : Bool := Table.wfFrom d 0 t

/-- Keep the entries whose index passes a test. -/
def Table.keep {α : Type} (p : Nat → Bool) (t : Table α) : Table α := t.filter (fun e => p e.1)

/-- Rewrite every listed entry (for defaults that the rewriting leaves alone). -/
def Table.mapV {α : Type} (f : α → α) (t : Table α) : Table α := t.map (fun e => (e.1, f e.2))

/-- Insert into a list that is sorted by a key. -/
def insertBy {α : Type} (key : α → Nat) (a : α) : List α → List α
  | [] => [a]
  | b :: t => if key a < key b then a :: b :: t else b :: insertBy key a t

def sortBy {α : Type} (key : α → Nat) (l : List α) : List α := l.foldr (insertBy key) []

end Sys2Proof.Machine
end

