-- ==== Sys2Proof/Machine/State.lean ====
section
/-! DEFINITION. The state of the part as plain data: every register, table, queue, mode and pin that the manual names,
the queue of waiting commands, and the model's own fields (`free`, `out`). Reset values are the field defaults. -/

namespace Sys2Proof.Machine

/-- Why the machine stops with a fault. -/
inductive Fault
  /-- Raised by no meaning: every row of the table has an effect. Kept so that the type is inhabited; safe. -/
  | unspecified
  deriving DecidableEq, Repr

/-- Why a command is refused. -/
inductive Refusal
  /-- Raised only by an arm of `exec` whose command has no meaning yet; safe. -/
  | notModelled (mnemonic : String)
  deriving DecidableEq, Repr

/-- Device states (R28). -/
inductive DevState
  | off | dormant | fill | boot | loaded | run | safe | debug
  deriving DecidableEq, Repr

/-- Pen states (R104), in the order of their codes. -/
inductive PenSt
  | off | idle | run | stopped | testWait | test | resilver | fenced
  deriving DecidableEq, Repr

/-- Run modes (R121, PEN_STATE.MODE). -/
inductive RunMode
  | duplex | joined | solo
  deriving DecidableEq, Repr

/-- Mirror state of a pair (R112, R121); `lost`: no copy is valid any more, and the pair stays SOLE for the pen, odd or
even, that held the last one. -/
inductive Mirror
  | mirrored | soleEven | soleOdd | lost (odd : Bool)
  deriving DecidableEq, Repr

/-- Version page states (R68). -/
inductive VState
  | fair | copying | drafted | committing
  deriving DecidableEq, Repr

/-- Version page kinds (R68). -/
inductive VKind
  | state | output | input | rsvd
  deriving DecidableEq, Repr

/-- Kinds of access that translation distinguishes (R258). -/
inductive Access
  | read | write | fetch
  deriving DecidableEq, Repr

/-- What a TLB entry's frame is (R264, KIND). -/
inductive FrameKind
  | cpa | loc | versioned
  deriving DecidableEq, Repr

/-- Issue classes (R194). -/
inductive IssueClass
  | alu | mem | mul | ctl | callret | ser | fin
  deriving DecidableEq, Repr

/-- Ruling slot states (R38). -/
inductive SlotSt
  | empty | loaded | verified | active
  deriving DecidableEq, Repr

/-- A cause of an exception with what the syndrome records of it (R221, R231). -/
structure Exc where
  vector  : Nat
  level   : Nat
  detail  : Nat := 0
  operand : Nat := 0
  stage   : Nat := 0
  wlevel  : Nat := 0
  wcause  : Nat := 0
  bcause  : Nat := 0
  gate    : Nat := 0
  arg     : Nat := 0
  write   : Bool := false
  second  : Bool := false
  addr    : Word := 0
  deriving DecidableEq, Repr

/-- One TLB entry (R264). -/
structure TlbEntry where
  valid  : Bool := false
  locked : Bool := false
  vpn    : Nat := 0
  part   : Nat := 0
  size   : Nat := 0
  l1     : Nat := 0
  l2     : Nat := 0
  kind   : FrameKind := .cpa
  frame  : Nat := 0
  slot   : Nat := 0
  r1 : Bool := false
  w1 : Bool := false
  x1 : Bool := false
  u1 : Bool := false
  d1 : Bool := false
  d2 : Bool := false
  key : Nat := 0
  r2 : Bool := false
  w2 : Bool := false
  x2 : Bool := false
  /-- CPA of the stage-1 and stage-2 leaf words, for the posted D sets of R262, R263. -/
  leaf1 : Nat := 0
  leaf2 : Nat := 0
  deriving DecidableEq, Repr

/-- One half of a store in the store buffer (R205, R207): a full tagged word or some bytes of a RAW word. -/
structure SbHalf where
  cpa   : Nat
  full  : Bool
  bytes : BitVec 8
  data  : TWord
  deriving DecidableEq, Repr

/-- One store waiting in the store buffer; a split store has two halves and occupies two entries (R177, R205). -/
structure SbEntry where
  halves : List SbHalf
  slot   : Option Nat := none
  deriving DecidableEq, Repr

/-- A loaded value waiting for its write (R145, R197). `age` counts issue pairs after the load's own. -/
structure Late where
  reg : Nat
  val : TWord
  age : Nat
  deriving DecidableEq, Repr

/-- A multiply in flight (R167). -/
structure MulPend where
  reg   : Nat
  val   : TWord
  flags : BitVec 4
  deriving DecidableEq, Repr

/-- The pair that the pen's last instruction opened (R163, R195, R196): its class, the register values that it
overwrote, and the destination of a MUL in slot 1. -/
structure PairCtx where
  cls : IssueClass
  old : Table TWord
  /-- The seal key register from before the pair, when slot 1 wrote it (R186). -/
  oldSeal : Option Word := none
  deriving DecidableEq, Repr

/-- What holds the pen's issue (R192, R216). `fabric`: a request that has been sent, through port A as owner or not
(R278). `block`: a block instruction at a sampling point (R181). -/
inductive Hold
  | none
  | walk (va : Word) (kind : Access) (second : Bool) (c : Instr)
  | copy (slot : Nat) (c : Instr)
  | fabric (cpa : Nat) (portA : Bool) (c : Instr)
  | block (c : Instr)
  | divide (rd : Nat) (val : TWord) (flags : BitVec 4) (trap : Bool)
  deriving DecidableEq, Repr

/-- The block in the fetch buffer (R190, R201): the VA of its 16 bytes and its two code words; `none` for an uncorrectable
one. -/
structure FetchBlock where
  va : Nat
  lo : Option TWord
  hi : Option TWord
  deriving DecidableEq, Repr

/-- A request of pen `pen` that has left it and has not reached its target (R211, R278): a store half, or a read through
port A of a run that has ended. -/
structure Flight where
  pen   : Nat
  home  : Nat
  line  : Nat
  cpa   : Nat
  half  : Option SbHalf
  since : Nat
  deriving DecidableEq, Repr

/-- An inter-pen interrupt on its way (R241): sender, target, level and the cycle of its issue. -/
structure IpiFly where
  src    : Nat
  target : Nat
  level  : Nat
  since  : Nat
  deriving DecidableEq, Repr

/-- A run: one execution of a line's task (R41, R43). -/
structure Run where
  line     : Nat
  part     : Nat
  home     : Nat
  start    : Nat
  budget   : Nat
  winEnd   : Nat := 0
  recovery : Bool := false
  mode     : RunMode := .duplex
  linend   : Option Nat := none
  drainBad : Bool := false
  drafts   : List Nat := []
  wrote    : List Nat := []
  subs     : Table Word := []
  deriving DecidableEq, Repr

/-- A pen with its two inkwells' registers and its `PEN_`, `MMU_` and `INK_` windows. -/
structure Pen where
  st      : PenSt := .off
  regs    : Table TWord := []
  spTask  : TWord := TWord.uninit
  spExec  : TWord := TWord.uninit
  status  : Word := 0x100
  pc      : Word := 0
  sealed  : Word := 0
  late    : List Late := []
  mul     : Option MulPend := none
  pair    : Option PairCtx := none
  hold    : Hold := .none
  fbuf    : Option FetchBlock := none
  /-- Words that a held block instruction has done since it issued (R181). -/
  blkDone : Nat := 0
  sb      : List SbEntry := []
  acks    : Nat := 0
  ipiPend : BitVec 8 := 0
  syn     : Word := 0
  synAddr : Word := 0
  run     : Option Run := none
  /-- A run at LINEND whose commit point is still ahead when the pen has started its next run (R75). -/
  ending  : Option Run := none
  /-- The blotter may not borrow from this pen again before its run ends (R217); the folio cycle at which the window of the
  pen's ligature run ends (R110, R114). -/
  noBorrow : Bool := false
  ligEnd  : Nat := 0
  tlb     : Table TlbEntry := []
  lfsr    : BitVec 16 := 0
  -- PEN_ window (R121, R122, R246)
  mirror    : Mirror := .mirrored
  mirror0   : Word := 0
  mirror1   : Word := 0
  stale     : Bool := false
  seqSel    : Table Word := []
  faultInfo : Word := 0
  faultFolio : Word := 0
  faultCnt  : Nat := 0
  inject    : Word := 0
  penLock   : Bool := true
  ipiDrop   : Nat := 0
  flyCnt    : Nat := 0
  excCnt    : Nat := 0
  -- self-test and return (R85, R86)
  winFaults : Nat := 0
  handAt    : Option Nat := none
  testPort  : Option Nat := none
  passAt    : Option Nat := none
  recopy    : List Nat := []
  -- MMU_ window (R272)
  tlbIdx    : Nat := 0
  lslot     : Table Word := []
  lslotStat : Word := 0
  walkCnt   : Nat := 0
  tfaultCnt : Nat := 0
  mmuLock   : Bool := true
  -- INK_ window (R298)
  filling0  : Bool := true
  filling1  : Bool := true
  inkErr    : Table Word := []
  injAddr   : Word := 0
  injFlip0  : Word := 0
  injFlip1  : Word := 0
  inkLock   : Bool := true
  deriving DecidableEq, Repr

/-- A reservoir with its `RSV_` window (R276, R299). -/
structure Rsv where
  owner    : Nat := 0x40
  pin      : Bool := false
  pinOwner : Nat := 0x40
  /-- PIN and PIN_OWNER before their last change and the cycle of that change (R371). -/
  pinOld   : Bool × Nat := (false, 0x40)
  pinAt    : Nat := 0
  grant    : Word := 0
  filling  : Bool := true
  errCnt   : Word := 0
  coll     : Nat := 0
  staleCnt : Nat := 0
  injAddr  : Word := 0
  injFlip0 : Word := 0
  injFlip1 : Word := 0
  lock     : Bool := true
  -- blotter's ruled scrub cursor (R293, R301)
  cursor   : Nat := 0
  deriving DecidableEq, Repr

/-- A version slot (R68). -/
structure VSlot where
  frame0    : Nat := 0
  frame1    : Nat := 0
  fair      : Bool := false
  kind      : VKind := .state
  valid     : Bool := false
  part      : Nat := 0
  st        : VState := .fair
  feedDraft : Bool := false
  drafter   : Nat := 0
  published : Bool := false
  held      : Bool := false
  seq       : BitVec 16 := 0
  /-- Folio and cycle of the last commit, and the line, for eligibility under R48 (not readable). -/
  commitCyc : Nat := 0
  commitFolio : Nat := 0
  commitLine : Nat := 0x7FFF
  /-- The request words that the committing run left for the publication of this commit (R386). -/
  reqs      : Table Word := []
  /-- An OUTPUT commit that no PUBLISH window has taken and that may still be taken (R48, R422). -/
  eligible  : Bool := false
  deriving DecidableEq, Repr

/-- Set-up of a partition (R363): whether it is set up, and its PEN_MASK. -/
structure PartSet where
  up      : Bool := false
  penMask : Word := 0
  deriving DecidableEq, Repr

/-- One ruling slot (R37, R38, R66, R366). -/
structure RulSlot where
  st       : SlotSt := .empty
  lineBase : Nat := 0
  lines    : Nat := 0
  hoBase   : Nat := 0
  hos      : Nat := 0
  header   : List Word := []
  /-- The ACTIVE slot met an uncorrectable word and becomes LOADED when EN clears (R39). -/
  spoiled  : Bool := false
  deriving DecidableEq, Repr

/-- The `RUL_` window and the ruling store (R37, R39, R66). Store words are codewords: line `i` word `w` at index
`4 i + w`, handover entry `k` at `131072 + k`. -/
structure Rul where
  slots : Table RulSlot := []
  store : Table Code := []
  idx   : Nat := 0
  sel   : Bool := false
  data0 : Word := 0
  data1 : Word := 0
  data2 : Word := 0
  errSlot : Nat := 0
  errUncorr : Bool := false
  lock  : Bool := true
  deriving DecidableEq, Repr

/-- How a line runs under the placement (R97). -/
inductive How
  | ruled | atRec | redrafted | shed
  deriving DecidableEq, Repr

/-- The placement of one line (R89 to R92, R97). -/
structure Placed where
  line     : Nat
  how      : How
  pen      : Nat
  start    : Nat
  budget   : Nat
  clipped  : Bool := false
  recPen   : Nat := 0
  recStart : Nat := 0
  recValid : Bool := false
  deriving DecidableEq, Repr

/-- The frozen inputs of a redraft computation (R88). -/
structure Frozen where
  slot : Nat
  out  : Word
  obs  : Table (Nat × Nat)
  deriving DecidableEq, Repr

/-- The redraft engine's progress (R88, R96). -/
inductive RdState
  | idle | wanted | computing (f : Frozen) | ready (pl : List Placed) (shed unprot : Nat)
  | applied | failed
  deriving DecidableEq, Repr

/-- An open window (R47). -/
structure Win where
  line  : Nat
  wtype : Nat
  part  : Nat
  arg   : Nat
  start : Nat
  len   : Nat
  deriving DecidableEq, Repr

/-- An armed recovery run (R83). -/
structure Armed where
  line  : Nat
  pen   : Nat
  start : Nat
  deriving DecidableEq, Repr

/-- A command that ends at a later tick (R367, R369, R375, R377, R378). POWER ends when the
power controller has no request left and no bank fills. -/
inductive Waiting
  | activate (mb slot : Nat)
  | quiesce (mb since : Nat)
  | dormant (mb since : Nat)
  | debug (mb since : Nat)
  | detach (mb since : Nat)
  | takeover (mb since : Nat)
  | power (mb : Nat)
  deriving DecidableEq, Repr

/-- The folio engine and the redraft engine: the `FOLIO_` window (R61 to R65, R94 to R97, R245, R273) and what the
engine keeps of the running folio. -/
structure Folio where
  en       : Bool := false
  tsrc     : Nat := 0
  gptpPort : Nat := 0
  period   : Nat := 1000000
  phase    : Nat := 0
  tolNs    : Nat := 0xFA
  missMax  : Nat := 8
  maxPpm   : Nat := 0xC8
  stepLim  : Nat := 10000
  running  : Bool := false
  synced   : Bool := false
  holdover : Bool := false
  actSlot  : Nat := 0
  missed   : Nat := 0
  consecMiss : Nat := 0
  number   : Word := 0
  counted  : Bool := false
  tickTime : Word := 0
  tickCyc  : Nat := 0
  lastLen  : Nat := 0
  minLen   : Nat := 0xFFFFFFFF
  offset   : Word := 0
  lateCnt  : Nat := 0
  event    : BitVec 7 := 0
  swSlot   : Nat := 0
  swArm    : Bool := false
  swAt     : Word := 0
  swSince  : Nat := 0
  lock     : Bool := true
  -- version table access
  vtIdx    : Nat := 0
  vtData0  : Word := 0
  snapHeld : Nat := 0
  superseded : Nat := 0
  pxIdx    : Nat := 0
  pxStage  : Table Word := []
  ptIdx    : Nat := 0
  ptStage  : Table Word := []
  -- redraft engine
  rdCtrl   : Word := 0xA3004031
  rdIdx    : Nat := 0
  rd       : RdState := .idle
  place    : List Placed := []
  rdShed   : Nat := 0
  rdUnprot : Nat := 0
  /-- A placement has taken effect since activation (R97). -/
  rdSeen   : Bool := false
  hwm      : Table (Nat × Nat) := []
  shed     : List Nat := []
  shedDue  : List (Nat × Nat) := []
  -- the running folio
  armed    : List Armed := []
  spent    : List Nat := []
  /-- Runs of this folio whose handover list has been applied: line, and whether it is the recovery run (R51 step 4). -/
  handed   : List (Nat × Bool) := []
  wins     : List Win := []
  gates    : Table Nat := []
  /-- TICK_IN mode: the cycle at which an accepted edge, or a missing one, makes the tick (R35). -/
  edgeAt   : Option Nat := none
  /-- The tick time of the first tick after an activation (R58), and in TICK_IN mode of the tick that an edge makes (R35);
  the counter time of the last PPS edge, and of the choice of the source before one has come (R34). -/
  edgeTick : Nat := 0
  ppsAt    : Nat := 0
  deriving DecidableEq, Repr

/-- A margin log entry (R290, R300). -/
structure Margin where
  cpa   : Nat
  syndrome : Nat
  source : Nat
  repaired : Bool
  count : Nat
  first : Nat
  last  : Nat
  deriving DecidableEq, Repr

/-- A running scrub pass (R291). -/
structure ScrubPass where
  base : Nat
  len  : Nat
  mb   : Option Nat
  /-- The bank's domain has been switched off under it. -/
  cut  : Bool := false
  deriving DecidableEq, Repr

/-- A running march test of an inkwell bank (R295, R372): mailbox, pen, bank and the next row. -/
structure MarchRun where
  mb   : Nat
  pen  : Nat
  bank : Nat
  row  : Nat := 0
  deriving DecidableEq, Repr

/-- The blotter and the margin log: the `BLOT_` window (R300, R301). -/
structure Blot where
  ml       : List Margin := []
  mlIdx    : Nat := 0
  mlOver   : Nat := 0
  mlFull   : Bool := false
  scrBase  : Word := 0
  scrLen   : Word := 0
  poisonUe : Bool := false
  sum0     : Word := 0
  sum1     : Word := 0
  sum2     : Word := 0
  pass     : Option ScrubPass := none
  bgPasses : Nat := 0
  /-- The reservoir at which each blotter port goes on with the ruled scrub (R293). -/
  scrNext  : Table Nat := []
  tested   : Nat := 0
  skipped  : Nat := 0
  skipRun  : Table Nat := []
  /-- Segments skipped in the MARCH window now open, and the march test of an inkwell bank (R295, R296). -/
  skipSeen : List Nat := []
  marching : Option MarchRun := none
  failed   : Bool := false
  failCpa  : Nat := 0
  stopped  : List Nat := []
  ports    : List Nat := []
  waitQ    : List Nat := []
  resilver : List Nat := []
  /-- CPAs of the words that the checker test has injected and the Huvas has not read since (R297). -/
  injected : List Nat := []
  lock     : Bool := true
  deriving DecidableEq, Repr

/-- A rubric entry's state (R415, R417, R429). -/
structure RbClass where
  entry : Word := 0
  count : Nat := 0
  ovf   : Nat := 0
  win   : Nat := 0
  deriving DecidableEq, Repr

/-- A fault event before it is judged (R412). -/
structure Event where
  cls   : Nat
  utype : Nat := 0
  unit  : Nat := 0
  line  : Nat := 0x7FFF
  detail : Nat := 0
  addr  : Nat := 0
  slot  : Option Nat := none
  deriving DecidableEq, Repr

/-- An entry of the fault event queue: four words (R424). -/
structure EqEntry where
  w0 : Word
  w1 : Word
  w2 : Word
  w3 : Word
  deriving DecidableEq, Repr

/-- What firmware still has to carry out for a rubric reaction (R420), or for a running command that the new device state
does not permit or whose bank is gone: its end with a code (R353). -/
inductive FwAct
  | fenceRsv (r : Nat)
  | msix1
  | endCmd (mb code : Nat)
  deriving DecidableEq, Repr

/-- Mailbox states (R349). -/
inductive MbSt
  | idle | queued | running | done
  deriving DecidableEq, Repr

/-- A mailbox (R349, R350). -/
structure Mailbox where
  opcode : BitVec 16 := 0
  token  : BitVec 16 := 0
  st     : MbSt := .idle
  discarded : Bool := false
  code   : Nat := 0
  tokenR : BitVec 16 := 0
  curOp  : Nat := 0
  /-- The cycle of the GO that submitted the command (R352). -/
  goAt   : Nat := 0
  arg    : Table Word := []
  latch  : Table Word := []
  res    : Table Word := []
  deriving DecidableEq, Repr

/-- The Huvas: mailboxes, vote, rubric and event queue (R349, R124, R429). -/
structure Huv where
  mb       : Table Mailbox := []
  foreQ    : List Nat := []
  waiting  : List Waiting := []
  lost     : Bool := false
  fwRejects : Nat := 0
  fwVersion : Word := 0
  fwHash   : BitVec 384 := 0
  testing  : Bool := false
  nibIn    : BitVec 3 := 7
  lostVote : Bool := false
  reintCnt : Nat := 0
  lastOut  : Nat := 0
  disagree : Nat := 0
  checked  : Bool := false
  /-- The nib that is out has passed its check and waits for resynchronisation, or has failed it (R118). -/
  nibReady : Bool := false
  nibFailed : Bool := false
  reintEn  : Bool := true
  reintMax : Nat := 3
  rb       : Table RbClass := []
  rbIdx    : Nat := 0
  rbLock   : Bool := true
  eq       : List EqEntry := []
  eqOver   : Bool := false
  nextSeq  : Nat := 0
  vec1Armed : Bool := true
  fw       : List FwAct := []
  /-- The abortable foreground command that is RUNNING between its steps: mailbox and steps done (R351 to R353). -/
  prog     : Option (Nat × Nat) := none
  deriving DecidableEq, Repr

/-- A message of a queue pair in progress (R336, R337). TO_HOST: the channel, its slot, the fair frame and the commit
that the window took, the elements to gather, the gathered bytes. TO_PART: `desc` is the channel set; the bytes
delivered, a POINTER buffer still to
be read, whether a read is outstanding, the status of a message that is being passed over, and the slots it writes. -/
structure QMsg where
  msgSeq : Nat := 0
  first  : Nat := 0
  posted : Nat := 0
  frame  : Nat := 0
  slot   : Nat := 0
  desc   : Nat := 0
  elems  : Nat := 0
  commit : Nat × Nat := (0, 0)
  bytes  : Option (List Byte) := none
  len    : Nat := 0
  reading : Bool := false
  ptr    : Option (Nat × Nat) := none
  asked  : Nat := 0
  bad    : Nat := 0
  pages  : List Nat := []
  /-- `FOLIO_NUMBER` of the folio of the window that served it last (R333). -/
  folio  : Word := 0
  deriving DecidableEq, Repr

/-- A queue pair: its context words, indices and counters (R331, R334, R347, R340). -/
structure Queue where
  w0 : Word := 0
  w1 : Word := 0
  w2 : Word := 0
  dHead : Nat := 0
  dTail : Nat := 0
  sHead : Nat := 0
  sTail : Nat := 0
  lost  : Nat := 0
  seq   : Nat := 0
  mod   : Nat := 0
  modAt : Word := 0
  msgs  : List QMsg := []
  deriving DecidableEq, Repr

/-- An MSI-X table entry with its pending bit (R329, R339). -/
structure MsixEntry where
  addr : Word := 0
  data : BitVec 32 := 0
  ctrl : BitVec 32 := 1
  pend : Bool := false
  deriving DecidableEq, Repr

/-- A selective IDE stream (R344): in use, its key set, a key set for which a key has been programmed, and a K_SET_GO that
waits for a TLP boundary. -/
structure Ide where
  enabled : Bool := false
  keySet  : Bool := false
  staged  : Option Bool := none
  go      : Bool := false
  /-- The RID association and the two address associations, each a first and a last value (R344). -/
  rid     : Option (Nat × Nat) := none
  assoc0  : Option (Nat × Nat) := none
  assoc1  : Option (Nat × Nat) := none
  deriving DecidableEq, Repr

/-- Advanced Error Reporting (R322, R326): the errors logged, the first of them, and its header and prefix log. -/
structure Aer where
  logged : List AerError := []
  first  : Option AerError := none
  header : Word × Word := (0, 0)
  tlpPrefix : Word := 0
  deriving DecidableEq, Repr

/-- The arbiter of the outbound link (R341): the shares of the round, bytes used in it by each group, the queue that each
group served last, and the group that took link time last. -/
structure Arb where
  share : Table Nat := []
  used  : Table Nat := []
  turn  : Table Nat := []
  last  : Nat := 0
  deriving DecidableEq, Repr

/-- A data object type of the DOE instance (R345). -/
inductive DoeType
  | discovery
  | cma
  | securedCma
  | ideKm
  deriving DecidableEq, Repr

/-- What a DOE answer holds (R345): a data object type with the next index, the SPDM versions (minor in the low digit),
the asymmetric algorithm's and the hash's width, a digest of slot 0's chain, the chain with the serial number of its leaf,
a measurement, or a signature. -/
inductive DoeBody
  | none
  | types (t : DoeType) (next : Nat)
  | versions (l : List Nat)
  | algorithms (ecdsa sha : Nat)
  | digest (d : BitVec 384)
  | certificate (serial : Word) (chain : List Byte)
  | measurement (m : BitVec 384)
  | signature (bytes : List Byte)
  deriving DecidableEq, Repr

/-- The answer that the DOE mailbox holds (R345): the request, whether it was accepted, and what it
holds. -/
structure DoeReply where
  req      : DoeReq
  accepted : Bool
  body     : DoeBody := .none
  deriving DecidableEq, Repr

/-- The host interface: link, configuration space, BAR0 contents, queues (R322 to R348). -/
structure Hif where
  speed : Nat := 0
  width : Nat := 0
  flit  : Bool := false
  up    : Bool := false
  d3    : Bool := false
  event : BitVec 6 := 0
  qps   : Table Queue := []
  qpIdx : Nat := 0
  qpStage : Table Word := []
  share : Table Nat := []
  cntDb : Nat := 0
  cntUr : Nat := 0
  cntTrunc : Nat := 0
  cntStat : Nat := 0
  cntLost : Nat := 0
  lock  : Bool := true
  msix  : Table MsixEntry := []
  msixEn : Bool := false
  funcMask : Bool := false
  busMaster : Bool := false
  memSpace : Bool := false
  ecrcGen : Bool := false
  ecrcChk : Bool := false
  ctoRange : BitVec 4 := 0
  bars  : Table (BitVec 32) := []
  ide   : Table Ide := []
  doe   : Option DoeReply := none
  /-- SPDM session: 0 none, 1 keys exchanged, 2 secure (R345). -/
  session : Nat := 0
  aer   : Aer := {}
  arb   : Arb := {}
  /-- Max Payload Size and Max Read Request Size as programmed, 128 bytes × 2^code (R322). -/
  maxPay : Nat := 0
  maxRead : Nat := 2
  winK  : Option Nat := none
  deriving DecidableEq, Repr

/-- A channel set in the descriptor store (R379, R408). -/
structure ChanSet where
  part  : Nat := 0
  count : Nat := 0
  first : Nat := 0
  valid : Bool := false
  deriving DecidableEq, Repr

/-- A descriptor of the descriptor store and its publication status (R380, R388, R408). -/
structure Desc where
  words  : List Word := [0, 0, 0, 0, 0, 0, 0, 0]
  status : Nat := 0
  stFolio : Nat := 0
  errCnt : Nat := 0
  newStatus : Option (Nat × Nat) := none
  sentFolio : Option Word := none
  deriving DecidableEq, Repr

/-- Elimination state of an 802.1CB receive channel (R395). -/
structure CbState where
  seen : Bool := false
  last : Nat := 0
  hist : List Nat := []
  at_  : Word := 0
  deriving DecidableEq, Repr

/-- What a receive or sample record holds besides its TIME (R389, R405, R406): a frame's header words and data, or a
sample channel's words. -/
inductive RxBody
  | frame (w8 w16 : Word) (data : List Byte)
  | sample (unit : Nat) (ws : List Word)
  deriving DecidableEq, Repr

/-- A receive or sample record waiting to be written into its INPUT draft (R389, R390, R405, R406): its descriptor, its
TIME and the tick time before which it may not be written. -/
structure RxRec where
  desc : Nat
  time : Word
  notBefore : Word
  body : RxBody
  deriving DecidableEq, Repr

/-- The feed engine: the `FEED_` window, channel sets, submission words, record messages (R386, R408). -/
structure Feed where
  csIdx : Nat := 0
  sets  : Table ChanSet := []
  descIdx : Nat := 0
  descs : Table Desc := []
  stage : Table Word := []
  subPart : Nat := 0
  subReq : Table Word := []
  subStat : Table Word := []
  samples : Table Nat := []
  rxBand : Nat := 0
  rxq   : List RxRec := []
  /-- INPUT drafts of messages that link loss has ended, discarded at the next tick (R342). -/
  dropNext : List Nat := []
  cb    : Table CbState := []
  newCnt : Table Nat := []
  /-- NEW as the last snapshot showed it (R389). -/
  shown : Table Nat := []
  portWords : List Word := []
  portSet : Bool := false
  rr    : Table Nat := []
  lock  : Bool := true
  deriving DecidableEq, Repr

/-- A frame in a MAC transmit queue (R393). -/
structure EthTx where
  tc    : Nat
  bytes : List Byte
  desc  : Nat
  folio : Word
  deriving DecidableEq, Repr

/-- A MAC: its `ETH_` window, transmit queues and gPTP instance (R392 to R395, R409). -/
structure Mac where
  ctrl   : Word := 0
  link   : Bool := false
  ptpSync : Bool := false
  phyDly : Word := 0
  ptpCfg : Word := 0x10000
  pathNs : Nat := 0
  cbCfg  : Word := 0x64
  cntTx  : Nat := 0
  cntRx  : Nat := 0
  dropFcs : Nat := 0
  dropMatch : Nat := 0
  dropFormat : Nat := 0
  dropCb : Nat := 0
  notSent : Nat := 0
  event  : BitVec 3 := 0
  lock   : Bool := true
  txq    : List EthTx := []
  reqOut : Bool := false
  /-- Counter time from which the next Pdelay_Req is sent (R394). -/
  reqAt  : Nat := 0
  /-- Counter time of the last valid Sync, and the log2 of the sync interval in seconds that it carried (R34). -/
  syncAt : Nat := 0
  syncLog : BitVec 8 := 0xFD
  deriving DecidableEq, Repr

/-- A CAN FD transmit buffer (R400). -/
structure CanTx where
  frame : CanFrame
  desc  : Nat
  deriving DecidableEq, Repr

/-- A CAN FD controller with its `CAN_` window (R399 to R401, R410). -/
structure Can where
  ctrl   : Word := 0x20
  nbt    : Word := 0x1F1F7E00
  dbt    : Word := 0x89091C00
  st     : Nat := 3
  tec    : Nat := 0
  recv   : Nat := 0
  cntTx  : Nat := 0
  cntRx  : Nat := 0
  cntNot : Nat := 0
  cntDrop : Nat := 0
  event  : BitVec 4 := 0
  lock   : Bool := true
  txq    : List CanTx := []
  restrict : Bool := false
  deriving DecidableEq, Repr

/-- The GPIO block (R402 to R405, R411). -/
structure Gpio where
  level  : Word := 0
  outReg : Word := 0
  safe   : Word := 0
  pol    : Word := 0
  filt   : Word := 4
  rbDly  : Word := 0x5DC
  rbErr  : Word := 0
  lock   : Bool := true
  /-- Pins whose output register changed, with the cycle of the change, until their readback (R404); the tick time that
  the last folio-edge capture preceded (R405). -/
  changed : List (Nat × Nat) := []
  capFor  : Nat := 0
  deriving DecidableEq, Repr

/-- Tracing partner states (R320). -/
inductive TrcSt
  | detached | resync | current | stale | lost
  deriving DecidableEq, Repr

/-- A trace list entry (R304, R321). -/
structure TrcEntry where
  data0 : Word := 0
  data1 : Word := 0
  deriving DecidableEq, Repr

/-- One digest of a twin's folio (R316). -/
structure Digest where
  slot : Nat
  seq  : Nat
  crc  : Nat
  deriving DecidableEq, Repr

/-- A twin's digests of one folio (R316, R317). -/
structure DigestSet where
  folio : Word
  slot  : Nat
  done  : Bool
  incomplete : Bool
  list  : List Digest
  deriving DecidableEq, Repr

/-- A unit that a TRACE window in progress has taken: a PAGE, a SLOT with its leaf word and with its fair frame and
COMMIT_SEQ at that moment (R305), or a unit of the sweep (R312). -/
inductive TrcUnit
  | page (cpa : Nat)
  | slot (n leaf frame seq : Nat)
  | sweepSlot (n : Nat)
  | sweepPage (cpa : Nat)
  deriving DecidableEq, Repr

/-- A TRACE window in progress in which the part sends (R309, R316): its units, what its END or last DIGEST says, the
folio cycle at which its last record is out, the slots that have committed since it opened, and those of them whose former
fair frame a first write has reached (R78). -/
structure TrcSend where
  digest : Bool
  units  : List TrcUnit
  inc    : Bool
  resync : Bool
  done   : Bool
  endAt  : Nat
  again  : List Nat := []
  gone   : List Nat := []
  deriving DecidableEq, Repr

/-- The tracing engine: the `TRC_` window and a receiver's open window (R302 to R321). -/
structure Trc where
  mode   : Nat := 0
  pct    : Nat := 0
  peer   : Word := 0
  wd     : Nat := 0x9C40
  peerCfg : Nat := 0
  st     : TrcSt := .detached
  peerDebug : Bool := false
  lastEnd : Word := 0
  cursor : Nat := 0
  units  : Nat := 0
  incompl : Nat := 0
  event  : BitVec 6 := 0
  listIdx : Nat := 0
  stage0 : Word := 0
  list   : Table TrcEntry := []
  lock   : Bool := true
  txSeq  : Nat := 0
  rxSeq  : Nat := 0
  winOpen : Bool := false
  winUnits : Nat := 0
  winSlots : List (Nat × Nat) := []
  ignore : Bool := false
  /-- TRACE windows whose answer is still owed, by folio, and the watchdogs that run: folio and expiry cycle (R314). -/
  await  : List Word := []
  /-- Folio of the END with RESYNC_DONE that has not been acknowledged yet (R312). -/
  doneAt : Option Word := none
  watch  : List (Word × Nat) := []
  mine   : Option DigestSet := none
  theirs : Option DigestSet := none
  offNext : Bool := false
  takeAt : Option Nat := none
  startAt : Option Nat := none
  stopped : Bool := false
  adopt  : Option (Word × Nat) := none
  /-- The sending window in progress, and the folio of the last END, ACK or DIGEST received (R309, R314). -/
  send   : Option TrcSend := none
  got    : Option Word := none
  deriving DecidableEq, Repr

/-- The power controller: the `PWR_` window (R449) and the domain request queue (R440). -/
structure Pwr where
  penOn   : Word := BitVec.ofNat 64 (2 ^ 64 - 1)
  otherOn : Word := 0xFFFFFF
  reqPen  : Word := BitVec.ofNat 64 (2 ^ 64 - 1)
  reqOther : Word := 0x7FFFFF
  queue   : List (Domain × Bool) := []
  avsCfg  : Word := 0x08281403520258
  target  : Nat := 800
  request : Option Nat := none
  repeated : Bool := false
  readback : Nat := 0
  active  : Bool := false
  errCnt  : Nat := 0
  margin  : Nat := 0
  hiRun   : Nat := 0
  loRun   : Nat := 0
  inRange : BitVec 4 := 0
  selfFail : BitVec 5 := 0
  tempOver : Bool := false
  event   : BitVec 8 := 0
  lock    : Bool := true
  /-- PWR_EN ball, SYSCLK and the core PLLs good, the main reset held by RESET_N, fuse words read. -/
  pwrEn   : Bool := true
  clkGood : Bool := true
  resetN  : Bool := false
  fuseDone : Bool := false
  fuseHold : Bool := false
  deriving DecidableEq, Repr

/-- The always-on block: the `AON_` window and the counter (R441, R450). -/
structure Aon where
  time   : Word := 0
  frac   : Nat := 0
  steer  : Int := 0
  trim   : Int := 0
  valid  : Bool := false
  xtalOk : Bool := false
  edge   : Nat := 0
  longs  : Nat := 0
  trimAcc : Int := 0
  wakeCfg : Word := 0x0A70
  wakeLevel : BitVec 3 := 0
  tempCfg : Word := 0x591
  tj     : BitVec 16 := 0
  rst    : BitVec 11 := 1
  /-- `AON_CTRL.ENTER` has been written and Dormant has not been entered yet (R444). -/
  enter  : Bool := false
  lock   : Bool := true
  deriving DecidableEq, Repr

/-- What leaves the part (the model's own record of it, newest last). -/
inductive Out
  | hostWrite (addr : Nat) (ws : List Word) (stream : Option Nat)
  | hostRead (addr len : Nat) (stream : Option Nat)
  | completion (ok : Bool) (w : Word)
  | msix (vector : Nat)
  | ethFrame (mac : Nat) (bytes : List Byte)
  | pdelay (mac : Nat) (resp : Bool)
  | canFrame (c : Nat) (f : CanFrame)
  | record (addr : Nat) (ws : List Word) (stream : Option Nat)
  | avsWrite (mv : Nat)
  deriving DecidableEq, Repr

/-- The whole part. `pending` is the queue of waiting commands, first in, first out; `free` counts free values taken;
`out` records what left the part. -/
structure State where
  pending : List Instr := []
  free    : Nat := 0
  out     : List Out := []
  cyc     : Nat := 0
  dev     : DevState := .off
  /-- The first ACTIVATE of this power-up has happened (R402). -/
  activated : Bool := false
  folio   : Folio := {}
  rul     : Rul := {}
  vt      : Table VSlot := []
  px      : Table (List Word) := []
  pt      : Table (List Word) := []
  parts   : Table PartSet := []
  pens    : Table Pen := []
  ipiFly  : List IpiFly := []
  flight  : List Flight := []
  mem     : Table Code := []
  rsv     : Table Rsv := []
  blot    : Blot := {}
  feed    : Feed := {}
  trc     : Trc := {}
  hif     : Hif := {}
  huv     : Huv := {}
  pwr     : Pwr := {}
  aon     : Aon := {}
  macs    : Table Mac := []
  cans    : Table Can := []
  gpio    : Gpio := {}
  deriving DecidableEq, Repr

/-- The part right after VAON power-on: nothing but the always-on domain is powered, every register holds its Reset
value (R14, R28, R446). -/
def State.reset : State := {}

end Sys2Proof.Machine
end

