-- ==== Sys2Proof/Machine/Codeword.lean ====
section
/-! DEFINITION. The stored codeword: columns, check byte, syndrome and its outcomes (R283 to R285), and CRC-32C, the
CRC of ruling images, tracing records and BLKCRC. -/

namespace Sys2Proof.Machine

/-- Columns of weight 3, for the data bits 0 to 55 (R284). -/
def colsLow : List Nat :=
  [0x07, 0x0B, 0x0D, 0x0E, 0x13, 0x15, 0x16, 0x19, 0x1A, 0x1C, 0x23, 0x25, 0x26, 0x29] ++
  [0x2A, 0x2C, 0x31, 0x32, 0x34, 0x38, 0x43, 0x45, 0x46, 0x49, 0x4A, 0x4C, 0x51, 0x52] ++
  [0x54, 0x58, 0x61, 0x62, 0x64, 0x68, 0x70, 0x83, 0x85, 0x86, 0x89, 0x8A, 0x8C, 0x91] ++
  [0x92, 0x94, 0x98, 0xA1, 0xA2, 0xA4, 0xA8, 0xB0, 0xC1, 0xC2, 0xC4, 0xC8, 0xD0, 0xE0]

/-- Columns of weight 5, for the data bits 56 to 68 (R284). -/
def colsHigh : List Nat :=
  [0x1F, 0x2F, 0x37, 0x3B, 0x3D, 0x3E, 0x4F, 0x57, 0x5B, 0x5D, 0x5E, 0x67, 0x6B]

/-- The columns col(0) to col(68). -/
def columns : List Nat := colsLow ++ colsHigh

/-- XOR of the columns of the set bits of a number. -/
def checkGo : List Nat → Nat → Nat → Nat
  | [], _, acc => acc
  | c :: cs, d, acc => checkGo cs (d / 2) (if d % 2 = 1 then acc ^^^ c else acc)

/-- The check byte of payload, tag and fold (R284). -/
def checkByte (fold : Bool) (tag : Nat) (val : Nat) : Nat :=
  checkGo columns (val + tag * 2 ^ 64 + bitN fold * 2 ^ 68) 0

/-- The codeword of a tagged word (R283). -/
def encodeCode (fold : Bool) (w : TWord) : Code :=
  BitVec.ofNat 76 (w.val.toNat + w.tag.toNat * 2 ^ 64 + checkByte fold w.tag.toNat w.val.toNat * 2 ^ 68)

def codeVal (c : Code) : Word := c.setWidth 64
def codeTag (c : Code) : Tag := BitVec.ofNat 4 (c.toNat / 2 ^ 64)
def codeCheck (c : Code) : Nat := c.toNat / 2 ^ 68 % 256
def codeWord (c : Code) : TWord := ⟨codeTag c, codeVal c⟩

/-- The syndrome of a read (R284). -/
def syndrome (fold : Bool) (c : Code) : Nat := codeCheck c ^^^ checkByte fold (codeTag c).toNat (codeVal c).toNat

/-- The outcome of a read (R285). -/
inductive Judged
  | clean (w : TWord)
  | corrected (w : TWord) (syn : Nat)
  | uncorrectable (syn : Nat)
  | address
  deriving DecidableEq, Repr

/-- The index of a syndrome among the columns of the stored data bits. -/
def colIndex (syn : Nat) : Option Nat := (columns.take 68).findIdx? (fun c => c = syn)

/-- Judge a stored word by its syndrome (R285). -/
def judge (fold : Bool) (c : Code) : Judged :=
  let s := syndrome fold c
  if s = 0 then .clean (codeWord c)
  else if weightN 8 s = 1 then .corrected (codeWord c) s
  else match colIndex s with
    | some i =>
      let c' : Code := c ^^^ BitVec.ofNat 76 (2 ^ i)
      .corrected (codeWord c') s
    | none => if s = 0x6B then .address else .uncorrectable s

/-- The word a judged read delivers, if any. -/
def Judged.word? : Judged → Option TWord
  | .clean w => some w
  | .corrected w _ => some w
  | .uncorrectable _ => none
  | .address => none

/-- The address fold of a word: XOR of bits 47:3 of its CPA (R283). -/
def cpaFold (cpa : Nat) : Bool := parityN 45 (cpa / 8)

/-- What an unlisted word of a bank holds: the codeword that the fill wrote (R288). Indexed by CPA div 8. -/
def fillCode (k : Nat) : Code := encodeCode (parityN 45 k) TWord.uninit

/-- What an unlisted word of the ruling store holds: the fill's word, the fold taken from the store index (R39, R288). -/
def fillStore (i : Nat) : Code := encodeCode (parityN 18 i) TWord.uninit

/-! ### CRC-32C -/

/-- One bit of the reflected CRC with polynomial 0x1EDC6F41. -/
def crcBits : Nat → Nat → Nat
  | 0, c => c
  | n + 1, c => crcBits n (if c % 2 = 1 then (c / 2) ^^^ 0x82F63B78 else c / 2)

/-- Take one byte into a CRC-32C state. -/
def crcByte (c b : Nat) : Nat := crcBits 8 (c ^^^ b)

/-- Take the low `n` bytes of a word into a CRC-32C state, least significant first. -/
def crcWordN : Nat → Nat → Nat → Nat
  | 0, c, _ => c
  | n + 1, c, w => crcWordN n (crcByte c (w % 256)) (w / 256)

/-- CRC-32C (Castagnoli) over words, eight bytes each (R40). -/
def crc32c (ws : List Word) : Nat := (ws.foldl (fun c w => crcWordN 8 c w.toNat) 0xFFFFFFFF) ^^^ 0xFFFFFFFF

/-- CRC-32C over bytes. -/
def crc32cBytes (bs : List Byte) : Nat := (bs.foldl (fun c b => crcByte c b.toNat) 0xFFFFFFFF) ^^^ 0xFFFFFFFF

end Sys2Proof.Machine
end

