-- ==== Sys2Proof/Machine/Ops.lean ====
section
/-! DEFINITION. Named reads and updates of the state's parts, the lines of the active ruling, the folio clock, power
domains and what leaves the part towards the host. -/

namespace Sys2Proof.Machine

/-- The outcome of a command whose effect is `t`. -/
abbrev answer (t : State) : Host.Outcome State Fault Refusal := .next t

/-- A command that is due has its effect; one that is not due changes nothing (assumption log 1). -/
def guarded (due : Bool) (s : State) (f : State → State) : Host.Outcome State Fault Refusal :=
  .next (if due then f s else s)

/-! ### Parts of the state -/

def State.pen (s : State) (n : Nat) : Pen := Table.get (fun _ => {}) s.pens n
def State.setPen (s : State) (n : Nat) (p : Pen) : State := { s with pens := Table.set (fun _ => {}) s.pens n p }
def State.modPen (s : State) (n : Nat) (f : Pen → Pen) : State := s.setPen n (f (s.pen n))

def State.rsvOf (s : State) (r : Nat) : Rsv := Table.get (fun _ => {}) s.rsv r
def State.modRsv (s : State) (r : Nat) (f : Rsv → Rsv) : State :=
  { s with rsv := Table.set (fun _ => {}) s.rsv r (f (s.rsvOf r)) }

def State.vslot (s : State) (n : Nat) : VSlot := Table.get (fun _ => {}) s.vt n
def State.modVslot (s : State) (n : Nat) (f : VSlot → VSlot) : State :=
  { s with vt := Table.set (fun _ => {}) s.vt n (f (s.vslot n)) }

def State.partOf (s : State) (p : Nat) : PartSet := Table.get (fun _ => {}) s.parts p

/-- Word `i` of a partition's exception record (R244). -/
def State.pxWord (s : State) (p i : Nat) : Word := (Table.get (fun _ => []) s.px p).getD i 0
/-- Word `i` of a partition's translation record (R252). -/
def State.ptWord (s : State) (p i : Nat) : Word := (Table.get (fun _ => []) s.pt p).getD i 0

def State.slotOf (s : State) (k : Nat) : RulSlot := Table.get (fun _ => {}) s.rul.slots k
def State.modSlot (s : State) (k : Nat) (f : RulSlot → RulSlot) : State :=
  { s with rul := { s.rul with slots := Table.set (fun _ => {}) s.rul.slots k (f (s.slotOf k)) } }

def State.queue (s : State) (q : Nat) : Queue := Table.get (fun _ => {}) s.hif.qps q
def State.modQueue (s : State) (q : Nat) (f : Queue → Queue) : State :=
  { s with hif := { s.hif with qps := Table.set (fun _ => {}) s.hif.qps q (f (s.queue q)) } }

def State.msixOf (s : State) (v : Nat) : MsixEntry := Table.get (fun _ => {}) s.hif.msix v
def State.modMsix (s : State) (v : Nat) (f : MsixEntry → MsixEntry) : State :=
  { s with hif := { s.hif with msix := Table.set (fun _ => {}) s.hif.msix v (f (s.msixOf v)) } }

def State.mbox (s : State) (m : Nat) : Mailbox := Table.get (fun _ => {}) s.huv.mb m
def State.modMbox (s : State) (m : Nat) (f : Mailbox → Mailbox) : State :=
  { s with huv := { s.huv with mb := Table.set (fun _ => {}) s.huv.mb m (f (s.mbox m)) } }

def State.chanSet (s : State) (k : Nat) : ChanSet := Table.get (fun _ => {}) s.feed.sets k
def State.desc (s : State) (d : Nat) : Desc := Table.get (fun _ => {}) s.feed.descs d
def State.modDesc (s : State) (d : Nat) (f : Desc → Desc) : State :=
  { s with feed := { s.feed with descs := Table.set (fun _ => {}) s.feed.descs d (f (s.desc d)) } }

def State.mac (s : State) (m : Nat) : Mac := Table.get (fun _ => {}) s.macs m
def State.modMac (s : State) (m : Nat) (f : Mac → Mac) : State :=
  { s with macs := Table.set (fun _ => {}) s.macs m (f (s.mac m)) }

def State.can (s : State) (c : Nat) : Can := Table.get (fun _ => {}) s.cans c
def State.modCan (s : State) (c : Nat) (f : Can → Can) : State :=
  { s with cans := Table.set (fun _ => {}) s.cans c (f (s.can c)) }

/-- Append to the model's record of what left the part. -/
def State.emit (s : State) (o : Out) : State := { s with out := s.out ++ [o] }

/-- Apply an update once per element of a list, in order. -/
def State.forAll {α : Type} (l : List α) (f : α → State → State) (s : State) : State :=
  l.foldl (fun t a => f a t) s

/-- The numbers `0` to `n - 1`. -/
def upTo (n : Nat) : List Nat := List.range n

/-! ### Free values -/

/-- A free word and the state after taking it. -/
def State.takeFree (s : State) : Word × State := (Config.freeWord s.free, { s with free := s.free + 1 })

/-! ### Pens, pairs and domains -/

def evenOf (p : Nat) : Nat := p / 2 * 2
def oddOf (p : Nat) : Nat := p / 2 * 2 + 1
def otherOf (p : Nat) : Nat := if p % 2 = 0 then p + 1 else p - 1

/-- Out of service (R104): STOPPED, TEST_WAIT, TEST, RESILVER or FENCED. -/
def PenSt.out : PenSt → Bool
  | .off | .idle | .run => false
  | .stopped | .testWait | .test | .resilver | .fenced => true

/-- The code of a pen state (R104). -/
def PenSt.code : PenSt → Nat
  | .off => 0 | .idle => 1 | .run => 2 | .stopped => 3 | .testWait => 4 | .test => 5 | .resilver => 6 | .fenced => 7

/-- In service: the pen may run lines. -/
def State.inService (s : State) (p : Nat) : Bool :=
  match (s.pen p).st with
  | .idle | .run => true
  | _ => false

/-- Out for the redraft engine (R89): out of service or switched off. -/
def State.redraftOut (s : State) (p : Nat) : Bool := (s.pen p).st.out || (s.pen p).st = .off

/-- The pens whose state passes a test, as a 64-bit mask (R96). -/
def State.penMask (s : State) (f : Pen → Bool) : Word :=
  (upTo 64).foldl (fun w n => if f (s.pen n) then w ||| BitVec.ofNat 64 (2 ^ n) else w) 0

/-- The pair has mirrored pages (R105). -/
def State.hasMirror (s : State) (p : Nat) : Bool :=
  let e := s.pen (evenOf p)
  e.mirror0 ≠ 0 || e.mirror1 ≠ 0

/-- The pair's mirror state, held at the even pen (R112). -/
def State.mirrorOf (s : State) (p : Nat) : Mirror := (s.pen (evenOf p)).mirror
def State.setMirror (s : State) (p : Nat) (m : Mirror) : State := s.modPen (evenOf p) (fun e => { e with mirror := m })

/-- The copy of pen `p` is valid (R112). -/
def State.copyValid (s : State) (p : Nat) : Bool :=
  match s.mirrorOf p with
  | .mirrored => true
  | .soleEven => p % 2 = 0
  | .soleOdd => p % 2 = 1
  | .lost _ => false

/-- The pair becomes SOLE for pen `p`, if it has mirrored pages and is MIRRORED (R112). -/
def State.soleFor (s : State) (p : Nat) : State :=
  if s.hasMirror p && s.mirrorOf p = .mirrored then
    s.setMirror p (if p % 2 = 0 then .soleEven else .soleOdd)
  else s

def State.penOn (s : State) (n : Nat) : Bool := bitAt s.pwr.penOn n
def State.rsvOn (s : State) (r : Nat) : Bool := bitAt s.pwr.otherOn (r / 2)
def State.macOn (s : State) (m : Nat) : Bool := bitAt s.pwr.otherOn (16 + m)
def State.canOn (s : State) : Bool := bitAt s.pwr.otherOn 20
def State.blotOn (s : State) : Bool := bitAt s.pwr.otherOn 21
def State.secOn (s : State) : Bool := bitAt s.pwr.otherOn 22
def State.pcieOn (s : State) : Bool := bitAt s.pwr.otherOn 23

/-- The Huvas firmware can act: it runs and has not stopped (R117). -/
def State.huvasUp (s : State) : Bool :=
  !s.huv.lost && (match s.dev with
    | .boot | .loaded | .run | .safe | .debug => true
    | .off | .dormant | .fill => false)

/-! ### The folio clock -/

/-- Nominal folio length F (R36). -/
def nominalF (p : Nat) : Nat := p * 3 / 2
/-- Usable folio length U (R36). -/
def usableU (p : Nat) : Nat := nominalF p - (nominalF p + 1599) / 1600

/-- Current cycle offset in the folio, 0 while folios do not run (R64). -/
def State.folioCyc (s : State) : Nat := if s.folio.running then s.cyc - s.folio.tickCyc else 0

/-- The low 16 bits of `FOLIO_NUMBER`. -/
def State.folio16 (s : State) : Nat := s.folio.number.toNat % 65536

/-- The first tick instant at or after a counter time (R30). -/
def State.tickAtOrAfter (s : State) (t : Nat) : Nat :=
  let p := s.folio.period
  let ph := s.folio.phase
  if p = 0 then t else if t ≤ ph then ph else ph + (t - ph + p - 1) / p * p

/-- The first tick instant after the present counter reading (R30). -/
def State.tickAhead (s : State) : Nat := s.tickAtOrAfter (s.aon.time.toNat + 1)

/-- The next tick instant (R30): the first after the current folio's tick time; between activation and the first folio the
one that followed the activation (R58); while folios are not enabled, the first after the present counter reading. -/
def State.nextTick (s : State) : Nat :=
  if s.folio.running then s.tickAtOrAfter (s.folio.tickTime.toNat + 1)
  else if s.folio.en then s.folio.edgeTick
  else s.tickAhead

/-- Nanoseconds that a number of core cycles takes, rounded up. -/
def cycToNs (c : Nat) : Nat := (2 * c + 2) / 3

/-- A slew rate within the permitted one (R33), in parts per billion. -/
def clipRate (maxPpm : Nat) (r : Int) : Int := max (-(1000 * maxPpm : Nat)) (min (1000 * maxPpm : Nat) r)

/-- The counter's rate after a change of source or of `FOLIO_SLEW`: LOCAL follows the system reference itself (R32), and any
other rate stays within the slew limit (R33). -/
def State.boundSteer (s : State) : State :=
  { s with aon := { s.aon with steer := if s.folio.tsrc = 0 then 0 else clipRate s.folio.maxPpm s.aon.steer } }

/-- The ACTIVE slot becomes VERIFIED when folios are no longer enabled, or LOADED when it met an uncorrectable word
(R38, R39). -/
def State.releaseActive (s : State) : State :=
  s.modSlot s.folio.actSlot (fun r =>
    if r.st = .active then { r with st := if r.spoiled then .loaded else .verified, spoiled := false } else r)

/-- Nanoseconds of 2 to the power of a signed number of seconds. -/
def logNs (k : BitVec 8) : Nat :=
  if 0 ≤ k.toInt then 1000000000 * 2 ^ k.toInt.toNat else 1000000000 / 2 ^ (-k.toInt).toNat

/-- A MAC has a valid Sync within three sync intervals, reckoned from a given time or the last Sync (R34, R409). -/
def State.syncFresh (s : State) (m since : Nat) : Bool :=
  s.aon.time.toNat < max since (s.mac m).syncAt + 3 * logNs (s.mac m).syncLog

/-- `ETH_STATUS.PTP_SYNC` (R409). -/
def State.ptpSynced (s : State) (m : Nat) : Bool := (s.mac m).ptpSync && s.syncFresh m 0

/-- An instant of the counter lies at least 4,096 cyc ahead. -/
def State.farAhead (s : State) (t : Nat) : Bool := s.aon.time.toNat + cycToNs 4096 ≤ t

/-! ### Lines of a ruling -/

/-- A line of a ruling as its four words (R41, R47). -/
structure RLine where
  w0 : Word
  w1 : Word
  w2 : Word
  w3 : Word
  deriving DecidableEq, Repr

def RLine.kind (l : RLine) : Nat := bitsOf l.w0 62 2
def RLine.mode (l : RLine) : Nat := bitsOf l.w0 60 2
def RLine.crit (l : RLine) : Nat := bitsOf l.w0 58 2
def RLine.part (l : RLine) : Nat := bitsOf l.w0 48 8
def RLine.pen (l : RLine) : Nat := bitsOf l.w0 42 6
def RLine.start (l : RLine) : Nat := bitsOf l.w0 0 28
def RLine.seed (l : RLine) : Nat := bitsOf l.w1 48 16
def RLine.task (l : RLine) : Nat := bitsOf l.w1 32 16
def RLine.budget (l : RLine) : Nat := bitsOf l.w1 0 28
def RLine.recEn (l : RLine) : Bool := bitAt l.w2 63
def RLine.recPen (l : RLine) : Nat := bitsOf l.w2 56 6
def RLine.deadline (l : RLine) : Nat := bitsOf l.w2 28 28
def RLine.recStart (l : RLine) : Nat := bitsOf l.w2 0 28
def RLine.rsvUse (l : RLine) : Nat := bitsOf l.w3 32 32
def RLine.hoFirst (l : RLine) : Nat := bitsOf l.w3 18 14
def RLine.hoCount (l : RLine) : Nat := bitsOf l.w3 14 4
def RLine.wtype (l : RLine) : Nat := bitsOf l.w0 58 4
def RLine.unit (l : RLine) : Nat := bitsOf l.w0 42 6
def RLine.arg (l : RLine) : Nat := bitsOf l.w1 32 32
def RLine.len (l : RLine) : Nat := bitsOf l.w1 0 28
def RLine.isTask (l : RLine) : Bool := l.kind = 1
def RLine.isWin (l : RLine) : Bool := l.kind = 2
def RLine.isDuplex (l : RLine) : Bool := l.isTask && l.mode = 0
def RLine.isLig (l : RLine) : Bool := l.isTask && l.mode = 1
def RLine.isRes (l : RLine) : Bool := l.isTask && l.mode = 2

/-- A handover entry (R45). -/
structure Handover where
  rsv    : Nat
  action : Nat
  pen    : Nat
  deriving DecidableEq, Repr

def handoverOf (w : Nat) : Handover := ⟨w % 32, w / 256 % 4, w / 65536 % 128⟩

/-- The base of the handover entries in the ruling store's index. -/
def hoBaseIdx : Nat := 131072

/-- A word of the ruling store as its codeword is judged (R39); an unlisted index holds what the fill left. -/
def State.storeJudged (s : State) (i : Nat) : Judged := judge (parityN 18 i) (Table.get fillStore s.rul.store i)

/-- A store word can be read. -/
def State.storeGood (s : State) (i : Nat) : Bool := (s.storeJudged i).word?.isSome

/-- Payload of a store word, corrected where its codeword allows it (R39). -/
def State.storePayload (s : State) (i : Nat) : Word :=
  match s.storeJudged i with
  | .clean w | .corrected w _ => w.val
  | .uncorrectable _ | .address => codeVal (Table.get fillStore s.rul.store i)

def State.storeLine (s : State) (e : Nat) : RLine :=
  ⟨s.storePayload (4 * e), s.storePayload (4 * e + 1), s.storePayload (4 * e + 2), s.storePayload (4 * e + 3)⟩

/-- Line `i` of a resident ruling. -/
def State.lineOf (s : State) (r : RulSlot) (i : Nat) : RLine := s.storeLine (r.lineBase + i)

/-- Handover entry `k` of a resident ruling. -/
def State.hoOf (s : State) (r : RulSlot) (k : Nat) : Nat :=
  (s.storePayload (hoBaseIdx + r.hoBase + k)).toNat % 2 ^ 32

/-- The active slot's record. -/
def State.active (s : State) : RulSlot := s.slotOf s.folio.actSlot

/-- Line `i` of the active ruling, if there is one. -/
def State.line (s : State) (i : Nat) : Option RLine :=
  if i < s.active.lines then some (s.lineOf s.active i) else none

/-- All lines of a resident ruling with their indices. -/
def State.linesOf (s : State) (r : RulSlot) : List (Nat × RLine) := (upTo r.lines).map (fun i => (i, s.lineOf r i))

/-- The handover entries of a line's list. -/
def State.handovers (s : State) (r : RulSlot) (l : RLine) : List Handover :=
  (upTo l.hoCount).map (fun k => handoverOf (s.hoOf r (l.hoFirst + k)))

/-- The placement of line `i` under the ruled values (R97). -/
def ruledPlace (i : Nat) (l : RLine) : Placed :=
  { line := i, how := .ruled, pen := l.pen, start := l.start, budget := l.budget, recPen := l.recPen,
    recStart := l.recStart, recValid := l.recEn }

/-- The current placement of line `i` (R92, R97). -/
def State.placeOf (s : State) (i : Nat) (l : RLine) : Placed :=
  match s.folio.place.find? (fun p => p.line = i) with
  | some p => p
  | none => ruledPlace i l

/-- `INIT_OWNER` of a reservoir in a ruling header (R40). -/
def initOwner (h : List Word) (r : Nat) : Nat := bitsOf (h.getD (4 + r / 8) 0) (8 * (r % 8)) 7
/-- `INIT_GRANT` of a reservoir in a ruling header (R40). -/
def initGrant (h : List Word) (r : Nat) : Word := h.getD (8 + r) 0

/-- A ruling uses a reservoir: in `INIT_OWNER`, in a line's RSV_USE, in a handover entry or in a MARCH mask (R279). -/
def State.rulingUsesRsv (s : State) (k r : Nat) : Bool :=
  let sl := s.slotOf k
  initOwner sl.header r ≠ 0x40 ||
  (s.linesOf sl).any (fun e => (e.2.isTask && e.2.rsvUse.testBit r) || (e.2.isWin && e.2.wtype = 4 && e.2.arg.testBit r)) ||
  (upTo sl.hos).any (fun j => (handoverOf (s.hoOf sl j)).rsv = r)

/-! ### Towards the host -/

/-- The part can issue requests: link up, D0, bus mastering on. -/
def State.linkOk (s : State) : Bool := s.hif.up && !s.hif.d3 && s.hif.busMaster

/-- The IDE stream in which an outbound TLP travels: an enabled one whose address association covers its destination
(R344). -/
def State.ideStream (s : State) (addr : Nat) : Option Nat :=
  (upTo 4).find? (fun i =>
    let e := Table.get (fun _ => ({} : Ide)) s.hif.ide i
    let covers (a : Option (Nat × Nat)) : Bool := match a with
      | some (b, l) => b ≤ addr && addr ≤ l
      | none => false
    e.enabled && (covers e.assoc0 || covers e.assoc1))

/-- An outbound TLP to a host bus address, in the stream that covers it. -/
def State.emitTo (s : State) (addr : Nat) (f : Option Nat → Out) : State := s.emit (f (s.ideStream addr))

/-- Log an error under AER (R326); the first one keeps its TLP's header and prefix, which no command gives: free values. -/
def State.noteAer (s : State) (e : AerError) : State :=
  let a := s.hif.aer
  let a := if a.logged.contains e then a else { a with logged := a.logged ++ [e] }
  if a.first.isSome then { s with hif := { s.hif with aer := a } }
  else
    let x := s.takeFree
    let y := x.2.takeFree
    let z := y.2.takeFree
    { z.2 with hif := { z.2.hif with aer := { a with first := some e, header := (x.1, y.1), tlpPrefix := z.1 } } }

/-! ### The arbiter of the outbound link (R341) -/

/-- The share of a group in the present round; a share set during a round counts from the next one (R374). -/
def State.sharePct (s : State) (g : Nat) : Nat :=
  Table.get (fun _ => 0) (if s.hif.arb.used = [] then s.hif.share else s.hif.arb.share) g

def State.shareUsed (s : State) (g : Nat) : Nat := Table.get (fun _ => 0) s.hif.arb.used g

/-- Bytes of its share that a group has left in the round: a unit is 64 bytes. -/
def State.shareLeft (s : State) (g : Nat) : Nat := 64 * s.sharePct g - s.shareUsed g

/-- Link time is counted against a group. A round of 100 units ends when what tracing leaves of it is used. -/
def State.chargeLink (s : State) (g bytes : Nat) : State :=
  let a := s.hif.arb
  let share := if a.used = [] then s.hif.share else a.share
  let used := Table.set (fun _ => 0) a.used g (s.shareUsed g + bytes)
  let total := used.foldl (fun n e => n + e.2) 0
  let room := 64 * (100 - (if s.trc.send.isSome then s.trc.pct else 0))
  { s with hif := { s.hif with arb := { a with share := share, used := if room ≤ total then [] else used } } }

/-- A slot commits while a TRACE window is in progress (R78, R305). -/
def State.noteCommit (s : State) (n : Nat) : State :=
  { s with trc := { s.trc with send := s.trc.send.map (fun w => { w with again := n :: w.again }) } }

/-- A first write reaches the frame that was a slot's fair copy before it committed in this TRACE window (R78). -/
def State.noteFirst (s : State) (n : Nat) : State :=
  { s with trc := { s.trc with
    send := s.trc.send.map (fun w => if w.again.contains n then { w with gone := n :: w.gone } else w) } }

/-- k of R324 for the link obtained. -/
def traceK (speed width : Nat) : Nat :=
  if speed = 6 then (if width = 16 then 1 else if width = 8 then 2 else if width = 4 then 4 else 0)
  else if speed = 5 then (if width = 16 then 2 else if width = 8 then 4 else 0)
  else if speed = 4 then (if width = 16 then 4 else 0)
  else 0

def Queue.en (q : Queue) : Bool := bitAt q.w2 0
def Queue.toHost (q : Queue) : Bool := bitAt q.w2 1
def Queue.group (q : Queue) : Nat := bitsOf q.w2 4 4
def Queue.part (q : Queue) : Nat := bitsOf q.w2 8 8
def Queue.vector (q : Queue) : Nat := bitsOf q.w2 16 11
def Queue.vecEn (q : Queue) : Bool := bitAt q.w2 27
def Queue.modCount (q : Queue) : Nat := bitsOf q.w2 32 8
def Queue.modTime (q : Queue) : Nat := bitsOf q.w2 40 16
def Queue.dSize (q : Queue) : Nat := 2 ^ bitsOf q.w0 0 4
def Queue.sSize (q : Queue) : Nat := 2 ^ bitsOf q.w1 0 4
def Queue.dBase (q : Queue) : Nat := bitsOf q.w0 6 58 * 64
def Queue.sBase (q : Queue) : Nat := bitsOf q.w1 4 60 * 16
def Queue.dUsed (q : Queue) : Nat := (q.dTail + 65536 - q.dHead) % 65536
def Queue.sUsed (q : Queue) : Nat := (q.sTail + 65536 - q.sHead) % 65536

/-- PHASE of ring index `i` (R332). -/
def phaseOf (i size : Nat) : Nat := 1 - (i / size) % 2

/-- Write a status entry (R333) with the folio of its message's window, and count it for moderation (R340) and for its
group's link time (R341). -/
def State.postStatus (s : State) (q : Nat) (status len idx entries msgSeq : Nat) (folio : Word) : State :=
  let c := s.queue q
  let w0 := len % 2 ^ 19 + status * 2 ^ 20 + idx % 65536 * 2 ^ 24 + entries % 65536 * 2 ^ 40
    + phaseOf c.sTail c.sSize * 2 ^ 63
  let w1 := folio.toNat % 2 ^ 48 + msgSeq % 65536 * 2 ^ 48
  let addr := c.sBase + c.sTail % c.sSize * 16
  let s := (s.emitTo addr (Out.hostWrite addr [BitVec.ofNat 64 w0, BitVec.ofNat 64 w1])).chargeLink c.group 16
  s.modQueue q (fun c => { c with
    sTail := (c.sTail + 1) % 65536,
    mod := c.mod + 1,
    modAt := if c.mod = 0 then s.aon.time else c.modAt })

/-- Record the status of a publication; it is final and shown from the next tick (R388). -/
def State.setDescStatus (s : State) (d status : Nat) : State :=
  s.modDesc d (fun x => { x with newStatus := some (status, s.folio16) })

/-! ### Version slots -/

/-- CPA of the fair frame and of the other frame of a slot. -/
def VSlot.fairFrame (v : VSlot) : Nat := if v.fair then v.frame1 else v.frame0
def VSlot.draftFrame (v : VSlot) : Nat := if v.fair then v.frame0 else v.frame1

/-- Return a page to FAIR with its fair copy unchanged (R70). -/
def VSlot.discard (v : VSlot) : VSlot := { v with st := .fair, feedDraft := false, drafter := 0 }

/-- Discard the draft of a slot. -/
def State.discardDraft (s : State) (n : Nat) : State := s.modVslot n VSlot.discard

/-- Invert FAIR of a slot: the draft becomes the fair copy (R70, R81). -/
def VSlot.swap (v : VSlot) (seq : Nat) : VSlot :=
  { v with fair := !v.fair, st := .fair, feedDraft := false, drafter := 0, seq := BitVec.ofNat 16 seq }

/-- Rewrite the fair frame of every TLB entry that holds a slot, on every pen, locked entries included (R71). -/
def State.rewriteTlb (s : State) (n : Nat) : State :=
  let f := (s.vslot n).fairFrame
  { s with pens := s.pens.map (fun e => (e.1, { e.2 with
      tlb := e.2.tlb.map (fun x =>
        if x.2.valid && x.2.kind = .versioned && x.2.slot = n then (x.1, { x.2 with frame := f }) else x) })) }

end Sys2Proof.Machine
end

