-- ==== Sys2Proof/Machine/Banks.lean ====
section
/-! DEFINITION. The chip physical address map, plain reads and writes of bank words, mirrored copies, stage-2 tables as
the Huvas and the tracing engine see them, the configuration digest, and the records of the tracing link. -/

namespace Sys2Proof.Machine

/-! ### The address map (R22, R23) -/

def isInk (cpa : Nat) : Bool := cpa < 0x2000000
def isRsv (cpa : Nat) : Bool := 0x10000000 ≤ cpa && cpa < 0x12000000
def isReg (cpa : Nat) : Bool := 0x40000000 ≤ cpa && cpa < 0x50000000
def isHostWin (cpa : Nat) : Bool := 0x100000000000 ≤ cpa

def inkPen (cpa : Nat) : Nat := cpa / 0x80000
def inkBank (cpa : Nat) : Nat := cpa / 0x40000 % 2
def rsvNum (cpa : Nat) : Nat := (cpa - 0x10000000) / 0x100000
def inkBase (p : Nat) : Nat := p * 0x80000
def rsvBase (r : Nat) : Nat := 0x10000000 + r * 0x100000

/-- The domain of the bank at a CPA is on and the bank is not filling (R26, R288). -/
def State.bankReady (s : State) (cpa : Nat) : Bool :=
  if isInk cpa then
    let p := inkPen cpa
    s.penOn p && !(if inkBank cpa = 0 then (s.pen p).filling0 else (s.pen p).filling1)
  else if isRsv cpa then s.rsvOn (rsvNum cpa) && !(s.rsvOf (rsvNum cpa)).filling
  else false

/-! ### Words of the banks -/

/-- The canonical form of the banks' contents: CPAs rise strictly, and no listed word is what a fill writes (R288). -/
def Memory.wf (m : Table Code) : Bool := Table.wf fillCode m

/-- The canonical form of the ruling store's contents. -/
def Memory.storeWf (m : Table Code) : Bool := Table.wf fillStore m

/-- The stored codeword of the word at a CPA. -/
def State.peekCode (s : State) (cpa : Nat) : Code := Table.get fillCode s.mem (cpa / 8)

/-- The judged word at a CPA, without any effect on counters. -/
def State.peek (s : State) (cpa : Nat) : Judged := judge (cpaFold cpa) (s.peekCode cpa)

/-- The payload that a read of a CPA would deliver, 0 where it delivers none. -/
def State.peekVal (s : State) (cpa : Nat) : Word :=
  match (s.peek cpa).word? with
  | some w => w.val
  | none => 0

/-- Store a codeword in the word at a CPA. -/
def State.pokeCode (s : State) (cpa : Nat) (c : Code) : State := { s with mem := Table.set fillCode s.mem (cpa / 8) c }

/-- Write a tagged word with fresh check bits (R275). -/
def State.poke (s : State) (cpa : Nat) (w : TWord) : State := s.pokeCode cpa (encodeCode (cpaFold cpa) w)

/-- Drop every listed word of a CPA range: the bank holds what a fill writes (R288). -/
def State.fillRange (s : State) (base size : Nat) : State :=
  { s with mem := Table.keep (fun k => !(base / 8 ≤ k && k < (base + size) / 8)) s.mem }

/-- The CPA lies in a mirrored page of its pair (R105). -/
def State.mirrored (s : State) (cpa : Nat) : Bool :=
  isInk cpa &&
    (let e := s.pen (evenOf (inkPen cpa))
     let page := cpa % 0x40000 / 0x1000
     if inkBank cpa = 0 then bitAt e.mirror0 page else bitAt e.mirror1 page)

/-- The same offset in the even pen's and in the odd pen's inkwells. -/
def evenCpa (cpa : Nat) : Nat := inkBase (evenOf (inkPen cpa)) + cpa % 0x80000
def oddCpa (cpa : Nat) : Nat := inkBase (oddOf (inkPen cpa)) + cpa % 0x80000

/-- Where a requester other than a pen reads a word: the even copy, or the sole valid copy (R105, R106). -/
def State.readAt (s : State) (cpa : Nat) : Nat :=
  if s.mirrored cpa then (if s.mirrorOf (inkPen cpa) = .soleOdd then oddCpa cpa else evenCpa cpa) else cpa

/-- Where a requester other than a pen writes a word: both copies of a mirrored page (R105). -/
def State.writeAt (s : State) (cpa : Nat) : List Nat := if s.mirrored cpa then [evenCpa cpa, oddCpa cpa] else [cpa]

/-- A write by a requester other than a pen; a bank that is off loses it (R26, R105). -/
def State.engineWrite (s : State) (cpa : Nat) (w : TWord) : State :=
  (s.writeAt cpa).foldl (fun t a => if t.bankReady a then t.poke a w else t) s

/-! ### Stage-2 tables -/

/-- An address field of a stage-2 entry, resolved for home pen `home` (R250, R256). -/
def s2Addr (home : Nat) (e : Word) : Nat :=
  let a := bitsOf e 12 36 * 4096
  if bitAt e 7 then inkBase home + a % 0x80000 else a

/-- The stage-2 root of a partition for a home pen (R252). -/
def State.s2Root (s : State) (part home : Nat) : Nat :=
  let w := s.ptWord part 1
  let a := bitsOf w 12 36 * 4096
  if bitAt w 3 then inkBase home + a % 0x80000 else a

def State.s2Mode (s : State) (part : Nat) : Nat := bitsOf (s.ptWord part 1) 0 2
def State.s1Mode (s : State) (part : Nat) : Nat := bitsOf (s.ptWord part 0) 0 2

/-- The tables that a depth-first walk first reaches, in order, each once (R473). The first argument is the level. -/
def State.s2Visit (s : State) (home : Nat) : Nat → Nat → List Nat → List Nat
  | 0, t, v => if v.contains t then v else v ++ [t]
  | l + 1, t, v =>
    if v.contains t then v
    else (upTo 512).foldl (fun v i =>
      let e := s.peekVal (t + 8 * i)
      if bitAt e 0 && !bitAt e 1 then State.s2Visit s home l (s2Addr home e) v else v) (v ++ [t])

/-- The stage-2 tables of a partition for a home pen. -/
def State.s2Tables (s : State) (part home : Nat) : List Nat :=
  s.s2Visit home (2 + s.s2Mode part) (s.s2Root part home) []

/-- The lowest pen of a mask (64 for none). -/
def lowestPen (m : Word) : Nat := ((upTo 64).find? (fun n => bitAt m n)).getD 64

/-- The leaves of a partition's stage 2 in the order of a depth-first walk: CPA of the leaf word, the word, its level and
the first IPA it maps. -/
def State.s2Leaves (s : State) (home : Nat) : Nat → Nat → Nat → List (Nat × Word × Nat × Nat)
  | 0, t, ipa =>
    (upTo 512).filterMap (fun i =>
      let e := s.peekVal (t + 8 * i)
      if bitAt e 0 then some (t + 8 * i, e, 0, ipa + i * 4096) else none)
  | l + 1, t, ipa =>
    (upTo 512).flatMap (fun i =>
      let e := s.peekVal (t + 8 * i)
      let ia := ipa + i * 2 ^ (12 + 9 * (l + 1))
      if !bitAt e 0 then []
      else if bitAt e 1 then [(t + 8 * i, e, l + 1, ia)]
      else State.s2Leaves s home l (s2Addr home e) ia)

def State.partLeaves (s : State) (part home : Nat) : List (Nat × Word × Nat × Nat) :=
  s.s2Leaves home (2 + s.s2Mode part) (s.s2Root part home) 0

/-! ### The configuration digest (R473) -/

/-- Word 0 of a version slot (R68). -/
def VSlot.word0 (v : VSlot) : Word :=
  BitVec.ofNat 64 (v.frame0 + bitN v.fair * 2 ^ 36
    + (match v.kind with | .state => 0 | .output => 1 | .input => 2 | .rsvd => 3) * 2 ^ 37
    + bitN v.valid * 2 ^ 39 + v.part * 2 ^ 40)

/-- Word 1 of a version slot (R68). -/
def VSlot.word1 (v : VSlot) : Word :=
  BitVec.ofNat 64 (v.frame1
    + (match v.st with | .fair => 0 | .copying => 1 | .drafted => 2 | .committing => 3) * 2 ^ 36
    + bitN v.feedDraft * 2 ^ 39 + (if v.feedDraft then 0 else v.drafter) * 2 ^ 40
    + bitN v.published * 2 ^ 46 + bitN v.held * 2 ^ 47 + v.seq.toNat * 2 ^ 48)

/-- Word 1 with the hardware fields read as 0. -/
def VSlot.word1Soft (v : VSlot) : Word := BitVec.ofNat 64 v.frame1

/-- The words of a resident ruling in the digest. -/
def State.digestSlot (s : State) (k : Nat) : List Word :=
  let r := s.slotOf k
  if r.st = .empty then []
  else [BitVec.ofNat 64 k] ++ (upTo 42).map (fun i => r.header.getD i 0)
    ++ (upTo (4 * r.lines)).map (fun j => s.storePayload (4 * r.lineBase + j))
    ++ (upTo ((r.hos + 1) / 2)).map (fun j =>
        BitVec.ofNat 64 (s.hoOf r (2 * j) + (if 2 * j + 1 < r.hos then s.hoOf r (2 * j + 1) * 2 ^ 32 else 0)))

/-- The words of a partition in the digest. -/
def State.digestPart (s : State) (p : Nat) : List Word :=
  let ps := s.partOf p
  if !ps.up then []
  else [BitVec.ofNat 64 p, ps.penMask] ++ (upTo 12).map (s.ptWord p) ++ (upTo 4).map (s.pxWord p)
    ++ (s.s2Tables p (lowestPen ps.penMask)).flatMap (fun t => (upTo 512).map (fun i => s.peekVal (t + 8 * i)))

def TrcSt.code : TrcSt → Nat
  | .detached => 0 | .resync => 1 | .current => 2 | .stale => 3 | .lost => 4

/-- The configuration digest as it stands now (R473). -/
def State.cfgDigest (s : State) : Nat :=
  crc32c ([BitVec.ofNat 64 s.folio.period, BitVec.ofNat 64 s.folio.phase]
    ++ (upTo 16).flatMap s.digestSlot
    ++ (upTo 256).flatMap s.digestPart
    ++ (upTo 8192).flatMap (fun n => [(s.vslot n).word0, (s.vslot n).word1Soft])
    ++ (upTo 32).flatMap (fun k => [(s.pen (2 * k)).mirror0, (s.pen (2 * k)).mirror1])
    ++ (match s.trc.st with
      | .resync | .current | .stale =>
        (upTo 16384).flatMap (fun i => let e := Table.get (fun _ => ({} : TrcEntry)) s.trc.list i; [e.data0, e.data1])
      | .detached | .lost => []))

/-! ### Records of the tracing link (R306, R307) -/

/-- The record types. -/
def recBegin : Nat := 1
def recUnit : Nat := 2
def recEnd : Nat := 3
def recDigest : Nat := 4
def recAck : Nat := 5
def recFarewell : Nat := 6

/-- A record's header of 32 words (R307). -/
def recHeader (type seq : Nat) (folio : Word) (slot : Nat) (debug : Bool) (cfg : Nat) (w3 w4 w5 w6 : Nat) : List Word :=
  let ws : List Word :=
    [BitVec.ofNat 64 (0x5452 + type * 2 ^ 16 + 2 ^ 24 + seq % 2 ^ 32 * 2 ^ 32), folio,
     BitVec.ofNat 64 (slot + bitN debug * 16 + cfg * 2 ^ 32),
     BitVec.ofNat 64 w3, BitVec.ofNat 64 w4, BitVec.ofNat 64 w5, BitVec.ofNat 64 w6]
    ++ List.replicate 24 0
  ws ++ [BitVec.ofNat 64 (crc32c ws)]

/-- Send a record with its data words, if the link can carry it; the sequence number counts from 0 at pairing. -/
def State.sendRecord (s : State) (type : Nat) (folio : Word) (w3 w4 w6 : Nat) (data : List Word) : State :=
  let h := recHeader type s.trc.txSeq folio s.folio.actSlot (s.dev = .debug) s.cfgDigest w3 w4
    (if data = [] then 0 else crc32c data) w6
  if s.linkOk then
    let addr := s.trc.peer.toNat / 4096 * 4096 + s.trc.txSeq % 16 * 0x2000
    let t := s.emitTo addr (Out.record addr (h ++ data))
    { t with trc := { t.trc with txSeq := (t.trc.txSeq + 1) % 2 ^ 32 } }
  else s

/-- Send FAREWELL with a REASON, if the part is paired and has not lost its partner (R314, R315). -/
def State.farewell (s : State) (reason : Nat) : State :=
  if s.trc.mode = 0 || s.trc.st = .lost then s else s.sendRecord recFarewell s.folio.number 0 0 (reason * 2 ^ 24) []

end Sys2Proof.Machine
end

