-- ==== Sys2Proof/Machine/Runs.lean ====
section
/-! DEFINITION. What happens to runs and pens outside their instructions: kill, commit, loss of a run, splitting a
ligature, fencing, and the outputs' safe values. These operations return the fault events they give rise to; the rubric
judges them (Rubric.lean). -/

namespace Sys2Proof.Machine

/-- An event of a pen (R413, UTYPE 1). -/
def penEvent (cls p line : Nat) (detail : Nat := 0) : Event :=
  { cls := cls, utype := 1, unit := p, line := line, detail := detail }

/-- An event that concerns a line only. -/
def lineEvent (cls line : Nat) : Event := { cls := cls, line := line }

/-! ### Kill and commit -/

/-- A pen without a run: pending work, store buffer and pending interrupts are gone; a pen in RUN becomes IDLE
(R79, R104, R243). -/
def Pen.clearRun (p : Pen) : Pen :=
  { p with
    run := none, late := [], mul := none, pair := none, hold := .none, fbuf := none, noBorrow := false, blkDone := 0,
    sb := [], acks := 0, ipiPend := 0, st := if p.st = .run then .idle else p.st }

/-- The blotter has to copy again what a SOLO run of this pen wrote (R113). -/
def Pen.oweCopy (r : Run) (p : Pen) : Pen :=
  if r.mode = .solo then { p with recopy := p.recopy ++ r.wrote.filter (fun w => !p.recopy.contains w) } else p

/-- The other pen of a JOINED run leaves it too (R79, R111). -/
def Pen.dropJoined (line : Nat) (p : Pen) : Pen :=
  let mine (o : Option Run) : Bool := match o with
    | some r => r.line = line && r.mode = .joined
    | none => false
  let p := if mine p.ending then { p with ending := none } else p
  if mine p.run then p.clearRun else p

/-- A page whose draft copy the pen is held for goes back to FAIR (R70). -/
def State.dropCopy (s : State) (p : Nat) : State :=
  match (s.pen p).hold with
  | .copy n _ => s.discardDraft n
  | .none | .walk _ _ _ _ | .fabric _ _ _ | .block _ | .divide _ _ _ _ => s

/-- The port A request that the pen is held for goes on to its reservoir without it (R79, R278). -/
def State.dropRequest (s : State) (p : Nat) (r : Run) : State :=
  match (s.pen p).hold with
  | .fabric cpa true _ => { s with flight := s.flight ++ [⟨p, r.home, r.line, cpa, none, s.cyc⟩] }
  | .fabric _ false _ | .none | .walk _ _ _ _ | .copy _ _ | .block _ | .divide _ _ _ _ => s

/-- Kill the run on pen `p`: its drafts return to FAIR and its store buffer is discarded; a JOINED run ends on both
pens (R79). -/
def State.killRun (s : State) (p : Nat) : State :=
  match (s.pen p).run with
  | none => s
  | some r =>
    let s := s.forAll r.drafts (fun n t => t.discardDraft n)
    let s := ((s.dropCopy p).dropRequest p r).modPen p (fun x => x.clearRun.oweCopy r)
    if r.mode = .joined then s.modPen (otherOf p) (Pen.dropJoined r.line) else s

/-- Kill a run that waits for its commit point after the pen went on (R75). -/
def State.killEnding (s : State) (p : Nat) : State :=
  match (s.pen p).ending with
  | none => s
  | some r =>
    let s := (s.forAll r.drafts (fun n t => t.discardDraft n)).modPen p
      (fun x => { x with ending := none }.oweCopy r)
    if r.mode = .joined then s.modPen (otherOf p) (Pen.dropJoined r.line) else s

/-- The commit of one page (R70, R82, R386): FAIR is inverted and COMMIT_SEQ taken; an OUTPUT page that was committed and
never published is superseded. -/
def State.commitPage (s : State) (r : Run) (n : Nat) : State :=
  let v := s.vslot n
  let lost := v.kind = .output && !v.published && v.commitLine ≠ 0x7FFF
  let s := s.modVslot n (fun v => { v.swap s.folio16 with
    published := false,
    eligible := v.kind = .output,
    commitCyc := s.folioCyc, commitFolio := s.folio.number.toNat, commitLine := r.line,
    reqs := if v.kind = .output then r.subs else [] })
  let s := (s.rewriteTlb n).noteCommit n
  if lost then { s with folio := { s.folio with superseded := satInc 0xFFFFFFFF s.folio.superseded } } else s

/-- The events of a commit: one OUTPUT_SUPERSEDED for each earlier output that was never published (R82). -/
def State.supersededBy (s : State) (r : Run) : List Event :=
  (r.drafts.filter (fun n => let v := s.vslot n; v.kind = .output && !v.published && v.commitLine ≠ 0x7FFF)).map
    (fun _ => lineEvent 0x16 r.line)

/-- Record a committed primary run of a DUPLEX line in the line's high-water mark (R89, R97). -/
def State.noteHwm (s : State) (r : Run) (c : Nat) : State :=
  if r.recovery || r.mode ≠ .duplex then s
  else
    let o := Table.get (fun _ => (0, 0)) s.folio.hwm r.line
    let h := max o.1 (c + 1 - r.start)
    { s with folio := { s.folio with hwm := Table.set (fun _ => (0, 0)) s.folio.hwm r.line (h, satInc 0xFFFF o.2) } }

/-- The commit point of a run (R75, R76): every page of the run becomes its new fair copy, and an armed recovery run of
the line is cancelled (R84). -/
def State.commitRun (s : State) (r : Run) (c : Nat) : State × List Event :=
  let ev := s.supersededBy r
  let s := s.forAll r.drafts (fun n t => t.commitPage r n)
  let s := s.noteHwm r c
  ({ s with folio := { s.folio with armed := s.folio.armed.filter (fun a => a.line ≠ r.line) } }, ev)

/-- Commit the run of pen `p` that has reached its commit point, and free the pen. -/
def State.commitPen (s : State) (p : Nat) : State × List Event :=
  match (s.pen p).ending with
  | some r =>
    let x := s.commitRun r (r.linend.getD 0)
    let t := x.1.modPen p (fun y => { y with ending := none }.oweCopy r)
    (if r.mode = .joined then t.modPen (otherOf p) (Pen.dropJoined r.line) else t, x.2)
  | none =>
    match (s.pen p).run with
    | none => (s, [])
    | some r =>
      let x := s.commitRun r (r.linend.getD 0)
      let t := x.1.modPen p (fun y => y.clearRun.oweCopy r)
      (if r.mode = .joined then t.modPen (otherOf p) (Pen.dropJoined r.line) else t, x.2)

/-! ### Loss of a run -/

/-- What becomes of a line whose DUPLEX run was lost (R54, R83, R84): its recovery run is armed, or it has no run. The
cycle is the folio cycle of the report. -/
def State.loseRun (s : State) (r : Run) : State × List Event :=
  match s.line r.line with
  | none => (s, [])
  | some l =>
    if l.isLig then (s, [])
    else if r.recovery then (s, [lineEvent 0x12 r.line])
    else
      let p := s.placeOf r.line l
      if !p.recValid then (s, [lineEvent 0x11 r.line])
      else if p.recStart < s.folioCyc + 14 then (s, [lineEvent 0x12 r.line])
      else ({ s with folio := { s.folio with armed := s.folio.armed ++ [⟨r.line, p.recPen, p.recStart⟩] } }, [])

/-! ### Ligatures -/

/-- The odd pen takes the pair's execution state when the even pen leaves a JOINED run (R109); its TLB is its own. -/
def joinTake (e o : Pen) : Pen :=
  { o with
    regs := e.regs, spTask := e.spTask, spExec := e.spExec, status := e.status, pc := e.pc, sealed := e.sealed,
    late := e.late, mul := e.mul, pair := e.pair, hold := e.hold, fbuf := e.fbuf, blkDone := e.blkDone, sb := e.sb, acks := e.acks, ipiPend := e.ipiPend,
    syn := e.syn, synAddr := e.synAddr,
    run := e.run.map (fun r => { r with mode := .solo }) }

/-- Pen `p` leaves its JOINED pair; the other pen carries the run SOLO (R109, R110, R112). -/
def State.leavePair (s : State) (p : Nat) : State :=
  let o := otherOf p
  let s :=
    if p % 2 = 0 then
      { s.modPen o (fun x => joinTake (s.pen p) x) with
        flight := s.flight.map (fun e => if e.pen = p then { e with pen := o } else e) }
    else s.modPen o (fun x => { x with run := x.run.map (fun r => { r with mode := .solo }) })
  let s := s.modPen p (fun x => { x.clearRun with stale := if s.hasMirror p then true else x.stale })
  s.soleFor o

/-! ### Out of service -/

/-- The redraft engine is wanted (R88): folios run and it is enabled. A computation under way starts again. -/
def State.wantRedraft (s : State) : State :=
  if s.folio.running && bitAt s.folio.rdCtrl 0 then { s with folio := { s.folio with rd := .wanted } } else s

/-- Free whatever the blotter holds for a pen: its port, its place in the queue, its copy (R85, R113). -/
def State.freeBlotter (s : State) (p : Nat) : State :=
  let s := s.modPen p (fun x => { x with testPort := none, handAt := none, passAt := none })
  { s with blot := { s.blot with
      ports := s.blot.ports.filter (· ≠ p), waitQ := s.blot.waitQ.filter (· ≠ p),
      resilver := s.blot.resilver.filter (· ≠ p) } }

/-- A MARCH command on an inkwell of pen `p` has lost its bank: the firmware ends it with DOMAIN_OFF. -/
def State.dropMarch (s : State) (p : Nat) : State :=
  match s.blot.marching with
  | none => s
  | some r =>
    if r.pen = p then
      { s with blot := { s.blot with marching := none }, huv := { s.huv with fw := s.huv.fw ++ [.endCmd r.mb 0x0B04] } }
    else s

/-- A scrub pass over the inkwells of pen `p` loses its bank (R294). -/
def State.cutPass (s : State) (p : Nat) : State :=
  { s with blot := { s.blot with
      pass := s.blot.pass.map (fun q => if isInk q.base && inkPen q.base = p then { q with cut := true } else q) } }

/-- The pen is FENCED and its domain switched off (R86, R104). -/
def State.toFenced (s : State) (p : Nat) : State :=
  let s := ((s.freeBlotter p).dropMarch p).cutPass p
  let s := s.modPen p (fun x => { x.clearRun with st := .fenced, ending := none })
  { s with pwr := { s.pwr with penOn := setBit s.pwr.penOn p false, reqPen := setBit s.pwr.reqPen p false } }

/-- The mirror state after pen `p` is fenced or switched off (R112): the other pen becomes SOLE if it holds valid copies,
and no valid copy is left if `p` held the only one. -/
def State.mirrorAfterLoss (s : State) (p : Nat) : State :=
  if !s.hasMirror p then s
  else
    let s := s.modPen p (fun x => { x with stale := true })
    match s.mirrorOf p with
    | .mirrored => s.soleFor (otherOf p)
    | .soleEven => if p % 2 = 0 then s.setMirror p (.lost false) else s
    | .soleOdd => if p % 2 = 1 then s.setMirror p (.lost true) else s
    | .lost _ => s

/-- Fence a pen without a self-test (R376): its run is killed and its recovery run armed, a JOINED partner goes on SOLO,
the redraft engine is started, and PEN_FENCED names the killed run's line. -/
def State.fencePen (s : State) (p : Nat) : State × List Event :=
  if (s.pen p).st = .fenced then (s, [])
  else
    let s := s.killEnding p
    let line := match (s.pen p).run with
      | some r => r.line
      | none => 0x7FFF
    let x : State × List Event :=
      match (s.pen p).run with
      | none => (s, [])
      | some r =>
        match r.mode with
        | .joined => (s.leavePair p, [])
        | .solo => (s.killRun p, [lineEvent 0x13 r.line])
        | .duplex => (s.killRun p).loseRun r
    let t := ((x.1.toFenced p).mirrorAfterLoss p).wantRedraft
    (t, penEvent 0x09 p line :: x.2)

/-- Where an event stands among events of its cycle (R420): by class, then by unit. -/
def Event.rank (e : Event) : Nat := (e.cls * 256 + e.unit) * 32768 + e.line

/-- Put an event among ordered ones. -/
def Event.into (e : Event) : List Event → List Event
  | [] => [e]
  | f :: es => if e.rank ≤ f.rank then e :: f :: es else f :: e.into es

/-- Events of one cycle in the order in which they are queued (R420). -/
def inOrder (es : List Event) : List Event := es.foldr Event.into []

/-- The pair has lost every valid copy because pen `p`, which held the only one, faulted: both pens are fenced (R113). -/
def State.fencePair (s : State) (p : Nat) : State × List Event :=
  let a := s.fencePen (evenOf p)
  let b := a.1.fencePen (oddOf p)
  (b.1.setMirror p (.lost (p % 2 = 1)), inOrder (a.2 ++ b.2))

/-! ### Safe outputs -/

/-- The pins that a GPIO_OUT channel of a defined set names (R402, GPIO_DIR). -/
def State.gpioDir (s : State) : Word :=
  (upTo 1024).foldl (fun w k =>
    let c := s.chanSet k
    if c.valid then
      (upTo c.count).foldl (fun w j =>
        let d := s.desc (c.first + j)
        if bitsOf (d.words.getD 0 0) 0 4 = 9 then w ||| d.words.getD 2 0 else w) w
    else w) 0

/-- Each output register is set so that its ball level equals `GPIO_SAFE`, whatever `GPIO_POL` holds (R423). -/
def State.gpioSafe (s : State) : State :=
  let d := s.gpioDir
  let v := (s.gpio.safe ^^^ s.gpio.pol) &&& d
  let out := (s.gpio.outReg &&& ~~~ d) ||| v
  let diff := (upTo 64).filter (fun n => bitAt (out ^^^ s.gpio.outReg) n)
  { s with gpio := { s.gpio with
      outReg := out,
      changed := s.gpio.changed.filter (fun (c : Nat × Nat) => !diff.contains c.1) ++ diff.map (fun n => (n, s.cyc)) } }

/-- Withdraw the pending transmit buffers of a controller (R400, R423). A frame in transmission has left its buffer: its
transmission is one command. -/
def State.canWithdraw (s : State) (c : Nat) : State :=
  let q := (s.can c).txq
  let s := s.forAll q (fun t u => u.setDescStatus t.desc 0xA)
  s.modCan c (fun x => { x with
    txq := [], cntNot := min 0xFFFF (x.cntNot + q.length) })

/-- Controllers in NORMAL pass to RESTRICTED, at once or after the frame in transmission (R423). -/
def State.canSafe (s : State) : State :=
  s.forAll (upTo 8) (fun c t => (t.canWithdraw c).modCan c (fun x => { x with restrict := true }))

/-- Empty every transmit queue of a MAC with a status (R393, R423). -/
def State.ethWithdraw (s : State) (m status : Nat) : State :=
  let q := (s.mac m).txq
  let s := s.forAll q (fun f t => t.setDescStatus f.desc status)
  s.modMac m (fun x => { x with txq := [], notSent := min 0xFFFFFFFF (x.notSent + q.length) })

/-- End the messages in progress of every queue with a status, and discard the drafts of unfinished FETCH messages
(R337, R423). -/
def State.endMessages (s : State) (status : Nat) : State :=
  s.forAll (s.hif.qps.map (·.1)) (fun q t =>
    let c := t.queue q
    let t := t.forAll c.msgs (fun m u =>
      let u := u.forAll m.pages (fun n v => v.discardDraft n)
      let u := if c.toHost then u.setDescStatus m.desc status else u
      let past := (m.first + m.posted) % 65536
      let u := if c.toHost then u else u.modQueue q (fun c => { c with dHead := past })
      let u := u.postStatus q status (if c.toHost then min m.len (56 * m.posted) else m.len)
        (if c.toHost then m.first else past) m.posted m.msgSeq m.folio
      { u with hif := { u.hif with cntTrunc := satInc 0xFFFFFFFF u.hif.cntTrunc } })
    t.modQueue q (fun c => { c with msgs := [] }))

/-- The outputs take their safe values (R423). -/
def State.safeOutputs (s : State) : State :=
  let s := s.gpioSafe
  let s := s.canSafe
  let s := s.forAll (upTo 4) (fun m t => t.ethWithdraw m 0xA)
  let s := s.endMessages 1
  { s with feed := { s.feed with rxq := [] } }

/-- The own TRACE window of the current folio has ended: the watchdog of each folio whose answer is due by it starts
(R314). A COLD_SEND part waits until the end of the next folio's window. -/
def State.traceWindowEnd (s : State) : State :=
  let sending := s.trc.mode = 1 || (s.trc.mode = 3 && s.trc.st ≠ .current)
  let due := s.trc.await.filter (fun f => !sending || f.toNat < s.folio.number.toNat)
  { s with trc := { s.trc with
      await := s.trc.await.filter (fun f => !due.contains f),
      watch := s.trc.watch ++ due.map (fun f => (f, s.cyc + s.trc.wd)) } }

/-- Send an MSI-X message: dropped while the function or the link cannot, kept pending while masked, refused for an
unreachable address (R339). -/
def State.msixNow (s : State) (v : Nat) : State × List Event :=
  if !s.hif.msixEn then (s, [])
  else
    let e := s.msixOf v
    if s.hif.funcMask || e.ctrl.getLsbD 0 then (s.modMsix v (fun e => { e with pend := true }), [])
    else if 0xF00000000000 ≤ e.addr.toNat then (s, [{ cls := 0x65 }])
    else (if s.linkOk then s.emit (.msix v) else s, [])

/-- Close every open window, as at a tick (R50, R422). -/
def State.closeAll (s : State) : State := { s with folio := { s.folio with wins := [] } }

/-- The link has changed its rate during a TRACE window in which this part sent: HOST_LINK_DEGRADED once it ends (R324). -/
def State.rateCheck (s : State) : State × List Event :=
  match s.hif.winK with
  | none => (s, [])
  | some k =>
    let t := { s with hif := { s.hif with winK := none } }
    if s.hif.up && k ≠ traceK s.hif.speed s.hif.width then
      ({ t with hif := { t.hif with event := t.hif.event ||| 4 } }, [{ cls := 0x61 }])
    else (t, [])

/-- The entry to SAFE cuts a sending TRACE window short: it stays without END and the partner is STALE (R309, R422). -/
def State.cutTrace (s : State) : State × List Event :=
  let x := s.rateCheck
  let s := x.1
  match s.trc.send with
  | none => (s, x.2)
  | some _ =>
    let was := s.trc.st = .stale
    let t := { s with trc := { s.trc with
      send := none, incompl := satInc 0xFFFF s.trc.incompl, st := .stale, doneAt := none } }
    if was then (t, x.2)
    else
      let y := { t with trc := { t.trc with event := t.trc.event ||| 1 } }.msixNow 2
      (y.1, x.2 ++ y.2 ++ [{ cls := 0x53, utype := 8, detail := s.trc.txSeq }])

/-- Every run is killed (R422); one whose commit point lies at or before the next cycle has committed, and its outputs are
never published. -/
def State.endRuns (s : State) : State × List Event :=
  let now := s.folioCyc
  let x := (upTo 64).foldl (fun (x : State × List Event) p =>
    let pe := x.1.pen p
    let due (r : Run) : Bool := match r.linend with
      | some c => c + 4 ≤ now + 1
      | none => false
    let x := match pe.ending with
      | some r => if due r then (let y := x.1.commitPen p; (y.1, x.2 ++ y.2)) else (x.1.killEnding p, x.2)
      | none => x
    match (x.1.pen p).run with
    | some r => if due r then (let y := x.1.commitPen p; (y.1, x.2 ++ y.2)) else (x.1.killRun p, x.2)
    | none => x) (s, [])
  ({ x.1 with folio := { x.1.folio with armed := [] },
              vt := x.1.vt.map (fun e => (e.1, { e.2 with eligible := false })) }, x.2)

/-- The mailbox of a waiting command that SAFE does not permit (R353, R359). -/
def Waiting.notInSafe : Waiting → Option Nat
  | .activate m _ | .debug m _ | .detach m _ | .takeover m _ => some m
  | .quiesce _ _ | .dormant _ _ | .power _ => none

/-- Commands that SAFE does not permit are left to the firmware to end with BAD_STATE (R353). -/
def State.cutCommands (s : State) : State :=
  let h := s.huv
  let loads := match h.prog with
    | some (m, _) => if (s.mbox m).curOp = 0x20 then [m] else []
    | none => []
  let ms := h.waiting.filterMap Waiting.notInSafe ++ (s.blot.marching.map (·.mb)).toList ++ loads
  { s with
    huv := { h with waiting := h.waiting.filter (fun w => w.notInSafe = none), fw := h.fw ++ ms.map (fun m => FwAct.endCmd m 2) },
    blot := { s.blot with marching := none } }

/-- Entry to SAFE (R117, R422, R423). -/
def State.enterSafe (s : State) : State × List Event :=
  let x := s.endRuns
  let y := x.1.safeOutputs.cutTrace
  let t := ((y.1.closeAll).farewell 2).cutCommands
  let t := if t.folio.running then t else t.releaseActive
  ({ t with dev := .safe, folio := { t.folio with en := t.folio.running } }, x.2 ++ y.2)

end Sys2Proof.Machine
end

