-- ==== Sys2Proof/Machine/Rubric.lean ====
section
/-! DEFINITION. The rubric (R412 to R427): defaults, judging an event, its reaction, and the fault event queue. -/

namespace Sys2Proof.Machine

/-- A rubric entry from its fields (R415). -/
def rbWord (action escAction escCount escWin : Nat) (irq fixed : Bool) : Word :=
  BitVec.ofNat 64 (action + bitN irq * 8 + escAction * 16 + escCount * 256 + escWin * 65536 + bitN fixed * 2 ^ 20)

/-- The classes in use: code, default action, ESC_COUNT, ESC_WIN (escalating to SAFE), fixed, log-only (R413). -/
def rbUsed : List (Nat × Nat × Nat × Nat × Bool × Bool) :=
  [(0x01, 2, 0, 0, true, false), (0x02, 2, 0, 0, true, false), (0x03, 2, 0, 0, true, false),
   (0x04, 2, 0, 0, true, false), (0x05, 2, 0, 0, true, false), (0x06, 1, 0, 0, false, true),
   (0x07, 3, 0, 0, true, false), (0x08, 1, 0, 0, false, true), (0x09, 1, 0, 0, false, false),
   (0x0A, 1, 0, 0, false, false), (0x10, 1, 0, 0, false, false), (0x11, 1, 0, 0, false, false)] ++
  [(0x12, 1, 3, 4, false, false), (0x13, 1, 3, 4, false, false), (0x14, 1, 0, 0, false, false),
   (0x15, 1, 0, 0, false, false), (0x16, 1, 0, 0, false, true), (0x17, 1, 0, 0, false, false),
   (0x18, 1, 0, 0, false, false), (0x19, 1, 0, 0, false, false), (0x1A, 5, 0, 0, true, false),
   (0x20, 1, 0, 0, true, false), (0x21, 1, 0, 0, true, false), (0x22, 1, 0, 0, false, true)] ++
  [(0x23, 5, 0, 0, true, false), (0x24, 5, 0, 0, false, false), (0x30, 1, 0, 0, false, false),
   (0x31, 1, 2, 10, false, false), (0x32, 1, 0, 0, false, false), (0x33, 1, 0, 0, false, false),
   (0x34, 1, 0, 0, false, false), (0x35, 1, 0, 0, false, false), (0x36, 3, 0, 0, true, false),
   (0x37, 1, 0, 0, false, true), (0x38, 5, 0, 0, false, false), (0x39, 1, 0, 0, false, false)] ++
  [(0x40, 1, 0, 0, false, false), (0x41, 1, 0, 0, false, false), (0x42, 1, 0, 0, false, false),
   (0x43, 1, 0, 0, false, false), (0x50, 1, 0, 0, false, false), (0x51, 1, 0, 0, false, false),
   (0x52, 1, 0, 0, false, false), (0x53, 1, 0, 0, false, false), (0x54, 1, 0, 0, false, false),
   (0x55, 1, 0, 0, false, false), (0x56, 1, 0, 0, false, false), (0x57, 1, 0, 0, false, true)] ++
  [(0x58, 1, 0, 0, false, false), (0x59, 1, 0, 0, false, false), (0x60, 1, 0, 0, false, false),
   (0x61, 1, 0, 0, false, false), (0x62, 1, 0, 0, false, false), (0x63, 1, 0, 0, false, false),
   (0x64, 1, 0, 0, false, true), (0x65, 1, 0, 0, false, false), (0x66, 1, 0, 0, false, false),
   (0x70, 1, 0, 0, false, false), (0x71, 1, 0, 0, false, false), (0x72, 1, 0, 0, false, false)] ++
  [(0x73, 1, 3, 3, false, false), (0x80, 1, 0, 0, false, false), (0x81, 1, 0, 0, false, false),
   (0x82, 5, 0, 0, false, false), (0x83, 1, 0, 0, false, false)]

def rbUse (c : Nat) : Option (Nat × Nat × Nat × Nat × Bool × Bool) := rbUsed.find? (fun e => e.1 = c)

/-- The default entry of a class (R413); reserved classes hold COUNT, fixed. -/
def rbDefault (c : Nat) : Word :=
  match rbUse c with
  | some (_, a, n, w, fixed, logOnly) => rbWord a (if n = 0 then 0 else 5) n w (!logOnly) fixed
  | none => rbWord 0 0 0 0 false true

def rbFixed (c : Nat) : Bool := match rbUse c with
  | some e => e.2.2.2.2.1
  | none => true
def rbLogOnly (c : Nat) : Bool := match rbUse c with
  | some e => e.2.2.2.2.2
  | none => false

/-- The unit of the class is PEN, BANK, or includes LINE (R413, for R416). -/
def rbFenceable (c : Nat) : Bool :=
  (1 ≤ c && c ≤ 0x0A) || c = 0x30 || c = 0x31 || (0x33 ≤ c && c ≤ 0x37)
def rbSheddable (c : Nat) : Bool :=
  (1 ≤ c && c ≤ 5) || c = 9 || (0x10 ≤ c && c ≤ 0x16) || (0x18 ≤ c && c ≤ 0x1A)

/-- A class admits a reaction (R416). -/
def rbAdmits (c a : Nat) : Bool :=
  if rbLogOnly c then a ≤ 1
  else if a = 2 then 1 ≤ c && c ≤ 5
  else if a = 3 then rbFenceable c
  else if a = 4 then rbSheddable c
  else a ≤ 5

def State.rbClass (s : State) (c : Nat) : RbClass := Table.get (fun c => { entry := rbDefault c }) s.huv.rb c
def State.modRb (s : State) (c : Nat) (f : RbClass → RbClass) : State :=
  { s with huv := { s.huv with rb := Table.set (fun c => { entry := rbDefault c }) s.huv.rb c (f (s.rbClass c)) } }

/-- The line of an event is of class 0 (R418). -/
def State.lineCrit0 (s : State) (i : Nat) : Bool := match s.line i with
  | some l => l.crit = 0
  | none => false

/-- A bank's domain pair is used by the active ruling or an armed switch target (R420). -/
def State.pairInUse (s : State) (r : Nat) : Bool :=
  let used (k : Nat) : Bool := s.rulingUsesRsv k (r / 2 * 2) || s.rulingUsesRsv k (r / 2 * 2 + 1)
    || (s.linesOf (s.slotOf k)).any (fun e => e.2.isWin && e.2.wtype = 3 &&
        (e.2.arg.testBit (r / 2 * 2) || e.2.arg.testBit (r / 2 * 2 + 1)))
  (s.folio.running && used s.folio.actSlot) || (s.folio.swArm && used s.folio.swSlot)

/-- The reaction carried out for an event, and its ESCALATED bit, given the entry's (possibly escalated) reaction
(R418, R419, R420). -/
def State.effective (s : State) (e : Event) (a : Nat) (esc : Bool) : Nat × Bool :=
  let a1 : Nat × Bool :=
    if e.cls = 0x38 && s.dev = .run && e.slot = some s.folio.actSlot then (5, esc || a < 5)
    else if a = 3 && e.utype = 3 && s.pairInUse e.unit && s.dev = .run then (5, true)
    else if a = 4 && s.lineCrit0 e.line then (5, esc)
    else (a, esc)
  let lower : Nat :=
    match s.dev with
    | .run => a1.1
    | .safe => if a1.1 = 4 || a1.1 = 5 then 1 else a1.1
    | .off | .dormant | .fill | .boot | .loaded | .debug =>
      if e.cls = 0x23 && (s.dev = .boot || s.dev = .loaded) then a1.1
      else if a1.1 = 2 || a1.1 = 4 || a1.1 = 5 then 1 else a1.1
  (lower, a1.2)

/-- A queue entry (R424). -/
def State.eqEntry (s : State) (e : Event) (a : Nat) (esc : Bool) (seq : Nat) (coalesced : Nat := 0) : EqEntry :=
  { w0 := BitVec.ofNat 64 (e.cls + a * 2 ^ 8 + bitN esc * 2 ^ 11 + e.utype * 2 ^ 12 + e.unit * 2 ^ 16
      + e.line % 2 ^ 15 * 2 ^ 24 + e.slot.getD s.folio.actSlot * 2 ^ 39 + seq % 65536 * 2 ^ 48),
    w1 := s.folio.number,
    w2 := BitVec.ofNat 64 (s.folioCyc % 2 ^ 28 + e.detail % 2 ^ 32 * 2 ^ 32),
    w3 := BitVec.ofNat 64 (e.addr % 2 ^ 48 + coalesced * 2 ^ 48) }

/-- Queue an entry in its place: before the overflow entry, which stays last (R425, R426). -/
def State.pushEvent (s : State) (x : EqEntry) : State :=
  { s with huv := { s.huv with
      eq := if s.huv.eqOver then s.huv.eq.dropLast ++ [x] ++ s.huv.eq.getLast?.toList else s.huv.eq ++ [x] } }

/-- Request MSI-X vector 1 when an event with IRQ = 1 is queued and the vector is armed (R427). -/
def State.irqVector1 (s : State) (irq : Bool) : State :=
  if irq && s.huv.vec1Armed then
    { s with huv := { s.huv with vec1Armed := false, fw := s.huv.fw ++ [.msix1] } }
  else s

/-- Count one more event in the overflow entry (R426). -/
def State.coalesce (s : State) : State :=
  match s.huv.eq.getLast? with
  | none => s
  | some x =>
    let n := satInc 0xFFFF (bitsOf x.w3 48 16)
    { s with huv := { s.huv with eq := s.huv.eq.dropLast ++ [{ x with w3 := setBits x.w3 48 16 n }] } }

/-- Queue an event of reaction LOG or stronger (R424 to R427). An event that does not fit gives rise to
EVENT_QUEUE_OVERFLOW. -/
def State.queueEvent (s : State) (e : Event) (a : Nat) (esc irq : Bool) : State × List Event :=
  let seq := s.huv.nextSeq
  let s := { s with huv := { s.huv with nextSeq := (seq + 1) % 65536 } }
  let used := s.huv.eq.length - bitN s.huv.eqOver
  if e.cls = 0x81 then
    if s.huv.eqOver then (s.coalesce, [])
    else
      let t := { s with huv := { s.huv with eq := s.huv.eq ++ [s.eqEntry e a esc seq 1], eqOver := true } }
      (t.irqVector1 irq, [])
  else if used < 511 then ((s.pushEvent (s.eqEntry e a esc seq)).irqVector1 irq, [])
  else
    let s := s.modRb e.cls (fun c => { c with ovf := satInc 0xFFFFFFFF c.ovf })
    if s.huv.eqOver then (s.coalesce, []) else (s, [{ cls := 0x81 }])

/-- Start shedding a line: it takes effect at the first tick at least 4,096 cyc after the event (R418). -/
def State.shedLine (s : State) (i : Nat) : State :=
  if s.folio.shed.contains i || s.folio.shedDue.any (fun d => d.1 = i) then s
  else { s with folio := { s.folio with shedDue := s.folio.shedDue ++ [(i, s.cyc + 4096)] } }

/-- Carry out a reaction (R414, R420). FENCE of a reservoir is left to the firmware. -/
def State.react (s : State) (e : Event) (a : Nat) : State × List Event :=
  if a = 3 then
    if e.utype = 1 then s.fencePen e.unit
    else if e.utype = 2 then s.fencePen (e.unit / 2)
    else if e.utype = 3 then ({ s with huv := { s.huv with fw := s.huv.fw ++ [.fenceRsv e.unit] } }, [])
    else (s, [])
  else if a = 4 then (s.shedLine e.line, [])
  else if a = 5 then (if s.dev = .safe then (s, []) else s.enterSafe)
  else (s, [])

/-- Judge one event: count it, escalate, queue it, react (R412, R417, R420). -/
def State.judgeEvent (s : State) (e : Event) : State × List Event :=
  if s.dev = .off || s.dev = .dormant then (s, [])
  else
    let c := s.rbClass e.cls
    let en := c.entry
    let n := c.win + 1
    let fires := bitsOf en 8 8 ≠ 0 && bitsOf en 8 8 ≤ n
    let s := s.modRb e.cls (fun c => { c with count := satInc (2 ^ 48 - 1) c.count, win := if fires then 0 else min 255 n })
    let r := s.effective e (if fires then max (bitsOf en 0 3) (bitsOf en 4 3) else bitsOf en 0 3) fires
    if r.1 = 0 then (s, [])
    else
      let x := s.queueEvent e r.1 r.2 (bitAt en 3)
      let y := x.1.react e r.1
      (y.1, x.2 ++ y.2)

/-- Raise events in order; events that reactions give rise to follow at once. The first argument bounds how many. -/
def State.raiseN : Nat → List Event → State → State
  | 0, _, s => s
  | _ + 1, [], s => s
  | n + 1, e :: es, s =>
    let x := s.judgeEvent e
    State.raiseN n (x.2 ++ es) x.1

/-- Raise a list of events (R412). -/
def State.raiseAll (s : State) (es : List Event) : State := State.raiseN 100000 es s

/-- Raise one event. -/
def State.raise (s : State) (e : Event) : State := s.raiseAll [e]

/-- Raise the events that an operation returned. -/
def raised (x : State × List Event) : State := x.1.raiseAll x.2

/-- LOCKED_REGISTER_WRITE (R13), with the register's CPA (R424). -/
def State.lockedWrite (s : State) (cpa : Nat) : State := s.raise { cls := 0x80, addr := cpa }

/-- A mailbox that is not IDLE answers HUVAS_LOST when the Huvas stops (R353). -/
def lostMailbox (m : Mailbox) : Mailbox :=
  if m.st = .idle then m else { m with st := .done, code := 8, tokenR := m.token }

/-- The Huvas stops (R117, R353): HUVAS_LOST is raised, every mailbox that is not IDLE answers HUVAS_LOST. The part moves
to SAFE in BOOT, LOADED and RUN. -/
def State.huvasStop (s : State) : State :=
  let s := { s with
    huv := { s.huv with
      lost := true, lostVote := true, nibIn := 0, testing := false, foreQ := [], waiting := [],
      prog := none, mb := Table.mapV lostMailbox s.huv.mb }
    blot := { s.blot with pass := s.blot.pass.map (fun (p : ScrubPass) => { p with mb := none }), marching := none } }
  s.raise { cls := 0x23 }

/-- Send an MSI-X message (R339). -/
def State.sendMsix (s : State) (v : Nat) : State := raised (s.msixNow v)

/-- The MSI-X vector that a set `TRC_EVENT` bit requests (R339). -/
def State.trcEvent (s : State) (bit : Nat) : State :=
  ({ s with trc := { s.trc with event := s.trc.event ||| BitVec.ofNat 6 (2 ^ bit) } }).sendMsix 2

end Sys2Proof.Machine
end

