-- ==== Sys2Proof/Machine/Mem.lean ====
section
/-! DEFINITION. Reads and writes of bank words with their error handling: counters, margin log, fault events, merging of
partial words (R285 to R290). -/

namespace Sys2Proof.Machine

/-! ### Error counters and the margin log -/

/-- Sources of the margin log (R300). -/
def srcPen : Nat := 0
def srcPortA : Nat := 1
def srcPortB : Nat := 2
def srcScrub : Nat := 3
def srcCopy : Nat := 4
def srcWalk : Nat := 5
def srcStore : Nat := 6
def srcSave : Nat := 7

/-- The port that serves an engine's access to a bank word, and a pen's store: an inkwell has the pen's port alone, a
reservoir port A for its owner pen and port B (R274, R276, R300). -/
def enginePort (cpa : Nat) : Nat := if isInk cpa then srcPen else srcPortB
def storePort (cpa : Nat) : Nat := if isInk cpa then srcPen else srcPortA

def bumpCe (w : Word) : Word := setBits w 0 32 (satInc 0xFFFFFFFF (bitsOf w 0 32))
def bumpUe (w : Word) : Word := setBits w 32 16 (satInc 0xFFFF (bitsOf w 32 16))
def bumpAddr (w : Word) : Word := setBits w 48 16 (satInc 0xFFFF (bitsOf w 48 16))

/-- Update the error counters of the bank at a CPA (R298, R299). -/
def State.modErr (s : State) (cpa : Nat) (f : Word → Word) : State :=
  if isInk cpa then
    s.modPen (inkPen cpa) (fun p =>
      { p with inkErr := Table.set (fun _ => 0) p.inkErr (inkBank cpa) (f (Table.get (fun _ => 0) p.inkErr (inkBank cpa))) })
  else s.modRsv (rsvNum cpa) (fun r => { r with errCnt := f r.errCnt })

/-- A fault event of the bank at a CPA (R413, R424). -/
def bankEvent (cls cpa : Nat) : Event :=
  if isInk cpa then { cls := cls, utype := 2, unit := 2 * inkPen cpa + inkBank cpa, addr := cpa }
  else { cls := cls, utype := 3, unit := rsvNum cpa, addr := cpa }

/-- Add a correctable error to the margin log (R290). -/
def State.marginAdd (s : State) (cpa syn source : Nat) : State :=
  let f := s.folio16
  let same (m : Margin) : Bool := m.cpa = cpa && (m.source = srcStore) = (source = srcStore)
  if s.blot.ml.any same then
    { s with blot := { s.blot with ml := s.blot.ml.map (fun m =>
        if same m then { m with count := satInc 0xFFFF m.count, last := f } else m) } }
  else if s.blot.ml.length < 64 then
    { s with free := s.free + 1, blot := { s.blot with ml := s.blot.ml ++
        [⟨cpa, syn, source, Config.freeBool s.free, 1, f, f⟩] } }
  else
    let t := { s with blot := { s.blot with mlOver := satInc 0xFFFFFFFF s.blot.mlOver, mlFull := true } }
    if s.blot.mlFull then t else t.raise { cls := 0x32 }

/-- A correctable error met at a CPA: counted and logged (R285). -/
def State.noteCe (s : State) (cpa syn source : Nat) : State := (s.modErr cpa bumpCe).marginAdd cpa syn source

/-- An uncorrectable outcome met at a CPA: counted, and one event raised, of the path's class or of the default class
(R285). -/
def State.noteUe (s : State) (cpa : Nat) (cls : Option Nat) (line : Nat := 0x7FFF) : State :=
  (s.modErr cpa bumpUe).raise { bankEvent (cls.getD 0x30) cpa with line := line }

/-- An ADDRESS outcome met at a CPA (R285). -/
def State.noteAddr (s : State) (cpa : Nat) (cls : Option Nat) (line : Nat := 0x7FFF) : State :=
  (s.modErr cpa bumpAddr).raise { bankEvent (cls.getD 0x31) cpa with line := line }

/-- Read the word at a CPA on some path (R285): the delivered word, if any, and the state with the outcome noted. -/
def State.readWord (s : State) (cpa source : Nat) (cls : Option Nat := none) : Option TWord × State :=
  match s.peek cpa with
  | .clean w => (some w, s)
  | .corrected w syn => (some w, s.noteCe cpa syn source)
  | .uncorrectable _ => (none, s.noteUe cpa cls)
  | .address => (none, s.noteAddr cpa cls)

/-- A read by a requester other than a pen, which takes the valid copy of a mirrored page (R105). `none` stands for a
bank that is off and for an uncorrectable word alike. -/
def State.engineRead (s : State) (cpa : Nat) : Option TWord × State :=
  let a := s.readAt cpa
  if !s.bankReady a then (none, s) else s.readWord a (enginePort a)

/-! ### Injected words and the Huvas's accesses (R297) -/

/-- First CPA of a bank. -/
def bankBase : Bank → Nat
  | .ink p b => inkBase p.val + b.val * 0x40000
  | .rsv r => rsvBase r.val

/-- What an armed bank stores for a word: the flipped bits, and F inverted. -/
def injectCode (cpa : Nat) (w : TWord) (flip0 flip1 : Word) : Code :=
  encodeCode (cpaFold cpa != bitAt flip1 12) w ^^^
    BitVec.ofNat 76 (flip0.toNat + bitsOf flip1 0 12 * 2 ^ 64)

/-- The flip masks of the bank of a CPA, if it is armed for the word there (R298, R299). -/
def State.armAt (s : State) (a : Nat) : Option (Word × Word) :=
  if isInk a then
    let x := s.pen (inkPen a)
    if bitAt x.injFlip1 16 && bitsOf x.injAddr 16 1 = inkBank a && bitsOf x.injAddr 0 16 = a % 0x40000 / 8 then
      some (x.injFlip0, x.injFlip1)
    else none
  else
    let x := s.rsvOf (rsvNum a)
    if bitAt x.injFlip1 16 && bitsOf x.injAddr 0 17 = a % 0x100000 / 8 then some (x.injFlip0, x.injFlip1) else none

/-- The arm of the bank of a CPA is spent. -/
def State.disarm (s : State) (a : Nat) : State :=
  if isInk a then s.modPen (inkPen a) (fun x => { x with injFlip1 := setBit x.injFlip1 16 false })
  else s.modRsv (rsvNum a) (fun x => { x with injFlip1 := setBit x.injFlip1 16 false })

/-- The words that wait for the read that judges their injection, with one more or one less. -/
def State.markInjected (s : State) (a : Nat) (v : Bool) : State :=
  let l := s.blot.injected.filter (· ≠ a)
  { s with blot := { s.blot with injected := if v then a :: l else l } }

/-- The Huvas writes the word at a CPA of one copy: an armed bank stores it with its bits inverted, once (R297). -/
def State.huvasPut (s : State) (a : Nat) (w : TWord) : State :=
  if !s.bankReady a then s
  else match s.armAt a with
    | some f => ((s.pokeCode a (injectCode a w f.1 f.2)).disarm a).markInjected a true
    | none => (s.poke a w).markInjected a false

/-- A write by the Huvas, on both copies of a mirrored page (R105). -/
def State.huvasStore (s : State) (cpa : Nat) (w : TWord) : State := (s.writeAt cpa).foldl (fun t a => t.huvasPut a w) s

/-- The Huvas reads the word at a CPA of one copy; the read that judges an injected word counts and raises nothing for an
uncorrectable or ADDRESS outcome (R285, R297). -/
def State.huvasGet (s : State) (a : Nat) : Option TWord × State :=
  if s.blot.injected.contains a then
    let t := s.markInjected a false
    match t.peek a with
    | .clean w => (some w, t)
    | .corrected w syn => (some w, t.noteCe a syn (enginePort a))
    | .uncorrectable _ | .address => (none, t)
  else s.readWord a (enginePort a)

/-- A read by the Huvas, from the valid copy of a mirrored page (R105). -/
def State.huvasRead (s : State) (cpa : Nat) : Option TWord × State :=
  let a := s.readAt cpa
  if !s.bankReady a then (none, s) else s.huvasGet a

/-! ### Partial words -/

/-- Bytes of `new` chosen by a mask, the others of `old`. -/
def mergeGo : Nat → Nat → Nat → Nat → Nat
  | 0, _, _, _ => 0
  | n + 1, m, new, old =>
    (if m % 2 = 1 then new % 256 else old % 256) + 256 * mergeGo n (m / 2) (new / 256) (old / 256)

def mergeBytes (mask : BitVec 8) (new old : Word) : Word := BitVec.ofNat 64 (mergeGo 8 mask.toNat new.toNat old.toNat)

/-- A read-modify-write of some bytes of the word at a CPA (R287). `none`: the word is uncorrectable and nothing is
written. -/
def State.mergeWord (s : State) (cpa : Nat) (mask : BitVec 8) (data : Word) : Option State :=
  match s.peek cpa with
  | .clean w => some (s.poke cpa ⟨w.tag, mergeBytes mask data w.val⟩)
  | .corrected w syn => some ((s.poke cpa ⟨w.tag, mergeBytes mask data w.val⟩).noteCe cpa syn (storePort cpa))
  | .uncorrectable _ => none
  | .address => none

/-- The uncorrectable outcome of a merge, noted (R285, R287). -/
def State.noteBad (s : State) (cpa : Nat) (cls : Option Nat) (line : Nat := 0x7FFF) : State :=
  match s.peek cpa with
  | .uncorrectable _ => s.noteUe cpa cls line
  | .address => s.noteAddr cpa cls line
  | .clean _ => s
  | .corrected _ _ => s

/-! ### Copies of pages -/

/-- A word with tag POISON whose payload the manual leaves open (R73, R296): a free value. -/
def State.freePoison (s : State) : TWord × State :=
  let x := s.takeFree
  (⟨Tag.poison, x.1⟩, x.2)

/-- Write POISON with an open payload over the word at a CPA. -/
def State.poisonAt (s : State) (cpa : Nat) : State :=
  let x := s.freePoison
  x.2.poke cpa x.1

/-- Copy `n` words from one CPA to another; an uncorrectable word becomes POISON. The class is that of the path's events
(R73, R113). -/
def State.copyWords (source : Nat) (cls : Option Nat) (line : Nat) : Nat → Nat → Nat → State → State
  | 0, _, _, s => s
  | n + 1, src, dst, s =>
    let s' : State :=
      match s.peek src with
      | .clean w => s.poke dst w
      | .corrected w syn => (s.poke dst w).noteCe src syn source
      | .uncorrectable _ => (s.poisonAt dst).noteUe src cls line
      | .address => (s.poisonAt dst).noteAddr src cls line
    State.copyWords source cls line n (src + 8) (dst + 8) s'

/-! ### Words written by engines -/

/-- An engine's write of some bytes of a word, leaving the word RAW (R287, R385). `false`: the word is uncorrectable. -/
def State.enginePartial (s : State) (cpa : Nat) (mask : BitVec 8) (data : Word) : Bool × State :=
  if mask = 0xFF then (true, s.engineWrite cpa (TWord.raw data))
  else
    let a := s.readAt cpa
    if !s.bankReady a then (false, s)
    else
      match s.peek a with
      | .clean w => (true, s.engineWrite cpa (TWord.raw (mergeBytes mask data w.val)))
      | .corrected w syn => (true, (s.engineWrite cpa (TWord.raw (mergeBytes mask data w.val))).noteCe a syn (enginePort a))
      | .uncorrectable _ => (false, s.noteUe a none)
      | .address => (false, s.noteAddr a none)

/-! ### Draft pages of the feed engine (R81) -/

/-- The banks of both frames of a slot are on (R26). -/
def State.draftReady (s : State) (n : Nat) : Bool :=
  s.bankReady (s.readAt ((s.vslot n).fairFrame * 4096)) && s.bankReady (s.readAt ((s.vslot n).draftFrame * 4096))

/-- Make the draft of a slot writable by the feed: a FAIR page is copied into its other frame and becomes DRAFTED. -/
def State.feedDraft (s : State) (n : Nat) : State :=
  let v := s.vslot n
  if v.st = .fair then
    let src := s.readAt (v.fairFrame * 4096)
    let s := (upTo 512).foldl (fun t i =>
      let x := t.readWord (src + 8 * i) srcCopy (some 0x15)
      match x.1 with
      | some w => x.2.engineWrite (v.draftFrame * 4096 + 8 * i) w
      | none =>
        let y := x.2.freePoison
        y.2.engineWrite (v.draftFrame * 4096 + 8 * i) y.1) s
    s.modVslot n (fun v => { v with st := .drafted, feedDraft := true })
  else s

/-- CPA of byte offset `off` in the draft frame of a slot. -/
def State.draftCpa (s : State) (n off : Nat) : Nat := (s.vslot n).draftFrame * 4096 + off

end Sys2Proof.Machine
end

