-- ==== Sys2Proof/Machine/Mailboxes.lean ====
section
/-! DEFINITION. The end of a Huvas command: result words, CODE and STATE = DONE in one access, then MSI-X vector 0
(R350). -/

namespace Sys2Proof.Machine

/-- Finish the command of a mailbox with a code and result words (R350, R354). -/
def State.finish (s : State) (m code : Nat) (res : List Word := []) : State :=
  let r : Table Word := (upTo res.length).foldl (fun t i => Table.set (fun _ => 0) t i (res.getD i 0)) []
  let s := s.modMbox m (fun b => { b with st := .done, code := code, tokenR := b.token, res := r })
  { s with huv := { s.huv with foreQ := s.huv.foreQ.filter (· ≠ m) } }.sendMsix 0

/-- A result word of a number. -/
def wordN (n : Nat) : Word := BitVec.ofNat 64 n

/-- The latched argument word `i` of a mailbox. -/
def State.arg (s : State) (m i : Nat) : Word := Table.get (fun _ => 0) (s.mbox m).latch i

end Sys2Proof.Machine
end

