-- ==== Sys2Proof/Machine/Verify.lean ====
section
/-! DEFINITION. The checks of a ruling (R55 to R57): the rules of R56 in their order, the reservoir scenarios, the report
of R55, and the activation checks of R367. -/

namespace Sys2Proof.Machine

/-- A rejection report (R55). -/
structure Report where
  code     : Nat
  lineA    : Nat := 0xFFFF
  lineB    : Nat := 0xFFFF
  scenPen  : Nat := 0x7F
  scenLine : Nat := 0xFFFF
  deriving DecidableEq, Repr

/-- The value that sorts above every line index (R55). -/
def noLine : Nat := 0xFFFF

/-- A run of a line in a scenario or a placement: the pen of the run and its window. -/
structure RunPlan where
  line : Nat
  l    : RLine
  pen  : Nat
  s    : Nat
  e    : Nat
  deriving DecidableEq, Repr

/-- A resident ruling as the checks see it: header words, lines, handover words. -/
structure Image where
  header : List Word
  lines  : List (Nat × RLine)
  hos    : List Nat
  deriving DecidableEq, Repr

/-- The image in a slot. -/
def State.imageOf (s : State) (k : Nat) : Image :=
  let r := s.slotOf k
  { header := r.header, lines := s.linesOf r, hos := (upTo r.hos).map (s.hoOf r) }

/-- Handover entries of a line's list that lie in the image. -/
def imgHandovers (im : Image) (l : RLine) : List Handover :=
  ((im.hos.drop l.hoFirst).take l.hoCount).map handoverOf

def overlap (a b c d : Nat) : Bool := a < d && c < b

/-- A DUPLEX or LIGATURE line. -/
def RLine.runs (l : RLine) : Bool := l.isTask && l.mode < 2
/-- The recovery column of a line is valid. -/
def RLine.hasRec (l : RLine) : Bool := l.isDuplex && l.recEn
/-- The pens that a task line's window occupies; a ligature occupies both of its pens. -/
def RLine.pens (l : RLine) : List Nat :=
  if !l.isTask then [] else if l.isLig then [l.pen, l.pen + 1] else [l.pen]
def RLine.isWindow (l : RLine) (t : Nat) : Bool := l.isWin && l.wtype = t

/-! ### Failing cases of the rules: pairs of LINE_A and LINE_B -/

/-- The header rules 0x0101 to 0x0103 (R40). The last element of the kept header is the unused half of the image's last
handover word, so that the CRC is that of the image as it was handed over. -/
def badMagic (im : Image) : Bool :=
  let w := im.header.getD 0 0
  bitsOf w 0 32 ≠ 0x56454C52 || bitsOf w 32 16 ≠ 1

/-- Words of the handover part of an image. -/
def hoWords : List Nat → Nat → List Word
  | [], _ => []
  | [a], pad => [BitVec.ofNat 64 (a + pad * 2 ^ 32)]
  | a :: b :: t, pad => BitVec.ofNat 64 (a + b * 2 ^ 32) :: hoWords t pad

def imageWords (im : Image) : List Word :=
  (upTo 64).map (fun i => let w := im.header.getD i 0; if i = 3 then setBits w 0 32 0 else w)
    ++ im.lines.flatMap (fun e => [e.2.w0, e.2.w1, e.2.w2, e.2.w3])
    ++ hoWords im.hos (im.header.getD 64 0).toNat

def badCrc (im : Image) : Bool := crc32c (imageWords im) ≠ bitsOf (im.header.getD 3 0) 0 32

def badHeader (im : Image) : Bool :=
  let w (i : Nat) : Word := im.header.getD i 0
  let lines := bitsOf (w 2) 0 16
  let hos := bitsOf (w 2) 16 15
  lines = 0 || 32768 < lines || 16384 < hos
    || (upTo 32).any (fun r => 0x40 < initOwner im.header r || bitAt (w (4 + r / 8)) (8 * (r % 8) + 7))
    || bitsOf (w 0) 48 16 ≠ 0 || bitsOf (w 1) 27 37 ≠ 0 || bitsOf (w 2) 31 33 ≠ 0 || bitsOf (w 3) 32 32 ≠ 0
    || (upTo 22).any (fun i => w (42 + i) ≠ 0)

/-- Reserved bits of a handover entry (R45). -/
def hoReserved (h : Nat) : Bool := h / 2 ^ 23 ≠ 0 || h / 2 ^ 10 % 2 ^ 6 ≠ 0 || h / 2 ^ 5 % 2 ^ 3 ≠ 0

/-- A handover entry that names a pen out of range (R56, HO_RANGE). -/
def hoOutOfRange (h : Nat) : Bool :=
  let e := handoverOf h
  if e.action = 0 then false else if e.pen = 0x40 then e.action ≠ 1 else 63 < e.pen

/-- Reserved bits and fields that must be 0 (R41, R42, R47). -/
def lineReserved (l : RLine) : Bool :=
  bitsOf l.w0 56 2 ≠ 0 || bitsOf l.w0 28 14 ≠ 0 || bitsOf l.w1 28 4 ≠ 0 ||
    (if l.isTask then
      bitAt l.w2 62 || bitsOf l.w3 0 14 ≠ 0 ||
        (l.mode = 2 && (l.crit ≠ 0 || l.part ≠ 0 || l.seed ≠ 0 || l.task ≠ 0 || l.w2 ≠ 0 || l.w3 ≠ 0))
     else
      l.w2 ≠ 0 || l.w3 ≠ 0 || (1 < l.wtype && l.part ≠ 0) || (l.wtype ≠ 5 && l.unit ≠ 0)
        || (l.wtype = 2 && l.arg ≠ 0) || (l.wtype < 2 && l.arg / 65536 ≠ 0))

/-- Failing lines of a rule about one line. -/
def lineCases (im : Image) (p : RLine → Bool) : List (Nat × Nat) :=
  (im.lines.filter (fun e => p e.2)).map (fun e => (e.1, noLine))

/-- Failing handover entries (R55): LINE_A is the lowest line whose list includes the entry. -/
def hoCases (im : Image) (p : Nat → Bool) : List (Nat × Nat) :=
  ((upTo im.hos.length).filter (fun k => p (im.hos.getD k 0))).map (fun k =>
    (match im.lines.find? (fun e => e.2.isTask && e.2.hoFirst ≤ k && k < e.2.hoFirst + e.2.hoCount) with
     | some e => e.1
     | none => noLine, k))

/-- Failing pairs of lines, the lower index first. -/
def pairCases (ls : List (Nat × RLine)) (p : RLine → RLine → Bool) : List (Nat × Nat) :=
  match ls with
  | [] => []
  | a :: t => (t.filter (fun b => p a.2 b.2)).map (fun b => (a.1, b.1)) ++ pairCases t p

/-- Failing neighbours in START order. -/
def orderCases : List (Nat × RLine) → List (Nat × Nat)
  | a :: b :: t => (if b.2.start < a.2.start then [(a.1, b.1)] else []) ++ orderCases (b :: t)
  | [_] => []
  | [] => []

/-- The window of a PUBLISH or FETCH line names a set that the line's partition does not own (R56, WINDOW_ARG). -/
def State.badArg (s : State) (l : RLine) : Bool :=
  if l.wtype = 5 then 3 < l.unit || l.arg / 256 ≠ 0
  else if l.wtype < 2 then
    let c := s.chanSet (l.arg % 65536)
    1023 < l.arg % 65536 || !c.valid || c.part ≠ l.part
  else if l.wtype = 3 || l.wtype = 4 then l.arg = 0
  else false

/-- A recovery window lies wholly inside one RECOVERY_ONLY line on its pen. -/
def insideReserve (im : Image) (l : RLine) : Bool :=
  im.lines.any (fun e => e.2.isRes && e.2.pen = l.recPen && e.2.start ≤ l.recStart
    && l.recStart + l.budget ≤ e.2.start + e.2.budget)

def one (b : Bool) : List (Nat × Nat) := if b then [(noLine, noLine)] else []

/-- The failing cases of the rule with a code, for the rules 0x01xx to 0x04xx (R56). -/
def State.ruleCases (s : State) (im : Image) (code : Nat) : List (Nat × Nat) :=
  let f := nominalF s.folio.period
  let u := usableU s.folio.period
  match code with
  | 0x0101 => one (badMagic im)
  | 0x0102 => one (badCrc im)
  | 0x0103 => one (badHeader im)
  | 0x0104 => one (bitsOf (im.header.getD 1 0) 0 27 ≠ s.folio.period)
  | 0x0201 => lineCases im (fun l => !l.isTask && !l.isWin)
  | 0x0202 => lineCases im (fun l => (l.isTask && l.mode = 3) || (l.isWin && 5 < l.wtype))
  | 0x0203 => lineCases im lineReserved ++ hoCases im hoReserved
  | 0x0204 => orderCases im.lines
  | 0x0205 => lineCases im (fun l => if l.isTask then l.budget = 0 else if l.wtype = 5 then l.len ≠ 0 else l.len = 0)
  | 0x0206 => lineCases im (fun l => l.runs && l.seed = 0)
  | 0x0207 => lineCases im (fun l => (l.runs || (l.isWin && l.wtype < 2)) && !(s.partOf l.part).up)
  | 0x0208 => lineCases im (fun l => l.isLig && l.pen % 2 = 1)
  | 0x0209 => lineCases im (fun l =>
      if l.runs then u < l.start + l.budget + 4
      else if l.isTask then u < l.start + l.budget
      else f < l.start + l.len || (l.wtype = 5 && f ≤ l.start))
  | 0x020A => lineCases im (fun l => l.runs && (l.deadline < l.start + l.budget + 4 || u < l.deadline))
  | 0x020B => lineCases im (fun l => l.isTask && im.hos.length < l.hoFirst + l.hoCount) ++ hoCases im hoOutOfRange
  | 0x020C => lineCases im (fun l => l.isWin && s.badArg l)
  | 0x0301 => lineCases im (fun l => l.isDuplex && l.crit < 3 && !l.recEn)
  | 0x0302 => lineCases im (fun l => (l.isLig || l.isRes) && l.recEn)
  | 0x0303 => lineCases im (fun l => l.hasRec && l.recPen = l.pen)
  | 0x0304 => lineCases im (fun l => l.hasRec && l.recStart < l.start + l.budget + 16)
  | 0x0305 => lineCases im (fun l => l.hasRec && l.deadline < l.recStart + l.budget + 4)
  | 0x0306 => lineCases im (fun l => l.hasRec && !insideReserve im l)
  | 0x0307 => pairCases im.lines (fun a b => a.hasRec && b.hasRec && a.pen = b.pen && a.recPen = b.recPen
      && overlap a.recStart (a.recStart + a.budget) b.recStart (b.recStart + b.budget))
  | 0x0401 => pairCases im.lines (fun a b => a.pens.any (fun p => b.pens.contains p)
      && overlap a.start (a.start + a.budget) b.start (b.start + b.budget))
  | 0x0402 => pairCases im.lines (fun a b => a.isWindow 2 && b.isWindow 2
      && overlap a.start (a.start + a.len) b.start (b.start + b.len))
  | _ => []

/-- The codes of the rules before the reservoir rules, in the order of R56. -/
def ruleCodes : List Nat :=
  [0x0101, 0x0102, 0x0103, 0x0104, 0x0201, 0x0202, 0x0203, 0x0204, 0x0205, 0x0206, 0x0207, 0x0208, 0x0209, 0x020A,
   0x020B, 0x020C, 0x0301, 0x0302, 0x0303, 0x0304, 0x0305, 0x0306, 0x0307, 0x0401, 0x0402]

/-! ### The reservoir rules (R57) -/

/-- The owner that a handover entry of run `x` sets, if it sets one (R45, R46). -/
def hoOwner (x : RunPlan) (h : Handover) : Option Nat :=
  if h.action = 0 then some x.pen
  else if h.action = 1 then some (if h.pen = x.l.pen then x.pen else h.pen)
  else none

/-- Apply the lists of the runs that start at one instant: owners, and for each reservoir the first run that changed
it. -/
def applyLists (im : Image) (xs : List RunPlan) (o : List Nat) : List Nat × List (Nat × Nat) :=
  xs.foldl (fun (st : List Nat × List (Nat × Nat)) (x : RunPlan) =>
    (imgHandovers im x.l).foldl (fun (st : List Nat × List (Nat × Nat)) (h : Handover) =>
      match hoOwner x h with
      | none => st
      | some q =>
        (st.1.set h.rsv q,
         if st.1.getD h.rsv 0x40 ≠ q && !st.2.any (fun c => c.1 = h.rsv) then st.2 ++ [(h.rsv, x.line)] else st.2)) st)
    (o, [])

/-- Distinct instants at which runs start, rising. -/
def startTimes (runs : List RunPlan) : List Nat := (sortBy id (runs.map (·.s))).eraseDups

/-- The ownership failures at the instants of a scenario: code, LINE_A, LINE_B. -/
def ownerGo (im : Image) (runs : List RunPlan) : List Nat → List Nat → List (Nat × Nat × Nat)
  | [], _ => []
  | t :: ts, o =>
    let x := applyLists im (sortBy (·.line) (runs.filter (fun y => y.s = t))) o
    let fails := (runs.filter (fun y => y.s ≤ t && t < y.e)).flatMap (fun y =>
      ((upTo 32).filter (fun r => y.l.rsvUse.testBit r && x.1.getD r 0x40 ≠ y.pen)).map (fun r =>
        if y.s = t then (0x0501, y.line, noLine)
        else (0x0502, ((x.2.find? (fun c => c.1 = r)).map (fun (c : Nat × Nat) => c.2)).getD noLine, y.line)))
    fails ++ ownerGo im runs ts x.1

/-- All failures of the reservoir rules in one scenario (R57). -/
def ownerFailures (im : Image) (runs : List RunPlan) : List (Nat × Nat × Nat) :=
  ownerGo im runs (startTimes runs) ((upTo 32).map (initOwner im.header))
    ++ (im.lines.filter (fun e => e.2.isWindow 4)).flatMap (fun m =>
      (runs.filter (fun y => overlap m.2.start (m.2.start + m.2.len) y.s y.e && (m.2.arg &&& y.l.rsvUse) ≠ 0)).map
        (fun y => (0x0503, m.1, y.line)))

/-- The primary run of a line. -/
def primaryRun (e : Nat × RLine) : RunPlan := ⟨e.1, e.2, e.2.pen, e.2.start, e.2.start + e.2.budget⟩
/-- The recovery run of a line. -/
def recoveryRun (e : Nat × RLine) : RunPlan := ⟨e.1, e.2, e.2.recPen, e.2.recStart, e.2.recStart + e.2.budget⟩

/-- The runs of scenario (p, j) (R57). -/
def scenarioRuns (im : Image) (p j : Nat) : List RunPlan :=
  im.lines.filterMap (fun e =>
    if !e.2.runs then none
    else if e.2.isDuplex && e.2.pen = p && j ≤ e.1 then (if e.2.recEn then some (recoveryRun e) else none)
    else some (primaryRun e))

/-- The scenarios in the order of R55: the fault-free folio, then (p, j). -/
def scenarios (im : Image) : List (Nat × Nat × List RunPlan) :=
  (0x7F, noLine, (im.lines.filter (fun e => e.2.runs)).map primaryRun) ::
    (upTo 64).flatMap (fun p =>
      (im.lines.filter (fun e => e.2.runs && e.2.pens.contains p)).map (fun e => (p, e.1, scenarioRuns im p e.1)))

/-! ### The report (R55) -/

/-- The lexicographic order of two pairs. -/
def pairLt (a b : Nat × Nat) : Bool := a.1 < b.1 || (a.1 = b.1 && a.2 < b.2)

/-- The first of the lowest elements under a strict order. -/
def lowest {α : Type} (lt : α → α → Bool) : List α → Option α
  | [] => none
  | a :: t => match lowest lt t with
    | none => some a
    | some b => if lt b a then some b else some a

/-- The report of a reservoir rule: among its failures in all scenarios the one that R55 orders first. -/
def scenarioReport (fails : List (Report)) (code : Nat) : Option Report :=
  lowest (fun a b => pairLt (a.lineA, a.lineB) (b.lineA, b.lineB)) (fails.filter (fun r => r.code = code))

/-- Every failure of the reservoir rules, scenario by scenario. -/
def allFailures (im : Image) : List Report :=
  (scenarios im).flatMap (fun sc => (ownerFailures im sc.2.2).map (fun f =>
    { code := f.1, lineA := f.2.1, lineB := f.2.2, scenPen := sc.1, scenLine := sc.2.1 }))

/-- The first failing rule among some codes. -/
def State.firstFailing (s : State) (im : Image) (codes : List Nat) : Option Report :=
  codes.findSome? (fun c => (lowest pairLt (s.ruleCases im c)).map (fun x => { code := c, lineA := x.1, lineB := x.2 }))

/-- Verify a resident ruling (R55 to R57): `none` accepts it. -/
def State.verify (s : State) (k : Nat) : Option Report :=
  let im := s.imageOf k
  match s.firstFailing im ruleCodes with
  | some r => some r
  | none =>
    let fails := allFailures im
    [0x0501, 0x0502, 0x0503].findSome? (scenarioReport fails)

/-- The result words of a report (R366). -/
def Report.words (r : Report) : List Word :=
  [wordN r.code, wordN (r.lineA + r.lineB * 2 ^ 16 + r.scenPen * 2 ^ 32 + r.scenLine * 2 ^ 48)]

/-! ### Activation checks (R367, steps 1 to 4, and R279) -/

/-- A task line names a pen (R367, step 2). -/
def namesPen (l : RLine) (p : Nat) : Bool := l.isTask && (l.pens.contains p || (l.hasRec && l.recPen = p))

/-- The reservoirs that a ruling names in INIT_OWNER, RSV_USE, a handover or a SCRUB or MARCH mask. -/
def namesRsv (im : Image) (r : Nat) : Bool :=
  initOwner im.header r ≠ 0x40 || im.hos.any (fun h => (handoverOf h).rsv = r)
    || im.lines.any (fun e => (e.2.isTask && e.2.rsvUse.testBit r)
        || ((e.2.isWindow 3 || e.2.isWindow 4) && e.2.arg.testBit r))

/-- The ruling uses a domain that is off. -/
def State.usesOffDomain (s : State) (im : Image) : Bool :=
  (upTo 64).any (fun p => !s.penOn p && im.lines.any (fun e => namesPen e.2 p))
    || (upTo 32).any (fun r => !s.rsvOn r && namesRsv im r)
    || im.lines.any (fun e => e.2.isWindow 5 && !s.macOn e.2.unit)
    || (!s.blotOn && im.lines.any (fun e => e.2.isWindow 3 || e.2.isWindow 4))

/-- A pen of a line is absent from its partition's PEN_MASK. -/
def State.unprepared (s : State) (im : Image) : Bool :=
  im.lines.any (fun e => e.2.runs && ((e.2.pens ++ (if e.2.hasRec then [e.2.recPen] else [])).any
    (fun p => !bitAt (s.partOf e.2.part).penMask p)))

/-- The activation checks: a result code (0 passes) and result words. -/
def State.activationCheck (s : State) (k : Nat) (mapped : Nat → Nat → Bool) : Nat × List Word :=
  let im := s.imageOf k
  match s.firstFailing im [0x0104, 0x0207, 0x020C] with
  | some r => (0x0808, r.words)
  | none =>
    if s.usesOffDomain im then (0x0809, [])
    else if s.unprepared im then (0x080A, [])
    else if (upTo 256).any (fun q => (s.partOf q).up && (upTo 64).any (fun p =>
        mapped q p && !im.lines.any (fun e => e.2.runs && e.2.part = q && (e.2.pens.contains p ||
          (e.2.hasRec && e.2.recPen = p))))) then (0x0705, [])
    else (0, [])

/-- The status page of pen `p` is mapped in a partition's stage 2 (R25). -/
def State.statusMapped (s : State) (q p : Nat) : Bool :=
  let home := lowestPen (s.partOf q).penMask
  (s.partLeaves q home).any (fun x => !bitAt x.2.1 6 && s2Addr home x.2.1 = 0x40400000 + p * 0x10000)

/-- The checks of an activation: R367 steps 1 to 4, then pinned reservoirs (R279). -/
def State.mayActivate (s : State) (k : Nat) : Nat × List Word :=
  let c := s.activationCheck k s.statusMapped
  if c.1 ≠ 0 then c
  else if (upTo 32).any (fun r => (s.rsvOf r).pin && s.rulingUsesRsv k r) then (0x0901, [])
  else (0, [])

end Sys2Proof.Machine
end

