-- ==== Sys2Proof/Machine/Feed.lean ====
section
/-! DEFINITION. The feed engine's channels: descriptors, element addressing, the checks of a publication, the frames that
publications build, and what a PUBLISH window does with each out channel (R379 to R388, R395 to R397, R400, R403). -/

namespace Sys2Proof.Machine

/-! ### Descriptors (R380, R381) -/

/-- Word `k` of a descriptor. -/
def dWord (d : Desc) (k : Nat) : Word := d.words.getD k 0
def dType (d : Desc) : Nat := bitsOf (dWord d 0) 0 4
def dUnit (d : Desc) : Nat := bitsOf (dWord d 0) 4 3
def dMode (d : Desc) : Nat := bitsOf (dWord d 0) 8 3
def dEsize (d : Desc) : Nat := bitsOf (dWord d 0) 11 2
def dScale (d : Desc) : Nat := bitsOf (dWord d 0) 13 2
def dSlot (d : Desc) : Nat := bitsOf (dWord d 0) 16 13
def dSub (d : Desc) : Nat := bitsOf (dWord d 0) 32 8
def dCb (d : Desc) : Bool := bitAt (dWord d 0) 40
def dVlan (d : Desc) : Bool := bitAt (dWord d 0) 41
def dOffset (d : Desc) : Nat := bitsOf (dWord d 1) 0 12
def dCount (d : Desc) : Nat := bitsOf (dWord d 1) 16 13
def dIdxOff (d : Desc) : Nat := bitsOf (dWord d 1) 48 12
/-- Bytes of an element. -/
def dElem (d : Desc) : Nat := 2 ^ dEsize d
/-- Bytes between elements. -/
def dStep (d : Desc) : Nat := let st := bitsOf (dWord d 1) 32 12; if st = 0 then dElem d else st
def dIsOut (d : Desc) : Bool := [1, 3, 5, 7, 9].contains (dType d)
/-- The queue of a QUEUE_OUT or QUEUE_IN channel. -/
def dQueue (d : Desc) : Nat := bitsOf (dWord d 2) 0 14
/-- The second MAC of a channel with CB = 1 (R381). -/
def dMac2 (d : Desc) : Nat :=
  match dType d with
  | 3 => bitsOf (dWord d 2) 4 2
  | 4 => bitsOf (dWord d 3) 28 2
  | 5 => bitsOf (dWord d 5) 4 2
  | _ => bitsOf (dWord d 3) 48 2
/-- The MACs of an Ethernet channel. -/
def dMacs (d : Desc) : List Nat := if dCb d then [dUnit d, dMac2 d] else [dUnit d]

/-- The implemented bits of the endpoint words 2 to 7 of a type (R381, R406). -/
def endpointMasks (d : Desc) : List Nat :=
  match dType d with
  | 1 | 2 => [0x3FFF]
  | 3 => [0x37]
  | 4 => [0xFFFFFFFFFFFF, 0x3FFFFFFF]
  | 5 => [0xFFFFFFFFFFFFFFFF, 0xFFFFFFFFFFFFFFFF, 0xFFFFFFFFFFFFFFFF, 0x137]
  | 6 => [0xFFFFFFFFFFFFFFFF, 0x30FFFFFFFFFFF]
  | 7 => [0xFFFFFFFF]
  | 8 => [0x3FFFFFFF, 0x1FFFFFFF]
  | 9 | 10 => [0xFFFFFFFFFFFFFFFF]
  | 11 => if bitAt (dWord d 2) 0 then [0x71, 0x3FFFFFFF, 0x1FFFFFFF] else [0xFFFFFF0001, 0xFFFFFFFFFFFFFFFF, 0xFFFFFFF]
  | _ => []

/-- The bits of the eight words of a descriptor that hold fields (R380, R381). -/
def descMasks (d : Desc) : List Nat := 0x3FF1FFF7F7F :: 0xFFF0FFF1FFF0FFF :: endpointMasks d ++ List.replicate 6 0

/-- Pins of a mask in ascending order (R403). -/
def pinsOf (w : Word) : List Nat := (upTo 64).filter (fun n => bitAt w n)

/-- The descriptors of a defined set with their store entries, in order. -/
def State.channels (s : State) (k : Nat) : List (Nat × Desc) :=
  let c := s.chanSet k
  if c.valid then (upTo c.count).map (fun j => (c.first + j, s.desc (c.first + j))) else []

/-- The descriptors of every defined set. -/
def State.allChannels (s : State) : List (Nat × Desc) := s.feed.sets.flatMap (fun e => s.channels e.1)

/-! ### Element addressing (R384) -/

/-- Reversal of the low `b` bits of a number. -/
def revBits : Nat → Nat → Nat
  | 0, _ => 0
  | b + 1, n => (n % 2) * 2 ^ b + revBits b (n / 2)

/-- Byte offset of element `i` for base `base`; `x` is the payload of the index word, for SCALED. -/
def elemAddr (d : Desc) (base i : Nat) (x : Int) : Int :=
  match dMode d with
  | 0 => (base + i * dStep d : Nat)
  | 1 => (base : Int) - ((i + 1) * dStep d : Nat)
  | 2 => base + x * (2 ^ dScale d : Nat)
  | 3 => (dOffset d + i % max 1 (dCount d) * dStep d : Nat)
  | _ => (dOffset d + revBits (Nat.log2 (dCount d)) (i % max 1 (dCount d)) * dStep d : Nat)

/-- An element lies in the page and on its boundary (R385). -/
def elemOk (d : Desc) (a : Int) : Bool :=
  0 ≤ a && a + (dElem d : Int) ≤ 4096 && (dEsize d < 3 || a % 8 = 0)

/-- The words that elements touch. -/
def touched (e : Nat) (addrs : List Nat) : List Nat := (addrs.flatMap (fun a => [a / 8, (a + e - 1) / 8])).eraseDups

/-- Byte `a` of a page whose words are given. -/
def pageByte (ws : Table TWord) (a : Nat) : Byte :=
  BitVec.ofNat 8 ((Table.get (fun _ => TWord.uninit) ws (a / 8)).val.toNat / 2 ^ (8 * (a % 8)))

/-- Read some words of a page as the feed engine does: the words that could be delivered, and whether all could. -/
def State.readPage (s : State) (base : Nat) (l : List Nat) : Table TWord × Bool × State :=
  l.foldl (fun (x : Table TWord × Bool × State) k =>
    let r := x.2.2.engineRead (base + 8 * k)
    match r.1 with
    | some w => (Table.ins x.1 k w, x.2.1, r.2)
    | none => (x.1, false, r.2)) ([], true, s)

/-! ### Gathering (R385) -/

/-- The channel status codes used here (R338, R388). -/
def stOk : Nat := 0
def stSuperseded : Nat := 2
def stMemError : Nat := 3
def stBadEntry : Nat := 4
def stTooLong : Nat := 5
def stHostError : Nat := 6
def stFabricError : Nat := 7
def stRange : Nat := 8
def stTag : Nat := 9
def stNotSent : Nat := 0xA
def stPortDown : Nat := 0xB
def stHeld : Nat := 0xC

/-- What gathering gives: a status that ends the publication, or the bytes and, for elements of 8 bytes, the words. -/
inductive Gathered
  | bad (status : Nat)
  | ok (bytes : List Byte) (words : List TWord)
  deriving DecidableEq, Repr

/-- Tags that a publication admits in the words it touches. -/
def gatherTag (esize : Nat) (t : Tag) : Bool :=
  if esize < 3 then t = Tag.raw else t = Tag.raw || t = Tag.int || t = Tag.uint || t = Tag.time || t = Tag.fixq

/-- The index payloads of a SCALED channel, read from its list: a status, or the payloads (R384, R385). -/
def State.indexList (s : State) (d : Desc) (base n : Nat) : (Nat ⊕ List Int) × State :=
  if dMode d ≠ 2 then (.inr (List.replicate n 0), s)
  else if 4096 < dIdxOff d + 8 * n then (.inl stRange, s)
  else
    let x := s.readPage base ((upTo n).map (fun i => dIdxOff d / 8 + i))
    let ws := (upTo n).map (fun i => Table.get (fun _ => TWord.uint 0) x.1 (dIdxOff d / 8 + i))
    if ws.any (fun w => w.tag ≠ Tag.int && w.tag ≠ Tag.uint) then (.inl stTag, x.2.2)
    else if !x.2.1 then (.inl stMemError, x.2.2)
    else (.inr (ws.map (fun w => if w.tag = Tag.int then w.val.toInt else (w.val.toNat : Int))), x.2.2)

/-- Gather `n` elements of a channel from the page at CPA `base`. Words of a GPIO_OUT may carry any tag (R403). -/
def State.gather (s : State) (d : Desc) (base n : Nat) : Gathered × State :=
  let x := s.indexList d base n
  match x.1 with
  | .inl st => (.bad st, x.2)
  | .inr xs =>
    let as := (upTo n).map (fun i => elemAddr d (dOffset d) i (xs.getD i 0))
    if as.any (fun a => !elemOk d a) then (.bad stRange, x.2)
    else
      let addrs := as.map Int.toNat
      let y := x.2.readPage base (touched (dElem d) addrs)
      if dType d ≠ 9 && y.1.any (fun e => !gatherTag (dEsize d) e.2.tag) then (.bad stTag, y.2.2)
      else if !y.2.1 then (.bad stMemError, y.2.2)
      else (.ok (addrs.flatMap (fun a => (upTo (dElem d)).map (fun k => pageByte y.1 (a + k))))
                (addrs.map (fun a => Table.get (fun _ => TWord.uninit) y.1 (a / 8))), y.2.2)

/-! ### Frames -/

/-- Bytes of a number, most significant first. -/
def beBytes : Nat → Nat → List Byte
  | 0, _ => []
  | k + 1, n => BitVec.ofNat 8 (n / 2 ^ (8 * k)) :: beBytes k n

/-- The number that bytes spell, most significant first. -/
def beNat (l : List Byte) : Nat := l.foldl (fun n b => n * 256 + b.toNat) 0

/-- `n` bytes from offset `a` of a frame, as a number. -/
def fieldAt (l : List Byte) (a n : Nat) : Nat := beNat ((l.drop a).take n)

/-- The sum of the 16-bit words of some bytes, most significant byte first. -/
def sum16 : List Byte → Nat
  | a :: b :: t => a.toNat * 256 + b.toNat + sum16 t
  | [a] => a.toNat * 256
  | [] => 0

/-- The Internet checksum of some bytes. -/
def inetSum (l : List Byte) : Nat :=
  let n := sum16 l
  let n := n % 65536 + n / 65536
  65535 - (n % 65536 + n / 65536)

/-- The R-TAG of a replicated frame goes after the addresses and an 802.1Q tag (R395). -/
def insertRtag (f : List Byte) (seq : Nat) : List Byte :=
  let a := if fieldAt f 12 2 = 0x8100 then 16 else 12
  f.take a ++ beBytes 2 0xF1C1 ++ beBytes 2 0 ++ beBytes 2 (seq % 65536) ++ f.drop a

/-- The MAC replaces bytes 6 to 11 by its own address (R392) and pads short frames to the 60 bytes before the FCS. -/
def finishFrame (m : Nat) (f : List Byte) : List Byte :=
  let g := f.take 6 ++ beBytes 6 (Config.fuses.macAddr.getD m 0).toNat ++ f.drop 12
  g ++ List.replicate (60 - g.length) 0

/-- The IPv4 header of a TRDP frame with `len` bytes after it (R396). -/
def ipHeader (id src dst len : Nat) : List Byte :=
  let h (sum : Nat) : List Byte :=
    [0x45, 0] ++ beBytes 2 (20 + len) ++ beBytes 2 id ++ [0x40, 0, 64, 17] ++ beBytes 2 sum ++ beBytes 4 src ++ beBytes 4 dst
  h (inetSum (h 0))

/-- The UDP datagram of a TRDP frame (R396). -/
def udpPart (src dst : Nat) (cs : Bool) (payload : List Byte) : List Byte :=
  let len := 8 + payload.length
  let h (sum : Nat) : List Byte := beBytes 2 17224 ++ beBytes 2 17224 ++ beBytes 2 len ++ beBytes 2 sum
  let sum := inetSum (beBytes 4 src ++ beBytes 4 dst ++ [0, 17] ++ beBytes 2 len ++ h 0 ++ payload)
  h (if cs then (if sum = 0 then 0xFFFF else sum) else 0) ++ payload

/-- The TRDP process-data header (R396). -/
def trdpHeader (seq comId etb opTrn n : Nat) : List Byte :=
  let h := beBytes 4 seq ++ beBytes 2 0x0100 ++ beBytes 2 0x5064 ++ beBytes 4 comId ++ beBytes 4 etb ++ beBytes 4 opTrn
    ++ beBytes 4 n ++ List.replicate 12 0
  h ++ beBytes 4 (Config.trdpFcs h).toNat

/-- The dataset with the SDTv2 safety code in its last 4 bytes, when SID is not 0 (R397). -/
def sdtDataset (sid : Nat) (ds : List Byte) : List Byte :=
  if sid = 0 then ds
  else ds.take (ds.length - 4) ++ beBytes 4 (Config.sdtv2 (BitVec.ofNat 64 sid) (ds.take (ds.length - 4))).toNat

/-- A TRDP_OUT frame from its gathered bytes, from the destination address on (R396, R397): a status, or the frame. -/
def State.trdpFrame (s : State) (d : Desc) (g : List Byte) : Nat ⊕ List Byte :=
  let sid := bitsOf (dWord d 4) 32 32
  let ds := g.drop 8
  if g.length < 8 then .inl stBadEntry
  else if 1432 < ds.length then .inl stTooLong
  else if sid ≠ 0 && ds.length < 16 then .inl stBadEntry
  else
    let src := bitsOf (dWord d 3) 0 32
    let dst := bitsOf (dWord d 3) 32 32
    let trdp := trdpHeader (s.folio.number.toNat % 2 ^ 32) (bitsOf (dWord d 4) 0 32) (fieldAt g 0 4) (fieldAt g 4 4)
      ds.length ++ sdtDataset sid ds
    let udp := udpPart src dst (bitAt (dWord d 5) 8) trdp
    .inr (beBytes 6 (bitsOf (dWord d 2) 0 48) ++ List.replicate 6 0
      ++ (if dVlan d then beBytes 2 0x8100 ++ beBytes 2 (bitsOf (dWord d 2) 48 16) else [])
      ++ beBytes 2 0x0800 ++ ipHeader s.folio16 src dst udp.length ++ udp)

/-! ### Endpoints -/

/-- The MAC can send: domain on, enabled, link up (R393, R407). -/
def State.macUp (s : State) (m : Nat) : Bool := s.macOn m && bitAt (s.mac m).ctrl 0 && (s.mac m).link

/-- Put a frame into a transmit queue: a status, 0 when it entered (R393). -/
def State.ethEnqueue (s : State) (m tc di : Nat) (f : List Byte) : Nat × State :=
  let refuse (st : Nat) : Nat × State := (st, s.modMac m (fun x => { x with notSent := satInc 0xFFFFFFFF x.notSent }))
  if !s.macUp m then (if s.macOn m then refuse stPortDown else (stPortDown, s))
  else if 16 ≤ ((s.mac m).txq.filter (fun f => f.tc = tc)).length then refuse stNotSent
  else (0, s.modMac m (fun x => { x with txq := x.txq ++ [⟨tc, finishFrame m f, di, s.folio.number⟩] }))

/-- Send a built frame on the MACs of its channel, with an R-TAG when it is replicated (R395). Frames above 1,522 bytes with
FCS do not exist (R392). -/
def State.sendEth (s : State) (di : Nat) (d : Desc) (tc : Nat) (f : List Byte) : State :=
  let g := if dCb d then insertRtag f s.folio16 else f
  if 1518 < g.length then s.setDescStatus di stTooLong
  else
    let s := s.modDesc di (fun x => { x with sentFolio := some s.folio.number })
    s.forAll (dMacs d) (fun m t =>
      let x := t.ethEnqueue m tc di g
      if x.1 = 0 then x.2 else x.2.setDescStatus di x.1)

/-- The CAN FD data lengths (R400). -/
def canLength (n : Nat) : Nat :=
  if n ≤ 8 then n else if n ≤ 12 then 12 else if n ≤ 16 then 16 else if n ≤ 20 then 20 else if n ≤ 24 then 24
  else if n ≤ 32 then 32 else if n ≤ 48 then 48 else 64

/-- The controller is in NORMAL and its domain is on (R400, R407). -/
def State.canNormal (s : State) (c : Nat) : Bool := s.canOn && bitsOf (s.can c).ctrl 0 2 = 1 && !(s.can c).restrict

/-- A CAN_OUT publication (R400). -/
def State.sendCan (s : State) (di : Nat) (d : Desc) (g : List Byte) : State :=
  let c := dUnit d
  let w := dWord d 2
  let fdf := bitAt w 30
  if (if fdf then 64 else 8) < g.length then s.setDescStatus di stTooLong
  else if !s.canNormal c then s.setDescStatus di stPortDown
  else if 32 ≤ (s.can c).txq.length then
    (s.modCan c (fun x => { x with cntNot := satInc 0xFFFF x.cntNot })).setDescStatus di stNotSent
  else
    let data := if fdf then g ++ List.replicate (canLength g.length - g.length) 0xCC else g
    let f : CanFrame := { id := BitVec.ofNat 29 (bitsOf w 0 29), ide := bitAt w 29, fdf := fdf, brs := fdf && bitAt w 31,
                          esi := false, rtr := false, data := data }
    s.modCan c (fun x => { x with txq := x.txq ++ [{ frame := f, desc := di }] })

/-- Set the output register of a pin; a change starts its readback delay (R403, R404). -/
def State.setPin (s : State) (n : Nat) (v : Bool) : State :=
  let g := s.gpio
  if bitAt g.outReg n = v then s
  else { s with gpio := { g with
    outReg := setBit g.outReg n v, changed := g.changed.filter (fun (c : Nat × Nat) => c.1 ≠ n) ++ [(n, s.cyc)] } }

/-- The output register value at which a pin's ball has its safe level (R423). -/
def State.safePin (s : State) (n : Nat) : Bool := bitAt s.gpio.safe n != bitAt s.gpio.pol n

/-- A GPIO_OUT publication: one pin per element (R403). -/
def State.sendGpio (s : State) (di : Nat) (d : Desc) (ws : List TWord) : State :=
  let pins := (pinsOf (dWord d 2)).zip ws
  let good (w : TWord) : Bool := w.tag = Tag.sbool && (w.val = sbTrue || w.val = sbFalse)
  let t := s.forAll pins (fun (e : Nat × TWord) t => t.setPin e.1 (if good e.2 then e.2.val = sbTrue else t.safePin e.1))
  t.setDescStatus di (if pins.any (fun e => !good e.2) then stTag else stOk)

/-- Start a message on a TO_HOST queue, with its status entry reserved (R337). `true`: no status entry is free. -/
def State.startPost (s : State) (di : Nat) (d : Desc) (n part : Nat) : Bool × State :=
  let q := dQueue d
  let c := s.queue q
  let v := s.vslot (dSlot d)
  if !c.en || !c.toHost || c.part ≠ part then (false, s.setDescStatus di stPortDown)
  else if c.sSize ≤ c.sUsed + c.msgs.length then
    (true, { s with hif := { s.hif with cntStat := satInc 0xFFFFFFFF s.hif.cntStat } })
  else
    let m : QMsg := { msgSeq := c.seq, frame := v.fairFrame, slot := dSlot d, desc := di, elems := n,
                      commit := (v.commitFolio, v.commitCyc), folio := s.folio.number }
    (false, s.modQueue q (fun c => { c with msgs := c.msgs ++ [m], seq := (c.seq + 1) % 65536 }))

/-! ### The PUBLISH window (R387) -/

/-- The out channel publishes in this window: its slot is an eligible output of the partition (R48). -/
def State.eligibleAt (s : State) (part start n : Nat) : Bool :=
  let v := s.vslot n
  v.valid && v.kind = .output && v.part = part && v.eligible && !v.published
    && (v.commitFolio < s.folio.number.toNat || v.commitCyc < start)

/-- Send a gathered publication to its endpoint (R387, step 4). -/
def State.endpoint (s : State) (di : Nat) (d : Desc) (g : List Byte) : State :=
  if dType d = 3 then s.sendEth di d (bitsOf (dWord d 2) 0 3) g
  else if dType d = 5 then (match s.trdpFrame d g with
    | .inl st => s.setDescStatus di st
    | .inr f => s.sendEth di d (bitsOf (dWord d 5) 0 3) f)
  else s.sendCan di d g

/-- The domain of a channel's port is on (R407). -/
def State.portOn (s : State) (d : Desc) : Bool :=
  if dType d = 3 || dType d = 5 then (dMacs d).all s.macOn else if dType d = 7 || dType d = 9 then s.canOn else true

/-- An Ethernet channel has already sent its frame of this folio (R387). -/
def State.sentAlready (s : State) (d : Desc) : Bool :=
  (dType d = 3 || dType d = 5) && d.sentFolio = some s.folio.number

/-- One out channel of a PUBLISH window (R387). `late`: it is still ungathered at the tick. `true`: the output was not started
for want of a status entry. -/
def State.publish (s : State) (di : Nat) (late crcError : Bool) : Bool × State :=
  let d := s.desc di
  let v := s.vslot (dSlot d)
  let rq := Table.get (fun _ => 0) v.reqs (dSub d)
  let n := if bitsOf rq 0 13 = 0 then dCount d else bitsOf rq 0 13
  let stop (st : Nat) (t : State) : Bool × State := (false, t.setDescStatus di st)
  if bitAt rq 16 then stop stHeld s
  else if dCount d < n then stop stTooLong s
  else if dType d = 1 then s.startPost di d n v.part
  else if !s.portOn d then stop stPortDown s
  else if s.sentAlready d || (late && dType d ≠ 9) then stop stNotSent s
  else if crcError then stop stFabricError s
  else
    let x := s.gather d (v.fairFrame * 4096) n
    match x.1 with
    | .bad st => stop st x.2
    | .ok g ws => (false, if dType d = 9 then x.2.sendGpio di d ws else x.2.endpoint di d g)

/-- Publish every channel in order, the first `reach` of them before the tick; the slots of which an output was not
started. -/
def publishGo (crcError : Bool) : Nat → List (Nat × Desc) → List Nat → State → List Nat × State
  | _, [], held, s => (held, s)
  | reach, (di, d) :: t, held, s =>
    let x := s.publish di (reach = 0) crcError
    publishGo false (reach - 1) t (if x.1 then dSlot d :: held else held) x.2

/-- Outputs that a window took are published, whatever their status; one that was not started stays eligible
(R387, R337). -/
def State.markPublished (s : State) (slots held : List Nat) : State :=
  s.forAll (slots.filter (fun n => !held.contains n)) (fun n t =>
    t.modVslot n (fun v => { v with published := true, eligible := false }))

/-- What a PUBLISH window does when it opens (R48, R387): its first `reach` channels are gathered before the tick. A fabric CRC
error falls on its first transfer (R20). -/
def State.publishWindow (s : State) (part set start reach : Nat) (crcError : Bool) : State :=
  let cs := (s.channels set).filter (fun e => dIsOut e.2 && s.eligibleAt part start (dSlot e.2))
  let x := publishGo crcError reach cs [] s
  x.2.markPublished (cs.map (fun e => dSlot e.2)).eraseDups x.1

end Sys2Proof.Machine
end

