-- ==== Sys2Proof/Machine/RegRead.lean ====
section
/-! DEFINITION. What a read of a device register returns, window by window (R23, R8 to R11): the register tables of the
manual. `none` stands for an unoccupied offset. -/

namespace Sys2Proof.Machine

/-- A register value from its fields: lowest bit and value of each. -/
def pk (l : List (Nat × Nat)) : Word := BitVec.ofNat 64 (l.foldl (fun n e => n + e.2 * 2 ^ e.1) 0)

def rawN (n : Nat) : Option TWord := some (TWord.raw (BitVec.ofNat 64 n))
def rawW (w : Word) : Option TWord := some (TWord.raw w)

/-- Codes of the slot states (R66). -/
def SlotSt.code : SlotSt → Nat
  | .empty => 0 | .loaded => 1 | .verified => 2 | .active => 3

def RdState.code : RdState → Nat
  | .idle => 0 | .wanted => 1 | .computing _ => 1 | .ready _ _ _ => 1 | .applied => 2 | .failed => 3

def How.code : How → Nat
  | .ruled => 0 | .atRec => 1 | .redrafted => 2 | .shed => 3

/-- `FOLIO_STATUS` (R63). -/
def State.folioStatus (s : State) : Word :=
  let f := s.folio
  pk [(0, bitN f.running), (1, bitN f.synced), (2, bitN f.holdover), (3, bitN f.swArm),
      (8, if f.running then f.actSlot else 0), (12, if f.swArm then f.swSlot else 0), (16, min f.missed 0xFFFF)]

/-- The placement shown at `FOLIO_RD_IDX` (R97): the ruled values before the first placement; a line that the rubric
shed reads SHED too (R418). From the first placement on, a line that R87 sends to its recovery column reads
AT_RECOVERY_COLUMN (R89), unprotected, with its ruled START and PEN (DESIGN CHOICE, assumption log 113). -/
def State.shownPlace (s : State) : Placed :=
  match s.line s.folio.rdIdx with
  | none => { line := 0, how := .ruled, pen := 0, start := 0, budget := 0 }
  | some l =>
    let p := s.placeOf s.folio.rdIdx l
    if s.folio.shed.contains s.folio.rdIdx then { p with how := .shed }
    else if s.folio.rdSeen && l.isDuplex && p.how = .ruled && p.recValid && (s.pen p.pen).st.out then
      { p with how := .atRec, recValid := false }
    else p

/-- Window 0, `FOLIO_` (R61 to R65, R94 to R97, R245, R273). -/
def State.folioReg (s : State) (off : Nat) : Option TWord :=
  let f := s.folio
  if 0x308 ≤ off && off ≤ 0x320 then
    let k := (off - 0x308) / 8
    let w := s.pxWord f.pxIdx k
    some ⟨if k = 3 then Tag.cptr else Tag.raw, w⟩
  else if 0x408 ≤ off && off ≤ 0x460 then rawW (s.ptWord f.ptIdx ((off - 0x408) / 8))
  else match off with
  | 0x00 => rawN (bitN f.en + f.tsrc * 2 + f.gptpPort * 16)
  | 0x08 => rawN f.period
  | 0x10 => rawN f.phase
  | 0x18 => rawW (pk [(0, f.tolNs), (16, f.missMax)])
  | 0x20 => rawW s.folioStatus
  | 0x28 => some (TWord.uint f.number)
  | 0x30 => some (TWord.time f.tickTime)
  | 0x38 => rawW (pk [(0, f.lastLen % 2 ^ 32), (32, f.minLen % 2 ^ 32)])
  | 0x40 => some (TWord.int f.offset)
  | 0x48 => rawW (pk [(0, f.maxPpm), (16, f.stepLim)])
  | 0x50 => rawN f.event.toNat
  | 0x58 => rawN f.lateCnt
  | 0x60 => rawN (s.folioCyc % 2 ^ 28)
  | 0x68 => rawW (pk [(0, f.swSlot), (4, bitN f.swArm)])
  | 0x70 => some (TWord.time f.swAt)
  | 0x78 => rawN (bitN f.lock)
  | 0x200 => rawN f.vtIdx
  | 0x208 => rawW (s.vslot f.vtIdx).word0
  | 0x210 => rawW (s.vslot f.vtIdx).word1
  | 0x218 => rawN f.snapHeld
  | 0x220 => rawN f.superseded
  | 0x300 => rawN f.pxIdx
  | 0x400 => rawN f.ptIdx
  | 0x800 => rawW f.rdCtrl
  | 0x808 => rawW (pk [(0, f.rd.code), (16, f.rdShed % 65536), (32, f.rdUnprot % 65536)])
  | 0x810 => rawW (s.penMask (fun p => p.st.out))
  | 0x818 => rawW (s.penMask (fun p => p.st = .fenced))
  | 0x820 => rawW (s.penMask (fun p => p.st = .test || p.st = .testWait))
  | 0x828 => rawN f.rdIdx
  | 0x830 => let p := s.shownPlace; rawW (pk [(0, p.start), (32, p.pen), (40, p.how.code), (42, bitN p.clipped)])
  | 0x838 => let p := s.shownPlace; rawW (pk [(0, p.recStart), (32, p.recPen), (40, bitN p.recValid)])
  | 0x840 => let h := Table.get (fun _ => (0, 0)) f.hwm f.rdIdx; rawW (pk [(0, h.1 % 2 ^ 28), (32, h.2)])
  | _ => none

/-- Window 1, `RUL_` (R66). -/
def State.rulReg (s : State) (off : Nat) : Option TWord :=
  let u := s.rul
  if off < 0x100 then
    let r := s.slotOf (off / 16)
    if off % 16 = 0 then rawW (pk [(0, r.lineBase), (16, r.lines)]) else rawW (pk [(0, r.hoBase), (16, r.hos)])
  else match off with
  | 0x100 => rawW (pk ((upTo 16).map (fun k => (2 * k, (s.slotOf k).st.code))))
  | 0x108 => rawW (pk [(0, u.idx), (16, bitN u.sel)])
  | 0x110 => if u.sel then rawN ((s.storePayload (hoBaseIdx + u.idx % 16384)).toNat % 2 ^ 32) else rawW (s.storePayload (4 * u.idx))
  | 0x118 => if u.sel then rawN 0 else rawW (s.storePayload (4 * u.idx + 1))
  | 0x120 => if u.sel then rawN 0 else rawW (s.storePayload (4 * u.idx + 2))
  | 0x128 => if u.sel then rawN 0 else rawW (s.storePayload (4 * u.idx + 3))
  | 0x140 => rawW (pk [(0, u.errSlot), (16, bitN u.errUncorr)])
  | 0x178 => rawN (bitN u.lock)
  | _ => none

/-- Window 2, `BLOT_` (R300, R301). -/
def State.blotReg (s : State) (off : Nat) : Option TWord :=
  let b := s.blot
  if 0x200 ≤ off && off < 0x300 then rawN (s.rsvOf ((off - 0x200) / 8)).cursor
  else match off with
  | 0x00 => rawN b.mlIdx
  | 0x08 => match b.ml[b.mlIdx]? with
    | none => rawN 0
    | some m => rawW (pk [(0, m.cpa), (48, m.syndrome), (56, m.source), (59, bitN m.repaired), (63, 1)])
  | 0x10 => match b.ml[b.mlIdx]? with
    | none => rawN 0
    | some m => rawW (pk [(0, m.count), (16, m.first), (32, m.last)])
  | 0x18 => rawW (pk [(0, b.ml.length), (16, b.mlOver)])
  | 0x20 => rawN 0
  | 0x100 => rawW b.scrBase
  | 0x108 => rawW b.scrLen
  | 0x110 => rawN (4 * bitN b.poisonUe)
  | 0x118 => rawW b.sum0
  | 0x120 => rawW b.sum1
  | 0x128 => some (TWord.uint b.sum2)
  | 0x130 => rawN b.bgPasses
  | 0x300 => rawW (pk [(0, b.tested), (16, b.skipped), (32, bitN b.failed)])
  | 0x308 => rawN b.failCpa
  | 0xFF8 => rawN (bitN b.lock)
  | _ => none

/-- The submission page (R386): a run's own pending words, or the words of the partition in `FEED_SUB_PART`. -/
def State.subReg (s : State) (reader : Option Nat) (off : Nat) : Option TWord :=
  let k := off % 0x800 / 8
  let run := reader.bind (fun p => (s.pen p).run)
  let part := match run with
    | some r => r.part
    | none => s.feed.subPart
  if off < 0x1800 then
    match run with
    | some r => rawW (Table.get (fun _ => 0) r.subs k)
    | none => rawW (Table.get (fun _ => 0) s.feed.subReq (part * 256 + k))
  else rawW (Table.get (fun _ => 0) s.feed.subStat (part * 256 + k))

/-- Window 3, `FEED_` (R408). -/
def State.feedReg (s : State) (reader : Option Nat) (off : Nat) : Option TWord :=
  let f := s.feed
  if 0x1000 ≤ off && off < 0x2000 then s.subReg reader off
  else if 0x100 ≤ off && off < 0x140 then
    some (TWord.uint (BitVec.ofNat 64 (Table.get (fun _ => 0) f.samples ((off - 0x100) / 8))))
  else if 0x18 ≤ off && off ≤ 0x50 then rawW ((s.desc f.descIdx).words.getD ((off - 0x18) / 8) 0)
  else match off with
  | 0x00 => rawN f.csIdx
  | 0x08 =>
    let c := s.chanSet f.csIdx
    rawW (pk [(0, c.part), (8, c.count), (16, c.first), (31, bitN c.valid)])
  | 0x10 => rawN f.descIdx
  | 0x58 => let d := s.desc f.descIdx; rawW (pk [(0, d.status), (16, d.stFolio), (32, d.errCnt)])
  | 0x60 => rawN f.subPart
  | 0x140 => rawN f.rxBand
  | 0xFF8 => rawN (bitN f.lock)
  | _ => none

/-- Number of units of a full sweep (R312). -/
def State.sweepCount (s : State) : Nat :=
  let slots := s.vt.filter (fun e => e.2.valid)
  let frames := (slots.flatMap (fun e => [e.2.frame0, e.2.frame1])).eraseDups
  (slots.filter (fun e => e.2.kind = .state || e.2.kind = .output)).length
    + (16384 - (frames.filter (fun f => isInk (f * 4096) || isRsv (f * 4096))).length)

/-- The Huvas firmware does not run yet: a value that it computes still has its reset value (R303, R320). -/
def State.booting (s : State) : Bool := s.dev = .off || s.dev = .dormant || s.dev = .fill || s.dev = .boot

/-- Window 4, `TRC_` (R320, R321): OWN reads 0 until the firmware runs, and TOTAL while nothing is paired (assumption
log 99). -/
def State.trcReg (s : State) (off : Nat) : Option TWord :=
  let t := s.trc
  let e := Table.get (fun _ => ({} : TrcEntry)) t.list t.listIdx
  match off with
  | 0x00 => rawN t.mode
  | 0x08 => rawN t.pct
  | 0x10 => rawW t.peer
  | 0x18 => rawN t.wd
  | 0x20 => rawW (pk [(0, if s.booting then 0 else s.cfgDigest), (32, t.peerCfg)])
  | 0x28 => rawW (pk [(0, t.st.code), (3, bitN t.peerDebug)])
  | 0x30 => some (TWord.uint t.lastEnd)
  | 0x38 => rawW (pk [(0, t.cursor), (16, if t.st = .detached then 0 else s.sweepCount)])
  | 0x40 => rawW (pk [(0, t.units), (32, t.incompl)])
  | 0x48 => rawN t.event.toNat
  | 0x100 => rawN t.listIdx
  | 0x108 => rawW e.data0
  | 0x110 => rawW e.data1
  | 0xFF8 => rawN (bitN t.lock)
  | _ => none

/-- Window 5, `HIF_` (R346 to R348). -/
def State.hifReg (s : State) (off : Nat) : Option TWord :=
  let h := s.hif
  let q := s.queue h.qpIdx
  if 0x200 ≤ off && off < 0x280 then rawN (Table.get (fun _ => 0) h.share ((off - 0x200) / 8))
  else match off with
  | 0x00 => rawW (pk [(0, h.speed), (4, h.width), (9, bitN h.flit), (10, bitN h.up), (11, bitN h.d3),
                      (12, if h.up then traceK h.speed h.width else 0)])
  | 0x08 => rawN h.event.toNat
  | 0x100 => rawN h.qpIdx
  | 0x108 => rawW q.w0
  | 0x110 => rawW q.w1
  | 0x118 => rawW q.w2
  | 0x120 => rawN 0
  | 0x128 => rawW (pk [(0, q.dHead), (16, q.dTail), (32, q.sHead), (48, q.sTail)])
  | 0x130 => rawN q.lost
  | 0x300 => rawN h.cntDb
  | 0x308 => rawN h.cntUr
  | 0x310 => rawN h.cntTrunc
  | 0x318 => rawN h.cntStat
  | 0x320 => rawN h.cntLost
  | 0x1000 => rawN 0
  | 0xFF8 => rawN (bitN h.lock)
  | _ => none

def MbSt.code : MbSt → Nat
  | .idle => 0 | .queued => 1 | .running => 2 | .done => 3

/-- `HUV_DEV_STATE.STATE` (R349): NOT_READY until the ROM check has been judged. -/
def State.devCode (s : State) : Nat :=
  match s.dev with
  | .off | .dormant | .fill => 0
  | .boot => if s.huv.checked then 1 else 0
  | .loaded => 2 | .run => 3 | .safe => 4 | .debug => 5

def State.devState (s : State) : Word :=
  pk [(0, s.devCode), (8, bitN s.huv.lost), (16, s.huv.fwRejects), (24, if s.dev = .run then s.folio.actSlot else 0)]

/-- `HUV_VOTE_STATUS` (R124). -/
def State.voteStatus (s : State) : Word :=
  let v := s.huv
  pk [(0, v.nibIn.toNat), (4, if v.lostVote then 2 else if weightN 3 v.nibIn.toNat < 3 then 1 else 0),
      (8, v.reintCnt), (16, v.lastOut), (32, v.disagree)]

/-- The mailbox page of the `HUV_` window (R349). -/
def State.mailboxReg (s : State) (off : Nat) : Option TWord :=
  let o := off % 0x200
  if off < 0x800 then
    let b := s.mbox (off / 0x200)
    if o = 0 then rawW (pk [(0, b.opcode.toNat), (16, b.token.toNat)])
    else if o = 8 then
      rawW (pk [(0, b.st.code), (4, bitN b.discarded), (16, b.code), (32, b.tokenR.toNat)])
    else if o < 0x100 then rawW (Table.get (fun _ => 0) b.arg ((o - 0x10) / 8))
    else rawW (Table.get (fun _ => 0) b.res ((o - 0x100) / 8))
  else if off = 0x800 then rawW s.devState
  else if off = 0x808 then rawW (pk ((upTo 4).map (fun m => (m, bitN ((s.mbox m).st = .done)))))
  else if off = 0xF00 then rawW s.voteStatus
  else none

/-- Window 6, `HUV_` (R124, R349, R429). -/
def State.huvReg (s : State) (off : Nat) : Option TWord :=
  let v := s.huv
  let c := s.rbClass v.rbIdx
  let hd : Nat → Word := fun k => match v.eq with
    | [] => 0
    | e :: _ => if k = 0 then e.w0 else if k = 1 then e.w1 else if k = 2 then e.w2 else e.w3
  if off < 0x1000 then
    s.mailboxReg off
  else match off with
  | 0x2000 => rawN v.rbIdx
  | 0x2008 => rawW c.entry
  | 0x2010 => rawN c.count
  | 0x2018 => rawN c.ovf
  | 0x2020 => rawN c.win
  | 0x2028 => rawW (pk [(0, v.eq.length), (16, bitN v.eqOver), (32, v.nextSeq)])
  | 0x2030 => rawW (hd 0)
  | 0x2038 => some (TWord.uint (hd 1))
  | 0x2040 => rawW (hd 2)
  | 0x2048 => rawW (hd 3)
  | 0x2050 => rawN 0
  | 0x20F8 => rawN (bitN v.rbLock)
  | 0xF000 => rawW s.voteStatus
  | 0xF008 => rawW (pk [(0, bitN v.reintEn), (4, v.reintMax)])
  | _ => none

/-- Window 7, `PWR_` (R449). -/
def State.pwrReg (s : State) (off : Nat) : Option TWord :=
  let p := s.pwr
  match off with
  | 0x00 => rawW p.penOn
  | 0x08 => rawW p.otherOn
  | 0x10 => rawW p.reqPen
  | 0x18 => rawW p.reqOther
  | 0x20 => rawN (bitN (p.queue ≠ []))
  | 0x40 => rawW p.avsCfg
  | 0x48 => rawW (pk [(0, p.target), (16, p.readback), (32, bitN p.active), (40, p.errCnt)])
  | 0x50 => rawN p.margin
  | 0x60 => rawW (pk [(0, p.inRange.toNat), (8, p.selfFail.toNat % 16), (12, p.selfFail.toNat / 16)])
  | 0x68 => rawN p.event.toNat
  | 0xFF8 => rawN (bitN p.lock)
  | _ => none

/-- Window 8, `AON_` (R450). -/
def State.aonReg (s : State) (off : Nat) : Option TWord :=
  let a := s.aon
  match off with
  | 0x00 => some (TWord.time a.time)
  | 0x08 => rawN (BitVec.ofInt 32 a.trim).toNat
  | 0x10 => rawW (pk [(0, bitN a.valid), (1, bitN a.xtalOk)])
  | 0x18 => rawN 0
  | 0x20 => rawW a.wakeCfg
  | 0x28 => rawN a.wakeLevel.toNat
  | 0x30 => rawW a.tempCfg
  | 0x38 => rawN a.tj.toNat
  | 0x40 => rawN a.rst.toNat
  | 0xFF8 => rawN (bitN a.lock)
  | _ => none

/-- Pins that a time source takes (R402): PPS_IN is GPIO62, TICK_IN is GPIO63. -/
def State.timePins (s : State) : Word :=
  if s.folio.tsrc = 2 then BitVec.ofNat 64 (2 ^ 62) else if s.folio.tsrc = 3 then BitVec.ofNat 64 (2 ^ 63) else 0

/-- `GPIO_DRIVE` (R402). -/
def State.gpioDrive (s : State) : Word :=
  let on := s.canOn && (match s.dev with
    | .run => true
    | .safe | .loaded | .debug => s.activated
    | .off | .dormant | .fill | .boot => false)
  if on then s.gpioDir &&& ~~~ s.timePins else 0

/-- Window 9, `GPIO_` (R411). -/
def State.gpioReg (s : State) (off : Nat) : Option TWord :=
  let g := s.gpio
  match off with
  | 0x00 => rawW (g.level &&& ~~~ s.timePins)
  | 0x08 => rawW g.outReg
  | 0x10 => rawW s.gpioDir
  | 0x18 => rawW s.gpioDrive
  | 0x20 => rawW g.safe
  | 0x28 => rawW g.pol
  | 0x30 => rawW g.filt
  | 0x38 => rawW g.rbDly
  | 0x40 => rawW g.rbErr
  | 0xFF8 => rawN (bitN g.lock)
  | _ => none

/-- Windows 10 to 13, `ETH_` (R409). -/
def State.ethReg (s : State) (m off : Nat) : Option TWord :=
  let e := s.mac m
  match off with
  | 0x00 => rawW e.ctrl
  | 0x08 => rawW (pk [(0, bitN e.link), (1, bitN (s.ptpSynced m))])
  | 0x10 => rawN ((Config.fuses.macAddr.getD m 0).toNat)
  | 0x18 => rawW e.phyDly
  | 0x20 => rawW e.ptpCfg
  | 0x28 => rawN e.pathNs
  | 0x30 => rawW e.cbCfg
  | 0x40 => rawN e.cntTx
  | 0x48 => rawN e.cntRx
  | 0x50 => rawW (pk [(0, e.dropFcs), (16, e.dropMatch), (32, e.dropFormat), (48, e.dropCb)])
  | 0x58 => rawN e.notSent
  | 0x60 => rawN e.event.toNat
  | 0xFF8 => rawN (bitN e.lock)
  | _ => none

/-- Windows 16 to 23, `CAN_` (R410). -/
def State.canReg (s : State) (c off : Nat) : Option TWord :=
  let e := s.can c
  match off with
  | 0x00 => rawW e.ctrl
  | 0x08 => rawW e.nbt
  | 0x10 => rawW e.dbt
  | 0x18 => rawW (pk [(0, e.st), (8, e.tec), (16, min e.recv 255)])
  | 0x20 => rawW (pk [(0, e.cntTx), (16, e.cntRx), (32, e.cntNot), (48, e.cntDrop)])
  | 0x28 => rawN e.event.toNat
  | 0xFF8 => rawN (bitN e.lock)
  | _ => none

def RunMode.code : RunMode → Nat
  | .duplex => 0 | .joined => 1 | .solo => 2

/-- `PEN_STATE.MIRROR` of the pair (R121): RESILVER while a pen of the pair is being restored. -/
def State.mirrorCode (s : State) (p : Nat) : Nat :=
  if (s.pen (evenOf p)).st = .resilver || (s.pen (oddOf p)).st = .resilver then 3
  else match s.mirrorOf p with
    | .mirrored => 0 | .soleEven | .lost false => 1 | .soleOdd | .lost true => 2

/-- `PEN_STATE` (R121). -/
def State.penState (s : State) (p : Nat) : Word :=
  let x := s.pen p
  let run := if x.st = .run then x.run else none
  pk [(0, x.st.code), (4, match run with
      | some r => r.mode.code
      | none => 0),
    (6, match run with
      | some r => bitN r.recovery
      | none => 0),
    (16, match run with
      | some r => r.line
      | none => 0),
    (32, if p % 2 = 0 then s.mirrorCode p else 0)]

/-- Windows 64 to 127, `PEN_` (R120 to R122, R230, R246). -/
def State.penReg (s : State) (reader : Option Nat) (n off : Nat) : Option TWord :=
  let x := s.pen n
  let run := reader.bind (fun p => (s.pen p).run)
  if 0x100 ≤ off && off < 0x180 then
    let sel := Table.get (fun _ => 0) x.seqSel ((off - 0x100) / 8)
    let v := s.vslot (bitsOf sel 0 13)
    if bitAt sel 15 then rawW (pk [(0, v.seq.toNat), (16, bitN v.held), (17, 1)]) else rawN 0
  else if 0x1040 ≤ off && off < 0x10C0 then rawW (Table.get (fun _ => 0) x.seqSel ((off - 0x1040) / 8))
  else match off with
  | 0x00 => some (TWord.uint s.folio.number)
  | 0x08 => some (TWord.time s.folio.tickTime)
  | 0x10 => rawW (pk [(0, match run with
      | some r => r.line
      | none => 0x7FFF), (16, s.folio.actSlot)])
  | 0x200 => rawW (match reader with
      | some p => (s.pen p).syn
      | none => 0)
  | 0x208 => rawW (match reader with
      | some p => (s.pen p).synAddr
      | none => 0)
  | 0x1000 => rawN 0
  | 0x1008 => rawW (s.penState n)
  | 0x1010 => rawW x.faultInfo
  | 0x1018 => some (TWord.uint x.faultFolio)
  | 0x1020 => rawN x.faultCnt
  | 0x1028 => rawW x.mirror0
  | 0x1030 => rawW x.mirror1
  | 0x10C0 => rawW x.inject
  | 0x10C8 => rawN x.ipiDrop
  | 0x10D0 => rawN x.flyCnt
  | 0x10D8 => rawN x.excCnt
  | 0x10F8 => rawN (bitN x.penLock)
  | _ => none

def FrameKind.code : FrameKind → Nat
  | .cpa => 0 | .loc => 1 | .versioned => 2

/-- The two words of a TLB entry (R264). -/
def TlbEntry.word0 (e : TlbEntry) : Word :=
  pk [(0, e.vpn), (45, e.part), (53, e.size), (55, bitN e.valid), (56, bitN e.locked), (57, e.l1), (59, e.l2)]
def TlbEntry.word1 (e : TlbEntry) : Word :=
  pk [(0, e.frame), (36, e.slot), (49, e.kind.code), (51, bitN e.r1), (52, bitN e.w1), (53, bitN e.x1), (54, bitN e.u1),
      (55, bitN e.d1), (56, bitN e.d2), (57, e.key), (61, bitN e.r2), (62, bitN e.w2), (63, bitN e.x2)]

/-- Windows 128 to 191, `MMU_` (R272). -/
def State.mmuReg (s : State) (n off : Nat) : Option TWord :=
  let x := s.pen n
  let e := Table.get (fun _ => ({} : TlbEntry)) x.tlb x.tlbIdx
  if 0x100 ≤ off && off < 0x140 then rawW (Table.get (fun _ => 0) x.lslot ((off - 0x100) / 8))
  else match off with
  | 0x00 => rawN x.tlbIdx
  | 0x08 => rawW e.word0
  | 0x10 => rawW e.word1
  | 0x18 => rawN x.lfsr.toNat
  | 0x20 => rawN 0
  | 0x140 => rawN 0
  | 0x148 =>
    let filled := (upTo 8).foldl (fun m i =>
      let e := Table.get (fun _ => ({} : TlbEntry)) x.tlb (56 + i)
      m + bitN (e.valid && e.locked) * 2 ^ i) 0
    rawW (setBits x.lslotStat 0 8 filled)
  | 0x200 => rawN x.walkCnt
  | 0x208 => rawN x.tfaultCnt
  | 0xFF8 => rawN (bitN x.mmuLock)
  | _ => none

/-- Fields of a fused repair word (R289): `n` counts of `w` bits from bit `lo`, none above the spares that a bank has. -/
def repairCounts (fuse : Word) (n w lo most : Nat) : List (Nat × Nat) :=
  (upTo n).map (fun a => (lo + w * a, min most (bitsOf fuse (lo + w * a) w)))

/-- `INK_REPAIR` from its fuse word: up to 8 rows and 4 columns, REPAIR_FAIL 0 (R274, R289, R298). -/
def inkRepair (fuse : Word) : Word := pk (repairCounts fuse 1 4 0 8 ++ repairCounts fuse 1 4 4 4)

/-- `RSV_REPAIR` from its fuse word: up to 4 rows and 2 columns in each of 8 sub-arrays, REPAIR_FAIL 0 (R274, R289, R299). -/
def rsvRepair (fuse : Word) : Word := pk (repairCounts fuse 8 4 0 4 ++ repairCounts fuse 8 2 32 2)

/-- Windows 192 to 255, `INK_` (R298). BORROWED reads 0: a segment is borrowed only within one MARCH_SEGMENT command. -/
def State.inkReg (s : State) (n off : Nat) : Option TWord :=
  let x := s.pen n
  match off with
  | 0x00 => rawW (pk [(0, bitN x.filling0), (1, bitN x.filling1)])
  | 0x10 => rawW (Table.get (fun _ => 0) x.inkErr 0)
  | 0x18 => rawW (Table.get (fun _ => 0) x.inkErr 1)
  | 0x30 => rawW (inkRepair (Config.fuses.inkRepair.getD (2 * n) 0))
  | 0x38 => rawW (inkRepair (Config.fuses.inkRepair.getD (2 * n + 1) 0))
  | 0x100 => rawW x.injAddr
  | 0x108 => rawW x.injFlip0
  | 0x110 => rawW x.injFlip1
  | 0xFF8 => rawN (bitN x.inkLock)
  | _ => none

/-- Windows 256 to 287, `RSV_` (R299). -/
def State.rsvReg (s : State) (r off : Nat) : Option TWord :=
  let x := s.rsvOf r
  match off with
  | 0x00 => rawW (pk [(0, x.owner), (8, bitN x.pin), (16, x.pinOwner)])
  | 0x08 => rawW x.grant
  | 0x10 => rawW (pk [(0, bitN x.filling), (1, bitN (s.rsvOn r && s.dev ≠ .off && s.dev ≠ .dormant))])
  | 0x18 => rawW x.errCnt
  | 0x20 => rawW (pk [(0, x.coll), (32, x.staleCnt)])
  | 0x28 => rawW (rsvRepair (Config.fuses.rsvRepair.getD r 0))
  | 0x100 => rawW x.injAddr
  | 0x108 => rawW x.injFlip0
  | 0x110 => rawW x.injFlip1
  | 0xFF8 => rawN (bitN x.lock)
  | _ => none

/-- What a register access finds at its window (R10, R26): a value, a powered-off window, or nothing. -/
inductive RegRead
  | val (w : TWord)
  | off
  | unoccupied
  deriving DecidableEq, Repr

def regVal : Option TWord → RegRead
  | some w => .val w
  | none => .unoccupied

/-- Read the register at a CPA of the device region, for a pen's run or for the Huvas (R23, R120). The security block's
registers are the firmware's own: the manual lists none (R10). -/
def State.regRead (s : State) (reader : Option Nat) (cpa : Nat) : RegRead :=
  let w := (cpa - 0x40000000) / 0x10000
  let off := cpa % 0x10000
  if cpa % 8 ≠ 0 then .unoccupied
  else if w = 0 then regVal (s.folioReg off)
  else if w = 1 then regVal (s.rulReg off)
  else if w = 2 then regVal (s.blotReg off)
  else if w = 3 then regVal (s.feedReg reader off)
  else if w = 4 then regVal (s.trcReg off)
  else if w = 5 then regVal (s.hifReg off)
  else if w = 6 then regVal (s.huvReg off)
  else if w = 7 then regVal (s.pwrReg off)
  else if w = 8 then regVal (s.aonReg off)
  else if w = 9 then (if s.canOn then regVal (s.gpioReg off) else .off)
  else if 10 ≤ w && w < 14 then (if s.macOn (w - 10) then regVal (s.ethReg (w - 10) off) else .off)
  else if w = 15 then (if s.secOn then .unoccupied else .off)
  else if 16 ≤ w && w < 24 then (if s.canOn then regVal (s.canReg (w - 16) off) else .off)
  else if 64 ≤ w && w < 128 then regVal (s.penReg reader (w - 64) off)
  else if 128 ≤ w && w < 192 then regVal (s.mmuReg (w - 128) off)
  else if 192 ≤ w && w < 256 then regVal (s.inkReg (w - 192) off)
  else if 256 ≤ w && w < 288 then regVal (s.rsvReg (w - 256) off)
  else .unoccupied

end Sys2Proof.Machine
end

