-- ==== Sys2Proof/Machine/Scrub.lean ====
section
/-! DEFINITION. Scrubs: of one word, of a pass with its summary, and of the reservoirs of a SCRUB window (R291 to
R294). Words that the table of banks does not list hold what the fill wrote and need no scrub. -/

namespace Sys2Proof.Machine

/-! ### One word -/

/-- An uncorrectable word under a scrub: left, or written as POISON, in both copies of a mirrored page (R105, R292). -/
def State.scrubPoison (s : State) (cpa : Nat) : State :=
  if s.blot.poisonUe then s.engineWrite cpa ⟨Tag.poison, 0⟩ else s

/-- Scrub the word at a CPA (R291, R292): of a mirrored page the valid copy is read and both are written (R105). -/
def State.scrubWord (cpa : Nat) (s : State) : State :=
  let a := s.readAt cpa
  if !s.bankReady a then s
  else match s.peek a with
    | .clean _ => s
    | .corrected w syn => (s.engineWrite a w).noteCe a syn srcScrub
    | .uncorrectable _ => (s.scrubPoison a).noteUe a (some 0x33)
    | .address => (s.scrubPoison a).noteAddr a (some 0x33)

/-- CPAs of the listed words of a range of `n` words. -/
def State.listedIn (s : State) (base n : Nat) : List Nat :=
  (s.mem.filter (fun e => base / 8 ≤ e.1 && e.1 < base / 8 + n)).map (fun e => 8 * e.1)

/-- The words of a range that a scrub of it looks at: listed ones, in the copy that it reads of a mirrored page (R105). -/
def State.listedBoth (s : State) (base n : Nat) : List Nat :=
  if !isInk base then s.listedIn base n
  else
    let off := base % 0x80000
    let own (p : Nat) : List Nat := (s.listedIn (inkBase p + off) n).map (· % 0x80000)
    (sortBy id (own (evenOf (inkPen base)) ++ own (oddOf (inkPen base))).eraseDups).map (fun o => inkBase (inkPen base) + o)

/-! ### The ruling store (R39) -/

/-- The resident ruling whose lines or handover entries include a store word. -/
def State.slotAt (s : State) (i : Nat) : Option Nat :=
  (upTo 16).find? (fun k =>
    let r := s.slotOf k
    r.st ≠ .empty &&
      ((4 * r.lineBase ≤ i && i < 4 * (r.lineBase + r.lines) && i < hoBaseIdx) ||
       (hoBaseIdx + r.hoBase ≤ i && i < hoBaseIdx + r.hoBase + r.hos)))

/-- An uncorrectable word of slot `k` (R39, R60). -/
def State.storeBad (s : State) (k : Nat) : State :=
  let s := { s with rul := { s.rul with errSlot := k, errUncorr := true } }
  match (s.slotOf k).st with
  | .active => (s.modSlot k (fun r => { r with spoiled := true })).raise { cls := 0x38, slot := some k }
  | .empty | .loaded | .verified =>
    let s := s.modSlot k (fun r => { r with st := .loaded })
    if s.folio.swArm && s.folio.swSlot = k then
      { s with folio := { s.folio with swArm := false, event := s.folio.event ||| 0x40 } }.raiseAll
        [{ cls := 0x38, slot := some k }, { cls := 0x43, slot := some k }]
    else s

/-- The scrub of one store word. -/
def State.storeScrub (s : State) (i : Nat) : State :=
  match s.storeJudged i with
  | .clean _ => s
  | .corrected w syn =>
    { s with rul := { s.rul with store := Table.set fillStore s.rul.store i (encodeCode (parityN 18 i) w) } }.marginAdd i syn srcStore
  | .uncorrectable _ | .address => match s.slotAt i with
    | some k => s.storeBad k
    | none => s

/-- The part reads a store word: a corrected error is logged, an uncorrectable one handled by its slot (R39). -/
def State.storeUse (s : State) (i : Nat) : State :=
  match s.storeJudged i with
  | .clean _ => s
  | .corrected _ syn => s.marginAdd i syn srcStore
  | .uncorrectable _ | .address => match s.slotAt i with
    | some k => s.storeBad k
    | none => s

/-- The part reads store words in order, up to the first that cannot be read: whether all could be, and the state with
their errors handled. -/
def State.storeReads (s : State) (is : List Nat) : Bool × State :=
  (is.all s.storeGood,
   s.forAll (is.takeWhile s.storeGood ++ (is.dropWhile s.storeGood).take 1) (fun i t => t.storeUse i))

/-- The store words of line `i` of a resident ruling and of its handover list. -/
def State.lineWords (s : State) (r : RulSlot) (i : Nat) : List Nat :=
  let l := s.lineOf r i
  (upTo 4).map (fun k => 4 * (r.lineBase + i) + k) ++
    (if l.isTask then (upTo l.hoCount).map (fun k => hoBaseIdx + r.hoBase + l.hoFirst + k) else [])

/-- The store words of a resident ruling. -/
def RulSlot.words (r : RulSlot) : List Nat :=
  (upTo (4 * r.lines)).map (4 * r.lineBase + ·) ++ (upTo r.hos).map (hoBaseIdx + r.hoBase + ·)

/-! ### A scrub pass (R294) -/

/-- Count an outcome in the summary of the running pass. -/
def State.tally (s : State) (cpa : Nat) : State :=
  let b := s.blot
  let bump (w : Word) : Word := if bitsOf b.sum0 48 16 = 0 then BitVec.ofNat 64 cpa else w
  let put (b : Blot) : State := { s with blot := b }
  match s.peek (s.readAt cpa) with
  | .clean _ => s
  | .corrected _ _ => put { b with sum0 := setBits b.sum0 32 16 (satInc 0xFFFF (bitsOf b.sum0 32 16)) }
  | .uncorrectable _ => put { b with sum0 := setBits b.sum0 48 8 (satInc 0xFF (bitsOf b.sum0 48 8)), sum1 := bump b.sum1 }
  | .address => put { b with sum0 := setBits b.sum0 56 8 (satInc 0xFF (bitsOf b.sum0 56 8)), sum1 := bump b.sum1 }

/-- Scrub the first `n` words of a pass, with its summary. -/
def State.passWords (s : State) (base n : Nat) : State :=
  let s := s.forAll (s.listedBoth base n) (fun a t => State.scrubWord a (t.tally a))
  { s with blot := { s.blot with sum0 := setBits s.blot.sum0 8 24 n } }

/-- End the running pass with a summary state (R294). -/
def State.scrubSummary (s : State) (st : Nat) : State :=
  { s with blot := { s.blot with pass := none, sum0 := setBits s.blot.sum0 0 3 st, sum2 := s.folio.number } }

/-- The words of a summary, as the scrub command returns them. -/
def State.summaryWords (s : State) : List Word := [s.blot.sum0, s.blot.sum1, s.blot.sum2]

/-- The running pass ends: DONE after its whole range, or before it, after a number of words that the manual leaves
open. -/
def State.endPass (s : State) (st : Nat) : State :=
  match s.blot.pass with
  | none => s
  | some p =>
    if st = 1 then (s.passWords p.base p.len).scrubSummary 1
    else
      let x := s.takeFree
      (x.2.passWords p.base (x.1.toNat % (p.len + 1))).scrubSummary st

/-! ### A ruled scrub (R293) -/

/-- Words in a reservoir. -/
def rsvWords : Nat := 131072

/-- Scrub `n` words of reservoir `r` from its cursor on; at the end the cursor returns to word 0 and a pass is counted. -/
def State.ruledPart (s : State) (r n : Nat) : State :=
  let c := (s.rsvOf r).cursor
  let s := s.forAll (s.listedIn (rsvBase r + 8 * c) n) State.scrubWord
  if c + n < rsvWords then s.modRsv r (fun x => { x with cursor := c + n })
  else
    let s := s.modRsv r (fun x => { x with cursor := 0 })
    { s with blot := { s.blot with bgPasses := (s.blot.bgPasses + 1) % 2 ^ 32 } }

/-- One blotter port works through its reservoirs with a budget of words; it answers where it goes on. The first
argument bounds the reservoirs taken up. -/
def State.ruledPort (rs : List Nat) : Nat → Nat → Nat → State → Nat × State
  | 0, i, _, s => (i, s)
  | fuel + 1, i, budget, s =>
    let r := rs.getD (i % rs.length) 0
    let left := rsvWords - (s.rsvOf r).cursor
    if !s.bankReady (rsvBase r) then State.ruledPort rs fuel (i + 1) budget s
    else if budget < left then (i, s.ruledPart r budget)
    else State.ruledPort rs fuel (i + 1) (budget - left) (s.ruledPart r left)

/-- The blotter ports that no self-test uses: they serve march tests (R291). -/
def State.marchPorts (s : State) : Nat := 2 - s.blot.ports.length

/-- The blotter ports that neither self-tests nor march tests use: they serve scrubs (R291). -/
def State.scrubPorts (s : State) : Nat :=
  s.marchPorts - bitN s.blot.marching.isSome - bitN (s.folio.wins.any (fun w => w.wtype = 4))

/-- The blotter ports of a ruled scrub: one serves one scrub at a time, and a running pass keeps its own (R291). -/
def State.ruledPorts (s : State) : Nat := s.scrubPorts - bitN s.blot.pass.isSome

/-- The reservoirs of a mask that one of `n` ports serves. -/
def portShare (mask n k : Nat) : List Nat :=
  let l := (upTo 32).filter (fun r => mask.testBit r)
  ((upTo l.length).filter (fun i => i % n = k)).map (fun i => l.getD i 0)

/-- The port goes on at a reservoir. -/
def State.portNext (s : State) (k r : Nat) : State :=
  { s with blot := { s.blot with scrNext := Table.set (fun _ => 0) s.blot.scrNext k r } }

/-- How many reservoirs a port of `n` reservoirs can take up within a budget of words. -/
def portFuel (n budget : Nat) : Nat := (budget / rsvWords + 2) * (n + 1)

/-- One free port's part of a SCRUB window of `len` cycles: two words a cycle. -/
def State.portScrub (mask len k : Nat) (s : State) : State :=
  let rs := portShare mask s.ruledPorts k
  if rs = [] then s
  else
    let i := rs.idxOf (Table.get (fun _ => 0) s.blot.scrNext k)
    let x := State.ruledPort rs (portFuel rs.length (2 * len)) (if i < rs.length then i else 0) (2 * len) s
    x.2.portNext k (rs.getD (x.1 % rs.length) 0)

/-- A SCRUB window of `len` cycles (R293). -/
def State.ruledScrub (s : State) (mask len : Nat) : State :=
  if !s.blotOn then s else s.forAll (upTo s.ruledPorts) (State.portScrub mask len)

end Sys2Proof.Machine
end

