-- ==== Sys2Proof/Machine/Submission.lean ====
section
/-! DEFINITION. Writes to the mailbox page: submission and abort of commands (R349 to R353), and the ends of the background
commands that an abort stops. -/

namespace Sys2Proof.Machine

/-! ### Ends of background commands -/

/-- `BLOT_SCRUB_CTRL.ABORT` (R294): the running pass ends as ABORTED, and a scrub command that waits for it ends. -/
def State.scrubAbort (s : State) : State :=
  match s.blot.pass with
  | none => s
  | some p =>
    let s := s.endPass (if p.cut then 2 else 4)
    match p.mb with
    | some m => s.finish m 7 s.summaryWords
    | none => s

/-- A MARCH command ends with its summary (R372). -/
def State.endMarch (s : State) (code : Nat) : State :=
  match s.blot.marching with
  | none => s
  | some r =>
    let s := { s with blot := { s.blot with marching := none } }
    s.finish r.mb code [wordN (s.blot.tested + s.blot.skipped * 2 ^ 16 + bitN s.blot.failed * 2 ^ 32), wordN s.blot.failCpa]

/-! ### Mailbox submission (R350, R351) -/

/-- The assigned opcodes (R359). -/
def opcodes : List Nat :=
  [0x01, 0x02, 0x10, 0x20, 0x21, 0x22, 0x23, 0x24, 0x25, 0x26, 0x30, 0x31, 0x32, 0x33, 0x34, 0x35, 0x40, 0x41, 0x50,
   0x51, 0x52, 0x53, 0x54, 0x60, 0x61, 0x62, 0x70, 0x71, 0x72, 0x80, 0x81, 0x82, 0x83, 0x90]

/-- The mailbox is taken: QUEUED or RUNNING. -/
def Mailbox.taken (b : Mailbox) : Bool := b.st = .queued || b.st = .running

/-- A write is discarded (R351). -/
def State.discardWrite (s : State) (m : Nat) : State := s.modMbox m (fun b => { b with discarded := true })

/-- A queued command joins the others in the order of their GO writes; among those of one cycle the lowest mailbox goes
first (R352). -/
def State.enqueue (s : State) (m : Nat) : State :=
  let after (n : Nat) : Bool := (s.mbox n).st = .queued && (s.mbox n).goAt = s.cyc && m < n
  let q := s.huv.foreQ
  { s with huv := { s.huv with foreQ := q.takeWhile (fun n => !after n) ++ m :: q.dropWhile (fun n => !after n) } }

/-- GO (R350, R351, R353): the command is latched and queued; an unassigned opcode, and every command once the Huvas has
stopped, is answered at once. -/
def State.submit (s : State) (m : Nat) (op token : BitVec 16) : State :=
  if (s.mbox m).taken then s.discardWrite m
  else
    let s := s.modMbox m (fun b => { b with
      opcode := op, token := token, curOp := op.toNat, latch := b.arg, res := [], st := .queued, goAt := s.cyc })
    if s.huv.lost then s.finish m 8
    else if !opcodes.contains op.toNat then s.finish m 1
    else s.enqueue m

/-- GO, or GO with ABORT (R351): a 4-byte write leaves OPCODE and TOKEN as they were last written. -/
def State.goWrite (s : State) (m : Nat) (op token : BitVec 16) (upperHalf : Bool) : State :=
  let b := s.mbox m
  if upperHalf then s.submit m b.opcode b.token else s.submit m op token

/-- A running foreground command is stopped between its steps (R351, R353): a ruling that was being copied is gone, one
that was being verified is LOADED; what the other commands did stays. -/
def State.stopCmd (s : State) (m code : Nat) : State :=
  let k := bitsOf (s.arg m 0) 0 4
  let op := (s.mbox m).curOp
  let s := { s with huv := { s.huv with prog := if s.huv.prog.any (fun (p : Nat × Nat) => p.1 = m) then none else s.huv.prog } }
  let s :=
    if op = 0x30 then s.modSlot k (fun _ => {})
    else if op = 0x31 then s.modSlot k (fun (r : RulSlot) => if r.st = .verified then { r with st := .loaded } else r)
    else s
  s.finish m code

/-- ABORT (R351): a queued command is removed, an abortable one that runs is stopped. -/
def State.abortWrite (s : State) (m : Nat) : State :=
  if (s.mbox m).st = .queued then s.finish m 7
  else if (s.mbox m).st = .running then
    if s.blot.pass.any (fun p => p.mb = some m) then s.scrubAbort
    else if s.blot.marching.any (fun r => r.mb = m) then s.endMarch 7
    else if s.huv.prog.any (fun (p : Nat × Nat) => p.1 = m) then s.stopCmd m 7
    else s
  else s

/-- Replace bytes `lo` to `lo + n - 1` of a word. -/
def putHalf (old : Word) (lo n : Nat) (w : Word) : Word := setBits old (8 * lo) (8 * n) w.toNat

/-- A write of `HUV_MB_CMD`: `lo` is 0, or 4 for the upper half. -/
def State.cmdWrite (s : State) (m lo n : Nat) (w : Word) : State :=
  let hi : Nat := if n = 8 then bitsOf w 32 32 else if lo = 4 then bitsOf w 0 32 else 0
  let op := BitVec.ofNat 16 w.toNat
  let token := BitVec.ofNat 16 (w.toNat / 65536)
  if hi.testBit 0 then s.goWrite m op token (lo = 4)
  else if (s.mbox m).taken then (if hi.testBit 1 then s.abortWrite m else s.discardWrite m)
  else if lo = 4 then s
  else s.modMbox m (fun b => { b with opcode := op, token := token })

/-- A write to the mailbox page (R349). -/
def State.pageWrite (s : State) (off n : Nat) (w : Word) : State :=
  let m := off / 0x200
  let o := off % 0x200
  let lo := off % 8
  if 0x800 ≤ off then s
  else if o < 8 then s.cmdWrite m lo n w
  else if o = 8 then (if bitAt w 4 then s.modMbox m (fun b => { b with discarded := false }) else s)
  else if o < 16 || 0x100 ≤ o then s
  else if (s.mbox m).taken then s.discardWrite m
  else s.modMbox m (fun b =>
    let i := (o - 16) / 8
    { b with arg := Table.set (fun _ => 0) b.arg i (putHalf (Table.get (fun _ => 0) b.arg i) lo n w) })

end Sys2Proof.Machine
end

