-- ==== Sys2Proof/Machine/Flags.lean ====
section
/-! DEFINITION. The flags N, Z, C and V: their four patterns (R164), the flags of each arithmetic class (R136, R166,
R169), and the conditions of Bcc (R165). A flag group is four bits in the order of the status word (R133). -/

namespace Sys2Proof.Machine

/-- The four flags, bit 0 N, bit 1 Z, bit 2 C, bit 3 V (R133). -/
abbrev Flags := BitVec 4

/-- A flag group from its four flags. -/
def mkFlags (n z c v : Bool) : Flags := BitVec.ofNat 4 (bitN n + 2 * bitN z + 4 * bitN c + 8 * bitN v)

/-- Pattern NZCV: N and Z from the result (R164). -/
def flagsNzcv (w : Word) (c v : Bool) : Flags := mkFlags (bitAt w 63) (w = 0) c v

/-- Pattern NZ (R164). -/
def flagsNz (w : Word) : Flags := flagsNzcv w false false

/-- Pattern SB (R164). -/
def flagsSb (b : Bool) : Flags := mkFlags false (!b) false false

/-- Signed overflow of a 64-bit sum of two payloads (R136). -/
def addV (a b : Word) : Bool :=
  let t := a.toInt + b.toInt
  !(-(2 ^ 63) ≤ t && t < 2 ^ 63)

/-- Signed overflow of a 64-bit difference (R136). -/
def subV (a b : Word) : Bool :=
  let t := a.toInt - b.toInt
  !(-(2 ^ 63) ≤ t && t < 2 ^ 63)

/-- Unsigned carry of a sum (R136). -/
def addC (a b : Word) : Bool := 2 ^ 64 ≤ a.toNat + b.toNat
/-- Borrow of a difference (R136). -/
def subC (a b : Word) : Bool := a.toNat < b.toNat

/-- C where a signed INT is added to an unsigned value: the true result lies outside [0, 2^64) (R136). -/
def addMixedC (u i : Word) : Bool :=
  let t := (u.toNat : Int) + i.toInt
  !(0 ≤ t && t < 2 ^ 64)

/-- C where a signed INT is subtracted from an unsigned value (R136). -/
def subMixedC (u i : Word) : Bool :=
  let t := (u.toNat : Int) - i.toInt
  !(0 ≤ t && t < 2 ^ 64)

/-- An exact result fits a signed 64-bit value (R169). -/
def fitsInt (p : Int) : Bool := -(2 ^ 63) ≤ p && p < 2 ^ 63

/-- Flags N, Z, C, V of a group. -/
def flagN (f : Flags) : Bool := f.getLsbD 0
def flagZ (f : Flags) : Bool := f.getLsbD 1
def flagC (f : Flags) : Bool := f.getLsbD 2
def flagV (f : Flags) : Bool := f.getLsbD 3

/-- Conditions of Bcc (R165); `none` for the unassigned codes. -/
def condHolds (cond : BitVec 4) (f : Flags) : Option Bool :=
  let n := flagN f
  let z := flagZ f
  let c := flagC f
  let v := flagV f
  match cond.toNat with
  | 0 => some z
  | 1 => some !z
  | 2 => some !c
  | 3 => some c
  | 4 => some n
  | 5 => some !n
  | 6 => some v
  | 7 => some !v
  | 8 => some (!c && !z)
  | 9 => some (c || z)
  | 10 => some (n == v)
  | 11 => some (n != v)
  | 12 => some (!z && n == v)
  | 13 => some (z || n != v)
  | _ => none

end Sys2Proof.Machine
end

