-- ==== Sys2Proof/Machine/Operands.lean ====
section
/-! DEFINITION. Operand roles and their tag checks (R127 to R130), the immediates (R138), and what each arithmetic,
logic, bit and tag instruction computes from its operands (R136, R137, R139 to R141, R166, R169, R172 to R174), as
functions from operands to a result or an exception. -/

namespace Sys2Proof.Machine

/-- The result of an operation: the word written and, where it writes them, the flags. -/
abbrev AluOut := TWord × Option Flags

/-! ### Exceptions of instructions (R221) -/

def excIllegal (detail : Nat) : Exc := { vector := 1, level := 5, detail := detail }
def excPrivilege : Exc := { vector := 2, level := 5 }
def excTag (detail operand : Nat) : Exc := { vector := 3, level := 4, detail := detail, operand := operand }
def excAlign (addr : Word) (write : Bool := false) : Exc := { vector := 4, level := 4, addr := addr, write := write }
def excBus (cause : Nat) (addr : Word) (write : Bool := false) (second : Bool := false) : Exc :=
  { vector := 7, level := 5, bcause := cause, addr := addr, write := write, second := second }
def excOverflow : Exc := { vector := 9, level := 3 }
def excDivzero : Exc := { vector := 10, level := 3 }

/-- Details of tag faults (R129). -/
def tdUninit : Nat := 1
def tdPoison : Nat := 2
def tdReserved : Nat := 3
def tdMismatch : Nat := 4
def tdSboolForm : Nat := 5
def tdCheck : Nat := 6
def tdReturn : Nat := 7
def tdConvert : Nat := 8

/-! ### Roles -/

/-- The detail for a tag that every checking role refuses (R127, R129). -/
def refusedTag (t : Tag) : Option Nat :=
  if t = Tag.uninit then some tdUninit
  else if t = Tag.poison then some tdPoison
  else if t.isReserved then some tdReserved
  else none

/-- The tag is one of a list. -/
def tagIn (l : List Tag) (t : Tag) : Bool := l.contains t

/-- An SBOOL payload has one of the two canonical forms (R128). -/
def sbCanonical (w : Word) : Bool := w = sbTrue || w = sbFalse

/-- Check one register or memory operand in a role that takes the listed tags (R127 to R129). -/
def checkTag (operand : Nat) (l : List Tag) (w : TWord) : Except Exc Unit :=
  match refusedTag w.tag with
  | some d => .error (excTag d operand)
  | none =>
    if !tagIn l w.tag then .error (excTag tdMismatch operand)
    else if w.tag = Tag.sbool && !sbCanonical w.val then .error (excTag tdSboolForm operand)
    else .ok ()

/-- The second source with its origin: an immediate takes its tag from the register operand (R138) and has no operand
code of its own. -/
structure Second where
  w   : TWord
  imm : Bool
  deriving DecidableEq, Repr

/-- An immediate beside a register operand of tag `t` (R138). -/
def immFor (t : Tag) (i : BitVec 16) : Except Exc TWord :=
  let v : Word := i.signExtend 64
  if t = Tag.int || t = Tag.ptr || t = Tag.cptr || t = Tag.time then .ok (TWord.int v)
  else if t = Tag.uint then .ok (TWord.uint v)
  else if t = Tag.raw then .ok (TWord.raw v)
  else .error (excTag tdMismatch 0)

/-- Operand code of a combination that the tables do not list: the second source, or the register beside an immediate
(assumption log 12). -/
def Second.code (b : Second) : Nat := if b.imm then 0 else 1

/-- Two operands in the value role: the first, then the second, then their combination (R130, R136, R137). -/
def binary (l0 l1 : List Tag) (a : TWord) (b : Src) (read : Reg → TWord) (f : TWord → TWord → Option α) :
    Except Exc α := do
  checkTag 0 l0 a
  let s : Second ← match b with
    | .reg r => do
        checkTag 1 l1 (read r)
        pure ⟨read r, false⟩
    | .imm i => do
        let w ← immFor a.tag i
        pure ⟨w, true⟩
  match f a s.w with
  | some x => pure x
  | none => .error (excTag tdMismatch s.code)

/-! ### Additive operations (R136) -/

/-- The result of a sum: tag, C and V. -/
structure SumOut where
  res : TWord
  c   : Bool
  v   : Bool
  deriving DecidableEq, Repr

def isAddr (t : Tag) : Bool := t = Tag.ptr || t = Tag.cptr || t = Tag.time

/-- ADD of two tagged words (R136). -/
def sumOf (a b : TWord) : Option SumOut :=
  let r := a.val + b.val
  let v := addV a.val b.val
  if a.tag = b.tag && (a.tag = Tag.int || a.tag = Tag.uint || a.tag = Tag.fixq || a.tag = Tag.raw) then
    some ⟨⟨a.tag, r⟩, addC a.val b.val, v⟩
  else if isAddr a.tag && b.tag = Tag.int then some ⟨⟨a.tag, r⟩, addMixedC a.val b.val, v⟩
  else if a.tag = Tag.int && (b.tag = Tag.ptr || b.tag = Tag.time) then some ⟨⟨b.tag, r⟩, addMixedC b.val a.val, v⟩
  else none

/-- SUB of two tagged words (R136). -/
def diffOf (a b : TWord) : Option SumOut :=
  let r := a.val - b.val
  let v := subV a.val b.val
  if a.tag = b.tag && (a.tag = Tag.int || a.tag = Tag.uint || a.tag = Tag.fixq || a.tag = Tag.raw) then
    some ⟨⟨a.tag, r⟩, subC a.val b.val, v⟩
  else if isAddr a.tag && b.tag = a.tag then some ⟨⟨Tag.int, r⟩, subC a.val b.val, v⟩
  else if isAddr a.tag && b.tag = Tag.int then some ⟨⟨a.tag, r⟩, subMixedC a.val b.val, v⟩
  else none

/-- Tags accepted as first and second operand of the additive operations (R136). -/
def addTags : List Tag := [Tag.int, Tag.uint, Tag.fixq, Tag.raw, Tag.ptr, Tag.cptr, Tag.time]
def addTags2 : List Tag := [Tag.int, Tag.uint, Tag.fixq, Tag.raw, Tag.ptr, Tag.time]

def SumOut.out (x : SumOut) : AluOut := (x.res, some (flagsNzcv x.res.val x.c x.v))

/-- The overflow rule of the T forms (R136). -/
def SumOut.overflows (x : SumOut) : Bool :=
  if x.res.tag = Tag.int || x.res.tag = Tag.fixq then x.v
  else if x.res.tag = Tag.uint || isAddr x.res.tag then x.c
  else false

/-- The tags of a T form: RAW is refused (R136). -/
def noRaw (l : List Tag) : List Tag := l.filter (fun t => t ≠ Tag.raw)

def SumOut.trap (x : SumOut) : Except Exc AluOut := if x.overflows then .error excOverflow else .ok x.out

def aluAdd (a : TWord) (b : Src) (read : Reg → TWord) : Except Exc AluOut := do
  let x ← binary addTags addTags2 a b read sumOf
  pure x.out

def aluAddt (a : TWord) (b : Src) (read : Reg → TWord) : Except Exc AluOut := do
  let x ← binary (noRaw addTags) (noRaw addTags2) a b read sumOf
  x.trap

def aluSub (a : TWord) (b : Src) (read : Reg → TWord) : Except Exc AluOut := do
  let x ← binary addTags addTags a b read diffOf
  pure x.out

def aluSubt (a : TWord) (b : Src) (read : Reg → TWord) : Except Exc AluOut := do
  let x ← binary (noRaw addTags) (noRaw addTags) a b read diffOf
  x.trap

/-- The most negative payload. -/
def minWord : Word := 0x8000000000000000

/-- NEG and NEGT (R166). -/
def aluNeg (trap : Bool) (a : TWord) : Except Exc AluOut := do
  checkTag 0 [Tag.int, Tag.fixq] a
  let v := a.val = minWord
  if trap && v then .error excOverflow
  else pure (⟨a.tag, 0 - a.val⟩, some (flagsNzcv (0 - a.val) (a.val ≠ 0) v))

/-! ### Multiply and divide (R169) -/

/-- Low product (R169): result tag, payload, C and V. -/
def mulOf (a b : TWord) : Option SumOut :=
  let si := a.val.toInt * b.val.toInt
  let un := a.val.toNat * b.val.toNat
  let lo (p : Int) : Word := BitVec.ofInt 64 p
  if a.tag = Tag.int && b.tag = Tag.int then some ⟨⟨Tag.int, lo si⟩, false, !fitsInt si⟩
  else if a.tag = Tag.uint && b.tag = Tag.uint then some ⟨⟨Tag.uint, BitVec.ofNat 64 un⟩, 2 ^ 64 ≤ un, false⟩
  else if a.tag = Tag.raw && b.tag = Tag.raw then some ⟨⟨Tag.raw, BitVec.ofNat 64 un⟩, false, false⟩
  else if a.tag = Tag.fixq && b.tag = Tag.fixq then
    let p := si / 2 ^ 32
    some ⟨⟨Tag.fixq, lo p⟩, false, !fitsInt p⟩
  else if (a.tag = Tag.fixq && b.tag = Tag.int) || (a.tag = Tag.int && b.tag = Tag.fixq) then
    some ⟨⟨Tag.fixq, lo si⟩, false, !fitsInt si⟩
  else none

def mulTags : List Tag := [Tag.int, Tag.uint, Tag.raw, Tag.fixq]

def aluMul (a : TWord) (b : Src) (read : Reg → TWord) : Except Exc AluOut := do
  let x ← binary mulTags mulTags a b read mulOf
  pure x.out

/-- High product (R169). -/
def mulhOf (a b : TWord) : Option TWord :=
  if a.tag = Tag.int && b.tag = Tag.int then
    some ⟨Tag.int, BitVec.ofInt 64 (a.val.toInt * b.val.toInt / 2 ^ 64)⟩
  else if a.tag = b.tag && (a.tag = Tag.uint || a.tag = Tag.raw) then
    some ⟨a.tag, BitVec.ofNat 64 (a.val.toNat * b.val.toNat / 2 ^ 64)⟩
  else none

def mulhTags : List Tag := [Tag.int, Tag.uint, Tag.raw]

def aluMulh (a : TWord) (b : Reg) (read : Reg → TWord) : Except Exc AluOut := do
  let w ← binary mulhTags mulhTags a (.reg b) read mulhOf
  pure (w, some (flagsNz w.val))

/-- Quotient (R169): result and V. The divisor is not 0. -/
def divOf (a b : TWord) : Option (TWord × Bool) :=
  let lo (p : Int) : Word := BitVec.ofInt 64 p
  if a.tag = Tag.uint && b.tag = Tag.uint then some (⟨Tag.uint, BitVec.ofNat 64 (a.val.toNat / b.val.toNat)⟩, false)
  else if (a.tag = Tag.int && b.tag = Tag.int) || (a.tag = Tag.fixq && b.tag = Tag.int) then
    let p := a.val.toInt.tdiv b.val.toInt
    some (⟨a.tag, lo p⟩, !fitsInt p)
  else if a.tag = Tag.fixq && b.tag = Tag.fixq then
    let p := (a.val.toInt * 2 ^ 32).tdiv b.val.toInt
    some (⟨Tag.fixq, lo p⟩, !fitsInt p)
  else none

/-- Remainder (R169): result and V. The divisor is not 0. -/
def remOf (a b : TWord) : Option (TWord × Bool) :=
  if a.tag = Tag.uint && b.tag = Tag.uint then some (⟨Tag.uint, BitVec.ofNat 64 (a.val.toNat % b.val.toNat)⟩, false)
  else if a.tag = Tag.int && b.tag = Tag.int then
    some (⟨Tag.int, BitVec.ofInt 64 (a.val.toInt.tmod b.val.toInt)⟩, !fitsInt (a.val.toInt.tdiv b.val.toInt))
  else none

/-- What a divide will write in its last cycle, and whether it will fault with OVERFLOW there (R168, R200). -/
structure DivOut where
  res  : TWord
  fl   : Flags
  trap : Bool
  deriving DecidableEq, Repr

/-- A divide of register operands: tags, then DIVZERO (R130, R168). -/
def divide (l0 l1 : List Tag) (f : TWord → TWord → Option (TWord × Bool)) (trap : Bool) (a b : TWord) :
    Except Exc DivOut := do
  checkTag 0 l0 a
  checkTag 1 l1 b
  match f a b with
  | none => .error (excTag tdMismatch 1)
  | some (w, v) =>
    if b.val = 0 then .error excDivzero
    else pure ⟨w, flagsNzcv w.val false v, trap && v⟩

def aluDiv (trap : Bool) (a b : TWord) : Except Exc DivOut :=
  divide [Tag.int, Tag.uint, Tag.fixq] [Tag.int, Tag.uint, Tag.fixq] divOf trap a b

def aluRem (a b : TWord) : Except Exc DivOut := divide [Tag.int, Tag.uint] [Tag.int, Tag.uint] remOf false a b

/-! ### Logic (R137, R139) -/

/-- A logic operation on two words: bitwise on RAW and UINT, logical on SBOOL; `ptr` admits PTR with RAW. -/
def logicOf (ptr : Bool) (f : Word → Word → Word) (g : Bool → Bool → Bool) (a b : TWord) : Option AluOut :=
  let bits (t : Tag) : Option AluOut := some (⟨t, f a.val b.val⟩, some (flagsNz (f a.val b.val)))
  if a.tag = Tag.sbool && b.tag = Tag.sbool then
    let r := g (a.val = sbTrue) (b.val = sbTrue)
    some (TWord.bool r, some (flagsSb r))
  else if a.tag = Tag.uint && b.tag = Tag.uint then bits Tag.uint
  else if (a.tag = Tag.raw || a.tag = Tag.uint) && (b.tag = Tag.raw || b.tag = Tag.uint) then bits Tag.raw
  else if ptr && a.tag = Tag.ptr && b.tag = Tag.raw then bits Tag.ptr
  else none

def logicTags : List Tag := [Tag.raw, Tag.uint, Tag.sbool]

def aluAnd (a : TWord) (b : Src) (read : Reg → TWord) : Except Exc AluOut :=
  binary (Tag.ptr :: logicTags) logicTags a b read (logicOf true (· &&& ·) (· && ·))

def aluOr (a : TWord) (b : Src) (read : Reg → TWord) : Except Exc AluOut :=
  if b = .reg 0 then .ok (a, none)
  else binary logicTags logicTags a b read (logicOf false (· ||| ·) (· || ·))

def aluXor (a : TWord) (b : Src) (read : Reg → TWord) : Except Exc AluOut :=
  binary logicTags logicTags a b read (logicOf false (· ^^^ ·) (· != ·))

/-! ### Shifts (R172) -/

def shlOf (w : Word) (n : Nat) : Word := if n < 64 then w <<< n else 0
def shrOf (w : Word) (n : Nat) : Word := if n < 64 then w >>> n else 0
def sarOf (w : Word) (n : Nat) : Word := w.sshiftRight (min n 64)
def rolOf (w : Word) (n : Nat) : Word := w.rotateLeft (n % 64)

/-- A shift: the value operand, then the amount (R137, R166). -/
def aluShift (l : List Tag) (f : Word → Nat → Word) (a : TWord) (n : Amt) (read : Reg → TWord) : Except Exc AluOut := do
  checkTag 0 l a
  let k : Nat ← match n with
    | .imm i => pure i.toNat
    | .reg r => do
        checkTag 1 [Tag.int, Tag.uint, Tag.raw] (read r)
        pure (read r).val.toNat
  pure (⟨a.tag, f a.val k⟩, some (flagsNz (f a.val k)))

def arithTags : List Tag := [Tag.int, Tag.uint, Tag.raw, Tag.fixq]
def bitTags : List Tag := [Tag.uint, Tag.raw]

/-! ### Bits and bytes (R166, R173) -/

/-- Leading zeros of the low `n` bits. -/
def clzGo : Nat → Nat → Nat
  | 0, _ => 0
  | n + 1, w => if w.testBit n then 0 else 1 + clzGo n w

def aluClz (a : TWord) : Except Exc AluOut := do
  checkTag 0 [Tag.int, Tag.uint, Tag.raw] a
  let r := BitVec.ofNat 64 (clzGo 64 a.val.toNat)
  pure (TWord.uint r, some (flagsNz r))

def aluBfx (pos len : Nat) (a : TWord) : Except Exc AluOut := do
  checkTag 0 bitTags a
  let r : Word := BitVec.ofNat 64 (bitsOf a.val pos len)
  pure (⟨a.tag, r⟩, some (flagsNz r))

def aluBfi (pos len : Nat) (a d : TWord) : Except Exc AluOut := do
  checkTag 0 bitTags a
  checkTag 2 bitTags d
  if a.tag ≠ d.tag then .error (excTag tdMismatch 2)
  else
    let r := setBits d.val pos len (bitsOf a.val 0 len)
    pure (⟨d.tag, r⟩, some (flagsNz r))

/-- Byte `i` of PERM's result. -/
def permByte (a sel : Word) (i : Nat) : Nat :=
  if bitAt sel (4 * i + 3) then 0 else bitsOf a (8 * bitsOf sel (4 * i) 3) 8

def permOf (a sel : Word) : Word :=
  BitVec.ofNat 64 ((upTo 8).foldl (fun n i => n + permByte a sel i * 2 ^ (8 * i)) 0)

def aluPerm (a b : TWord) : Except Exc AluOut := do
  checkTag 0 bitTags a
  checkTag 1 bitTags b
  let r := permOf a.val b.val
  pure (⟨a.tag, r⟩, some (flagsNz r))

/-! ### Tags (R140, R141, R174) -/

/-- TAG names a privileged target (R134). -/
def tagPrivileged (t : Tag) : Bool := t = Tag.ptr || t = Tag.cptr || t = Tag.status

/-- TAG: at TASK a change to PTR, CPTR or STATUS is refused first, then the table of R140 decides. -/
def aluTag (exec : Bool) (t : Tag) (a : TWord) : Except Exc AluOut :=
  let convert : Except Exc AluOut := .error (excTag tdConvert 0)
  if a.tag = t then .ok (a, none)
  else if tagPrivileged t && !exec then .error excPrivilege
  else match refusedTag a.tag with
    | some d => .error (excTag d 0)
    | none =>
      if t = Tag.raw then .ok (⟨t, a.val⟩, none)
      else if a.tag ≠ Tag.raw then convert
      else if t = Tag.int || t = Tag.uint || t = Tag.time || t = Tag.fixq || t = Tag.ptr then .ok (⟨t, a.val⟩, none)
      else if t = Tag.sbool then (if sbCanonical a.val then .ok (⟨t, a.val⟩, none) else convert)
      else if t = Tag.cptr then (if bitsOf a.val 0 2 = 0 then .ok (⟨t, a.val⟩, none) else convert)
      else if t = Tag.status then
        (if bitAt a.val 7 || bitsOf a.val 10 54 ≠ 0 then convert else .ok (⟨t, a.val⟩, none))
      else convert

def aluTagof (a : TWord) : Except Exc AluOut := .ok (TWord.uint (BitVec.ofNat 64 a.tag.toNat), none)

/-- CHK: the mask must hold the tag's bit. -/
def aluChk (mask : BitVec 16) (a : TWord) : Except Exc Unit :=
  if mask.getLsbD a.tag.toNat then .ok () else .error (excTag tdCheck 0)

end Sys2Proof.Machine
end

