-- ==== Sys2Proof/Machine/Translate.lean ====
section
/-! DEFINITION. Address translation (R247 to R271): canonical addresses, table entries, the walk, the TLB with its lock
slots and replacement, permission and seal checks, and the frame that an access uses (R71, R264). -/

namespace Sys2Proof.Machine

/-! ### Walk causes (R232) -/

def wcNotPresent : Nat := 0
def wcPermission : Nat := 1
def wcDevice : Nat := 2
def wcEcc : Nat := 3
def wcTag : Nat := 4
def wcSeal : Nat := 5
def wcNonCanonical : Nat := 6

/-- A translation fault (R232, R260). -/
structure TFault where
  stage : Nat
  level : Nat
  cause : Nat
  deriving DecidableEq, Repr

/-! ### Addresses -/

/-- A virtual address of width `w` is canonical (R248). -/
def canonical (va : Word) (w : Nat) : Bool :=
  let t := va.toNat / 2 ^ (w - 1)
  t = 0 || t = 2 ^ (65 - w) - 1

/-- The 9 address bits that level `l` indexes (R249). -/
def levelIndex (a l : Nat) : Nat := a / 2 ^ (12 + 9 * l) % 512

/-- Bytes that a leaf at a level maps (R249). -/
def leafSize (l : Nat) : Nat := 2 ^ (12 + 9 * l)

def vpnOf (va : Word) : Nat := bitsOf va 12 45

/-- A stage-1 word is malformed at a level (R255, R257). -/
def malformed1 (e : Word) (l : Nat) : Bool :=
  bitsOf e 8 4 ≠ 0 || bitsOf e 57 2 ≠ 0 || bitAt e 63 ||
    (if bitAt e 1 then 3 ≤ l || bitsOf e 12 (9 * l) ≠ 0
     else l = 0 || bitsOf e 2 6 ≠ 0 || bitsOf e 59 4 ≠ 0)

/-- A stage-2 word is malformed at a level (R256, R257). -/
def malformed2 (e : Word) (l : Nat) : Bool :=
  let ver := bitAt e 6
  let loc := bitAt e 7
  bitsOf e 8 4 ≠ 0 || bitsOf e 48 16 ≠ 0 || (ver && loc) ||
    (loc && bitsOf e 19 29 ≠ 0) || (ver && bitsOf e 25 23 ≠ 0) ||
    (if bitAt e 1 then 3 ≤ l || bitsOf e 12 (9 * l) ≠ 0 || (0 < l && (ver || loc))
     else l = 0 || bitsOf e 2 5 ≠ 0)

/-! ### Table words -/

/-- Where pen `p` reaches a word of its home pen's inkwells: its own copy (R105, R250). -/
def ownCopy (p home cpa : Nat) : Nat :=
  if isInk cpa && inkPen cpa = home then inkBase p + cpa % 0x80000 else cpa

/-- Pen `p` executes a JOINED run. -/
def State.isJoined (s : State) (p : Nat) : Bool := match (s.pen p).run with
  | some r => r.mode = .joined
  | none => false

/-- Change the pen of a run, both pens of a JOINED run: each has its own TLB, counters and replacement (R108, R265). -/
def State.modRun (s : State) (p : Nat) (f : Pen → Pen) : State :=
  let t := s.modPen p f
  if s.isJoined p then t.modPen (otherOf p) f else t

/-- The CPAs that a write of pen `p`'s run changes: both copies while JOINED (R105, R108). -/
def State.runCopies (s : State) (p home cpa : Nat) : List Nat :=
  if s.isJoined p && isInk cpa then [evenCpa cpa, oddCpa cpa] else [ownCopy p home cpa]

/-- A run reads a word: the pen its own copy, and the odd pen of a JOINED pair its own beside it, where an error is noted
(R105, R108). -/
def State.readRun (s : State) (p home cpa source : Nat) : Option TWord × State :=
  let x := s.readWord (ownCopy p home cpa) source
  if s.isJoined p && isInk cpa then (x.1, (x.2.readWord (ownCopy (otherOf p) home cpa) source).2) else x

/-- A SOLO run has written a page of its inkwells: it is copied again after the run (R113). -/
def State.noteWrote (s : State) (p cpa : Nat) : State :=
  if isInk cpa then
    let page := cpa % 0x80000 / 4096
    s.modPen p (fun x => { x with run := x.run.map (fun r =>
      if r.mode = .solo && !r.wrote.contains page then { r with wrote := r.wrote ++ [page] } else r) })
  else s

/-- Bytes of a store half as a mask over the word. -/
def SbHalf.over (h : SbHalf) (w : TWord) : TWord :=
  if h.full then h.data else ⟨w.tag, mergeBytes h.bytes h.data.val w.val⟩

/-- A memory word as a pen sees it behind its waiting stores (R207, R269). -/
def sbView (sb : List SbEntry) (cpa : Nat) (w : TWord) : TWord :=
  (sb.flatMap (·.halves)).foldl (fun w h => if h.cpa = cpa then h.over w else w) w

/-- A waiting store writes the whole word. -/
def sbFull (sb : List SbEntry) (cpa : Nat) : Bool :=
  (sb.flatMap (·.halves)).any (fun h => h.cpa = cpa && h.full)

/-- A reservoir or inkwell word that a run of pen `p` can reach as a table word (R258). -/
def State.tableReachable (s : State) (home cpa : Nat) : Bool :=
  if isInk cpa then inkPen cpa = home
  else isRsv cpa && s.bankReady cpa

/-- Read one table word (R258): its payload or the cause of the fault, and the state with errors noted. -/
def State.readTable (s : State) (p home cpa : Nat) : Except Nat Word × State :=
  if isReg cpa then (.error wcDevice, s)
  else if !s.tableReachable home cpa then (.error wcNotPresent, s)
  else
    let sb := (s.pen p).sb
    let x : Option TWord × State := if sbFull sb cpa then (some TWord.uninit, s) else s.readRun p home cpa srcWalk
    match x.1 with
    | none => (.error wcEcc, x.2)
    | some w =>
      let w := sbView sb cpa w
      if w.tag = Tag.raw then (.ok w.val, x.2) else (.error wcTag, x.2)

/-- The CPA that a table window gives an IPA (R253). -/
def State.tableWindow (s : State) (part home ia : Nat) : Option Nat :=
  (upTo 4).findSome? (fun i =>
    let a := s.ptWord part (4 + 2 * i)
    let b := s.ptWord part (5 + 2 * i)
    let base := bitsOf a 12 45 * 4096
    let cpa := bitsOf b 28 36 * 4096
    if bitAt a 0 && base ≤ ia && ia < base + bitsOf b 0 16 * 4096 then
      some ((if bitAt b 16 then inkBase home + cpa % 0x80000 else cpa) + (ia - base))
    else none)

/-- A leaf that a walk found: level, word and the CPA of the word. -/
structure Leaf where
  level : Nat
  word  : Word
  cpa   : Nat
  deriving DecidableEq, Repr

/-- Stage 1 of the walk from level `l` down (R258). -/
def State.walk1 (s : State) (p part home va : Nat) : Nat → Nat → Except TFault Leaf × State
  | l, t =>
    let ia := t + 8 * levelIndex va l
    match s.tableWindow part home ia with
    | none => (.error ⟨2, l, wcPermission⟩, s)
    | some a =>
      let x := s.readTable p home a
      match x.1 with
      | .error c => (.error ⟨1, l, c⟩, x.2)
      | .ok e =>
        if !bitAt e 0 || malformed1 e l then (.error ⟨1, l, wcNotPresent⟩, x.2)
        else if bitAt e 1 then (.ok ⟨l, e, a⟩, x.2)
        else match l with
          | 0 => (.error ⟨1, 0, wcNotPresent⟩, x.2)
          | l + 1 => State.walk1 x.2 p part home va l (bitsOf e 12 45 * 4096)

/-- Stage 2 of the walk from level `l` down (R258). -/
def State.walk2 (s : State) (p home ipa : Nat) : Nat → Nat → Except TFault Leaf × State
  | l, t =>
    let a := t + 8 * levelIndex ipa l
    let x := s.readTable p home a
    match x.1 with
    | .error c => (.error ⟨2, l, c⟩, x.2)
    | .ok e =>
      if !bitAt e 0 || malformed2 e l then (.error ⟨2, l, wcNotPresent⟩, x.2)
      else if bitAt e 1 then (.ok ⟨l, e, a⟩, x.2)
      else match l with
        | 0 => (.error ⟨2, 0, wcNotPresent⟩, x.2)
        | l + 1 => State.walk2 x.2 p home ipa l (s2Addr home e)

/-! ### The walk -/

/-- Stage-1 permissions of a leaf or entry (R259), SEAL apart. -/
def refused1 (ad : Bool) (kind : Access) (task u r w x a d : Bool) : Bool :=
  (task && !u) ||
  (match kind with
   | .read => !r
   | .write => !w
   | .fetch => !x) ||
  (ad && (!a || (kind = .write && !d)))

/-- Stage-2 permissions (R259). -/
def refused2 (kind : Access) (r w x : Bool) : Bool :=
  match kind with
  | .read => !r
  | .write => !w
  | .fetch => !x

/-- A frame lies in an inkwell of another pen than the home pen (R251). -/
def foreignInk (home frame : Nat) : Bool := isInk (frame * 4096) && inkPen (frame * 4096) ≠ home

/-- The TLB entry that two leaves give (R258, R264). -/
def State.entryOf (s : State) (part : Nat) (va ipa : Nat) (l1 l2 : Leaf) : TlbEntry :=
  let size := min l1.level l2.level
  let e1 := l1.word
  let e2 := l2.word
  let ver := bitAt e2 6
  let loc := bitAt e2 7
  let slot := bitsOf e2 12 13
  let frame :=
    if ver then (s.vslot slot).fairFrame
    else if loc then bitsOf e2 12 7
    else (bitsOf e2 12 36 * 4096 + ipa % leafSize l2.level) / leafSize size * 2 ^ (9 * size)
  { valid := true, vpn := va / 4096 % 2 ^ 45, part := part, size := size, l1 := l1.level, l2 := l2.level,
    kind := if ver then .versioned else if loc then .loc else .cpa,
    frame := frame, slot := if ver then slot else 0,
    r1 := bitAt e1 2, w1 := bitAt e1 3, x1 := bitAt e1 4, u1 := bitAt e1 5, d1 := bitAt e1 7, d2 := bitAt e2 5,
    key := bitsOf e1 59 4, r2 := bitAt e2 2, w2 := bitAt e2 3, x2 := bitAt e2 4, leaf1 := l1.cpa, leaf2 := l2.cpa }

/-- Set bits of a table word at the controller of its bank (R261). -/
def State.orTable (s : State) (p home cpa bit : Nat) : State :=
  (s.runCopies p home cpa).foldl (fun t a =>
    match (t.peek a).word? with
    | some w => if bitAt w.val bit then t else (t.poke a ⟨w.tag, setBit w.val bit true⟩).noteWrote p cpa
    | none => t) s

/-- Sets of A and D by a walk (R262, R263). -/
def State.walkSets (s : State) (p home : Nat) (ad : Bool) (kind : Access) (l1 l2 : Leaf) : State :=
  let s := if ad then s else s.orTable p home l1.cpa 6
  if kind = .write then
    let s := if ad then s else s.orTable p home l1.cpa 7
    s.orTable p home l2.cpa 5
  else s

/-- Translate one VA by walking the tables (R258). `probe` is the walk of a lock slot load: no permission check and no
A or D set (R266). -/
def State.walk (s : State) (p part home : Nat) (va : Word) (kind : Access) (task probe : Bool) :
    Except TFault TlbEntry × State :=
  let m1 := s.s1Mode part
  let m2 := s.s2Mode part
  let ad := bitAt (s.ptWord part 0) 2
  if !canonical va (39 + 9 * m1) then (.error ⟨1, 2 + m1, wcNonCanonical⟩, s)
  else
    let x := s.walk1 p part home va.toNat (2 + m1) (bitsOf (s.ptWord part 0) 12 45 * 4096)
    match x.1 with
    | .error f => (.error f, x.2)
    | .ok l1 =>
      let e1 := l1.word
      if !probe && refused1 ad kind task (bitAt e1 5) (bitAt e1 2) (bitAt e1 3) (bitAt e1 4) (bitAt e1 6) (bitAt e1 7) then
        (.error ⟨1, l1.level, wcPermission⟩, x.2)
      else
        let ipa := bitsOf e1 12 45 * 4096 + va.toNat % leafSize l1.level
        if 2 ^ (39 + 9 * m2) ≤ ipa then (.error ⟨2, 2 + m2, wcNonCanonical⟩, x.2)
        else
          let y := x.2.walk2 p home ipa (2 + m2) (s.s2Root part home)
          match y.1 with
          | .error f => (.error f, y.2)
          | .ok l2 =>
            let e2 := l2.word
            let v := y.2.vslot (bitsOf e2 12 13)
            if !probe && refused2 kind (bitAt e2 2) (bitAt e2 3) (bitAt e2 4) then
              (.error ⟨2, l2.level, wcPermission⟩, y.2)
            else if bitAt e2 6 && (foreignInk home v.frame0 || foreignInk home v.frame1) then
              (.error ⟨2, l2.level, wcPermission⟩, y.2)
            else
              let e := y.2.entryOf part va.toNat ipa l1 l2
              if probe then (.ok e, y.2)
              else
                (.ok { e with d1 := e.d1 || (kind = .write && !ad), d2 := e.d2 || kind = .write },
                  y.2.walkSets p home ad kind l1 l2)

/-! ### The TLB -/

/-- An entry translates a VA for a partition (R265). -/
def TlbEntry.hits (e : TlbEntry) (part vpn : Nat) : Bool :=
  e.valid && e.part = part && e.vpn / 2 ^ (9 * e.size) = vpn / 2 ^ (9 * e.size)

/-- The lowest-numbered entry that hits (R265). -/
def Pen.lookup (x : Pen) (part vpn : Nat) : Option (Nat × TlbEntry) := x.tlb.find? (fun e => e.2.hits part vpn)

def tlbGet (t : Table TlbEntry) (k : Nat) : TlbEntry := Table.get (fun _ => {}) t k
def tlbSet (t : Table TlbEntry) (k : Nat) (e : TlbEntry) : Table TlbEntry := Table.set (fun _ => {}) t k e

/-- The lock slot word of an entry number, if it is an enabled lock slot (R266). -/
def Pen.slotWord (x : Pen) (k : Nat) : Option Word :=
  if k < 56 then none
  else
    let w := Table.get (fun _ => 0) x.lslot (k - 56)
    if bitAt w 0 then some w else none

/-- The entry numbers that are not enabled lock slots, ascending (R264, R266). -/
def Pen.unlocked (x : Pen) : List Nat := (upTo 64).filter (fun k => (x.slotWord k).isNone)

/-- One step of the replacement LFSR (R265). -/
def lfsrStep (s : BitVec 16) : BitVec 16 :=
  let fb := ((s.getLsbD 15 != s.getLsbD 13) != s.getLsbD 12) != s.getLsbD 10
  (s <<< 1) ||| BitVec.ofNat 16 (bitN fb)

/-- The lock slot reserved for a page of a partition (R266). -/
def Pen.reservedFor (x : Pen) (e : TlbEntry) : Option Nat :=
  (upTo 8).find? (fun i =>
    match x.slotWord (56 + i) with
    | none => false
    | some w => bitsOf w 2 8 = e.part && bitsOf w 12 45 / 2 ^ (9 * e.size) = e.vpn / 2 ^ (9 * e.size))

/-- Install an entry: in the lock slot reserved for its page, else in the lowest-numbered invalid unlocked entry, else in
the victim that the LFSR chooses (R213, R265, R266). -/
def Pen.install (x : Pen) (e : TlbEntry) : Pen :=
  match x.reservedFor e with
  | some i => { x with tlb := tlbSet x.tlb (56 + i) { e with locked := true } }
  | none =>
    let un := x.unlocked
    match un.find? (fun k => !(tlbGet x.tlb k).valid) with
    | some k => { x with tlb := tlbSet x.tlb k e }
    | none =>
      let l := lfsrStep x.lfsr
      { x with lfsr := l, tlb := tlbSet x.tlb (un.getD (l.toNat * un.length / 65536) 0) e }

/-- Invalidate entries; a lock slot stays reserved through its `MMU_LSLOT` word (R263, R266). -/
def Pen.invalidate (x : Pen) (f : Nat → TlbEntry → Bool) : Pen :=
  { x with tlb := x.tlb.filter (fun e => !f e.1 e.2) }

/-! ### Accesses of a run -/

/-- What a run's translation depends on (R258, R270). -/
structure Ctx where
  pen  : Nat
  part : Nat
  home : Nat
  task : Bool
  seal_ : Word
  drafts : List Nat
  deriving DecidableEq, Repr

/-- The seal key register refuses an access to a page with a key (R270). -/
def sealRefuses (w : Word) (key : Nat) (kind : Access) : Bool :=
  bitAt w (4 * key + (match kind with
    | .read => 0
    | .write => 1
    | .fetch => 2))

/-- The exception of a translation fault (R221, R231). -/
def excTrans (f : TFault) (va : Word) (kind : Access) (second : Bool := false) : Exc :=
  { vector := if kind = .fetch then 6 else 5, level := 4, stage := f.stage, wlevel := f.level, wcause := f.cause,
    write := kind = .write, second := second, addr := va }

/-- How an access through the TLB ends. -/
inductive Xlat
  | hit (e : TlbEntry)
  | miss
  | fault (f : TFault) (drop : Bool)
  deriving DecidableEq, Repr

/-- Judge an access on the TLB: canonical address, lookup, permissions and seal (R248, R259, R260, R263, R265). `drop`: a
PERMISSION fault, which invalidates the entry. -/
def State.xlat (s : State) (c : Ctx) (va : Word) (kind : Access) : Xlat :=
  let m1 := s.s1Mode c.part
  let ad := bitAt (s.ptWord c.part 0) 2
  if !canonical va (39 + 9 * m1) then .fault ⟨1, 2 + m1, wcNonCanonical⟩ false
  else match (s.pen c.pen).lookup c.part (vpnOf va) with
    | none => .miss
    | some (_, e) =>
      if refused1 ad kind c.task e.u1 e.r1 e.w1 e.x1 true e.d1 then .fault ⟨1, e.l1, wcPermission⟩ true
      else if refused2 kind e.r2 e.w2 e.x2 then .fault ⟨2, e.l2, wcPermission⟩ true
      else if sealRefuses c.seal_ e.key kind then .fault ⟨1, e.l1, wcSeal⟩ false
      else .hit e

/-- Change the entry that translates a VA. -/
def Pen.modHit (x : Pen) (part : Nat) (va : Word) (f : TlbEntry → TlbEntry) : Pen :=
  match x.lookup part (vpnOf va) with
  | some (k, e) => { x with tlb := tlbSet x.tlb k (f e) }
  | none => x

/-- Count a translation fault met on the TLB, on a VA that is not canonical with its walk of no words, and drop the entry
that it invalidates (R258, R263, R272). -/
def State.noteTFault (s : State) (c : Ctx) (va : Word) (f : TFault) (drop : Bool) : State :=
  s.modRun c.pen (fun x =>
    let x := { x with
      tfaultCnt := satInc 0xFFFFFFFF x.tfaultCnt,
      walkCnt := if f.cause = wcNonCanonical then satInc 0xFFFFFFFF x.walkCnt else x.walkCnt }
    if drop then
      (match x.lookup c.part (vpnOf va) with
       | some e => x.invalidate (fun j _ => j = e.1)
       | none => x)
    else x)

/-- The CPA of a VA under an entry, named relative to the home pen; the drafting run reads and writes the draft
(R71, R250, R264). -/
def State.frameCpa (s : State) (c : Ctx) (e : TlbEntry) (va : Word) : Nat :=
  let off := va.toNat % leafSize e.size
  match e.kind with
  | .cpa => e.frame * 4096 + off
  | .loc => inkBase c.home + e.frame * 4096 + off
  | .versioned => (if c.drafts.contains e.slot then (s.vslot e.slot).draftFrame else e.frame) * 4096 + off

/-- The posted sets of D for a store through an entry (R262, R263). -/
def State.postD (s : State) (c : Ctx) (va : Word) (e : TlbEntry) : State :=
  let ad := bitAt (s.ptWord c.part 0) 2
  let s := if !e.d1 && !ad then s.orTable c.pen c.home e.leaf1 7 else s
  let s := if !e.d2 then s.orTable c.pen c.home e.leaf2 5 else s
  s.modRun c.pen (fun x => x.modHit c.part va (fun e => { e with d1 := e.d1 || !ad, d2 := true }))

/-- The set of stage-2 D by the draft copy of a page (R70, R262). -/
def State.postD2 (s : State) (c : Ctx) (va : Word) (e : TlbEntry) : State :=
  let s := if !e.d2 then s.orTable c.pen c.home e.leaf2 5 else s
  s.modRun c.pen (fun x => x.modHit c.part va (fun e => { e with d2 := true }))

/-- Carry out the walk that a pen is held for: an entry is installed, or the fault is counted; each pen of a JOINED pair
walks for itself (R212, R258, R272). -/
def State.walkFor (s : State) (c : Ctx) (va : Word) (kind : Access) : Except TFault Unit × State :=
  let x := s.walk c.pen c.part c.home va kind c.task false
  let walked (y : Pen) : Pen := { y with walkCnt := satInc 0xFFFFFFFF y.walkCnt }
  match x.1 with
  | .error f => (.error f, x.2.modRun c.pen (fun y => { walked y with tfaultCnt := satInc 0xFFFFFFFF y.tfaultCnt }))
  | .ok e => (.ok (), x.2.modRun c.pen (fun y => (walked y).install e))

/-- Clear D2 in every TLB entry that holds a stage-2 leaf, on every pen (R262). -/
def State.clearD2 (s : State) (leaf : Nat) : State :=
  { s with pens := Table.mapV (fun (x : Pen) => { x with
      tlb := Table.mapV (fun (e : TlbEntry) => if e.leaf2 = leaf then { e with d2 := false } else e) x.tlb }) s.pens }

/-- Load lock slot `i` of pen `n` (R266, R272). -/
def State.lslotLoad (s : State) (n i : Nat) : State :=
  let w := Table.get (fun _ => 0) (s.pen n).lslot i
  let part := bitsOf w 2 8
  let va : Word := BitVec.ofNat 64 (bitsOf w 12 45 * 4096)
  let va := if bitAt w 56 then va ||| BitVec.ofNat 64 (2 ^ 64 - 2 ^ 57) else va
  if !bitAt w 0 then s
  else
    let x := s.walk n part n va .read false true
    match x.1 with
    | .ok e =>
      x.2.modPen n (fun y => { y with
        walkCnt := satInc 0xFFFFFFFF y.walkCnt,
        tlb := tlbSet y.tlb (56 + i) { e with locked := true },
        lslotStat := setBit y.lslotStat (8 + i) false })
    | .error f =>
      (x.2.modPen n (fun y => { y with
        walkCnt := satInc 0xFFFFFFFF y.walkCnt,
        tlb := y.tlb.filter (fun e => e.1 ≠ 56 + i),
        lslotStat := setBits (setBit y.lslotStat (8 + i) true) 16 8 (f.stage + f.level * 4 + f.cause * 32), tfaultCnt := satInc 0xFFFFFFFF y.tfaultCnt }))

end Sys2Proof.Machine
end

