-- ==== Sys2Proof/Machine/RegWrite.lean ====
section
/-! DEFINITION. Writes of device registers, window by window, with their locks and access codes (R8, R11, R13), the
registers whose write does more than hold a value, and the clearing of RC fields. Writes are the Huvas's unless a pen
stores to a register page mapped for it. -/

namespace Sys2Proof.Machine

/-- A write of RWL fields: discarded with LOCKED_REGISTER_WRITE while the lock is closed (R13). -/
def rwl (cpa : Nat) (lock : Bool) (s : State) (f : State → State) : State := if lock then s.lockedWrite cpa else f s

/-- `cur` with the bits of a W1C mask that `v` has at 1 cleared (R8). -/
def w1c (cur v : Word) : Word := cur &&& ~~~ v

/-! ### `FOLIO_` -/

/-- Keep the bits of a mask. -/
def only (mask : Nat) (v : Word) : Word := v &&& BitVec.ofNat 64 mask

/-- Write of `FOLIO_VT_DATA1`: both words go into the slot and SLOT is incremented (R68, R94). -/
def State.vtStore (s : State) (w1 : Word) : State :=
  if s.folio.lock || s.folio.en then s.lockedWrite 0x40000210
  else
    let w0 := s.folio.vtData0
    let n := s.folio.vtIdx
    let kind : VKind := match bitsOf w0 37 2 with
      | 0 => .state
      | 1 => .output
      | 2 => .input
      | _ => .rsvd
    let s := s.modVslot n (fun v => { v with
      frame0 := bitsOf w0 0 36, fair := bitAt w0 36, kind := kind, valid := bitAt w0 39, part := bitsOf w0 40 8,
      frame1 := bitsOf w1 0 36 })
    { s with folio := { s.folio with vtIdx := (n + 1) % 8192 } }

/-- The bits of an exception record that hold fields (R244): the rest are RSVD and read 0 (R9). -/
def pxMasks : List Nat := [0x701FF0003FFF8, 0xFFFFFFFFFFFFFFFF, 0xFFFFFFFFFFFFFFFF, 0xFFFFFFFFFFFFFFFF]

/-- The bits of a translation record that hold fields (R252). -/
def ptMasks : List Nat :=
  [0x1FFFFFFFFFFF007, 0xFFFFFFFFF00B, 0xFFFFFFFFFFFFFFFF, 0,
   0x1FFFFFFFFFFF001, 0xFFFFFFFFF001FFFF, 0x1FFFFFFFFFFF001, 0xFFFFFFFFF001FFFF,
   0x1FFFFFFFFFFF001, 0xFFFFFFFFF001FFFF, 0x1FFFFFFFFFFF001, 0xFFFFFFFFF001FFFF]

/-- The words of a record with every bit outside its fields 0. -/
def maskWords : List Nat → List Word → List Word
  | m :: ms, w :: ws => only m w :: maskWords ms ws
  | _, _ => []

/-- Write of `FOLIO_PX_DATA3` (R245). -/
def State.pxStore (s : State) (w3 : Word) : State :=
  if s.folio.lock || s.folio.en then s.lockedWrite 0x40000320
  else
    let f := s.folio
    let ws := (upTo 3).map (fun k => Table.get (fun _ => 0) f.pxStage k) ++ [w3]
    { s with px := Table.set (fun _ => []) s.px f.pxIdx (maskWords pxMasks ws), folio := { f with pxIdx := (f.pxIdx + 1) % 256 } }

/-- Write of `FOLIO_PT_DATA11` (R273). -/
def State.ptStore (s : State) (w11 : Word) : State :=
  if s.folio.lock || s.folio.en then s.lockedWrite 0x40000460
  else
    let f := s.folio
    let ws := (upTo 11).map (fun k => Table.get (fun _ => 0) f.ptStage k) ++ [w11]
    { s with pt := Table.set (fun _ => []) s.pt f.ptIdx (maskWords ptMasks ws), folio := { f with ptIdx := (f.ptIdx + 1) % 256 } }

/-- The time of an arm is 0 or a tick time at least 4,096 cyc ahead (R60). -/
def State.switchTimeOk (s : State) (at_ : Word) : Bool :=
  at_ = 0 || (s.tickAtOrAfter at_.toNat = at_.toNat && s.farAhead at_.toNat)

/-- Write of `FOLIO_SWITCH` (R59, R60): ARM = 1 arms a VERIFIED slot that passes the
activation checks at `FOLIO_SWITCH_AT`, ARM = 0 disarms; an arm that a check or R60 refuses arms nothing. -/
def State.switchWrite (s : State) (v : Word) : State :=
  rwl 0x40000068 s.folio.lock s (fun s =>
    let k := bitsOf v 0 4
    if !bitAt v 4 then { s with folio := { s.folio with swSlot := k, swArm := false } }
    else if (s.slotOf k).st = .verified && (s.mayActivate k).1 = 0 && s.switchTimeOk s.folio.swAt then
      { s with folio := { s.folio with swSlot := k, swArm := true, swSince := s.cyc } }
    else s)

def State.folioWrite (s : State) (off : Nat) (v : Word) : State :=
  let f := s.folio
  let lk (g : Folio → Folio) : State := rwl (0x40000000 + off) f.lock s (fun s => { s with folio := g s.folio })
  let stage (g : Folio → Folio) : State := rwl (0x40000000 + off) (f.lock || f.en) s (fun s => { s with folio := g s.folio })
  if 0x308 ≤ off && off ≤ 0x318 then
    stage (fun f => { f with pxStage := Table.set (fun _ => 0) f.pxStage ((off - 0x308) / 8) v })
  else if off = 0x320 then s.pxStore v
  else if 0x408 ≤ off && off < 0x460 then
    stage (fun f => { f with ptStage := Table.set (fun _ => 0) f.ptStage ((off - 0x408) / 8) v })
  else if off = 0x460 then s.ptStore v
  else match off with
  | 0x00 => rwl 0x40000000 f.lock s (fun s => { s with folio := { s.folio with
      en := bitAt v 0, tsrc := bitsOf v 1 3, gptpPort := bitsOf v 4 2,
      edgeTick := if bitAt v 0 && !s.folio.en then s.tickAhead else s.folio.edgeTick } }.boundSteer)
  | 0x08 => lk (fun f => { f with period := bitsOf v 0 27 })
  | 0x10 => lk (fun f => { f with phase := bitsOf v 0 27 })
  | 0x18 => lk (fun f => { f with tolNs := bitsOf v 0 16, missMax := bitsOf v 16 8 })
  | 0x48 => rwl 0x40000048 f.lock s (fun s =>
      { s with folio := { s.folio with maxPpm := bitsOf v 0 8, stepLim := bitsOf v 16 32 } }.boundSteer)
  | 0x50 => { s with folio := { f with event := f.event &&& ~~~ (v.setWidth 7) } }
  | 0x68 => s.switchWrite v
  | 0x70 => lk (fun f => { f with swAt := v })
  | 0x78 => { s with folio := { f with lock := bitAt v 0 } }
  | 0x200 => { s with folio := { f with vtIdx := bitsOf v 0 13 } }
  | 0x208 => lk (fun f => { f with vtData0 := v })
  | 0x210 => s.vtStore v
  | 0x300 => { s with folio := { f with pxIdx := bitsOf v 0 8 } }
  | 0x400 => { s with folio := { f with ptIdx := bitsOf v 0 8 } }
  | 0x800 => lk (fun f => { f with rdCtrl := only 0xFFFFFFF1 v })
  | 0x828 => { s with folio := { f with rdIdx := bitsOf v 0 15 } }
  | _ => s

/-! ### `RUL_` -/

/-- Store payload words into the ruling store from an index on (R39, R66). -/
def State.storePut (s : State) (i : Nat) : List Word → State
  | [] => s
  | w :: ws =>
    let c := encodeCode (parityN 18 i) (TWord.raw w)
    let t := { s with rul := { s.rul with store := Table.set fillStore s.rul.store i c } }
    t.storePut (i + 1) ws

/-- The entry at INDEX is stored and INDEX incremented (R66): with SEL = 1 the handover entry that `RUL_DATA0` holds, else
the line whose word 3 is written. -/
def State.storeEntry (s : State) (w3 : Word) : State :=
  let u := s.rul
  let s := if u.sel then s.storePut (hoBaseIdx + u.idx % 16384) [BitVec.ofNat 64 (u.data0.toNat % 2 ^ 32)]
           else s.storePut (4 * u.idx) [u.data0, u.data1, u.data2, w3]
  { s with rul := { s.rul with idx := (u.idx + 1) % 32768 } }

def slotStOf (n : Nat) : SlotSt := match n with
  | 0 => .empty
  | 1 => .loaded
  | 2 => .verified
  | _ => .active

def State.rulWrite (s : State) (off : Nat) (v : Word) : State :=
  let u := s.rul
  if off < 0x100 then
    rwl (0x40010000 + off) u.lock s (fun s => s.modSlot (off / 16) (fun r =>
      if off % 16 = 0 then { r with lineBase := bitsOf v 0 15, lines := bitsOf v 16 16 }
      else { r with hoBase := bitsOf v 0 14, hos := bitsOf v 16 15 }))
  else match off with
  | 0x100 => rwl (0x40010000 + off) u.lock s (fun s => s.forAll (upTo 16) (fun k t =>
      t.modSlot k (fun r => { r with st := slotStOf (bitsOf v (2 * k) 2) })))
  | 0x108 => { s with rul := { u with idx := bitsOf v 0 15, sel := bitAt v 16 } }
  | 0x110 => rwl (0x40010000 + off) u.lock s (fun s =>
      let s := { s with rul := { s.rul with data0 := v } }
      if s.rul.sel then s.storeEntry v else s)
  | 0x118 => rwl (0x40010000 + off) u.lock s (fun s => { s with rul := { s.rul with data1 := v } })
  | 0x120 => rwl (0x40010000 + off) u.lock s (fun s => { s with rul := { s.rul with data2 := v } })
  | 0x128 => rwl (0x40010000 + off) u.lock s (fun s => s.storeEntry v)
  | 0x140 => if bitAt v 16 then { s with rul := { u with errUncorr := false } } else s
  | 0x178 => { s with rul := { u with lock := bitAt v 0 } }
  | _ => s

/-! ### `BLOT_` -/

/-- `BLOT_ML_CLEAR` (R290). -/
def State.mlClear (s : State) : State := { s with blot := { s.blot with ml := [], mlOver := 0, mlFull := false } }

/-- `BLOT_SCRUB_CTRL.START` (R291): a pass over the range of `BLOT_SCRUB_BASE` and `BLOT_SCRUB_LEN`, if none runs and
the blotter's domain is on. -/
def State.scrubStart (s : State) (mb : Option Nat) : State :=
  if s.blot.pass.isSome || !s.blotOn then s
  else { s with blot := { s.blot with
    pass := some ⟨bitsOf s.blot.scrBase 3 45 * 8, bitsOf s.blot.scrLen 0 18, mb, false⟩, sum0 := 0, sum1 := 0, sum2 := 0 } }

def State.blotWrite (s : State) (off : Nat) (v : Word) : State :=
  let b := s.blot
  match off with
  | 0x00 => { s with blot := { b with mlIdx := bitsOf v 0 6 } }
  | 0x20 => if bitAt v 0 then s.mlClear else s
  | 0x100 => rwl (0x40020000 + off) b.lock s (fun s => { s with blot := { s.blot with scrBase := only 0xFFFFFFFFFFF8 v } })
  | 0x108 => rwl (0x40020000 + off) b.lock s (fun s => { s with blot := { s.blot with scrLen := only 0x3FFFF v } })
  | 0x110 =>
    let s := rwl (0x40020000 + off) b.lock s (fun s => { s with blot := { s.blot with poisonUe := bitAt v 2 } })
    if bitAt v 0 then s.scrubStart none
    else if bitAt v 1 then s.scrubAbort else s
  | 0x300 => if bitAt v 32 then { s with blot := { b with failed := false } } else s
  | 0xFF8 => { s with blot := { b with lock := bitAt v 0 } }
  | _ => s

/-! ### `FEED_` -/

/-- Write of `FEED_DESC_DATA7`: the entry is stored in LOADED and ENTRY incremented (R408). -/
def State.descStore (s : State) (v : Word) : State :=
  if s.feed.lock || s.dev ≠ .loaded then s.lockedWrite 0x40030050
  else
    let f := s.feed
    let ws := (upTo 7).map (fun k => Table.get (fun _ => 0) f.stage k) ++ [v]
    let s := s.modDesc f.descIdx (fun d => { d with words := maskWords (descMasks { d with words := ws }) ws })
    { s with feed := { s.feed with descIdx := (f.descIdx + 1) % 4096 } }

/-- The fields of a request word (R408). -/
def subMask (v : Word) : Word := only 0x11FFF v

/-- A run's store to a request word is held as pending (R386). -/
def State.subPend (s : State) (p k : Nat) (v : Word) : State :=
  s.modPen p (fun x => { x with run := x.run.map (fun r => { r with subs := Table.set (fun _ => 0) r.subs k (subMask v) }) })

def State.feedWrite (s : State) (writer : Option Nat) (off : Nat) (v : Word) : State :=
  let f := s.feed
  if 0x1000 ≤ off && off < 0x1800 then
    let k := (off - 0x1000) / 8
    match writer with
    | some p => s.subPend p k v
    | none => { s with feed := { f with subReq := Table.set (fun _ => 0) f.subReq (f.subPart * 256 + k) (subMask v) } }
  else if 0x18 ≤ off && off < 0x50 then
    rwl (0x40030000 + off) (f.lock || s.dev ≠ .loaded) s (fun s =>
      { s with feed := { s.feed with stage := Table.set (fun _ => 0) s.feed.stage ((off - 0x18) / 8) v } })
  else match off with
  | 0x00 => { s with feed := { f with csIdx := bitsOf v 0 10 } }
  | 0x10 => { s with feed := { f with descIdx := bitsOf v 0 12 } }
  | 0x50 => s.descStore v
  | 0x60 => { s with feed := { f with subPart := bitsOf v 0 8 } }
  | 0xFF8 => { s with feed := { f with lock := bitAt v 0 } }
  | _ => s

/-! ### `TRC_` -/

/-- Write of `TRC_LIST_DATA1` (R321). -/
def State.listStore (s : State) (v : Word) : State :=
  rwl 0x40040110 s.trc.lock s (fun s =>
    let t := s.trc
    { s with trc := { t with
      list := Table.set (fun _ => {}) t.list t.listIdx ⟨t.stage0, only 0xFFFFFFFFFFFF v⟩, listIdx := (t.listIdx + 1) % 16384 } })

def State.trcWrite (s : State) (off : Nat) (v : Word) : State :=
  let t := s.trc
  let lk (g : Trc → Trc) : State := rwl (0x40040000 + off) t.lock s (fun s => { s with trc := g s.trc })
  match off with
  | 0x00 => lk (fun t => { t with mode := bitsOf v 0 3 })
  | 0x08 => lk (fun t => { t with pct := bitsOf v 0 7 })
  | 0x10 => lk (fun t => { t with peer := BitVec.ofNat 64 (v.toNat / 4096 * 4096) })
  | 0x18 => lk (fun t => { t with wd := bitsOf v 0 28 })
  | 0x48 => { s with trc := { t with event := t.event &&& ~~~ (v.setWidth 6) } }
  | 0x100 => { s with trc := { t with listIdx := bitsOf v 0 14 } }
  | 0x108 => lk (fun t => { t with stage0 := only 0x8003FFFFFFFFFFF8 v })
  | 0x110 => s.listStore v
  | 0xFF8 => { s with trc := { t with lock := bitAt v 0 } }
  | _ => s

/-! ### `HIF_` -/

/-- The implemented bits of context word 2 (R331). -/
def qp2Mask : Nat := 0xFFFFFF0FFFFFF3

/-- Write of `HIF_QP_DATA3`: the context is stored and QP incremented; an enabled queue takes only the clearing of EN,
and setting EN zeroes the indices (R331, R347). -/
def State.qpStore (s : State) : State :=
  rwl 0x40050120 s.hif.lock s (fun s =>
    let h := s.hif
    let q := s.queue h.qpIdx
    let w (k : Nat) : Word := Table.get (fun _ => 0) h.qpStage k
    let w0 := only 0xFFFFFFFFFFFFFFCF (w 0)
    let w1 := w 1
    let w2 := only qp2Mask (w 2)
    let onlyClears := w0 = q.w0 && w1 = q.w1 && w2 = setBit q.w2 0 false
    let s :=
      if q.en && !onlyClears then s.lockedWrite 0x40050120
      else s.modQueue h.qpIdx (fun q =>
        let q := { q with w0 := w0, w1 := w1, w2 := w2 }
        if bitAt w2 0 then { q with dHead := 0, dTail := 0, sHead := 0, sTail := 0 } else q)
    { s with hif := { s.hif with qpIdx := (h.qpIdx + 1) % 16384 } })

/-- A doorbell that is ignored (R335). -/
def State.badDoorbell (s : State) (q : Nat) : State :=
  { s with hif := { s.hif with cntDb := satInc 0xFFFFFFFF s.hif.cntDb } }.raise { cls := 0x64, detail := q }

/-- A doorbell (R334, R335): the host's index of a ring moves, unless the ring's use would exceed its size; an index moved
back past the other one would give such a use. -/
def State.ringDoorbell (s : State) (w : Word) : State :=
  let n := bitsOf w 0 14
  let q := s.queue n
  let idx := bitsOf w 16 16
  if !q.en then s.badDoorbell n
  else if bitAt w 14 then
    if (q.sTail + 65536 - idx) % 65536 ≤ q.sSize then s.modQueue n (fun q => { q with sHead := idx }) else s.badDoorbell n
  else if q.toHost then
    if (q.dTail + 65536 - idx) % 65536 ≤ q.dSize then s.modQueue n (fun q => { q with dHead := idx }) else s.badDoorbell n
  else
    let use := (idx + 65536 - q.dHead) % 65536
    if use ≤ q.dSize then s.modQueue n (fun q => { q with dTail := idx }) else s.badDoorbell n

def State.hifWrite (s : State) (off : Nat) (v : Word) : State :=
  let h := s.hif
  if 0x200 ≤ off && off < 0x280 then
    rwl (0x40050000 + off) h.lock s (fun s => { s with hif := { s.hif with
      share := Table.set (fun _ => 0) s.hif.share ((off - 0x200) / 8) (bitsOf v 0 7) } })
  else if 0x108 ≤ off && off < 0x120 then
    rwl (0x40050000 + off) h.lock s (fun s => { s with hif := { s.hif with
      qpStage := Table.set (fun _ => 0) s.hif.qpStage ((off - 0x108) / 8) v } })
  else match off with
  | 0x08 => { s with hif := { h with event := h.event &&& ~~~ (v.setWidth 6) } }
  | 0x100 => { s with hif := { h with qpIdx := bitsOf v 0 14 } }
  | 0x120 => s.qpStore
  | 0x1000 => s.ringDoorbell v
  | 0xFF8 => { s with hif := { h with lock := bitAt v 0 } }
  | _ => s

/-! ### `HUV_` -/

/-- `HUV_EQ_POP` (R429). -/
def State.eqPop (s : State) : State :=
  let l := s.huv.eq.drop 1
  { s with huv := { s.huv with eq := l, eqOver := s.huv.eqOver && !l.isEmpty } }

/-- The entry of a class after a write of `HUV_RB_ENTRY` (R413, R416): of a fixed class IRQ alone changes, and an entry with
a reaction that the class does not admit is not taken (log 134). -/
def rbWritten (c : Nat) (old v : Word) : Word :=
  if rbFixed c then setBit old 3 (bitAt v 3)
  else if rbAdmits c (bitsOf v 0 3) && rbAdmits c (bitsOf v 4 3) then only 0xFFF7F v
  else old

/-- Write of a `HUV_` register; the mailbox page takes it as a write of 8 bytes (R24, R349). The RWL fields of
`HUV_VOTE_CTRL` are locked by `HUV_RB_LOCK`, the window's only lock (assumption log 109). -/
def State.huvWrite (s : State) (off : Nat) (v : Word) : State :=
  let h := s.huv
  if off < 0x1000 then s.pageWrite off 8 v
  else match off with
  | 0x2000 => { s with huv := { h with rbIdx := bitsOf v 0 8 } }
  | 0x2008 => rwl (0x40060000 + off) (h.rbLock || s.dev ≠ .loaded) s (fun s =>
      s.modRb s.huv.rbIdx (fun c => { c with entry := rbWritten s.huv.rbIdx c.entry v }))
  | 0x2050 => if bitAt v 0 then s.eqPop else s
  | 0x20F8 => { s with huv := { h with rbLock := bitAt v 0 } }
  | 0xF008 => rwl (0x40060000 + off) h.rbLock s (fun s =>
      { s with huv := { s.huv with reintEn := bitAt v 0, reintMax := bitsOf v 4 4 } })
  | _ => s

/-! ### `PWR_` and `AON_` -/

/-- The switched domains that a request word names, in the order in which they are listed. -/
def pairOrder : List Domain :=
  (List.finRange 16).map Domain.rsvPair ++ (List.finRange 4).map Domain.mac ++ [.canGpio, .blotter, .security]

def domainBit : Domain → Nat
  | .pen n => n.val
  | .rsvPair k => k.val
  | .mac m => 16 + m.val
  | .canGpio => 20
  | .blotter => 21
  | .security => 22

/-- A write of `PWR_DOM_REQ_PEN` or `PWR_DOM_REQ_OTHER`: each changed domain is queued for the power controller; bits of
fenced pens ignore 1 (R440, R449). -/
def State.domainRequest (s : State) (other : Bool) (v : Word) : State :=
  rwl (if other then 0x40070018 else 0x40070010) s.pwr.lock s (fun s =>
    if other then
      let v := only 0x7FFFFF v
      let ch := pairOrder.filter (fun d => bitAt v (domainBit d) ≠ bitAt s.pwr.reqOther (domainBit d))
      { s with pwr := { s.pwr with reqOther := v, queue := s.pwr.queue ++ ch.map (fun d => (d, bitAt v (domainBit d))) } }
    else
      let v := v &&& ~~~ s.penMask (fun p => p.st = .fenced)
      let ch := (List.finRange 64).filter (fun n => bitAt v n.val ≠ bitAt s.pwr.reqPen n.val)
      { s with pwr := { s.pwr with reqPen := v, queue := s.pwr.queue ++ ch.map (fun n => (.pen n, bitAt v n.val)) } })

def State.pwrWrite (s : State) (off : Nat) (v : Word) : State :=
  let p := s.pwr
  match off with
  | 0x10 => s.domainRequest false v
  | 0x18 => s.domainRequest true v
  | 0x40 => rwl (0x40070000 + off) p.lock s (fun s => { s with pwr := { s.pwr with avsCfg := only 0xFFFFFFFFFFFFFF v } })
  | 0x68 => { s with pwr := { p with event := p.event &&& ~~~ (v.setWidth 8) } }
  | 0xFF8 => { s with pwr := { p with lock := bitAt v 0 } }
  | _ => s

def State.aonWrite (s : State) (off : Nat) (v : Word) : State :=
  let a := s.aon
  match off with
  | 0x18 => if bitAt v 0 then { s with aon := { a with enter := true } } else s
  | 0x20 => rwl (0x40080000 + off) a.lock s (fun s => { s with aon := { s.aon with wakeCfg := only 0xFF77 v } })
  | 0x30 => rwl (0x40080000 + off) a.lock s (fun s => { s with aon := { s.aon with tempCfg := only 0xFFF v } })
  | 0x40 => { s with aon := { a with rst := a.rst &&& ~~~ (v.setWidth 11) } }
  | 0xFF8 => { s with aon := { a with lock := bitAt v 0 } }
  | _ => s

/-! ### `GPIO_`, `ETH_`, `CAN_` -/

def State.gpioWrite (s : State) (off : Nat) (v : Word) : State :=
  let g := s.gpio
  let lk (f : Gpio → Gpio) : State := rwl (0x40090000 + off) g.lock s (fun s => { s with gpio := f s.gpio })
  match off with
  | 0x20 => lk (fun g => { g with safe := v })
  | 0x28 => lk (fun g => { g with pol := v })
  | 0x30 => lk (fun g => { g with filt := only 0xFF v })
  | 0x38 => lk (fun g => { g with rbDly := only 0xFFFF v })
  | 0x40 => { s with gpio := { g with rbErr := w1c g.rbErr v } }
  | 0xFF8 => { s with gpio := { g with lock := bitAt v 0 } }
  | _ => s

def State.ethWrite (s : State) (m off : Nat) (v : Word) : State :=
  let lk (f : Mac → Mac) : State := rwl (0x400A0000 + m * 0x10000 + off) (s.mac m).lock s (fun s => s.modMac m f)
  match off with
  | 0x00 => lk (fun e => { e with ctrl := only 0x33 v })
  | 0x18 => lk (fun e => { e with phyDly := only 0xFFFFFFFF v })
  | 0x20 => lk (fun e => { e with ptpCfg := only 0xF01FF01 v })
  | 0x30 => lk (fun e => { e with cbCfg := only 0xFFFF v })
  | 0x60 => s.modMac m (fun e => { e with event := e.event &&& ~~~ (v.setWidth 3) })
  | 0xFF8 => s.modMac m (fun e => { e with lock := bitAt v 0 })
  | _ => s

def State.canWrite (s : State) (c off : Nat) (v : Word) : State :=
  let lk (f : Can → Can) : State := rwl (0x40100000 + c * 0x10000 + off) (s.can c).lock s (fun s => s.modCan c f)
  match off with
  | 0x00 => lk (fun e => { e with
      ctrl := only 0x23 v,
      st := if bitsOf v 0 2 = 0 then 3 else if e.st = 3 then 0 else e.st,
      tec := if bitsOf v 0 2 = 0 then 0 else e.tec, recv := if bitsOf v 0 2 = 0 then 0 else e.recv })
  | 0x08 => lk (fun e => { e with nbt := only 0x7F7FFFFF v })
  | 0x10 => lk (fun e => { e with dbt := only 0x7F8F0F1F1F v })
  | 0x28 => s.modCan c (fun e => { e with event := e.event &&& ~~~ (v.setWidth 4) })
  | 0xFF8 => s.modCan c (fun e => { e with lock := bitAt v 0 })
  | _ => s

/-! ### `PEN_`, `MMU_`, `INK_`, `RSV_` -/

/-- The pen's mirrored pages are stale: it returns through RESILVER (R112, R113). -/
def State.toService (s : State) (p : Nat) : State :=
  if (s.pen p).stale && s.hasMirror p && s.copyValid (otherOf p) then
    { s.modPen p (fun x => { x with st := .resilver }) with
      blot := { s.blot with resilver := s.blot.resilver.filter (· ≠ p) ++ [p] } }
  else s.modPen p (fun x => { x with st := .idle })

/-- `PEN_CTRL.RESTART` (R121): acts in LOADED on a STOPPED pen, and in the start-up tests of BOOT (R123, R358). -/
def State.restartPen (s : State) (p : Nat) : State :=
  if (s.dev = .loaded || (s.dev = .boot && s.huv.testing)) && (s.pen p).st = .stopped then
    (s.modPen p (fun x => { x with handAt := none })).toService p
  else s

/-- A test may inject into a pen: IDLE, in LOADED, or in BOOT with an accepted image (R123). -/
def State.mayInject (s : State) (p : Nat) : Bool :=
  (s.pen p).st = .idle && (s.dev = .loaded || (s.dev = .boot && s.huv.testing))

/-- Write of `PEN_INJECT` (R122, R123). -/
def State.injectWrite (s : State) (p : Nat) (v : Word) : State :=
  rwl (0x404010C0 + p * 0x10000) (s.pen p).penLock s (fun s =>
    if bitAt v 8 && !s.mayInject p then s.lockedWrite (0x404010C0 + p * 0x10000)
    else s.modPen p (fun x => { x with inject := only 0x107 v }))

def State.penWrite (s : State) (n off : Nat) (v : Word) : State :=
  let x := s.pen n
  let lk (f : Pen → Pen) : State := rwl (0x40400000 + n * 0x10000 + off) x.penLock s (fun s => s.modPen n f)
  if 0x1040 ≤ off && off < 0x10C0 then
    lk (fun x => { x with seqSel := Table.set (fun _ => 0) x.seqSel ((off - 0x1040) / 8) (only 0x9FFF v) })
  else match off with
  | 0x1000 =>
    let s := if bitAt v 0 then s.restartPen n else s
    if bitAt v 1 then raised (s.fencePen n) else s
  | 0x1028 => if n % 2 = 0 then lk (fun x => { x with mirror0 := v }) else s
  | 0x1030 => if n % 2 = 0 then lk (fun x => { x with mirror1 := v }) else s
  | 0x10C0 => s.injectWrite n v
  | 0x10F8 => s.modPen n (fun x => { x with penLock := bitAt v 0 })
  | _ => s

/-- `MMU_INV.ALL` (R272): acts in LOADED. -/
def State.mmuInv (s : State) (n : Nat) : State :=
  if s.dev = .loaded then s.modPen n (fun x => { x with tlb := [] }) else s

/-- `MMU_LSLOT_LOAD` (R266, R272): acts in LOADED with the pen IDLE. -/
def State.lslotLoads (s : State) (n : Nat) (mask : Nat) : State :=
  if s.dev = .loaded && (s.pen n).st = .idle then
    s.forAll ((upTo 8).filter (fun i => mask.testBit i)) (fun i t => t.lslotLoad n i)
  else s

/-- Write the word of a lock slot (R266): a slot with EN = 0 acts as an ordinary unlocked entry. -/
def Pen.setLslot (x : Pen) (i : Nat) (w : Word) : Pen :=
  { x with
    lslot := Table.set (fun _ => 0) x.lslot i w,
    tlb := if bitAt w 0 then x.tlb
      else x.tlb.map (fun e => if e.1 = 56 + i then (e.1, { e.2 with locked := false }) else e) }

def State.mmuWrite (s : State) (n off : Nat) (v : Word) : State :=
  let x := s.pen n
  if 0x100 ≤ off && off < 0x140 then
    rwl (0x40800000 + n * 0x10000 + off) x.mmuLock s (fun s =>
      s.modPen n (fun x => x.setLslot ((off - 0x100) / 8) (only 0x1FFFFFFFFFFF3FD v)))
  else match off with
  | 0x00 => s.modPen n (fun x => { x with tlbIdx := bitsOf v 0 6 })
  | 0x20 => if bitAt v 0 then s.mmuInv n else s
  | 0x140 => s.lslotLoads n (bitsOf v 0 8)
  | 0xFF8 => s.modPen n (fun x => { x with mmuLock := bitAt v 0 })
  | _ => s

/-- The checker test may arm an injection on a bank (R297). -/
def State.mayInjectInk (s : State) (n : Nat) : Bool := s.mayInject n

def State.mayInjectRsv (s : State) (r : Nat) : Bool :=
  s.dev = .loaded || (s.dev = .boot && s.huv.testing) ||
    (s.dev = .run && (s.rsvOf r).owner = 0x40 && !(s.rsvOf r).pin)

def State.inkWrite (s : State) (n off : Nat) (v : Word) : State :=
  let lk (f : Pen → Pen) : State := rwl (0x40C00000 + n * 0x10000 + off) (s.pen n).inkLock s (fun s => s.modPen n f)
  match off with
  | 0x100 => lk (fun x => { x with injAddr := only 0x1FFFF v })
  | 0x108 => lk (fun x => { x with injFlip0 := v })
  | 0x110 =>
    if bitAt v 16 && !s.mayInjectInk n && !(s.pen n).inkLock then s.lockedWrite (0x40C00000 + n * 0x10000 + off)
    else lk (fun x => { x with injFlip1 := only 0x11FFF v })
  | 0xFF8 => s.modPen n (fun x => { x with inkLock := bitAt v 0 })
  | _ => s

def State.rsvWrite (s : State) (r off : Nat) (v : Word) : State :=
  let lk (f : Rsv → Rsv) : State := rwl (0x41000000 + r * 0x10000 + off) (s.rsvOf r).lock s (fun s => s.modRsv r f)
  match off with
  | 0x00 =>
    let own := bitsOf v 0 7
    lk (fun x => { x with
      owner := if s.dev = .loaded then own else x.owner, pin := bitAt v 8, pinOwner := bitsOf v 16 7,
      pinOld := if s.dev = .run then (x.pin, x.pinOwner) else (bitAt v 8, bitsOf v 16 7), pinAt := s.cyc })
  | 0x100 => lk (fun x => { x with injAddr := only 0x1FFFF v })
  | 0x108 => lk (fun x => { x with injFlip0 := v })
  | 0x110 =>
    if bitAt v 16 && !s.mayInjectRsv r && !(s.rsvOf r).lock then s.lockedWrite (0x41000000 + r * 0x10000 + off)
    else lk (fun x => { x with injFlip1 := only 0x11FFF v })
  | 0xFF8 => s.modRsv r (fun x => { x with lock := bitAt v 0 })
  | _ => s

/-! ### The whole region -/

/-- The effect of a write that finds its register (R8, R23). -/
def State.regWriteAt (s : State) (writer : Option Nat) (cpa : Nat) (v : Word) : State :=
  let w := (cpa - 0x40000000) / 0x10000
  let off := cpa % 0x10000
  if w = 0 then s.folioWrite off v
  else if w = 1 then s.rulWrite off v
  else if w = 2 then s.blotWrite off v
  else if w = 3 then s.feedWrite writer off v
  else if w = 4 then s.trcWrite off v
  else if w = 5 then s.hifWrite off v
  else if w = 6 then s.huvWrite off v
  else if w = 7 then s.pwrWrite off v
  else if w = 8 then s.aonWrite off v
  else if w = 9 then s.gpioWrite off v
  else if 10 ≤ w && w < 14 then s.ethWrite (w - 10) off v
  else if 16 ≤ w && w < 24 then s.canWrite (w - 16) off v
  else if 64 ≤ w && w < 128 then s.penWrite (w - 64) off v
  else if 128 ≤ w && w < 192 then s.mmuWrite (w - 128) off v
  else if 192 ≤ w && w < 256 then s.inkWrite (w - 192) off v
  else if 256 ≤ w && w < 288 then s.rsvWrite (w - 256) off v
  else s

/-- The register at a CPA has W1C fields and no field of another kind that a write changes. -/
def isW1c (cpa : Nat) : Bool :=
  let w := (cpa - 0x40000000) / 0x10000
  let off := cpa % 0x10000
  (w = 0 && off = 0x50) || (w = 1 && off = 0x140) || (w = 2 && off = 0x300) || (w = 4 && off = 0x48) || (w = 5 && off = 0x08)
    || (w = 7 && off = 0x68) || (w = 8 && off = 0x40) || (w = 9 && off = 0x40) || (10 ≤ w && w < 14 && off = 0x60)
    || (16 ≤ w && w < 24 && off = 0x28) || (w = 6 && off < 0x800 && off % 0x200 = 8)

/-- A written word without the W1C bits that a hardware event sets in this cycle: there the set wins (R12). -/
def clearing (cpa : Nat) (v same : Word) : Word := if isW1c cpa then v &&& ~~~ same else v

/-- A register write: `none` for a bus error, in which nothing changes (R10, R11, R26). -/
def State.regWrite (s : State) (writer : Option Nat) (cpa : Nat) (w : TWord) : Option State :=
  if w.tag = Tag.uninit || w.tag = Tag.poison then none
  else match s.regRead writer cpa with
    | .val _ => some (s.regWriteAt writer cpa w.val)
    | .off => none
    | .unoccupied => none

/-- What a clearing read leaves of a count (R12): the part of it that events of this cycle have counted, which the word
`same` gives in the register's own layout. -/
def kept (same : Word) (lo len n : Nat) : Nat := min n (bitsOf same lo len)

/-- A bank's error counters after a clearing read. -/
def keptErr (same w : Word) : Word :=
  BitVec.ofNat 64 (kept same 0 32 (bitsOf w 0 32) + kept same 32 16 (bitsOf w 32 16) * 2 ^ 32
    + kept same 48 16 (bitsOf w 48 16) * 2 ^ 48)

/-- What a read clears: the RC fields of the register (R8), save what events of this cycle have counted (R12). -/
def State.regClear (s : State) (cpa : Nat) (same : Word := 0) : State :=
  let k := kept same
  let w := (cpa - 0x40000000) / 0x10000
  let off := cpa % 0x10000
  if w = 0 then (match off with
    | 0x58 => { s with folio := { s.folio with lateCnt := k 0 32 s.folio.lateCnt } }
    | 0x218 => { s with folio := { s.folio with snapHeld := k 0 32 s.folio.snapHeld } }
    | 0x220 => { s with folio := { s.folio with superseded := k 0 32 s.folio.superseded } }
    | _ => s)
  else if w = 2 then (match off with
    | 0x130 => { s with blot := { s.blot with bgPasses := k 0 32 s.blot.bgPasses } }
    | 0x300 => { s with blot := { s.blot with tested := k 0 16 s.blot.tested, skipped := k 16 16 s.blot.skipped } }
    | _ => s)
  else if w = 3 then (if off = 0x140 then { s with feed := { s.feed with rxBand := k 0 32 s.feed.rxBand } } else s)
  else if w = 4 then (if off = 0x40 then { s with trc := { s.trc with units := k 0 32 s.trc.units, incompl := k 32 16 s.trc.incompl } } else s)
  else if w = 5 then (match off with
    | 0x130 => s.modQueue s.hif.qpIdx (fun q => { q with lost := k 0 32 q.lost })
    | 0x300 => { s with hif := { s.hif with cntDb := k 0 32 s.hif.cntDb } }
    | 0x308 => { s with hif := { s.hif with cntUr := k 0 32 s.hif.cntUr } }
    | 0x310 => { s with hif := { s.hif with cntTrunc := k 0 32 s.hif.cntTrunc } }
    | 0x318 => { s with hif := { s.hif with cntStat := k 0 32 s.hif.cntStat } }
    | 0x320 => { s with hif := { s.hif with cntLost := k 0 32 s.hif.cntLost } }
    | _ => s)
  else if w = 6 then (if off = 0x2018 then s.modRb s.huv.rbIdx (fun c => { c with ovf := k 0 32 c.ovf }) else s)
  else if 10 ≤ w && w < 14 then s.modMac (w - 10) (fun e => match off with
    | 0x40 => { e with cntTx := k 0 32 e.cntTx }
    | 0x48 => { e with cntRx := k 0 32 e.cntRx }
    | 0x50 => { e with 
        dropFcs := k 0 16 e.dropFcs, dropMatch := k 16 16 e.dropMatch, dropFormat := k 32 16 e.dropFormat,
        dropCb := k 48 16 e.dropCb }
    | 0x58 => { e with notSent := k 0 32 e.notSent }
    | _ => e)
  else if 16 ≤ w && w < 24 then s.modCan (w - 16) (fun e =>
    if off = 0x20 then { e with
      cntTx := k 0 16 e.cntTx, cntRx := k 16 16 e.cntRx, cntNot := k 32 16 e.cntNot, cntDrop := k 48 16 e.cntDrop } else e)
  else if 64 ≤ w && w < 128 then s.modPen (w - 64) (fun x => match off with
    | 0x1020 => { x with faultCnt := k 0 32 x.faultCnt }
    | 0x10C8 => { x with ipiDrop := k 0 32 x.ipiDrop }
    | 0x10D0 => { x with flyCnt := k 0 32 x.flyCnt }
    | 0x10D8 => { x with excCnt := k 0 32 x.excCnt }
    | _ => x)
  else if 128 ≤ w && w < 192 then s.modPen (w - 128) (fun x => match off with
    | 0x200 => { x with walkCnt := k 0 32 x.walkCnt }
    | 0x208 => { x with tfaultCnt := k 0 32 x.tfaultCnt }
    | _ => x)
  else if 192 ≤ w && w < 256 then s.modPen (w - 192) (fun x =>
    if off = 0x10 then { x with inkErr := Table.set (fun _ => 0) x.inkErr 0 (keptErr same (Table.get (fun _ => 0) x.inkErr 0)) }
    else if off = 0x18 then { x with inkErr := Table.set (fun _ => 0) x.inkErr 1 (keptErr same (Table.get (fun _ => 0) x.inkErr 1)) } else x)
  else if 256 ≤ w && w < 288 then s.modRsv (w - 256) (fun x =>
    if off = 0x18 then { x with errCnt := keptErr same x.errCnt }
    else if off = 0x20 then { x with coll := k 0 32 x.coll, staleCnt := k 32 32 x.staleCnt } else x)
  else s

end Sys2Proof.Machine
end

