-- ==== Sys2Proof/Machine/Pens.lean ====
section
/-! DEFINITION. A pen as code sees it: its registers and status word (R131, R133), late results (R145, R167, R197 to
R199), issue pairs (R163, R194 to R196), and when an instruction of its run can issue. -/

namespace Sys2Proof.Machine

/-! ### Registers (R131). Number 31 stands for the TASK bank of W31 and 32 for the EXEC bank. -/

def Pen.task (x : Pen) : Bool := !bitAt x.status 8
def Pen.maskLevel (x : Pen) : Nat := bitsOf x.status 4 3
def Pen.flags (x : Pen) : Flags := x.status.setWidth 4
def Pen.setFlags (x : Pen) (f : Flags) : Pen := { x with status := setBits x.status 0 4 f.toNat }

/-- The banked number of a register. -/
def Pen.bank (x : Pen) (r : Nat) : Nat := if r = 31 then (if x.task then 31 else 32) else r

/-- The content of a banked register; W0 reads as INT zero. -/
def Pen.getB (x : Pen) (k : Nat) : TWord :=
  if k = 0 then TWord.int 0
  else if k = 31 then x.spTask
  else if k = 32 then x.spExec
  else Table.get (fun _ => TWord.uninit) x.regs k

/-- Write a banked register; a write to W0 is discarded. -/
def Pen.putB (x : Pen) (k : Nat) (w : TWord) : Pen :=
  if k = 0 then x
  else if k = 31 then { x with spTask := w }
  else if k = 32 then { x with spExec := w }
  else { x with regs := Table.set (fun _ => TWord.uninit) x.regs k w }

/-- A write in program order: a load's pending write of the same register is discarded (R145). -/
def Pen.writeB (x : Pen) (k : Nat) (w : TWord) : Pen := { x.putB k w with late := x.late.filter (fun l => l.reg ≠ k) }

/-- Read a register; slot 2 reads what slot 1 has overwritten as it stood before the pair (R163). -/
def Pen.read (x : Pen) (paired : Bool) (r : Reg) : TWord :=
  let k := x.bank r.val
  if paired then
    match x.pair with
    | some c => Table.get (fun k => x.getB k) c.old k
    | none => x.getB k
  else x.getB k

/-- Keep the content from before the pair of a register that slot 1 overwrites (R163). -/
def Pen.keepOld (x : Pen) (paired : Bool) (k : Nat) : Pen :=
  if paired then x
  else { x with pair := x.pair.map (fun c =>
    if c.old.any (fun e => e.1 = k) then c else { c with old := Table.ins c.old k (x.getB k) }) }

/-- Write a register of the current bank. -/
def Pen.write (x : Pen) (paired : Bool) (r : Reg) (w : TWord) : Pen :=
  let k := x.bank r.val
  (x.keepOld paired k).writeB k w

/-- The current stack pointer, banked by privilege. -/
def Pen.sp (x : Pen) : TWord := x.getB (x.bank 31)

/-! ### Late results -/

/-- Write the loaded values that are due: those of pairs before the last (R145, R197). -/
def Pen.writeLate (x : Pen) (due : Late → Bool) : Pen :=
  let x' := (x.late.filter due).foldl (fun y l => y.putB l.reg l.val) x
  { x' with late := x.late.filter (fun l => !due l) }

/-- Write a finished multiply: result and flags (R167, R199). -/
def Pen.writeMul (x : Pen) : Pen :=
  match x.mul with
  | none => x
  | some m => { (x.writeB m.reg m.val).setFlags m.flags with mul := none }

/-- Everything in flight is written (R145, R167, R229). -/
def Pen.complete (x : Pen) : Pen := { (x.writeLate (fun _ => true)).writeMul with pair := none }

/-- A loaded or atomic value waits for its write (R145). -/
def Pen.addLate (x : Pen) (r : Reg) (w : TWord) : Pen :=
  if r = 0 then x else { x with late := x.late ++ [⟨x.bank r.val, w, 0⟩] }

/-! ### Issue (R163, R194 to R196) -/

/-- What an instruction touches: its class, the registers that it reads or writes, and whether it reads or writes a flag
(R167, R194). -/
structure Uses where
  cls   : IssueClass
  regs  : List Reg
  flags : Bool
  deriving DecidableEq, Repr

/-- The pairing table (R195); END in slot 1 lets nothing execute after it. -/
def pairOk (a b : IssueClass) : Bool :=
  match a with
  | .alu => (match b with
    | .alu | .mem | .mul | .ctl | .callret | .fin => true
    | .ser => false)
  | .mem => (match b with
    | .alu | .mul | .ctl | .fin => true
    | .mem | .callret | .ser => false)
  | .mul => (match b with
    | .alu | .mem | .ctl | .callret | .fin => true
    | .mul | .ser => false)
  | .ctl | .callret | .ser | .fin => false

/-- The instruction depends on the multiply in flight (R167, R196). -/
def Pen.mulDep (x : Pen) (u : Uses) : Bool :=
  match x.mul with
  | none => false
  | some m => u.flags || u.regs.any (fun r => r ≠ 0 && x.bank r.val = m.reg)

/-- The instruction issues in slot 2 of the open pair. -/
def Pen.pairs (x : Pen) (second : Bool) (u : Uses) : Bool :=
  second && (match x.pair with
    | none => false
    | some c => pairOk c.cls u.cls && !(c.cls = .mul && x.mulDep u))

/-- Open a pair for an instruction that issues in slot 1: values due at the end of the last pair are written and the
others age (R197). -/
def Pen.openPair (x : Pen) (u : Uses) : Pen :=
  let y := x.writeLate (fun l => 1 ≤ l.age)
  { y with late := y.late.map (fun l => { l with age := l.age + 1 }), pair := some ⟨u.cls, [], none⟩ }

/-- An instruction issues: in slot 2, or opening a pair; a multiply that it depends on is written first (R167), RS is
cleared (R181), and nothing holds the pen. -/
def Pen.issue (x : Pen) (paired : Bool) (u : Uses) : Pen :=
  let y := if paired then x else x.openPair u
  let y := if y.mulDep u then y.writeMul else y
  { y with status := setBit y.status 9 false, hold := .none }

/-- The run that executes instructions on a pen: begun, not past LINEND, and named by the even pen while JOINED. -/
def State.runs (s : State) (p : Nat) : Option Run :=
  let x := s.pen p
  match x.run with
  | none => none
  | some r => if x.st = .run && r.linend = none && !(r.mode = .joined && p % 2 = 1) then some r else none

/-- What translation of the run's accesses depends on. An access in slot 2 uses the seal key register from before the
pair (R186). -/
def State.ctxOf (s : State) (p : Nat) (r : Run) (paired : Bool) : Ctx :=
  let x := s.pen p
  { pen := p, part := r.part, home := r.home, task := x.task,
    seal_ := if paired then (x.pair.bind (·.oldSeal)).getD x.sealed else x.sealed, drafts := r.drafts }

/-- Why a fetch at a CPA is refused, if it is (R106, R201, R260). -/
def State.fetchRefusal (s : State) (r : Run) (cpa : Nat) : Option Nat :=
  if isHostWin cpa then some 0x07
  else if !isInk cpa || inkPen cpa ≠ r.home then some 0x0C
  else if r.mode ≠ .duplex && !s.mirrored cpa then some 0x06
  else none

/-- The number of the 16-byte block of an instruction address (R201). -/
def blockVa (pc : Word) : Nat := pc.toNat / 16

/-- The block at the program counter is in the fetch buffer. -/
def Pen.buffered (x : Pen) : Bool := match x.fbuf with
  | some b => b.va = blockVa x.pc
  | none => false

/-- The buffered code word that holds the next instruction; `none` for an uncorrectable one. -/
def Pen.codeWord (x : Pen) : Option TWord := match x.fbuf with
  | some b => if bitAt x.pc 3 then b.hi else b.lo
  | none => none

/-- Fetch the block at a CPA into the buffer (R201, R286). -/
def State.fetchBlock (s : State) (p : Nat) (r : Run) (cpa : Nat) : State :=
  let a := cpa / 16 * 16
  let lo := s.readRun p r.home a srcPen
  let hi := lo.2.readRun p r.home (a + 8) srcPen
  hi.2.modPen p (fun x => { x with fbuf := some ⟨blockVa x.pc, lo.1, hi.1⟩ })

/-- How the fetch of the next instruction ends: served, with its block in the buffer; a bus fault; or not translated. -/
inductive FetchOut
  | served (s : State)
  | bus (cause : Nat) (s : State)
  | untranslated
  deriving DecidableEq, Repr

/-- The next instruction comes from the fetch buffer, whatever memory holds by now (R190), else its block is translated
and fetched (R201, R258, R286). An instruction in slot 2 is fetched with the seal key register from before the pair. -/
def State.fetch (s : State) (p : Nat) (r : Run) (paired : Bool) : FetchOut :=
  let from_ (t : State) : FetchOut :=
    if (t.pen p).codeWord.isSome then .served t else .bus 0x02 t
  let c := s.ctxOf p r paired
  if (s.pen p).buffered then from_ s
  else match s.xlat c (s.pen p).pc .fetch with
    | .miss | .fault _ _ => .untranslated
    | .hit e =>
      let a := s.frameCpa c e (s.pen p).pc
      match s.fetchRefusal r a with
      | some b => .bus b s
      | none => from_ (s.fetchBlock p r a)

/-- The level of the interrupt that a pen would accept: the highest pending one that is not masked (R223, R242). -/
def Pen.irqLevel (x : Pen) : Option Nat :=
  [7, 6, 5, 4, 3, 2, 1].find? (fun l => x.ipiPend.getLsbD l && (x.maskLevel ≤ l || l = 7))

/-- Nothing holds pen `p`, and its run goes on. -/
def State.ready (s : State) (p : Nat) : Bool := (s.runs p).isSome && (s.pen p).hold = .none

/-- The instruction at the program counter may issue: a pair boundary with an unmasked interrupt pending belongs to the
interrupt (R214, R226), and the fetch must be served. An instruction that is held for the fabric has been fetched, and its
hold is completed. The state is that after the fetch. -/
def State.admitted (s : State) (p : Nat) (paired : Bool) : Option State :=
  match (s.pen p).hold with
  | .fabric _ _ _ => some s
  | .none | .walk _ _ _ _ | .copy _ _ | .block _ | .divide _ _ _ _ =>
    if !paired && (s.pen p).irqLevel.isSome then none
    else match s.runs p with
      | none => none
      | some r => match s.fetch p r paired with
        | .served t => some t
        | .bus _ _ | .untranslated => none

/-- The instruction is done and the next one follows it. A pair is complete with its second slot. -/
def Pen.done (x : Pen) (paired : Bool) : Pen := { x with pc := x.pc + 4, pair := if paired then none else x.pair }

/-- The instruction is done and transfers to an address; the fetch buffer is flushed (R190). -/
def Pen.goto (x : Pen) (paired : Bool) (target : Word) : Pen :=
  { x with pc := target, fbuf := none, pair := if paired then none else x.pair }

/-- A pen that is held before its instruction issues: what issue did is undone (R192, R212). -/
def Pen.unissue (x old : Pen) (h : Hold) : Pen :=
  { x with
    regs := old.regs, spTask := old.spTask, spExec := old.spExec, status := old.status, late := old.late, mul := old.mul,
    pair := old.pair, hold := h }

/-! ### Outcomes of an instruction's work -/

/-- How a piece of an instruction's work ends: a value; an exception; a hold of issue; or a wait for a commit point, in
which nothing happens (R74). -/
inductive Res (α : Type)
  | ok (a : α) (s : State)
  | exc (e : Exc) (s : State)
  | hold (h : Hold) (s : State)
  | wait
  deriving DecidableEq, Repr

def Res.bind {α β : Type} (x : Res α) (f : α → State → Res β) : Res β :=
  match x with
  | .ok a s => f a s
  | .exc e s => .exc e s
  | .hold h s => .hold h s
  | .wait => .wait

def Res.ofExcept {α : Type} (x : Except Exc α) (s : State) : Res α :=
  match x with
  | .ok a => .ok a s
  | .error e => .exc e s

end Sys2Proof.Machine
end

