-- ==== Sys2Proof/Machine/Access.lean ====
section
/-! DEFINITION. Data accesses of a run: regions and refusals (R24, R106, R176, R277), the store buffer (R205 to R207),
draining stores (R287), first writes of versioned pages (R70 to R74), and reads. -/

namespace Sys2Proof.Machine

/-! ### Bus refusals (R232) -/

def bcNoTarget : Nat := 0x01
def bcUncorrectable : Nat := 0x02
def bcDraftBusy : Nat := 0x03
def bcDraftLimit : Nat := 0x04
def bcMirrorWrite : Nat := 0x05
def bcNotMirrored : Nat := 0x06
def bcHostWindow : Nat := 0x07
def bcNoGrant : Nat := 0x08
def bcRegisterForm : Nat := 0x09
def bcPowerOff : Nat := 0x0A
def bcIpiSet : Nat := 0x0B
def bcFetchRegion : Nat := 0x0C
def bcRegisterTag : Nat := 0x0D
def bcFrameRegion : Nat := 0x0E

/-- What an access needs of its target. -/
structure Need where
  write : Bool
  /-- Narrow or atomic: refused at a register (R176). -/
  notReg : Bool := false
  /-- The tag that a store carries, for a register (R11). -/
  tag   : Tag := Tag.raw
  deriving DecidableEq, Repr

/-- Why the target at a CPA refuses an access of a run, if it does (R10, R22, R24, R26, R106, R176, R277). -/
def State.refusal (s : State) (c : Ctx) (lig : Bool) (n : Need) (cpa : Nat) : Option Nat :=
  if isInk cpa then
    if inkPen cpa ≠ c.home then some bcNoTarget
    else if lig && !s.mirrored cpa then some bcNotMirrored
    else if !lig && n.write && s.mirrored cpa then some bcMirrorWrite
    else none
  else if isRsv cpa then
    let r := s.rsvOf (rsvNum cpa)
    if n.write then
      (if r.owner ≠ c.home then some bcNoGrant else if !s.bankReady cpa then some bcPowerOff else none)
    else if !s.bankReady cpa then some bcPowerOff
    else if r.owner = c.home || bitAt r.grant c.home then none else some bcNoGrant
  else if isReg cpa then
    if n.notReg then some bcRegisterForm
    else match s.regRead (some c.pen) cpa with
      | .unoccupied => some bcNoTarget
      | .off => some bcPowerOff
      | .val _ => if n.write && (n.tag = Tag.uninit || n.tag = Tag.poison) then some bcRegisterTag else none
  else if isHostWin cpa then some bcHostWindow
  else some bcNoTarget

/-- One word of an access after translation. -/
structure Half where
  va     : Word
  cpa    : Nat
  e      : TlbEntry
  second : Bool
  deriving DecidableEq, Repr

/-- Translate one word of a data access (R258, R265): a miss holds the instruction for a walk. -/
def State.resolve (s : State) (c : Ctx) (i : Instr) (kind : Access) (va : Word) (second : Bool := false) : Res Half :=
  match s.xlat c va kind with
  | .miss => .hold (.walk va kind second i) s
  | .fault f drop => .exc (excTrans f va kind second) (s.noteTFault c va f drop)
  | .hit e => .ok ⟨va, s.frameCpa c e va, e, second⟩ s

/-- The bus fault of a refused half. -/
def Half.bus (h : Half) (write : Bool) (cause : Nat) : Exc := excBus cause h.va write h.second

/-- The bus check of one half. -/
def State.judge (s : State) (c : Ctx) (lig : Bool) (n : Need) (h : Half) : Except Exc Unit :=
  match s.refusal c lig n h.cpa with
  | some b => .error (h.bus n.write b)
  | none => .ok ()

/-! ### Draining the store buffer (R205, R287) -/

/-- The word at a CPA as the pen's run reaches it is uncorrectable. -/
def State.badWord (s : State) (a : Nat) : Bool := (s.peek a).word?.isNone

/-- The banks' words that a half writes. -/
def State.halfCopies (s : State) (p home : Nat) (h : SbHalf) : List Nat :=
  if isInk h.cpa then s.runCopies p home h.cpa else [h.cpa]

/-- A request of a former owner is refused and counted (R278). -/
def State.staleRequest (s : State) (cpa : Nat) : State :=
  (s.modRsv (rsvNum cpa) (fun r => { r with staleCnt := satInc 0xFFFFFFFF r.staleCnt })).raise (bankEvent 0x37 cpa)

/-- A narrow half meets an uncorrectable word at its read-modify-write (R287). -/
def State.badHalf (s : State) (p home : Nat) (h : SbHalf) : Option Nat :=
  if h.full || isReg h.cpa || !s.bankReady h.cpa then none
  else (s.halfCopies p home h).find? (fun a => s.badWord a)

/-- The uncorrectable word that a narrow store of a run met is noted, and the run's commit decision will fail (R287). -/
def State.markBad (s : State) (p line a : Nat) : State :=
  (s.modPen p (fun x => { x with run := x.run.map (fun r => if r.line = line then { r with drainBad := true } else r) })).noteBad
    a (some 0x14) line

/-- Perform one half of a store where it arrives (R211, R278, R287). -/
def State.performHalf (s : State) (p home line : Nat) (h : SbHalf) : State :=
  if isReg h.cpa then (s.regWrite (some p) h.cpa h.data).getD s
  else if isRsv h.cpa && (s.rsvOf (rsvNum h.cpa)).owner ≠ home then s.staleRequest h.cpa
  else if !s.bankReady h.cpa then s
  else match s.badHalf p home h with
    | some a => s.markBad p line a
    | none => (s.halfCopies p home h).foldl (fun t a =>
        if h.full then t.poke a h.data else (t.mergeWord a h.bytes h.data.val).getD t) s

/-- The oldest entry drains (R205): at an inkwell it is performed at once, both halves of a split store or neither; to a
reservoir or register it leaves as a request. -/
def State.drainOne (s : State) (p : Nat) : State :=
  match (s.pen p).sb, (s.pen p).run with
  | e :: es, some r =>
    let s := s.modPen p (fun x => { x with sb := es })
    let own := e.halves.filter (fun h => isInk h.cpa)
    let far := e.halves.filter (fun h => !isInk h.cpa)
    match own.findSome? (fun h => s.badHalf p r.home h) with
    | some a => s.markBad p r.line a
    | none =>
      let s := (s.forAll own (fun h t => t.performHalf p r.home r.line h)).modPen p (fun x => { x with acks := x.acks + far.length })
      { s with flight := s.flight ++ far.map (fun h => ⟨p, r.home, r.line, h.cpa, some h, s.cyc⟩) }
  | _, _ => s

/-- Drain `n` entries. -/
def State.drainN : Nat → Nat → State → State
  | 0, _, s => s
  | n + 1, p, s => State.drainN n p (s.drainOne p)

/-- Every entry drains. -/
def State.drainAll (s : State) (p : Nat) : State := s.drainN (s.pen p).sb.length p

/-! ### Requests on their way (R208, R211, R278) -/

/-- The router of the target at a CPA (R18). -/
def routerOf (cpa : Nat) : Nat × Nat :=
  if isRsv cpa then (2 * rsvNum cpa % 8, 2 * rsvNum cpa / 8)
  else
    let w := (cpa - 0x40000000) / 0x10000
    if w = 0 then (1, 0)
    else if w = 1 then (2, 0)
    else if w = 2 then (4, 7)
    else if w = 3 then (0, 7)
    else if w = 4 then (0, 4)
    else if w = 7 || w = 8 then (0, 7)
    else if w = 9 || (16 ≤ w && w < 24) then (7, 4)
    else if 10 ≤ w && w < 14 then (7, w - 10)
    else if w = 15 then (0, 6)
    else if 64 ≤ w && w < 256 then (w % 64 % 8, w % 64 / 8)
    else if 256 ≤ w && w < 288 then (2 * (w - 256) % 8, 2 * (w - 256) / 8)
    else (0, 0)

/-- Hops of an access of pen `p` (R208). -/
def hops (p cpa : Nat) : Nat :=
  let gap (a b : Nat) : Nat := (a - b) + (b - a)
  gap (p % 8) (routerOf cpa).1 + gap (p / 8) (routerOf cpa).2 + 2

/-- A request arrives: a store is performed, a read of an ended run is only judged (R278). -/
def State.arrive (f : Flight) (s : State) : State :=
  let s := { s with flight := s.flight.erase f }
  match f.half with
  | some h => s.performHalf f.pen f.home f.line h
  | none => if (s.rsvOf (rsvNum f.cpa)).owner ≠ f.home then s.staleRequest f.cpa else s

/-- The oldest requests of a pen arrive, until `n` are left; those of one pen arrive in order (R19). -/
def State.arriveTo (s : State) (p n : Nat) : State :=
  let l := s.flight.filter (fun f => f.pen = p)
  s.forAll (l.take (l.length - n)) State.arrive

/-- Requests arrive at the latest 6h cycles after they left (R211). -/
def State.arriveDue (s : State) : State :=
  s.forAll (s.flight.filter (fun f => f.since + 6 * hops f.pen f.cpa ≤ s.cyc)) State.arrive

/-- The buffer drains and its stores are performed: atomics and partly overlapping loads wait for it (R207). -/
def State.settleAll (s : State) (p : Nat) : State := (s.drainAll p).arriveTo p 0

/-- Entries of the store buffer in use: a split store takes two (R205). -/
def Pen.sbUsed (x : Pen) : Nat := (x.sb.map (fun e => e.halves.length)).foldl (· + ·) 0

/-- Drain until a store of `n` entries fits (R206). -/
def State.makeRoom : Nat → Nat → Nat → State → State
  | 0, _, _, s => s
  | f + 1, p, n, s => if (s.pen p).sbUsed + n ≤ 4 then s else State.makeRoom f p n (s.drainOne p)

/-- A store enters the buffer (R205, R206). -/
def State.pushStore (s : State) (p : Nat) (e : SbEntry) : State :=
  (State.makeRoom 4 p e.halves.length s).modPen p (fun x => { x with sb := x.sb ++ [e] })

/-! ### First writes (R70, R72, R74) -/

/-- Why a versioned page refuses a run's first write (R74), beside new drafts `fresh` that the same access makes; `none`
while another run's commit point is due. -/
def State.draftRefusal (s : State) (c : Ctx) (fresh : List Nat) (e : TlbEntry) : Option (Option Nat) :=
  if e.kind = .versioned && !c.drafts.contains e.slot && !fresh.contains e.slot then
    (match (s.vslot e.slot).st with
     | .committing => none
     | .copying | .drafted => some (some bcDraftBusy)
     | .fair => if 128 ≤ c.drafts.length + fresh.length then some (some bcDraftLimit) else some none)
  else some none

/-- The new draft that a write through an entry makes. -/
def freshSlot (c : Ctx) (e : TlbEntry) : List Nat :=
  if e.kind = .versioned && !c.drafts.contains e.slot then [e.slot] else []

/-- A write through a versioned entry: to the run's own draft at once; on a FAIR page the draft copy starts, sets the
page's stage-2 D bit and holds the pen; a page of another run refuses it, or makes it wait when that run is at its commit
point. -/
def State.firstWrite (s : State) (c : Ctx) (i : Instr) (h : Half) : Res Unit :=
  match s.draftRefusal c [] h.e with
  | none => .wait
  | some (some b) => .exc (h.bus true b) s
  | some none =>
    if freshSlot c h.e = [] then .ok () s
    else .hold (.copy h.e.slot i)
      ((s.modVslot h.e.slot (fun v => { v with st := .copying, feedDraft := false, drafter := c.pen })).postD2 c h.va h.e)

/-- Note that a run stored into a word: a SOLO run's pages of a mirrored pair are copied again after it (R113), and D is
set (R262, R263). -/
def State.wroteTo (s : State) (c : Ctx) (h : Half) : State := (s.postD c h.va h.e).noteWrote c.pen h.cpa

/-! ### Reads -/

/-- The source that the margin log records for a pen's read (R300). -/
def State.readSource (s : State) (c : Ctx) (cpa : Nat) : Nat :=
  if isInk cpa then srcPen
  else if (s.rsvOf (rsvNum cpa)).owner = c.home then srcPortA else srcPortB

/-- Read a bank word for a run: the word, or a bus fault (R286). -/
def State.readBank (s : State) (c : Ctx) (h : Half) (write : Bool) : Res TWord :=
  let x := s.readRun c.pen c.home h.cpa (s.readSource c h.cpa)
  match x.1 with
  | none => .exc (h.bus write bcUncorrectable) x.2
  | some w => .ok w x.2

/-- Judge the target of an access and the tag of its word (R130): the tag fault of a word that the pen can read comes
before the bus refusal of the access. `rd` is the read of the word. -/
def State.readChecked (s : State) (c : Ctx) (lig : Bool) (n : Need) (h : Half) (rd : Res TWord)
    (chk : TWord → Except Exc Unit) : Res TWord :=
  match s.refusal c lig n h.cpa with
  | none => rd.bind (fun w t => match chk w with
      | .error e => .exc e t
      | .ok () => .ok w t)
  | some b =>
    if b = bcMirrorWrite || b = bcNotMirrored then
      (match rd with
       | .ok w t => (match chk w with
         | .error e => .exc e t
         | .ok () => .exc (h.bus n.write b) t)
       | .exc _ _ | .hold _ _ | .wait => .exc (h.bus n.write b) s)
    else .exc (h.bus n.write b) s

/-- What the store buffer does for a load (R207). -/
inductive Forward
  | memory
  | from_ (h : SbHalf)
  | drain
  deriving DecidableEq, Repr

/-- Match the bytes of a load, given as words and byte masks, against the waiting stores: the youngest entry that writes
any of them gives them all, or the buffer drains first (R207). -/
def forwardOf (sb : List SbEntry) (ps : List (Nat × BitVec 8)) : Forward :=
  let hit (h : SbHalf) (p : Nat × BitVec 8) : Bool := h.cpa = p.1 && (h.full || h.bytes &&& p.2 ≠ 0)
  let covers (h : SbHalf) (p : Nat × BitVec 8) : Bool := h.cpa = p.1 && (h.full || h.bytes &&& p.2 = p.2)
  match ((sb.flatMap (·.halves)).filter (fun h => ps.any (hit h))).getLast? with
  | none => .memory
  | some h => if ps.all (covers h) then .from_ h else .drain

/-- The youngest waiting entry of a word. -/
def lastHalf (sb : List SbEntry) (cpa : Nat) : Option SbHalf := ((sb.flatMap (·.halves)).filter (fun h => h.cpa = cpa)).getLast?

/-- Check the tag of a memory word for a narrow access (R143). -/
def checkRaw (w : TWord) : Except Exc Unit := checkTag 3 [Tag.raw] w

end Sys2Proof.Machine
end

