-- ==== Sys2Proof/Machine/Clock.lean ====
section
/-! DEFINITION. The passage of time: a core cycle while main power is up, a crystal edge in Dormant (R30, R441). -/

namespace Sys2Proof.Machine

/-- A nominal core cycle, 2/3 ns, in units of 2^-32 ns (R441). -/
def cycInc : Nat := 2863311531

/-- The increment of one core cycle under a steering rate in parts per billion. -/
def steeredInc (steer : Int) : Nat := ((cycInc : Int) * (1000000000 + steer) / 1000000000).toNat

/-- The counter advances by one core cycle (R441). -/
def Aon.coreCycle (a : Aon) : Aon :=
  let f := a.frac + steeredInc a.steer
  { a with time := a.time + BitVec.ofNat 64 (f / 2 ^ 32), frac := f % 2 ^ 32 }

/-- Length in ns of the next crystal edge: of every 64 edges, 37 add 30,518 ns and 27 add 30,517 ns (R441); which ones
they are is free. -/
def Aon.edgeLong (a : Aon) (free : Bool) : Bool :=
  if 37 ≤ a.longs then false else if 37 - a.longs = 64 - a.edge then true else free

/-- The counter advances by one crystal edge in Dormant; a stopped crystal stops it and clears VALID (R441, R443). -/
def Aon.crystalEdge (a : Aon) (free : Bool) : Aon :=
  if !a.xtalOk then { a with valid := false }
  else
    let long := a.edgeLong free
    let acc := a.trimAcc + 30518 * a.trim
    let fix : Int := if 1000000000 ≤ acc then 1 else if acc ≤ -1000000000 then -1 else 0
    let wrap := a.edge = 63
    { a with
      time := BitVec.ofInt 64 ((a.time.toNat : Int) + (if long then 30518 else 30517) + fix),
      trimAcc := acc - fix * 1000000000,
      edge := if wrap then 0 else a.edge + 1,
      longs := if wrap then 0 else a.longs + bitN long }

/-- One unit of time passes: a core cycle, in which requests on the fabric may arrive (R211), or in Dormant a crystal
edge. In OFF nothing advances but the model's own cycle count. -/
def State.passCycle (s : State) : State :=
  match s.dev with
  | .off => { s with cyc := s.cyc + 1 }
  | .dormant => { s with aon := s.aon.crystalEdge (Config.freeBool s.free), free := s.free + 1 }
  | .fill | .boot | .loaded | .run | .safe | .debug => { s with cyc := s.cyc + 1, aon := s.aon.coreCycle }.arriveDue

end Sys2Proof.Machine
end

