-- ==== Sys2Proof/Machine/PenFaults.lean ====
section
/-! DEFINITION. A pen fault (R101 to R104, R109, R110, R113, R83, R85, R86): what is recorded, how the pen stops, what
becomes of its runs, and its handing to the blotter. -/

namespace Sys2Proof.Machine

/-- The fault causes of R103. -/
def pfDiverge : Nat := 1
def pfComparator : Nat := 2
def pfFabric : Nat := 3
def pfFlyleaf : Nat := 4
def pfLigature : Nat := 5
def pfInjected : Nat := 6

/-- The line whose run a fault on pen `p` hits: the run that waits for its commit point, while its last comparison is
still running, else the current run (R75, R121). -/
def State.hitLine (s : State) (p : Nat) : Nat :=
  let x := s.pen p
  match x.ending with
  | some r => r.line
  | none => (match x.run with
    | some r => r.line
    | none => 0x7FFF)

/-- Record a pen fault (R121). -/
def State.recordFault (s : State) (p cause groups line : Nat) : State :=
  let cyc := s.folioCyc
  let num := s.folio.number
  s.modPen p (fun x => { x with
    faultInfo := BitVec.ofNat 64 (cause + groups * 2 ^ 8 + cyc % 2 ^ 28 * 2 ^ 16 + line % 2 ^ 15 * 2 ^ 44 + 2 ^ 63),
    faultFolio := num, faultCnt := satInc 0xFFFFFFFF x.faultCnt, winFaults := x.winFaults + 1 })

/-- The event of a pen fault (R412, R413, R424). -/
def faultEvent (cause p groups line : Nat) : Event := penEvent cause p line (cause + groups * 2 ^ 8)

/-- A run that waits for its commit point on a pen that stops: the partner of a JOINED pair commits it, any other is
killed (R75, R111). -/
def State.stopEnding (s : State) (p : Nat) : State × List Event :=
  match (s.pen p).ending with
  | none => (s, [])
  | some r =>
    let o := otherOf p
    if r.mode = .joined && s.inService o then
      let solo : Run := { r with mode := .solo }
      let keep (x : Pen) : Pen := { Pen.dropJoined r.line x with ending := some solo }
      ((s.modPen o keep).modPen p (fun x => { x with ending := none }), [])
    else if r.mode = .duplex then (s.killEnding p).loseRun r
    else (s.killEnding p, [lineEvent 0x13 r.line])

/-- The run of a pen that stops (R79, R83, R109): a DUPLEX run is killed and recovered, the partner of a JOINED pen goes
on SOLO, a SOLO run is lost. -/
def State.stopRun (s : State) (p : Nat) : State × List Event :=
  match (s.pen p).run with
  | none => (s, [])
  | some r =>
    match r.mode with
    | .duplex => (s.killRun p).loseRun r
    | .joined => (s.leavePair p, [])
    | .solo => (s.killRun p, [lineEvent 0x13 r.line])

/-- The cycle from which a stopped pen is handed to the blotter (R83, R110): 64 cyc after the report, or the end of the
window of its ligature run, which may have committed. -/
def State.handCycle (s : State) (p : Nat) : Nat :=
  if s.folio.running && s.folioCyc < (s.pen p).ligEnd then s.folio.tickCyc + (s.pen p).ligEnd else s.cyc + 64

/-- What follows the stop in RUN and SAFE (R86, R104): the pen is fenced when its fault count reaches FAULT_MAX, else
handed to the blotter. -/
def State.afterStop (s : State) (p : Nat) : State × List Event :=
  let fmax := bitsOf s.folio.rdCtrl 24 4
  if s.dev ≠ .run && s.dev ≠ .safe then (s, [])
  else if fmax ≠ 0 && fmax ≤ (s.pen p).winFaults then s.fencePen p
  else (s.modPen p (fun x => { x with handAt := some (s.handCycle p) }), [])

/-- Inter-pen interrupts of a stopping pen that have not compared clean never leave it (R99, R102, R187). -/
def State.recallIpis (s : State) (p : Nat) : State :=
  { s with ipiFly := s.ipiFly.filter (fun f => !(f.src = p && s.cyc ≤ f.since + 3)) }

/-- A pen fault is reported (R102 to R104). A pen out of service raises none. What a JOINED run has sent, its other pen sends
(R110). -/
def State.stopPen (s : State) (p cause groups : Nat) : State × List Event :=
  if !s.inService p then (s, [])
  else
    let line := s.hitLine p
    let lost := s.hasMirror p && s.mirrorOf p ≠ .mirrored && s.copyValid p
    let a := ((if s.isJoined p then s else s.recallIpis p).recordFault p cause groups line).stopEnding p
    let b := a.1.stopRun p
    let t := b.1.modPen p (fun x => { x with st := .stopped })
    let c := if lost then t.fencePair p else t.afterStop p
    (c.1, faultEvent cause p groups line :: inOrder (a.2 ++ b.2 ++ c.2))

/-- Both pens of a JOINED run stop in one cycle and the run is killed (R109), each with its own cause and groups; the copies
stay equal, so the pair stays MIRRORED. `ev` are the events of the report. -/
def State.stopPair (s : State) (e : Nat) (r : Run) (a b : Nat × Nat) (ev : List Event) : State × List Event :=
  let mine (o : Option Run) : Bool := match o with
    | some x => x.line = r.line && x.mode = .joined
    | none => false
  let s := (s.recallIpis e).recallIpis (oddOf e)
  let t := if mine (s.pen e).ending then s.killEnding e else s.killRun e
  let stop (p : Nat) (c : Nat × Nat) (x : State) : State × List Event :=
    let a := x.stopRun p
    let b := ((a.1.recordFault p c.1 c.2 r.line).modPen p (fun y => { y with st := .stopped })).afterStop p
    (b.1, a.2 ++ b.2)
  let u := stop e a t
  let v := stop (oddOf e) b u.1
  (v.1, ev ++ inOrder (u.2 ++ v.2))

/-- A cross-link disagreement with both pens clean (R109). -/
def State.crossStop (s : State) (e : Nat) (r : Run) : State × List Event :=
  s.stopPair e r (pfLigature, 0) (pfLigature, 0) [faultEvent pfLigature e 0 r.line]

/-- Both pens of a JOINED run report a fault in one cycle (R109, row 2). -/
def State.bothStop (s : State) (e : Nat) (r : Run) (a b : Nat × Nat) : State × List Event :=
  s.stopPair e r a b [faultEvent a.1 e a.2 r.line, faultEvent b.1 (oddOf e) b.2 r.line, lineEvent 0x13 r.line]

end Sys2Proof.Machine
end

