-- ==== Sys2Proof/Machine/Exceptions.lean ====
section
/-! DEFINITION. Taking an exception and its parts (R220 to R235): the vector table and the flyleaf at the top of inkwell
bank 0, the frame of R148, the stack check, the syndrome, levels and the new status word. The same frame push serves
GATE. -/

namespace Sys2Proof.Machine

/-! ### Draft copies (R70, R72 to R74) -/

/-- The draft copy of a slot for the run of pen `p`: the fair copy is copied, both copies for a JOINED pair, and the page
is DRAFTED. -/
def State.draftCopy (s : State) (p slot : Nat) (r : Run) : State :=
  let v := s.vslot slot
  let src := s.runCopies p r.home (v.fairFrame * 4096)
  let dst := s.runCopies p r.home (v.draftFrame * 4096)
  let s := (s.noteFirst slot).modVslot slot (fun v => { v with st := .drafted, feedDraft := false, drafter := p })
  let s := s.modPen p (fun x => { x with run := x.run.map (fun r => { r with drafts := r.drafts ++ [slot] }) })
  ((src.zip dst).foldl (fun (t : State) (e : Nat × Nat) => t.copyWords srcCopy (some 0x15) r.line 512 e.1 e.2) s).noteWrote
    p (v.draftFrame * 4096)

/-! ### The top of bank 0 (R220) -/

/-- The handler address in vector `v`, if its word is a clean CPTR (R222). -/
def State.readVector (s : State) (p v : Nat) : Option Word × State :=
  let x := s.readRun p p (inkBase p + 0x3FE00 + 8 * v) srcPen
  match x.1 with
  | none => (none, x.2)
  | some w => if w.tag = Tag.cptr then (some w.val, x.2) else (none, x.2)

/-- FLY_VA of the run's partition (R244). -/
def State.flyVa (s : State) (part : Nat) : Nat := (s.pxWord part 1).toNat

/-! ### Levels and status (R224, R225) -/

/-- The level at which a synchronous cause of default level `l` is taken. -/
def takenLevel (l mask : Nat) : Nat := min 7 (max l mask)

/-- The running status word after entry at a level. -/
def entryStatus (st : Word) (level : Nat) (fly : Bool) : Word :=
  setBits (setBit (setBit (setBit st 8 true) 9 false) 10 fly) 4 3 (if level = 7 then 7 else level + 1)

/-- Default levels of the vectors (R221). -/
def vectorLevel (v : Nat) : Nat :=
  if v = 1 || v = 2 || v = 7 || v = 8 then 5
  else if v = 3 || v = 4 || v = 5 || v = 6 || v = 11 then 4
  else if v = 9 || v = 10 then 3
  else if v = 12 then 7
  else v - 16

/-! ### Syndrome (R231) -/

/-- The syndrome word of an entry. -/
def synWord (orig level : Nat) (esc : Bool) (e : Exc) : Word :=
  BitVec.ofNat 64 (e.vector + orig * 2 ^ 5 + level * 2 ^ 10 + bitN esc * 2 ^ 13 + e.detail * 2 ^ 14 + e.operand * 2 ^ 18
    + e.stage * 2 ^ 20 + e.wlevel * 2 ^ 22 + e.wcause * 2 ^ 25 + e.bcause * 2 ^ 28 + e.gate * 2 ^ 36 + e.arg * 2 ^ 44
    + bitN e.write * 2 ^ 47 + bitN e.second * 2 ^ 48 + 2 ^ 63)

/-! ### The stack of an entry or GATE (R228, R233) -/

/-- A data access translated at once, with its walk if it misses. -/
def State.xlatWalk (s : State) (c : Ctx) (va : Word) (kind : Access) : Except TFault TlbEntry × State :=
  match s.xlat c va kind with
  | .hit e => (.ok e, s)
  | .fault f d => (.error f, s.noteTFault c va f d)
  | .miss =>
    let x := (s.arriveTo c.pen 0).walkFor c va kind
    match x.1 with
    | .error f => (.error f, x.2)
    | .ok () =>
      match x.2.xlat c va kind with
      | .hit e => (.ok e, x.2)
      | .fault f d => (.error f, x.2.noteTFault c va f d)
      | .miss => (.error ⟨1, 0, wcNotPresent⟩, x.2)

/-- How the stack check of R233 ends: two usable frame addresses; an invalid stack with the cause of the refused access;
a page at its commit point. -/
inductive Stack
  | good (lo hi : TlbEntry)
  | bad (bcause : Nat) (write : Bool) (addr : Word)
  | wait
  deriving DecidableEq, Repr

/-- Where a frame word would be written: the draft of a versioned page. -/
def State.frameTarget (s : State) (c : Ctx) (e : TlbEntry) (va : Word) : Nat :=
  match e.kind with
  | .versioned => (s.vslot e.slot).draftFrame * 4096 + va.toNat % leafSize e.size
  | .cpa | .loc => s.frameCpa c e va

/-- The refusal of one frame word (R106, R228, R233): outside the pen's own inkwells, by the mirror rules, or by its draft
copy beside the new drafts `fresh` of the frame; `none` for a page at its commit point. -/
def State.frameRefusal (s : State) (c : Ctx) (lig : Bool) (fresh : List Nat) (e : TlbEntry) (va : Word) : Option (Option Nat) :=
  let a := s.frameTarget c e va
  if !isInk a || inkPen a ≠ c.home then some (some bcFrameRegion)
  else match s.refusal c lig { write := true } a with
    | some b => some (some b)
    | none => s.draftRefusal c fresh e

/-- Check one frame word: its entry, or why the stack is invalid. -/
def State.frameWord (s : State) (c : Ctx) (lig : Bool) (fresh : List Nat) (va sp : Word) : Except Stack TlbEntry × State :=
  let x := s.xlatWalk c va .write
  match x.1 with
  | .error _ => (.error (.bad 0 true sp), x.2)
  | .ok e =>
    match x.2.frameRefusal c lig fresh e va with
    | none => (.error .wait, x.2)
    | some (some b) => (.error (.bad b true sp), x.2)
    | some none => (.ok e, x.2)

/-- The context of a frame push: the EXEC level with the seal key register as it stands (R148, R270). -/
def State.pushCtx (s : State) (p : Nat) (r : Run) : Ctx := { s.ctxOf p r false with task := false }

/-- The stack check of an entry or GATE (R233). -/
def State.stackCheck (s : State) (p : Nat) (r : Run) : Stack × State :=
  let sp := (s.pen p).spExec
  let c := s.pushCtx p r
  let lig := r.mode ≠ .duplex
  if sp.tag ≠ Tag.ptr then (.bad 0 false 0, s)
  else if bitsOf sp.val 0 3 ≠ 0 then (.bad 0 false (sp.val - 16), s)
  else
    let x := s.frameWord c lig [] (sp.val - 16) (sp.val - 16)
    match x.1 with
    | .error b => (b, x.2)
    | .ok lo =>
      let y := x.2.frameWord c lig (freshSlot c lo) (sp.val - 8) (sp.val - 16)
      match y.1 with
      | .error b => (b, y.2)
      | .ok hi => (.good lo hi, y.2)

/-- A push of `n` bytes below EXEC W31 would leave the flyleaf's 32 words while W31 lies in them (R235). -/
def State.flySpent (s : State) (p part n : Nat) : Bool :=
  let sp := (s.pen p).spExec
  let lo := s.flyVa part + 0xF00
  sp.tag = Tag.ptr && lo ≤ sp.val.toNat && sp.val.toNat ≤ lo + 0x100 && sp.val.toNat < lo + n

/-- Write one frame word through the store buffer; the first write of a versioned page makes its draft copy first
(R228). -/
def State.pushWord (s : State) (p : Nat) (e : TlbEntry) (va : Word) (w : TWord) : State :=
  match s.runs p with
  | none => s
  | some r =>
    let s := if e.kind = .versioned && !r.drafts.contains e.slot then s.draftCopy p e.slot r else s
    match s.runs p with
    | none => s
    | some r =>
      let c := s.pushCtx p r
      let a := s.frameCpa c e va
      let s := s.wroteTo c ⟨va, a, e, false⟩
      s.pushStore p { halves := [⟨a, true, 0xFF, w⟩] }

/-- Push the frame of R148 on a stack that has been checked. -/
def State.pushFrame (s : State) (p : Nat) (lo hi : TlbEntry) (ret stat : Word) : State :=
  let sp := (s.pen p).spExec.val
  let s := s.pushWord p hi (sp - 8) (TWord.cptr ret)
  let s := s.pushWord p lo (sp - 16) (TWord.status stat)
  s.modPen p (fun x => { x with spExec := TWord.ptr (sp - 16) })

/-! ### Entry -/

/-- Count an entry on the pens that execute the run (R246). -/
def State.countEntry (s : State) (p : Nat) (fly : Bool) : State :=
  let f (x : Pen) : Pen := { x with
    excCnt := satInc 0xFFFFFFFF x.excCnt, flyCnt := if fly then satInc 0xFFFFFFFF x.flyCnt else x.flyCnt }
  s.modRun p f

/-- The pen enters a handler: new status, program counter, an empty fetch buffer and nothing held. -/
def Pen.enterAt (x : Pen) (target : Word) (level : Nat) (fly : Bool) : Pen :=
  { x with status := entryStatus x.status level fly, pc := target, hold := .none, blkDone := 0, pair := none, fbuf := none }

/-- Why an entry goes to the flyleaf (R234). -/
structure FlyWhy where
  orig   : Nat
  detail : Nat
  bcause : Nat
  write  : Bool
  addr   : Word
  deriving DecidableEq, Repr

/-- The pens that execute the run. -/
def runPens (p : Nat) (r : Run) : List Nat := if r.mode = .joined then [evenOf p, oddOf p] else [p]

/-- A failed flyleaf stops the pen, both pens of a JOINED run where it fails on both (R109, R235). -/
def State.flyStop (s : State) (p : Nat) (r : Run) : State :=
  raised (if r.mode = .joined then s.bothStop (evenOf p) r (pfFlyleaf, 0) (pfFlyleaf, 0) else s.stopPen p pfFlyleaf 0)

/-- Pen `q` cannot use its flyleaf (R235): vector 12 is not a readable CPTR, or the frame write meets an uncorrectable
word. The state notes the errors met. -/
def State.flyBad (s : State) (q : Nat) : Bool × State :=
  let v := s.readWord (inkBase q + 0x3FE00 + 8 * 12) srcPen
  let bad := [0x3FFF8, 0x3FFF0].filter (fun o => v.2.badWord (inkBase q + o))
  ((match v.1 with
    | some w => w.tag ≠ Tag.cptr
    | none => true) || bad ≠ [],
   v.2.forAll bad (fun o t => t.noteBad (inkBase q + o) none))

/-- The flyleaf frame is written and the handler of vector 12 entered (R234). -/
def State.flyGo (s : State) (p : Nat) (y : FlyWhy) (ret stat : Word) : State :=
  match s.runs p with
  | none => s
  | some r =>
    let h := s.peekVal (inkBase p + 0x3FE00 + 8 * 12)
    let s := (runPens p r).foldl (fun t q =>
      ((t.poke (inkBase q + 0x3FFF8) (TWord.cptr ret)).poke (inkBase q + 0x3FFF0) (TWord.status stat)).noteWrote p (inkBase q + 0x3FFF0)) s
    let e : Exc := { vector := 12, level := 7, detail := y.detail, bcause := y.bcause, write := y.write }
    let dflt := if y.orig = 0 then 4 else vectorLevel y.orig
    let va : Word := BitVec.ofNat 64 (s.flyVa r.part + 0xFF0)
    (s.countEntry p true).modPen p (fun x => { x.enterAt h 7 true with
      spExec := TWord.ptr va, syn := synWord y.orig 7 (dflt < 7) e, synAddr := y.addr })

/-- The flyleaf entry (R234, R235), after the stores before it have drained (R227). Of a JOINED pair each pen uses its own
flyleaf: one that cannot stops, and the other goes on. ORIG 0 stands for a GATE, whose default level is that of vector
11. -/
def State.flyEntry (s : State) (p : Nat) (r : Run) (y : FlyWhy) (ret stat : Word) : State :=
  if bitAt (s.pen p).status 10 then s.flyStop p r
  else
    let x := (runPens p r).foldl (fun (x : List Nat × State) q =>
      let b := x.2.flyBad q
      (if b.1 then x.1 ++ [q] else x.1, b.2)) ([], s.drainAll p)
    match x.1 with
    | [] => x.2.flyGo p y ret stat
    | [q] => if r.mode = .joined then (raised (x.2.stopPen q pfFlyleaf 0)).flyGo (otherOf q) y ret stat else x.2.flyStop p r
    | _ :: _ :: _ => x.2.flyStop p r

/-- Enter the handler of a vector at a level (R227, R230, R234): the frame is pushed, or the entry becomes a flyleaf
entry. `ret` is the return address, and `rs` the RS bit of the saved status word. A frame on a page at its commit point
waits. -/
def State.enter (s : State) (p : Nat) (r : Run) (e : Exc) (level : Nat) (ret : Word) (rs : Bool) : Option State :=
  let s := s.modPen p Pen.complete
  let stat := setBit (s.pen p).status 9 rs
  if s.flySpent p r.part 16 then some (s.flyStop p r)
  else
    let k := s.stackCheck p r
    match k.1 with
    | .wait => none
    | .bad b w a => some (k.2.flyEntry p r ⟨e.vector, 1, b, w, a⟩ ret stat)
    | .good lo hi =>
      let v := k.2.readVector p e.vector
      match v.1 with
      | none => some (v.2.flyEntry p r ⟨e.vector, 2, 0, false, BitVec.ofNat 64 (0x3FE00 + 8 * e.vector)⟩ ret stat)
      | some h =>
        let s := (v.2.pushFrame p lo hi ret stat).countEntry p false
        some (s.modPen p (fun x => { x.enterAt h level false with
          syn := synWord e.vector level (e.level < level) e, synAddr := e.addr }))

/-- Take a synchronous exception at the instruction at the program counter (R224, R227). `rs` is the RS bit of the saved
status word: 1 when a block instruction has done words (R181). -/
def State.takeExc (s : State) (p : Nat) (e : Exc) (rs : Bool := false) : Option State :=
  match s.runs p with
  | none => some s
  | some r =>
    let x := s.pen p
    s.enter p r e (takenLevel e.level x.maskLevel) x.pc (rs || bitAt x.status 9)

/-! ### Interrupts (R214, R223, R226, R242) -/

/-- Accept the highest unmasked interrupt at the boundary before the instruction at the program counter: its pending bit
is cleared and its handler entered (R242). `rs` as for `takeExc`. -/
def State.acceptIrq (s : State) (p : Nat) (rs : Bool) : Option State :=
  match s.runs p, (s.pen p).irqLevel with
  | some r, some l =>
    let x := s.pen p
    let s := s.modPen p (fun x => { x with ipiPend := x.ipiPend &&& ~~~ BitVec.ofNat 8 (2 ^ l) })
    s.enter p r { vector := 16 + l, level := l } l x.pc (rs || bitAt x.status 9)
  | _, _ => none

end Sys2Proof.Machine
end

