-- ==== Sys2Proof/Machine/Issue.lean ====
section
/-! DEFINITION. Issuing an instruction (R163, R195): it takes its slot, does its work, and ends in its result, an
exception, a hold or a wait. -/

namespace Sys2Proof.Machine

/-- An instruction issues in a slot and does its work: `f` gets whether it is paired and the state after issue, and
answers what becomes of the pen. Exceptions are taken; a hold undoes the issue; a wait, or an instruction that is not
admitted, changes nothing. -/
def State.issueOne (s : State) (i : Iss) (u : Uses) (f : Bool → State → Res (Pen → Pen)) : State :=
  let p := i.pen.val
  let x := s.pen p
  let paired := x.pairs i.second u
  match s.admitted p paired with
  | none => s
  | some a =>
    match f paired (a.modPen p (fun y => y.issue paired u)) with
    | .ok g t => t.modPen p g
    | .exc e t => (t.takeExc p e).getD s
    | .hold h t => t.modPen p (fun y => y.unissue x h)
    | .wait => s

/-- The uses of an ALU instruction. -/
def useAlu (regs : List Reg) (flags : Bool) : Uses := ⟨.alu, regs, flags⟩

/-- Registers of a second source. -/
def srcRegs : Src → List Reg
  | .reg r => [r]
  | .imm _ => []

def amtRegs : Amt → List Reg
  | .reg r => [r]
  | .imm _ => []

/-- Write an ALU result and its flags (R163, R164). -/
def Pen.writeAlu (x : Pen) (paired : Bool) (rd : Reg) (o : AluOut) : Pen :=
  let y := x.write paired rd o.1
  match o.2 with
  | some f => y.setFlags f
  | none => y

/-- An ALU instruction: `f` computes result and flags from the registers. -/
def State.doAlu (s : State) (i : Iss) (u : Uses) (rd : Reg) (f : (Reg → TWord) → Except Exc AluOut) : State :=
  s.issueOne i u (fun paired t =>
    match f ((t.pen i.pen.val).read paired) with
    | .error e => .exc e t
    | .ok o => .ok (fun x => (x.writeAlu paired rd o).done paired) t)

end Sys2Proof.Machine
end

