-- ==== Sys2Proof/Machine/Arithmetic.lean ====
section
/-! DEFINITION. The arithmetic, logic, shift and bit instructions (R136 to R139, R166, R170, R172, R173). -/

namespace Sys2Proof.Machine

/-- ADD (R136, R166). -/
def execAdd (i : Iss) (rd ra : Reg) (b : Src) (s : State) : Host.Outcome State Fault Refusal :=
  guarded (s.ready i.pen.val) s (fun s =>
    s.doAlu i (useAlu (rd :: ra :: srcRegs b) true) rd (fun read => aluAdd (read ra) b read))

/-- ADDT (R136, R166). -/
def execAddt (i : Iss) (rd ra : Reg) (b : Src) (s : State) : Host.Outcome State Fault Refusal :=
  guarded (s.ready i.pen.val) s (fun s =>
    s.doAlu i (useAlu (rd :: ra :: srcRegs b) true) rd (fun read => aluAddt (read ra) b read))

/-- SUB (R136, R166). -/
def execSub (i : Iss) (rd ra : Reg) (b : Src) (s : State) : Host.Outcome State Fault Refusal :=
  guarded (s.ready i.pen.val) s (fun s =>
    s.doAlu i (useAlu (rd :: ra :: srcRegs b) true) rd (fun read => aluSub (read ra) b read))

/-- SUBT (R136, R166). -/
def execSubt (i : Iss) (rd ra : Reg) (b : Src) (s : State) : Host.Outcome State Fault Refusal :=
  guarded (s.ready i.pen.val) s (fun s =>
    s.doAlu i (useAlu (rd :: ra :: srcRegs b) true) rd (fun read => aluSubt (read ra) b read))

/-- NEG (R166). -/
def execNeg (i : Iss) (rd ra : Reg) (s : State) : Host.Outcome State Fault Refusal :=
  guarded (s.ready i.pen.val) s (fun s =>
    s.doAlu i (useAlu [rd, ra] true) rd (fun read => aluNeg false (read ra)))

/-- NEGT (R166). -/
def execNegt (i : Iss) (rd ra : Reg) (s : State) : Host.Outcome State Fault Refusal :=
  guarded (s.ready i.pen.val) s (fun s =>
    s.doAlu i (useAlu [rd, ra] true) rd (fun read => aluNeg true (read ra)))

/-- AND (R137, R166). -/
def execAnd (i : Iss) (rd ra : Reg) (b : Src) (s : State) : Host.Outcome State Fault Refusal :=
  guarded (s.ready i.pen.val) s (fun s =>
    s.doAlu i (useAlu (rd :: ra :: srcRegs b) true) rd (fun read => aluAnd (read ra) b read))

/-- OR, and the move form with W0 as second source, which touches no flag (R137, R139). -/
def execOr (i : Iss) (rd ra : Reg) (b : Src) (s : State) : Host.Outcome State Fault Refusal :=
  guarded (s.ready i.pen.val) s (fun s =>
    s.doAlu i (useAlu (rd :: ra :: srcRegs b) (b ≠ .reg 0)) rd (fun read => aluOr (read ra) b read))

/-- XOR (R137, R166). -/
def execXor (i : Iss) (rd ra : Reg) (b : Src) (s : State) : Host.Outcome State Fault Refusal :=
  guarded (s.ready i.pen.val) s (fun s =>
    s.doAlu i (useAlu (rd :: ra :: srcRegs b) true) rd (fun read => aluXor (read ra) b read))

/-- SHL (R172). -/
def execShl (i : Iss) (rd ra : Reg) (a : Amt) (s : State) : Host.Outcome State Fault Refusal :=
  guarded (s.ready i.pen.val) s (fun s =>
    s.doAlu i (useAlu (rd :: ra :: amtRegs a) true) rd (fun read => aluShift arithTags shlOf (read ra) a read))

/-- SHR (R172). -/
def execShr (i : Iss) (rd ra : Reg) (a : Amt) (s : State) : Host.Outcome State Fault Refusal :=
  guarded (s.ready i.pen.val) s (fun s =>
    s.doAlu i (useAlu (rd :: ra :: amtRegs a) true) rd (fun read => aluShift bitTags shrOf (read ra) a read))

/-- SAR (R172). -/
def execSar (i : Iss) (rd ra : Reg) (a : Amt) (s : State) : Host.Outcome State Fault Refusal :=
  guarded (s.ready i.pen.val) s (fun s =>
    s.doAlu i (useAlu (rd :: ra :: amtRegs a) true) rd (fun read => aluShift arithTags sarOf (read ra) a read))

/-- ROL (R172). -/
def execRol (i : Iss) (rd ra : Reg) (a : Amt) (s : State) : Host.Outcome State Fault Refusal :=
  guarded (s.ready i.pen.val) s (fun s =>
    s.doAlu i (useAlu (rd :: ra :: amtRegs a) true) rd (fun read => aluShift bitTags rolOf (read ra) a read))

/-- CLZ (R166). -/
def execClz (i : Iss) (rd ra : Reg) (s : State) : Host.Outcome State Fault Refusal :=
  guarded (s.ready i.pen.val) s (fun s =>
    s.doAlu i (useAlu [rd, ra] true) rd (fun read => aluClz (read ra)))

/-- The field of BF format lies within the word (R173). -/
def bfOk (pos len1 : BitVec 6) : Bool := pos.toNat + len1.toNat + 1 ≤ 64

/-- BFX (R173). -/
def execBfx (i : Iss) (rd ra : Reg) (pos len1 : BitVec 6) (s : State) : Host.Outcome State Fault Refusal :=
  guarded (s.ready i.pen.val) s (fun s =>
    s.doAlu i (useAlu [rd, ra] true) rd (fun read =>
      if !bfOk pos len1 then .error (excIllegal 3) else aluBfx pos.toNat (len1.toNat + 1) (read ra)))

/-- BFI (R173). -/
def execBfi (i : Iss) (rd ra : Reg) (pos len1 : BitVec 6) (s : State) : Host.Outcome State Fault Refusal :=
  guarded (s.ready i.pen.val) s (fun s =>
    s.doAlu i (useAlu [rd, ra] true) rd (fun read =>
      if !bfOk pos len1 then .error (excIllegal 3) else aluBfi pos.toNat (len1.toNat + 1) (read ra) (read rd)))

/-- PERM (R173). -/
def execPerm (i : Iss) (rd ra rb : Reg) (s : State) : Host.Outcome State Fault Refusal :=
  guarded (s.ready i.pen.val) s (fun s =>
    s.doAlu i (useAlu [rd, ra, rb] true) rd (fun read => aluPerm (read ra) (read rb)))

end Sys2Proof.Machine
end

