-- ==== Sys2Proof/Machine/Memory.lean ====
section
/-! DEFINITION. Loads, stores, narrow accesses and bank atomics (R130, R142 to R145, R175 to R178, R207, R209, R282). The
argument `fab` says that the fabric response that the instruction is held for has come (R209). -/

namespace Sys2Proof.Machine

/-! ### Addresses (R142, R175) -/

/-- Registers that an addressing mode reads besides the base. -/
def modeRegs : AMode → List Reg
  | .index rx _ => [rx]
  | .off _ | .postInc _ | .preDec _ => []

/-- The mode updates its base register. -/
def modeUpdates : AMode → Bool
  | .postInc _ | .preDec _ => true
  | .off _ | .index _ _ => false

/-- Effective address, and the base afterwards where the mode updates it. -/
def modeAddr (m : AMode) (scale : Nat) (base idx : Word) : Word × Option Word :=
  let n (imm : BitVec 14) : Word := BitVec.ofNat 64 (imm.toNat * scale)
  match m with
  | .off imm => (base + BitVec.ofInt 64 (imm.toInt * scale), none)
  | .postInc imm => (base, some (base + n imm))
  | .preDec imm => (base - n imm, some (base - n imm))
  | .index _ s => (base + (idx <<< s.toNat), none)

/-- The tag checks of base and index (R127, R129, R175). -/
def checkAddr (m : AMode) (rb : Reg) (read : Reg → TWord) : Except Exc Unit := do
  checkTag 0 [Tag.ptr] (read rb)
  match m with
  | .index rx _ => checkTag 1 [Tag.int, Tag.uint] (read rx)
  | .off _ | .postInc _ | .preDec _ => pure ()

/-- The payload of the index register. -/
def modeIdx (m : AMode) (read : Reg → TWord) : Word :=
  match m with
  | .index rx _ => (read rx).val
  | .off _ | .postInc _ | .preDec _ => 0

/-- Write the updated base (R144). -/
def Pen.writeBase (x : Pen) (paired : Bool) (rb : Reg) (nb : Option Word) : Pen :=
  match nb with
  | some w => x.write paired rb (TWord.ptr w)
  | none => x

/-! ### One tagged word -/

/-- A ligature run. -/
def Run.lig (r : Run) : Bool := r.mode ≠ .duplex

/-- The run of pen `p` for the work of an instruction. -/
def State.runCtx (s : State) (p : Nat) (paired : Bool) : Option (Run × Ctx) :=
  (s.runs p).map (fun r => (r, s.ctxOf p r paired))

/-- An access that the fabric serves: a reservoir or a register (R209). -/
def onFabric (cpa : Nat) : Bool := isRsv cpa || isReg cpa

/-- The request of a run to a reservoir goes to port A, the owner's (R276). -/
def State.onPortA (s : State) (c : Ctx) (cpa : Nat) : Bool := isRsv cpa && (s.rsvOf (rsvNum cpa)).owner = c.home

/-- Read a tagged word for a run: a bank word, or a register, whose RC fields are cleared (R8, R11). A partly overlapping
store drains first (R207). -/
def State.readTagged (s : State) (c : Ctx) (h : Half) : Res TWord :=
  let s := if forwardOf (s.pen c.pen).sb [(h.cpa, 0xFF)] = .drain then s.settleAll c.pen else s
  if isReg h.cpa then
    match s.regRead (some c.pen) h.cpa with
    | .val w => .ok w (s.regClear h.cpa)
    | .off => .exc (h.bus false bcPowerOff) s
    | .unoccupied => .exc (h.bus false bcNoTarget) s
  else s.readBank c h false

/-- Load the tagged word at a VA (R130, R176, R207, R209): forwarded from a waiting store of the whole word, or read at its
bank, behind the fabric for a reservoir or register. `i` is the instruction to go on with after a hold, and `chk` the tag
check of the word. -/
def State.loadWord (s : State) (c : Ctx) (lig fab : Bool) (i : Instr) (va : Word)
    (chk : TWord → Except Exc Unit := fun _ => .ok ()) : Res TWord :=
  (s.resolve c i .read va).bind (fun h s =>
    match forwardOf (s.pen c.pen).sb [(h.cpa, 0xFF)] with
    | .from_ f => s.readChecked c lig { write := false } h (.ok f.data s) chk
    | .memory | .drain =>
      if onFabric h.cpa && !fab then .hold (.fabric h.cpa (s.onPortA c h.cpa) i) s
      else s.readChecked c lig { write := false } h (s.readTagged c h) chk)

/-- A store may go to the address of a half (R74, R106, R277): the bus check, then the first write of its page. -/
def State.storeOk (s : State) (c : Ctx) (lig : Bool) (i : Instr) (n : Need) (h : Half) : Res Unit :=
  match s.judge c lig n h with
  | .error e => .exc e s
  | .ok () => s.firstWrite c i h

/-- Store the tagged word at a VA: checked, then placed in the store buffer (R176, R205). -/
def State.storeWord (s : State) (c : Ctx) (lig : Bool) (i : Instr) (va : Word) (w : TWord) : Res Unit :=
  (s.resolve c i .write va).bind (fun h s =>
    (s.storeOk c lig i { write := true, tag := w.tag } h).bind (fun _ s =>
      .ok () ((s.wroteTo c h).pushStore c.pen
        { halves := [⟨h.cpa, true, 0xFF, w⟩], slot := if h.e.kind = .versioned then some h.e.slot else none })))

/-! ### LD and ST -/

/-- A load in an updating mode whose destination is its base is a FORM error (R175). -/
def loadForm (rt rb : Reg) (m : AMode) : Bool := !(modeUpdates m && rt = rb)

/-- The work of LD. -/
def State.doLd (s : State) (fab : Bool) (i : Iss) (rt rb : Reg) (m : AMode) : State :=
  s.issueOne i ⟨.mem, rt :: rb :: modeRegs m, false⟩ (fun paired t =>
    if !loadForm rt rb m then .exc (excIllegal 3) t
    else
      let read := (t.pen i.pen.val).read paired
      match checkAddr m rb read, t.runCtx i.pen.val paired with
      | .error e, _ => .exc e t
      | .ok (), none => .wait
      | .ok (), some (r, c) =>
        let a := modeAddr m 8 (read rb).val (modeIdx m read)
        if bitsOf a.1 0 3 ≠ 0 then .exc (excAlign a.1) t
        else (t.loadWord c r.lig fab (.ld i rt rb m) a.1).bind (fun w t =>
          .ok (fun x => ((x.writeBase paired rb a.2).addLate rt w).done paired) t))

/-- LD (R143, R145, R176). -/
def execLd (i : Iss) (rt rb : Reg) (m : AMode) (s : State) : Host.Outcome State Fault Refusal :=
  guarded (s.ready i.pen.val) s (fun s => s.doLd false i rt rb m)

/-- The work of ST. -/
def State.doSt (s : State) (i : Iss) (rt rb : Reg) (m : AMode) : State :=
  s.issueOne i ⟨.mem, rt :: rb :: modeRegs m, false⟩ (fun paired t =>
    let read := (t.pen i.pen.val).read paired
    match checkAddr m rb read, t.runCtx i.pen.val paired with
    | .error e, _ => .exc e t
    | .ok (), none => .wait
    | .ok (), some (r, c) =>
      let a := modeAddr m 8 (read rb).val (modeIdx m read)
      if bitsOf a.1 0 3 ≠ 0 then .exc (excAlign a.1 true) t
      else (t.storeWord c r.lig (.st i rt rb m) a.1 (read rt)).bind (fun _ t =>
        .ok (fun x => (x.writeBase paired rb a.2).done paired) t))

/-- ST (R143, R176, R205). -/
def execSt (i : Iss) (rt rb : Reg) (m : AMode) (s : State) : Host.Outcome State Fault Refusal :=
  guarded (s.ready i.pen.val) s (fun s => s.doSt i rt rb m)

/-! ### Narrow accesses (R143, R176, R177) -/

/-- The words that a narrow access of `n` bytes touches: VA of the word, first byte, byte count and second-half mark. -/
def narrowParts (va : Word) (n : Nat) : List (Word × Nat × Nat × Bool) :=
  let o := bitsOf va 0 3
  let base := va - BitVec.ofNat 64 o
  if o + n ≤ 8 then [(base, o, n, false)]
  else [(base, o, 8 - o, false), (base + 8, 0, o + n - 8, true)]

/-- Bytes of a word that a part touches. -/
def partMask (o n : Nat) : BitVec 8 := BitVec.ofNat 8 ((2 ^ n - 1) * 2 ^ o)

/-- A translated part of a narrow access. -/
structure Part where
  h : Half
  o : Nat
  n : Nat
  deriving DecidableEq, Repr

/-- Translate every part of a narrow access, in order (R177). -/
def State.resolveParts (s : State) (c : Ctx) (i : Instr) (kind : Access) :
    List (Word × Nat × Nat × Bool) → Res (List Part)
  | [] => .ok [] s
  | (w, o, n, second) :: rest =>
    (s.resolve c i kind w second).bind (fun h s =>
      (State.resolveParts s c i kind rest).bind (fun ps s =>
        .ok ({ h := h, o := o, n := n } :: ps) s))

/-- The word or byte mask of a part, as the store buffer is searched for it. -/
def Part.bytes (p : Part) : Nat × BitVec 8 := (p.h.cpa, partMask p.o p.n)

/-- The word of a part as the checks see it (R143, R207): a load's bytes forwarded or read, and for a store the tag that
the youngest waiting store of the word leaves. -/
def State.partWord (s : State) (c : Ctx) (write : Bool) (p : Part) : Res TWord :=
  let sb := (s.pen c.pen).sb
  if write then
    match lastHalf sb p.h.cpa with
    | some f => .ok (if f.full then f.data else TWord.raw 0) s
    | none => s.readBank c p.h true
  else match forwardOf sb [p.bytes] with
    | .from_ f => .ok f.data s
    | .memory | .drain => s.readBank c p.h false

/-- Check one part: its word with the tag RAW, and the bus access (R130, R143, R176). -/
def State.checkPart (s : State) (c : Ctx) (lig write : Bool) (p : Part) : Except Exc TWord × State :=
  match s.readChecked c lig { write := write, notReg := true } p.h (s.partWord c write p) (fun w =>
      (checkRaw w).mapError (fun e => { e with second := p.h.second, write := write })) with
  | .ok w t => (.ok w, t)
  | .exc e t => (.error e, t)
  | .hold _ _ | .wait => (.ok TWord.uninit, s)

/-- Check every part (R177). -/
def State.checkParts (s : State) (c : Ctx) (lig write : Bool) : List Part → List (Except Exc TWord) × State
  | [] => ([], s)
  | p :: ps =>
    let x := s.checkPart c lig write p
    let y := State.checkParts x.2 c lig write ps
    (x.1 :: y.1, y.2)

/-- The first fault of the parts: a tag fault of either before a bus fault of either (R130, R177). -/
def firstFault (l : List (Except Exc TWord)) : Option Exc :=
  let faults := l.filterMap (fun x => match x with
    | .error e => some e
    | .ok _ => none)
  match faults.find? (fun e => e.vector = 3) with
  | some e => some e
  | none => faults.head?

/-- The bytes of the parts, least significant first. -/
def joinParts : List Part → List (Except Exc TWord) → Nat → Nat
  | p :: ps, .ok w :: xs, shift => bitsOf w.val (8 * p.o) (8 * p.n) * 2 ^ shift + joinParts ps xs (shift + 8 * p.n)
  | _, _, _ => 0

/-- Drain first where a waiting store overlaps the parts without giving all their bytes (R207). -/
def State.settle (s : State) (c : Ctx) (ps : List Part) : State :=
  if forwardOf (s.pen c.pen).sb (ps.map Part.bytes) = .drain then s.settleAll c.pen else s

/-- The first part that a narrow load reads through the fabric. -/
def State.farPart (s : State) (c : Ctx) (ps : List Part) : Option Part :=
  match forwardOf (s.pen c.pen).sb (ps.map Part.bytes) with
  | .from_ _ => none
  | .memory | .drain => ps.find? (fun p => isRsv p.h.cpa)

/-- The work of a narrow load of `n` bytes. -/
def State.doLoadN (s : State) (fab : Bool) (n : Nat) (c0 : Instr) (i : Iss) (rt rb : Reg) (m : AMode) : State :=
  s.issueOne i ⟨.mem, rt :: rb :: modeRegs m, false⟩ (fun paired t =>
    if !loadForm rt rb m then .exc (excIllegal 3) t
    else
      let read := (t.pen i.pen.val).read paired
      match checkAddr m rb read, t.runCtx i.pen.val paired with
      | .error e, _ => .exc e t
      | .ok (), none => .wait
      | .ok (), some (r, c) =>
        let a := modeAddr m 1 (read rb).val (modeIdx m read)
        (t.resolveParts c c0 .read (narrowParts a.1 n)).bind (fun ps t =>
          match (if fab then none else t.farPart c ps) with
          | some p => .hold (.fabric p.h.cpa (t.onPortA c p.h.cpa) c0) t
          | none =>
            let x := (t.settle c ps).checkParts c r.lig false ps
            match firstFault x.1 with
            | some e => .exc e x.2
            | none =>
              let v : Word := BitVec.ofNat 64 (joinParts ps x.1 0)
              .ok (fun x => ((x.writeBase paired rb a.2).addLate rt (TWord.raw v)).done paired) x.2))

/-- LDB (R143, R176). -/
def execLdb (i : Iss) (rt rb : Reg) (m : AMode) (s : State) : Host.Outcome State Fault Refusal :=
  guarded (s.ready i.pen.val) s (fun s => s.doLoadN false 1 (.ldb i rt rb m) i rt rb m)

/-- LDH (R143, R176, R177). -/
def execLdh (i : Iss) (rt rb : Reg) (m : AMode) (s : State) : Host.Outcome State Fault Refusal :=
  guarded (s.ready i.pen.val) s (fun s => s.doLoadN false 2 (.ldh i rt rb m) i rt rb m)

/-- LDW (R143, R176, R177). -/
def execLdw (i : Iss) (rt rb : Reg) (m : AMode) (s : State) : Host.Outcome State Fault Refusal :=
  guarded (s.ready i.pen.val) s (fun s => s.doLoadN false 4 (.ldw i rt rb m) i rt rb m)

/-- The first writes of the parts' pages: every page is judged before any is copied, and then they are copied in order
(R72, R74, R177). `fresh` are the drafts that the parts before make. -/
def State.firstWrites (s : State) (c : Ctx) (i : Instr) (fresh : List Nat) : List Part → Res Unit
  | [] => .ok () s
  | p :: ps =>
    match s.draftRefusal c fresh p.h.e with
    | none => .wait
    | some (some b) => .exc (p.h.bus true b) s
    | some none =>
      match State.firstWrites s c i (freshSlot c p.h.e ++ fresh) ps with
      | .exc e t => .exc e t
      | .wait => .wait
      | .ok () _ | .hold _ _ => (s.firstWrite c i p.h).bind (fun _ s => State.firstWrites s c i fresh ps)

/-- The halves of a narrow store in the store buffer; `d` holds the bytes not yet placed. -/
def storeHalves : List Part → Nat → List SbHalf
  | [], _ => []
  | p :: ps, d =>
    ⟨p.h.cpa, false, partMask p.o p.n, TWord.raw (BitVec.ofNat 64 (d % 2 ^ (8 * p.n) * 2 ^ (8 * p.o)))⟩
      :: storeHalves ps (d / 2 ^ (8 * p.n))

/-- The work of a narrow store of `n` bytes: both halves are checked before either enters the store buffer. -/
def State.doStoreN (s : State) (n : Nat) (c0 : Instr) (i : Iss) (rt rb : Reg) (m : AMode) : State :=
  s.issueOne i ⟨.mem, rt :: rb :: modeRegs m, false⟩ (fun paired t =>
    let read := (t.pen i.pen.val).read paired
    let ok : Except Exc Unit := do
      checkAddr m rb read
      checkTag 2 [Tag.int, Tag.uint, Tag.raw] (read rt)
    match ok, t.runCtx i.pen.val paired with
    | .error e, _ => .exc e t
    | .ok (), none => .wait
    | .ok (), some (r, c) =>
      let a := modeAddr m 1 (read rb).val (modeIdx m read)
      (t.resolveParts c c0 .write (narrowParts a.1 n)).bind (fun ps t =>
        let x := t.checkParts c r.lig true ps
        match firstFault x.1 with
        | some e => .exc e x.2
        | none => (t.firstWrites c c0 [] ps).bind (fun _ _ =>
            let t := ps.foldl (fun t p => t.wroteTo c p.h) x.2
            let t := t.pushStore c.pen { halves := storeHalves ps (read rt).val.toNat }
            .ok (fun x => (x.writeBase paired rb a.2).done paired) t)))

/-- STB (R143, R176). -/
def execStb (i : Iss) (rt rb : Reg) (m : AMode) (s : State) : Host.Outcome State Fault Refusal :=
  guarded (s.ready i.pen.val) s (fun s => s.doStoreN 1 (.stb i rt rb m) i rt rb m)

/-- STH (R143, R176, R177). -/
def execSth (i : Iss) (rt rb : Reg) (m : AMode) (s : State) : Host.Outcome State Fault Refusal :=
  guarded (s.ready i.pen.val) s (fun s => s.doStoreN 2 (.sth i rt rb m) i rt rb m)

/-- STW (R143, R176, R177). -/
def execStw (i : Iss) (rt rb : Reg) (m : AMode) (s : State) : Host.Outcome State Fault Refusal :=
  guarded (s.ready i.pen.val) s (fun s => s.doStoreN 4 (.stw i rt rb m) i rt rb m)

/-! ### Bank atomics (R178, R282) -/

/-- Replace the word that an atomic holds, in every copy that the run writes. -/
def State.atomicPut (s : State) (c : Ctx) (cpa : Nat) (w : TWord) : State :=
  (if isInk cpa then s.runCopies c.pen c.home cpa else [cpa]).foldl (fun t a => t.poke a w) s

/-- The work of an atomic: `f` gives the new word, or the tag fault of the memory word. -/
def State.doAtomic (s : State) (fab : Bool) (c0 : Instr) (i : Iss) (rt rb : Reg) (m : AMode)
    (pre : TWord → Except Exc Unit) (f : TWord → TWord → Except Exc TWord) : State :=
  s.issueOne i ⟨.mem, rt :: rb :: modeRegs m, false⟩ (fun paired t =>
    let form : Bool := match m with
      | .off _ => true
      | .postInc _ | .preDec _ | .index _ _ => false
    if !form then .exc (excIllegal 3) t
    else
      let read := (t.pen i.pen.val).read paired
      let ok : Except Exc Unit := do
        checkAddr m rb read
        pre (read rt)
      match ok, t.runCtx i.pen.val paired with
      | .error e, _ => .exc e t
      | .ok (), none => .wait
      | .ok (), some (r, c) =>
        let a := modeAddr m 8 (read rb).val (modeIdx m read)
        if bitsOf a.1 0 3 ≠ 0 then .exc (excAlign a.1 true) t
        else (t.resolve c c0 .write a.1).bind (fun h t =>
          if isRsv h.cpa && !fab then .hold (.fabric h.cpa (t.onPortA c h.cpa) c0) t
          else
            let t := t.settleAll c.pen
            let chk (w : TWord) : Except Exc Unit := ((f w (read rt)).map (fun _ => ())).mapError (fun e => { e with write := true })
            (t.readChecked c r.lig { write := true, notReg := true } h (t.readBank c h true) chk).bind (fun old u =>
              (t.firstWrite c c0 h).bind (fun _ _ =>
                match f old (read rt) with
                | .error e => .exc e u
                | .ok new => .ok (fun x => (x.addLate rt old).done paired) ((u.wroteTo c h).atomicPut c h.cpa new)))))

/-- The new word of ATADD (R143, R178). -/
def atAdd (old rt : TWord) : Except Exc TWord := do
  checkTag 3 [Tag.int, Tag.uint] old
  if old.tag = rt.tag then pure ⟨old.tag, old.val + rt.val⟩ else .error (excTag tdMismatch 3)

def State.doAtadd (s : State) (fab : Bool) (i : Iss) (rt rb : Reg) (m : AMode) : State :=
  s.doAtomic fab (.atadd i rt rb m) i rt rb m (checkTag 2 [Tag.int, Tag.uint]) atAdd

def State.doAtswp (s : State) (fab : Bool) (i : Iss) (rt rb : Reg) (m : AMode) : State :=
  s.doAtomic fab (.atswp i rt rb m) i rt rb m (fun _ => .ok ()) (fun _ w => .ok w)

/-- ATADD (R178, R282). -/
def execAtadd (i : Iss) (rt rb : Reg) (m : AMode) (s : State) : Host.Outcome State Fault Refusal :=
  guarded (s.ready i.pen.val) s (fun s => s.doAtadd false i rt rb m)

/-- ATSWP (R178, R282). -/
def execAtswp (i : Iss) (rt rb : Reg) (m : AMode) (s : State) : Host.Outcome State Fault Refusal :=
  guarded (s.ready i.pen.val) s (fun s => s.doAtswp false i rt rb m)

end Sys2Proof.Machine
end

