-- ==== Sys2Proof/Machine/Block.lean ====
section
/-! DEFINITION. The block instructions (R179 to R181). A command runs from its issue, or from the hold that it was in, to
its end, a fault, a hold, or the next sampling point for interrupts, from which the same command goes on. -/

namespace Sys2Proof.Machine

/-- The four block instructions. -/
inductive Blk
  | cpy | fill | cmp | crc
  deriving DecidableEq, Repr

/-- A block instruction with its registers. -/
structure BlkOp where
  kind : Blk
  pen  : Nat
  ra   : Reg
  rb   : Reg
  rc   : Reg
  c    : Instr
  deriving DecidableEq, Repr

/-- Tag checks of the registers by operand code (R179). -/
def blkTags (k : Blk) (a b c : TWord) : Except Exc Unit := do
  checkTag 0 [Tag.ptr] a
  match k with
  | .cpy | .cmp => checkTag 1 [Tag.ptr] b
  | .crc => checkTag 1 [Tag.raw] b
  | .fill => pure ()
  checkTag 2 [Tag.uint] c

/-- Alignment of the pointers (R179). -/
def blkAlign (k : Blk) (a b : Word) : Except Exc Unit :=
  if bitsOf a 0 3 ≠ 0 then .error (excAlign a (k = .cpy || k = .fill))
  else match k with
    | .cpy | .cmp => if bitsOf b 0 3 ≠ 0 then .error (excAlign b) else .ok ()
    | .fill | .crc => .ok ()

/-- A register of the block instruction as it stands. -/
def State.blkReg (s : State) (o : BlkOp) (r : Reg) : TWord := let x := s.pen o.pen; x.getB (x.bank r.val)

/-- Write a register of the block instruction. -/
def State.blkSet (s : State) (o : BlkOp) (r : Reg) (w : TWord) : State :=
  s.modPen o.pen (fun x => x.writeB (x.bank r.val) w)

/-- Step a pointer register to the next word. -/
def State.blkStep (s : State) (o : BlkOp) (r : Reg) : State :=
  s.blkSet o r (TWord.ptr ((s.blkReg o r).val + 8))

/-- Count one word done. -/
def State.blkCount (s : State) (o : BlkOp) : State := s.blkSet o o.rc (TWord.uint ((s.blkReg o o.rc).val - 1))

/-- One step of the instruction (R180); the value is false where BLKCMP stops at a difference. -/
def State.blkWord (s : State) (o : BlkOp) (lig fab : Bool) (c : Ctx) : Res Bool :=
  let a := (s.blkReg o o.ra).val
  let b := s.blkReg o o.rb
  match o.kind with
  | .cpy => (s.loadWord c lig fab o.c b.val).bind (fun w t => (t.storeWord c lig o.c a w).bind (fun _ t =>
      .ok true (((t.blkStep o o.ra).blkStep o o.rb).blkCount o)))
  | .fill => (s.storeWord c lig o.c a b).bind (fun _ t => .ok true ((t.blkStep o o.ra).blkCount o))
  | .cmp => (s.loadWord c lig fab o.c a).bind (fun w t => (t.loadWord c lig fab o.c b.val).bind (fun v t =>
      if w = v then .ok true (((t.blkStep o o.ra).blkStep o o.rb).blkCount o) else .ok false t))
  | .crc => (s.loadWord c lig fab o.c a (fun w => if w.tag ≠ Tag.raw then .error (excTag tdMismatch 3) else .ok ())).bind
      (fun w t =>
        let acc : Word := BitVec.ofNat 64 (crcWordN 8 (b.val.toNat % 2 ^ 32) w.val.toNat)
        .ok true (((t.blkSet o o.rb (TWord.raw acc)).blkStep o o.ra).blkCount o))

/-- The end of a block instruction: BLKCMP writes its flags. -/
def State.blkEnd (s : State) (o : BlkOp) : State :=
  s.modPen o.pen (fun x =>
    let x := if o.kind = .cmp then
        x.setFlags (mkFlags false ((x.getB (x.bank o.rc.val)).val = 0) false false) else x
    { x.done false with blkDone := 0 })

/-- How the words of a block instruction end: with its last word, an exception, a hold, at a sampling point, or in a wait
for a commit point; `done` counts the words since its issue. -/
inductive BlkOut
  | finish (s : State)
  | exc (e : Exc) (done : Nat) (s : State)
  | hold (h : Hold) (done : Nat) (s : State)
  | sample (done : Nat) (s : State)
  deriving DecidableEq, Repr

/-- Words until the count is 0 (the first argument) or a sampling point is reached (R181), `done` of them since issue. -/
def State.blkRun : Nat → BlkOp → Bool → Nat → State → BlkOut
  | 0, _, _, _, s => .finish s
  | n + 1, o, fab, done, s =>
    match s.runCtx o.pen false with
    | none => .finish s
    | some (r, c) =>
      match s.blkWord o r.lig fab c with
      | .exc e t => .exc e done t
      | .hold h t => .hold h done t
      | .wait => .sample done s
      | .ok false t => .finish t
      | .ok true t =>
        if n ≠ 0 && (done + 1) % 8 = 0 then .sample (done + 1) t
        else State.blkRun n o false (done + 1) t

/-- A block instruction from its issue on. `before` is the pen before issue, `s0` the state then. -/
def State.blkGo (s : State) (o : BlkOp) (fab : Bool) (before : Pen) (s0 : State) : State :=
  let done := before.blkDone
  match State.blkRun (s.blkReg o o.rc).val.toNat o fab done s with
  | .finish t => t.blkEnd o
  | .exc e d t => (t.takeExc o.pen e (d ≠ 0)).getD s0
  | .hold h 0 t => t.modPen o.pen (fun y => y.unissue before h)
  | .hold h (d + 1) t => t.modPen o.pen (fun y => { y with hold := h, blkDone := d + 1 })
  | .sample d t => if d = done then s0 else t.modPen o.pen (fun y => { y with hold := .block o.c, blkDone := d })

/-- The state in which a block instruction works: once it has done words it is issued and only goes on. -/
def State.blkIssue (s : State) (p : Nat) (u : Uses) : Option State :=
  if (s.pen p).blkDone ≠ 0 then some (s.modPen p (fun x => { x with hold := .none }))
  else (s.admitted p false).map (fun t => t.modPen p (fun x => x.issue false u))

/-- The work of a block instruction (R179): form, tags, alignment, then the words. -/
def State.doBlk (s : State) (fab : Bool) (k : Blk) (i : Iss) (ra rb rc : Reg) (c : Instr) : State :=
  let p := i.pen.val
  match s.blkIssue p ⟨.ser, [ra, rb, rc], k = .cmp⟩ with
  | none => s
  | some t =>
    let o : BlkOp := ⟨k, p, ra, rb, rc, c⟩
    let pre : Except Exc Unit := do
      if ra = rb || rb = rc || ra = rc then throw (excIllegal 3)
      blkTags k (t.blkReg o ra) (t.blkReg o rb) (t.blkReg o rc)
      blkAlign k (t.blkReg o ra).val (t.blkReg o rb).val
    match pre with
    | .error e => (t.takeExc p e).getD s
    | .ok () => t.blkGo o fab (s.pen p) s

/-- A block command may be carried out: the instruction issues, or it goes on from a sampling point without an unmasked
interrupt pending (R181, R214). -/
def State.readyBlk (s : State) (p : Nat) (c : Instr) : Bool :=
  s.ready p || ((s.runs p).isSome && (s.pen p).hold = .block c && (s.pen p).irqLevel.isNone)

/-- BLKCPY (R179 to R181). -/
def execBlkcpy (i : Iss) (ra rb rc : Reg) (s : State) : Host.Outcome State Fault Refusal :=
  guarded (s.readyBlk i.pen.val (.blkcpy i ra rb rc)) s (fun s => s.doBlk false .cpy i ra rb rc (.blkcpy i ra rb rc))

/-- BLKFILL (R179 to R181). -/
def execBlkfill (i : Iss) (ra rb rc : Reg) (s : State) : Host.Outcome State Fault Refusal :=
  guarded (s.readyBlk i.pen.val (.blkfill i ra rb rc)) s (fun s => s.doBlk false .fill i ra rb rc (.blkfill i ra rb rc))

/-- BLKCMP (R179 to R181). -/
def execBlkcmp (i : Iss) (ra rb rc : Reg) (s : State) : Host.Outcome State Fault Refusal :=
  guarded (s.readyBlk i.pen.val (.blkcmp i ra rb rc)) s (fun s => s.doBlk false .cmp i ra rb rc (.blkcmp i ra rb rc))

/-- BLKCRC (R179 to R181). -/
def execBlkcrc (i : Iss) (ra rb rc : Reg) (s : State) : Host.Outcome State Fault Refusal :=
  guarded (s.readyBlk i.pen.val (.blkcrc i ra rb rc)) s (fun s => s.doBlk false .crc i ra rb rc (.blkcrc i ra rb rc))

end Sys2Proof.Machine
end

