-- ==== Sys2Proof/Machine/Queues.lean ====
section
/-! DEFINITION. Queue pairs: fetching (R336), posting (R337), interrupts (R340), and completions of the feed's reads
(R326). -/

namespace Sys2Proof.Machine

/-! ### Bytes and words -/

/-- The bytes of a word, lowest address first. -/
def wordBytes (w : Word) : List Byte := (upTo 8).map (fun k => BitVec.ofNat 8 (w.toNat / 2 ^ (8 * k)))

/-- The number that bytes spell, lowest address first. -/
def leNat : List Byte → Nat
  | [] => 0
  | b :: t => b.toNat + 256 * leNat t

/-- Words of some bytes, the last one filled up with 0. The first argument bounds their number. -/
def bytesWords : Nat → List Byte → List Word
  | 0, _ => []
  | n + 1, l => if l = [] then [] else BitVec.ofNat 64 (leNat (l.take 8)) :: bytesWords n (l.drop 8)

/-- Bytes at page offsets, grouped by word: mask and payload. -/
def groupBytes (l : List (Nat × Byte)) : Table (Nat × Nat) :=
  l.foldl (fun t (e : Nat × Byte) =>
    let o := Table.get (fun _ => (0, 0)) t (e.1 / 8)
    Table.ins t (e.1 / 8) (o.1 ||| 2 ^ (e.1 % 8), setBits (BitVec.ofNat 64 o.2) (8 * (e.1 % 8)) 8 e.2.toNat |>.toNat)) []

/-- Write bytes into a page at CPA `base`; every word written is left RAW (R385). `false`: some word could not be
written. -/
def State.writeBytes (s : State) (base : Nat) (l : List (Nat × Byte)) : Bool × State :=
  (groupBytes l).foldl (fun (x : Bool × State) (e : Nat × Nat × Nat) =>
    let r := x.2.enginePartial (base + 8 * e.1) (BitVec.ofNat 8 e.2.1) (BitVec.ofNat 64 e.2.2)
    (x.1 && r.1, r.2)) (true, s)

/-! ### Fetching (R336) -/

/-- The open FETCH windows' channel sets. -/
def State.fetchSets (s : State) : List Nat :=
  (s.folio.wins.filter (fun w => w.wtype = 1)).map (fun w => w.arg % 65536)

/-- The TO_PART queues of a set, each once, in descriptor order: queues of the set's own partition (R330). -/
def State.setQueues (s : State) (k : Nat) : List Nat :=
  ((((s.channels k).filter (fun e => dType e.2 = 2)).map (fun e => dQueue e.2)).filter
    (fun q => (s.queue q).part = (s.chanSet k).part)).eraseDups

/-- Where the payload bytes of a queue's messages go: slot and page offset of each byte, in order (R336, R384). -/
def State.inPlaces (s : State) (k q : Nat) : List (Nat × Nat) :=
  ((s.channels k).filter (fun e => dType e.2 = 2 && dQueue e.2 = q)).flatMap (fun e =>
    (upTo (dCount e.2)).flatMap (fun i =>
      (upTo (dElem e.2)).map (fun b => (dSlot e.2, (elemAddr e.2 (dOffset e.2) i 0).toNat + b))))

/-- A queue can begin a message: enabled, TO_PART, entries waiting, a status entry free (R336). -/
def State.canFetch (s : State) (q : Nat) : Bool :=
  let c := s.queue q
  c.en && !c.toHost && c.msgs = [] && c.dHead ≠ c.dTail && c.sUsed < c.sSize

/-- The queue that the set serves next in round-robin order. -/
def State.nextQueue (s : State) (k : Nat) : Option Nat :=
  let qs := s.setQueues k
  let r := Table.get (fun _ => 0) s.feed.rr k
  (qs.drop r ++ qs.take r).find? s.canFetch

/-- A set has a message in progress. -/
def State.fetching (s : State) (k : Nat) : Bool := (s.setQueues k).any (fun q => (s.queue q).msgs ≠ [])

def State.modMsg (s : State) (q : Nat) (f : QMsg → QMsg) : State :=
  s.modQueue q (fun c => { c with msgs := match c.msgs with
    | [] => []
    | m :: t => f m :: t })

/-- The Max Read Request Size, up to 4,096 bytes (R322). -/
def State.readSize (s : State) : Nat := min 4096 (128 * 2 ^ s.hif.maxRead)

/-- The read that a FETCH message needs next: the rest of a POINTER buffer in steps of the Max Read Request Size, or the
next data entry; `none`: the ring has no further entry (R322, R332, R336). -/
def State.nextRead (s : State) (q : Nat) (m : QMsg) : Option (Nat × Nat) :=
  let c := s.queue q
  match m.ptr with
  | some (a, n) => some (a, min s.readSize n)
  | none =>
    let i := (m.first + m.posted) % 65536
    if (c.dTail + 65536 - m.first) % 65536 ≤ m.posted then none else some (c.dBase + i % c.dSize * 64, 64)

/-- A queue has traffic for the link now (R341): data entries that its ring can take, or a read to issue. -/
def State.hasTraffic (s : State) (q : Nat) : Bool :=
  let c := s.queue q
  c.en && s.linkOk &&
    (if c.toHost then (match c.msgs with
        | [] => false
        | m :: _ => m.bytes.isNone || m.bad ≠ 0 || c.dUsed < c.dSize)
     else match s.fetchSets.find? (fun k => (s.setQueues k).contains q) with
      | none => false
      | some k => match c.msgs with
        | m :: _ => !m.reading && (s.nextRead q m).isSome
        | [] => !s.fetching k && s.nextQueue k = some q)

/-- The queues that wait for the link besides `q`. -/
def State.rivals (s : State) (q : Nat) : List Nat := ((s.hif.qps.map (·.1)).filter s.hasTraffic).filter (· ≠ q)

/-- The first of some numbers above `last`, else the lowest. -/
def nextAfter (last : Nat) (l : List Nat) : Option Nat :=
  match (sortBy id l).find? (fun x => last < x) with
  | some x => some x
  | none => (sortBy id l).head?

/-- Bytes that queue `q` may send or ask for now (R341): all that it likes when no other queue waits; else its group's
share of the round, a unit at a time where queues of the group take turns; else one unit when no group with a share left
waits and it is its group's turn. -/
def State.grant (s : State) (q : Nat) : Nat :=
  let rivals := s.rivals q
  if rivals = [] then 262144 + 64
  else
    let g := (s.queue q).group
    let mates := rivals.filter (fun r => (s.queue r).group = g)
    let groups := (rivals.map (fun r => (s.queue r).group)).eraseDups
    if nextAfter (Table.get (fun _ => 0) s.hif.arb.turn g) (q :: mates) ≠ some q then 0
    else if 0 < s.shareLeft g then (if mates = [] then max 64 (s.shareLeft g) else 64)
    else if groups.any (fun h => h ≠ g && 0 < s.shareLeft h) then 0
    else if nextAfter s.hif.arb.last (g :: groups).eraseDups = some g then 64 else 0

/-- Queue `q` uses link time: its group is charged, and the turn passes on. -/
def State.useLink (s : State) (q bytes : Nat) : State :=
  let g := (s.queue q).group
  let s := s.chargeLink g bytes
  { s with hif := { s.hif with arb := { s.hif.arb with turn := Table.set (fun _ => 0) s.hif.arb.turn g q, last := g } } }

/-- Ask the host for what the message needs next, if the arbiter lets the queue (R341). -/
def State.issueRead (s : State) (q : Nat) : State :=
  match (s.queue q).msgs with
  | [] => s
  | m :: _ => match s.nextRead q m with
    | none => s
    | some (a, n) =>
      if s.grant q = 0 then s
      else
        let t := (s.emitTo a (Out.hostRead a n)).useLink q n
        t.modMsg q (fun m => { m with reading := true, asked := n, folio := s.folio.number })

/-- End a FETCH message: the data head moves past its entries and its status entry is written (R336). -/
def State.endFetch (s : State) (q status : Nat) : State :=
  match (s.queue q).msgs with
  | [] => s
  | m :: _ =>
    let h := (m.first + m.posted) % 65536
    let s := s.modQueue q (fun c => { c with msgs := [], dHead := h })
    s.postStatus q status m.len h m.posted m.msgSeq m.folio

/-- A FETCH message ends with FABRIC_ERROR (R20). -/
def State.fetchCrc (s : State) (q set : Nat) : State :=
  let s := s.modMsg q (fun m => { m with posted := if m.posted = 0 then 1 else m.posted })
  (s.endFetch q stFabricError).raise
    { cls := 0x17, detail := ((s.channels set).find? (fun e => dType e.2 = 2 && dQueue e.2 = q)).elim 0 (·.1) + stFabricError * 4096 }

/-- FETCH_MESSAGE takes a message or goes on with one. -/
def State.fetchMessage (s : State) (q : Nat) (crcError : Bool) : State :=
  match s.fetchSets.find? (fun k => (s.setQueues k).contains q) with
  | none => s
  | some k =>
    let c := s.queue q
    match c.msgs with
    | m :: _ => if m.reading then s else if crcError then s.fetchCrc q k else s.issueRead q
    | [] =>
      if s.fetching k || s.nextQueue k ≠ some q then s
      else
        let r := ((s.setQueues k).idxOf q + 1) % max 1 (s.setQueues k).length
        let s := { s with feed := { s.feed with rr := Table.set (fun _ => 0) s.feed.rr k r } }
        let s := s.modQueue q (fun c => { c with msgs := [{ first := c.dHead, desc := k, folio := s.folio.number }] })
        if crcError then s.fetchCrc q k else s.issueRead q

/-- FETCH_MESSAGE (R336). -/
def execFetchMessage (q : QpN) (crcError : Bool) (s : State) : Host.Outcome State Fault Refusal :=
  guarded (s.dev = .run && s.linkOk && (s.queue q.val).en) s (fun s => s.fetchMessage q.val crcError)

/-- Write payload bytes of a message into the INPUT drafts of its set (R81, R336). `false`: some word could not be
written. -/
def State.deliver (s : State) (q : Nat) (m : QMsg) (bs : List Byte) : Bool × State :=
  let places := ((s.inPlaces m.desc q).drop m.len).zip bs
  let slots := (places.map (fun e => e.1.1)).eraseDups
  let x := slots.foldl (fun (x : Bool × State) n =>
    if !x.2.draftReady n then (false, x.2)
    else
      let t := x.2.feedDraft n
      let t := t.modMsg q (fun m => { m with pages := if m.pages.contains n then m.pages else m.pages ++ [n] })
      let y := t.writeBytes (t.draftCpa n 0) ((places.filter (fun e => e.1.1 = n)).map (fun e => (e.1.2, e.2)))
      (x.1 && y.1, y.2)) (true, s)
  (x.1, x.2.modMsg q (fun m => { m with len := m.len + bs.length }))

/-- Payload bytes do not fit the message's bounds (R336). -/
def State.tooLong (s : State) (q : Nat) (m : QMsg) (n : Nat) : Bool :=
  262144 < m.len + n || (s.inPlaces m.desc q).length < m.len + n

/-- Go on with a message when its FETCH window is still open. -/
def State.goOn (s : State) (q : Nat) : State :=
  match (s.queue q).msgs with
  | [] => s
  | m :: _ => if s.fetchSets.contains m.desc && s.linkOk then s.issueRead q else s

/-- An entry of a message that is passed over has been read: the message ends with its status at LAST. -/
def State.passOver (s : State) (q status : Nat) (last : Bool) : State :=
  let s := s.modMsg q (fun m => { m with posted := m.posted + 1, bad := status })
  if last then s.endFetch q status else s.goOn q

/-- Reserved bits of a data entry header (R332). -/
def entryReserved (h : Word) : Bool := bitsOf h 9 7 ≠ 0 || bitsOf h 32 31 ≠ 0

/-- A POINTER entry is well formed (R332). -/
def pointerOk (ws : List Word) : Bool :=
  let h := ws.getD 0 0
  let a := (ws.getD 1 0).toNat
  let n := bitsOf (ws.getD 2 0) 0 32
  bitAt h 6 && bitAt h 7 && bitsOf h 0 6 = 0 && !entryReserved h && a % 8 = 0 && 1 ≤ n && n ≤ 262144
    && a + n ≤ 0xF00000000000 && bitsOf (ws.getD 2 0) 32 32 = 0 && (ws.drop 3).all (fun w => w = 0)

/-- A data entry has been read (R332, R336). -/
def State.takeEntry (s : State) (q : Nat) (m : QMsg) (ws : List Word) : State :=
  let h := ws.getD 0 0
  let first := bitAt h 6
  let last := bitAt h 7
  let n := bitsOf h 0 6
  let s := s.modMsg q (fun m => { m with reading := false, msgSeq := if m.posted = 0 then bitsOf h 16 16 else m.msgSeq })
  if m.posted ≠ 0 && first then s.endFetch q (if m.bad = 0 then stBadEntry else m.bad)
  else if m.bad ≠ 0 then s.passOver q m.bad last
  else if bitAt h 8 then
    if !pointerOk ws then s.passOver q stBadEntry true
    else if s.tooLong q m (bitsOf (ws.getD 2 0) 0 32) then s.passOver q stTooLong true
    else
      let p := ((ws.getD 1 0).toNat, bitsOf (ws.getD 2 0) 0 32)
      (s.modMsg q (fun m => { m with posted := m.posted + 1, ptr := some p })).goOn q
  else if n = 0 || 56 < n || entryReserved h || (m.posted = 0 && !first) then s.passOver q stBadEntry last
  else if s.tooLong q m n then s.passOver q stTooLong last
  else
    let x := s.deliver q m (((ws.drop 1).flatMap wordBytes).take n)
    let s := x.2.modMsg q (fun m => { m with posted := m.posted + 1 })
    if !x.1 then s.endFetch q stMemError else if last then s.endFetch q stOk else s.goOn q

/-- Part of a POINTER buffer has been read (R336). -/
def State.takeBuffer (s : State) (q : Nat) (m : QMsg) (a n : Nat) (ws : List Word) : State :=
  let k := min m.asked n
  let x := s.deliver q m ((ws.flatMap wordBytes).take k)
  let s := x.2.modMsg q (fun m => { m with reading := false, ptr := if k = n then none else some (a + k, n - k) })
  if !x.1 then s.endFetch q stMemError else if k = n then s.endFetch q stOk else s.goOn q

/-- A read that the feed issued fails (R326): HOST_ERROR. The entry whose read failed is passed. -/
def State.hostError (s : State) (q : Nat) : State :=
  let s := s.modMsg q (fun m => { m with posted := if m.ptr.isSome then m.posted else m.posted + 1 })
  (s.endFetch q stHostError).raise { cls := 0x63, detail := q }

/-- With ECRC check off, an ECRC that does not match is not seen (R322, R326). -/
def State.checkEcrc (s : State) : Completion → Completion
  | .ecrcBad ws => if s.hif.ecrcChk then .ecrcBad ws else .data ws
  | .data ws => .data ws
  | .poisoned => .poisoned
  | .unsupported => .unsupported
  | .abort => .abort

/-- A completion arrives for the read that a queue's message waits for. -/
def State.completion (s : State) (q : Nat) (c : Completion) : State :=
  match (s.queue q).msgs with
  | [] => s
  | m :: _ =>
    match c with
    | .data ws =>
      let ok (n : Nat) : Bool := ws.length = (n + 7) / 8
      (match m.ptr with
       | some (a, n) => if ok (min m.asked n) then s.takeBuffer q m a n ws else s
       | none => if ok 64 then s.takeEntry q m ws else s)
    | .poisoned => (s.noteAer .poisoned).hostError q
    | .unsupported | .abort => s.hostError q
    | .ecrcBad _ => (s.noteAer .ecrc).hostError q

/-- The feed waits for a read of a TO_PART queue. -/
def State.readPending (s : State) (q : Nat) : Bool := match (s.queue q).msgs with
  | m :: _ => m.reading && !(s.queue q).toHost
  | [] => false

/-- HOST_COMPLETION (R326): one that nothing waits for is dropped as unexpected. -/
def execHostCompletion (q : QpN) (c : Completion) (s : State) : Host.Outcome State Fault Refusal :=
  answer (if s.readPending q.val then s.completion q.val (s.checkEcrc c)
    else if s.hif.up && s.dev ≠ .off && s.dev ≠ .dormant then s.noteAer .unexpectedCompletion else s)

/-- COMPLETION_TIMEOUT (R326). -/
def execCompletionTimeout (q : QpN) (s : State) : Host.Outcome State Fault Refusal :=
  guarded (s.readPending q.val) s (fun s => (s.noteAer .completionTimeout).hostError q.val)

/-! ### Posting (R337) -/

/-- Data entry `j` of a message: header and payload (R332). -/
def postEntry (m : QMsg) (bs : List Byte) (j idx size : Nat) : List Word :=
  let part := (bs.drop (56 * j)).take 56
  let last := bs.length ≤ 56 * (j + 1)
  BitVec.ofNat 64 (part.length + bitN (j = 0) * 2 ^ 6 + bitN last * 2 ^ 7 + m.msgSeq % 65536 * 2 ^ 16
    + phaseOf idx size * 2 ^ 63) :: bytesWords 7 (part ++ List.replicate (56 - part.length) 0)

/-- End the first message of a TO_HOST queue with a status; codes of R338 have a status entry. -/
def State.endPost (s : State) (q status : Nat) : State :=
  match (s.queue q).msgs with
  | [] => s
  | m :: t =>
    let s := s.modQueue q (fun c => { c with msgs := t })
    let s := if status < 8 then
        s.postStatus q status (min m.len (56 * m.posted)) (if m.posted = 0 then (s.queue q).dTail else m.first) m.posted
          m.msgSeq m.folio
      else s
    s.setDescStatus m.desc status

/-- The page that a message reads has been committed again and its frame is being or has been rewritten (R78). -/
def State.overtaken (s : State) (m : QMsg) : Bool :=
  let v := s.vslot m.slot
  (v.commitFolio, v.commitCyc) ≠ m.commit && (v.st ≠ .fair || v.fairFrame = m.frame)

/-- Write as many data entries of the first message as the ring takes and the arbiter grants (R337, R341). -/
def State.postEntries (s : State) (q : Nat) (m : QMsg) (bs : List Byte) : State :=
  let c := s.queue q
  let total := (bs.length + 55) / 56
  let k := min (min (total - m.posted) (c.dSize - c.dUsed)) (s.grant q / 64)
  let s := s.forAll (upTo k) (fun j t =>
    let i := (c.dTail + j) % 65536
    let a := c.dBase + i % c.dSize * 64
    t.emitTo a (Out.hostWrite a (postEntry m bs (m.posted + j) i c.dSize)))
  let s := if k = 0 then s else s.useLink q (64 * k)
  let s := s.modQueue q (fun c => { c with dTail := (c.dTail + k) % 65536 })
  let s := s.modMsg q (fun m => { m with posted := m.posted + k, first := if m.posted = 0 then c.dTail else m.first })
  if m.posted + k = total then s.endPost q stOk else s

/-- A message gathers its bytes into the transmit buffer, or ends with the status that keeps it from it (R78, R387). -/
def State.gatherMsg (s : State) (m : QMsg) : QMsg × State :=
  if m.bytes.isSome || m.bad ≠ 0 then (m, s)
  else if s.overtaken m then
    ({ m with bad := stSuperseded },
     { s with folio := { s.folio with superseded := satInc 0xFFFFFFFF s.folio.superseded } })
  else
    let x := s.gather (s.desc m.desc) (m.frame * 4096) m.elems
    match x.1 with
    | .bad st => ({ m with bad := st }, x.2)
    | .ok bs _ => ({ m with bytes := some bs, len := bs.length }, x.2)

/-- Gather the messages of a queue in their order: gathering does not wait for ring space (R387). -/
def State.gatherMsgs : List QMsg → State → List QMsg × State
  | [], s => ([], s)
  | m :: t, s =>
    let x := s.gatherMsg m
    let y := State.gatherMsgs t x.2
    (x.1 :: y.1, y.2)

/-- Gather the messages of a queue, then write entries of the first one. -/
def State.postMessage (s : State) (q : Nat) (crcError : Bool) : State :=
  match (s.queue q).msgs with
  | [] => s
  | m0 :: _ =>
    if crcError && m0.bytes.isNone then s.endPost q stFabricError
    else
      let x := State.gatherMsgs (s.queue q).msgs s
      let s := x.2.modQueue q (fun c => { c with msgs := x.1 })
      match x.1 with
      | [] => s
      | m :: _ =>
        if m.bad ≠ 0 then s.endPost q m.bad
        else match m.bytes with
          | some bs => s.postEntries q m bs
          | none => s

/-- POST_MESSAGE (R337). -/
def execPostMessage (q : QpN) (crcError : Bool) (s : State) : Host.Outcome State Fault Refusal :=
  guarded (s.dev = .run && s.linkOk && (s.queue q.val).en && (s.queue q.val).toHost) s
    (fun s => s.postMessage q.val crcError)

/-! ### Interrupts (R340) -/

/-- A queue's interrupt is due: enough entries, or enough time since the first. -/
def State.irqDue (s : State) (q : Nat) : Bool :=
  let c := s.queue q
  c.vecEn && 0 < c.mod &&
    (max 1 c.modCount ≤ c.mod || (c.modTime ≠ 0 && c.modAt.toNat + 1000 * c.modTime ≤ s.aon.time.toNat))

/-- QUEUE_INTERRUPT (R340). -/
def execQueueInterrupt (q : QpN) (s : State) : Host.Outcome State Fault Refusal :=
  guarded (s.irqDue q.val) s (fun s =>
    let c := s.queue q.val
    ((s.modQueue q.val (fun c => { c with mod := 0 })).sendMsix c.vector).chargeLink c.group 4)

/-! ### Records that the feed writes into INPUT pages (R389, R390, R406) -/

/-- The oldest record may be written now: folios run and the tick that it waits for has been made. -/
def State.recordReady (s : State) : Bool :=
  match s.feed.rxq with
  | [] => false
  | r :: _ => s.dev = .run && s.folio.running && r.notBefore.toNat ≤ s.folio.tickTime.toNat

/-- Write the words of a record into the draft of its slot, from a byte offset on. -/
def State.putWords (s : State) (slot off : Nat) : List TWord → State
  | [] => s
  | w :: ws => (s.engineWrite (s.draftCpa slot off) w).putWords slot (off + 8) ws

/-- A frame record (R389): TIME, LEN with NEW and TRUNC, the header word, and the data placed by R384 with 0 beyond LEN.
`false`: some word could not be written (R287). -/
def State.putFrame (s : State) (di : Nat) (d : Desc) (time w8 w16 : Word) (data : List Byte) : Bool × State :=
  let new := min 255 (Table.get (fun _ => 0) s.feed.newCnt di + 1)
  let s := { s with feed := { s.feed with newCnt := Table.set (fun _ => 0) s.feed.newCnt di new } }
  let room := dCount d * dElem d
  let s := s.putWords (dSlot d) (dOffset d) [TWord.time time, TWord.uint (setBits w8 16 8 new), TWord.raw w16]
  let bytes := data.take room ++ List.replicate (room - data.length) 0
  let places := (upTo (dCount d)).flatMap (fun i =>
    (upTo (dElem d)).map (fun b => (elemAddr d (dOffset d + 24) i 0).toNat + b))
  s.writeBytes (s.draftCpa (dSlot d) 0) (places.zip bytes)

/-- A sample record (R406): record k at its place in the circular buffer, then UINT k + 1 at IDXOFF. A record whose words
are off an 8-byte boundary or outside the page writes nothing and ends with RANGE (log 132). -/
def State.putSample (s : State) (di : Nat) (d : Desc) (unit : Nat) (time : Word) (ws : List Word) : State :=
  let k := Table.get (fun _ => 0) s.feed.samples unit
  let a := (elemAddr d (dOffset d) k 0).toNat
  let s := { s with feed := { s.feed with samples := Table.set (fun _ => 0) s.feed.samples unit (k + 1) } }
  if a % 8 ≠ 0 || dIdxOff d % 8 ≠ 0 || 4096 < a + 8 * (ws.length + 1) then s.setDescStatus di stRange
  else
    (s.putWords (dSlot d) a (TWord.time time :: ws.map TWord.raw)).putWords (dSlot d) (dIdxOff d)
      [TWord.uint (BitVec.ofNat 64 (k + 1))]

/-- Write the oldest record into the draft of its INPUT page (R70, R81). A bank that is off (R26), a word that cannot be
written (R287) or a fabric CRC error (R20) ends the transfer with the descriptor's status (R338, R388). -/
def State.writeRecord (s : State) (r : RxRec) (crcError : Bool) : State :=
  let d := s.desc r.desc
  if crcError then s.setDescStatus r.desc stFabricError
  else if !s.draftReady (dSlot d) then s.setDescStatus r.desc stMemError
  else
    let s := s.feedDraft (dSlot d)
    match r.body with
    | .frame w8 w16 data =>
      let x := s.putFrame r.desc d r.time w8 w16 data
      if x.1 then x.2 else x.2.setDescStatus r.desc stMemError
    | .sample unit ws => s.putSample r.desc d unit r.time ws

/-- Take the oldest record off the feed's queue and write it. -/
def State.writeOldest (s : State) (crcError : Bool) : State :=
  match s.feed.rxq with
  | [] => s
  | r :: t => { s with feed := { s.feed with rxq := t } }.writeRecord r crcError

/-- The records that have to be written before the tick are written by then (R390): those of the closing folio that are not
deferred past it. -/
def State.flushRecords (s : State) : State :=
  s.forAll s.feed.rxq (fun _ u => if u.recordReady then u.writeOldest false else u)

end Sys2Proof.Machine
end

