-- ==== Sys2Proof/Machine/Tracing.lean ====
section
/-! DEFINITION. The tracing engine: what a TRACE window sends (R304 to R309, R312, R316), what received records do
(R310, R311, R317), and the loss of a partner (R313 to R315). -/

namespace Sys2Proof.Machine

/-- A fault event of the tracing engine (R413, R424). -/
def trcFault (cls seq : Nat) : Event := { cls := cls, utype := 8, detail := seq }

/-- A pairing is in force, and the partner has not detached (R315). -/
def State.paired (s : State) : Bool :=
  s.trc.mode ≠ 0 && !s.trc.offNext && (s.trc.st = .resync || s.trc.st = .current || s.trc.st = .stale)

/-- The part is a twin in CURRENT (R302, R316). -/
def State.isTwin (s : State) : Bool := s.paired && (s.trc.mode = 3 || s.trc.mode = 4) && s.trc.st = .current

/-- The part sends in TRACE windows as COLD_SEND does (R302). -/
def State.sendsWindows (s : State) : Bool := s.paired && (s.trc.mode = 1 || (s.trc.mode = 3 && s.trc.st ≠ .current))

/-- The part receives windows as COLD_RECV does (R302, R313). -/
def State.receives (s : State) : Bool := s.paired && (s.trc.mode = 2 || (s.trc.mode = 4 && s.trc.st ≠ .current))

/-- The follower of a twin stops its lines and its PUBLISH windows at once (R313, R317). -/
def State.stopFollower (s : State) : State :=
  let t := raised s.endRuns
  { t with folio := { t.folio with wins := t.folio.wins.filter (fun w => w.wtype ≠ 0) } }

/-- `TRC_STATUS.STATE` becomes STALE; a follower that was CURRENT runs no lines any more (R313, R320, R321). -/
def State.becomesStale (s : State) : State :=
  if s.trc.st = .stale then s
  else
    let follows := s.trc.mode = 4 && s.trc.st = .current
    let s := { s with trc := { s.trc with st := .stale, doneAt := none } }.trcEvent 0
    if follows then s.stopFollower else s

/-- The partner becomes STALE, with PARTNER_STALE (R311, R319). -/
def State.markStale (s : State) (seq : Nat) : State :=
  if s.trc.st = .stale then s else s.becomesStale.raise (trcFault 0x53 seq)

/-! ### Units -/

/-- The 512 words at a CPA as the tracing engine reads them; `none` when one could not be delivered (R286). -/
def State.readUnit (s : State) (base : Nat) : Option (List TWord) × State :=
  (upTo 512).foldl (fun (x : Option (List TWord) × State) k =>
    match x.1 with
    | none => x
    | some l => let r := x.2.engineRead (base + 8 * k); (r.1.map (fun w => l ++ [w]), r.2)) (some [], s)

/-- The tags of 16 words in one word (R306). -/
def tagWord (l : List TWord) : Word := BitVec.ofNat 64 (l.foldr (fun w n => w.tag.toNat + 16 * n) 0)

/-- The data part of a UNIT record (R306). -/
def unitData (l : List TWord) : List Word :=
  l.map (·.val) ++ (upTo 32).map (fun m => tagWord ((l.drop (16 * m)).take 16))

/-- The tagged words of a UNIT record's data part. -/
def unitWords (raw : List Word) : List TWord :=
  (upTo 512).map (fun i => ⟨BitVec.ofNat 4 (bitsOf (raw.getD (544 + i / 16) 0) (4 * (i % 16)) 4), raw.getD (32 + i) 0⟩)

/-- Entry `i` of the trace list, if it is in use (R321). -/
def TrcEntry.valid (e : TrcEntry) : Bool := bitAt e.data0 63
def TrcEntry.leaf (e : TrcEntry) : Nat := bitsOf e.data0 3 45 * 8
def TrcEntry.isSlot (e : TrcEntry) : Bool := bitsOf e.data0 48 2 = 1
def TrcEntry.slot (e : TrcEntry) : Nat := bitsOf e.data1 0 13
def TrcEntry.unit (e : TrcEntry) : Nat := bitsOf e.data1 12 36 * 4096

/-- Write a leaf word with its D bit set or cleared; a clear also clears every cached D2 (R262, R305). -/
def State.writeLeafD (s : State) (leaf : Nat) (w : TWord) (d : Bool) : State :=
  let s := s.engineWrite leaf ⟨w.tag, setBit w.val 5 d⟩
  if d then s else s.forAll (s.writeAt leaf) (fun a t => t.clearD2 a)

/-- The entries of the trace list that are in use, grouped by leaf word, in list order (R304, R309). -/
def leafGroups : List TrcEntry → List (Nat × List TrcEntry)
  | [] => []
  | e :: t => match leafGroups t with
    | (l, g) :: rest => if l = e.leaf then (l, e :: g) :: rest else (e.leaf, [e]) :: (l, g) :: rest
    | [] => [(e.leaf, [e])]

def State.traceEntries (s : State) : List TrcEntry := (s.trc.list.map (·.2)).filter TrcEntry.valid

/-! ### The sending window (R309) -/

/-- Cycles that a record occupies: P × k (R308, R324). `none`: nothing can be sent. -/
def State.recordCost (s : State) : Option Nat :=
  let k := traceK s.hif.speed s.hif.width
  if k = 0 || s.trc.pct = 0 || !s.linkOk then none else some ((6300 + s.trc.pct - 1) / s.trc.pct * k)

/-- A sending window that ends without END: it counts as incomplete and the partner is STALE (R309, R324). -/
def State.windowFails (s : State) : State :=
  let s := { s with trc := { s.trc with send := none, incompl := satInc 0xFFFF s.trc.incompl } }
  s.markStale s.trc.txSeq

/-- The unit of a trace list entry as a window takes it: a slot with its fair frame and COMMIT_SEQ at that moment
(R305). -/
def State.unitOf (s : State) (e : TrcEntry) : TrcUnit :=
  if e.isSlot then (let v := s.vslot e.slot; .slot e.slot e.leaf v.fairFrame v.seq.toNat) else .page e.unit

/-- How the dirty pass went: units taken, whether dirty units were left, whether every leaf word could be read. -/
structure PassOut where
  units : List TrcUnit
  inc   : Bool
  good  : Bool
  st    : State

/-- The dirty pass of a window with room for `n` units: D is cleared in each leaf word whose units are taken (R305,
R309). A leaf word that cannot be read fails the window (R22, R24, R26, R286). -/
def dirtyPass (n : Nat) : List (Nat × List TrcEntry) → List TrcUnit → State → PassOut
  | [], us, s => ⟨us, false, true, s⟩
  | (leaf, es) :: t, us, s =>
    let x := s.engineRead leaf
    match x.1 with
    | none => ⟨us, false, false, x.2⟩
    | some w =>
      if !bitAt w.val 5 then dirtyPass n t us x.2
      else if n < us.length + es.length then ⟨us, true, true, x.2⟩
      else dirtyPass n t (us ++ es.map x.2.unitOf) (x.2.writeLeafD leaf w false)

/-- The units of a sweep in their fixed numbering (R312). -/
def State.sweepUnits (s : State) : List TrcUnit :=
  let valid := s.vt.filter (fun e => e.2.valid)
  let frames := valid.flatMap (fun e => [e.2.frame0, e.2.frame1])
  (valid.filter (fun e => e.2.kind = .state || e.2.kind = .output)).map (fun e => TrcUnit.sweepSlot e.1)
    ++ ((upTo 8192 ++ (upTo 8192).map (fun i => 0x10000 + i)).filter (fun f => !frames.contains f)).map
        (fun f => TrcUnit.sweepPage (f * 4096))

/-- Words 3 and 4 of a unit's record, and the CPA from which it is read (R305, R307). A slot that committed during the
window is read from the frame that was fair when it was taken, or, once a first write has reached that frame, from its
fair copy (R78). -/
def State.unitSource (s : State) (w : TrcSend) : TrcUnit → Nat × Nat × Nat
  | .page cpa => (cpa, 0, cpa)
  | .slot n _ frame seq =>
    let v := s.vslot n
    if w.gone.contains n then (n + 2 ^ 48, v.seq.toNat, v.fairFrame * 4096) else (n + 2 ^ 48, seq, frame * 4096)
  | .sweepSlot n =>
    let v := s.vslot n
    (v.fairFrame * 4096 + 2 ^ 49, v.seq.toNat, v.fairFrame * 4096)
  | .sweepPage cpa => (cpa + 2 ^ 49, 0, cpa)

/-- Step 4 of R305: D is set again for a slot that committed while it was being read. `false`: the leaf word could not
be read. -/
def State.redirty (s : State) (w : TrcSend) : TrcUnit → Bool × State
  | .slot n leaf _ _ =>
    if !w.again.contains n then (true, s)
    else
      let x := s.engineRead leaf
      match x.1 with
      | none => (false, x.2)
      | some e => (true, x.2.writeLeafD leaf e true)
  | .page _ | .sweepSlot _ | .sweepPage _ => (true, s)

/-- Read one unit of the window in progress, with step 4 of R305: its words, if all could be read. -/
def State.takeUnit (s : State) (w : TrcSend) (u : TrcUnit) : Option (List TWord) × State :=
  let x := s.readUnit (s.unitSource w u).2.2
  if x.1.isNone then x
  else
    let y := x.2.redirty w u
    (if y.1 then x.1 else none, y.2)

/-- Read a unit and send its record; `false` where it cannot be read. -/
def State.sendUnit (s : State) (w : TrcSend) (u : TrcUnit) : Bool × State :=
  let c := s.unitSource w u
  let x := s.takeUnit w u
  match x.1 with
  | none => (false, x.2)
  | some l =>
    let t := x.2.sendRecord recUnit x.2.folio.number c.1 c.2.1 0 (unitData l)
    (true, { t with trc := { t.trc with units := satInc 0xFFFFFFFF t.trc.units } })

/-- Read the units of the window in progress and send their records; `false`: a word could not be read. -/
def State.sendUnits (w : TrcSend) : List TrcUnit → State → Bool × State
  | [], s => (true, s)
  | u :: us, s =>
    let x := s.sendUnit w u
    if x.1 then State.sendUnits w us x.2 else x

/-- END of a sending window, with what follows it (R309, R312). -/
def State.sendEnd (s : State) (sent : Nat) (inc resync done : Bool) : State :=
  let s := s.sendRecord recEnd s.folio.number 0 0
    (sent % 65536 + bitN inc * 2 ^ 16 + bitN resync * 2 ^ 17 + bitN done * 2 ^ 19) []
  let s := if done then { s with trc := { s.trc with doneAt := some s.folio.number } } else s
  if inc then s.windowFails else s

def TrcUnit.sweeps : TrcUnit → Bool
  | .sweepSlot _ | .sweepPage _ => true
  | .page _ | .slot _ _ _ _ => false

/-- The units and END of a sending window (R309): what it took when it opened is read and sent. -/
def State.finishSend (s : State) (w : TrcSend) : State :=
  let x := State.sendUnits w w.units s
  if !x.1 then x.2.windowFails
  else
    let t := { x.2 with trc := { x.2.trc with cursor := x.2.trc.cursor + (w.units.filter TrcUnit.sweeps).length } }
    t.sendEnd w.units.length w.inc w.resync w.done

/-- A sending TRACE window of length `len` opens (R309): BEGIN, and the units that the window carries, their D bits
cleared. A fabric CRC error falls on its first transfer (R20). -/
def State.sendWindow (s : State) (len : Nat) (crcError : Bool) : State :=
  match s.recordCost with
  | none => s.windowFails
  | some p =>
    if len / p < 2 then s.windowFails
    else
      let n := len / p - 2
      let s := s.sendRecord recBegin s.folio.number 0 0 0 []
      if crcError then (s.raise (trcFault 0x59 s.trc.txSeq)).windowFails
      else
        let d := dirtyPass n (leafGroups s.traceEntries) [] s
        if !d.good then d.st.windowFails
        else
          let resync := d.st.trc.st = .resync
          let sweep := if resync && !d.inc then ((d.st.sweepUnits).drop d.st.trc.cursor).take (n - d.units.length) else []
          let units := d.units ++ sweep
          let w : TrcSend := {
            digest := false, units := units, inc := d.inc, resync := resync
            done := resync && !d.inc && d.st.trc.cursor + sweep.length = d.st.sweepCount
            endAt := d.st.folioCyc + (units.length + 2) * p }
          { d.st with trc := { d.st.trc with send := some w } }

/-! ### Digests of a twin (R316, R317) -/

/-- The CRC of a frame: payload bytes, then tag bytes (R316). -/
def frameCrc (l : List TWord) : Nat := crc32c (unitData l)

/-- The digests compare equal entry by entry. -/
def firstDiffer : List Digest → List Digest → Option Nat
  | [], [] => none
  | a :: _, [] => some a.slot
  | [], b :: _ => some b.slot
  | a :: s, b :: t => if a = b then firstDiffer s t else some (min a.slot b.slot)

/-- The twins disagree: the follower stops its lines at once; both sides resynchronise (R317). -/
def State.disagree (s : State) (slot seq : Nat) : State :=
  ((s.trcEvent 4).raise { trcFault 0x58 seq with addr := (s.vslot slot).fairFrame * 4096 }).becomesStale

/-- Compare the digests of a folio once both are held (R317). -/
def State.compareDigests (s : State) : State :=
  match s.trc.mine, s.trc.theirs with
  | some a, some b =>
    if !a.done || !b.done then s
    else
      let seq := s.trc.rxSeq - 1
      let s := { s with trc := { s.trc with mine := none, theirs := none } }
      if a.incomplete || b.incomplete then s.raise (trcFault 0x57 seq)
      else if a.folio ≠ b.folio || a.slot ≠ b.slot then
        s.disagree ((a.list ++ b.list).head?.elim 0 (·.slot)) seq
      else match firstDiffer a.list b.list with
        | some n => s.disagree n seq
        | none => s
  | _, _ => s

/-- How many dirty slots a digest window of length `len` takes: reads cost 63 cyc each, DIGEST records `p` each. -/
def digestRoom (len p : Nat) : Nat → Nat
  | 0 => 0
  | u + 1 => if 63 * (u + 1) + p * ((u + 1) / 256 + 1) ≤ len then u + 1 else digestRoom len p u

/-- The dirty slots of the trace list, in order, each with its leaf word; `none`: a leaf word could not be read. -/
def dirtySlots : List TrcEntry → List (TrcEntry × TWord) → State → Option (List (TrcEntry × TWord)) × State
  | [], l, s => (some l, s)
  | e :: t, l, s =>
    let x := s.engineRead e.leaf
    match x.1 with
    | none => (none, x.2)
    | some w => dirtySlots t (if bitAt w.val 5 then l ++ [(e, w)] else l) x.2

/-- Read a slot and form its digest; none where it cannot be read. -/
def State.digestUnit (s : State) (w : TrcSend) (u : TrcUnit) : Option Digest × State :=
  let c := s.unitSource w u
  let x := s.takeUnit w u
  (x.1.map (fun ws => ⟨c.1 % 2 ^ 48, c.2.1, frameCrc ws⟩), x.2)

/-- Read the frames that a digest window took (R305, R316), in the order taken. -/
def State.digestUnits (w : TrcSend) : List TrcUnit → List Digest → State → Bool × List Digest × State
  | [], l, s => (true, l, s)
  | u :: us, l, s =>
    let x := s.digestUnit w u
    if x.1.isSome then State.digestUnits w us (l ++ x.1.toList) x.2 else (false, l, x.2)

/-- The data words of one DIGEST record. -/
def digestData (l : List Digest) : List Word :=
  let ws := l.flatMap (fun d => [BitVec.ofNat 64 (d.slot + d.seq * 2 ^ 16 + d.crc * 2 ^ 32), 0])
  ws ++ List.replicate (512 - ws.length) 0

/-- Send the DIGEST records of a folio; the one with fewer than 256 entries is the last. -/
def State.sendDigests (s : State) (inc : Bool) : Nat → List Digest → State
  | 0, _ => s
  | n + 1, l =>
    let part := l.take 256
    let last := l.length < 256
    let t := s.sendRecord recDigest s.folio.number 0 0 (part.length + bitN (last && inc) * 2 ^ 16) (digestData part)
    if last then t else t.sendDigests inc n (l.drop 256)

/-- The DIGEST records of a digest window: what it took when it opened is read and sent, and compared (R316, R317). -/
def State.finishDigests (s : State) (w : TrcSend) : State :=
  let x := State.digestUnits w w.units [] s
  if !x.1 then x.2.2.windowFails
  else
    let l := sortBy (·.slot) x.2.1
    let t := x.2.2.sendDigests w.inc 65 l
    let m : DigestSet := ⟨t.folio.number, t.folio.actSlot, true, w.inc, l⟩
    { t with trc := { t.trc with mine := some m } }.compareDigests

/-- The TRACE window of a twin in CURRENT opens (R316): the dirty slots that it has room for are taken, their D bits
cleared. -/
def State.digestWindow (s : State) (len : Nat) (crcError : Bool) : State :=
  match s.recordCost with
  | none => s.windowFails
  | some p =>
    if len < p then s.windowFails
    else if crcError then (s.raise (trcFault 0x59 s.trc.txSeq)).windowFails
    else
      let x := dirtySlots (s.traceEntries.filter TrcEntry.isSlot) [] s
      match x.1 with
      | none => x.2.windowFails
      | some dirty =>
        let part := dirty.take (digestRoom len p dirty.length)
        let units := part.map (fun e => x.2.unitOf e.1)
        let s := x.2.forAll part (fun e t => t.writeLeafD e.1.leaf e.2 false)
        let w : TrcSend := {
          digest := true, units := units, inc := part.length < dirty.length, resync := false, done := false
          endAt := s.folioCyc + 63 * units.length + p * (units.length / 256 + 1) }
        { s with trc := { s.trc with send := some w } }

/-- The rate factor with which the window begins (R324). -/
def State.noteRate (s : State) : State := { s with hif := { s.hif with winK := some (traceK s.hif.speed s.hif.width) } }

/-- What a TRACE window does when it opens (R302, R309, R314, R316). -/
def State.traceWindow (s : State) (len : Nat) (crcError : Bool) : State :=
  if !s.paired then s
  else
    let s := if s.trc.got = some s.folio.number then s
      else { s with trc := { s.trc with await := s.trc.await ++ [s.folio.number] } }
    if s.sendsWindows then s.noteRate.sendWindow len crcError
    else if s.isTwin then s.noteRate.digestWindow len crcError else s

/-- The window in progress reads and sends what it took. -/
def State.finishWindow (s : State) (w : TrcSend) : State :=
  let s := { s with trc := { s.trc with send := none } }
  if w.digest then s.finishDigests w else s.finishSend w

/-- The last record of the window in progress is out by now (R308). -/
def State.sendDue (s : State) : State :=
  match s.trc.send with
  | some w => if w.endAt ≤ s.folioCyc then s.finishWindow w else s
  | none => s

/-- The window in progress is cut short: it stays without END (R309), unless its last record was out before. -/
def State.breakWindow (s : State) : State :=
  let s := s.sendDue
  if s.trc.send.isSome then s.windowFails else s

/-! ### The end of a TRACE window -/

def State.dropWaiting (s : State) (w : Waiting) : State :=
  { s with huv := { s.huv with waiting := s.huv.waiting.filter (· ≠ w) } }

/-- A detach by the sender, or by a twin, takes effect at the end of its TRACE window (R318, R375). -/
def State.detachAtEnd (s : State) : State :=
  match s.huv.waiting.find? (fun w => match w with
      | .detach _ _ => true
      | .activate _ _ | .quiesce _ _ | .dormant _ _ | .debug _ _ | .takeover _ _ | .power _ => false) with
  | some (.detach m c) =>
    if s.sendsWindows || s.isTwin then
      let s := s.farewell 1
      let s := { s with trc := { s.trc with mode := 0, st := .detached, stopped := false, await := [], watch := [] } }
      (s.dropWaiting (.detach m c)).finish m 0
    else s
  | some (.activate _ _) | some (.quiesce _ _) | some (.dormant _ _) | some (.debug _ _) | some (.takeover _ _) | some (.power _) => s
  | none => s

/-- A TRACE window ends, by its length or by a tick that cuts it short (R50, R309, R314, R318, R324). -/
def State.traceEnds (s : State) : State :=
  ((raised s.breakWindow.rateCheck).traceWindowEnd).detachAtEnd

/-- A tick ends the TRACE windows that are still open (R50). -/
def State.closeTraces (s : State) : State :=
  s.forAll (s.folio.wins.filter (fun w => w.wtype = 2)) (fun _ t => t.traceEnds)

/-! ### Loss of the partner (R314, R315) -/

/-- The part declares its partner LOST. -/
def State.declareLost (s : State) (seq : Nat) : State :=
  let recv := s.receives
  let cur := s.trc.st = .current
  let t := { s with trc := { s.trc with
    st := .lost, watch := [], await := [], winOpen := false, winSlots := [], winUnits := 0, doneAt := none,
    mine := none, theirs := none, send := none } }
  let t := (t.trcEvent 2).raise (trcFault 0x52 seq)
  if !recv then t
  else if cur then
    ({ t with trc := { t.trc with takeAt := some (t.cyc + 4096) } }.trcEvent 3).raise (trcFault 0x54 seq)
  else { t with trc := { t.trc with stopped := true } }.raise (trcFault 0x55 seq)

/-- TRACE_WATCHDOG (R314). -/
def execTraceWatchdog (s : State) : Host.Outcome State Fault Refusal :=
  guarded (s.paired && s.trc.watch.any (fun (w : Word × Nat) => w.2 ≤ s.cyc)) s (fun s => s.declareLost (s.trc.rxSeq - 1))

/-! ### Received records (R310, R311) -/

/-- The fields of a record's header (R307). -/
def rawType (r : List Word) : Nat := bitsOf (r.getD 0 0) 16 8
def rawSeq (r : List Word) : Nat := bitsOf (r.getD 0 0) 32 32
def rawFolio (r : List Word) : Word := r.getD 1 0
def rawSlot (r : List Word) : Nat := bitsOf (r.getD 2 0) 0 4
def rawDebug (r : List Word) : Bool := bitAt (r.getD 2 0) 4
def rawCfg (r : List Word) : Nat := bitsOf (r.getD 2 0) 32 32
def rawCount (r : List Word) : Nat := bitsOf (r.getD 6 0) 0 16

/-- Words of a record of a type, header included (R306). -/
def recordWords (type : Nat) : Nat := if type = recUnit then 576 else if type = recDigest then 544 else 32

/-- A record's MAGIC, VERSION, TYPE and HDR_CRC hold. -/
def headerOk (type : Nat) (r : List Word) : Bool :=
  bitsOf (r.getD 0 0) 0 16 = 0x5452 && bitsOf (r.getD 0 0) 24 8 = 1 && rawType r = type
    && (r.getD 31 0).toNat = crc32c ((upTo 31).map (fun i => r.getD i 0))

/-- DATA_CRC holds over the rest of the record. -/
def dataOk (type : Nat) (r : List Word) : Bool :=
  bitsOf (r.getD 5 0) 0 32 = crc32c ((upTo (recordWords type - 32)).map (fun i => r.getD (32 + i) 0))

/-- The open window is discarded: written slot frames are abandoned (R311). -/
def State.discardWindow (s : State) : State :=
  { s with trc := { s.trc with winOpen := false, winSlots := [], winUnits := 0 } }

/-- A failed check at a receiver: the window is discarded and resynchronisation asked for (R311). -/
def State.recordFails (s : State) (cls seq : Nat) : State :=
  let s := s.discardWindow
  let s := s.sendRecord recAck s.folio.number 0 0 (2 ^ 18) []
  ((if cls = 0x50 then s.trcEvent 5 else s).raise (trcFault cls seq)).becomesStale

/-- Check a record and, if it passes, apply it (R310, R311). -/
def State.record (s : State) (type : Nat) (r : List Word) (apply : State → State) : State :=
  if !s.paired || s.trc.ignore || s.dev = .safe || s.dev = .debug || !s.hif.up then s
  else
    let s := s.sendDue
    let hdr := headerOk type r
    let seq := if hdr then rawSeq r else s.trc.rxSeq
    let inOrder := hdr && rawSeq r = s.trc.rxSeq
    let s := { s with trc := { s.trc with
      rxSeq := (seq + 1) % 2 ^ 32, peerCfg := if hdr then rawCfg r else s.trc.peerCfg,
      peerDebug := s.trc.peerDebug || (hdr && rawDebug r) } }
    if !inOrder then s.recordFails 0x50 seq
    else if rawCfg r ≠ s.cfgDigest then
      let s := s.recordFails 0x51 seq
      { s with trc := { s.trc with ignore := true } }
    else if rawDebug r then s.declareLost seq
    else if !dataOk type r then s.recordFails 0x50 seq
    else apply s

/-- BEGIN opens the window; one left open is discarded. -/
def State.applyBegin (s : State) : State :=
  if !s.receives then s
  else { s with trc := { s.trc with winOpen := true, winSlots := [], winUnits := 0 } }

/-- The slot that a UNIT record concerns, if it concerns one: by number, or by one of its frames (R307, R310). -/
def State.unitSlot (s : State) (r : List Word) : Option Nat :=
  let w := r.getD 3 0
  if bitsOf w 48 2 = 1 then some (bitsOf w 0 13)
  else if bitsOf w 48 2 = 2 then
    let f := bitsOf w 12 36
    (s.vt.find? (fun e => e.2.valid && (e.2.kind = .state || e.2.kind = .output) && (e.2.frame0 = f || e.2.frame1 = f))).map (·.1)
  else none

/-- Every copy of the unit at a CPA lies in a bank that accepts writes (R22, R26, R105). -/
def State.unitReady (s : State) (base : Nat) : Bool := (s.writeAt base).all s.bankReady

/-- UNIT is written at its CPA, or into the frame of its slot that is not the fair copy (R310). A fabric CRC error on the
writes (R20), or a place that no bank in service answers (R22, R26), fails the window. -/
def State.applyUnit (s : State) (r : List Word) (crcError : Bool) : State :=
  if !s.trc.winOpen then s
  else if crcError then s.recordFails 0x59 (rawSeq r)
  else
    let n := s.unitSlot r
    let base := match n with
      | some k => (s.vslot k).draftFrame * 4096
      | none => bitsOf (r.getD 3 0) 12 36 * 4096
    if !s.unitReady base then s.recordFails 0x50 (rawSeq r)
    else
      let t := (unitWords r).zipIdx.foldl (fun (t : State) (e : TWord × Nat) => t.engineWrite (base + 8 * e.2) e.1) s
      { t with trc := { t.trc with
        units := satInc 0xFFFFFFFF t.trc.units, winUnits := t.trc.winUnits + 1,
        winSlots := match n with
          | some k => t.trc.winSlots.filter (fun (e : Nat × Nat) => e.1 ≠ k) ++ [(k, bitsOf (r.getD 4 0) 0 16)]
          | none => t.trc.winSlots } }

/-- The answer for folio `f` has come: its watchdog stops (R314). -/
def State.gotFolio (s : State) (f : Word) : State :=
  { s with trc := { s.trc with
    got := some f, await := s.trc.await.filter (· ≠ f), watch := s.trc.watch.filter (fun (w : Word × Nat) => w.1 ≠ f) } }

/-- The receiver is CURRENT from an END with RESYNC_DONE; a follower starts its lines later (R312, R313). -/
def State.becomeCurrent (s : State) : State :=
  let s := { s with trc := { s.trc with st := .current } }.trcEvent 1
  if s.trc.mode = 4 then { s with trc := { s.trc with stopped := true, startAt := some (s.cyc + 4096) } } else s

/-- END applied or acknowledged for folio `f` (R314, R320). -/
def State.answered (s : State) (f : Word) : State := { s.gotFolio f with trc := { (s.gotFolio f).trc with lastEnd := f } }

/-- END: every slot written in the window takes its new fair copy at once (R310, R311). -/
def State.applyEnd (s : State) (r : List Word) : State :=
  if !s.trc.winOpen then s
  else if bitAt (r.getD 6 0) 16 || rawCount r ≠ s.trc.winUnits then
    let s := if bitAt (r.getD 6 0) 16 then { s with trc := { s.trc with incompl := satInc 0xFFFF s.trc.incompl } } else s
    s.recordFails 0x53 (rawSeq r)
  else
    let s := s.forAll s.trc.winSlots (fun (e : Nat × Nat) t => (t.modVslot e.1 (fun v => v.swap e.2)).rewriteTlb e.1)
    let s := (s.discardWindow).answered (rawFolio r)
    let s := { s with trc := { s.trc with adopt := some (rawFolio r, rawSlot r) } }
    let s := s.sendRecord recAck (rawFolio r) 0 0 0 []
    if bitAt (r.getD 6 0) 19 then s.becomeCurrent else s

/-- ACK at a sender (R311, R312, R314). -/
def State.applyAck (s : State) (r : List Word) : State :=
  if !s.sendsWindows && !s.isTwin then s
  else if bitAt (r.getD 6 0) 18 then (s.gotFolio (rawFolio r)).markStale (rawSeq r)
  else if s.isTwin then s
  else
    let done := s.trc.doneAt = some (rawFolio r)
    let s := s.answered (rawFolio r)
    if done then { s with trc := { s.trc with doneAt := none, st := .current } }.trcEvent 1 else s

/-- The entries of a DIGEST record (R316). -/
def rawDigests (r : List Word) : List Digest :=
  (upTo (min 256 (rawCount r))).map (fun i =>
    let w := r.getD (32 + 2 * i) 0
    ⟨bitsOf w 0 16, bitsOf w 16 16, bitsOf w 32 32⟩)

/-- DIGEST at a twin (R316, R317). -/
def State.applyDigest (s : State) (r : List Word) : State :=
  if !s.isTwin then s
  else
    let f := rawFolio r
    let old := match s.trc.theirs with
      | some d => if d.folio = f && !d.done then d.list else []
      | none => []
    let set : DigestSet := ⟨f, rawSlot r, rawCount r < 256, bitAt (r.getD 6 0) 16, old ++ rawDigests r⟩
    { s.gotFolio f with trc := { (s.gotFolio f).trc with theirs := some set } }.compareDigests

/-- FAREWELL (R314, R315): DETACH ends the pairing at the next tick, any other reason loses the partner. -/
def State.applyFarewell (s : State) (r : List Word) : State :=
  if bitsOf (r.getD 6 0) 24 8 = 1 then
    let s := s.discardWindow
    { s with trc := { s.trc with offNext := true, await := [], watch := [], send := none } }.raise (trcFault 0x56 (rawSeq r))
  else s.declareLost (rawSeq r)

/-- RECORD_BEGIN (R310). -/
def execRecordBegin (raw : List Word) (s : State) : Host.Outcome State Fault Refusal :=
  answer (s.record recBegin raw State.applyBegin)

/-- RECORD_UNIT (R310). -/
def execRecordUnit (raw : List Word) (crcError : Bool) (s : State) : Host.Outcome State Fault Refusal :=
  answer (s.record recUnit raw (fun t => t.applyUnit raw crcError))

/-- RECORD_END (R310, R311). -/
def execRecordEnd (raw : List Word) (s : State) : Host.Outcome State Fault Refusal :=
  answer (s.record recEnd raw (fun t => t.applyEnd raw))

/-- RECORD_ACK (R311). -/
def execRecordAck (raw : List Word) (s : State) : Host.Outcome State Fault Refusal :=
  answer (s.record recAck raw (fun t => t.applyAck raw))

/-- RECORD_DIGEST (R316, R317). -/
def execRecordDigest (raw : List Word) (s : State) : Host.Outcome State Fault Refusal :=
  answer (s.record recDigest raw (fun t => t.applyDigest raw))

/-- RECORD_FAREWELL (R315). -/
def execRecordFarewell (raw : List Word) (s : State) : Host.Outcome State Fault Refusal :=
  answer (s.record recFarewell raw (fun t => t.applyFarewell raw))

end Sys2Proof.Machine
end

