-- ==== Sys2Proof/Machine/FolioEngine.lean ====
section
/-! DEFINITION. The folio engine: starts, budget ends and commits of runs, and the folio tick with the boundary actions of
R51. -/

namespace Sys2Proof.Machine

/-! ### Starting runs -/

/-- The line-start status word of a partition (R133, R244). -/
def State.startStatus (s : State) (part : Nat) : Word :=
  BitVec.ofNat 64 (0x100 + bitsOf (s.pxWord part 0) 48 3 * 16)

/-- The implemented bits of the seal key register (R270). -/
def sealMask : Word := 0x7777777777777777

/-- The registers at the first cycle of a run (R43). -/
def State.startRegs (s : State) (line task : Nat) : Table TWord :=
  [(1, TWord.uint (BitVec.ofNat 64 task)), (2, TWord.uint (BitVec.ofNat 64 line)), (3, TWord.time s.folio.tickTime),
   (4, TWord.uint s.folio.number)]

/-- A pen at the first cycle of a run (R43, R132, R230, R243). -/
def State.startPen (s : State) (l : RLine) (r : Run) (p : Pen) : Pen :=
  { p with
    st := .run,
    regs := s.startRegs r.line l.task, spTask := TWord.uninit, spExec := TWord.uninit,
    status := s.startStatus l.part, pc := s.pxWord l.part 3, sealed := s.ptWord l.part 2 &&& sealMask,
    late := [], mul := none, pair := none, hold := .none, fbuf := none, noBorrow := false, blkDone := 0, sb := [], acks := 0, ipiPend := 0, syn := 0, synAddr := 0,
    run := some r, ending := if (p.run.bind (·.linend)).isSome then p.run else p.ending,
    tlb := p.tlb.filter (fun e => e.2.locked), lfsr := BitVec.ofNat 16 l.seed }

/-- Apply one handover entry for a run of line pen `linePen` on pen `runPen` (R45, R46). -/
def State.applyHo (s : State) (linePen runPen : Nat) (h : Handover) : State :=
  let q := if h.pen = linePen then runPen else h.pen
  s.modRsv h.rsv (fun r =>
    if h.action = 0 then { r with owner := runPen }
    else if h.action = 1 then { r with owner := q }
    else if h.action = 2 then { r with grant := setBit r.grant q true }
    else { r with grant := setBit r.grant q false })

/-- Apply a line's handover list for its run (R45, R46). -/
def State.applyHandovers (s : State) (l : RLine) (runPen : Nat) : State :=
  s.forAll (s.handovers s.active l) (fun h t => t.applyHo l.pen runPen h)

/-- The pen can take a run now: in service, and idle or past LINEND of its last run (R87). -/
def State.penFree (s : State) (p : Nat) : Bool :=
  let x := s.pen p
  x.st = .idle || (x.st = .run && (x.run.bind (·.linend)).isSome && x.ending = none)

/-- Apply the handover list of a run, once (R51, step 4). -/
def State.handOnce (s : State) (i : Nat) (recovery : Bool) (l : RLine) (runPen : Nat) : State :=
  if s.folio.handed.contains (i, recovery) then s
  else
    let s := s.applyHandovers l runPen
    { s with folio := { s.folio with handed := (i, recovery) :: s.folio.handed } }

/-- Start a DUPLEX run on a pen: handovers first, then the run in the state of R43 (R51). -/
def State.startOn (s : State) (i : Nat) (l : RLine) (p start budget : Nat) (recovery : Bool) : State :=
  let s := s.handOnce i recovery l p
  let r : Run := { line := i, part := l.part, home := p, start := start, budget := budget, winEnd := start + budget,
                   recovery := recovery, mode := .duplex }
  s.modPen p (s.startPen l r)

/-- A LIGATURE run of the pair of even pen `e` starts JOINED. -/
def State.joins (s : State) (e : Nat) : Bool :=
  s.penFree e && s.penFree (oddOf e) && (s.mirrorOf e = .mirrored || !s.hasMirror e)

/-- Pen `p` can take a LIGATURE run SOLO. -/
def State.solos (s : State) (p : Nat) : Bool := s.penFree p && (!s.hasMirror p || s.copyValid p)

/-- Start a LIGATURE run: JOINED with both pens in service, SOLO with one, LIGATURE_LOST with none (R107). -/
def State.startLigature (s : State) (i : Nat) (l : RLine) : State :=
  let e := evenOf l.pen
  let o := oddOf l.pen
  let r : Run := { line := i, part := l.part, home := e, start := l.start, budget := l.budget,
                   winEnd := l.start + l.budget, mode := .joined }
  let start (t : State) (r : Run) (p : Nat) : State := t.modPen p (fun x => { t.startPen l r x with ligEnd := r.winEnd })
  if s.joins e then
    let s := s.handOnce i false l e
    start (start s r e) r o
  else
    let solo (p : Nat) : State :=
      let s := s.handOnce i false l e
      let s := s.soleFor p
      let s := if s.hasMirror p then s.modPen (otherOf p) (fun x => { x with stale := true }) else s
      start s { r with mode := .solo } p
    if s.solos e then solo e else if s.solos o then solo o else s.raise (lineEvent 0x13 i)

/-- The part runs lines: in RUN, and not as a receiver of a partner's state (R302, R313). -/
def State.runsLines (s : State) : Bool :=
  s.dev = .run &&
    (match s.trc.mode with
     | 2 => false
     | 4 => (s.trc.st = .current || s.trc.st = .lost) && !s.trc.stopped
     | _ => true)

/-- A line is due to start its run at this cycle under the current placement, and has not begun in this folio. -/
def State.startDue (s : State) (i : Nat) : Bool :=
  match s.line i with
  | none => false
  | some l =>
    let p := s.placeOf i l
    s.runsLines && s.folio.running && l.isTask && !l.isRes && p.how ≠ .shed && !s.folio.shed.contains i &&
      p.start = s.folioCyc && !s.folio.spent.contains i

/-- The pen of the line cannot take it: it runs at its recovery column, or has no run (R54, R87). -/
def State.toColumn (s : State) (i : Nat) (p : Placed) : State :=
  if p.recValid then { s with folio := { s.folio with armed := s.folio.armed ++ [⟨i, p.recPen, p.recStart⟩] } }
  else s.raise (lineEvent 0x11 i)

/-! ### Budget end and commit -/

/-- The pens that execute a run of a line. -/
def State.pensOf (s : State) (i : Nat) : List Nat :=
  (upTo 64).filter (fun p => match (s.pen p).run with
    | some r => r.line = i && (s.pen p).st = .run
    | none => false)

/-- The run on pen `p` is LATE: it is killed, counted and reported (R53). -/
def State.lateRun (s : State) (p line : Nat) : State :=
  let s := s.killRun p
  let s := { s with folio := { s.folio with lateCnt := satInc 0xFFFFFFFF s.folio.lateCnt,
                                            event := s.folio.event ||| 0x10 } }
  s.raise (lineEvent 0x10 line)

/-- A run that has not issued LINEND by its budget end is LATE (R52, R53). -/
def State.budgetEnd (s : State) (i : Nat) : State :=
  let late := (s.pensOf i).filter (fun p => match (s.pen p).run with
    | some r => r.linend = none && r.winEnd = s.folioCyc
    | none => false)
  match late with
  | [] => s
  | p :: _ => s.lateRun p i

/-- RUN_BUDGET_END (R52, R53, R111). -/
def execRunBudgetEnd (line : LineN) (s : State) : Host.Outcome State Fault Refusal :=
  guarded s.folio.running s (fun s => s.budgetEnd line.val)

/-- The commit point of pen `p`'s ended run is this cycle (R75). -/
def State.commitDue (s : State) (p : Nat) : Bool :=
  let at_ (r : Option Run) : Bool := match r with
    | some r => r.linend = some (s.folioCyc - 4) && 4 ≤ s.folioCyc && !(r.mode = .joined && p % 2 = 1)
    | none => false
  s.folio.running && (if (s.pen p).ending.isSome then at_ (s.pen p).ending else (s.pen p).st = .run && at_ (s.pen p).run)

/-- COMMIT (R75). -/
def execCommit (p : PenN) (s : State) : Host.Outcome State Fault Refusal :=
  guarded (s.commitDue p.val) s (fun s => raised (s.commitPen p.val))

/-! ### The tick -/

/-- The owner that a tick gives a reservoir: PIN_OWNER while it is pinned, in the state that PIN had 4,096 cyc before the
tick (R279, R371). -/
def tickOwner (now : Nat) (x : Rsv) (init : Nat) : Nat :=
  let p := if x.pinAt + 4096 ≤ now then (x.pin, x.pinOwner) else x.pinOld
  if p.1 then p.2 else init

/-- Reset owners and grants of every reservoir from the active ruling (R46, R279). -/
def State.resetOwners (s : State) : State :=
  let h := s.active.header
  s.forAll (upTo 32) (fun r t => t.modRsv r (fun x =>
    { x with owner := tickOwner s.cyc x (initOwner h r), grant := initGrant h r }))

/-- Pages that unfinished feed messages are writing (R81). -/
def State.heldPages (s : State) : List Nat := s.hif.qps.flatMap (fun e => e.2.msgs.flatMap (fun m => m.pages))

/-- Discard a draft, as an update of the state. -/
def State.discardDraftOf (n : Nat) (s : State) : State := s.discardDraft n

/-- The input snapshot (R81). Drafts of messages that link loss ended are discarded first (R342). -/
def State.snapshot (s : State) : State :=
  let held := s.heldPages
  let s := s.forAll s.feed.dropNext State.discardDraftOf
  let s := { s with feed := { s.feed with dropNext := [] } }
  s.forAll (s.vt.map (·.1)) (fun n t =>
    let v := t.vslot n
    if v.kind = .input && v.valid then
      if v.st = .drafted && held.contains n then
        let t := t.modVslot n (fun v => { v with held := true })
        { t with folio := { t.folio with snapHeld := satInc 0xFFFFFFFF t.folio.snapHeld } }
      else if v.st = .drafted then
        (t.modVslot n (fun v => { v.swap t.folio16 with held := false })).rewriteTlb n
      else t.modVslot n (fun v => { v with held := false })
    else t)

/-- A channel whose records carry NEW: ETH_IN, TRDP_IN or CAN_IN (R389). -/
def dHasNew (d : Desc) : Bool := dType d = 4 || dType d = 6 || dType d = 8

/-- NEW = 0 in the draft of a channel whose last snapshot showed a count and which has had no record since; the earlier
record is carried over (R70, R389). -/
def State.clearNew (di : Nat) (s : State) : State :=
  let d := s.desc di
  if !dHasNew d || Table.get (fun _ => 0) s.feed.newCnt di ≠ 0 || !s.draftReady (dSlot d) then s
  else
    let s := s.feedDraft (dSlot d)
    let a := s.draftCpa (dSlot d) (dOffset d + 8)
    let r := s.engineRead a
    match r.1 with
    | some w => r.2.engineWrite a (TWord.uint (setBits w.val 16 8 0))
    | none => r.2

/-- The counts of NEW after a snapshot: a page that was held keeps both counts, a draft that was discarded loses the new one
(R81, R342, R389). -/
def State.turnNew (s : State) (held gone : List Nat) : State :=
  let slot (e : Nat × Nat) : Nat := dSlot (s.desc e.1)
  let new := s.feed.newCnt.filter (fun e => !held.contains (slot e) && !gone.contains (slot e))
  { s with feed := { s.feed with
      newCnt := s.feed.newCnt.filter (fun e => held.contains (slot e)),
      shown := new.foldl (fun t e => Table.set (fun _ => 0) t e.1 e.2)
        (s.feed.shown.filter (fun e => held.contains (slot e) || gone.contains (slot e))) } }

/-- The input snapshot with the counts that its records show. -/
def State.snapshotNew (s : State) : State :=
  let s := s.forAll (s.feed.shown.map (·.1)) State.clearNew
  s.snapshot.turnNew s.heldPages s.feed.dropNext

/-- The status word of a request: status, folio and count of bad ones (R386, R408). -/
def State.noteSubStat (s : State) (key st f : Nat) (bad : Bool) : State :=
  let old := Table.get (fun _ => 0) s.feed.subStat key
  let cnt := if bad then satInc 0xFFFF (bitsOf old 32 16) else bitsOf old 32 16
  { s with feed := { s.feed with
      subStat := Table.set (fun _ => 0) s.feed.subStat key (BitVec.ofNat 64 (st + f * 65536 + cnt * 2 ^ 32)) } }

/-- The new status of a descriptor is shown; that of an out channel under its SUB too (R388, R408). -/
def State.finalStatus (d : Nat) (s : State) : State :=
  match (s.desc d).newStatus with
  | none => s
  | some (st, f) =>
    let bad := st ≠ 0 && st ≠ 0xC
    let s := s.modDesc d (fun x => { x with
      newStatus := none, status := st, stFolio := f, errCnt := if bad then satInc 0xFFFFFFFF x.errCnt else x.errCnt })
    let w0 := (s.desc d).words.getD 0 0
    let s := if dIsOut (s.desc d) then s.noteSubStat ((s.vslot (bitsOf w0 16 13)).part * 256 + bitsOf w0 32 8) st f bad else s
    if bad then s.raise { cls := 0x17, detail := d + st * 4096 } else s

/-- Statuses of publications become final and visible; any other than OK and HELD raises FEED_CHANNEL_ERROR (R388). -/
def State.finalStatuses (s : State) : State := s.forAll (s.feed.descs.map (·.1)) State.finalStatus

/-- Messages that wait for ring space are abandoned with TRUNC_DROPPED; one whose gathering failed ends with its status; a
message not gathered yet sends nothing; FETCH messages go on (R336, R337, R387). -/
def State.truncMessages (s : State) : State :=
  s.forAll (s.hif.qps.map (·.1)) (fun q t =>
    let c := t.queue q
    if !c.toHost then t
    else
      let t := t.forAll c.msgs (fun m u =>
        let idx := if m.posted = 0 then (u.queue q).dTail else m.first
        if m.bad ≠ 0 then
          let u := if m.bad < 8 then u.postStatus q m.bad 0 idx 0 m.msgSeq m.folio else u
          u.setDescStatus m.desc m.bad
        else if m.bytes.isNone then u.setDescStatus m.desc 0xA
        else
          let u := (u.postStatus q 1 (min m.len (56 * m.posted)) idx m.posted m.msgSeq m.folio).setDescStatus m.desc 1
          { u with hif := { u.hif with cntTrunc := satInc 0xFFFFFFFF u.hif.cntTrunc } })
      t.modQueue q (fun c => { c with msgs := [] }))

/-- Send a queue's interrupt and reset its count (R340). -/
def State.queueIrq (s : State) (q : Nat) : State :=
  let c := s.queue q
  let s := s.modQueue q (fun c => { c with mod := 0 })
  if c.vecEn then s.sendMsix c.vector else s

/-- Interrupts of queues whose count stands above 0 at the tick (R340). -/
def State.tickIrqs (s : State) : State :=
  s.forAll ((s.hif.qps.filter (fun e => 0 < e.2.mod)).map (·.1)) (fun q t => t.queueIrq q)

/-- Frames and CAN buffers of the closing folio that have not started are withdrawn (R393, R400). -/
def State.withdrawFrames (s : State) : State :=
  let s := s.forAll (upTo 4) (fun m t => t.ethWithdraw m 0xA)
  s.forAll (upTo 8) (fun c t => t.canWithdraw c)

/-- The GATE state that each MAC wraps to at the tick (R49): its last GATE line, or all open. -/
def State.wrapGates (s : State) : State :=
  let ls := s.linesOf s.active
  let gateOf (m : Nat) : Nat :=
    match (ls.filter (fun e => e.2.isWin && e.2.wtype = 5 && e.2.unit = m)).getLast? with
    | some e => e.2.arg % 256
    | none => 255
  { s with folio := { s.folio with gates := (upTo 4).foldl (fun t m => Table.set (fun _ => 255) t m (gateOf m)) [] } }

/-- High-water marks kept over a switch for lines with the same partition and TASK (R97). -/
def State.carryHwm (s : State) (old new : RulSlot) : Table (Nat × Nat) :=
  (s.linesOf new).foldl (fun t e =>
    match (s.linesOf old).find? (fun x => x.2.isTask && e.2.isTask && x.2.part = e.2.part && x.2.task = e.2.task) with
    | some x => Table.set (fun _ => (0, 0)) t e.1 (Table.get (fun _ => (0, 0)) s.folio.hwm x.1)
    | none => t) []

/-- Lines shed by the rubric that stay shed after a switch: those with the same partition and TASK (R418). -/
def State.carryShed (s : State) (old new : RulSlot) : List Nat :=
  (s.linesOf new).filterMap (fun e =>
    if (s.linesOf old).any (fun x => s.folio.shed.contains x.1 && x.2.part = e.2.part && x.2.task = e.2.task
        && x.2.isTask && e.2.isTask) then some e.1 else none)

/-- Any pen is fenced. -/
def State.anyFenced (s : State) : Bool := (upTo 64).any (fun n => (s.pen n).st = .fenced)

/-- Make a slot the active one, the old one VERIFIED, or LOADED when it met an uncorrectable word (R39, R59). -/
def State.switchTo (s : State) (k : Nat) : State :=
  let old := s.folio.actSlot
  let hw := s.carryHwm (s.slotOf old) (s.slotOf k)
  let sh := s.carryShed (s.slotOf old) (s.slotOf k)
  let s := s.modSlot old (fun r => { r with st := if r.spoiled then .loaded else .verified, spoiled := false })
  let s := s.modSlot k (fun r => { r with st := .active })
  let s := { s with folio := { s.folio with
    actSlot := k, hwm := hw, shed := sh, place := [], rdShed := 0, rdUnprot := 0,
    rd := (match s.folio.rd with
      | .applied => RdState.idle
      | .idle | .wanted | .computing _ | .ready _ _ _ | .failed => s.folio.rd) } }
  if s.anyFenced then s.wantRedraft else s

/-- The armed switch at a tick (R59, R60): carried out when its time has come, disarmed when it was
missed or when the slot is no longer VERIFIED (assumption log 110). -/
def State.tickSwitch (s : State) (t : Nat) : State :=
  let f := s.folio
  if !f.swArm then s
  else if ((f.swAt = 0 && f.swSince + 4096 ≤ s.cyc) || f.swAt.toNat = t) && (s.slotOf f.swSlot).st = .verified then
    let s := s.switchTo f.swSlot
    { s with folio := { s.folio with swArm := false, event := s.folio.event ||| 0x20 } }
  else if (f.swAt = 0 && f.swSince + 4096 ≤ s.cyc) || (f.swAt ≠ 0 && f.swAt.toNat ≤ t) then
    let s := { s with folio := { s.folio with swArm := false, event := s.folio.event ||| 0x40 } }
    s.raise { cls := 0x43, slot := some f.swSlot }
  else s

/-- Folio `n` after folio `old` is the first of a window of 2^w folios. -/
def newWindow (old n w : Nat) : Bool := n % 2 ^ w = 0 || n / 2 ^ w ≠ old / 2 ^ w

/-- Window counters and pen fault counts are cleared at the first tick of their windows (R86, R417); `old` is the number of
the folio before. -/
def State.clearWindows (s : State) (old : Nat) : State :=
  let n := s.folio.number.toNat
  let s := s.forAll (s.huv.rb.map (·.1)) (fun c t =>
    if newWindow old n (bitsOf (t.rbClass c).entry 16 4) then t.modRb c (fun x => { x with win := 0 }) else t)
  if newWindow old n (bitsOf s.folio.rdCtrl 28 4) then
    s.forAll (s.pens.map (·.1)) (fun p t => t.modPen p (fun x => { x with winFaults := 0 }))
  else s

/-- A pen that passed its self-test, or whose copy is complete, is IDLE again; its pair is MIRRORED (R86, R113). -/
def State.penReturns (s : State) (p : Nat) : State :=
  let resil := (s.pen p).st = .resilver
  let s := s.modPen p (fun x => { x with st := .idle, passAt := none, stale := if resil then false else x.stale })
  if resil then s.setMirror p .mirrored else s

/-- Nothing is left to copy to a pen in RESILVER (R113). -/
def State.copyDone (s : State) (p : Nat) : Bool :=
  (s.pen p).st ≠ .resilver || ((s.pen (otherOf p)).recopy = [] && s.copyValid (otherOf p))

/-- Pens return to service at a tick at least 4,096 cyc after their pass or copy (R86, R113). -/
def State.returnPens (s : State) (all : Bool) : State :=
  s.forAll (upTo 64) (fun p t =>
    match (t.pen p).passAt with
    | some c => if (all || c + 4096 ≤ t.cyc) && t.copyDone p then t.penReturns p else t
    | none => t)

/-- Shedding takes effect (R418). -/
def State.applyShed (s : State) : State :=
  let due := s.folio.shedDue.filter (fun d => d.2 ≤ s.cyc)
  let s := { s with folio := { s.folio with
    shedDue := s.folio.shedDue.filter (fun d => !(d.2 ≤ s.cyc)), shed := s.folio.shed ++ due.map Prod.fst } }
  s.forAll due (fun (d : Nat × Nat) (t : State) => t.raise (lineEvent 0x18 d.1))

/-- The redraft engine at a tick (R88): it freezes its inputs, or a finished placement takes effect. -/
def State.tickRedraft (s : State) : State :=
  match s.folio.rd with
  | .wanted =>
    { s with folio := { s.folio with
        place := [], rdShed := 0, rdUnprot := 0, rd := .computing ⟨s.folio.actSlot, s.penMask (fun p => p.st.out || p.st = .off), s.folio.hwm⟩ } }
  | .ready pl sh un =>
    { s with folio := { s.folio with place := pl, rdShed := sh, rdUnprot := un, rdSeen := true, rd := .applied } }
  | .idle | .computing _ | .applied | .failed => s

/-- Tracing at a tick: STALE becomes RESYNC, a takeover or the end of a pairing takes effect, an adopted END sets folio
number and slot (R310, R312, R315, R318). -/
def State.tickTrace (s : State) : State :=
  let s := match s.trc.st with
    | .stale => { s with trc := { s.trc with st := .resync, cursor := 0 } }
    | .detached | .resync | .current | .lost => s
  let s := if s.trc.offNext then { s with trc := { s.trc with mode := 0, st := .detached, offNext := false, stopped := false, takeAt := none } } else s
  match s.trc.takeAt with
  | some c =>
    if c ≤ s.cyc then { s with trc := { s.trc with mode := 0, takeAt := none, stopped := false } } else s
  | none => s

/-- A twin that became CURRENT starts its lines (R313). -/
def State.tickTwin (s : State) : State :=
  match s.trc.startAt with
  | some c => if c ≤ s.cyc then { s with trc := { s.trc with startAt := none, stopped := false } } else s
  | none => s

/-- The steered rate is copied into `AON_TRIM` at a tick while SYNCED (R441). -/
def State.tickTrim (s : State) : State :=
  if s.folio.synced then { s with aon := { s.aon with trim := s.aon.steer } } else s

/-- The actions that close the folio at a tick (R50, R51 step 1): windows, messages, frames, statuses. -/
def State.closeFolio (s : State) : State :=
  let s := s.forAll (upTo 64) (fun p t => (t.killRun p).killEnding p)
  let s := s.closeTraces.closeAll
  let s := { s with pens := Table.mapV (fun (x : Pen) => { x with ligEnd := 0 }) s.pens }
  let s := { s with folio := { s.folio with armed := [], spent := [], handed := [] } }
  let s := s.truncMessages
  let s := s.withdrawFrames
  let s := s.finalStatuses
  s.tickIrqs

/-- Folios stop at this tick (R369, R423): EN is cleared, the ACTIVE slot becomes VERIFIED, outputs take their safe
values. -/
def State.stopFolios (s : State) (dest : DevState) : State :=
  let s := s.safeOutputs
  let s := s.releaseActive
  let s := { s with dev := dest, folio := { s.folio with
      en := false, running := false, swArm := false, edgeAt := none, lastLen := s.cyc - s.folio.tickCyc, minLen := min s.folio.minLen (s.cyc - s.folio.tickCyc) } }
  s.returnPens true

/-- A waiting QUIESCE, DORMANT or DEBUG_ENABLE is due at this tick (R369, R377, R378). -/
def State.stopDue (s : State) : Option Waiting :=
  s.huv.waiting.find? (fun w => match w with
    | .quiesce _ c | .dormant _ c | .debug _ c => c + 4096 ≤ s.cyc
    | .activate _ _ | .detach _ _ | .takeover _ _ | .power _ => false)

/-- Commands that run in the background or between their steps, and that DEBUG does not permit, end with BAD_STATE (R353,
R359). -/
def State.endBackground (s : State) : State :=
  let s := match s.blot.pass.bind (·.mb) with
    | some m => (s.endPass 4).finish m 2 (s.endPass 4).summaryWords
    | none => s
  let s := match s.huv.prog with
    | some (m, _) => if [0x20, 0x30, 0x31].contains (s.mbox m).curOp then s.stopCmd m 2 else s
    | none => s
  match s.blot.marching with
  | some r => { s with blot := { s.blot with marching := none } }.finish r.mb 2
  | none => s

/-- DORMANT ends (R444, step 2): the wake comparators are chosen, DONE is written, `AON_CTRL.ENTER` is set. -/
def State.goDormant (s : State) (m : Nat) : State :=
  let en := bitsOf (s.arg m 0) 0 3
  let s := s.finish m 0
  { s with aon := { s.aon with wakeCfg := setBits s.aon.wakeCfg 0 3 en, enter := true } }

/-- The tick at which folios stop. -/
def State.stopTick (s : State) (w : Waiting) : State :=
  let s := s.closeFolio
  match w with
  | .quiesce m _ => ((s.stopFolios .loaded).dropWaiting w).finish m 0
  | .dormant m _ => ((s.stopFolios .loaded).dropWaiting w).goDormant m
  | .debug m _ => (((s.stopFolios .debug).endBackground).dropWaiting w).finish m 0
  | .activate _ _ | .detach _ _ | .takeover _ _ | .power _ => s

/-- The part opens TRACE windows as sender: a pairing is in force, it does not receive, and its ruling has such a window
(R318). -/
def State.opensAsSender (s : State) : Bool :=
  (s.trc.st = .resync || s.trc.st = .current || s.trc.st = .stale)
    && !(s.trc.mode = 2 || (s.trc.mode = 4 && s.trc.st ≠ .current))
    && (s.imageOf s.folio.actSlot).lines.any (fun e => e.2.isWindow 2)

/-- The commands that end at this tick (R318, R367, R375). -/
def State.endWaiting (s : State) : State :=
  s.forAll s.huv.waiting (fun w t =>
    match w with
    | .activate m _ => (t.dropWaiting w).finish m 0 [t.folio.tickTime]
    | .takeover m _ => if t.trc.mode = 0 then (t.dropWaiting w).finish m 0 [t.folio.number] else t
    | .detach m c =>
      if t.trc.mode = 0 then (t.dropWaiting w).finish m 0
      else if !t.opensAsSender && c + 4096 ≤ t.cyc then
        let t := t.farewell 1
        let t := { t with trc := { t.trc with
          mode := 0, st := .detached, stopped := false, await := [], watch := [], winOpen := false, winSlots := [],
          winUnits := 0 } }
        (t.dropWaiting w).finish m 0
      else t
    | .quiesce _ _ | .dormant _ _ | .debug _ _ | .power _ => t)

/-- A controller leaves RESTRICTED. -/
def Can.leaveRestricted (c : Can) : Can := { c with restrict := false }

/-- The first tick of RUN after an activation (R58, R402): marks and shedding are cleared, outputs
take their safe values and controllers leave RESTRICTED. -/
def State.firstTick (s : State) (k : Nat) : State :=
  let s := { s with
      dev := .run, activated := true, cans := Table.mapV Can.leaveRestricted s.cans,
      folio := { s.folio with
        running := true, actSlot := k, hwm := [], shed := [], shedDue := [], place := [],
        synced := s.folio.synced || s.folio.tsrc = 0,
        rd := .idle, rdShed := 0, rdUnprot := 0, rdSeen := false } }
  let s := s.gpioSafe
  if s.anyFenced then s.wantRedraft else s

/-- Number the folio (R58, R310). -/
def State.numberFolio (s : State) : State :=
  match s.trc.adopt with
  | some (f, k) =>
    let s := if k ≠ s.folio.actSlot then s.switchTo k else s
    { s with folio := { s.folio with number := f + 1, counted := true }, trc := { s.trc with adopt := none } }
  | none =>
    if s.folio.counted then { s with folio := { s.folio with number := s.folio.number + 1 } }
    else { s with folio := { s.folio with counted := true } }

/-- The tick time of the folio that begins (R30, R35). -/
def State.thisTick (s : State) : Nat := if s.folio.tsrc = 3 then s.folio.edgeTick else s.nextTick

/-- A new folio begins (R51 step 1), in the order of that rule. -/
def State.beginFolio (s : State) : State :=
  let t := s.thisTick
  let was := s.folio.running
  let old := s.folio.number.toNat
  let len := s.cyc - s.folio.tickCyc
  let s := if was then s.flushRecords.closeFolio else s
  let s := if was then { s with folio := { s.folio with lastLen := len, minLen := min s.folio.minLen len } } else s
  let s := match s.huv.waiting.find? (fun w => match w with
      | .activate _ _ => true
      | .quiesce _ _ | .dormant _ _ | .debug _ _ | .detach _ _ | .takeover _ _ | .power _ => false) with
    | some (.activate _ k) => if was then s else s.firstTick k
    | some (.quiesce _ _) | some (.dormant _ _) | some (.debug _ _) | some (.detach _ _) | some (.takeover _ _) | some (.power _) => s
    | none => s
  let s := { s with folio := { s.folio with tickTime := BitVec.ofNat 64 t, tickCyc := s.cyc, edgeAt := none } }
  let s := s.numberFolio
  let s := s.tickTrace
  let s := s.tickSwitch t
  let s := s.resetOwners
  let s := s.snapshotNew
  let s := s.wrapGates
  let s := s.clearWindows old
  let s := s.returnPens false
  let s := s.tickTwin
  let s := s.applyShed
  let s := s.tickRedraft
  let s := s.tickTrim
  s.endWaiting

/-- The counter has reached the tick (R30), or in TICK_IN mode an edge or its absence has made it (R35). -/
def State.tickDue (s : State) : Bool :=
  s.folio.en && (s.dev = .run || s.dev = .safe || s.dev = .loaded) &&
    (if s.folio.tsrc = 3 then (match s.folio.edgeAt with
        | some c => c ≤ s.cyc
        | none => false)
     else s.nextTick ≤ s.aon.time.toNat)

/-- FOLIO_TICK (R30, R51). -/
def execFolioTick (s : State) : Host.Outcome State Fault Refusal :=
  guarded s.tickDue s (fun s => match s.stopDue with
    | some w => s.stopTick w
    | none => s.beginFolio)

end Sys2Proof.Machine
end

