-- ==== Sys2Proof/Machine/Blotter.lean ====
section
/-! DEFINITION. The blotter: march tests, self-tests and the return of pens, the copy of mirrored pages, scrub passes, the
scrub of the ruling store, and injected words (R39, R85, R86, R113, R291 to R297). -/

namespace Sys2Proof.Machine

/-! ### March tests (R295, R296) -/

/-- Number of 64-word rows of a bank. -/
def bankRows : Bank → Nat
  | .ink _ _ => 512
  | .rsv _ => 2048

/-- The copies of a word that a restored row writes: both of a mirrored page where the row's own copy is valid (R105). -/
def State.restoreAt (s : State) (cpa : Nat) : List Nat := if s.copyValid (inkPen cpa) then s.writeAt cpa else [cpa]

/-- Restore a word of a row. -/
def State.restorePut (s : State) (cpa : Nat) (w : TWord) : State :=
  (s.restoreAt cpa).foldl (fun t a => if t.bankReady a then t.poke a w else t) s

/-- A word of a row restored from the save buffer: corrected, or POISON where it was uncorrectable (R296). -/
def State.restoreWord (cpa : Nat) (s : State) : State :=
  match s.peek cpa with
  | .clean _ => s
  | .corrected w syn => (s.restorePut cpa w).noteCe cpa syn srcSave
  | .uncorrectable _ => let x := s.freePoison; (x.2.restorePut cpa x.1).noteUe cpa (some 0x35)
  | .address => let x := s.freePoison; (x.2.restorePut cpa x.1).noteAddr cpa (some 0x35)

/-- The row is restored from the save buffer. -/
def State.restoreRow (s : State) (base : Nat) : State := s.forAll (s.listedIn base 64) State.restoreWord

/-- Pen `p` is in the window of the JOINED or SOLO run that it carries, up to START + BUDGET (R110, R114). -/
def State.ligatureWindow (s : State) (p : Nat) : Bool :=
  s.folio.running && s.inService p && s.folioCyc < (s.pen p).ligEnd

/-- A blotter port is left for a march test. -/
def State.portFree (s : State) : Bool := s.blotOn && 0 < s.marchPorts

/-- The blotter may test a row now: a running MARCH command has reached it, or a MARCH window covers its reservoir and
the row has neither failed nor been skipped in it. -/
def State.marchDue (s : State) (b : Bank) (row : Nat) : Bool :=
  s.portFree && row < bankRows b && s.bankReady (bankBase b) &&
    (match b with
     | .ink p k => (match s.blot.marching with
        | some r => r.pen = p.val && r.bank = k.val && r.row = row && !s.ligatureWindow p.val && !(s.pen p.val).noBorrow
        | none => false)
     | .rsv r => s.folio.wins.any (fun w => w.wtype = 4 && w.arg.testBit r.val) &&
        !s.blot.stopped.contains r.val && !s.blot.skipSeen.contains (r.val * 2048 + row))

/-- A row has passed: it counts as tested; a MARCH command goes on with the next row and ends after the last. -/
def State.marchGood (s : State) (b : Bank) (row : Nat) : State :=
  let s := { s with blot := { s.blot with tested := satInc 0xFFFF s.blot.tested } }
  match b with
  | .rsv r => { s with blot := { s.blot with skipRun := Table.del s.blot.skipRun (r.val * 2048 + row) } }
  | .ink _ _ =>
    let s := { s with blot := { s.blot with marching := s.blot.marching.map (fun m => { m with row := row + 1 }) } }
    if row + 1 = 512 then s.endMarch 0 else s

/-- A cell failed (R296): the segment is recorded, the bank's test stops, a MARCH command ends with MARCH_FAILED. -/
def State.marchFail (s : State) (b : Bank) (row : Nat) : State :=
  let cpa := bankBase b + 512 * row
  let s := { s with blot := { s.blot with failed := true, failCpa := cpa } }
  let s := s.raise (bankEvent 0x34 cpa)
  match b with
  | .rsv r => { s with blot := { s.blot with stopped := s.blot.stopped ++ [r.val] } }
  | .ink _ _ => s.endMarch 0x0906

/-- An access reached the borrowed segment (R217, R296): nothing more is borrowed from the pen until its run ends; a
reservoir's segment counts as skipped, and as SKIPPED when that happened in 16 windows running. -/
def State.marchYield (s : State) (b : Bank) (row : Nat) : State :=
  match b with
  | .ink p _ => s.modPen p.val (fun x => { x with noBorrow := x.run.isSome })
  | .rsv r =>
    let k := r.val * 2048 + row
    let n := Table.get (fun _ => 0) s.blot.skipRun k + 1
    { s with blot := { s.blot with
        skipSeen := k :: s.blot.skipSeen,
        skipRun := Table.set (fun _ => 0) s.blot.skipRun k (if n = 16 then 0 else n),
        skipped := if n = 16 then satInc 0xFFFF s.blot.skipped else s.blot.skipped } }

/-- A fabric CRC error ends the test early (R20): BLOTTER_FABRIC, and FAILED in the summary. A MARCH command ends with
MARCH_FAILED. -/
def State.marchFabric (s : State) (b : Bank) : State :=
  let s := { s with blot := { s.blot with failed := true } }.raise { cls := 0x39 }
  match b with
  | .rsv r => { s with blot := { s.blot with stopped := s.blot.stopped ++ [r.val] } }
  | .ink _ _ => s.endMarch 0x0906

/-- March a segment: the row is saved, tested and restored, and the outcome recorded. -/
def State.marchSegment (s : State) (b : Bank) (row : Nat) (o : MarchOutcome) : State :=
  let s := s.restoreRow (bankBase b + 512 * row)
  match o with
  | .good => s.marchGood b row
  | .cellFail => s.marchFail b row
  | .yielded => s.marchYield b row
  | .windowEnd => s
  | .fabricError => s.marchFabric b

/-- MARCH_SEGMENT (R295, R296). -/
def execMarchSegment (bank : Bank) (row : Fin 2048) (o : MarchOutcome) (s : State) : Host.Outcome State Fault Refusal :=
  guarded (s.marchDue bank row.val) s (fun s => s.marchSegment bank row.val o)

/-! ### Self-tests (R85, R86) -/

/-- The order of fault cycles: folio and cycle of the pen's last fault, then its number. -/
def State.faultOrder (s : State) (p : Nat) : Nat × Nat :=
  ((s.pen p).faultFolio.toNat, bitsOf (s.pen p).faultInfo 16 28 * 64 + p)

/-- Pen `p` is the one of the waiting pens that faulted first. -/
def State.firstWaiting (s : State) (p : Nat) : Bool :=
  let lt (a b : Nat × Nat) : Bool := a.1 < b.1 || (a.1 = b.1 && a.2 < b.2)
  s.blot.waitQ.all (fun q => q = p || lt (s.faultOrder p) (s.faultOrder q))

/-- The pen is due to be handed to the blotter, or it waits and a port is free for it. -/
def State.testDue (s : State) (p : Nat) : Bool :=
  let x := s.pen p
  (match x.handAt with
   | some c => x.st = .stopped && c ≤ s.cyc
   | none => false) ||
  (x.st = .testWait && s.blotOn && s.blot.ports.length < 2 && s.firstWaiting p)

/-- The pen takes a port and its self-test begins. -/
def State.takePort (s : State) (p : Nat) : State :=
  let k := if s.blot.ports.any (fun q => (s.pen q).testPort = some 0) then 1 else 0
  let s := s.modPen p (fun x => { x with st := .test, handAt := none, testPort := some k })
  { s with blot := { s.blot with ports := s.blot.ports ++ [p], waitQ := s.blot.waitQ.filter (· ≠ p) } }

/-- The pen is fenced without a verdict (R86). -/
def State.untested (s : State) (p : Nat) : State := raised ((s.raise (penEvent 0x0A p 0x7FFF)).fencePen p)

/-- A pen out of service is handed to the blotter. -/
def State.selftestStart (s : State) (p : Nat) : State :=
  if !s.blotOn then s.untested p
  else if s.blot.ports.length < 2 && s.firstWaiting p then s.takePort p
  else
    let s := s.modPen p (fun x => { x with st := .testWait, handAt := none })
    { s with blot := { s.blot with waitQ := s.blot.waitQ ++ [p] } }

/-- SELFTEST_START (R83, R85, R86). -/
def execSelftestStart (p : PenN) (s : State) : Host.Outcome State Fault Refusal :=
  guarded (s.testDue p.val) s (fun s => s.selftestStart p.val)

/-- A pass (R86, R113): the port is freed; a pen with stale mirrored pages enters RESILVER, any other returns at a tick, or
at once while folios are not running. -/
def State.testPass (s : State) (p : Nat) : State :=
  let s := s.freeBlotter p
  let s :=
    if (s.pen p).stale && s.hasMirror p && s.copyValid (otherOf p) then s.toService p
    else if s.folio.running then s.modPen p (fun x => { x with passAt := some s.cyc })
    else s.penReturns p
  s.raise (penEvent 0x08 p 0x7FFF)

/-- The test of a pen is under way. -/
def State.testing (s : State) (p : Nat) : Bool := (s.pen p).st = .test && (s.pen p).passAt = none

/-- SELFTEST_VERDICT (R86). -/
def execSelftestVerdict (p : PenN) (v : Verdict) (s : State) : Host.Outcome State Fault Refusal :=
  guarded (s.testing p.val) s (fun s => match v with
    | .pass => s.testPass p.val
    | .fail => raised (s.fencePen p.val)
    | .blotterFault => s.untested p.val)

/-! ### The copy of mirrored pages (R113) -/

/-- Page numbers of a pair's mirrored pages: page of bank 0, or 64 + page of bank 1. -/
def State.mirrorPages (s : State) (p : Nat) : List Nat :=
  let e := s.pen (evenOf p)
  (upTo 64).filter (fun i => bitAt e.mirror0 i) ++ ((upTo 64).filter (fun i => bitAt e.mirror1 i)).map (· + 64)

/-- Copy one word from the valid copy; an uncorrectable word becomes POISON in both copies. -/
def State.mirrorWord (src dst : Nat) (s : State) : State :=
  match s.peek src with
  | .clean w => s.poke dst w
  | .corrected w syn => (s.poke dst w).noteCe src syn srcPen
  | .uncorrectable _ => ((s.poke src ⟨Tag.poison, 0⟩).poke dst ⟨Tag.poison, 0⟩).noteUe src none
  | .address => ((s.poke src ⟨Tag.poison, 0⟩).poke dst ⟨Tag.poison, 0⟩).noteAddr src none

/-- Copy pages from the other pen of the pair to pen `p`. -/
def State.mirrorCopy (s : State) (p : Nat) (pages : List Nat) : State :=
  s.forAll pages (fun g t => t.forAll (upTo 512) (fun i u =>
    u.mirrorWord (inkBase (otherOf p) + 4096 * g + 8 * i) (inkBase p + 4096 * g + 8 * i)))

/-- The copy to a pen can be complete: every page copied, or the pages that a SOLO run has written since. -/
def State.copyDue (s : State) (p : Nat) : Bool :=
  (s.pen p).st = .resilver && s.blotOn && s.copyValid (otherOf p) && !s.ligatureWindow (otherOf p) &&
    ((s.pen p).passAt = none || (s.pen (otherOf p)).recopy ≠ [])

/-- The copy is complete. -/
def State.resilverDone (s : State) (p : Nat) : State :=
  let pages := if (s.pen p).passAt = none then s.mirrorPages p else (s.pen (otherOf p)).recopy.filter (s.mirrorPages p).contains
  let s := (s.mirrorCopy p pages).modPen (otherOf p) (fun x => { x with recopy := [] })
  let s := { s with blot := { s.blot with resilver := s.blot.resilver.filter (· ≠ p) } }
  if s.folio.running then s.modPen p (fun x => { x with passAt := some s.cyc }) else s.penReturns p

/-- RESILVER_COMPLETE (R113). -/
def execResilverComplete (p : PenN) (s : State) : Host.Outcome State Fault Refusal :=
  guarded (s.copyDue p.val) s (fun s => s.resilverDone p.val)

/-! ### The ruling store (R39) -/

/-- RULING_STORE_SCRUB (R39). -/
def execRulingStoreScrub (index : Fin 147456) (s : State) : Host.Outcome State Fault Refusal :=
  guarded (s.blotOn && s.dev ≠ .off && s.dev ≠ .dormant && s.dev ≠ .fill) s (fun s => s.storeScrub index.val)

/-! ### Scrub passes -/

/-- BLOT_SCRUB_START (R291, R301). -/
def execBlotScrubStart (s : State) : Host.Outcome State Fault Refusal := guarded s.huvasUp s (fun s => s.scrubStart none)

/-- BLOT_SCRUB_ABORT (R294). -/
def execBlotScrubAbort (s : State) : Host.Outcome State Fault Refusal := guarded s.huvasUp s State.scrubAbort

/-- The bank of the running pass is off. -/
def State.passOff (s : State) : Bool := match s.blot.pass with
  | some p => p.cut || !s.bankReady p.base
  | none => false

/-- The pass can end so: its bank must be on to be scrubbed to the end, and off to end as POWER_OFF; an inkwell's pass
waits while its pen is in a ligature window (R114). -/
def State.passEnds (s : State) (e : ScrubEnd) : Bool :=
  match s.blot.pass with
  | none => false
  | some p => match e with
    | .completed =>
      !p.cut && s.bankReady p.base && 0 < s.scrubPorts && !(isInk p.base && s.ligatureWindow (inkPen p.base))
    | .powerOff => s.passOff
    | .fabricError => true
    | .aborted => false

def scrubCode : ScrubEnd → Nat
  | .completed => 1 | .powerOff => 2 | .fabricError => 3 | .aborted => 4

/-- A pass ends with its summary, and a SCRUB command with it (R294, R372). -/
def State.passEnd (s : State) (e : ScrubEnd) : State :=
  let mb := s.blot.pass.bind (·.mb)
  let s := s.endPass (scrubCode e)
  let s := if e = .fabricError then s.raise { cls := 0x39 } else s
  match mb with
  | some m => s.finish m 0 s.summaryWords
  | none => s

/-- SCRUB_PASS_END (R294). -/
def execScrubPassEnd (e : ScrubEnd) (s : State) : Host.Outcome State Fault Refusal :=
  guarded (s.passEnds e) s (fun s => s.passEnd e)

/-- BLOT_ML_CLEAR (R290). -/
def execBlotMlClear (s : State) : Host.Outcome State Fault Refusal := guarded s.huvasUp s State.mlClear

/-! ### Injected words (R297) -/

/-- The word for which a bank is armed. -/
def State.armedWord (s : State) (b : Bank) : Nat :=
  bankBase b + 8 * (match b with
    | .ink p _ => bitsOf (s.pen p.val).injAddr 0 16
    | .rsv r => bitsOf (s.rsvOf r.val).injAddr 0 17)

/-- The bank is armed. -/
def State.bankArmed (s : State) : Bank → Bool
  | .ink p b => bitAt (s.pen p.val).injFlip1 16 && bitsOf (s.pen p.val).injAddr 16 1 = b.val
  | .rsv r => bitAt (s.rsvOf r.val).injFlip1 16

/-- CHECKER_INJECT_WRITE (R297). -/
def execCheckerInjectWrite (bank : Bank) (w : TWord) (s : State) : Host.Outcome State Fault Refusal :=
  guarded (s.huvasUp && s.bankArmed bank && s.bankReady (bankBase bank)) s (fun s => s.huvasStore (s.armedWord bank) w)

/-! ### Fills (R288) -/

/-- Size of a bank in bytes. -/
def bankSize : Bank → Nat
  | .ink _ _ => 0x40000
  | .rsv _ => 0x100000

/-- A bank of a domain that is on is being filled. -/
def State.fillingNow (s : State) : Bank → Bool
  | .ink p b => s.penOn p.val && (if b.val = 0 then (s.pen p.val).filling0 else (s.pen p.val).filling1)
  | .rsv r => s.rsvOn r.val && (s.rsvOf r.val).filling

/-- A pen whose domain came on and whose inkwells are filled comes into service (R104, R377). -/
def State.penFilled (s : State) (p : Nat) : State :=
  let x := s.pen p
  if x.st = .off && !x.filling0 && !x.filling1 then s.toService p else s

/-- Any bank of a domain that is on is being filled. -/
def State.anyFilling (s : State) : Bool :=
  (upTo 64).any (fun p => s.penOn p && ((s.pen p).filling0 || (s.pen p).filling1))
    || (upTo 32).any (fun r => s.rsvOn r && (s.rsvOf r).filling)

/-- POWER commands end when nothing is left to switch or fill (R377). -/
def State.powerDone (s : State) : State :=
  if s.pwr.queue ≠ [] || s.anyFilling then s
  else s.forAll s.huv.waiting (fun w t => match w with
    | .power m => (t.dropWaiting w).finish m 0
    | .activate _ _ | .quiesce _ _ | .dormant _ _ | .debug _ _ | .detach _ _ | .takeover _ _ => t)

/-- The fill of a bank ends (R288). -/
def State.bankFilled (s : State) (b : Bank) : State :=
  let s := s.fillRange (bankBase b) (bankSize b)
  match b with
  | .ink p k =>
    let s := s.modPen p.val (fun x => if k.val = 0 then { x with filling0 := false } else { x with filling1 := false })
    (s.penFilled p.val).powerDone
  | .rsv r => (s.modRsv r.val (fun x => { x with filling := false })).powerDone

/-- BANK_FILL_DONE (R288): a fill on the wake of a domain ends; the fills of FILL end together (FILL_DONE). -/
def execBankFillDone (b : Bank) (s : State) : Host.Outcome State Fault Refusal :=
  guarded (s.dev ≠ .off && s.dev ≠ .dormant && s.dev ≠ .fill && s.fillingNow b) s (fun s => s.bankFilled b)

end Sys2Proof.Machine
end

