-- ==== Sys2Proof/Machine/Control.lean ====
section
/-! DEFINITION. Control transfer (R146, R147, R149, R165, R182, R183) and GATE (R184, R237 to R240). -/

namespace Sys2Proof.Machine

/-- The target of a PC-relative transfer. -/
def relTarget (pc : Word) (disp : Int) : Word := pc + BitVec.ofInt 64 (4 * disp)

/-- B (R182). -/
def execB (i : Iss) (disp : BitVec 26) (s : State) : Host.Outcome State Fault Refusal :=
  guarded (s.ready i.pen.val) s (fun s =>
    s.issueOne i ⟨.ctl, [], false⟩ (fun paired t => .ok (fun x => x.goto paired (relTarget x.pc disp.toInt)) t))

/-- BCC (R165, R182, R196). -/
def execBcc (i : Iss) (cond : BitVec 4) (disp : BitVec 22) (s : State) : Host.Outcome State Fault Refusal :=
  guarded (s.ready i.pen.val) s (fun s =>
    s.issueOne i ⟨.ctl, [], true⟩ (fun paired t =>
      match condHolds cond (t.pen i.pen.val).flags with
      | none => .exc (excIllegal 1) t
      | some true => .ok (fun x => x.goto paired (relTarget x.pc disp.toInt)) t
      | some false => .ok (fun x => x.done paired) t))

/-- A code pointer is misaligned (R182, R231). -/
def checkTarget (w : Word) : Except Exc Unit := if bitsOf w 0 2 ≠ 0 then .error (excAlign w) else .ok ()

/-- B through a register (R182). -/
def execBRegister (i : Iss) (rs : Reg) (s : State) : Host.Outcome State Fault Refusal :=
  guarded (s.ready i.pen.val) s (fun s =>
    s.issueOne i ⟨.ctl, [rs], false⟩ (fun paired t =>
      let w := (t.pen i.pen.val).read paired rs
      let ok : Except Exc Unit := do
        checkTag 0 [Tag.cptr] w
        checkTarget w.val
      match ok with
      | .error e => .exc e t
      | .ok () => .ok (fun x => x.goto paired w.val) t))

/-! ### CALL and RET -/

/-- Push the return address and transfer (R146, R147). A push that leaves the flyleaf's words stops the pen (R235), for a
CALL at EXEC. -/
def State.callTo (s : State) (i : Instr) (p : Nat) (paired : Bool) (sp : TWord) (target : Word) : Res (Pen → Pen) :=
  match s.runCtx p paired with
  | none => .wait
  | some (r, c) =>
    let x := s.pen p
    if bitsOf sp.val 0 3 ≠ 0 then .exc (excAlign (sp.val - 8) true) s
    else if !x.task && s.flySpent p r.part 8 then .ok id (s.flyStop p r)
    else (s.storeWord c r.lig i (sp.val - 8) (TWord.cptr (x.pc + 4))).bind (fun _ t =>
      .ok (fun y => (y.write paired 31 (TWord.ptr (sp.val - 8))).goto paired target) t)

/-- CALL (R146, R182). -/
def State.doCall (s : State) (i : Iss) (disp : BitVec 26) : State :=
  s.issueOne i ⟨.callret, [31], false⟩ (fun paired t =>
    let x := t.pen i.pen.val
    let sp := x.read paired 31
    match checkTag 0 [Tag.ptr] sp with
    | .error e => .exc e t
    | .ok () => t.callTo (.call i disp) i.pen.val paired sp (relTarget x.pc disp.toInt))

def execCall (i : Iss) (disp : BitVec 26) (s : State) : Host.Outcome State Fault Refusal :=
  guarded (s.ready i.pen.val) s (fun s => s.doCall i disp)

/-- CALL through a register (R146, R182): the target is operand 0 and the stack pointer operand 1. -/
def State.doCallRegister (s : State) (i : Iss) (rs : Reg) : State :=
  s.issueOne i ⟨.callret, [rs, 31], false⟩ (fun paired t =>
    let x := t.pen i.pen.val
    let w := x.read paired rs
    let sp := x.read paired 31
    let ok : Except Exc Unit := do
      checkTag 0 [Tag.cptr] w
      checkTag 1 [Tag.ptr] sp
      checkTarget w.val
    match ok with
    | .error e => .exc e t
    | .ok () => t.callTo (.callRegister i rs) i.pen.val paired sp w.val)

def execCallRegister (i : Iss) (rs : Reg) (s : State) : Host.Outcome State Fault Refusal :=
  guarded (s.ready i.pen.val) s (fun s => s.doCallRegister i rs)

/-- The tag of a word that a return reads (R146, R149). -/
def checkReturn (t : Tag) (w : TWord) : Except Exc Unit := if w.tag ≠ t then .error (excTag tdReturn 3) else .ok ()

/-- The work of RET. -/
def State.doRet (s : State) (fab : Bool) (i : Iss) : State :=
  s.issueOne i ⟨.callret, [31], false⟩ (fun paired t =>
    let sp := (t.pen i.pen.val).read paired 31
    match checkTag 0 [Tag.ptr] sp, t.runCtx i.pen.val paired with
    | .error e, _ => .exc e t
    | .ok (), none => .wait
    | .ok (), some (r, c) =>
      if bitsOf sp.val 0 3 ≠ 0 then .exc (excAlign sp.val) t
      else (t.loadWord c r.lig fab (.ret i) sp.val (checkReturn Tag.cptr)).bind (fun w t =>
        match checkTarget w.val with
        | .error e => .exc e t
        | .ok () => .ok (fun x => (x.write paired 31 (TWord.ptr (sp.val + 8))).goto paired w.val) t))

/-- RET (R146, R182). -/
def execRet (i : Iss) (s : State) : Host.Outcome State Fault Refusal :=
  guarded (s.ready i.pen.val) s (fun s => s.doRet false i)

/-! ### ERET and GRET (R149, R183) -/

/-- The status word that a return leaves: the frame's word, its FLY or its flags taken from the running one. -/
def returnStatus (gret : Bool) (running frame : Word) : Word :=
  let f := frame &&& 0x77F
  if gret then setBits f 0 4 (bitsOf running 0 4) else setBit f 10 (bitAt running 10)

/-- The work of ERET and GRET. -/
def State.doReturn (s : State) (fab gret : Bool) (i : Iss) : State :=
  s.issueOne i ⟨.ser, [31], true⟩ (fun paired t =>
    let x := t.pen i.pen.val
    let sp := x.read paired 31
    let c0 : Instr := if gret then .gret i else .eret i
    if x.task then .exc excPrivilege t
    else match checkTag 0 [Tag.ptr] sp, t.runCtx i.pen.val paired with
      | .error e, _ => .exc e t
      | .ok (), none => .wait
      | .ok (), some (r, c) =>
        if bitsOf sp.val 0 3 ≠ 0 then .exc (excAlign sp.val) t
        else ((t.resolve c c0 .read sp.val).bind (fun _ t => t.resolve c c0 .read (sp.val + 8))).bind (fun _ t =>
          (t.loadWord c r.lig fab c0 sp.val (checkReturn Tag.status)).bind (fun st t =>
            (t.loadWord c r.lig fab c0 (sp.val + 8) (checkReturn Tag.cptr)).bind (fun pc t =>
              match checkTarget pc.val with
              | .error e => .exc e t
              | .ok () => .ok (fun x =>
                  let y := x.goto paired pc.val
                  { y with
                    spExec := TWord.ptr (sp.val + 16), late := y.late.filter (fun l => l.reg ≠ 32),
                    status := returnStatus gret y.status st.val }) t))))

/-- ERET (R149, R183). -/
def execEret (i : Iss) (s : State) : Host.Outcome State Fault Refusal :=
  guarded (s.ready i.pen.val) s (fun s => s.doReturn false false i)

/-- GRET (R149, R183). -/
def execGret (i : Iss) (s : State) : Host.Outcome State Fault Refusal :=
  guarded (s.ready i.pen.val) s (fun s => s.doReturn false true i)

/-! ### GATE (R237 to R240) -/

/-- A gate fault (R231, R239). -/
def excGate (n detail arg : Nat) : Exc := { vector := 11, level := 4, detail := detail, gate := n, arg := arg }

/-- Read one word of the gate entry by CPA (R237); the state notes its errors. -/
def State.gateWord (s : State) (p part n k : Nat) : Option TWord × State :=
  s.readRun p p (inkBase p + bitsOf (s.pxWord part 0) 3 15 * 8 + 32 * n + 8 * k) srcPen

/-- The fields of a gate entry whose words have the right tags (R238). -/
structure Gate where
  target : Word
  tags   : Word
  ctrl   : Word
  limit  : Word
  deriving DecidableEq, Repr

/-- Read a gate entry; `none` for an ENTRY fault (R239, check 2). -/
def State.readGate (s : State) (p part n : Nat) : Option Gate × State :=
  let a := s.gateWord p part n 0
  let b := a.2.gateWord p part n 1
  let c := b.2.gateWord p part n 2
  let d := c.2.gateWord p part n 3
  match a.1, b.1, c.1, d.1 with
  | some t, some g, some k, some l =>
    if t.tag = Tag.cptr && bitsOf t.val 0 2 = 0 && g.tag = Tag.raw && k.tag = Tag.raw && l.tag = Tag.raw then
      (some ⟨t.val, g.val, k.val, l.val⟩, d.2)
    else (none, d.2)
  | _, _, _, _ => (none, d.2)

/-- Checks 3 to 6 of R239: detail and argument of the first that fails. -/
def gateChecks (g : Gate) (task : Bool) (w : Nat → TWord) : Option (Nat × Nat) :=
  if !bitAt g.ctrl 0 || bitsOf g.ctrl 9 55 ≠ 0 || bitAt g.ctrl 3 || bitAt g.ctrl 7 then some (3, 0)
  else if (task && !bitAt g.ctrl 1) || (!task && !bitAt g.ctrl 2) then some (4, 0)
  else match [1, 2, 3, 4].find? (fun k => !bitAt g.tags (16 * (k - 1) + (w k).tag.toNat)) with
    | some k => some (5, k)
    | none => if bitAt g.ctrl 8 && !((w 1).val.toNat < g.limit.toNat) then some (6, 1) else none

/-- The status word of the gate handler (R240). -/
def gateStatus (st : Word) (mask : Nat) : Word :=
  setBits (setBit (setBit (setBit st 8 true) 9 false) 10 false) 4 3 (max (bitsOf st 4 3) mask)

/-- A GATE whose checks have passed: the frame is pushed and the handler entered, or the flyleaf is (R234, R240). -/
def State.gateEnter (s : State) (p : Nat) (r : Run) (g : Gate) : Option State :=
  let x := s.pen p
  if s.flySpent p r.part 16 then some (s.flyStop p r)
  else
    let k := s.stackCheck p r
    match k.1 with
    | .wait => none
    | .bad b w a => some ((k.2.modPen p Pen.complete).flyEntry p r ⟨0, 1, b, w, a⟩ x.pc x.status)
    | .good lo hi =>
      let t := (k.2.pushFrame p lo hi (x.pc + 4) x.status).countEntry p false
      some (t.modPen p (fun y =>
        { y.goto false g.target with
          status := gateStatus y.status (bitsOf g.ctrl 4 3), late := y.late.filter (fun l => l.reg ≠ 32) }))

/-- The work of GATE. -/
def State.doGate (s : State) (i : Iss) (n : Nat) : State :=
  let p := i.pen.val
  let t := ((s.admitted p false).getD s).modPen p (fun x => x.issue false ⟨.ser, [1, 2, 3, 4, 31], true⟩)
  match s.admitted p false, t.runs p with
  | none, _ => s
  | _, none => s
  | some _, some r =>
    let x := t.pen p
    if bitsOf (t.pxWord r.part 0) 32 9 ≤ n then (t.takeExc p (excGate n 1 0)).getD s
    else
      let g := t.readGate p r.part n
      match g.1 with
      | none => (g.2.takeExc p (excGate n 2 0)).getD s
      | some e =>
        match gateChecks e x.task (fun k => x.getB k) with
        | some (d, a) => (g.2.takeExc p (excGate n d a)).getD s
        | none => (g.2.gateEnter p r e).getD s

/-- GATE (R184, R237 to R240). -/
def execGate (i : Iss) (n : BitVec 8) (s : State) : Host.Outcome State Fault Refusal :=
  guarded (s.ready i.pen.val) s (fun s => s.doGate i n.toNat)

end Sys2Proof.Machine
end

