-- ==== Sys2Proof/Machine/Encodings.lean ====
section
/-! DEFINITION. Fetched words that give no instruction: illegal encodings (R157 to R162, R175, R179, R185, R187) and
instruction bus faults (R201, R286). -/

namespace Sys2Proof.Machine

/-- Bits `lo + n - 1 : lo` of an instruction word. -/
def fieldOf (w lo n : Nat) : Nat := w / 2 ^ lo % 2 ^ n

/-- RESERVED_BITS or nothing, by whether the fields that must be zero are. -/
def zeroElse (ok : Bool) (rest : Option Nat) : Option Nat := if ok then rest else some 2

/-- FORM or nothing. -/
def formElse (ok : Bool) : Option Nat := if ok then none else some 3

/-- Format R (R162). -/
def illegalR (w : Nat) : Option Nat :=
  let f := fieldOf w 5 6
  if 0x13 < f then some 1
  else zeroElse (fieldOf w 0 5 = 0 && !((f = 4 || f = 5 || f = 0x12) && fieldOf w 11 5 ≠ 0)) none

/-- Format BF (R173). -/
def illegalBf (w : Nat) : Option Nat :=
  zeroElse (fieldOf w 12 3 = 0) (formElse (fieldOf w 6 6 + fieldOf w 0 6 + 1 ≤ 64))

/-- Format T (R174). -/
def illegalT (w : Nat) : Option Nat :=
  let f := fieldOf w 14 2
  if f = 3 then some 1
  else zeroElse (fieldOf w 4 10 = 0 && !(f = 1 && fieldOf w 0 4 ≠ 0) &&
    !(f = 2 && (fieldOf w 0 4 ≠ 0 || fieldOf w 16 5 ≠ 0))) none

/-- Format M (R175). -/
def illegalM (w : Nat) : Option Nat :=
  let op := fieldOf w 26 6
  let mode := fieldOf w 14 2
  let same := fieldOf w 21 5 = fieldOf w 16 5
  let load := op = 0x10 || op = 0x12 || op = 0x13 || op = 0x14 || 0x18 ≤ op
  zeroElse (!(mode = 3 && fieldOf w 0 7 ≠ 0))
    (formElse (!(load && (mode = 1 || mode = 2) && same) && !(0x18 ≤ op && mode ≠ 0)))

/-- Format BK (R179). -/
def illegalBk (w : Nat) : Option Nat :=
  if 3 < fieldOf w 8 3 then some 1
  else zeroElse (fieldOf w 0 8 = 0)
    (formElse (fieldOf w 21 5 ≠ fieldOf w 16 5 && fieldOf w 16 5 ≠ fieldOf w 11 5 && fieldOf w 21 5 ≠ fieldOf w 11 5))

/-- Format JR (R161). RET, ERET and GRET use no register field. -/
def illegalJr (w : Nat) : Option Nat :=
  let f := fieldOf w 13 3
  if 4 < f then some 1
  else zeroElse (fieldOf w 21 5 = 0 && fieldOf w 0 13 = 0 && !(2 ≤ f && fieldOf w 16 5 ≠ 0)) none

/-- Format S (R185, R187). -/
def illegalS (w : Nat) : Option Nat :=
  let rd := fieldOf w 21 5
  let rs := fieldOf w 16 5
  let imm := fieldOf w 0 12
  match fieldOf w 12 4 with
  | 0 => zeroElse (rs = 0 && imm < 8) none
  | 1 => zeroElse (imm = 0) none
  | 2 => zeroElse (rs = 0 && imm < 16) none
  | 3 => zeroElse (imm = 0) none
  | 4 => zeroElse (rd = 0 && imm < 4 && !(imm < 2 && rs ≠ 0)) (formElse (imm ≠ 3))
  | 5 => zeroElse (rd = 0 && imm < 8) (formElse (imm ≠ 0))
  | 6 | 7 => zeroElse (rd = 0 && rs = 0 && imm = 0) none
  | _ => some 1

/-- The detail of the illegal-encoding fault of an instruction word, if it is one (R159 to R162). -/
def illegalDetail (w : Nat) : Option Nat :=
  let op := fieldOf w 26 6
  if op = 0x01 then illegalR w
  else if 0x02 ≤ op && op ≤ 0x09 then none
  else if op = 0x0A then zeroElse (fieldOf w 6 8 = 0) none
  else if op = 0x0B then illegalBf w
  else if op = 0x0C then illegalT w
  else if op = 0x0D then zeroElse (fieldOf w 16 5 = 0) none
  else if 0x10 ≤ op && op ≤ 0x19 then illegalM w
  else if op = 0x1A then illegalBk w
  else if op = 0x20 || op = 0x22 then none
  else if op = 0x21 then (if 14 ≤ fieldOf w 22 4 then some 1 else none)
  else if op = 0x23 then illegalJr w
  else if op = 0x24 then zeroElse (fieldOf w 8 18 = 0) none
  else if op = 0x30 then illegalS w
  else some 1

/-! ### The instruction of a word (R160 to R162, R185) -/

/-- A register field. -/
def regOf (w lo : Nat) : Reg := Fin.ofNat 32 (fieldOf w lo 5)

/-- Format R (R162). -/
def decodeR (i : Iss) (w : Nat) : Option Instr :=
  let rd := regOf w 21
  let a := regOf w 16
  let b := regOf w 11
  match fieldOf w 5 6 with
  | 0x00 => some (.add i rd a (.reg b))
  | 0x01 => some (.addt i rd a (.reg b))
  | 0x02 => some (.sub i rd a (.reg b))
  | 0x03 => some (.subt i rd a (.reg b))
  | 0x04 => some (.neg i rd a)
  | 0x05 => some (.negt i rd a)
  | 0x06 => some (.mul i rd a (.reg b))
  | 0x07 => some (.mulh i rd a b)
  | 0x08 => some (.div i rd a b)
  | 0x09 => some (.divt i rd a b)
  | 0x0A => some (.rem i rd a b)
  | 0x0B => some (.and i rd a (.reg b))
  | 0x0C => some (.or i rd a (.reg b))
  | 0x0D => some (.xor i rd a (.reg b))
  | 0x0E => some (.shl i rd a (.reg b))
  | 0x0F => some (.shr i rd a (.reg b))
  | 0x10 => some (.sar i rd a (.reg b))
  | 0x11 => some (.rol i rd a (.reg b))
  | 0x12 => some (.clz i rd a)
  | 0x13 => some (.perm i rd a b)
  | _ => none

/-- Formats SH, BF and T (R161). -/
def decodeBits (i : Iss) (w : Nat) : Option Instr :=
  let rd := regOf w 21
  let a := regOf w 16
  let n := BitVec.ofNat 6 (fieldOf w 0 6)
  let pos := BitVec.ofNat 6 (fieldOf w 6 6)
  match fieldOf w 26 6, fieldOf w 14 2 with
  | 0x0A, 0 => some (.shl i rd a (.imm n))
  | 0x0A, 1 => some (.shr i rd a (.imm n))
  | 0x0A, 2 => some (.sar i rd a (.imm n))
  | 0x0A, _ => some (.rol i rd a (.imm n))
  | 0x0B, _ => some (if fieldOf w 15 1 = 0 then .bfx i rd a pos n else .bfi i rd a pos n)
  | 0x0C, 0 => some (.tag i rd a (BitVec.ofNat 4 (fieldOf w 0 4)))
  | 0x0C, 1 => some (.tagof i rd a)
  | 0x0C, 2 => some (.poison i rd)
  | _, _ => none

/-- The addressing mode of format M (R175). -/
def decodeMode (w : Nat) : AMode :=
  let imm := BitVec.ofNat 14 (fieldOf w 0 14)
  match fieldOf w 14 2 with
  | 0 => .off imm
  | 1 => .postInc imm
  | 2 => .preDec imm
  | _ => .index (regOf w 9) (BitVec.ofNat 2 (fieldOf w 7 2))

/-- Format M (R161). -/
def decodeM (i : Iss) (w : Nat) : Option Instr :=
  let rt := regOf w 21
  let rb := regOf w 16
  let m := decodeMode w
  match fieldOf w 26 6 with
  | 0x10 => some (.ld i rt rb m)
  | 0x11 => some (.st i rt rb m)
  | 0x12 => some (.ldb i rt rb m)
  | 0x13 => some (.ldh i rt rb m)
  | 0x14 => some (.ldw i rt rb m)
  | 0x15 => some (.stb i rt rb m)
  | 0x16 => some (.sth i rt rb m)
  | 0x17 => some (.stw i rt rb m)
  | 0x18 => some (.atadd i rt rb m)
  | 0x19 => some (.atswp i rt rb m)
  | _ => none

/-- Format BK (R161). -/
def decodeBk (i : Iss) (w : Nat) : Option Instr :=
  let a := regOf w 21
  let b := regOf w 16
  let c := regOf w 11
  match fieldOf w 8 3 with
  | 0 => some (.blkcpy i a b c)
  | 1 => some (.blkfill i a b c)
  | 2 => some (.blkcmp i a b c)
  | 3 => some (.blkcrc i a b c)
  | _ => none

/-- Format JR (R161). -/
def decodeJr (i : Iss) (w : Nat) : Option Instr :=
  match fieldOf w 13 3 with
  | 0 => some (.bRegister i (regOf w 16))
  | 1 => some (.callRegister i (regOf w 16))
  | 2 => some (.ret i)
  | 3 => some (.eret i)
  | 4 => some (.gret i)
  | _ => none

/-- Format S (R185). -/
def decodeS (i : Iss) (w : Nat) : Option Instr :=
  let rd := regOf w 21
  let rs := regOf w 16
  match fieldOf w 12 4 with
  | 0 => some (.mask i rd (.imm (BitVec.ofNat 3 (fieldOf w 0 3))))
  | 1 => some (.mask i rd (.reg rs))
  | 2 => some (.feat i rd (BitVec.ofNat 4 (fieldOf w 0 4)))
  | 3 => some (.sealReg i rd rs)
  | 4 =>
    (match fieldOf w 0 2 with
     | 0 => some (.tlbinvUnlocked i)
     | 1 => some (.tlbinvAll i)
     | 2 => some (.tlbinvPage i rs)
     | _ => none)
  | 5 => some (.ipi i rs (BitVec.ofNat 3 (fieldOf w 0 3)))
  | 6 => some (.fence i)
  | 7 => some (.linend i)
  | _ => none

/-- The fields of a word whose opcode is defined (R160, R161). -/
def decodeFields (i : Iss) (w : Nat) : Option Instr :=
  let rd := regOf w 21
  let a := regOf w 16
  let imm : Src := .imm (BitVec.ofNat 16 (fieldOf w 0 16))
  let disp := BitVec.ofNat 26 (fieldOf w 0 26)
  match fieldOf w 26 6 with
  | 0x01 => decodeR i w
  | 0x02 => some (.add i rd a imm)
  | 0x03 => some (.addt i rd a imm)
  | 0x04 => some (.sub i rd a imm)
  | 0x05 => some (.subt i rd a imm)
  | 0x06 => some (.and i rd a imm)
  | 0x07 => some (.or i rd a imm)
  | 0x08 => some (.xor i rd a imm)
  | 0x09 => some (.mul i rd a imm)
  | 0x0A | 0x0B | 0x0C => decodeBits i w
  | 0x0D => some (.chk i rd (BitVec.ofNat 16 (fieldOf w 0 16)))
  | 0x1A => decodeBk i w
  | 0x20 => some (.b i disp)
  | 0x21 => some (.bcc i (BitVec.ofNat 4 (fieldOf w 22 4)) (BitVec.ofNat 22 (fieldOf w 0 22)))
  | 0x22 => some (.call i disp)
  | 0x23 => decodeJr i w
  | 0x24 => some (.gate i (BitVec.ofNat 8 (fieldOf w 0 8)))
  | 0x30 => decodeS i w
  | _ => decodeM i w

/-- The instruction that a 32-bit instruction word spells for an issue slot; none for an illegal encoding (R159). -/
def decodeWord (i : Iss) (w : Nat) : Option Instr := if (illegalDetail w).isSome then none else decodeFields i w

/-- The fetch of the next instruction of pen `p`, where nothing holds issue and no interrupt comes before it (R226). -/
def State.fetchNext (s : State) (p : Nat) : FetchOut :=
  match s.runs p with
  | none => .untranslated
  | some r =>
    if (s.pen p).hold = .none && (s.pen p).irqLevel.isNone then s.fetch p r false else .untranslated

/-- The instruction word at an address within its code word (R157). -/
def codeHalf (pc : Word) (w : TWord) : Nat := if bitAt pc 2 then bitsOf w.val 32 32 else bitsOf w.val 0 32

/-- The detail of the illegal encoding that was fetched for the program counter, if it is one (R157 to R159). -/
def Pen.illegal (x : Pen) : Option Nat :=
  match x.codeWord with
  | none => none
  | some w => if w.tag ≠ Tag.raw then some 4 else illegalDetail (codeHalf x.pc w)

/-- The instruction that was fetched for the program counter, if it is one (R157). -/
def Pen.fetched (x : Pen) (i : Iss) : Option Instr :=
  match x.codeWord with
  | none => none
  | some w => if w.tag ≠ Tag.raw then none else decodeWord i (codeHalf x.pc w)

/-- The illegal encoding at the program counter, and the state after its fetch. -/
def State.illegalAt (s : State) (p : Nat) : Option (Nat × State) :=
  match s.fetchNext p with
  | .served t => (t.pen p).illegal.map (fun d => (d, t))
  | .bus _ _ | .untranslated => none

/-- ILLEGAL_ENCODING (R158, R159): the word at the program counter is no instruction. -/
def execIllegalEncoding (p : PenN) (s : State) : Host.Outcome State Fault Refusal :=
  guarded (s.illegalAt p.val).isSome s (fun s =>
    match s.illegalAt p.val with
    | some x => (x.2.takeExc p.val (excIllegal x.1)).getD s
    | none => s)

/-- The instruction bus fault at the program counter, if there is one (R201, R260, R286). -/
def State.fetchBus (s : State) (p : Nat) : Option (Nat × State) :=
  match s.fetchNext p with
  | .bus b t => some (b, t)
  | .served _ | .untranslated => none

/-- INSTRUCTION_BUS_FAULT (R201, R221, R286): it is taken at vector 8. -/
def execInstructionBusFault (p : PenN) (s : State) : Host.Outcome State Fault Refusal :=
  guarded (s.fetchBus p.val).isSome s (fun s =>
    match s.fetchBus p.val with
    | some x => (x.2.takeExc p.val { vector := 8, level := 5, bcause := x.1, addr := (s.pen p.val).pc }).getD s
    | none => s)

end Sys2Proof.Machine
end

