-- ==== Sys2Proof/Machine/PenEvents.lean ====
section
/-! DEFINITION. Events at a pen: interrupts (R214, R241 to R243), pen faults (R100 to R104, R123), cross-link
disagreements (R109), and the Huvas's writes of `PEN_CTRL` and `PEN_INJECT` (R121 to R123). -/

namespace Sys2Proof.Machine

/-- Main power is up. -/
def State.powered (s : State) : Bool := s.dev ≠ .off && s.dev ≠ .dormant

/-- Nothing that an interrupt must wait for holds the pen (R214): a divide or a draft copy is abandoned, and a block
instruction stands at a sampling point (R181). -/
def Pen.yields (x : Pen) : Bool :=
  match x.hold with
  | .none | .copy _ _ | .divide _ _ _ _ => true
  | .block _ => x.blkDone % 8 = 0
  | .walk _ _ _ _ | .fabric _ _ _ => false

/-- The pen accepts its highest unmasked interrupt (R214, R223, R226, R236). -/
def State.interrupt (s : State) (p : Nat) : State :=
  let rs := (s.pen p).blkDone ≠ 0
  let t := (s.dropCopy p).modPen p (fun x => { x with hold := .none })
  (t.acceptIrq p rs).getD s

/-- INTERRUPT_ENTRY (R214, R223 to R227). -/
def execInterruptEntry (p : PenN) (s : State) : Host.Outcome State Fault Refusal :=
  guarded ((s.runs p.val).isSome && (s.pen p.val).irqLevel.isSome && (s.pen p.val).yields) s
    (fun s => s.interrupt p.val)

/-- The run that pen `p` executes has not ended. -/
def State.runLive (s : State) (p : Nat) : Bool :=
  (s.pen p).st = .run && (match (s.pen p).run with
    | some r => r.linend = none
    | none => false)

/-- The pen whose pending bits an interrupt addressed to pen `p` sets: the even pen of a JOINED pair, the running pen of
a SOLO one, else `p` (R241). -/
def State.ipiTarget (s : State) (p : Nat) : Nat :=
  let o := otherOf p
  if s.runLive p then
    (match (s.pen p).run with
     | some r => if r.mode = .joined then evenOf p else p
     | none => p)
  else match (s.pen o).run with
    | some r => if r.mode = .solo && s.runLive o then o else p
    | none => p

/-- The oldest interrupt of a level on its way to pen `p` that can have arrived: 11 cycles after its issue (R241). -/
def State.ipiDue (s : State) (p level : Nat) : Option IpiFly :=
  s.ipiFly.find? (fun f => f.target = p && f.level = level && f.since + 11 ≤ s.cyc)

/-- An inter-pen interrupt reaches a pen: pending, or dropped and counted (R242, R243). -/
def State.ipiArrive (s : State) (f : IpiFly) : State :=
  let s := { s with ipiFly := s.ipiFly.erase f }
  let q := s.ipiTarget f.target
  if s.runLive q then s.modPen q (fun x => { x with ipiPend := x.ipiPend ||| BitVec.ofNat 8 (2 ^ f.level) })
  else s.modPen f.target (fun x => { x with ipiDrop := satInc 0xFFFFFFFF x.ipiDrop })

/-- IPI_ARRIVE (R241 to R243): an interrupt that was sent arrives. -/
def execIpiArrive (p : PenN) (level : BitVec 3) (s : State) : Host.Outcome State Fault Refusal :=
  guarded (s.ipiDue p.val level.toNat).isSome s (fun s =>
    match s.ipiDue p.val level.toNat with
    | some f => s.ipiArrive f
    | none => s)

/-- The cause and groups of a report (R103); none for a divergence in no group. The report of an armed injection is
INJECTED (R122, R123). -/
def State.penCause (s : State) (p : Nat) (r : PenReport) : Option (Nat × Nat) :=
  match r with
  | .diverge g =>
    let j := (s.pen p).inject
    if g = 0 then none
    else if s.mayInject p && bitAt j 8 && g.toNat = 2 ^ bitsOf j 0 3 then some (pfInjected, g.toNat)
    else some (pfDiverge, g.toNat)
  | .comparatorSelf => some (pfComparator, 0)
  | .fabricCrc => some (pfFabric, 0)

/-- An injection that was seen disarms `PEN_INJECT`. -/
def State.disarmPen (s : State) (p cause : Nat) : State :=
  if cause = pfInjected then s.modPen p (fun x => { x with inject := setBit x.inject 8 false }) else s

/-- A pen fault of a report (R100 to R103, R123). -/
def State.penReport (s : State) (p : Nat) (r : PenReport) : State :=
  match s.penCause p r with
  | none => s
  | some c => raised ((s.disarmPen p c.1).stopPen p c.1 c.2)

/-- The JOINED run that the cross-link of a pair compares. -/
def State.joinedRun (s : State) (e : Nat) : Option Run :=
  let j (o : Option Run) : Option Run := o.filter (fun r => r.mode = .joined)
  match j (s.pen e).ending with
  | some r => some r
  | none => j (s.pen e).run

/-- Both pens of a pair report in one cycle (R109): a JOINED run is killed, and other runs are hit one by one. -/
def State.pairReport (s : State) (e : Nat) (a b : PenReport) : State :=
  match s.joinedRun e, s.penCause e a, s.penCause (oddOf e) b with
  | some r, some x, some y => raised (s.bothStop e r x y)
  | _, _, _ => (s.penReport e a).penReport (oddOf e) b

/-- PEN_FAULT (R101 to R104, R109). `both` is the report of the other pen of the pair in the same cycle, if it makes one. -/
def execPenFault (p : PenN) (r : PenReport) (both : Option PenReport) (s : State) : Host.Outcome State Fault Refusal :=
  guarded (s.powered && s.inService p.val) s (fun s =>
    match both with
    | some q =>
      if !s.inService (otherOf p.val) then s.penReport p.val r
      else if p.val % 2 = 0 then s.pairReport p.val r q else s.pairReport (evenOf p.val) q r
    | none => s.penReport p.val r)

/-- CROSSLINK_DISAGREE (R108, R109). -/
def execCrosslinkDisagree (k : Fin 32) (s : State) : Host.Outcome State Fault Refusal :=
  guarded (s.joinedRun (2 * k.val)).isSome s (fun s =>
    match s.joinedRun (2 * k.val) with
    | some r => raised (s.crossStop (2 * k.val) r)
    | none => s)

/-- PEN_CTRL_RESTART (R121). -/
def execPenCtrlRestart (p : PenN) (s : State) : Host.Outcome State Fault Refusal :=
  guarded s.powered s (fun s => s.restartPen p.val)

/-- PEN_CTRL_FENCE (R121, R376). -/
def execPenCtrlFence (p : PenN) (s : State) : Host.Outcome State Fault Refusal :=
  guarded s.powered s (fun s => raised (s.fencePen p.val))

/-- PEN_INJECT_ARM (R122, R123). -/
def execPenInjectArm (p : PenN) (group : Fin 8) (s : State) : Host.Outcome State Fault Refusal :=
  guarded s.powered s (fun s => s.injectWrite p.val (BitVec.ofNat 64 (256 + group.val)))

end Sys2Proof.Machine
end

