-- ==== Sys2Proof/Machine/Time.lean ====
section
/-! DEFINITION. Time sources: the measured offset and the slew, PPS and TICK_IN edges, gPTP, holdover (R32 to R35,
R394). -/

namespace Sys2Proof.Machine

/-! ### Offset, slew and step (R33) -/

/-- The rate, in parts per billion, at which the counter is slewed towards its source: the full permitted rate above the
limit, and a rate that the manual leaves open below it, never above the permitted one. -/
def slewTo (maxPpm : Nat) (limit : Nat) (last off : Int) : Int :=
  let full : Nat := 1000 * maxPpm
  let r : Nat := if limit < off.natAbs then full else min full (Config.slewRate off)
  if 0 < off then -(r : Int) else if off < 0 then (r : Int) else clipRate maxPpm last

/-- A measurement of the counter against its source: the offset is recorded, the rate follows it, holdover ends; above
STEP_LIMIT_NS in RUN, TIME_OFFSET_LIMIT is raised (R33, R34). -/
def State.measure (s : State) (off : Int) : State :=
  let far := s.folio.stepLim < off.natAbs
  let s := { s with
    aon := { s.aon with steer := slewTo s.folio.maxPpm s.folio.stepLim s.aon.steer off },
    folio := { s.folio with offset := BitVec.ofInt 64 off, synced := !far, holdover := false } }
  if far && s.dev = .run then
    { s with folio := { s.folio with event := s.folio.event ||| 8 } }.raise { cls := 0x40 }
  else s

/-- The counter is stepped to its source (R33, R441): by the offset last measured. -/
def State.stepCounter (s : State) : State :=
  { s with aon := { s.aon with time := s.aon.time - s.folio.offset, valid := true },
           folio := { s.folio with offset := 0, synced := true } }

/-- The source is lost (R34): holdover, once. -/
def State.enterHoldover (s : State) : State :=
  if s.folio.holdover then s
  else { s with folio := { s.folio with holdover := true, event := s.folio.event ||| 4 } }.raise { cls := 0x41 }

/-! ### PPS (R32) -/

/-- The whole second nearest to a counter time. -/
def nearestSecond (t : Nat) : Nat := (t + 500000000) / 1000000000 * 1000000000

/-- PPS_EDGE (R32, R33): the edge is a whole second of counter time. -/
def execPpsEdge (s : State) : Host.Outcome State Fault Refusal :=
  guarded (s.powered && s.folio.tsrc = 2) s (fun s =>
    let t := s.aon.time.toNat
    { s with folio := { s.folio with ppsAt := t } }.measure ((t : Int) - (nearestSecond t : Int)))

/-! ### TICK_IN (R35) -/

/-- The tick time that the next edge is expected at. -/
def State.expectedTick (s : State) : Nat := s.nextTick

/-- The tick instant nearest to a counter time (R30). -/
def State.nearestTick (s : State) (t : Nat) : Nat := s.tickAtOrAfter (t - s.folio.period / 2)

/-- The edge lies in the tolerance window of a tick that has been made, or is about to be made, already. -/
def State.secondEdge (s : State) (t : Nat) : Bool :=
  s.folio.edgeAt.isSome || (s.folio.running && t < s.folio.tickTime.toNat + s.folio.tolNs)

/-- An edge that is ignored as early. -/
def State.earlyEdge (s : State) : State := { s with folio := { s.folio with event := s.folio.event ||| 2 } }

/-- An edge of TICK_IN (R35). While folios are not enabled it only measures the offset (R32). -/
def State.tickinEdge (s : State) : State :=
  let t := s.aon.time.toNat
  if !s.folio.en then s.measure ((t : Int) - (s.nearestTick t : Int))
  else if s.secondEdge t then s.earlyEdge
  else
    let e := s.expectedTick
    if e ≤ t + s.folio.tolNs && t < e + s.folio.tolNs then
      { s with folio := { s.folio with edgeAt := some (s.cyc + 3), edgeTick := e, consecMiss := 0 } }.measure
        ((t : Int) - (e : Int))
    else s.earlyEdge.raise { cls := 0x42 }

/-- TICKIN_EDGE (R35). -/
def execTickinEdge (s : State) : Host.Outcome State Fault Refusal :=
  guarded (s.powered && s.folio.tsrc = 3) s State.tickinEdge

/-- No edge has come by E + TOL. -/
def State.missDue (s : State) : Bool :=
  s.powered && s.folio.tsrc = 3 && s.folio.en && s.folio.edgeAt.isNone
    && s.expectedTick + s.folio.tolNs ≤ s.aon.time.toNat

/-- A missing edge: the part ticks now and counts it; MISS_MAX misses running are the loss of the source (R34, R35). -/
def State.tickinMiss (s : State) : State :=
  let s := { s with folio := { s.folio with
    edgeAt := some s.cyc, edgeTick := s.expectedTick, missed := satInc 0xFFFF s.folio.missed,
    consecMiss := s.folio.consecMiss + 1, event := s.folio.event ||| 1 } }
  let s := s.raise { cls := 0x42 }
  if s.folio.missMax ≤ s.folio.consecMiss then s.enterHoldover else s

/-- TICKIN_MISS (R35). -/
def execTickinMiss (s : State) : Host.Outcome State Fault Refusal := guarded s.missDue s State.tickinMiss

/-! ### gPTP (R394) -/

/-- The gPTP instance of a MAC works. -/
def State.ptpUp (s : State) (m : Nat) : Bool := s.powered && s.macUp m && bitAt (s.mac m).ptpCfg 0

/-- The gPTP instance of a MAC measures the path delay. -/
def State.pdelayUp (s : State) (m : Nat) : Bool := s.ptpUp m && bitAt (s.mac m).ptpCfg 16

/-- A valid Sync of master time `master`: counter minus source is taken at the corrected reception time, with the link
delay added to the master's time. The sync interval is the one that the Sync carries (assumption log 108). -/
def State.gptpSync (s : State) (m : Nat) (master : Word) (log : BitVec 8) : State :=
  let x := s.mac m
  let s := s.modMac m (fun x => { x with ptpSync := true, syncAt := s.aon.time.toNat, syncLog := log })
  if s.folio.tsrc = 1 && s.folio.gptpPort = m then
    s.measure ((s.aon.time.toNat : Int) - bitsOf x.phyDly 16 16 - (master.toNat : Int) - x.pathNs)
  else s

/-- GPTP_SYNC (R32, R33, R394). -/
def execGptpSync (mac : Fin 4) (masterTime : Word) (logSync : BitVec 8) (s : State) : Host.Outcome State Fault Refusal :=
  guarded (s.ptpUp mac.val) s (fun s => s.gptpSync mac.val masterTime logSync)

/-- The Pdelay_Req interval in ns: 2 to the power of LOG_PDELAY seconds. -/
def pdelayNs (cfg : Word) : Nat :=
  let k := bitsOf cfg 24 4
  if k < 8 then 1000000000 * 2 ^ k else 1000000000 / 2 ^ (16 - k)

/-- The instance sends a Pdelay_Req. -/
def State.pdelayRequest (s : State) (m : Nat) : State :=
  (s.modMac m (fun x => { x with reqOut := true, reqAt := s.aon.time.toNat + pdelayNs x.ptpCfg })).emit (.pdelay m false)

/-- PDELAY_REQUEST (R394): at its interval. -/
def execPdelayRequest (mac : Fin 4) (s : State) : Host.Outcome State Fault Refusal :=
  guarded (s.pdelayUp mac.val && (s.mac mac.val).reqAt ≤ s.aon.time.toNat) s (fun s => s.pdelayRequest mac.val)

/-- A path delay frame: a request is answered, a response to the own request gives the mean link delay. -/
def State.pdelayReceive (s : State) (m : Nat) (f : PdelayFrame) : State :=
  match f with
  | .request => s.emit (.pdelay m true)
  | .response d => if (s.mac m).reqOut then s.modMac m (fun x => { x with reqOut := false, pathNs := d.toNat }) else s

/-- PDELAY_RECEIVE (R394). -/
def execPdelayReceive (mac : Fin 4) (f : PdelayFrame) (s : State) : Host.Outcome State Fault Refusal :=
  guarded (s.pdelayUp mac.val) s (fun s => s.pdelayReceive mac.val f)

/-! ### Holdover (R34) -/

/-- A GPTP source is lost (R34): no valid Sync for three sync intervals, counted from the choice of the source at the
earliest, or the port's link down. -/
def State.gptpLost (s : State) : Bool :=
  s.folio.tsrc = 1 && (!(s.mac s.folio.gptpPort).link || !s.syncFresh s.folio.gptpPort s.folio.ppsAt)

/-- The source is lost now: GPTP without Sync or link, PPS after 2 s without an edge, TICK_IN after MISS_MAX misses. -/
def State.sourceLost (s : State) : Bool :=
  s.powered && !s.folio.holdover &&
    (s.gptpLost || (s.folio.tsrc = 2 && s.folio.ppsAt + 2000000000 ≤ s.aon.time.toNat)
      || (s.folio.tsrc = 3 && 0 < s.folio.consecMiss && s.folio.missMax ≤ s.folio.consecMiss))

/-- The Syncs of a MAC have stopped: PTP_SYNC clears and SYNC_LOST is set (R409). -/
def State.syncLost (s : State) (m : Nat) : State :=
  s.modMac m (fun x => { x with ptpSync := false, event := x.event ||| 4 })

/-- HOLDOVER_ENTRY (R34). -/
def execHoldoverEntry (s : State) : Host.Outcome State Fault Refusal :=
  guarded s.sourceLost s (fun s =>
    (if s.folio.tsrc = 1 then s.syncLost s.folio.gptpPort else s).enterHoldover)

end Sys2Proof.Machine
end

