-- ==== Sys2Proof/Machine/TrainIo.lean ====
section
/-! DEFINITION. Train network and local I/O: Ethernet, CAN FD, GPIO, and the records that they bring into INPUT pages
(R389 to R406). -/

namespace Sys2Proof.Machine

/-! ### Records (R389, R390, R406) -/

/-- Queue a receive or sample record of counter time `t` (R390): deferred past a tick that is 320 cyc or less away, and
counted then; a record at a tick instant waits for that tick. -/
def State.pushRecord (s : State) (di t : Nat) (body : RxBody) : State :=
  let next := s.tickAtOrAfter (t + 1)
  let late := 3 * (next - t) ≤ 640
  let nb := if late then next else if s.tickAtOrAfter t = t then t else 0
  { s with feed := { s.feed with
      rxq := s.feed.rxq ++ [⟨di, BitVec.ofNat 64 t, BitVec.ofNat 64 nb, body⟩],
      rxBand := if late then satInc 0xFFFFFFFF s.feed.rxBand else s.feed.rxBand } }

/-- FEED_RECORD_WRITE (R389, R390, R406). -/
def execFeedRecordWrite (crcError : Bool) (s : State) : Host.Outcome State Fault Refusal :=
  guarded s.recordReady s (fun s => s.writeOldest crcError)

/-! ### Ethernet receipt (R392, R395, R398) -/

/-- What a received frame says: VID (0 for untagged), R-TAG sequence number, EtherType after any tag, and where it ends. -/
structure EthParse where
  vid  : Nat
  rtag : Option Nat
  type : Nat
  pos  : Nat
  deriving DecidableEq, Repr

def ethParse (f : List Byte) : EthParse :=
  let tagged := fieldAt f 12 2 = 0x8100
  let p := if tagged then 16 else 12
  let vid := if tagged then fieldAt f 14 2 % 4096 else 0
  if fieldAt f p 2 = 0xF1C1 then ⟨vid, some (fieldAt f (p + 4) 2), fieldAt f (p + 6) 2, p + 8⟩
  else ⟨vid, none, fieldAt f p 2, p + 2⟩

/-- A frame that the MAC drops as malformed: size, a second tag, PAUSE and PFC. `f` runs to before the FCS. -/
def ethMalformed (f : List Byte) : Bool :=
  let e := ethParse f
  f.length < 60 || 1518 < f.length || e.type = 0x8100 || e.type = 0x88A8 || e.type = 0x8808

/-- The IPv4 and TRDP checks of a frame whose IPv4 header begins at `p` (R398): the length of its dataset. -/
def trdpLength (f : List Byte) (p : Nat) : Option Nat :=
  let h := (f.drop p).take 20
  let t := (f.drop (p + 28)).take 40
  let n := fieldAt t 20 4
  if fieldAt h 0 1 = 0x45 && fieldAt h 6 2 % 0x4000 = 0 && fieldAt h 9 1 = 17 && inetSum h = 0
      && fieldAt f (p + 22) 2 = 17224 && fieldAt t 6 2 = 0x5064 && fieldAt t 4 1 = 1
      && fieldAt t 36 4 = (Config.trdpFcs (t.take 36)).toNat && n ≤ 1432 && p + 68 + n ≤ f.length then some n
  else none

/-- An ETH_IN channel matches a frame. -/
def ethMatches (d : Desc) (f : List Byte) (e : EthParse) : Bool :=
  fieldAt f 0 6 = bitsOf (dWord d 2) 0 48 && e.type = bitsOf (dWord d 3) 0 16 && e.vid = bitsOf (dWord d 3) 16 12

/-- A TRDP_IN channel matches a frame. -/
def trdpMatches (d : Desc) (f : List Byte) (e : EthParse) : Bool :=
  let src := bitsOf (dWord d 2) 32 32
  e.type = 0x0800 && (trdpLength f e.pos).isSome && fieldAt f (e.pos + 36) 4 = bitsOf (dWord d 2) 0 32
    && fieldAt f (e.pos + 16) 4 = bitsOf (dWord d 3) 0 32 && e.vid = bitsOf (dWord d 3) 32 12
    && (src = 0 || fieldAt f (e.pos + 12) 4 = src)

/-- The receive channels of every defined set that name a MAC. -/
def State.ethChannels (s : State) (m : Nat) : List (Nat × Desc) :=
  s.allChannels.filter (fun e => (dType e.2 = 4 || dType e.2 = 6) && (dMacs e.2).contains m)

/-- The elimination function accepts a sequence number (R395). -/
def cbAccepts (c : CbState) (expired : Bool) (seq : Nat) : Bool :=
  let d := (BitVec.ofNat 16 (seq + 65536 - c.last)).toInt
  !c.seen || expired || 0 < d || (-32 < d && !c.hist.contains seq)

/-- The elimination state after accepting a number: the history holds those of the 32 numbers up to the last one that have
been accepted. -/
def cbAccept (c : CbState) (expired : Bool) (seq : Nat) (now : Word) : CbState :=
  let d := (BitVec.ofNat 16 (seq + 65536 - c.last)).toInt
  if !c.seen || expired then { seen := true, last := seq, hist := [seq], at_ := now }
  else
    let last := if 0 < d then seq else c.last
    { seen := true, last := last, hist := (seq :: c.hist).filter (fun x => (last + 65536 - x) % 65536 < 32), at_ := now }

/-- Elimination on a channel with CB = 1: whether the frame is accepted. -/
def State.eliminate (s : State) (m di : Nat) (e : EthParse) : Bool × State :=
  let drop : Bool × State := (false, s.modMac m (fun x => { x with dropCb := satInc 0xFFFF x.dropCb }))
  match e.rtag with
  | none => drop
  | some seq =>
    let c := Table.get (fun _ => ({} : CbState)) s.feed.cb di
    let exp := c.at_.toNat + 1000000 * bitsOf (s.mac m).cbCfg 0 16 ≤ s.aon.time.toNat
    if cbAccepts c exp seq then
      (true, { s with feed := { s.feed with cb := Table.set (fun _ => {}) s.feed.cb di (cbAccept c exp seq s.aon.time) } })
    else drop

/-- The record of a frame for a channel (R389): LEN, TRUNC and sequenceCounter; the header word; the data. -/
def ethBody (d : Desc) (f : List Byte) (e : EthParse) : RxBody :=
  let trunc (n : Nat) : Nat := bitN (dCount d * dElem d < n)
  if dType d = 4 then
    let data := f.drop e.pos
    .frame (BitVec.ofNat 64 (data.length + trunc data.length * 2 ^ 24))
      (BitVec.ofNat 64 (fieldAt f 6 6 + e.vid * 2 ^ 48)) data
  else
    let n := (trdpLength f e.pos).getD 0
    let q := e.pos + 28
    .frame (BitVec.ofNat 64 (n + trunc n * 2 ^ 24 + fieldAt f q 4 * 2 ^ 32))
      (BitVec.ofNat 64 (fieldAt f (q + 12) 4 + fieldAt f (q + 16) 4 * 2 ^ 32)) ((f.drop (q + 40)).take n)

/-- Deliver a frame to one matching channel. -/
def State.deliverEth (s : State) (m : Nat) (c : Nat × Desc) (f : List Byte) (e : EthParse) : State :=
  let push (s : State) : State := s.pushRecord c.1 (s.aon.time.toNat - bitsOf (s.mac m).phyDly 16 16) (ethBody c.2 f e)
  if dCb c.2 then
    let x := s.eliminate m c.1 e
    if x.1 then push x.2 else x.2
  else push s

/-- A frame with a good FCS and form is offered to the channels of its MAC, which act in RUN (R383, R398). -/
def State.offerEth (s : State) (m : Nat) (f : List Byte) : State :=
  let e := ethParse f
  let cs := if s.dev = .run then s.ethChannels m else []
  let hits := cs.filter (fun c => if dType c.2 = 4 then ethMatches c.2 f e else trdpMatches c.2 f e)
  let badTrdp := e.type = 0x0800 && cs.any (fun c => dType c.2 = 6) && (trdpLength f e.pos).isNone
  if hits = [] then
    s.modMac m (fun x => if badTrdp then { x with dropFormat := satInc 0xFFFF x.dropFormat }
                         else { x with dropMatch := satInc 0xFFFF x.dropMatch })
  else
    let n := s.feed.rxq.length
    let s := s.forAll hits (fun c t => t.deliverEth m c f e)
    if n < s.feed.rxq.length then s.modMac m (fun x => { x with cntRx := satInc 0xFFFFFFFF x.cntRx }) else s

/-- A frame arrives: FCS, form, gPTP, channels. -/
def State.ethReceive (s : State) (m : Nat) (f : List Byte) (fcsGood : Bool) : State :=
  if !fcsGood then s.modMac m (fun x => { x with dropFcs := satInc 0xFFFF x.dropFcs })
  else if ethMalformed f then s.modMac m (fun x => { x with dropFormat := satInc 0xFFFF x.dropFormat })
  else if (ethParse f).type = 0x88F7 then s
  else s.offerEth m f

/-- ETH_FRAME_RECEIVE (R392, R395, R398). The frame runs from the destination address to before its FCS. -/
def execEthFrameReceive (mac : Fin 4) (frame : List Byte) (fcsGood : Bool) (s : State) : Host.Outcome State Fault Refusal :=
  guarded (s.powered && s.macUp mac.val) s (fun s => s.ethReceive mac.val frame fcsGood)

/-! ### Ethernet transmission (R393) -/

/-- Ten times the rate of a MAC in Gb/s. -/
def rate10 (ctrl : Word) : Nat := match bitsOf ctrl 4 2 with
  | 0 => 100
  | 1 => 25
  | _ => 10

/-- Cycles that a frame of `n` bytes before its FCS needs its gate open: ceil(12 × (L + 20) / R). -/
def gateCycles (ctrl : Word) (n : Nat) : Nat := (120 * (n + 24) + rate10 ctrl - 1) / rate10 ctrl

/-- The GATE lines of a MAC in the active ruling: START and mask, in order. -/
def State.gateLines (s : State) (m : Nat) : List (Nat × Nat) :=
  ((s.linesOf s.active).filter (fun e => e.2.isWin && e.2.wtype = 5 && e.2.unit = m)).map (fun e => (e.2.start, e.2.arg % 256))

/-- The cycle offset at which the gate of a class next closes, if it does: a GATE line of this folio that clears it, the
tick if the wrap state clears it, or a GATE line of the next folio. -/
def State.gateCloses (s : State) (m tc : Nat) : Option Nat :=
  let ls := s.gateLines m
  let f := nominalF s.folio.period
  let now := ls.filter (fun l => s.folioCyc < l.1 && !l.2.testBit tc)
  let wrap := match ls.getLast? with
    | some l => if l.2.testBit tc then [] else [f]
    | none => []
  (now.map (·.1) ++ wrap ++ (ls.filter (fun l => !l.2.testBit tc)).map (fun l => f + l.1)).head?

/-- A queued frame may start now: its gate is open, and stays open long enough. -/
def State.mayStart (s : State) (m : Nat) (t : EthTx) : Bool :=
  (Table.get (fun _ => 255) s.folio.gates m).testBit t.tc &&
    (match s.gateCloses m t.tc with
     | some c => s.folioCyc + gateCycles (s.mac m).ctrl t.bytes.length ≤ c
     | none => true)

/-- The frame that a MAC sends next: of the highest class that may start, the one that entered first. -/
def State.nextFrame (s : State) (m : Nat) : Option EthTx :=
  ((upTo 8).reverse.filterMap (fun tc => (s.mac m).txq.find? (fun t => t.tc = tc))).find? (s.mayStart m)

/-- A publication that has been sent is OK unless another copy of it has failed (R388, R395). -/
def State.sentOk (s : State) (di : Nat) : State :=
  match (s.desc di).newStatus with
  | some (0, _) | none => s.setDescStatus di stOk
  | some _ => s

/-- A MAC sends its next frame. -/
def State.ethTransmit (s : State) (m : Nat) : State :=
  match s.nextFrame m with
  | none => s
  | some t =>
    let s := s.modMac m (fun x => { x with txq := x.txq.erase t, cntTx := satInc 0xFFFFFFFF x.cntTx })
    (s.emit (.ethFrame m t.bytes)).sentOk t.desc

/-- ETH_FRAME_TRANSMIT (R393): a frame starts, and completes. -/
def execEthFrameTransmit (mac : Fin 4) (s : State) : Host.Outcome State Fault Refusal :=
  guarded (s.powered && s.macUp mac.val) s (fun s => s.ethTransmit mac.val)

/-- The link of a MAC is lost: its queue is withdrawn, ETH_LINK_DOWN is raised, a gPTP source on it is lost (R34, R393). -/
def State.ethDown (s : State) (m : Nat) : State :=
  let s := s.modMac m (fun x => { x with link := false, event := x.event ||| 1 })
  let s := s.ethWithdraw m stPortDown
  let s := s.raise { cls := 0x70, utype := 4, unit := m, detail := 2 * bitN (s.ptpSynced m) }
  let s := if s.ptpSynced m then s.syncLost m else s
  if s.folio.tsrc = 1 && s.folio.gptpPort = m then s.enterHoldover else s

/-- ETH_LINK_DOWN (R34, R393). -/
def execEthLinkDown (mac : Fin 4) (s : State) : Host.Outcome State Fault Refusal :=
  guarded (s.powered && s.macOn mac.val && (s.mac mac.val).link) s (fun s => s.ethDown mac.val)

/-- ETH_LINK_UP (R409). -/
def execEthLinkUp (mac : Fin 4) (s : State) : Host.Outcome State Fault Refusal :=
  guarded (s.powered && s.macOn mac.val && !(s.mac mac.val).link) s (fun s =>
    s.modMac mac.val (fun x => { x with link := true, event := x.event ||| 2 }))

/-! ### CAN FD (R399 to R401) -/

/-- The controller takes part in the bus. -/
def State.canUp (s : State) (c : Nat) : Bool := s.powered && s.canOn && (s.can c).st < 2

/-- Error confinement after new error counters (R399): entry to bus-off and to error-passive is reported. -/
def State.canErrors (s : State) (c tec rec : Nat) : State :=
  let old := (s.can c).st
  let st := if 255 < tec then 2 else if 127 < tec || 127 < rec then 1 else 0
  let bit := if st = old then 0 else if st = 2 then 1 else if st = 1 then 2 else 0
  let s := s.modCan c (fun x => { x with
    tec := min 255 tec, recv := min 255 rec, st := st, event := x.event ||| BitVec.ofNat 4 bit })
  if bit = 0 then s
  else s.raise { cls := if st = 2 then 0x71 else 0x72, utype := 5, unit := c,
                 detail := st + min 255 tec * 2 ^ 8 + min 255 rec * 2 ^ 16 }

/-- An error on the bus: the counters that the standard gives, and a protocol exception. -/
def State.canError (s : State) (c : Nat) (tec rec : BitVec 9) (pex : Bool) : State :=
  let s := s.canErrors c tec.toNat rec.toNat
  if pex && bitAt (s.can c).ctrl 5 then s.modCan c (fun x => { x with event := x.event ||| 8 }) else s

/-- The receive error counter after a good frame: one less, or, above 127, a value from 119 to 127. -/
def State.canGood (s : State) (c : Nat) : State :=
  let r := (s.can c).recv
  if r ≤ 127 then s.canErrors c (s.can c).tec (r - 1)
  else
    let x := s.takeFree
    x.2.canErrors c (x.2.can c).tec (119 + x.1.toNat % 9)

/-- The CAN_IN and CAN-source SAMPLE channels that a frame matches (R401). -/
def State.canHits (s : State) (c : Nat) (f : CanFrame) : List (Nat × Desc) :=
  let fits (id mask : Nat) (ide : Bool) : Bool := ide = f.ide && (id ^^^ f.id.toNat) &&& mask = 0
  s.allChannels.filter (fun e =>
    (dType e.2 = 8 && dUnit e.2 = c
      && fits (bitsOf (dWord e.2 2) 0 29) (bitsOf (dWord e.2 3) 0 29) (bitAt (dWord e.2 2) 29)) ||
    (dType e.2 = 11 && bitAt (dWord e.2 2) 0 && bitsOf (dWord e.2 2) 4 3 = c
      && fits (bitsOf (dWord e.2 3) 0 29) (bitsOf (dWord e.2 4) 0 29) (bitAt (dWord e.2 3) 29)))

/-- The header word of a CAN record (R389). -/
def canHeader (f : CanFrame) : Nat :=
  f.id.toNat + bitN f.ide * 2 ^ 29 + bitN f.fdf * 2 ^ 30 + bitN f.brs * 2 ^ 31 + bitN f.esi * 2 ^ 32

/-- The record of a CAN frame for a channel (R389, R406). -/
def canBody (d : Desc) (f : CanFrame) : RxBody :=
  let n := f.data.length
  if dType d = 8 then
    .frame (BitVec.ofNat 64 (n + bitN (dCount d * dElem d < n) * 2 ^ 24)) (BitVec.ofNat 64 (canHeader f)) f.data
  else
    .sample (dUnit d) (BitVec.ofNat 64 (canHeader f + n * 2 ^ 40) ::
      bytesWords 8 (f.data.take 64 ++ List.replicate (64 - n) 0))

/-- A good frame is delivered to every channel that it matches; remote and unmatched frames are counted (R399, R401). -/
def State.canDeliver (s : State) (c : Nat) (f : CanFrame) : State :=
  let hits := if s.dev = .run && !f.rtr then s.canHits c f else []
  if hits = [] then s.modCan c (fun x => { x with cntDrop := satInc 0xFFFF x.cntDrop })
  else
    (s.forAll hits (fun e t => t.pushRecord e.1 t.aon.time.toNat (canBody e.2 f))).modCan c
      (fun x => { x with cntRx := satInc 0xFFFF x.cntRx })

/-- CAN_FRAME_RECEIVE (R399, R401). -/
def execCanFrameReceive (c : Fin 8) (f : CanFrame) (o : CanOutcome) (s : State) : Host.Outcome State Fault Refusal :=
  guarded (s.canUp c.val) s (fun s => match o with
    | .ok => (s.canGood c.val).canDeliver c.val f
    | .arbLost => s
    | .error tec rec pex => s.canError c.val tec rec pex)

/-- The place of a frame in bus arbitration: the lower wins. -/
def canKey (f : CanFrame) : Nat :=
  if f.ide then f.id.toNat / 2 ^ 18 * 2 ^ 20 + 2 ^ 19 + f.id.toNat % 2 ^ 18 else f.id.toNat % 2 ^ 11 * 2 ^ 20

/-- The pending buffer that is offered next (R400). -/
def nextCan (q : List CanTx) : Option CanTx := q.find? (fun t => q.all (fun u => canKey t.frame ≤ canKey u.frame))

/-- A pending frame is sent, loses arbitration or meets an error; it stays pending unless it is sent (R400). -/
def State.canTransmit (s : State) (c : Nat) (o : CanOutcome) : State :=
  match nextCan (s.can c).txq with
  | none => s
  | some t =>
    match o with
    | .ok =>
      let s := s.modCan c (fun x => { x with txq := x.txq.erase t, cntTx := satInc 0xFFFF x.cntTx })
      let s := s.canErrors c ((s.can c).tec - 1) (s.can c).recv
      (s.emit (.canFrame c t.frame)).setDescStatus t.desc stOk
    | .arbLost => s
    | .error tec rec pex => s.canError c tec rec pex

/-- CAN_FRAME_TRANSMIT (R399, R400). -/
def execCanFrameTransmit (c : Fin 8) (o : CanOutcome) (s : State) : Host.Outcome State Fault Refusal :=
  guarded (s.canUp c.val && s.canNormal c.val) s (fun s => s.canTransmit c.val o)

/-- CAN_BUS_OFF_RECOVERY (R399): after 128 occurrences of 11 recessive bits. -/
def execCanBusOffRecovery (c : Fin 8) (s : State) : Host.Outcome State Fault Refusal :=
  guarded (s.powered && s.canOn && (s.can c.val).st = 2) s (fun s =>
    s.modCan c.val (fun x => { x with st := 0, tec := 0, recv := 0, event := x.event ||| 4 }))

/-! ### GPIO (R402 to R406) -/

/-- Compare the levels of driven pins with their output registers (R404). -/
def State.readback (s : State) (pins : List Nat) (levels : Word) : State :=
  let drive := s.gpioDrive
  let want := s.gpio.outReg ^^^ s.gpio.pol
  let bad := pins.filter (fun n => bitAt drive n && bitAt levels n != bitAt want n)
  let s := { s with gpio := { s.gpio with rbErr := bad.foldl (fun w n => setBit w n true) s.gpio.rbErr } }
  s.raiseAll (bad.map (fun n => { cls := 0x73, utype := 6, unit := n }))

/-- A pin's register has changed so lately that its readback delay still runs. -/
def State.inDelay (s : State) (n : Nat) : Bool :=
  s.gpio.changed.any (fun (c : Nat × Nat) => c.1 = n && s.cyc < c.2 + bitsOf s.gpio.rbDly 0 16)

/-- The capture time of the folio (R405): 64 ns before the next tick, in TICK_IN mode 64 ns before its window. -/
def State.captureTime (s : State) : Nat :=
  s.nextTick - 64 - (if s.folio.tsrc = 3 then s.folio.tolNs else 0)

/-- A GPIO_IN channel takes the captured levels: TIME, then one SBOOL per pin (R405); with a bank off its transfer fails
(R26). -/
def State.putPins (s : State) (di : Nat) (d : Desc) (time : Nat) (levels : Word) : State :=
  if !s.draftReady (dSlot d) then s.setDescStatus di stMemError
  else (s.feedDraft (dSlot d)).putWords (dSlot d) (dOffset d)
    (TWord.time (BitVec.ofNat 64 time) :: (pinsOf (dWord d 2)).map (fun n => TWord.bool (bitAt levels n)))

/-- The GPIO_IN channels take the captured levels; a fabric CRC error ends the first one's transfer (R20). -/
def State.capturePins (s : State) (time : Nat) (levels : Word) (crcError : Bool) : State :=
  match s.allChannels.filter (fun e => dType e.2 = 10) with
  | [] => s
  | c :: cs =>
    let s := if crcError then s.setDescStatus c.1 stFabricError else s.putPins c.1 c.2 time levels
    s.forAll cs (fun e u => u.putPins e.1 e.2 time levels)

/-- The folio-edge capture: readback of every driven pin outside its delay, and in RUN the GPIO_IN channels. -/
def State.gpioCapture (s : State) (levels : Word) (crcError : Bool) : State :=
  let t := s.captureTime
  let lv := levels &&& ~~~ s.timePins
  let s := { s with gpio := { s.gpio with level := lv, capFor := s.nextTick } }
  let s := if s.dev = .run then s.capturePins t lv crcError else s
  s.readback ((upTo 64).filter (fun n => !s.inDelay n)) lv

/-- GPIO_CAPTURE (R404, R405). -/
def execGpioCapture (levels : Word) (crcError : Bool) (s : State) : Host.Outcome State Fault Refusal :=
  guarded ((s.dev = .run || s.dev = .safe) && s.folio.running && s.canOn && s.captureTime ≤ s.aon.time.toNat
      && s.gpio.capFor ≠ s.nextTick) s (fun s => s.gpioCapture levels crcError)

/-- The GPIO-source sample channel of a number (R406). -/
def State.sampleChannel (s : State) (k : Nat) : Option (Nat × Desc) :=
  s.allChannels.find? (fun e => dType e.2 = 11 && dUnit e.2 = k && !bitAt (dWord e.2 2) 0)

/-- The sample is due at this cycle offset: PHASE + j × PERIOD. -/
def State.sampleDue (s : State) (d : Desc) : Bool :=
  let ph := bitsOf (dWord d 4) 0 28
  let per := bitsOf (dWord d 2) 16 24
  ph ≤ s.folioCyc && (s.folioCyc - ph) % max 1 per = 0

/-- Counter time of a sample: at offset 0 the tick time. -/
def State.sampleTime (s : State) : Nat := if s.folioCyc = 0 then s.folio.tickTime.toNat else s.aon.time.toNat

/-- GPIO_SAMPLE (R406). -/
def execGpioSample (k : Fin 8) (levels : Word) (s : State) : Host.Outcome State Fault Refusal :=
  match s.sampleChannel k.val with
  | none => answer s
  | some c => guarded (s.dev = .run && s.folio.running && s.canOn && s.sampleDue c.2
      && s.feed.rxq.all (fun r => r.desc ≠ c.1 || r.time.toNat ≠ s.sampleTime)) s
    (fun s => s.pushRecord c.1 s.sampleTime (.sample k.val [levels &&& ~~~ s.timePins &&& dWord c.2 3]))

/-- Pins whose readback delay has passed. -/
def State.rbDue (s : State) : List Nat :=
  (s.gpio.changed.filter (fun (c : Nat × Nat) => c.2 + bitsOf s.gpio.rbDly 0 16 ≤ s.cyc)).map (fun (c : Nat × Nat) => c.1)

/-- GPIO_READBACK (R404): after the delay of a change. -/
def execGpioReadback (levels : Word) (s : State) : Host.Outcome State Fault Refusal :=
  guarded (s.canOn && s.powered && s.rbDue ≠ []) s (fun s =>
    let pins := s.rbDue
    let lv := levels &&& ~~~ s.timePins
    { s with gpio := { s.gpio with
        level := lv, changed := s.gpio.changed.filter (fun (c : Nat × Nat) => !pins.contains c.1) } }.readback pins lv)

end Sys2Proof.Machine
end

