-- ==== Sys2Proof/Machine/Host.lean ====
section
/-! DEFINITION. The host interface: mailbox submission, inbound requests, doorbells, MSI-X, device power states, the link,
the configuration space, IDE and DOE (R322 to R351). -/

namespace Sys2Proof.Machine

/-! ### Mailbox submission (R350, R351) -/

/-- The function answers memory requests: link up, D0, Memory Space enabled. -/
def State.barOpen (s : State) : Bool := s.powered && s.hif.up && !s.hif.d3 && s.hif.memSpace

/-- MAILBOX_GO (R350, R351). -/
def execMailboxGo (m : MbN) (opcode token : BitVec 16) (upperHalf : Bool) (s : State) : Host.Outcome State Fault Refusal :=
  guarded s.barOpen s (fun s => s.goWrite m.val opcode token upperHalf)

/-- MAILBOX_ABORT (R351). -/
def execMailboxAbort (m : MbN) (s : State) : Host.Outcome State Fault Refusal :=
  guarded s.barOpen s (fun s => s.abortWrite m.val)

/-! ### Inbound requests (R326, R329) -/

/-- Send the pending messages of vectors that may be sent now (R339). -/
def State.flushMsix (s : State) : State :=
  s.forAll (s.hif.msix.map (·.1)) (fun v t =>
    let e := t.msixOf v
    if e.pend && t.hif.msixEn && !t.hif.funcMask && !e.ctrl.getLsbD 0 then
      (t.modMsix v (fun e => { e with pend := false })).sendMsix v
    else t)

/-- A write to the MSI-X table: address, data, and the vector control with its Mask bit. -/
def State.msixWrite (s : State) (off n : Nat) (w : Word) : State :=
  let v := (off - 0x8000) / 16
  let o := off % 16
  let s := s.modMsix v (fun e =>
    if o < 8 then { e with addr := putHalf e.addr o n w &&& ~~~ 3#64 }
    else if o = 8 then { e with data := w.setWidth 32, ctrl := if n = 8 then BitVec.ofNat 32 (bitsOf w 32 1) else e.ctrl }
    else { e with ctrl := BitVec.ofNat 32 (bitsOf w 0 1) })
  s.flushMsix

/-- A register of the control page occupies the offset (R329, R349). -/
def State.barOccupied (s : State) (off : Nat) : Bool :=
  (off < 0x1000 && (s.mailboxReg (off / 8 * 8)).isSome) || (0x1000 ≤ off && off < 0x1008)
    || (0x4000 ≤ off && off < 0x4100) || 0x8000 ≤ off

/-- An aligned request of 4 or 8 bytes to an occupied offset of BAR0. -/
def State.barHit (s : State) (off n : Nat) : Bool := (n = 4 || n = 8) && off % n = 0 && off < 0x10000 && s.barOccupied off

/-- A host memory write. The tracing aperture takes records only, which have rows of their own. -/
def State.hostWrite (s : State) (bar2 : Bool) (off n : Nat) (w : Word) (poisoned : Bool) : State :=
  if bar2 then (if poisoned then s.noteAer .poisoned else s)
  else if !s.barHit off n then { s.noteAer .unsupported with hif := { (s.noteAer .unsupported).hif with cntUr := satInc 0xFFFFFFFF s.hif.cntUr } }
  else if poisoned then s.noteAer .poisoned
  else if off < 0x1000 then s.pageWrite off n w
  else if off < 0x1008 then (if off = 0x1000 then s.ringDoorbell w else s)
  else if off < 0x8000 then s
  else s.msixWrite off n w

/-- INBOUND_WRITE (R326, R329, R351). -/
def execInboundWrite (bar2 : Bool) (off : BitVec 17) (size : BitVec 13) (w : Word) (poisoned ecrcBad : Bool) (s : State) :
    Host.Outcome State Fault Refusal :=
  guarded s.barOpen s (fun s =>
    if ecrcBad && s.hif.ecrcChk then s.noteAer .ecrc else s.hostWrite bar2 off.toNat size.toNat w poisoned)

/-- The 8-byte word of the control page at an offset. -/
def State.barWord (s : State) (off : Nat) : Word :=
  if off < 0x1000 then (match s.mailboxReg off with
    | some w => w.val
    | none => 0)
  else if off < 0x4000 then 0
  else if off < 0x8000 then
    BitVec.ofNat 64 ((upTo 64).foldl (fun n i => n + bitN (s.msixOf ((off - 0x4000) * 8 + i)).pend * 2 ^ i) 0)
  else
    let e := s.msixOf ((off - 0x8000) / 16)
    if off % 16 = 0 then e.addr else BitVec.ofNat 64 (e.data.toNat + e.ctrl.toNat * 2 ^ 32)

/-- A host memory read: its completion. -/
def State.hostRead (s : State) (bar2 : Bool) (off n : Nat) : State :=
  if bar2 || !s.barHit off n then (s.noteAer .unsupported).emit (.completion false 0)
  else
    let w := s.barWord (off / 8 * 8)
    s.emit (.completion true (if n = 8 then w else BitVec.ofNat 64 (bitsOf w (8 * (off % 8)) 32)))

/-- INBOUND_READ (R326, R329). -/
def execInboundRead (bar2 : Bool) (off : BitVec 17) (size : BitVec 13) (ecrcBad : Bool) (s : State) :
    Host.Outcome State Fault Refusal :=
  guarded s.barOpen s (fun s => if ecrcBad && s.hif.ecrcChk then s.noteAer .ecrc else s.hostRead bar2 off.toNat size.toNat)

/-- DOORBELL (R334, R335). -/
def execDoorbell (w : Word) (s : State) : Host.Outcome State Fault Refusal :=
  guarded s.barOpen s (fun s => s.ringDoorbell w)

/-- MSIX_UNMASK (R339): the Mask bit of a vector is cleared, and a pending message is sent. -/
def execMsixUnmask (v : Fin 2048) (s : State) : Host.Outcome State Fault Refusal :=
  guarded s.barOpen s (fun s => (s.modMsix v.val (fun e => { e with ctrl := 0 })).flushMsix)

/-! ### Link and device power states (R324, R325, R342) -/

/-- A queue loses its messages in progress: counted, nothing written; FETCH drafts go at the next tick (R342). -/
def State.loseQueue (s : State) (q : Nat) : State :=
  let c := s.queue q
  let n := c.msgs.length
  let s := if c.toHost then s.forAll c.msgs (fun m t => t.setDescStatus m.desc stNotSent)
           else { s with feed := { s.feed with dropNext := s.feed.dropNext ++ c.msgs.flatMap (·.pages) } }
  let s := { s with hif := { s.hif with cntLost := min 0xFFFFFFFF (s.hif.cntLost + n) } }
  s.modQueue q (fun c => { c with msgs := [], lost := min 0xFFFFFFFF (c.lost + n) })

/-- Every queue is out of service (R342). -/
def State.loseQueues (s : State) : State :=
  s.forAll (s.hif.qps.map (·.1)) (fun q t => (t.loseQueue q).modQueue q (fun c => { c with w2 := setBit c.w2 0 false }))

/-- The configuration space, the MSI-X table and the IDE keys at their reset values (R342, R344, R353). -/
def Hif.configReset (h : Hif) : Hif :=
  { h with
    msix := [], msixEn := false, funcMask := false, busMaster := false, memSpace := false, ecrcGen := false,
    ecrcChk := false, ctoRange := 0, bars := [], ide := [], doe := none, session := 0, d3 := false,
    aer := {}, maxPay := 0, maxRead := 2 }

/-- The link is lost (R342). -/
def State.linkLost (s : State) (perst : Bool) : State :=
  let s := s.breakWindow.loseQueues
  let bits : BitVec 6 := if perst then 0x11 else 0x01
  let h := s.hif.configReset
  { s with hif := { h with up := false, speed := 0, width := 0, flit := false, event := h.event ||| bits } }.raise
    { cls := 0x60 }

/-- LINK_DOWN (R342): PERST# with the link down already only sets its event bit. -/
def execLinkDown (perst : Bool) (s : State) : Host.Outcome State Fault Refusal :=
  guarded (s.powered && (s.hif.up || perst)) s (fun s =>
    if s.hif.up then s.linkLost perst else { s with hif := { s.hif with event := s.hif.event ||| 0x10 } })

/-- A rate and a width that the part trains to (R322). -/
def linkOffered (speed width : Nat) : Bool := 1 ≤ speed && speed ≤ 6 && [1, 2, 4, 8, 16].contains width

/-- LINK_UP (R324, R342). -/
def execLinkUp (speed : BitVec 3) (width : BitVec 5) (flit : Bool) (s : State) : Host.Outcome State Fault Refusal :=
  guarded (s.powered && s.pcieOn && !s.hif.up && linkOffered speed.toNat width.toNat) s (fun s =>
    { s with hif := { s.hif with
      up := true, speed := speed.toNat, width := width.toNat, flit := flit, event := s.hif.event ||| 2 } })

/-- LINK_RETRAIN (R324): the rate and width change; a TRACE window in progress keeps its k. -/
def execLinkRetrain (speed : BitVec 3) (width : BitVec 5) (s : State) : Host.Outcome State Fault Refusal :=
  guarded (s.powered && s.hif.up && linkOffered speed.toNat width.toNat) s (fun s =>
    { s with hif := { s.hif with speed := speed.toNat, width := width.toNat } })

/-- D3hot (R325): no requests are issued; in RUN and DEBUG the queues go as after link loss. -/
def State.enterD3 (s : State) : State :=
  let s := s.breakWindow
  let s := { s with hif := { s.hif with d3 := true } }
  if s.dev = .run || s.dev = .debug then
    let s := s.loseQueues
    { s with hif := { s.hif with event := s.hif.event ||| 8 } }.raise { cls := 0x62 }
  else s

/-- D3HOT_WRITE (R325). -/
def execD3hotWrite (s : State) : Host.Outcome State Fault Refusal :=
  guarded (s.powered && s.hif.up && !s.hif.d3) s State.enterD3

/-- D0_WRITE (R325). -/
def execD0Write (s : State) : Host.Outcome State Fault Refusal :=
  guarded (s.powered && s.hif.up && s.hif.d3) s (fun s =>
    { s with hif := { s.hif with d3 := false, event := s.hif.event ||| 2 } })

/-! ### The configuration space (R322, R323, R326, R328, R339) -/

/-- The writable bits of a base address register. -/
def barMask (i : Nat) : BitVec 32 := if i = 0 then 0xFFFF0000 else if i = 2 then 0xFFFE0000 else if i < 4 then 0xFFFFFFFF else 0

/-- What a read of a base address register gives (R328): the base with the type bits of 64-bit memory, prefetchable for
BAR2. -/
def Hif.barRead (h : Hif) (i : Nat) : BitVec 32 :=
  Table.get (fun _ => 0) h.bars i ||| (if i = 0 then 0x4 else if i = 2 then 0xC else 0)

/-- Dword `i` of the configuration header (R327, R328). -/
def State.configHeader (s : State) (i : Nat) : BitVec 32 :=
  match i with
  | 0 => 0x06401F7A
  | 1 => BitVec.ofNat 32 (bitN s.hif.memSpace * 2 + bitN s.hif.busMaster * 4 + 2 ^ 20)
  | 2 => 0x12000010
  | 4 | 5 | 6 | 7 | 8 | 9 => s.hif.barRead (i - 4)
  | 11 => Config.fuses.subsystem
  | 13 => Config.capPointer.setWidth 32
  | _ => 0

/-- A capability of the part. -/
inductive PciCap
  | powerManagement
  | pciExpress
  | msix
  | aer
  | serialNumber (n : Word)
  | dataLinkFeature
  | physical16
  | physical32
  | physical64
  | laneMargining
  | flitLogging
  | doe
  | ide
  deriving DecidableEq, Repr

/-- The capabilities in list order (R327). -/
def pciCaps : List PciCap := [.powerManagement, .pciExpress, .msix]

/-- The extended capabilities in list order (R322, R327). -/
def pciExtCaps : List PciCap :=
  [.aer, .serialNumber Config.fuses.serial, .dataLinkFeature, .physical16, .physical32, .physical64, .laneMargining,
   .flitLogging, .doe, .ide]

/-- Change a selective IDE stream. -/
def Hif.modStream (h : Hif) (i : Nat) (f : Ide → Ide) : Hif :=
  { h with ide := Table.set (fun _ => {}) h.ide i (f (Table.get (fun _ => {}) h.ide i)) }

/-- What a configuration write changes. -/
def Hif.config (h : Hif) : ConfigWrite → Hif
  | .busMaster b => { h with busMaster := b }
  | .memSpace b => { h with memSpace := b }
  | .ecrcGen b => { h with ecrcGen := b }
  | .ecrcCheck b => { h with ecrcChk := b }
  | .complTimeout r => { h with ctoRange := r }
  | .msixEnable b => { h with msixEn := b }
  | .msixFuncMask b => { h with funcMask := b }
  | .bar i v => { h with bars := Table.set (fun _ => 0) h.bars i.val (v &&& barMask i.val) }
  | .maxPayload c => { h with maxPay := min 2 c.toNat }
  | .maxReadRequest c => { h with maxRead := min 5 c.toNat }
  | .aerClear e => { h with aer :=
      { h.aer with logged := h.aer.logged.filter (· ≠ e), first := if h.aer.first = some e then none else h.aer.first } }
  | .ideRid i a b => h.modStream i.val (fun e => { e with rid := some (a.toNat, b.toNat) })
  | .ideAddr i k a b => h.modStream i.val (fun e =>
      if k.val = 0 then { e with assoc0 := some (a.toNat, b.toNat) } else { e with assoc1 := some (a.toNat, b.toNat) })
  | .absentFeature => h

/-- CONFIG_WRITE (R323): enable bits of absent features are read-only zero. -/
def execConfigWrite (w : ConfigWrite) (s : State) : Host.Outcome State Fault Refusal :=
  guarded (s.powered && s.hif.up) s (fun s => { s with hif := s.hif.config w }.flushMsix)

/-! ### IDE and DOE (R344, R345) -/

def State.ideOf (s : State) (i : Nat) : Ide := Table.get (fun _ => {}) s.hif.ide i
def State.modIde (s : State) (i : Nat) (f : Ide → Ide) : State :=
  { s with hif := s.hif.modStream i f }

/-- IDE_CHECK_FAIL (R344): the TLP is dropped. -/
def execIdeCheckFail (stream : Fin 4) (s : State) : Host.Outcome State Fault Refusal :=
  guarded (s.powered && s.hif.up && s.secOn && (s.ideOf stream.val).enabled) s (fun s =>
    { s.noteAer .ideCheck with hif := { (s.noteAer .ideCheck).hif with event := s.hif.event ||| 0x20 } }.raise { cls := 0x66 })

/-- The stream goes over to the key set that has been programmed. -/
def Ide.takeKey (e : Ide) : Ide :=
  match e.staged with
  | some k => { e with enabled := true, keySet := k, staged := none, go := false }
  | none => e

/-- IDE_KEY_SET_GO (R344): at a TLP boundary. -/
def execIdeKeySetGo (stream : Fin 4) (s : State) : Host.Outcome State Fault Refusal :=
  guarded (s.powered && s.hif.up && s.secOn && (s.ideOf stream.val).go) s (fun s => s.modIde stream.val Ide.takeKey)

/-- The SPDM request codes that the responder implements. -/
def spdmCodes : List Nat := [0x84, 0xE1, 0xE3, 0x81, 0x82, 0x83, 0xE0, 0xE4, 0xE5, 0xEC, 0xE8]

/-- A measurement block (R345). -/
def State.measurement (s : State) (i : Nat) : BitVec 384 :=
  match i with
  | 1 => Config.romHash
  | 2 => s.huv.fwHash
  | 3 => Config.fuses.keyHash
  | 4 => BitVec.ofNat 384 s.cfgDigest
  | 5 => BitVec.ofNat 384 (s.devCode + 16 * s.folio.actSlot)
  | _ => 0

/-- The SPDM session after a request: KEY_EXCHANGE begins it, FINISH makes it secure, END_SESSION ends it. -/
def sessionAfter (old code : Nat) : Nat :=
  if code = 0xE4 then 1 else if code = 0xE5 then (if old = 1 then 2 else old) else if code = 0xEC then 0 else old

/-- An IDE_KM request in a secure session: KEY_PROG, K_SET_GO, K_SET_STOP. -/
def Ide.km (e : Ide) (code : Nat) (keySet : Bool) : Ide :=
  if code = 2 then { e with staged := some keySet }
  else if code = 4 then { e with go := e.staged = some keySet }
  else if code = 5 then { e with enabled := if e.keySet = keySet then false else e.enabled }
  else e

/-- The data object types that discovery lists, by index. -/
def doeTypes : List DoeType := [.discovery, .cma, .securedCma, .ideKm]

/-- What the answer to an SPDM request holds (R345). -/
def State.spdmBody (s : State) (code p : Nat) : DoeBody :=
  let chain := Config.certChain Config.fuses.serial
  if code = 0x84 then .versions [0x12, 0x13]
  else if code = 0xE3 then .algorithms 384 384
  else if code = 0x81 then .digest (Config.sha384 chain)
  else if code = 0x82 then .certificate Config.fuses.serial chain
  else if code = 0x83 then .signature (Config.spdmSign Config.fuses.serial (Config.sha384 chain))
  else if code = 0xE0 then .measurement (s.measurement p)
  else .none

/-- A DOE request is answered (R345): the answer stands in the DOE mailbox. -/
def State.doeAnswer (s : State) (r : DoeReq) : State :=
  let put (s : State) (ok : Bool) (b : DoeBody) : State := { s with hif := { s.hif with doe := some ⟨r, ok, b⟩ } }
  let spdm (s : State) (ok : Bool) (code p : Nat) : State :=
    if ok then put { s with hif := { s.hif with session := sessionAfter s.hif.session code } } true (s.spdmBody code p)
    else put s false .none
  match r with
  | .discovery i => match doeTypes[i.toNat]? with
    | some t => put s true (.types t ((i.toNat + 1) % 4))
    | none => put s false .none
  | .spdm code p => spdm s (spdmCodes.contains code.toNat) code.toNat p.toNat
  | .securedSpdm code p => spdm s (spdmCodes.contains code.toNat && 0 < s.hif.session) code.toNat p.toNat
  | .ideKm code stream keySet =>
    let ok := s.hif.session = 2 && stream.toNat < 4
    put (if ok then s.modIde stream.toNat (fun e => e.km code.toNat keySet) else s) ok .none

/-- The DOE instance answers: from BOOT on, security block on. -/
def State.doeUp (s : State) : Bool :=
  s.powered && s.dev ≠ .fill && s.huv.checked && s.hif.up && s.secOn

/-- DOE_REQUEST (R345). -/
def execDoeRequest (r : DoeReq) (s : State) : Host.Outcome State Fault Refusal :=
  guarded s.doeUp s (fun s => s.doeAnswer r)

/-- DOE_ABORT (R345): what the DOE mailbox holds is discarded. -/
def execDoeAbort (s : State) : Host.Outcome State Fault Refusal :=
  guarded s.doeUp s (fun s => { s with hif := { s.hif with doe := none } })

end Sys2Proof.Machine
end

