-- ==== Sys2Proof/Machine/Registers.lean ====
section
/-! DEFINITION. Register operations of the Huvas that have rows of their own, plain register writes and reads that clear
(R8 to R13), the submission page (R386), and the power controller's switching of domains (R440). -/

namespace Sys2Proof.Machine

/-! ### Writes and reads by the Huvas -/

/-- A write by the Huvas; one that meets a bus error changes nothing (R10, R11, R26). -/
def State.huvasWrite (s : State) (cpa : Nat) (w : TWord) : State := (s.regWrite none cpa w).getD s

/-- RULING_ENTRY_WRITE (R66): `RUL_DATA3`, or `RUL_DATA0` with SEL = 1. -/
def execRulingEntryWrite (w : TWord) (s : State) : Host.Outcome State Fault Refusal :=
  guarded s.huvasUp s (fun s => s.huvasWrite (if s.rul.sel then 0x40010110 else 0x40010128) w)

/-- VT_SLOT_WRITE (R68, R94): `FOLIO_VT_DATA1`. -/
def execVtSlotWrite (w : TWord) (s : State) : Host.Outcome State Fault Refusal :=
  guarded s.huvasUp s (fun s => s.huvasWrite 0x40000210 w)

/-- PX_RECORD_WRITE (R245): `FOLIO_PX_DATA3`. -/
def execPxRecordWrite (w : TWord) (s : State) : Host.Outcome State Fault Refusal :=
  guarded s.huvasUp s (fun s => s.huvasWrite 0x40000320 w)

/-- PT_RECORD_WRITE (R273): `FOLIO_PT_DATA11`. -/
def execPtRecordWrite (w : TWord) (s : State) : Host.Outcome State Fault Refusal :=
  guarded s.huvasUp s (fun s => s.huvasWrite 0x40000460 w)

/-- FOLIO_SWITCH_WRITE (R59, R60, R65): `FOLIO_SWITCH`. -/
def execFolioSwitchWrite (w : TWord) (s : State) : Host.Outcome State Fault Refusal :=
  guarded s.huvasUp s (fun s => s.huvasWrite 0x40000068 w)

/-- MMU_INV_ALL (R272): `MMU_INV.ALL`. -/
def execMmuInvAll (p : PenN) (s : State) : Host.Outcome State Fault Refusal :=
  guarded s.huvasUp s (fun s => s.huvasWrite (0x40800020 + p.val * 0x10000) (TWord.raw 1))

/-- MMU_LSLOT_LOAD (R266, R272): `MMU_LSLOT_LOAD`. -/
def execMmuLslotLoad (p : PenN) (slots : BitVec 8) (s : State) : Host.Outcome State Fault Refusal :=
  guarded s.huvasUp s (fun s => s.huvasWrite (0x40800140 + p.val * 0x10000) (TWord.raw (slots.setWidth 64)))

/-- HUV_EQ_POP (R429): `HUV_EQ_POP`. -/
def execHuvEqPop (s : State) : Host.Outcome State Fault Refusal :=
  guarded s.huvasUp s (fun s => s.huvasWrite 0x40062050 (TWord.raw 1))

/-- HIF_QP_WRITE (R331, R347): `HIF_QP_DATA3`. -/
def execHifQpWrite (w : TWord) (s : State) : Host.Outcome State Fault Refusal :=
  guarded s.huvasUp s (fun s => s.huvasWrite 0x40050120 w)

/-- TRC_LIST_WRITE (R321): `TRC_LIST_DATA1`. -/
def execTrcListWrite (w : TWord) (s : State) : Host.Outcome State Fault Refusal :=
  guarded s.huvasUp s (fun s => s.huvasWrite 0x40040110 w)

/-- FEED_DESC_WRITE (R408): `FEED_DESC_DATA7`. -/
def execFeedDescWrite (w : TWord) (s : State) : Host.Outcome State Fault Refusal :=
  guarded s.huvasUp s (fun s => s.huvasWrite 0x40030050 w)

/-- DOMAIN_REQUEST_WRITE (R440, R449): `PWR_DOM_REQ_PEN` or `PWR_DOM_REQ_OTHER`. -/
def execDomainRequestWrite (other : Bool) (w : TWord) (s : State) : Host.Outcome State Fault Refusal :=
  guarded s.huvasUp s (fun s => s.huvasWrite (if other then 0x40070018 else 0x40070010) w)

/-- A Huvas access that meets a fabric CRC error, and again when the firmware repeats it (R20): it has no effect, and
HUVAS_FABRIC is raised with its address (assumption log 53). -/
def State.huvasFabric (s : State) (cpa : Nat) : State := s.raise { cls := 0x24, addr := cpa }

/-- REGISTER_WRITE (R8 to R13, R20): any register, by its access codes and its lock; `same` holds the W1C bits that a
hardware event sets in this cycle. -/
def execRegisterWrite (cpa : BitVec 48) (w : TWord) (crcTwice : Bool) (same : Word) (s : State) :
    Host.Outcome State Fault Refusal :=
  guarded (s.huvasUp && isReg cpa.toNat) s (fun s =>
    if crcTwice then s.huvasFabric cpa.toNat
    else s.huvasWrite cpa.toNat { w with val := clearing cpa.toNat w.val same })

/-- The register at a CPA can be read. -/
def State.regReadable (s : State) (cpa : Nat) : Bool := isReg cpa && match s.regRead none cpa with
  | .val _ => true
  | .off | .unoccupied => false

/-- REGISTER_READ_CLEAR (R8, R12, R20): a read of RC fields clears them; `same` holds, in the register's layout, what
hardware events of this cycle have counted already. -/
def execRegisterReadClear (cpa : BitVec 48) (crcTwice : Bool) (same : Word) (s : State) : Host.Outcome State Fault Refusal :=
  guarded (s.huvasUp && s.regReadable cpa.toNat) s (fun s =>
    if crcTwice then s.huvasFabric cpa.toNat else s.regClear cpa.toNat same)

/-- Pen `p` executes a run that has not ended. -/
def State.submits (s : State) (p : Nat) : Bool :=
  (s.pen p).st = .run && (match (s.pen p).run with
    | some r => r.linend = none
    | none => false)

/-- SUBMISSION_REQUEST (R386): a run's store to a request word of its partition is held until its commit. -/
def execSubmissionRequest (p : PenN) (k : BitVec 8) (w : Word) (s : State) : Host.Outcome State Fault Refusal :=
  guarded (s.submits p.val) s (fun s => s.subPend p.val k.toNat w)

/-! ### The port record (R391) -/

/-- Word `i` of the port record. -/
def State.portWord (s : State) (i : Nat) : Word := s.feed.portWords.getD i 0

/-- Write the words of MAC `m`. -/
def State.portMac (s : State) (m : Nat) : State :=
  if !s.feed.portSet then s
  else s.modMac m (fun x => { x with
    ctrl := s.portWord (4 * m), phyDly := s.portWord (4 * m + 1), ptpCfg := s.portWord (4 * m + 2),
    cbCfg := s.portWord (4 * m + 3) })

/-- Write the words of controller `c`. -/
def State.portCan (s : State) (c : Nat) : State :=
  let v := s.portWord (16 + 3 * c)
  s.modCan c (fun e => { e with
    ctrl := v, nbt := s.portWord (17 + 3 * c), dbt := s.portWord (18 + 3 * c),
    st := if bitsOf v 0 2 = 0 then 3 else if e.st = 3 then 0 else e.st,
    tec := if bitsOf v 0 2 = 0 then 0 else e.tec, recv := if bitsOf v 0 2 = 0 then 0 else e.recv })

/-- Write the words of the CAN/GPIO cluster. -/
def State.portCluster (s : State) : State :=
  if !s.feed.portSet then s
  else
    let s := s.forAll (upTo 8) (fun c t => t.portCan c)
    { s with gpio := { s.gpio with
        safe := s.portWord 40, pol := s.portWord 41, filt := s.portWord 42, rbDly := s.portWord 43 } }

/-! ### Switching domains (R26, R440) -/

/-- The switched domain is on. -/
def State.domainOn (s : State) : Domain → Bool
  | .pen n => s.penOn n.val
  | .rsvPair k => bitAt s.pwr.otherOn k.val
  | .mac m => s.macOn m.val
  | .canGpio => s.canOn
  | .blotter => s.blotOn
  | .security => s.secOn

/-- The domain's bit of `PWR_DOM_PEN` or `PWR_DOM_OTHER`. -/
def State.setDomain (s : State) (d : Domain) (v : Bool) : State :=
  match d with
  | .pen n => { s with pwr := { s.pwr with penOn := setBit s.pwr.penOn n.val v } }
  | .rsvPair _ | .mac _ | .canGpio | .blotter | .security =>
    { s with pwr := { s.pwr with otherOn := setBit s.pwr.otherOn (domainBit d) v } }

/-- A march command ends when its bank or the blotter goes off. -/
def State.endMarchOf (s : State) (p : Option Nat) (code : Nat) : State :=
  match s.blot.marching with
  | none => s
  | some r => if p = none || p = some r.pen then s.endMarch code else s

/-- A pen's domain goes off (R104, R112): nothing of its run, its TLB or its test is left. -/
def State.penDown (s : State) (p : Nat) : State :=
  if (s.pen p).st = .fenced then s
  else
    let s := ((s.killEnding p).killRun p).freeBlotter p
    let s := s.modPen p (fun x => { x.clearRun with st := .off, ending := none, tlb := [] })
    (s.mirrorAfterLoss p).endMarchOf (some p) 0x0B04

/-- A MAC's domain goes off: its link is lost and its registers with it. -/
def State.macDown (s : State) (m : Nat) : State :=
  let s := if (s.mac m).link then s.ethDown m else s.ethWithdraw m stPortDown
  { s with macs := Table.set (fun _ => {}) s.macs m {} }

/-- The CAN/GPIO cluster goes off. -/
def State.clusterDown (s : State) : State :=
  let s := s.forAll (upTo 8) (fun c t => t.canWithdraw c)
  { s with cans := [], gpio := {} }

/-- The blotter goes off: pass and march end, pens in its hands are fenced without a verdict (R86, R294). -/
def State.blotterDown (s : State) : State :=
  let s := if s.blot.pass.isSome then s.passEnd .powerOff else s
  let s := s.endMarchOf none 0x0903
  s.forAll (upTo 64) (fun p t => if (t.pen p).st = .test || (t.pen p).st = .testWait then t.untested p else t)

/-- The security block goes off: its keys and sessions are lost. -/
def State.securityDown (s : State) : State := { s with hif := { s.hif with ide := [], doe := none, session := 0 } }

/-- The bank at a CPA belongs to a domain. -/
def inDomain (cpa : Nat) (d : Domain) : Bool :=
  match d with
  | .pen n => isInk cpa && inkPen cpa = n.val
  | .rsvPair k => isRsv cpa && rsvNum cpa / 2 = k.val
  | .mac _ | .canGpio | .blotter | .security => false

/-- A scrub pass over a bank of the domain stops as POWER_OFF (R294). -/
def State.passDown (s : State) (d : Domain) : State :=
  if s.blot.pass.any (fun p => inDomain p.base d) then s.passEnd .powerOff else s

/-- A domain is isolated and loses power. -/
def State.switchOff (s : State) (d : Domain) : State :=
  if !s.domainOn d then s
  else
    let s := (s.passDown d).setDomain d false
    match d with
    | .pen n => s.penDown n.val
    | .rsvPair _ => s
    | .mac m => s.macDown m.val
    | .canGpio => s.clusterDown
    | .blotter => s.blotterDown
    | .security => s.securityDown

/-- A domain ramps and leaves reset; its banks begin their fill. A fenced pen ignores the request. -/
def State.switchOn (s : State) (d : Domain) : State :=
  if s.domainOn d then s
  else match d with
    | .pen n =>
      if (s.pen n.val).st = .fenced then s
      else (s.setDomain d true).modPen n.val (fun x => { x with filling0 := true, filling1 := true })
    | .rsvPair k =>
      let s := s.setDomain d true
      (s.modRsv (2 * k.val) (fun x => { x with filling := true })).modRsv (2 * k.val + 1) (fun x => { x with filling := true })
    | .mac m => (s.setDomain d true).portMac m.val
    | .canGpio => (s.setDomain d true).portCluster
    | .blotter | .security => s.setDomain d true

/-- The power controller takes its oldest request. -/
def State.popRequest (s : State) : State := { s with pwr := { s.pwr with queue := s.pwr.queue.drop 1 } }

/-- DOMAIN_SWITCH_OFF (R26, R440): the oldest request. -/
def execDomainSwitchOff (d : Domain) (s : State) : Host.Outcome State Fault Refusal :=
  guarded (s.powered && s.pwr.queue.head? = some (d, false)) s (fun s => (s.popRequest.switchOff d).powerDone)

/-- DOMAIN_SWITCH_ON (R26, R288, R440): the oldest request. -/
def execDomainSwitchOn (d : Domain) (s : State) : Host.Outcome State Fault Refusal :=
  guarded (s.powered && s.pwr.queue.head? = some (d, true)) s (fun s => (s.popRequest.switchOn d).powerDone)

end Sys2Proof.Machine
end

