-- ==== Sys2Proof/Machine/System.lean ====
section
/-! DEFINITION. The system instructions (R151 to R156, R185 to R189, R267, R270, R271). -/

namespace Sys2Proof.Machine

/-! ### MASK -/

/-- The work of MASK: it sets MASK and returns the old level (R185). -/
def State.doMask (s : State) (i : Iss) (rd : Reg) (src : MaskSrc) : State :=
  let regs : List Reg := match src with
    | .imm _ => [rd]
    | .reg r => [rd, r]
  s.issueOne i (useAlu regs false) (fun paired t =>
    let x := t.pen i.pen.val
    let level : Except Exc Nat :=
      if x.task then .error excPrivilege
      else match src with
        | .imm l => .ok l.toNat
        | .reg r => do
            checkTag 0 [Tag.uint] (x.read paired r)
            pure (bitsOf (x.read paired r).val 0 3)
    match level with
    | .error e => .exc e t
    | .ok l => .ok (fun x =>
        let old := TWord.uint (BitVec.ofNat 64 x.maskLevel)
        let y := x.write paired rd old
        { y with status := setBits y.status 4 3 l }.done paired) t)

/-- MASK (R185, R186). -/
def execMask (i : Iss) (rd : Reg) (src : MaskSrc) (s : State) : Host.Outcome State Fault Refusal :=
  guarded (s.ready i.pen.val) s (fun s => s.doMask i rd src)

/-! ### FEAT -/

/-- The feature registers (R152 to R156). The firmware's version fields are those of the accepted image. -/
def State.featReg (s : State) (part : Nat) (n : Nat) : Word :=
  match n with
  | 0 => pk [(0, 1), (8, 1), (16, 1), (32, bitsOf s.huv.fwVersion 16 8), (40, bitsOf s.huv.fwVersion 24 8)]
  | 1 => 0x6FF
  | 2 => pk [(0, 7), (4, 7), (8, 0x40), (16, 8), (20, 4), (24, 0x0C), (32, 0x80), (40, 0x10), (48, 0x20)]
  | 3 => pk [(0, 2), (4, 2), (8, 2), (12, 3), (16, 4), (20, 6), (24, 4), (28, 2), (32, 0x22), (40, 9), (44, 1),
             (48, 0x200)]
  | 4 => pk [(0, 8), (4, 0x0C), (12, 0xFF), (20, 4)]
  | 5 => pk [(0, part), (8, s.s1Mode part), (10, bitN (bitAt (s.ptWord part 0) 2))]
  | _ => 0

/-- FEAT (R151). -/
def execFeat (i : Iss) (rd : Reg) (n : BitVec 4) (s : State) : Host.Outcome State Fault Refusal :=
  guarded (s.ready i.pen.val) s (fun s =>
    s.issueOne i (useAlu [rd] false) (fun paired t =>
      match t.runs i.pen.val with
      | none => .wait
      | some r => .ok (fun x => (x.write paired rd (TWord.raw (t.featReg r.part n.toNat))).done paired) t))

/-! ### SEAL (R185, R270, R271) -/

/-- The new value grants a right that the current value does not. -/
def widening (cur new : Word) : Bool := cur &&& ~~~ new &&& sealMask ≠ 0

/-- The work of SEAL; with `rs` = W0 it only reads. -/
def State.doSeal (s : State) (i : Iss) (rd rs : Reg) : State :=
  s.issueOne i (useAlu [rd, rs] false) (fun paired t =>
    let x := t.pen i.pen.val
    let w := x.read paired rs
    let new : Except Exc Word :=
      if rs = 0 then .ok x.sealed
      else do
        if x.task && widening x.sealed w.val then throw excPrivilege
        checkTag 0 [Tag.raw] w
        pure (w.val &&& sealMask)
    match new with
    | .error e => .exc e t
    | .ok v => .ok (fun x =>
        let y := x.write paired rd (TWord.raw x.sealed)
        let y := { y with
          sealed := v, pair := y.pair.map (fun c => if paired then c else { c with oldSeal := some x.sealed }) }
        y.done paired) t)

/-- SEAL (R185, R186, R270, R271). -/
def execSealReg (i : Iss) (rd rs : Reg) (s : State) : Host.Outcome State Fault Refusal :=
  guarded (s.ready i.pen.val) s (fun s => s.doSeal i rd rs)

/-! ### TLBINV (R185, R267) -/

/-- The work of TLBINV: `f` picks the entries that go, on the pens that execute the run. -/
def State.doTlbinv (s : State) (i : Iss) (regs : List Reg) (pre : (Reg → TWord) → Except Exc Unit)
    (f : Nat → (Reg → TWord) → Nat → TlbEntry → Bool) : State :=
  s.issueOne i ⟨.ser, regs, false⟩ (fun paired t =>
    let p := i.pen.val
    let x := t.pen p
    let read := x.read paired
    let ok : Except Exc Unit := if x.task then .error excPrivilege else pre read
    match ok, t.runs p with
    | .error e, _ => .exc e t
    | .ok (), none => .wait
    | .ok (), some r =>
      .ok (fun y => y.done paired) (t.modRun p (fun y => y.invalidate (f r.part read))))

/-- An unlocked entry, or a lock slot of the partition. -/
def invAll (part : Nat) (_ : Reg → TWord) (_ : Nat) (e : TlbEntry) : Bool := !e.locked || e.part = part

/-- TLBINV kind 0 (R267). -/
def execTlbinvUnlocked (i : Iss) (s : State) : Host.Outcome State Fault Refusal :=
  guarded (s.ready i.pen.val) s (fun s => s.doTlbinv i [] (fun _ => .ok ()) (fun _ _ _ e => !e.locked))

/-- TLBINV kind 1 (R267). -/
def execTlbinvAll (i : Iss) (s : State) : Host.Outcome State Fault Refusal :=
  guarded (s.ready i.pen.val) s (fun s => s.doTlbinv i [] (fun _ => .ok ()) invAll)

/-- TLBINV kind 2 (R267). -/
def execTlbinvPage (i : Iss) (rs : Reg) (s : State) : Host.Outcome State Fault Refusal :=
  guarded (s.ready i.pen.val) s (fun s =>
    s.doTlbinv i [rs] (fun read => checkTag 0 [Tag.ptr] (read rs))
      (fun part read _ e => e.hits part (vpnOf (read rs).val)))

/-! ### IPI (R187, R241) -/

/-- The bits of the sender, which are ignored: both pens while JOINED. -/
def ownBits (p : Nat) (r : Run) : Word :=
  if r.mode = .joined then BitVec.ofNat 64 (2 ^ evenOf p + 2 ^ oddOf p) else BitVec.ofNat 64 (2 ^ p)

/-- The work of IPI. -/
def State.doIpi (s : State) (i : Iss) (rs : Reg) (level : Nat) : State :=
  s.issueOne i ⟨.mem, [rs], false⟩ (fun paired t =>
    let p := i.pen.val
    let x := t.pen p
    let w := x.read paired rs
    if level = 0 then .exc (excIllegal 3) t
    else
      let ok : Except Exc Unit := if x.task then .error excPrivilege else checkTag 0 [Tag.raw, Tag.uint] w
      match ok, t.runs p with
      | .error e, _ => .exc e t
      | .ok (), none => .wait
      | .ok (), some r =>
        let m := w.val &&& ~~~ ownBits p r
        if m &&& ~~~ t.pxWord r.part 2 ≠ 0 then .exc (excBus bcIpiSet 0) t
        else .ok (fun y => y.done paired)
          { t with ipiFly := t.ipiFly ++ ((upTo 64).filter (fun n => bitAt m n)).map (fun n => ⟨p, n, level, t.cyc⟩) })

/-- IPI (R187). -/
def execIpi (i : Iss) (rs : Reg) (level : BitVec 3) (s : State) : Host.Outcome State Fault Refusal :=
  guarded (s.ready i.pen.val) s (fun s => s.doIpi i rs level.toNat)

/-! ### FENCE and LINEND (R75, R188, R189) -/

/-- Every earlier store has drained and been acknowledged. -/
def Pen.quiet (x : Pen) : Bool := x.sb = [] && x.acks = 0

/-- FENCE (R188). -/
def execFence (i : Iss) (s : State) : Host.Outcome State Fault Refusal :=
  guarded (s.ready i.pen.val) s (fun s =>
    s.issueOne i ⟨.ser, [], false⟩ (fun paired t =>
      if (t.pen i.pen.val).quiet then .ok (fun x => x.done paired) t else .wait))

/-- The run of pen `p` has issued LINEND at this cycle: its pages wait for the commit point; loads and products in flight
and pending interrupts are discarded (R70, R189, R243). -/
def State.endRun (s : State) (p : Nat) (r : Run) : State :=
  let c := s.folioCyc
  let s := s.forAll r.drafts (fun n t => t.modVslot n (fun v => { v with st := .committing }))
  let f (x : Pen) : Pen := { x with
    late := [], mul := none, pair := none, hold := .none, ipiPend := 0, run := x.run.map (fun r => { r with linend := some c }) }
  let s := s.modPen p f
  if r.mode = .joined then s.modPen (otherOf p) f else s

/-- LINEND's commit decision (R75, R287): outside the budget the run is LATE; a run with a bad drain is killed and
recovered; any other waits for its commit point. -/
def State.linend (s : State) (p : Nat) (r : Run) : State :=
  if r.winEnd ≤ s.folioCyc then s.lateRun p r.line
  else if r.drainBad then
    let x := (s.killRun p).loseRun r
    x.1.raiseAll x.2
  else s.endRun p r

/-- The work of LINEND. One that has to wait in slot 2 leaves its pair, so that an interrupt at the end of the wait comes
before it (R226). -/
def State.doLinend (s : State) (i : Iss) : State :=
  s.issueOne i ⟨.fin, [], false⟩ (fun paired t =>
    let p := i.pen.val
    if (t.pen p).task then .exc excPrivilege t
    else if !(t.pen p).quiet then (if paired then .ok (fun x => { x with pair := none }) t else .wait)
    else match t.runs p with
      | none => .wait
      | some r => .ok id (t.linend p r))

/-- LINEND (R75, R189). -/
def execLinend (i : Iss) (s : State) : Host.Outcome State Fault Refusal :=
  guarded (s.ready i.pen.val) s (fun s => s.doLinend i)

end Sys2Proof.Machine
end

