-- ==== Sys2Proof/Machine/Huvas.lean ====
section
/-! DEFINITION. The Huvas: when a command is carried out (R352, R359), what the firmware does for the rubric (R420), the
vote (R115 to R118), and the commands for time, pens, power and debug (R360, R365, R369, R371, R372, R376 to R378,
R472). -/

namespace Sys2Proof.Machine

/-! ### Carrying out a command (R352, R359) -/

/-- The device states in which a command runs (R359). -/
def permits (op : Nat) (d : DevState) : Bool :=
  match d with
  | .off | .dormant | .fill => false
  | .boot => op = 1 || op = 2
  | .loaded => op ≠ 2 && op ≠ 0x34 && op ≠ 0x35 && op ≠ 0x71 && op ≠ 0x72
  | .run => [0x01, 0x30, 0x31, 0x32, 0x34, 0x35, 0x41, 0x50, 0x51, 0x52, 0x53, 0x54, 0x60, 0x61, 0x70, 0x71, 0x72, 0x80,
      0x81, 0x82, 0x90].contains op
  | .safe => [0x01, 0x21, 0x30, 0x31, 0x32, 0x35, 0x41, 0x51, 0x53, 0x60, 0x81, 0x82].contains op
  | .debug => [0x01, 0x21, 0x41, 0x53].contains op

/-- The command with an opcode in mailbox `m` is the next foreground command, and the Huvas can start it: no rubric reaction
waits, which takes precedence (R352). In D3hot mailbox commands wait (R325). -/
def State.cmdDue (s : State) (m op : Nat) : Bool :=
  s.huvasUp && s.huv.checked && !s.hif.d3 && s.huv.fw = [] && (s.mbox m).st = .queued && (s.mbox m).curOp = op && s.huv.foreQ.head? = some m

/-- Carry out a command: the device state does not permit it, or it has its effect. -/
def State.command (s : State) (m op : Nat) (body : State → State) : State :=
  if permits op s.dev then body s else s.finish m 2

/-- One command of a mailbox. -/
def runCommand (m op : Nat) (s : State) (body : State → State) : Host.Outcome State Fault Refusal :=
  guarded (s.cmdDue m op) s (fun s => s.command m op body)

/-- The command is RUNNING between its steps, and the Huvas can go on with it: a rubric reaction pauses it (R352). -/
def State.cmdGoes (s : State) (m op : Nat) : Bool :=
  s.huvasUp && !s.hif.d3 && s.huv.fw = [] && (s.mbox m).st = .running && (s.mbox m).curOp = op
    && s.huv.prog.any (fun p => p.1 = m)

/-- The command stays RUNNING after some steps. -/
def State.holdCmd (s : State) (m steps : Nat) : State :=
  let s := s.modMbox m (fun b => { b with st := .running })
  { s with huv := { s.huv with prog := some (m, steps) } }

/-- The Huvas's access fails and fails again (R20): HUVAS_FABRIC, and the command ends (assumption log 112). -/
def State.fabricEnd (s : State) (m : Nat) : State :=
  let t := s.raise { cls := 0x24 }
  if t.huv.prog.any (fun p => p.1 = m) && t.huv.fw = [] then
    t.stopCmd m (if permits (t.mbox m).curOp t.dev then 0xA else 2)
  else t

/-- An abortable foreground command begins or goes on: `f` gets how many steps it may do, if not all, and how many are
done. -/
def stepCommand (m op : Nat) (run : CmdRun) (s : State) (f : Option Nat → Nat → State → State) :
    Host.Outcome State Fault Refusal :=
  guarded (s.cmdDue m op || s.cmdGoes m op) s (fun s =>
    if !permits op s.dev then (if s.cmdDue m op then s.finish m 2 else s.stopCmd m 2)
    else
      let done := match s.huv.prog with
        | some (k, n) => if k = m then n else 0
        | none => 0
      let s := { s with huv := { s.huv with prog := none } }
      match run with
      | .whole => f none done s
      | .pause n => f (some n) done s
      | .crcTwice n =>
        let t := f (some n) done s
        if (t.mbox m).st = .running then t.fabricEnd m else t)

/-- The mailbox is RUNNING until a later event ends the command. -/
def State.startCmd (s : State) (m : Nat) : State := s.modMbox m (fun b => { b with st := .running })

/-- A foreground command that ends at a later tick. -/
def State.waitFor (s : State) (m : Nat) (w : Waiting) : State :=
  let s := s.startCmd m
  { s with huv := { s.huv with waiting := s.huv.waiting ++ [w] } }

/-- A background command: the Huvas goes on to the next one (R352). -/
def State.goBackground (s : State) (m : Nat) : State :=
  let s := s.startCmd m
  { s with huv := { s.huv with foreQ := s.huv.foreQ.filter (· ≠ m) } }

/-- The first host bus address that the part cannot reach (R330). -/
def hostTop : Nat := 0xF00000000000

/-- Argument bits outside a mask are set (R350). -/
def argRsvd (s : State) (m i mask : Nat) : Bool := s.arg m i &&& ~~~ BitVec.ofNat 64 mask ≠ 0

/-! ### Reading host memory (R326, R354) -/

/-- What a read of `n` words gives: the words, or the code it ends with and the words that arrived. -/
inductive HostGot
  | got (ws : List Word)
  | failed (code : Nat) (ws : List Word)
  deriving DecidableEq, Repr

/-- The part reads `n` words of host memory. Fewer words than asked for mean that the read failed after them. -/
def State.hostGet (s : State) (d : HostData) (n : Nat) : HostGot :=
  if !s.hif.busMaster then .failed 5 []
  else match d with
    | .ok ws => if ws.length < n then .failed 5 ws else .got (ws.take n)
    | .readFail => .failed 5 []
    | .linkDown ws => if ws.length < n then .failed 6 ws else .got (ws.take n)

/-- The part writes words to host memory: the code it ends with, 0 for success. -/
def State.hostPut (s : State) (addr : Nat) (ws : List Word) (linkFails : Bool) : Nat × State :=
  if !s.hif.busMaster then (5, s)
  else if linkFails || !s.hif.up then (6, s)
  else (0, s.emitTo addr (Out.hostWrite addr ws))

/-! ### What the firmware does for the rubric (R420, R427, R353) -/

/-- Switch a domain off by the Huvas's request, if it is requested on. -/
def State.requestOff (s : State) (d : Domain) : State :=
  if bitAt s.pwr.reqOther (domainBit d) then
    { s with pwr := { s.pwr with reqOther := setBit s.pwr.reqOther (domainBit d) false, queue := s.pwr.queue ++ [(d, false)] } }
  else s

/-- One action of the firmware. -/
def State.fwAct (s : State) (a : FwAct) : State :=
  match a with
  | .fenceRsv r => s.requestOff (.rsvPair (Fin.ofNat 16 (r / 2)))
  | .msix1 => s.sendMsix 1
  | .endCmd m c => if (s.mbox m).st = .running then s.stopCmd m c else s

/-- RUBRIC_FIRMWARE_REACTION (R353, R420, R427): the oldest action that waits for the firmware. -/
def execRubricFirmwareReaction (s : State) : Host.Outcome State Fault Refusal :=
  guarded (s.huvasUp && s.huv.fw ≠ []) s (fun s => match s.huv.fw with
    | [] => s
    | a :: t => { s with huv := { s.huv with fw := t } }.fwAct a)

/-! ### The vote (R115 to R118) -/

/-- An event of a Huvas nib. -/
def nibEvent (cls h : Nat) : Event := { cls := cls, utype := 7, unit := h }

/-- A nib is taken out of the vote. -/
def State.nibOut (s : State) (h : Nat) : State :=
  { s with huv := { s.huv with
      nibIn := s.huv.nibIn &&& ~~~ BitVec.ofNat 3 (2 ^ h), lastOut := h, nibReady := false, nibFailed := false } }

/-- The voter sees a disagreement (R116): a lone minority of three is taken out; any other stops the Huvas. -/
def State.voterMismatch (s : State) (odd : Option (Fin 3)) : State :=
  let s := { s with huv := { s.huv with disagree := satInc 0xFFFF s.huv.disagree } }
  match odd with
  | some h => if s.huv.nibIn = 7#3 then (s.nibOut h.val).raise (nibEvent 0x20 h.val) else s.huvasStop
  | none => s.huvasStop

/-- VOTER_MISMATCH (R116, R117). -/
def execVoterMismatch (odd : Option (Fin 3)) (s : State) : Host.Outcome State Fault Refusal :=
  guarded (s.huvasUp && s.huv.checked) s (fun s => s.voterMismatch odd)

/-- A nib that is out can be checked for reintegration (R118). -/
def State.reintDue (s : State) : Bool :=
  s.huvasUp && s.huv.checked && weightN 3 s.huv.nibIn.toNat = 2 && s.huv.reintEn && s.huv.reintCnt < s.huv.reintMax
    && !s.huv.nibReady && !s.huv.nibFailed

/-- The nib that is out of the vote. -/
def outNib (v : BitVec 3) : Nat := if !v.getLsbD 0 then 0 else if !v.getLsbD 1 then 1 else 2

/-- HUVAS_NIB_CHECK (R118, step 1). -/
def execHuvasNibCheck (pass : Bool) (s : State) : Host.Outcome State Fault Refusal :=
  guarded s.reintDue s (fun s =>
    if pass then { s with huv := { s.huv with nibReady := true } }
    else { s with huv := { s.huv with nibFailed := true } }.raise (nibEvent 0x21 (outNib s.huv.nibIn)))

/-- HUVAS_RESYNC (R118, step 2): no rubric reaction is pending. -/
def execHuvasResync (s : State) : Host.Outcome State Fault Refusal :=
  guarded (s.huvasUp && s.huv.nibReady && s.huv.fw = []) s (fun s =>
    let h := outNib s.huv.nibIn
    { s with huv := { s.huv with nibIn := 7, nibReady := false, reintCnt := s.huv.reintCnt + 1 } }.raise (nibEvent 0x22 h))

/-! ### IDENTIFY (R360) -/

/-- `FOLIO_PEN_OUT` and `FOLIO_PEN_FENCED` (R96). -/
def State.pensOut (s : State) : Word := s.penMask (fun p => p.st.out)
def State.pensFenced (s : State) : Word := s.penMask (fun p => p.st = .fenced)

/-- The result words of IDENTIFY; in BOOT the firmware fields and the digest read 0. -/
def State.identity (s : State) : List Word :=
  let build := if s.dev = .boot then 0 else bitsOf s.huv.fwVersion 0 16
  [s.featReg 0 0, Config.fuses.serial, s.devState, s.folioStatus, s.voteStatus,
   wordN (build + Config.fuses.romVersion.toNat * 2 ^ 16), if s.dev = .boot then 0 else wordN s.cfgDigest,
   s.pensOut, s.pensFenced]

/-- IDENTIFY (R360). -/
def execIdentify (m : MbN) (s : State) : Host.Outcome State Fault Refusal :=
  runCommand m.val 0x01 s (fun s => s.finish m.val 0 s.identity)

/-! ### TIME_CONFIG (R365) -/

/-- The bounds of TIME_CONFIG (R31 to R33, R35). -/
def timeBounds (tsrc period phase tol ppm : Nat) : Bool :=
  tsrc < 4 && 100000 ≤ period && period ≤ 100000000 && phase < period && ppm ≤ 200
    && (tsrc ≠ 2 || 1000000000 % period = 0) && (tsrc ≠ 3 || tol * 4000 ≤ period)

/-- The time configuration of a command: a code, 0 for acceptance. -/
def State.timeCheck (s : State) (m : Nat) : Nat :=
  let a := s.arg m
  let tsrc := bitsOf (a 0) 0 3
  let port := bitsOf (a 0) 4 2
  if argRsvd s m 0 0x37 || argRsvd s m 1 0x7FFFFFF || argRsvd s m 2 0x7FFFFFF || argRsvd s m 3 0xFFFFFF
    || argRsvd s m 4 0xFFFFFFFF00FF then 4
  else if !timeBounds tsrc (bitsOf (a 1) 0 27) (bitsOf (a 2) 0 27) (bitsOf (a 3) 0 16) (bitsOf (a 4) 0 8) then 0x0805
  else if tsrc = 1 && !(s.macOn port && bitAt (s.mac port).ptpCfg 0) then 0x0806
  else 0

/-- The fields that TIME_CONFIG writes; a new source has measured nothing yet, and the rate obeys it (R32, R33). -/
def State.setTime (s : State) (m : Nat) : State :=
  let a := s.arg m
  State.boundSteer { s with folio := { s.folio with
      tsrc := bitsOf (a 0) 0 3, gptpPort := bitsOf (a 0) 4 2, period := bitsOf (a 1) 0 27, phase := bitsOf (a 2) 0 27,
      tolNs := bitsOf (a 3) 0 16, missMax := bitsOf (a 3) 16 8, maxPpm := bitsOf (a 4) 0 8, stepLim := bitsOf (a 4) 16 32,
      offset := 0, synced := false, holdover := false, ppsAt := s.aon.time.toNat, edgeAt := none } }

/-- TIME_CONFIG (R365). -/
def execTimeConfig (m : MbN) (s : State) : Host.Outcome State Fault Refusal :=
  runCommand m.val 0x10 s (fun s =>
    let c := s.timeCheck m.val
    if c = 0 then (s.setTime m.val).finish m.val 0 else s.finish m.val c)

/-! ### SUPERVISE_SET (R472) -/

/-- SUPERVISE_SET: both registers are written together. -/
def State.supervise (s : State) (m : Nat) : State :=
  if argRsvd s m 0 0xFFFFFFF1 || argRsvd s m 1 0xF1 then s.finish m 4
  else
    let v := s.arg m 1
    let s := { s with
      folio := { s.folio with rdCtrl := s.arg m 0 }, huv := { s.huv with reintEn := bitAt v 0, reintMax := bitsOf v 4 4 } }
    s.finish m 0 [s.arg m 0, v]

/-- SUPERVISE_SET (R472). -/
def execSuperviseSet (m : MbN) (s : State) : Host.Outcome State Fault Refusal :=
  runCommand m.val 0x83 s (fun s => s.supervise m.val)

/-! ### PEN_CONTROL (R376) -/

/-- PEN_CONTROL: exactly one of RESTART and FENCE. -/
def State.penControl (s : State) (m : Nat) : State :=
  let a := s.arg m 0
  let p := bitsOf a 0 6
  if argRsvd s m 0 0x33F then s.finish m 4
  else if bitAt a 8 = bitAt a 9 then s.finish m 3
  else if bitAt a 8 then
    if s.dev ≠ .loaded then s.finish m 2
    else if (s.pen p).st ≠ .stopped then s.finish m 9
    else (s.restartPen p).finish m 0
  else (raised (s.fencePen p)).finish m 0

/-- PEN_CONTROL (R376). -/
def execPenControl (m : MbN) (s : State) : Host.Outcome State Fault Refusal :=
  runCommand m.val 0x80 s (fun s => s.penControl m.val)

/-! ### POWER (R377) -/

/-- A ruling uses a domain (R367, step 2). -/
def imageUses (im : Image) (d : Domain) : Bool :=
  match d with
  | .pen n => im.lines.any (fun e => namesPen e.2 n.val)
  | .rsvPair k => namesRsv im (2 * k.val) || namesRsv im (2 * k.val + 1)
  | .mac m => im.lines.any (fun e => e.2.isWindow 5 && e.2.unit = m.val)
  | .blotter => im.lines.any (fun e => e.2.isWindow 3 || e.2.isWindow 4)
  | .canGpio | .security => false

/-- A channel of a defined set, the gPTP source or an IDE stream uses a domain. -/
def State.portUses (s : State) (d : Domain) : Bool :=
  match d with
  | .mac m => (s.folio.tsrc = 1 && s.folio.gptpPort = m.val)
      || s.allChannels.any (fun c => 3 ≤ dType c.2 && dType c.2 ≤ 6 && (dMacs c.2).contains m.val)
  | .canGpio => s.allChannels.any (fun c => 7 ≤ dType c.2)
  | .security => (upTo 4).any (fun i => (s.ideOf i).enabled)
  | .pen _ | .rsvPair _ | .blotter => false

/-- A domain may not be switched off now. -/
def State.domainInUse (s : State) (d : Domain) : Bool :=
  (d = .blotter && (upTo 64).any (fun p => match (s.pen p).st with
      | .testWait | .test | .resilver => true
      | .off | .idle | .run | .stopped | .fenced => false)) ||
  (s.dev = .run && (imageUses (s.imageOf s.folio.actSlot) d || (s.folio.swArm && imageUses (s.imageOf s.folio.swSlot) d)
      || s.portUses d))

/-- The domains that the arguments of POWER name. -/
def State.namedDomains (s : State) (m : Nat) : List Domain :=
  ((List.finRange 64).filter (fun n => bitAt (s.arg m 0) n.val)).map Domain.pen
    ++ pairOrder.filter (fun d => bitAt (s.arg m 1) (domainBit d))

/-- The Huvas opens the lock of the power registers, requests the domains and closes it again. -/
def State.requestDomains (s : State) (m : Nat) (on : Bool) : State :=
  let pens := if on then s.pwr.reqPen ||| s.arg m 0 else s.pwr.reqPen &&& ~~~ s.arg m 0
  let others := if on then s.pwr.reqOther ||| s.arg m 1 else s.pwr.reqOther &&& ~~~ s.arg m 1
  let s := { s with pwr := { s.pwr with lock := false } }
  let s := (s.domainRequest false pens).domainRequest true others
  { s with pwr := { s.pwr with lock := true } }

/-- POWER: all the named domains or none; it ends when the last is switched and filled. -/
def State.powerCmd (s : State) (m : Nat) : State :=
  let on := bitAt (s.arg m 2) 0
  let ds := s.namedDomains m
  if argRsvd s m 1 0x7FFFFF || argRsvd s m 2 1 then s.finish m 4
  else if on && (List.finRange 64).any (fun n => bitAt (s.arg m 0) n.val && (s.pen n.val).st = .fenced) then s.finish m 0x0B02
  else if !on && ds.any s.domainInUse then s.finish m 0x0B01
  else ((s.requestDomains m on).waitFor m (.power m)).powerDone

/-- POWER (R377). -/
def execPower (m : MbN) (s : State) : Host.Outcome State Fault Refusal :=
  runCommand m.val 0x81 s (fun s => s.powerCmd m.val)

/-! ### QUIESCE, DORMANT, DEBUG_ENABLE (R369, R377, R378, R444) -/

/-- A quiesce begins: an armed switch is disarmed, a partner is told (R314). -/
def State.quiesceStart (s : State) (reason : Nat) : State :=
  { s with folio := { s.folio with swArm := false } }.farewell reason

/-- QUIESCE (R369). -/
def State.quiesceCmd (s : State) (m : Nat) : State :=
  if s.dev = .run then (s.quiesceStart 4).waitFor m (.quiesce m s.cyc)
  else (s.stopFolios .loaded).finish m 0

/-- QUIESCE (R369). -/
def execQuiesce (m : MbN) (s : State) : Host.Outcome State Fault Refusal :=
  runCommand m.val 0x35 s (fun s => s.quiesceCmd m.val)

/-- DORMANT (R377, R444). -/
def State.dormantCmd (s : State) (m : Nat) : State :=
  if argRsvd s m 0 7 then s.finish m 4
  else if s.dev = .run then (s.quiesceStart 4).waitFor m (.dormant m s.cyc)
  else s.goDormant m

/-- DORMANT (R377, R444). -/
def execDormant (m : MbN) (s : State) : Host.Outcome State Fault Refusal :=
  runCommand m.val 0x82 s (fun s => s.dormantCmd m.val)

/-- DEBUG_ENABLE (R378). -/
def State.debugCmd (s : State) (m : Nat) : State :=
  if bitsOf Config.fuses.serial 0 32 ≠ (s.arg m 0).toNat || s.arg m 1 ≠ 0x44424745 then s.finish m 0x0B03
  else if s.dev = .run then (s.quiesceStart 3).waitFor m (.debug m s.cyc)
  else
    let s := s.farewell 3
    ({ s with dev := .debug }.endBackground).finish m 0

/-- DEBUG_ENABLE (R378). -/
def execDebugEnable (m : MbN) (s : State) : Host.Outcome State Fault Refusal :=
  runCommand m.val 0x90 s (fun s => s.debugCmd m.val)

/-! ### Banks and the blotter (R371, R372) -/

/-- The active ruling or an armed switch target names the reservoir (R279). -/
def State.handoverUsed (s : State) (r : Nat) : Bool :=
  s.rulingUsesRsv s.folio.actSlot r || (s.folio.swArm && s.rulingUsesRsv s.folio.swSlot r)

/-- BANK_HANDOVER (R371). -/
def State.handover (s : State) (m : Nat) : State :=
  let a := s.arg m 0
  let r := bitsOf a 0 5
  let own := bitsOf a 8 7
  let pin := bitAt a 16
  if argRsvd s m 0 0x17F1F then s.finish m 4
  else if 0x40 < own then s.finish m 3
  else if s.dev = .loaded then
    (s.modRsv r (fun x => { x with
      owner := own, pin := pin, pinOwner := if pin then own else x.pinOwner,
      pinOld := (pin, if pin then own else x.pinOwner), pinAt := s.cyc })).finish m 0
  else if s.handoverUsed r then s.finish m 0x0901
  else
    let now (x : Rsv) : Bool × Nat := if x.pinAt + 4096 ≤ s.cyc then (x.pin, x.pinOwner) else x.pinOld
    (s.modRsv r (fun x => { x with
      pin := pin, pinOwner := if pin then own else x.pinOwner, pinOld := now x, pinAt := s.cyc })).finish m 0

/-- BANK_HANDOVER (R371). -/
def execBankHandover (m : MbN) (s : State) : Host.Outcome State Fault Refusal :=
  runCommand m.val 0x50 s (fun s => s.handover m.val)

/-- The number of the bank that holds a CPA, over all banks. -/
def bankOf (cpa : Nat) : Option Nat :=
  if isInk cpa then some (cpa / 0x40000) else if isRsv cpa then some (1000 + rsvNum cpa) else none

/-- The domain of the bank at a CPA is on. -/
def State.bankOn (s : State) (cpa : Nat) : Bool :=
  if isInk cpa then s.penOn (inkPen cpa) else isRsv cpa && s.rsvOn (rsvNum cpa)

/-- SCRUB starts a pass (R291, R372). -/
def State.scrubCmd (s : State) (m : Nat) : State :=
  let cpa := bitsOf (s.arg m 0) 3 45 * 8
  let n := bitsOf (s.arg m 1) 0 18
  if argRsvd s m 0 0xFFFFFFFFFFF8 || argRsvd s m 1 0x103FFFF then s.finish m 4
  else if n = 0 || (bankOf cpa).isNone then s.finish m 3
  else if bankOf (cpa + 8 * (n - 1)) ≠ bankOf cpa then s.finish m 0x0902
  else if !s.blotOn then s.finish m 0x0903
  else if s.blot.pass.isSome then s.finish m 9
  else if !s.bankOn cpa then s.finish m 0x0B04
  else
    let s := { s with blot := { s.blot with
      scrBase := wordN cpa, scrLen := wordN n, poisonUe := bitAt (s.arg m 1) 24 } }
    (s.scrubStart (some m)).goBackground m

/-- SCRUB (R291, R372). -/
def execScrub (m : MbN) (s : State) : Host.Outcome State Fault Refusal :=
  runCommand m.val 0x51 s (fun s => s.scrubCmd m.val)

/-- The blotter cannot march pen `p`: it marches already, or holds the pen for a test or a copy. -/
def State.marchBusy (s : State) (p : Nat) : Bool :=
  s.blot.marching.isSome || (match (s.pen p).st with
    | .testWait | .test | .resilver => true
    | .off | .idle | .run | .stopped | .fenced => false)

/-- MARCH starts a test of an inkwell bank (R295, R372). -/
def State.marchCmd (s : State) (m : Nat) : State :=
  let p := bitsOf (s.arg m 0) 0 6
  let b := bitsOf (s.arg m 0) 8 1
  if argRsvd s m 0 0x13F then s.finish m 4
  else if !s.blotOn then s.finish m 0x0903
  else if s.marchBusy p then s.finish m 9
  else if !s.penOn p then s.finish m 0x0B04
  else { s with blot := { s.blot with marching := some { mb := m, pen := p, bank := b } } }.goBackground m

/-- MARCH (R295, R372). -/
def execMarch (m : MbN) (s : State) : Host.Outcome State Fault Refusal :=
  runCommand m.val 0x52 s (fun s => s.marchCmd m.val)

end Sys2Proof.Machine
end

