-- ==== Sys2Proof/Machine/HuvasMemory.lean ====
section
/-! DEFINITION. The Huvas's commands over memory, version slots and the pens' set-up: MEM_LOAD, MEM_READ, MARGIN_READ,
EVENT_READ, RUBRIC_SET, VSLOT_SET, MIRROR_SET, LSLOT_SET and SEQ_SEL (R361, R362, R364, R370, R372). -/

namespace Sys2Proof.Machine

/-! ### The arguments of MEM_LOAD and MEM_READ (R361) -/

/-- A transfer between host memory and banks. -/
structure MemArgs where
  host   : Nat
  len    : Nat
  format : Nat
  target : Nat
  loc    : Bool
  mask   : Word
  deriving DecidableEq, Repr

def State.memArgs (s : State) (m : Nat) : MemArgs :=
  { host := (s.arg m 0).toNat, len := bitsOf (s.arg m 1) 0 32, format := bitsOf (s.arg m 1) 32 4,
    target := bitsOf (s.arg m 2) 0 48, loc := bitAt (s.arg m 2) 48, mask := s.arg m 3 }

/-- Bytes of the transfer's unit in host memory. -/
def MemArgs.unit (a : MemArgs) : Nat := if a.format = 1 then 4352 else 8
/-- Payload words in the banks. -/
def MemArgs.words (a : MemArgs) : Nat := if a.format = 1 then a.len / 4352 * 512 else a.len / 8

/-- The pens of a mask, ascending. -/
def pensIn (w : Word) : List Nat := (upTo 64).filter (fun n => bitAt w n)

/-- The target lies in one reservoir or in the inkwells of one pen. -/
def MemArgs.inRange (a : MemArgs) : Bool :=
  let last := a.target + 8 * a.words - 8
  if a.loc then last < 0x80000
  else (isInk a.target && isInk last && inkPen a.target = inkPen last)
    || (isRsv a.target && isRsv last && rsvNum a.target = rsvNum last)

/-- The first CPA of the transfer in each place that it names. -/
def MemArgs.bases (a : MemArgs) : List Nat := if a.loc then (pensIn a.mask).map (fun p => inkBase p + a.target) else [a.target]

/-- The checks before any host memory is read: a code, 0 for none. -/
def State.memCheck (s : State) (m : Nat) (load : Bool) : Nat :=
  let a := s.memArgs m
  if argRsvd s m 1 0xFFFFFFFFF || argRsvd s m 2 0x1FFFFFFFFFFFF then 4
  else if 1 < a.format || a.len = 0 || a.len % a.unit ≠ 0 || a.host % 8 ≠ 0 || hostTop < a.host + a.len
    || a.target % (if a.format = 1 then 4096 else 8) ≠ 0 || !a.inRange || (a.loc && a.mask = 0)
    || (a.loc && !load && (pensIn a.mask).length ≠ 1) then 3
  else if a.bases.any (fun b => !s.bankOn b) then 0x0B04
  else 0

/-! ### MEM_LOAD -/

/-- The tag of word `i` of a TAGGED image (R306). -/
def tagOfImage (ws : List Word) (i : Nat) : Tag :=
  BitVec.ofNat 4 (bitsOf (ws.getD (i / 512 * 544 + 512 + i % 512 / 16) 0) (4 * (i % 16)) 4)

/-- Word `i` of an image. -/
def MemArgs.wordAt (a : MemArgs) (ws : List Word) (i : Nat) : TWord :=
  if a.format = 1 then ⟨tagOfImage ws i, ws.getD (i / 512 * 544 + i % 512) 0⟩ else TWord.raw (ws.getD i 0)

/-- The first word whose tag may not be loaded: the byte offsets of its tag and of its payload. -/
def MemArgs.badTag (a : MemArgs) (ws : List Word) : Option (Nat × Nat) :=
  if a.format ≠ 1 then none
  else ((upTo a.words).find? (fun i => let t := tagOfImage ws i; t.isReserved || t = Tag.status)).map
    (fun i => (i / 512 * 4352 + 4096 + i % 512 / 2, i / 512 * 4352 + 8 * (i % 512)))

/-- The stage-2 tables and table windows of a partition in pen `p`: the CPAs of their pages. -/
def State.tablePages (s : State) (part p : Nat) : List Nat :=
  s.s2Tables part p ++ (upTo 4).flatMap (fun i =>
    let a := s.ptWord part (4 + 2 * i)
    let b := s.ptWord part (5 + 2 * i)
    let cpa := bitsOf b 28 36 * 4096
    let base := if bitAt b 16 then inkBase p + cpa % 0x80000 else cpa
    if bitAt a 0 then (upTo (bitsOf b 0 16)).map (fun j => base + 4096 * j) else [])

/-- The partitions that are set up and have a table or table window among some pages (by page number). -/
def State.partsOver (s : State) (pages : List Nat) : List Nat :=
  (upTo 256).filter (fun q => (s.partOf q).up &&
    (pensIn (s.partOf q).penMask).any (fun p => (s.tablePages q p).any (fun t => pages.contains (t / 4096))))

/-- A partition is no longer set up. -/
def State.unset (s : State) (q : Nat) : State := { s with parts := Table.set (fun _ => {}) s.parts q {} }

/-- The words of a load in the order in which they are written: CPA, and index in the image; pens ascending. -/
def MemArgs.places (a : MemArgs) : List (Nat × Nat) :=
  a.bases.flatMap (fun b => (upTo a.words).map (fun i => (b + 8 * i, i)))

/-- The page numbers that some writes reach, both copies of a mirrored page included. -/
def State.pagesWritten (s : State) (l : List (Nat × Nat)) : List Nat :=
  ((l.map (fun e => e.1 / 4096 * 4096)).eraseDups.flatMap s.writeAt).map (· / 4096)

/-- Write words of an image; a partition whose tables they reach is no longer set up. -/
def State.loadWords (s : State) (a : MemArgs) (ws : List Word) (l : List (Nat × Nat)) : State :=
  let gone := s.partsOver (s.pagesWritten l)
  let s := s.forAll l (fun e u => u.huvasStore e.1 (a.wordAt ws e.2))
  s.forAll gone (fun q t => t.unset q)

/-- MEM_LOAD (R361): at most `lim` more words after the first `done`. -/
def State.memLoad (s : State) (m : Nat) (d : HostData) (lim : Option Nat) (done : Nat) : State :=
  let c := s.memCheck m true
  let a := s.memArgs m
  if c ≠ 0 then s.finish m c
  else match s.hostGet d (a.len / 8) with
    | .failed e _ => s.finish m e
    | .got ws =>
      match a.badTag ws with
      | some (t, p) => s.finish m 3 [0, wordN t, wordN p]
      | none =>
        let rest := a.places.drop done
        let now := match lim with
          | some n => rest.take n
          | none => rest
        let t := s.loadWords a ws now
        if now.length < rest.length then t.holdCmd m (done + now.length) else t.finish m 0 [wordN a.len]

/-- MEM_LOAD (R361). -/
def execMemLoad (m : MbN) (data : HostData) (run : CmdRun) (s : State) : Host.Outcome State Fault Refusal :=
  stepCommand m.val 0x20 run s (fun lim done s => s.memLoad m.val data lim done)

/-! ### MEM_READ -/

/-- Read consecutive words; `none` when one is uncorrectable. -/
def State.readRange (s : State) (base n : Nat) : Option (List TWord) × State :=
  let x := (upTo n).foldl (fun (x : List TWord × Bool × State) i =>
    let r := x.2.2.huvasRead (base + 8 * i)
    match r.1 with
    | some w => (w :: x.1, x.2.1, r.2)
    | none => (x.1, false, r.2)) ([], true, s)
  (if x.2.1 then some x.1.reverse else none, x.2.2)

/-- The words in host memory for some tagged words (R306, R361). -/
def hostImage (tagged : Bool) : Nat → List TWord → List Word
  | 0, _ => []
  | n + 1, l =>
    if !tagged then l.map (·.val)
    else
      let u := l.take 512
      u.map (·.val) ++ (upTo 32).map (fun j => BitVec.ofNat 64
        ((upTo 16).foldl (fun t k => t + (u.getD (16 * j + k) TWord.uninit).tag.toNat * 2 ^ (4 * k)) 0))
        ++ hostImage tagged n (l.drop 512)

/-- MEM_READ (R361): nothing is written to host memory before the last step. -/
def State.memRead (s : State) (m : Nat) (linkFails : Bool) (lim : Option Nat) : State :=
  let c := s.memCheck m false
  let a := s.memArgs m
  if c ≠ 0 then s.finish m c
  else if lim.isSome then s.holdCmd m 0
  else
    let r := s.readRange (a.bases.getD 0 0) a.words
    match r.1 with
    | none => r.2.finish m 0x0A
    | some l =>
      let x := r.2.hostPut a.host (hostImage (a.format = 1) (if a.format = 1 then a.words / 512 else 1) l) linkFails
      x.2.finish m x.1

/-- MEM_READ (R361). -/
def execMemRead (m : MbN) (linkFails : Bool) (run : CmdRun) (s : State) : Host.Outcome State Fault Refusal :=
  stepCommand m.val 0x21 run s (fun lim _ s => s.memRead m.val linkFails lim)

/-! ### MARGIN_READ, EVENT_READ, RUBRIC_SET (R290, R370, R372) -/

/-- The two words of margin log entry `i` (R300). -/
def State.marginWords (s : State) (i : Nat) : List Word :=
  match s.blot.ml[i]? with
  | none => [0, 0]
  | some e => [pk [(0, e.cpa), (48, e.syndrome), (56, e.source), (59, bitN e.repaired), (63, 1)],
               pk [(0, e.count), (16, e.first), (32, e.last)]]

/-- MARGIN_READ (R372). -/
def State.marginRead (s : State) (m : Nat) (linkFails : Bool) : State :=
  let a := (s.arg m 0).toNat
  if argRsvd s m 1 1 then s.finish m 4
  else if hostTop < a + 1024 then s.finish m 3
  else
    let res := [wordN s.blot.ml.length, wordN s.blot.mlOver]
    let x := s.hostPut a ((upTo 64).flatMap s.marginWords) linkFails
    if x.1 ≠ 0 then x.2.finish m x.1
    else (if bitAt (s.arg m 1) 0 then x.2.mlClear else x.2).finish m 0 res

/-- MARGIN_READ (R372). -/
def execMarginRead (m : MbN) (linkFails : Bool) (s : State) : Host.Outcome State Fault Refusal :=
  runCommand m.val 0x53 s (fun s => s.marginRead m.val linkFails)

/-- EVENT_READ (R370, R427): entries that have been copied leave the queue, and vector 1 is armed again. At most `lim`
more entries after the first `done`. -/
def State.eventRead (s : State) (m : Nat) (linkFails : Bool) (lim : Option Nat) (done : Nat) : State :=
  let a := (s.arg m 0).toNat
  let n := bitsOf (s.arg m 1) 0 10
  if argRsvd s m 1 0x3FF then s.finish m 4
  else if n = 0 || 512 < n || hostTop < a + 32 * n then s.finish m 3
  else
    let left := min (n - done) s.huv.eq.length
    let k := match lim with
      | some j => min j left
      | none => left
    let l := s.huv.eq.take k
    let rest := s.huv.eq.drop k
    let x := s.hostPut (a + 32 * done) (l.flatMap (fun e => [e.w0, e.w1, e.w2, e.w3])) linkFails
    if x.1 ≠ 0 then x.2.finish m x.1
    else
      let t := { x.2 with huv := { x.2.huv with eq := rest, eqOver := x.2.huv.eqOver && !rest.isEmpty, vec1Armed := true } }
      if k < left then t.holdCmd m (done + k) else t.finish m 0 [wordN (done + k), wordN rest.length]

/-- EVENT_READ (R370). -/
def execEventRead (m : MbN) (linkFails : Bool) (run : CmdRun) (s : State) : Host.Outcome State Fault Refusal :=
  stepCommand m.val 0x41 run s (fun lim done s => s.eventRead m.val linkFails lim done)

/-- The fields that RUBRIC_FIXED protects: ACTION, ESC_ACTION, ESC_COUNT, ESC_WIN (R416). -/
def reactionFields (w : Word) : Word := only 0xFFF77 w

/-- What is wrong with a new entry of a class (R370): a code, 0 for nothing. -/
def rubricCheck (c : Nat) (e : Word) : Nat :=
  if bitAt e 7 || bitsOf e 21 43 ≠ 0 then 4
  else if rbFixed c && reactionFields e ≠ reactionFields (rbDefault c) then 0x0D01
  else if !rbAdmits c (bitsOf e 0 3) || !rbAdmits c (bitsOf e 4 3) then 0x0D02
  else 0

/-- The first failing class of new entries, with its code. -/
def rubricFault (first : Nat) (ws : List Word) : Option (Nat × Nat) :=
  (upTo ws.length).findSome? (fun i =>
    let c := rubricCheck (first + i) (ws.getD i 0)
    if c = 0 then none else some (first + i, c))

/-- RUBRIC_SET (R370, R416). -/
def State.rubricSet (s : State) (m : Nat) (d : HostData) : State :=
  let first := bitsOf (s.arg m 0) 0 8
  let n := bitsOf (s.arg m 0) 8 9
  if argRsvd s m 0 0x1FFFF then s.finish m 4
  else if n = 0 || 256 < n || 256 < first + n || hostTop < (s.arg m 1).toNat + 8 * n then s.finish m 3
  else match s.hostGet d n with
    | .failed e _ => s.finish m e
    | .got ws =>
      match rubricFault first ws with
      | some (c, code) => s.finish m code [wordN c]
      | none =>
        (s.forAll (upTo n) (fun i t => t.modRb (first + i) (fun c =>
          { c with entry := only 0xFFF7F (ws.getD i 0) ||| (c.entry &&& 0x100000) }))).finish m 0

/-- RUBRIC_SET (R370). -/
def execRubricSet (m : MbN) (data : HostData) (s : State) : Host.Outcome State Fault Refusal :=
  runCommand m.val 0x40 s (fun s => s.rubricSet m.val data)

/-! ### VSLOT_SET (R69, R362) -/

/-- A stage-2 leaf that is not VERSIONED maps the frame with a page number, for home pen `p`. -/
def leafMaps (p frame : Nat) (x : Nat × Word × Nat × Nat) : Bool :=
  let e := x.2.1
  let a := s2Addr p e
  !bitAt e 6 && a ≤ frame * 4096 && frame * 4096 < a + 2 ^ (12 + 9 * x.2.2.1)

/-- A page frame is mapped in the stage 2 of a partition that is set up, other than through a slot. -/
def State.frameMapped (s : State) (frame : Nat) : Bool :=
  (upTo 256).any (fun q => (s.partOf q).up &&
    (pensIn (s.partOf q).penMask).any (fun p => (s.partLeaves q p).any (leafMaps p frame)))

/-- A VALID slot breaks one of the conditions of R69. -/
def State.slotBroken (s : State) (n : Nat) : Bool :=
  let v := s.vslot n
  v.valid &&
    (v.frame0 = v.frame1 || (bankOf (v.frame0 * 4096)).isNone || bankOf (v.frame0 * 4096) ≠ bankOf (v.frame1 * 4096)
      || s.frameMapped v.frame0 || s.frameMapped v.frame1
      || s.vt.any (fun e => e.1 ≠ n && e.2.valid &&
          (e.2.frame0 = v.frame0 || e.2.frame0 = v.frame1 || e.2.frame1 = v.frame0 || e.2.frame1 = v.frame1)))

def vkindOf (n : Nat) : VKind := match n with
  | 0 => .state
  | 1 => .output
  | 2 => .input
  | _ => .rsvd

/-- The software fields of a slot, from its two words. -/
def VSlot.load (v : VSlot) (w0 w1 : Word) : VSlot :=
  { v with
    frame0 := bitsOf w0 0 36, fair := false, kind := vkindOf (bitsOf w0 37 2), valid := bitAt w0 39,
    part := bitsOf w0 40 8, frame1 := bitsOf w1 0 36 }

/-- An entry of VSLOT_SET with a reserved or hardware field set. -/
def vslotRsvd (w0 w1 : Word) : Bool := bitsOf w0 48 16 ≠ 0 || bitAt w0 36 || bitsOf w0 37 2 = 3 || bitsOf w1 36 28 ≠ 0

/-- A partition's stage 2 names a slot in a range. -/
def State.namesSlot (s : State) (q first n : Nat) : Bool :=
  (s.partOf q).up && (s.partLeaves q (lowestPen (s.partOf q).penMask)).any (fun x =>
    let k := bitsOf x.2.1 12 13
    bitAt x.2.1 6 && first ≤ k && k < first + n)

/-- VSLOT_SET (R362): all the entries or none. -/
def State.vslotSet (s : State) (m : Nat) (d : HostData) : State :=
  let first := bitsOf (s.arg m 0) 0 13
  let n := bitsOf (s.arg m 0) 16 14
  if argRsvd s m 0 0x3FFF1FFF then s.finish m 4
  else if n = 0 || 8192 < n || 8192 < first + n || hostTop < (s.arg m 1).toNat + 16 * n then s.finish m 3
  else match s.hostGet d (2 * n) with
    | .failed e _ => s.finish m e
    | .got ws =>
      match (upTo n).find? (fun i => vslotRsvd (ws.getD (2 * i) 0) (ws.getD (2 * i + 1) 0)) with
      | some i => s.finish m 4 [wordN (first + i)]
      | none =>
        let t := s.forAll (upTo n) (fun i t => t.modVslot (first + i) (fun v =>
          v.load (ws.getD (2 * i) 0) (ws.getD (2 * i + 1) 0)))
        let broken := ((upTo n).map (· + first) ++ t.vt.map (·.1)).find? t.slotBroken
        match broken with
        | some k => s.finish m 0x0708 [wordN k]
        | none => (t.forAll ((upTo 256).filter (fun q => s.namesSlot q first n)) (fun q u => u.unset q)).finish m 0

/-- VSLOT_SET (R362). -/
def execVslotSet (m : MbN) (data : HostData) (s : State) : Host.Outcome State Fault Refusal :=
  runCommand m.val 0x22 s (fun s => s.vslotSet m.val data)

/-! ### MIRROR_SET (R106, R364) -/

/-- Compare two copies word by word at some offsets, as reads of the Huvas that count what they meet (R285, R286): the
first CPA at which they differ, or at which a word is uncorrectable. -/
def State.compareAt (e : Nat) : List Nat → State → Option (Nat × Bool) × State
  | [], s => (none, s)
  | o :: t, s =>
    let x := s.huvasGet (e + o)
    let y := x.2.huvasGet (e + 0x80000 + o)
    match x.1, y.1 with
    | some a, some b => if a = b then State.compareAt e t y.2 else (some (e + o, true), y.2)
    | _, _ => (some (e + o, false), y.2)

/-- The first word, in the order of CPAs, at which the two copies of some pages differ or one is uncorrectable: its CPA in
the even pen and whether it differs. Pages count from 64 for bank 1; words that neither copy lists are equal. -/
def State.copiesDiffer (p : Nat) : List Nat → State → Option (Nat × Bool) × State
  | [], s => (none, s)
  | g :: t, s =>
    let e := inkBase p + 4096 * g
    let offs := (s.listedIn e 512).map (· - e) ++ (s.listedIn (e + 0x80000) 512).map (· - (e + 0x80000))
    let x := State.compareAt e (sortBy id offs).eraseDups s
    if x.1.isSome then x else State.copiesDiffer p t x.2

/-- The mirror masks of a pair; once no page is mirrored the pair is MIRRORED and nothing is stale (R112). -/
def State.setMasks (s : State) (p : Nat) (w0 w1 : Word) : State :=
  let s := s.modPen p (fun x => { x with mirror0 := w0, mirror1 := w1 })
  if w0 = 0 && w1 = 0 then
    (s.modPen p (fun x => { x with mirror := .mirrored, stale := false, recopy := [] })).modPen (p + 1)
      (fun x => { x with stale := false, recopy := [] })
  else s

/-- MIRROR_SET (R364): the copies of each page whose bit becomes 1 are compared first. -/
def State.mirrorSet (s : State) (m : Nat) : State :=
  let p := bitsOf (s.arg m 0) 0 6
  let w0 := s.arg m 1
  let w1 := s.arg m 2
  let x := s.pen p
  let pages := pensIn (w0 &&& ~~~ x.mirror0) ++ (pensIn (w1 &&& ~~~ x.mirror1)).map (· + 64)
  if argRsvd s m 0 0x3F then s.finish m 4
  else if p % 2 = 1 then s.finish m 3
  else if pages ≠ [] && !(s.penOn p && s.penOn (p + 1)) then s.finish m 0x0B04
  else
    let x := State.copiesDiffer p pages s
    match x.1 with
    | some (cpa, true) => x.2.finish m 0x0709 [wordN cpa]
    | some (_, false) => x.2.finish m 0x0A
    | none => (x.2.setMasks p w0 w1).finish m 0

/-- MIRROR_SET (R364). -/
def execMirrorSet (m : MbN) (s : State) : Host.Outcome State Fault Refusal :=
  runCommand m.val 0x24 s (fun s => s.mirrorSet m.val)

/-! ### LSLOT_SET and SEQ_SEL (R120, R266, R364) -/

/-- Write a lock slot of a pen and load it; a slot that is switched off leaves an ordinary entry behind. -/
def State.setLslot (s : State) (n i : Nat) (w : Word) : State :=
  let s := s.modPen n (fun x => x.setLslot i w)
  if bitAt w 0 then s.lslotLoad n i else s

/-- `MMU_LSLOT_STATUS` of a pen. -/
def State.lslotStatus (s : State) (n : Nat) : Word := match s.mmuReg n 0x148 with
  | some w => w.val
  | none => 0

/-- LSLOT_SET (R364). -/
def State.lslotSet (s : State) (m : Nat) : State :=
  let a := s.arg m 1
  let i := bitsOf a 0 3
  let en := bitAt a 3
  let w := wordN (bitN en + bitsOf a 8 8 * 4 + bitsOf (s.arg m 2) 12 45 * 4096)
  let ps := pensIn (s.arg m 0)
  if argRsvd s m 1 0xFF0F then s.finish m 4
  else if ps.any (fun p => (s.pen p).st ≠ .idle) then s.finish m 9
  else
    let t := s.forAll ps (fun p t => t.setLslot p i w)
    let bad := if en then ps.filter (fun p => bitAt (t.pen p).lslotStat (8 + i)) else []
    match bad with
    | [] => t.finish m 0
    | p :: _ => t.finish m 0x070B [wordN (bad.foldl (fun n q => n + 2 ^ q) 0), t.lslotStatus p]

/-- LSLOT_SET (R364). -/
def execLslotSet (m : MbN) (s : State) : Host.Outcome State Fault Refusal :=
  runCommand m.val 0x25 s (fun s => s.lslotSet m.val)

/-- SEQ_SEL (R120, R364). -/
def State.seqSel (s : State) (m : Nat) : State :=
  let a := s.arg m 1
  let v := s.vslot (bitsOf a 16 13)
  if argRsvd s m 1 0x9FFF000F then s.finish m 4
  else if !(v.valid && v.kind = .input) then s.finish m 3
  else (s.forAll (pensIn (s.arg m 0)) (fun p t => t.modPen p (fun x => { x with
      seqSel := Table.set (fun _ => 0) x.seqSel (bitsOf a 0 4) (wordN (bitsOf a 16 13 + bitN (bitAt a 31) * 2 ^ 15)) }))).finish m 0

/-- SEQ_SEL (R364). -/
def execSeqSel (m : MbN) (s : State) : Host.Outcome State Fault Refusal :=
  runCommand m.val 0x26 s (fun s => s.seqSel m.val)

end Sys2Proof.Machine
end

