-- ==== Sys2Proof/Machine/Firmware.lean ====
section
/-! DEFINITION. The checker test and the start-up tests (R123, R297, R358, R373) and the firmware load (R356, R357). -/

namespace Sys2Proof.Machine

/-! ### One bank test (R297, R373) -/

/-- The flip mask of the stored bits `a` and `b`, and the value of `INJ_FLIP1` for its upper bits. -/
def flipBits (bits : List Nat) : Nat := bits.foldl (fun n i => n ||| 2 ^ i) 0

/-- The codeword stored for a word under a flip mask, F inverted for FOLD. -/
def testCode (cpa : Nat) (w : TWord) (flips : Nat) (fold : Bool) : Code :=
  injectCode cpa w (wordN (flips % 2 ^ 64)) (wordN (flips / 2 ^ 64 + bitN fold * 2 ^ 12))

/-- The injection registers of a bank after its test, the FOLD case last and its arm spent (R298, R299). -/
def State.testArmed (s : State) (b : Bank) (word : Nat) : State :=
  match b with
  | .ink p k => s.modPen p.val (fun x => { x with
      injAddr := wordN (word + k.val * 2 ^ 16), injFlip0 := 0, injFlip1 := wordN (2 ^ 12) })
  | .rsv r => s.modRsv r.val (fun x => { x with injAddr := wordN word, injFlip0 := 0, injFlip1 := wordN (2 ^ 12) })

/-- The three cases on a word whose content `w` was read first. `seen` bit `c`: case `c` gave its expected outcome. The
correctable outcome of the first case is counted and logged; the word is written again. -/
def State.bankCases (s : State) (b : Bank) (word bit seen : Nat) (w : TWord) : State :=
  let cpa := bankBase b + 8 * word
  let s := if seen.testBit 0 then
      (match Sys2Proof.Machine.judge (cpaFold cpa) (testCode cpa w (flipBits [bit]) false) with
       | .corrected _ syn => s.noteCe cpa syn (enginePort cpa)
       | .clean _ | .uncorrectable _ | .address => s)
    else s
  (s.poke cpa w).testArmed b word

/-- The event of a failed test of a bank. -/
def checkerEvent (b : Bank) (word : Nat) : Event :=
  match b with
  | .ink p k => { cls := 0x36, utype := 2, unit := 2 * p.val + k.val, addr := bankBase b + 8 * word }
  | .rsv r => { cls := 0x36, utype := 3, unit := r.val, addr := bankBase b + 8 * word }

/-! ### One pen test (R123) -/

/-- A group of a pen's injection test whose report was missing or wrong (R123): which of the two, and the wrong groups, are
free. A wrong report stops the pen as a divergence, from which it is returned to IDLE. -/
def State.penMisreport (s : State) (p g : Nat) : State :=
  let x := s.takeFree
  let t := x.2.modPen p (fun y => { y with inject := wordN g })
  if bitAt x.1 0 then t
  else
    let k := bitsOf x.1 8 8
    (raised (t.stopPen p pfDiverge (if k = 0 || k = 2 ^ g then 255 - 2 ^ g else k))).restartPen p

/-- The groups of a pen's injection test. An injection that is seen stops the pen, which is returned to IDLE; the result is
the mask of the groups that gave their report. -/
def State.penGroups (p seen : Nat) : Nat → State → Nat × State
  | 0, s => (0, s)
  | g + 1, s =>
    let x := State.penGroups p seen g s
    if !x.2.mayInject p then x
    else
      let t := x.2.modPen p (fun y => { y with inject := wordN (2 ^ 8 + g) })
      if seen.testBit g then
        (x.1 + 2 ^ g, (t.penReport p (.diverge (BitVec.ofNat 8 (2 ^ g)))).restartPen p)
      else (x.1, t.penMisreport p g)

/-- The event of a failed injection test. -/
def injectFailed (p : Nat) : Event := { cls := 0x07, utype := 1, unit := p }

/-! ### CHECKER_TEST (R373) -/

/-- A test of one bank by command. -/
def State.checkBank (s : State) (m : Nat) (b : Bank) (word bit seen : Nat) : State :=
  let x := s.readWord (bankBase b + 8 * word) (enginePort (bankBase b))
  match x.1 with
  | none => x.2.finish m 0x0A
  | some w =>
    let r := seen % 8
    let t := x.2.bankCases b word bit r w
    if r = 7 then t.finish m 0 [wordN r] else (t.raise (checkerEvent b word)).finish m 0x0905 [wordN r]

/-- A test of one pen by command. -/
def State.checkPen (s : State) (m p seen : Nat) : State :=
  let x := s.penGroups p seen 8
  if x.1 = 255 then x.2.finish m 0 [255]
  else ((x.2.raise (injectFailed p)).raise { cls := 0x36, utype := 1, unit := p }).finish m 0x0905 [wordN x.1]

/-- CHECKER_TEST. -/
def State.checkerTest (s : State) (m seen : Nat) : State :=
  let a := s.arg m 0
  let n := bitsOf a 8 6
  let word := bitsOf (s.arg m 1) 0 17
  let bit := bitsOf (s.arg m 1) 24 8
  if argRsvd s m 0 0x13F03 || argRsvd s m 1 0xFF01FFFF then s.finish m 4
  else match bitsOf a 0 2 with
    | 0 =>
      if 75 < bit || 32768 ≤ word then s.finish m 3
      else if !s.mayInjectInk n then s.finish m 0x0904
      else s.checkBank m (.ink (Fin.ofNat 64 n) (Fin.ofNat 2 (bitsOf a 16 1))) word bit seen
    | 1 =>
      if 75 < bit || 32 ≤ n then s.finish m 3
      else if !s.mayInjectRsv n then s.finish m 0x0904
      else if !s.rsvOn n then s.finish m 0x0B04
      else s.checkBank m (.rsv (Fin.ofNat 32 n)) word bit seen
    | 2 => if !s.mayInject n then s.finish m 0x0904 else s.checkPen m n seen
    | _ => s.finish m 3

/-- CHECKER_TEST (R123, R297, R373). -/
def execCheckerTest (m : MbN) (seen : BitVec 8) (s : State) : Host.Outcome State Fault Refusal :=
  runCommand m.val 0x54 s (fun s => s.checkerTest m.val seen.toNat)

/-! ### The start-up tests (R358) -/

/-- The injection test of one pen: a pen that fails is fenced. -/
def State.testPen (s : State) (p : Nat) (bad : Bool) : State :=
  if !s.mayInject p then s
  else
    let x := s.penGroups p (if bad then 0 else 255) 8
    if x.1 = 255 then x.2 else x.2.raise (injectFailed p)

/-- The checker test of word 0 of one bank. The bit is the firmware's. -/
def State.testBank (s : State) (b : Bank) (bad : Bool) : State :=
  let bit := (Config.freeWord s.free).toNat % 76
  let x := { s with free := s.free + 1 }.readWord (bankBase b) (enginePort (bankBase b))
  match x.1 with
  | none => x.2.raise (checkerEvent b 0)
  | some w =>
    let t := x.2.bankCases b 0 bit (if bad then 0 else 7) w
    if bad then t.raise (checkerEvent b 0) else t

/-- The tests of all inkwell banks. -/
def State.testInks (s : State) (bad : BitVec 128) : State :=
  s.forAll (List.finRange 64) (fun p t => t.forAll (List.finRange 2) (fun k u =>
    if u.mayInjectInk p.val then u.testBank (.ink p k) (bad.getLsbD (2 * p.val + k.val)) else u))

/-- The tests of all reservoirs. -/
def State.testRsvs (s : State) (bad : BitVec 32) : State :=
  s.forAll (List.finRange 32) (fun r t => if t.rsvOn r.val then t.testBank (.rsv r) (bad.getLsbD r.val) else t)

/-- The pairs of which the firmware still has a reservoir to fence. -/
def State.pairsToFence (s : State) : List (Fin 16) :=
  (List.finRange 16).filter (fun k => s.huv.fw.any (fun a => match a with
    | .fenceRsv r => r / 2 = k.val
    | .msix1 | .endCmd _ _ => false))

/-- The firmware switches those pairs off. -/
def State.fenceRsvs (s : State) : State :=
  let s := s.forAll s.pairsToFence (fun k t =>
    { t with pwr := { t.pwr with reqOther := setBit t.pwr.reqOther (domainBit (.rsvPair k)) false } }.switchOff (.rsvPair k))
  { s with huv := { s.huv with fw := s.huv.fw.filter (fun a => match a with
    | .fenceRsv _ => false
    | .msix1 | .endCmd _ _ => true) } }

/-- The locks of the windows that the part has once are closed. -/
def State.closeBlockLocks (s : State) : State :=
  { s with
    folio := { s.folio with lock := true }, rul := { s.rul with lock := true }, blot := { s.blot with lock := true }
    huv := { s.huv with rbLock := true }, hif := { s.hif with lock := true }, feed := { s.feed with lock := true }
    gpio := { s.gpio with lock := true }, trc := { s.trc with lock := true }, pwr := { s.pwr with lock := true }
    aon := { s.aon with lock := true } }

/-- Every lock is closed (R358). -/
def State.closeLocks (s : State) : State :=
  let s := s.forAll (upTo 64) (fun p t => t.modPen p (fun x => { x with penLock := true, mmuLock := true, inkLock := true }))
  let s := s.forAll (upTo 32) (fun r t => t.modRsv r (fun x => { x with lock := true }))
  let s := s.forAll (upTo 4) (fun n t => t.modMac n (fun x => { x with lock := true }))
  (s.forAll (upTo 8) (fun n t => t.modCan n (fun x => { x with lock := true }))).closeBlockLocks

/-! ### FW_LOAD (R356, R357) -/

/-- The bytes of an image of a length. -/
def imageBytes (ws : List Word) (len : Nat) : List Byte := (ws.flatMap wordBytes).take len

/-- A little-endian field of an image. -/
def leField (bs : List Byte) (off n : Nat) : Nat := ((bs.drop off).take n).foldr (fun b k => b.toNat + 256 * k) 0

/-- Bytes of a range are all 0. -/
def zeroBytes (bs : List Byte) (off n : Nat) : Bool := ((bs.drop off).take n).all (fun b => b = 0)

/-- A hash as its bytes, the first the most significant. -/
def hashBytes (h : BitVec 384) : List Byte := beBytes 48 h.toNat

/-- A hash as six result words: its bytes in order, eight a word, the first the least significant. -/
def hashWords (h : BitVec 384) : List Word := (upTo 6).map (fun i => wordN (leField (hashBytes h) (8 * i) 8))

/-- Checks 3 to 9 on the bytes of an image of ARG1 bytes: a code, 0 for acceptance. -/
def imageCheck (bs : List Byte) (len lowest : Nat) : Nat :=
  let body := bs.drop 512
  let n := leField bs 0x00C 4
  if len < 512 || leField bs 0 4 ≠ 0x48564657 || leField bs 4 2 ≠ 1 || !zeroBytes bs 7 1 || !zeroBytes bs 0x014 0x2C
    || !zeroBytes bs 0x130 0xD0 then 0x0601
  else if n < 8 || 1572864 < n || n % 8 ≠ 0 || n + 512 ≠ len then 0x0602
  else if !(leField bs 6 1).testBit 1 then 0x0608
  else if Config.sha384 ((bs.drop 0x040).take 96) ≠ Config.fuses.keyHash then 0x0603
  else if hashBytes (Config.sha384 body) ≠ (bs.drop 0x0A0).take 48 then 0x0604
  else if !Config.ecdsaVerify ((bs.drop 0x040).take 96) ((bs.drop 0x0D0).take 96) (Config.sha384 (bs.take 0x0D0)) then 0x0605
  else if leField bs 0x008 4 < lowest then 0x0606
  else 0

/-- A failed check: counted, and nothing else changes. -/
def State.fwReject (s : State) (m code : Nat) : State :=
  { s with huv := { s.huv with fwRejects := satInc 255 s.huv.fwRejects } }.finish m code

/-- The image is accepted: the firmware starts, tests the part and reaches LOADED. -/
def State.fwAccept (s : State) (m : Nat) (bs : List Byte) (badPens : BitVec 64) (badInk : BitVec 128) (badRsv : BitVec 32) :
    State :=
  let v := wordN (leField bs 0x008 4)
  let h := Config.sha384 (bs.drop 512)
  let s := { s with huv := { s.huv with fwVersion := v, fwHash := h, testing := true } }
  let s := s.forAll (upTo 64) (fun p t => t.testPen p (badPens.getLsbD p))
  let s := (s.testInks badInk).testRsvs badRsv
  let off := s.pairsToFence
  let s := s.fenceRsvs.closeLocks
  let s := { s with dev := .loaded, huv := { s.huv with testing := false } }
  s.finish m 0 ([v] ++ hashWords h ++ [s.pensFenced, wordN (flipBits (off.map (·.val)))])

/-- FW_LOAD. -/
def State.fwLoad (s : State) (m : Nat) (d : HostData) (badPens : BitVec 64) (badInk : BitVec 128) (badRsv : BitVec 32) : State :=
  let a := (s.arg m 0).toNat
  let len := bitsOf (s.arg m 1) 0 32
  if a % 8 ≠ 0 || hostTop < a + len then s.finish m 3
  else if argRsvd s m 1 0xFFFFFFFF || argRsvd s m 2 0xFFFFFFFF then s.finish m 4
  else if 8 ≤ s.huv.fwRejects then s.fwReject m 0x0607
  else match s.hostGet d ((len + 7) / 8) with
    | .failed e _ => s.fwReject m e
    | .got ws =>
      let bs := imageBytes ws len
      let c := imageCheck bs len (bitsOf (s.arg m 2) 0 32)
      if c ≠ 0 then s.fwReject m c else s.fwAccept m bs badPens badInk badRsv

/-- FW_LOAD (R356 to R358). -/
def execFwLoad (m : MbN) (image : HostData) (badPens : BitVec 64) (badInk : BitVec 128) (badRsv : BitVec 32) (s : State) :
    Host.Outcome State Fault Refusal :=
  runCommand m.val 0x02 s (fun s => s.fwLoad m.val image badPens badInk badRsv)

end Sys2Proof.Machine
end

