-- ==== Sys2Proof/Machine/PartSetup.lean ====
section
/-! DEFINITION. PART_SETUP: the checks of a partition's translation and exception records in the order of R363, with the
walk of its stage 2 (R25, R69, R220, R237, R251, R253, R257). -/

namespace Sys2Proof.Machine

/-- What a check finds: a code, the offending word as RES0 gives it, and the address concerned. -/
structure SetupFault where
  code : Nat
  word : Nat
  addr : Nat
  deriving DecidableEq, Repr

/-- RES0 for a word at a CPA: its LOCAL offset with bit 63 set where it lies in an inkwell, else the CPA. -/
def setupWord (cpa : Nat) : Nat := if isInk cpa then 2 ^ 63 + cpa % 0x80000 else cpa

/-! ### Records (R244, R252) -/

/-- A word of a record has a bit outside a mask. -/
def outside (mask : Nat) (w : Word) : Bool := w &&& ~~~ BitVec.ofNat 64 mask ≠ 0

/-- A reserved bit is set in the translation record `tr` or the exception record `ex`. -/
def recordRsvd (tr ex : List Word) : Bool :=
  let t (i : Nat) : Word := tr.getD i 0
  outside 0x1FFFFFFFFFFF007 (t 0) || outside 0xFFFFFFFFF00B (t 1) || (bitAt (t 1) 3 && bitsOf (t 1) 19 29 ≠ 0) || t 3 ≠ 0
    || (upTo 4).any (fun i => outside 0x1FFFFFFFFFFF001 (t (4 + 2 * i)) || outside 0xFFFFFFFFF001FFFF (t (5 + 2 * i))
        || (bitAt (t (5 + 2 * i)) 16 && bitsOf (t (5 + 2 * i)) 35 29 ≠ 0))
    || outside 0x701FF0003FFF8 (ex.getD 0 0)

/-! ### Table words as the Huvas reads them (R285, R286) -/

/-- The payload of the RAW word at a CPA, with its errors noted; or the code of what is wrong, 0 for another tag. -/
def State.rawWord (s : State) (cpa : Nat) : Except Nat Word × State :=
  let a := s.readAt cpa
  if !s.bankReady a then (.error 0x0B04, s)
  else
    let r := s.readWord a (enginePort a)
    (match r.1 with
     | none => .error 0x0A
     | some w => if w.tag = Tag.raw then .ok w.val else .error 0, r.2)

/-- Where and why a walk ends without a leaf: the code of the word, 0 for the code of the check that walks; and its CPA, 0
where no word is concerned. -/
abbrev WalkEnd := Nat × Nat

/-- The fault of a check with a code of its own at an address. -/
def WalkEnd.fault (e : WalkEnd) (own addr : Nat) : SetupFault :=
  ⟨if e.1 = 0 then own else e.1, if e.2 = 0 then 0 else setupWord e.2, addr⟩

/-- Stage 2 of an IPA for home pen `home`, from level `l` and table `t` down. -/
def s2Find (home ipa : Nat) : Nat → Nat → State → Except WalkEnd Leaf × State
  | l, t, s =>
    let a := t + 8 * levelIndex ipa l
    let r := s.rawWord a
    match r.1 with
    | .error c => (.error (c, a), r.2)
    | .ok e =>
      if !bitAt e 0 || malformed2 e l then (.error (0, a), r.2)
      else if bitAt e 1 then (.ok ⟨l, e, a⟩, r.2)
      else match l with
        | 0 => (.error (0, a), r.2)
        | l + 1 => s2Find home ipa l (s2Addr home e) r.2

/-- Stage 1 of a VA likewise; a word that lies in no table window is no word. -/
def s1Find (part home va : Nat) : Nat → Nat → State → Except WalkEnd Leaf × State
  | l, t, s =>
    match s.tableWindow part home (t + 8 * levelIndex va l) with
    | none => (.error (0, 0), s)
    | some a =>
      let r := s.rawWord a
      match r.1 with
      | .error c => (.error (c, a), r.2)
      | .ok e =>
        if !bitAt e 0 || malformed1 e l then (.error (0, a), r.2)
        else if bitAt e 1 then (.ok ⟨l, e, a⟩, r.2)
        else match l with
          | 0 => (.error (0, a), r.2)
          | l + 1 => s1Find part home va l (bitsOf e 12 45 * 4096) r.2

/-- The stage-2 leaf of an IPA of a partition. -/
def State.ipaLeaf (s : State) (part home ipa : Nat) : Except WalkEnd Leaf × State :=
  let m := s.s2Mode part
  if 2 ^ (39 + 9 * m) ≤ ipa then (.error (0, 0), s) else s2Find home ipa (2 + m) (s.s2Root part home) s

/-- Run checks in order until one finds a fault. -/
def scan {α : Type} (f : α → State → Option SetupFault × State) : List α → State → Option SetupFault × State
  | [], s => (none, s)
  | a :: l, s =>
    let r := f a s
    match r.1 with
    | some x => (some x, r.2)
    | none => scan f l r.2

/-! ### Step 3: table windows (R253) -/

/-- A table window of a partition: enabled, IPA, pages, LOCAL, CPA or offset. -/
structure TabWin where
  en : Bool
  ipa : Nat
  pages : Nat
  loc : Bool
  cpa : Nat
  deriving DecidableEq, Repr

def State.tabWin (s : State) (part i : Nat) : TabWin :=
  let a := s.ptWord part (4 + 2 * i)
  let b := s.ptWord part (5 + 2 * i)
  ⟨bitAt a 0, bitsOf a 12 45 * 4096, bitsOf b 0 16, bitAt b 16, bitsOf b 28 36 * 4096⟩

def State.tabWins (s : State) (part : Nat) : List TabWin := ((upTo 4).map (s.tabWin part)).filter (·.en)

/-- The window lies wholly in the home pen's inkwells or wholly in one reservoir. -/
def TabWin.placed (w : TabWin) : Bool :=
  1 ≤ w.pages && w.pages ≤ 256 &&
    (let last := w.cpa + 4096 * w.pages - 1
     if w.loc then last < 0x80000 else isRsv w.cpa && isRsv last && rsvNum w.cpa = rsvNum last)

/-- Stage 2 does not map page `j` of the window as the window does: the word concerned. -/
def pageCheck (part home : Nat) (w : TabWin) (j : Nat) (s : State) : Option SetupFault × State :=
  let ipa := w.ipa + 4096 * j
  let r := s.ipaLeaf part home ipa
  (match r.1 with
   | .error x => some (WalkEnd.fault x 0x0704 ipa)
   | .ok l =>
     let e := l.word
     let want := (if w.loc then inkBase home + w.cpa else w.cpa) + 4096 * j
     if bitAt e 2 && !bitAt e 6 && s2Addr home e + ipa % leafSize l.level = want && (bitAt e 7 = w.loc) then none
     else some ⟨0x0704, setupWord l.cpa, ipa⟩, r.2)

/-- A window that is out of place or overlaps one of those before it, or a page of it that stage 2 maps otherwise. -/
def windowCheck (part home : Nat) (ws : List TabWin) (i : Nat) (s : State) : Option SetupFault × State :=
  let w := ws.getD i ⟨false, 0, 0, false, 0⟩
  if !w.placed || (ws.take i).any (fun v => overlap w.ipa (w.ipa + 4096 * w.pages) v.ipa (v.ipa + 4096 * v.pages)) then
    (some ⟨0x0704, 0, w.ipa⟩, s)
  else scan (pageCheck part home w) (upTo w.pages) s

/-- The first fault of the windows, in their order. -/
def State.windowsCheck (s : State) (part home : Nat) : Option SetupFault × State :=
  let ws := s.tabWins part
  scan (windowCheck part home ws) (upTo ws.length) s

/-! ### Step 4: the walk of stage 2 -/

/-- The range lies wholly in a region. -/
def within (lo hi a size : Nat) : Bool := lo ≤ a && a + size ≤ hi

/-- A register page that may be mapped at level 0: the status page of a pen of the mask, read only, or the submission
page (R25). -/
def regPageOk (mask : Word) (a level : Nat) (w : Bool) : Bool :=
  level = 0 && (a = 0x40031000 || ((pensIn mask).any (fun p => a = 0x40400000 + p * 0x10000) && !w))

/-- A leaf that is not VERSIONED maps a frame of a VALID slot, on some pen of the mask. -/
def State.mapsSlotFrame (s : State) (mask : Word) (l : Nat) (e : Word) : Bool :=
  (pensIn mask).any (fun p =>
    let a := s2Addr p e
    s.vt.any (fun v => v.2.valid &&
      (within a (a + leafSize l) (v.2.frame0 * 4096) 4096 || within a (a + leafSize l) (v.2.frame1 * 4096) 4096)))

/-- What is wrong with a leaf: a code, 0 for nothing. -/
def State.leafCode (s : State) (part home : Nat) (mask : Word) (l : Nat) (e : Word) : Nat :=
  let a := s2Addr home e
  let n := leafSize l
  if bitAt e 6 then
    let v := s.vslot (bitsOf e 12 13)
    if v.valid && v.part = part && !(v.kind = .input && bitAt e 3) then 0 else 0x0708
  else if within 0 0x2000000 a n then
    (if !bitAt e 7 then 0x0703 else if s.mapsSlotFrame mask l e then 0x0708 else 0)
  else if within 0x10000000 0x12000000 a n then (if s.mapsSlotFrame mask l e then 0x0708 else 0)
  else if within 0x40000000 0x50000000 a n then (if regPageOk mask a l (bitAt e 3) then 0 else 0x0705)
  else 0x070A

/-- A pointer leads to a table in a bank. -/
def pointsToBank (home : Nat) (e : Word) : Bool := let a := s2Addr home e; isInk a || isRsv a

/-- Read the word at a CPA as a stage-2 word: the word, 0 where it maps nothing, or the code of what is wrong with it. -/
def State.s2Word (s : State) (home l cpa : Nat) : Except Nat Word × State :=
  let r := s.rawWord cpa
  (match r.1 with
   | .error c => .error (if c = 0 then 0x0702 else c)
   | .ok e =>
     if !bitAt e 0 then .ok 0
     else if malformed2 e l || (!bitAt e 1 && !pointsToBank home e) then .error 0x0702
     else .ok e, r.2)

/-- The tables found so far: CPA, level and first IPA, in the order in which the walk reaches them. -/
abbrev Visited := List (Nat × Nat × Nat)

/-- The progress of the walk: a fault, or the tables visited; and the state with errors noted. -/
abbrev WalkRes := Except SetupFault Visited × State

/-- Go on from a result that is no fault. -/
def walkOn {α : Type} (r : Except SetupFault α × State) (f : α → State → WalkRes) : WalkRes :=
  match r.1 with
  | .error e => (.error e, r.2)
  | .ok a => f a r.2

/-- Check the word at `a` of a table of level `l`, which maps IPAs from `ia`: a fault, a table to go down into, or
neither. -/
def State.tableWord (s : State) (part home : Nat) (mask : Word) (l a ia : Nat) :
    Except SetupFault (Option Word) × State :=
  let x := s.s2Word home l a
  match x.1 with
  | .error c => (.error ⟨c, setupWord a, ia⟩, x.2)
  | .ok e =>
    if !bitAt e 0 then (.ok none, x.2)
    else if bitAt e 1 then
      (let c := x.2.leafCode part home mask l e
       (if c = 0 then .ok none else .error ⟨c, setupWord a, ia⟩, x.2))
    else (.ok (some e), x.2)

/-- Go through the table of level `l` at `t` that maps IPAs from `ipa`, if it has not been walked at that level. -/
def tablePass (part home : Nat) (mask : Word) (l t ipa : Nat) (down : Word → Nat → Visited → State → WalkRes)
    (v : Visited) (s : State) : WalkRes :=
  if v.any (fun x => x.1 = t && x.2.1 = l) then (.ok v, s)
  else (upTo 512).foldl (fun (r : WalkRes) i => walkOn r (fun v s =>
    let ia := ipa + i * leafSize l
    walkOn (s.tableWord part home mask l (t + 8 * i) ia) (fun e s => match e with
      | none => (.ok v, s)
      | some e => down e ia v s))) (.ok (v ++ [(t, l, ipa)]), s)

/-- Walk a table of level `l` at `t` that maps IPAs from `ipa`. -/
def s2Walk (part home : Nat) (mask : Word) : Nat → Nat → Nat → Visited → State → WalkRes
  | 0, t, ipa => tablePass part home mask 0 t ipa (fun _ _ v s => (.ok v, s))
  | l + 1, t, ipa => tablePass part home mask (l + 1) t ipa (fun e ia => s2Walk part home mask l (s2Addr home e) ia)

/-- The walk from the root; a root that lies in no bank is malformed. -/
def State.rootWalk (s : State) (part home : Nat) (mask : Word) : WalkRes :=
  let t := s.s2Root part home
  if isInk t || isRsv t then s2Walk part home mask (2 + s.s2Mode part) t 0 [] s else (.error ⟨0x0702, t, 0⟩, s)

/-! ### Step 5: the other pens' copies -/

/-- Compare one word of the lowest pen's inkwells with the same word of pen `q`. -/
def copyWord (q cpa addr : Nat) (s : State) : Option SetupFault × State :=
  let b := inkBase q + cpa % 0x80000
  if !s.bankReady b then (some ⟨0x0B04, setupWord cpa, addr⟩, s)
  else
    let x := s.readWord (s.readAt cpa) (enginePort cpa)
    let y := x.2.readWord (x.2.readAt b) (enginePort b)
    (match x.1, y.1 with
     | some u, some w => if u = w then none else some ⟨0x070C, setupWord cpa, addr⟩
     | _, _ => some ⟨0x0A, setupWord cpa, addr⟩, y.2)

/-- Compare word `i` from a CPA on. -/
def wordCheck (q cpa addr size i : Nat) (s : State) : Option SetupFault × State := copyWord q (cpa + 8 * i) (addr + i * size) s

/-- Compare `n` words from a CPA on, which the partition sees from an address on, with those of pen `q`. -/
def wordsCheck (q cpa addr size n : Nat) (s : State) : Option SetupFault × State :=
  scan (wordCheck q cpa addr size) (upTo n) s

/-- Compare one table of the walk with that of pen `q`. -/
def tableCheck (q : Nat) (x : Nat × Nat × Nat) (s : State) : Option SetupFault × State :=
  wordsCheck q x.1 x.2.2 (leafSize x.2.1) 512 s

/-- Compare the tables of the walk with those of pen `q`. -/
def tablesCheck (v : Visited) (q : Nat) (s : State) : Option SetupFault × State :=
  scan (tableCheck q) (v.filter (fun x => isInk x.1)) s

/-- Compare one table window of pen `home` with that of pen `q`. -/
def winCheck (home q : Nat) (w : TabWin) (s : State) : Option SetupFault × State :=
  wordsCheck q (inkBase home + w.cpa) w.ipa 8 (512 * w.pages) s

/-- Compare the table windows of pen `home` with those of pen `q`. -/
def winsCheck (ws : List TabWin) (home q : Nat) (s : State) : Option SetupFault × State :=
  scan (winCheck home q) (ws.filter (·.loc)) s

/-- Compare tables, then windows, with those of each other pen of the mask, ascending. -/
def State.copiesCheck (s : State) (part home : Nat) (mask : Word) (v : Visited) : Option SetupFault × State :=
  scan (fun (q : Nat) t =>
    let r := tablesCheck v q t
    match r.1 with
    | some f => (some f, r.2)
    | none => winsCheck (s.tabWins part) home q r.2) ((pensIn mask).filter (fun q => q ≠ home)) s

/-! ### Steps 6 and 7 (R220, R237) -/

/-- FLY_VA does not map the top page as R220 asks. -/
def State.flyCheck (s : State) (part home : Nat) : Option SetupFault × State :=
  let va := s.pxWord part 1
  let m := s.s1Mode part
  if va.toNat % 4096 ≠ 0 || !canonical va (39 + 9 * m) then (some ⟨0x0706, 0, va.toNat⟩, s)
  else
    let r := s1Find part home va.toNat (2 + m) (bitsOf (s.ptWord part 0) 12 45 * 4096) s
    match r.1 with
    | .error x => (some (WalkEnd.fault x 0x0706 va.toNat), r.2)
    | .ok l1 =>
      if !bitAt l1.word 3 then (some ⟨0x0706, setupWord l1.cpa, va.toNat⟩, r.2)
      else
        let q := r.2.ipaLeaf part home (bitsOf l1.word 12 45 * 4096 + va.toNat % leafSize l1.level)
        (match q.1 with
         | .error x => some (WalkEnd.fault x 0x0706 va.toNat)
         | .ok l2 =>
           if bitAt l2.word 7 && !bitAt l2.word 6 && bitAt l2.word 3 && bitsOf l2.word 12 7 = 0x3F then none
           else some ⟨0x0706, setupWord l2.cpa, va.toNat⟩, q.2)

/-- The gate table is out of place. -/
def State.gateCheck (s : State) (part : Nat) : Option SetupFault :=
  let w := s.pxWord part 0
  let off := bitsOf w 3 15 * 8
  let n := bitsOf w 32 9
  if off % 32 = 0 && n ≤ 256 && off + 32 * n ≤ 0x3FE00 then none else some ⟨0x0707, 2 ^ 63 + off, 0⟩

/-! ### The command -/

/-- Steps 6 and 7. -/
def State.lastChecks (s : State) (part home : Nat) : Option SetupFault × State :=
  let x := s.flyCheck part home
  match x.1 with
  | some f => (some f, x.2)
  | none => (x.2.gateCheck part, x.2)

/-- Steps 4 to 7. -/
def State.walkChecks (s : State) (part home : Nat) (mask : Word) : Option SetupFault × State :=
  let x := s.rootWalk part home mask
  match x.1 with
  | .error f => (some f, x.2)
  | .ok v =>
    let y := x.2.copiesCheck part home mask v
    match y.1 with
    | some f => (some f, y.2)
    | none => y.2.lastChecks part home

/-- Steps 3 to 7 on a state that holds the new records. -/
def State.setupCheck (s : State) (part : Nat) (mask : Word) : Option SetupFault × State :=
  let home := lowestPen mask
  let x := s.windowsCheck part home
  match x.1 with
  | some f => (some f, x.2)
  | none => x.2.walkChecks part home mask

/-- The records of a partition. -/
def State.setRecords (s : State) (part : Nat) (tr ex : List Word) : State :=
  { s with pt := Table.set (fun _ => []) s.pt part tr, px := Table.set (fun _ => []) s.px part ex }

/-- PART_SETUP (R363): the records are written only when every check passes. -/
def State.partSetup (s : State) (m : Nat) : State :=
  let part := bitsOf (s.arg m 0) 0 8
  let mask := s.arg m 17
  let tr := (upTo 12).map (fun i => s.arg m (1 + i))
  let ex := (upTo 4).map (fun i => s.arg m (13 + i))
  if mask = 0 then s.finish m 3
  else if bitsOf (tr.getD 0 0) 0 2 = 3 || bitsOf (tr.getD 1 0) 0 2 = 3 then s.finish m 0x0701
  else if argRsvd s m 0 0xFF || recordRsvd tr ex then s.finish m 4
  else
    let x := (s.setRecords part tr ex).setupCheck part mask
    match x.1 with
    | some f => { x.2 with pt := s.pt, px := s.px }.finish m f.code [wordN f.word, wordN f.addr]
    | none => { x.2 with parts := Table.set (fun _ => {}) x.2.parts part ⟨true, mask⟩ }.finish m 0

/-- PART_SETUP (R363). -/
def execPartSetup (m : MbN) (s : State) : Host.Outcome State Fault Refusal :=
  runCommand m.val 0x23 s (fun s => s.partSetup m.val)

end Sys2Proof.Machine
end

