-- ==== Sys2Proof/Machine/Rulings.lean ====
section
/-! DEFINITION. The ruling commands: RULING_LOAD, RULING_VERIFY, RULING_UNLOAD, ACTIVATE and SWITCH_ARM (R37, R38, R58 to
R60, R279, R366 to R368). -/

namespace Sys2Proof.Machine

/-- The slot is ACTIVE, or the target of an armed switch (R38). -/
def State.slotHeld (s : State) (k : Nat) : Bool := (s.slotOf k).st = .active || (s.folio.swArm && s.folio.swSlot = k)

/-! ### Placement (R38) -/

/-- The lowest base at which `n` entries fit below `cap` beside ranges (base, length) that are taken. -/
def lowestFit (taken : List (Nat × Nat)) (n cap : Nat) : Option Nat :=
  lowest (fun (a b : Nat) => a < b) ((0 :: taken.map (fun r => r.1 + r.2)).filter (fun b =>
    b + n ≤ cap && taken.all (fun r => !overlap b (b + n) r.1 (r.1 + r.2))))

/-- The resident rulings other than the one in slot `k`. -/
def State.otherSlots (s : State) (k : Nat) : List RulSlot :=
  ((upTo 16).filter (fun j => j ≠ k && (s.slotOf j).st ≠ .empty)).map s.slotOf

/-! ### RULING_LOAD (R366) -/

/-- The handover entries of an image word. -/
def hoHalves (w : Word) : List Word := [wordN (bitsOf w 0 32), wordN (bitsOf w 32 32)]

/-- Copy lines and handover entries into their ranges. -/
def State.putImage (s : State) (lineBase hoBase hos : Nat) (lines hoWs : List Word) : State :=
  (s.storePut (4 * lineBase) lines).storePut (hoBaseIdx + hoBase) ((hoWs.flatMap hoHalves).take hos)

/-- The command with its header read: counts, capacities, the copy. While it has copied a part only, the slot is EMPTY
(R353, R366). -/
def State.loadImage (s : State) (m k len : Nat) (d : HostData) (lim : Option Nat) (h : List Word) : State :=
  let lines := bitsOf (h.getD 2 0) 0 16
  let hos := bitsOf (h.getD 2 0) 16 15
  let others := s.otherSlots k
  if lines = 0 || 32768 < lines || 16384 < hos || len ≠ 64 + 4 * lines + (hos + 1) / 2 then s.finish m 3
  else match lowestFit (others.map (fun r => (r.lineBase, r.lines))) lines 32768,
      (if hos = 0 then some 0 else lowestFit ((others.filter (fun r => r.hos ≠ 0)).map (fun r => (r.hoBase, r.hos))) hos 16384) with
    | none, _ => s.finish m 0x0802
    | some _, none => s.finish m 0x0803
    | some lb, some hb =>
      match s.hostGet d len with
      | .failed e ws =>
        ((s.putImage lb hb hos ((ws.drop 64).take (4 * lines)) (ws.drop (64 + 4 * lines))).modSlot k (fun _ => {})).finish m e
      | .got ws =>
        let body := ws.drop 64
        if lim.any (fun n => n < len - 64) then
          let body := body.take (lim.getD 0)
          ((s.putImage lb hb hos (body.take (4 * lines)) (body.drop (4 * lines))).modSlot k (fun _ => {})).holdCmd m (lim.getD 0)
        else
          let pad := if hos % 2 = 1 then wordN (bitsOf (ws.getD (len - 1) 0) 32 32) else 0
          let s := s.putImage lb hb hos (body.take (4 * lines)) (body.drop (4 * lines))
          let r : RulSlot := { lineBase := lb, lines := lines, hoBase := hb, hos := hos, header := ws.take 64 ++ [pad] }
          (s.modSlot k (fun _ => { r with st := .loaded })).finish m 0 [wordN lb, wordN hb]

/-- RULING_LOAD: the checks of R366 in their order. -/
def State.rulingLoad (s : State) (m : Nat) (d : HostData) (lim : Option Nat) : State :=
  let k := bitsOf (s.arg m 0) 0 4
  let a := (s.arg m 1).toNat
  let len := (s.arg m 2).toNat
  if argRsvd s m 0 0xF then s.finish m 4
  else if a % 8 ≠ 0 || len < 64 || 139328 < len || hostTop < a + 8 * len then s.finish m 3
  else if s.slotHeld k then s.finish m 0x0801
  else match s.hostGet d 64 with
    | .failed e _ => s.finish m e
    | .got h => s.loadImage m k len d lim h

/-- RULING_LOAD (R366). -/
def execRulingLoad (m : MbN) (data : HostData) (run : CmdRun) (s : State) : Host.Outcome State Fault Refusal :=
  stepCommand m.val 0x30 run s (fun lim _ s => s.rulingLoad m.val data lim)

/-! ### RULING_VERIFY and RULING_UNLOAD (R366) -/

/-- RULING_VERIFY. -/
def State.rulingVerify (s : State) (m : Nat) (lim : Option Nat) : State :=
  let k := bitsOf (s.arg m 0) 0 4
  if argRsvd s m 0 0xF then s.finish m 4
  else match (s.slotOf k).st with
    | .empty | .active => s.finish m 0x0804
    | .loaded | .verified =>
      if lim.isSome then s.holdCmd m 0
      else
      let x := s.storeReads (s.slotOf k).words
      let s := x.2
      if !x.1 then s.finish m 0xA
      else match s.verify k with
      | none => (s.modSlot k (fun r => { r with st := .verified })).finish m 0 [0]
      | some r => (s.modSlot k (fun x => { x with st := .loaded })).finish m 0x0808 r.words

/-- RULING_VERIFY (R366). -/
def execRulingVerify (m : MbN) (run : CmdRun) (s : State) : Host.Outcome State Fault Refusal :=
  stepCommand m.val 0x31 run s (fun lim _ s => s.rulingVerify m.val lim)

/-- RULING_UNLOAD. -/
def State.rulingUnload (s : State) (m : Nat) : State :=
  let k := bitsOf (s.arg m 0) 0 4
  if argRsvd s m 0 0xF then s.finish m 4
  else if s.slotHeld k then s.finish m 0x0801
  else (s.modSlot k (fun _ => {})).finish m 0

/-- RULING_UNLOAD (R366). -/
def execRulingUnload (m : MbN) (s : State) : Host.Outcome State Fault Refusal :=
  runCommand m.val 0x32 s (fun s => s.rulingUnload m.val)

/-! ### ACTIVATE and SWITCH_ARM (R367, R368) -/

/-- Every TLB is invalidated and the lock slots are loaded again (R268, R367 step 6). -/
def State.reloadTlbs (s : State) : State :=
  s.forAll (upTo 64) (fun n t =>
    let t := t.modPen n (fun x => { x with tlb := [] })
    if t.penOn n then
      t.forAll ((upTo 8).filter (fun i => bitAt (Table.get (fun _ => (0 : Word)) (t.pen n).lslot i) 0)) (fun i u => u.lslotLoad n i)
    else t)

/-- ACTIVATE (R58, R367): EN is set and the slot becomes ACTIVE with it (R38); the first folio begins at the next tick. The
counts since activation begin at 0 (R63, R64). -/
def State.activate (s : State) (m : Nat) : State :=
  let k := bitsOf (s.arg m 0) 0 4
  let c := s.mayActivate k
  if argRsvd s m 0 0x10F then s.finish m 4
  else if s.folio.en then s.finish m 2
  else if (s.slotOf k).st ≠ .verified then s.finish m 0x0804
  else if c.1 ≠ 0 then s.finish m c.1 c.2
  else
    let s := if bitAt (s.arg m 0) 8 then s.stepCounter else s
    let s := s.reloadTlbs.modSlot k (fun r => { r with st := .active })
    let s := { s with folio := { s.folio with
        en := true, edgeTick := s.tickAhead, actSlot := k, missed := 0, consecMiss := 0, minLen := 0xFFFFFFFF } }
    s.waitFor m (.activate m k)

/-- ACTIVATE (R367). -/
def execActivate (m : MbN) (s : State) : Host.Outcome State Fault Refusal :=
  runCommand m.val 0x33 s (fun s => s.activate m.val)

/-- SWITCH_ARM. -/
def State.armSwitch (s : State) (m : Nat) : State :=
  let a := s.arg m 0
  let k := bitsOf a 0 4
  let c := s.mayActivate k
  let f := s.folio
  if argRsvd s m 0 0x1F then s.finish m 4
  else if !bitAt a 4 then { s with folio := { f with swSlot := k, swArm := false } }.finish m 0
  else if (s.slotOf k).st ≠ .verified then s.finish m 0x0804
  else if c.1 ≠ 0 then s.finish m c.1 c.2
  else if !s.switchTimeOk (s.arg m 1) then s.finish m 0x0807
  else { s with folio := { f with swAt := s.arg m 1, swSlot := k, swArm := true, swSince := s.cyc } }.finish m 0

/-- SWITCH_ARM (R368). -/
def execSwitchArm (m : MbN) (s : State) : Host.Outcome State Fault Refusal :=
  runCommand m.val 0x34 s (fun s => s.armSwitch m.val)

end Sys2Proof.Machine
end

