-- ==== Sys2Proof/Machine/HuvasQueues.lean ====
section
/-! DEFINITION. The commands for host queues, channel sets and the port record: QUEUE_SET, SHARE_SET, CHANSET_SET (R331,
R341, R343, R374, R379 to R382, R391, R406). -/

namespace Sys2Proof.Machine

/-! ### QUEUE_SET (R331, R374) -/

/-- The Huvas refuses a queue context (R331), or its partition is not set up. -/
def State.contextRefused (s : State) (w0 w1 w2 : Word) : Bool :=
  let q : Queue := { w0 := w0, w1 := w1, w2 := w2 }
  outside 0xFFFFFFFFFFFFFFCF w0 || outside qp2Mask w2 || bitsOf w0 0 4 = 0 || bitsOf w1 0 4 = 0 || q.vector < 16
    || hostTop < q.dBase + 64 * q.dSize || hostTop < q.sBase + 16 * q.sSize || !(s.partOf q.part).up

/-- `HIF_QP_STAT` of a queue (R347). -/
def Queue.stat (q : Queue) : Word := pk [(0, q.dHead), (16, q.dTail), (32, q.sHead), (48, q.sTail)]

/-- Clearing EN abandons the messages in progress: nothing more is written, and `HIF_QP_LOST` counts them. -/
def State.abandon (s : State) (q : Nat) : State :=
  let n := s.hif.cntLost
  let s := s.loseQueue q
  { s with hif := { s.hif with cntLost := n } }

/-- Write a context; setting EN zeroes the indices. -/
def State.setContext (s : State) (q : Nat) (w0 w1 w2 : Word) : State :=
  let s := if (s.queue q).en && !bitAt w2 0 then s.abandon q else s
  s.modQueue q (fun c =>
    let c := { c with w0 := w0, w1 := w1, w2 := w2 }
    if bitAt w2 0 then { c with dHead := 0, dTail := 0, sHead := 0, sTail := 0 } else c)

/-- QUEUE_SET. -/
def State.queueSet (s : State) (m : Nat) : State :=
  let q := bitsOf (s.arg m 0) 0 14
  let w0 := s.arg m 1
  let w1 := s.arg m 2
  let w2 := s.arg m 3
  let c := s.queue q
  if argRsvd s m 0 0x3FFF then s.finish m 4
  else if s.contextRefused w0 w1 w2 then s.finish m 0x0C01
  else if c.en && !(w0 = c.w0 && w1 = c.w1 && w2 = setBit c.w2 0 false) then s.finish m 0x0C02
  else
    let s := s.setContext q w0 w1 w2
    let lost := (s.queue q).lost
    (s.modQueue q (fun c => { c with lost := 0 })).finish m 0 [wordN lost, c.stat]

/-- QUEUE_SET (R374). -/
def execQueueSet (m : MbN) (s : State) : Host.Outcome State Fault Refusal :=
  runCommand m.val 0x60 s (fun s => s.queueSet m.val)

/-! ### SHARE_SET (R341, R374) -/

/-- The sum of the shares of the groups other than `g`. -/
def State.otherShares (s : State) (g : Nat) : Nat :=
  (upTo 16).foldl (fun n k => if k = g then n else n + Table.get (fun _ => 0) s.hif.share k) 0

/-- SHARE_SET. -/
def State.shareSet (s : State) (m : Nat) : State :=
  let g := bitsOf (s.arg m 0) 0 4
  let p := bitsOf (s.arg m 0) 8 7
  if argRsvd s m 0 0x7F0F then s.finish m 4
  else if 100 < s.otherShares g + p + s.trc.pct then s.finish m 0x0A04
  else { s with hif := { s.hif with share := Table.set (fun _ => 0) s.hif.share g p } }.finish m 0

/-- SHARE_SET (R374). -/
def execShareSet (m : MbN) (s : State) : Host.Outcome State Fault Refusal :=
  runCommand m.val 0x61 s (fun s => s.shareSet m.val)

/-! ### The checks of a descriptor (R380 to R382, R406) -/

/-- A channel that receives: ETH_IN, TRDP_IN, CAN_IN, GPIO_IN, SAMPLE. -/
def dReceives (d : Desc) : Bool := [4, 6, 8, 10, 11].contains (dType d)

/-- Reserved bits, reserved values, and fields that the type does not use (R380, R381). -/
def descRsvd (d : Desc) : Bool :=
  let t := dType d
  t = 0 || 11 < t || 4 < dMode d || (upTo 8).any (fun k => outside ((descMasks d).getD k 0) (dWord d k))
    || ([1, 2, 9, 10].contains t && dUnit d ≠ 0) || (3 ≤ t && t ≤ 6 && 3 < dUnit d)
    || (!dIsOut d && dSub d ≠ 0) || (!(3 ≤ t && t ≤ 6) && dCb d) || (t ≠ 5 && dVlan d)
    || (dMode d ≠ 2 && dScale d ≠ 0) || (dMode d ≠ 2 && t ≠ 11 && dIdxOff d ≠ 0) || dIdxOff d % 8 ≠ 0
    || dCount d = 0 || 4096 < dCount d

/-- The slot is not VALID, is of another partition or the wrong kind, or has a frame outside a reservoir that a
receiving channel needs there. -/
def State.descSlotBad (s : State) (part : Nat) (d : Desc) : Bool :=
  let v := s.vslot (dSlot d)
  !v.valid || v.part ≠ part || v.kind ≠ (if dIsOut d then .output else .input)
    || (dReceives d && !(isRsv (v.frame0 * 4096) && isRsv (v.frame1 * 4096)))

/-- The mode does not suit the type (R382, R406). -/
def descModeBad (d : Desc) : Bool :=
  (dType d ≠ 11 && 3 ≤ dMode d) || (!dIsOut d && dMode d = 2)
    || (dType d = 11 &&
        (dMode d < 3 || dEsize d ≠ 3 || dStep d % 8 ≠ 0 || dStep d < (if bitAt (dWord d 2) 0 then 80 else 16)
          || (dMode d = 4 && !(2 ≤ dCount d && dCount d ≤ 256 && 2 ^ Nat.log2 (dCount d) = dCount d))
          || (!bitAt (dWord d 2) 0 && bitsOf (dWord d 2) 16 24 < 150)))

/-- Bytes of a record before its elements (R384, R389, R405). -/
def dHeader (d : Desc) : Nat := if [4, 6, 8].contains (dType d) then 24 else if dType d = 10 then 8 else 0

/-- An element of a POST_INC or PRE_DEC channel, or a record header, lies outside the page or off its boundary (R382). -/
def descPlaceBad (d : Desc) : Bool :=
  dMode d < 2 &&
    ((upTo (dCount d)).any (fun i => !elemOk d (elemAddr d (dOffset d + dHeader d) i 0))
      || (0 < dHeader d && (dOffset d % 8 ≠ 0 || 4096 < dOffset d + dHeader d)))

/-- A GPIO channel has another shape than R382 asks. -/
def descGpioBad (d : Desc) : Bool :=
  (dType d = 9 || dType d = 10) &&
    (dEsize d ≠ 3 || dMode d ≠ 0 || dStep d ≠ 8 || dCount d ≠ (pinsOf (dWord d 2)).length)

/-- The controller of a CAN_IN or CAN-source SAMPLE channel. -/
def dCanOf (d : Desc) : Option Nat :=
  if dType d = 8 then some (dUnit d)
  else if dType d = 11 && bitAt (dWord d 2) 0 then some (bitsOf (dWord d 2) 4 3) else none

/-- The defined sets other than set `k`, with their records. -/
def State.otherSets (s : State) (k : Nat) : List (Nat × ChanSet) := s.feed.sets.filter (fun e => e.1 ≠ k && e.2.valid)

/-- The channels of the other sets, each with its partition. -/
def State.otherChannels (s : State) (k : Nat) : List (Nat × Desc) :=
  (s.otherSets k).flatMap (fun e => (s.channels e.1).map (fun c => (e.2.part, c.2)))

/-- A descriptor clashes with another set's channel, or with an earlier one of its own set (R382). -/
def descClash (part : Nat) (others : List (Nat × Desc)) (earlier : List Desc) (d : Desc) : Bool :=
  let pins (x : Desc) : Word := if dType x = 9 then dWord x 2 else 0
  others.any (fun o => o.1 ≠ part && pins o.2 &&& pins d ≠ 0)
    || (dCb d && dMac2 d = dUnit d)
    || (dType d = 11 && others.any (fun o => dType o.2 = 11 && dUnit o.2 = dUnit d))
    || ((dCanOf d).isSome && 64 < ((others.map (·.2) ++ earlier ++ [d]).filter (fun x => dCanOf x = dCanOf d)).length)
    || (dIsOut d && (others.any (fun o => o.1 = part && dIsOut o.2 && dSub o.2 = dSub d)
        || earlier.any (fun x => dIsOut x && dSub x = dSub d)))

/-- The index of the first failing descriptor of a set. -/
def State.firstBad (s : State) (part k : Nat) (ds : List Desc) : Option Nat :=
  let others := s.otherChannels k
  (upTo ds.length).find? (fun i =>
    let d := ds.getD i {}
    descRsvd d || s.descSlotBad part d || descModeBad d || descPlaceBad d || descGpioBad d
      || descClash part others (ds.take i) d)

/-! ### Placement in the descriptor store (R379) -/

/-- Entries of the ranges of some sets. -/
def inSets (l : List (Nat × ChanSet)) (e : Nat) : Bool := l.any (fun x => x.2.first ≤ e && e < x.2.first + x.2.count)

/-- Where each set comes to lie when all move towards entry 0 in their order. -/
def compacted : List (Nat × ChanSet) → Nat → List (Nat × ChanSet)
  | [], _ => []
  | e :: t, b => (e.1, { e.2 with first := b }) :: compacted t (b + e.2.count)

/-- The entry to which an entry of the store moves. -/
def movedTo (old new : List (Nat × ChanSet)) (e : Nat) : Option Nat :=
  (old.find? (fun x => x.2.first ≤ e && e < x.2.first + x.2.count)).bind (fun x =>
    (new.find? (fun y => y.1 = x.1)).map (fun y => y.2.first + (e - x.2.first)))

/-- The store with every set of `old` moved to its place in `new`; entries of no set keep nothing. -/
def moveTable {α : Type} (old new : List (Nat × ChanSet)) (t : Table α) : Table α :=
  t.foldl (fun u e => match movedTo old new e.1 with
    | some k => Table.ins u k e.2
    | none => u) []

/-- The other sets as they come to lie, and the place of a new set of `n` descriptors. -/
def State.placeSet (s : State) (k n : Nat) : List (Nat × ChanSet) × Nat :=
  let others := s.otherSets k
  match lowestFit (others.map (fun e => (e.2.first, e.2.count))) n 4096 with
  | some b => (others, b)
  | none =>
    let c := compacted (sortBy (fun (e : Nat × ChanSet) => e.2.first) others) 0
    (c, c.foldl (fun n e => n + e.2.count) 0)

/-- Define a set: others move if they must, the descriptors are stored with no status. -/
def State.defineSet (s : State) (k part : Nat) (ds : List Desc) : State :=
  let n := ds.length
  let x := s.placeSet k n
  let old := s.otherSets k
  let sets := x.1.foldl (fun t e => Table.set (fun _ => ({} : ChanSet)) t e.1 e.2) []
  let descs := (upTo n).foldl (fun t i => Table.set (fun _ => ({} : Desc)) t (x.2 + i) (ds.getD i {}))
    (moveTable old x.1 s.feed.descs)
  let s := { s with feed := { s.feed with
    sets := Table.set (fun _ => {}) sets k { part := part, count := n, first := x.2, valid := true },
    descs := descs, cb := moveTable old x.1 s.feed.cb,
    newCnt := moveTable old x.1 s.feed.newCnt, shown := moveTable old x.1 s.feed.shown } }
  if s.activated then s.gpioSafe else s

/-! ### CHANSET_SET (R374, R379, R382) -/

/-- The header of an image is wrong, its partition is not set up, or the store cannot hold the set. -/
def State.setHeaderBad (s : State) (k : Nat) (ws : List Word) : Bool :=
  let h := ws.getD 0 0
  let n := bitsOf h 40 7
  bitsOf h 0 16 ≠ 0x4353 || bitsOf h 16 8 ≠ 1 || outside 0x7FFF00FFFFFF h || n = 0 || 64 < n
    || (upTo 7).any (fun i => ws.getD (1 + i) 0 ≠ 0) || ws.length ≠ 8 * (n + 1)
    || 4096 < ((s.otherSets k).foldl (fun t e => t + e.2.count) 0) + n || !(s.partOf (bitsOf h 32 8)).up

/-- The descriptors of an image. -/
def descsOf : Nat → List Word → List Desc
  | 0, _ => []
  | n + 1, ws => { words := ws.take 8 } :: descsOf n (ws.drop 8)

/-- Define a set from its image. -/
def State.chansetImage (s : State) (m k : Nat) (ws : List Word) : State :=
  if s.setHeaderBad k ws then s.finish m 0x0C03 [0xFFFF]
  else
    let part := bitsOf (ws.getD 0 0) 32 8
    let ds := descsOf (ws.length / 8 - 1) (ws.drop 8)
    match s.firstBad part k ds with
    | some i => s.finish m 0x0C03 [wordN i]
    | none => (s.defineSet k part ds).finish m 0

/-- Read an image and go on with it; a length that no image has refuses the command. -/
def State.withImage (s : State) (m : Nat) (d : HostData) (lenOk : Nat → Bool) (f : List Word → State) : State :=
  let a := (s.arg m 1).toNat
  let n := (s.arg m 2).toNat
  if argRsvd s m 0 0xFFFF then s.finish m 4
  else if hostTop < a + n then s.finish m 3
  else if !lenOk n then s.finish m 0x0C03 [0xFFFF]
  else match s.hostGet d (n / 8) with
    | .failed e _ => s.finish m e
    | .got ws => f ws

/-- CHANSET_SET with a set index. -/
def State.chansetSet (s : State) (m : Nat) (d : HostData) : State :=
  let k := bitsOf (s.arg m 0) 0 16
  if !argRsvd s m 0 0xFFFF && 1024 ≤ k then s.finish m 3
  else s.withImage m d (fun n => n % 64 = 0 && 128 ≤ n && n ≤ 4160) (s.chansetImage m k)

/-- The index of a CHANSET_SET command is that of the port record. -/
def State.portIndex (s : State) (m : Nat) : Bool := bitsOf (s.arg m 0) 0 16 = 0xFFFF

/-- CHANSET_SET (R374, R379). -/
def execChansetSet (m : MbN) (data : HostData) (s : State) : Host.Outcome State Fault Refusal :=
  guarded (s.cmdDue m.val 0x62 && !s.portIndex m.val) s (fun s => s.command m.val 0x62 (fun s => s.chansetSet m.val data))

/-! ### The port record (R391) -/

/-- The words of a MAC are out of range (R409). -/
def macWordsBad (ctrl dly ptp cb : Word) : Bool :=
  outside 0x33 ctrl || bitsOf ctrl 4 2 = 3 || outside 0xFFFFFFFF dly || outside 0xF017F01 ptp
    || (4 ≤ bitsOf ptp 24 4 && bitsOf ptp 24 4 ≤ 12) || outside 0xFFFF cb || cb = 0

/-- The words of a CAN controller are out of range (R410). -/
def canWordsBad (ctrl nbt dbt : Word) : Bool :=
  outside 0x23 ctrl || outside 0x7F7FFFFF nbt || bitsOf nbt 8 8 = 0 || outside 0x7F8F0F1F1F dbt

/-- A port record is refused. -/
def portRecordBad (ws : List Word) : Bool :=
  let w (i : Nat) : Word := ws.getD i 0
  ws.length ≠ 48
    || (upTo 4).any (fun m => macWordsBad (w (4 * m)) (w (4 * m + 1)) (w (4 * m + 2)) (w (4 * m + 3)))
    || (upTo 8).any (fun c => canWordsBad (w (16 + 3 * c)) (w (17 + 3 * c)) (w (18 + 3 * c)))
    || outside 0xFF (w 42) || w 42 = 0 || outside 0xFFFF (w 43) || (w 43).toNat < 16
    || (upTo 4).any (fun i => w (44 + i) ≠ 0)

/-- The words of powered domains are written at once. -/
def State.setPorts (s : State) (ws : List Word) : State :=
  let s := { s with feed := { s.feed with portWords := ws, portSet := true } }
  let s := s.forAll ((upTo 4).filter s.macOn) (fun m t => t.portMac m)
  let s := if s.canOn then s.portCluster else s
  if s.activated then s.gpioSafe else s

/-- CHANSET_SET with index 0xFFFF. -/
def State.portRecord (s : State) (m : Nat) (d : HostData) : State :=
  s.withImage m d (fun n => n = 384) (fun ws =>
    if portRecordBad ws then s.finish m 0x0C03 [0xFFFF] else (s.setPorts ws).finish m 0)

/-- PORT_RECORD_LOAD (R391): CHANSET_SET with index 0xFFFF. -/
def execPortRecordLoad (m : MbN) (data : HostData) (s : State) : Host.Outcome State Fault Refusal :=
  guarded (s.cmdDue m.val 0x62 && s.portIndex m.val) s (fun s => s.command m.val 0x62 (fun s => s.portRecord m.val data))

end Sys2Proof.Machine
end

