-- ==== Sys2Proof/Machine/MulDiv.lean ====
section
/-! DEFINITION. The multiplier and the divider (R167 to R169, R171, R199, R200). -/

namespace Sys2Proof.Machine

/-- A multiply issues: its result waits beside the pipeline (R167). The flags that it does not name are written as its
pattern gives. -/
def State.doMul (s : State) (i : Iss) (regs : List Reg) (rd : Reg) (f : (Reg → TWord) → Except Exc AluOut) : State :=
  s.issueOne i ⟨.mul, regs, true⟩ (fun paired t =>
    match f ((t.pen i.pen.val).read paired) with
    | .error e => .exc e t
    | .ok o => .ok (fun x =>
        { x.done paired with mul := some ⟨x.bank rd.val, o.1, o.2.getD 0⟩ }) t)

/-- MUL (R167, R169). -/
def execMul (i : Iss) (rd ra : Reg) (b : Src) (s : State) : Host.Outcome State Fault Refusal :=
  guarded (s.ready i.pen.val) s (fun s =>
    s.doMul i (rd :: ra :: srcRegs b) rd (fun read => aluMul (read ra) b read))

/-- MULH (R167, R169). -/
def execMulh (i : Iss) (rd ra rb : Reg) (s : State) : Host.Outcome State Fault Refusal :=
  guarded (s.ready i.pen.val) s (fun s =>
    s.doMul i [rd, ra, rb] rd (fun read => aluMulh (read ra) rb read))

/-- MUL_WRITEBACK (R167, R199): a multiply in flight writes its result and flags. -/
def execMulWriteback (p : PenN) (s : State) : Host.Outcome State Fault Refusal :=
  guarded ((s.runs p.val).isSome && (s.pen p.val).mul.isSome) s (fun s => s.modPen p.val Pen.writeMul)

/-- A divide issues and occupies issue until its last cycle; tag faults and DIVZERO fall in its issue cycle (R168). -/
def State.doDiv (s : State) (i : Iss) (rd ra rb : Reg) (f : TWord → TWord → Except Exc DivOut) : State :=
  s.issueOne i ⟨.ser, [rd, ra, rb], true⟩ (fun paired t =>
    let x := t.pen i.pen.val
    match f (x.read paired ra) (x.read paired rb) with
    | .error e => .exc e t
    | .ok o => .ok (fun x => { x with hold := .divide (x.bank rd.val) o.res o.fl o.trap }) t)

/-- DIV (R168, R169). -/
def execDiv (i : Iss) (rd ra rb : Reg) (s : State) : Host.Outcome State Fault Refusal :=
  guarded (s.ready i.pen.val) s (fun s => s.doDiv i rd ra rb (aluDiv false))

/-- DIVT (R168, R169). -/
def execDivt (i : Iss) (rd ra rb : Reg) (s : State) : Host.Outcome State Fault Refusal :=
  guarded (s.ready i.pen.val) s (fun s => s.doDiv i rd ra rb (aluDiv true))

/-- REM (R168, R169). -/
def execRem (i : Iss) (rd ra rb : Reg) (s : State) : Host.Outcome State Fault Refusal :=
  guarded (s.ready i.pen.val) s (fun s => s.doDiv i rd ra rb aluRem)

/-- The last cycle of a divide: result and flags are written, or DIVT raises OVERFLOW (R166, R168). -/
def State.divideEnd (s : State) (p : Nat) : State :=
  match (s.pen p).hold with
  | .divide rd v fl trap =>
    if trap then (s.takeExc p excOverflow).getD s
    else s.modPen p (fun x => { (x.writeB rd v).setFlags fl with pc := x.pc + 4, hold := .none })
  | .none | .walk _ _ _ _ | .copy _ _ | .fabric _ _ _ | .block _ => s

/-- DIVIDE_COMPLETE (R168). -/
def execDivideComplete (p : PenN) (s : State) : Host.Outcome State Fault Refusal :=
  guarded (s.runs p.val).isSome s (fun s => s.divideEnd p.val)

end Sys2Proof.Machine
end

