-- ==== Sys2Proof/Machine/Pairing.lean ====
section
/-! DEFINITION. The tracing commands: TRACE_PAIR, TRACE_DETACH, TAKEOVER (R302 to R304, R315, R318, R375). -/

namespace Sys2Proof.Machine

/-! ### The trace list (R304) -/

/-- The part of a leaf's range that lies in reservoirs: CPAs of its 4 KiB units. -/
def rsvUnits (base level : Nat) : List Nat :=
  let a := max base 0x10000000
  let b := min (base + 2 ^ (12 + 9 * level)) 0x12000000
  (upTo ((b - a) / 4096)).map (fun i => a + 4096 * i)

/-- A trace list entry of a leaf word: a PAGE with its unit, or a SLOT with its number (R321). -/
def trcEntry (leaf : Nat) (slot : Bool) (unit : Nat) : TrcEntry := ⟨wordN (leaf + bitN slot * 2 ^ 48 + 2 ^ 63), wordN unit⟩

/-- The entries of one leaf for home pen `p`. -/
def State.leafTraced (s : State) (p : Nat) (x : Nat × Word × Nat × Nat) : List TrcEntry :=
  let e := x.2.1
  let v := s.vslot (bitsOf e 12 13)
  if bitAt e 6 then
    (if v.valid && (v.kind = .state || v.kind = .output) then [trcEntry x.1 true (bitsOf e 12 13)] else [])
  else (rsvUnits (s2Addr p e) x.2.2.1).map (fun u => trcEntry x.1 false u)

/-- The leaves of a partition in all its pens, each leaf word once: tables in inkwells are a leaf word per pen, mirrored
tables one per pair. -/
def State.tracedLeaves (s : State) (q : Nat) : List (Nat × Nat × Word × Nat × Nat) :=
  (pensIn (s.partOf q).penMask).foldl (fun l p =>
    let xs := (s.partLeaves q p).map (fun x => (p, (if s.mirrored x.1 then evenCpa x.1 else x.1), x.2))
    l ++ xs.filter (fun x => !(l.any (fun y => y.2.1 = x.2.1)))) []

/-- The trace list of all partitions that are set up. -/
def State.traceList (s : State) : List TrcEntry :=
  let leaves := ((upTo 256).filter (fun q => (s.partOf q).up)).flatMap s.tracedLeaves
  let once := leaves.foldl (fun (l : List (Nat × Nat × Word × Nat × Nat)) x => if l.any (fun y => y.2.1 = x.2.1) then l else l ++ [x]) []
  once.flatMap (fun x => s.leafTraced x.1 x.2)

/-! ### TRACE_PAIR (R303, R375) -/

/-- Both parts report one stepping and one firmware major and minor version. -/
def State.sameVersion (s : State) (feat : Word) : Bool :=
  let own := s.featReg 0 0
  bitsOf own 16 4 = bitsOf feat 16 4 && bitsOf own 32 16 = bitsOf feat 32 16

/-- The checks of a pairing in the order of R303, after those of the arguments: a code, 0 for acceptance. -/
def State.pairCheck (s : State) (m : Nat) : Nat :=
  let a := s.arg m
  if argRsvd s m 0 0x7F07 || argRsvd s m 2 0xFFFFFFF || argRsvd s m 4 0xFFFFFFFF then 4
  else if s.trc.st ≠ .detached && s.trc.st ≠ .lost then 2
  else if bitsOf (a 0) 0 3 = 0 || 4 < bitsOf (a 0) 0 3 || bitsOf (a 0) 8 7 = 0 || 100 < bitsOf (a 0) 8 7 then 3
  else if !s.sameVersion (a 3) then 0x0A01
  else if (a 4).toNat ≠ s.cfgDigest then 0x0A02
  else if hostTop ≤ (a 1).toNat || (a 1).toNat % 4096 ≠ 0 then 0x0A03
  else if 100 < s.otherShares 16 + bitsOf (a 0) 8 7 then 0x0A04
  else if 16384 < s.traceList.length then 0x0A07
  else 0

/-- A pairing comes into force: the partner is STALE and nothing of an earlier pairing remains. -/
def State.pairUp (s : State) (mode pct wd : Nat) (peer : Word) (l : List TrcEntry) : State :=
  let list : Table TrcEntry := (upTo l.length).zip l
  { s with trc := { s.trc with
      mode := mode, pct := pct, peer := peer, wd := wd, list := list, st := .stale, cursor := 0, txSeq := 0, rxSeq := 0
      winOpen := false, winUnits := 0, winSlots := [], ignore := false, await := [], doneAt := none, watch := []
      mine := none, theirs := none, offNext := false, takeAt := none, startAt := none, stopped := false, adopt := none, send := none, got := none } }

/-- TRACE_PAIR. -/
def State.tracePair (s : State) (m : Nat) : State :=
  let a := s.arg m
  let c := s.pairCheck m
  if c ≠ 0 then s.finish m c
  else
    let l := s.traceList
    let res := [wordN s.cfgDigest, wordN l.length, wordN s.sweepCount]
    let t := s.pairUp (bitsOf (a 0) 0 3) (bitsOf (a 0) 8 7) (bitsOf (a 2) 0 28) (a 1) l
    ((t.trcEvent 0).raise (trcFault 0x53 0)).finish m 0 res

/-- TRACE_PAIR (R303, R375). -/
def execTracePair (m : MbN) (s : State) : Host.Outcome State Fault Refusal := runCommand m.val 0x70 s (fun s => s.tracePair m.val)

/-! ### TRACE_DETACH and TAKEOVER (R315, R318, R375) -/

/-- TRACE_DETACH: it ends at a later TRACE window or tick. -/
def State.traceDetach (s : State) (m : Nat) : State :=
  if s.trc.mode = 0 then s.finish m 0x0A06 else s.waitFor m (.detach m s.cyc)

/-- TRACE_DETACH (R318, R375). -/
def execTraceDetach (m : MbN) (s : State) : Host.Outcome State Fault Refusal :=
  runCommand m.val 0x71 s (fun s => s.traceDetach m.val)

/-- TAKEOVER: the partner is LOST and the part takes over at a later tick. -/
def State.takeover (s : State) (m : Nat) : State :=
  if s.trc.mode = 0 then s.finish m 0x0A06
  else if s.trc.mode ≠ 2 then s.finish m 2
  else if s.trc.st ≠ .current then s.finish m 0x0A05
  else (s.declareLost (s.trc.rxSeq - 1)).waitFor m (.takeover m s.cyc)

/-- TAKEOVER (R315, R375). -/
def execTakeover (m : MbN) (s : State) : Host.Outcome State Fault Refusal := runCommand m.val 0x72 s (fun s => s.takeover m.val)

end Sys2Proof.Machine
end

