-- ==== Sys2Proof/Machine/Power.lean ====
section
/-! DEFINITION. Supplies, clocks and reset: the reset sources and the FILL timeline (R28, R355, R438, R446, R447), the AVS
loop (R434 to R436), the comparators (R442), Dormant and wake (R443 to R445). -/

namespace Sys2Proof.Machine

/-! ### The main reset (R14, R446) -/

/-- Every domain but always-on is reset. What the main reset leaves: the always-on block, whose counter follows the system
reference again (R32), the balls, and the model's own record. -/
def State.mainReset (s : State) (d : DevState) : State :=
  { State.reset with
    pending := s.pending, free := s.free, out := s.out, cyc := s.cyc, dev := d, aon := { s.aon with enter := false, steer := 0 }
    pwr := { State.reset.pwr with pwrEn := s.pwr.pwrEn, clkGood := s.pwr.clkGood, resetN := s.pwr.resetN } }

/-- Set a bit of `AON_RST_CAUSE`. -/
def State.resetCause (s : State) (i : Nat) : State :=
  { s with aon := { s.aon with rst := s.aon.rst ||| BitVec.ofNat 11 (2 ^ i) } }

/-- The main reset is released: main power is up, RESET_N is high and the clocks are good. -/
def State.released (s : State) : Bool := s.powered && !s.pwr.resetN && s.pwr.clkGood

/-- VAON_POWER_ON (R446): every domain is reset; the balls stay as the board drives them. -/
def execVaonPowerOn (s : State) : Host.Outcome State Fault Refusal :=
  .next { State.reset with
    pending := s.pending, free := s.free, out := s.out
    pwr := { State.reset.pwr with clkGood := s.pwr.clkGood, resetN := s.pwr.resetN } }

/-- MAIN_RAILS_UP (R431, R445, R446): the four rails have been in range for 200 µs. Rails that rise with PWR_EN low raise
it. -/
def execMainRailsUp (s : State) : Host.Outcome State Fault Refusal :=
  guarded (!s.powered) s (fun s =>
    let t := if s.pwr.pwrEn then s else s.resetCause 5
    { t with dev := .fill, pwr := { t.pwr with pwrEn := true } })

/-- MAIN_POWER_RESET (R446): a main rail falls below its reset level. -/
def execMainPowerReset (s : State) : Host.Outcome State Fault Refusal :=
  guarded (s.dev ≠ .dormant) s (fun s => (s.mainReset .dormant).resetCause 1)

/-- RESET_N_ASSERT (R446). -/
def execResetNAssert (s : State) : Host.Outcome State Fault Refusal :=
  guarded (!s.pwr.resetN) s (fun s =>
    let t := (if s.powered then s.mainReset .fill else s).resetCause 2
    { t with pwr := { t.pwr with resetN := true } })

/-- RESET_N_RELEASE (R446): FILL goes on. -/
def execResetNRelease (s : State) : Host.Outcome State Fault Refusal :=
  guarded s.pwr.resetN s (fun s => { s with pwr := { s.pwr with resetN := false } })

/-- JTAG_TRST (R446): test logic only, of which the manual gives software no state. -/
def execJtagTrst (s : State) : Host.Outcome State Fault Refusal := .next s

/-! ### Clocks (R438, R441) -/

/-- CLOCK_FAIL (R438). -/
def execClockFail (s : State) : Host.Outcome State Fault Refusal :=
  guarded s.powered s (fun s =>
    let t := (s.mainReset .fill).resetCause 3
    { t with pwr := { t.pwr with clkGood := false } })

/-- CLOCK_RETURN (R438): FILL begins again. -/
def execClockReturn (s : State) : Host.Outcome State Fault Refusal :=
  guarded (!s.pwr.clkGood) s (fun s => { s with pwr := { s.pwr with clkGood := true } })

/-- PLL_ETH_UNLOCK (R438): every MAC link goes down. -/
def execPllEthUnlock (s : State) : Host.Outcome State Fault Refusal :=
  guarded s.released s (fun s => s.forAll (upTo 4) (fun m t => if t.macOn m && (t.mac m).link then t.ethDown m else t))

/-- PCIE_CLOCK_LOSS (R342, R438). -/
def execPcieClockLoss (s : State) : Host.Outcome State Fault Refusal :=
  guarded (s.released && s.hif.up) s (fun s => s.linkLost false)

/-- XTAL_STOP (R438, R443): in Dormant the counter stops and its reading is no longer valid. -/
def execXtalStop (s : State) : Host.Outcome State Fault Refusal :=
  guarded s.aon.xtalOk s (fun s =>
    { s with aon := { s.aon with xtalOk := false, valid := s.aon.valid && s.dev ≠ .dormant } })

/-- XTAL_START (R441). -/
def execXtalStart (s : State) : Host.Outcome State Fault Refusal :=
  guarded (!s.aon.xtalOk) s (fun s => { s with aon := { s.aon with xtalOk := true } })

/-! ### FILL and the ROM check (R118, R355, R442, R447) -/

/-- FUSE_LOAD (R289, R447): a word that fails its check holds the part in FILL. -/
def execFuseLoad (good : Bool) (s : State) : Host.Outcome State Fault Refusal :=
  guarded (s.dev = .fill && s.released && !s.pwr.fuseDone && !s.pwr.fuseHold) s (fun s =>
    if good then { s with pwr := { s.pwr with fuseDone := true } }
    else { s with pwr := { s.pwr with fuseHold := true } }.resetCause 4)

/-- Every word holds what the fill wrote, and the power controller is active. -/
def State.filled (s : State) (cmpFail : BitVec 5) : State :=
  { s with
    dev := .boot, mem := [], rul := { s.rul with store := [] }
    pwr := { s.pwr with selfFail := cmpFail, inRange := 15, active := true } }

/-- The end of FILL: every bank and the ruling store are filled, every pen is IDLE, the AVS loop starts. -/
def State.endFill (s : State) (cmpFail : BitVec 5) : State :=
  let s := s.forAll (upTo 64) (fun p t => t.modPen p (fun x => { x with st := .idle, filling0 := false, filling1 := false }))
  (s.forAll (upTo 32) (fun r t => t.modRsv r (fun x => { x with filling := false }))).filled cmpFail

/-- FILL_DONE (R288, R447). The Huvas is released; HUV_DEV_STATE reads BOOT only after the ROM check. -/
def execFillDone (cmpFail : BitVec 5) (s : State) : Host.Outcome State Fault Refusal :=
  guarded (s.dev = .fill && s.released && s.pwr.fuseDone) s (fun s => s.endFill cmpFail)

/-- The ROM check of the three nibs ends: those that pass form the vote; fewer than two stop the Huvas (R117, R355). -/
def State.romChecked (s : State) (pass : BitVec 3) : State :=
  let bad := (upTo 3).filter (fun h => !bitAt (pass.setWidth 64) h)
  let s := { s with huv := { s.huv with
    checked := true, nibIn := pass, nibFailed := bad ≠ [], lastOut := bad.getLast?.getD s.huv.lastOut } }
  let s := s.forAll bad (fun h t => t.raise (nibEvent 0x21 h))
  if 1 < bad.length then s.huvasStop
  else if s.pwr.selfFail ≠ 0 then s.raise { cls := 0x82 } else s

/-- ROM_CHECK_DONE (R355, R442). -/
def execRomCheckDone (pass : BitVec 3) (s : State) : Host.Outcome State Fault Refusal :=
  guarded (s.dev = .boot && !s.huv.checked && !s.huv.lost) s (fun s => s.romChecked pass)

/-! ### Events of the power controller -/

/-- Set a bit of `PWR_EVENT` and raise an event. -/
def State.powerEvent (s : State) (bit cls : Nat) : State :=
  { s with pwr := { s.pwr with event := s.pwr.event ||| BitVec.ofNat 8 (2 ^ bit) } }.raise { cls := cls }

/-! ### Adaptive voltage (R434 to R436) -/

/-- Fields of `PWR_AVS_CFG`. -/
def Pwr.vmin (p : Pwr) : Nat := bitsOf p.avsCfg 0 16
def Pwr.vmax (p : Pwr) : Nat := bitsOf p.avsCfg 16 16
def Pwr.guardLo (p : Pwr) : Nat := bitsOf p.avsCfg 32 8
def Pwr.guardHi (p : Pwr) : Nat := bitsOf p.avsCfg 40 8
def Pwr.guardCrit (p : Pwr) : Nat := bitsOf p.avsCfg 48 8

/-- Send a Voltage write, unless one is unacknowledged or the target would not change. -/
def State.avsRequest (s : State) (mv : Nat) : State :=
  if s.pwr.request.isSome || mv = s.pwr.target then s
  else { s with pwr := { s.pwr with request := some mv, repeated := false } }.emit (.avsWrite mv)

/-- What the loop does with a margin. -/
def State.avsJudge (s : State) (n : Nat) : State :=
  let p := s.pwr
  if n < p.guardCrit then
    ({ s with pwr := { p with hiRun := 0, loRun := 0 } }.avsRequest p.vmax).powerEvent 5 0x82
  else if n < p.guardLo then
    let atMax := p.vmax ≤ p.target
    let run := if atMax then p.loRun + 1 else 0
    let s := { s with pwr := { p with hiRun := 0, loRun := min run 5 } }
    let s := if atMax then s else s.avsRequest (min (p.target + 5) p.vmax)
    if run = 4 then s.powerEvent 5 0x82 else s
  else if p.guardHi < n then
    let run := min (p.hiRun + 1) 16
    if run = 16 && p.request.isNone then
      { s with pwr := { p with hiRun := 0, loRun := 0 } }.avsRequest (max (p.target - 5) p.vmin)
    else { s with pwr := { p with hiRun := run, loRun := 0 } }
  else { s with pwr := { p with hiRun := 0, loRun := 0 } }

/-- AVS_INTERVAL (R435, R436). -/
def execAvsInterval (margin : BitVec 8) (s : State) : Host.Outcome State Fault Refusal :=
  guarded (s.released && s.pwr.active) s (fun s =>
    { s with pwr := { s.pwr with margin := margin.toNat } }.avsJudge margin.toNat)

/-- AVS_ACKNOWLEDGE (R434, R435): the request is the acknowledged target. -/
def execAvsAcknowledge (readback : BitVec 16) (s : State) : Host.Outcome State Fault Refusal :=
  guarded (s.released && s.pwr.request.isSome) s (fun s =>
    { s with pwr := { s.pwr with
      target := s.pwr.request.getD s.pwr.target, readback := readback.toNat, request := none, repeated := false } })

/-- AVS_TIMEOUT (R436): the write is repeated once; then the loop stops. -/
def execAvsTimeout (s : State) : Host.Outcome State Fault Refusal :=
  guarded (s.released && s.pwr.request.isSome) s (fun s =>
    let s := { s with pwr := { s.pwr with errCnt := satInc 255 s.pwr.errCnt } }
    if s.pwr.repeated then
      { s with pwr := { s.pwr with active := false, request := none, repeated := false } }.powerEvent 4 0x82
    else { s with pwr := { s.pwr with repeated := true } }.emit (.avsWrite (s.pwr.request.getD 0)))

/-! ### Comparators (R442) -/

/-- SUPPLY_EXCURSION (R442): the comparator's output has changed. Its rail has left the window, or is back in it: then
only `PWR_CMP_STATUS.IN_RANGE` follows (R449; assumption log 53). -/
def execSupplyExcursion (cmp : Fin 4) (outside : Bool) (s : State) : Host.Outcome State Fault Refusal :=
  guarded s.released s (fun s =>
    if outside then
      { s with pwr := { s.pwr with inRange := s.pwr.inRange &&& ~~~ BitVec.ofNat 4 (2 ^ cmp.val) } }.powerEvent cmp.val 0x82
    else { s with pwr := { s.pwr with inRange := s.pwr.inRange ||| BitVec.ofNat 4 (2 ^ cmp.val) } })

/-- `AON_TEMP_CFG.TEMP_HI` in °C, signed, and HYST. -/
def Aon.tempHi (a : Aon) : Int := (BitVec.ofNat 8 (bitsOf a.tempCfg 0 8)).toInt
def Aon.tempHyst (a : Aon) : Int := Int.ofNat (bitsOf a.tempCfg 8 4)

/-- A temperature conversion, in 1/16 °C: a crossing of TEMP_HI, its clearing below the hysteresis, the critical limit. -/
def State.tempJudge (s : State) (tj : Int) : State :=
  let hi := 16 * s.aon.tempHi
  let was := s.pwr.tempOver
  let s :=
    if hi < tj then
      (let t := { s with pwr := { s.pwr with tempOver := true } }
       if was then t else t.powerEvent 6 0x83)
    else if tj < hi - 16 * s.aon.tempHyst then { s with pwr := { s.pwr with tempOver := false } }
    else s
  if 2560 ≤ tj then s.powerEvent 7 0x82 else s

/-- TEMP_CONVERSION (R442). -/
def execTempConversion (tj : BitVec 16) (s : State) : Host.Outcome State Fault Refusal :=
  guarded s.released s (fun s => { s with aon := { s.aon with tj := tj } }.tempJudge tj.toInt)

/-! ### Dormant (R443 to R445) -/

/-- DORMANT_ENTER (R444, step 3): PWR_EN falls. -/
def execDormantEnter (s : State) : Host.Outcome State Fault Refusal :=
  guarded (s.powered && s.aon.enter) s (fun s =>
    let t := (s.mainReset .dormant).resetCause 1
    { t with pwr := { t.pwr with pwrEn := false } })

/-- Dormant ends: PWR_EN rises; the cause names the comparators, or the rails. -/
def State.wakeUp (s : State) (f : BitVec 3) : State :=
  let s := { s with pwr := { s.pwr with pwrEn := true } }
  if f = 0 then s.resetCause 5
  else
    let pol := BitVec.ofNat 3 (bitsOf s.aon.wakeCfg 4 3)
    { s with aon := { s.aon with
      wakeLevel := (s.aon.wakeLevel &&& ~~~ f) ||| (pol &&& f), rst := s.aon.rst ||| BitVec.ofNat 11 (f.toNat * 256) } }

/-- WAKE (R443, R445): armed comparators fire, or, for none, the board raises the rails. -/
def execWake (fired : BitVec 3) (s : State) : Host.Outcome State Fault Refusal :=
  let f := fired &&& BitVec.ofNat 3 (bitsOf s.aon.wakeCfg 0 3)
  guarded (s.dev = .dormant && !s.pwr.pwrEn && (f ≠ 0 || fired = 0)) s (fun s => s.wakeUp f)

end Sys2Proof.Machine
end

