-- ==== Sys2Proof/Machine/Redraft.lean ====
section
/-! DEFINITION. The redraft engine's computation (R88 to R92): slack, places, shedding, protection. -/

namespace Sys2Proof.Machine

/-- What a computation works on: the image, the pens that are out and those that are fenced, U, the slack counters and
the two parameters of `FOLIO_RD_CTRL`. -/
structure RdIn where
  im     : Image
  out    : Word
  fenced : Word
  u      : Nat
  hwm    : Table (Nat × Nat)
  guard  : Nat
  minObs : Nat
  deriving DecidableEq, Repr

/-- A line under the placement that is being built. -/
structure PlLine where
  run     : RunPlan
  how     : How
  clipped : Bool := false
  deriving DecidableEq, Repr

/-- The pieces of [a, e) that no interval of a list covers; the list is sorted by its starts. -/
def pieces (a e : Nat) : List (Nat × Nat) → List (Nat × Nat)
  | [] => if a < e then [(a, e)] else []
  | (s, t) :: rest =>
    if t ≤ a || e ≤ s then pieces a e rest
    else (if a < s then [(a, s)] else []) ++ pieces t e rest

def subtractAll (a e : Nat) (busy : List (Nat × Nat)) : List (Nat × Nat) :=
  pieces a e (sortBy (fun (x : Nat × Nat) => x.1) busy)

/-- The windows of the placement on a pen; a ligature occupies both of its pens. -/
def busyOn (pl : List PlLine) (p : Nat) : List (Nat × Nat) :=
  (pl.filter (fun x => if x.run.l.isLig then x.run.l.pens.contains p else x.run.pen = p)).map (fun x => (x.run.s, x.run.e))

/-- The RECOVERY_ONLY reservations on a pen. -/
def reservesOn (im : Image) (p : Nat) : List (Nat × Nat) :=
  (im.lines.filter (fun e => e.2.isRes && e.2.pen = p)).map (fun e => (e.2.start, e.2.start + e.2.budget))

/-- Ruled slack on a pen (R89): what no window occupies, and the reservations where nothing has been placed. -/
def ruledSlack (i : RdIn) (pl : List PlLine) (p : Nat) : List (Nat × Nat) :=
  if bitAt i.out p then []
  else
    let rs := reservesOn i.im p
    subtractAll 0 i.u (busyOn pl p ++ rs) ++ rs.flatMap (fun (r : Nat × Nat) => subtractAll r.1 r.2 (busyOn pl p))

/-- The guard G of a line (R89). -/
def guardOf (i : RdIn) (l : RLine) : Nat := max (l.budget / 2 ^ i.guard) 1024

/-- The start of a host's measured tail, if it counts for a line (R89). -/
def tailStart (i : RdIn) (j : RLine) (x : PlLine) : Option Nat :=
  let h := Table.get (fun _ => (0, 0)) i.hwm x.run.line
  if x.run.l.isDuplex && !x.clipped && !bitAt i.out x.run.pen && j.crit ≤ x.run.l.crit && i.minObs ≤ h.2 then
    some (x.run.s + h.1 + guardOf i x.run.l)
  else none

/-- The instants at which the reservoir conditions can change: starts and ends of runs and of MARCH windows. At one cycle
lists are applied in line order (R51), so the cycle after a start can differ from the start. -/
def changePoints (im : Image) (pl : List PlLine) : List Nat :=
  pl.flatMap (fun x => [x.run.s, x.run.s + 1, x.run.e])
    ++ (im.lines.filter (fun e => e.2.isWindow 4)).flatMap (fun e => [e.2.start, e.2.start + e.2.len])

/-- Candidate places (start, pen) of length `b` in a piece of a pen, from `lo`, ending by `hi`. -/
def candidatesIn (lo hi b : Nat) (pts : List Nat) (p : Nat) (piece : Nat × Nat) : List (Nat × Nat) :=
  let s0 := max piece.1 lo
  let e := min piece.2 hi
  if e < s0 + b then []
  else (s0, p) :: (pts.filter (fun t => s0 < t && t + b ≤ e)).map (fun t => (t, p))

/-- The lowest start first, then the lowest pen. -/
def sortPlaces (l : List (Nat × Nat)) : List (Nat × Nat) := sortBy (fun (x : Nat × Nat) => x.1 * 64 + x.2) l

/-- A reservoir failure involves the run of a line (R89). -/
def involves (fails : List (Nat × Nat × Nat)) (idx : Nat) : Bool :=
  fails.any (fun (f : Nat × Nat × Nat) =>
    (f.1 = 0x0501 && f.2.1 = idx) || (f.1 = 0x0502 && (f.2.1 = idx || f.2.2 = idx)) || (f.1 = 0x0503 && f.2.2 = idx))

/-- No reservoir failure involves a run that joins some others. -/
def joins (im : Image) (others : List RunPlan) (r : RunPlan) : Bool := !involves (ownerFailures im (others ++ [r])) r.line

/-- A run of a line placed on a pen. -/
def placedRun (e : Nat × RLine) (p s : Nat) : RunPlan := ⟨e.1, e.2, p, s, s + e.2.budget⟩

/-- Clip a host at an instant. -/
def clipAt (t : Nat) (x : PlLine) : PlLine := { x with run := { x.run with e := t }, clipped := true }

/-- The placement with the host of a tail clipped. -/
def clipHost (pl : List PlLine) (h t : Nat) : List PlLine := pl.map (fun x => if x.run.line = h then clipAt t x else x)

/-- The recovery column of a line is a place (R89, R90): in ruled slack, or in a measured tail, whose host is then clipped. -/
def columnPlace (i : RdIn) (pl : List PlLine) (e : Nat × RLine) : Option (List PlLine) :=
  let l := e.2
  let r := placedRun e l.recPen l.recStart
  let put (q : List PlLine) : Option (List PlLine) :=
    if joins i.im (q.map (·.run)) r then some (q ++ [⟨r, .redrafted, false⟩]) else none
  let inside (x : Nat × Nat) : Bool := x.1 ≤ r.s && r.e ≤ x.2
  if !l.recEn || bitAt i.out l.recPen || r.s < l.start || l.deadline < r.e + 4 then none
  else if (ruledSlack i pl l.recPen).any inside then put pl
  else pl.findSome? (fun x => match tailStart i l x with
    | some t => if x.run.pen = l.recPen && inside (t, x.run.e) then put (clipHost pl x.run.line t) else none
    | none => none)

/-- The lowest place in ruled slack (R90). -/
def slackPlace (i : RdIn) (pl : List PlLine) (e : Nat × RLine) : Option (List PlLine) :=
  let l := e.2
  let pts := changePoints i.im pl
  let cs := (upTo 64).flatMap (fun p => (ruledSlack i pl p).flatMap (candidatesIn l.start (l.deadline - 4) l.budget pts p))
  ((sortPlaces cs).find? (fun (c : Nat × Nat) => joins i.im (pl.map (·.run)) (placedRun e c.2 c.1))).map
    (fun (c : Nat × Nat) => pl ++ [⟨placedRun e c.2 c.1, .redrafted, false⟩])

/-- The lowest place in measured slack; its host is clipped (R89, R90). -/
def tailPlace (i : RdIn) (pl : List PlLine) (e : Nat × RLine) : Option (List PlLine) :=
  let l := e.2
  let pts := changePoints i.im pl
  let cs : List (Nat × Nat × Nat × Nat) := pl.flatMap (fun x => match tailStart i l x with
    | none => []
    | some t => (candidatesIn l.start (l.deadline - 4) l.budget pts x.run.pen (t, x.run.e)).map
        (fun (c : Nat × Nat) => (c.1, c.2, x.run.line, t)))
  let cs := sortBy (fun (c : Nat × Nat × Nat × Nat) => c.1 * 64 + c.2.1) cs
  (cs.find? (fun (c : Nat × Nat × Nat × Nat) =>
      joins i.im ((clipHost pl c.2.2.1 c.2.2.2).map (·.run)) (placedRun e c.2.1 c.1))).map
    (fun (c : Nat × Nat × Nat × Nat) => clipHost pl c.2.2.1 c.2.2.2 ++ [⟨placedRun e c.2.1 c.1, .redrafted, false⟩])

/-- Place one line (R90). -/
def placeLine (i : RdIn) (pl : List PlLine) (e : Nat × RLine) : Option (List PlLine) :=
  match columnPlace i pl e with
  | some q => some q
  | none => match slackPlace i pl e with
    | some q => some q
    | none => tailPlace i pl e

/-- Place lines in order; the first that finds no place fails. -/
def placeLines (i : RdIn) : List (Nat × RLine) → List PlLine → List PlLine × Option (Nat × RLine)
  | [], pl => (pl, none)
  | e :: es, pl => match placeLine i pl e with
    | some q => placeLines i es q
    | none => (pl, some e)

/-- The ruled placement without the lines of fenced pens and without the shed lines (R90). A ligature line stays while one
of its pens carries it (R87). -/
def ruledPlan (i : RdIn) (shed : List Nat) : List PlLine :=
  (i.im.lines.filter (fun e => e.2.runs && !shed.contains e.1
      && (if e.2.isLig then !(bitAt i.fenced e.2.pen && bitAt i.fenced (e.2.pen + 1)) else !bitAt i.fenced e.2.pen))).map
    (fun e => ⟨primaryRun e, .ruled, false⟩)

/-- The order (CRIT, index) of lines. -/
def critKey (e : Nat × RLine) : Nat := e.2.crit * 65536 + e.1

/-- The DUPLEX lines whose pen is fenced, in the order (CRIT, index). -/
def fencedLines (i : RdIn) : List (Nat × RLine) :=
  sortBy critKey (i.im.lines.filter (fun e => e.2.isDuplex && bitAt i.fenced e.2.pen))

/-- The victim of shedding (R90): the DUPLEX line of a weaker class than the failing one, highest class first, then
highest index. -/
def victim (i : RdIn) (shed : List Nat) (fail : Nat × RLine) : Option Nat :=
  ((sortBy critKey (i.im.lines.filter (fun e => e.2.isDuplex && !shed.contains e.1 && fail.2.crit < e.2.crit))).getLast?).map
    (fun (e : Nat × RLine) => e.1)

/-- What the loop of R90 ends with. -/
inductive RdOut
  | placed (pl : List PlLine) (shed : List Nat)
  | class0 (line : Nat)
  deriving DecidableEq, Repr

/-- The loop of R90. Each turn sheds a line or ends; the first argument bounds the turns. -/
def redraftLoop (i : RdIn) : Nat → List Nat → RdOut
  | 0, shed => .placed (ruledPlan i shed) shed
  | n + 1, shed =>
    let x := placeLines i ((fencedLines i).filter (fun e => !shed.contains e.1)) (ruledPlan i shed)
    match x.2 with
    | none => .placed x.1 shed
    | some f => match victim i shed f with
      | some v => redraftLoop i n (shed ++ [v])
      | none => if f.2.crit = 0 then .class0 f.1 else redraftLoop i n (shed ++ [f.1])

/-! ### Protection (R91) -/

/-- A recovery place that has been given: primary pen, recovery pen, start, end. -/
structure RecPlace where
  line : Nat
  pen  : Nat
  rec_ : Nat
  s    : Nat
  e    : Nat
  deriving DecidableEq, Repr

/-- The ruled recovery window of a line overlaps a primary of the placement. -/
def columnHit (pl : List PlLine) (x : PlLine) : Bool :=
  x.run.l.hasRec && (busyOn pl x.run.l.recPen).any (fun (w : Nat × Nat) =>
    overlap x.run.l.recStart (x.run.l.recStart + x.run.l.budget) w.1 w.2)

/-- The line seeks a recovery place: class 0 to 2, moved or exposed. -/
def seeks (pl : List PlLine) (x : PlLine) : Bool :=
  x.run.l.isDuplex && x.run.l.crit < 3 && (x.how ≠ .ruled || columnHit pl x)

/-- Lines that keep their ruled recovery column. -/
def keepsColumn (pl : List PlLine) (x : PlLine) : Bool := x.run.l.hasRec && !columnHit pl x && !seeks pl x

/-- Find the recovery place of one line (R91). -/
def recoveryPlace (i : RdIn) (pl : List PlLine) (given : List RecPlace) (x : PlLine) : Option RecPlace :=
  let l := x.run.l
  let others := (pl.filter (fun y => y.run.line ≠ x.run.line)).map (·.run)
  let pts := changePoints i.im pl ++ given.map (·.e)
  let cs := (upTo 64).flatMap (fun p =>
    if p = x.run.pen || bitAt i.out p then []
    else (reservesOn i.im p).flatMap (fun (r : Nat × Nat) =>
      (subtractAll r.1 r.2 (busyOn pl p)).flatMap
        (candidatesIn (x.run.s + l.budget + 16) (l.deadline - 4) l.budget pts p)))
  let free (c : Nat × Nat) : Bool := !given.any (fun g =>
    g.pen = x.run.pen && g.rec_ = c.2 && overlap c.1 (c.1 + l.budget) g.s g.e)
  ((sortPlaces cs).find? (fun (c : Nat × Nat) => free c && joins i.im others (placedRun (x.run.line, l) c.2 c.1))).map
    (fun (c : Nat × Nat) => ⟨x.run.line, x.run.pen, c.2, c.1, c.1 + l.budget⟩)

/-- Seek recovery places in the order (CRIT, index). -/
def protectGo (i : RdIn) (pl : List PlLine) : List PlLine → List RecPlace → List RecPlace
  | [], given => given
  | x :: xs, given => match recoveryPlace i pl given x with
    | some g => protectGo i pl xs (given ++ [g])
    | none => protectGo i pl xs given

/-- Every recovery place of the placement: ruled columns that are kept, then the places found. -/
def recPlaces (i : RdIn) (pl : List PlLine) : List RecPlace :=
  let kept := (pl.filter (keepsColumn pl)).map (fun x =>
    (⟨x.run.line, x.run.pen, x.run.l.recPen, x.run.l.recStart, x.run.l.recStart + x.run.l.budget⟩ : RecPlace))
  protectGo i pl (sortBy (fun x => critKey (x.run.line, x.run.l)) (pl.filter (seeks pl))) kept

/-- The finished placement of every line that runs or is shed, and the lines without protection. -/
def finishPlan (i : RdIn) (pl : List PlLine) (shed : List Nat) : List Placed × List Nat :=
  let rs := recPlaces i pl
  let place (x : PlLine) : Placed :=
    match rs.find? (fun g => g.line = x.run.line) with
    | some g => ⟨x.run.line, x.how, x.run.pen, x.run.s, x.run.e - x.run.s, x.clipped, g.rec_, g.s, true⟩
    | none => ⟨x.run.line, x.how, x.run.pen, x.run.s, x.run.e - x.run.s, x.clipped, x.run.l.recPen, x.run.l.recStart, false⟩
  let shedPlace (e : Nat × RLine) : Placed := { ruledPlace e.1 e.2 with how := .shed, recValid := false }
  (pl.map place ++ (i.im.lines.filter (fun e => shed.contains e.1)).map shedPlace,
   ((pl.filter (seeks pl)).filter (fun x => !rs.any (fun g => g.line = x.run.line))).map (fun x => x.run.line))

/-! ### The command -/

/-- The inputs of the computation under way (R88). -/
def State.rdInput (s : State) (f : Frozen) : RdIn :=
  { im := s.imageOf f.slot, out := f.out, fenced := s.penMask (fun p => p.st = .fenced), u := usableU s.folio.period,
    hwm := f.obs, guard := bitsOf s.folio.rdCtrl 4 4, minObs := bitsOf s.folio.rdCtrl 8 16 }

/-- The redraft engine finishes its computation (R88, R90, R91): the placement takes effect from the next tick. -/
def State.redraftCompute (s : State) (f : Frozen) : State :=
  let i := s.rdInput f
  match redraftLoop i (i.im.lines.length + 1) [] with
  | .class0 l => { s with folio := { s.folio with rd := .failed } }.raise (lineEvent 0x1A l)
  | .placed pl shed =>
    let x := finishPlan i pl shed
    let s := { s with folio := { s.folio with rd := .ready x.1 shed.length x.2.length } }
    s.raiseAll (shed.map (lineEvent 0x18) ++ x.2.map (lineEvent 0x19))

/-- REDRAFT_COMPUTE (R88 to R91). -/
def execRedraftCompute (s : State) : Host.Outcome State Fault Refusal :=
  match s.folio.rd with
  | .computing f => answer (s.redraftCompute f)
  | .idle | .wanted | .ready _ _ _ | .applied | .failed => answer s

end Sys2Proof.Machine
end

