-- ==== Sys2Proof/Machine/Resume.lean ====
section
/-! DEFINITION. What goes on beside a pen's instructions: late writes, the store buffer, and the ends of the holds of R216
(R145, R197, R205, R209, R211, R212, R258, R70). A hold's end carries out the held instruction. -/

namespace Sys2Proof.Machine

/-- Carry out a held instruction again; `fab` for one whose fabric response has come. -/
def State.rerun (s : State) (fab : Bool) (c : Instr) : State :=
  match c with
  | .ld i rt rb m => s.doLd fab i rt rb m
  | .st i rt rb m => s.doSt i rt rb m
  | .ldb i rt rb m => s.doLoadN fab 1 c i rt rb m
  | .ldh i rt rb m => s.doLoadN fab 2 c i rt rb m
  | .ldw i rt rb m => s.doLoadN fab 4 c i rt rb m
  | .stb i rt rb m => s.doStoreN 1 c i rt rb m
  | .sth i rt rb m => s.doStoreN 2 c i rt rb m
  | .stw i rt rb m => s.doStoreN 4 c i rt rb m
  | .atadd i rt rb m => s.doAtadd fab i rt rb m
  | .atswp i rt rb m => s.doAtswp fab i rt rb m
  | .blkcpy i ra rb rc => s.doBlk fab .cpy i ra rb rc c
  | .blkfill i ra rb rc => s.doBlk fab .fill i ra rb rc c
  | .blkcmp i ra rb rc => s.doBlk fab .cmp i ra rb rc c
  | .blkcrc i ra rb rc => s.doBlk fab .crc i ra rb rc c
  | .call i d => s.doCall i d
  | .callRegister i rs => s.doCallRegister i rs
  | .ret i => s.doRet fab i
  | .eret i => s.doReturn fab false i
  | .gret i => s.doReturn fab true i
  | _ => s

/-- The hold ends and the held instruction goes on; after a walk or draft copy it issues again, at a pair boundary. -/
def State.release (s : State) (p : Nat) (fab : Bool) (c : Instr) : State :=
  if fab then s.rerun true c else (s.modPen p (fun x => { x with hold := .none })).rerun false c

/-- The late writes at the end of a pair are made while the pen is not held between the slots of the next one (R197). -/
def Hold.betweenPairs : Hold → Bool
  | .none | .divide _ _ _ _ => true
  | .walk _ _ _ _ | .copy _ _ | .fabric _ _ _ | .block _ => false

/-- LOAD_WRITEBACK (R145, R197): the values of pairs before the last are written, at the end of that pair. -/
def execLoadWriteback (p : PenN) (s : State) : Host.Outcome State Fault Refusal :=
  guarded ((s.runs p.val).isSome && (s.pen p.val).hold.betweenPairs && (s.pen p.val).late.any (fun l => 1 ≤ l.age)) s (fun s =>
    s.modPen p.val (fun x => { x.writeLate (fun l => 1 ≤ l.age) with pair := none }))

/-- A collision on a reservoir port is counted (R281). -/
def State.countColl (s : State) (cpa : Nat) : State :=
  if isRsv cpa then s.modRsv (rsvNum cpa) (fun r => { r with coll := satInc 0xFFFFFFFF r.coll }) else s

/-- A collision, where there was one, is counted. -/
def State.collide (s : State) (collided : Bool) (cpa : Nat) : State := if collided then s.countColl cpa else s

/-- A port A request of a pen that is no longer the reservoir's owner is counted on arrival (R278). -/
def State.staleRead (s : State) (p cpa : Nat) (portA : Bool) : State :=
  match (s.pen p).run with
  | some r => if portA && (s.rsvOf (rsvNum cpa)).owner ≠ r.home then s.staleRequest cpa else s
  | none => s

/-- The response that a pen is held for arrives (R209), after the pen's earlier requests to the bank (R19): the held
instruction goes on, or a CRC error stops the pen (R20). -/
def State.fabricResponse (s : State) (p : Nat) (crcError collided : Bool) : State :=
  match (s.pen p).hold with
  | .fabric cpa portA c =>
    if crcError then raised (s.stopPen p pfFabric 0)
    else (((s.arriveTo p 0).staleRead p cpa portA).collide collided cpa).release p true c
  | .none | .walk _ _ _ _ | .copy _ _ | .block _ | .divide _ _ _ _ => s

/-- FABRIC_RESPONSE (R20, R209, R281). -/
def execFabricResponse (p : PenN) (crcError collided : Bool) (s : State) : Host.Outcome State Fault Refusal :=
  guarded (s.runs p.val).isSome s (fun s => s.fabricResponse p.val crcError collided)

/-- The CPA of the oldest waiting store. -/
def Pen.oldestCpa (x : Pen) : Nat := match x.sb with
  | e :: _ => (match e.halves with
    | h :: _ => h.cpa
    | [] => 0)
  | [] => 0

/-- STORE_DRAIN (R205, R287): the oldest entry of the store buffer is performed. -/
def execStoreDrain (p : PenN) (collided : Bool) (s : State) : Host.Outcome State Fault Refusal :=
  guarded ((s.runs p.val).isSome && (s.pen p.val).sb ≠ []) s (fun s =>
    let a := (s.pen p.val).oldestCpa
    (s.collide collided a).drainOne p.val)

/-- STORE_ACK (R211): one acknowledgement returns, and its store has been performed, or its CRC error stops the pen (R20). -/
def execStoreAck (p : PenN) (crcError : Bool) (s : State) : Host.Outcome State Fault Refusal :=
  guarded ((s.runs p.val).isSome && (s.pen p.val).acks ≠ 0) s (fun s =>
    if crcError then raised (s.stopPen p.val pfFabric 0)
    else (s.arriveTo p.val ((s.pen p.val).acks - 1)).modPen p.val (fun x => { x with acks := x.acks - 1 }))

/-- The draft copy ends (R70, R73): the page is DRAFTED and the store goes on; a CRC error of a reservoir's copy stops the
pen, and a collision on the reservoir's ports is counted (R281). -/
def State.copyEnd (s : State) (p : Nat) (crcError collided : Bool) : State :=
  match (s.pen p).hold, (s.pen p).run with
  | .copy slot c, some r =>
    if crcError && isRsv ((s.vslot slot).fairFrame * 4096) then raised (s.stopPen p pfFabric 0)
    else
      (((s.arriveTo p 0).collide collided ((s.vslot slot).fairFrame * 4096)).draftCopy p slot r).release p false c
  | _, _ => s

/-- DRAFT_COPY_COMPLETE (R70, R72, R73). -/
def execDraftCopyComplete (p : PenN) (crcError collided : Bool) (s : State) : Host.Outcome State Fault Refusal :=
  guarded (s.runs p.val).isSome s (fun s => s.copyEnd p.val crcError collided)

/-- A fetch at the program counter that does not hit with permission (R258, R260): the walk installs its entry, or a fetch
fault is taken at vector 6. -/
def State.fetchWalk (s : State) (p : Nat) (r : Run) : State :=
  let c := s.ctxOf p r false
  let pc := (s.pen p).pc
  let fault (t : State) (f : TFault) : State := (t.takeExc p (excTrans f pc .fetch)).getD s
  if (s.pen p).buffered then s
  else match s.xlat c pc .fetch with
  | .hit _ => s
  | .fault f d => fault (s.noteTFault c pc f d) f
  | .miss =>
    let x := s.walkFor c pc .fetch
    match x.1 with
    | .error f => fault x.2 f
    | .ok () =>
      match x.2.xlat c pc .fetch with
      | .fault f d => fault (x.2.noteTFault c pc f d) f
      | .hit _ | .miss => x.2

/-- A table walk ends (R258). The pen's earlier requests have arrived before the walk reads (R19). -/
def State.walkDone (s0 : State) (p : Nat) : State :=
  let s := s0.arriveTo p 0
  match (s.pen p).hold, s.runs p with
  | .walk va kind second i, some r =>
    let x := s.walkFor (s.ctxOf p r false) va kind
    (match x.1 with
     | .ok () => x.2.release p false i
     | .error f => (x.2.takeExc p (excTrans f va kind second) ((s.pen p).blkDone ≠ 0)).getD s)
  | .none, some r => s.fetchWalk p r
  | _, _ => s

/-- TABLE_WALK_DONE (R212, R258 to R266). -/
def execTableWalkDone (p : PenN) (s : State) : Host.Outcome State Fault Refusal :=
  guarded (s.runs p.val).isSome s (fun s => s.walkDone p.val)

end Sys2Proof.Machine
end

