-- ==== Sys2Proof/Machine/Tags.lean ====
section
/-! DEFINITION. The tag instructions (R140, R141, R174). -/

namespace Sys2Proof.Machine

/-- TAG (R140, R174). -/
def execTag (i : Iss) (rd ra : Reg) (t : Tag) (s : State) : Host.Outcome State Fault Refusal :=
  guarded (s.ready i.pen.val) s (fun s =>
    let exec := !(s.pen i.pen.val).task
    s.doAlu i (useAlu [rd, ra] false) rd (fun read => aluTag exec t (read ra)))

/-- TAGOF (R174). -/
def execTagof (i : Iss) (rd ra : Reg) (s : State) : Host.Outcome State Fault Refusal :=
  guarded (s.ready i.pen.val) s (fun s =>
    s.doAlu i (useAlu [rd, ra] false) rd (fun read => aluTagof (read ra)))

/-- CHK (R141). -/
def execChk (i : Iss) (rs : Reg) (mask : BitVec 16) (s : State) : Host.Outcome State Fault Refusal :=
  guarded (s.ready i.pen.val) s (fun s =>
    s.issueOne i (useAlu [rs] false) (fun paired t =>
      match aluChk mask ((t.pen i.pen.val).read paired rs) with
      | .error e => .exc e t
      | .ok () => .ok (fun x => x.done paired) t))

/-- POISON (R174). -/
def execPoison (i : Iss) (rd : Reg) (s : State) : Host.Outcome State Fault Refusal :=
  guarded (s.ready i.pen.val) s (fun s =>
    s.doAlu i (useAlu [rd] false) rd (fun read => .ok (⟨Tag.poison, (read rd).val⟩, none)))

end Sys2Proof.Machine
end

