-- ==== Sys2Proof/Machine/Windows.lean ====
section
/-! DEFINITION. Windows of the ruling: opening and closing (R47 to R51), and the lines that the engine plays in the order of
R51. What an engine does throughout a window that no
other row carries is done when the window opens. -/

namespace Sys2Proof.Machine

/-- The part waits as a receiver of its partner's state: it opens only FETCH, TRACE and GATE lines (R302, R313). -/
def State.onlyReceives (s : State) : Bool :=
  s.trc.mode = 2 || (s.trc.mode = 4 && ((s.trc.st ≠ .current && s.trc.st ≠ .lost) || s.trc.stopped))

/-- The part opens windows of a type now. -/
def State.opens (s : State) (wtype : Nat) : Bool :=
  s.dev = .run && s.folio.running && (!s.onlyReceives || wtype = 1 || wtype = 2 || wtype = 5)

/-- A window line is due: its START is this cycle, and it has not opened in this folio. -/
def State.openDue (s : State) (i : Nat) : Bool :=
  match s.line i with
  | none => false
  | some l => l.isWin && s.opens l.wtype && l.start = s.folioCyc && !s.folio.spent.contains i

/-- A fabric CRC error ends a ruled scrub early (R20, BLOTTER_FABRIC). -/
def State.scrubWindow (s : State) (mask len : Nat) (crcError : Bool) : State :=
  if crcError then s.raise { cls := 0x39 } else s.ruledScrub mask len

/-- The window is listed as open. -/
def State.listWindow (s : State) (i : Nat) (l : RLine) : State :=
  { s with folio := { s.folio with wins := s.folio.wins ++ [⟨i, l.wtype, l.part, l.arg, l.start, l.len⟩] } }

/-- What the window's engine does (R47): a GATE line sets its MAC's gates. -/
def State.openWindow (s : State) (i : Nat) (l : RLine) (reach : Nat) (crcError : Bool) : State :=
  let s := { s with folio := { s.folio with spent := i :: s.folio.spent } }
  if l.wtype = 5 then
    { s with folio := { s.folio with gates := Table.set (fun _ => 255) s.folio.gates l.unit (l.arg % 256) } }
  else
    let s := s.listWindow i l
    match l.wtype with
    | 0 => s.publishWindow l.part (l.arg % 65536) l.start reach crcError
    | 2 => s.traceWindow l.len crcError
    | 3 => s.scrubWindow l.arg l.len crcError
    | 4 => { s with blot := { s.blot with
        stopped := s.blot.stopped.filter (fun r => !l.arg.testBit r),
        skipRun := s.blot.skipRun.filter (fun e => !l.arg.testBit (e.1 / 2048) || s.blot.skipSeen.contains e.1),
        skipSeen := s.blot.skipSeen.filter (fun k => !l.arg.testBit (k / 2048)) } }
    | _ => s

/-- Close a window (R50). -/
def State.closeWindow (s : State) (w : Win) : State :=
  let s := { s with folio := { s.folio with wins := s.folio.wins.filter (fun x => x.line ≠ w.line) } }
  if w.wtype = 2 then s.traceEnds else s

/-! ### Runs and windows that begin: the order of R51 -/

/-- Step 2: every run whose window ends in this cycle without LINEND is LATE, in line order. -/
def State.killLate (s : State) : State :=
  let ending := (upTo 64).filterMap (fun p => match (s.pen p).run with
    | some r => if (s.pen p).st = .run && r.linend = none && r.winEnd = s.folioCyc then some r.line else none
    | none => none)
  s.forAll (sortBy id ending.eraseDups) (fun i t => t.budgetEnd i)

/-- Step 3: windows whose START + LENGTH is this cycle close. -/
def State.closeDue (s : State) : State :=
  s.forAll (s.folio.wins.filter (fun w => w.start + w.len = s.folioCyc)) (fun w t => t.closeWindow w)

/-- The pen on which a due run of a line starts, and that stands for it in its handover list. -/
def State.startsOn (s : State) (i : Nat) (l : RLine) : Option Nat :=
  if l.isLig then
    let e := evenOf l.pen
    if s.joins e || s.solos e || s.solos (oddOf e) then some e else none
  else
    let p := s.placeOf i l
    if s.penFree p.pen then some p.pen else none

/-- An armed recovery run has its pen to itself. -/
def State.recoveryFree (s : State) (a : Armed) : Bool :=
  s.penFree a.pen && !s.folio.armed.any (fun b => b.pen = a.pen && b.start = a.start && b.line < a.line)

/-- A recovery run of a line is due. -/
def State.recoveryDue (s : State) (i : Nat) : Option Armed :=
  if s.runsLines && s.folio.running then s.folio.armed.find? (fun a => a.line = i && a.start = s.folioCyc) else none

/-- The handover list of the runs of line `i` that start in this cycle. -/
def State.handLine (i : Nat) (s : State) : State :=
  match s.line i with
  | none => s
  | some l =>
    if !(s.lineWords s.active i).all s.storeGood then s
    else
      let s := match (if s.startDue i then s.startsOn i l else none) with
        | some p => s.handOnce i false l p
        | none => s
      match s.recoveryDue i with
      | some a => if s.recoveryFree a then s.handOnce i true l a.pen else s
      | none => s

/-- Steps 2 to 4 of R51 in this cycle: LATE runs are killed, windows close, and the handover lists of all runs that start
now are applied in line order. -/
def State.boundary (s : State) : State :=
  let s := s.killLate.closeDue
  s.forAll (upTo s.active.lines) State.handLine

/-- The engine reads line `i` of the active ruling from the ruling store (R39): the line, unless a word of it cannot be
read, and the state with the errors met. -/
def State.readLine (s : State) (i : Nat) : Option RLine × State :=
  let x := s.storeReads (s.lineWords s.active i)
  (if x.1 then x.2.line i else none, x.2)

/-- A line is played in this cycle: steps 2 to 4, the read of its words, and then `f`, if it is still due. -/
def State.play (s : State) (i : Nat) (due : State → Bool) (f : RLine → State → State) : State :=
  let x := s.boundary.readLine i
  match x.1 with
  | some l => if due x.2 then f l x.2 else x.2
  | none => x.2

/-- A run starts (R51, R107). -/
def State.runStart (i : Nat) (l : RLine) (s : State) : State :=
  let s := { s with folio := { s.folio with spent := i :: s.folio.spent } }
  if l.isLig then s.startLigature i l
  else
    let p := s.placeOf i l
    if s.penFree p.pen then s.startOn i l p.pen p.start p.budget false else s.toColumn i p

/-- RUN_START (R51). -/
def execRunStart (line : LineN) (s : State) : Host.Outcome State Fault Refusal :=
  guarded (s.startDue line.val) s (fun s => s.play line.val (fun t => t.startDue line.val) (State.runStart line.val))

/-- An armed recovery run starts on its pen, or RECOVERY_LOST is raised (R83, R84). -/
def State.recoveryStart (i : Nat) (l : RLine) (s : State) : State :=
  match s.recoveryDue i with
  | some a =>
    let free := s.recoveryFree a
    let s := { s with folio := { s.folio with armed := s.folio.armed.filter (fun b => b.line ≠ i) } }
    if free then s.startOn i l a.pen a.start l.budget true
    else s.raise (lineEvent 0x12 i)
  | none => s

/-- RECOVERY_RUN_START (R83). -/
def execRecoveryRunStart (line : LineN) (s : State) : Host.Outcome State Fault Refusal :=
  guarded (s.recoveryDue line.val).isSome s (fun s =>
    s.play line.val (fun t => (t.recoveryDue line.val).isSome) (State.recoveryStart line.val))

/-- `reach`: how many out channels of a PUBLISH window the feed gathers before the tick (R387).
WINDOW_OPEN (R47, R48, R49, R293, R309, R316). -/
def execWindowOpen (line : LineN) (reach : Nat) (crcError : Bool) (s : State) : Host.Outcome State Fault Refusal :=
  guarded (s.openDue line.val) s (fun s =>
    s.play line.val (fun t => t.openDue line.val) (fun l t => t.openWindow line.val l reach crcError))

/-- The LENGTH of an open window has passed; LATE runs of the cycle are killed first (R51). -/
def State.closeNow (s : State) (w : Win) : State :=
  let s := s.killLate
  if s.folio.wins.contains w then s.closeWindow w else s

/-- WINDOW_CLOSE (R50, R51). -/
def execWindowClose (line : LineN) (s : State) : Host.Outcome State Fault Refusal :=
  match s.folio.wins.find? (fun w => w.line = line.val && w.start + w.len = s.folioCyc) with
  | some w => answer (s.closeNow w)
  | none => answer s

end Sys2Proof.Machine
end

