-- ==== Sys2Proof/Machine/Dispatch.lean ====
section
/-! DEFINITION. Every command and its meaning: one arm per constructor of `Instr`. -/

namespace Sys2Proof.Machine

/-- The effect of a command on everything but the queue of waiting commands. -/
def exec (i : Instr) (s : State) : Host.Outcome State Fault Refusal :=
  match i with
  | .add iss rd ra b => Sys2Proof.Machine.execAdd iss rd ra b s
  | .addt iss rd ra b => Sys2Proof.Machine.execAddt iss rd ra b s
  | .sub iss rd ra b => Sys2Proof.Machine.execSub iss rd ra b s
  | .subt iss rd ra b => Sys2Proof.Machine.execSubt iss rd ra b s
  | .neg iss rd ra => Sys2Proof.Machine.execNeg iss rd ra s
  | .negt iss rd ra => Sys2Proof.Machine.execNegt iss rd ra s
  | .mul iss rd ra b => Sys2Proof.Machine.execMul iss rd ra b s
  | .mulh iss rd ra rb => Sys2Proof.Machine.execMulh iss rd ra rb s
  | .mulWriteback p => Sys2Proof.Machine.execMulWriteback p s
  | .div iss rd ra rb => Sys2Proof.Machine.execDiv iss rd ra rb s
  | .divt iss rd ra rb => Sys2Proof.Machine.execDivt iss rd ra rb s
  | .rem iss rd ra rb => Sys2Proof.Machine.execRem iss rd ra rb s
  | .divideComplete p => Sys2Proof.Machine.execDivideComplete p s
  | .and iss rd ra b => Sys2Proof.Machine.execAnd iss rd ra b s
  | .or iss rd ra b => Sys2Proof.Machine.execOr iss rd ra b s
  | .xor iss rd ra b => Sys2Proof.Machine.execXor iss rd ra b s
  | .shl iss rd ra a => Sys2Proof.Machine.execShl iss rd ra a s
  | .shr iss rd ra a => Sys2Proof.Machine.execShr iss rd ra a s
  | .sar iss rd ra a => Sys2Proof.Machine.execSar iss rd ra a s
  | .rol iss rd ra a => Sys2Proof.Machine.execRol iss rd ra a s
  | .clz iss rd ra => Sys2Proof.Machine.execClz iss rd ra s
  | .bfx iss rd ra pos len1 => Sys2Proof.Machine.execBfx iss rd ra pos len1 s
  | .bfi iss rd ra pos len1 => Sys2Proof.Machine.execBfi iss rd ra pos len1 s
  | .perm iss rd ra rb => Sys2Proof.Machine.execPerm iss rd ra rb s
  | .tag iss rd ra t => Sys2Proof.Machine.execTag iss rd ra t s
  | .tagof iss rd ra => Sys2Proof.Machine.execTagof iss rd ra s
  | .chk iss rs mask => Sys2Proof.Machine.execChk iss rs mask s
  | .poison iss rd => Sys2Proof.Machine.execPoison iss rd s
  | .ld iss rt rb m => Sys2Proof.Machine.execLd iss rt rb m s
  | .st iss rt rb m => Sys2Proof.Machine.execSt iss rt rb m s
  | .ldb iss rt rb m => Sys2Proof.Machine.execLdb iss rt rb m s
  | .ldh iss rt rb m => Sys2Proof.Machine.execLdh iss rt rb m s
  | .ldw iss rt rb m => Sys2Proof.Machine.execLdw iss rt rb m s
  | .stb iss rt rb m => Sys2Proof.Machine.execStb iss rt rb m s
  | .sth iss rt rb m => Sys2Proof.Machine.execSth iss rt rb m s
  | .stw iss rt rb m => Sys2Proof.Machine.execStw iss rt rb m s
  | .atadd iss rt rb m => Sys2Proof.Machine.execAtadd iss rt rb m s
  | .atswp iss rt rb m => Sys2Proof.Machine.execAtswp iss rt rb m s
  | .loadWriteback p => Sys2Proof.Machine.execLoadWriteback p s
  | .fabricResponse p crcError collided => Sys2Proof.Machine.execFabricResponse p crcError collided s
  | .storeDrain p collided => Sys2Proof.Machine.execStoreDrain p collided s
  | .storeAck p crcError => Sys2Proof.Machine.execStoreAck p crcError s
  | .draftCopyComplete p crcError collided => Sys2Proof.Machine.execDraftCopyComplete p crcError collided s
  | .tableWalkDone p => Sys2Proof.Machine.execTableWalkDone p s
  | .blkcpy iss ra rb rc => Sys2Proof.Machine.execBlkcpy iss ra rb rc s
  | .blkfill iss ra rb rc => Sys2Proof.Machine.execBlkfill iss ra rb rc s
  | .blkcmp iss ra rb rc => Sys2Proof.Machine.execBlkcmp iss ra rb rc s
  | .blkcrc iss ra rb rc => Sys2Proof.Machine.execBlkcrc iss ra rb rc s
  | .b iss disp => Sys2Proof.Machine.execB iss disp s
  | .bcc iss cond disp => Sys2Proof.Machine.execBcc iss cond disp s
  | .call iss disp => Sys2Proof.Machine.execCall iss disp s
  | .bRegister iss rs => Sys2Proof.Machine.execBRegister iss rs s
  | .callRegister iss rs => Sys2Proof.Machine.execCallRegister iss rs s
  | .ret iss => Sys2Proof.Machine.execRet iss s
  | .eret iss => Sys2Proof.Machine.execEret iss s
  | .gret iss => Sys2Proof.Machine.execGret iss s
  | .gate iss n => Sys2Proof.Machine.execGate iss n s
  | .mask iss rd src => Sys2Proof.Machine.execMask iss rd src s
  | .feat iss rd n => Sys2Proof.Machine.execFeat iss rd n s
  | .sealReg iss rd rs => Sys2Proof.Machine.execSealReg iss rd rs s
  | .tlbinvUnlocked iss => Sys2Proof.Machine.execTlbinvUnlocked iss s
  | .tlbinvAll iss => Sys2Proof.Machine.execTlbinvAll iss s
  | .tlbinvPage iss rs => Sys2Proof.Machine.execTlbinvPage iss rs s
  | .ipi iss rs level => Sys2Proof.Machine.execIpi iss rs level s
  | .fence iss => Sys2Proof.Machine.execFence iss s
  | .linend iss => Sys2Proof.Machine.execLinend iss s
  | .interruptEntry p => Sys2Proof.Machine.execInterruptEntry p s
  | .ipiArrive p level => Sys2Proof.Machine.execIpiArrive p level s
  | .penFault p r both => Sys2Proof.Machine.execPenFault p r both s
  | .crosslinkDisagree k => Sys2Proof.Machine.execCrosslinkDisagree k s
  | .folioTick => Sys2Proof.Machine.execFolioTick s
  | .runStart line => Sys2Proof.Machine.execRunStart line s
  | .recoveryRunStart line => Sys2Proof.Machine.execRecoveryRunStart line s
  | .runBudgetEnd line => Sys2Proof.Machine.execRunBudgetEnd line s
  | .commit p => Sys2Proof.Machine.execCommit p s
  | .windowOpen line reach crcError => Sys2Proof.Machine.execWindowOpen line reach crcError s
  | .windowClose line => Sys2Proof.Machine.execWindowClose line s
  | .fetchMessage q crcError => Sys2Proof.Machine.execFetchMessage q crcError s
  | .postMessage q crcError => Sys2Proof.Machine.execPostMessage q crcError s
  | .queueInterrupt q => Sys2Proof.Machine.execQueueInterrupt q s
  | .marchSegment bank row o => Sys2Proof.Machine.execMarchSegment bank row o s
  | .selftestStart p => Sys2Proof.Machine.execSelftestStart p s
  | .selftestVerdict p v => Sys2Proof.Machine.execSelftestVerdict p v s
  | .resilverComplete p => Sys2Proof.Machine.execResilverComplete p s
  | .redraftCompute => Sys2Proof.Machine.execRedraftCompute s
  | .rulingStoreScrub index => Sys2Proof.Machine.execRulingStoreScrub index s
  | .tickinEdge => Sys2Proof.Machine.execTickinEdge s
  | .tickinMiss => Sys2Proof.Machine.execTickinMiss s
  | .ppsEdge => Sys2Proof.Machine.execPpsEdge s
  | .gptpSync mac masterTime logSync => Sys2Proof.Machine.execGptpSync mac masterTime logSync s
  | .pdelayRequest mac => Sys2Proof.Machine.execPdelayRequest mac s
  | .holdoverEntry => Sys2Proof.Machine.execHoldoverEntry s
  | .rubricFirmwareReaction => Sys2Proof.Machine.execRubricFirmwareReaction s
  | .voterMismatch odd => Sys2Proof.Machine.execVoterMismatch odd s
  | .huvasNibCheck pass => Sys2Proof.Machine.execHuvasNibCheck pass s
  | .huvasResync => Sys2Proof.Machine.execHuvasResync s
  | .mailboxGo m opcode token upperHalf => Sys2Proof.Machine.execMailboxGo m opcode token upperHalf s
  | .mailboxAbort m => Sys2Proof.Machine.execMailboxAbort m s
  | .identify m => Sys2Proof.Machine.execIdentify m s
  | .fwLoad m image badPens badInk badRsv => Sys2Proof.Machine.execFwLoad m image badPens badInk badRsv s
  | .timeConfig m => Sys2Proof.Machine.execTimeConfig m s
  | .memLoad m data run => Sys2Proof.Machine.execMemLoad m data run s
  | .memRead m linkFails run => Sys2Proof.Machine.execMemRead m linkFails run s
  | .vslotSet m data => Sys2Proof.Machine.execVslotSet m data s
  | .partSetup m => Sys2Proof.Machine.execPartSetup m s
  | .mirrorSet m => Sys2Proof.Machine.execMirrorSet m s
  | .lslotSet m => Sys2Proof.Machine.execLslotSet m s
  | .seqSel m => Sys2Proof.Machine.execSeqSel m s
  | .rulingLoad m data run => Sys2Proof.Machine.execRulingLoad m data run s
  | .rulingVerify m run => Sys2Proof.Machine.execRulingVerify m run s
  | .rulingUnload m => Sys2Proof.Machine.execRulingUnload m s
  | .activate m => Sys2Proof.Machine.execActivate m s
  | .switchArm m => Sys2Proof.Machine.execSwitchArm m s
  | .quiesce m => Sys2Proof.Machine.execQuiesce m s
  | .rubricSet m data => Sys2Proof.Machine.execRubricSet m data s
  | .eventRead m linkFails run => Sys2Proof.Machine.execEventRead m linkFails run s
  | .bankHandover m => Sys2Proof.Machine.execBankHandover m s
  | .scrub m => Sys2Proof.Machine.execScrub m s
  | .march m => Sys2Proof.Machine.execMarch m s
  | .marginRead m linkFails => Sys2Proof.Machine.execMarginRead m linkFails s
  | .checkerTest m seen => Sys2Proof.Machine.execCheckerTest m seen s
  | .queueSet m => Sys2Proof.Machine.execQueueSet m s
  | .shareSet m => Sys2Proof.Machine.execShareSet m s
  | .chansetSet m data => Sys2Proof.Machine.execChansetSet m data s
  | .portRecordLoad m data => Sys2Proof.Machine.execPortRecordLoad m data s
  | .tracePair m => Sys2Proof.Machine.execTracePair m s
  | .traceDetach m => Sys2Proof.Machine.execTraceDetach m s
  | .takeover m => Sys2Proof.Machine.execTakeover m s
  | .penControl m => Sys2Proof.Machine.execPenControl m s
  | .power m => Sys2Proof.Machine.execPower m s
  | .dormant m => Sys2Proof.Machine.execDormant m s
  | .superviseSet m => Sys2Proof.Machine.execSuperviseSet m s
  | .debugEnable m => Sys2Proof.Machine.execDebugEnable m s
  | .rulingEntryWrite w => Sys2Proof.Machine.execRulingEntryWrite w s
  | .vtSlotWrite w => Sys2Proof.Machine.execVtSlotWrite w s
  | .pxRecordWrite w => Sys2Proof.Machine.execPxRecordWrite w s
  | .ptRecordWrite w => Sys2Proof.Machine.execPtRecordWrite w s
  | .folioSwitchWrite w => Sys2Proof.Machine.execFolioSwitchWrite w s
  | .penCtrlRestart p => Sys2Proof.Machine.execPenCtrlRestart p s
  | .penCtrlFence p => Sys2Proof.Machine.execPenCtrlFence p s
  | .penInjectArm p group => Sys2Proof.Machine.execPenInjectArm p group s
  | .mmuInvAll p => Sys2Proof.Machine.execMmuInvAll p s
  | .mmuLslotLoad p slots => Sys2Proof.Machine.execMmuLslotLoad p slots s
  | .checkerInjectWrite bank w => Sys2Proof.Machine.execCheckerInjectWrite bank w s
  | .blotScrubStart => Sys2Proof.Machine.execBlotScrubStart s
  | .blotScrubAbort => Sys2Proof.Machine.execBlotScrubAbort s
  | .scrubPassEnd e => Sys2Proof.Machine.execScrubPassEnd e s
  | .blotMlClear => Sys2Proof.Machine.execBlotMlClear s
  | .huvEqPop => Sys2Proof.Machine.execHuvEqPop s
  | .hifQpWrite w => Sys2Proof.Machine.execHifQpWrite w s
  | .trcListWrite w => Sys2Proof.Machine.execTrcListWrite w s
  | .feedDescWrite w => Sys2Proof.Machine.execFeedDescWrite w s
  | .submissionRequest p k w => Sys2Proof.Machine.execSubmissionRequest p k w s
  | .domainRequestWrite other w => Sys2Proof.Machine.execDomainRequestWrite other w s
  | .domainSwitchOff d => Sys2Proof.Machine.execDomainSwitchOff d s
  | .domainSwitchOn d => Sys2Proof.Machine.execDomainSwitchOn d s
  | .bankFillDone b => Sys2Proof.Machine.execBankFillDone b s
  | .registerWrite cpa w crcTwice same => Sys2Proof.Machine.execRegisterWrite cpa w crcTwice same s
  | .registerReadClear cpa crcTwice same => Sys2Proof.Machine.execRegisterReadClear cpa crcTwice same s
  | .doorbell w => Sys2Proof.Machine.execDoorbell w s
  | .inboundWrite bar2 off size w poisoned ecrcBad => Sys2Proof.Machine.execInboundWrite bar2 off size w poisoned ecrcBad s
  | .inboundRead bar2 off size ecrcBad => Sys2Proof.Machine.execInboundRead bar2 off size ecrcBad s
  | .hostCompletion q c => Sys2Proof.Machine.execHostCompletion q c s
  | .completionTimeout q => Sys2Proof.Machine.execCompletionTimeout q s
  | .msixUnmask v => Sys2Proof.Machine.execMsixUnmask v s
  | .d3hotWrite => Sys2Proof.Machine.execD3hotWrite s
  | .d0Write => Sys2Proof.Machine.execD0Write s
  | .linkDown perst => Sys2Proof.Machine.execLinkDown perst s
  | .linkUp speed width flit => Sys2Proof.Machine.execLinkUp speed width flit s
  | .ideCheckFail stream => Sys2Proof.Machine.execIdeCheckFail stream s
  | .ideKeySetGo stream => Sys2Proof.Machine.execIdeKeySetGo stream s
  | .doeRequest r => Sys2Proof.Machine.execDoeRequest r s
  | .doeAbort => Sys2Proof.Machine.execDoeAbort s
  | .recordBegin raw => Sys2Proof.Machine.execRecordBegin raw s
  | .recordUnit raw crcError => Sys2Proof.Machine.execRecordUnit raw crcError s
  | .recordEnd raw => Sys2Proof.Machine.execRecordEnd raw s
  | .recordAck raw => Sys2Proof.Machine.execRecordAck raw s
  | .recordDigest raw => Sys2Proof.Machine.execRecordDigest raw s
  | .recordFarewell raw => Sys2Proof.Machine.execRecordFarewell raw s
  | .traceWatchdog => Sys2Proof.Machine.execTraceWatchdog s
  | .ethFrameReceive mac frame fcsGood => Sys2Proof.Machine.execEthFrameReceive mac frame fcsGood s
  | .ethFrameTransmit mac => Sys2Proof.Machine.execEthFrameTransmit mac s
  | .ethLinkDown mac => Sys2Proof.Machine.execEthLinkDown mac s
  | .ethLinkUp mac => Sys2Proof.Machine.execEthLinkUp mac s
  | .canFrameReceive c f o => Sys2Proof.Machine.execCanFrameReceive c f o s
  | .canFrameTransmit c o => Sys2Proof.Machine.execCanFrameTransmit c o s
  | .canBusOffRecovery c => Sys2Proof.Machine.execCanBusOffRecovery c s
  | .feedRecordWrite crcError => Sys2Proof.Machine.execFeedRecordWrite crcError s
  | .gpioCapture levels crcError => Sys2Proof.Machine.execGpioCapture levels crcError s
  | .gpioSample ss levels => Sys2Proof.Machine.execGpioSample ss levels s
  | .gpioReadback levels => Sys2Proof.Machine.execGpioReadback levels s
  | .vaonPowerOn => Sys2Proof.Machine.execVaonPowerOn s
  | .mainRailsUp => Sys2Proof.Machine.execMainRailsUp s
  | .mainPowerReset => Sys2Proof.Machine.execMainPowerReset s
  | .resetNAssert => Sys2Proof.Machine.execResetNAssert s
  | .jtagTrst => Sys2Proof.Machine.execJtagTrst s
  | .clockFail => Sys2Proof.Machine.execClockFail s
  | .pllEthUnlock => Sys2Proof.Machine.execPllEthUnlock s
  | .pcieClockLoss => Sys2Proof.Machine.execPcieClockLoss s
  | .xtalStop => Sys2Proof.Machine.execXtalStop s
  | .fuseLoad good => Sys2Proof.Machine.execFuseLoad good s
  | .fillDone cmpFail => Sys2Proof.Machine.execFillDone cmpFail s
  | .romCheckDone pass => Sys2Proof.Machine.execRomCheckDone pass s
  | .avsInterval margin => Sys2Proof.Machine.execAvsInterval margin s
  | .avsTimeout => Sys2Proof.Machine.execAvsTimeout s
  | .supplyExcursion cmp outside => Sys2Proof.Machine.execSupplyExcursion cmp outside s
  | .tempConversion tj => Sys2Proof.Machine.execTempConversion tj s
  | .dormantEnter => Sys2Proof.Machine.execDormantEnter s
  | .wake fired => Sys2Proof.Machine.execWake fired s
  | .illegalEncoding p => Sys2Proof.Machine.execIllegalEncoding p s
  | .instructionBusFault p => Sys2Proof.Machine.execInstructionBusFault p s
  | .avsAcknowledge readback => Sys2Proof.Machine.execAvsAcknowledge readback s
  | .resetNRelease => Sys2Proof.Machine.execResetNRelease s
  | .clockReturn => Sys2Proof.Machine.execClockReturn s
  | .xtalStart => Sys2Proof.Machine.execXtalStart s
  | .linkRetrain speed width => Sys2Proof.Machine.execLinkRetrain speed width s
  | .configWrite w => Sys2Proof.Machine.execConfigWrite w s
  | .pdelayReceive mac f => Sys2Proof.Machine.execPdelayReceive mac f s

end Sys2Proof.Machine
end

