-- ==== Sys2Proof/Safety.lean ====
section
/-! DEFINITION. The words in which claims are stated: the invariant of the two memories, and what an operation leaves
unchanged. -/

namespace Sys2Proof.Machine

/-- The banks and the ruling store are in canonical form: indexes rise strictly and no listed word is what a fill
writes. -/
def State.Inv (s : State) : Prop := Memory.wf s.mem = true ∧ Memory.storeWf s.rul.store = true

/-- A run is safe while the invariant holds and no meaning stops it. -/
def Safe (o : Host.Outcome State Fault Refusal) : Prop := ∃ t, o = .next t ∧ t.Inv

/-- Nothing but the records of the listed pens differs: not another pen, not a word of a bank, not another block. -/
def OnlyPens (l : List Nat) (s t : State) : Prop := { t with pens := s.pens } = s ∧ ∀ q, q ∉ l → t.pen q = s.pen q

/-- No stored word differs, in the banks or in the ruling store. -/
def SameMemory (s t : State) : Prop :=
  (∀ a, t.peekCode a = s.peekCode a) ∧ ∀ i, t.storePayload i = s.storePayload i

/-- What a pen shows of its registers is `w` in register `rd`, unless that is W0, and is otherwise as on `x`. -/
def Pen.RegsAfter (x y : Pen) (rd : Reg) (w : TWord) : Prop :=
  ∀ k, y.getB k = if rd ≠ 0 ∧ k = x.bank rd.val then w else x.getB k

/-- Every status bit above the flags is as on `x`. -/
def Pen.SameControl (x y : Pen) : Prop := ∀ i, 4 ≤ i → bitAt y.status i = bitAt x.status i

/-- All but the registers, the flags, the program counter, late results and the pair is as on `x`. -/
def Pen.SameRest (x y : Pen) : Prop :=
  { y with
    regs := x.regs, spTask := x.spTask, spExec := x.spExec, status := x.status, pc := x.pc, late := x.late
    pair := x.pair } = x

/-- The run of a pen, but for the pages that it has written as a SOLO run (R113), is as on `x`. -/
def Pen.SameRun (x y : Pen) : Prop :=
  y.run.map (fun r => { r with wrote := [] }) = x.run.map (fun r => { r with wrote := [] })

/-- The pen goes on at an address: its fetch buffer is flushed (R190); the rest is as after an instruction. -/
def Pen.Jumped (x y : Pen) (pc : Word) : Prop := y.pc = pc ∧ y.fbuf = none ∧ x.SameRest { y with fbuf := x.fbuf }

/-- No pen but `p` differs, except that a JOINED run's write may mark the TLB entries of the other pen too. -/
def State.OtherPens (s t : State) (p : Nat) : Prop :=
  ∀ q, q ≠ p → t.pen q = if s.isJoined p = true ∧ q = otherOf p then { s.pen q with tlb := (t.pen q).tlb } else s.pen q

/-- The pen after an instruction that wrote `w` into `rd` and left the flags `f` (R163, R164): the next instruction
follows, and a load still on its way into `rd` is discarded (R145). `x` is the pen after issue. -/
def Pen.Wrote (x y : Pen) (rd : Reg) (w : TWord) (f : Flags) : Prop :=
  x.RegsAfter y rd w ∧ y.flags = f ∧ x.SameControl y ∧ y.pc = x.pc + 4 ∧
  y.late = x.late.filter (fun l => l.reg ≠ x.bank rd.val) ∧ x.SameRest y

/-- The issue of an instruction (R163): whether it is paired, and its pen. -/
def State.issuing (s : State) (i : Iss) (u : Uses) : Bool × Pen :=
  let x := s.pen i.pen.val
  (x.pairs i.second u, x.issue (x.pairs i.second u) u)

/-- An instruction issues in the state `s0`: its pen is ready, no unmasked interrupt comes before it at a pair boundary and
its fetch is served (R163, R201, R226); `s` is the state after the fetch, in which the pair stands as before. -/
def State.Issues (s0 s : State) (i : Iss) (u : Uses) : Prop :=
  s0.ready i.pen.val = true ∧ s0.admitted i.pen.val (s0.issuing i u).1 = some s ∧ (s.issuing i u).1 = (s0.issuing i u).1

/-- An instruction that cannot pair issues on pen `p`. -/
def State.IssuesAlone (s0 s : State) (p : Nat) : Prop := s0.ready p = true ∧ s0.admitted p false = some s

/-- The state right after an instruction has issued. -/
def State.issued (s : State) (i : Iss) (u : Uses) : State := s.setPen i.pen.val (s.issuing i u).2

/-- The exception that an instruction takes at its own address, from the state `t` (R224, R227). -/
def State.excFrom (s t : State) (i : Iss) (e : Exc) : State := (t.takeExc i.pen.val e).getD s

/-- An ALU instruction `c` that issues from the state `s0`, with its uses `u`, its destination and its operation `f`; `s` is
the state after its fetch. Where its operands pass, it answers the state in which `f`'s word is in `rd` and `f`'s flags, if
it writes any, in the status word, and nothing else has changed but the program counter. Where an operand fails, the pen
takes that exception. -/
def AluAt (c : Instr) (i : Iss) (u : Uses) (rd : Reg) (f : (Reg → TWord) → Except Exc AluOut) (s0 s : State) : Prop :=
  s0.Issues s i u →
    (∀ o, f ((s.issuing i u).2.read (s.issuing i u).1) = .ok o →
      ∃ t, exec c s0 = .next t ∧
        (s.issuing i u).2.Wrote (t.pen i.pen.val) rd o.1 (o.2.getD (s.issuing i u).2.flags) ∧ OnlyPens [i.pen.val] s t) ∧
    (∀ e, f ((s.issuing i u).2.read (s.issuing i u).1) = .error e →
      exec c s0 = .next (s0.excFrom (s.issued i u) i e))

/-- `AluAt` wherever the instruction issues. -/
def AluRow (c : Instr) (i : Iss) (u : Uses) (rd : Reg) (f : (Reg → TWord) → Except Exc AluOut) : Prop :=
  ∀ s0 s, AluAt c i u rd f s0 s

/-- The four flags of an arithmetic result. -/
def FlagsAre (w : Word) (c v : Prop) [Decidable c] [Decidable v] : Flags := mkFlags w.msb (w = 0) (decide c) (decide v)

/-- Only the program counter, the pair and what `f` resets differ. -/
def Pen.Advanced (x y : Pen) : Prop := y.pc = x.pc + 4 ∧ { y with pc := x.pc, pair := x.pair } = x

/-- `b` is the second source of an operation on `a`: what its register holds, or its immediate, sign-extended, with the tag
that `a`'s tag gives it (R138). -/
def SecondIs (a : TWord) (op : Src) (read : Reg → TWord) (b : TWord) : Prop :=
  match op with
  | .reg r => read r = b
  | .imm k => b.val = k.signExtend 64 ∧
      ((a.tag ∈ [Tag.int, Tag.ptr, Tag.cptr, Tag.time] ∧ b.tag = Tag.int) ∨
        (a.tag ∈ [Tag.uint, Tag.raw] ∧ b.tag = a.tag))

/-- The payload of a shift amount of an accepted tag. -/
def AmountIs (n : Amt) (read : Reg → TWord) (k : Nat) : Prop :=
  match n with
  | .imm i => k = i.toNat
  | .reg r => ((read r).tag = Tag.int ∨ (read r).tag = Tag.uint ∨ (read r).tag = Tag.raw) ∧ k = (read r).val.toNat

/-- The run that a context belongs to reads `w` clean at an address, and the odd pen of a JOINED run reads its own copy
clean. -/
def State.Holds (t : State) (c : Ctx) (cpa : Nat) (w : TWord) : Prop :=
  t.peek (ownCopy c.pen c.home cpa) = .clean w ∧
  (t.isJoined c.pen = true → isInk cpa = true → ∃ v, t.peek (ownCopy (otherOf c.pen) c.home cpa) = .clean v)

/-- A data read at `va` hits the TLB, lands in an inkwell that the run may read, or for an access whose fabric response has
come in a reservoir that it may read, meets no waiting store, and finds `w` clean. -/
def State.Serves (t : State) (c : Ctx) (r : Run) (fab : Bool) (va : Word) (w : TWord) : Prop :=
  ∃ e, t.xlat c va .read = .hit e ∧
    ((isInk (t.frameCpa c e va) = true ∧ inkPen (t.frameCpa c e va) = c.home ∧
        (r.mode = .duplex ∨ t.mirrored (t.frameCpa c e va) = true)) ∨
      (fab = true ∧ isRsv (t.frameCpa c e va) = true ∧ t.bankReady (t.frameCpa c e va) = true ∧
        ((t.rsvOf (rsvNum (t.frameCpa c e va))).owner = c.home ∨
          bitAt (t.rsvOf (rsvNum (t.frameCpa c e va))).grant c.home = true))) ∧
    (t.pen c.pen).sb = [] ∧ t.Holds c (t.frameCpa c e va) w

/-- A data write at `va` hits the TLB in an entry and lands at the inkwell word `cpa`, which the run may write: a page of
its own that is not versioned, or a page of its draft. -/
def State.Takes (t : State) (c : Ctx) (r : Run) (va : Word) (e : TlbEntry) (cpa : Nat) : Prop :=
  t.xlat c va .write = .hit e ∧ cpa = t.frameCpa c e va ∧ isInk cpa = true ∧ inkPen cpa = c.home ∧
    ((r.mode = .duplex ∧ t.mirrored cpa = false) ∨ (r.mode ≠ .duplex ∧ t.mirrored cpa = true)) ∧
    (e.kind ≠ .versioned ∨ c.drafts.contains e.slot = true)

/-- What an addressing mode leaves of its base register: the updated base, or the register as it was. -/
def Pen.BaseAfter (x y : Pen) (rb : Reg) (nb : Option Word) : Prop :=
  match nb with
  | some b => x.RegsAfter y rb (TWord.ptr b)
  | none => ∀ k, y.getB k = x.getB k

/-- The late results after a base update. -/
def Pen.lateAfter (x : Pen) (rb : Reg) (nb : Option Word) : List Late :=
  match nb with
  | some _ => x.late.filter (fun l => l.reg ≠ x.bank rb.val)
  | none => x.late

/-- The pen after a load: the base as the mode leaves it, and the loaded word on its way to `rt` (R145). -/
def Pen.Loaded (x y : Pen) (rt rb : Reg) (nb : Option Word) (w : TWord) : Prop :=
  x.BaseAfter y rb nb ∧ y.status = x.status ∧ y.pc = x.pc + 4 ∧
  y.late = x.lateAfter rb nb ++ (if rt = 0 then [] else [⟨x.bank rt.val, w, 0⟩]) ∧ x.SameRest y

/-- The pen after a store: its entry is the youngest in the store buffer. The TLB entry and the pages that a SOLO run has
written may be marked. -/
def Pen.Stored (x y : Pen) (rb : Reg) (nb : Option Word) (e : SbEntry) : Prop :=
  x.BaseAfter y rb nb ∧ y.status = x.status ∧ y.pc = x.pc + 4 ∧ y.late = x.lateAfter rb nb ∧ y.sb = x.sb ++ [e] ∧
  x.SameRun y ∧ x.SameRest { y with sb := x.sb, tlb := x.tlb, run := x.run }

/-- What LD needs besides its issue: `w` is the word that it loads; `s` is the state after its fetch. -/
def State.LoadGoes (s : State) (i : Iss) (rt rb : Reg) (m : AMode) (fab : Bool) (w : TWord) : Prop :=
  let u : Uses := ⟨.mem, rt :: rb :: modeRegs m, false⟩
  let x := s.issuing i u
  let t := s.issued i u
  let a := modeAddr m 8 (x.2.read x.1 rb).val (modeIdx m (x.2.read x.1))
  ∃ r, t.runs i.pen.val = some r ∧ (modeUpdates m = true → rt ≠ rb) ∧ checkAddr m rb (x.2.read x.1) = .ok () ∧
    bitsOf a.1 0 3 = 0 ∧ t.Serves (t.ctxOf i.pen.val r x.1) r fab a.1 w

/-- The pen as LD issues on it, and the base that LD's mode leaves. -/
def State.loadPen (s : State) (i : Iss) (rt rb : Reg) (m : AMode) : Pen :=
  (s.issuing i ⟨.mem, rt :: rb :: modeRegs m, false⟩).2
def State.loadBase (s : State) (i : Iss) (rt rb : Reg) (m : AMode) : Option Word :=
  let x := s.issuing i ⟨.mem, rt :: rb :: modeRegs m, false⟩
  (modeAddr m 8 (x.2.read x.1 rb).val (modeIdx m (x.2.read x.1))).2

/-- What ST needs besides its issue: it goes through the TLB entry `e` to the inkwell word `cpa`, and the store buffer has
room. -/
def State.StoreGoes (s : State) (i : Iss) (rt rb : Reg) (m : AMode) (r : Run) (e : TlbEntry) (cpa : Nat) :
    Prop :=
  let u : Uses := ⟨.mem, rt :: rb :: modeRegs m, false⟩
  let x := s.issuing i u
  let t := s.issued i u
  let a := modeAddr m 8 (x.2.read x.1 rb).val (modeIdx m (x.2.read x.1))
  t.runs i.pen.val = some r ∧ checkAddr m rb (x.2.read x.1) = .ok () ∧ bitsOf a.1 0 3 = 0 ∧
    t.Takes (t.ctxOf i.pen.val r x.1) r a.1 e cpa ∧ x.2.sbUsed + 1 ≤ 4

/-- What ST leaves: its word in the store buffer, and in memory at most the D bits of the page's leaf words. -/
def State.StoreLeaves (s v : State) (i : Iss) (rt rb : Reg) (m : AMode) (r : Run) (e : TlbEntry) (cpa : Nat) : Prop :=
  let u : Uses := ⟨.mem, rt :: rb :: modeRegs m, false⟩
  let x := s.issuing i u
  let t := s.issued i u
  x.2.Stored (v.pen i.pen.val) rb (s.loadBase i rt rb m)
      { halves := [⟨cpa, true, 0xFF, x.2.read x.1 rt⟩], slot := if e.kind = .versioned then some e.slot else none } ∧
    { v with mem := s.mem, pens := s.pens } = s ∧ s.OtherPens v i.pen.val ∧
    (∀ b, (∀ l ∈ t.runCopies i.pen.val r.home e.leaf1 ++ t.runCopies i.pen.val r.home e.leaf2, b / 8 ≠ l / 8) →
      v.peekCode b = s.peekCode b) ∧
    (e.d1 = true → e.d2 = true → ∀ b, v.peekCode b = s.peekCode b)

/-- Pen `p` can enter the handler `h` of a vector: what was in flight is done, the store buffer is empty, the stack passes
its check on two resident pages that are not versioned and have D set, and the vector word is good. -/
def State.CanEnter (s : State) (p : Nat) (r : Run) (vector : Nat) (h : Word) (lo hi : TlbEntry) : Prop :=
  let t := s.modPen p Pen.complete
  s.runs p = some r ∧ r.mode ≠ .joined ∧ (s.pen p).sb = [] ∧ t.flySpent p r.part 16 = false ∧
    t.stackCheck p r = (.good lo hi, t) ∧ t.readVector p vector = (some h, t) ∧
    lo.kind ≠ .versioned ∧ hi.kind ≠ .versioned ∧ lo.d1 = true ∧ lo.d2 = true ∧ hi.d1 = true ∧ hi.d2 = true

/-- Pen `p` has entered the handler `h` for the cause `e` at a level (R148, R225 to R231): the frame with the return
address and the saved status word waits in the store buffer below EXEC W31, and nothing but the named fields of the pen
differs. -/
def State.Entered (s v : State) (p : Nat) (r : Run) (e : Exc) (level : Nat) (ret : Word) (rs : Bool) (h : Word)
    (lo hi : TlbEntry) : Prop :=
  let t := s.modPen p Pen.complete
  let x := (s.pen p).complete
  let y := v.pen p
  let sp := x.spExec.val
  let c := t.pushCtx p r
  y.pc = h ∧ y.fbuf = none ∧ y.spExec = TWord.ptr (sp - 16) ∧
    y.sb = [⟨[⟨t.frameCpa c hi (sp - 8), true, 0xFF, TWord.cptr ret⟩], none⟩,
            ⟨[⟨t.frameCpa c lo (sp - 16), true, 0xFF, TWord.status (setBit x.status 9 rs)⟩], none⟩] ∧
    bitAt y.status 8 = true ∧ bitAt y.status 9 = false ∧ bitAt y.status 10 = false ∧
    bitsOf y.status 4 3 = min 7 (level + 1) ∧ y.flags = x.flags ∧
    y.syn = synWord e.vector level (e.level < level) e ∧ y.synAddr = e.addr ∧
    y.excCnt = satInc 0xFFFFFFFF x.excCnt ∧ y.hold = .none ∧ y.late = [] ∧ y.mul = none ∧
    y.regs = x.regs ∧ y.spTask = x.spTask ∧ y.sealed = x.sealed ∧ y.ipiPend = x.ipiPend ∧ OnlyPens [p] s v

/-- Bytes `n` from a virtual address, least significant first, of a memory whose word at an aligned address is `f`. -/
def bytesAt (f : Word → Word) (va : Word) (n : Nat) : Nat :=
  let o := bitsOf va 0 3
  let base := va - BitVec.ofNat 64 o
  ((f base).toNat + (f (base + 8)).toNat * 2 ^ 64) / 2 ^ (8 * o) % 2 ^ (8 * n)

/-- Queue `q` has one more status entry (R333) after the other writes `pre`; `c` is its context as it then stands, but for the
status tail and the moderation count (R340), and `folio` the number of the folio that it names. Nothing but the queue
tables, the arbiter's account of link time (R341) and the record of writes has changed, apart from what the caller names. -/
def State.StatusPosted (s t : State) (pre : List Out) (q : Nat) (c : Queue) (status len idx entries msgSeq : Nat)
    (folio : Word) : Prop :=
  let addr := c.sBase + c.sTail % c.sSize * 16
  (∃ w0 w1 : Word, t.out = s.out ++ pre ++ [.hostWrite addr [w0, w1] (s.ideStream addr)] ∧
    bitsOf w0 0 19 = len % 2 ^ 19 ∧ bitsOf w0 20 4 = status ∧ bitsOf w0 24 16 = idx % 65536 ∧
    bitsOf w0 40 16 = entries % 65536 ∧ bitAt w0 63 = decide (c.sTail / c.sSize % 2 = 0) ∧
    bitsOf w1 0 48 = folio.toNat % 2 ^ 48 ∧ bitsOf w1 48 16 = msgSeq % 65536) ∧
  t.queue q = { c with
    sTail := (c.sTail + 1) % 65536
    mod := c.mod + 1
    modAt := if c.mod = 0 then s.aon.time else c.modAt } ∧
  (∀ j, j ≠ q → t.queue j = s.queue j) ∧ { t.hif with qps := s.hif.qps, arb := s.hif.arb } = s.hif

/-- What MSI-X makes of a request for vector `v` (R339): nothing while disabled; pending while masked; a fault for an address
that cannot be reached; else a message, if the link can carry it. -/
def State.MsixAsked (s : State) (v : Nat) (o : Host.Outcome State Fault Refusal) : Prop :=
  let e := s.msixOf v
  let masked := s.hif.funcMask = true ∨ e.ctrl.getLsbD 0 = true
  ∃ u, o = .next u ∧
    (s.hif.msixEn = false → u = s) ∧
    (s.hif.msixEn = true → masked → u.msixOf v = { e with pend := true } ∧
      (∀ j, j ≠ v → u.msixOf j = s.msixOf j) ∧ { u with hif := { u.hif with msix := s.hif.msix } } = s) ∧
    (s.hif.msixEn = true → ¬masked → 0xF00000000000 ≤ e.addr.toNat → u = s.raise { cls := 0x65 }) ∧
    (s.hif.msixEn = true → ¬masked → e.addr.toNat < 0xF00000000000 →
      u = if s.linkOk = true then { s with out := s.out ++ [.msix v] } else s)

/-- An error is logged under AER (R326): the first one keeps its TLP's header and prefix, which are free values. -/
def State.AerNoted (s t : State) (e : AerError) : Prop :=
  { t with free := s.free, hif := { t.hif with aer := s.hif.aer } } = s ∧
  (∀ x, x ∈ t.hif.aer.logged ↔ x ∈ s.hif.aer.logged ∨ x = e) ∧
  t.hif.aer.first = if s.hif.aer.first.isSome = true then s.hif.aer.first else some e

/-- The mailbox `m` has finished with a code and result words (R350, R354), and left the queue of commands; nothing else has
changed. -/
def State.Answered (s t : State) (m code : Nat) (res : List Word) : Prop :=
  let b := s.mbox m
  { t.mbox m with res := b.res } = { b with st := .done, code := code, tokenR := b.token } ∧
  (∀ i, Table.get (fun _ => 0) (t.mbox m).res i = res.getD i 0) ∧ (∀ j, j ≠ m → t.mbox j = s.mbox j) ∧
  t.huv.foreQ = s.huv.foreQ.filter (· ≠ m) ∧ { t.huv with mb := s.huv.mb, foreQ := s.huv.foreQ } = s.huv ∧
  { t with huv := s.huv } = s

/-- The command of mailbox `m` ends from the state `s` on: it is answered, and MSI-X vector 0 is requested (R350). -/
def State.Ends (s : State) (m code : Nat) (res : List Word) (o : Host.Outcome State Fault Refusal) : Prop :=
  ∃ t, s.Answered t m code res ∧ t.MsixAsked 0 o

/-- Nothing but the record of one MAC differs. -/
def OnlyMac (m : Nat) (s t : State) : Prop := { t with macs := s.macs } = s ∧ ∀ j, j ≠ m → t.mac j = s.mac j

/-- A measurement of the counter against its source gives the offset `off` (R33, R34): it is recorded, holdover ends, the rate
turns against it, at the full permitted rate beyond the limit, and beyond the limit in RUN the fault is raised. How fast
the counter is slewed below the limit is the model's free value (assumption log 79). -/
def State.Measures (s : State) (off : Int) (o : Host.Outcome State Fault Refusal) : Prop :=
  let far := s.folio.stepLim < off.natAbs
  let full : Int := 1000 * s.folio.maxPpm
  let bad := far ∧ s.dev = .run
  ∃ t : State, o = .next (if bad then t.raise { cls := 0x40 } else t) ∧
    t.folio = { s.folio with
      offset := BitVec.ofInt 64 off, synced := decide (¬far), holdover := false
      event := if bad then s.folio.event ||| 8 else s.folio.event } ∧
    (0 < off → -full ≤ t.aon.steer ∧ t.aon.steer ≤ 0 ∧ (far → t.aon.steer = -full)) ∧
    (off < 0 → 0 ≤ t.aon.steer ∧ t.aon.steer ≤ full ∧ (far → t.aon.steer = full)) ∧
    (off = 0 → t.aon.steer = max (-full) (min full s.aon.steer)) ∧
    { t.aon with steer := s.aon.steer } = s.aon ∧ { t with aon := s.aon, folio := s.folio } = s

/-- Mailbox `m` holds the next foreground command, of opcode `op`, in a device state in which it runs (R352, R359). -/
def State.Begins (s : State) (m : MbN) (op : Nat) : Prop := s.cmdDue m.val op = true ∧ permits op s.dev = true

/-- The Huvas works on the abortable command of opcode `op` in mailbox `m`, with `done` steps behind it: it is the next, or goes
on where it stands (R351, R352). -/
def State.Works (s : State) (m : MbN) (op done : Nat) : Prop :=
  permits op s.dev = true ∧
    ((s.cmdDue m.val op = true ∧ s.huv.prog = none ∧ done = 0) ∨ (s.cmdGoes m.val op = true ∧ s.huv.prog = some (m.val, done)))

/-- `s` with no command part done. -/
def State.unpaused (s : State) : State := { s with huv := { s.huv with prog := none } }

/-- Mailbox `m` is RUNNING with `n` steps done (R351); nothing else differs. -/
def State.NowHeld (s t : State) (m : MbN) (n : Nat) : Prop :=
  t.mbox m.val = { s.mbox m.val with st := .running } ∧ (∀ j, j ≠ m.val → t.mbox j = s.mbox j) ∧
  { t with huv := { t.huv with mb := s.huv.mb } } = { s with huv := { s.huv with prog := some (m.val, n) } }

/-- A running command of mailbox `m` stops between its steps (R351, R353) and ends with `code`: the slot of a RULING_LOAD is
EMPTY, a slot that was being verified is LOADED, what it did else stays. -/
def State.StopsCmd (s : State) (m code : Nat) (o : Host.Outcome State Fault Refusal) : Prop :=
  let k := bitsOf (s.arg m 0) 0 4
  let op := (s.mbox m).curOp
  ∃ u : State, u.Ends m code [] o ∧ { u with huv := s.huv, rul := s.rul } = s ∧
    u.huv = { s.huv with prog := if s.huv.prog.any (fun p => p.1 = m) = true then none else s.huv.prog } ∧
    { u.rul with slots := s.rul.slots } = s.rul ∧ (∀ j, j ≠ k → u.slotOf j = s.slotOf j) ∧
    u.slotOf k = if op = 0x30 then {} else if op = 0x31 ∧ (s.slotOf k).st = .verified
      then { s.slotOf k with st := .loaded } else s.slotOf k

/-- The argument words that a mailbox latched (R350). -/
def State.Args (s : State) (m : MbN) (a : List Word) : Prop := ∀ i, i < a.length → s.arg m.val i = a.getD i 0

/-- The part can write to host memory. -/
def State.hostWritable (s : State) : Prop := s.hif.busMaster = true ∧ s.hif.up = true

/-- Mailbox `m` is RUNNING and `w` waits for its tick; nothing else differs. -/
def State.NowWaits (s t : State) (m : MbN) (w : Waiting) : Prop :=
  t.mbox m.val = { s.mbox m.val with st := .running } ∧ (∀ j, j ≠ m.val → t.mbox j = s.mbox j) ∧
  { t with huv := { t.huv with mb := s.huv.mb } } = { s with huv := { s.huv with waiting := s.huv.waiting ++ [w] } }

/-- Mailbox `m` is RUNNING in the background (R352); nothing else differs. -/
def State.NowRuns (s t : State) (m : MbN) : Prop :=
  t.mbox m.val = { s.mbox m.val with st := .running } ∧ (∀ j, j ≠ m.val → t.mbox j = s.mbox j) ∧
  { t with huv := { t.huv with mb := s.huv.mb } } =
    { s with huv := { s.huv with foreQ := s.huv.foreQ.filter (· ≠ m.val) } }

/-- The mailbox and the opcode of a command row. -/
def commandOf : Instr → Option (MbN × Nat)
  | .identify m => some (m, 0x01) | .fwLoad m _ _ _ _ => some (m, 0x02) | .timeConfig m => some (m, 0x10)
  | .memLoad m _ _ => some (m, 0x20) | .memRead m _ _ => some (m, 0x21) | .vslotSet m _ => some (m, 0x22)
  | .partSetup m => some (m, 0x23) | .mirrorSet m => some (m, 0x24) | .lslotSet m => some (m, 0x25)
  | .seqSel m => some (m, 0x26) | .rulingLoad m _ _ => some (m, 0x30) | .rulingVerify m _ => some (m, 0x31)
  | .rulingUnload m => some (m, 0x32) | .activate m => some (m, 0x33) | .switchArm m => some (m, 0x34)
  | .quiesce m => some (m, 0x35) | .rubricSet m _ => some (m, 0x40) | .eventRead m _ _ => some (m, 0x41)
  | .bankHandover m => some (m, 0x50) | .scrub m => some (m, 0x51) | .march m => some (m, 0x52)
  | .marginRead m _ => some (m, 0x53) | .checkerTest m _ => some (m, 0x54) | .queueSet m => some (m, 0x60)
  | .shareSet m => some (m, 0x61) | .tracePair m => some (m, 0x70) | .traceDetach m => some (m, 0x71)
  | .takeover m => some (m, 0x72) | .penControl m => some (m, 0x80) | .power m => some (m, 0x81)
  | .dormant m => some (m, 0x82) | .superviseSet m => some (m, 0x83) | .debugEnable m => some (m, 0x90)
  | _ => none

/-- A record that a paired part accepts (R307, R310, R311): its header and data checks hold, it is the next in sequence, its
configuration digest is the part's own and its sender is not in DEBUG. A window of the part's own whose last record is due
has ended first. -/
def AcceptedRecord (s : State) (type : Nat) (r : List Word) : Prop :=
  let a := s.sendDue
  s.paired = true ∧ s.trc.ignore = false ∧ s.dev ≠ .safe ∧ s.dev ≠ .debug ∧ s.hif.up = true ∧ headerOk type r = true ∧
  rawSeq r = a.trc.rxSeq ∧ rawCfg r = a.cfgDigest ∧ rawDebug r = false ∧ dataOk type r = true

/-- A record of time `time` waits for INPUT channel `di` (R390): past the next tick, and counted, where that is 320 cyc or less
away; where its time is a tick instant, past that tick. Nothing else of the feed differs. -/
def State.Awaits (s t : State) (di time : Nat) (body : RxBody) : Prop :=
  let next := s.tickAtOrAfter (time + 1)
  let late := 3 * (next - time) ≤ 640
  t.feed = { s.feed with
    rxq := s.feed.rxq ++ [⟨di, BitVec.ofNat 64 time,
      BitVec.ofNat 64 (if late then next else if s.tickAtOrAfter time = time then time else 0), body⟩]
    rxBand := if late then satInc 0xFFFFFFFF s.feed.rxBand else s.feed.rxBand }

/-- A block instruction works on pen `p` from the state `t` with `d` words done (R181): it issues, or goes on from the sampling
point or hold where it stands, where no unmasked interrupt is pending. -/
def State.BlockGoes (s t : State) (p : Nat) (u : Uses) (c : Instr) (d : Nat) : Prop :=
  (s.pen p).blkDone = d ∧
    ((d = 0 ∧ ∃ a, s.IssuesAlone a p ∧ t = a.modPen p (fun x => x.issue false u)) ∨
     (d ≠ 0 ∧ (s.runs p).isSome = true ∧ (s.pen p).hold = .block c ∧ (s.pen p).irqLevel = none ∧
       t = s.modPen p (fun x => { x with hold := .none })))

/-- The pen after a block instruction `c` that leaves `a` in `ra`, `b` in `rb` and the count `n` in `rc`, ended, or at its
next sampling point with `d` words done. -/
def BlockLeaves (x y : Pen) (c : Instr) (pause : Bool) (d : Nat) (ra rb rc : Reg) (a b : TWord) (n : Nat) : Prop :=
  (∀ k, y.getB k = if k = x.bank ra.val then a else if k = x.bank rb.val then b
    else if k = x.bank rc.val then TWord.uint (BitVec.ofNat 64 n) else x.getB k) ∧
  x.SameControl y ∧ x.SameRun y ∧
  x.SameRest { y with hold := x.hold, blkDone := x.blkDone, sb := x.sb, tlb := x.tlb, run := x.run } ∧
  (if pause = true then y.pc = x.pc ∧ y.hold = .block c ∧ y.blkDone = d else y.pc = x.pc + 4 ∧ y.hold = .none ∧ y.blkDone = 0)

/-- The fault registers of a pen after a fault (R121). -/
def FaultNoted (s t : State) (p cause groups line : Nat) : Prop :=
  let y := t.pen p
  y.faultFolio = s.folio.number ∧ bitsOf y.faultInfo 0 8 = cause ∧ bitsOf y.faultInfo 8 8 = groups ∧
    bitsOf y.faultInfo 16 28 = s.folioCyc % 2 ^ 28 ∧ bitsOf y.faultInfo 44 15 = line % 2 ^ 15 ∧
    bitAt y.faultInfo 63 = true ∧ y.faultCnt = satInc 0xFFFFFFFF (s.pen p).faultCnt

/-- A report on a pen names a cause of R103 and its groups. A divergence is INJECTED where it is the one that is armed on an
IDLE pen in LOADED, or in the tests of BOOT (R123). -/
def State.Reports (s : State) (p : Nat) (rep : PenReport) (cause groups : Nat) : Prop :=
  match rep with
  | .diverge g => g ≠ 0 ∧ groups = g.toNat ∧
      (if (s.pen p).st = .idle ∧ (s.dev = .loaded ∨ s.dev = .boot ∧ s.huv.testing = true) ∧
          bitAt (s.pen p).inject 8 = true ∧ g.toNat = 2 ^ bitsOf (s.pen p).inject 0 3 then cause = 6 else cause = 1)
  | .comparatorSelf => cause = 2 ∧ groups = 0
  | .fabricCrc => cause = 3 ∧ groups = 0

/-- The cycle at which a pen that stops now in RUN or SAFE is handed to the blotter (R83, R110): 64 cyc later, or at the end of
the window of its ligature run. -/
def State.handedAt (s : State) (p : Nat) : Nat :=
  if s.folio.running = true ∧ s.folioCyc < (s.pen p).ligEnd then s.folio.tickCyc + (s.pen p).ligEnd else s.cyc + 64

/-- Both pens of a pair stop in one cycle and their JOINED run is killed (R109): its drafts return to FAIR, the copies stay
equal, and each pen notes its own cause and groups. -/
def State.BothStopped (s t : State) (e : Nat) (r : Run) (a b : Nat × Nat) : Prop :=
  { t with pens := s.pens, vt := s.vt } = { s with
    ipiFly := s.ipiFly.filter (fun f => (f.src ≠ e ∧ f.src ≠ e + 1) ∨ f.since + 3 < s.cyc) } ∧
  (∀ q, q ≠ e → q ≠ e + 1 → t.pen q = s.pen q) ∧
  (∀ n, t.vslot n = if n ∈ r.drafts then { s.vslot n with st := .fair, feedDraft := false, drafter := 0 } else s.vslot n) ∧
  (t.pen e).mirror = (s.pen e).mirror ∧
  FaultNoted s t e a.1 a.2 r.line ∧ FaultNoted s t (e + 1) b.1 b.2 r.line ∧
  ∀ q ∈ [e, e + 1], (t.pen q).st = .stopped ∧ (t.pen q).run = none ∧ (t.pen q).handAt = some (s.handedAt q)

/-- A pen at the first cycle of a run (R43). -/
def StartState (s : State) (l : RLine) (line : Nat) (y : Pen) : Prop :=
  y.getB 1 = TWord.uint (BitVec.ofNat 64 l.task) ∧ y.getB 2 = TWord.uint (BitVec.ofNat 64 line) ∧
  y.getB 3 = TWord.time s.folio.tickTime ∧ y.getB 4 = TWord.uint s.folio.number ∧
  (∀ k, 5 ≤ k → y.getB k = TWord.uninit) ∧
  y.lfsr = BitVec.ofNat 16 l.seed ∧ (∀ e ∈ y.tlb, e.2.locked = true) ∧ bitAt y.status 8 = true ∧
  y.status = BitVec.ofNat 64 (256 + bitsOf (s.pxWord l.part 0) 48 3 * 16) ∧ y.pc = s.pxWord l.part 3

/-- In this cycle no run is LATE and no window closes (R51, steps 2 and 3). -/
def State.NothingEnds (s : State) : Prop :=
  (∀ p r, p < 64 → (s.pen p).st = .run → (s.pen p).run = some r → r.linend = none → r.winEnd ≠ s.folioCyc) ∧
  ∀ w ∈ s.folio.wins, w.start + w.len ≠ s.folioCyc

/-- Line `i` is played in this cycle: after the boundary actions of R51 its words have been read, in the state `u`. -/
def State.Plays (s : State) (i : Nat) (l : RLine) (u : State) : Prop := s.boundary.readLine i = (some l, u)

/-- Owner and grant of reservoir `r` after the handover list of a line whose run is on pen `p` (R45, R46). -/
def handedOver (hs : List Handover) (linePen p r : Nat) (x : Nat × Word) : Nat × Word :=
  (hs.filter (fun h => h.rsv = r)).foldl (fun y h =>
    let q := if h.pen = linePen then p else h.pen
    if h.action = 0 then (p, y.2) else if h.action = 1 then (q, y.2)
    else if h.action = 2 then (y.1, setBit y.2 q true) else (y.1, setBit y.2 q false)) x

/-- A DUPLEX run as it starts (R43, R52). -/
def startedRun (line part home start budget : Nat) (recovery : Bool) : Run :=
  { line := line, part := part, home := home, start := start, budget := budget, winEnd := start + budget, recovery := recovery }

end Sys2Proof.Machine
end

