-- ==== Sys2Proof/Certificates/Slice0/Obligations.lean ====
section
/-! DEFINITION. The statements about the model: what each command does where it completes, what it leaves unchanged, and the
invariants that every step keeps. -/

open Sys2Proof Sys2Proof.Machine

/-! ## Commands and steps -/

/-- The command at the front of the queue is what a step carries out, with the rest of the queue left waiting. -/
def Obligations.StepRunsFrontCommand : Prop :=
  ∀ (s : State) (c : Instr) (cs : List Instr),
    (s.pending = c :: cs → step s = exec c { s with pending := cs }) ∧
    step { s with pending := c :: s.pending } = exec c s

/-- With nothing waiting, one unit of time passes (the model's choice, assumption log 2): in BOOT, LOADED, RUN and SAFE,
FILL and DEBUG one core cycle, by which the counter gains 2863311531/2^32 ns at no steering, and nothing else changes
while no request is to have arrived (R211).
Where the manual leaves a choice, the statement rests on the model's own: assumption log 2, 74, 75, 119. -/
def Obligations.IdleStepPassesCycle : Prop :=
  ∀ s : State, s.pending = [] → s.dev ≠ .off → s.dev ≠ .dormant → s.aon.steer = 0 →
    (∀ f ∈ s.flight, s.cyc + 1 < f.since + 6 * hops f.pen f.cpa) →
    ∃ t, step s = .next t ∧ t.cyc = s.cyc + 1 ∧
      t.aon.time = s.aon.time + BitVec.ofNat 64 ((s.aon.frac + 2863311531) / 2 ^ 32) ∧
      t.aon.frac = (s.aon.frac + 2863311531) % 2 ^ 32 ∧
      { t with cyc := s.cyc, aon := { t.aon with time := s.aon.time, frac := s.aon.frac } } = s

/-- Every command is carried out: none ends in a fault or a refusal, in any state.
Where the manual leaves a choice, the statement rests on the model's own: assumption log 1. -/
def Obligations.EveryCommandAnswers : Prop :=
  ∀ (c : Instr) (s : State), ∃ t, exec c s = .next t

/-- The memories stay canonical: a step from a state whose banks and ruling store are in canonical form leaves them so. -/
def Obligations.StepKeepsMemoryCanonical : Prop :=
  ∀ s t : State, s.Inv → step s = .next t → t.Inv

/-- The machine after reset has its memories in canonical form, with nothing listed. -/
def Obligations.ResetMemoryCanonical : Prop :=
  State.reset.Inv ∧ State.reset.mem = [] ∧ State.reset.rul.store = [] ∧ State.reset.pending = []

/-- No command touches the queue of waiting commands; only a step takes from it. -/
def Obligations.CommandsLeaveQueue : Prop :=
  ∀ (c : Instr) (s t : State), s.Inv → exec c s = .next t → t.pending = s.pending

/-! ## Stored words (R283 to R285) -/

/-- The code of a stored word (R283 to R285): a word that was not disturbed reads back clean, whatever its fold, tag and
payload; any one inverted bit, data or check, is corrected; any two are found and never corrected; a word read at an
address of the other fold is refused as ADDRESS. A store changes its own word of the banks and no other. -/
def Obligations.StoredWordsAreProtected : Prop :=
  (∀ (fold : Bool) (w : TWord), judge fold (encodeCode fold w) = .clean w) ∧
  (∀ (fold : Bool) (w : TWord) (i : Fin 76),
     ∃ syn, judge fold (encodeCode fold w ^^^ BitVec.ofNat 76 (2 ^ i.val)) = .corrected w syn ∧ syn ≠ 0) ∧
  (∀ (fold : Bool) (w : TWord) (i j : Fin 76), i ≠ j →
     ∃ syn, judge fold (encodeCode fold w ^^^ BitVec.ofNat 76 (2 ^ i.val) ^^^ BitVec.ofNat 76 (2 ^ j.val)) =
       .uncorrectable syn) ∧
  (∀ (fold : Bool) (w : TWord), judge (!fold) (encodeCode fold w) = .address) ∧
  (∀ (s : State) (a b : Nat) (w : TWord),
     (s.poke a w).peek a = .clean w ∧ (b / 8 ≠ a / 8 → (s.poke a w).peek b = s.peek b) ∧
     (s.Inv → (s.poke a w).Inv) ∧ { s.poke a w with mem := s.mem } = s)

/-! ## Arithmetic and logic -/

/-- ADD, ADDT, SUB, SUBT, NEG, NEGT, AND, OR, XOR, the four shifts, CLZ, BFX, BFI, PERM, TAG, TAGOF and POISON complete wherever
their operands pass, and change only the destination, the flags they write and the program counter; an operand that fails
has its exception taken. A bit field that leaves the word is an illegal encoding (R173). -/
def Obligations.AluInstructionsComplete : Prop :=
  (∀ (i : Iss) (rd ra : Reg) (b : Src),
     AluRow (.add i rd ra b) i (useAlu (rd :: ra :: srcRegs b) true) rd (fun read => aluAdd (read ra) b read) ∧
     AluRow (.addt i rd ra b) i (useAlu (rd :: ra :: srcRegs b) true) rd (fun read => aluAddt (read ra) b read) ∧
     AluRow (.sub i rd ra b) i (useAlu (rd :: ra :: srcRegs b) true) rd (fun read => aluSub (read ra) b read) ∧
     AluRow (.subt i rd ra b) i (useAlu (rd :: ra :: srcRegs b) true) rd (fun read => aluSubt (read ra) b read) ∧
     AluRow (.neg i rd ra) i (useAlu [rd, ra] true) rd (fun read => aluNeg false (read ra)) ∧
     AluRow (.negt i rd ra) i (useAlu [rd, ra] true) rd (fun read => aluNeg true (read ra))) ∧
  (∀ (i : Iss) (rd ra rb : Reg) (b : Src) (a : Amt) (pos len1 : BitVec 6),
     AluRow (.and i rd ra b) i (useAlu (rd :: ra :: srcRegs b) true) rd (fun read => aluAnd (read ra) b read) ∧
     AluRow (.or i rd ra b) i (useAlu (rd :: ra :: srcRegs b) (b ≠ .reg 0)) rd (fun read => aluOr (read ra) b read) ∧
     AluRow (.xor i rd ra b) i (useAlu (rd :: ra :: srcRegs b) true) rd (fun read => aluXor (read ra) b read) ∧
     AluRow (.shl i rd ra a) i (useAlu (rd :: ra :: amtRegs a) true) rd
       (fun read => aluShift arithTags shlOf (read ra) a read) ∧
     AluRow (.shr i rd ra a) i (useAlu (rd :: ra :: amtRegs a) true) rd
       (fun read => aluShift bitTags shrOf (read ra) a read) ∧
     AluRow (.sar i rd ra a) i (useAlu (rd :: ra :: amtRegs a) true) rd
       (fun read => aluShift arithTags sarOf (read ra) a read) ∧
     AluRow (.rol i rd ra a) i (useAlu (rd :: ra :: amtRegs a) true) rd
       (fun read => aluShift bitTags rolOf (read ra) a read) ∧
     AluRow (.clz i rd ra) i (useAlu [rd, ra] true) rd (fun read => aluClz (read ra)) ∧
     (64 < pos.toNat + len1.toNat + 1 →
       AluRow (.bfx i rd ra pos len1) i (useAlu [rd, ra] true) rd (fun _ => .error (excIllegal 3)) ∧
       AluRow (.bfi i rd ra pos len1) i (useAlu [rd, ra] true) rd (fun _ => .error (excIllegal 3))) ∧
     (pos.toNat + len1.toNat + 1 ≤ 64 →
       AluRow (.bfx i rd ra pos len1) i (useAlu [rd, ra] true) rd (fun read => aluBfx pos.toNat (len1.toNat + 1) (read ra)) ∧
       AluRow (.bfi i rd ra pos len1) i (useAlu [rd, ra] true) rd
         (fun read => aluBfi pos.toNat (len1.toNat + 1) (read ra) (read rd))) ∧
     AluRow (.perm i rd ra rb) i (useAlu [rd, ra, rb] true) rd (fun read => aluPerm (read ra) (read rb))) ∧
  (∀ (i : Iss) (rd ra : Reg) (t : Tag),
     (∀ s0 s : State, AluAt (.tag i rd ra t) i (useAlu [rd, ra] false) rd
       (fun read => aluTag (!(s.pen i.pen.val).task) t (read ra)) s0 s) ∧
     AluRow (.tagof i rd ra) i (useAlu [rd, ra] false) rd
       (fun read => .ok (TWord.uint (BitVec.ofNat 64 (read ra).tag.toNat), none)) ∧
     AluRow (.poison i rd) i (useAlu [rd] false) rd (fun read => .ok (⟨Tag.poison, (read rd).val⟩, none)))

/-- The additive operations (R136): result tags, C and V, the overflow fault of the T forms, and wrapping. `a` is the
first operand, `b` what the second register holds or what the immediate stands for (R138). -/
def Obligations.AdditiveTable : Prop :=
  ∀ (a b : TWord) (op : Src) (read : Reg → TWord), SecondIs a op read b →
    let mixed (u i : Word) : Int := (u.toNat : Int) + i.toInt
    let apart (u i : Word) : Int := (u.toNat : Int) - i.toInt
    let out (x : Int) : Prop := ¬(0 ≤ x ∧ x < 2 ^ 64)
    let add (t : Tag) (c : Prop) [Decidable c] : AluOut :=
      (⟨t, a.val + b.val⟩, some (FlagsAre (a.val + b.val) c (a.val.saddOverflow b.val = true)))
    let sub (t : Tag) (c : Prop) [Decidable c] : AluOut :=
      (⟨t, a.val - b.val⟩, some (FlagsAre (a.val - b.val) c (a.val.ssubOverflow b.val = true)))
    ((a.tag = b.tag ∧ (a.tag = Tag.int ∨ a.tag = Tag.uint ∨ a.tag = Tag.fixq ∨ a.tag = Tag.raw)) →
      aluAdd a op read = .ok (add a.tag (a.val.uaddOverflow b.val = true)) ∧
      aluSub a op read = .ok (sub a.tag (a.val.usubOverflow b.val = true))) ∧
    ((a.tag = b.tag ∧ (a.tag = Tag.int ∨ a.tag = Tag.fixq)) →
      (aluAddt a op read = if a.val.saddOverflow b.val then .error excOverflow else aluAdd a op read) ∧
      (aluSubt a op read = if a.val.ssubOverflow b.val then .error excOverflow else aluSub a op read)) ∧
    ((a.tag = Tag.uint ∧ b.tag = Tag.uint) →
      (aluAddt a op read = if a.val.uaddOverflow b.val then .error excOverflow else aluAdd a op read) ∧
      (aluSubt a op read = if a.val.usubOverflow b.val then .error excOverflow else aluSub a op read)) ∧
    ((a.tag = Tag.raw ∧ b.tag = Tag.raw) →
      aluAddt a op read = .error (excTag tdMismatch 0) ∧ aluSubt a op read = .error (excTag tdMismatch 0)) ∧
    (((a.tag = Tag.ptr ∨ a.tag = Tag.cptr ∨ a.tag = Tag.time) ∧ b.tag = Tag.int) →
      aluAdd a op read = .ok (add a.tag (out (mixed a.val b.val))) ∧
      aluSub a op read = .ok (sub a.tag (out (apart a.val b.val))) ∧
      (aluAddt a op read =
        if out (mixed a.val b.val) then .error excOverflow else aluAdd a op read) ∧
      (aluSubt a op read =
        if out (apart a.val b.val) then .error excOverflow else aluSub a op read)) ∧
    ((a.tag = Tag.int ∧ (b.tag = Tag.ptr ∨ b.tag = Tag.time)) →
      aluAdd a op read = .ok (add b.tag (out (mixed b.val a.val))) ∧
      (aluAddt a op read =
        if out (mixed b.val a.val) then .error excOverflow else aluAdd a op read) ∧
      aluSub a op read = .error (excTag tdMismatch 1) ∧ aluSubt a op read = .error (excTag tdMismatch 1)) ∧
    ((a.tag = b.tag ∧ (a.tag = Tag.ptr ∨ a.tag = Tag.cptr ∨ a.tag = Tag.time)) →
      aluSub a op read = .ok (sub Tag.int (a.val.usubOverflow b.val = true)) ∧
      (aluSubt a op read = if a.val.ssubOverflow b.val then .error excOverflow else aluSub a op read) ∧
      aluAdd a op read = .error (excTag tdMismatch 1) ∧ aluAddt a op read = .error (excTag tdMismatch 1))

/-- The results of the shifts and of CLZ (R172), for every accepted tag of the value (R137) and every shift amount, immediate
or in a register of an accepted tag: at 64 and above SHL and SHR give 0 and SAR copies of bit 63, and ROL rotates by the
amount modulo 64. -/
def Obligations.ShiftResults : Prop :=
  (∀ (a : TWord) (n : Amt) (read : Reg → TWord) (k : Nat), AmountIs n read k →
    let res (w : Word) : Except Exc AluOut := .ok (⟨a.tag, w⟩, some (mkFlags w.msb (w = 0) false false))
    (a.tag ∈ [Tag.int, Tag.uint, Tag.raw, Tag.fixq] →
      aluShift arithTags shlOf a n read = res (if k < 64 then BitVec.ofNat 64 (a.val.toNat * 2 ^ k) else 0) ∧
      aluShift arithTags sarOf a n read = res
        (if k < 64 then BitVec.ofInt 64 (a.val.toInt / 2 ^ k) else if a.val.msb then BitVec.allOnes 64 else 0)) ∧
    (a.tag ∈ [Tag.uint, Tag.raw] →
      aluShift bitTags shrOf a n read = res (if k < 64 then BitVec.ofNat 64 (a.val.toNat / 2 ^ k) else 0) ∧
      aluShift bitTags rolOf a n read = res
        (BitVec.ofNat 64 (a.val.toNat * 2 ^ (k % 64) + a.val.toNat / 2 ^ (64 - k % 64))))) ∧
  (∀ a : TWord, a.tag ∈ [Tag.int, Tag.uint, Tag.raw] →
    ∃ n : Nat, n ≤ 64 ∧ (∀ j, j < n → a.val.getLsbD (63 - j) = false) ∧ (n < 64 → a.val.getLsbD (63 - n) = true) ∧
      aluClz a = .ok (TWord.uint (BitVec.ofNat 64 n), some (mkFlags false (n = 0) false false)))

/-- The conversions of TAG (R140), at EXEC and at TASK. -/
def Obligations.TagConversions : Prop :=
  ∀ (a : TWord) (t : Tag) (exec : Bool),
    let keep : Except Exc AluOut := .ok (⟨t, a.val⟩, none)
    let fault (d : Nat) : Except Exc AluOut := .error (excTag d 0)
    let privileged (x : Except Exc AluOut) : Except Exc AluOut := if exec then x else .error excPrivilege
    (a.tag = t → aluTag exec t a = keep) ∧
    (t = Tag.raw → (a.tag ∈ [Tag.int, Tag.uint, Tag.sbool, Tag.ptr, Tag.cptr, Tag.time, Tag.fixq, Tag.status]) →
      aluTag exec t a = keep) ∧
    (a.tag = Tag.raw →
      (t ∈ [Tag.int, Tag.uint, Tag.time, Tag.fixq] → aluTag exec t a = keep) ∧
      (t = Tag.sbool → aluTag exec t a =
        if a.val = 0x5A5AA5A55A5AA5A5 ∨ a.val = 0xA5A55A5AA5A55A5A then keep else fault 8) ∧
      (t = Tag.ptr → aluTag exec t a = privileged keep) ∧
      (t = Tag.cptr → aluTag exec t a = privileged (if a.val.toNat % 4 = 0 then keep else fault 8)) ∧
      (t = Tag.status → aluTag exec t a =
        privileged (if a.val.getLsbD 7 = false ∧ a.val.toNat / 2 ^ 10 = 0 then keep else fault 8))) ∧
    (a.tag ≠ t → (exec = true ∨ t ∉ [Tag.ptr, Tag.cptr, Tag.status]) →
      (a.tag = Tag.uninit → aluTag exec t a = fault 1) ∧ (a.tag = Tag.poison → aluTag exec t a = fault 2) ∧
      (9 ≤ a.tag.toNat ∧ a.tag.toNat ≤ 13 → aluTag exec t a = fault 3) ∧
      (a.tag ∈ [Tag.int, Tag.uint, Tag.sbool, Tag.ptr, Tag.cptr, Tag.time, Tag.fixq, Tag.status] → t ≠ Tag.raw →
        aluTag exec t a = fault 8) ∧
      (a.tag = Tag.raw → t ∉ [Tag.int, Tag.uint, Tag.time, Tag.fixq, Tag.sbool, Tag.ptr, Tag.cptr, Tag.status] →
        aluTag exec t a = fault 8))

/-- CHK (R141): it does nothing where the mask holds the tag's bit, and raises a tag fault with detail CHECK elsewhere. -/
def Obligations.CheckTag : Prop :=
  ∀ (s0 s : State) (i : Iss) (rs : Reg) (mask : BitVec 16), s0.Issues s i (useAlu [rs] false) →
    let u := useAlu [rs] false
    let x := s.issuing i u
    let w := x.2.read x.1 rs
    (mask.getLsbD w.tag.toNat = true →
      ∃ t, exec (.chk i rs mask) s0 = .next t ∧ x.2.Advanced (t.pen i.pen.val) ∧ OnlyPens [i.pen.val] s t) ∧
    (mask.getLsbD w.tag.toNat = false →
      exec (.chk i rs mask) s0 = .next (s0.excFrom (s.issued i u) i { vector := 3, level := 4, detail := 6, operand := 0 }))

/-- MUL and MULH issue wherever their operands pass: result and flags wait beside the pipeline, and nothing else changes but the
program counter; MUL_WRITEBACK then writes both. DIV, DIVT and REM occupy issue until DIVIDE_COMPLETE, which writes result
and flags; DIVT's overflow is raised there. -/
def Obligations.MultiplyAndDivideComplete : Prop :=
  ((∀ (i : Iss) (rd ra rb : Reg) (b : Src) (s0 s : State),
     let issues (c : Instr) (regs : List Reg) (f : (Reg → TWord) → Except Exc AluOut) : Prop :=
       let u : Uses := ⟨.mul, regs, true⟩
       let x := s.issuing i u
       s0.Issues s i u →
       (∀ w fl, f (x.2.read x.1) = .ok (w, some fl) →
         ∃ t, exec c s0 = .next t ∧ (t.pen i.pen.val).mul = some ⟨x.2.bank rd.val, w, fl⟩ ∧
           x.2.Advanced { t.pen i.pen.val with mul := x.2.mul } ∧ OnlyPens [i.pen.val] s t) ∧
       (∀ e, f (x.2.read x.1) = .error e → exec c s0 = .next (s0.excFrom (s.issued i u) i e))
     issues (.mul i rd ra b) (rd :: ra :: srcRegs b) (fun read => aluMul (read ra) b read) ∧
     issues (.mulh i rd ra rb) [rd, ra, rb] (fun read => aluMulh (read ra) rb read)) ∧
   (∀ (p : PenN) (s : State) (m : MulPend), (s.runs p.val).isSome = true → (s.pen p.val).mul = some m →
     ∃ t, exec (.mulWriteback p) s = .next t ∧ OnlyPens [p.val] s t ∧
       let x := s.pen p.val
       let y := t.pen p.val
       (∀ k, y.getB k = if m.reg ≠ 0 ∧ k = m.reg then m.val else x.getB k) ∧ y.flags = m.flags ∧ x.SameControl y ∧
       y.late = x.late.filter (fun l => l.reg ≠ m.reg) ∧ y.mul = none ∧ y.pc = x.pc ∧ y.pair = x.pair ∧
       x.SameRest { y with mul := x.mul })) ∧
  ((∀ (i : Iss) (rd ra rb : Reg) (s0 s : State), s0.Issues s i ⟨.ser, [rd, ra, rb], true⟩ →
     let u : Uses := ⟨.ser, [rd, ra, rb], true⟩
     let x := s.issuing i u
     let issues (c : Instr) (f : TWord → TWord → Except Exc DivOut) : Prop :=
       (∀ o, f (x.2.read x.1 ra) (x.2.read x.1 rb) = .ok o →
         ∃ t, exec c s0 = .next t ∧ t.pen i.pen.val = { x.2 with hold := .divide (x.2.bank rd.val) o.res o.fl o.trap } ∧
           OnlyPens [i.pen.val] s t) ∧
       (∀ e, f (x.2.read x.1 ra) (x.2.read x.1 rb) = .error e → exec c s0 = .next (s0.excFrom (s.issued i u) i e))
     issues (.div i rd ra rb) (aluDiv false) ∧ issues (.divt i rd ra rb) (aluDiv true) ∧ issues (.rem i rd ra rb) aluRem) ∧
   (∀ (p : PenN) (s : State) (k : Nat) (v : TWord) (fl : Flags), (s.runs p.val).isSome = true →
     let x := s.pen p.val
     (x.hold = .divide k v fl false →
       ∃ t, exec (.divideComplete p) s = .next t ∧ OnlyPens [p.val] s t ∧
         let y := t.pen p.val
         (∀ j, y.getB j = if k ≠ 0 ∧ j = k then v else x.getB j) ∧ y.flags = fl ∧ x.SameControl y ∧ y.pc = x.pc + 4 ∧
         y.hold = .none ∧ y.late = x.late.filter (fun l => l.reg ≠ k) ∧ y.pair = x.pair ∧
         x.SameRest { y with hold := x.hold }) ∧
     (x.hold = .divide k v fl true →
       exec (.divideComplete p) s = .next ((s.takeExc p.val { vector := 9, level := 3 }).getD s))))

/-- The results of multiply and divide by tag (R169): payload, C and V, and DIVZERO. -/
def Obligations.MulDivResults : Prop :=
  ∀ (a b : TWord) (op : Src) (r : Reg) (read : Reg → TWord), SecondIs a op read b → read r = b →
    let A := a.val.toInt
    let B := b.val.toInt
    let fits (p : Int) : Bool := decide (-(2 ^ 63) ≤ p ∧ p < 2 ^ 63)
    let mul (t : Tag) (p : Int) (c v : Bool) : Prop :=
      aluMul a op read = .ok (⟨t, BitVec.ofInt 64 p⟩, some (FlagsAre (BitVec.ofInt 64 p) (c = true) (v = true)))
    let mulh (t : Tag) (p : Int) : Prop :=
      aluMulh a r read = .ok (⟨t, BitVec.ofInt 64 p⟩, some (FlagsAre (BitVec.ofInt 64 p) False False))
    let res (t : Tag) (q : Int) (v trap : Bool) : DivOut :=
      ⟨⟨t, BitVec.ofInt 64 q⟩, FlagsAre (BitVec.ofInt 64 q) False (v = true), trap⟩
    ((a.tag = Tag.int ∧ b.tag = Tag.int) →
      mul Tag.int (A * B) false (!fits (A * B)) ∧ mulh Tag.int (A * B / 2 ^ 64)) ∧
    ((a.tag = Tag.uint ∧ b.tag = Tag.uint) →
      mul Tag.uint (a.val.toNat * b.val.toNat) (decide (2 ^ 64 ≤ a.val.toNat * b.val.toNat)) false ∧
      mulh Tag.uint (a.val.toNat * b.val.toNat / 2 ^ 64)) ∧
    ((a.tag = Tag.raw ∧ b.tag = Tag.raw) →
      mul Tag.raw (a.val.toNat * b.val.toNat) false false ∧
      mulh Tag.raw (a.val.toNat * b.val.toNat / 2 ^ 64)) ∧
    ((a.tag = Tag.fixq ∧ b.tag = Tag.fixq) → mul Tag.fixq (A * B / 2 ^ 32) false (!fits (A * B / 2 ^ 32))) ∧
    (((a.tag = Tag.fixq ∧ b.tag = Tag.int) ∨ (a.tag = Tag.int ∧ b.tag = Tag.fixq)) →
      mul Tag.fixq (A * B) false (!fits (A * B))) ∧
    (((a.tag = Tag.int ∧ b.tag = Tag.int) ∨ (a.tag = Tag.fixq ∧ b.tag = Tag.int)) → ∀ t,
      aluDiv t a b = if b.val = 0 then .error excDivzero else
        .ok (res a.tag (A.tdiv B) (a.val = 0x8000000000000000 ∧ B = -1) (t && decide (a.val = 0x8000000000000000 ∧ B = -1)))) ∧
    ((a.tag = Tag.uint ∧ b.tag = Tag.uint) → (∀ t, aluDiv t a b = if b.val = 0 then .error excDivzero else
        .ok (res Tag.uint (a.val.toNat / b.val.toNat : Nat) false false)) ∧
      aluRem a b = if b.val = 0 then .error excDivzero else .ok (res Tag.uint (a.val.toNat % b.val.toNat : Nat) false false)) ∧
    ((a.tag = Tag.fixq ∧ b.tag = Tag.fixq) → ∀ t,
      aluDiv t a b = if b.val = 0 then .error excDivzero else
        .ok (res Tag.fixq ((A * 2 ^ 32).tdiv B) (!fits ((A * 2 ^ 32).tdiv B)) (t && !fits ((A * 2 ^ 32).tdiv B)))) ∧
    ((a.tag = Tag.int ∧ b.tag = Tag.int) →
      aluRem a b = if b.val = 0 then .error excDivzero else
        .ok (res Tag.int (A - A.tdiv B * B) (a.val = 0x8000000000000000 ∧ B = -1) false))

/-! ## Loads, stores and atomics -/

/-- LD completes wherever its address is good and its word is clean in an inkwell that the run may read: the word is on
its way to the destination, the base is updated, and nothing else changes. LDB, LDH and LDW complete wherever the words
they touch are clean RAW words: the bytes, zero-extended, are on their way to the destination as RAW, also when they lie
in two words.
Where the manual leaves a choice, the statement rests on the model's own: assumption log 6, 7. -/
def Obligations.LoadsComplete : Prop :=
  (∀ (s0 s : State) (i : Iss) (rt rb : Reg) (m : AMode) (w : TWord),
     s0.Issues s i ⟨.mem, rt :: rb :: modeRegs m, false⟩ → s.LoadGoes i rt rb m false w →
       ∃ v, exec (.ld i rt rb m) s0 = .next v ∧ OnlyPens [i.pen.val] s v ∧
         (s.loadPen i rt rb m).Loaded (v.pen i.pen.val) rt rb (s.loadBase i rt rb m) w) ∧
  (∀ (s0 s : State) (i : Iss) (rt rb : Reg) (m : AMode) (r : Run) (f : Word → Word),
     let u : Uses := ⟨.mem, rt :: rb :: modeRegs m, false⟩
     let x := s.issuing i u
     let t := s.issued i u
     let c := t.ctxOf i.pen.val r x.1
     let a := modeAddr m 1 (x.2.read x.1 rb).val (modeIdx m (x.2.read x.1))
     s0.Issues s i u → t.runs i.pen.val = some r → (modeUpdates m = true → rt ≠ rb) →
     checkAddr m rb (x.2.read x.1) = .ok () →
     ∀ (ins : Instr) (n : Nat),
       (ins, n) ∈ [(Instr.ldb i rt rb m, 1), (.ldh i rt rb m, 2), (.ldw i rt rb m, 4)] →
       (∀ q ∈ narrowParts a.1 n, t.Serves c r false q.1 (TWord.raw (f q.1))) →
       ∃ v, exec ins s0 = .next v ∧
         x.2.Loaded (v.pen i.pen.val) rt rb a.2 (TWord.raw (BitVec.ofNat 64 (bytesAt f a.1 n))) ∧ OnlyPens [i.pen.val] s v)

/-- ST completes wherever its address is good, the run may write there and the store buffer has room: the word waits in
the store buffer. Only the D bits of the page's leaf words may be set in memory, and with D set already no word changes.
STB, STH and STW complete wherever the words they touch are clean RAW words and the store buffer is empty. STORE_DRAIN
performs the oldest waiting store of an inkwell in every copy that the run writes, and no other word changes; a store to a
reservoir or register leaves as a request and awaits an acknowledgement. STORE_ACK takes one back: the oldest request has
then arrived and its store is performed (R211).
Where the manual leaves a choice, the statement rests on the model's own: assumption log 6, 119. -/
def Obligations.StoresComplete : Prop :=
  (∀ (s0 s : State) (i : Iss) (rt rb : Reg) (m : AMode) (r : Run) (cpa : Nat) (e : TlbEntry),
     s0.Issues s i ⟨.mem, rt :: rb :: modeRegs m, false⟩ → s.StoreGoes i rt rb m r e cpa →
       ∃ v, exec (.st i rt rb m) s0 = .next v ∧ s.StoreLeaves v i rt rb m r e cpa) ∧
  (∀ (s0 s : State) (i : Iss) (rt rb : Reg) (m : AMode) (r : Run) (g : Bool → TlbEntry × Nat × Word),
     let u : Uses := ⟨.mem, rt :: rb :: modeRegs m, false⟩
     let x := s.issuing i u
     let t := s.issued i u
     let c := t.ctxOf i.pen.val r x.1
     let a := modeAddr m 1 (x.2.read x.1 rb).val (modeIdx m (x.2.read x.1))
     let d := x.2.read x.1 rt
     s0.Issues s i u → t.runs i.pen.val = some r → checkAddr m rb (x.2.read x.1) = .ok () →
     (d.tag = Tag.int ∨ d.tag = Tag.uint ∨ d.tag = Tag.raw) → x.2.sb = [] →
     ∀ (ins : Instr) (n : Nat),
       (ins, n) ∈ [(Instr.stb i rt rb m, 1), (.sth i rt rb m, 2), (.stw i rt rb m, 4)] →
       (∀ q ∈ narrowParts a.1 n,
         let e := g q.2.2.2
         t.Takes c r q.1 e.1 e.2.1 ∧ t.Holds c e.2.1 (TWord.raw e.2.2) ∧ e.1.d1 = true ∧ e.1.d2 = true) →
       let o := bitsOf a.1 0 3
       let half (second : Bool) (o n v : Nat) : SbHalf :=
         ⟨(g second).2.1, false, BitVec.ofNat 8 ((2 ^ n - 1) * 2 ^ o),
           TWord.raw (BitVec.ofNat 64 (v % 2 ^ (8 * n) * 2 ^ (8 * o)))⟩
       ∃ v, exec ins s0 = .next v ∧ { v with pens := s.pens } = s ∧ s.OtherPens v i.pen.val ∧
         x.2.Stored (v.pen i.pen.val) rb a.2
           { halves := if o + n ≤ 8 then [half false o n d.val.toNat]
               else [half false o (8 - o) d.val.toNat, half true 0 (o + n - 8) (d.val.toNat / 2 ^ (8 * (8 - o)))] }) ∧
  ((∀ (p : PenN) (s : State) (r : Run) (h : SbHalf) (slot : Option Nat) (es : List SbEntry) (col : Bool),
     s.runs p.val = some r → (s.pen p.val).sb = ⟨[h], slot⟩ :: es →
     (isInk h.cpa = true → s.bankReady h.cpa = true →
      (h.full = false → ∀ a ∈ s.runCopies p.val r.home h.cpa, ∃ w, s.peek a = .clean w) →
      ∃ t, exec (.storeDrain p col) s = .next t ∧
        { t with mem := s.mem, pens := s.pens } = s ∧ t.pen p.val = { s.pen p.val with sb := es } ∧
        (∀ q, q ≠ p.val → t.pen q = s.pen q) ∧
        (∀ b, (∀ a ∈ s.runCopies p.val r.home h.cpa, b / 8 ≠ a / 8) → t.peekCode b = s.peekCode b) ∧
        (∀ a ∈ s.runCopies p.val r.home h.cpa,
          (h.full = true → t.peek a = .clean h.data) ∧
          (h.full = false → ∀ w, s.peek a = .clean w → t.peek a = .clean ⟨w.tag, mergeBytes h.bytes h.data.val w.val⟩))) ∧
     (isInk h.cpa = false →
      ∃ t, exec (.storeDrain p col) s = .next t ∧ { t with pens := s.pens, rsv := s.rsv, flight := s.flight } = s ∧
        t.pen p.val = { s.pen p.val with sb := es, acks := (s.pen p.val).acks + 1 } ∧
        (∀ q, q ≠ p.val → t.pen q = s.pen q) ∧
        t.flight = s.flight ++ [⟨p.val, r.home, r.line, h.cpa, some h, s.cyc⟩] ∧
        (∀ n, t.rsvOf n = if col = true ∧ isRsv h.cpa = true ∧ n = rsvNum h.cpa
          then { s.rsvOf n with coll := satInc 0xFFFFFFFF (s.rsvOf n).coll } else s.rsvOf n))) ∧
   (∀ (p : PenN) (s : State), (s.runs p.val).isSome = true → (s.pen p.val).acks ≠ 0 →
     let acked (x : Pen) : Pen := { x with acks := x.acks - 1 }
     let mine := s.flight.filter (fun f => f.pen = p.val)
     (mine.length < (s.pen p.val).acks →
       exec (.storeAck p false) s = .next (s.modPen p.val acked)) ∧
     (∀ f rest h, mine = f :: rest → mine.length = (s.pen p.val).acks → f.half = some h → h.cpa = f.cpa → h.full = true →
       isRsv h.cpa = true → s.bankReady h.cpa = true → (s.rsvOf (rsvNum h.cpa)).owner = f.home →
       ∃ t, exec (.storeAck p false) s = .next t ∧ t.peek h.cpa = .clean h.data ∧
         (∀ b, b / 8 ≠ h.cpa / 8 → t.peekCode b = s.peekCode b) ∧ t.flight = s.flight.erase f ∧
         t.pen p.val = acked (s.pen p.val) ∧ OnlyPens [p.val] { s with mem := t.mem, flight := t.flight } t) ∧
     exec (.storeAck p true) s = .next (raised (s.stopPen p.val 3 0))))

/-- ATADD and ATSWP complete wherever their word is clean in an inkwell that the run may write and read: the memory word is
replaced at once in every copy that the run writes, and the old word is on its way to the register. -/
def Obligations.AtomicsComplete : Prop :=
  ∀ (s0 s : State) (i : Iss) (rt rb : Reg) (imm : BitVec 14) (r : Run) (cpa : Nat) (e : TlbEntry) (old : TWord),
    let u : Uses := ⟨.mem, [rt, rb], false⟩
    let x := s.issuing i u
    let t := s.issued i u
    let c := t.ctxOf i.pen.val r x.1
    let va := (x.2.read x.1 rb).val + BitVec.ofInt 64 (imm.toInt * 8)
    let d := x.2.read x.1 rt
    s0.Issues s i u → t.runs i.pen.val = some r → (x.2.read x.1 rb).tag = Tag.ptr → bitsOf va 0 3 = 0 →
    t.Takes c r va e cpa → e.d1 = true → e.d2 = true → x.2.sb = [] → (∀ f ∈ s.flight, f.pen ≠ i.pen.val) →
    t.Holds c cpa old →
    ∀ (ins : Instr) (new : TWord),
      ((ins = .atadd i rt rb (.off imm) ∧ (d.tag = Tag.int ∨ d.tag = Tag.uint) ∧ old.tag = d.tag ∧
          new = ⟨old.tag, old.val + d.val⟩) ∨
        (ins = .atswp i rt rb (.off imm) ∧ new = d)) →
      ∃ v, exec ins s0 = .next v ∧
        (∀ a ∈ t.runCopies i.pen.val r.home cpa, v.peek a = .clean new) ∧
        (∀ b, (∀ a ∈ t.runCopies i.pen.val r.home cpa, b / 8 ≠ a / 8) → v.peekCode b = s.peekCode b) ∧
        { v with mem := s.mem, pens := s.pens } = s ∧ s.OtherPens v i.pen.val ∧ x.2.SameRun (v.pen i.pen.val) ∧
        x.2.Loaded { v.pen i.pen.val with tlb := x.2.tlb, run := x.2.run } rt rb none old

/-- The load delay (R145): the pair after the load's own still reads the old content, the second pair after it the loaded word,
unless a later instruction has written the register; LOAD_WRITEBACK writes the values that are due. A load that misses the
TLB, or whose word lies in a reservoir, only holds its pen, and goes on when the walk or the fabric answers (R209, R212), after
the pen's earlier requests have arrived (R19); a CRC error in the response stops the pen, a failed walk takes its translation
fault.
Where the manual leaves a choice, the statement rests on the model's own: assumption log 3, 7, 119. -/
def Obligations.LoadsInFlight : Prop :=
  ((∀ (x : Pen) (u v : Uses) (k : Nat) (w : TWord) (l : List Late), k ≠ 0 → x.late = l ++ [⟨k, w, 0⟩] →
     (∀ e ∈ l, e.reg ≠ k) →
     (x.openPair u).getB k = x.getB k ∧ ((x.openPair u).openPair v).getB k = w ∧
     ∀ z, ((((x.openPair u).writeB k z).openPair v).getB k = z ∧ (((x.writeB k z).openPair u).openPair v).getB k = z)) ∧
   (∀ (p : PenN) (s : State), (s.runs p.val).isSome = true → (s.pen p.val).hold.betweenPairs = true →
     (∃ e ∈ (s.pen p.val).late, 1 ≤ e.age) →
     ∃ t, exec (.loadWriteback p) s = .next t ∧ OnlyPens [p.val] s t ∧
       let x := s.pen p.val
       let y := t.pen p.val
       (∀ k, y.getB k = match (x.late.filter (fun e => 1 ≤ e.age ∧ e.reg = k)).getLast? with
         | some e => if k = 0 then x.getB k else e.val
         | none => x.getB k) ∧
       y.late = x.late.filter (fun e => e.age = 0) ∧ y.pair = none ∧ y.status = x.status ∧ y.pc = x.pc ∧ x.SameRest y)) ∧
  ((∀ (p : PenN) (s : State) (second col portA : Bool) (cpa : Nat) (rt rb : Reg) (m : AMode) (w : TWord),
     let i : Iss := ⟨p, second⟩
     (s.runs p.val).isSome = true → (s.pen p.val).hold = .fabric cpa portA (.ld i rt rb m) →
     exec (.fabricResponse p true col) s = .next (raised (s.stopPen p.val 3 0)) ∧
     let t := ((s.arriveTo p.val 0).staleRead p.val cpa portA).collide col cpa
     ((t.pen p.val).hold = .fabric cpa portA (.ld i rt rb m) → t.LoadGoes i rt rb m true w →
       ∃ v, exec (.fabricResponse p false col) s = .next v ∧ OnlyPens [p.val] t v ∧
         (t.loadPen i rt rb m).Loaded (v.pen p.val) rt rb (t.loadBase i rt rb m) w)) ∧
   (∀ (p : PenN) (s0 : State) (r : Run) (second : Bool) (va : Word) (rt rb : Reg) (m : AMode) (w : TWord),
     let i : Iss := ⟨p, second⟩
     let s := s0.arriveTo p.val 0
     let walk := s.walkFor (s.ctxOf p.val r false) va .read
     let t := walk.2.modPen p.val (fun x => { x with hold := .none })
     (s0.runs p.val).isSome = true → s.runs p.val = some r →
     (s.pen p.val).hold = .walk va .read false (.ld i rt rb m) →
     (∀ f, walk.1 = .error f → exec (.tableWalkDone p) s0 =
       .next ((walk.2.takeExc p.val { vector := 5, level := 4, stage := f.stage, wlevel := f.level, wcause := f.cause, addr := va }
         ((s.pen p.val).blkDone ≠ 0)).getD s)) ∧
     (∀ u, walk.1 = .ok () → t.admitted p.val ((t.issuing i ⟨.mem, rt :: rb :: modeRegs m, false⟩).1) = some u →
       u.LoadGoes i rt rb m false w →
       ∃ v, exec (.tableWalkDone p) s0 = .next v ∧ OnlyPens [p.val] u v ∧
         (u.loadPen i rt rb m).Loaded (v.pen p.val) rt rb (u.loadBase i rt rb m) w))) ∧
  (∀ (s0 s : State) (i : Iss) (rt rb : Reg) (m : AMode) (r : Run),
     let u : Uses := ⟨.mem, rt :: rb :: modeRegs m, false⟩
     let x := s.issuing i u
     let t := s.issued i u
     let c := t.ctxOf i.pen.val r x.1
     let a := modeAddr m 8 (x.2.read x.1 rb).val (modeIdx m (x.2.read x.1))
     let held (h : Hold) : Prop := ∃ v, exec (.ld i rt rb m) s0 = .next v ∧ OnlyPens [i.pen.val] s v ∧
       v.pen i.pen.val = { s.pen i.pen.val with hold := h }
     s0.Issues s i u → t.runs i.pen.val = some r → (modeUpdates m = true → rt ≠ rb) →
     checkAddr m rb (x.2.read x.1) = .ok () → bitsOf a.1 0 3 = 0 →
     (t.xlat c a.1 .read = .miss → held (.walk a.1 .read false (.ld i rt rb m))) ∧
     (∀ e, t.xlat c a.1 .read = .hit e → isRsv (t.frameCpa c e a.1) = true →
       (∀ y ∈ x.2.sb, ∀ h ∈ y.halves, h.cpa ≠ t.frameCpa c e a.1) →
       held (.fabric (t.frameCpa c e a.1) (decide ((t.rsvOf (rsvNum (t.frameCpa c e a.1))).owner = r.home))
         (.ld i rt rb m))))

/-- DRAFT_COPY_COMPLETE makes a page of 512 clean words DRAFTED for the run (R70): the other frame holds a copy of the fair
one, no other word changes by the copy, and the store that waited goes on into the draft. -/
def Obligations.DraftCopyCompletes : Prop :=
  (∀ (s : State) (p slot : Nat) (r : Run), (s.pen p).run = some r → r.mode = .duplex → r.home = p →
    let v := s.vslot slot
    isInk (v.fairFrame * 4096) = true → inkPen (v.fairFrame * 4096) = p →
    isInk (v.draftFrame * 4096) = true → inkPen (v.draftFrame * 4096) = p → v.frame0 ≠ v.frame1 →
    (∀ j, j < 512 → ∃ w, s.peek (v.fairFrame * 4096 + 8 * j) = .clean w) →
    let t := s.draftCopy p slot r
    (∀ j, j < 512 → t.peek (v.draftFrame * 4096 + 8 * j) = s.peek (v.fairFrame * 4096 + 8 * j)) ∧
    (∀ b, b / 4096 ≠ v.draftFrame → t.peekCode b = s.peekCode b) ∧
    t.vslot slot = { v with st := .drafted, feedDraft := false, drafter := p } ∧
    (∀ n, n ≠ slot → t.vslot n = s.vslot n) ∧
    t.pen p = { s.pen p with run := some { r with drafts := r.drafts ++ [slot] } } ∧
    (∀ q, q ≠ p → t.pen q = s.pen q) ∧
    { t with mem := s.mem, pens := s.pens, vt := s.vt, trc := s.trc } = s ∧ t.trc = (s.noteFirst slot).trc) ∧
  (∀ (p : PenN) (s : State) (slot : Nat) (r : Run) (second crc col : Bool) (rt rb : Reg) (m : AMode) (q : Run) (cpa : Nat)
    (e : TlbEntry) (u : State),
    let i : Iss := ⟨p, second⟩
    let fair := (s.vslot slot).fairFrame * 4096
    let t := (((s.arriveTo p.val 0).collide col fair).draftCopy p.val slot r).modPen p.val (fun x => { x with hold := .none })
    (s.runs p.val).isSome = true → (s.pen p.val).hold = .copy slot (.st i rt rb m) → (s.pen p.val).run = some r →
    (crc = false ∨ isRsv fair = false) →
    t.admitted p.val ((t.issuing i ⟨.mem, rt :: rb :: modeRegs m, false⟩).1) = some u → u.StoreGoes i rt rb m q e cpa →
    ∃ v, exec (.draftCopyComplete p crc col) s = .next v ∧ u.StoreLeaves v i rt rb m q e cpa) ∧
  (∀ (p : PenN) (s : State) (slot : Nat) (r : Run) (ins : Instr) (col : Bool),
    (s.runs p.val).isSome = true → (s.pen p.val).hold = .copy slot ins → (s.pen p.val).run = some r →
    isRsv ((s.vslot slot).fairFrame * 4096) = true →
    exec (.draftCopyComplete p true col) s = .next (raised (s.stopPen p.val 3 0)))

/-- The block instructions (R179 to R181), from their issue or from a sampling point. BLKCRC over clean RAW words leaves the CRC
state of their bytes; BLKCMP over clean words stops at the first pair that differs in tag or payload, with Z set exactly
when none differs; BLKFILL and BLKCPY of one word put it into the store buffer, and of none only advance. Pointers and count
move past the words done; after every eighth word the instruction stands at a sampling point for interrupts, where the same
command goes on.
Where the manual leaves a choice, the statement rests on the model's own: assumption log 17. -/
def Obligations.BlockInstructionsComplete : Prop :=
  (∀ (s t : State) (i : Iss) (ra rb rc : Reg) (r : Run) (f : Nat → Word) (d : Nat),
     let p := i.pen.val
     let ins := Instr.blkcrc i ra rb rc
     let x := t.pen p
     let reg (r : Reg) : TWord := x.getB (x.bank r.val)
     let n := (reg rc).val.toNat
     let m := min n (8 - d % 8)
     s.BlockGoes t p ⟨.ser, [ra, rb, rc], false⟩ ins d → ra ≠ rb → rb ≠ rc → ra ≠ rc → t.runs p = some r →
     (reg ra).tag = Tag.ptr → bitsOf (reg ra).val 0 3 = 0 → (reg rb).tag = Tag.raw → (reg rc).tag = Tag.uint →
     (∀ j, j < m → t.Serves (t.ctxOf p r false) r false ((reg ra).val + BitVec.ofNat 64 (8 * j)) (TWord.raw (f j))) →
     ∃ v, exec ins s = .next v ∧ OnlyPens [p] t v ∧ (v.pen p).flags = x.flags ∧
       BlockLeaves x (v.pen p) ins (decide (m < n)) (d + m) ra rb rc (TWord.ptr ((reg ra).val + BitVec.ofNat 64 (8 * m)))
         (TWord.raw ((List.range m).foldl (fun acc j => BitVec.ofNat 64 (crcWordN 8 (acc.toNat % 2 ^ 32) (f j).toNat))
           (reg rb).val)) (n - m)) ∧
  (∀ (s t : State) (i : Iss) (ra rb rc : Reg) (r : Run) (f g : Nat → TWord) (d m : Nat),
     let p := i.pen.val
     let ins := Instr.blkcmp i ra rb rc
     let x := t.pen p
     let c := t.ctxOf p r false
     let reg (r : Reg) : TWord := x.getB (x.bank r.val)
     let n := (reg rc).val.toNat
     let k := min n (8 - d % 8)
     let pause := decide (m = k ∧ k < n)
     s.BlockGoes t p ⟨.ser, [ra, rb, rc], true⟩ ins d → ra ≠ rb → rb ≠ rc → ra ≠ rc → t.runs p = some r →
     (reg ra).tag = Tag.ptr → bitsOf (reg ra).val 0 3 = 0 → (reg rb).tag = Tag.ptr → bitsOf (reg rb).val 0 3 = 0 →
     (reg rc).tag = Tag.uint → m ≤ k →
     (∀ j, j < k → j ≤ m → t.Serves c r false ((reg ra).val + BitVec.ofNat 64 (8 * j)) (f j) ∧
       t.Serves c r false ((reg rb).val + BitVec.ofNat 64 (8 * j)) (g j)) →
     (∀ j, j < m → f j = g j) → (m < k → f m ≠ g m) →
     ∃ v, exec ins s = .next v ∧ OnlyPens [p] t v ∧
       (v.pen p).flags = (if pause then x.flags else mkFlags false (m = n) false false) ∧
       BlockLeaves x (v.pen p) ins pause (d + m) ra rb rc (TWord.ptr ((reg ra).val + BitVec.ofNat 64 (8 * m)))
         (TWord.ptr ((reg rb).val + BitVec.ofNat 64 (8 * m))) (n - m)) ∧
  (∀ (s t : State) (i : Iss) (ra rb rc : Reg) (r : Run) (cpa d : Nat) (e : TlbEntry) (w : TWord),
     let p := i.pen.val
     let x := t.pen p
     let c := t.ctxOf p r false
     let reg (r : Reg) : TWord := x.getB (x.bank r.val)
     let slot := if e.kind = .versioned then some e.slot else none
     ra ≠ rb → rb ≠ rc → ra ≠ rc → t.runs p = some r → (reg ra).tag = Tag.ptr → bitsOf (reg ra).val 0 3 = 0 →
     (∀ ins, (ins = .blkfill i ra rb rc ∨ (ins = .blkcpy i ra rb rc ∧ (reg rb).tag = Tag.ptr ∧ bitsOf (reg rb).val 0 3 = 0)) →
       reg rc = TWord.uint 0 → s.BlockGoes t p ⟨.ser, [ra, rb, rc], false⟩ ins d →
       ∃ v, exec ins s = .next v ∧ OnlyPens [p] t v ∧ (v.pen p).flags = x.flags ∧ (v.pen p).sb = x.sb ∧
         BlockLeaves x (v.pen p) ins false d ra rb rc (reg ra) (reg rb) 0) ∧
     (reg rc = TWord.uint 1 → t.Takes c r (reg ra).val e cpa → e.d1 = true → e.d2 = true → x.sb = [] →
       (s.BlockGoes t p ⟨.ser, [ra, rb, rc], false⟩ (.blkfill i ra rb rc) d →
         ∃ v, exec (.blkfill i ra rb rc) s = .next v ∧ { v with pens := t.pens } = t ∧ t.OtherPens v p ∧
           (v.pen p).flags = x.flags ∧ (v.pen p).sb = [⟨[⟨cpa, true, 0xFF, reg rb⟩], slot⟩] ∧
           BlockLeaves x (v.pen p) (.blkfill i ra rb rc) false (d + 1) ra rb rc (TWord.ptr ((reg ra).val + 8)) (reg rb) 0) ∧
       (s.BlockGoes t p ⟨.ser, [ra, rb, rc], false⟩ (.blkcpy i ra rb rc) d → (reg rb).tag = Tag.ptr →
         bitsOf (reg rb).val 0 3 = 0 → t.Serves c r false (reg rb).val w →
         ∃ v, exec (.blkcpy i ra rb rc) s = .next v ∧ { v with pens := t.pens } = t ∧ t.OtherPens v p ∧
           (v.pen p).flags = x.flags ∧ (v.pen p).sb = [⟨[⟨cpa, true, 0xFF, w⟩], slot⟩] ∧
           BlockLeaves x (v.pen p) (.blkcpy i ra rb rc) false (d + 1) ra rb rc (TWord.ptr ((reg ra).val + 8))
             (TWord.ptr ((reg rb).val + 8)) 0)))

/-! ## Control transfer and system instructions -/

/-- B, Bcc and B through a register complete: the program counter becomes the target and the fetch buffer is flushed (R190), or
the program counter passes Bcc where its condition does not hold, and nothing else changes. Bcc with an unassigned condition
is an illegal encoding. -/
def Obligations.BranchesComplete : Prop :=
  ∀ (s0 s : State) (i : Iss),
    let holds (cond : BitVec 4) (n z c v : Bool) : Bool :=
      [z, !z, !c, c, n, !n, v, !v, !c && !z, c || z, n == v, n != v, !z && n == v, z || n != v].getD cond.toNat false
    let goes (c : Instr) (u : Uses) (taken : Bool) (pc : Word) : Prop :=
      let x := (s.issuing i u).2
      ∃ t, exec c s0 = .next t ∧ OnlyPens [i.pen.val] s t ∧ (t.pen i.pen.val).pc = pc ∧
        (t.pen i.pen.val).fbuf = (if taken = true then none else x.fbuf) ∧
        { t.pen i.pen.val with pc := x.pc, pair := x.pair, fbuf := x.fbuf } = x
    (∀ disp : BitVec 26, s0.Issues s i ⟨.ctl, [], false⟩ →
      goes (.b i disp) ⟨.ctl, [], false⟩ true ((s.pen i.pen.val).pc + BitVec.ofInt 64 (4 * disp.toInt))) ∧
    (∀ (cond : BitVec 4) (disp : BitVec 22),
      let u : Uses := ⟨.ctl, [], true⟩
      s0.Issues s i u →
      (∀ n z c v, (s.issuing i u).2.flags = mkFlags n z c v → cond.toNat < 14 →
        goes (.bcc i cond disp) u (holds cond n z c v)
          (if holds cond n z c v then (s.pen i.pen.val).pc + BitVec.ofInt 64 (4 * disp.toInt)
          else (s.pen i.pen.val).pc + 4)) ∧
      (14 ≤ cond.toNat → exec (.bcc i cond disp) s0 =
        .next (s0.excFrom (s.issued i u) i { vector := 1, level := 5, detail := 1 }))) ∧
    (∀ rs : Reg,
      let u : Uses := ⟨.ctl, [rs], false⟩
      let w := (s.issuing i u).2.read (s.issuing i u).1 rs
      s0.Issues s i u →
      (w.tag = Tag.cptr → bitsOf w.val 0 2 = 0 → goes (.bRegister i rs) u true w.val) ∧
      (w.tag = Tag.cptr → bitsOf w.val 0 2 ≠ 0 → exec (.bRegister i rs) s0 =
        .next (s0.excFrom (s.issued i u) i { vector := 4, level := 4, addr := w.val })))

/-- CALL, CALL through a register and RET complete wherever the stack can be written or read (R146). ERET and GRET
complete at EXEC wherever the frame at W31 is good (R149, R183): ERET restores the whole status word but FLY, GRET all but
the flags; at TASK both are refused. GATE takes its checks in the order of R239, and one that passes them enters the
gate's handler at EXEC with the frame pushed and at least the entry's mask level (R240).
Where the manual leaves a choice, the statement rests on the model's own: assumption log 15. -/
def Obligations.CallsAndReturnsComplete : Prop :=
  ((∀ (s0 s : State) (i : Iss) (disp : BitVec 26) (rs : Reg) (r : Run) (cpa : Nat) (e : TlbEntry)
     (ins : Instr) (regs : List Reg),
     (ins, regs) ∈ [(Instr.call i disp, [31]), (.callRegister i rs, [rs, 31])] →
     let u : Uses := ⟨.callret, regs, false⟩
     s0.Issues s i u →
     let x := s.issuing i u
     let t := s.issued i u
     let sp := x.2.read x.1 31
     let w := x.2.read x.1 rs
     t.runs i.pen.val = some r → sp.tag = Tag.ptr → bitsOf sp.val 0 3 = 0 →
     (x.2.task = true ∨ t.flySpent i.pen.val r.part 8 = false) →
     t.Takes (t.ctxOf i.pen.val r x.1) r (sp.val - 8) e cpa → e.d1 = true → e.d2 = true → x.2.sbUsed + 1 ≤ 4 →
     (ins = .callRegister i rs → w.tag = Tag.cptr ∧ bitsOf w.val 0 2 = 0) →
     ∃ v, exec ins s0 = .next v ∧ { v with pens := s.pens } = s ∧ s.OtherPens v i.pen.val ∧
       let y := v.pen i.pen.val
       x.2.Jumped { y with sb := x.2.sb, tlb := x.2.tlb, run := x.2.run }
         (if ins = .call i disp then x.2.pc + BitVec.ofInt 64 (4 * disp.toInt) else w.val) ∧
       x.2.RegsAfter y 31 (TWord.ptr (sp.val - 8)) ∧ y.status = x.2.status ∧
       y.sb = x.2.sb ++ [⟨[⟨cpa, true, 0xFF, TWord.cptr (x.2.pc + 4)⟩], if e.kind = .versioned then some e.slot else none⟩] ∧
       x.2.SameRun y) ∧
   (∀ (s0 s : State) (i : Iss) (r : Run) (w : Word), s0.Issues s i ⟨.callret, [31], false⟩ →
     let u : Uses := ⟨.callret, [31], false⟩
     let x := s.issuing i u
     let t := s.issued i u
     let sp := x.2.read x.1 31
     t.runs i.pen.val = some r → sp.tag = Tag.ptr → bitsOf sp.val 0 3 = 0 → bitsOf w 0 2 = 0 →
     t.Serves (t.ctxOf i.pen.val r x.1) r false sp.val (TWord.cptr w) →
     ∃ v, exec (.ret i) s0 = .next v ∧ OnlyPens [i.pen.val] s v ∧
       let y := v.pen i.pen.val
       x.2.Jumped y w ∧ x.2.RegsAfter y 31 (TWord.ptr (sp.val + 8)) ∧ y.status = x.2.status)) ∧
  (∀ (s0 s : State) (i : Iss), s0.Issues s i ⟨.ser, [31], true⟩ →
     let u : Uses := ⟨.ser, [31], true⟩
     let x := s.issuing i u
     let t := s.issued i u
     (x.2.task = true → ∀ ins ∈ [Instr.eret i, .gret i],
       exec ins s0 = .next (s0.excFrom t i { vector := 2, level := 5 })) ∧
     (∀ (r : Run) (st pc : Word), x.2.task = false → t.runs i.pen.val = some r → x.2.spExec.tag = Tag.ptr →
       bitsOf x.2.spExec.val 0 3 = 0 → bitsOf pc 0 2 = 0 →
       t.Serves (t.ctxOf i.pen.val r x.1) r false x.2.spExec.val (TWord.status st) →
       t.Serves (t.ctxOf i.pen.val r x.1) r false (x.2.spExec.val + 8) (TWord.cptr pc) →
       ∀ (ins : Instr) (g : Bool), (ins, g) ∈ [(Instr.eret i, false), (.gret i, true)] →
       ∃ v, exec ins s0 = .next v ∧ OnlyPens [i.pen.val] s v ∧
         let y := v.pen i.pen.val
         x.2.Jumped y pc ∧ y.spExec = TWord.ptr (x.2.spExec.val + 16) ∧ y.regs = x.2.regs ∧ y.spTask = x.2.spTask ∧
         (∀ b, bitAt y.status b =
           if b < 4 ∧ g = true then bitAt x.2.status b
           else if b = 10 ∧ g = false then bitAt x.2.status b
           else if b = 7 ∨ 10 < b then false
           else bitAt st b))) ∧
  (∀ (s0 s : State) (i : Iss) (n : BitVec 8) (r : Run), s0.IssuesAlone s i.pen.val →
     let p := i.pen.val
     let t := s.modPen p (fun x => x.issue false ⟨.ser, [1, 2, 3, 4, 31], true⟩)
     let x := t.pen p
     let exc (u : State) (d a : Nat) : Host.Outcome State Fault Refusal :=
       .next ((u.takeExc p { vector := 11, level := 4, detail := d, gate := n.toNat, arg := a }).getD s0)
     t.runs p = some r →
     (bitsOf (t.pxWord r.part 0) 32 9 ≤ n.toNat → exec (.gate i n) s0 = exc t 1 0) ∧
     (n.toNat < bitsOf (t.pxWord r.part 0) 32 9 →
       (∀ u, t.readGate p r.part n.toNat = (none, u) → exec (.gate i n) s0 = exc u 2 0) ∧
       (∀ g u, t.readGate p r.part n.toNat = (some g, u) →
         (∀ d a, gateChecks g x.task (fun k => x.getB k) = some (d, a) → exec (.gate i n) s0 = exc u d a)) ∧
       (∀ g lo hi, t.readGate p r.part n.toNat = (some g, t) → gateChecks g x.task (fun k => x.getB k) = none →
         r.mode ≠ .joined → x.sb = [] → t.flySpent p r.part 16 = false → t.stackCheck p r = (.good lo hi, t) →
         lo.kind ≠ .versioned → hi.kind ≠ .versioned → lo.d1 = true → lo.d2 = true → hi.d1 = true → hi.d2 = true →
         ∃ v, exec (.gate i n) s0 = .next v ∧ OnlyPens [p] s v ∧
           let y := v.pen p
           let sp := x.spExec.val
           let c := t.pushCtx p r
           y.pc = g.target ∧ y.fbuf = none ∧ y.spExec = TWord.ptr (sp - 16) ∧ y.regs = x.regs ∧ y.spTask = x.spTask ∧
           y.sb = [⟨[⟨t.frameCpa c hi (sp - 8), true, 0xFF, TWord.cptr (x.pc + 4)⟩], none⟩,
                   ⟨[⟨t.frameCpa c lo (sp - 16), true, 0xFF, TWord.status x.status⟩], none⟩] ∧
           bitAt y.status 8 = true ∧ bitAt y.status 9 = false ∧ bitAt y.status 10 = false ∧ y.flags = x.flags ∧
           bitsOf y.status 4 3 = max (bitsOf x.status 4 3) (bitsOf g.ctrl 4 3) ∧ y.syn = x.syn ∧ y.synAddr = x.synAddr)))

/-- MASK completes at EXEC: the old level goes to the destination and the new one into the status word (R185). FEAT reads
the feature registers of R152 to R156, 6 to 15 as 0. SEAL exchanges the key register without its reserved bits (R270,
R271); W0 as source only reads, and widening at TASK is refused before the tag of the source is judged (R130). TLBINV
drops exactly the entries of its kind (R267), on both pens of a JOINED run. IPI sends one interrupt to each addressed pen
but the sender, unless the set reaches beyond the partition's, which is a bus fault (R187). At TASK, MASK and TLBINV are
refused. -/
def Obligations.SystemInstructionsComplete : Prop :=
  (∀ (s0 s : State) (i : Iss) (rd : Reg) (src : MaskSrc),
     let regs : List Reg := match src with
       | .imm _ => [rd]
       | .reg r => [rd, r]
     let x := s.issuing i (useAlu regs false)
     s0.Issues s i (useAlu regs false) →
     (x.2.task = true → exec (.mask i rd src) s0 =
       .next (s0.excFrom (s.issued i (useAlu regs false)) i { vector := 2, level := 5 })) ∧
     (∀ l : Nat, x.2.task = false →
       (match src with
         | .imm n => l = n.toNat
         | .reg r => (x.2.read x.1 r).tag = Tag.uint ∧ l = (x.2.read x.1 r).val.toNat % 8) →
       ∃ t, exec (.mask i rd src) s0 = .next t ∧ OnlyPens [i.pen.val] s t ∧
         let y := t.pen i.pen.val
         x.2.RegsAfter y rd (TWord.uint (BitVec.ofNat 64 x.2.maskLevel)) ∧ y.maskLevel = l ∧
         (∀ b, b < 4 ∨ 7 ≤ b → bitAt y.status b = bitAt x.2.status b) ∧ y.pc = x.2.pc + 4 ∧
         y.late = x.2.late.filter (fun e => e.reg ≠ x.2.bank rd.val) ∧ x.2.SameRest y)) ∧
  (∀ (s0 s : State) (i : Iss) (rd : Reg) (n : BitVec 4) (r : Run),
     let u := useAlu [rd] false
     (s.issued i u).runs i.pen.val = some r →
     let want : Word := match n.toNat with
       | 0 => BitVec.ofNat 64 (0x10101 + bitsOf s.huv.fwVersion 16 8 * 2 ^ 32 + bitsOf s.huv.fwVersion 24 8 * 2 ^ 40)
       | 1 => 0x6FF
       | 2 => 0x20_10_80_0C_48_40_77
       | 3 => 0x0200_19_22_24_64_32_22
       | 4 => 0x4FF0C8
       | 5 => BitVec.ofNat 64 (r.part + s.s1Mode r.part * 2 ^ 8 + (if bitAt (s.ptWord r.part 0) 2 then 2 ^ 10 else 0))
       | _ => 0
     AluAt (.feat i rd n) i u rd (fun _ => .ok (TWord.raw want, none)) s0 s) ∧
  (∀ (s0 s : State) (i : Iss) (rd rs : Reg), s0.Issues s i (useAlu [rd, rs] false) →
     let u := useAlu [rd, rs] false
     let x := s.issuing i u
     let w := x.2.read x.1 rs
     let wide := x.2.sealed &&& ~~~ w.val &&& 0x7777777777777777
     (rs ≠ 0 → x.2.task = true → wide ≠ 0 →
       exec (.sealReg i rd rs) s0 = .next (s0.excFrom (s.issued i u) i { vector := 2, level := 5 })) ∧
     ((rs = 0 ∨ (w.tag = Tag.raw ∧ (x.2.task = false ∨ wide = 0))) →
       ∃ t, exec (.sealReg i rd rs) s0 = .next t ∧ OnlyPens [i.pen.val] s t ∧
         let y := t.pen i.pen.val
         y.sealed = (if rs = 0 then x.2.sealed else w.val &&& 0x7777777777777777) ∧
         x.2.RegsAfter y rd (TWord.raw x.2.sealed) ∧ y.status = x.2.status ∧ y.pc = x.2.pc + 4 ∧
         x.2.SameRest { y with sealed := x.2.sealed })) ∧
  (∀ (s0 s : State) (i : Iss) (rs : Reg) (r : Run) (ins : Instr) (kind : Nat), (ins, kind) ∈ [(Instr.tlbinvUnlocked i, 0), (.tlbinvAll i, 1), (.tlbinvPage i rs, 2)] →
     let u : Uses := ⟨.ser, if kind = 2 then [rs] else [], false⟩
     s0.Issues s i u →
     let x := s.issuing i u
     let w := x.2.read x.1 rs
     let goes (e : TlbEntry) : Bool := match kind with
       | 0 => !e.locked
       | 1 => !e.locked || e.part = r.part
       | _ => e.valid && e.part = r.part && e.vpn / 2 ^ (9 * e.size) = bitsOf w.val 12 45 / 2 ^ (9 * e.size)
     (x.2.task = true → exec ins s0 = .next (s0.excFrom (s.issued i u) i { vector := 2, level := 5 })) ∧
     (x.2.task = false → (s.issued i u).runs i.pen.val = some r → (kind = 2 → w.tag = Tag.ptr) →
       let o := otherOf i.pen.val
       ∃ t, exec ins s0 = .next t ∧ OnlyPens [i.pen.val, o] s t ∧
         x.2.Advanced { t.pen i.pen.val with tlb := x.2.tlb } ∧
         (t.pen i.pen.val).tlb = x.2.tlb.filter (fun e => !goes e.2) ∧
         t.pen o = if r.mode = .joined then { s.pen o with tlb := (s.pen o).tlb.filter (fun e => !goes e.2) } else s.pen o)) ∧
  (∀ (s0 s : State) (i : Iss) (rs : Reg) (level : BitVec 3) (r : Run), s0.Issues s i ⟨.mem, [rs], false⟩ →
     let u : Uses := ⟨.mem, [rs], false⟩
     let x := s.issuing i u
     let w := x.2.read x.1 rs
     let m := w.val &&& ~~~ (if r.mode = .joined then BitVec.ofNat 64 (2 ^ evenOf i.pen.val + 2 ^ oddOf i.pen.val)
       else BitVec.ofNat 64 (2 ^ i.pen.val))
     (level = 0 → exec (.ipi i rs level) s0 = .next (s0.excFrom (s.issued i u) i { vector := 1, level := 5, detail := 3 })) ∧
     (level ≠ 0 → x.2.task = true →
       exec (.ipi i rs level) s0 = .next (s0.excFrom (s.issued i u) i { vector := 2, level := 5 })) ∧
     (level ≠ 0 → x.2.task = false → (w.tag = Tag.raw ∨ w.tag = Tag.uint) → (s.issued i u).runs i.pen.val = some r →
       (m &&& ~~~ s.pxWord r.part 2 ≠ 0 →
         exec (.ipi i rs level) s0 = .next (s0.excFrom (s.issued i u) i { vector := 7, level := 5, bcause := 0x0B })) ∧
       (m &&& ~~~ s.pxWord r.part 2 = 0 →
         ∃ t, exec (.ipi i rs level) s0 = .next t ∧ OnlyPens [i.pen.val] { s with ipiFly := t.ipiFly } t ∧
           x.2.Advanced (t.pen i.pen.val) ∧
           t.ipiFly = s.ipiFly ++ ((List.range 64).filter (fun n => m.getLsbD n)).map (fun n => ⟨i.pen.val, n, level.toNat, s.cyc⟩))))

/-- FENCE waits until every earlier store has drained and been acknowledged, and then only advances (R188). LINEND ends
the run of a pen at EXEC within its window (R75, R189): its pages wait for the commit point, what was in flight is
discarded; COMMIT then makes every draft page of the run the fair copy (R70) and frees the pen.
Where the manual leaves a choice, the statement rests on the model's own: assumption log 18, 24. -/
def Obligations.FenceAndLinendComplete : Prop :=
  (∀ (s0 s : State) (i : Iss), s0.Issues s i ⟨.ser, [], false⟩ →
     let x := s.issuing i ⟨.ser, [], false⟩
     ((x.2.sb = [] ∧ x.2.acks = 0) →
       ∃ t, exec (.fence i) s0 = .next t ∧ x.2.Advanced (t.pen i.pen.val) ∧ OnlyPens [i.pen.val] s t) ∧
     (¬(x.2.sb = [] ∧ x.2.acks = 0) → exec (.fence i) s0 = .next s0)) ∧
  ((∀ (s0 s : State) (i : Iss) (r : Run), s0.Issues s i ⟨.fin, [], false⟩ →
     let x := s.issuing i ⟨.fin, [], false⟩
     let t := s.issued i ⟨.fin, [], false⟩
     let p := i.pen.val
     (x.2.task = true → exec (.linend i) s0 = .next (s0.excFrom t i { vector := 2, level := 5 })) ∧
     (x.1 = false → x.2.task = false → ¬(x.2.sb = [] ∧ x.2.acks = 0) → exec (.linend i) s0 = .next s0) ∧
     (x.2.task = false → x.2.sb = [] → x.2.acks = 0 → t.runs p = some r → s.folioCyc < r.winEnd → r.drainBad = false →
       r.mode ≠ .joined →
       ∃ v, exec (.linend i) s0 = .next v ∧ { v with pens := s.pens, vt := s.vt } = s ∧
         v.pen p = { x.2 with late := [], mul := none, pair := none, hold := .none, ipiPend := 0, run := some { r with linend := some s.folioCyc } } ∧
         (∀ q, q ≠ p → v.pen q = s.pen q) ∧
         (∀ n, v.vslot n = if n ∈ r.drafts then { s.vslot n with st := .committing } else s.vslot n))) ∧
   (∀ (s : State) (p : PenN) (r : Run) (c : Nat), s.folio.running = true → (s.pen p.val).st = .run →
     (s.pen p.val).ending = none → (s.pen p.val).run = some r → r.linend = some c → s.folioCyc = c + 4 → r.mode = .duplex →
     r.drafts.Nodup →
     (∀ n ∈ r.drafts, (s.vslot n).kind = .output → (s.vslot n).published = true ∨ (s.vslot n).commitLine = 0x7FFF) →
     ∃ v, exec (.commit p) s = .next v ∧
       (∀ n, v.vslot n = if n ∈ r.drafts then
           { s.vslot n with
             fair := !(s.vslot n).fair, st := .fair, feedDraft := false, drafter := 0, published := false
             eligible := (s.vslot n).kind = .output, seq := BitVec.ofNat 16 s.folio.number.toNat
             reqs := if (s.vslot n).kind = .output then r.subs else []
             commitCyc := c + 4, commitFolio := s.folio.number.toNat, commitLine := r.line }
         else s.vslot n) ∧
       (∀ q e, e ∈ (v.pen q).tlb → e.2.valid = true → e.2.kind = .versioned → e.2.slot ∈ r.drafts →
         e.2.frame = (v.vslot e.2.slot).fairFrame) ∧
       (v.pen p.val).run = none ∧ (v.pen p.val).st = .idle ∧
       v.folio.armed = s.folio.armed.filter (fun a => a.line ≠ r.line) ∧
       { v with vt := s.vt, pens := s.pens, folio := s.folio, trc := s.trc } = s ∧
       v.trc = { s.trc with send := s.trc.send.map (fun w => { w with again := r.drafts.reverse ++ w.again }) }))

/-! ## Exceptions, interrupts and pen faults -/

/-- A synchronous exception whose stack and vector are good enters its handler at the higher of its default level and MASK
(R224, R227, R228): the frame below EXEC W31, the new status word, the syndrome, and nothing else. One whose stack fails
its check goes to the flyleaf (R234, R235): the frame at the top of bank 0, FLY set, the handler of vector 12 at level 7
with the cause in the syndrome.
Where the manual leaves a choice, the statement rests on the model's own: assumption log 14. -/
def Obligations.ExceptionEntry : Prop :=
  (∀ (s : State) (p : Nat) (r : Run) (e : Exc) (rs : Bool) (h : Word) (lo hi : TlbEntry),
     s.CanEnter p r e.vector h lo hi →
     ∃ v, s.takeExc p e rs = some v ∧
       s.Entered v p r e (min 7 (max e.level (s.pen p).maskLevel)) (s.pen p).pc (rs || bitAt (s.pen p).status 9) h lo hi) ∧
  (∀ (s : State) (p : Nat) (r : Run) (e : Exc) (b : Nat) (w : Bool) (a h : Word),
     let t := s.modPen p Pen.complete
     let x := (s.pen p).complete
     s.runs p = some r → r.mode ≠ .joined → t.flySpent p r.part 16 = false → t.stackCheck p r = (.bad b w a, t) →
     bitAt x.status 10 = false → t.readVector p 12 = (some h, t) → e.vector < 32 → b < 256 → x.sb = [] →
     (∃ f, t.peek (inkBase p + 0x3FFF8) = .clean f) → (∃ f, t.peek (inkBase p + 0x3FFF0) = .clean f) →
     ∃ v, s.takeExc p e = some v ∧ { v with pens := s.pens, mem := s.mem } = s ∧ (∀ q, q ≠ p → v.pen q = s.pen q) ∧
       v.peek (inkBase p + 0x3FFF8) = .clean (TWord.cptr (s.pen p).pc) ∧
       v.peek (inkBase p + 0x3FFF0) = .clean (TWord.status (setBit x.status 9 (bitAt (s.pen p).status 9))) ∧
       (∀ c, c / 16 ≠ (inkBase p + 0x3FFF0) / 16 → v.peekCode c = s.peekCode c) ∧
       let y := v.pen p
       y.pc = h ∧ y.fbuf = none ∧ y.spExec = TWord.ptr (BitVec.ofNat 64 (s.flyVa r.part + 0xFF0)) ∧
       bitAt y.status 8 = true ∧ bitAt y.status 10 = true ∧ y.maskLevel = 7 ∧ y.flags = x.flags ∧
       y.synAddr = a ∧ bitsOf y.syn 0 5 = 12 ∧ bitsOf y.syn 5 5 = e.vector ∧ bitsOf y.syn 10 3 = 7 ∧ bitsOf y.syn 14 4 = 1 ∧
       bitsOf y.syn 28 8 = b ∧ bitAt y.syn 63 = true ∧ y.flyCnt = satInc 0xFFFFFFFF x.flyCnt)

/-- An interrupt of level L is accepted exactly if L is at least MASK or is 7, the highest first, and otherwise stays
pending (R223, R226). -/
def Obligations.InterruptAcceptance : Prop :=
  ∀ (x : Pen) (l : Nat),
    (x.irqLevel = some l ↔
      (1 ≤ l ∧ l ≤ 7 ∧ x.ipiPend.getLsbD l = true ∧ (x.maskLevel ≤ l ∨ l = 7)) ∧
      ∀ m, l < m → m ≤ 7 → ¬(x.ipiPend.getLsbD m = true ∧ (x.maskLevel ≤ m ∨ m = 7))) ∧
    (∀ (s : State) (p : PenN), (s.pen p.val).irqLevel = none → exec (.interruptEntry p) s = .next s)

/-- INTERRUPT_ENTRY enters the handler of the interrupt's vector at its level and clears its pending bit (R214, R242).
IPI_ARRIVE brings the oldest interrupt of a level that was sent to a pen at least 11 cycles ago: it sets the pending bit on a
pen that runs, and counts as dropped on any other (R241 to R243); where none has come that far, nothing happens.
Where the manual leaves a choice, the statement rests on the model's own: assumption log 102. -/
def Obligations.InterruptsComplete : Prop :=
  (∀ (s : State) (p : PenN) (r : Run) (l : Nat) (h : Word) (lo hi : TlbEntry),
    (s.pen p.val).irqLevel = some l → (s.pen p.val).hold = .none → (s.pen p.val).blkDone = 0 →
    let t := (s.modPen p.val (fun x => { x with hold := .none })).modPen p.val
      (fun x => { x with ipiPend := x.ipiPend &&& ~~~ BitVec.ofNat 8 (2 ^ l) })
    t.CanEnter p.val r (16 + l) h lo hi →
    ∃ v, exec (.interruptEntry p) s = .next v ∧
      t.Entered v p.val r { vector := 16 + l, level := l } l (s.pen p.val).pc (bitAt (s.pen p.val).status 9) h lo hi ∧
      (∀ m, (v.pen p.val).ipiPend.getLsbD m = ((s.pen p.val).ipiPend.getLsbD m && m ≠ l)) ∧ OnlyPens [p.val] s v) ∧
  (∀ (s : State) (p : PenN) (level : BitVec 3),
    let due (f : IpiFly) : Bool := f.target = p.val && f.level = level.toNat && f.since + 11 ≤ s.cyc
    (∀ (a b : List IpiFly) (f : IpiFly), s.ipiFly = a ++ f :: b → (∀ g ∈ a, due g = false) → due f = true →
      let q := s.ipiTarget p.val
      let t : State := { s with ipiFly := a ++ b }
      ∃ v, exec (.ipiArrive p level) s = .next v ∧ OnlyPens [p.val, q] t v ∧
        (s.runLive q = true →
          v.pen q = { s.pen q with ipiPend := (s.pen q).ipiPend ||| BitVec.ofNat 8 (2 ^ level.toNat) } ∧
          (q ≠ p.val → v.pen p.val = s.pen p.val)) ∧
        (s.runLive q = false →
          v.pen p.val = { s.pen p.val with ipiDrop := satInc 0xFFFFFFFF (s.pen p.val).ipiDrop } ∧
          (q ≠ p.val → v.pen q = s.pen q))) ∧
    ((∀ f ∈ s.ipiFly, due f = false) → exec (.ipiArrive p level) s = .next s))

/-- What a pen executes is what it has fetched (R157, R190, R201): a block in the fetch buffer serves the next instruction
whatever memory holds by now; else the 16-byte block is translated and read, both words into the buffer, an address that
code may not be fetched from is refused with its bus cause, an uncorrectable word is bus cause UNCORRECTABLE, and without a
translation there is no fetch. At a pair boundary an unmasked interrupt comes before the next instruction (R226). A word
spells an instruction exactly if it has no illegal detail (R159 to R161), and a code word of another tag than RAW spells
none (R158).
Where the manual leaves a choice, the statement rests on the model's own: assumption log 6. -/
def Obligations.InstructionFetch : Prop :=
  (∀ (s : State) (p : Nat) (r : Run) (paired : Bool) (b : FetchBlock), (s.pen p).fbuf = some b →
     b.va = (s.pen p).pc.toNat / 16 →
     s.fetch p r paired = if (if bitAt (s.pen p).pc 3 then b.hi else b.lo) = none then .bus 2 s else .served s) ∧
  (∀ (s : State) (p : Nat) (r : Run) (paired : Bool), (∀ b, (s.pen p).fbuf = some b → b.va ≠ (s.pen p).pc.toNat / 16) →
     let c := s.ctxOf p r paired
     (∀ e, s.xlat c (s.pen p).pc .fetch = .hit e →
       let a := s.frameCpa c e (s.pen p).pc
       (isHostWin a = true → s.fetch p r paired = .bus 7 s) ∧
       (isHostWin a = false → (isInk a = false ∨ inkPen a ≠ r.home) → s.fetch p r paired = .bus 0x0C s) ∧
       (isInk a = true → isHostWin a = false → inkPen a = r.home → r.mode ≠ .duplex → s.mirrored a = false →
         s.fetch p r paired = .bus 6 s) ∧
       (isInk a = true → isHostWin a = false → inkPen a = r.home → (r.mode = .duplex ∨ s.mirrored a = true) →
         s.isJoined p = false →
         (∀ lo hi, s.peek (ownCopy p r.home (a / 16 * 16)) = .clean lo → s.peek (ownCopy p r.home (a / 16 * 16 + 8)) = .clean hi →
           s.fetch p r paired =
             .served (s.modPen p (fun x => { x with fbuf := some ⟨(s.pen p).pc.toNat / 16, some lo, some hi⟩ }))) ∧
         (∀ syn, s.peek (ownCopy p r.home (a / 8 * 8)) = .uncorrectable syn → p < 64 →
           ∃ t, s.fetch p r paired = .bus 2 t))) ∧
     (s.xlat c (s.pen p).pc .fetch = .miss → s.fetch p r paired = .untranslated)) ∧
  (∀ (s : State) (p : Nat), (s.pen p).irqLevel ≠ none → (∀ a b c, (s.pen p).hold ≠ .fabric a b c) → s.admitted p false = none) ∧
  (∀ (i : Iss) (w : Nat), w < 2 ^ 32 → ((decodeWord i w).isSome = true ↔ illegalDetail w = none)) ∧
  (∀ (x : Pen) (w : TWord), x.codeWord = some w → w.tag ≠ Tag.raw → x.illegal = some 4 ∧ ∀ i, x.fetched i = none)

/-- ILLEGAL_ENCODING and INSTRUCTION_BUS_FAULT take their exceptions at the program counter (R158, R159, R201, R286): the
first where the fetched word is no instruction, the second where the fetch meets a bus fault, with its cause. -/
def Obligations.FetchFaultsComplete : Prop :=
  ∀ (s t : State) (p : PenN) (r : Run) (h : Word) (lo hi : TlbEntry), s.runs p.val = some r → (s.pen p.val).hold = .none →
    (s.pen p.val).irqLevel = none →
    (∀ d, s.fetch p.val r false = .served t → (t.pen p.val).illegal = some d → t.CanEnter p.val r 1 h lo hi →
      ∃ v, exec (.illegalEncoding p) s = .next v ∧
        t.Entered v p.val r { vector := 1, level := 5, detail := d } (min 7 (max 5 (t.pen p.val).maskLevel)) (t.pen p.val).pc
          (bitAt (t.pen p.val).status 9) h lo hi) ∧
    (∀ b, s.fetch p.val r false = .bus b t → t.CanEnter p.val r 8 h lo hi →
      ∃ v, exec (.instructionBusFault p) s = .next v ∧
        t.Entered v p.val r { vector := 8, level := 5, bcause := b, addr := (s.pen p.val).pc }
          (min 7 (max 5 (t.pen p.val).maskLevel)) (t.pen p.val).pc (bitAt (t.pen p.val).status 9) h lo hi)

/-- A fault on a pen in service stops it (R102 to R104, R121) and raises its fault class: an IDLE pen outside RUN and
SAFE, and in RUN one that executes a DUPLEX primary run, whose drafts return to FAIR, whose recovery run is armed, and
which is handed to the blotter 64 cyc later (R79, R83, R110). Inter-pen interrupts that it issued and that have not
compared clean are not sent (R99, R102). A cross-link disagreement of a JOINED run, and a fault of both its pens in one
cycle, stop both pens and kill the run (R109). RESTART brings a STOPPED pen back in LOADED; FENCE fences a pen and
switches its domain off; an injection is armed on an IDLE pen in LOADED, or in the tests of BOOT, and refused elsewhere
(R121 to R123).
Where the manual leaves a choice, the statement rests on the model's own: assumption log 20, 22, 23. -/
def Obligations.PenFaultsComplete : Prop :=
  (∀ (s : State) (p : PenN) (rep : PenReport) (cause groups : Nat), s.powered = true → (s.pen p.val).ending = none →
     s.hasMirror p.val = false → s.Reports p.val rep cause groups →
     let u : State := { s with ipiFly := s.ipiFly.filter (fun f => f.src ≠ p.val ∨ f.since + 3 < s.cyc) }
     ((s.pen p.val).st = .idle → (s.pen p.val).run = none → s.dev ≠ .run → s.dev ≠ .safe →
       ∃ t : State, exec (.penFault p rep none) s = .next (t.raise (penEvent cause p.val 0x7FFF (cause + groups * 256))) ∧
         OnlyPens [p.val] u t ∧ (t.pen p.val).st = .stopped ∧ (t.pen p.val).run = none ∧
         FaultNoted s t p.val cause groups 0x7FFF) ∧
     (∀ r l, (s.pen p.val).st = .run → (s.pen p.val).run = some r → (s.pen p.val).hold = .none → s.dev = .run →
       r.mode = .duplex → r.recovery = false → bitsOf s.folio.rdCtrl 24 4 = 0 → s.line r.line = some l → l.isLig = false →
       (s.placeOf r.line l).recValid = true → s.folioCyc + 14 ≤ (s.placeOf r.line l).recStart →
       ∃ t : State, exec (.penFault p rep none) s = .next (t.raise (penEvent cause p.val r.line (cause + groups * 256))) ∧
         { t with pens := s.pens, vt := s.vt, folio := s.folio } = u ∧ (∀ q, q ≠ p.val → t.pen q = s.pen q) ∧
         t.folio = { s.folio with armed := s.folio.armed ++
           [⟨r.line, (s.placeOf r.line l).recPen, (s.placeOf r.line l).recStart⟩] } ∧
         (∀ n, t.vslot n = if n ∈ r.drafts then { s.vslot n with st := .fair, feedDraft := false, drafter := 0 }
           else s.vslot n) ∧
         (t.pen p.val).st = .stopped ∧ (t.pen p.val).run = none ∧ (t.pen p.val).sb = [] ∧
         (t.pen p.val).handAt = some (s.handedAt p.val) ∧ FaultNoted s t p.val cause groups r.line)) ∧
  (∀ (s : State) (k : Fin 32) (r r' : Run),
     let e := 2 * k.val
     (s.pen e).st = .run → (s.pen (e + 1)).st = .run → (s.pen e).ending = none → (s.pen (e + 1)).ending = none →
     (s.pen e).run = some r → (s.pen (e + 1)).run = some r' → r.mode = .joined → r'.mode = .joined → r'.line = r.line →
     (s.pen e).hold = .none → s.dev = .run → bitsOf s.folio.rdCtrl 24 4 = 0 →
     (∃ t : State, exec (.crosslinkDisagree k) s = .next (t.raise (penEvent 5 e r.line 5)) ∧
       s.BothStopped t e r (5, 0) (5, 0)) ∧
     (∀ (p : PenN) (x y : PenReport) (a b : Nat × Nat), p.val = e → s.Reports e x a.1 a.2 → s.Reports (e + 1) y b.1 b.2 →
       ∃ t : State, exec (.penFault p x (some y)) s = .next (t.raiseAll [penEvent a.1 e r.line (a.1 + a.2 * 256),
           penEvent b.1 (e + 1) r.line (b.1 + b.2 * 256), { cls := 0x13, line := r.line }]) ∧
         s.BothStopped t e r a b)) ∧
  (∀ (s : State) (p : PenN), s.powered = true →
     (s.dev = .loaded ∨ s.dev = .boot ∧ s.huv.testing = true → (s.pen p.val).st = .stopped →
       ∃ t, exec (.penCtrlRestart p) s = .next t ∧ OnlyPens [p.val] { s with blot := t.blot } t ∧
         (t.pen p.val).handAt = none ∧
         (if (s.pen p.val).stale = true ∧ s.hasMirror p.val = true ∧ s.copyValid (otherOf p.val) = true
           then (t.pen p.val).st = .resilver ∧
             t.blot = { s.blot with resilver := s.blot.resilver.filter (· ≠ p.val) ++ [p.val] }
           else (t.pen p.val).st = .idle ∧ t.blot = s.blot)) ∧
     ((s.pen p.val).st ≠ .stopped → exec (.penCtrlRestart p) s = .next s) ∧
     ((s.pen p.val).st = .idle → (s.pen p.val).run = none → (s.pen p.val).ending = none → s.hasMirror p.val = false →
       s.blot.marching = none →
       ∃ t : State, exec (.penCtrlFence p) s = .next (t.raise (penEvent 0x09 p.val 0x7FFF)) ∧
         { t with pens := s.pens, blot := s.blot, pwr := s.pwr, folio := s.folio } = s ∧
         (∀ q, q ≠ p.val → t.pen q = s.pen q) ∧ (t.pen p.val).st = .fenced ∧
         (∀ w, s.blot.pass = some w → isInk w.base = true → inkPen w.base = p.val → t.blot.pass = some { w with cut := true }) ∧
         t.pwr = { s.pwr with penOn := setBit s.pwr.penOn p.val false, reqPen := setBit s.pwr.reqPen p.val false } ∧
         t.folio = (if s.folio.running = true ∧ bitAt s.folio.rdCtrl 0 = true then { s.folio with rd := .wanted } else s.folio)) ∧
     (∀ g : Fin 8, (s.pen p.val).penLock = false →
       let may := (s.pen p.val).st = .idle ∧ (s.dev = .loaded ∨ s.dev = .boot ∧ s.huv.testing = true)
       (may → ∃ t, exec (.penInjectArm p g) s = .next t ∧ OnlyPens [p.val] s t ∧
         t.pen p.val = { s.pen p.val with inject := BitVec.ofNat 64 (256 + g.val) }) ∧
       (¬may → exec (.penInjectArm p g) s = .next (s.raise { cls := 0x80, addr := 0x404010C0 + p.val * 0x10000 }))))

/-! ## The folio engine -/

/-- FOLIO_TICK begins a folio (R30, R46, R51, R58, R81): time, cycle and number of the folio, reservoir owners and grants
from the active ruling, drafted INPUT pages swapped, per-folio state reset, and no word of memory changed. The hypotheses
leave out what other rows bring to a tick: runs, messages, frames, records, waiting commands, an armed switch and a partner.
Where the manual leaves a choice, the statement rests on the model's own: assumption log 81. -/
def Obligations.FolioTickCompletes : Prop :=
  ∀ s : State, s.tickDue = true → s.folio.running = true → s.folio.counted = true →
    (∀ p, p < 64 → (s.pen p).run = none ∧ (s.pen p).ending = none) →
    s.huv.waiting = [] → s.hif.qps = [] → s.feed.descs = [] → s.feed.dropNext = [] → s.folio.shedDue = [] →
    s.folio.swArm = false → s.trc = {} → (s.vt.map (·.1)).Nodup → s.feed.rxq = [] → (∀ w ∈ s.folio.wins, w.wtype ≠ 2) →
    (∀ m, (s.mac m).txq = []) → (∀ c, (s.can c).txq = []) →
    ∃ t, exec .folioTick s = .next t ∧ t.mem = s.mem ∧ t.pending = s.pending ∧
      t.folio.tickTime = BitVec.ofNat 64 s.thisTick ∧ t.folio.tickCyc = s.cyc ∧ t.folio.number = s.folio.number + 1 ∧
      t.folio.lastLen = s.cyc - s.folio.tickCyc ∧ t.folio.minLen = min s.folio.minLen (s.cyc - s.folio.tickCyc) ∧
      t.folio.wins = [] ∧ t.folio.armed = [] ∧ t.folio.spent = [] ∧ t.folio.handed = [] ∧ t.folio.actSlot = s.folio.actSlot ∧
      (∀ r, r < 32 →
        (t.rsvOf r).grant = s.active.header.getD (8 + r) 0 ∧
        (t.rsvOf r).owner =
          let pin := if (s.rsvOf r).pinAt + 4096 ≤ s.cyc then ((s.rsvOf r).pin, (s.rsvOf r).pinOwner) else (s.rsvOf r).pinOld
          if pin.1 then pin.2 else bitsOf (s.active.header.getD (4 + r / 8) 0) (8 * (r % 8)) 7) ∧
      (∀ n, (s.vslot n).kind = .input → (s.vslot n).valid = true → (s.vslot n).st = .drafted →
        t.vslot n = { s.vslot n with
          fair := !(s.vslot n).fair, st := .fair, feedDraft := false, drafter := 0, held := false
          seq := BitVec.ofNat 16 (s.folio.number + 1).toNat }) ∧
      (∀ n, (s.vslot n).kind ≠ .input → t.vslot n = s.vslot n)

/-- RUN_START and RECOVERY_RUN_START come after the boundary actions of their cycle (R51): where nothing is due these change
nothing, and the handover list of the one run that starts sets owners and grants in list order (R45, R46). The line's words
are then read, and a line with an unreadable word is not played (R39). A DUPLEX line starts on a free pen in the state of
R43; the recovery run differs in nothing that code can see.
Where the manual leaves a choice, the statement rests on the model's own: assumption log 104, 107. -/
def Obligations.RunsStart : Prop :=
  (∀ s : State, s.NothingEnds →
     ((∀ j, j < s.active.lines → s.startDue j = false ∧ s.recoveryDue j = none) → s.boundary = s) ∧
     (∀ i l p, (∀ j, j < s.active.lines → j ≠ i → s.startDue j = false ∧ s.recoveryDue j = none) → s.line i = some l →
       (s.lineWords s.active i).all s.storeGood = true → s.startDue i = true → s.recoveryDue i = none →
       s.startsOn i l = some p → (i, false) ∉ s.folio.handed →
       let t := s.boundary
       { t with rsv := s.rsv, folio := s.folio } = s ∧
         t.folio = { s.folio with handed := (i, false) :: s.folio.handed } ∧
         ∀ r, t.rsvOf r = { s.rsvOf r with
           owner := (handedOver (s.handovers s.active l) l.pen p r ((s.rsvOf r).owner, (s.rsvOf r).grant)).1
           grant := (handedOver (s.handovers s.active l) l.pen p r ((s.rsvOf r).owner, (s.rsvOf r).grant)).2 })) ∧
  (∀ (s u : State) (i : LineN), s.boundary.readLine i.val = (none, u) →
    (s.startDue i.val = true → exec (.runStart i) s = .next u) ∧
    ((s.recoveryDue i.val).isSome = true → exec (.recoveryRunStart i) s = .next u)) ∧
  (∀ (s u : State) (i : LineN) (l : RLine), s.Plays i.val l u → l.isLig = false →
    (s.startDue i.val = true → u.startDue i.val = true → u.penFree (u.placeOf i.val l).pen = true →
      (i.val, false) ∈ u.folio.handed →
      let q := (u.placeOf i.val l).pen
      ∃ t, exec (.runStart i) s = .next t ∧ StartState u l i.val (t.pen q) ∧
        (t.pen q).st = .run ∧ (t.pen q).sb = [] ∧ (t.pen q).ipiPend = 0 ∧ (t.pen q).syn = 0 ∧
        (t.pen q).sealed = u.ptWord l.part 2 &&& 0x7777777777777777 ∧
        (t.pen q).run = some (startedRun i.val l.part q (u.placeOf i.val l).start (u.placeOf i.val l).budget false) ∧
        OnlyPens [q] { u with folio := { u.folio with spent := i.val :: u.folio.spent } } t) ∧
    (∀ a, (s.recoveryDue i.val).isSome = true → u.recoveryDue i.val = some a → u.recoveryFree a = true →
      (i.val, true) ∈ u.folio.handed →
      ∃ t, exec (.recoveryRunStart i) s = .next t ∧ StartState u l i.val (t.pen a.pen) ∧ (t.pen a.pen).st = .run ∧
        (t.pen a.pen).run = some (startedRun i.val l.part a.pen a.start l.budget true) ∧
        OnlyPens [a.pen]
          { u with folio := { u.folio with armed := u.folio.armed.filter (fun b => b.line ≠ i.val) } } t))

/-- RUN_BUDGET_END kills a run that has not issued LINEND by the end of its window (R52, R53): nothing is published, its
drafts return to FAIR, the pen is idle, and LATE is counted and raised; a start in that cycle comes after it (R51, step
2). A line whose pen is out of service runs at its recovery column, and without one has no run (R54, R87).
Where the manual leaves a choice, the statement rests on the model's own: assumption log 22, 25. -/
def Obligations.FailedRuns : Prop :=
  (∀ (s : State) (i : LineN) (p : Nat) (r : Run), s.folio.running = true → p < 64 → (s.pen p).st = .run →
     (s.pen p).run = some r → r.line = i.val → r.linend = none → r.winEnd = s.folioCyc → r.mode = .duplex →
     (s.pen p).hold = .none → (∀ q x, q < 64 → q ≠ p → (s.pen q).run = some x → x.line ≠ i.val) →
     ∃ t : State, exec (.runBudgetEnd i) s = .next (t.raise { cls := 0x10, line := i.val }) ∧
       t.folio = { s.folio with lateCnt := satInc 0xFFFFFFFF s.folio.lateCnt, event := s.folio.event ||| 0x10 } ∧
       { t with pens := s.pens, vt := s.vt, folio := s.folio } = s ∧ (∀ q, q ≠ p → t.pen q = s.pen q) ∧
       (t.pen p).st = .idle ∧ (t.pen p).run = none ∧ (t.pen p).sb = [] ∧
       (∀ n, t.vslot n = if n ∈ r.drafts then { s.vslot n with st := .fair, feedDraft := false, drafter := 0 }
         else s.vslot n)) ∧
  (∀ (s : State) (i : LineN) (p : Nat) (r : Run), s.folio.running = true → p < 64 → (s.pen p).st = .run →
     (s.pen p).run = some r → r.line = i.val → r.linend = none → r.winEnd = s.folioCyc →
     (∀ q x, q < 64 → q ≠ p → (s.pen q).st = .run → (s.pen q).run = some x → x.linend = none → x.winEnd ≠ s.folioCyc) →
     exec (.runBudgetEnd i) s = .next s.killLate) ∧
  (∀ (s u : State) (i : LineN) (l : RLine), s.Plays i.val l u → l.isLig = false → s.startDue i.val = true →
     u.startDue i.val = true →
     let q := u.placeOf i.val l
     u.penFree q.pen = false →
     let t : State := { u with folio := { u.folio with spent := i.val :: u.folio.spent } }
     (q.recValid = true → exec (.runStart i) s = .next
       { t with folio := { t.folio with armed := u.folio.armed ++ [⟨i.val, q.recPen, q.recStart⟩] } }) ∧
     (q.recValid = false → exec (.runStart i) s = .next (t.raise { cls := 0x11, line := i.val })))

/-- WINDOW_OPEN and WINDOW_CLOSE (R47, R49, R50), after the boundary actions of their cycle (R51): a FETCH or MARCH window is
open from its START for its LENGTH, a GATE line sets its MAC's gates and is never open, and a line with an unreadable word
is not played (R39).
Where the manual leaves a choice, the statement rests on the model's own: assumption log 39, 107. -/
def Obligations.WindowsComplete : Prop :=
  (∀ (s u : State) (i : LineN) (reach : Nat) (crc : Bool), s.boundary.readLine i.val = (none, u) → s.openDue i.val = true →
    exec (.windowOpen i reach crc) s = .next u) ∧
  (∀ (s w : State) (i : LineN) (l : RLine) (reach : Nat) (crc : Bool), s.Plays i.val l w → s.openDue i.val = true →
    w.openDue i.val = true →
    let t : State := { w with folio := { w.folio with spent := i.val :: w.folio.spent } }
    let u : State := { t with folio := { t.folio with
      wins := w.folio.wins ++ [⟨i.val, l.wtype, l.part, l.arg, l.start, l.len⟩] } }
    (l.wtype = 1 → exec (.windowOpen i reach crc) s = .next u) ∧
    (l.wtype = 4 → ∃ v, exec (.windowOpen i reach crc) s = .next v ∧ { v with blot := w.blot } = u ∧
      { v.blot with stopped := w.blot.stopped, skipSeen := w.blot.skipSeen, skipRun := w.blot.skipRun } = w.blot ∧
      (∀ r, r ∈ v.blot.stopped ↔ r ∈ w.blot.stopped ∧ l.arg.testBit r = false) ∧
      (∀ k, k ∈ v.blot.skipSeen ↔ k ∈ w.blot.skipSeen ∧ l.arg.testBit (k / 2048) = false) ∧
      (∀ e, e ∈ v.blot.skipRun ↔ e ∈ w.blot.skipRun ∧ (l.arg.testBit (e.1 / 2048) = true → e.1 ∈ w.blot.skipSeen))) ∧
    (l.wtype = 5 → ∃ v, exec (.windowOpen i reach crc) s = .next v ∧ { v with folio := t.folio } = t ∧
      { v.folio with gates := t.folio.gates } = t.folio ∧
      ∀ m, Table.get (fun _ => 255) v.folio.gates m =
        if m = l.unit then l.arg % 256 else Table.get (fun _ => 255) w.folio.gates m)) ∧
  (∀ (s : State) (i : LineN) (w : Win), s.folio.wins.find? (fun w => w.line = i.val ∧ w.start + w.len = s.folioCyc) = some w →
    s.killLate.folio.wins.contains w = true → w.wtype ≠ 2 →
    ∃ v, exec (.windowClose i) s = .next v ∧
      v.folio = { s.killLate.folio with wins := s.killLate.folio.wins.filter (fun x => x.line ≠ i.val) } ∧
      { v with folio := s.killLate.folio } = s.killLate)

/-- FETCH_MESSAGE takes the next message of an open FETCH window's set (R336): where the arbiter lets the queue (R341), the read
of its first entry goes to the host; a fabric CRC error ends it with FABRIC_ERROR (R20). HOST_COMPLETION and
COMPLETION_TIMEOUT (R326, R332): a POINTER entry makes the part read its buffer in steps of the Max Read Request Size, the
last entry's payload lands in the INPUT draft and its status is OK, and a failed read ends the message with HOST_ERROR.
Where the manual leaves a choice, the statement rests on the model's own: assumption log 8, 41. -/
def Obligations.FetchAndCompletions : Prop :=
  (∀ (s : State) (q : QpN) (k : Nat), s.dev = .run → s.linkOk = true →
     s.fetchSets.find? (fun k => (s.setQueues k).contains q.val) = some k → s.fetching k = false →
     s.nextQueue k = some q.val →
     let c := s.queue q.val
     c.dHead < 65536 → c.dTail < 65536 →
     let m : QMsg := { first := c.dHead, desc := k, folio := s.folio.number }
     let next := ((s.setQueues k).idxOf q.val + 1) % max 1 (s.setQueues k).length
     let u := ({ s with feed := { s.feed with rr := Table.set (fun _ => 0) s.feed.rr k next } }).modQueue q.val
       (fun c => { c with msgs := [m] })
     let a := c.dBase + c.dHead % c.dSize * 64
     (u.grant q.val = 0 → exec (.fetchMessage q false) s = .next u) ∧
     (u.grant q.val ≠ 0 → ∃ t, exec (.fetchMessage q false) s = .next t ∧
       t.out = s.out ++ [.hostRead a 64 (s.ideStream a)] ∧
       t.queue q.val = { c with msgs := [{ m with reading := true, asked := 64 }] } ∧
       (∀ j, j ≠ q.val → t.queue j = s.queue j) ∧
       { t with out := s.out, hif := { t.hif with qps := u.hif.qps, arb := u.hif.arb } } = u) ∧
     (∃ (t : State), exec (.fetchMessage q true) s = .next (t.raise { cls := 0x17, detail :=
         ((s.channels k).find? (fun e => dType e.2 = 2 && dQueue e.2 = q.val)).elim 0 (·.1) + 7 * 4096 }) ∧
       s.StatusPosted t [] q.val { c with dHead := (c.dHead + 1) % 65536 } 7 0 ((c.dHead + 1) % 65536) 1 0 s.folio.number ∧
       { t with out := s.out, hif := s.hif, feed := s.feed } = s)) ∧
  (∀ (s : State) (q : QpN) (m : QMsg), (s.queue q.val).msgs = [m] → m.reading = true → (s.queue q.val).toHost = false →
     let c := s.queue q.val
     let past := (m.first + m.posted + 1) % 65536
     let fails (u : State) (o : Host.Outcome State Fault Refusal) : Prop :=
       ∃ t : State, o = .next (t.raise { cls := 0x63, detail := q.val }) ∧
         u.StatusPosted t [] q.val { c with msgs := [], dHead := past } 6 m.len past (m.posted + 1) m.msgSeq m.folio ∧
         { t with out := u.out, hif := u.hif } = u
     (m.ptr = none →
       fails (s.noteAer .poisoned) (exec (.hostCompletion q .poisoned) s) ∧
       fails s (exec (.hostCompletion q .unsupported) s) ∧ fails s (exec (.hostCompletion q .abort) s) ∧
       fails (s.noteAer .completionTimeout) (exec (.completionTimeout q) s) ∧
       ∀ ws, (s.hif.ecrcChk = true → fails (s.noteAer .ecrc) (exec (.hostCompletion q (.ecrcBad ws)) s))) ∧
     (∀ ws, s.hif.ecrcChk = false → exec (.hostCompletion q (.ecrcBad ws)) s = exec (.hostCompletion q (.data ws)) s) ∧
     (∀ ws : List Word, m.ptr = none → m.bad = 0 → m.posted = 0 → ws.length = 8 →
       let h := ws.getD 0 0
       (pointerOk ws = true → bitAt h 8 = true →
         let a := (ws.getD 1 0).toNat
         let n := bitsOf (ws.getD 2 0) 0 32
         let size := min (min 4096 (128 * 2 ^ s.hif.maxRead)) n
         let m' : QMsg := { m with reading := false, msgSeq := bitsOf h 16 16, posted := 1, ptr := some (a, n) }
         let u := s.modQueue q.val (fun c => { c with msgs := [m'] })
         m.len + n ≤ 262144 → m.len + n ≤ (s.inPlaces m.desc q.val).length → s.fetchSets.contains m.desc = true →
         s.linkOk = true → u.grant q.val ≠ 0 →
         ∃ t, exec (.hostCompletion q (.data ws)) s = .next t ∧ t.out = s.out ++ [.hostRead a size (s.ideStream a)] ∧
           t.queue q.val = { c with msgs := [{ m' with reading := true, asked := size, folio := s.folio.number }] } ∧
           (∀ j, j ≠ q.val → t.queue j = s.queue j) ∧
           { t with out := s.out, hif := { t.hif with qps := s.hif.qps, arb := s.hif.arb } } = s) ∧
       (∀ slot j : Nat, bitAt h 8 = false → bitAt h 6 = true → bitAt h 7 = true → bitsOf h 0 6 = 8 →
         bitsOf h 9 7 = 0 → bitsOf h 32 31 = 0 → m.len + 8 ≤ 262144 → j < 512 →
         ((s.inPlaces m.desc q.val).drop m.len).take 8 = (List.range 8).map (fun b => (slot, 8 * j + b)) →
         let v := s.vslot slot
         let cpa := v.draftFrame * 4096 + 8 * j
         v.st = .drafted → s.draftReady slot = true → s.bankReady cpa = true → s.mirrored cpa = false →
         ∃ t, exec (.hostCompletion q (.data ws)) s = .next t ∧ t.peek cpa = .clean (TWord.raw (ws.getD 1 0)) ∧
           (∀ b, b / 8 ≠ cpa / 8 → t.peekCode b = s.peekCode b) ∧
           s.StatusPosted t [] q.val { c with msgs := [], dHead := past } 0 (m.len + 8) past 1 (bitsOf h 16 16) m.folio ∧
           { t with out := s.out, hif := s.hif, mem := s.mem } = s)))

/-- POST_MESSAGE gathers a queue's messages and, where the arbiter grants the queue an entry (R341), writes a message of
up to 56 bytes as one data entry and its status (R332, R333, R337); QUEUE_INTERRUPT clears the moderation count and
requests the queue's vector (R339, R340).
Where the manual leaves a choice, the statement rests on the model's own: assumption log 41, 42, 43. -/
def Obligations.PostAndInterruptComplete : Prop :=
  (∀ (s : State) (q : QpN) (m : QMsg) (rest : List QMsg) (bs : List Byte) (ws : List TWord), s.dev = .run →
    s.linkOk = true →
    let c := s.queue q.val
    c.en = true → c.toHost = true → c.msgs = m :: rest → m.bytes = none → m.bad = 0 → m.posted = 0 → s.overtaken m = false →
    s.gather (s.desc m.desc) (m.frame * 4096) m.elems = (.ok bs ws, s) → 1 ≤ bs.length → bs.length ≤ 56 →
    c.dTail < 65536 → c.dUsed < c.dSize →
    let a := c.dBase + c.dTail % c.dSize * 64
    (∀ rest', State.gatherMsgs rest s = (rest', s) →
      let u := s.modQueue q.val (fun c => { c with msgs := { m with bytes := some bs, len := bs.length } :: rest' })
      64 ≤ u.grant q.val →
      ∃ (t : State) (h : Word), exec (.postMessage q false) s = .next t ∧
      bitsOf h 0 6 = bs.length ∧ bitAt h 6 = true ∧ bitAt h 7 = true ∧ bitAt h 8 = false ∧
      bitsOf h 16 16 = m.msgSeq % 65536 ∧ bitAt h 63 = decide (c.dTail / c.dSize % 2 = 0) ∧
      s.StatusPosted t [.hostWrite a (h :: bytesWords 7 (bs ++ List.replicate (56 - bs.length) 0)) (s.ideStream a)] q.val
        { c with msgs := rest', dTail := (c.dTail + 1) % 65536 } 0 bs.length c.dTail 1 m.msgSeq m.folio ∧
      t.desc m.desc = { s.desc m.desc with newStatus := some (0, s.folio16) } ∧
      (∀ d, d ≠ m.desc → t.desc d = s.desc d) ∧
      { t with out := s.out, hif := s.hif, feed := { t.feed with descs := s.feed.descs } } = s) ∧
    (∃ t, exec (.postMessage q true) s = .next t ∧
      s.StatusPosted t [] q.val { c with msgs := rest } 7 0 c.dTail 0 m.msgSeq m.folio ∧
      t.desc m.desc = { s.desc m.desc with newStatus := some (7, s.folio16) } ∧
      (∀ d, d ≠ m.desc → t.desc d = s.desc d) ∧
      { t with out := s.out, hif := s.hif, feed := { t.feed with descs := s.feed.descs } } = s)) ∧
  (∀ (s : State) (q : QpN),
    let c := s.queue q.val
    c.vecEn = true → 0 < c.mod →
    (max 1 c.modCount ≤ c.mod ∨ (c.modTime ≠ 0 ∧ c.modAt.toNat + 1000 * c.modTime ≤ s.aon.time.toNat)) →
    ∃ t u : State, t.queue q.val = { c with mod := 0 } ∧ (∀ j, j ≠ q.val → t.queue j = s.queue j) ∧
      { t with hif := { t.hif with qps := s.hif.qps } } = s ∧ t.MsixAsked c.vector (.next u) ∧
      exec (.queueInterrupt q) s = .next { u with hif := { u.hif with arb := (u.chargeLink c.group 4).hif.arb } })

/-- MARCH_SEGMENT on a row of clean words (R295, R296): a good row counts as tested; a failed one is recorded and stops
its bank; an access that reached the row makes it skipped, and SKIPPED at the 16th window running; one that reached an
inkwell's row ends borrowing from that pen for its run (R217). SELFTEST_START hands a stopped pen to a free port or lets
it wait (R83, R85). SELFTEST_VERDICT (R86) frees the port: a pass lets the pen return at a tick, a failure fences it and
switches its domain off. RESILVER_COMPLETE (R113) has copied every mirrored page.
Where the manual leaves a choice, the statement rests on the model's own: assumption log 23, 36, 37. -/
def Obligations.MarchAndSelftests : Prop :=
  ((∀ (s : State) (r : Fin 32) (row : Fin 2048),
     let base := 0x10000000 + r.val * 0x100000 + 512 * row.val
     let k := r.val * 2048 + row.val
     s.blotOn = true → s.blot.ports.length < 2 → s.bankReady (rsvBase r.val) = true →
     (∃ w ∈ s.folio.wins, w.wtype = 4 ∧ w.arg.testBit r.val = true) → r.val ∉ s.blot.stopped → k ∉ s.blot.skipSeen →
     (∀ j, j < 64 → ∃ w, s.peek (base + 8 * j) = .clean w) →
     let n := Table.get (fun _ => 0) s.blot.skipRun k + 1
     (∃ t, exec (.marchSegment (.rsv r) row .good) s = .next t ∧ { t with blot := s.blot } = s ∧
       { t.blot with skipRun := s.blot.skipRun } = { s.blot with tested := satInc 0xFFFF s.blot.tested } ∧
       ∀ i, Table.get (fun _ => 0) t.blot.skipRun i = if i = k then 0 else Table.get (fun _ => 0) s.blot.skipRun i) ∧
     (let t := { s with blot := { s.blot with failed := true, failCpa := base } }.raise
         { cls := 0x34, utype := 3, unit := r.val, addr := base };
       exec (.marchSegment (.rsv r) row .cellFail) s =
         .next { t with blot := { t.blot with stopped := t.blot.stopped ++ [r.val] } }) ∧
     (∃ t, exec (.marchSegment (.rsv r) row .yielded) s = .next t ∧ { t with blot := s.blot } = s ∧
       { t.blot with skipRun := s.blot.skipRun } = { s.blot with
         skipSeen := k :: s.blot.skipSeen
         skipped := if n = 16 then satInc 0xFFFF s.blot.skipped else s.blot.skipped } ∧
       ∀ i, Table.get (fun _ => 0) t.blot.skipRun i =
         if i = k then (if n = 16 then 0 else n) else Table.get (fun _ => 0) s.blot.skipRun i) ∧
     exec (.marchSegment (.rsv r) row .windowEnd) s = .next s ∧
     (let t := { s with blot := { s.blot with failed := true } }.raise { cls := 0x39 };
       exec (.marchSegment (.rsv r) row .fabricError) s =
         .next { t with blot := { t.blot with stopped := t.blot.stopped ++ [r.val] } })) ∧
   (∀ (s : State) (p : PenN) (b : Fin 2) (row : Fin 2048) (mr : MarchRun),
     let base := p.val * 0x80000 + b.val * 0x40000 + 512 * row.val
     s.blotOn = true → s.blot.ports.length < 2 → s.bankReady (p.val * 0x80000 + b.val * 0x40000) = true →
     s.blot.marching = some mr → mr.pen = p.val → mr.bank = b.val → mr.row = row.val → row.val < 512 →
     s.ligatureWindow p.val = false → (s.pen p.val).noBorrow = false → (∀ j, j < 64 → ∃ w, s.peek (base + 8 * j) = .clean w) →
     let t : State := { s with blot := { s.blot with
       tested := satInc 0xFFFF s.blot.tested, marching := some { mr with row := row.val + 1 } } }
     (∃ v, exec (.marchSegment (.ink p b) row .yielded) s = .next v ∧ OnlyPens [p.val] s v ∧
       v.pen p.val = { s.pen p.val with noBorrow := (s.pen p.val).run.isSome }) ∧
     (row.val < 511 → exec (.marchSegment (.ink p b) row .good) s = .next t) ∧
     (row.val = 511 → { t with blot := { t.blot with marching := none } }.Ends mr.mb 0
       [BitVec.ofNat 64 (t.blot.tested + s.blot.skipped * 2 ^ 16 + bitN s.blot.failed * 2 ^ 32),
         BitVec.ofNat 64 s.blot.failCpa] (exec (.marchSegment (.ink p b) row .good) s)))) ∧
  ((∀ (s : State) (p : PenN) (c : Nat), (s.pen p.val).handAt = some c → (s.pen p.val).st = .stopped → c ≤ s.cyc →
     s.blotOn = true →
     (s.blot.ports.length < 2 → s.blot.waitQ = [] →
       ∃ t, exec (.selftestStart p) s = .next t ∧ OnlyPens [p.val] { s with blot := t.blot } t ∧
         t.blot = { s.blot with ports := s.blot.ports ++ [p.val] } ∧
         ∃ k, t.pen p.val = { s.pen p.val with st := .test, handAt := none, testPort := some k } ∧ k < 2 ∧
           (k = 1 ↔ ∃ q ∈ s.blot.ports, (s.pen q).testPort = some 0)) ∧
     (2 ≤ s.blot.ports.length →
       ∃ t, exec (.selftestStart p) s = .next t ∧ OnlyPens [p.val] { s with blot := t.blot } t ∧
         t.blot = { s.blot with waitQ := s.blot.waitQ ++ [p.val] } ∧
         t.pen p.val = { s.pen p.val with st := .testWait, handAt := none })) ∧
   (∀ (s : State) (p : PenN), (s.pen p.val).st = .test → (s.pen p.val).passAt = none →
     let freed : Blot := { s.blot with
       ports := s.blot.ports.filter (· ≠ p.val), waitQ := s.blot.waitQ.filter (· ≠ p.val)
       resilver := s.blot.resilver.filter (· ≠ p.val) }
     (((s.pen p.val).stale = false ∨ s.hasMirror p.val = false) → s.folio.running = true →
       ∃ t : State, exec (.selftestVerdict p .pass) s = .next (t.raise (penEvent 0x08 p.val 0x7FFF)) ∧
         OnlyPens [p.val] { s with blot := freed } t ∧
         t.pen p.val = { s.pen p.val with testPort := none, handAt := none, passAt := some s.cyc }) ∧
     ((s.pen p.val).run = none → (s.pen p.val).ending = none → s.hasMirror p.val = false → s.blot.marching = none →
       ∃ t : State, exec (.selftestVerdict p .fail) s = .next (t.raise (penEvent 0x09 p.val 0x7FFF)) ∧
         { t with pens := s.pens, pwr := s.pwr, folio := s.folio } = { s with blot := { freed with
           pass := s.blot.pass.map (fun w => if isInk w.base && inkPen w.base = p.val then { w with cut := true } else w) } } ∧
         (∀ q, q ≠ p.val → t.pen q = s.pen q) ∧ (t.pen p.val).st = .fenced ∧
         t.pwr = { s.pwr with
           penOn := setBit s.pwr.penOn p.val false, reqPen := setBit s.pwr.reqPen p.val false } ∧
         t.folio = (if s.folio.running = true ∧ bitAt s.folio.rdCtrl 0 = true then { s.folio with rd := .wanted }
           else s.folio)) ∧
     exec (.selftestVerdict p .blotterFault) s =
       .next (raised ((s.raise (penEvent 0x0A p.val 0x7FFF)).fencePen p.val))) ∧
   (∀ (s : State) (p : PenN),
     let o := if p.val % 2 = 0 then p.val + 1 else p.val - 1
     (s.pen p.val).st = .resilver → (s.pen p.val).passAt = none → s.blotOn = true → s.ligatureWindow o = false →
     s.copyValid o = true →
     s.folio.running = true →
     (∀ g ∈ s.mirrorPages p.val, ∀ i, i < 512 → ∃ w, s.peek (o * 0x80000 + 4096 * g + 8 * i) = .clean w) →
     ∃ t, exec (.resilverComplete p) s = .next t ∧
       (∀ g ∈ s.mirrorPages p.val, ∀ i, i < 512 →
         t.peek (p.val * 0x80000 + 4096 * g + 8 * i) = s.peek (o * 0x80000 + 4096 * g + 8 * i)) ∧
       (∀ b, (∀ g ∈ s.mirrorPages p.val, b / 4096 ≠ p.val * 128 + g) → t.peekCode b = s.peekCode b) ∧
       t.pen p.val = { s.pen p.val with passAt := some s.cyc } ∧ t.pen o = { s.pen o with recopy := [] } ∧
       OnlyPens [p.val, o] { s with
         mem := t.mem, blot := { s.blot with resilver := s.blot.resilver.filter (· ≠ p.val) } } t))

/-- Scrubs (R39, R105, R291, R292, R294) of a pass over one word and of a word of the ruling store: a corrected word is written
back corrected, in both copies of a mirrored page, and the pass ends with its summary. BLOT_SCRUB_START, BLOT_SCRUB_ABORT
and BLOT_ML_CLEAR (R290, R301) start a pass, end it as ABORTED and empty the margin log. CHECKER_INJECT_WRITE (R297) stores
the codeword with the armed bits flipped, spends the arm and keeps the word for the read that judges it; BANK_FILL_DONE
(R288) leaves a bank with what a fill writes.
Where the manual leaves a choice, the statement rests on the model's own: assumption log 34, 35. -/
def Obligations.ScrubsAndFills : Prop :=
  ((∀ (s : State) (a : Nat) (w : TWord) (syn : Nat), s.blot.pass = some { base := a, len := 1, mb := none } → a % 8 = 0 →
     s.bankReady a = true → s.bankReady (s.readAt a) = true → 0 < s.scrubPorts →
     (isInk a = true → s.ligatureWindow (inkPen a) = false) → s.peek (s.readAt a) = .corrected w syn →
     s.blot.ml.length < 64 →
     ∃ t, exec (.scrubPassEnd .completed) s = .next t ∧
       (∀ c ∈ s.writeAt a, s.bankReady c = true → t.peek c = .clean w) ∧
       (∀ b, (∀ c ∈ s.writeAt a, b / 8 ≠ c / 8) → t.peekCode b = s.peekCode b) ∧ t.blot.pass = none ∧
       bitsOf t.blot.sum0 0 3 = 1 ∧ bitsOf t.blot.sum0 8 24 = 1 ∧
       bitsOf t.blot.sum0 32 16 = satInc 0xFFFF (bitsOf s.blot.sum0 32 16) ∧
       t.blot.sum1 = s.blot.sum1 ∧ t.blot.sum2 = s.folio.number ∧ (∃ x ∈ t.blot.ml, x.cpa = s.readAt a)) ∧
   (∀ (s : State) (i : Fin 147456) (w : TWord) (syn : Nat), s.blotOn = true → s.dev = .run → s.blot.ml.length < 64 →
     judge (parityN 18 i.val) (Table.get fillStore s.rul.store i.val) = .corrected w syn →
     ∃ t, exec (.rulingStoreScrub i) s = .next t ∧
       judge (parityN 18 i.val) (Table.get fillStore t.rul.store i.val) = .clean w ∧
       (∀ j, j ≠ i.val → Table.get fillStore t.rul.store j = Table.get fillStore s.rul.store j) ∧
       { t with rul := s.rul, blot := s.blot, free := s.free } = s ∧ { t.rul with store := s.rul.store } = s.rul ∧
       { t.blot with ml := s.blot.ml } = s.blot ∧ (∃ x ∈ t.blot.ml, x.cpa = i.val)) ∧
   (∀ s : State, s.huvasUp = true →
     (s.blot.pass = none → s.blotOn = true → exec .blotScrubStart s = .next { s with blot := { s.blot with
       pass := some { base := bitsOf s.blot.scrBase 3 45 * 8, len := bitsOf s.blot.scrLen 0 18, mb := none }
       sum0 := 0, sum1 := 0, sum2 := 0 } }) ∧
     (∀ a n, s.blot.pass = some { base := a, len := n, mb := none } →
       (∀ j, j < n → ∃ w, s.peek (s.readAt (a + 8 * j)) = .clean w) →
       ∃ t, exec .blotScrubAbort s = .next t ∧ { t with blot := s.blot, free := s.free } = s ∧
         { t.blot with pass := s.blot.pass, sum0 := s.blot.sum0 } = { s.blot with sum2 := s.folio.number } ∧
         t.blot.pass = none ∧ bitsOf t.blot.sum0 0 3 = 4 ∧ (n < 2 ^ 24 → bitsOf t.blot.sum0 8 24 ≤ n) ∧
         (∀ j, 32 ≤ j → bitAt t.blot.sum0 j = bitAt s.blot.sum0 j)) ∧
     exec .blotMlClear s = .next { s with blot := { s.blot with ml := [], mlOver := 0, mlFull := false } })) ∧
  ((∀ (s : State) (b : Bank) (w : TWord), s.huvasUp = true → s.bankArmed b = true → s.bankReady (bankBase b) = true →
     let arm : Word × Word × Word := match b with
       | .ink p _ => ((s.pen p.val).injAddr, (s.pen p.val).injFlip0, (s.pen p.val).injFlip1)
       | .rsv r => ((s.rsvOf r.val).injAddr, (s.rsvOf r.val).injFlip0, (s.rsvOf r.val).injFlip1)
     let a := match b with
       | .ink p k => p.val * 0x80000 + k.val * 0x40000 + 8 * bitsOf arm.1 0 16
       | .rsv r => 0x10000000 + r.val * 0x100000 + 8 * bitsOf arm.1 0 17
     (∀ p k, b = .ink p k → bitsOf arm.1 0 16 < 32768) →
     ∃ t, exec (.checkerInjectWrite b w) s = .next t ∧
       t.peekCode a = (encodeCode (cpaFold a != bitAt arm.2.2 12) w ^^^
         BitVec.ofNat 76 (arm.2.1.toNat + bitsOf arm.2.2 0 12 * 2 ^ 64)) ∧
       (∀ d ∈ s.writeAt a, d ≠ a → s.bankReady d = true → s.armAt d = none → t.peek d = .clean w) ∧
       (∀ c, (∀ d ∈ s.writeAt a, c / 8 ≠ d / 8) → t.peekCode c = s.peekCode c) ∧ t.bankArmed b = false ∧
       a ∈ t.blot.injected ∧ { t with mem := s.mem, pens := s.pens, rsv := s.rsv, blot := s.blot } = s ∧
       { t.blot with injected := s.blot.injected } = s.blot) ∧
   (∀ (s : State) (a syn : Nat), a ∈ s.blot.injected → s.peek a = .uncorrectable syn →
     s.huvasGet a = (none, { s with blot := { s.blot with injected := s.blot.injected.filter (· ≠ a) } })) ∧
   (∀ (s : State) (r : Fin 32), s.dev = .run → s.rsvOn r.val = true → (s.rsvOf r.val).filling = true →
     s.huv.waiting = [] →
     ∃ t, exec (.bankFillDone (.rsv r)) s = .next t ∧
       (∀ c, t.peekCode c = if 0x10000000 + r.val * 0x100000 ≤ c ∧ c < 0x10000000 + (r.val + 1) * 0x100000
         then fillCode (c / 8) else s.peekCode c) ∧
       t.rsvOf r.val = { s.rsvOf r.val with filling := false } ∧ (∀ q, q ≠ r.val → t.rsvOf q = s.rsvOf q) ∧
       { t with mem := s.mem, rsv := s.rsv } = s) ∧
   (∀ (s : State) (p : PenN) (b : Fin 2), s.dev = .run → s.penOn p.val = true → (s.pen p.val).st ≠ .off →
     (if b.val = 0 then (s.pen p.val).filling0 else (s.pen p.val).filling1) = true → s.huv.waiting = [] →
     ∃ t, exec (.bankFillDone (.ink p b)) s = .next t ∧
       (∀ c, t.peekCode c = if p.val * 0x80000 + b.val * 0x40000 ≤ c ∧ c < p.val * 0x80000 + (b.val + 1) * 0x40000
         then fillCode (c / 8) else s.peekCode c) ∧
       t.pen p.val = (if b.val = 0 then { s.pen p.val with filling0 := false } else { s.pen p.val with filling1 := false }) ∧
       OnlyPens [p.val] { s with mem := t.mem } t))

/-- REDRAFT_COMPUTE where no DUPLEX line is ruled on a fenced pen (R90, R91): nothing is shed and every line keeps its ruled
pen, start and budget; the lines of class 0 to 2 whose recovery window a primary overlaps without another place are
reported as unprotected.
Where the manual leaves a choice, the statement rests on the model's own: assumption log 32. -/
def Obligations.RedraftKeepsRuledPlaces : Prop :=
  ∀ (s : State) (f : Frozen), s.folio.rd = .computing f →
    let lines := (s.imageOf f.slot).lines
    (∀ e ∈ lines, e.2.isDuplex = true → (s.pen e.2.pen).st ≠ .fenced) →
    ∃ (pl : List Placed) (un : List Nat),
      exec .redraftCompute s = .next ({ s with folio := { s.folio with rd := .ready pl 0 un.length } }.raiseAll
        (un.map (lineEvent 0x19))) ∧
      (∀ x ∈ pl, ∃ l, (x.line, l) ∈ lines ∧ l.runs = true ∧ x.how = .ruled ∧ x.pen = l.pen ∧ x.start = l.start ∧
        x.budget = l.budget ∧ x.clipped = false) ∧
      (∀ e ∈ lines, e.2.isDuplex = true → ∃ x ∈ pl, x.line = e.1) ∧
      (∀ i ∈ un, ∃ l, (i, l) ∈ lines ∧ l.isDuplex = true ∧ l.crit < 3 ∧ l.recEn = true)

/-- PPS_EDGE, GPTP_SYNC and an accepted TICKIN_EDGE measure the counter against their source (R32, R33, R35, R394); an
early or second edge is ignored. TICKIN_MISS makes the tick and counts the miss, HOLDOVER_ENTRY reports the loss of the
source (R34): for GPTP its link down, or no Sync for three sync intervals. The path delay frames give the link delay. The
rate at which a small offset is slewed is a free value of the model.
Where the manual leaves a choice, the statement rests on the model's own: assumption log 78, 79, 80, 108. -/
def Obligations.TimeSourcesComplete : Prop :=
  (∀ (s : State) (sec : Nat), s.powered = true → s.folio.tsrc = 2 →
    let t := s.aon.time.toNat
    sec % 1000000000 = 0 → sec ≤ t + 500000000 → t < sec + 500000000 →
    { s with folio := { s.folio with ppsAt := t } }.Measures ((t : Int) - (sec : Int)) (exec .ppsEdge s)) ∧
  (∀ s : State, s.powered = true → s.folio.tsrc = 3 → s.folio.en = true →
    let t := s.aon.time.toNat
    let e := s.expectedTick
    let second := s.folio.edgeAt.isSome = true ∨ (s.folio.running = true ∧ t < s.folio.tickTime.toNat + s.folio.tolNs)
    let early := e ≤ t + s.folio.tolNs ∧ t < e + s.folio.tolNs
    (second → exec .tickinEdge s = .next { s with folio := { s.folio with event := s.folio.event ||| 2 } }) ∧
    (¬second → early → { s with folio := { s.folio with
        edgeAt := some (s.cyc + 3), edgeTick := e, consecMiss := 0 } }.Measures ((t : Int) - (e : Int))
      (exec .tickinEdge s)) ∧
    (¬second → ¬early → exec .tickinEdge s =
      .next ({ s with folio := { s.folio with event := s.folio.event ||| 2 } }.raise { cls := 0x42 })) ∧
    (s.folio.edgeAt = none → e + s.folio.tolNs ≤ t →
      let u := { s with folio := { s.folio with
        edgeAt := some s.cyc, edgeTick := e, missed := satInc 0xFFFF s.folio.missed
        consecMiss := s.folio.consecMiss + 1, event := s.folio.event ||| 1 } }.raise { cls := 0x42 }
      exec .tickinMiss s = .next (if u.folio.missMax ≤ u.folio.consecMiss ∧ u.folio.holdover = false
        then { u with folio := { u.folio with holdover := true, event := u.folio.event ||| 4 } }.raise { cls := 0x41 }
        else u))) ∧
  (∀ s : State, s.powered = true → s.folio.tsrc = 3 → s.folio.en = false →
    s.Measures ((s.aon.time.toNat : Int) - (s.nearestTick s.aon.time.toNat : Int)) (exec .tickinEdge s)) ∧
  (∀ (s : State) (m : Fin 4) (w : Word) (k : BitVec 8), s.ptpUp m.val = true →
    let x := s.mac m.val
    ∃ t, OnlyMac m.val s t ∧ t.mac m.val = { x with ptpSync := true, syncAt := s.aon.time.toNat, syncLog := k } ∧
      (s.folio.tsrc = 1 → s.folio.gptpPort = m.val →
        t.Measures ((s.aon.time.toNat : Int) - bitsOf x.phyDly 16 16 - (w.toNat : Int) - x.pathNs) (exec (.gptpSync m w k) s)) ∧
      (s.folio.tsrc ≠ 1 ∨ s.folio.gptpPort ≠ m.val → exec (.gptpSync m w k) s = .next t)) ∧
  (∀ (s : State) (m : Fin 4) (d : BitVec 32), s.pdelayUp m.val = true →
    (∀ k, bitsOf (s.mac m.val).ptpCfg 24 4 = k → k < 8 → (s.mac m.val).reqAt ≤ s.aon.time.toNat →
      ∃ t, exec (.pdelayRequest m) s = .next t ∧ OnlyMac m.val { s with out := s.out ++ [.pdelay m.val false] } t ∧
        t.mac m.val = { s.mac m.val with reqOut := true, reqAt := s.aon.time.toNat + 1000000000 * 2 ^ k }) ∧
    exec (.pdelayReceive m .request) s = .next { s with out := s.out ++ [.pdelay m.val true] } ∧
    ((s.mac m.val).reqOut = true →
      ∃ t, exec (.pdelayReceive m (.response d)) s = .next t ∧ OnlyMac m.val s t ∧
        t.mac m.val = { s.mac m.val with reqOut := false, pathNs := d.toNat }) ∧
    ((s.mac m.val).reqOut = false → exec (.pdelayReceive m (.response d)) s = .next s)) ∧
  (∀ s : State, s.powered = true → s.folio.holdover = false →
    let lost (t : State) : State := { t with folio := { t.folio with holdover := true, event := t.folio.event ||| 4 } }
    let x := s.mac s.folio.gptpPort
    let until_ := max s.folio.ppsAt x.syncAt + 3 * logNs x.syncLog
    (s.folio.tsrc = 1 → x.link = true → s.aon.time.toNat < until_ → exec .holdoverEntry s = .next s) ∧
    (s.folio.tsrc = 1 → x.link = false ∨ until_ ≤ s.aon.time.toNat → ∃ t, OnlyMac s.folio.gptpPort s t ∧
      t.mac s.folio.gptpPort = { x with ptpSync := false, event := x.event ||| 4 } ∧
      exec .holdoverEntry s = .next ((lost t).raise { cls := 0x41 })) ∧
    ((s.folio.tsrc = 2 ∧ s.folio.ppsAt + 2000000000 ≤ s.aon.time.toNat) ∨
        (s.folio.tsrc = 3 ∧ 0 < s.folio.consecMiss ∧ s.folio.missMax ≤ s.folio.consecMiss) →
      exec .holdoverEntry s = .next ((lost s).raise { cls := 0x41 })))

/-! ## The Huvas -/

/-- The vote (R115 to R118): a lone minority is taken out of the vote, any other disagreement stops the Huvas; the nib
that is out is checked and resynchronised. RUBRIC_FIRMWARE_REACTION carries out the oldest action that waits for the
firmware (R353, R420, R427).
Where the manual leaves a choice, the statement rests on the model's own: assumption log 51, 52. -/
def Obligations.HuvasVoteAndReactions : Prop :=
  (∀ s : State, s.huvasUp = true → s.huv.checked = true →
     let d := satInc 0xFFFF s.huv.disagree
     let out (v : BitVec 3) (n : Nat) : Prop := n < 3 ∧ v.getLsbD n = false
     (∀ h : Fin 3, s.huv.nibIn = 7 →
       ∃ v : BitVec 3, (∀ n, n < 3 → v.getLsbD n = decide (n ≠ h.val)) ∧ exec (.voterMismatch (some h)) s =
         .next ({ s with huv := { s.huv with
           disagree := d, nibIn := v, lastOut := h.val, nibReady := false, nibFailed := false } }.raise
             { cls := 0x20, utype := 7, unit := h.val })) ∧
     (∀ odd : Option (Fin 3), (odd = none ∨ s.huv.nibIn ≠ 7) →
       ∃ t : State, exec (.voterMismatch odd) s = .next (t.raise { cls := 0x23 }) ∧ { t with huv := s.huv, blot := s.blot } = s ∧
         { t.huv with mb := s.huv.mb } = { s.huv with
           disagree := d, lost := true, lostVote := true, nibIn := 0, testing := false, foreQ := [], waiting := []
           prog := none } ∧
         t.blot = { s.blot with pass := s.blot.pass.map (fun w => { w with mb := none }), marching := none } ∧
         ∀ m, t.mbox m = if (s.mbox m).st = .idle then s.mbox m
           else { s.mbox m with st := .done, code := 8, tokenR := (s.mbox m).token }) ∧
     (∀ n, out s.huv.nibIn n → (∀ m, out s.huv.nibIn m → m = n) → s.huv.nibFailed = false →
       (s.huv.reintEn = true → s.huv.reintCnt < s.huv.reintMax → s.huv.nibReady = false →
         exec (.huvasNibCheck true) s = .next { s with huv := { s.huv with nibReady := true } } ∧
         exec (.huvasNibCheck false) s = .next ({ s with huv := { s.huv with nibFailed := true } }.raise
           { cls := 0x21, utype := 7, unit := n })) ∧
       (s.huv.nibReady = true → s.huv.fw = [] →
         exec .huvasResync s = .next ({ s with huv := { s.huv with
           nibIn := 7, nibReady := false, reintCnt := s.huv.reintCnt + 1 } }.raise { cls := 0x22, utype := 7, unit := n })))) ∧
  (∀ (s : State) (rest : List FwAct), s.huvasUp = true →
     let t : State := { s with huv := { s.huv with fw := rest } }
     (s.huv.fw = .msix1 :: rest → t.MsixAsked 1 (exec .rubricFirmwareReaction s)) ∧
     (∀ (r : Nat) (k : Fin 16), s.huv.fw = .fenceRsv r :: rest → r / 2 = k.val →
       exec .rubricFirmwareReaction s = .next (if bitAt s.pwr.reqOther k.val = true
         then { t with pwr := { s.pwr with
           reqOther := setBit s.pwr.reqOther k.val false, queue := s.pwr.queue ++ [(.rsvPair k, false)] } }
         else t)) ∧
     (∀ m c, s.huv.fw = .endCmd m c :: rest →
       ((s.mbox m).st = .running → t.StopsCmd m c (exec .rubricFirmwareReaction s)) ∧
       ((s.mbox m).st ≠ .running → exec .rubricFirmwareReaction s = .next t)))

/-- MAILBOX_GO latches and queues a command, or answers an unassigned opcode, or any once the Huvas has stopped, at once
(R350, R351, R353); MAILBOX_ABORT ends a queued one as ABORTED,
and a running one between its steps. Commands queue in the order of their GO writes, those of one cycle in the order of the
mailboxes (R352).
Where the manual leaves a choice, the statement rests on the model's own: assumption log 54. -/
def Obligations.MailboxSubmission : Prop :=
  ∀ (s : State) (m : MbN), s.barOpen = true →
    let b := s.mbox m.val
    let later (n : Nat) : Bool := (s.mbox n).st = .queued && (s.mbox n).goAt = s.cyc && m.val < n
    (∀ (op token : BitVec 16) (upper : Bool),
      let taken := b.st = .queued ∨ b.st = .running
      (taken → ∃ t, exec (.mailboxGo m op token upper) s = .next t ∧ t.mbox m.val = { b with discarded := true } ∧
        (∀ j, j ≠ m.val → t.mbox j = s.mbox j) ∧ { t with huv := { t.huv with mb := s.huv.mb } } = s) ∧
      (¬taken →
        let o := if upper = true then b.opcode else op
        ∃ t : State, t.mbox m.val = { b with
            opcode := o, token := if upper = true then b.token else token, curOp := o.toNat, latch := b.arg, res := []
            st := .queued, goAt := s.cyc } ∧
          (∀ j, j ≠ m.val → t.mbox j = s.mbox j) ∧ { t with huv := { t.huv with mb := s.huv.mb } } = s ∧
          (s.huv.lost = true → t.Ends m.val 8 [] (exec (.mailboxGo m op token upper) s)) ∧
          (s.huv.lost = false → o.toNat ∉ opcodes → t.Ends m.val 1 [] (exec (.mailboxGo m op token upper) s)) ∧
          (s.huv.lost = false → o.toNat ∈ opcodes → exec (.mailboxGo m op token upper) s =
            .next { t with huv := { t.huv with
              foreQ := s.huv.foreQ.takeWhile (!later ·) ++ m.val :: s.huv.foreQ.dropWhile (!later ·) } }))) ∧
    (b.st = .queued → s.Ends m.val 7 [] (exec (.mailboxAbort m) s)) ∧
    (∀ r, b.st = .running → s.blot.pass = none → s.blot.marching = some r → r.mb = m.val →
      { s with blot := { s.blot with marching := none } }.Ends m.val 7
        [BitVec.ofNat 64 (s.blot.tested + s.blot.skipped * 2 ^ 16 + bitN s.blot.failed * 2 ^ 32),
          BitVec.ofNat 64 s.blot.failCpa] (exec (.mailboxAbort m) s)) ∧
    (∀ n, b.st = .running → s.blot.pass = none → s.blot.marching = none → s.huv.prog = some (m.val, n) →
      s.StopsCmd m.val 7 (exec (.mailboxAbort m) s)) ∧
    (b.st = .running → s.blot.pass = none → s.blot.marching = none → (∀ n, s.huv.prog ≠ some (m.val, n)) →
      exec (.mailboxAbort m) s = .next s) ∧
    ((b.st = .idle ∨ b.st = .done) → exec (.mailboxAbort m) s = .next s)

/-- The rubric judges an event in RUN whose reaction is LOG and does not escalate (R412, R415, R417, R424, R425, R427): it is
counted, and an entry with its fields is the last in the queue; a class with IRQ set requests vector 1 once.
Where the manual leaves a choice, the statement rests on the model's own: assumption log 49. -/
def Obligations.RubricLogs : Prop :=
  ∀ (s : State) (e : Event), s.dev = .run → s.huv.eqOver = false → s.huv.eq.length < 511 → e.cls ≠ 0x38 → e.cls ≠ 0x81 →
    e.cls < 256 → e.utype < 16 → e.unit < 256 → e.slot = none → s.folio.actSlot < 16 →
    let c := s.rbClass e.cls
    bitsOf c.entry 0 3 = 1 → (bitsOf c.entry 8 8 = 0 ∨ c.win + 1 < bitsOf c.entry 8 8) →
    let irq := bitAt c.entry 3 && s.huv.vec1Armed
    ∃ (t : State) (x : EqEntry), s.raise e = t ∧ { t with huv := s.huv } = s ∧
      { t.huv with rb := s.huv.rb } = { s.huv with
        eq := s.huv.eq ++ [x], nextSeq := (s.huv.nextSeq + 1) % 65536
        vec1Armed := s.huv.vec1Armed && !irq, fw := if irq then s.huv.fw ++ [.msix1] else s.huv.fw } ∧
      t.rbClass e.cls = { c with count := satInc (2 ^ 48 - 1) c.count, win := min 255 (c.win + 1) } ∧
      (∀ k, k ≠ e.cls → t.rbClass k = s.rbClass k) ∧
      bitsOf x.w0 0 8 = e.cls ∧ bitsOf x.w0 8 3 = 1 ∧ bitAt x.w0 11 = false ∧ bitsOf x.w0 12 4 = e.utype ∧
      bitsOf x.w0 16 8 = e.unit ∧ bitsOf x.w0 24 15 = e.line % 2 ^ 15 ∧ bitsOf x.w0 39 4 = s.folio.actSlot ∧
      bitsOf x.w0 48 16 = s.huv.nextSeq % 65536 ∧ x.w1 = s.folio.number ∧ bitsOf x.w2 0 28 = s.folioCyc % 2 ^ 28 ∧
      bitsOf x.w2 32 32 = e.detail % 2 ^ 32 ∧ bitsOf x.w3 0 48 = e.addr % 2 ^ 48 ∧ bitsOf x.w3 48 16 = 0

/-- A command in a device state in which it may not run answers BAD_STATE and has no other effect (R359). -/
def Obligations.CommandsNeedTheirState : Prop :=
  ∀ (s : State) (c : Instr) (m : MbN) (op : Nat), commandOf c = some (m, op) → s.cmdDue m.val op = true →
    permits op s.dev = false → s.Ends m.val 2 [] (exec c s)

/-- IDENTIFY, MEM_LOAD, MEM_READ, MARGIN_READ and EVENT_READ (R360, R361, R370, R372), where their arguments pass: begun or
gone on with after a pause, MEM_LOAD also with a pause after `k` more words, its word at both copies of a mirrored page.
Where the manual leaves a choice, the statement rests on the model's own: assumption log 55, 56. -/
def Obligations.MemoryCommandsComplete : Prop :=
  (∀ (s : State) (m : MbN), s.Begins m 0x01 →
    ∃ res : List Word, s.Ends m.val 0 res (exec (.identify m) s) ∧ res.length = 9 ∧ res.getD 1 0 = Config.fuses.serial ∧
      (∀ n, n < 64 → bitAt (res.getD 7 0) n = (s.pen n).st.out ∧
        bitAt (res.getD 8 0) n = decide ((s.pen n).st = .fenced)) ∧ (s.dev = .boot → res.getD 6 0 = 0)) ∧
  (∀ (s : State) (m : MbN) (ws : List Word) (run : CmdRun) (done k : Nat), s.Works m 0x20 done →
    s.memCheck m.val true = 0 → s.hif.busMaster = true →
    let a := s.memArgs m.val
    let rest := a.places.drop done
    ((run = .whole ∧ k = rest.length) ∨ run = .pause k) →
    ws.length = a.len / 8 → a.badTag ws = none → (∀ q, (s.partOf q).up = false) →
    (∀ e ∈ rest, ∀ d ∈ s.writeAt e.1, s.bankReady d = true ∧ s.armAt d = none) →
    ∃ t : State, { t with mem := s.mem, blot := s.blot } = s.unpaused ∧
      { t.blot with injected := s.blot.injected } = s.blot ∧
      (∀ e ∈ rest.take k, ∀ d ∈ s.writeAt e.1, t.peek d = .clean (a.wordAt ws e.2)) ∧
      (∀ c, (∀ e ∈ rest.take k, ∀ d ∈ s.writeAt e.1, c / 8 ≠ d / 8) → t.peekCode c = s.peekCode c) ∧
      (rest.length ≤ k → t.Ends m.val 0 [BitVec.ofNat 64 a.len] (exec (.memLoad m (.ok ws) run) s)) ∧
      (k < rest.length → ∃ u, exec (.memLoad m (.ok ws) run) s = .next u ∧ t.NowHeld u m (done + k))) ∧
  (∀ (s : State) (m : MbN) (f : Nat → TWord) (done : Nat), s.Works m 0x21 done → s.memCheck m.val false = 0 →
    s.hostWritable →
    let a := s.memArgs m.val
    let b := a.bases.getD 0 0
    let u := s.unpaused
    (∀ i, i < a.words → s.bankReady (s.readAt (b + 8 * i)) = true ∧ s.readAt (b + 8 * i) ∉ s.blot.injected ∧
      s.peek (s.readAt (b + 8 * i)) = .clean (f i)) →
    { u with out := s.out ++ [Out.hostWrite a.host (if a.format = 1
        then hostImage true (a.words / 512) ((List.range a.words).map f)
        else (List.range a.words).map (fun i => (f i).val)) (s.ideStream a.host)] }.Ends
      m.val 0 [] (exec (.memRead m false .whole) s)) ∧
  (∀ (s : State) (m : MbN) (host : Word) (clear : Bool), s.Begins m 0x53 →
    s.Args m [host, if clear = true then 1 else 0] → host.toNat + 1024 ≤ 0xF00000000000 → s.hostWritable →
    { s with
      out := s.out ++ [Out.hostWrite host.toNat ((List.range 64).flatMap s.marginWords) (s.ideStream host.toNat)]
      blot := if clear = true then { s.blot with ml := [], mlOver := 0, mlFull := false } else s.blot }.Ends m.val 0
      [BitVec.ofNat 64 s.blot.ml.length, BitVec.ofNat 64 s.blot.mlOver] (exec (.marginRead m false) s)) ∧
  (∀ (s : State) (m : MbN) (host : Word) (n done : Nat), s.Works m 0x41 done → s.Args m [host, BitVec.ofNat 64 n] → 1 ≤ n →
    n ≤ 512 → host.toNat + 32 * n ≤ 0xF00000000000 → s.hostWritable →
    let k := min (n - done) s.huv.eq.length
    let dest := host.toNat + 32 * done
    { s with
      out := s.out ++ [Out.hostWrite dest
        ((s.huv.eq.take k).flatMap (fun (e : EqEntry) => [e.w0, e.w1, e.w2, e.w3])) (s.ideStream dest)]
      huv := { s.huv with
        eq := s.huv.eq.drop k, eqOver := s.huv.eqOver && !(s.huv.eq.drop k).isEmpty, vec1Armed := true
        prog := none } }.Ends m.val 0
      [BitVec.ofNat 64 (done + k), BitVec.ofNat 64 (s.huv.eq.length - k)] (exec (.eventRead m false .whole) s))

/-- RUBRIC_SET, VSLOT_SET, MIRROR_SET, LSLOT_SET, SEQ_SEL, TIME_CONFIG and SUPERVISE_SET (R362, R364, R365, R370, R472),
where their arguments pass.
Where the manual leaves a choice, the statement rests on the model's own: assumption log 57, 58, 59, 60, 66. -/
def Obligations.SetupCommandsComplete : Prop :=
  (∀ (s : State) (m : MbN) (ws : List Word) (first n : Nat) (host : Word), s.Begins m 0x40 →
    s.Args m [BitVec.ofNat 64 (first + n * 256), host] → first < 256 → 1 ≤ n → first + n ≤ 256 →
    host.toNat + 8 * n ≤ 0xF00000000000 → s.hif.busMaster = true → ws.length = n → rubricFault first ws = none →
    ∃ t : State, t.Ends m.val 0 [] (exec (.rubricSet m (.ok ws)) s) ∧
      (∀ c, t.rbClass c = if first ≤ c ∧ c < first + n
        then { s.rbClass c with
          entry := (ws.getD (c - first) 0 &&& 0xFFF7F) ||| ((s.rbClass c).entry &&& 0x100000) }
        else s.rbClass c) ∧
      { t with huv := { t.huv with rb := s.huv.rb } } = s) ∧
  (∀ (s : State) (m : MbN) (ws : List Word) (first n : Nat) (host : Word), s.Begins m 0x22 →
    s.Args m [BitVec.ofNat 64 (first + n * 65536), host] → first < 8192 → 1 ≤ n → first + n ≤ 8192 →
    host.toNat + 16 * n ≤ 0xF00000000000 → s.hif.busMaster = true → ws.length = 2 * n →
    (∀ i, i < n → vslotRsvd (ws.getD (2 * i) 0) (ws.getD (2 * i + 1) 0) = false) → (∀ q, (s.partOf q).up = false) →
    ∃ t : State, { t with vt := s.vt } = s ∧
      (∀ k, t.vslot k = if first ≤ k ∧ k < first + n
        then (let w0 := ws.getD (2 * (k - first)) 0
              let w1 := ws.getD (2 * (k - first) + 1) 0
              { s.vslot k with
                frame0 := bitsOf w0 0 36, frame1 := bitsOf w1 0 36, fair := false, valid := bitAt w0 39
                part := bitsOf w0 40 8
                kind := if bitsOf w0 37 2 = 0 then .state else if bitsOf w0 37 2 = 1 then .output else .input })
        else s.vslot k) ∧
      ((∀ k, t.slotBroken k = false) → t.Ends m.val 0 [] (exec (.vslotSet m (.ok ws)) s))) ∧
  (∀ (s : State) (m : MbN) (k : Fin 32) (w0 w1 : Word), s.Begins m 0x24 →
    let p := 2 * k.val
    let x := s.pen p
    s.Args m [BitVec.ofNat 64 p, w0, w1] → s.penOn p = true → s.penOn (p + 1) = true →
    (∀ g i, g < 128 → i < 512 →
      (if g < 64 then bitAt w0 g && !bitAt x.mirror0 g else bitAt w1 (g - 64) && !bitAt x.mirror1 (g - 64)) = true →
      let x := p * 0x80000 + 4096 * g + 8 * i
      x ∉ s.blot.injected ∧ x + 0x80000 ∉ s.blot.injected ∧ ∃ w, s.peek x = .clean w ∧ s.peek (x + 0x80000) = .clean w) →
    ∃ t : State, t.Ends m.val 0 [] (exec (.mirrorSet m) s) ∧ OnlyPens [p, p + 1] s t ∧
      t.pen p = (if w0 = 0 ∧ w1 = 0
        then { x with mirror0 := w0, mirror1 := w1, mirror := .mirrored, stale := false, recopy := [] }
        else { x with mirror0 := w0, mirror1 := w1 }) ∧
      t.pen (p + 1) = (if w0 = 0 ∧ w1 = 0 then { s.pen (p + 1) with stale := false, recopy := [] } else s.pen (p + 1))) ∧
  (∀ (s : State) (m : MbN) (mask va : Word) (i : Fin 8), s.Begins m 0x25 →
    s.Args m [mask, BitVec.ofNat 64 i.val, va] → (∀ p, p < 64 → bitAt mask p = true → (s.pen p).st = .idle) →
    ∃ t : State, t.Ends m.val 0 [] (exec (.lslotSet m) s) ∧ { t with pens := s.pens } = s ∧
      ∀ p, if p < 64 ∧ bitAt mask p = true
        then { t.pen p with lslot := (s.pen p).lslot } = { s.pen p with
            tlb := (s.pen p).tlb.map (fun e => if e.1 = 56 + i.val then (e.1, { e.2 with locked := false }) else e) } ∧
          ∀ j, Table.get (fun _ => (0 : Word)) (t.pen p).lslot j = if j = i.val then BitVec.ofNat 64 (bitsOf va 12 45 * 4096)
            else Table.get (fun _ => 0) (s.pen p).lslot j
        else t.pen p = s.pen p) ∧
  (∀ (s : State) (m : MbN) (mask w va : Word), s.Begins m 0x25 → s.Args m [mask, w, va] → bitAt w 3 = true →
    w &&& ~~~ 0xFF0F = 0 → (∀ p, p < 64 → bitAt mask p = true → (s.pen p).st = .idle) →
    let i := bitsOf w 0 3
    let ps := (List.range 64).filter (fun p => bitAt mask p)
    let t := s.forAll ps (fun p t => t.setLslot p i (BitVec.ofNat 64 (1 + bitsOf w 8 8 * 4 + bitsOf va 12 45 * 4096)))
    (∀ p ∈ ps, bitAt (t.pen p).lslotStat (8 + i) = false) → t.Ends m.val 0 [] (exec (.lslotSet m) s)) ∧
  (∀ (s : State) (m : MbN) (mask : Word) (k : Fin 16) (slot : Fin 8192) (age : Bool), s.Begins m 0x26 →
    s.Args m [mask, BitVec.ofNat 64 (k.val + slot.val * 2 ^ 16 + bitN age * 2 ^ 31)] → (s.vslot slot.val).valid = true →
    (s.vslot slot.val).kind = .input →
    ∃ t : State, t.Ends m.val 0 [] (exec (.seqSel m) s) ∧ { t with pens := s.pens } = s ∧
      ∀ p, if p < 64 ∧ bitAt mask p = true
        then { t.pen p with seqSel := (s.pen p).seqSel } = s.pen p ∧
          ∀ j, Table.get (fun _ => (0 : Word)) (t.pen p).seqSel j =
            if j = k.val then BitVec.ofNat 64 (slot.val + bitN age * 2 ^ 15) else Table.get (fun _ => 0) (s.pen p).seqSel j
        else t.pen p = s.pen p) ∧
  (∀ (s : State) (m : MbN), s.Begins m 0x10 → s.timeCheck m.val = 0 →
    let a := s.arg m.val
    let most : Int := 1000 * bitsOf (a 4) 0 8
    { s with
      aon := { s.aon with steer := if bitsOf (a 0) 0 3 = 0 then 0 else max (-most) (min most s.aon.steer) }
      folio := { s.folio with
      tsrc := bitsOf (a 0) 0 3, gptpPort := bitsOf (a 0) 4 2, period := bitsOf (a 1) 0 27, phase := bitsOf (a 2) 0 27
      tolNs := bitsOf (a 3) 0 16, missMax := bitsOf (a 3) 16 8, maxPpm := bitsOf (a 4) 0 8, stepLim := bitsOf (a 4) 16 32
      offset := 0, synced := false, holdover := false, ppsAt := s.aon.time.toNat, edgeAt := none } }.Ends m.val 0 []
        (exec (.timeConfig m) s)) ∧
  (∀ (s : State) (m : MbN) (rd v : Word), s.Begins m 0x83 → s.Args m [rd, v] → rd &&& ~~~ 0xFFFFFFF1 = 0 →
    v &&& ~~~ 0xF1 = 0 →
    { s with
      folio := { s.folio with rdCtrl := rd }
      huv := { s.huv with reintEn := bitAt v 0, reintMax := bitsOf v 4 4 } }.Ends m.val 0 [rd, v]
        (exec (.superviseSet m) s))

/-- PART_SETUP, RULING_LOAD into an empty store, RULING_VERIFY, RULING_UNLOAD, ACTIVATE and SWITCH_ARM (R363, R366 to R368),
where their checks pass.
Where the manual leaves a choice, the statement rests on the model's own: assumption log 29, 30, 62, 63. -/
def Obligations.RulingCommandsComplete : Prop :=
  (∀ (s : State) (m : MbN) (part : Fin 256) (tr ex : List Word) (mask : Word), s.Begins m 0x23 → tr.length = 12 →
    ex.length = 4 → s.Args m ([BitVec.ofNat 64 part.val] ++ tr ++ ex ++ [mask]) → mask ≠ 0 →
    bitsOf (tr.getD 0 0) 0 2 ≠ 3 → bitsOf (tr.getD 1 0) 0 2 ≠ 3 → recordRsvd tr ex = false →
    (s.setRecords part.val tr ex).setupCheck part.val mask = (none, s.setRecords part.val tr ex) →
    ∃ t : State, t.Ends m.val 0 [] (exec (.partSetup m) s) ∧ { t with parts := s.parts, pt := s.pt, px := s.px } = s ∧
      t.partOf part.val = ⟨true, mask⟩ ∧ (∀ i, i < 12 → t.ptWord part.val i = tr.getD i 0) ∧
      (∀ i, i < 4 → t.pxWord part.val i = ex.getD i 0) ∧
      ∀ q, q ≠ part.val → t.partOf q = s.partOf q ∧ (∀ i, t.ptWord q i = s.ptWord q i) ∧ ∀ i, t.pxWord q i = s.pxWord q i) ∧
  (∀ (s : State) (m : MbN) (ws : List Word) (k : Fin 16) (host : Word) (done : Nat), s.Works m 0x30 done →
    s.Args m [BitVec.ofNat 64 k.val, host, BitVec.ofNat 64 ws.length] → host.toNat % 8 = 0 →
    host.toNat + 8 * ws.length ≤ 0xF00000000000 → s.hif.busMaster = true → s.slotHeld k.val = false →
    (∀ j, j < 16 → j ≠ k.val → (s.slotOf j).st = .empty) →
    let lines := bitsOf (ws.getD 2 0) 0 16
    let hos := bitsOf (ws.getD 2 0) 16 15
    1 ≤ lines → lines ≤ 32768 → hos ≤ 16384 → ws.length = 64 + 4 * lines + (hos + 1) / 2 →
    ∃ t : State, t.Ends m.val 0 [0, 0] (exec (.rulingLoad m (.ok ws) .whole) s) ∧ { t with rul := s.rul } = s.unpaused ∧
      { t.rul with slots := s.rul.slots, store := s.rul.store } = s.rul ∧
      (t.slotOf k.val).st = .loaded ∧ (t.slotOf k.val).lineBase = 0 ∧ (t.slotOf k.val).lines = lines ∧
      (t.slotOf k.val).hoBase = 0 ∧ (t.slotOf k.val).hos = hos ∧ (t.slotOf k.val).header.take 64 = ws.take 64 ∧
      (∀ j, j ≠ k.val → t.slotOf j = s.slotOf j) ∧
      (∀ e, e < lines → t.storeLine e =
        ⟨ws.getD (64 + 4 * e) 0, ws.getD (65 + 4 * e) 0, ws.getD (66 + 4 * e) 0, ws.getD (67 + 4 * e) 0⟩) ∧
      (∀ e, e < hos → t.hoOf (t.slotOf k.val) e = bitsOf (ws.getD (64 + 4 * lines + e / 2) 0) (32 * (e % 2)) 32)) ∧
  (∀ (s : State) (m : MbN) (k : Fin 16) (done : Nat), s.Works m 0x31 done → s.Args m [BitVec.ofNat 64 k.val] →
    let u := s.unpaused
    let words := (s.slotOf k.val).words
    let v := (u.storeReads words).2
    let put (st : SlotSt) (t : State) : Prop := t.slotOf k.val = { v.slotOf k.val with st := st } ∧
      (∀ j, j ≠ k.val → t.slotOf j = v.slotOf j) ∧ { t with rul := { t.rul with slots := v.rul.slots } } = v
    (((s.slotOf k.val).st = .empty ∨ (s.slotOf k.val).st = .active) →
      u.Ends m.val 0x0804 [] (exec (.rulingVerify m .whole) s)) ∧
    (((s.slotOf k.val).st = .loaded ∨ (s.slotOf k.val).st = .verified) →
      ((∃ i ∈ words, s.storeGood i = false) →
        v.Ends m.val 0xA [] (exec (.rulingVerify m .whole) s)) ∧
      ((∀ i ∈ words, s.storeGood i = true) →
        (v.verify k.val = none → ∃ t : State, put .verified t ∧ t.Ends m.val 0 [0] (exec (.rulingVerify m .whole) s)) ∧
        (∀ r, v.verify k.val = some r →
          ∃ t : State, put .loaded t ∧ t.Ends m.val 0x0808 r.words (exec (.rulingVerify m .whole) s))))) ∧
  (∀ (s : State) (m : MbN) (k : Fin 16), s.Begins m 0x32 → s.Args m [BitVec.ofNat 64 k.val] →
    (s.slotHeld k.val = true → s.Ends m.val 0x0801 [] (exec (.rulingUnload m) s)) ∧
    (s.slotHeld k.val = false → ∃ t : State, t.Ends m.val 0 [] (exec (.rulingUnload m) s) ∧ (t.slotOf k.val).st = .empty ∧
      (∀ j, j ≠ k.val → t.slotOf j = s.slotOf j) ∧ { t with rul := { t.rul with slots := s.rul.slots } } = s)) ∧
  (∀ (s : State) (m : MbN) (k : Fin 16) (step : Bool), s.Begins m 0x33 →
    s.Args m [BitVec.ofNat 64 (k.val + bitN step * 256)] → s.folio.en = false → (s.slotOf k.val).st = .verified →
    s.mayActivate k.val = (0, []) →
    (∀ p i, p < 64 → i < 8 → bitAt (Table.get (fun _ => (0 : Word)) (s.pen p).lslot i) 0 = false) →
    let u := if step = true then { s with
        aon := { s.aon with time := s.aon.time - s.folio.offset, valid := true }
        folio := { s.folio with offset := 0, synced := true } } else s
    ∃ v t : State, exec (.activate m) s = .next t ∧ v.NowWaits t m (.activate m.val k.val) ∧
      { v with pens := s.pens, rul := s.rul } = { u with folio := { u.folio with
        en := true, edgeTick := u.tickAhead, actSlot := k.val, missed := 0, consecMiss := 0, minLen := 0xFFFFFFFF } } ∧
      { v.rul with slots := s.rul.slots } = s.rul ∧ v.slotOf k.val = { s.slotOf k.val with st := .active } ∧
      (∀ j, j ≠ k.val → v.slotOf j = s.slotOf j) ∧ ∀ p, p < 64 → v.pen p = { s.pen p with tlb := [] }) ∧
  (∀ (s : State) (m : MbN) (k : Fin 16) (time : Word), s.Begins m 0x34 →
    (s.Args m [BitVec.ofNat 64 k.val] → { s with folio := { s.folio with swSlot := k.val, swArm := false } }.Ends m.val 0 []
      (exec (.switchArm m) s)) ∧
    (s.Args m [BitVec.ofNat 64 (k.val + 16), time] → (s.slotOf k.val).st = .verified → s.mayActivate k.val = (0, []) →
      (time = 0 ∨ (s.tickAtOrAfter time.toNat = time.toNat ∧ s.farAhead time.toNat = true)) →
      { s with folio := { s.folio with swAt := time, swSlot := k.val, swArm := true, swSince := s.cyc } }.Ends m.val 0 []
        (exec (.switchArm m) s)))

/-- QUIESCE, DORMANT and DEBUG_ENABLE (R369, R377, R378) in RUN wait for a tick, unpaired parts telling nobody; DORMANT and
DEBUG_ENABLE end at once elsewhere. BANK_HANDOVER, SCRUB, MARCH, PEN_CONTROL and POWER (R371, R372, R376, R377).
Where the manual leaves a choice, the statement rests on the model's own: assumption log 64, 65. -/
def Obligations.ControlCommandsComplete : Prop :=
  (∀ (s : State) (m : MbN) (en : Fin 8), s.trc.mode = 0 →
    let u := { s with folio := { s.folio with swArm := false } }
    (s.Begins m 0x35 → s.dev = .run → ∃ t : State, exec (.quiesce m) s = .next t ∧ u.NowWaits t m (.quiesce m.val s.cyc)) ∧
    (s.Begins m 0x35 → s.dev = .safe → (s.stopFolios .loaded).Ends m.val 0 [] (exec (.quiesce m) s)) ∧
    (s.Begins m 0x82 → s.Args m [BitVec.ofNat 64 en.val] →
      (s.dev = .run → ∃ t : State, exec (.dormant m) s = .next t ∧ u.NowWaits t m (.dormant m.val s.cyc)) ∧
      (s.dev ≠ .run → s.hif.msixEn = false → ∃ t : State, s.Answered t m.val 0 [] ∧ exec (.dormant m) s =
        .next { t with aon := { s.aon with wakeCfg := setBits s.aon.wakeCfg 0 3 en.val, enter := true } })) ∧
    (s.Begins m 0x90 → s.Args m [BitVec.ofNat 64 (bitsOf Config.fuses.serial 0 32), 0x44424745] →
      (s.dev = .run → ∃ t : State, exec (.debugEnable m) s = .next t ∧ u.NowWaits t m (.debug m.val s.cyc)) ∧
      (s.dev ≠ .run → s.blot.pass = none → s.blot.marching = none → s.huv.prog = none →
        { s with dev := .debug }.Ends m.val 0 [] (exec (.debugEnable m) s)))) ∧
  (∀ (s : State) (m : MbN) (r : Fin 32) (own : Nat) (pin : Bool), s.Begins m 0x50 → own ≤ 64 →
    s.Args m [BitVec.ofNat 64 (r.val + own * 256 + bitN pin * 65536)] →
    let x := s.rsvOf r.val
    let po := if pin = true then own else x.pinOwner
    (s.dev = .run → s.handoverUsed r.val = true → s.Ends m.val 0x0901 [] (exec (.bankHandover m) s)) ∧
    (s.dev = .loaded ∨ s.handoverUsed r.val = false → ∃ t : State, t.Ends m.val 0 [] (exec (.bankHandover m) s) ∧
      { t with rsv := s.rsv } = s ∧ (∀ j, j ≠ r.val → t.rsvOf j = s.rsvOf j) ∧
      t.rsvOf r.val = (if s.dev = .loaded
        then { x with owner := own, pin := pin, pinOwner := po, pinOld := (pin, po), pinAt := s.cyc }
        else { x with
          pin := pin, pinOwner := po, pinAt := s.cyc
          pinOld := if x.pinAt + 4096 ≤ s.cyc then (x.pin, x.pinOwner) else x.pinOld }))) ∧
  (∀ (s : State) (m : MbN) (cpa n : Nat) (poison : Bool), s.Begins m 0x51 → cpa % 8 = 0 → cpa < 2 ^ 48 → 1 ≤ n →
    n < 2 ^ 18 → s.Args m [BitVec.ofNat 64 cpa, BitVec.ofNat 64 (n + bitN poison * 2 ^ 24)] → (bankOf cpa).isSome = true →
    bankOf (cpa + 8 * (n - 1)) = bankOf cpa → s.blotOn = true → s.blot.pass = none → s.bankOn cpa = true →
    ∃ t : State, exec (.scrub m) s = .next t ∧ { s with blot := { s.blot with
      scrBase := BitVec.ofNat 64 cpa, scrLen := BitVec.ofNat 64 n, poisonUe := poison
      pass := some { base := cpa, len := n, mb := some m.val }, sum0 := 0, sum1 := 0, sum2 := 0 } }.NowRuns t m) ∧
  (∀ (s : State) (m : MbN) (p : PenN) (b : Fin 2), s.Begins m 0x52 → s.Args m [BitVec.ofNat 64 (p.val + b.val * 256)] →
    s.blotOn = true → s.blot.marching = none →
    (s.pen p.val).st ∉ [PenSt.testWait, .test, .resilver] → s.penOn p.val = true →
    ∃ t : State, exec (.march m) s = .next t ∧
      { s with blot := { s.blot with marching := some { mb := m.val, pen := p.val, bank := b.val } } }.NowRuns t m) ∧
  (∀ (s : State) (m : MbN) (p : PenN), s.Begins m 0x80 →
    (s.Args m [BitVec.ofNat 64 (p.val + 256)] → s.dev = .loaded → (s.pen p.val).st = .stopped →
      ((s.pen p.val).stale = false ∨ s.hasMirror p.val = false) →
      ∃ t : State, t.Ends m.val 0 [] (exec (.penControl m) s) ∧ OnlyPens [p.val] s t ∧
        t.pen p.val = { s.pen p.val with st := .idle, handAt := none }) ∧
    (s.Args m [BitVec.ofNat 64 (p.val + 512)] → (raised (s.fencePen p.val)).Ends m.val 0 [] (exec (.penControl m) s))) ∧
  (∀ (s : State) (m : MbN) (k : Fin 16) (on : Bool), s.Begins m 0x81 →
    s.Args m [0, BitVec.ofNat 64 (2 ^ k.val), if on = true then 1 else 0] → (s.dev = .run → on = true) →
    s.pwr.reqOther &&& ~~~ 0x7FFFFF = 0 → s.pwr.reqPen &&& s.penMask (fun p => p.st = .fenced) = 0 →
    bitAt s.pwr.reqOther k.val = !on →
    ∃ t : State, exec (.power m) s = .next t ∧ { s with pwr := { s.pwr with
      lock := true, reqOther := setBit s.pwr.reqOther k.val on
      queue := s.pwr.queue ++ [(Domain.rsvPair k, on)] } }.NowWaits t m (.power m.val))

/-- QUEUE_SET, SHARE_SET, CHANSET_SET into an empty store, PORT_RECORD_LOAD, TRACE_PAIR, TRACE_DETACH and TAKEOVER (R374,
R375, R379, R391), where their checks pass; a pairing reports its STALE partner (R319). CHECKER_TEST of a reservoir whose
word is clean and whose three cases gave their outcomes (R297, R373), and FW_LOAD (R357, R358): an image that passes every
check starts in LOADED with every lock closed, any other is counted and refused with its code. The hash and the signature
are free values of the model.
Where the manual leaves a choice, the statement rests on the model's own: assumption log 67, 68, 69, 70, 71, 72. -/
def Obligations.QueueTraceAndTestCommands : Prop :=
  ((∀ (s : State) (m : MbN) (q : QpN) (w0 w1 w2 : Word), s.Begins m 0x60 → s.Args m [BitVec.ofNat 64 q.val, w0, w1, w2] →
     s.contextRefused w0 w1 w2 = false →
     let c := s.queue q.val
     (c.en = true → ¬(w0 = c.w0 ∧ w1 = c.w1 ∧ w2 = setBit c.w2 0 false) → s.Ends m.val 0x0C02 [] (exec (.queueSet m) s)) ∧
     (c.en = false → ∃ t : State,
       t.Ends m.val 0 [BitVec.ofNat 64 c.lost, BitVec.ofNat 64
         (c.dHead + c.dTail * 2 ^ 16 + c.sHead * 2 ^ 32 + c.sTail * 2 ^ 48)] (exec (.queueSet m) s) ∧
       (∀ j, j ≠ q.val → t.queue j = s.queue j) ∧ { t with hif := { t.hif with qps := s.hif.qps } } = s ∧
       t.queue q.val = (if bitAt w2 0 = true
         then { c with w0 := w0, w1 := w1, w2 := w2, lost := 0, dHead := 0, dTail := 0, sHead := 0, sTail := 0 }
         else { c with w0 := w0, w1 := w1, w2 := w2, lost := 0 })) ∧
     (c.en = true → c.msgs = [] → w0 = c.w0 → w1 = c.w1 → w2 = setBit c.w2 0 false → ∃ t : State,
       t.Ends m.val 0 [BitVec.ofNat 64 (min 0xFFFFFFFF c.lost), BitVec.ofNat 64
         (c.dHead + c.dTail * 2 ^ 16 + c.sHead * 2 ^ 32 + c.sTail * 2 ^ 48)] (exec (.queueSet m) s) ∧
       (∀ j, j ≠ q.val → t.queue j = s.queue j) ∧ { t with hif := { t.hif with qps := s.hif.qps } } = s ∧
       t.queue q.val = { c with w2 := w2, lost := 0 })) ∧
   (∀ (s : State) (m : MbN) (g : Fin 16) (pct : Nat), s.Begins m 0x61 → pct < 128 →
     s.Args m [BitVec.ofNat 64 (g.val + pct * 256)] →
     let sum := ((List.range 16).map (fun k => if k = g.val then 0 else Table.get (fun _ => 0) s.hif.share k)).sum
     (100 < sum + pct + s.trc.pct → s.Ends m.val 0x0A04 [] (exec (.shareSet m) s)) ∧
     (sum + pct + s.trc.pct ≤ 100 → ∃ t : State, t.Ends m.val 0 [] (exec (.shareSet m) s) ∧
       (∀ k, Table.get (fun _ => 0) t.hif.share k = if k = g.val then pct else Table.get (fun _ => 0) s.hif.share k) ∧
       { t with hif := { t.hif with share := s.hif.share } } = s)) ∧
   (∀ (s : State) (m : MbN) (k : Fin 1024) (host : Word) (ws : List Word), s.cmdDue m.val 0x62 = true → s.dev = .loaded →
     s.Args m [BitVec.ofNat 64 k.val, host, BitVec.ofNat 64 (8 * ws.length)] → ws.length % 8 = 0 →
     2 ≤ ws.length / 8 → ws.length / 8 ≤ 65 → host.toNat + 8 * ws.length ≤ 0xF00000000000 → s.hif.busMaster = true →
     s.otherSets k.val = [] → s.activated = false → s.setHeaderBad k.val ws = false →
     let n := ws.length / 8 - 1
     let part := bitsOf (ws.getD 0 0) 32 8
     s.firstBad part k.val (descsOf n (ws.drop 8)) = none →
     ∃ t : State, t.Ends m.val 0 [] (exec (.chansetSet m (.ok ws)) s) ∧
       t.chanSet k.val = { part := part, count := n, first := 0, valid := true } ∧
       (∀ j, j ≠ k.val → t.chanSet j = {}) ∧ (∀ i, i < n → t.desc i = { words := (ws.drop (8 * (i + 1))).take 8 }) ∧
       { t with feed := { t.feed with
         sets := s.feed.sets, descs := s.feed.descs, cb := s.feed.cb, newCnt := s.feed.newCnt, shown := s.feed.shown } } = s) ∧
   (∀ (s : State) (m : MbN) (host : Word) (ws : List Word), s.cmdDue m.val 0x62 = true → s.dev = .loaded →
     s.Args m [0xFFFF, host, 384] → host.toNat + 384 ≤ 0xF00000000000 → s.hif.busMaster = true →
     portRecordBad ws = false → s.activated = false →
     ∃ t : State, t.Ends m.val 0 [] (exec (.portRecordLoad m (.ok ws)) s) ∧
       { t with macs := s.macs, cans := s.cans, gpio := s.gpio } =
         { s with feed := { s.feed with portWords := ws, portSet := true } } ∧
       (∀ i : Fin 4, t.mac i.val = if s.macOn i.val = true then { s.mac i.val with
           ctrl := ws.getD (4 * i.val) 0, phyDly := ws.getD (4 * i.val + 1) 0, ptpCfg := ws.getD (4 * i.val + 2) 0
           cbCfg := ws.getD (4 * i.val + 3) 0 } else s.mac i.val) ∧
       (∀ c : Fin 8, (t.can c.val).ctrl = if s.canOn = true then ws.getD (16 + 3 * c.val) 0 else (s.can c.val).ctrl) ∧
       t.gpio = (if s.canOn = true then { s.gpio with
           safe := ws.getD 40 0, pol := ws.getD 41 0, filt := ws.getD 42 0, rbDly := ws.getD 43 0 } else s.gpio)) ∧
   (∀ (s : State) (m : MbN),
     (s.Begins m 0x70 → s.pairCheck m.val = 0 → ∃ t u : State, t.MsixAsked 2 (.next u) ∧
       (u.raise { cls := 0x53, utype := 8 }).Ends m.val 0
         [BitVec.ofNat 64 s.cfgDigest, BitVec.ofNat 64 s.traceList.length, BitVec.ofNat 64 s.sweepCount]
         (exec (.tracePair m) s) ∧
       { t with trc := s.trc } = s ∧ t.trc.event = s.trc.event ||| 1 ∧ t.trc.st = .stale ∧ t.trc.mode = bitsOf (s.arg m.val 0) 0 3 ∧
       t.trc.pct = bitsOf (s.arg m.val 0) 8 7 ∧ t.trc.peer = s.arg m.val 1 ∧ t.trc.wd = bitsOf (s.arg m.val 2) 0 28 ∧
       t.trc.txSeq = 0 ∧ t.trc.cursor = 0 ∧
       ∀ i, Table.get (fun _ => ({} : TrcEntry)) t.trc.list i = s.traceList.getD i {}) ∧
     (s.Begins m 0x71 → (s.trc.mode = 0 → s.Ends m.val 0x0A06 [] (exec (.traceDetach m) s)) ∧
       (s.trc.mode ≠ 0 → ∃ t : State, exec (.traceDetach m) s = .next t ∧ s.NowWaits t m (.detach m.val s.cyc))) ∧
     (s.Begins m 0x72 → (s.trc.mode = 0 → s.Ends m.val 0x0A06 [] (exec (.takeover m) s)) ∧
       (s.trc.mode = 2 → s.trc.st = .current →
         ∃ t : State, exec (.takeover m) s = .next t ∧
           (s.declareLost (s.trc.rxSeq - 1)).NowWaits t m (.takeover m.val s.cyc))))) ∧
  ((∀ (s : State) (m : MbN) (r : Fin 32) (word bit : Nat) (w : TWord) (seen : BitVec 8), s.Begins m 0x54 →
     s.Args m [BitVec.ofNat 64 (1 + r.val * 256), BitVec.ofNat 64 (word + bit * 2 ^ 24)] → word < 131072 → bit ≤ 75 →
     s.mayInjectRsv r.val = true → s.rsvOn r.val = true → s.blot.ml.length < 64 →
     let cpa := 0x10000000 + r.val * 0x100000 + 8 * word
     s.peek cpa = .clean w → bitsOf (seen.setWidth 64) 0 3 = 7 →
     ∃ t : State, t.Ends m.val 0 [7] (exec (.checkerTest m seen) s) ∧ t.peek cpa = .clean w ∧
       (∀ b, b / 8 ≠ cpa / 8 → t.peekCode b = s.peekCode b) ∧ (∃ x ∈ t.blot.ml, x.cpa = cpa) ∧
       (t.rsvOf r.val).errCnt = setBits (s.rsvOf r.val).errCnt 0 32 (satInc 0xFFFFFFFF (bitsOf (s.rsvOf r.val).errCnt 0 32)) ∧
       (∀ j, j ≠ r.val → t.rsvOf j = s.rsvOf j) ∧
       { t with mem := s.mem, rsv := s.rsv, blot := s.blot, free := s.free } = s) ∧
   (∀ (s : State) (m : MbN) (ws : List Word) (badPens : BitVec 64) (badInk : BitVec 128) (badRsv : BitVec 32)
     (host : Word) (len lowest : Nat), s.Begins m 0x02 → len < 2 ^ 32 → lowest < 2 ^ 32 →
     s.Args m [host, BitVec.ofNat 64 len, BitVec.ofNat 64 lowest] → host.toNat % 8 = 0 →
     host.toNat + len ≤ 0xF00000000000 → s.hif.busMaster = true → ws.length = (len + 7) / 8 →
     let bs := imageBytes ws len
     let o := exec (.fwLoad m (.ok ws) badPens badInk badRsv) s
     let refused (code : Nat) : Prop :=
       { s with huv := { s.huv with fwRejects := satInc 255 s.huv.fwRejects } }.Ends m.val code [] o
     if 8 ≤ s.huv.fwRejects then refused 0x0607
     else if imageCheck bs len lowest ≠ 0 then refused (imageCheck bs len lowest)
     else ∃ (t : State) (res : List Word), t.Ends m.val 0 res o ∧ t.dev = .loaded ∧ t.huv.testing = false ∧
       res.getD 0 0 = BitVec.ofNat 64 (leField bs 8 4) ∧ t.folio.lock = true ∧ t.rul.lock = true ∧ t.blot.lock = true ∧
       t.huv.rbLock = true ∧ t.hif.lock = true ∧ t.feed.lock = true ∧ t.gpio.lock = true ∧ t.trc.lock = true ∧
       t.pwr.lock = true ∧ t.aon.lock = true))

/-! ## Registers and domains -/

/-- The register rows whose write stores a record (R66, R68, R94, R245, R273, R321, R331, R408), with their locks open: the
staged words and the written one become the record, with what lies outside its fields 0 (R9), and the index goes on to the
next. -/
def Obligations.RecordWritesComplete : Prop :=
  ∀ (s : State) (w : TWord), s.huvasUp = true → w.tag ≠ Tag.uninit → w.tag ≠ Tag.poison →
    (s.rul.lock = false → s.rul.idx < 32768 → ∃ t : State, exec (.rulingEntryWrite w) s = .next t ∧
      { t with rul := s.rul } = s ∧ { t.rul with store := s.rul.store } = { s.rul with
        idx := (s.rul.idx + 1) % 32768, data0 := if s.rul.sel = true then w.val else s.rul.data0 } ∧
      ∀ i, t.storePayload i =
        if s.rul.sel = true then
          (if i = 131072 + s.rul.idx % 16384 then BitVec.ofNat 64 (w.val.toNat % 2 ^ 32) else s.storePayload i)
        else if i / 4 = s.rul.idx then [s.rul.data0, s.rul.data1, s.rul.data2, w.val].getD (i % 4) 0
        else s.storePayload i) ∧
    (s.folio.lock = false → s.folio.en = false →
      (∃ t : State, exec (.vtSlotWrite w) s = .next t ∧
        { t with vt := s.vt } = { s with folio := { s.folio with vtIdx := (s.folio.vtIdx + 1) % 8192 } } ∧
        (∀ k, k ≠ s.folio.vtIdx → t.vslot k = s.vslot k) ∧
        let w0 := s.folio.vtData0
        let kind : VKind := [VKind.state, .output, .input, .rsvd].getD (bitsOf w0 37 2) .rsvd
        t.vslot s.folio.vtIdx = { s.vslot s.folio.vtIdx with
          frame0 := bitsOf w0 0 36, fair := bitAt w0 36, kind := kind, valid := bitAt w0 39, part := bitsOf w0 40 8
          frame1 := bitsOf w.val 0 36 }) ∧
      (∃ t : State, exec (.pxRecordWrite w) s = .next t ∧
        { t with px := s.px } = { s with folio := { s.folio with pxIdx := (s.folio.pxIdx + 1) % 256 } } ∧
        ∀ p i, t.pxWord p i = if p = s.folio.pxIdx
          then (if i < 3 then Table.get (fun _ => 0) s.folio.pxStage i else if i = 3 then w.val else 0)
            &&& (if i = 0 then 0x701FF0003FFF8 else 0xFFFFFFFFFFFFFFFF)
          else s.pxWord p i) ∧
      (∃ t : State, exec (.ptRecordWrite w) s = .next t ∧
        { t with pt := s.pt } = { s with folio := { s.folio with ptIdx := (s.folio.ptIdx + 1) % 256 } } ∧
        ∀ p i, t.ptWord p i = if p = s.folio.ptIdx
          then (if i < 11 then Table.get (fun _ => 0) s.folio.ptStage i else if i = 11 then w.val else 0)
            &&& (if i = 0 then 0x1FFFFFFFFFFF007 else if i = 1 then 0xFFFFFFFFF00B else if i = 2 then 0xFFFFFFFFFFFFFFFF
              else if i = 3 then 0 else if i % 2 = 0 then 0x1FFFFFFFFFFF001 else 0xFFFFFFFFF001FFFF)
          else s.ptWord p i)) ∧
    (s.trc.lock = false → ∃ t : State, exec (.trcListWrite w) s = .next t ∧ { t with trc := s.trc } = s ∧
      { t.trc with list := s.trc.list } = { s.trc with listIdx := (s.trc.listIdx + 1) % 16384 } ∧
      ∀ i, Table.get (fun _ => ({} : TrcEntry)) t.trc.list i = if i = s.trc.listIdx
        then ⟨s.trc.stage0, w.val &&& 0xFFFFFFFFFFFF⟩ else Table.get (fun _ => {}) s.trc.list i) ∧
    (s.feed.lock = false → s.dev = .loaded → ∃ t : State, exec (.feedDescWrite w) s = .next t ∧
      { t with feed := s.feed } = s ∧
      { t.feed with descs := s.feed.descs } = { s.feed with descIdx := (s.feed.descIdx + 1) % 4096 } ∧
      (∀ d, d ≠ s.feed.descIdx → t.desc d = s.desc d) ∧
      let ws := (List.range 7).map (fun k => Table.get (fun _ => 0) s.feed.stage k) ++ [w.val]
      t.desc s.feed.descIdx = { s.desc s.feed.descIdx with
        words := (List.range 8).map (fun k => ws.getD k 0 &&& BitVec.ofNat 64 ((descMasks { words := ws }).getD k 0)) }) ∧
    (s.hif.lock = false → (s.queue s.hif.qpIdx).en = false → ∃ t : State, exec (.hifQpWrite w) s = .next t ∧
      (∀ j, j ≠ s.hif.qpIdx → t.queue j = s.queue j) ∧
      { t with hif := { t.hif with qps := s.hif.qps } } =
        { s with hif := { s.hif with qpIdx := (s.hif.qpIdx + 1) % 16384 } } ∧
      let word (k : Nat) : Word := Table.get (fun _ => 0) s.hif.qpStage k
      let q : Queue := { s.queue s.hif.qpIdx with
        w0 := word 0 &&& 0xFFFFFFFFFFFFFFCF, w1 := word 1, w2 := word 2 &&& 0xFFFFFF0FFFFFF3 }
      t.queue s.hif.qpIdx = if bitAt (word 2) 0 = true then { q with dHead := 0, dTail := 0, sHead := 0, sTail := 0 } else q)

/-- FOLIO_SWITCH arms and disarms (R59, R60), MMU_INV.ALL and MMU_LSLOT_LOAD (R272), HUV_EQ_POP (R429), a run's request
word (R386), a plain register, a domain request (R440), counters that a read clears and W1C bits, save what an event of
the cycle sets (R8, R12), the Huvas's own write of a mailbox (R24), and a register access whose fabric transfer fails
twice (R20). A write of a locked record register, or of UNINIT or POISON, changes no record (R11, R13): the first is
reported with the register's address, the second is a bus error and changes nothing.
Where the manual leaves a choice, the statement rests on the model's own: assumption log 50, 53. -/
def Obligations.RegisterOperationsComplete : Prop :=
  (∀ s : State,
     (s.huvasUp = true →
       (∀ w : TWord, w.tag ≠ Tag.uninit → w.tag ≠ Tag.poison → s.folio.lock = false →
         let k := bitsOf w.val 0 4
         (bitAt w.val 4 = false →
           exec (.folioSwitchWrite w) s = .next { s with folio := { s.folio with swSlot := k, swArm := false } }) ∧
         let may := (s.slotOf k).st = .verified ∧ (s.mayActivate k).1 = 0 ∧ (s.folio.swAt = 0 ∨
           (s.tickAtOrAfter s.folio.swAt.toNat = s.folio.swAt.toNat ∧ s.farAhead s.folio.swAt.toNat = true))
         (bitAt w.val 4 = true → may → exec (.folioSwitchWrite w) s =
           .next { s with folio := { s.folio with swSlot := k, swArm := true, swSince := s.cyc } }) ∧
         (bitAt w.val 4 = true → ¬may → exec (.folioSwitchWrite w) s = .next s)) ∧
       (∀ p : PenN, s.dev = .loaded →
         (∃ t : State, exec (.mmuInvAll p) s = .next t ∧ OnlyPens [p.val] s t ∧ t.pen p.val = { s.pen p.val with tlb := [] }) ∧
         ((s.pen p.val).st = .idle → ∀ slots : BitVec 8,
           (∀ i, i < 8 → slots.getLsbD i = true → bitAt (Table.get (fun _ => (0 : Word)) (s.pen p.val).lslot i) 0 = false) →
           exec (.mmuLslotLoad p slots) s = .next s) ∧
         ((s.pen p.val).st = .idle → ∀ i : Fin 8,
           exec (.mmuLslotLoad p (BitVec.ofNat 8 (2 ^ i.val))) s = .next (s.lslotLoad p.val i.val))) ∧
       exec .huvEqPop s = .next { s with huv := { s.huv with
         eq := s.huv.eq.drop 1, eqOver := s.huv.eqOver && !(s.huv.eq.drop 1).isEmpty } } ∧
       (∀ (w : TWord) (same : Word), w.tag ≠ Tag.uninit → w.tag ≠ Tag.poison →
         exec (.registerWrite 0x40000200 w false same) s =
           .next { s with folio := { s.folio with vtIdx := bitsOf w.val 0 13 } } ∧
         (s.folio.lock = false → exec (.registerWrite 0x40000008 w false same) s =
           .next { s with folio := { s.folio with period := bitsOf w.val 0 27 } }) ∧
         (s.folio.lock = true → exec (.registerWrite 0x40000008 w false same) s =
           .next (s.raise { cls := 0x80, addr := 0x40000008 })) ∧
         exec (.registerWrite 0x40000050 w false same) s =
           .next { s with folio := { s.folio with event := s.folio.event &&& ~~~ ((w.val &&& ~~~ same).setWidth 7) } } ∧
         (s.barOpen = true → bitAt w.val 32 = true → ∀ m : MbN,
           exec (.registerWrite (BitVec.ofNat 48 (0x40060000 + 512 * m.val)) w false same) s =
             exec (.mailboxGo m (w.val.setWidth 16) (BitVec.ofNat 16 (bitsOf w.val 16 16)) false) s)) ∧
       (∀ w : TWord, w.tag ≠ Tag.uninit → w.tag ≠ Tag.poison → s.pwr.lock = false →
         (∀ k : Fin 16, w.val = setBit s.pwr.reqOther k.val (!bitAt s.pwr.reqOther k.val) → s.pwr.reqOther &&& ~~~ 0x7FFFFF = 0 →
           exec (.domainRequestWrite true w) s = .next { s with pwr := { s.pwr with
             reqOther := w.val, queue := s.pwr.queue ++ [(Domain.rsvPair k, bitAt w.val k.val)] } }) ∧
         (∀ p : PenN, w.val = setBit s.pwr.reqPen p.val (!bitAt s.pwr.reqPen p.val) →
           w.val &&& s.penMask (fun x => x.st = .fenced) = 0 →
           exec (.domainRequestWrite false w) s = .next { s with pwr := { s.pwr with
             reqPen := w.val, queue := s.pwr.queue ++ [(Domain.pen p, bitAt w.val p.val)] } })) ∧
       (∀ same : Word,
         let late := bitsOf same 0 32
         exec (.registerReadClear 0x40000058 false same) s =
           .next { s with folio := { s.folio with lateCnt := min s.folio.lateCnt late } } ∧
         exec (.registerReadClear 0x40050308 false same) s =
           .next { s with hif := { s.hif with cntUr := min s.hif.cntUr late } } ∧
         exec (.registerReadClear 0x40000028 false same) s = .next s ∧
         (∀ (cpa : BitVec 48) (w : TWord), isReg cpa.toNat = true →
           exec (.registerWrite cpa w true same) s = .next (s.raise { cls := 0x24, addr := cpa.toNat })) ∧
         exec (.registerReadClear 0x40000058 true same) s = .next (s.raise { cls := 0x24, addr := 0x40000058 }))) ∧
     (∀ (p : PenN) (k : BitVec 8) (w : Word) (r : Run), (s.pen p.val).st = .run → (s.pen p.val).run = some r →
       r.linend = none →
       ∃ (t : State) (r' : Run), exec (.submissionRequest p k w) s = .next t ∧ OnlyPens [p.val] s t ∧
         t.pen p.val = { s.pen p.val with run := some r' } ∧ { r' with subs := r.subs } = r ∧
         ∀ j, Table.get (fun _ => (0 : Word)) r'.subs j = if j = k.toNat then w &&& 0x11FFF
           else Table.get (fun _ => 0) r.subs j)) ∧
  (∀ (s : State) (w : TWord), s.huvasUp = true →
     let rows : List (Instr × Bool × Nat) :=
       [(.vtSlotWrite w, s.folio.lock || s.folio.en, 0x40000210), (.pxRecordWrite w, s.folio.lock || s.folio.en, 0x40000320),
        (.ptRecordWrite w, s.folio.lock || s.folio.en, 0x40000460), (.folioSwitchWrite w, s.folio.lock, 0x40000068),
        (.rulingEntryWrite w, s.rul.lock, if s.rul.sel = true then 0x40010110 else 0x40010128),
        (.trcListWrite w, s.trc.lock, 0x40040110), (.hifQpWrite w, s.hif.lock, 0x40050120),
        (.feedDescWrite w, s.feed.lock || s.dev ≠ .loaded, 0x40030050),
        (.domainRequestWrite false w, s.pwr.lock, 0x40070010), (.domainRequestWrite true w, s.pwr.lock, 0x40070018)]
     ∀ e ∈ rows,
       ((w.tag = Tag.uninit ∨ w.tag = Tag.poison) → exec e.1 s = .next s) ∧
       (w.tag ≠ Tag.uninit → w.tag ≠ Tag.poison → e.2.1 = true →
         exec e.1 s = .next (s.raise { cls := 0x80, addr := e.2.2 })))

/-- The power controller takes its oldest request (R26, R440): a domain that goes on leaves reset and its banks fill (R288),
one that goes off loses what it held; a scrub pass over its bank stops first (R294). A request for the state that a domain
already has changes only the queue.
Where the manual leaves a choice, the statement rests on the model's own: assumption log 94. -/
def Obligations.DomainSwitchesComplete : Prop :=
  ∀ (s : State) (d : Domain) (on : Bool) (rest : List (Domain × Bool)), s.powered = true →
    s.pwr.queue = (d, on) :: rest → s.huv.waiting = [] →
    let c : Instr := if on = true then .domainSwitchOn d else .domainSwitchOff d
    let t : State := { s with pwr := { s.pwr with queue := rest } }
    let u := t.setDomain d on
    let passes := s.blot.pass.any (fun p => inDomain p.base d) = true ∧ on = false
    (s.domainOn d = on → exec c s = .next t) ∧
    (s.domainOn d ≠ on → passes →
      (∀ k, d = .rsvPair k → exec c s = .next (((t.passEnd .powerOff).setDomain d false).powerDone)) ∧
      (∀ n, d = .pen n → exec c s = .next ((((t.passEnd .powerOff).setDomain d false).penDown n.val).powerDone))) ∧
    (s.domainOn d ≠ on → ¬passes →
      (∀ k, d = .rsvPair k → ∃ v : State, exec c s = .next v ∧ { v with rsv := s.rsv } = u ∧
        ∀ r, v.rsvOf r = if on = true ∧ r / 2 = k.val then { s.rsvOf r with filling := true } else s.rsvOf r) ∧
      (d = .security → exec c s = .next (if on = true then u
        else { u with hif := { s.hif with ide := [], doe := none, session := 0 } })) ∧
      (d = .blotter → (on = true ∨ (s.blot.pass = none ∧ s.blot.marching = none ∧
          ∀ p, p < 64 → (s.pen p).st ≠ .test ∧ (s.pen p).st ≠ .testWait)) → exec c s = .next u) ∧
      (∀ m, d = .mac m → (s.mac m.val).link = false → (s.mac m.val).txq = [] →
        ∃ v : State, exec c s = .next v ∧ OnlyMac m.val u v ∧ v.mac m.val =
          if on = false then {}
          else if s.feed.portSet = true then { s.mac m.val with
            ctrl := s.feed.portWords.getD (4 * m.val) 0, phyDly := s.feed.portWords.getD (4 * m.val + 1) 0
            ptpCfg := s.feed.portWords.getD (4 * m.val + 2) 0, cbCfg := s.feed.portWords.getD (4 * m.val + 3) 0 }
          else s.mac m.val) ∧
      (d = .canGpio → (on = true → s.feed.portSet = false → exec c s = .next u) ∧
        (on = false → ∃ v : State, exec c s = .next v ∧ v.cans = [] ∧ v.gpio = {} ∧
          { v with cans := s.cans, gpio := s.gpio, feed := { v.feed with descs := s.feed.descs } } = u)) ∧
      (∀ n, d = .pen n →
        ((s.pen n.val).st = .fenced → exec c s = .next (if on = true then t else u)) ∧
        ((s.pen n.val).st ≠ .fenced → on = true → ∃ v : State, exec c s = .next v ∧ OnlyPens [n.val] u v ∧
          v.pen n.val = { s.pen n.val with filling0 := true, filling1 := true }) ∧
        ((s.pen n.val).st = .idle → on = false → (s.pen n.val).run = none → (s.pen n.val).ending = none →
          s.hasMirror n.val = false → s.blot.marching = none →
          ∃ v : State, exec c s = .next v ∧ (∀ q, q ≠ n.val → v.pen q = s.pen q) ∧
            v.pen n.val = { (s.pen n.val).clearRun with st := .off, tlb := [], testPort := none, handAt := none, passAt := none } ∧
            { v with pens := s.pens, blot := { v.blot with
              ports := s.blot.ports, waitQ := s.blot.waitQ, resilver := s.blot.resilver } } = u)))

/-! ## Host interface -/

/-- DOORBELL, INBOUND_WRITE, INBOUND_READ and MSIX_UNMASK while the function answers (R326, R329, R334, R335, R339, R349);
what is refused is logged under AER.
Where the manual leaves a choice, the statement rests on the model's own: assumption log 48. -/
def Obligations.HostRequestsComplete : Prop :=
  ∀ s : State, s.barOpen = true →
    (∀ w : Word,
      let n := bitsOf w 0 14
      let q := s.queue n
      let idx := bitsOf w 16 16
      let good := if bitAt w 14 = true then (q.sTail + 65536 - idx) % 65536 ≤ q.sSize
        else if q.toHost = true then (q.dTail + 65536 - idx) % 65536 ≤ q.dSize
        else (idx + 65536 - q.dHead) % 65536 ≤ q.dSize
      (q.en = true → good → ∃ t : State, exec (.doorbell w) s = .next t ∧
        (∀ j, j ≠ n → t.queue j = s.queue j) ∧ { t with hif := { t.hif with qps := s.hif.qps } } = s ∧
        t.queue n = if bitAt w 14 = true then { q with sHead := idx } else if q.toHost = true then { q with dHead := idx }
          else { q with dTail := idx }) ∧
      (q.en = false ∨ ¬good → exec (.doorbell w) s = .next
        ({ s with hif := { s.hif with cntDb := satInc 0xFFFFFFFF s.hif.cntDb } }.raise { cls := 0x64, detail := n })) ∧
      exec (.inboundWrite false 0x1000 8 w false false) s = exec (.doorbell w) s ∧
      exec (.inboundWrite false 0x1000 4 w false false) s = exec (.doorbell w) s) ∧
    (∀ (off : BitVec 17) (size : BitVec 13) (w : Word) (poisoned : Bool),
      let refused (t : State) : State := { t with out := s.out ++ [.completion false 0] }
      (0x2000 ≤ off.toNat → off.toNat < 0x4000 → ∃ t : State, s.AerNoted t .unsupported ∧
        exec (.inboundWrite false off size w poisoned false) s =
          .next { t with hif := { t.hif with cntUr := satInc 0xFFFFFFFF s.hif.cntUr } } ∧
        exec (.inboundRead false off size false) s = .next (refused t)) ∧
      (poisoned = false → exec (.inboundWrite true off size w poisoned false) s = .next s) ∧
      (poisoned = true → ∃ t : State, s.AerNoted t .poisoned ∧ exec (.inboundWrite true off size w poisoned false) s = .next t) ∧
      (∃ t : State, s.AerNoted t .unsupported ∧ exec (.inboundRead true off size false) s = .next (refused t)) ∧
      (s.hif.ecrcChk = true → ∃ t : State, s.AerNoted t .ecrc ∧
        exec (.inboundWrite false off size w poisoned true) s = .next t ∧
        exec (.inboundRead false off size true) s = .next t)) ∧
    (∀ (m : MbN) (i : Nat) (w : Word), i < 30 →
      let off : BitVec 17 := BitVec.ofNat 17 (512 * m.val + 16 + 8 * i)
      (∃ t : State, s.AerNoted t .poisoned ∧ exec (.inboundWrite false off 8 w true false) s = .next t) ∧
      ((s.mbox m.val).taken = false → ∃ t : State, exec (.inboundWrite false off 8 w false false) s = .next t ∧
        (∀ j, j ≠ m.val → t.mbox j = s.mbox j) ∧ { t with huv := { t.huv with mb := s.huv.mb } } = s ∧
        { t.mbox m.val with arg := (s.mbox m.val).arg } = s.mbox m.val ∧
        ∀ j, Table.get (fun _ => (0 : Word)) (t.mbox m.val).arg j =
          if j = i then w else Table.get (fun _ => 0) (s.mbox m.val).arg j)) ∧
    (∀ (m : MbN) (i : Nat), i < 32 →
      let w := Table.get (fun _ => (0 : Word)) (s.mbox m.val).res i
      exec (.inboundRead false (BitVec.ofNat 17 (512 * m.val + 256 + 8 * i)) 8 false) s =
        .next { s with out := s.out ++ [.completion true w] } ∧
      exec (.inboundRead false (BitVec.ofNat 17 (512 * m.val + 260 + 8 * i)) 4 false) s =
        .next { s with out := s.out ++ [.completion true (BitVec.ofNat 64 (bitsOf w 32 32))] }) ∧
    (∀ v : Fin 2048, (∀ j, j ≠ v.val → (s.msixOf j).pend = false) →
      let e := s.msixOf v.val
      e.addr.toNat < 0xF00000000000 →
      let sent := e.pend = true ∧ s.hif.msixEn = true ∧ s.hif.funcMask = false
      ∃ t : State, exec (.msixUnmask v) s = .next t ∧ (∀ j, j ≠ v.val → t.msixOf j = s.msixOf j) ∧
        t.msixOf v.val = { e with ctrl := 0, pend := e.pend && !(s.hif.msixEn && !s.hif.funcMask) } ∧
        { t with out := s.out, hif := { t.hif with msix := s.hif.msix } } = s ∧
        t.out = if sent ∧ s.linkOk = true then s.out ++ [.msix v.val] else s.out)

/-- The link trains, retrains and is lost, and the device power states (R322 to R325, R342). What is lost with the link or
in D3hot, after a TRACE window in progress breaks off: the queues' messages in progress and their EN, the configuration
space, the MSI-X table and the IDE keys; lines and commits go on. IDE and DOE (R344, R345), with the security block on: a
failed check is raised, a programmed key set takes over, and a request's answer stands in the DOE mailbox. The code
numbers of SPDM and IDE_KM are taken from outside the manual (PRESUMED).
Where the manual leaves a choice, the statement rests on the model's own: assumption log 44, 45, 46, 47. -/
def Obligations.LinkAndSecurityComplete : Prop :=
  (∀ s : State, s.powered = true →
     let b := s.breakWindow
     let lose (t : State) : Prop :=
       (∀ q, t.queue q = { b.queue q with
         w2 := setBit (b.queue q).w2 0 false
         msgs := [], lost := min 0xFFFFFFFF ((b.queue q).lost + (b.queue q).msgs.length) }) ∧
       (∀ q m, m ∈ (b.queue q).msgs → (b.queue q).toHost = false → ∀ p ∈ m.pages, p ∈ t.feed.dropNext) ∧
       { t with hif := b.hif, feed := { t.feed with descs := b.feed.descs, dropNext := b.feed.dropNext } } = b
     (∀ (speed : BitVec 3) (width : BitVec 5) (flit : Bool), 1 ≤ speed.toNat → speed.toNat ≤ 6 →
       width.toNat ∈ [1, 2, 4, 8, 16] →
       (s.pcieOn = true → s.hif.up = false → exec (.linkUp speed width flit) s = .next { s with hif := { s.hif with
         up := true, speed := speed.toNat, width := width.toNat, flit := flit, event := s.hif.event ||| 2 } }) ∧
       (s.hif.up = true → exec (.linkRetrain speed width) s =
         .next { s with hif := { s.hif with speed := speed.toNat, width := width.toNat } })) ∧
     (s.hif.up = false → exec (.linkDown true) s = .next { s with hif := { s.hif with event := s.hif.event ||| 0x10 } }) ∧
     (s.hif.up = true →
       (∀ perst, ∃ t : State, exec (.linkDown perst) s = .next (t.raise { cls := 0x60 }) ∧ lose t ∧
         { t.hif with qps := b.hif.qps, cntLost := b.hif.cntLost } = { b.hif with
           msix := [], msixEn := false, funcMask := false, busMaster := false, memSpace := false, ecrcGen := false
           ecrcChk := false, ctoRange := 0, bars := [], ide := [], doe := none, session := 0, d3 := false, up := false
           aer := {}, maxPay := 0, maxRead := 2
           speed := 0, width := 0, flit := false, event := b.hif.event ||| (if perst = true then 0x11 else 0x01) }) ∧
       (s.released = true → exec .pcieClockLoss s = exec (.linkDown false) s) ∧
       (s.hif.d3 = false → b.dev ≠ .run → b.dev ≠ .debug →
         exec .d3hotWrite s = .next { b with hif := { b.hif with d3 := true } }) ∧
       (s.hif.d3 = false → (b.dev = .run ∨ b.dev = .debug) →
         ∃ t : State, exec .d3hotWrite s = .next (t.raise { cls := 0x62 }) ∧ lose t ∧
           { t.hif with qps := b.hif.qps, cntLost := b.hif.cntLost } = { b.hif with
             d3 := true, event := b.hif.event ||| 8 }) ∧
       (s.hif.d3 = true → exec .d0Write s = .next { s with hif := { s.hif with d3 := false, event := s.hif.event ||| 2 } }) ∧
       ((∀ v, (s.msixOf v).pend = false) →
         (∀ b, exec (.configWrite (.busMaster b)) s = .next { s with hif := { s.hif with busMaster := b } }) ∧
         (∀ b, exec (.configWrite (.memSpace b)) s = .next { s with hif := { s.hif with memSpace := b } }) ∧
         (∀ b, exec (.configWrite (.ecrcGen b)) s = .next { s with hif := { s.hif with ecrcGen := b } }) ∧
         (∀ b, exec (.configWrite (.ecrcCheck b)) s = .next { s with hif := { s.hif with ecrcChk := b } }) ∧
         (∀ r, exec (.configWrite (.complTimeout r)) s = .next { s with hif := { s.hif with ctoRange := r } }) ∧
         (∀ b, exec (.configWrite (.msixEnable b)) s = .next { s with hif := { s.hif with msixEn := b } }) ∧
         (∀ b, exec (.configWrite (.msixFuncMask b)) s = .next { s with hif := { s.hif with funcMask := b } }) ∧
         (∀ (i : Fin 6) (v : BitVec 32), ∃ t : State, exec (.configWrite (.bar i v)) s = .next t ∧
           { t with hif := { t.hif with bars := s.hif.bars } } = s ∧
           ∀ j, Table.get (fun _ => (0 : BitVec 32)) t.hif.bars j = if j = i.val
             then v &&& (if i = 0 then 0xFFFF0000 else if i = 2 then 0xFFFE0000 else if i.val < 4 then 0xFFFFFFFF else 0)
             else Table.get (fun _ => 0) s.hif.bars j) ∧
         (∀ n, exec (.configWrite (.maxPayload n)) s = .next { s with hif := { s.hif with maxPay := min 2 n.toNat } }) ∧
         (∀ n, exec (.configWrite (.maxReadRequest n)) s = .next { s with hif := { s.hif with maxRead := min 5 n.toNat } }) ∧
         (∀ e, ∃ t : State, exec (.configWrite (.aerClear e)) s = .next t ∧
           { t with hif := { t.hif with aer := s.hif.aer } } = s ∧
           (∀ x, x ∈ t.hif.aer.logged ↔ x ∈ s.hif.aer.logged ∧ x ≠ e) ∧
           t.hif.aer.first = if s.hif.aer.first = some e then none else s.hif.aer.first) ∧
         (∀ (i : Fin 4) (a b : BitVec 16) (k : Fin 2) (x y : Word),
           let put (c : ConfigWrite) (e : Ide) : Prop := ∃ t : State, exec (.configWrite c) s = .next t ∧
             { t with hif := { t.hif with ide := s.hif.ide } } = s ∧ t.ideOf i.val = e ∧ ∀ j, j ≠ i.val → t.ideOf j = s.ideOf j
           put (.ideRid i a b) { s.ideOf i.val with rid := some (a.toNat, b.toNat) } ∧
           put (.ideAddr i k x y) (if k = 0 then { s.ideOf i.val with assoc0 := some (x.toNat, y.toNat) }
             else { s.ideOf i.val with assoc1 := some (x.toNat, y.toNat) })) ∧
         exec (.configWrite .absentFeature) s = .next s))) ∧
  (∀ s : State, s.powered = true → s.hif.up = true → s.secOn = true →
     (∀ i : Fin 4, (s.ideOf i.val).enabled = true → ∃ t : State, s.AerNoted t .ideCheck ∧ exec (.ideCheckFail i) s =
       .next ({ t with hif := { t.hif with event := s.hif.event ||| 0x20 } }.raise { cls := 0x66 })) ∧
     (∀ (i : Fin 4) (k : Bool), (s.ideOf i.val).go = true → (s.ideOf i.val).staged = some k →
       ∃ t : State, exec (.ideKeySetGo i) s = .next t ∧
         t.ideOf i.val = { s.ideOf i.val with enabled := true, keySet := k, staged := none, go := false } ∧
         (∀ j, j ≠ i.val → t.ideOf j = s.ideOf j) ∧ { t with hif := { t.hif with ide := s.hif.ide } } = s) ∧
     (s.dev ≠ .fill → s.huv.checked = true →
       let reply (t : State) (r : DoeReq) (ok : Bool) (b : DoeBody) : State :=
         { t with hif := { t.hif with doe := some ⟨r, ok, b⟩ } }
       let session (n : Nat) : State := { s with hif := { s.hif with session := n } }
       let chain := Config.certChain Config.fuses.serial
       let measure (p : BitVec 8) : BitVec 384 :=
         if p = 1 then Config.romHash else if p = 2 then s.huv.fwHash else if p = 3 then Config.fuses.keyHash
         else if p = 4 then BitVec.ofNat 384 s.cfgDigest
         else if p = 5 then BitVec.ofNat 384 (s.devCode + 16 * s.folio.actSlot) else 0
       exec .doeAbort s = .next { s with hif := { s.hif with doe := none } } ∧
       (∀ i : BitVec 8, exec (.doeRequest (.discovery i)) s = .next (if i.toNat < 4
         then reply s (.discovery i) true
           (.types ([DoeType.discovery, .cma, .securedCma, .ideKm].getD i.toNat .discovery) ((i.toNat + 1) % 4))
         else reply s (.discovery i) false .none)) ∧
       (∀ code p : BitVec 8,
         let gives (b : DoeBody) : Prop := exec (.doeRequest (.spdm code p)) s = .next (reply s (.spdm code p) true b)
         (code.toNat ∉ spdmCodes → exec (.doeRequest (.spdm code p)) s = .next (reply s (.spdm code p) false .none)) ∧
         (code = 0xE4 → exec (.doeRequest (.spdm code p)) s = .next (reply (session 1) (.spdm code p) true .none)) ∧
         (code = 0xEC → exec (.doeRequest (.spdm code p)) s = .next (reply (session 0) (.spdm code p) true .none)) ∧
         (code = 0x84 → gives (.versions [0x12, 0x13])) ∧ (code = 0xE3 → gives (.algorithms 384 384)) ∧
         (code = 0x81 → gives (.digest (Config.sha384 chain))) ∧
         (code = 0x82 → gives (.certificate Config.fuses.serial chain)) ∧
         (code = 0x83 → gives (.signature (Config.spdmSign Config.fuses.serial (Config.sha384 chain)))) ∧
         (code = 0xE0 → gives (.measurement (measure p))) ∧
         (s.hif.session = 0 →
           exec (.doeRequest (.securedSpdm code p)) s = .next (reply s (.securedSpdm code p) false .none)) ∧
         (s.hif.session = 1 → code = 0xE5 →
           exec (.doeRequest (.securedSpdm code p)) s = .next (reply (session 2) (.securedSpdm code p) true .none)) ∧
         (0 < s.hif.session → code = 0xE0 → exec (.doeRequest (.securedSpdm code p)) s =
           .next (reply s (.securedSpdm code p) true (.measurement (measure p))))) ∧
       (∀ (code stream : BitVec 8) (k : Bool), s.hif.session ≠ 2 ∨ 4 ≤ stream.toNat →
         exec (.doeRequest (.ideKm code stream k)) s = .next (reply s (.ideKm code stream k) false .none)) ∧
       (∀ (i : Fin 4) (k : Bool), s.hif.session = 2 → ∃ t : State,
         exec (.doeRequest (.ideKm 2 (BitVec.ofNat 8 i.val) k)) s =
           .next (reply t (.ideKm 2 (BitVec.ofNat 8 i.val) k) true .none) ∧
         t.ideOf i.val = { s.ideOf i.val with staged := some k } ∧ (∀ j, j ≠ i.val → t.ideOf j = s.ideOf j) ∧
         { t with hif := { t.hif with ide := s.hif.ide } } = s)))

/-! ## Tracing, train network and local I/O -/

/-- Accepted records have the effects of R310 to R317: BEGIN opens the window, UNIT is written or fails the
window (R20, R22, R26), END gives each written slot its new fair copy and is acknowledged, ACK ends the wait of a sender or
makes the partner STALE, DIGEST is kept for the comparison, and FAREWELL for a detach ends
the pairing at the next tick. TRACE_WATCHDOG (R314, R315): no answer came in time, the partner is LOST; a receiver that was
CURRENT prepares its takeover, 4,096 cyc later, one that was not stays stopped.
Where the manual leaves a choice, the statement rests on the model's own: assumption log 76, 77. -/
def Obligations.TracingRecordsComplete : Prop :=
  (∀ (s : State) (r : List Word),
     let f := rawFolio r
     let n := rawCount r
     let a := s.sendDue
     let t : State := { a with trc := { a.trc with rxSeq := (rawSeq r + 1) % 2 ^ 32, peerCfg := rawCfg r } }
     let heard (x : Trc) : Trc := { x with
       got := some f, await := a.trc.await.filter (· ≠ f)
       watch := a.trc.watch.filter (fun (w : Word × Nat) => w.1 ≠ f) }
     (AcceptedRecord s recBegin r → exec (.recordBegin r) s = .next (if a.receives = true
       then { t with trc := { t.trc with winOpen := true, winSlots := [], winUnits := 0 } } else t)) ∧
     (AcceptedRecord s recUnit r →
       (a.trc.winOpen = false → ∀ crc, exec (.recordUnit r crc) s = .next t) ∧
       (a.trc.winOpen = true →
         let slot := t.unitSlot r
         let base := 4096 * (match slot with | some k => (a.vslot k).draftFrame | none => bitsOf (r.getD 3 0) 12 36)
         exec (.recordUnit r true) s = .next (t.recordFails 0x59 (rawSeq r)) ∧
         ((∃ d ∈ a.writeAt base, a.bankReady d = false) →
           exec (.recordUnit r false) s = .next (t.recordFails 0x50 (rawSeq r))) ∧
         ((∀ i, i < 512 → ∀ d ∈ a.writeAt (base + 8 * i), a.bankReady d = true) →
           ∃ v : State, exec (.recordUnit r false) s = .next v ∧
             (∀ i, i < 512 → ∀ d ∈ a.writeAt (base + 8 * i), v.peek d = .clean ((unitWords r).getD i ⟨0, 0⟩)) ∧
             (∀ b, (∀ i, i < 512 → ∀ d ∈ a.writeAt (base + 8 * i), b / 8 ≠ d / 8) → v.peekCode b = a.peekCode b) ∧
             { v with mem := a.mem } = { t with trc := { t.trc with
               units := satInc 0xFFFFFFFF a.trc.units, winUnits := a.trc.winUnits + 1
               winSlots := match slot with
                 | some k => a.trc.winSlots.filter (fun (e : Nat × Nat) => e.1 ≠ k) ++ [(k, bitsOf (r.getD 4 0) 0 16)]
                 | none => a.trc.winSlots } }))) ∧
     (AcceptedRecord s recEnd r →
       (a.trc.winOpen = false → exec (.recordEnd r) s = .next t) ∧
       (a.trc.winOpen = true → bitAt (r.getD 6 0) 16 = false → bitAt (r.getD 6 0) 19 = false → n = a.trc.winUnits →
         ∀ k seq, a.trc.winSlots = [(k, seq)] → ∃ v : State, exec (.recordEnd r) s = .next v ∧
           { v.trc with txSeq := a.trc.txSeq } = { heard t.trc with
             lastEnd := f, winOpen := false, winSlots := [], winUnits := 0, adopt := some (f, rawSlot r) } ∧
           v.vslot k = (a.vslot k).swap seq ∧ (∀ j, j ≠ k → v.vslot j = a.vslot j) ∧
           (a.linkOk = false → v.out = a.out ∧ v.trc.txSeq = a.trc.txSeq) ∧
           (a.linkOk = true → v.trc.txSeq = (a.trc.txSeq + 1) % 2 ^ 32 ∧
             let place := a.trc.peer.toNat / 4096 * 4096 + a.trc.txSeq % 16 * 0x2000
             ∃ w : List Word, v.out = a.out ++ [.record place w (a.ideStream place)] ∧ w.length = 32 ∧
               headerOk recAck w = true ∧ rawFolio w = f ∧ bitAt (w.getD 6 0) 18 = false))) ∧
     (AcceptedRecord s recAck r →
       (a.sendsWindows = false → a.isTwin = false → exec (.recordAck r) s = .next t) ∧
       (bitAt (r.getD 6 0) 18 = false → a.isTwin = true → exec (.recordAck r) s = .next t) ∧
       (bitAt (r.getD 6 0) 18 = false → a.sendsWindows = true → a.trc.doneAt ≠ some f →
         exec (.recordAck r) s = .next { t with trc := { heard t.trc with lastEnd := f } }) ∧
       (bitAt (r.getD 6 0) 18 = true → a.sendsWindows = true ∨ a.isTwin = true →
         exec (.recordAck r) s = .next ({ t with trc := heard t.trc }.markStale (rawSeq r)))) ∧
     (AcceptedRecord s recDigest r →
       (a.isTwin = false → exec (.recordDigest r) s = .next t) ∧
       (a.isTwin = true → a.trc.mine = none → a.trc.theirs = none →
         exec (.recordDigest r) s = .next { t with trc := { heard t.trc with
           theirs := some ⟨f, rawSlot r, n < 256, bitAt (r.getD 6 0) 16, rawDigests r⟩ } })) ∧
     (AcceptedRecord s recFarewell r → bitsOf (r.getD 6 0) 24 8 = 1 →
       exec (.recordFarewell r) s = .next ({ t with trc := { t.trc with
         offNext := true, winOpen := false, winSlots := [], winUnits := 0, await := [], watch := [], send := none } }.raise
           { cls := 0x56, utype := 8, detail := rawSeq r }))) ∧
  (∀ s : State, s.paired = true → (∃ w ∈ s.trc.watch, w.2 ≤ s.cyc) →
     let seq := s.trc.rxSeq - 1
     let t : State := { s with trc := { s.trc with
       st := .lost, watch := [], await := [], winOpen := false, winSlots := [], winUnits := 0, doneAt := none
       mine := none, theirs := none, send := none } }
     let u := (t.trcEvent 2).raise { cls := 0x52, utype := 8, detail := seq }
     (s.receives = false → exec .traceWatchdog s = .next u) ∧
     (s.receives = true → s.trc.st ≠ .current → exec .traceWatchdog s =
       .next ({ u with trc := { u.trc with stopped := true } }.raise { cls := 0x55, utype := 8, detail := seq })) ∧
     (s.receives = true → s.trc.st = .current → exec .traceWatchdog s =
       .next (({ u with trc := { u.trc with takeAt := some (u.cyc + 4096) } }.trcEvent 3).raise
         { cls := 0x54, utype := 8, detail := seq })))

/-- ETH_FRAME_RECEIVE, ETH_FRAME_TRANSMIT, ETH_LINK_UP and ETH_LINK_DOWN (R389, R392, R393, R398): what a MAC drops it
counts, what a channel matches waits as a record, and what may start is sent; a lost link empties the queue, and a gPTP
source on it goes to holdover (R34).
Where the manual leaves a choice, the statement rests on the model's own: assumption log 82, 83, 84. -/
def Obligations.EthernetCompletes : Prop :=
  ∀ (s : State) (m : Fin 4), s.powered = true →
    let x := s.mac m.val
    (s.macUp m.val = true → ∀ (f : List Byte) (good : Bool),
      let e := ethParse f
      let c : Instr := .ethFrameReceive m f good
      let only (y : Mac) : Prop := ∃ t, exec c s = .next t ∧ OnlyMac m.val s t ∧ t.mac m.val = y
      (good = false → only { x with dropFcs := satInc 0xFFFF x.dropFcs }) ∧
      (good = true → ethMalformed f = true → only { x with dropFormat := satInc 0xFFFF x.dropFormat }) ∧
      (good = true → ethMalformed f = false → e.type = 0x88F7 → exec c s = .next s) ∧
      (good = true → ethMalformed f = false → e.type ≠ 0x88F7 → s.dev ≠ .run →
        only { x with dropMatch := satInc 0xFFFF x.dropMatch }) ∧
      (good = true → ethMalformed f = false → e.type ≠ 0x88F7 → s.dev = .run → ∀ (di : Nat) (d : Desc),
        s.ethChannels m.val = [(di, d)] → dType d = 4 → dCb d = false →
        (ethMatches d f e = false → only { x with dropMatch := satInc 0xFFFF x.dropMatch }) ∧
        (ethMatches d f e = true → ∃ (t : State) (w8 w16 : Word), exec c s = .next t ∧
          s.Awaits t di (s.aon.time.toNat - bitsOf x.phyDly 16 16) (.frame w8 w16 (f.drop e.pos)) ∧
          bitsOf w8 0 16 = f.length - e.pos ∧ bitAt w8 24 = decide (dCount d * dElem d < f.length - e.pos) ∧
          bitsOf w16 0 48 = fieldAt f 6 6 ∧ bitsOf w16 48 12 = e.vid ∧
          OnlyMac m.val { s with feed := t.feed } t ∧ t.mac m.val = { x with cntRx := satInc 0xFFFFFFFF x.cntRx }))) ∧
    (s.macUp m.val = true →
      (s.nextFrame m.val = none → exec (.ethFrameTransmit m) s = .next s) ∧
      (∀ g, s.nextFrame m.val = some g → ∃ t : State, exec (.ethFrameTransmit m) s = .next t ∧
        OnlyMac m.val { s with out := s.out ++ [.ethFrame m.val g.bytes], feed := t.feed } t ∧
        t.mac m.val = { x with txq := x.txq.erase g, cntTx := satInc 0xFFFFFFFF x.cntTx } ∧
        { t.feed with descs := s.feed.descs } = s.feed ∧ (∀ j, j ≠ g.desc → t.desc j = s.desc j) ∧
        ((s.desc g.desc).newStatus = none →
          t.desc g.desc = { s.desc g.desc with newStatus := some (stOk, s.folio16) }))) ∧
    (s.macOn m.val = true →
      (x.link = false → ∃ t, exec (.ethLinkUp m) s = .next t ∧ OnlyMac m.val s t ∧
        t.mac m.val = { x with link := true, event := x.event ||| 2 }) ∧
      (x.link = true → x.txq = [] → x.notSent ≤ 0xFFFFFFFF → ∃ t : State, OnlyMac m.val s t ∧
        t.mac m.val = { x with link := false, event := x.event ||| 1 } ∧
        (let u := t.raise { cls := 0x70, utype := 4, unit := m.val, detail := 2 * bitN (s.ptpSynced m.val) }
         let v := if u.ptpSynced m.val = true then u.syncLost m.val else u
         exec (.ethLinkDown m) s = .next (if v.folio.tsrc = 1 ∧ v.folio.gptpPort = m.val then v.enterHoldover else v))))

/-- CAN_FRAME_RECEIVE, CAN_FRAME_TRANSMIT and CAN_BUS_OFF_RECOVERY (R389, R399 to R401). How a good frame lowers the error
counters is taken from the standard (PRESUMED); above 127 the receive error counter takes a value from 119 to 127 that is
the model's free value.
Where the manual leaves a choice, the statement rests on the model's own: assumption log 86, 87. -/
def Obligations.CanCompletes : Prop :=
  ∀ (s : State) (c : Fin 8), s.powered = true → s.canOn = true →
    let x := s.can c.val
    let only (ins : Instr) (y : Can) : Prop := ∃ t : State, exec ins s = .next t ∧ t.can c.val = y ∧
      (∀ j, j ≠ c.val → t.can j = s.can j) ∧ { t with cans := s.cans } = s
    (x.st = 2 → only (.canBusOffRecovery c) { x with st := 0, tec := 0, recv := 0, event := x.event ||| 4 }) ∧
    (x.st = 0 → x.tec ≤ 127 → ∀ f : CanFrame,
      exec (.canFrameReceive c f .arbLost) s = .next s ∧
      ((s.dev ≠ .run ∨ f.rtr = true) →
        (x.recv ≤ 127 → only (.canFrameReceive c f .ok)
          { x with recv := x.recv - 1, cntDrop := satInc 0xFFFF x.cntDrop })) ∧
      (x.recv ≤ 127 → s.dev = .run → f.rtr = false → f.data.length ≤ 64 → ∀ (di : Nat) (d : Desc),
        s.canHits c.val f = [(di, d)] → dType d = 8 →
        ∃ (t : State) (w8 w16 : Word), exec (.canFrameReceive c f .ok) s = .next t ∧
          s.Awaits t di s.aon.time.toNat (.frame w8 w16 f.data) ∧ bitsOf w8 0 16 = f.data.length ∧
          bitAt w8 24 = decide (dCount d * dElem d < f.data.length) ∧ bitsOf w16 0 29 = f.id.toNat ∧
          bitAt w16 29 = f.ide ∧ bitAt w16 30 = f.fdf ∧ bitAt w16 31 = f.brs ∧ bitAt w16 32 = f.esi ∧
          t.can c.val = { x with recv := x.recv - 1, cntRx := satInc 0xFFFF x.cntRx } ∧
          (∀ j, j ≠ c.val → t.can j = s.can j) ∧ { t with cans := s.cans, feed := s.feed } = s)) ∧
    (x.st = 1 → x.tec ≤ 127 → 127 < x.recv → s.dev ≠ .run → ∀ f : CanFrame,
      ∃ (t : State) (r : Nat), exec (.canFrameReceive c f .ok) s = .next t ∧ 119 ≤ r ∧ r ≤ 127 ∧
        t.can c.val = { x with st := 0, recv := r, cntDrop := satInc 0xFFFF x.cntDrop } ∧
        (∀ j, j ≠ c.val → t.can j = s.can j) ∧ { t with cans := s.cans } = { s with free := s.free + 1 }) ∧
    (x.st < 2 → ∀ (f : CanFrame) (tec rec : BitVec 9) (ins : Instr),
      (ins = .canFrameReceive c f (.error tec rec false) ∨
        (ins = .canFrameTransmit c (.error tec rec false) ∧ s.canNormal c.val = true ∧ x.txq ≠ [])) →
      let st : Nat := if 255 < tec.toNat then 2 else if 127 < tec.toNat ∨ 127 < rec.toNat then 1 else 0
      let bit : BitVec 4 := if st = x.st then 0 else if st = 2 then 1 else if st = 1 then 2 else 0
      ∃ t : State, t.can c.val = { x with
          tec := min 255 tec.toNat, recv := min 255 rec.toNat, st := st, event := x.event ||| bit } ∧
        (∀ j, j ≠ c.val → t.can j = s.can j) ∧ { t with cans := s.cans } = s ∧
        exec ins s = .next (if bit = 0 then t else t.raise { cls := if st = 2 then 0x71 else 0x72, utype := 5, unit := c.val
                                                             detail := st + min 255 tec.toNat * 2 ^ 8 + min 255 rec.toNat * 2 ^ 16 })) ∧
    (x.st < 2 → s.canNormal c.val = true →
      exec (.canFrameTransmit c .arbLost) s = .next s ∧
      (x.txq = [] → exec (.canFrameTransmit c .ok) s = .next s) ∧
      (∀ g, x.st = 0 → x.tec ≤ 127 → x.recv ≤ 127 → g ∈ x.txq → (∀ h ∈ x.txq, h ≠ g → canKey g.frame < canKey h.frame) →
        ∃ t : State, exec (.canFrameTransmit c .ok) s = .next t ∧ t.out = s.out ++ [.canFrame c.val g.frame] ∧
          t.can c.val = { x with txq := x.txq.erase g, cntTx := satInc 0xFFFF x.cntTx, tec := x.tec - 1 } ∧
          (∀ j, j ≠ c.val → t.can j = s.can j) ∧
          t.desc g.desc = { s.desc g.desc with newStatus := some (stOk, s.folio16) } ∧
          (∀ j, j ≠ g.desc → t.desc j = s.desc j) ∧
          { t with out := s.out, cans := s.cans, feed := { t.feed with descs := s.feed.descs } } = s))

/-- FEED_RECORD_WRITE writes the oldest record into the draft of its INPUT page (R389, R390, R406): TIME, LEN with NEW,
the header word and the data of a frame; TIME, the words and the new index of a sample, or the status RANGE for a sample
that does not fit its page (the model's choice); a fabric error or a bank that is off ends the descriptor's transfer with its
status (R20, R26, R338). GPIO_CAPTURE, GPIO_SAMPLE and GPIO_READBACK (R402 to
R406): the levels of the pins are latched, driven pins that do not follow their output register outside its delay are
reported, and a sample waits as a record.
Where the manual leaves a choice, the statement rests on the model's own: assumption log 85, 88, 132. -/
def Obligations.FeedRecordsAndGpio : Prop :=
  (∀ (s : State) (r : RxRec) (rest : List RxRec), s.feed.rxq = r :: rest → s.dev = .run → s.folio.running = true →
     r.notBefore.toNat ≤ s.folio.tickTime.toNat →
     let d := s.desc r.desc
     let v := s.vslot (dSlot d)
     let base := v.draftFrame * 4096
     let drop : State := { s with feed := { s.feed with rxq := rest } }
     exec (.feedRecordWrite true) s = .next (drop.setDescStatus r.desc stFabricError) ∧
     (s.draftReady (dSlot d) = false → exec (.feedRecordWrite false) s = .next (drop.setDescStatus r.desc stMemError)) ∧
     (v.st = .drafted → s.draftReady (dSlot d) = true →
     (∀ o, o < 4096 → s.bankReady (base + o) = true ∧ s.mirrored (base + o) = false) →
     (∀ (w8 w16 : Word) (data : List Byte) (j : Nat), r.body = .frame w8 w16 data → j + 4 ≤ 512 → dOffset d = 8 * j →
       dMode d = 0 → dCount d = 8 → dElem d = 1 → dStep d = 1 → data.length = 8 →
       let new := min 255 (Table.get (fun _ => 0) s.feed.newCnt r.desc + 1)
       ∃ t : State, exec (.feedRecordWrite false) s = .next t ∧
         t.peek (base + 8 * j) = .clean (TWord.time r.time) ∧
         t.peek (base + 8 * j + 8) = .clean (TWord.uint (setBits w8 16 8 new)) ∧
         t.peek (base + 8 * j + 16) = .clean (TWord.raw w16) ∧
         t.peek (base + 8 * j + 24) = .clean (TWord.raw (BitVec.ofNat 64 (leNat data))) ∧
         (∀ b, b / 8 < base / 8 + j ∨ base / 8 + j + 3 < b / 8 → t.peekCode b = s.peekCode b) ∧
         t.feed.rxq = rest ∧ Table.get (fun _ => 0) t.feed.newCnt r.desc = new ∧
         { t with mem := s.mem, feed := { t.feed with rxq := s.feed.rxq, newCnt := s.feed.newCnt } } = s) ∧
     (∀ (unit : Nat) (w : Word), r.body = .sample unit [w] →
       let k := Table.get (fun _ => (0 : Nat)) s.feed.samples unit
       let a := (elemAddr d (dOffset d) k 0).toNat
       (¬ (a % 8 = 0 ∧ dIdxOff d % 8 = 0 ∧ a + 16 ≤ 4096) → ∃ t : State,
         exec (.feedRecordWrite false) s = .next (t.setDescStatus r.desc stRange) ∧ t.feed.rxq = rest ∧
         Table.get (fun _ => 0) t.feed.samples unit = k + 1 ∧
         { t with feed := { t.feed with rxq := s.feed.rxq, samples := s.feed.samples } } = s) ∧
       (a % 8 = 0 → dIdxOff d % 8 = 0 → a + 16 ≤ 4096 → dIdxOff d / 8 ≠ a / 8 → dIdxOff d / 8 ≠ a / 8 + 1 →
       ∃ t : State, exec (.feedRecordWrite false) s = .next t ∧
         t.peek (base + a) = .clean (TWord.time r.time) ∧ t.peek (base + a + 8) = .clean (TWord.raw w) ∧
         t.peek (base + dIdxOff d) = .clean (TWord.uint (BitVec.ofNat 64 (k + 1))) ∧
         (∀ b, b / 8 ≠ (base + a) / 8 → b / 8 ≠ (base + a) / 8 + 1 → b / 8 ≠ (base + dIdxOff d) / 8 →
           t.peekCode b = s.peekCode b) ∧
         t.feed.rxq = rest ∧ Table.get (fun _ => 0) t.feed.samples unit = k + 1 ∧
         { t with mem := s.mem, feed := { t.feed with rxq := s.feed.rxq, samples := s.feed.samples } } = s)))) ∧
  (∀ (s : State) (levels : Word), s.powered = true → s.canOn = true →
     let lv := levels &&& ~~~ s.timePins
     let want := s.gpio.outReg ^^^ s.gpio.pol
     let off (pins : List Nat) : List Nat := pins.filter (fun n => bitAt s.gpioDrive n && bitAt lv n != bitAt want n)
     let judged (t : State) (g : Gpio) (bad : List Nat) (o : Host.Outcome State Fault Refusal) : Prop :=
       (∀ n, n < 64 → bitAt t.gpio.rbErr n = (bitAt s.gpio.rbErr n || bad.contains n)) ∧
       { t.gpio with rbErr := s.gpio.rbErr } = g ∧
       o = .next (t.raiseAll (bad.map (fun n => { cls := 0x73, utype := 6, unit := n })))
     ((s.dev = .run ∨ s.dev = .safe) → s.folio.running = true → s.captureTime ≤ s.aon.time.toNat →
       s.gpio.capFor ≠ s.nextTick → (s.dev = .run → ∀ e ∈ s.allChannels, dType e.2 ≠ 10) →
       ∀ crc, ∃ t : State, judged t { s.gpio with level := lv, capFor := s.nextTick }
           (off ((List.range 64).filter (fun n => !s.inDelay n))) (exec (.gpioCapture levels crc) s) ∧
         { t with gpio := s.gpio } = s) ∧
     (s.dev = .run → s.folio.running = true → s.captureTime ≤ s.aon.time.toNat → s.gpio.capFor ≠ s.nextTick →
       off ((List.range 64).filter (fun n => !s.inDelay n)) = [] → ∀ (di : Nat) (d : Desc) (n : Nat),
       s.allChannels.filter (fun e => dType e.2 = 10) = [(di, d)] → pinsOf (dWord d 2) = [n] →
       let u : State := { s with gpio := { s.gpio with level := lv, capFor := s.nextTick } }
       let base := (s.vslot (dSlot d)).draftFrame * 4096 + dOffset d
       exec (.gpioCapture levels true) s = .next (u.setDescStatus di stFabricError) ∧
       (s.draftReady (dSlot d) = false → exec (.gpioCapture levels false) s = .next (u.setDescStatus di stMemError)) ∧
       ((s.vslot (dSlot d)).st = .drafted → s.draftReady (dSlot d) = true →
         (∀ o, o < 16 → s.bankReady (base + o) = true ∧ s.mirrored (base + o) = false) →
         ∃ t : State, exec (.gpioCapture levels false) s = .next t ∧
           t.peek base = .clean (TWord.time (BitVec.ofNat 64 s.captureTime)) ∧
           t.peek (base + 8) = .clean (TWord.bool (bitAt lv n)) ∧
           (∀ b, b / 8 ≠ base / 8 → b / 8 ≠ base / 8 + 1 → t.peekCode b = s.peekCode b) ∧ { t with mem := s.mem } = u)) ∧
     (∀ (k : Fin 8) (di : Nat) (d : Desc), s.dev = .run → s.folio.running = true → s.sampleChannel k.val = some (di, d) →
       s.sampleDue d = true → (∀ r ∈ s.feed.rxq, r.desc ≠ di) →
       ∃ t : State, exec (.gpioSample k levels) s = .next t ∧ { t with feed := s.feed } = s ∧
         s.Awaits t di (if s.folioCyc = 0 then s.folio.tickTime.toNat else s.aon.time.toNat)
           (.sample k.val [lv &&& dWord d 3])) ∧
     (let due := (s.gpio.changed.filter (fun (c : Nat × Nat) => c.2 + bitsOf s.gpio.rbDly 0 16 ≤ s.cyc)).map (·.1)
      due ≠ [] → ∃ t : State, judged t { s.gpio with
           level := lv, changed := s.gpio.changed.filter (fun (c : Nat × Nat) => !due.contains c.1) }
         (off due) (exec (.gpioReadback levels) s) ∧ { t with gpio := s.gpio } = s))

/-! ## Power, clocks and reset -/

/-- The reset sources and Dormant (R28, R438, R443 to R446): each resets every domain but always-on, records its cause and
leaves the part where R28 says. The board's balls stay as driven. FILL (R118, R288, R355, R442, R447): the fuse words, the
fill of every bank and of the ruling store, and the ROM check of the nibs; a fuse word that fails holds the part in FILL.
Where the manual leaves a choice, the statement rests on the model's own: assumption log 90, 93, 95, 101. -/
def Obligations.ResetsAndFillComplete : Prop :=
  (∀ s : State,
     let after (d : DevState) (cause : BitVec 11) (p : Pwr) : State := { State.reset with
       pending := s.pending, free := s.free, out := s.out, cyc := s.cyc, dev := d
       aon := { s.aon with enter := false, steer := 0, rst := s.aon.rst ||| cause }
       pwr := { State.reset.pwr with pwrEn := p.pwrEn, clkGood := p.clkGood, resetN := p.resetN } }
     let marked (cause : BitVec 11) (p : Pwr) : State := { s with aon := { s.aon with rst := s.aon.rst ||| cause }, pwr := p }
     exec .vaonPowerOn s = .next { State.reset with
       pending := s.pending, free := s.free, out := s.out
       pwr := { State.reset.pwr with clkGood := s.pwr.clkGood, resetN := s.pwr.resetN } } ∧
     (s.powered = false → exec .mainRailsUp s = .next { s with
       dev := .fill, pwr := { s.pwr with pwrEn := true }
       aon := { s.aon with rst := if s.pwr.pwrEn = true then s.aon.rst else s.aon.rst ||| 0x020 } }) ∧
     (s.dev ≠ .dormant → exec .mainPowerReset s = .next (after .dormant 0x002 s.pwr)) ∧
     (s.pwr.resetN = false → exec .resetNAssert s = .next (if s.powered = true
       then after .fill 0x004 { s.pwr with resetN := true } else marked 0x004 { s.pwr with resetN := true })) ∧
     (s.pwr.resetN = true → exec .resetNRelease s = .next { s with pwr := { s.pwr with resetN := false } }) ∧
     exec .jtagTrst s = .next s ∧
     (s.powered = true → exec .clockFail s = .next (after .fill 0x008 { s.pwr with clkGood := false })) ∧
     (s.pwr.clkGood = false → exec .clockReturn s = .next { s with pwr := { s.pwr with clkGood := true } }) ∧
     (s.aon.xtalOk = true → exec .xtalStop s = .next { s with aon := { s.aon with
       xtalOk := false, valid := if s.dev = .dormant then false else s.aon.valid } }) ∧
     (s.aon.xtalOk = false → exec .xtalStart s = .next { s with aon := { s.aon with xtalOk := true } }) ∧
     (s.released = true → (∀ m, m < 4 → (s.mac m).link = false) → exec .pllEthUnlock s = .next s) ∧
     (s.released = true → (∀ m, m < 3 → (s.mac m).link = false) → (s.mac 3).link = true → s.macOn 3 = true →
       exec .pllEthUnlock s = exec (.ethLinkDown 3) s) ∧
     (s.powered = true → s.aon.enter = true → exec .dormantEnter s =
       .next (after .dormant 0x002 { s.pwr with pwrEn := false })) ∧
     (s.dev = .dormant → s.pwr.pwrEn = false → ∀ fired : BitVec 3,
       let f := fired &&& BitVec.ofNat 3 (bitsOf s.aon.wakeCfg 0 3)
       let t : State := { s with pwr := { s.pwr with pwrEn := true } }
       (fired = 0 → exec (.wake fired) s = .next { t with aon := { s.aon with rst := s.aon.rst ||| 0x020 } }) ∧
       (fired ≠ 0 → f = 0 → exec (.wake fired) s = .next s) ∧
       (f ≠ 0 → exec (.wake fired) s = .next { t with aon := { s.aon with
         wakeLevel := (s.aon.wakeLevel &&& ~~~ f) ||| (BitVec.ofNat 3 (bitsOf s.aon.wakeCfg 4 3) &&& f)
         rst := s.aon.rst ||| BitVec.ofNat 11 (f.toNat * 256) } }))) ∧
  (∀ s : State, s.released = true →
     (s.dev = .fill → s.pwr.fuseDone = false → s.pwr.fuseHold = false →
       exec (.fuseLoad true) s = .next { s with pwr := { s.pwr with fuseDone := true } } ∧
       exec (.fuseLoad false) s = .next { s with
         pwr := { s.pwr with fuseHold := true }, aon := { s.aon with rst := s.aon.rst ||| 0x010 } }) ∧
     (s.dev = .fill → s.pwr.fuseDone = true → ∀ cmp : BitVec 5, ∃ t : State, exec (.fillDone cmp) s = .next t ∧
       (∀ a, t.peekCode a = fillCode (a / 8)) ∧ (∀ i, Table.get fillStore t.rul.store i = fillStore i) ∧
       (∀ p, p < 64 → t.pen p = { s.pen p with st := .idle, filling0 := false, filling1 := false }) ∧
       (∀ r, r < 32 → t.rsvOf r = { s.rsvOf r with filling := false }) ∧
       { t with mem := s.mem, rul := s.rul, pens := s.pens, rsv := s.rsv } = { s with
         dev := .boot, pwr := { s.pwr with selfFail := cmp, inRange := 15, active := true } } ∧
       { t.rul with store := s.rul.store } = s.rul) ∧
     (s.dev = .boot → s.huv.checked = false → s.huv.lost = false →
       let judged (n : BitVec 3) (last : Nat) : State := { s with huv := { s.huv with
         checked := true, nibIn := n, nibFailed := decide (n ≠ 7), lastOut := last } }
       (∀ n : BitVec 3, n = 7 → exec (.romCheckDone n) s = .next (if s.pwr.selfFail = 0 then judged 7 s.huv.lastOut
         else (judged 7 s.huv.lastOut).raise { cls := 0x82 })) ∧
       (∀ (h : Fin 3) (n : BitVec 3), (∀ k, k < 3 → n.getLsbD k = decide (k ≠ h.val)) →
         let u := (judged n h.val).raise { cls := 0x21, utype := 7, unit := h.val }
         u.pwr.selfFail = 0 → exec (.romCheckDone n) s = .next u)))

/-- The AVS loop (R434 to R436): a margin below the guard raises the voltage, 16 intervals above it lower it, a critical
one asks for VMAX at once. A request that is acknowledged is the new target; one that times out is repeated once, and then
the loop stops. An excursion sets its bit of PWR_EVENT and is raised (R442), a rail back in its window shows in IN_RANGE
alone; a conversion is raised where it first passes TEMP_HI, is cleared below the hysteresis, and at 160 °C or above is
raised as critical.
Where the manual leaves a choice, the statement rests on the model's own: assumption log 53, 91, 92. -/
def Obligations.VoltageAndSupervision : Prop :=
  (∀ s : State, s.released = true →
     let p := s.pwr
     (p.active = true → p.request = none → ∀ n : BitVec 8,
       let k := n.toNat
       let q : Pwr := { p with margin := k }
       let ask (q : Pwr) (mv : Nat) : State := if mv = p.target then { s with pwr := q }
         else { s with pwr := { q with request := some mv, repeated := false }, out := s.out ++ [.avsWrite mv] }
       (k < p.guardCrit → exec (.avsInterval n) s =
         .next ((ask { q with hiRun := 0, loRun := 0 } p.vmax).powerEvent 5 0x82)) ∧
       (p.guardCrit ≤ k → k < p.guardLo → p.target < p.vmax → exec (.avsInterval n) s =
         .next (ask { q with hiRun := 0, loRun := 0 } (min (p.target + 5) p.vmax))) ∧
       (p.guardCrit ≤ k → k < p.guardLo → p.vmax ≤ p.target → p.loRun < 3 → exec (.avsInterval n) s =
         .next { s with pwr := { q with hiRun := 0, loRun := p.loRun + 1 } }) ∧
       (p.guardCrit ≤ k → k < p.guardLo → p.vmax ≤ p.target → p.loRun = 3 → exec (.avsInterval n) s =
         .next ({ s with pwr := { q with hiRun := 0, loRun := 4 } }.powerEvent 5 0x82)) ∧
       (p.guardCrit ≤ k → p.guardLo ≤ k → k ≤ p.guardHi → exec (.avsInterval n) s =
         .next { s with pwr := { q with hiRun := 0, loRun := 0 } }) ∧
       (p.guardCrit ≤ k → p.guardLo ≤ k → p.guardHi < k → p.hiRun < 15 → exec (.avsInterval n) s =
         .next { s with pwr := { q with hiRun := p.hiRun + 1, loRun := 0 } }) ∧
       (p.guardCrit ≤ k → p.guardLo ≤ k → p.guardHi < k → p.hiRun = 15 → exec (.avsInterval n) s =
         .next (ask { q with hiRun := 0, loRun := 0 } (max (p.target - 5) p.vmin)))) ∧
     (∀ mv, p.request = some mv →
       (∀ r : BitVec 16, exec (.avsAcknowledge r) s = .next { s with pwr := { p with
         target := mv, readback := r.toNat, request := none, repeated := false } }) ∧
       (p.repeated = false → exec .avsTimeout s = .next { s with
         pwr := { p with errCnt := satInc 255 p.errCnt, repeated := true }, out := s.out ++ [.avsWrite mv] }) ∧
       (p.repeated = true → exec .avsTimeout s = .next ({ s with pwr := { p with
         errCnt := satInc 255 p.errCnt, active := false, request := none, repeated := false } }.powerEvent 4 0x82)))) ∧
  (∀ s : State, s.released = true →
     (∀ c : Fin 4,
       exec (.supplyExcursion c true) s =
         .next ({ s with pwr := { s.pwr with
           inRange := s.pwr.inRange &&& ~~~ BitVec.ofNat 4 (2 ^ c.val)
           event := s.pwr.event ||| BitVec.ofNat 8 (2 ^ c.val) } }.raise { cls := 0x82 }) ∧
       exec (.supplyExcursion c false) s =
         .next { s with pwr := { s.pwr with inRange := s.pwr.inRange ||| BitVec.ofNat 4 (2 ^ c.val) } }) ∧
     (∀ tj : BitVec 16,
       let hi := 16 * (BitVec.ofNat 8 (bitsOf s.aon.tempCfg 0 8)).toInt
       let hyst : Int := 16 * bitsOf s.aon.tempCfg 8 4
       let at' (hot : Bool) : State := { s with aon := { s.aon with tj := tj }, pwr := { s.pwr with tempOver := hot } }
       (tj.toInt < 2560 →
         (tj.toInt ≤ hi → tj.toInt < hi - hyst → exec (.tempConversion tj) s = .next (at' false)) ∧
         (tj.toInt ≤ hi → hi - hyst ≤ tj.toInt → exec (.tempConversion tj) s = .next (at' s.pwr.tempOver)) ∧
         (hi < tj.toInt → s.pwr.tempOver = true → exec (.tempConversion tj) s = .next (at' true)) ∧
         (hi < tj.toInt → s.pwr.tempOver = false → exec (.tempConversion tj) s = .next ((at' true).powerEvent 6 0x83))) ∧
       (2560 ≤ tj.toInt → hi < tj.toInt → s.pwr.tempOver = true →
         exec (.tempConversion tj) s = .next ((at' true).powerEvent 7 0x82))))
end

