-- ==== Sys2Proof/Laws/Table.lean ====
section
/-! SUPPORT. Sparse tables: a read after a write, and that every operation keeps the canonical form. -/

namespace Sys2Proof.Machine

variable {α : Type}

/-! ### Reads after writes -/

theorem Table.get_ins_same (d : Nat → α) (t : Table α) (k : Nat) (v : α) : Table.get d (Table.ins t k v) k = v := by
  induction t with
  | nil => simp [Table.ins, Table.get]
  | cons e t ih =>
    obtain ⟨j, w⟩ := e
    by_cases h1 : k < j
    · simp [Table.ins, Table.get, h1]
    · by_cases h2 : k = j
      · simp [Table.ins, Table.get, h2]
      · simp [Table.ins, Table.get, h1, h2, ih]

theorem Table.get_ins_other (d : Nat → α) (t : Table α) {k m : Nat} (v : α) (h : m ≠ k) :
    Table.get d (Table.ins t k v) m = Table.get d t m := by
  induction t with
  | nil => simp [Table.ins, Table.get, h]
  | cons e t ih =>
    obtain ⟨j, w⟩ := e
    by_cases h1 : k < j
    · simp [Table.ins, Table.get, h1, h]
    · by_cases h2 : k = j
      · subst h2; simp [Table.ins, Table.get, h]
      · simp [Table.ins, Table.get, h1, h2, ih]

theorem Table.get_del_other (d : Nat → α) (t : Table α) {k m : Nat} (h : m ≠ k) :
    Table.get d (Table.del t k) m = Table.get d t m := by
  induction t with
  | nil => rfl
  | cons e t ih =>
    obtain ⟨j, w⟩ := e
    by_cases h2 : k = j
    · subst h2; simp [Table.del, Table.get, h, ih]
    · simp [Table.del, Table.get, h2, ih]

/-- Writing one index leaves every other index alone. -/
theorem Table.get_set_other [DecidableEq α] (d : Nat → α) (t : Table α) {k m : Nat} (v : α) (h : m ≠ k) :
    Table.get d (Table.set d t k v) m = Table.get d t m := by
  unfold Table.set
  split
  · exact Table.get_del_other d t h
  · exact Table.get_ins_other d t v h

/-! ### The canonical form -/

theorem Table.wfFrom_mono [DecidableEq α] (d : Nat → α) (t : Table α) {lo hi : Nat} (h : lo ≤ hi)
    (w : Table.wfFrom d hi t) : Table.wfFrom d lo t := by
  cases t with
  | nil => rfl
  | cons e t =>
    obtain ⟨j, v⟩ := e
    simp only [Table.wfFrom, Bool.and_eq_true, decide_eq_true_eq] at w ⊢
    exact ⟨⟨by omega, w.1.2⟩, w.2⟩

/-- Below its first index a canonical table lists nothing. -/
theorem Table.get_below [DecidableEq α] (d : Nat → α) (t : Table α) {lo k : Nat} (w : Table.wfFrom d lo t) (h : k < lo) :
    Table.get d t k = d k := by
  induction t generalizing lo with
  | nil => rfl
  | cons e t ih =>
    obtain ⟨j, v⟩ := e
    simp only [Table.wfFrom, Bool.and_eq_true, decide_eq_true_eq] at w
    have : k ≠ j := by omega
    simp only [Table.get, this, if_false]
    exact ih (lo := j + 1) w.2 (by omega)

theorem Table.get_del_same (d : Nat → α) (t : Table α) (k : Nat) : Table.get d (Table.del t k) k = d k := by
  induction t with
  | nil => rfl
  | cons e t ih =>
    obtain ⟨j, v⟩ := e
    by_cases h : k = j
    · subst h; simp [Table.del, ih]
    · simp [Table.del, h, Table.get, ih]

/-- A read of the index just written gives the value written. -/
@[simp] theorem Table.get_set_same [DecidableEq α] (d : Nat → α) (t : Table α) (k : Nat) (v : α) :
    Table.get d (Table.set d t k v) k = v := by
  unfold Table.set
  split
  · rename_i h
    rw [h]
    exact Table.get_del_same d t k
  · exact Table.get_ins_same d t k v

theorem Table.wfFrom_del [DecidableEq α] (d : Nat → α) (t : Table α) {lo : Nat} (w : Table.wfFrom d lo t) (k : Nat) :
    Table.wfFrom d lo (Table.del t k) := by
  induction t generalizing lo with
  | nil => rfl
  | cons e t ih =>
    obtain ⟨j, v⟩ := e
    simp only [Table.wfFrom, Bool.and_eq_true, decide_eq_true_eq] at w
    by_cases h : k = j
    · subst h
      simp only [Table.del, if_true]
      exact Table.wfFrom_mono d _ (by omega : lo ≤ k + 1) (ih w.2)
    · simp only [Table.del, h, if_false, Table.wfFrom, Bool.and_eq_true, decide_eq_true_eq]
      exact ⟨w.1, ih w.2⟩

theorem Table.wfFrom_ins [DecidableEq α] (d : Nat → α) (t : Table α) {lo k : Nat} {v : α} (w : Table.wfFrom d lo t)
    (hk : lo ≤ k) (hv : v ≠ d k) : Table.wfFrom d lo (Table.ins t k v) := by
  induction t generalizing lo with
  | nil => simp [Table.ins, Table.wfFrom, hk, hv]
  | cons e t ih =>
    obtain ⟨j, u⟩ := e
    have w' := w
    simp only [Table.wfFrom, Bool.and_eq_true, decide_eq_true_eq] at w
    by_cases h1 : k < j
    · simp only [Table.ins, h1, if_true, Table.wfFrom, Bool.and_eq_true, decide_eq_true_eq]
      exact ⟨⟨hk, hv⟩, ⟨by omega, w.1.2⟩, w.2⟩
    · by_cases h2 : k = j
      · subst h2
        simp only [Table.ins, Nat.lt_irrefl, if_false, if_true, Table.wfFrom, Bool.and_eq_true, decide_eq_true_eq]
        exact ⟨⟨hk, hv⟩, w.2⟩
      · simp only [Table.ins, h1, h2, if_false, Table.wfFrom, Bool.and_eq_true, decide_eq_true_eq]
        exact ⟨w.1, ih w.2 (by omega)⟩

/-- A write keeps the canonical form. -/
theorem Table.wf_set [DecidableEq α] (d : Nat → α) (t : Table α) (k : Nat) (v : α) (w : Table.wf d t) :
    Table.wf d (Table.set d t k v) := by
  unfold Table.set Table.wf at *
  split
  · exact Table.wfFrom_del d t w k
  · rename_i h
    exact Table.wfFrom_ins d t w (Nat.zero_le k) h

/-- Keeping some of the indexes keeps the canonical form. -/
theorem Table.wfFrom_keep [DecidableEq α] (d : Nat → α) (p : Nat → Bool) (t : Table α) {lo : Nat} (w : Table.wfFrom d lo t) :
    Table.wfFrom d lo (Table.keep p t) := by
  induction t generalizing lo with
  | nil => rfl
  | cons e t ih =>
    obtain ⟨j, v⟩ := e
    simp only [Table.wfFrom, Bool.and_eq_true, decide_eq_true_eq] at w
    have e : Table.keep p ((j, v) :: t) = if p j then (j, v) :: Table.keep p t else Table.keep p t := by
      simp [Table.keep, List.filter_cons]
    rw [e]
    split
    · simp only [Table.wfFrom, Bool.and_eq_true, decide_eq_true_eq]
      exact ⟨w.1, ih w.2⟩
    · exact Table.wfFrom_mono d _ (by omega : lo ≤ j + 1) (ih w.2)

theorem Table.wf_keep [DecidableEq α] (d : Nat → α) (p : Nat → Bool) (t : Table α) (w : Table.wf d t) :
    Table.wf d (Table.keep p t) := Table.wfFrom_keep d p t w

end Sys2Proof.Machine
end

