-- ==== Sys2Proof/Laws/Keeps.lean ====
section
/-! SUPPORT. What every command keeps: the queue of waiting commands, and the canonical form of the two memories. -/

namespace Sys2Proof.Machine

/-- The queue is `q` and both memories are in canonical form, by the three parts of the state that this concerns. -/
def KeepsOf (q p : List Instr) (m st : Table Code) : Prop := p = q ∧ Memory.wf m ∧ Memory.storeWf st

/-- The queue of a state is `q` and its memories are in canonical form. -/
def Keeps (q : List Instr) (s : State) : Prop := KeepsOf q s.pending s.mem s.rul.store

theorem Keeps.pending {q : List Instr} {s : State} (h : Keeps q s) : s.pending = q := h.1
theorem Keeps.mem {q : List Instr} {s : State} (h : Keeps q s) : Memory.wf s.mem := h.2.1
theorem Keeps.store {q : List Instr} {s : State} (h : Keeps q s) : Memory.storeWf s.rul.store := h.2.2

/-! ### Updates that leave these parts alone -/

theorem keeps_mk {q : List Instr} {x0 x1 x2 x3 x4 x5 x6 x7 x8 x9 x10 x11 x12 x13 x14 x15 x16 x17 x18 x19 x20 x21 x22 x23 x24 x25 x26} :
    Keeps q (State.mk x0 x1 x2 x3 x4 x5 x6 x7 x8 x9 x10 x11 x12 x13 x14 x15 x16 x17 x18 x19 x20 x21 x22 x23 x24 x25 x26) = KeepsOf q x0 x15 x7.store := by unfold Keeps; rfl

theorem keeps_eta {q : List Instr} {s : State} : KeepsOf q s.pending s.mem s.rul.store = Keeps q s := by unfold Keeps; rfl

theorem keeps_ite {q : List Instr} {c : Prop} [Decidable c] {s t : State} (h : Keeps q s) (h' : Keeps q t) :
    Keeps q (if c then s else t) := by
  split
  · exact h
  · exact h'

/-! ### Outcomes, results and loops -/

/-- A next state keeps. -/
def OutKeeps (q : List Instr) (o : Host.Outcome State Fault Refusal) : Prop := ∀ t, o = .next t → Keeps q t

/-- A state that keeps, if there is one. -/
def OptKeeps (q : List Instr) (o : Option State) : Prop := ∀ t, o = some t → Keeps q t

theorem OptKeeps.getD {q : List Instr} {o : Option State} {s : State} (h : OptKeeps q o) (hs : Keeps q s) :
    Keeps q (o.getD s) := by
  cases o with
  | none => exact hs
  | some t => exact h t rfl

theorem optKeeps_some {q : List Instr} {s : State} (h : Keeps q s) : OptKeeps q (some s) := by
  rintro t ⟨⟩; exact h

theorem optKeeps_none {q : List Instr} : OptKeeps q none := by
  rintro t ⟨⟩

theorem outKeeps_next {q : List Instr} {s : State} (h : Keeps q s) : OutKeeps q (.next s) := by
  rintro t ⟨⟩; exact h

theorem answer_keeps {q : List Instr} {s : State} (h : Keeps q s) : OutKeeps q (answer s) := outKeeps_next h

theorem guarded_keeps {q : List Instr} {due : Bool} {s : State} {f : State → State} (h : Keeps q s)
    (hf : ∀ t, Keeps q t → Keeps q (f t)) : OutKeeps q (guarded due s f) := by
  apply outKeeps_next
  split
  · exact hf s h
  · exact h

theorem foldl_keeps {α : Type} {q : List Instr} {l : List α} {f : State → α → State} {s : State}
    (hf : ∀ t a, Keeps q t → Keeps q (f t a)) (h : Keeps q s) : Keeps q (l.foldl f s) := by
  induction l generalizing s with
  | nil => exact h
  | cons a l ih => exact ih (hf s a h)

/-- Loops that carry the state beside other values. -/
theorem foldl_fst_keeps {α β : Type} {q : List Instr} {l : List α} {f : State × β → α → State × β} {x : State × β}
    (hf : ∀ y a, Keeps q y.1 → Keeps q (f y a).1) (h : Keeps q x.1) : Keeps q (l.foldl f x).1 := by
  induction l generalizing x with
  | nil => exact h
  | cons a l ih => exact ih (hf x a h)

theorem foldl_snd_keeps {α β : Type} {q : List Instr} {l : List α} {f : β × State → α → β × State} {x : β × State}
    (hf : ∀ y a, Keeps q y.2 → Keeps q (f y a).2) (h : Keeps q x.2) : Keeps q (l.foldl f x).2 := by
  induction l generalizing x with
  | nil => exact h
  | cons a l ih => exact ih (hf x a h)

theorem foldl_snd_snd_keeps {α β γ : Type} {q : List Instr} {l : List α} {f : β × γ × State → α → β × γ × State}
    {x : β × γ × State} (hf : ∀ y a, Keeps q y.2.2 → Keeps q (f y a).2.2) (h : Keeps q x.2.2) :
    Keeps q (l.foldl f x).2.2 := by
  induction l generalizing x with
  | nil => exact h
  | cons a l ih => exact ih (hf x a h)

theorem State.forAll_keeps {α : Type} {q : List Instr} {l : List α} {f : α → State → State} {s : State}
    (hf : ∀ a t, Keeps q t → Keeps q (f a t)) (h : Keeps q s) : Keeps q (s.forAll l f) :=
  foldl_keeps (fun t a ht => hf a t ht) h

/-- How a piece of an instruction's work keeps, in each of its ends. -/
def ResKeeps {α : Type} (q : List Instr) (r : Res α) : Prop :=
  match r with
  | .ok _ s => Keeps q s
  | .exc _ s => Keeps q s
  | .hold _ s => Keeps q s
  | .wait => True

theorem Res.bind_keeps {α β : Type} {q : List Instr} {r : Res α} {f : α → State → Res β} (h : ResKeeps q r)
    (hf : ∀ a t, Keeps q t → ResKeeps q (f a t)) : ResKeeps q (r.bind f) := by
  cases r with
  | ok a s => exact hf a s h
  | exc e s => exact h
  | hold e s => exact h
  | wait => exact h

theorem resKeeps_ok {α : Type} {q : List Instr} {a : α} {s : State} (h : Keeps q s) : ResKeeps q (.ok a s) := h
theorem resKeeps_exc {α : Type} {q : List Instr} {e : Exc} {s : State} (h : Keeps q s) : ResKeeps q (.exc e s : Res α) := h
theorem resKeeps_hold {α : Type} {q : List Instr} {x : Hold} {s : State} (h : Keeps q s) :
    ResKeeps q (.hold x s : Res α) := h
theorem resKeeps_wait {α : Type} {q : List Instr} : ResKeeps q (.wait : Res α) := True.intro

end Sys2Proof.Machine
end

