-- ==== Sys2Proof/Laws/KeepsBanks.lean ====
section
/-! SUPPORT. That the parts of the state, bank words, translation, runs and registers keep the queue of waiting commands and the canonical form of the two memories. -/

set_option linter.unusedSimpArgs false
set_option linter.unusedTactic false

namespace Sys2Proof.Machine

variable {pq : List Instr}

theorem State.setPen_keeps {s : State} {n : Nat} {p : Pen} (hk : Keeps pq s) :
    Keeps pq (State.setPen s n p) := by
  unfold State.setPen
  with_reducible
    repeat' (first
      | assumption | simp only [keeps_mk, keeps_eta])

theorem State.modPen_keeps {s : State} {n : Nat} {f : Pen → Pen} (hk : Keeps pq s) :
    Keeps pq (State.modPen s n f) := by
  unfold State.modPen
  with_reducible
    repeat' (first
      | assumption | apply State.setPen_keeps)

theorem State.modRsv_keeps {s : State} {r : Nat} {f : Rsv → Rsv} (hk : Keeps pq s) :
    Keeps pq (State.modRsv s r f) := by
  unfold State.modRsv
  with_reducible
    repeat' (first
      | assumption | simp only [keeps_mk, keeps_eta])

theorem State.modVslot_keeps {s : State} {n : Nat} {f : VSlot → VSlot} (hk : Keeps pq s) :
    Keeps pq (State.modVslot s n f) := by
  unfold State.modVslot
  with_reducible
    repeat' (first
      | assumption | simp only [keeps_mk, keeps_eta])

theorem State.modSlot_keeps {s : State} {k : Nat} {f : RulSlot → RulSlot} (hk : Keeps pq s) :
    Keeps pq (State.modSlot s k f) := by
  unfold State.modSlot
  with_reducible
    repeat' (first
      | assumption | simp only [keeps_mk, keeps_eta])

theorem State.modQueue_keeps {s : State} {q : Nat} {f : Queue → Queue} (hk : Keeps pq s) :
    Keeps pq (State.modQueue s q f) := by
  unfold State.modQueue
  with_reducible
    repeat' (first
      | assumption | simp only [keeps_mk, keeps_eta])

theorem State.modMsix_keeps {s : State} {v : Nat} {f : MsixEntry → MsixEntry} (hk : Keeps pq s) :
    Keeps pq (State.modMsix s v f) := by
  unfold State.modMsix
  with_reducible
    repeat' (first
      | assumption | simp only [keeps_mk, keeps_eta])

theorem State.modMbox_keeps {s : State} {m : Nat} {f : Mailbox → Mailbox} (hk : Keeps pq s) :
    Keeps pq (State.modMbox s m f) := by
  unfold State.modMbox
  with_reducible
    repeat' (first
      | assumption | simp only [keeps_mk, keeps_eta])

theorem State.modDesc_keeps {s : State} {d : Nat} {f : Desc → Desc} (hk : Keeps pq s) :
    Keeps pq (State.modDesc s d f) := by
  unfold State.modDesc
  with_reducible
    repeat' (first
      | assumption | simp only [keeps_mk, keeps_eta])

theorem State.modMac_keeps {s : State} {m : Nat} {f : Mac → Mac} (hk : Keeps pq s) :
    Keeps pq (State.modMac s m f) := by
  unfold State.modMac
  with_reducible
    repeat' (first
      | assumption | simp only [keeps_mk, keeps_eta])

theorem State.modCan_keeps {s : State} {c : Nat} {f : Can → Can} (hk : Keeps pq s) :
    Keeps pq (State.modCan s c f) := by
  unfold State.modCan
  with_reducible
    repeat' (first
      | assumption | simp only [keeps_mk, keeps_eta])

theorem State.emit_keeps {s : State} {o : Out} (hk : Keeps pq s) :
    Keeps pq (State.emit s o) := by
  unfold State.emit
  with_reducible
    repeat' (first
      | assumption | simp only [keeps_mk, keeps_eta])

theorem State.takeFree_keeps {s : State} (hk : Keeps pq s) :
    Keeps pq (State.takeFree s).2 := by
  unfold State.takeFree
  with_reducible
    repeat' (first
      | assumption | simp only [keeps_mk, keeps_eta])

theorem State.setMirror_keeps {s : State} {p : Nat} {m : Mirror} (hk : Keeps pq s) :
    Keeps pq (State.setMirror s p m) := by
  unfold State.setMirror
  with_reducible
    repeat' (first
      | assumption | apply State.modPen_keeps)

theorem State.soleFor_keeps {s : State} {p : Nat} (hk : Keeps pq s) :
    Keeps pq (State.soleFor s p) := by
  unfold State.soleFor
  with_reducible
    repeat' (first
      | assumption | apply State.setMirror_keeps | apply keeps_ite)

theorem State.boundSteer_keeps {s : State} (hk : Keeps pq s) :
    Keeps pq (State.boundSteer s) := by
  unfold State.boundSteer
  with_reducible
    repeat' (first
      | assumption | simp only [keeps_mk, keeps_eta])

theorem State.releaseActive_keeps {s : State} (hk : Keeps pq s) :
    Keeps pq (State.releaseActive s) := by
  unfold State.releaseActive
  with_reducible
    repeat' (first
      | assumption | apply State.modSlot_keeps)

theorem State.emitTo_keeps {s : State} {addr : Nat} {f : Option Nat → Out} (hk : Keeps pq s) :
    Keeps pq (State.emitTo s addr f) := by
  unfold State.emitTo
  with_reducible
    repeat' (first
      | assumption | apply State.emit_keeps)

theorem State.noteAer_keeps {s : State} {e : AerError} (hk : Keeps pq s) :
    Keeps pq (State.noteAer s e) := by
  unfold State.noteAer
  with_reducible
    repeat' (first
      | assumption | apply State.takeFree_keeps | apply keeps_ite | simp only [keeps_mk, keeps_eta])

theorem State.chargeLink_keeps {s : State} {g bytes : Nat} (hk : Keeps pq s) :
    Keeps pq (State.chargeLink s g bytes) := by
  unfold State.chargeLink
  with_reducible
    repeat' (first
      | assumption | simp only [keeps_mk, keeps_eta])

theorem State.noteCommit_keeps {s : State} {n : Nat} (hk : Keeps pq s) :
    Keeps pq (State.noteCommit s n) := by
  unfold State.noteCommit
  with_reducible
    repeat' (first
      | assumption | simp only [keeps_mk, keeps_eta])

theorem State.noteFirst_keeps {s : State} {n : Nat} (hk : Keeps pq s) :
    Keeps pq (State.noteFirst s n) := by
  unfold State.noteFirst
  with_reducible
    repeat' (first
      | assumption | simp only [keeps_mk, keeps_eta])

theorem State.postStatus_keeps {s : State} {q status len idx entries msgSeq : Nat} {folio : Word} (hk : Keeps pq s) :
    Keeps pq (State.postStatus s q status len idx entries msgSeq folio) := by
  unfold State.postStatus
  with_reducible
    repeat' (first
      | assumption | apply State.chargeLink_keeps | apply State.emitTo_keeps | apply State.modQueue_keeps)

theorem State.setDescStatus_keeps {s : State} {d status : Nat} (hk : Keeps pq s) :
    Keeps pq (State.setDescStatus s d status) := by
  unfold State.setDescStatus
  with_reducible
    repeat' (first
      | assumption | apply State.modDesc_keeps)

theorem State.discardDraft_keeps {s : State} {n : Nat} (hk : Keeps pq s) :
    Keeps pq (State.discardDraft s n) := by
  unfold State.discardDraft
  with_reducible
    repeat' (first
      | assumption | apply State.modVslot_keeps)

theorem State.rewriteTlb_keeps {s : State} {n : Nat} (hk : Keeps pq s) :
    Keeps pq (State.rewriteTlb s n) := by
  unfold State.rewriteTlb
  with_reducible
    repeat' (first
      | assumption | simp only [keeps_mk, keeps_eta])

theorem State.pokeCode_keeps {s : State} {cpa : Nat} {c : Code} (hk : Keeps pq s) :
    Keeps pq (s.pokeCode cpa c) := ⟨hk.1, Table.wf_set _ _ _ _ hk.2.1, hk.2.2⟩

theorem State.poke_keeps {s : State} {cpa : Nat} {w : TWord} (hk : Keeps pq s) :
    Keeps pq (State.poke s cpa w) := by
  unfold State.poke
  with_reducible
    repeat' (first
      | assumption | apply State.pokeCode_keeps)

theorem State.fillRange_keeps {s : State} {base size : Nat} (hk : Keeps pq s) :
    Keeps pq (s.fillRange base size) := by
  refine ⟨hk.1, ?_, hk.2.2⟩
  simp only [State.fillRange, Memory.wf]
  exact Table.wf_keep _ _ _ hk.2.1

theorem State.engineWrite_keeps {s : State} {cpa : Nat} {w : TWord} (hk : Keeps pq s) :
    Keeps pq (State.engineWrite s cpa w) := by
  unfold State.engineWrite
  with_reducible
    repeat' (first
      | assumption | apply foldl_keeps | apply State.poke_keeps | apply keeps_ite | (intro _ _ _; beta_reduce))

theorem State.sendRecord_keeps {s : State} {type : Nat} {folio : Word} {w3 w4 w6 : Nat} {data : List Word}
    (hk : Keeps pq s) :
    Keeps pq (State.sendRecord s type folio w3 w4 w6 data) := by
  unfold State.sendRecord
  with_reducible
    repeat' (first
      | assumption | apply State.emitTo_keeps | apply keeps_ite | simp only [keeps_mk, keeps_eta])

theorem State.farewell_keeps {s : State} {reason : Nat} (hk : Keeps pq s) :
    Keeps pq (State.farewell s reason) := by
  unfold State.farewell
  with_reducible
    repeat' (first
      | assumption | apply State.sendRecord_keeps | apply keeps_ite)

theorem State.dropCopy_keeps {s : State} {p : Nat} (hk : Keeps pq s) :
    Keeps pq (State.dropCopy s p) := by
  unfold State.dropCopy
  with_reducible
    repeat' (first
      | assumption | apply State.discardDraft_keeps | split)

theorem State.dropRequest_keeps {s : State} {p : Nat} {r : Run} (hk : Keeps pq s) :
    Keeps pq (State.dropRequest s p r) := by
  unfold State.dropRequest
  with_reducible
    repeat' (first
      | assumption | simp only [keeps_mk, keeps_eta] | split)

theorem State.killRun_keeps {s : State} {p : Nat} (hk : Keeps pq s) :
    Keeps pq (State.killRun s p) := by
  unfold State.killRun
  with_reducible
    repeat' (first
      | assumption | apply State.forAll_keeps | apply State.discardDraft_keeps | apply State.modPen_keeps
      | apply State.dropRequest_keeps | apply State.dropCopy_keeps | apply keeps_ite | simp only [keeps_mk, keeps_eta]
      | split | (intro _ _ _; beta_reduce))

theorem State.killEnding_keeps {s : State} {p : Nat} (hk : Keeps pq s) :
    Keeps pq (State.killEnding s p) := by
  unfold State.killEnding
  with_reducible
    repeat' (first
      | assumption | apply State.forAll_keeps | apply State.modPen_keeps | apply State.discardDraft_keeps
      | apply keeps_ite | simp only [keeps_mk, keeps_eta] | split | (intro _ _ _; beta_reduce))

theorem State.commitPage_keeps {s : State} {r : Run} {n : Nat} (hk : Keeps pq s) :
    Keeps pq (State.commitPage s r n) := by
  unfold State.commitPage
  with_reducible
    repeat' (first
      | assumption | apply State.modVslot_keeps | apply State.noteCommit_keeps | apply State.rewriteTlb_keeps
      | apply keeps_ite | simp only [keeps_mk, keeps_eta])

theorem State.noteHwm_keeps {s : State} {r : Run} {c : Nat} (hk : Keeps pq s) :
    Keeps pq (State.noteHwm s r c) := by
  unfold State.noteHwm
  with_reducible
    repeat' (first
      | assumption | apply keeps_ite | simp only [keeps_mk, keeps_eta])

theorem State.commitRun_keeps {s : State} {r : Run} {c : Nat} (hk : Keeps pq s) :
    Keeps pq (State.commitRun s r c).1 := by
  unfold State.commitRun
  with_reducible
    repeat' (first
      | assumption | apply State.forAll_keeps | apply State.commitPage_keeps | apply State.noteHwm_keeps
      | simp only [keeps_mk, keeps_eta] | (intro _ _ _; beta_reduce))

theorem State.commitPen_keeps {s : State} {p : Nat} (hk : Keeps pq s) :
    Keeps pq (State.commitPen s p).1 := by
  unfold State.commitPen
  with_reducible
    repeat' (first
      | assumption | apply State.commitRun_keeps | apply State.modPen_keeps | apply keeps_ite
      | simp only [keeps_mk, keeps_eta] | split)

theorem State.loseRun_keeps {s : State} {r : Run} (hk : Keeps pq s) :
    Keeps pq (State.loseRun s r).1 := by
  unfold State.loseRun
  with_reducible
    repeat' (first
      | assumption | simp only [keeps_mk, keeps_eta] | split)

theorem State.leavePair_keeps {s : State} {p : Nat} (hk : Keeps pq s) :
    Keeps pq (State.leavePair s p) := by
  unfold State.leavePair
  with_reducible
    repeat' (first
      | assumption | apply State.modPen_keeps | apply State.soleFor_keeps | apply keeps_ite
      | simp only [keeps_mk, keeps_eta])

theorem State.wantRedraft_keeps {s : State} (hk : Keeps pq s) :
    Keeps pq (State.wantRedraft s) := by
  unfold State.wantRedraft
  with_reducible
    repeat' (first
      | assumption | apply keeps_ite | simp only [keeps_mk, keeps_eta])

theorem State.freeBlotter_keeps {s : State} {p : Nat} (hk : Keeps pq s) :
    Keeps pq (State.freeBlotter s p) := by
  unfold State.freeBlotter
  with_reducible
    repeat' (first
      | assumption | apply State.modPen_keeps | simp only [keeps_mk, keeps_eta])

theorem State.dropMarch_keeps {s : State} {p : Nat} (hk : Keeps pq s) :
    Keeps pq (State.dropMarch s p) := by
  unfold State.dropMarch
  with_reducible
    repeat' (first
      | assumption | apply keeps_ite | simp only [keeps_mk, keeps_eta] | split)

theorem State.cutPass_keeps {s : State} {p : Nat} (hk : Keeps pq s) :
    Keeps pq (State.cutPass s p) := by
  unfold State.cutPass
  with_reducible
    repeat' (first
      | assumption | simp only [keeps_mk, keeps_eta])

theorem State.toFenced_keeps {s : State} {p : Nat} (hk : Keeps pq s) :
    Keeps pq (State.toFenced s p) := by
  unfold State.toFenced
  with_reducible
    repeat' (first
      | assumption | apply State.cutPass_keeps | apply State.dropMarch_keeps | apply State.freeBlotter_keeps
      | apply State.modPen_keeps | simp only [keeps_mk, keeps_eta])

theorem State.mirrorAfterLoss_keeps {s : State} {p : Nat} (hk : Keeps pq s) :
    Keeps pq (State.mirrorAfterLoss s p) := by
  unfold State.mirrorAfterLoss
  with_reducible
    repeat' (first
      | assumption | apply State.modPen_keeps | apply State.soleFor_keeps | apply State.setMirror_keeps
      | apply keeps_ite | simp only [keeps_mk, keeps_eta] | split)

theorem State.fencePen_keeps {s : State} {p : Nat} (hk : Keeps pq s) :
    Keeps pq (State.fencePen s p).1 := by
  unfold State.fencePen
  with_reducible
    repeat' (first
      | assumption | apply State.killEnding_keeps | apply State.leavePair_keeps | apply State.killRun_keeps
      | apply State.loseRun_keeps | apply State.wantRedraft_keeps | apply State.mirrorAfterLoss_keeps
      | apply State.toFenced_keeps | simp only [keeps_mk, keeps_eta] | split)

theorem State.fencePair_keeps {s : State} {p : Nat} (hk : Keeps pq s) :
    Keeps pq (State.fencePair s p).1 := by
  unfold State.fencePair
  with_reducible
    repeat' (first
      | assumption | apply State.fencePen_keeps | apply State.setMirror_keeps)

theorem State.gpioSafe_keeps {s : State} (hk : Keeps pq s) :
    Keeps pq (State.gpioSafe s) := by
  unfold State.gpioSafe
  with_reducible
    repeat' (first
      | assumption | simp only [keeps_mk, keeps_eta])

theorem State.canWithdraw_keeps {s : State} {c : Nat} (hk : Keeps pq s) :
    Keeps pq (State.canWithdraw s c) := by
  unfold State.canWithdraw
  with_reducible
    repeat' (first
      | assumption | apply State.forAll_keeps | apply State.setDescStatus_keeps | apply State.modCan_keeps
      | (intro _ _ _; beta_reduce))

theorem State.canSafe_keeps {s : State} (hk : Keeps pq s) :
    Keeps pq (State.canSafe s) := by
  unfold State.canSafe
  with_reducible
    repeat' (first
      | assumption | apply State.forAll_keeps | apply State.modCan_keeps | apply State.canWithdraw_keeps
      | (intro _ _ _; beta_reduce))

theorem State.ethWithdraw_keeps {s : State} {m status : Nat} (hk : Keeps pq s) :
    Keeps pq (State.ethWithdraw s m status) := by
  unfold State.ethWithdraw
  with_reducible
    repeat' (first
      | assumption | apply State.forAll_keeps | apply State.setDescStatus_keeps | apply State.modMac_keeps
      | (intro _ _ _; beta_reduce))

theorem State.endMessages_keeps {s : State} {status : Nat} (hk : Keeps pq s) :
    Keeps pq (State.endMessages s status) := by
  unfold State.endMessages
  with_reducible
    repeat' (first
      | assumption | apply State.forAll_keeps | apply State.discardDraft_keeps | apply State.setDescStatus_keeps
      | apply State.modQueue_keeps | apply State.postStatus_keeps | simp only [keeps_mk, keeps_eta] | split
      | (intro _ _ _; beta_reduce))

theorem State.safeOutputs_keeps {s : State} (hk : Keeps pq s) :
    Keeps pq (State.safeOutputs s) := by
  unfold State.safeOutputs
  with_reducible
    repeat' (first
      | assumption | apply State.forAll_keeps | apply State.gpioSafe_keeps | apply State.canSafe_keeps
      | apply State.ethWithdraw_keeps | apply State.endMessages_keeps | simp only [keeps_mk, keeps_eta]
      | (intro _ _ _; beta_reduce))

theorem State.traceWindowEnd_keeps {s : State} (hk : Keeps pq s) :
    Keeps pq (State.traceWindowEnd s) := by
  unfold State.traceWindowEnd
  with_reducible
    repeat' (first
      | assumption | simp only [keeps_mk, keeps_eta])

theorem State.msixNow_keeps {s : State} {v : Nat} (hk : Keeps pq s) :
    Keeps pq (State.msixNow s v).1 := by
  unfold State.msixNow
  with_reducible
    repeat' (first
      | assumption | apply State.modMsix_keeps | apply State.emit_keeps | apply keeps_ite
      | simp only [keeps_mk, keeps_eta] | split)

theorem State.closeAll_keeps {s : State} (hk : Keeps pq s) :
    Keeps pq (State.closeAll s) := by
  unfold State.closeAll
  with_reducible
    repeat' (first
      | assumption | simp only [keeps_mk, keeps_eta])

theorem State.rateCheck_keeps {s : State} (hk : Keeps pq s) :
    Keeps pq (State.rateCheck s).1 := by
  unfold State.rateCheck
  with_reducible
    repeat' (first
      | assumption | simp only [keeps_mk, keeps_eta] | split)

theorem State.cutTrace_keeps {s : State} (hk : Keeps pq s) :
    Keeps pq (State.cutTrace s).1 := by
  unfold State.cutTrace
  with_reducible
    repeat' (first
      | assumption | apply State.rateCheck_keeps | apply State.msixNow_keeps | simp only [keeps_mk, keeps_eta]
      | split)

theorem State.endRuns_keeps {s : State} (hk : Keeps pq s) :
    Keeps pq (State.endRuns s).1 := by
  unfold State.endRuns
  with_reducible
    repeat' (first
      | assumption | apply foldl_fst_keeps | apply State.commitPen_keeps | apply State.killEnding_keeps
      | apply State.killRun_keeps | simp only [keeps_mk, keeps_eta] | split | (intro _ _ _; beta_reduce))

theorem State.cutCommands_keeps {s : State} (hk : Keeps pq s) :
    Keeps pq (State.cutCommands s) := by
  unfold State.cutCommands
  with_reducible
    repeat' (first
      | assumption | simp only [keeps_mk, keeps_eta])

theorem State.enterSafe_keeps {s : State} (hk : Keeps pq s) :
    Keeps pq (State.enterSafe s).1 := by
  unfold State.enterSafe
  with_reducible
    repeat' (first
      | assumption | apply State.endRuns_keeps | apply State.cutTrace_keeps | apply State.safeOutputs_keeps
      | apply State.cutCommands_keeps | apply State.farewell_keeps | apply State.closeAll_keeps
      | apply State.releaseActive_keeps | apply keeps_ite | simp only [keeps_mk, keeps_eta])

theorem State.modRb_keeps {s : State} {c : Nat} {f : RbClass → RbClass} (hk : Keeps pq s) :
    Keeps pq (State.modRb s c f) := by
  unfold State.modRb
  with_reducible
    repeat' (first
      | assumption | simp only [keeps_mk, keeps_eta])

theorem State.pushEvent_keeps {s : State} {x : EqEntry} (hk : Keeps pq s) :
    Keeps pq (State.pushEvent s x) := by
  unfold State.pushEvent
  with_reducible
    repeat' (first
      | assumption | simp only [keeps_mk, keeps_eta])

theorem State.irqVector1_keeps {s : State} {irq : Bool} (hk : Keeps pq s) :
    Keeps pq (State.irqVector1 s irq) := by
  unfold State.irqVector1
  with_reducible
    repeat' (first
      | assumption | apply keeps_ite | simp only [keeps_mk, keeps_eta])

theorem State.coalesce_keeps {s : State} (hk : Keeps pq s) :
    Keeps pq (State.coalesce s) := by
  unfold State.coalesce
  with_reducible
    repeat' (first
      | assumption | simp only [keeps_mk, keeps_eta] | split)

theorem State.queueEvent_keeps {s : State} {e : Event} {a : Nat} {esc irq : Bool} (hk : Keeps pq s) :
    Keeps pq (State.queueEvent s e a esc irq).1 := by
  unfold State.queueEvent
  with_reducible
    repeat' (first
      | assumption | apply State.coalesce_keeps | apply State.irqVector1_keeps | apply State.pushEvent_keeps
      | apply State.modRb_keeps | simp only [keeps_mk, keeps_eta] | split)

theorem State.shedLine_keeps {s : State} {i : Nat} (hk : Keeps pq s) :
    Keeps pq (State.shedLine s i) := by
  unfold State.shedLine
  with_reducible
    repeat' (first
      | assumption | apply keeps_ite | simp only [keeps_mk, keeps_eta])

theorem State.react_keeps {s : State} {e : Event} {a : Nat} (hk : Keeps pq s) :
    Keeps pq (State.react s e a).1 := by
  unfold State.react
  with_reducible
    repeat' (first
      | assumption | apply State.fencePen_keeps | apply State.shedLine_keeps | apply State.enterSafe_keeps
      | simp only [keeps_mk, keeps_eta] | split)

theorem State.judgeEvent_keeps {s : State} {e : Event} (hk : Keeps pq s) :
    Keeps pq (State.judgeEvent s e).1 := by
  unfold State.judgeEvent
  with_reducible
    repeat' (first
      | assumption | apply State.modRb_keeps | apply State.queueEvent_keeps | apply State.react_keeps
      | simp only [keeps_mk, keeps_eta] | split)

theorem State.raiseN_keeps {n : Nat} {es : List Event} {s : State} (hk : Keeps pq s) :
    Keeps pq (State.raiseN n es s) := by
  induction n generalizing es s with
  | zero => exact hk
  | succ n ih =>
    cases es with
    | nil => exact hk
    | cons e es => exact ih (State.judgeEvent_keeps hk)

theorem State.raiseAll_keeps {s : State} {es : List Event} (hk : Keeps pq s) :
    Keeps pq (State.raiseAll s es) := by
  unfold State.raiseAll
  with_reducible
    repeat' (first
      | assumption | apply State.raiseN_keeps)

theorem State.raise_keeps {s : State} {e : Event} (hk : Keeps pq s) :
    Keeps pq (State.raise s e) := by
  unfold State.raise
  with_reducible
    repeat' (first
      | assumption | apply State.raiseAll_keeps)

theorem State.lockedWrite_keeps {s : State} {cpa : Nat} (hk : Keeps pq s) :
    Keeps pq (State.lockedWrite s cpa) := by
  unfold State.lockedWrite
  with_reducible
    repeat' (first
      | assumption | apply State.raise_keeps)

theorem State.huvasStop_keeps {s : State} (hk : Keeps pq s) :
    Keeps pq (State.huvasStop s) := by
  unfold State.huvasStop
  with_reducible
    repeat' (first
      | assumption | apply State.raise_keeps | simp only [keeps_mk, keeps_eta])

theorem raised_keeps {x : State × List Event} (hk : Keeps pq x.1) : Keeps pq (raised x) :=
  State.raiseAll_keeps hk

theorem State.sendMsix_keeps {s : State} {v : Nat} (hk : Keeps pq s) :
    Keeps pq (State.sendMsix s v) := by
  unfold State.sendMsix
  with_reducible
    repeat' (first
      | assumption | apply raised_keeps | apply State.msixNow_keeps)

theorem State.trcEvent_keeps {s : State} {bit : Nat} (hk : Keeps pq s) :
    Keeps pq (State.trcEvent s bit) := by
  unfold State.trcEvent
  with_reducible
    repeat' (first
      | assumption | apply State.sendMsix_keeps | simp only [keeps_mk, keeps_eta])

theorem State.modErr_keeps {s : State} {cpa : Nat} {f : Word → Word} (hk : Keeps pq s) :
    Keeps pq (State.modErr s cpa f) := by
  unfold State.modErr
  with_reducible
    repeat' (first
      | assumption | apply State.modPen_keeps | apply State.modRsv_keeps | apply keeps_ite)

theorem State.marginAdd_keeps {s : State} {cpa syn source : Nat} (hk : Keeps pq s) :
    Keeps pq (State.marginAdd s cpa syn source) := by
  unfold State.marginAdd
  with_reducible
    repeat' (first
      | assumption | apply State.raise_keeps | apply keeps_ite | simp only [keeps_mk, keeps_eta])

theorem State.noteCe_keeps {s : State} {cpa syn source : Nat} (hk : Keeps pq s) :
    Keeps pq (State.noteCe s cpa syn source) := by
  unfold State.noteCe
  with_reducible
    repeat' (first
      | assumption | apply State.marginAdd_keeps | apply State.modErr_keeps)

theorem State.noteUe_keeps {s : State} {cpa : Nat} {cls : Option Nat} {line : optParam Nat 32767} (hk : Keeps pq s) :
    Keeps pq (State.noteUe s cpa cls line) := by
  unfold State.noteUe
  with_reducible
    repeat' (first
      | assumption | apply State.raise_keeps | apply State.modErr_keeps)

theorem State.noteAddr_keeps {s : State} {cpa : Nat} {cls : Option Nat} {line : optParam Nat 32767}
    (hk : Keeps pq s) :
    Keeps pq (State.noteAddr s cpa cls line) := by
  unfold State.noteAddr
  with_reducible
    repeat' (first
      | assumption | apply State.raise_keeps | apply State.modErr_keeps)

theorem State.readWord_keeps {s : State} {cpa source : Nat} {cls : optParam (Option Nat) none} (hk : Keeps pq s) :
    Keeps pq (State.readWord s cpa source cls).2 := by
  unfold State.readWord
  with_reducible
    repeat' (first
      | assumption | apply State.noteCe_keeps | apply State.noteUe_keeps | apply State.noteAddr_keeps | split)

theorem State.engineRead_keeps {s : State} {cpa : Nat} (hk : Keeps pq s) :
    Keeps pq (State.engineRead s cpa).2 := by
  unfold State.engineRead
  with_reducible
    repeat' (first
      | assumption | apply State.readWord_keeps | simp only [keeps_mk, keeps_eta] | split)

theorem State.disarm_keeps {s : State} {a : Nat} (hk : Keeps pq s) :
    Keeps pq (State.disarm s a) := by
  unfold State.disarm
  with_reducible
    repeat' (first
      | assumption | apply State.modPen_keeps | apply State.modRsv_keeps | apply keeps_ite)

theorem State.markInjected_keeps {s : State} {a : Nat} {v : Bool} (hk : Keeps pq s) :
    Keeps pq (State.markInjected s a v) := by
  unfold State.markInjected
  with_reducible
    repeat' (first
      | assumption | simp only [keeps_mk, keeps_eta])

theorem State.huvasPut_keeps {s : State} {a : Nat} {w : TWord} (hk : Keeps pq s) :
    Keeps pq (State.huvasPut s a w) := by
  unfold State.huvasPut
  with_reducible
    repeat' (first
      | assumption | apply State.markInjected_keeps | apply State.disarm_keeps | apply State.pokeCode_keeps
      | apply State.poke_keeps | apply keeps_ite | split)

theorem State.huvasStore_keeps {s : State} {cpa : Nat} {w : TWord} (hk : Keeps pq s) :
    Keeps pq (State.huvasStore s cpa w) := by
  unfold State.huvasStore
  with_reducible
    repeat' (first
      | assumption | apply foldl_keeps | apply State.huvasPut_keeps | (intro _ _ _; beta_reduce))

theorem State.huvasGet_keeps {s : State} {a : Nat} (hk : Keeps pq s) :
    Keeps pq (State.huvasGet s a).2 := by
  unfold State.huvasGet
  with_reducible
    repeat' (first
      | assumption | apply State.markInjected_keeps | apply State.noteCe_keeps | apply State.readWord_keeps
      | simp only [keeps_mk, keeps_eta] | split)

theorem State.huvasRead_keeps {s : State} {cpa : Nat} (hk : Keeps pq s) :
    Keeps pq (State.huvasRead s cpa).2 := by
  unfold State.huvasRead
  with_reducible
    repeat' (first
      | assumption | apply State.huvasGet_keeps | simp only [keeps_mk, keeps_eta] | split)

theorem State.mergeWord_keeps {s : State} {cpa : Nat} {mask : BitVec 8} {data : Word} (hk : Keeps pq s) :
    OptKeeps pq (State.mergeWord s cpa mask data) := by
  unfold State.mergeWord
  with_reducible
    repeat' (first
      | assumption | apply optKeeps_some | apply optKeeps_none | apply State.poke_keeps | apply State.noteCe_keeps
      | split)

theorem State.noteBad_keeps {s : State} {cpa : Nat} {cls : Option Nat} {line : optParam Nat 32767} (hk : Keeps pq s) :
    Keeps pq (State.noteBad s cpa cls line) := by
  unfold State.noteBad
  with_reducible
    repeat' (first
      | assumption | apply State.noteUe_keeps | apply State.noteAddr_keeps | split)

theorem State.freePoison_keeps {s : State} (hk : Keeps pq s) :
    Keeps pq (State.freePoison s).2 := by
  unfold State.freePoison
  with_reducible
    repeat' (first
      | assumption | apply State.takeFree_keeps)

theorem State.poisonAt_keeps {s : State} {cpa : Nat} (hk : Keeps pq s) :
    Keeps pq (State.poisonAt s cpa) := by
  unfold State.poisonAt
  with_reducible
    repeat' (first
      | assumption | apply State.freePoison_keeps | apply State.poke_keeps)

theorem State.copyWords_keeps {source : Nat} {cls : Option Nat} {line n src dst : Nat} {s : State} (hk : Keeps pq s) :
    Keeps pq (State.copyWords source cls line n src dst s) := by
  induction n generalizing src dst s with
  | zero => exact hk
  | succ n ih =>
    unfold State.copyWords
    apply ih
    with_reducible
      repeat' (first
        | assumption | apply State.poke_keeps | apply State.poisonAt_keeps | apply State.noteCe_keeps
        | apply State.noteUe_keeps | apply State.noteAddr_keeps | split)

theorem State.enginePartial_keeps {s : State} {cpa : Nat} {mask : BitVec 8} {data : Word} (hk : Keeps pq s) :
    Keeps pq (State.enginePartial s cpa mask data).2 := by
  unfold State.enginePartial
  with_reducible
    repeat' (first
      | assumption | apply State.engineWrite_keeps | apply State.noteCe_keeps | apply State.noteUe_keeps
      | apply State.noteAddr_keeps | simp only [keeps_mk, keeps_eta] | split)

theorem State.feedDraft_keeps {s : State} {n : Nat} (hk : Keeps pq s) :
    Keeps pq (State.feedDraft s n) := by
  unfold State.feedDraft
  with_reducible
    repeat' (first
      | assumption | apply foldl_keeps | apply State.readWord_keeps | apply State.engineWrite_keeps
      | apply State.freePoison_keeps | apply State.modVslot_keeps | apply keeps_ite | simp only [keeps_mk, keeps_eta]
      | split | (intro _ _ _; beta_reduce))

theorem State.finish_keeps {s : State} {m code : Nat} {res : optParam (List Word) []} (hk : Keeps pq s) :
    Keeps pq (State.finish s m code res) := by
  unfold State.finish
  with_reducible
    repeat' (first
      | assumption | apply State.modMbox_keeps | apply State.sendMsix_keeps | simp only [keeps_mk, keeps_eta])

theorem State.scrubPoison_keeps {s : State} {cpa : Nat} (hk : Keeps pq s) :
    Keeps pq (State.scrubPoison s cpa) := by
  unfold State.scrubPoison
  with_reducible
    repeat' (first
      | assumption | apply State.engineWrite_keeps | apply keeps_ite)

theorem State.scrubWord_keeps {cpa : Nat} {s : State} (hk : Keeps pq s) :
    Keeps pq (State.scrubWord cpa s) := by
  unfold State.scrubWord
  with_reducible
    repeat' (first
      | assumption | apply State.noteCe_keeps | apply State.engineWrite_keeps | apply State.noteUe_keeps
      | apply State.scrubPoison_keeps | apply State.noteAddr_keeps | apply keeps_ite | split)

theorem State.storeBad_keeps {s : State} {k : Nat} (hk : Keeps pq s) :
    Keeps pq (State.storeBad s k) := by
  unfold State.storeBad
  with_reducible
    repeat' (first
      | assumption | apply State.raise_keeps | apply State.modSlot_keeps | apply State.raiseAll_keeps
      | apply keeps_ite | simp only [keeps_mk, keeps_eta] | split)

theorem State.storeScrub_keeps {s : State} {i : Nat} (hk : Keeps pq s) :
    Keeps pq (State.storeScrub s i) := by
  unfold State.storeScrub
  dsimp only
  split
  · exact hk
  · exact State.marginAdd_keeps ⟨hk.1, hk.2.1, Table.wf_set _ _ _ _ hk.2.2⟩
  · split
    · exact State.storeBad_keeps hk
    · exact hk
  · split
    · exact State.storeBad_keeps hk
    · exact hk

theorem State.storeUse_keeps {s : State} {i : Nat} (hk : Keeps pq s) :
    Keeps pq (State.storeUse s i) := by
  unfold State.storeUse
  with_reducible
    repeat' (first
      | assumption | apply State.marginAdd_keeps | apply State.storeBad_keeps | split)

theorem State.storeReads_keeps {s : State} {is : List Nat} (hk : Keeps pq s) :
    Keeps pq (State.storeReads s is).2 := by
  unfold State.storeReads
  with_reducible
    repeat' (first
      | assumption | apply State.forAll_keeps | apply State.storeUse_keeps | (intro _ _ _; beta_reduce))

theorem State.tally_keeps {s : State} {cpa : Nat} (hk : Keeps pq s) :
    Keeps pq (State.tally s cpa) := by
  unfold State.tally
  with_reducible
    repeat' (first
      | assumption | simp only [keeps_mk, keeps_eta] | split)

theorem State.passWords_keeps {s : State} {base n : Nat} (hk : Keeps pq s) :
    Keeps pq (State.passWords s base n) := by
  unfold State.passWords
  with_reducible
    repeat' (first
      | assumption | apply State.forAll_keeps | apply State.scrubWord_keeps | apply State.tally_keeps
      | simp only [keeps_mk, keeps_eta] | (intro _ _ _; beta_reduce))

theorem State.scrubSummary_keeps {s : State} {st : Nat} (hk : Keeps pq s) :
    Keeps pq (State.scrubSummary s st) := by
  unfold State.scrubSummary
  with_reducible
    repeat' (first
      | assumption | simp only [keeps_mk, keeps_eta])

theorem State.endPass_keeps {s : State} {st : Nat} (hk : Keeps pq s) :
    Keeps pq (State.endPass s st) := by
  unfold State.endPass
  with_reducible
    repeat' (first
      | assumption | apply State.scrubSummary_keeps | apply State.passWords_keeps | apply State.takeFree_keeps
      | apply keeps_ite | simp only [keeps_mk, keeps_eta] | split)

theorem State.ruledPart_keeps {s : State} {r n : Nat} (hk : Keeps pq s) :
    Keeps pq (State.ruledPart s r n) := by
  unfold State.ruledPart
  with_reducible
    repeat' (first
      | assumption | apply State.forAll_keeps | apply State.scrubWord_keeps | apply State.modRsv_keeps
      | apply keeps_ite | simp only [keeps_mk, keeps_eta])

theorem State.ruledPort_keeps {rs : List Nat} {n i b : Nat} {s : State} (hk : Keeps pq s) :
    Keeps pq (State.ruledPort rs n i b s).2 := by
  induction n generalizing i b s with
  | zero => rw [State.ruledPort]; exact hk
  | succ n ih =>
    rw [State.ruledPort]
    generalize rsvWords - _ = left
    split
    · exact ih hk
    · split
      · exact State.ruledPart_keeps hk
      · exact ih (State.ruledPart_keeps hk)

theorem State.portNext_keeps {s : State} {k r : Nat} (hk : Keeps pq s) :
    Keeps pq (State.portNext s k r) := by
  unfold State.portNext
  with_reducible
    repeat' (first
      | assumption | simp only [keeps_mk, keeps_eta])

theorem State.portScrub_keeps {mask len k : Nat} {s : State} (hk : Keeps pq s) :
    Keeps pq (State.portScrub mask len k s) := by
  unfold State.portScrub
  with_reducible
    repeat' (first
      | assumption | apply State.ruledPort_keeps | apply State.portNext_keeps | apply keeps_ite)

theorem State.ruledScrub_keeps {s : State} {mask len : Nat} (hk : Keeps pq s) :
    Keeps pq (State.ruledScrub s mask len) := by
  unfold State.ruledScrub
  with_reducible
    repeat' (first
      | assumption | apply State.forAll_keeps | apply State.portScrub_keeps | apply keeps_ite)

theorem State.scrubAbort_keeps {s : State} (hk : Keeps pq s) :
    Keeps pq (State.scrubAbort s) := by
  unfold State.scrubAbort
  with_reducible
    repeat' (first
      | assumption | apply State.endPass_keeps | apply State.finish_keeps | simp only [keeps_mk, keeps_eta] | split)

theorem State.endMarch_keeps {s : State} {code : Nat} (hk : Keeps pq s) :
    Keeps pq (State.endMarch s code) := by
  unfold State.endMarch
  with_reducible
    repeat' (first
      | assumption | apply State.finish_keeps | simp only [keeps_mk, keeps_eta] | split)

theorem State.discardWrite_keeps {s : State} {m : Nat} (hk : Keeps pq s) :
    Keeps pq (State.discardWrite s m) := by
  unfold State.discardWrite
  with_reducible
    repeat' (first
      | assumption | apply State.modMbox_keeps)

theorem State.enqueue_keeps {s : State} {m : Nat} (hk : Keeps pq s) :
    Keeps pq (State.enqueue s m) := by
  unfold State.enqueue
  with_reducible
    repeat' (first
      | assumption | simp only [keeps_mk, keeps_eta])

theorem State.submit_keeps {s : State} {m : Nat} {op token : BitVec 16} (hk : Keeps pq s) :
    Keeps pq (State.submit s m op token) := by
  unfold State.submit
  with_reducible
    repeat' (first
      | assumption | apply State.discardWrite_keeps | apply State.modMbox_keeps | apply State.finish_keeps
      | apply State.enqueue_keeps | apply keeps_ite)

theorem State.goWrite_keeps {s : State} {m : Nat} {op token : BitVec 16} {upperHalf : Bool} (hk : Keeps pq s) :
    Keeps pq (State.goWrite s m op token upperHalf) := by
  unfold State.goWrite
  with_reducible
    repeat' (first
      | assumption | apply State.submit_keeps | apply keeps_ite)

theorem State.stopCmd_keeps {s : State} {m code : Nat} (hk : Keeps pq s) :
    Keeps pq (State.stopCmd s m code) := by
  unfold State.stopCmd
  with_reducible
    repeat' (first
      | assumption | apply State.modSlot_keeps | apply State.finish_keeps | apply keeps_ite
      | simp only [keeps_mk, keeps_eta])

theorem State.abortWrite_keeps {s : State} {m : Nat} (hk : Keeps pq s) :
    Keeps pq (State.abortWrite s m) := by
  unfold State.abortWrite
  with_reducible
    repeat' (first
      | assumption | apply State.finish_keeps | apply State.scrubAbort_keeps | apply State.endMarch_keeps
      | apply State.stopCmd_keeps | apply keeps_ite)

theorem State.cmdWrite_keeps {s : State} {m lo n : Nat} {w : Word} (hk : Keeps pq s) :
    Keeps pq (State.cmdWrite s m lo n w) := by
  unfold State.cmdWrite
  with_reducible
    repeat' (first
      | assumption | apply State.goWrite_keeps | apply State.abortWrite_keeps | apply State.discardWrite_keeps
      | apply State.modMbox_keeps | apply keeps_ite)

theorem State.pageWrite_keeps {s : State} {off n : Nat} {w : Word} (hk : Keeps pq s) :
    Keeps pq (State.pageWrite s off n w) := by
  unfold State.pageWrite
  with_reducible
    repeat' (first
      | assumption | apply State.cmdWrite_keeps | apply State.modMbox_keeps | apply State.discardWrite_keeps
      | apply keeps_ite)

theorem State.modRun_keeps {s : State} {p : Nat} {f : Pen → Pen} (hk : Keeps pq s) :
    Keeps pq (State.modRun s p f) := by
  unfold State.modRun
  with_reducible
    repeat' (first
      | assumption | apply State.modPen_keeps | apply keeps_ite)

theorem State.readRun_keeps {s : State} {p home cpa source : Nat} (hk : Keeps pq s) :
    Keeps pq (State.readRun s p home cpa source).2 := by
  unfold State.readRun
  with_reducible
    repeat' (first
      | assumption | apply State.readWord_keeps | simp only [keeps_mk, keeps_eta] | split)

theorem State.noteWrote_keeps {s : State} {p cpa : Nat} (hk : Keeps pq s) :
    Keeps pq (State.noteWrote s p cpa) := by
  unfold State.noteWrote
  with_reducible
    repeat' (first
      | assumption | apply State.modPen_keeps | apply keeps_ite)

theorem State.readTable_keeps {s : State} {p home cpa : Nat} (hk : Keeps pq s) :
    Keeps pq (State.readTable s p home cpa).2 := by
  unfold State.readTable
  with_reducible
    repeat' (first
      | assumption | apply State.readRun_keeps | simp only [keeps_mk, keeps_eta] | split)

theorem State.walk1_keeps {s : State} {p part home va l t : Nat} (hk : Keeps pq s) :
    Keeps pq (State.walk1 s p part home va l t).2 := by
  induction l generalizing t s with
  | zero =>
    unfold State.walk1
    with_reducible
      repeat' (first
        | assumption | apply State.readTable_keeps | simp only [keeps_mk, keeps_eta] | split)
  | succ l ih =>
    unfold State.walk1
    with_reducible
      repeat' (first
        | assumption | apply ih | apply State.readTable_keeps | simp only [keeps_mk, keeps_eta] | split)

theorem State.walk2_keeps {s : State} {p home ipa l t : Nat} (hk : Keeps pq s) :
    Keeps pq (State.walk2 s p home ipa l t).2 := by
  induction l generalizing t s with
  | zero =>
    unfold State.walk2
    with_reducible
      repeat' (first
        | assumption | apply State.readTable_keeps | simp only [keeps_mk, keeps_eta] | split)
  | succ l ih =>
    unfold State.walk2
    with_reducible
      repeat' (first
        | assumption | apply ih | apply State.readTable_keeps | simp only [keeps_mk, keeps_eta] | split)

theorem State.orTable_keeps {s : State} {p home cpa bit : Nat} (hk : Keeps pq s) :
    Keeps pq (State.orTable s p home cpa bit) := by
  unfold State.orTable
  with_reducible
    repeat' (first
      | assumption | apply foldl_keeps | apply State.noteWrote_keeps | apply State.poke_keeps | apply keeps_ite
      | split | (intro _ _ _; beta_reduce))

theorem State.walkSets_keeps {s : State} {p home : Nat} {ad : Bool} {kind : Access} {l1 l2 : Leaf} (hk : Keeps pq s) :
    Keeps pq (State.walkSets s p home ad kind l1 l2) := by
  unfold State.walkSets
  with_reducible
    repeat' (first
      | assumption | apply State.orTable_keeps | apply keeps_ite)

theorem State.walk_keeps {s : State} {p part home : Nat} {va : Word} {kind : Access} {task probe : Bool}
    (hk : Keeps pq s) :
    Keeps pq (State.walk s p part home va kind task probe).2 := by
  unfold State.walk
  with_reducible
    repeat' (first
      | assumption | apply State.walk1_keeps | apply State.walk2_keeps | apply State.walkSets_keeps
      | simp only [keeps_mk, keeps_eta] | split)

theorem State.noteTFault_keeps {s : State} {c : Ctx} {va : Word} {f : TFault} {drop : Bool} (hk : Keeps pq s) :
    Keeps pq (State.noteTFault s c va f drop) := by
  unfold State.noteTFault
  with_reducible
    repeat' (first
      | assumption | apply State.modRun_keeps)

theorem State.postD_keeps {s : State} {c : Ctx} {va : Word} {e : TlbEntry} (hk : Keeps pq s) :
    Keeps pq (State.postD s c va e) := by
  unfold State.postD
  with_reducible
    repeat' (first
      | assumption | apply State.orTable_keeps | apply State.modRun_keeps | apply keeps_ite)

theorem State.postD2_keeps {s : State} {c : Ctx} {va : Word} {e : TlbEntry} (hk : Keeps pq s) :
    Keeps pq (State.postD2 s c va e) := by
  unfold State.postD2
  with_reducible
    repeat' (first
      | assumption | apply State.orTable_keeps | apply State.modRun_keeps | apply keeps_ite)

theorem State.walkFor_keeps {s : State} {c : Ctx} {va : Word} {kind : Access} (hk : Keeps pq s) :
    Keeps pq (State.walkFor s c va kind).2 := by
  unfold State.walkFor
  with_reducible
    repeat' (first
      | assumption | apply State.walk_keeps | apply State.modRun_keeps | simp only [keeps_mk, keeps_eta] | split)

theorem State.clearD2_keeps {s : State} {leaf : Nat} (hk : Keeps pq s) :
    Keeps pq (State.clearD2 s leaf) := by
  unfold State.clearD2
  with_reducible
    repeat' (first
      | assumption | simp only [keeps_mk, keeps_eta])

theorem State.lslotLoad_keeps {s : State} {n i : Nat} (hk : Keeps pq s) :
    Keeps pq (State.lslotLoad s n i) := by
  unfold State.lslotLoad
  with_reducible
    repeat' (first
      | assumption | apply State.walk_keeps | apply State.modPen_keeps | apply keeps_ite
      | simp only [keeps_mk, keeps_eta] | split)

theorem State.readPage_keeps {s : State} {base : Nat} {l : List Nat} (hk : Keeps pq s) :
    Keeps pq (State.readPage s base l).2.2 := by
  unfold State.readPage
  with_reducible
    repeat' (first
      | assumption | apply foldl_snd_snd_keeps | apply State.engineRead_keeps | simp only [keeps_mk, keeps_eta]
      | split | (intro _ _ _; beta_reduce))

theorem State.indexList_keeps {s : State} {d : Desc} {base n : Nat} (hk : Keeps pq s) :
    Keeps pq (State.indexList s d base n).2 := by
  unfold State.indexList
  with_reducible
    repeat' (first
      | assumption | apply State.readPage_keeps | simp only [keeps_mk, keeps_eta] | split)

theorem State.gather_keeps {s : State} {d : Desc} {base n : Nat} (hk : Keeps pq s) :
    Keeps pq (State.gather s d base n).2 := by
  unfold State.gather
  with_reducible
    repeat' (first
      | assumption | apply State.indexList_keeps | apply State.readPage_keeps | simp only [keeps_mk, keeps_eta]
      | split)

theorem State.ethEnqueue_keeps {s : State} {m tc di : Nat} {f : List Byte} (hk : Keeps pq s) :
    Keeps pq (State.ethEnqueue s m tc di f).2 := by
  unfold State.ethEnqueue
  with_reducible
    repeat' (first
      | assumption | apply State.modMac_keeps | simp only [keeps_mk, keeps_eta] | split)

theorem State.sendEth_keeps {s : State} {di : Nat} {d : Desc} {tc : Nat} {f : List Byte} (hk : Keeps pq s) :
    Keeps pq (State.sendEth s di d tc f) := by
  unfold State.sendEth
  with_reducible
    repeat' (first
      | assumption | apply State.forAll_keeps | apply State.setDescStatus_keeps | apply State.modDesc_keeps
      | apply State.ethEnqueue_keeps | apply keeps_ite | simp only [keeps_mk, keeps_eta] | split
      | (intro _ _ _; beta_reduce))

theorem State.sendCan_keeps {s : State} {di : Nat} {d : Desc} {g : List Byte} (hk : Keeps pq s) :
    Keeps pq (State.sendCan s di d g) := by
  unfold State.sendCan
  with_reducible
    repeat' (first
      | assumption | apply State.setDescStatus_keeps | apply State.modCan_keeps | apply keeps_ite)

theorem State.setPin_keeps {s : State} {n : Nat} {v : Bool} (hk : Keeps pq s) :
    Keeps pq (State.setPin s n v) := by
  unfold State.setPin
  with_reducible
    repeat' (first
      | assumption | apply keeps_ite | simp only [keeps_mk, keeps_eta])

theorem State.sendGpio_keeps {s : State} {di : Nat} {d : Desc} {ws : List TWord} (hk : Keeps pq s) :
    Keeps pq (State.sendGpio s di d ws) := by
  unfold State.sendGpio
  with_reducible
    repeat' (first
      | assumption | apply State.forAll_keeps | apply State.setPin_keeps | apply State.setDescStatus_keeps
      | simp only [keeps_mk, keeps_eta] | (intro _ _ _; beta_reduce))

theorem State.startPost_keeps {s : State} {di : Nat} {d : Desc} {n part : Nat} (hk : Keeps pq s) :
    Keeps pq (State.startPost s di d n part).2 := by
  unfold State.startPost
  with_reducible
    repeat' (first
      | assumption | apply State.setDescStatus_keeps | apply State.modQueue_keeps | simp only [keeps_mk, keeps_eta]
      | split)

theorem State.endpoint_keeps {s : State} {di : Nat} {d : Desc} {g : List Byte} (hk : Keeps pq s) :
    Keeps pq (State.endpoint s di d g) := by
  unfold State.endpoint
  with_reducible
    repeat' (first
      | assumption | apply State.sendEth_keeps | apply State.setDescStatus_keeps | apply State.sendCan_keeps
      | apply keeps_ite | split)

theorem State.publish_keeps {s : State} {di : Nat} {late crcError : Bool} (hk : Keeps pq s) :
    Keeps pq (State.publish s di late crcError).2 := by
  unfold State.publish
  with_reducible
    repeat' (first
      | assumption | apply State.setDescStatus_keeps | apply State.startPost_keeps | apply State.gather_keeps
      | apply State.sendGpio_keeps | apply State.endpoint_keeps | apply keeps_ite | simp only [keeps_mk, keeps_eta]
      | split)

theorem publishGo_keeps {crcError : Bool} {reach : Nat} {l : List (Nat × Desc)} {held : List Nat} {s : State}
    (hk : Keeps pq s) :
    Keeps pq (publishGo crcError reach l held s).2 := by
  induction l generalizing crcError reach held s with
  | nil => exact hk
  | cons a l ih => exact ih (State.publish_keeps hk)

theorem State.markPublished_keeps {s : State} {slots held : List Nat} (hk : Keeps pq s) :
    Keeps pq (State.markPublished s slots held) := by
  unfold State.markPublished
  with_reducible
    repeat' (first
      | assumption | apply State.forAll_keeps | apply State.modVslot_keeps | (intro _ _ _; beta_reduce))

theorem State.publishWindow_keeps {s : State} {part set start reach : Nat} {crcError : Bool} (hk : Keeps pq s) :
    Keeps pq (State.publishWindow s part set start reach crcError) := by
  simp only [State.publishWindow]
  with_reducible
    repeat' (first
      | assumption | apply publishGo_keeps | apply State.markPublished_keeps)

theorem rwl_keeps {cpa : Nat} {lock : Bool} {s : State} {f : State → State} (hk : Keeps pq s)
    (hf : ∀ t, Keeps pq t → Keeps pq (f t)) :
    Keeps pq (rwl cpa lock s f) := by
  unfold rwl
  split
  · exact State.lockedWrite_keeps hk
  · exact hf s hk

theorem State.vtStore_keeps {s : State} {w1 : Word} (hk : Keeps pq s) :
    Keeps pq (State.vtStore s w1) := by
  unfold State.vtStore
  with_reducible
    repeat' (first
      | assumption | apply State.lockedWrite_keeps | apply State.modVslot_keeps | apply keeps_ite
      | simp only [keeps_mk, keeps_eta])

theorem State.pxStore_keeps {s : State} {w3 : Word} (hk : Keeps pq s) :
    Keeps pq (State.pxStore s w3) := by
  unfold State.pxStore
  with_reducible
    repeat' (first
      | assumption | apply State.lockedWrite_keeps | apply keeps_ite | simp only [keeps_mk, keeps_eta])

theorem State.ptStore_keeps {s : State} {w11 : Word} (hk : Keeps pq s) :
    Keeps pq (State.ptStore s w11) := by
  unfold State.ptStore
  with_reducible
    repeat' (first
      | assumption | apply State.lockedWrite_keeps | apply keeps_ite | simp only [keeps_mk, keeps_eta])

theorem State.switchWrite_keeps {s : State} {v : Word} (hk : Keeps pq s) :
    Keeps pq (State.switchWrite s v) := by
  unfold State.switchWrite
  with_reducible
    repeat' (first
      | assumption | apply rwl_keeps | apply keeps_ite | simp only [keeps_mk, keeps_eta] | split
      | (intro _ _; beta_reduce))

theorem State.folioWrite_keeps {s : State} {off : Nat} {v : Word} (hk : Keeps pq s) :
    Keeps pq (State.folioWrite s off v) := by
  unfold State.folioWrite
  with_reducible
    repeat' (first
      | assumption | apply rwl_keeps | apply State.pxStore_keeps | apply State.ptStore_keeps
      | apply State.boundSteer_keeps | apply State.switchWrite_keeps | apply State.vtStore_keeps | apply keeps_ite
      | simp only [keeps_mk, keeps_eta] | split | (intro _ _; beta_reduce))

theorem State.storePut_keeps {s : State} {i : Nat} {x0 : List Word} (hk : Keeps pq s) :
    Keeps pq (State.storePut s i x0) := by
  induction x0 generalizing s i with
  | nil => exact hk
  | cons w ws ih => exact ih ⟨hk.1, hk.2.1, Table.wf_set _ _ _ _ hk.2.2⟩

theorem State.storeEntry_keeps {s : State} {w3 : Word} (hk : Keeps pq s) :
    Keeps pq (State.storeEntry s w3) := by
  unfold State.storeEntry
  with_reducible
    repeat' (first
      | assumption | apply State.storePut_keeps | apply keeps_ite | simp only [keeps_mk, keeps_eta])

theorem State.rulWrite_keeps {s : State} {off : Nat} {v : Word} (hk : Keeps pq s) :
    Keeps pq (State.rulWrite s off v) := by
  unfold State.rulWrite
  with_reducible
    repeat' (first
      | assumption | apply State.forAll_keeps | apply rwl_keeps | apply State.modSlot_keeps
      | apply State.storeEntry_keeps | apply keeps_ite | simp only [keeps_mk, keeps_eta] | split
      | (intro _ _ _; beta_reduce) | (intro _ _; beta_reduce))

theorem State.mlClear_keeps {s : State} (hk : Keeps pq s) :
    Keeps pq (State.mlClear s) := by
  unfold State.mlClear
  with_reducible
    repeat' (first
      | assumption | simp only [keeps_mk, keeps_eta])

theorem State.scrubStart_keeps {s : State} {mb : Option Nat} (hk : Keeps pq s) :
    Keeps pq (State.scrubStart s mb) := by
  unfold State.scrubStart
  with_reducible
    repeat' (first
      | assumption | apply keeps_ite | simp only [keeps_mk, keeps_eta])

theorem State.blotWrite_keeps {s : State} {off : Nat} {v : Word} (hk : Keeps pq s) :
    Keeps pq (State.blotWrite s off v) := by
  unfold State.blotWrite
  with_reducible
    repeat' (first
      | assumption | apply State.mlClear_keeps | apply rwl_keeps | apply State.scrubStart_keeps
      | apply State.scrubAbort_keeps | apply keeps_ite | simp only [keeps_mk, keeps_eta] | split
      | (intro _ _; beta_reduce))

theorem State.descStore_keeps {s : State} {v : Word} (hk : Keeps pq s) :
    Keeps pq (State.descStore s v) := by
  unfold State.descStore
  with_reducible
    repeat' (first
      | assumption | apply State.lockedWrite_keeps | apply State.modDesc_keeps | apply keeps_ite
      | simp only [keeps_mk, keeps_eta])

theorem State.subPend_keeps {s : State} {p k : Nat} {v : Word} (hk : Keeps pq s) :
    Keeps pq (State.subPend s p k v) := by
  unfold State.subPend
  with_reducible
    repeat' (first
      | assumption | apply State.modPen_keeps)

theorem State.feedWrite_keeps {s : State} {writer : Option Nat} {off : Nat} {v : Word} (hk : Keeps pq s) :
    Keeps pq (State.feedWrite s writer off v) := by
  unfold State.feedWrite
  with_reducible
    repeat' (first
      | assumption | apply State.subPend_keeps | apply rwl_keeps | apply State.descStore_keeps | apply keeps_ite
      | simp only [keeps_mk, keeps_eta] | split | (intro _ _; beta_reduce))

theorem State.listStore_keeps {s : State} {v : Word} (hk : Keeps pq s) :
    Keeps pq (State.listStore s v) := by
  unfold State.listStore
  with_reducible
    repeat' (first
      | assumption | apply rwl_keeps | simp only [keeps_mk, keeps_eta] | (intro _ _; beta_reduce))

theorem State.trcWrite_keeps {s : State} {off : Nat} {v : Word} (hk : Keeps pq s) :
    Keeps pq (State.trcWrite s off v) := by
  unfold State.trcWrite
  with_reducible
    repeat' (first
      | assumption | apply rwl_keeps | apply State.listStore_keeps | simp only [keeps_mk, keeps_eta] | split
      | (intro _ _; beta_reduce))

theorem State.qpStore_keeps {s : State} (hk : Keeps pq s) :
    Keeps pq (State.qpStore s) := by
  unfold State.qpStore
  with_reducible
    repeat' (first
      | assumption | apply rwl_keeps | apply State.lockedWrite_keeps | apply State.modQueue_keeps | apply keeps_ite
      | simp only [keeps_mk, keeps_eta] | (intro _ _; beta_reduce))

theorem State.badDoorbell_keeps {s : State} {q : Nat} (hk : Keeps pq s) :
    Keeps pq (State.badDoorbell s q) := by
  unfold State.badDoorbell
  with_reducible
    repeat' (first
      | assumption | apply State.raise_keeps | simp only [keeps_mk, keeps_eta])

theorem State.ringDoorbell_keeps {s : State} {w : Word} (hk : Keeps pq s) :
    Keeps pq (State.ringDoorbell s w) := by
  unfold State.ringDoorbell
  with_reducible
    repeat' (first
      | assumption | apply State.badDoorbell_keeps | apply State.modQueue_keeps | apply keeps_ite)

theorem State.hifWrite_keeps {s : State} {off : Nat} {v : Word} (hk : Keeps pq s) :
    Keeps pq (State.hifWrite s off v) := by
  unfold State.hifWrite
  with_reducible
    repeat' (first
      | assumption | apply rwl_keeps | apply State.qpStore_keeps | apply State.ringDoorbell_keeps | apply keeps_ite
      | simp only [keeps_mk, keeps_eta] | split | (intro _ _; beta_reduce))

theorem State.eqPop_keeps {s : State} (hk : Keeps pq s) :
    Keeps pq (State.eqPop s) := by
  unfold State.eqPop
  with_reducible
    repeat' (first
      | assumption | simp only [keeps_mk, keeps_eta])

theorem State.huvWrite_keeps {s : State} {off : Nat} {v : Word} (hk : Keeps pq s) :
    Keeps pq (State.huvWrite s off v) := by
  unfold State.huvWrite
  with_reducible
    repeat' (first
      | assumption | apply State.pageWrite_keeps | apply rwl_keeps | apply State.modRb_keeps | apply State.eqPop_keeps
      | apply keeps_ite | simp only [keeps_mk, keeps_eta] | split | (intro _ _; beta_reduce))

theorem State.domainRequest_keeps {s : State} {other : Bool} {v : Word} (hk : Keeps pq s) :
    Keeps pq (State.domainRequest s other v) := by
  unfold State.domainRequest
  with_reducible
    repeat' (first
      | assumption | apply rwl_keeps | simp only [keeps_mk, keeps_eta] | split | (intro _ _; beta_reduce))

theorem State.pwrWrite_keeps {s : State} {off : Nat} {v : Word} (hk : Keeps pq s) :
    Keeps pq (State.pwrWrite s off v) := by
  unfold State.pwrWrite
  with_reducible
    repeat' (first
      | assumption | apply State.domainRequest_keeps | apply rwl_keeps | simp only [keeps_mk, keeps_eta] | split
      | (intro _ _; beta_reduce))

theorem State.aonWrite_keeps {s : State} {off : Nat} {v : Word} (hk : Keeps pq s) :
    Keeps pq (State.aonWrite s off v) := by
  unfold State.aonWrite
  with_reducible
    repeat' (first
      | assumption | apply rwl_keeps | apply keeps_ite | simp only [keeps_mk, keeps_eta] | split
      | (intro _ _; beta_reduce))

theorem State.gpioWrite_keeps {s : State} {off : Nat} {v : Word} (hk : Keeps pq s) :
    Keeps pq (State.gpioWrite s off v) := by
  unfold State.gpioWrite
  with_reducible
    repeat' (first
      | assumption | apply rwl_keeps | simp only [keeps_mk, keeps_eta] | split | (intro _ _; beta_reduce))

theorem State.ethWrite_keeps {s : State} {m off : Nat} {v : Word} (hk : Keeps pq s) :
    Keeps pq (State.ethWrite s m off v) := by
  unfold State.ethWrite
  with_reducible
    repeat' (first
      | assumption | apply rwl_keeps | apply State.modMac_keeps | simp only [keeps_mk, keeps_eta] | split
      | (intro _ _; beta_reduce))

theorem State.canWrite_keeps {s : State} {c off : Nat} {v : Word} (hk : Keeps pq s) :
    Keeps pq (State.canWrite s c off v) := by
  unfold State.canWrite
  with_reducible
    repeat' (first
      | assumption | apply rwl_keeps | apply State.modCan_keeps | simp only [keeps_mk, keeps_eta] | split
      | (intro _ _; beta_reduce))

theorem State.toService_keeps {s : State} {p : Nat} (hk : Keeps pq s) :
    Keeps pq (State.toService s p) := by
  unfold State.toService
  with_reducible
    repeat' (first
      | assumption | apply State.modPen_keeps | apply keeps_ite | simp only [keeps_mk, keeps_eta])

theorem State.restartPen_keeps {s : State} {p : Nat} (hk : Keeps pq s) :
    Keeps pq (State.restartPen s p) := by
  unfold State.restartPen
  with_reducible
    repeat' (first
      | assumption | apply State.toService_keeps | apply State.modPen_keeps | apply keeps_ite)

theorem State.injectWrite_keeps {s : State} {p : Nat} {v : Word} (hk : Keeps pq s) :
    Keeps pq (State.injectWrite s p v) := by
  unfold State.injectWrite
  with_reducible
    repeat' (first
      | assumption | apply rwl_keeps | apply State.lockedWrite_keeps | apply State.modPen_keeps | apply keeps_ite
      | (intro _ _; beta_reduce))

theorem State.penWrite_keeps {s : State} {n off : Nat} {v : Word} (hk : Keeps pq s) :
    Keeps pq (State.penWrite s n off v) := by
  unfold State.penWrite
  with_reducible
    repeat' (first
      | assumption | apply raised_keeps | apply rwl_keeps | apply State.modPen_keeps | apply State.restartPen_keeps
      | apply State.fencePen_keeps | apply State.injectWrite_keeps | apply keeps_ite | simp only [keeps_mk, keeps_eta]
      | split | (intro _ _; beta_reduce))

theorem State.mmuInv_keeps {s : State} {n : Nat} (hk : Keeps pq s) :
    Keeps pq (State.mmuInv s n) := by
  unfold State.mmuInv
  with_reducible
    repeat' (first
      | assumption | apply State.modPen_keeps | apply keeps_ite)

theorem State.lslotLoads_keeps {s : State} {n mask : Nat} (hk : Keeps pq s) :
    Keeps pq (State.lslotLoads s n mask) := by
  unfold State.lslotLoads
  with_reducible
    repeat' (first
      | assumption | apply State.forAll_keeps | apply State.lslotLoad_keeps | apply keeps_ite
      | (intro _ _ _; beta_reduce))

theorem State.mmuWrite_keeps {s : State} {n off : Nat} {v : Word} (hk : Keeps pq s) :
    Keeps pq (State.mmuWrite s n off v) := by
  unfold State.mmuWrite
  with_reducible
    repeat' (first
      | assumption | apply rwl_keeps | apply State.modPen_keeps | apply State.mmuInv_keeps
      | apply State.lslotLoads_keeps | apply keeps_ite | split | (intro _ _; beta_reduce))

theorem State.inkWrite_keeps {s : State} {n off : Nat} {v : Word} (hk : Keeps pq s) :
    Keeps pq (State.inkWrite s n off v) := by
  unfold State.inkWrite
  with_reducible
    repeat' (first
      | assumption | apply rwl_keeps | apply State.modPen_keeps | apply State.lockedWrite_keeps | apply keeps_ite
      | simp only [keeps_mk, keeps_eta] | split | (intro _ _; beta_reduce))

theorem State.rsvWrite_keeps {s : State} {r off : Nat} {v : Word} (hk : Keeps pq s) :
    Keeps pq (State.rsvWrite s r off v) := by
  unfold State.rsvWrite
  with_reducible
    repeat' (first
      | assumption | apply rwl_keeps | apply State.modRsv_keeps | apply State.lockedWrite_keeps | apply keeps_ite
      | simp only [keeps_mk, keeps_eta] | split | (intro _ _; beta_reduce))

theorem State.regWriteAt_keeps {s : State} {writer : Option Nat} {cpa : Nat} {v : Word} (hk : Keeps pq s) :
    Keeps pq (State.regWriteAt s writer cpa v) := by
  unfold State.regWriteAt
  dsimp only
  with_reducible
    repeat' (first
      | apply hk | apply keeps_ite | apply State.folioWrite_keeps | apply State.rulWrite_keeps
      | apply State.blotWrite_keeps | apply State.feedWrite_keeps | apply State.trcWrite_keeps
      | apply State.hifWrite_keeps | apply State.huvWrite_keeps | apply State.pwrWrite_keeps
      | apply State.aonWrite_keeps | apply State.gpioWrite_keeps | apply State.ethWrite_keeps
      | apply State.canWrite_keeps | apply State.penWrite_keeps | apply State.mmuWrite_keeps
      | apply State.inkWrite_keeps | apply State.rsvWrite_keeps)

theorem State.regWrite_keeps {s : State} {writer : Option Nat} {cpa : Nat} {w : TWord} (hk : Keeps pq s) :
    OptKeeps pq (State.regWrite s writer cpa w) := by
  unfold State.regWrite
  with_reducible
    repeat' (first
      | assumption | apply optKeeps_some | apply optKeeps_none | apply State.regWriteAt_keeps | split)

theorem State.regClear_keeps {s : State} {cpa : Nat} {same : Word} (hk : Keeps pq s) :
    Keeps pq (State.regClear s cpa same) := by
  unfold State.regClear
  dsimp only
  with_reducible
    repeat' (first
      | apply hk | apply keeps_ite | apply State.modQueue_keeps | apply State.modRb_keeps | apply State.modMac_keeps
      | apply State.modCan_keeps | apply State.modPen_keeps | apply State.modRsv_keeps
      | simp only [keeps_mk, keeps_eta] | split)

end Sys2Proof.Machine
end

