-- ==== Sys2Proof/Laws/KeepsEngines.lean ====
section
/-! SUPPORT. That the engines (redraft, tracing, queues, windows and the blotter) keep the queue of waiting commands and the canonical form of the two memories. -/

set_option linter.unusedSimpArgs false
set_option linter.unusedTactic false

namespace Sys2Proof.Machine

variable {pq : List Instr}

theorem State.writeBytes_keeps {s : State} {base : Nat} {l : List (Nat × Byte)} (hk : Keeps pq s) :
    Keeps pq (State.writeBytes s base l).2 := by
  unfold State.writeBytes
  with_reducible
    repeat' (first
      | assumption | apply foldl_snd_keeps | apply State.enginePartial_keeps | simp only [keeps_mk, keeps_eta]
      | (intro _ _ _; beta_reduce))

theorem State.modMsg_keeps {s : State} {q : Nat} {f : QMsg → QMsg} (hk : Keeps pq s) :
    Keeps pq (State.modMsg s q f) := by
  unfold State.modMsg
  with_reducible
    repeat' (first
      | assumption | apply State.modQueue_keeps)

theorem State.useLink_keeps {s : State} {q bytes : Nat} (hk : Keeps pq s) :
    Keeps pq (State.useLink s q bytes) := by
  unfold State.useLink
  with_reducible
    repeat' (first
      | assumption | apply State.chargeLink_keeps | simp only [keeps_mk, keeps_eta])

theorem State.issueRead_keeps {s : State} {q : Nat} (hk : Keeps pq s) :
    Keeps pq (State.issueRead s q) := by
  unfold State.issueRead
  with_reducible
    repeat' (first
      | assumption | apply State.useLink_keeps | apply State.emitTo_keeps | apply State.modMsg_keeps | apply keeps_ite
      | simp only [keeps_mk, keeps_eta] | split)

theorem State.endFetch_keeps {s : State} {q status : Nat} (hk : Keeps pq s) :
    Keeps pq (State.endFetch s q status) := by
  unfold State.endFetch
  with_reducible
    repeat' (first
      | assumption | apply State.modQueue_keeps | apply State.postStatus_keeps | simp only [keeps_mk, keeps_eta]
      | split)

theorem State.fetchCrc_keeps {s : State} {q set : Nat} (hk : Keeps pq s) :
    Keeps pq (State.fetchCrc s q set) := by
  unfold State.fetchCrc
  with_reducible
    repeat' (first
      | assumption | apply State.modMsg_keeps | apply State.raise_keeps | apply State.endFetch_keeps)

theorem State.fetchMessage_keeps {s : State} {q : Nat} {crcError : Bool} (hk : Keeps pq s) :
    Keeps pq (State.fetchMessage s q crcError) := by
  unfold State.fetchMessage
  with_reducible
    repeat' (first
      | assumption | apply State.fetchCrc_keeps | apply State.issueRead_keeps | apply State.modQueue_keeps
      | apply keeps_ite | simp only [keeps_mk, keeps_eta] | split)

theorem execFetchMessage_keeps {q : QpN} {crcError : Bool} {s : State} (hk : Keeps pq s) :
    OutKeeps pq (execFetchMessage q crcError s) := by
  unfold execFetchMessage
  with_reducible
    repeat' (first
      | assumption | apply guarded_keeps | apply State.fetchMessage_keeps | (intro _ _; beta_reduce))

theorem State.deliver_keeps {s : State} {q : Nat} {m : QMsg} {bs : List Byte} (hk : Keeps pq s) :
    Keeps pq (State.deliver s q m bs).2 := by
  unfold State.deliver
  with_reducible
    repeat' (first
      | assumption | apply foldl_snd_keeps | apply State.feedDraft_keeps | apply State.modMsg_keeps
      | apply State.writeBytes_keeps | simp only [keeps_mk, keeps_eta] | split | (intro _ _ _; beta_reduce))

theorem State.goOn_keeps {s : State} {q : Nat} (hk : Keeps pq s) :
    Keeps pq (State.goOn s q) := by
  unfold State.goOn
  with_reducible
    repeat' (first
      | assumption | apply State.issueRead_keeps | apply keeps_ite | split)

theorem State.passOver_keeps {s : State} {q status : Nat} {last : Bool} (hk : Keeps pq s) :
    Keeps pq (State.passOver s q status last) := by
  unfold State.passOver
  with_reducible
    repeat' (first
      | assumption | apply State.modMsg_keeps | apply State.endFetch_keeps | apply State.goOn_keeps | apply keeps_ite)

theorem State.takeEntry_keeps {s : State} {q : Nat} {m : QMsg} {ws : List Word} (hk : Keeps pq s) :
    Keeps pq (State.takeEntry s q m ws) := by
  unfold State.takeEntry
  with_reducible
    repeat' (first
      | assumption | apply State.modMsg_keeps | apply State.endFetch_keeps | apply State.passOver_keeps
      | apply State.goOn_keeps | apply State.deliver_keeps | apply keeps_ite)

theorem State.takeBuffer_keeps {s : State} {q : Nat} {m : QMsg} {a n : Nat} {ws : List Word} (hk : Keeps pq s) :
    Keeps pq (State.takeBuffer s q m a n ws) := by
  unfold State.takeBuffer
  with_reducible
    repeat' (first
      | assumption | apply State.deliver_keeps | apply State.modMsg_keeps | apply State.endFetch_keeps
      | apply State.goOn_keeps | apply keeps_ite)

theorem State.hostError_keeps {s : State} {q : Nat} (hk : Keeps pq s) :
    Keeps pq (State.hostError s q) := by
  unfold State.hostError
  with_reducible
    repeat' (first
      | assumption | apply State.modMsg_keeps | apply State.raise_keeps | apply State.endFetch_keeps)

theorem State.completion_keeps {s : State} {q : Nat} {c : Completion} (hk : Keeps pq s) :
    Keeps pq (State.completion s q c) := by
  unfold State.completion
  with_reducible
    repeat' (first
      | assumption | apply State.takeBuffer_keeps | apply State.takeEntry_keeps | apply State.hostError_keeps
      | apply State.noteAer_keeps | apply keeps_ite | simp only [keeps_mk, keeps_eta] | split)

theorem execHostCompletion_keeps {q : QpN} {c : Completion} {s : State} (hk : Keeps pq s) :
    OutKeeps pq (execHostCompletion q c s) := by
  unfold execHostCompletion
  with_reducible
    repeat' (first
      | assumption | apply answer_keeps | apply State.completion_keeps | apply State.noteAer_keeps | apply keeps_ite)

theorem execCompletionTimeout_keeps {q : QpN} {s : State} (hk : Keeps pq s) :
    OutKeeps pq (execCompletionTimeout q s) := by
  unfold execCompletionTimeout
  with_reducible
    repeat' (first
      | assumption | apply guarded_keeps | apply State.hostError_keeps | apply State.noteAer_keeps
      | (intro _ _; beta_reduce))

theorem State.endPost_keeps {s : State} {q status : Nat} (hk : Keeps pq s) :
    Keeps pq (State.endPost s q status) := by
  unfold State.endPost
  with_reducible
    repeat' (first
      | assumption | apply State.modQueue_keeps | apply State.postStatus_keeps | apply State.setDescStatus_keeps
      | apply keeps_ite | simp only [keeps_mk, keeps_eta] | split)

theorem State.postEntries_keeps {s : State} {q : Nat} {m : QMsg} {bs : List Byte} (hk : Keeps pq s) :
    Keeps pq (State.postEntries s q m bs) := by
  unfold State.postEntries
  with_reducible
    repeat' (first
      | assumption | apply State.forAll_keeps | apply State.emitTo_keeps | apply State.useLink_keeps
      | apply State.modQueue_keeps | apply State.modMsg_keeps | apply State.endPost_keeps | apply keeps_ite
      | simp only [keeps_mk, keeps_eta] | (intro _ _ _; beta_reduce))

theorem State.gatherMsg_keeps {s : State} {m : QMsg} (hk : Keeps pq s) :
    Keeps pq (State.gatherMsg s m).2 := by
  unfold State.gatherMsg
  with_reducible
    repeat' (first
      | assumption | apply State.gather_keeps | simp only [keeps_mk, keeps_eta] | split)

theorem State.gatherMsgs_keeps {l : List QMsg} {s : State} (hk : Keeps pq s) :
    Keeps pq (State.gatherMsgs l s).2 := by
  induction l generalizing s with
  | nil => exact hk
  | cons a l ih => exact ih (State.gatherMsg_keeps hk)

theorem State.postMessage_keeps {s : State} {q : Nat} {crcError : Bool} (hk : Keeps pq s) :
    Keeps pq (State.postMessage s q crcError) := by
  unfold State.postMessage
  with_reducible
    repeat' (first
      | assumption | apply State.endPost_keeps | apply State.gatherMsgs_keeps | apply State.modQueue_keeps
      | apply State.postEntries_keeps | apply keeps_ite | simp only [keeps_mk, keeps_eta] | split)

theorem execPostMessage_keeps {q : QpN} {crcError : Bool} {s : State} (hk : Keeps pq s) :
    OutKeeps pq (execPostMessage q crcError s) := by
  unfold execPostMessage
  with_reducible
    repeat' (first
      | assumption | apply guarded_keeps | apply State.postMessage_keeps | (intro _ _; beta_reduce))

theorem execQueueInterrupt_keeps {q : QpN} {s : State} (hk : Keeps pq s) :
    OutKeeps pq (execQueueInterrupt q s) := by
  unfold execQueueInterrupt
  with_reducible
    repeat' (first
      | assumption | apply guarded_keeps | apply State.chargeLink_keeps | apply State.sendMsix_keeps
      | apply State.modQueue_keeps | simp only [keeps_mk, keeps_eta] | (intro _ _; beta_reduce))

theorem State.putWords_keeps {s : State} {slot off : Nat} {l : List TWord} (hk : Keeps pq s) :
    Keeps pq (State.putWords s slot off l) := by
  induction l generalizing s off with
  | nil => exact hk
  | cons w ws ih => exact ih (State.engineWrite_keeps hk)

theorem State.putFrame_keeps {s : State} {di : Nat} {d : Desc} {time w8 w16 : Word} {data : List Byte}
    (hk : Keeps pq s) :
    Keeps pq (State.putFrame s di d time w8 w16 data).2 := by
  unfold State.putFrame
  with_reducible
    repeat' (first
      | assumption | apply State.putWords_keeps | apply State.writeBytes_keeps | simp only [keeps_mk, keeps_eta])

theorem State.putSample_keeps {s : State} {di : Nat} {d : Desc} {unit : Nat} {time : Word} {ws : List Word} (hk : Keeps pq s) :
    Keeps pq (State.putSample s di d unit time ws) := by
  unfold State.putSample
  with_reducible
    repeat' (first
      | assumption | apply State.putWords_keeps | apply State.setDescStatus_keeps | apply keeps_ite
      | simp only [keeps_mk, keeps_eta])

theorem State.writeRecord_keeps {s : State} {r : RxRec} {crcError : Bool} (hk : Keeps pq s) :
    Keeps pq (State.writeRecord s r crcError) := by
  unfold State.writeRecord
  with_reducible
    repeat' (first
      | assumption | apply State.setDescStatus_keeps | apply State.feedDraft_keeps | apply State.putFrame_keeps
      | apply State.putSample_keeps | apply keeps_ite | simp only [keeps_mk, keeps_eta] | split)

theorem State.writeOldest_keeps {s : State} {crcError : Bool} (hk : Keeps pq s) :
    Keeps pq (State.writeOldest s crcError) := by
  unfold State.writeOldest
  with_reducible
    repeat' (first
      | assumption | apply State.writeRecord_keeps | simp only [keeps_mk, keeps_eta] | split)

theorem State.flushRecords_keeps {s : State} (hk : Keeps pq s) :
    Keeps pq (State.flushRecords s) := by
  unfold State.flushRecords
  with_reducible
    repeat' (first
      | assumption | apply State.forAll_keeps | apply State.writeOldest_keeps | apply keeps_ite
      | (intro _ _ _; beta_reduce))

theorem State.stopFollower_keeps {s : State} (hk : Keeps pq s) :
    Keeps pq (State.stopFollower s) := by
  unfold State.stopFollower
  with_reducible
    repeat' (first
      | assumption | apply raised_keeps | apply State.endRuns_keeps | simp only [keeps_mk, keeps_eta])

theorem State.becomesStale_keeps {s : State} (hk : Keeps pq s) :
    Keeps pq (State.becomesStale s) := by
  unfold State.becomesStale
  with_reducible
    repeat' (first
      | assumption | apply State.trcEvent_keeps | apply State.stopFollower_keeps | apply keeps_ite
      | simp only [keeps_mk, keeps_eta])

theorem State.markStale_keeps {s : State} {seq : Nat} (hk : Keeps pq s) :
    Keeps pq (State.markStale s seq) := by
  unfold State.markStale
  with_reducible
    repeat' (first
      | assumption | apply State.raise_keeps | apply State.becomesStale_keeps | apply keeps_ite)

theorem State.readUnit_keeps {s : State} {base : Nat} (hk : Keeps pq s) :
    Keeps pq (State.readUnit s base).2 := by
  unfold State.readUnit
  with_reducible
    repeat' (first
      | assumption | apply foldl_snd_keeps | apply State.engineRead_keeps | simp only [keeps_mk, keeps_eta] | split
      | (intro _ _ _; beta_reduce))

theorem State.writeLeafD_keeps {s : State} {leaf : Nat} {w : TWord} {d : Bool} (hk : Keeps pq s) :
    Keeps pq (State.writeLeafD s leaf w d) := by
  unfold State.writeLeafD
  with_reducible
    repeat' (first
      | assumption | apply State.forAll_keeps | apply State.engineWrite_keeps | apply State.clearD2_keeps
      | apply keeps_ite | (intro _ _ _; beta_reduce))

theorem State.windowFails_keeps {s : State} (hk : Keeps pq s) :
    Keeps pq (State.windowFails s) := by
  unfold State.windowFails
  with_reducible
    repeat' (first
      | assumption | apply State.markStale_keeps | simp only [keeps_mk, keeps_eta])

theorem State.redirty_keeps {s : State} {w : TrcSend} {x0 : TrcUnit} (hk : Keeps pq s) :
    Keeps pq (State.redirty s w x0).2 := by
  unfold State.redirty
  with_reducible
    repeat' (first
      | assumption | apply State.engineRead_keeps | apply State.writeLeafD_keeps | simp only [keeps_mk, keeps_eta]
      | split)

theorem State.takeUnit_keeps {s : State} {w : TrcSend} {u : TrcUnit} (hk : Keeps pq s) :
    Keeps pq (State.takeUnit s w u).2 := by
  unfold State.takeUnit
  with_reducible
    repeat' (first
      | assumption | apply State.readUnit_keeps | apply State.redirty_keeps | simp only [keeps_mk, keeps_eta] | split)

theorem State.sendUnit_keeps {s : State} {w : TrcSend} {u : TrcUnit} (hk : Keeps pq s) :
    Keeps pq (State.sendUnit s w u).2 := by
  unfold State.sendUnit
  with_reducible
    repeat' (first
      | assumption | apply State.takeUnit_keeps | apply State.sendRecord_keeps | simp only [keeps_mk, keeps_eta]
      | split)

theorem State.sendUnits_keeps {w : TrcSend} {l : List TrcUnit} {s : State} (hk : Keeps pq s) :
    Keeps pq (State.sendUnits w l s).2 := by
  induction l generalizing s with
  | nil => exact hk
  | cons u us ih =>
    have h : Keeps pq (s.sendUnit w u).2 := State.sendUnit_keeps hk
    unfold State.sendUnits
    dsimp only
    split
    · exact ih h
    · exact h

theorem State.sendEnd_keeps {s : State} {sent : Nat} {inc resync done : Bool} (hk : Keeps pq s) :
    Keeps pq (State.sendEnd s sent inc resync done) := by
  unfold State.sendEnd
  with_reducible
    repeat' (first
      | assumption | apply State.sendRecord_keeps | apply State.windowFails_keeps | apply keeps_ite
      | simp only [keeps_mk, keeps_eta])

theorem State.finishSend_keeps {s : State} {w : TrcSend} (hk : Keeps pq s) :
    Keeps pq (State.finishSend s w) := by
  unfold State.finishSend
  with_reducible
    repeat' (first
      | assumption | apply State.sendUnits_keeps | apply State.windowFails_keeps | apply State.sendEnd_keeps
      | apply keeps_ite | simp only [keeps_mk, keeps_eta])

theorem dirtyPass_keeps {n : Nat} {l : List (Nat × List TrcEntry)} {us : List TrcUnit} {s : State}
    (hk : Keeps pq s) : Keeps pq (dirtyPass n l us s).st := by
  induction l generalizing us s with
  | nil => exact hk
  | cons a l ih =>
    obtain ⟨leaf, es⟩ := a
    have h : Keeps pq (s.engineRead leaf).2 := State.engineRead_keeps hk
    unfold dirtyPass
    dsimp only
    split
    · exact h
    · split
      · exact ih h
      · split
        · exact h
        · exact ih (State.writeLeafD_keeps h)

theorem State.sendWindow_keeps {s : State} {len : Nat} {crcError : Bool} (hk : Keeps pq s) :
    Keeps pq (State.sendWindow s len crcError) := by
  unfold State.sendWindow
  with_reducible
    repeat' (first
      | assumption | apply dirtyPass_keeps | apply State.windowFails_keeps | apply State.sendRecord_keeps
      | apply State.raise_keeps | apply keeps_ite | simp only [keeps_mk, keeps_eta] | split)

theorem State.disagree_keeps {s : State} {slot seq : Nat} (hk : Keeps pq s) :
    Keeps pq (State.disagree s slot seq) := by
  unfold State.disagree
  with_reducible
    repeat' (first
      | assumption | apply State.becomesStale_keeps | apply State.raise_keeps | apply State.trcEvent_keeps)

theorem State.compareDigests_keeps {s : State} (hk : Keeps pq s) :
    Keeps pq (State.compareDigests s) := by
  unfold State.compareDigests
  with_reducible
    repeat' (first
      | assumption | apply State.raise_keeps | apply State.disagree_keeps | apply keeps_ite
      | simp only [keeps_mk, keeps_eta] | split)

theorem dirtySlots_keeps {l : List TrcEntry} {d : List (TrcEntry × TWord)} {s : State} (hk : Keeps pq s) :
    Keeps pq (dirtySlots l d s).2 := by
  induction l generalizing d s with
  | nil => exact hk
  | cons e t ih =>
    have h : Keeps pq (s.engineRead e.leaf).2 := State.engineRead_keeps hk
    unfold dirtySlots
    dsimp only
    split
    · exact h
    · exact ih h

theorem State.digestUnit_keeps {s : State} {w : TrcSend} {u : TrcUnit} (hk : Keeps pq s) :
    Keeps pq (State.digestUnit s w u).2 := by
  unfold State.digestUnit
  with_reducible
    repeat' (first
      | assumption | apply State.takeUnit_keeps)

theorem State.digestUnits_keeps {w : TrcSend} {us : List TrcUnit} {l : List Digest} {s : State} (hk : Keeps pq s) :
    Keeps pq (State.digestUnits w us l s).2.2 := by
  induction us generalizing l s with
  | nil => exact hk
  | cons u us ih =>
    have h : Keeps pq (s.digestUnit w u).2 := State.digestUnit_keeps hk
    unfold State.digestUnits
    dsimp only
    split
    · apply ih
      assumption
    · dsimp only
      assumption

theorem State.sendDigests_keeps {s : State} {inc : Bool} {n : Nat} {l : List Digest} (hk : Keeps pq s) :
    Keeps pq (State.sendDigests s inc n l) := by
  induction n generalizing l s with
  | zero => exact hk
  | succ n ih =>
    unfold State.sendDigests
    with_reducible
      repeat' (first
        | assumption | apply ih | apply State.sendRecord_keeps | apply keeps_ite)

theorem State.finishDigests_keeps {s : State} {w : TrcSend} (hk : Keeps pq s) :
    Keeps pq (State.finishDigests s w) := by
  unfold State.finishDigests
  with_reducible
    repeat' (first
      | assumption | apply State.digestUnits_keeps | apply State.windowFails_keeps | apply State.sendDigests_keeps
      | apply State.compareDigests_keeps | apply keeps_ite | simp only [keeps_mk, keeps_eta])

theorem State.digestWindow_keeps {s : State} {len : Nat} {crcError : Bool} (hk : Keeps pq s) :
    Keeps pq (State.digestWindow s len crcError) := by
  unfold State.digestWindow
  with_reducible
    repeat' (first
      | assumption | apply State.forAll_keeps | apply State.windowFails_keeps | apply State.raise_keeps
      | apply dirtySlots_keeps | apply State.writeLeafD_keeps | apply keeps_ite | simp only [keeps_mk, keeps_eta]
      | split | (intro _ _ _; beta_reduce))

theorem State.noteRate_keeps {s : State} (hk : Keeps pq s) :
    Keeps pq (State.noteRate s) := by
  unfold State.noteRate
  with_reducible
    repeat' (first
      | assumption | simp only [keeps_mk, keeps_eta])

theorem State.traceWindow_keeps {s : State} {len : Nat} {crcError : Bool} (hk : Keeps pq s) :
    Keeps pq (State.traceWindow s len crcError) := by
  unfold State.traceWindow
  with_reducible
    repeat' (first
      | assumption | apply State.sendWindow_keeps | apply State.noteRate_keeps | apply State.digestWindow_keeps
      | apply keeps_ite | simp only [keeps_mk, keeps_eta])

theorem State.finishWindow_keeps {s : State} {w : TrcSend} (hk : Keeps pq s) :
    Keeps pq (State.finishWindow s w) := by
  unfold State.finishWindow
  with_reducible
    repeat' (first
      | assumption | apply State.finishDigests_keeps | apply State.finishSend_keeps | apply keeps_ite
      | simp only [keeps_mk, keeps_eta])

theorem State.sendDue_keeps {s : State} (hk : Keeps pq s) :
    Keeps pq (State.sendDue s) := by
  unfold State.sendDue
  with_reducible
    repeat' (first
      | assumption | apply State.finishWindow_keeps | apply keeps_ite | split)

theorem State.breakWindow_keeps {s : State} (hk : Keeps pq s) :
    Keeps pq (State.breakWindow s) := by
  unfold State.breakWindow
  with_reducible
    repeat' (first
      | assumption | apply State.sendDue_keeps | apply State.windowFails_keeps | apply keeps_ite)

theorem State.dropWaiting_keeps {s : State} {w : Waiting} (hk : Keeps pq s) :
    Keeps pq (State.dropWaiting s w) := by
  unfold State.dropWaiting
  with_reducible
    repeat' (first
      | assumption | simp only [keeps_mk, keeps_eta])

theorem State.detachAtEnd_keeps {s : State} (hk : Keeps pq s) :
    Keeps pq (State.detachAtEnd s) := by
  unfold State.detachAtEnd
  with_reducible
    repeat' (first
      | assumption | apply State.farewell_keeps | apply State.finish_keeps | apply State.dropWaiting_keeps
      | apply keeps_ite | simp only [keeps_mk, keeps_eta] | split)

theorem State.traceEnds_keeps {s : State} (hk : Keeps pq s) :
    Keeps pq (State.traceEnds s) := by
  unfold State.traceEnds
  with_reducible
    repeat' (first
      | assumption | apply raised_keeps | apply State.detachAtEnd_keeps | apply State.traceWindowEnd_keeps
      | apply State.rateCheck_keeps | apply State.breakWindow_keeps)

theorem State.closeTraces_keeps {s : State} (hk : Keeps pq s) :
    Keeps pq (State.closeTraces s) := by
  unfold State.closeTraces
  with_reducible
    repeat' (first
      | assumption | apply State.forAll_keeps | apply State.traceEnds_keeps | (intro _ _ _; beta_reduce))

theorem State.declareLost_keeps {s : State} {seq : Nat} (hk : Keeps pq s) :
    Keeps pq (State.declareLost s seq) := by
  unfold State.declareLost
  with_reducible
    repeat' (first
      | assumption | apply State.raise_keeps | apply State.trcEvent_keeps | apply keeps_ite
      | simp only [keeps_mk, keeps_eta])

theorem execTraceWatchdog_keeps {s : State} (hk : Keeps pq s) :
    OutKeeps pq (execTraceWatchdog s) := by
  unfold execTraceWatchdog
  with_reducible
    repeat' (first
      | assumption | apply guarded_keeps | apply State.declareLost_keeps | (intro _ _; beta_reduce))

theorem State.discardWindow_keeps {s : State} (hk : Keeps pq s) :
    Keeps pq (State.discardWindow s) := by
  unfold State.discardWindow
  with_reducible
    repeat' (first
      | assumption | simp only [keeps_mk, keeps_eta])

theorem State.recordFails_keeps {s : State} {cls seq : Nat} (hk : Keeps pq s) :
    Keeps pq (State.recordFails s cls seq) := by
  unfold State.recordFails
  with_reducible
    repeat' (first
      | assumption | apply State.discardWindow_keeps | apply State.sendRecord_keeps | apply State.becomesStale_keeps
      | apply State.raise_keeps | apply State.trcEvent_keeps | apply keeps_ite)

theorem State.record_keeps {s : State} {type : Nat} {r : List Word} {apply : State → State} (hk : Keeps pq s)
    (hf : ∀ t, Keeps pq t → Keeps pq (apply t)) :
    Keeps pq (State.record s type r apply) := by
  unfold State.record
  with_reducible
    repeat' (first
      | assumption | apply hf | apply State.sendDue_keeps | apply State.declareLost_keeps
      | apply State.recordFails_keeps | apply keeps_ite | simp only [keeps_mk, keeps_eta])

theorem State.applyBegin_keeps {s : State} (hk : Keeps pq s) :
    Keeps pq (State.applyBegin s) := by
  unfold State.applyBegin
  with_reducible
    repeat' (first
      | assumption | apply keeps_ite | simp only [keeps_mk, keeps_eta])

theorem State.applyUnit_keeps {s : State} {r : List Word} {crcError : Bool} (hk : Keeps pq s) :
    Keeps pq (State.applyUnit s r crcError) := by
  unfold State.applyUnit
  with_reducible
    repeat' (first
      | assumption | apply foldl_keeps | apply State.recordFails_keeps | apply State.engineWrite_keeps
      | apply keeps_ite | simp only [keeps_mk, keeps_eta] | split | (intro _ _ _; beta_reduce))

theorem State.gotFolio_keeps {s : State} {f : Word} (hk : Keeps pq s) :
    Keeps pq (State.gotFolio s f) := by
  unfold State.gotFolio
  with_reducible
    repeat' (first
      | assumption | simp only [keeps_mk, keeps_eta])

theorem State.becomeCurrent_keeps {s : State} (hk : Keeps pq s) :
    Keeps pq (State.becomeCurrent s) := by
  unfold State.becomeCurrent
  with_reducible
    repeat' (first
      | assumption | apply State.trcEvent_keeps | apply keeps_ite | simp only [keeps_mk, keeps_eta])

theorem State.answered_keeps {s : State} {f : Word} (hk : Keeps pq s) :
    Keeps pq (State.answered s f) := by
  unfold State.answered
  with_reducible
    repeat' (first
      | assumption | apply State.gotFolio_keeps | simp only [keeps_mk, keeps_eta])

theorem State.applyEnd_keeps {s : State} {r : List Word} (hk : Keeps pq s) :
    Keeps pq (State.applyEnd s r) := by
  unfold State.applyEnd
  with_reducible
    repeat' (first
      | assumption | apply State.forAll_keeps | apply State.recordFails_keeps | apply State.rewriteTlb_keeps
      | apply State.modVslot_keeps | apply State.answered_keeps | apply State.discardWindow_keeps
      | apply State.sendRecord_keeps | apply State.becomeCurrent_keeps | apply keeps_ite
      | simp only [keeps_mk, keeps_eta] | (intro _ _ _; beta_reduce))

theorem State.applyAck_keeps {s : State} {r : List Word} (hk : Keeps pq s) :
    Keeps pq (State.applyAck s r) := by
  unfold State.applyAck
  with_reducible
    repeat' (first
      | assumption | apply State.markStale_keeps | apply State.gotFolio_keeps | apply State.answered_keeps
      | apply State.trcEvent_keeps | apply keeps_ite | simp only [keeps_mk, keeps_eta])

theorem State.applyDigest_keeps {s : State} {r : List Word} (hk : Keeps pq s) :
    Keeps pq (State.applyDigest s r) := by
  unfold State.applyDigest
  with_reducible
    repeat' (first
      | assumption | apply State.compareDigests_keeps | apply State.gotFolio_keeps | apply keeps_ite
      | simp only [keeps_mk, keeps_eta])

theorem State.applyFarewell_keeps {s : State} {r : List Word} (hk : Keeps pq s) :
    Keeps pq (State.applyFarewell s r) := by
  unfold State.applyFarewell
  with_reducible
    repeat' (first
      | assumption | apply State.discardWindow_keeps | apply State.raise_keeps | apply State.declareLost_keeps
      | apply keeps_ite | simp only [keeps_mk, keeps_eta])

theorem execRecordBegin_keeps {raw : List Word} {s : State} (hk : Keeps pq s) :
    OutKeeps pq (execRecordBegin raw s) := by
  unfold execRecordBegin
  with_reducible
    repeat' (first
      | assumption | apply answer_keeps | apply State.record_keeps | apply State.applyBegin_keeps)

theorem execRecordUnit_keeps {raw : List Word} {crcError : Bool} {s : State} (hk : Keeps pq s) :
    OutKeeps pq (execRecordUnit raw crcError s) := by
  unfold execRecordUnit
  with_reducible
    repeat' (first
      | assumption | apply answer_keeps | apply State.record_keeps | apply State.applyUnit_keeps
      | (intro _ _; beta_reduce))

theorem execRecordEnd_keeps {raw : List Word} {s : State} (hk : Keeps pq s) :
    OutKeeps pq (execRecordEnd raw s) := by
  unfold execRecordEnd
  with_reducible
    repeat' (first
      | assumption | apply answer_keeps | apply State.record_keeps | apply State.applyEnd_keeps
      | (intro _ _; beta_reduce))

theorem execRecordAck_keeps {raw : List Word} {s : State} (hk : Keeps pq s) :
    OutKeeps pq (execRecordAck raw s) := by
  unfold execRecordAck
  with_reducible
    repeat' (first
      | assumption | apply answer_keeps | apply State.record_keeps | apply State.applyAck_keeps
      | (intro _ _; beta_reduce))

theorem execRecordDigest_keeps {raw : List Word} {s : State} (hk : Keeps pq s) :
    OutKeeps pq (execRecordDigest raw s) := by
  unfold execRecordDigest
  with_reducible
    repeat' (first
      | assumption | apply answer_keeps | apply State.record_keeps | apply State.applyDigest_keeps
      | (intro _ _; beta_reduce))

theorem execRecordFarewell_keeps {raw : List Word} {s : State} (hk : Keeps pq s) :
    OutKeeps pq (execRecordFarewell raw s) := by
  unfold execRecordFarewell
  with_reducible
    repeat' (first
      | assumption | apply answer_keeps | apply State.record_keeps | apply State.applyFarewell_keeps
      | (intro _ _; beta_reduce))

theorem State.applyHo_keeps {s : State} {linePen runPen : Nat} {h : Handover} (hk : Keeps pq s) :
    Keeps pq (State.applyHo s linePen runPen h) := by
  unfold State.applyHo
  with_reducible
    repeat' (first
      | assumption | apply State.modRsv_keeps)

theorem State.applyHandovers_keeps {s : State} {l : RLine} {runPen : Nat} (hk : Keeps pq s) :
    Keeps pq (State.applyHandovers s l runPen) := by
  unfold State.applyHandovers
  with_reducible
    repeat' (first
      | assumption | apply State.forAll_keeps | apply State.applyHo_keeps | (intro _ _ _; beta_reduce))

theorem State.handOnce_keeps {s : State} {i : Nat} {recovery : Bool} {l : RLine} {runPen : Nat} (hk : Keeps pq s) :
    Keeps pq (State.handOnce s i recovery l runPen) := by
  unfold State.handOnce
  with_reducible
    repeat' (first
      | assumption | apply State.applyHandovers_keeps | apply keeps_ite | simp only [keeps_mk, keeps_eta])

theorem State.startOn_keeps {s : State} {i : Nat} {l : RLine} {p start budget : Nat} {recovery : Bool}
    (hk : Keeps pq s) :
    Keeps pq (State.startOn s i l p start budget recovery) := by
  unfold State.startOn
  with_reducible
    repeat' (first
      | assumption | apply State.handOnce_keeps | apply State.modPen_keeps)

theorem State.startLigature_keeps {s : State} {i : Nat} {l : RLine} (hk : Keeps pq s) :
    Keeps pq (State.startLigature s i l) := by
  unfold State.startLigature
  with_reducible
    repeat' (first
      | assumption | apply State.modPen_keeps | apply State.handOnce_keeps | apply State.soleFor_keeps
      | apply State.raise_keeps | apply keeps_ite)

theorem State.toColumn_keeps {s : State} {i : Nat} {p : Placed} (hk : Keeps pq s) :
    Keeps pq (State.toColumn s i p) := by
  unfold State.toColumn
  with_reducible
    repeat' (first
      | assumption | apply State.raise_keeps | apply keeps_ite | simp only [keeps_mk, keeps_eta])

theorem State.lateRun_keeps {s : State} {p line : Nat} (hk : Keeps pq s) :
    Keeps pq (State.lateRun s p line) := by
  unfold State.lateRun
  with_reducible
    repeat' (first
      | assumption | apply State.killRun_keeps | apply State.raise_keeps | simp only [keeps_mk, keeps_eta])

theorem State.budgetEnd_keeps {s : State} {i : Nat} (hk : Keeps pq s) :
    Keeps pq (State.budgetEnd s i) := by
  unfold State.budgetEnd
  with_reducible
    repeat' (first
      | assumption | apply State.lateRun_keeps | simp only [keeps_mk, keeps_eta] | split)

theorem execRunBudgetEnd_keeps {line : LineN} {s : State} (hk : Keeps pq s) :
    OutKeeps pq (execRunBudgetEnd line s) := by
  unfold execRunBudgetEnd
  with_reducible
    repeat' (first
      | assumption | apply guarded_keeps | apply State.budgetEnd_keeps | (intro _ _; beta_reduce))

theorem execCommit_keeps {p : PenN} {s : State} (hk : Keeps pq s) :
    OutKeeps pq (execCommit p s) := by
  unfold execCommit
  with_reducible
    repeat' (first
      | assumption | apply guarded_keeps | apply raised_keeps | apply State.commitPen_keeps
      | (intro _ _; beta_reduce))

theorem State.resetOwners_keeps {s : State} (hk : Keeps pq s) :
    Keeps pq (State.resetOwners s) := by
  unfold State.resetOwners
  with_reducible
    repeat' (first
      | assumption | apply State.forAll_keeps | apply State.modRsv_keeps | (intro _ _ _; beta_reduce))

theorem State.discardDraftOf_keeps {n : Nat} {s : State} (hk : Keeps pq s) :
    Keeps pq (State.discardDraftOf n s) := by
  unfold State.discardDraftOf
  with_reducible
    repeat' (first
      | assumption | apply State.discardDraft_keeps)

theorem State.snapshot_keeps {s : State} (hk : Keeps pq s) :
    Keeps pq (State.snapshot s) := by
  unfold State.snapshot
  with_reducible
    repeat' (first
      | assumption | apply State.forAll_keeps | apply State.discardDraftOf_keeps | apply State.modVslot_keeps
      | apply State.rewriteTlb_keeps | apply keeps_ite | simp only [keeps_mk, keeps_eta] | (intro _ _ _; beta_reduce))

theorem State.clearNew_keeps {di : Nat} {s : State} (hk : Keeps pq s) : Keeps pq (State.clearNew di s) := by
  unfold State.clearNew
  with_reducible
    repeat' (first
      | assumption | apply State.feedDraft_keeps | apply State.engineRead_keeps | apply State.engineWrite_keeps
      | apply keeps_ite | simp only [keeps_mk, keeps_eta] | split)

theorem State.turnNew_keeps {s : State} {held gone : List Nat} (hk : Keeps pq s) : Keeps pq (State.turnNew s held gone) := by
  unfold State.turnNew
  with_reducible
    repeat' (first
      | assumption | simp only [keeps_mk, keeps_eta])

theorem State.snapshotNew_keeps {s : State} (hk : Keeps pq s) : Keeps pq (State.snapshotNew s) := by
  unfold State.snapshotNew
  with_reducible
    repeat' (first
      | assumption | apply State.turnNew_keeps | apply State.snapshot_keeps | apply State.forAll_keeps
      | apply State.clearNew_keeps | (intro _ _ _; beta_reduce))

theorem State.noteSubStat_keeps {s : State} {key st f : Nat} {bad : Bool} (hk : Keeps pq s) :
    Keeps pq (State.noteSubStat s key st f bad) := by
  unfold State.noteSubStat
  with_reducible
    repeat' (first
      | assumption | simp only [keeps_mk, keeps_eta])

theorem State.finalStatus_keeps {d : Nat} {s : State} (hk : Keeps pq s) :
    Keeps pq (State.finalStatus d s) := by
  unfold State.finalStatus
  with_reducible
    repeat' (first
      | assumption | apply State.modDesc_keeps | apply State.noteSubStat_keeps | apply State.raise_keeps
      | apply keeps_ite | simp only [keeps_mk, keeps_eta] | split)

theorem State.finalStatuses_keeps {s : State} (hk : Keeps pq s) :
    Keeps pq (State.finalStatuses s) := by
  unfold State.finalStatuses
  with_reducible
    repeat' (first
      | assumption | apply State.forAll_keeps | apply State.finalStatus_keeps)

theorem State.truncMessages_keeps {s : State} (hk : Keeps pq s) :
    Keeps pq (State.truncMessages s) := by
  unfold State.truncMessages
  with_reducible
    repeat' (first
      | assumption | apply State.forAll_keeps | apply State.postStatus_keeps | apply State.setDescStatus_keeps
      | apply State.modQueue_keeps | apply keeps_ite | simp only [keeps_mk, keeps_eta] | (intro _ _ _; beta_reduce))

theorem State.queueIrq_keeps {s : State} {q : Nat} (hk : Keeps pq s) :
    Keeps pq (State.queueIrq s q) := by
  unfold State.queueIrq
  with_reducible
    repeat' (first
      | assumption | apply State.modQueue_keeps | apply State.sendMsix_keeps | apply keeps_ite)

theorem State.tickIrqs_keeps {s : State} (hk : Keeps pq s) :
    Keeps pq (State.tickIrqs s) := by
  unfold State.tickIrqs
  with_reducible
    repeat' (first
      | assumption | apply State.forAll_keeps | apply State.queueIrq_keeps | (intro _ _ _; beta_reduce))

theorem State.withdrawFrames_keeps {s : State} (hk : Keeps pq s) :
    Keeps pq (State.withdrawFrames s) := by
  unfold State.withdrawFrames
  with_reducible
    repeat' (first
      | assumption | apply State.forAll_keeps | apply State.ethWithdraw_keeps | apply State.canWithdraw_keeps
      | (intro _ _ _; beta_reduce))

theorem State.wrapGates_keeps {s : State} (hk : Keeps pq s) :
    Keeps pq (State.wrapGates s) := by
  unfold State.wrapGates
  with_reducible
    repeat' (first
      | assumption | simp only [keeps_mk, keeps_eta])

theorem State.switchTo_keeps {s : State} {k : Nat} (hk : Keeps pq s) :
    Keeps pq (State.switchTo s k) := by
  unfold State.switchTo
  with_reducible
    repeat' (first
      | assumption | apply State.modSlot_keeps | apply State.wantRedraft_keeps | apply keeps_ite
      | simp only [keeps_mk, keeps_eta])

theorem State.tickSwitch_keeps {s : State} {t : Nat} (hk : Keeps pq s) :
    Keeps pq (State.tickSwitch s t) := by
  unfold State.tickSwitch
  with_reducible
    repeat' (first
      | assumption | apply State.switchTo_keeps | apply State.raise_keeps | apply keeps_ite
      | simp only [keeps_mk, keeps_eta])

theorem State.clearWindows_keeps {s : State} {old : Nat} (hk : Keeps pq s) :
    Keeps pq (State.clearWindows s old) := by
  unfold State.clearWindows
  with_reducible
    repeat' (first
      | assumption | apply State.forAll_keeps | apply State.modRb_keeps | apply State.modPen_keeps | apply keeps_ite
      | (intro _ _ _; beta_reduce))

theorem State.penReturns_keeps {s : State} {p : Nat} (hk : Keeps pq s) :
    Keeps pq (State.penReturns s p) := by
  unfold State.penReturns
  with_reducible
    repeat' (first
      | assumption | apply State.modPen_keeps | apply State.setMirror_keeps | apply keeps_ite)

theorem State.returnPens_keeps {s : State} {all : Bool} (hk : Keeps pq s) :
    Keeps pq (State.returnPens s all) := by
  unfold State.returnPens
  with_reducible
    repeat' (first
      | assumption | apply State.forAll_keeps | apply State.penReturns_keeps | apply keeps_ite | split
      | (intro _ _ _; beta_reduce))

theorem State.applyShed_keeps {s : State} (hk : Keeps pq s) :
    Keeps pq (State.applyShed s) := by
  unfold State.applyShed
  with_reducible
    repeat' (first
      | assumption | apply State.forAll_keeps | apply State.raise_keeps | simp only [keeps_mk, keeps_eta]
      | (intro _ _ _; beta_reduce))

theorem State.tickRedraft_keeps {s : State} (hk : Keeps pq s) :
    Keeps pq (State.tickRedraft s) := by
  unfold State.tickRedraft
  with_reducible
    repeat' (first
      | assumption | simp only [keeps_mk, keeps_eta] | split)

theorem State.tickTrace_keeps {s : State} (hk : Keeps pq s) :
    Keeps pq (State.tickTrace s) := by
  unfold State.tickTrace
  with_reducible
    repeat' (first
      | assumption | apply keeps_ite | simp only [keeps_mk, keeps_eta] | split)

theorem State.tickTwin_keeps {s : State} (hk : Keeps pq s) :
    Keeps pq (State.tickTwin s) := by
  unfold State.tickTwin
  with_reducible
    repeat' (first
      | assumption | apply keeps_ite | simp only [keeps_mk, keeps_eta] | split)

theorem State.tickTrim_keeps {s : State} (hk : Keeps pq s) :
    Keeps pq (State.tickTrim s) := by
  unfold State.tickTrim
  with_reducible
    repeat' (first
      | assumption | apply keeps_ite | simp only [keeps_mk, keeps_eta])

theorem State.closeFolio_keeps {s : State} (hk : Keeps pq s) :
    Keeps pq (State.closeFolio s) := by
  unfold State.closeFolio
  with_reducible
    repeat' (first
      | assumption | apply State.forAll_keeps | apply State.killEnding_keeps | apply State.killRun_keeps
      | apply State.closeAll_keeps | apply State.closeTraces_keeps | apply State.truncMessages_keeps
      | apply State.withdrawFrames_keeps | apply State.finalStatuses_keeps | apply State.tickIrqs_keeps
      | simp only [keeps_mk, keeps_eta] | (intro _ _ _; beta_reduce))

theorem State.stopFolios_keeps {s : State} {dest : DevState} (hk : Keeps pq s) :
    Keeps pq (State.stopFolios s dest) := by
  unfold State.stopFolios
  with_reducible
    repeat' (first
      | assumption | apply State.safeOutputs_keeps | apply State.releaseActive_keeps | apply State.returnPens_keeps
      | simp only [keeps_mk, keeps_eta])

theorem State.endBackground_keeps {s : State} (hk : Keeps pq s) :
    Keeps pq (State.endBackground s) := by
  unfold State.endBackground
  with_reducible
    repeat' (first
      | assumption | apply State.finish_keeps | apply State.endPass_keeps | apply State.stopCmd_keeps
      | apply keeps_ite | simp only [keeps_mk, keeps_eta] | split)

theorem State.goDormant_keeps {s : State} {m : Nat} (hk : Keeps pq s) :
    Keeps pq (State.goDormant s m) := by
  unfold State.goDormant
  with_reducible
    repeat' (first
      | assumption | apply State.finish_keeps | simp only [keeps_mk, keeps_eta])

theorem State.stopTick_keeps {s : State} {w : Waiting} (hk : Keeps pq s) :
    Keeps pq (State.stopTick s w) := by
  unfold State.stopTick
  with_reducible
    repeat' (first
      | assumption | apply State.closeFolio_keeps | apply State.finish_keeps | apply State.dropWaiting_keeps
      | apply State.stopFolios_keeps | apply State.goDormant_keeps | apply State.endBackground_keeps
      | simp only [keeps_mk, keeps_eta] | split)

theorem State.endWaiting_keeps {s : State} (hk : Keeps pq s) :
    Keeps pq (State.endWaiting s) := by
  unfold State.endWaiting
  with_reducible
    repeat' (first
      | assumption | apply State.forAll_keeps | apply State.finish_keeps | apply State.dropWaiting_keeps
      | apply State.farewell_keeps | apply keeps_ite | simp only [keeps_mk, keeps_eta] | split
      | (intro _ _ _; beta_reduce))

theorem State.firstTick_keeps {s : State} {k : Nat} (hk : Keeps pq s) :
    Keeps pq (State.firstTick s k) := by
  unfold State.firstTick
  with_reducible
    repeat' (first
      | assumption | apply State.gpioSafe_keeps | apply State.wantRedraft_keeps | apply keeps_ite
      | simp only [keeps_mk, keeps_eta])

theorem State.numberFolio_keeps {s : State} (hk : Keeps pq s) :
    Keeps pq (State.numberFolio s) := by
  unfold State.numberFolio
  with_reducible
    repeat' (first
      | assumption | apply State.switchTo_keeps | apply keeps_ite | simp only [keeps_mk, keeps_eta] | split)

theorem State.beginFolio_keeps {s : State} (hk : Keeps pq s) :
    Keeps pq (State.beginFolio s) := by
  unfold State.beginFolio
  with_reducible
    repeat' (first
      | assumption | apply State.closeFolio_keeps | apply State.flushRecords_keeps | apply State.firstTick_keeps
      | apply State.numberFolio_keeps | apply State.tickTrace_keeps | apply State.tickSwitch_keeps
      | apply State.resetOwners_keeps | apply State.snapshotNew_keeps | apply State.wrapGates_keeps
      | apply State.clearWindows_keeps | apply State.returnPens_keeps | apply State.tickTwin_keeps
      | apply State.applyShed_keeps | apply State.tickRedraft_keeps | apply State.tickTrim_keeps
      | apply State.endWaiting_keeps | apply keeps_ite | simp only [keeps_mk, keeps_eta] | split)

theorem execFolioTick_keeps {s : State} (hk : Keeps pq s) :
    OutKeeps pq (execFolioTick s) := by
  unfold execFolioTick
  with_reducible
    repeat' (first
      | assumption | apply guarded_keeps | apply State.stopTick_keeps | apply State.beginFolio_keeps | split
      | (intro _ _; beta_reduce))

theorem State.scrubWindow_keeps {s : State} {mask len : Nat} {crcError : Bool} (hk : Keeps pq s) :
    Keeps pq (State.scrubWindow s mask len crcError) := by
  unfold State.scrubWindow
  with_reducible
    repeat' (first
      | assumption | apply State.raise_keeps | apply State.ruledScrub_keeps | apply keeps_ite)

theorem State.listWindow_keeps {s : State} {i : Nat} {l : RLine} (hk : Keeps pq s) :
    Keeps pq (State.listWindow s i l) := by
  unfold State.listWindow
  with_reducible
    repeat' (first
      | assumption | simp only [keeps_mk, keeps_eta])

theorem State.openWindow_keeps {s : State} {i : Nat} {l : RLine} {reach : Nat} {crcError : Bool} (hk : Keeps pq s) :
    Keeps pq (State.openWindow s i l reach crcError) := by
  unfold State.openWindow
  with_reducible
    repeat' (first
      | assumption | apply State.listWindow_keeps | apply State.publishWindow_keeps | apply State.traceWindow_keeps
      | apply State.scrubWindow_keeps | apply keeps_ite | simp only [keeps_mk, keeps_eta] | split)

theorem State.closeWindow_keeps {s : State} {w : Win} (hk : Keeps pq s) :
    Keeps pq (State.closeWindow s w) := by
  unfold State.closeWindow
  with_reducible
    repeat' (first
      | assumption | apply State.traceEnds_keeps | apply keeps_ite | simp only [keeps_mk, keeps_eta])

theorem State.killLate_keeps {s : State} (hk : Keeps pq s) :
    Keeps pq (State.killLate s) := by
  unfold State.killLate
  with_reducible
    repeat' (first
      | assumption | apply State.forAll_keeps | apply State.budgetEnd_keeps | (intro _ _ _; beta_reduce))

theorem State.closeDue_keeps {s : State} (hk : Keeps pq s) :
    Keeps pq (State.closeDue s) := by
  unfold State.closeDue
  with_reducible
    repeat' (first
      | assumption | apply State.forAll_keeps | apply State.closeWindow_keeps | (intro _ _ _; beta_reduce))

theorem State.handLine_keeps {i : Nat} {s : State} (hk : Keeps pq s) :
    Keeps pq (State.handLine i s) := by
  unfold State.handLine
  with_reducible
    repeat' (first
      | assumption | apply State.handOnce_keeps | apply keeps_ite | simp only [keeps_mk, keeps_eta] | split)

theorem State.boundary_keeps {s : State} (hk : Keeps pq s) :
    Keeps pq (State.boundary s) := by
  unfold State.boundary
  with_reducible
    repeat' (first
      | assumption | apply State.forAll_keeps | apply State.closeDue_keeps | apply State.killLate_keeps
      | apply State.handLine_keeps)

theorem State.readLine_keeps {s : State} {i : Nat} (hk : Keeps pq s) :
    Keeps pq (State.readLine s i).2 := by
  unfold State.readLine
  with_reducible
    repeat' (first
      | assumption | apply State.storeReads_keeps)

theorem State.play_keeps {s : State} {i : Nat} {due : State → Bool} {f : RLine → State → State} (hk : Keeps pq s)
    (hf : ∀ l t, Keeps pq t → Keeps pq (f l t)) :
    Keeps pq (State.play s i due f) := by
  have h : Keeps pq (s.boundary.readLine i).2 := State.readLine_keeps (State.boundary_keeps hk)
  unfold State.play
  dsimp only
  split
  · split
    · exact hf _ _ h
    · exact h
  · exact h

theorem State.runStart_keeps {i : Nat} {l : RLine} {s : State} (hk : Keeps pq s) :
    Keeps pq (State.runStart i l s) := by
  unfold State.runStart
  with_reducible
    repeat' (first
      | assumption | apply State.startLigature_keeps | apply State.startOn_keeps | apply State.toColumn_keeps
      | apply keeps_ite | simp only [keeps_mk, keeps_eta])

theorem execRunStart_keeps {line : LineN} {s : State} (hk : Keeps pq s) :
    OutKeeps pq (execRunStart line s) := by
  unfold execRunStart
  with_reducible
    repeat' (first
      | assumption | apply guarded_keeps | apply State.play_keeps | apply State.runStart_keeps
      | (intro _ _; beta_reduce))

theorem State.recoveryStart_keeps {i : Nat} {l : RLine} {s : State} (hk : Keeps pq s) :
    Keeps pq (State.recoveryStart i l s) := by
  unfold State.recoveryStart
  with_reducible
    repeat' (first
      | assumption | apply State.startOn_keeps | apply State.raise_keeps | apply keeps_ite
      | simp only [keeps_mk, keeps_eta] | split)

theorem execRecoveryRunStart_keeps {line : LineN} {s : State} (hk : Keeps pq s) :
    OutKeeps pq (execRecoveryRunStart line s) := by
  unfold execRecoveryRunStart
  with_reducible
    repeat' (first
      | assumption | apply guarded_keeps | apply State.play_keeps | apply State.recoveryStart_keeps
      | (intro _ _; beta_reduce))

theorem execWindowOpen_keeps {line : LineN} {reach : Nat} {crcError : Bool} {s : State} (hk : Keeps pq s) :
    OutKeeps pq (execWindowOpen line reach crcError s) := by
  unfold execWindowOpen
  with_reducible
    repeat' (first
      | assumption | apply guarded_keeps | apply State.play_keeps | apply State.openWindow_keeps
      | (intro _ _ _; beta_reduce) | (intro _ _; beta_reduce))

theorem State.closeNow_keeps {s : State} {w : Win} (hk : Keeps pq s) :
    Keeps pq (State.closeNow s w) := by
  unfold State.closeNow
  with_reducible
    repeat' (first
      | assumption | apply State.killLate_keeps | apply State.closeWindow_keeps | apply keeps_ite)

theorem execWindowClose_keeps {line : LineN} {s : State} (hk : Keeps pq s) :
    OutKeeps pq (execWindowClose line s) := by
  unfold execWindowClose
  with_reducible
    repeat' (first
      | assumption | apply answer_keeps | apply State.closeNow_keeps | split)

theorem State.restorePut_keeps {s : State} {cpa : Nat} {w : TWord} (hk : Keeps pq s) :
    Keeps pq (State.restorePut s cpa w) := by
  unfold State.restorePut
  with_reducible
    repeat' (first
      | assumption | apply foldl_keeps | apply State.poke_keeps | apply keeps_ite | (intro _ _ _; beta_reduce))

theorem State.restoreWord_keeps {cpa : Nat} {s : State} (hk : Keeps pq s) :
    Keeps pq (State.restoreWord cpa s) := by
  unfold State.restoreWord
  with_reducible
    repeat' (first
      | assumption | apply State.noteCe_keeps | apply State.restorePut_keeps | apply State.freePoison_keeps
      | apply State.noteUe_keeps | apply State.noteAddr_keeps | simp only [keeps_mk, keeps_eta] | split)

theorem State.restoreRow_keeps {s : State} {base : Nat} (hk : Keeps pq s) :
    Keeps pq (State.restoreRow s base) := by
  unfold State.restoreRow
  with_reducible
    repeat' (first
      | assumption | apply State.forAll_keeps | apply State.restoreWord_keeps)

theorem State.marchGood_keeps {s : State} {b : Bank} {row : Nat} (hk : Keeps pq s) :
    Keeps pq (State.marchGood s b row) := by
  unfold State.marchGood
  with_reducible
    repeat' (first
      | assumption | apply State.endMarch_keeps | apply keeps_ite | simp only [keeps_mk, keeps_eta] | split)

theorem State.marchFail_keeps {s : State} {b : Bank} {row : Nat} (hk : Keeps pq s) :
    Keeps pq (State.marchFail s b row) := by
  unfold State.marchFail
  with_reducible
    repeat' (first
      | assumption | apply State.raise_keeps | apply State.endMarch_keeps | simp only [keeps_mk, keeps_eta] | split)

theorem State.marchYield_keeps {s : State} {b : Bank} {row : Nat} (hk : Keeps pq s) :
    Keeps pq (State.marchYield s b row) := by
  unfold State.marchYield
  with_reducible
    repeat' (first
      | assumption | apply State.modPen_keeps | simp only [keeps_mk, keeps_eta] | split)

theorem State.marchFabric_keeps {s : State} {b : Bank} (hk : Keeps pq s) :
    Keeps pq (State.marchFabric s b) := by
  unfold State.marchFabric
  with_reducible
    repeat' (first
      | assumption | apply State.raise_keeps | apply State.endMarch_keeps | simp only [keeps_mk, keeps_eta] | split)

theorem State.marchSegment_keeps {s : State} {b : Bank} {row : Nat} {o : MarchOutcome} (hk : Keeps pq s) :
    Keeps pq (State.marchSegment s b row o) := by
  unfold State.marchSegment
  with_reducible
    repeat' (first
      | assumption | apply State.restoreRow_keeps | apply State.marchGood_keeps | apply State.marchFail_keeps
      | apply State.marchYield_keeps | apply State.marchFabric_keeps | simp only [keeps_mk, keeps_eta] | split)

theorem execMarchSegment_keeps {bank : Bank} {row : Fin 2048} {o : MarchOutcome} {s : State} (hk : Keeps pq s) :
    OutKeeps pq (execMarchSegment bank row o s) := by
  unfold execMarchSegment
  with_reducible
    repeat' (first
      | assumption | apply guarded_keeps | apply State.marchSegment_keeps | (intro _ _; beta_reduce))

theorem State.takePort_keeps {s : State} {p : Nat} (hk : Keeps pq s) :
    Keeps pq (State.takePort s p) := by
  unfold State.takePort
  with_reducible
    repeat' (first
      | assumption | apply State.modPen_keeps | simp only [keeps_mk, keeps_eta])

theorem State.untested_keeps {s : State} {p : Nat} (hk : Keeps pq s) :
    Keeps pq (State.untested s p) := by
  unfold State.untested
  with_reducible
    repeat' (first
      | assumption | apply raised_keeps | apply State.fencePen_keeps | apply State.raise_keeps)

theorem State.selftestStart_keeps {s : State} {p : Nat} (hk : Keeps pq s) :
    Keeps pq (State.selftestStart s p) := by
  unfold State.selftestStart
  with_reducible
    repeat' (first
      | assumption | apply State.untested_keeps | apply State.takePort_keeps | apply State.modPen_keeps
      | apply keeps_ite | simp only [keeps_mk, keeps_eta])

theorem execSelftestStart_keeps {p : PenN} {s : State} (hk : Keeps pq s) :
    OutKeeps pq (execSelftestStart p s) := by
  unfold execSelftestStart
  with_reducible
    repeat' (first
      | assumption | apply guarded_keeps | apply State.selftestStart_keeps | (intro _ _; beta_reduce))

theorem State.testPass_keeps {s : State} {p : Nat} (hk : Keeps pq s) :
    Keeps pq (State.testPass s p) := by
  unfold State.testPass
  with_reducible
    repeat' (first
      | assumption | apply State.freeBlotter_keeps | apply State.toService_keeps | apply State.modPen_keeps
      | apply State.penReturns_keeps | apply State.raise_keeps | apply keeps_ite)

theorem execSelftestVerdict_keeps {p : PenN} {v : Verdict} {s : State} (hk : Keeps pq s) :
    OutKeeps pq (execSelftestVerdict p v s) := by
  unfold execSelftestVerdict
  with_reducible
    repeat' (first
      | assumption | apply guarded_keeps | apply raised_keeps | apply State.testPass_keeps
      | apply State.fencePen_keeps | apply State.untested_keeps | split | (intro _ _; beta_reduce))

theorem State.mirrorWord_keeps {src dst : Nat} {s : State} (hk : Keeps pq s) :
    Keeps pq (State.mirrorWord src dst s) := by
  unfold State.mirrorWord
  with_reducible
    repeat' (first
      | assumption | apply State.poke_keeps | apply State.noteCe_keeps | apply State.noteUe_keeps
      | apply State.noteAddr_keeps | split)

theorem State.mirrorCopy_keeps {s : State} {p : Nat} {pages : List Nat} (hk : Keeps pq s) :
    Keeps pq (State.mirrorCopy s p pages) := by
  unfold State.mirrorCopy
  with_reducible
    repeat' (first
      | assumption | apply State.forAll_keeps | apply State.mirrorWord_keeps | (intro _ _ _; beta_reduce))

theorem State.resilverDone_keeps {s : State} {p : Nat} (hk : Keeps pq s) :
    Keeps pq (State.resilverDone s p) := by
  unfold State.resilverDone
  with_reducible
    repeat' (first
      | assumption | apply State.modPen_keeps | apply State.mirrorCopy_keeps | apply State.penReturns_keeps
      | apply keeps_ite | simp only [keeps_mk, keeps_eta])

theorem execResilverComplete_keeps {p : PenN} {s : State} (hk : Keeps pq s) :
    OutKeeps pq (execResilverComplete p s) := by
  unfold execResilverComplete
  with_reducible
    repeat' (first
      | assumption | apply guarded_keeps | apply State.resilverDone_keeps | (intro _ _; beta_reduce))

theorem execRulingStoreScrub_keeps {index : Fin 147456} {s : State} (hk : Keeps pq s) :
    OutKeeps pq (execRulingStoreScrub index s) := by
  unfold execRulingStoreScrub
  with_reducible
    repeat' (first
      | assumption | apply guarded_keeps | apply State.storeScrub_keeps | (intro _ _; beta_reduce))

theorem execBlotScrubStart_keeps {s : State} (hk : Keeps pq s) :
    OutKeeps pq (execBlotScrubStart s) := by
  unfold execBlotScrubStart
  with_reducible
    repeat' (first
      | assumption | apply guarded_keeps | apply State.scrubStart_keeps | (intro _ _; beta_reduce))

theorem execBlotScrubAbort_keeps {s : State} (hk : Keeps pq s) :
    OutKeeps pq (execBlotScrubAbort s) := by
  unfold execBlotScrubAbort
  with_reducible
    repeat' (first
      | assumption | apply guarded_keeps | apply State.scrubAbort_keeps)

theorem State.passEnd_keeps {s : State} {e : ScrubEnd} (hk : Keeps pq s) :
    Keeps pq (State.passEnd s e) := by
  unfold State.passEnd
  with_reducible
    repeat' (first
      | assumption | apply State.endPass_keeps | apply State.raise_keeps | apply State.finish_keeps | apply keeps_ite
      | simp only [keeps_mk, keeps_eta] | split)

theorem execScrubPassEnd_keeps {e : ScrubEnd} {s : State} (hk : Keeps pq s) :
    OutKeeps pq (execScrubPassEnd e s) := by
  unfold execScrubPassEnd
  with_reducible
    repeat' (first
      | assumption | apply guarded_keeps | apply State.passEnd_keeps | (intro _ _; beta_reduce))

theorem execBlotMlClear_keeps {s : State} (hk : Keeps pq s) :
    OutKeeps pq (execBlotMlClear s) := by
  unfold execBlotMlClear
  with_reducible
    repeat' (first
      | assumption | apply guarded_keeps | apply State.mlClear_keeps)

theorem execCheckerInjectWrite_keeps {bank : Bank} {w : TWord} {s : State} (hk : Keeps pq s) :
    OutKeeps pq (execCheckerInjectWrite bank w s) := by
  unfold execCheckerInjectWrite
  with_reducible
    repeat' (first
      | assumption | apply guarded_keeps | apply State.huvasStore_keeps | (intro _ _; beta_reduce))

theorem State.penFilled_keeps {s : State} {p : Nat} (hk : Keeps pq s) :
    Keeps pq (State.penFilled s p) := by
  unfold State.penFilled
  with_reducible
    repeat' (first
      | assumption | apply State.toService_keeps | apply keeps_ite)

theorem State.powerDone_keeps {s : State} (hk : Keeps pq s) :
    Keeps pq (State.powerDone s) := by
  unfold State.powerDone
  with_reducible
    repeat' (first
      | assumption | apply State.forAll_keeps | apply State.finish_keeps | apply State.dropWaiting_keeps
      | apply keeps_ite | split | (intro _ _ _; beta_reduce))

theorem State.bankFilled_keeps {s : State} {b : Bank} (hk : Keeps pq s) :
    Keeps pq (State.bankFilled s b) := by
  unfold State.bankFilled
  with_reducible
    repeat' (first
      | assumption | apply State.fillRange_keeps | apply State.modPen_keeps | apply State.powerDone_keeps
      | apply State.penFilled_keeps | apply State.modRsv_keeps | simp only [keeps_mk, keeps_eta] | split)

theorem execBankFillDone_keeps {b : Bank} {s : State} (hk : Keeps pq s) :
    OutKeeps pq (execBankFillDone b s) := by
  unfold execBankFillDone
  with_reducible
    repeat' (first
      | assumption | apply guarded_keeps | apply State.bankFilled_keeps | (intro _ _; beta_reduce))

theorem State.redraftCompute_keeps {s : State} {f : Frozen} (hk : Keeps pq s) :
    Keeps pq (State.redraftCompute s f) := by
  unfold State.redraftCompute
  with_reducible
    repeat' (first
      | assumption | apply State.raise_keeps | apply State.raiseAll_keeps | simp only [keeps_mk, keeps_eta] | split)

theorem execRedraftCompute_keeps {s : State} (hk : Keeps pq s) :
    OutKeeps pq (execRedraftCompute s) := by
  unfold execRedraftCompute
  with_reducible
    repeat' (first
      | assumption | apply answer_keeps | apply State.redraftCompute_keeps | split)

end Sys2Proof.Machine
end

