-- ==== Sys2Proof/Laws/KeepsPens.lean ====
section
/-! SUPPORT. That pens (accesses, faults, exceptions, every instruction), time and train I/O keep the queue of waiting commands and the canonical form of the two memories. -/

set_option linter.unusedSimpArgs false
set_option linter.unusedTactic false

namespace Sys2Proof.Machine

variable {pq : List Instr}

theorem State.fetchBlock_keeps {s : State} {p : Nat} {r : Run} {cpa : Nat} (hk : Keeps pq s) :
    Keeps pq (State.fetchBlock s p r cpa) := by
  unfold State.fetchBlock
  with_reducible
    repeat' (first
      | assumption | apply State.readRun_keeps | apply State.modPen_keeps)

/-- What a fetch leaves keeps. -/
def FetchKeeps (q : List Instr) : FetchOut → Prop
  | .served s | .bus _ s => Keeps q s
  | .untranslated => True

theorem State.fetch_keeps {s : State} {p : Nat} {r : Run} {paired : Bool} (hk : Keeps pq s) :
    FetchKeeps pq (State.fetch s p r paired) := by
  have hs : ∀ t, Keeps pq t → FetchKeeps pq (if (t.pen p).codeWord.isSome then .served t else .bus 0x02 t) := by
    intro t ht; split <;> exact ht
  unfold State.fetch
  dsimp only
  split
  · exact hs s hk
  · split
    · exact True.intro
    · exact True.intro
    · split
      · exact hk
      · exact hs _ (State.fetchBlock_keeps hk)

theorem OptKeeps.map {q : List Instr} {o : Option State} {f : State → State} (h : OptKeeps q o)
    (hf : ∀ t, Keeps q t → Keeps q (f t)) : OptKeeps q (o.map f) := by
  cases o with
  | none => exact optKeeps_none
  | some t => exact optKeeps_some (hf t (h t rfl))

theorem State.admit_keeps {s : State} {p : Nat} {paired : Bool} (hk : Keeps pq s) :
    OptKeeps pq (State.admitted s p paired) := by
  unfold State.admitted
  split
  · exact optKeeps_some hk
  all_goals
    split
    · exact optKeeps_none
    · split
      · exact optKeeps_none
      · rename_i r _
        have h : FetchKeeps pq (s.fetch p r paired) := State.fetch_keeps hk
        generalize s.fetch p r paired = x at h
        cases x with
        | served t => exact optKeeps_some h
        | bus b t => exact optKeeps_none
        | untranslated => exact optKeeps_none

theorem Res.ofExcept_keeps {α : Type} {x : Except Exc α} {s : State} (hk : Keeps pq s) : ResKeeps pq
    (Res.ofExcept x s) := by
  cases x <;> exact hk

theorem State.staleRequest_keeps {s : State} {cpa : Nat} (hk : Keeps pq s) :
    Keeps pq (State.staleRequest s cpa) := by
  unfold State.staleRequest
  with_reducible
    repeat' (first
      | assumption | apply State.raise_keeps | apply State.modRsv_keeps)

theorem State.markBad_keeps {s : State} {p line a : Nat} (hk : Keeps pq s) :
    Keeps pq (State.markBad s p line a) := by
  unfold State.markBad
  with_reducible
    repeat' (first
      | assumption | apply State.noteBad_keeps | apply State.modPen_keeps)

theorem State.performHalf_keeps {s : State} {p home line : Nat} {h : SbHalf} (hk : Keeps pq s) :
    Keeps pq (State.performHalf s p home line h) := by
  unfold State.performHalf
  with_reducible
    repeat' (first
      | assumption | apply foldl_keeps | apply OptKeeps.getD | apply State.regWrite_keeps
      | apply State.staleRequest_keeps | apply State.markBad_keeps | apply State.poke_keeps
      | apply State.mergeWord_keeps | apply keeps_ite | split | (intro _ _ _; beta_reduce))

theorem State.drainOne_keeps {s : State} {p : Nat} (hk : Keeps pq s) :
    Keeps pq (State.drainOne s p) := by
  unfold State.drainOne
  with_reducible
    repeat' (first
      | assumption | apply State.forAll_keeps | apply State.modPen_keeps | apply State.markBad_keeps
      | apply State.performHalf_keeps | simp only [keeps_mk, keeps_eta] | split | (intro _ _ _; beta_reduce))

theorem State.drainN_keeps {n p : Nat} {s : State} (hk : Keeps pq s) :
    Keeps pq (State.drainN n p s) := by
  induction n generalizing s with
  | zero => exact hk
  | succ n ih => exact ih (State.drainOne_keeps hk)

theorem State.drainAll_keeps {s : State} {p : Nat} (hk : Keeps pq s) :
    Keeps pq (State.drainAll s p) := by
  unfold State.drainAll
  with_reducible
    repeat' (first
      | assumption | apply State.drainN_keeps)

theorem State.arrive_keeps {f : Flight} {s : State} (hk : Keeps pq s) :
    Keeps pq (State.arrive f s) := by
  unfold State.arrive
  with_reducible
    repeat' (first
      | assumption | apply State.performHalf_keeps | apply State.staleRequest_keeps | apply keeps_ite
      | simp only [keeps_mk, keeps_eta] | split)

theorem State.arriveTo_keeps {s : State} {p n : Nat} (hk : Keeps pq s) :
    Keeps pq (State.arriveTo s p n) := by
  unfold State.arriveTo
  with_reducible
    repeat' (first
      | assumption | apply State.forAll_keeps | apply State.arrive_keeps)

theorem State.arriveDue_keeps {s : State} (hk : Keeps pq s) :
    Keeps pq (State.arriveDue s) := by
  unfold State.arriveDue
  with_reducible
    repeat' (first
      | assumption | apply State.forAll_keeps | apply State.arrive_keeps)

theorem State.settleAll_keeps {s : State} {p : Nat} (hk : Keeps pq s) :
    Keeps pq (State.settleAll s p) := by
  unfold State.settleAll
  with_reducible
    repeat' (first
      | assumption | apply State.arriveTo_keeps | apply State.drainAll_keeps)

theorem State.makeRoom_keeps {f p n : Nat} {s : State} (hk : Keeps pq s) :
    Keeps pq (State.makeRoom f p n s) := by
  induction f generalizing s with
  | zero => exact hk
  | succ f ih =>
    unfold State.makeRoom
    split
    · exact hk
    · exact ih (State.drainOne_keeps hk)

theorem State.pushStore_keeps {s : State} {p : Nat} {e : SbEntry} (hk : Keeps pq s) :
    Keeps pq (State.pushStore s p e) := by
  unfold State.pushStore
  with_reducible
    repeat' (first
      | assumption | apply State.modPen_keeps | apply State.makeRoom_keeps)

theorem State.wroteTo_keeps {s : State} {c : Ctx} {h : Half} (hk : Keeps pq s) :
    Keeps pq (State.wroteTo s c h) := by
  unfold State.wroteTo
  with_reducible
    repeat' (first
      | assumption | apply State.noteWrote_keeps | apply State.postD_keeps)

theorem State.resolve_keeps {s : State} {c : Ctx} {i : Instr} {kind : Access} {va : Word} {second : Bool}
    (hk : Keeps pq s) :
    ResKeeps pq (State.resolve s c i kind va second) := by
  unfold State.resolve
  with_reducible
    repeat' (first
      | assumption | apply resKeeps_ok | apply resKeeps_exc | apply resKeeps_hold | apply State.noteTFault_keeps
      | split)

theorem State.firstWrite_keeps {s : State} {c : Ctx} {i : Instr} {h : Half} (hk : Keeps pq s) :
    ResKeeps pq (State.firstWrite s c i h) := by
  unfold State.firstWrite
  with_reducible
    repeat' (first
      | assumption | apply resKeeps_ok | apply resKeeps_exc | apply resKeeps_hold | apply resKeeps_wait
      | apply State.modVslot_keeps | apply State.postD2_keeps | split)

theorem State.readBank_keeps {s : State} {c : Ctx} {h : Half} {write : Bool} (hk : Keeps pq s) :
    ResKeeps pq (State.readBank s c h write) := by
  unfold State.readBank
  with_reducible
    repeat' (first
      | assumption | apply resKeeps_ok | apply resKeeps_exc | apply State.readRun_keeps
      | simp only [keeps_mk, keeps_eta] | split)

theorem State.readChecked_keeps {s : State} {c : Ctx} {lig : Bool} {n : Need} {h : Half} {rd : Res TWord}
    {chk : TWord → Except Exc Unit} (hk : Keeps pq s) (hr : ResKeeps pq rd) :
    ResKeeps pq (State.readChecked s c lig n h rd chk) := by
  unfold State.readChecked
  split
  · exact Res.bind_keeps hr (fun w t ht => by split <;> exact ht)
  · split
    · cases rd with
      | ok w t => dsimp only; split <;> exact hr
      | exc e t => exact hk
      | hold x t => exact hk
      | wait => exact hk
    · exact hk

theorem State.recordFault_keeps {s : State} {p cause groups line : Nat} (hk : Keeps pq s) :
    Keeps pq (State.recordFault s p cause groups line) := by
  unfold State.recordFault
  with_reducible
    repeat' (first
      | assumption | apply State.modPen_keeps)

theorem State.stopEnding_keeps {s : State} {p : Nat} (hk : Keeps pq s) :
    Keeps pq (State.stopEnding s p).1 := by
  unfold State.stopEnding
  with_reducible
    repeat' (first
      | assumption | apply State.modPen_keeps | apply State.loseRun_keeps | apply State.killEnding_keeps
      | simp only [keeps_mk, keeps_eta] | split)

theorem State.stopRun_keeps {s : State} {p : Nat} (hk : Keeps pq s) :
    Keeps pq (State.stopRun s p).1 := by
  unfold State.stopRun
  with_reducible
    repeat' (first
      | assumption | apply State.loseRun_keeps | apply State.killRun_keeps | apply State.leavePair_keeps | split)

theorem State.afterStop_keeps {s : State} {p : Nat} (hk : Keeps pq s) :
    Keeps pq (State.afterStop s p).1 := by
  unfold State.afterStop
  with_reducible
    repeat' (first
      | assumption | apply State.fencePen_keeps | apply State.modPen_keeps | simp only [keeps_mk, keeps_eta] | split)

theorem State.recallIpis_keeps {s : State} {p : Nat} (hk : Keeps pq s) :
    Keeps pq (State.recallIpis s p) := by
  unfold State.recallIpis
  with_reducible
    repeat' (first
      | assumption | simp only [keeps_mk, keeps_eta])

theorem State.stopPen_keeps {s : State} {p cause groups : Nat} (hk : Keeps pq s) :
    Keeps pq (State.stopPen s p cause groups).1 := by
  unfold State.stopPen
  with_reducible
    repeat' (first
      | assumption | apply State.stopEnding_keeps | apply State.recordFault_keeps | apply State.recallIpis_keeps
      | apply State.stopRun_keeps | apply State.modPen_keeps | apply State.fencePair_keeps | apply keeps_ite
      | apply State.afterStop_keeps | simp only [keeps_mk, keeps_eta] | split)

theorem State.stopPair_keeps {s : State} {e : Nat} {r : Run} {a b : Nat × Nat} {ev : List Event} (hk : Keeps pq s) :
    Keeps pq (State.stopPair s e r a b ev).1 := by
  unfold State.stopPair
  with_reducible
    repeat' (first
      | assumption | apply State.killEnding_keeps | apply State.killRun_keeps | apply State.recallIpis_keeps | apply State.stopRun_keeps
      | apply State.afterStop_keeps | apply State.modPen_keeps | apply State.recordFault_keeps | apply keeps_ite)

theorem State.crossStop_keeps {s : State} {e : Nat} {r : Run} (hk : Keeps pq s) :
    Keeps pq (State.crossStop s e r).1 := by
  unfold State.crossStop
  with_reducible
    repeat' (first
      | assumption | apply State.stopPair_keeps)

theorem State.bothStop_keeps {s : State} {e : Nat} {r : Run} {a b : Nat × Nat} (hk : Keeps pq s) :
    Keeps pq (State.bothStop s e r a b).1 := by
  unfold State.bothStop
  with_reducible
    repeat' (first
      | assumption | apply State.stopPair_keeps)

theorem State.draftCopy_keeps {s : State} {p slot : Nat} {r : Run} (hk : Keeps pq s) :
    Keeps pq (State.draftCopy s p slot r) := by
  unfold State.draftCopy
  with_reducible
    repeat' (first
      | assumption | apply foldl_keeps | apply State.modVslot_keeps | apply State.noteFirst_keeps
      | apply State.modPen_keeps | apply State.noteWrote_keeps | apply State.copyWords_keeps
      | (intro _ _ _; beta_reduce))

theorem State.readVector_keeps {s : State} {p v : Nat} (hk : Keeps pq s) :
    Keeps pq (State.readVector s p v).2 := by
  unfold State.readVector
  with_reducible
    repeat' (first
      | assumption | apply State.readRun_keeps | simp only [keeps_mk, keeps_eta] | split)

theorem State.xlatWalk_keeps {s : State} {c : Ctx} {va : Word} {kind : Access} (hk : Keeps pq s) :
    Keeps pq (State.xlatWalk s c va kind).2 := by
  unfold State.xlatWalk
  with_reducible
    repeat' (first
      | assumption | apply State.noteTFault_keeps | apply State.walkFor_keeps | apply State.arriveTo_keeps
      | simp only [keeps_mk, keeps_eta] | split)

theorem State.frameWord_keeps {s : State} {c : Ctx} {lig : Bool} {fresh : List Nat} {va sp : Word} (hk : Keeps pq s) :
    Keeps pq (State.frameWord s c lig fresh va sp).2 := by
  unfold State.frameWord
  with_reducible
    repeat' (first
      | assumption | apply State.xlatWalk_keeps | simp only [keeps_mk, keeps_eta] | split)

theorem State.stackCheck_keeps {s : State} {p : Nat} {r : Run} (hk : Keeps pq s) :
    Keeps pq (State.stackCheck s p r).2 := by
  unfold State.stackCheck
  with_reducible
    repeat' (first
      | assumption | apply State.frameWord_keeps | simp only [keeps_mk, keeps_eta] | split)

theorem State.pushWord_keeps {s : State} {p : Nat} {e : TlbEntry} {va : Word} {w : TWord} (hk : Keeps pq s) :
    Keeps pq (State.pushWord s p e va w) := by
  unfold State.pushWord
  with_reducible
    repeat' (first
      | assumption | apply State.draftCopy_keeps | apply State.wroteTo_keeps | apply State.pushStore_keeps
      | apply keeps_ite | simp only [keeps_mk, keeps_eta] | split)

theorem State.pushFrame_keeps {s : State} {p : Nat} {lo hi : TlbEntry} {ret stat : Word} (hk : Keeps pq s) :
    Keeps pq (State.pushFrame s p lo hi ret stat) := by
  unfold State.pushFrame
  with_reducible
    repeat' (first
      | assumption | apply State.pushWord_keeps | apply State.modPen_keeps)

theorem State.countEntry_keeps {s : State} {p : Nat} {fly : Bool} (hk : Keeps pq s) :
    Keeps pq (State.countEntry s p fly) := by
  unfold State.countEntry
  with_reducible
    repeat' (first
      | assumption | apply State.modRun_keeps)

theorem State.flyStop_keeps {s : State} {p : Nat} {r : Run} (hk : Keeps pq s) :
    Keeps pq (State.flyStop s p r) := by
  unfold State.flyStop
  with_reducible
    repeat' (first
      | assumption | apply raised_keeps | apply State.bothStop_keeps | apply State.stopPen_keeps | split)

theorem State.flyBad_keeps {s : State} {q : Nat} (hk : Keeps pq s) :
    Keeps pq (State.flyBad s q).2 := by
  unfold State.flyBad
  with_reducible
    repeat' (first
      | assumption | apply State.forAll_keeps | apply State.readWord_keeps | apply State.noteBad_keeps
      | (intro _ _ _; beta_reduce))

theorem State.flyGo_keeps {s : State} {p : Nat} {y : FlyWhy} {ret stat : Word} (hk : Keeps pq s) :
    Keeps pq (State.flyGo s p y ret stat) := by
  unfold State.flyGo
  with_reducible
    repeat' (first
      | assumption | apply foldl_keeps | apply State.noteWrote_keeps | apply State.poke_keeps
      | apply State.modPen_keeps | apply State.countEntry_keeps | simp only [keeps_mk, keeps_eta] | split
      | (intro _ _ _; beta_reduce))

theorem State.flyEntry_keeps {s : State} {p : Nat} {r : Run} {y : FlyWhy} {ret stat : Word} (hk : Keeps pq s) :
    Keeps pq (State.flyEntry s p r y ret stat) := by
  have h : Keeps pq ((runPens p r).foldl (fun (x : List Nat × State) q =>
      let b := x.2.flyBad q
      (if b.1 then x.1 ++ [q] else x.1, b.2)) ([], s.drainAll p)).2 :=
    foldl_snd_keeps (fun y a hy => State.flyBad_keeps hy) (State.drainAll_keeps hk)
  unfold State.flyEntry
  split
  · exact State.flyStop_keeps hk
  · dsimp only at h ⊢
    generalize (runPens p r).foldl _ _ = x at h
    split
    · exact State.flyGo_keeps h
    · split
      · exact State.flyGo_keeps (raised_keeps (State.stopPen_keeps h))
      · exact State.flyStop_keeps h
    · exact State.flyStop_keeps h

theorem State.enter_keeps {s : State} {p : Nat} {r : Run} {e : Exc} {level : Nat} {ret : Word} {rs : Bool}
    (hk : Keeps pq s) :
    OptKeeps pq (State.enter s p r e level ret rs) := by
  unfold State.enter
  with_reducible
    repeat' (first
      | assumption | apply optKeeps_some | apply optKeeps_none | apply State.flyStop_keeps
      | apply State.readVector_keeps | apply State.countEntry_keeps | apply State.modPen_keeps
      | apply State.flyEntry_keeps | apply State.stackCheck_keeps | apply State.pushFrame_keeps
      | simp only [keeps_mk, keeps_eta] | split)

theorem State.takeExc_keeps {s : State} {p : Nat} {e : Exc} {rs : optParam Bool false} (hk : Keeps pq s) :
    OptKeeps pq (State.takeExc s p e rs) := by
  unfold State.takeExc
  with_reducible
    repeat' (first
      | assumption | apply optKeeps_some | apply State.enter_keeps | simp only [keeps_mk, keeps_eta] | split)

theorem State.acceptIrq_keeps {s : State} {p : Nat} {rs : Bool} (hk : Keeps pq s) :
    OptKeeps pq (State.acceptIrq s p rs) := by
  unfold State.acceptIrq
  with_reducible
    repeat' (first
      | assumption | apply optKeeps_none | apply State.modPen_keeps | apply State.enter_keeps
      | simp only [keeps_mk, keeps_eta] | split)

theorem State.interrupt_keeps {s : State} {p : Nat} (hk : Keeps pq s) :
    Keeps pq (State.interrupt s p) := by
  unfold State.interrupt
  with_reducible
    repeat' (first
      | assumption | apply OptKeeps.getD | apply State.modPen_keeps | apply State.dropCopy_keeps
      | apply State.acceptIrq_keeps)

theorem execInterruptEntry_keeps {p : PenN} {s : State} (hk : Keeps pq s) :
    OutKeeps pq (execInterruptEntry p s) := by
  unfold execInterruptEntry
  with_reducible
    repeat' (first
      | assumption | apply guarded_keeps | apply State.interrupt_keeps | (intro _ _; beta_reduce))

theorem State.ipiArrive_keeps {s : State} {f : IpiFly} (hk : Keeps pq s) :
    Keeps pq (State.ipiArrive s f) := by
  unfold State.ipiArrive
  with_reducible
    repeat' (first
      | assumption | apply State.modPen_keeps | apply keeps_ite | simp only [keeps_mk, keeps_eta])

theorem execIpiArrive_keeps {p : PenN} {level : BitVec 3} {s : State} (hk : Keeps pq s) :
    OutKeeps pq (execIpiArrive p level s) := by
  unfold execIpiArrive
  with_reducible
    repeat' (first
      | assumption | apply guarded_keeps | apply State.ipiArrive_keeps | split | (intro _ _; beta_reduce))

theorem State.disarmPen_keeps {s : State} {p cause : Nat} (hk : Keeps pq s) :
    Keeps pq (State.disarmPen s p cause) := by
  unfold State.disarmPen
  with_reducible
    repeat' (first
      | assumption | apply State.modPen_keeps | apply keeps_ite)

theorem State.penReport_keeps {s : State} {p : Nat} {r : PenReport} (hk : Keeps pq s) :
    Keeps pq (State.penReport s p r) := by
  unfold State.penReport
  with_reducible
    repeat' (first
      | assumption | apply raised_keeps | apply State.stopPen_keeps | apply State.disarmPen_keeps | split)

theorem State.pairReport_keeps {s : State} {e : Nat} {a b : PenReport} (hk : Keeps pq s) :
    Keeps pq (State.pairReport s e a b) := by
  unfold State.pairReport
  with_reducible
    repeat' (first
      | assumption | apply raised_keeps | apply State.bothStop_keeps | apply State.penReport_keeps | split)

theorem execPenFault_keeps {p : PenN} {r : PenReport} {both : Option PenReport} {s : State} (hk : Keeps pq s) :
    OutKeeps pq (execPenFault p r both s) := by
  unfold execPenFault
  with_reducible
    repeat' (first
      | assumption | apply guarded_keeps | apply State.penReport_keeps | apply State.pairReport_keeps
      | apply keeps_ite | split | (intro _ _; beta_reduce))

theorem execCrosslinkDisagree_keeps {k : Fin 32} {s : State} (hk : Keeps pq s) :
    OutKeeps pq (execCrosslinkDisagree k s) := by
  unfold execCrosslinkDisagree
  with_reducible
    repeat' (first
      | assumption | apply guarded_keeps | apply raised_keeps | apply State.crossStop_keeps | split
      | (intro _ _; beta_reduce))

theorem execPenCtrlRestart_keeps {p : PenN} {s : State} (hk : Keeps pq s) :
    OutKeeps pq (execPenCtrlRestart p s) := by
  unfold execPenCtrlRestart
  with_reducible
    repeat' (first
      | assumption | apply guarded_keeps | apply State.restartPen_keeps | (intro _ _; beta_reduce))

theorem execPenCtrlFence_keeps {p : PenN} {s : State} (hk : Keeps pq s) :
    OutKeeps pq (execPenCtrlFence p s) := by
  unfold execPenCtrlFence
  with_reducible
    repeat' (first
      | assumption | apply guarded_keeps | apply raised_keeps | apply State.fencePen_keeps | (intro _ _; beta_reduce))

theorem execPenInjectArm_keeps {p : PenN} {group : Fin 8} {s : State} (hk : Keeps pq s) :
    OutKeeps pq (execPenInjectArm p group s) := by
  unfold execPenInjectArm
  with_reducible
    repeat' (first
      | assumption | apply guarded_keeps | apply State.injectWrite_keeps | (intro _ _; beta_reduce))

theorem State.issueOne_keeps {s : State} {i : Iss} {u : Uses} {f : Bool → State → Res (Pen → Pen)} (hk : Keeps pq s)
    (hf : ∀ b t, Keeps pq t → ResKeeps pq (f b t)) :
    Keeps pq (State.issueOne s i u f) := by
  unfold State.issueOne
  dsimp only
  split
  · exact hk
  · rename_i a ha
    have h := hf ((s.pen i.pen.val).pairs i.second u)
      (a.modPen i.pen.val (fun y => y.issue ((s.pen i.pen.val).pairs i.second u) u))
      (State.modPen_keeps (State.admit_keeps hk a ha))
    generalize f ((s.pen i.pen.val).pairs i.second u) _ = x at h
    cases x with
    | ok g t => exact State.modPen_keeps h
    | exc e t => exact OptKeeps.getD (State.takeExc_keeps h) hk
    | hold x t => exact State.modPen_keeps h
    | wait => exact hk

theorem State.doAlu_keeps {s : State} {i : Iss} {u : Uses} {rd : Reg} {f : (Reg → TWord) → Except Exc AluOut}
    (hk : Keeps pq s) :
    Keeps pq (State.doAlu s i u rd f) := by
  unfold State.doAlu
  with_reducible
    repeat' (first
      | assumption | apply resKeeps_ok | apply resKeeps_exc | apply State.issueOne_keeps | split
      | (intro _ _ _; beta_reduce))

theorem State.readTagged_keeps {s : State} {c : Ctx} {h : Half} (hk : Keeps pq s) :
    ResKeeps pq (State.readTagged s c h) := by
  unfold State.readTagged
  with_reducible
    repeat' (first
      | assumption | apply resKeeps_ok | apply resKeeps_exc | apply State.readBank_keeps | apply State.regClear_keeps
      | apply State.settleAll_keeps | apply keeps_ite | simp only [keeps_mk, keeps_eta] | split)

theorem State.loadWord_keeps {s : State} {c : Ctx} {lig fab : Bool} {i : Instr} {va : Word}
    {chk : TWord → Except Exc Unit} (hk : Keeps pq s) :
    ResKeeps pq (State.loadWord s c lig fab i va chk) := by
  unfold State.loadWord
  with_reducible
    repeat' (first
      | assumption | apply Res.bind_keeps | apply resKeeps_ok | apply resKeeps_hold | apply State.resolve_keeps
      | apply State.readTagged_keeps | apply State.readChecked_keeps | split | (intro _ _ _; beta_reduce))

theorem State.storeOk_keeps {s : State} {c : Ctx} {lig : Bool} {i : Instr} {n : Need} {h : Half} (hk : Keeps pq s) :
    ResKeeps pq (State.storeOk s c lig i n h) := by
  unfold State.storeOk
  with_reducible
    repeat' (first
      | assumption | apply resKeeps_exc | apply State.firstWrite_keeps | split)

theorem State.storeWord_keeps {s : State} {c : Ctx} {lig : Bool} {i : Instr} {va : Word} {w : TWord}
    (hk : Keeps pq s) :
    ResKeeps pq (State.storeWord s c lig i va w) := by
  unfold State.storeWord
  with_reducible
    repeat' (first
      | assumption | apply Res.bind_keeps | apply resKeeps_ok | apply State.resolve_keeps | apply State.storeOk_keeps
      | apply State.pushStore_keeps | apply State.wroteTo_keeps | split | (intro _ _ _; beta_reduce))

theorem State.doLd_keeps {s : State} {fab : Bool} {i : Iss} {rt rb : Reg} {m : AMode} (hk : Keeps pq s) :
    Keeps pq (State.doLd s fab i rt rb m) := by
  unfold State.doLd
  with_reducible
    repeat' (first
      | assumption | apply Res.bind_keeps | apply resKeeps_ok | apply resKeeps_exc | apply resKeeps_wait
      | apply State.issueOne_keeps | apply State.loadWord_keeps | simp only [keeps_mk, keeps_eta] | split
      | (intro _ _ _; beta_reduce))

theorem execLd_keeps {i : Iss} {rt rb : Reg} {m : AMode} {s : State} (hk : Keeps pq s) :
    OutKeeps pq (execLd i rt rb m s) := by
  unfold execLd
  with_reducible
    repeat' (first
      | assumption | apply guarded_keeps | apply State.doLd_keeps | (intro _ _; beta_reduce))

theorem State.doSt_keeps {s : State} {i : Iss} {rt rb : Reg} {m : AMode} (hk : Keeps pq s) :
    Keeps pq (State.doSt s i rt rb m) := by
  unfold State.doSt
  with_reducible
    repeat' (first
      | assumption | apply Res.bind_keeps | apply resKeeps_ok | apply resKeeps_exc | apply resKeeps_wait
      | apply State.issueOne_keeps | apply State.storeWord_keeps | simp only [keeps_mk, keeps_eta] | split
      | (intro _ _ _; beta_reduce))

theorem execSt_keeps {i : Iss} {rt rb : Reg} {m : AMode} {s : State} (hk : Keeps pq s) :
    OutKeeps pq (execSt i rt rb m s) := by
  unfold execSt
  with_reducible
    repeat' (first
      | assumption | apply guarded_keeps | apply State.doSt_keeps | (intro _ _; beta_reduce))

theorem State.resolveParts_keeps {s : State} {c : Ctx} {i : Instr} {kind : Access} {l : List
    (Word × Nat × Nat × Bool)} (hk : Keeps pq s) :
    ResKeeps pq (State.resolveParts s c i kind l) := by
  induction l generalizing s with
  | nil => exact hk
  | cons a l ih =>
    obtain ⟨w, o, n, second⟩ := a
    unfold State.resolveParts
    exact Res.bind_keeps (State.resolve_keeps hk) (fun h t ht => Res.bind_keeps (ih ht) (fun ps u hu => hu))

theorem State.partWord_keeps {s : State} {c : Ctx} {write : Bool} {p : Part} (hk : Keeps pq s) :
    ResKeeps pq (State.partWord s c write p) := by
  unfold State.partWord
  dsimp only
  with_reducible
    repeat' (first
      | apply resKeeps_ok | apply State.readBank_keeps | assumption | split)

theorem State.checkPart_keeps {s : State} {c : Ctx} {lig write : Bool} {p : Part} (hk : Keeps pq s) :
    Keeps pq (State.checkPart s c lig write p).2 := by
  have h : ResKeeps pq (s.readChecked c lig { write := write, notReg := true } p.h (s.partWord c write p) (fun w =>
      (checkRaw w).mapError (fun e => { e with second := p.h.second, write := write }))) :=
    State.readChecked_keeps hk (State.partWord_keeps hk)
  unfold State.checkPart
  generalize s.readChecked c lig _ p.h _ _ = x at h
  cases x with
  | ok w t => exact h
  | exc e t => exact h
  | hold x t => exact hk
  | wait => exact hk

theorem State.checkParts_keeps {s : State} {c : Ctx} {lig write : Bool} {l : List Part} (hk : Keeps pq s) :
    Keeps pq (State.checkParts s c lig write l).2 := by
  induction l generalizing s with
  | nil => exact hk
  | cons p ps ih => exact ih (State.checkPart_keeps hk)

theorem State.settle_keeps {s : State} {c : Ctx} {ps : List Part} (hk : Keeps pq s) :
    Keeps pq (State.settle s c ps) := by
  unfold State.settle
  with_reducible
    repeat' (first
      | assumption | apply State.settleAll_keeps | apply keeps_ite)

theorem State.doLoadN_keeps {s : State} {fab : Bool} {n : Nat} {c0 : Instr} {i : Iss} {rt rb : Reg} {m : AMode}
    (hk : Keeps pq s) :
    Keeps pq (State.doLoadN s fab n c0 i rt rb m) := by
  unfold State.doLoadN
  with_reducible
    repeat' (first
      | assumption | apply Res.bind_keeps | apply resKeeps_ok | apply resKeeps_exc | apply resKeeps_hold
      | apply resKeeps_wait | apply State.issueOne_keeps | apply State.checkParts_keeps | apply State.settle_keeps
      | apply State.resolveParts_keeps | simp only [keeps_mk, keeps_eta] | split | (intro _ _ _; beta_reduce))

theorem execLdb_keeps {i : Iss} {rt rb : Reg} {m : AMode} {s : State} (hk : Keeps pq s) :
    OutKeeps pq (execLdb i rt rb m s) := by
  unfold execLdb
  with_reducible
    repeat' (first
      | assumption | apply guarded_keeps | apply State.doLoadN_keeps | (intro _ _; beta_reduce))

theorem execLdh_keeps {i : Iss} {rt rb : Reg} {m : AMode} {s : State} (hk : Keeps pq s) :
    OutKeeps pq (execLdh i rt rb m s) := by
  unfold execLdh
  with_reducible
    repeat' (first
      | assumption | apply guarded_keeps | apply State.doLoadN_keeps | (intro _ _; beta_reduce))

theorem execLdw_keeps {i : Iss} {rt rb : Reg} {m : AMode} {s : State} (hk : Keeps pq s) :
    OutKeeps pq (execLdw i rt rb m s) := by
  unfold execLdw
  with_reducible
    repeat' (first
      | assumption | apply guarded_keeps | apply State.doLoadN_keeps | (intro _ _; beta_reduce))

theorem State.firstWrites_keeps {s : State} {c : Ctx} {i : Instr} {fresh : List Nat} {l : List Part}
    (hk : Keeps pq s) :
    ResKeeps pq (State.firstWrites s c i fresh l) := by
  induction l generalizing fresh s with
  | nil => exact hk
  | cons p ps ih =>
    unfold State.firstWrites
    split
    · exact True.intro
    · exact hk
    · have h : ResKeeps pq (State.firstWrites s c i (freshSlot c p.h.e ++ fresh) ps) := ih hk
      have g : ResKeeps pq ((s.firstWrite c i p.h).bind (fun _ s => State.firstWrites s c i fresh ps)) :=
        Res.bind_keeps (State.firstWrite_keeps hk) (fun _ t ht => ih ht)
      generalize State.firstWrites s c i (freshSlot c p.h.e ++ fresh) ps = x at h
      cases x with
      | ok u t => exact g
      | exc e t => exact h
      | hold y t => exact g
      | wait => exact True.intro

theorem State.doStoreN_keeps {s : State} {n : Nat} {c0 : Instr} {i : Iss} {rt rb : Reg} {m : AMode}
    (hk : Keeps pq s) :
    Keeps pq (State.doStoreN s n c0 i rt rb m) := by
  unfold State.doStoreN
  with_reducible
    repeat' (first
      | assumption | apply foldl_keeps | apply Res.bind_keeps | apply resKeeps_ok | apply resKeeps_exc
      | apply resKeeps_wait | apply State.issueOne_keeps | apply State.checkParts_keeps | apply State.wroteTo_keeps
      | apply State.pushStore_keeps | apply State.resolveParts_keeps | apply State.firstWrites_keeps
      | simp only [keeps_mk, keeps_eta] | split | (intro _ _ _; beta_reduce))

theorem execStb_keeps {i : Iss} {rt rb : Reg} {m : AMode} {s : State} (hk : Keeps pq s) :
    OutKeeps pq (execStb i rt rb m s) := by
  unfold execStb
  with_reducible
    repeat' (first
      | assumption | apply guarded_keeps | apply State.doStoreN_keeps | (intro _ _; beta_reduce))

theorem execSth_keeps {i : Iss} {rt rb : Reg} {m : AMode} {s : State} (hk : Keeps pq s) :
    OutKeeps pq (execSth i rt rb m s) := by
  unfold execSth
  with_reducible
    repeat' (first
      | assumption | apply guarded_keeps | apply State.doStoreN_keeps | (intro _ _; beta_reduce))

theorem execStw_keeps {i : Iss} {rt rb : Reg} {m : AMode} {s : State} (hk : Keeps pq s) :
    OutKeeps pq (execStw i rt rb m s) := by
  unfold execStw
  with_reducible
    repeat' (first
      | assumption | apply guarded_keeps | apply State.doStoreN_keeps | (intro _ _; beta_reduce))

theorem State.atomicPut_keeps {s : State} {c : Ctx} {cpa : Nat} {w : TWord} (hk : Keeps pq s) :
    Keeps pq (State.atomicPut s c cpa w) := by
  unfold State.atomicPut
  with_reducible
    repeat' (first
      | assumption | apply foldl_keeps | apply State.poke_keeps | (intro _ _ _; beta_reduce))

theorem State.doAtomic_keeps {s : State} {fab : Bool} {c0 : Instr} {i : Iss} {rt rb : Reg} {m : AMode}
    {pre : TWord → Except Exc Unit} {f : TWord → TWord → Except Exc TWord} (hk : Keeps pq s) :
    Keeps pq (State.doAtomic s fab c0 i rt rb m pre f) := by
  unfold State.doAtomic
  with_reducible
    repeat' (first
      | assumption | apply Res.bind_keeps | apply resKeeps_ok | apply resKeeps_exc | apply resKeeps_hold
      | apply resKeeps_wait | apply State.issueOne_keeps | apply State.settleAll_keeps | apply State.atomicPut_keeps
      | apply State.wroteTo_keeps | apply State.resolve_keeps | apply State.readChecked_keeps
      | apply State.firstWrite_keeps | apply State.readBank_keeps | simp only [keeps_mk, keeps_eta] | split
      | (intro _ _ _; beta_reduce))

theorem State.doAtadd_keeps {s : State} {fab : Bool} {i : Iss} {rt rb : Reg} {m : AMode} (hk : Keeps pq s) :
    Keeps pq (State.doAtadd s fab i rt rb m) := by
  unfold State.doAtadd
  with_reducible
    repeat' (first
      | assumption | apply State.doAtomic_keeps)

theorem State.doAtswp_keeps {s : State} {fab : Bool} {i : Iss} {rt rb : Reg} {m : AMode} (hk : Keeps pq s) :
    Keeps pq (State.doAtswp s fab i rt rb m) := by
  unfold State.doAtswp
  with_reducible
    repeat' (first
      | assumption | apply State.doAtomic_keeps)

theorem execAtadd_keeps {i : Iss} {rt rb : Reg} {m : AMode} {s : State} (hk : Keeps pq s) :
    OutKeeps pq (execAtadd i rt rb m s) := by
  unfold execAtadd
  with_reducible
    repeat' (first
      | assumption | apply guarded_keeps | apply State.doAtadd_keeps | (intro _ _; beta_reduce))

theorem execAtswp_keeps {i : Iss} {rt rb : Reg} {m : AMode} {s : State} (hk : Keeps pq s) :
    OutKeeps pq (execAtswp i rt rb m s) := by
  unfold execAtswp
  with_reducible
    repeat' (first
      | assumption | apply guarded_keeps | apply State.doAtswp_keeps | (intro _ _; beta_reduce))

theorem execB_keeps {i : Iss} {disp : BitVec 26} {s : State} (hk : Keeps pq s) :
    OutKeeps pq (execB i disp s) := by
  unfold execB
  with_reducible
    repeat' (first
      | assumption | apply guarded_keeps | apply resKeeps_ok | apply State.issueOne_keeps | (intro _ _ _; beta_reduce)
      | (intro _ _; beta_reduce))

theorem execBcc_keeps {i : Iss} {cond : BitVec 4} {disp : BitVec 22} {s : State} (hk : Keeps pq s) :
    OutKeeps pq (execBcc i cond disp s) := by
  unfold execBcc
  with_reducible
    repeat' (first
      | assumption | apply guarded_keeps | apply resKeeps_ok | apply resKeeps_exc | apply State.issueOne_keeps | split
      | (intro _ _ _; beta_reduce) | (intro _ _; beta_reduce))

theorem execBRegister_keeps {i : Iss} {rs : Reg} {s : State} (hk : Keeps pq s) :
    OutKeeps pq (execBRegister i rs s) := by
  unfold execBRegister
  with_reducible
    repeat' (first
      | assumption | apply guarded_keeps | apply resKeeps_ok | apply resKeeps_exc | apply State.issueOne_keeps
      | simp only [keeps_mk, keeps_eta] | split | (intro _ _ _; beta_reduce) | (intro _ _; beta_reduce))

theorem State.callTo_keeps {s : State} {i : Instr} {p : Nat} {paired : Bool} {sp : TWord} {target : Word}
    (hk : Keeps pq s) :
    ResKeeps pq (State.callTo s i p paired sp target) := by
  unfold State.callTo
  with_reducible
    repeat' (first
      | assumption | apply Res.bind_keeps | apply resKeeps_ok | apply resKeeps_exc | apply resKeeps_wait
      | apply State.storeWord_keeps | apply State.flyStop_keeps | simp only [keeps_mk, keeps_eta] | split
      | (intro _ _ _; beta_reduce))

theorem State.doCall_keeps {s : State} {i : Iss} {disp : BitVec 26} (hk : Keeps pq s) :
    Keeps pq (State.doCall s i disp) := by
  unfold State.doCall
  with_reducible
    repeat' (first
      | assumption | apply resKeeps_exc | apply State.issueOne_keeps | apply State.callTo_keeps
      | simp only [keeps_mk, keeps_eta] | split | (intro _ _ _; beta_reduce))

theorem execCall_keeps {i : Iss} {disp : BitVec 26} {s : State} (hk : Keeps pq s) :
    OutKeeps pq (execCall i disp s) := by
  unfold execCall
  with_reducible
    repeat' (first
      | assumption | apply guarded_keeps | apply State.doCall_keeps | (intro _ _; beta_reduce))

theorem State.doCallRegister_keeps {s : State} {i : Iss} {rs : Reg} (hk : Keeps pq s) :
    Keeps pq (State.doCallRegister s i rs) := by
  unfold State.doCallRegister
  with_reducible
    repeat' (first
      | assumption | apply resKeeps_exc | apply State.issueOne_keeps | apply State.callTo_keeps
      | simp only [keeps_mk, keeps_eta] | split | (intro _ _ _; beta_reduce))

theorem execCallRegister_keeps {i : Iss} {rs : Reg} {s : State} (hk : Keeps pq s) :
    OutKeeps pq (execCallRegister i rs s) := by
  unfold execCallRegister
  with_reducible
    repeat' (first
      | assumption | apply guarded_keeps | apply State.doCallRegister_keeps | (intro _ _; beta_reduce))

theorem State.doRet_keeps {s : State} {fab : Bool} {i : Iss} (hk : Keeps pq s) :
    Keeps pq (State.doRet s fab i) := by
  unfold State.doRet
  with_reducible
    repeat' (first
      | assumption | apply Res.bind_keeps | apply resKeeps_ok | apply resKeeps_exc | apply resKeeps_wait
      | apply State.issueOne_keeps | apply State.loadWord_keeps | simp only [keeps_mk, keeps_eta] | split
      | (intro _ _ _; beta_reduce))

theorem execRet_keeps {i : Iss} {s : State} (hk : Keeps pq s) :
    OutKeeps pq (execRet i s) := by
  unfold execRet
  with_reducible
    repeat' (first
      | assumption | apply guarded_keeps | apply State.doRet_keeps | (intro _ _; beta_reduce))

theorem State.doReturn_keeps {s : State} {fab gret : Bool} {i : Iss} (hk : Keeps pq s) :
    Keeps pq (State.doReturn s fab gret i) := by
  unfold State.doReturn
  with_reducible
    repeat' (first
      | assumption | apply Res.bind_keeps | apply resKeeps_ok | apply resKeeps_exc | apply resKeeps_wait
      | apply State.issueOne_keeps | apply State.loadWord_keeps | apply State.resolve_keeps
      | simp only [keeps_mk, keeps_eta] | split | (intro _ _ _; beta_reduce))

theorem execEret_keeps {i : Iss} {s : State} (hk : Keeps pq s) :
    OutKeeps pq (execEret i s) := by
  unfold execEret
  with_reducible
    repeat' (first
      | assumption | apply guarded_keeps | apply State.doReturn_keeps | (intro _ _; beta_reduce))

theorem execGret_keeps {i : Iss} {s : State} (hk : Keeps pq s) :
    OutKeeps pq (execGret i s) := by
  unfold execGret
  with_reducible
    repeat' (first
      | assumption | apply guarded_keeps | apply State.doReturn_keeps | (intro _ _; beta_reduce))

theorem State.gateWord_keeps {s : State} {p part n k : Nat} (hk : Keeps pq s) :
    Keeps pq (State.gateWord s p part n k).2 := by
  unfold State.gateWord
  with_reducible
    repeat' (first
      | assumption | apply State.readRun_keeps)

theorem State.readGate_keeps {s : State} {p part n : Nat} (hk : Keeps pq s) :
    Keeps pq (State.readGate s p part n).2 := by
  unfold State.readGate
  with_reducible
    repeat' (first
      | assumption | apply State.gateWord_keeps | simp only [keeps_mk, keeps_eta] | split)

theorem State.gateEnter_keeps {s : State} {p : Nat} {r : Run} {g : Gate} (hk : Keeps pq s) :
    OptKeeps pq (State.gateEnter s p r g) := by
  unfold State.gateEnter
  with_reducible
    repeat' (first
      | assumption | apply optKeeps_some | apply optKeeps_none | apply State.flyStop_keeps
      | apply State.stackCheck_keeps | apply State.flyEntry_keeps | apply State.modPen_keeps
      | apply State.countEntry_keeps | apply State.pushFrame_keeps | simp only [keeps_mk, keeps_eta] | split)

theorem State.doGate_keeps {s : State} {i : Iss} {n : Nat} (hk : Keeps pq s) :
    Keeps pq (State.doGate s i n) := by
  unfold State.doGate
  with_reducible
    repeat' (first
      | assumption | apply OptKeeps.getD | apply State.modPen_keeps | apply State.admit_keeps
      | apply State.takeExc_keeps | apply State.readGate_keeps | apply State.gateEnter_keeps | apply keeps_ite
      | simp only [keeps_mk, keeps_eta] | split)

theorem execGate_keeps {i : Iss} {n : BitVec 8} {s : State} (hk : Keeps pq s) :
    OutKeeps pq (execGate i n s) := by
  unfold execGate
  with_reducible
    repeat' (first
      | assumption | apply guarded_keeps | apply State.doGate_keeps | (intro _ _; beta_reduce))

theorem State.measure_keeps {s : State} {off : Int} (hk : Keeps pq s) :
    Keeps pq (State.measure s off) := by
  unfold State.measure
  with_reducible
    repeat' (first
      | assumption | apply State.raise_keeps | apply keeps_ite | simp only [keeps_mk, keeps_eta])

theorem State.stepCounter_keeps {s : State} (hk : Keeps pq s) :
    Keeps pq (State.stepCounter s) := by
  unfold State.stepCounter
  with_reducible
    repeat' (first
      | assumption | simp only [keeps_mk, keeps_eta])

theorem State.enterHoldover_keeps {s : State} (hk : Keeps pq s) :
    Keeps pq (State.enterHoldover s) := by
  unfold State.enterHoldover
  with_reducible
    repeat' (first
      | assumption | apply State.raise_keeps | apply keeps_ite | simp only [keeps_mk, keeps_eta])

theorem execPpsEdge_keeps {s : State} (hk : Keeps pq s) :
    OutKeeps pq (execPpsEdge s) := by
  unfold execPpsEdge
  with_reducible
    repeat' (first
      | assumption | apply guarded_keeps | apply State.measure_keeps | simp only [keeps_mk, keeps_eta]
      | (intro _ _; beta_reduce))

theorem State.earlyEdge_keeps {s : State} (hk : Keeps pq s) :
    Keeps pq (State.earlyEdge s) := by
  unfold State.earlyEdge
  with_reducible
    repeat' (first
      | assumption | simp only [keeps_mk, keeps_eta])

theorem State.tickinEdge_keeps {s : State} (hk : Keeps pq s) :
    Keeps pq (State.tickinEdge s) := by
  unfold State.tickinEdge
  with_reducible
    repeat' (first
      | assumption | apply State.measure_keeps | apply State.earlyEdge_keeps | apply State.raise_keeps
      | apply keeps_ite | simp only [keeps_mk, keeps_eta])

theorem execTickinEdge_keeps {s : State} (hk : Keeps pq s) :
    OutKeeps pq (execTickinEdge s) := by
  unfold execTickinEdge
  with_reducible
    repeat' (first
      | assumption | apply guarded_keeps | apply State.tickinEdge_keeps)

theorem State.tickinMiss_keeps {s : State} (hk : Keeps pq s) :
    Keeps pq (State.tickinMiss s) := by
  unfold State.tickinMiss
  with_reducible
    repeat' (first
      | assumption | apply State.raise_keeps | apply State.enterHoldover_keeps | apply keeps_ite
      | simp only [keeps_mk, keeps_eta])

theorem execTickinMiss_keeps {s : State} (hk : Keeps pq s) :
    OutKeeps pq (execTickinMiss s) := by
  unfold execTickinMiss
  with_reducible
    repeat' (first
      | assumption | apply guarded_keeps | apply State.tickinMiss_keeps)

theorem State.gptpSync_keeps {s : State} {m : Nat} {master : Word} {log : BitVec 8} (hk : Keeps pq s) :
    Keeps pq (State.gptpSync s m master log) := by
  unfold State.gptpSync
  with_reducible
    repeat' (first
      | assumption | apply State.modMac_keeps | apply State.measure_keeps | apply keeps_ite)

theorem execGptpSync_keeps {mac : Fin 4} {masterTime : Word} {logSync : BitVec 8} {s : State} (hk : Keeps pq s) :
    OutKeeps pq (execGptpSync mac masterTime logSync s) := by
  unfold execGptpSync
  with_reducible
    repeat' (first
      | assumption | apply guarded_keeps | apply State.gptpSync_keeps | (intro _ _; beta_reduce))

theorem State.pdelayRequest_keeps {s : State} {m : Nat} (hk : Keeps pq s) :
    Keeps pq (State.pdelayRequest s m) := by
  unfold State.pdelayRequest
  with_reducible
    repeat' (first
      | assumption | apply State.emit_keeps | apply State.modMac_keeps)

theorem execPdelayRequest_keeps {mac : Fin 4} {s : State} (hk : Keeps pq s) :
    OutKeeps pq (execPdelayRequest mac s) := by
  unfold execPdelayRequest
  with_reducible
    repeat' (first
      | assumption | apply guarded_keeps | apply State.pdelayRequest_keeps | (intro _ _; beta_reduce))

theorem State.pdelayReceive_keeps {s : State} {m : Nat} {f : PdelayFrame} (hk : Keeps pq s) :
    Keeps pq (State.pdelayReceive s m f) := by
  unfold State.pdelayReceive
  with_reducible
    repeat' (first
      | assumption | apply State.emit_keeps | apply State.modMac_keeps | apply keeps_ite | split)

theorem execPdelayReceive_keeps {mac : Fin 4} {f : PdelayFrame} {s : State} (hk : Keeps pq s) :
    OutKeeps pq (execPdelayReceive mac f s) := by
  unfold execPdelayReceive
  with_reducible
    repeat' (first
      | assumption | apply guarded_keeps | apply State.pdelayReceive_keeps | (intro _ _; beta_reduce))

theorem State.syncLost_keeps {s : State} {m : Nat} (hk : Keeps pq s) :
    Keeps pq (State.syncLost s m) := by
  unfold State.syncLost
  with_reducible
    repeat' (first
      | assumption | apply State.modMac_keeps)

theorem execHoldoverEntry_keeps {s : State} (hk : Keeps pq s) :
    OutKeeps pq (execHoldoverEntry s) := by
  unfold execHoldoverEntry
  with_reducible
    repeat' (first
      | assumption | apply guarded_keeps | apply State.enterHoldover_keeps | apply State.syncLost_keeps
      | apply keeps_ite | (intro _ _; beta_reduce))

theorem State.doMask_keeps {s : State} {i : Iss} {rd : Reg} {src : MaskSrc} (hk : Keeps pq s) :
    Keeps pq (State.doMask s i rd src) := by
  unfold State.doMask
  with_reducible
    repeat' (first
      | assumption | apply resKeeps_ok | apply resKeeps_exc | apply State.issueOne_keeps
      | simp only [keeps_mk, keeps_eta] | split | (intro _ _ _; beta_reduce))

theorem execMask_keeps {i : Iss} {rd : Reg} {src : MaskSrc} {s : State} (hk : Keeps pq s) :
    OutKeeps pq (execMask i rd src s) := by
  unfold execMask
  with_reducible
    repeat' (first
      | assumption | apply guarded_keeps | apply State.doMask_keeps | (intro _ _; beta_reduce))

theorem execFeat_keeps {i : Iss} {rd : Reg} {n : BitVec 4} {s : State} (hk : Keeps pq s) :
    OutKeeps pq (execFeat i rd n s) := by
  unfold execFeat
  with_reducible
    repeat' (first
      | assumption | apply guarded_keeps | apply resKeeps_ok | apply resKeeps_wait | apply State.issueOne_keeps
      | split | (intro _ _ _; beta_reduce) | (intro _ _; beta_reduce))

theorem State.doSeal_keeps {s : State} {i : Iss} {rd rs : Reg} (hk : Keeps pq s) :
    Keeps pq (State.doSeal s i rd rs) := by
  unfold State.doSeal
  with_reducible
    repeat' (first
      | assumption | apply resKeeps_ok | apply resKeeps_exc | apply State.issueOne_keeps
      | simp only [keeps_mk, keeps_eta] | split | (intro _ _ _; beta_reduce))

theorem execSealReg_keeps {i : Iss} {rd rs : Reg} {s : State} (hk : Keeps pq s) :
    OutKeeps pq (execSealReg i rd rs s) := by
  unfold execSealReg
  with_reducible
    repeat' (first
      | assumption | apply guarded_keeps | apply State.doSeal_keeps | (intro _ _; beta_reduce))

theorem State.doTlbinv_keeps {s : State} {i : Iss} {regs : List Reg} {pre : (Reg → TWord) → Except Exc Unit}
    {f : Nat → (Reg → TWord) → Nat → TlbEntry → Bool} (hk : Keeps pq s) :
    Keeps pq (State.doTlbinv s i regs pre f) := by
  unfold State.doTlbinv
  with_reducible
    repeat' (first
      | assumption | apply resKeeps_ok | apply resKeeps_exc | apply resKeeps_wait | apply State.issueOne_keeps
      | apply State.modRun_keeps | simp only [keeps_mk, keeps_eta] | split | (intro _ _ _; beta_reduce))

theorem execTlbinvUnlocked_keeps {i : Iss} {s : State} (hk : Keeps pq s) :
    OutKeeps pq (execTlbinvUnlocked i s) := by
  unfold execTlbinvUnlocked
  with_reducible
    repeat' (first
      | assumption | apply guarded_keeps | apply State.doTlbinv_keeps | (intro _ _; beta_reduce))

theorem execTlbinvAll_keeps {i : Iss} {s : State} (hk : Keeps pq s) :
    OutKeeps pq (execTlbinvAll i s) := by
  unfold execTlbinvAll
  with_reducible
    repeat' (first
      | assumption | apply guarded_keeps | apply State.doTlbinv_keeps | (intro _ _; beta_reduce))

theorem execTlbinvPage_keeps {i : Iss} {rs : Reg} {s : State} (hk : Keeps pq s) :
    OutKeeps pq (execTlbinvPage i rs s) := by
  unfold execTlbinvPage
  with_reducible
    repeat' (first
      | assumption | apply guarded_keeps | apply State.doTlbinv_keeps | (intro _ _; beta_reduce))

theorem State.doIpi_keeps {s : State} {i : Iss} {rs : Reg} {level : Nat} (hk : Keeps pq s) :
    Keeps pq (State.doIpi s i rs level) := by
  unfold State.doIpi
  with_reducible
    repeat' (first
      | assumption | apply resKeeps_ok | apply resKeeps_exc | apply resKeeps_wait | apply State.issueOne_keeps
      | simp only [keeps_mk, keeps_eta] | split | (intro _ _ _; beta_reduce))

theorem execIpi_keeps {i : Iss} {rs : Reg} {level : BitVec 3} {s : State} (hk : Keeps pq s) :
    OutKeeps pq (execIpi i rs level s) := by
  unfold execIpi
  with_reducible
    repeat' (first
      | assumption | apply guarded_keeps | apply State.doIpi_keeps | (intro _ _; beta_reduce))

theorem execFence_keeps {i : Iss} {s : State} (hk : Keeps pq s) :
    OutKeeps pq (execFence i s) := by
  unfold execFence
  with_reducible
    repeat' (first
      | assumption | apply guarded_keeps | apply resKeeps_ok | apply resKeeps_wait | apply State.issueOne_keeps
      | split | (intro _ _ _; beta_reduce) | (intro _ _; beta_reduce))

theorem State.endRun_keeps {s : State} {p : Nat} {r : Run} (hk : Keeps pq s) :
    Keeps pq (State.endRun s p r) := by
  unfold State.endRun
  with_reducible
    repeat' (first
      | assumption | apply State.forAll_keeps | apply State.modVslot_keeps | apply State.modPen_keeps
      | apply keeps_ite | (intro _ _ _; beta_reduce))

theorem State.linend_keeps {s : State} {p : Nat} {r : Run} (hk : Keeps pq s) :
    Keeps pq (State.linend s p r) := by
  unfold State.linend
  with_reducible
    repeat' (first
      | assumption | apply State.lateRun_keeps | apply State.loseRun_keeps | apply State.killRun_keeps
      | apply State.raiseAll_keeps | apply State.endRun_keeps | apply keeps_ite)

theorem State.doLinend_keeps {s : State} {i : Iss} (hk : Keeps pq s) :
    Keeps pq (State.doLinend s i) := by
  unfold State.doLinend
  with_reducible
    repeat' (first
      | assumption | apply resKeeps_ok | apply resKeeps_exc | apply resKeeps_wait | apply State.issueOne_keeps
      | apply State.linend_keeps | simp only [keeps_mk, keeps_eta] | split | (intro _ _ _; beta_reduce))

theorem execLinend_keeps {i : Iss} {s : State} (hk : Keeps pq s) :
    OutKeeps pq (execLinend i s) := by
  unfold execLinend
  with_reducible
    repeat' (first
      | assumption | apply guarded_keeps | apply State.doLinend_keeps | (intro _ _; beta_reduce))

theorem State.blkSet_keeps {s : State} {o : BlkOp} {r : Reg} {w : TWord} (hk : Keeps pq s) :
    Keeps pq (State.blkSet s o r w) := by
  unfold State.blkSet
  with_reducible
    repeat' (first
      | assumption | apply State.modPen_keeps)

theorem State.blkStep_keeps {s : State} {o : BlkOp} {r : Reg} (hk : Keeps pq s) :
    Keeps pq (State.blkStep s o r) := by
  unfold State.blkStep
  with_reducible
    repeat' (first
      | assumption | apply State.blkSet_keeps)

theorem State.blkCount_keeps {s : State} {o : BlkOp} (hk : Keeps pq s) :
    Keeps pq (State.blkCount s o) := by
  unfold State.blkCount
  with_reducible
    repeat' (first
      | assumption | apply State.blkSet_keeps)

theorem State.blkWord_keeps {s : State} {o : BlkOp} {lig fab : Bool} {c : Ctx} (hk : Keeps pq s) :
    ResKeeps pq (State.blkWord s o lig fab c) := by
  unfold State.blkWord
  with_reducible
    repeat' (first
      | assumption | apply Res.bind_keeps | apply resKeeps_ok | apply State.loadWord_keeps
      | apply State.storeWord_keeps | apply State.blkCount_keeps | apply State.blkStep_keeps
      | apply State.blkSet_keeps | simp only [keeps_mk, keeps_eta] | split | (intro _ _ _; beta_reduce))

theorem State.blkEnd_keeps {s : State} {o : BlkOp} (hk : Keeps pq s) :
    Keeps pq (State.blkEnd s o) := by
  unfold State.blkEnd
  with_reducible
    repeat' (first
      | assumption | apply State.modPen_keeps)

def BlkKeeps (q : List Instr) : BlkOut → Prop
  | .finish s | .exc _ _ s | .hold _ _ s | .sample _ s => Keeps q s

theorem State.blkRun_keeps {n : Nat} {o : BlkOp} {fab : Bool} {d : Nat} {s : State} (hk : Keeps pq s) :
    BlkKeeps pq (State.blkRun n o fab d s) := by
  induction n generalizing fab d s with
  | zero => exact hk
  | succ n ih =>
    unfold State.blkRun
    split
    · exact hk
    · rename_i r c _
      have h : ResKeeps pq (s.blkWord o r.lig fab c) := State.blkWord_keeps hk
      generalize s.blkWord o r.lig fab c = x at h
      cases x with
      | ok b t =>
        cases b
        · exact h
        · simp only []
          split
          · exact h
          · exact ih h
      | exc e t => exact h
      | hold x t => exact h
      | wait => exact hk

theorem State.blkGo_keeps {s : State} {o : BlkOp} {fab : Bool} {before : Pen} {s0 : State} (hk : Keeps pq s)
    (h0 : Keeps pq s0) :
    Keeps pq (State.blkGo s o fab before s0) := by
  have h : BlkKeeps pq (State.blkRun (s.blkReg o o.rc).val.toNat o fab before.blkDone s) := State.blkRun_keeps hk
  unfold State.blkGo
  simp only []
  generalize State.blkRun (s.blkReg o o.rc).val.toNat o fab before.blkDone s = x at h
  cases x with
  | finish t => exact State.blkEnd_keeps h
  | exc e d t => exact OptKeeps.getD (State.takeExc_keeps h) h0
  | hold x d t => cases d <;> exact State.modPen_keeps h
  | sample d t =>
    dsimp only
    split
    · exact h0
    · exact State.modPen_keeps h

theorem State.blkIssue_keeps {s : State} {p : Nat} {u : Uses} (hk : Keeps pq s) :
    OptKeeps pq (State.blkIssue s p u) := by
  unfold State.blkIssue
  split
  · exact optKeeps_some (State.modPen_keeps hk)
  · exact OptKeeps.map (State.admit_keeps hk) (fun t ht => State.modPen_keeps ht)

theorem State.doBlk_keeps {s : State} {fab : Bool} {k : Blk} {i : Iss} {ra rb rc : Reg} {c : Instr}
    (hk : Keeps pq s) :
    Keeps pq (State.doBlk s fab k i ra rb rc c) := by
  unfold State.doBlk
  dsimp only
  split
  · exact hk
  · rename_i t ht
    have h := State.blkIssue_keeps hk t ht
    split
    · exact OptKeeps.getD (State.takeExc_keeps h) hk
    · exact State.blkGo_keeps h hk

theorem execBlkcpy_keeps {i : Iss} {ra rb rc : Reg} {s : State} (hk : Keeps pq s) :
    OutKeeps pq (execBlkcpy i ra rb rc s) := by
  unfold execBlkcpy
  with_reducible
    repeat' (first
      | assumption | apply guarded_keeps | apply State.doBlk_keeps | (intro _ _; beta_reduce))

theorem execBlkfill_keeps {i : Iss} {ra rb rc : Reg} {s : State} (hk : Keeps pq s) :
    OutKeeps pq (execBlkfill i ra rb rc s) := by
  unfold execBlkfill
  with_reducible
    repeat' (first
      | assumption | apply guarded_keeps | apply State.doBlk_keeps | (intro _ _; beta_reduce))

theorem execBlkcmp_keeps {i : Iss} {ra rb rc : Reg} {s : State} (hk : Keeps pq s) :
    OutKeeps pq (execBlkcmp i ra rb rc s) := by
  unfold execBlkcmp
  with_reducible
    repeat' (first
      | assumption | apply guarded_keeps | apply State.doBlk_keeps | (intro _ _; beta_reduce))

theorem execBlkcrc_keeps {i : Iss} {ra rb rc : Reg} {s : State} (hk : Keeps pq s) :
    OutKeeps pq (execBlkcrc i ra rb rc s) := by
  unfold execBlkcrc
  with_reducible
    repeat' (first
      | assumption | apply guarded_keeps | apply State.doBlk_keeps | (intro _ _; beta_reduce))

theorem State.rerun_keeps {s : State} {fab : Bool} {c : Instr} (hk : Keeps pq s) :
    Keeps pq (State.rerun s fab c) := by
  unfold State.rerun
  with_reducible
    repeat' (first
      | assumption | apply State.doLd_keeps | apply State.doSt_keeps | apply State.doLoadN_keeps
      | apply State.doStoreN_keeps | apply State.doAtadd_keeps | apply State.doAtswp_keeps | apply State.doBlk_keeps
      | apply State.doCall_keeps | apply State.doCallRegister_keeps | apply State.doRet_keeps
      | apply State.doReturn_keeps | split)

theorem State.release_keeps {s : State} {p : Nat} {fab : Bool} {c : Instr} (hk : Keeps pq s) :
    Keeps pq (State.release s p fab c) := by
  unfold State.release
  with_reducible
    repeat' (first
      | assumption | apply State.rerun_keeps | apply State.modPen_keeps | apply keeps_ite)

theorem execLoadWriteback_keeps {p : PenN} {s : State} (hk : Keeps pq s) :
    OutKeeps pq (execLoadWriteback p s) := by
  unfold execLoadWriteback
  with_reducible
    repeat' (first
      | assumption | apply guarded_keeps | apply State.modPen_keeps | simp only [keeps_mk, keeps_eta]
      | (intro _ _; beta_reduce))

theorem State.countColl_keeps {s : State} {cpa : Nat} (hk : Keeps pq s) :
    Keeps pq (State.countColl s cpa) := by
  unfold State.countColl
  with_reducible
    repeat' (first
      | assumption | apply State.modRsv_keeps | apply keeps_ite)

theorem State.collide_keeps {s : State} {collided : Bool} {cpa : Nat} (hk : Keeps pq s) :
    Keeps pq (State.collide s collided cpa) := by
  unfold State.collide
  with_reducible
    repeat' (first
      | assumption | apply State.countColl_keeps | apply keeps_ite)

theorem State.staleRead_keeps {s : State} {p cpa : Nat} {portA : Bool} (hk : Keeps pq s) :
    Keeps pq (State.staleRead s p cpa portA) := by
  unfold State.staleRead
  with_reducible
    repeat' (first
      | assumption | apply State.staleRequest_keeps | apply keeps_ite | split)

theorem State.fabricResponse_keeps {s : State} {p : Nat} {crcError collided : Bool} (hk : Keeps pq s) :
    Keeps pq (State.fabricResponse s p crcError collided) := by
  unfold State.fabricResponse
  with_reducible
    repeat' (first
      | assumption | apply raised_keeps | apply State.stopPen_keeps | apply State.release_keeps
      | apply State.collide_keeps | apply State.staleRead_keeps | apply State.arriveTo_keeps | apply keeps_ite
      | split)

theorem execFabricResponse_keeps {p : PenN} {crcError collided : Bool} {s : State} (hk : Keeps pq s) :
    OutKeeps pq (execFabricResponse p crcError collided s) := by
  unfold execFabricResponse
  with_reducible
    repeat' (first
      | assumption | apply guarded_keeps | apply State.fabricResponse_keeps | (intro _ _; beta_reduce))

theorem execStoreDrain_keeps {p : PenN} {collided : Bool} {s : State} (hk : Keeps pq s) :
    OutKeeps pq (execStoreDrain p collided s) := by
  unfold execStoreDrain
  with_reducible
    repeat' (first
      | assumption | apply guarded_keeps | apply State.drainOne_keeps | apply State.collide_keeps
      | simp only [keeps_mk, keeps_eta] | (intro _ _; beta_reduce))

theorem execStoreAck_keeps {p : PenN} {crcError : Bool} {s : State} (hk : Keeps pq s) :
    OutKeeps pq (execStoreAck p crcError s) := by
  unfold execStoreAck
  with_reducible
    repeat' (first
      | assumption | apply guarded_keeps | apply raised_keeps | apply State.stopPen_keeps | apply State.modPen_keeps
      | apply State.arriveTo_keeps | split | (intro _ _; beta_reduce))

theorem State.copyEnd_keeps {s : State} {p : Nat} {crcError collided : Bool} (hk : Keeps pq s) :
    Keeps pq (State.copyEnd s p crcError collided) := by
  unfold State.copyEnd
  with_reducible
    repeat' (first
      | assumption | apply raised_keeps | apply State.stopPen_keeps | apply State.release_keeps
      | apply State.draftCopy_keeps | apply State.collide_keeps | apply State.arriveTo_keeps | apply keeps_ite
      | split)

theorem execDraftCopyComplete_keeps {p : PenN} {crcError collided : Bool} {s : State} (hk : Keeps pq s) :
    OutKeeps pq (execDraftCopyComplete p crcError collided s) := by
  unfold execDraftCopyComplete
  with_reducible
    repeat' (first
      | assumption | apply guarded_keeps | apply State.copyEnd_keeps | (intro _ _; beta_reduce))

theorem State.fetchWalk_keeps {s : State} {p : Nat} {r : Run} (hk : Keeps pq s) :
    Keeps pq (State.fetchWalk s p r) := by
  unfold State.fetchWalk
  with_reducible
    repeat' (first
      | assumption | apply OptKeeps.getD | apply State.takeExc_keeps | apply State.noteTFault_keeps
      | apply State.walkFor_keeps | apply keeps_ite | simp only [keeps_mk, keeps_eta] | split)

theorem State.walkDone_keeps {s0 : State} {p : Nat} (hk : Keeps pq s0) :
    Keeps pq (State.walkDone s0 p) := by
  unfold State.walkDone
  with_reducible
    repeat' (first
      | assumption | apply OptKeeps.getD | apply State.arriveTo_keeps | apply State.walkFor_keeps
      | apply State.release_keeps | apply State.takeExc_keeps | apply State.fetchWalk_keeps
      | simp only [keeps_mk, keeps_eta] | split)

theorem execTableWalkDone_keeps {p : PenN} {s : State} (hk : Keeps pq s) :
    OutKeeps pq (execTableWalkDone p s) := by
  unfold execTableWalkDone
  with_reducible
    repeat' (first
      | assumption | apply guarded_keeps | apply State.walkDone_keeps | (intro _ _; beta_reduce))

theorem State.fetchNext_keeps {s : State} {p : Nat} (hk : Keeps pq s) : FetchKeeps pq (State.fetchNext s p) := by
  unfold State.fetchNext
  split
  · exact True.intro
  · split
    · exact State.fetch_keeps hk
    · exact True.intro

theorem State.illegalAt_keeps {s : State} {p : Nat} {x : Nat × State} (hk : Keeps pq s)
    (hx : State.illegalAt s p = some x) : Keeps pq x.2 := by
  have h : FetchKeeps pq (s.fetchNext p) := State.fetchNext_keeps hk
  unfold State.illegalAt at hx
  generalize s.fetchNext p = y at h hx
  cases y with
  | served t =>
    obtain ⟨d, _, rfl⟩ := Option.map_eq_some_iff.1 hx
    exact h
  | bus b t => cases hx
  | untranslated => cases hx

theorem execIllegalEncoding_keeps {p : PenN} {s : State} (hk : Keeps pq s) :
    OutKeeps pq (execIllegalEncoding p s) := by
  unfold execIllegalEncoding
  refine guarded_keeps hk (fun t ht => ?_)
  split
  · rename_i x hx
    exact OptKeeps.getD (State.takeExc_keeps (State.illegalAt_keeps ht hx)) ht
  · exact ht

theorem State.fetchBus_keeps {s : State} {p : Nat} {x : Nat × State} (hk : Keeps pq s)
    (hx : State.fetchBus s p = some x) : Keeps pq x.2 := by
  have h : FetchKeeps pq (s.fetchNext p) := State.fetchNext_keeps hk
  unfold State.fetchBus at hx
  generalize s.fetchNext p = y at h hx
  cases y with
  | bus b t =>
    have e := Option.some.inj hx
    subst e
    exact h
  | served t => cases hx
  | untranslated => cases hx

theorem execInstructionBusFault_keeps {p : PenN} {s : State} (hk : Keeps pq s) :
    OutKeeps pq (execInstructionBusFault p s) := by
  unfold execInstructionBusFault
  refine guarded_keeps hk (fun t ht => ?_)
  split
  · rename_i x hx
    exact OptKeeps.getD (State.takeExc_keeps (State.fetchBus_keeps ht hx)) ht
  · exact ht

theorem State.pushRecord_keeps {s : State} {di t : Nat} {body : RxBody} (hk : Keeps pq s) :
    Keeps pq (State.pushRecord s di t body) := by
  unfold State.pushRecord
  with_reducible
    repeat' (first
      | assumption | simp only [keeps_mk, keeps_eta])

theorem execFeedRecordWrite_keeps {crcError : Bool} {s : State} (hk : Keeps pq s) :
    OutKeeps pq (execFeedRecordWrite crcError s) := by
  unfold execFeedRecordWrite
  with_reducible
    repeat' (first
      | assumption | apply guarded_keeps | apply State.writeOldest_keeps | (intro _ _; beta_reduce))

theorem State.eliminate_keeps {s : State} {m di : Nat} {e : EthParse} (hk : Keeps pq s) :
    Keeps pq (State.eliminate s m di e).2 := by
  unfold State.eliminate
  with_reducible
    repeat' (first
      | assumption | apply State.modMac_keeps | simp only [keeps_mk, keeps_eta] | split)

theorem State.deliverEth_keeps {s : State} {m : Nat} {c : Nat × Desc} {f : List Byte} {e : EthParse}
    (hk : Keeps pq s) :
    Keeps pq (State.deliverEth s m c f e) := by
  unfold State.deliverEth
  with_reducible
    repeat' (first
      | assumption | apply State.pushRecord_keeps | apply State.eliminate_keeps | apply keeps_ite)

theorem State.offerEth_keeps {s : State} {m : Nat} {f : List Byte} (hk : Keeps pq s) :
    Keeps pq (State.offerEth s m f) := by
  unfold State.offerEth
  with_reducible
    repeat' (first
      | assumption | apply State.forAll_keeps | apply State.modMac_keeps | apply State.deliverEth_keeps
      | apply keeps_ite | (intro _ _ _; beta_reduce))

theorem State.ethReceive_keeps {s : State} {m : Nat} {f : List Byte} {fcsGood : Bool} (hk : Keeps pq s) :
    Keeps pq (State.ethReceive s m f fcsGood) := by
  unfold State.ethReceive
  with_reducible
    repeat' (first
      | assumption | apply State.modMac_keeps | apply State.offerEth_keeps | apply keeps_ite)

theorem execEthFrameReceive_keeps {mac : Fin 4} {frame : List Byte} {fcsGood : Bool} {s : State} (hk : Keeps pq s) :
    OutKeeps pq (execEthFrameReceive mac frame fcsGood s) := by
  unfold execEthFrameReceive
  with_reducible
    repeat' (first
      | assumption | apply guarded_keeps | apply State.ethReceive_keeps | (intro _ _; beta_reduce))

theorem State.sentOk_keeps {s : State} {di : Nat} (hk : Keeps pq s) :
    Keeps pq (State.sentOk s di) := by
  unfold State.sentOk
  with_reducible
    repeat' (first
      | assumption | apply State.setDescStatus_keeps | split)

theorem State.ethTransmit_keeps {s : State} {m : Nat} (hk : Keeps pq s) :
    Keeps pq (State.ethTransmit s m) := by
  unfold State.ethTransmit
  with_reducible
    repeat' (first
      | assumption | apply State.modMac_keeps | apply State.sentOk_keeps | apply State.emit_keeps
      | simp only [keeps_mk, keeps_eta] | split)

theorem execEthFrameTransmit_keeps {mac : Fin 4} {s : State} (hk : Keeps pq s) :
    OutKeeps pq (execEthFrameTransmit mac s) := by
  unfold execEthFrameTransmit
  with_reducible
    repeat' (first
      | assumption | apply guarded_keeps | apply State.ethTransmit_keeps | (intro _ _; beta_reduce))

theorem State.ethDown_keeps {s : State} {m : Nat} (hk : Keeps pq s) :
    Keeps pq (State.ethDown s m) := by
  unfold State.ethDown
  with_reducible
    repeat' (first
      | assumption | apply State.modMac_keeps | apply State.ethWithdraw_keeps | apply State.raise_keeps
      | apply State.syncLost_keeps | apply State.enterHoldover_keeps | apply keeps_ite)

theorem execEthLinkDown_keeps {mac : Fin 4} {s : State} (hk : Keeps pq s) :
    OutKeeps pq (execEthLinkDown mac s) := by
  unfold execEthLinkDown
  with_reducible
    repeat' (first
      | assumption | apply guarded_keeps | apply State.ethDown_keeps | (intro _ _; beta_reduce))

theorem execEthLinkUp_keeps {mac : Fin 4} {s : State} (hk : Keeps pq s) :
    OutKeeps pq (execEthLinkUp mac s) := by
  unfold execEthLinkUp
  with_reducible
    repeat' (first
      | assumption | apply guarded_keeps | apply State.modMac_keeps | (intro _ _; beta_reduce))

theorem State.canErrors_keeps {s : State} {c tec rec : Nat} (hk : Keeps pq s) :
    Keeps pq (State.canErrors s c tec rec) := by
  unfold State.canErrors
  with_reducible
    repeat' (first
      | assumption | apply State.modCan_keeps | apply State.raise_keeps | apply keeps_ite)

theorem State.canError_keeps {s : State} {c : Nat} {tec rec : BitVec 9} {pex : Bool} (hk : Keeps pq s) :
    Keeps pq (State.canError s c tec rec pex) := by
  unfold State.canError
  with_reducible
    repeat' (first
      | assumption | apply State.canErrors_keeps | apply State.modCan_keeps | apply keeps_ite)

theorem State.canGood_keeps {s : State} {c : Nat} (hk : Keeps pq s) :
    Keeps pq (State.canGood s c) := by
  unfold State.canGood
  with_reducible
    repeat' (first
      | assumption | apply State.canErrors_keeps | apply State.takeFree_keeps | apply keeps_ite)

theorem State.canDeliver_keeps {s : State} {c : Nat} {f : CanFrame} (hk : Keeps pq s) :
    Keeps pq (State.canDeliver s c f) := by
  unfold State.canDeliver
  with_reducible
    repeat' (first
      | assumption | apply State.forAll_keeps | apply State.modCan_keeps | apply State.pushRecord_keeps
      | apply keeps_ite | (intro _ _ _; beta_reduce))

theorem execCanFrameReceive_keeps {c : Fin 8} {f : CanFrame} {o : CanOutcome} {s : State} (hk : Keeps pq s) :
    OutKeeps pq (execCanFrameReceive c f o s) := by
  unfold execCanFrameReceive
  with_reducible
    repeat' (first
      | assumption | apply guarded_keeps | apply State.canDeliver_keeps | apply State.canGood_keeps
      | apply State.canError_keeps | split | (intro _ _; beta_reduce))

theorem State.canTransmit_keeps {s : State} {c : Nat} {o : CanOutcome} (hk : Keeps pq s) :
    Keeps pq (State.canTransmit s c o) := by
  unfold State.canTransmit
  with_reducible
    repeat' (first
      | assumption | apply State.modCan_keeps | apply State.canErrors_keeps | apply State.setDescStatus_keeps
      | apply State.emit_keeps | apply State.canError_keeps | simp only [keeps_mk, keeps_eta] | split)

theorem execCanFrameTransmit_keeps {c : Fin 8} {o : CanOutcome} {s : State} (hk : Keeps pq s) :
    OutKeeps pq (execCanFrameTransmit c o s) := by
  unfold execCanFrameTransmit
  with_reducible
    repeat' (first
      | assumption | apply guarded_keeps | apply State.canTransmit_keeps | (intro _ _; beta_reduce))

theorem execCanBusOffRecovery_keeps {c : Fin 8} {s : State} (hk : Keeps pq s) :
    OutKeeps pq (execCanBusOffRecovery c s) := by
  unfold execCanBusOffRecovery
  with_reducible
    repeat' (first
      | assumption | apply guarded_keeps | apply State.modCan_keeps | (intro _ _; beta_reduce))

theorem State.readback_keeps {s : State} {pins : List Nat} {levels : Word} (hk : Keeps pq s) :
    Keeps pq (State.readback s pins levels) := by
  unfold State.readback
  with_reducible
    repeat' (first
      | assumption | apply State.raiseAll_keeps | simp only [keeps_mk, keeps_eta])

theorem State.putPins_keeps {s : State} {di : Nat} {d : Desc} {time : Nat} {levels : Word} (hk : Keeps pq s) :
    Keeps pq (State.putPins s di d time levels) := by
  unfold State.putPins
  with_reducible
    repeat' (first
      | assumption | apply State.setDescStatus_keeps | apply State.putWords_keeps | apply State.feedDraft_keeps
      | apply keeps_ite)

theorem State.capturePins_keeps {s : State} {time : Nat} {levels : Word} {crcError : Bool} (hk : Keeps pq s) :
    Keeps pq (State.capturePins s time levels crcError) := by
  unfold State.capturePins
  with_reducible
    repeat' (first
      | assumption | apply State.forAll_keeps | apply State.setDescStatus_keeps | apply State.putPins_keeps
      | apply keeps_ite | simp only [keeps_mk, keeps_eta] | split | (intro _ _ _; beta_reduce))

theorem State.gpioCapture_keeps {s : State} {levels : Word} {crcError : Bool} (hk : Keeps pq s) :
    Keeps pq (State.gpioCapture s levels crcError) := by
  unfold State.gpioCapture
  with_reducible
    repeat' (first
      | assumption | apply State.capturePins_keeps | apply State.readback_keeps | apply keeps_ite
      | simp only [keeps_mk, keeps_eta])

theorem execGpioCapture_keeps {levels : Word} {crcError : Bool} {s : State} (hk : Keeps pq s) :
    OutKeeps pq (execGpioCapture levels crcError s) := by
  unfold execGpioCapture
  with_reducible
    repeat' (first
      | assumption | apply guarded_keeps | apply State.gpioCapture_keeps | (intro _ _; beta_reduce))

theorem execGpioSample_keeps {k : Fin 8} {levels : Word} {s : State} (hk : Keeps pq s) :
    OutKeeps pq (execGpioSample k levels s) := by
  unfold execGpioSample
  with_reducible
    repeat' (first
      | assumption | apply guarded_keeps | apply answer_keeps | apply State.pushRecord_keeps | split
      | (intro _ _; beta_reduce))

theorem execGpioReadback_keeps {levels : Word} {s : State} (hk : Keeps pq s) :
    OutKeeps pq (execGpioReadback levels s) := by
  unfold execGpioReadback
  with_reducible
    repeat' (first
      | assumption | apply guarded_keeps | apply State.readback_keeps | simp only [keeps_mk, keeps_eta]
      | (intro _ _; beta_reduce))

theorem execAdd_keeps {i : Iss} {rd ra : Reg} {b : Src} {s : State} (hk : Keeps pq s) :
    OutKeeps pq (execAdd i rd ra b s) := by
  unfold execAdd
  with_reducible
    repeat' (first
      | assumption | apply guarded_keeps | apply State.doAlu_keeps | (intro _ _; beta_reduce))

theorem execAddt_keeps {i : Iss} {rd ra : Reg} {b : Src} {s : State} (hk : Keeps pq s) :
    OutKeeps pq (execAddt i rd ra b s) := by
  unfold execAddt
  with_reducible
    repeat' (first
      | assumption | apply guarded_keeps | apply State.doAlu_keeps | (intro _ _; beta_reduce))

theorem execSub_keeps {i : Iss} {rd ra : Reg} {b : Src} {s : State} (hk : Keeps pq s) :
    OutKeeps pq (execSub i rd ra b s) := by
  unfold execSub
  with_reducible
    repeat' (first
      | assumption | apply guarded_keeps | apply State.doAlu_keeps | (intro _ _; beta_reduce))

theorem execSubt_keeps {i : Iss} {rd ra : Reg} {b : Src} {s : State} (hk : Keeps pq s) :
    OutKeeps pq (execSubt i rd ra b s) := by
  unfold execSubt
  with_reducible
    repeat' (first
      | assumption | apply guarded_keeps | apply State.doAlu_keeps | (intro _ _; beta_reduce))

theorem execNeg_keeps {i : Iss} {rd ra : Reg} {s : State} (hk : Keeps pq s) :
    OutKeeps pq (execNeg i rd ra s) := by
  unfold execNeg
  with_reducible
    repeat' (first
      | assumption | apply guarded_keeps | apply State.doAlu_keeps | (intro _ _; beta_reduce))

theorem execNegt_keeps {i : Iss} {rd ra : Reg} {s : State} (hk : Keeps pq s) :
    OutKeeps pq (execNegt i rd ra s) := by
  unfold execNegt
  with_reducible
    repeat' (first
      | assumption | apply guarded_keeps | apply State.doAlu_keeps | (intro _ _; beta_reduce))

theorem execAnd_keeps {i : Iss} {rd ra : Reg} {b : Src} {s : State} (hk : Keeps pq s) :
    OutKeeps pq (execAnd i rd ra b s) := by
  unfold execAnd
  with_reducible
    repeat' (first
      | assumption | apply guarded_keeps | apply State.doAlu_keeps | (intro _ _; beta_reduce))

theorem execOr_keeps {i : Iss} {rd ra : Reg} {b : Src} {s : State} (hk : Keeps pq s) :
    OutKeeps pq (execOr i rd ra b s) := by
  unfold execOr
  with_reducible
    repeat' (first
      | assumption | apply guarded_keeps | apply State.doAlu_keeps | (intro _ _; beta_reduce))

theorem execXor_keeps {i : Iss} {rd ra : Reg} {b : Src} {s : State} (hk : Keeps pq s) :
    OutKeeps pq (execXor i rd ra b s) := by
  unfold execXor
  with_reducible
    repeat' (first
      | assumption | apply guarded_keeps | apply State.doAlu_keeps | (intro _ _; beta_reduce))

theorem execShl_keeps {i : Iss} {rd ra : Reg} {a : Amt} {s : State} (hk : Keeps pq s) :
    OutKeeps pq (execShl i rd ra a s) := by
  unfold execShl
  with_reducible
    repeat' (first
      | assumption | apply guarded_keeps | apply State.doAlu_keeps | (intro _ _; beta_reduce))

theorem execShr_keeps {i : Iss} {rd ra : Reg} {a : Amt} {s : State} (hk : Keeps pq s) :
    OutKeeps pq (execShr i rd ra a s) := by
  unfold execShr
  with_reducible
    repeat' (first
      | assumption | apply guarded_keeps | apply State.doAlu_keeps | (intro _ _; beta_reduce))

theorem execSar_keeps {i : Iss} {rd ra : Reg} {a : Amt} {s : State} (hk : Keeps pq s) :
    OutKeeps pq (execSar i rd ra a s) := by
  unfold execSar
  with_reducible
    repeat' (first
      | assumption | apply guarded_keeps | apply State.doAlu_keeps | (intro _ _; beta_reduce))

theorem execRol_keeps {i : Iss} {rd ra : Reg} {a : Amt} {s : State} (hk : Keeps pq s) :
    OutKeeps pq (execRol i rd ra a s) := by
  unfold execRol
  with_reducible
    repeat' (first
      | assumption | apply guarded_keeps | apply State.doAlu_keeps | (intro _ _; beta_reduce))

theorem execClz_keeps {i : Iss} {rd ra : Reg} {s : State} (hk : Keeps pq s) :
    OutKeeps pq (execClz i rd ra s) := by
  unfold execClz
  with_reducible
    repeat' (first
      | assumption | apply guarded_keeps | apply State.doAlu_keeps | (intro _ _; beta_reduce))

theorem execBfx_keeps {i : Iss} {rd ra : Reg} {pos len1 : BitVec 6} {s : State} (hk : Keeps pq s) :
    OutKeeps pq (execBfx i rd ra pos len1 s) := by
  unfold execBfx
  with_reducible
    repeat' (first
      | assumption | apply guarded_keeps | apply State.doAlu_keeps | split | (intro _ _; beta_reduce))

theorem execBfi_keeps {i : Iss} {rd ra : Reg} {pos len1 : BitVec 6} {s : State} (hk : Keeps pq s) :
    OutKeeps pq (execBfi i rd ra pos len1 s) := by
  unfold execBfi
  with_reducible
    repeat' (first
      | assumption | apply guarded_keeps | apply State.doAlu_keeps | split | (intro _ _; beta_reduce))

theorem execPerm_keeps {i : Iss} {rd ra rb : Reg} {s : State} (hk : Keeps pq s) :
    OutKeeps pq (execPerm i rd ra rb s) := by
  unfold execPerm
  with_reducible
    repeat' (first
      | assumption | apply guarded_keeps | apply State.doAlu_keeps | (intro _ _; beta_reduce))

theorem State.doMul_keeps {s : State} {i : Iss} {regs : List Reg} {rd : Reg} {f : (Reg → TWord) → Except Exc AluOut}
    (hk : Keeps pq s) :
    Keeps pq (State.doMul s i regs rd f) := by
  unfold State.doMul
  with_reducible
    repeat' (first
      | assumption | apply resKeeps_ok | apply resKeeps_exc | apply State.issueOne_keeps
      | simp only [keeps_mk, keeps_eta] | split | (intro _ _ _; beta_reduce))

theorem execMul_keeps {i : Iss} {rd ra : Reg} {b : Src} {s : State} (hk : Keeps pq s) :
    OutKeeps pq (execMul i rd ra b s) := by
  unfold execMul
  with_reducible
    repeat' (first
      | assumption | apply guarded_keeps | apply State.doMul_keeps | (intro _ _; beta_reduce))

theorem execMulh_keeps {i : Iss} {rd ra rb : Reg} {s : State} (hk : Keeps pq s) :
    OutKeeps pq (execMulh i rd ra rb s) := by
  unfold execMulh
  with_reducible
    repeat' (first
      | assumption | apply guarded_keeps | apply State.doMul_keeps | (intro _ _; beta_reduce))

theorem execMulWriteback_keeps {p : PenN} {s : State} (hk : Keeps pq s) :
    OutKeeps pq (execMulWriteback p s) := by
  unfold execMulWriteback
  with_reducible
    repeat' (first
      | assumption | apply guarded_keeps | apply State.modPen_keeps | (intro _ _; beta_reduce))

theorem State.doDiv_keeps {s : State} {i : Iss} {rd ra rb : Reg} {f : TWord → TWord → Except Exc DivOut}
    (hk : Keeps pq s) :
    Keeps pq (State.doDiv s i rd ra rb f) := by
  unfold State.doDiv
  with_reducible
    repeat' (first
      | assumption | apply resKeeps_ok | apply resKeeps_exc | apply State.issueOne_keeps
      | simp only [keeps_mk, keeps_eta] | split | (intro _ _ _; beta_reduce))

theorem execDiv_keeps {i : Iss} {rd ra rb : Reg} {s : State} (hk : Keeps pq s) :
    OutKeeps pq (execDiv i rd ra rb s) := by
  unfold execDiv
  with_reducible
    repeat' (first
      | assumption | apply guarded_keeps | apply State.doDiv_keeps | (intro _ _; beta_reduce))

theorem execDivt_keeps {i : Iss} {rd ra rb : Reg} {s : State} (hk : Keeps pq s) :
    OutKeeps pq (execDivt i rd ra rb s) := by
  unfold execDivt
  with_reducible
    repeat' (first
      | assumption | apply guarded_keeps | apply State.doDiv_keeps | (intro _ _; beta_reduce))

theorem execRem_keeps {i : Iss} {rd ra rb : Reg} {s : State} (hk : Keeps pq s) :
    OutKeeps pq (execRem i rd ra rb s) := by
  unfold execRem
  with_reducible
    repeat' (first
      | assumption | apply guarded_keeps | apply State.doDiv_keeps | (intro _ _; beta_reduce))

theorem State.divideEnd_keeps {s : State} {p : Nat} (hk : Keeps pq s) :
    Keeps pq (State.divideEnd s p) := by
  unfold State.divideEnd
  with_reducible
    repeat' (first
      | assumption | apply OptKeeps.getD | apply State.takeExc_keeps | apply State.modPen_keeps | apply keeps_ite
      | simp only [keeps_mk, keeps_eta] | split)

theorem execDivideComplete_keeps {p : PenN} {s : State} (hk : Keeps pq s) :
    OutKeeps pq (execDivideComplete p s) := by
  unfold execDivideComplete
  with_reducible
    repeat' (first
      | assumption | apply guarded_keeps | apply State.divideEnd_keeps | (intro _ _; beta_reduce))

theorem execTag_keeps {i : Iss} {rd ra : Reg} {t : Tag} {s : State} (hk : Keeps pq s) :
    OutKeeps pq (execTag i rd ra t s) := by
  unfold execTag
  with_reducible
    repeat' (first
      | assumption | apply guarded_keeps | apply State.doAlu_keeps | simp only [keeps_mk, keeps_eta]
      | (intro _ _; beta_reduce))

theorem execTagof_keeps {i : Iss} {rd ra : Reg} {s : State} (hk : Keeps pq s) :
    OutKeeps pq (execTagof i rd ra s) := by
  unfold execTagof
  with_reducible
    repeat' (first
      | assumption | apply guarded_keeps | apply State.doAlu_keeps | (intro _ _; beta_reduce))

theorem execChk_keeps {i : Iss} {rs : Reg} {mask : BitVec 16} {s : State} (hk : Keeps pq s) :
    OutKeeps pq (execChk i rs mask s) := by
  unfold execChk
  with_reducible
    repeat' (first
      | assumption | apply guarded_keeps | apply resKeeps_ok | apply resKeeps_exc | apply State.issueOne_keeps | split
      | (intro _ _ _; beta_reduce) | (intro _ _; beta_reduce))

theorem execPoison_keeps {i : Iss} {rd : Reg} {s : State} (hk : Keeps pq s) :
    OutKeeps pq (execPoison i rd s) := by
  unfold execPoison
  with_reducible
    repeat' (first
      | assumption | apply guarded_keeps | apply State.doAlu_keeps | (intro _ _; beta_reduce))

theorem State.passCycle_keeps {s : State} (hk : Keeps pq s) :
    Keeps pq (State.passCycle s) := by
  unfold State.passCycle
  with_reducible
    repeat' (first
      | assumption | apply State.arriveDue_keeps | simp only [keeps_mk, keeps_eta] | split)

end Sys2Proof.Machine
end

