-- ==== Sys2Proof/Laws/KeepsHuvas.lean ====
section
/-! SUPPORT. That the Huvas, its commands, the host, registers and power keep the queue of waiting commands and the canonical form of the two memories. -/

set_option linter.unusedSimpArgs false
set_option linter.unusedTactic false

namespace Sys2Proof.Machine

variable {pq : List Instr}

theorem State.huvasWrite_keeps {s : State} {cpa : Nat} {w : TWord} (hk : Keeps pq s) :
    Keeps pq (State.huvasWrite s cpa w) := by
  unfold State.huvasWrite
  with_reducible
    repeat' (first
      | assumption | apply OptKeeps.getD | apply State.regWrite_keeps)

theorem execRulingEntryWrite_keeps {w : TWord} {s : State} (hk : Keeps pq s) :
    OutKeeps pq (execRulingEntryWrite w s) := by
  unfold execRulingEntryWrite
  with_reducible
    repeat' (first
      | assumption | apply guarded_keeps | apply State.huvasWrite_keeps | (intro _ _; beta_reduce))

theorem execVtSlotWrite_keeps {w : TWord} {s : State} (hk : Keeps pq s) :
    OutKeeps pq (execVtSlotWrite w s) := by
  unfold execVtSlotWrite
  with_reducible
    repeat' (first
      | assumption | apply guarded_keeps | apply State.huvasWrite_keeps | (intro _ _; beta_reduce))

theorem execPxRecordWrite_keeps {w : TWord} {s : State} (hk : Keeps pq s) :
    OutKeeps pq (execPxRecordWrite w s) := by
  unfold execPxRecordWrite
  with_reducible
    repeat' (first
      | assumption | apply guarded_keeps | apply State.huvasWrite_keeps | (intro _ _; beta_reduce))

theorem execPtRecordWrite_keeps {w : TWord} {s : State} (hk : Keeps pq s) :
    OutKeeps pq (execPtRecordWrite w s) := by
  unfold execPtRecordWrite
  with_reducible
    repeat' (first
      | assumption | apply guarded_keeps | apply State.huvasWrite_keeps | (intro _ _; beta_reduce))

theorem execFolioSwitchWrite_keeps {w : TWord} {s : State} (hk : Keeps pq s) :
    OutKeeps pq (execFolioSwitchWrite w s) := by
  unfold execFolioSwitchWrite
  with_reducible
    repeat' (first
      | assumption | apply guarded_keeps | apply State.huvasWrite_keeps | (intro _ _; beta_reduce))

theorem execMmuInvAll_keeps {p : PenN} {s : State} (hk : Keeps pq s) :
    OutKeeps pq (execMmuInvAll p s) := by
  unfold execMmuInvAll
  with_reducible
    repeat' (first
      | assumption | apply guarded_keeps | apply State.huvasWrite_keeps | (intro _ _; beta_reduce))

theorem execMmuLslotLoad_keeps {p : PenN} {slots : BitVec 8} {s : State} (hk : Keeps pq s) :
    OutKeeps pq (execMmuLslotLoad p slots s) := by
  unfold execMmuLslotLoad
  with_reducible
    repeat' (first
      | assumption | apply guarded_keeps | apply State.huvasWrite_keeps | (intro _ _; beta_reduce))

theorem execHuvEqPop_keeps {s : State} (hk : Keeps pq s) :
    OutKeeps pq (execHuvEqPop s) := by
  unfold execHuvEqPop
  with_reducible
    repeat' (first
      | assumption | apply guarded_keeps | apply State.huvasWrite_keeps | (intro _ _; beta_reduce))

theorem execHifQpWrite_keeps {w : TWord} {s : State} (hk : Keeps pq s) :
    OutKeeps pq (execHifQpWrite w s) := by
  unfold execHifQpWrite
  with_reducible
    repeat' (first
      | assumption | apply guarded_keeps | apply State.huvasWrite_keeps | (intro _ _; beta_reduce))

theorem execTrcListWrite_keeps {w : TWord} {s : State} (hk : Keeps pq s) :
    OutKeeps pq (execTrcListWrite w s) := by
  unfold execTrcListWrite
  with_reducible
    repeat' (first
      | assumption | apply guarded_keeps | apply State.huvasWrite_keeps | (intro _ _; beta_reduce))

theorem execFeedDescWrite_keeps {w : TWord} {s : State} (hk : Keeps pq s) :
    OutKeeps pq (execFeedDescWrite w s) := by
  unfold execFeedDescWrite
  with_reducible
    repeat' (first
      | assumption | apply guarded_keeps | apply State.huvasWrite_keeps | (intro _ _; beta_reduce))

theorem execDomainRequestWrite_keeps {other : Bool} {w : TWord} {s : State} (hk : Keeps pq s) :
    OutKeeps pq (execDomainRequestWrite other w s) := by
  unfold execDomainRequestWrite
  with_reducible
    repeat' (first
      | assumption | apply guarded_keeps | apply State.huvasWrite_keeps | split | (intro _ _; beta_reduce))

theorem State.huvasFabric_keeps {s : State} {cpa : Nat} (hk : Keeps pq s) :
    Keeps pq (State.huvasFabric s cpa) := by
  unfold State.huvasFabric
  with_reducible
    repeat' (first
      | assumption | apply State.raise_keeps)

theorem execRegisterWrite_keeps {cpa : BitVec 48} {w : TWord} {crcTwice : Bool} {same : Word} {s : State}
    (hk : Keeps pq s) :
    OutKeeps pq (execRegisterWrite cpa w crcTwice same s) := by
  unfold execRegisterWrite
  with_reducible
    repeat' (first
      | assumption | apply guarded_keeps | apply State.huvasFabric_keeps | apply State.huvasWrite_keeps | split
      | (intro _ _; beta_reduce))

theorem execRegisterReadClear_keeps {cpa : BitVec 48} {crcTwice : Bool} {same : Word} {s : State} (hk : Keeps pq s) :
    OutKeeps pq (execRegisterReadClear cpa crcTwice same s) := by
  unfold execRegisterReadClear
  with_reducible
    repeat' (first
      | assumption | apply guarded_keeps | apply State.huvasFabric_keeps | apply State.regClear_keeps | split
      | (intro _ _; beta_reduce))

theorem execSubmissionRequest_keeps {p : PenN} {k : BitVec 8} {w : Word} {s : State} (hk : Keeps pq s) :
    OutKeeps pq (execSubmissionRequest p k w s) := by
  unfold execSubmissionRequest
  with_reducible
    repeat' (first
      | assumption | apply guarded_keeps | apply State.subPend_keeps | (intro _ _; beta_reduce))

theorem State.portMac_keeps {s : State} {m : Nat} (hk : Keeps pq s) :
    Keeps pq (State.portMac s m) := by
  unfold State.portMac
  with_reducible
    repeat' (first
      | assumption | apply State.modMac_keeps | apply keeps_ite)

theorem State.portCan_keeps {s : State} {c : Nat} (hk : Keeps pq s) :
    Keeps pq (State.portCan s c) := by
  unfold State.portCan
  with_reducible
    repeat' (first
      | assumption | apply State.modCan_keeps)

theorem State.portCluster_keeps {s : State} (hk : Keeps pq s) :
    Keeps pq (State.portCluster s) := by
  unfold State.portCluster
  with_reducible
    repeat' (first
      | assumption | apply State.forAll_keeps | apply State.portCan_keeps | apply keeps_ite
      | simp only [keeps_mk, keeps_eta] | (intro _ _ _; beta_reduce))

theorem State.setDomain_keeps {s : State} {d : Domain} {v : Bool} (hk : Keeps pq s) :
    Keeps pq (State.setDomain s d v) := by
  unfold State.setDomain
  with_reducible
    repeat' (first
      | assumption | simp only [keeps_mk, keeps_eta] | split)

theorem State.endMarchOf_keeps {s : State} {p : Option Nat} {code : Nat} (hk : Keeps pq s) :
    Keeps pq (State.endMarchOf s p code) := by
  unfold State.endMarchOf
  with_reducible
    repeat' (first
      | assumption | apply State.endMarch_keeps | apply keeps_ite | split)

theorem State.penDown_keeps {s : State} {p : Nat} (hk : Keeps pq s) :
    Keeps pq (State.penDown s p) := by
  unfold State.penDown
  with_reducible
    repeat' (first
      | assumption | apply State.freeBlotter_keeps | apply State.killRun_keeps | apply State.killEnding_keeps
      | apply State.modPen_keeps | apply State.endMarchOf_keeps | apply State.mirrorAfterLoss_keeps | apply keeps_ite)

theorem State.macDown_keeps {s : State} {m : Nat} (hk : Keeps pq s) :
    Keeps pq (State.macDown s m) := by
  unfold State.macDown
  with_reducible
    repeat' (first
      | assumption | apply State.ethDown_keeps | apply State.ethWithdraw_keeps | apply keeps_ite
      | simp only [keeps_mk, keeps_eta])

theorem State.clusterDown_keeps {s : State} (hk : Keeps pq s) :
    Keeps pq (State.clusterDown s) := by
  unfold State.clusterDown
  with_reducible
    repeat' (first
      | assumption | apply State.forAll_keeps | apply State.canWithdraw_keeps | simp only [keeps_mk, keeps_eta]
      | (intro _ _ _; beta_reduce))

theorem State.blotterDown_keeps {s : State} (hk : Keeps pq s) :
    Keeps pq (State.blotterDown s) := by
  unfold State.blotterDown
  with_reducible
    repeat' (first
      | assumption | apply State.forAll_keeps | apply State.passEnd_keeps | apply State.endMarchOf_keeps
      | apply State.untested_keeps | apply keeps_ite | (intro _ _ _; beta_reduce))

theorem State.securityDown_keeps {s : State} (hk : Keeps pq s) :
    Keeps pq (State.securityDown s) := by
  unfold State.securityDown
  with_reducible
    repeat' (first
      | assumption | simp only [keeps_mk, keeps_eta])

theorem State.passDown_keeps {s : State} {d : Domain} (hk : Keeps pq s) :
    Keeps pq (State.passDown s d) := by
  unfold State.passDown
  with_reducible
    repeat' (first
      | assumption | apply State.passEnd_keeps | apply keeps_ite)

theorem State.switchOff_keeps {s : State} {d : Domain} (hk : Keeps pq s) :
    Keeps pq (State.switchOff s d) := by
  unfold State.switchOff
  with_reducible
    repeat' (first
      | assumption | apply State.setDomain_keeps | apply State.passDown_keeps | apply State.penDown_keeps
      | apply State.macDown_keeps | apply State.clusterDown_keeps | apply State.blotterDown_keeps
      | apply State.securityDown_keeps | apply keeps_ite | simp only [keeps_mk, keeps_eta] | split)

theorem State.switchOn_keeps {s : State} {d : Domain} (hk : Keeps pq s) :
    Keeps pq (State.switchOn s d) := by
  unfold State.switchOn
  with_reducible
    repeat' (first
      | assumption | apply State.modPen_keeps | apply State.setDomain_keeps | apply State.modRsv_keeps
      | apply State.portMac_keeps | apply State.portCluster_keeps | apply keeps_ite | simp only [keeps_mk, keeps_eta]
      | split)

theorem State.popRequest_keeps {s : State} (hk : Keeps pq s) :
    Keeps pq (State.popRequest s) := by
  unfold State.popRequest
  with_reducible
    repeat' (first
      | assumption | simp only [keeps_mk, keeps_eta])

theorem execDomainSwitchOff_keeps {d : Domain} {s : State} (hk : Keeps pq s) :
    OutKeeps pq (execDomainSwitchOff d s) := by
  unfold execDomainSwitchOff
  with_reducible
    repeat' (first
      | assumption | apply guarded_keeps | apply State.powerDone_keeps | apply State.switchOff_keeps
      | apply State.popRequest_keeps | (intro _ _; beta_reduce))

theorem execDomainSwitchOn_keeps {d : Domain} {s : State} (hk : Keeps pq s) :
    OutKeeps pq (execDomainSwitchOn d s) := by
  unfold execDomainSwitchOn
  with_reducible
    repeat' (first
      | assumption | apply guarded_keeps | apply State.powerDone_keeps | apply State.switchOn_keeps
      | apply State.popRequest_keeps | (intro _ _; beta_reduce))

theorem execMailboxGo_keeps {m : MbN} {opcode token : BitVec 16} {upperHalf : Bool} {s : State} (hk : Keeps pq s) :
    OutKeeps pq (execMailboxGo m opcode token upperHalf s) := by
  unfold execMailboxGo
  with_reducible
    repeat' (first
      | assumption | apply guarded_keeps | apply State.goWrite_keeps | (intro _ _; beta_reduce))

theorem execMailboxAbort_keeps {m : MbN} {s : State} (hk : Keeps pq s) :
    OutKeeps pq (execMailboxAbort m s) := by
  unfold execMailboxAbort
  with_reducible
    repeat' (first
      | assumption | apply guarded_keeps | apply State.abortWrite_keeps | (intro _ _; beta_reduce))

theorem State.flushMsix_keeps {s : State} (hk : Keeps pq s) :
    Keeps pq (State.flushMsix s) := by
  unfold State.flushMsix
  with_reducible
    repeat' (first
      | assumption | apply State.forAll_keeps | apply State.sendMsix_keeps | apply State.modMsix_keeps
      | apply keeps_ite | simp only [keeps_mk, keeps_eta] | (intro _ _ _; beta_reduce))

theorem State.msixWrite_keeps {s : State} {off n : Nat} {w : Word} (hk : Keeps pq s) :
    Keeps pq (State.msixWrite s off n w) := by
  unfold State.msixWrite
  with_reducible
    repeat' (first
      | assumption | apply State.modMsix_keeps | apply State.flushMsix_keeps)

theorem State.hostWrite_keeps {s : State} {bar2 : Bool} {off n : Nat} {w : Word} {poisoned : Bool} (hk : Keeps pq s) :
    Keeps pq (State.hostWrite s bar2 off n w poisoned) := by
  unfold State.hostWrite
  with_reducible
    repeat' (first
      | assumption | apply State.noteAer_keeps | apply State.pageWrite_keeps | apply State.ringDoorbell_keeps
      | apply State.msixWrite_keeps | apply keeps_ite | simp only [keeps_mk, keeps_eta])

theorem execInboundWrite_keeps {bar2 : Bool} {off : BitVec 17} {size : BitVec 13} {w : Word}
    {poisoned ecrcBad : Bool} {s : State} (hk : Keeps pq s) :
    OutKeeps pq (execInboundWrite bar2 off size w poisoned ecrcBad s) := by
  unfold execInboundWrite
  with_reducible
    repeat' (first
      | assumption | apply guarded_keeps | apply State.noteAer_keeps | apply State.hostWrite_keeps | apply keeps_ite
      | (intro _ _; beta_reduce))

theorem State.hostRead_keeps {s : State} {bar2 : Bool} {off n : Nat} (hk : Keeps pq s) :
    Keeps pq (State.hostRead s bar2 off n) := by
  unfold State.hostRead
  with_reducible
    repeat' (first
      | assumption | apply State.emit_keeps | apply State.noteAer_keeps | apply keeps_ite)

theorem execInboundRead_keeps {bar2 : Bool} {off : BitVec 17} {size : BitVec 13} {ecrcBad : Bool} {s : State}
    (hk : Keeps pq s) :
    OutKeeps pq (execInboundRead bar2 off size ecrcBad s) := by
  unfold execInboundRead
  with_reducible
    repeat' (first
      | assumption | apply guarded_keeps | apply State.noteAer_keeps | apply State.hostRead_keeps | apply keeps_ite
      | (intro _ _; beta_reduce))

theorem execDoorbell_keeps {w : Word} {s : State} (hk : Keeps pq s) :
    OutKeeps pq (execDoorbell w s) := by
  unfold execDoorbell
  with_reducible
    repeat' (first
      | assumption | apply guarded_keeps | apply State.ringDoorbell_keeps | (intro _ _; beta_reduce))

theorem execMsixUnmask_keeps {v : Fin 2048} {s : State} (hk : Keeps pq s) :
    OutKeeps pq (execMsixUnmask v s) := by
  unfold execMsixUnmask
  with_reducible
    repeat' (first
      | assumption | apply guarded_keeps | apply State.flushMsix_keeps | apply State.modMsix_keeps
      | (intro _ _; beta_reduce))

theorem State.loseQueue_keeps {s : State} {q : Nat} (hk : Keeps pq s) :
    Keeps pq (State.loseQueue s q) := by
  unfold State.loseQueue
  with_reducible
    repeat' (first
      | assumption | apply State.forAll_keeps | apply State.setDescStatus_keeps | apply State.modQueue_keeps
      | apply keeps_ite | simp only [keeps_mk, keeps_eta] | (intro _ _ _; beta_reduce))

theorem State.loseQueues_keeps {s : State} (hk : Keeps pq s) :
    Keeps pq (State.loseQueues s) := by
  unfold State.loseQueues
  with_reducible
    repeat' (first
      | assumption | apply State.forAll_keeps | apply State.modQueue_keeps | apply State.loseQueue_keeps
      | (intro _ _ _; beta_reduce))

theorem State.linkLost_keeps {s : State} {perst : Bool} (hk : Keeps pq s) :
    Keeps pq (State.linkLost s perst) := by
  unfold State.linkLost
  with_reducible
    repeat' (first
      | assumption | apply State.loseQueues_keeps | apply State.breakWindow_keeps | apply State.raise_keeps
      | simp only [keeps_mk, keeps_eta])

theorem execLinkDown_keeps {perst : Bool} {s : State} (hk : Keeps pq s) :
    OutKeeps pq (execLinkDown perst s) := by
  unfold execLinkDown
  with_reducible
    repeat' (first
      | assumption | apply guarded_keeps | apply State.linkLost_keeps | apply keeps_ite
      | simp only [keeps_mk, keeps_eta] | (intro _ _; beta_reduce))

theorem execLinkUp_keeps {speed : BitVec 3} {width : BitVec 5} {flit : Bool} {s : State} (hk : Keeps pq s) :
    OutKeeps pq (execLinkUp speed width flit s) := by
  unfold execLinkUp
  with_reducible
    repeat' (first
      | assumption | apply guarded_keeps | simp only [keeps_mk, keeps_eta] | (intro _ _; beta_reduce))

theorem execLinkRetrain_keeps {speed : BitVec 3} {width : BitVec 5} {s : State} (hk : Keeps pq s) :
    OutKeeps pq (execLinkRetrain speed width s) := by
  unfold execLinkRetrain
  with_reducible
    repeat' (first
      | assumption | apply guarded_keeps | simp only [keeps_mk, keeps_eta] | (intro _ _; beta_reduce))

theorem State.enterD3_keeps {s : State} (hk : Keeps pq s) :
    Keeps pq (State.enterD3 s) := by
  unfold State.enterD3
  with_reducible
    repeat' (first
      | assumption | apply State.breakWindow_keeps | apply State.loseQueues_keeps | apply State.raise_keeps
      | apply keeps_ite | simp only [keeps_mk, keeps_eta])

theorem execD3hotWrite_keeps {s : State} (hk : Keeps pq s) :
    OutKeeps pq (execD3hotWrite s) := by
  unfold execD3hotWrite
  with_reducible
    repeat' (first
      | assumption | apply guarded_keeps | apply State.enterD3_keeps)

theorem execD0Write_keeps {s : State} (hk : Keeps pq s) :
    OutKeeps pq (execD0Write s) := by
  unfold execD0Write
  with_reducible
    repeat' (first
      | assumption | apply guarded_keeps | simp only [keeps_mk, keeps_eta] | (intro _ _; beta_reduce))

theorem execConfigWrite_keeps {w : ConfigWrite} {s : State} (hk : Keeps pq s) :
    OutKeeps pq (execConfigWrite w s) := by
  unfold execConfigWrite
  with_reducible
    repeat' (first
      | assumption | apply guarded_keeps | apply State.flushMsix_keeps | simp only [keeps_mk, keeps_eta]
      | (intro _ _; beta_reduce))

theorem State.modIde_keeps {s : State} {i : Nat} {f : Ide → Ide} (hk : Keeps pq s) :
    Keeps pq (State.modIde s i f) := by
  unfold State.modIde
  with_reducible
    repeat' (first
      | assumption | simp only [keeps_mk, keeps_eta])

theorem execIdeCheckFail_keeps {stream : Fin 4} {s : State} (hk : Keeps pq s) :
    OutKeeps pq (execIdeCheckFail stream s) := by
  unfold execIdeCheckFail
  with_reducible
    repeat' (first
      | assumption | apply guarded_keeps | apply State.raise_keeps | apply State.noteAer_keeps
      | simp only [keeps_mk, keeps_eta] | (intro _ _; beta_reduce))

theorem execIdeKeySetGo_keeps {stream : Fin 4} {s : State} (hk : Keeps pq s) :
    OutKeeps pq (execIdeKeySetGo stream s) := by
  unfold execIdeKeySetGo
  with_reducible
    repeat' (first
      | assumption | apply guarded_keeps | apply State.modIde_keeps | (intro _ _; beta_reduce))

theorem State.doeAnswer_keeps {s : State} {r : DoeReq} (hk : Keeps pq s) :
    Keeps pq (State.doeAnswer s r) := by
  unfold State.doeAnswer
  with_reducible
    repeat' (first
      | assumption | apply State.modIde_keeps | apply keeps_ite | simp only [keeps_mk, keeps_eta] | split)

theorem execDoeRequest_keeps {r : DoeReq} {s : State} (hk : Keeps pq s) :
    OutKeeps pq (execDoeRequest r s) := by
  unfold execDoeRequest
  with_reducible
    repeat' (first
      | assumption | apply guarded_keeps | apply State.doeAnswer_keeps | (intro _ _; beta_reduce))

theorem execDoeAbort_keeps {s : State} (hk : Keeps pq s) :
    OutKeeps pq (execDoeAbort s) := by
  unfold execDoeAbort
  with_reducible
    repeat' (first
      | assumption | apply guarded_keeps | simp only [keeps_mk, keeps_eta] | (intro _ _; beta_reduce))

theorem State.command_keeps {s : State} {m op : Nat} {body : State → State} (hk : Keeps pq s)
    (hf : ∀ t, Keeps pq t → Keeps pq (body t)) :
    Keeps pq (State.command s m op body) := by
  unfold State.command
  split
  · exact hf s hk
  · exact State.finish_keeps hk

theorem runCommand_keeps {m op : Nat} {s : State} {body : State → State} (hk : Keeps pq s)
    (hf : ∀ t, Keeps pq t → Keeps pq (body t)) :
    OutKeeps pq (runCommand m op s body) := by
  exact guarded_keeps hk (fun t ht => State.command_keeps ht hf)

theorem State.holdCmd_keeps {s : State} {m steps : Nat} (hk : Keeps pq s) :
    Keeps pq (State.holdCmd s m steps) := by
  unfold State.holdCmd
  with_reducible
    repeat' (first
      | assumption | apply State.modMbox_keeps | simp only [keeps_mk, keeps_eta])

theorem State.fabricEnd_keeps {s : State} {m : Nat} (hk : Keeps pq s) :
    Keeps pq (State.fabricEnd s m) := by
  unfold State.fabricEnd
  with_reducible
    repeat' (first
      | assumption | apply State.raise_keeps | apply State.stopCmd_keeps | apply keeps_ite)

theorem stepCommand_keeps {m op : Nat} {run : CmdRun} {s : State} {f : Option Nat → Nat → State → State}
    (hk : Keeps pq s) (hf : ∀ a b t, Keeps pq t → Keeps pq (f a b t)) :
    OutKeeps pq (stepCommand m op run s f) := by
  unfold stepCommand
  refine guarded_keeps hk (fun t ht => ?_)
  split
  · split
    · exact State.finish_keeps ht
    · exact State.stopCmd_keeps ht
  · have h : ∀ a b, Keeps pq (f a b { t with huv := { t.huv with prog := none } }) := fun a b => hf a b _ ht
    dsimp only
    with_reducible
      repeat' (first
        | apply State.fabricEnd_keeps | apply h | split)

theorem State.startCmd_keeps {s : State} {m : Nat} (hk : Keeps pq s) :
    Keeps pq (State.startCmd s m) := by
  unfold State.startCmd
  with_reducible
    repeat' (first
      | assumption | apply State.modMbox_keeps)

theorem State.waitFor_keeps {s : State} {m : Nat} {w : Waiting} (hk : Keeps pq s) :
    Keeps pq (State.waitFor s m w) := by
  unfold State.waitFor
  with_reducible
    repeat' (first
      | assumption | apply State.startCmd_keeps | simp only [keeps_mk, keeps_eta])

theorem State.goBackground_keeps {s : State} {m : Nat} (hk : Keeps pq s) :
    Keeps pq (State.goBackground s m) := by
  unfold State.goBackground
  with_reducible
    repeat' (first
      | assumption | apply State.startCmd_keeps | simp only [keeps_mk, keeps_eta])

theorem State.hostPut_keeps {s : State} {addr : Nat} {ws : List Word} {linkFails : Bool} (hk : Keeps pq s) :
    Keeps pq (State.hostPut s addr ws linkFails).2 := by
  unfold State.hostPut
  with_reducible
    repeat' (first
      | assumption | apply State.emitTo_keeps | split)

theorem State.requestOff_keeps {s : State} {d : Domain} (hk : Keeps pq s) :
    Keeps pq (State.requestOff s d) := by
  unfold State.requestOff
  with_reducible
    repeat' (first
      | assumption | apply keeps_ite | simp only [keeps_mk, keeps_eta])

theorem State.fwAct_keeps {s : State} {a : FwAct} (hk : Keeps pq s) :
    Keeps pq (State.fwAct s a) := by
  unfold State.fwAct
  with_reducible
    repeat' (first
      | assumption | apply State.requestOff_keeps | apply State.sendMsix_keeps | apply State.stopCmd_keeps
      | apply keeps_ite | split)

theorem execRubricFirmwareReaction_keeps {s : State} (hk : Keeps pq s) :
    OutKeeps pq (execRubricFirmwareReaction s) := by
  unfold execRubricFirmwareReaction
  with_reducible
    repeat' (first
      | assumption | apply guarded_keeps | apply State.fwAct_keeps | simp only [keeps_mk, keeps_eta] | split
      | (intro _ _; beta_reduce))

theorem State.nibOut_keeps {s : State} {h : Nat} (hk : Keeps pq s) :
    Keeps pq (State.nibOut s h) := by
  unfold State.nibOut
  with_reducible
    repeat' (first
      | assumption | simp only [keeps_mk, keeps_eta])

theorem State.voterMismatch_keeps {s : State} {odd : Option (Fin 3)} (hk : Keeps pq s) :
    Keeps pq (State.voterMismatch s odd) := by
  unfold State.voterMismatch
  with_reducible
    repeat' (first
      | assumption | apply State.raise_keeps | apply State.nibOut_keeps | apply State.huvasStop_keeps
      | apply keeps_ite | simp only [keeps_mk, keeps_eta] | split)

theorem execVoterMismatch_keeps {odd : Option (Fin 3)} {s : State} (hk : Keeps pq s) :
    OutKeeps pq (execVoterMismatch odd s) := by
  unfold execVoterMismatch
  with_reducible
    repeat' (first
      | assumption | apply guarded_keeps | apply State.voterMismatch_keeps | (intro _ _; beta_reduce))

theorem execHuvasNibCheck_keeps {pass : Bool} {s : State} (hk : Keeps pq s) :
    OutKeeps pq (execHuvasNibCheck pass s) := by
  unfold execHuvasNibCheck
  with_reducible
    repeat' (first
      | assumption | apply guarded_keeps | apply State.raise_keeps | simp only [keeps_mk, keeps_eta] | split
      | (intro _ _; beta_reduce))

theorem execHuvasResync_keeps {s : State} (hk : Keeps pq s) :
    OutKeeps pq (execHuvasResync s) := by
  unfold execHuvasResync
  with_reducible
    repeat' (first
      | assumption | apply guarded_keeps | apply State.raise_keeps | simp only [keeps_mk, keeps_eta]
      | (intro _ _; beta_reduce))

theorem execIdentify_keeps {m : MbN} {s : State} (hk : Keeps pq s) :
    OutKeeps pq (execIdentify m s) := by
  unfold execIdentify
  with_reducible
    repeat' (first
      | assumption | apply runCommand_keeps | apply State.finish_keeps | (intro _ _; beta_reduce))

theorem State.setTime_keeps {s : State} {m : Nat} (hk : Keeps pq s) :
    Keeps pq (State.setTime s m) := by
  unfold State.setTime
  with_reducible
    repeat' (first
      | assumption | apply State.boundSteer_keeps | simp only [keeps_mk, keeps_eta])

theorem execTimeConfig_keeps {m : MbN} {s : State} (hk : Keeps pq s) :
    OutKeeps pq (execTimeConfig m s) := by
  unfold execTimeConfig
  with_reducible
    repeat' (first
      | assumption | apply runCommand_keeps | apply State.finish_keeps | apply State.setTime_keeps | apply keeps_ite
      | simp only [keeps_mk, keeps_eta] | (intro _ _; beta_reduce))

theorem State.supervise_keeps {s : State} {m : Nat} (hk : Keeps pq s) :
    Keeps pq (State.supervise s m) := by
  unfold State.supervise
  with_reducible
    repeat' (first
      | assumption | apply State.finish_keeps | apply keeps_ite | simp only [keeps_mk, keeps_eta])

theorem execSuperviseSet_keeps {m : MbN} {s : State} (hk : Keeps pq s) :
    OutKeeps pq (execSuperviseSet m s) := by
  unfold execSuperviseSet
  with_reducible
    repeat' (first
      | assumption | apply runCommand_keeps | apply State.supervise_keeps | (intro _ _; beta_reduce))

theorem State.penControl_keeps {s : State} {m : Nat} (hk : Keeps pq s) :
    Keeps pq (State.penControl s m) := by
  unfold State.penControl
  with_reducible
    repeat' (first
      | assumption | apply raised_keeps | apply State.finish_keeps | apply State.restartPen_keeps
      | apply State.fencePen_keeps | apply keeps_ite)

theorem execPenControl_keeps {m : MbN} {s : State} (hk : Keeps pq s) :
    OutKeeps pq (execPenControl m s) := by
  unfold execPenControl
  with_reducible
    repeat' (first
      | assumption | apply runCommand_keeps | apply State.penControl_keeps | (intro _ _; beta_reduce))

theorem State.requestDomains_keeps {s : State} {m : Nat} {on : Bool} (hk : Keeps pq s) :
    Keeps pq (State.requestDomains s m on) := by
  unfold State.requestDomains
  with_reducible
    repeat' (first
      | assumption | apply State.domainRequest_keeps | simp only [keeps_mk, keeps_eta])

theorem State.powerCmd_keeps {s : State} {m : Nat} (hk : Keeps pq s) :
    Keeps pq (State.powerCmd s m) := by
  unfold State.powerCmd
  with_reducible
    repeat' (first
      | assumption | apply State.finish_keeps | apply State.powerDone_keeps | apply State.waitFor_keeps
      | apply State.requestDomains_keeps | apply keeps_ite)

theorem execPower_keeps {m : MbN} {s : State} (hk : Keeps pq s) :
    OutKeeps pq (execPower m s) := by
  unfold execPower
  with_reducible
    repeat' (first
      | assumption | apply runCommand_keeps | apply State.powerCmd_keeps | (intro _ _; beta_reduce))

theorem State.quiesceStart_keeps {s : State} {reason : Nat} (hk : Keeps pq s) :
    Keeps pq (State.quiesceStart s reason) := by
  unfold State.quiesceStart
  with_reducible
    repeat' (first
      | assumption | apply State.farewell_keeps | simp only [keeps_mk, keeps_eta])

theorem State.quiesceCmd_keeps {s : State} {m : Nat} (hk : Keeps pq s) :
    Keeps pq (State.quiesceCmd s m) := by
  unfold State.quiesceCmd
  with_reducible
    repeat' (first
      | assumption | apply State.waitFor_keeps | apply State.quiesceStart_keeps | apply State.finish_keeps
      | apply State.stopFolios_keeps | apply keeps_ite)

theorem execQuiesce_keeps {m : MbN} {s : State} (hk : Keeps pq s) :
    OutKeeps pq (execQuiesce m s) := by
  unfold execQuiesce
  with_reducible
    repeat' (first
      | assumption | apply runCommand_keeps | apply State.quiesceCmd_keeps | (intro _ _; beta_reduce))

theorem State.dormantCmd_keeps {s : State} {m : Nat} (hk : Keeps pq s) :
    Keeps pq (State.dormantCmd s m) := by
  unfold State.dormantCmd
  with_reducible
    repeat' (first
      | assumption | apply State.finish_keeps | apply State.waitFor_keeps | apply State.quiesceStart_keeps
      | apply State.goDormant_keeps | apply keeps_ite)

theorem execDormant_keeps {m : MbN} {s : State} (hk : Keeps pq s) :
    OutKeeps pq (execDormant m s) := by
  unfold execDormant
  with_reducible
    repeat' (first
      | assumption | apply runCommand_keeps | apply State.dormantCmd_keeps | (intro _ _; beta_reduce))

theorem State.debugCmd_keeps {s : State} {m : Nat} (hk : Keeps pq s) :
    Keeps pq (State.debugCmd s m) := by
  unfold State.debugCmd
  with_reducible
    repeat' (first
      | assumption | apply State.finish_keeps | apply State.waitFor_keeps | apply State.quiesceStart_keeps
      | apply State.farewell_keeps | apply State.endBackground_keeps | apply keeps_ite
      | simp only [keeps_mk, keeps_eta])

theorem execDebugEnable_keeps {m : MbN} {s : State} (hk : Keeps pq s) :
    OutKeeps pq (execDebugEnable m s) := by
  unfold execDebugEnable
  with_reducible
    repeat' (first
      | assumption | apply runCommand_keeps | apply State.debugCmd_keeps | (intro _ _; beta_reduce))

theorem State.handover_keeps {s : State} {m : Nat} (hk : Keeps pq s) :
    Keeps pq (State.handover s m) := by
  unfold State.handover
  with_reducible
    repeat' (first
      | assumption | apply State.finish_keeps | apply State.modRsv_keeps | apply keeps_ite)

theorem execBankHandover_keeps {m : MbN} {s : State} (hk : Keeps pq s) :
    OutKeeps pq (execBankHandover m s) := by
  unfold execBankHandover
  with_reducible
    repeat' (first
      | assumption | apply runCommand_keeps | apply State.handover_keeps | (intro _ _; beta_reduce))

theorem State.scrubCmd_keeps {s : State} {m : Nat} (hk : Keeps pq s) :
    Keeps pq (State.scrubCmd s m) := by
  unfold State.scrubCmd
  with_reducible
    repeat' (first
      | assumption | apply State.finish_keeps | apply State.goBackground_keeps | apply State.scrubStart_keeps
      | apply keeps_ite | simp only [keeps_mk, keeps_eta])

theorem execScrub_keeps {m : MbN} {s : State} (hk : Keeps pq s) :
    OutKeeps pq (execScrub m s) := by
  unfold execScrub
  with_reducible
    repeat' (first
      | assumption | apply runCommand_keeps | apply State.scrubCmd_keeps | (intro _ _; beta_reduce))

theorem State.marchCmd_keeps {s : State} {m : Nat} (hk : Keeps pq s) :
    Keeps pq (State.marchCmd s m) := by
  unfold State.marchCmd
  with_reducible
    repeat' (first
      | assumption | apply State.finish_keeps | apply State.goBackground_keeps | apply keeps_ite
      | simp only [keeps_mk, keeps_eta])

theorem execMarch_keeps {m : MbN} {s : State} (hk : Keeps pq s) :
    OutKeeps pq (execMarch m s) := by
  unfold execMarch
  with_reducible
    repeat' (first
      | assumption | apply runCommand_keeps | apply State.marchCmd_keeps | (intro _ _; beta_reduce))

theorem State.unset_keeps {s : State} {q : Nat} (hk : Keeps pq s) :
    Keeps pq (State.unset s q) := by
  unfold State.unset
  with_reducible
    repeat' (first
      | assumption | simp only [keeps_mk, keeps_eta])

theorem State.loadWords_keeps {s : State} {a : MemArgs} {ws : List Word} {l : List (Nat × Nat)} (hk : Keeps pq s) :
    Keeps pq (State.loadWords s a ws l) := by
  unfold State.loadWords
  with_reducible
    repeat' (first
      | assumption | apply State.forAll_keeps | apply State.huvasStore_keeps | apply State.unset_keeps
      | (intro _ _ _; beta_reduce))

theorem State.memLoad_keeps {s : State} {m : Nat} {d : HostData} {lim : Option Nat} {done : Nat} (hk : Keeps pq s) :
    Keeps pq (State.memLoad s m d lim done) := by
  unfold State.memLoad
  with_reducible
    repeat' (first
      | assumption | apply State.finish_keeps | apply State.loadWords_keeps | apply State.holdCmd_keeps
      | apply keeps_ite | simp only [keeps_mk, keeps_eta] | split)

theorem execMemLoad_keeps {m : MbN} {data : HostData} {run : CmdRun} {s : State} (hk : Keeps pq s) :
    OutKeeps pq (execMemLoad m data run s) := by
  unfold execMemLoad
  with_reducible
    repeat' (first
      | assumption | apply stepCommand_keeps | apply State.memLoad_keeps | (intro _ _ _; beta_reduce))

theorem State.readRange_keeps {s : State} {base n : Nat} (hk : Keeps pq s) :
    Keeps pq (State.readRange s base n).2 := by
  unfold State.readRange
  with_reducible
    repeat' (first
      | assumption | apply foldl_snd_snd_keeps | apply State.huvasRead_keeps | simp only [keeps_mk, keeps_eta] | split
      | (intro _ _ _; beta_reduce))

theorem State.memRead_keeps {s : State} {m : Nat} {linkFails : Bool} {lim : Option Nat} (hk : Keeps pq s) :
    Keeps pq (State.memRead s m linkFails lim) := by
  unfold State.memRead
  with_reducible
    repeat' (first
      | assumption | apply State.finish_keeps | apply State.holdCmd_keeps | apply State.readRange_keeps
      | apply State.hostPut_keeps | apply keeps_ite | simp only [keeps_mk, keeps_eta] | split)

theorem execMemRead_keeps {m : MbN} {linkFails : Bool} {run : CmdRun} {s : State} (hk : Keeps pq s) :
    OutKeeps pq (execMemRead m linkFails run s) := by
  unfold execMemRead
  with_reducible
    repeat' (first
      | assumption | apply stepCommand_keeps | apply State.memRead_keeps | (intro _ _ _; beta_reduce))

theorem State.marginRead_keeps {s : State} {m : Nat} {linkFails : Bool} (hk : Keeps pq s) :
    Keeps pq (State.marginRead s m linkFails) := by
  unfold State.marginRead
  with_reducible
    repeat' (first
      | assumption | apply State.finish_keeps | apply State.hostPut_keeps | apply State.mlClear_keeps
      | apply keeps_ite)

theorem execMarginRead_keeps {m : MbN} {linkFails : Bool} {s : State} (hk : Keeps pq s) :
    OutKeeps pq (execMarginRead m linkFails s) := by
  unfold execMarginRead
  with_reducible
    repeat' (first
      | assumption | apply runCommand_keeps | apply State.marginRead_keeps | (intro _ _; beta_reduce))

theorem State.eventRead_keeps {s : State} {m : Nat} {linkFails : Bool} {lim : Option Nat} {done : Nat}
    (hk : Keeps pq s) :
    Keeps pq (State.eventRead s m linkFails lim done) := by
  unfold State.eventRead
  with_reducible
    repeat' (first
      | assumption | apply State.finish_keeps | apply State.hostPut_keeps | apply State.holdCmd_keeps
      | apply keeps_ite | simp only [keeps_mk, keeps_eta])

theorem execEventRead_keeps {m : MbN} {linkFails : Bool} {run : CmdRun} {s : State} (hk : Keeps pq s) :
    OutKeeps pq (execEventRead m linkFails run s) := by
  unfold execEventRead
  with_reducible
    repeat' (first
      | assumption | apply stepCommand_keeps | apply State.eventRead_keeps | (intro _ _ _; beta_reduce))

theorem State.rubricSet_keeps {s : State} {m : Nat} {d : HostData} (hk : Keeps pq s) :
    Keeps pq (State.rubricSet s m d) := by
  unfold State.rubricSet
  with_reducible
    repeat' (first
      | assumption | apply State.forAll_keeps | apply State.finish_keeps | apply State.modRb_keeps | apply keeps_ite
      | split | (intro _ _ _; beta_reduce))

theorem execRubricSet_keeps {m : MbN} {data : HostData} {s : State} (hk : Keeps pq s) :
    OutKeeps pq (execRubricSet m data s) := by
  unfold execRubricSet
  with_reducible
    repeat' (first
      | assumption | apply runCommand_keeps | apply State.rubricSet_keeps | (intro _ _; beta_reduce))

theorem State.vslotSet_keeps {s : State} {m : Nat} {d : HostData} (hk : Keeps pq s) :
    Keeps pq (State.vslotSet s m d) := by
  unfold State.vslotSet
  with_reducible
    repeat' (first
      | assumption | apply State.forAll_keeps | apply State.finish_keeps | apply State.modVslot_keeps
      | apply State.unset_keeps | apply keeps_ite | simp only [keeps_mk, keeps_eta] | split
      | (intro _ _ _; beta_reduce))

theorem execVslotSet_keeps {m : MbN} {data : HostData} {s : State} (hk : Keeps pq s) :
    OutKeeps pq (execVslotSet m data s) := by
  unfold execVslotSet
  with_reducible
    repeat' (first
      | assumption | apply runCommand_keeps | apply State.vslotSet_keeps | (intro _ _; beta_reduce))

theorem State.compareAt_keeps {e : Nat} {l : List Nat} {s : State} (hk : Keeps pq s) :
    Keeps pq (State.compareAt e l s).2 := by
  induction l generalizing s with
  | nil => exact hk
  | cons o t ih =>
    have h : Keeps pq ((s.huvasGet (e + o)).2.huvasGet (e + 0x80000 + o)).2 :=
      State.huvasGet_keeps (State.huvasGet_keeps hk)
    unfold State.compareAt
    dsimp only
    split
    · split
      · exact ih h
      · exact h
    · exact h

theorem State.copiesDiffer_keeps {p : Nat} {l : List Nat} {s : State} (hk : Keeps pq s) :
    Keeps pq (State.copiesDiffer p l s).2 := by
  induction l generalizing s with
  | nil => exact hk
  | cons g t ih =>
    rw [State.copiesDiffer]
    split
    · exact State.compareAt_keeps hk
    · exact ih (State.compareAt_keeps hk)

theorem State.setMasks_keeps {s : State} {p : Nat} {w0 w1 : Word} (hk : Keeps pq s) :
    Keeps pq (State.setMasks s p w0 w1) := by
  unfold State.setMasks
  with_reducible
    repeat' (first
      | assumption | apply State.modPen_keeps | apply keeps_ite)

theorem State.mirrorSet_keeps {s : State} {m : Nat} (hk : Keeps pq s) :
    Keeps pq (State.mirrorSet s m) := by
  unfold State.mirrorSet
  with_reducible
    repeat' (first
      | assumption | apply State.finish_keeps | apply State.copiesDiffer_keeps | apply State.setMasks_keeps
      | apply keeps_ite | simp only [keeps_mk, keeps_eta] | split)

theorem execMirrorSet_keeps {m : MbN} {s : State} (hk : Keeps pq s) :
    OutKeeps pq (execMirrorSet m s) := by
  unfold execMirrorSet
  with_reducible
    repeat' (first
      | assumption | apply runCommand_keeps | apply State.mirrorSet_keeps | (intro _ _; beta_reduce))

theorem State.setLslot_keeps {s : State} {n i : Nat} {w : Word} (hk : Keeps pq s) :
    Keeps pq (State.setLslot s n i w) := by
  unfold State.setLslot
  with_reducible
    repeat' (first
      | assumption | apply State.modPen_keeps | apply State.lslotLoad_keeps | apply keeps_ite)

theorem State.lslotSet_keeps {s : State} {m : Nat} (hk : Keeps pq s) :
    Keeps pq (State.lslotSet s m) := by
  unfold State.lslotSet
  with_reducible
    repeat' (first
      | assumption | apply State.forAll_keeps | apply State.finish_keeps | apply State.setLslot_keeps
      | apply keeps_ite | simp only [keeps_mk, keeps_eta] | split | (intro _ _ _; beta_reduce))

theorem execLslotSet_keeps {m : MbN} {s : State} (hk : Keeps pq s) :
    OutKeeps pq (execLslotSet m s) := by
  unfold execLslotSet
  with_reducible
    repeat' (first
      | assumption | apply runCommand_keeps | apply State.lslotSet_keeps | (intro _ _; beta_reduce))

theorem State.seqSel_keeps {s : State} {m : Nat} (hk : Keeps pq s) :
    Keeps pq (State.seqSel s m) := by
  unfold State.seqSel
  with_reducible
    repeat' (first
      | assumption | apply State.forAll_keeps | apply State.finish_keeps | apply State.modPen_keeps | apply keeps_ite
      | (intro _ _ _; beta_reduce))

theorem execSeqSel_keeps {m : MbN} {s : State} (hk : Keeps pq s) :
    OutKeeps pq (execSeqSel m s) := by
  unfold execSeqSel
  with_reducible
    repeat' (first
      | assumption | apply runCommand_keeps | apply State.seqSel_keeps | (intro _ _; beta_reduce))

theorem scan_keeps {α : Type} {f : α → State → Option SetupFault × State} {l : List α} {s : State}
    (hf : ∀ a t, Keeps pq t → Keeps pq (f a t).2) (hk : Keeps pq s) :
    Keeps pq (scan f l s).2 := by
  induction l generalizing s with
  | nil => exact hk
  | cons a l ih =>
    have h := hf a s hk
    unfold scan
    dsimp only
    split
    · exact h
    · exact ih h

theorem State.rawWord_keeps {s : State} {cpa : Nat} (hk : Keeps pq s) : Keeps pq (State.rawWord s cpa).2 := by
  unfold State.rawWord
  with_reducible
    repeat' (first
      | assumption | apply State.readWord_keeps | simp only [keeps_mk, keeps_eta] | split)

theorem s2Find_keeps {home ipa l t : Nat} {s : State} (hk : Keeps pq s) : Keeps pq (s2Find home ipa l t s).2 := by
  induction l generalizing t s with
  | zero =>
    unfold s2Find
    dsimp only
    repeat' (first | exact State.rawWord_keeps hk | split)
  | succ l ih =>
    unfold s2Find
    dsimp only
    repeat' (first | exact State.rawWord_keeps hk | exact ih (State.rawWord_keeps hk) | split)

theorem s1Find_keeps {part home va l t : Nat} {s : State} (hk : Keeps pq s) :
    Keeps pq (s1Find part home va l t s).2 := by
  induction l generalizing t s with
  | zero =>
    unfold s1Find
    dsimp only
    repeat' (first | exact hk | exact State.rawWord_keeps hk | split)
  | succ l ih =>
    unfold s1Find
    dsimp only
    repeat' (first | exact hk | exact State.rawWord_keeps hk | exact ih (State.rawWord_keeps hk) | split)

theorem State.ipaLeaf_keeps {s : State} {part home ipa : Nat} (hk : Keeps pq s) :
    Keeps pq (State.ipaLeaf s part home ipa).2 := by
  unfold State.ipaLeaf
  dsimp only
  split
  · exact hk
  · exact s2Find_keeps hk

theorem pageCheck_keeps {part home : Nat} {w : TabWin} {j : Nat} {s : State} (hk : Keeps pq s) :
    Keeps pq (pageCheck part home w j s).2 := by
  unfold pageCheck
  exact State.ipaLeaf_keeps hk

theorem windowCheck_keeps {part home : Nat} {ws : List TabWin} {i : Nat} {s : State} (hk : Keeps pq s) :
    Keeps pq (windowCheck part home ws i s).2 := by
  unfold windowCheck
  dsimp only
  split
  · exact hk
  · exact scan_keeps (fun _ _ h => pageCheck_keeps h) hk

theorem State.windowsCheck_keeps {s : State} {part home : Nat} (hk : Keeps pq s) :
    Keeps pq (State.windowsCheck s part home).2 := by
  unfold State.windowsCheck
  exact scan_keeps (fun _ _ h => windowCheck_keeps h) hk

theorem State.flyCheck_keeps {s : State} {part home : Nat} (hk : Keeps pq s) :
    Keeps pq (State.flyCheck s part home).2 := by
  unfold State.flyCheck
  dsimp only
  repeat' (first | exact hk | exact s1Find_keeps hk | exact State.ipaLeaf_keeps (s1Find_keeps hk) | split)

theorem State.s2Word_keeps {s : State} {home l cpa : Nat} (hk : Keeps pq s) :
    Keeps pq (State.s2Word s home l cpa).2 := by
  unfold State.s2Word
  exact State.rawWord_keeps hk

theorem State.tableWord_keeps {s : State} {part home : Nat} {mask : Word} {l a ia : Nat} (hk : Keeps pq s) :
    Keeps pq (State.tableWord s part home mask l a ia).2 := by
  unfold State.tableWord
  with_reducible
    repeat' (first
      | assumption | apply State.s2Word_keeps | simp only [keeps_mk, keeps_eta] | split)

theorem copyWord_keeps {q cpa addr : Nat} {s : State} (hk : Keeps pq s) :
    Keeps pq (copyWord q cpa addr s).2 := by
  unfold copyWord
  with_reducible
    repeat' (first
      | assumption | apply State.readWord_keeps | simp only [keeps_mk, keeps_eta] | split)

theorem wordCheck_keeps {q cpa addr size i : Nat} {s : State} (hk : Keeps pq s) :
    Keeps pq (wordCheck q cpa addr size i s).2 := by
  unfold wordCheck
  with_reducible
    repeat' (first
      | assumption | apply copyWord_keeps)

theorem wordsCheck_keeps {q cpa addr size n : Nat} {s : State} (hk : Keeps pq s) :
    Keeps pq (wordsCheck q cpa addr size n s).2 := by
  rw [wordsCheck]
  exact scan_keeps (fun _ _ h => wordCheck_keeps h) hk

theorem tableCheck_keeps {q : Nat} {x : Nat × Nat × Nat} {s : State} (hk : Keeps pq s) :
    Keeps pq (tableCheck q x s).2 := by
  unfold tableCheck
  with_reducible
    repeat' (first
      | assumption | apply wordsCheck_keeps)

theorem tablesCheck_keeps {v : Visited} {q : Nat} {s : State} (hk : Keeps pq s) :
    Keeps pq (tablesCheck v q s).2 := by
  rw [tablesCheck]
  exact scan_keeps (fun _ _ h => tableCheck_keeps h) hk

theorem winCheck_keeps {home q : Nat} {w : TabWin} {s : State} (hk : Keeps pq s) :
    Keeps pq (winCheck home q w s).2 := by
  unfold winCheck
  with_reducible
    repeat' (first
      | assumption | apply wordsCheck_keeps)

theorem winsCheck_keeps {ws : List TabWin} {home q : Nat} {s : State} (hk : Keeps pq s) :
    Keeps pq (winsCheck ws home q s).2 := by
  rw [winsCheck]
  exact scan_keeps (fun _ _ h => winCheck_keeps h) hk

theorem State.copiesCheck_keeps {s : State} {part home : Nat} {mask : Word} {v : Visited}
    (hk : Keeps pq s) : Keeps pq (State.copiesCheck s part home mask v).2 := by
  unfold State.copiesCheck
  refine scan_keeps (fun q t ht => ?_) hk
  have h : Keeps pq (tablesCheck v q t).2 := tablesCheck_keeps ht
  generalize tablesCheck v q t = x at h ⊢
  obtain ⟨x, t⟩ := x
  cases x with
  | some f => exact h
  | none => exact winsCheck_keeps h

theorem walkOn_keeps {α : Type} {r : Except SetupFault α × State} {f : α → State → WalkRes} (hk : Keeps pq r.2)
    (hf : ∀ a t, Keeps pq t → Keeps pq (f a t).2) : Keeps pq (walkOn r f).2 := by
  obtain ⟨x, t⟩ := r
  cases x with
  | error e => exact hk
  | ok a => exact hf a t hk

theorem tablePass_keeps {part home : Nat} {mask : Word} {l t ipa : Nat}
    {down : Word → Nat → Visited → State → WalkRes} {v : Visited} {s : State}
    (hd : ∀ e ia v u, Keeps pq u → Keeps pq (down e ia v u).2) (hk : Keeps pq s) :
    Keeps pq (tablePass part home mask l t ipa down v s).2 := by
  unfold tablePass
  split
  · exact hk
  · refine foldl_snd_keeps (fun r i hr => walkOn_keeps hr (fun v u hu => walkOn_keeps (State.tableWord_keeps hu) ?_)) hk
    intro e w hw
    cases e with
    | none => exact hw
    | some e => exact hd _ _ _ _ hw

theorem s2Walk_keeps {part home : Nat} {mask : Word} {l t ipa : Nat} {v : Visited} {s : State} (hk : Keeps pq s) :
    Keeps pq (s2Walk part home mask l t ipa v s).2 := by
  induction l generalizing t ipa v s with
  | zero => exact tablePass_keeps (fun _ _ _ _ h => h) hk
  | succ l ih => exact tablePass_keeps (fun _ _ _ _ h => ih h) hk

theorem State.rootWalk_keeps {s : State} {part home : Nat} {mask : Word} (hk : Keeps pq s) :
    Keeps pq ((State.rootWalk s part home mask).2) := by
  unfold State.rootWalk
  with_reducible
    repeat' (first
      | assumption | apply s2Walk_keeps | simp only [keeps_mk, keeps_eta] | split)

theorem State.lastChecks_keeps {s : State} {part home : Nat} (hk : Keeps pq s) :
    Keeps pq (State.lastChecks s part home).2 := by
  unfold State.lastChecks
  with_reducible
    repeat' (first
      | assumption | apply State.flyCheck_keeps | simp only [keeps_mk, keeps_eta] | split)

theorem State.walkChecks_keeps {s : State} {part home : Nat} {mask : Word} (hk : Keeps pq s) :
    Keeps pq (State.walkChecks s part home mask).2 := by
  unfold State.walkChecks
  with_reducible
    repeat' (first
      | assumption | apply State.lastChecks_keeps | apply State.copiesCheck_keeps | apply State.rootWalk_keeps
      | simp only [keeps_mk, keeps_eta] | split)

theorem State.setupCheck_keeps {s : State} {part : Nat} {mask : Word} (hk : Keeps pq s) :
    Keeps pq (State.setupCheck s part mask).2 := by
  unfold State.setupCheck
  with_reducible
    repeat' (first
      | assumption | apply State.walkChecks_keeps | apply State.windowsCheck_keeps | simp only [keeps_mk, keeps_eta]
      | split)

theorem State.setRecords_keeps {s : State} {part : Nat} {tr ex : List Word} (hk : Keeps pq s) :
    Keeps pq (State.setRecords s part tr ex) := by
  unfold State.setRecords
  with_reducible
    repeat' (first
      | assumption | simp only [keeps_mk, keeps_eta])

theorem State.partSetup_keeps {s : State} {m : Nat} (hk : Keeps pq s) :
    Keeps pq (State.partSetup s m) := by
  unfold State.partSetup
  with_reducible
    repeat' (first
      | assumption | apply State.finish_keeps | apply State.setupCheck_keeps | apply State.setRecords_keeps
      | apply keeps_ite | simp only [keeps_mk, keeps_eta] | split)

theorem execPartSetup_keeps {m : MbN} {s : State} (hk : Keeps pq s) :
    OutKeeps pq (execPartSetup m s) := by
  unfold execPartSetup
  with_reducible
    repeat' (first
      | assumption | apply runCommand_keeps | apply State.partSetup_keeps | (intro _ _; beta_reduce))

theorem State.testArmed_keeps {s : State} {b : Bank} {word : Nat} (hk : Keeps pq s) :
    Keeps pq (State.testArmed s b word) := by
  unfold State.testArmed
  with_reducible
    repeat' (first
      | assumption | apply State.modPen_keeps | apply State.modRsv_keeps | split)

theorem State.bankCases_keeps {s : State} {b : Bank} {word bit seen : Nat} {w : TWord} (hk : Keeps pq s) :
    Keeps pq (State.bankCases s b word bit seen w) := by
  unfold State.bankCases
  with_reducible
    repeat' (first
      | assumption | apply State.noteCe_keeps | apply State.testArmed_keeps | apply State.poke_keeps | apply keeps_ite
      | split)

theorem State.penMisreport_keeps {s : State} {p g : Nat} (hk : Keeps pq s) :
    Keeps pq (State.penMisreport s p g) := by
  unfold State.penMisreport
  with_reducible
    repeat' (first
      | assumption | apply raised_keeps | apply State.takeFree_keeps | apply State.modPen_keeps
      | apply State.restartPen_keeps | apply State.stopPen_keeps | apply keeps_ite)

theorem State.penGroups_keeps {p seen n : Nat} {s : State} (hk : Keeps pq s) :
    Keeps pq (State.penGroups p seen n s).2 := by
  induction n with
  | zero => exact hk
  | succ n ih =>
    unfold State.penGroups
    dsimp only
    split
    · exact ih
    · split
      · exact State.restartPen_keeps (State.penReport_keeps (State.modPen_keeps ih))
      · exact State.penMisreport_keeps (State.modPen_keeps ih)

theorem State.checkBank_keeps {s : State} {m : Nat} {b : Bank} {word bit seen : Nat} (hk : Keeps pq s) :
    Keeps pq (State.checkBank s m b word bit seen) := by
  unfold State.checkBank
  with_reducible
    repeat' (first
      | assumption | apply State.readWord_keeps | apply State.finish_keeps | apply State.bankCases_keeps
      | apply State.raise_keeps | apply keeps_ite | simp only [keeps_mk, keeps_eta] | split)

theorem State.checkPen_keeps {s : State} {m p seen : Nat} (hk : Keeps pq s) :
    Keeps pq (State.checkPen s m p seen) := by
  unfold State.checkPen
  with_reducible
    repeat' (first
      | assumption | apply State.penGroups_keeps | apply State.finish_keeps | apply State.raise_keeps
      | apply keeps_ite)

theorem State.checkerTest_keeps {s : State} {m seen : Nat} (hk : Keeps pq s) :
    Keeps pq (State.checkerTest s m seen) := by
  unfold State.checkerTest
  with_reducible
    repeat' (first
      | assumption | apply State.finish_keeps | apply State.checkBank_keeps | apply State.checkPen_keeps
      | apply keeps_ite | split)

theorem execCheckerTest_keeps {m : MbN} {seen : BitVec 8} {s : State} (hk : Keeps pq s) :
    OutKeeps pq (execCheckerTest m seen s) := by
  unfold execCheckerTest
  with_reducible
    repeat' (first
      | assumption | apply runCommand_keeps | apply State.checkerTest_keeps | (intro _ _; beta_reduce))

theorem State.testPen_keeps {s : State} {p : Nat} {bad : Bool} (hk : Keeps pq s) :
    Keeps pq (State.testPen s p bad) := by
  unfold State.testPen
  with_reducible
    repeat' (first
      | assumption | apply State.penGroups_keeps | apply State.raise_keeps | apply keeps_ite)

theorem State.testBank_keeps {s : State} {b : Bank} {bad : Bool} (hk : Keeps pq s) :
    Keeps pq (State.testBank s b bad) := by
  unfold State.testBank
  with_reducible
    repeat' (first
      | assumption | apply State.readWord_keeps | apply State.raise_keeps | apply State.bankCases_keeps
      | apply keeps_ite | simp only [keeps_mk, keeps_eta] | split)

theorem State.testInks_keeps {s : State} {bad : BitVec 128} (hk : Keeps pq s) :
    Keeps pq (State.testInks s bad) := by
  unfold State.testInks
  with_reducible
    repeat' (first
      | assumption | apply State.forAll_keeps | apply State.testBank_keeps | apply keeps_ite
      | (intro _ _ _; beta_reduce))

theorem State.testRsvs_keeps {s : State} {bad : BitVec 32} (hk : Keeps pq s) :
    Keeps pq (State.testRsvs s bad) := by
  unfold State.testRsvs
  with_reducible
    repeat' (first
      | assumption | apply State.forAll_keeps | apply State.testBank_keeps | apply keeps_ite
      | (intro _ _ _; beta_reduce))

theorem State.fenceRsvs_keeps {s : State} (hk : Keeps pq s) :
    Keeps pq (State.fenceRsvs s) := by
  unfold State.fenceRsvs
  with_reducible
    repeat' (first
      | assumption | apply State.forAll_keeps | apply State.switchOff_keeps | simp only [keeps_mk, keeps_eta]
      | (intro _ _ _; beta_reduce))

theorem State.closeBlockLocks_keeps {s : State} (hk : Keeps pq s) :
    Keeps pq (State.closeBlockLocks s) := by
  unfold State.closeBlockLocks
  with_reducible
    repeat' (first
      | assumption | simp only [keeps_mk, keeps_eta])

theorem State.closeLocks_keeps {s : State} (hk : Keeps pq s) :
    Keeps pq (State.closeLocks s) := by
  unfold State.closeLocks
  with_reducible
    repeat' (first
      | assumption | apply State.forAll_keeps | apply State.modPen_keeps | apply State.modRsv_keeps
      | apply State.modMac_keeps | apply State.closeBlockLocks_keeps | apply State.modCan_keeps
      | (intro _ _ _; beta_reduce))

theorem State.fwReject_keeps {s : State} {m code : Nat} (hk : Keeps pq s) :
    Keeps pq (State.fwReject s m code) := by
  unfold State.fwReject
  with_reducible
    repeat' (first
      | assumption | apply State.finish_keeps | simp only [keeps_mk, keeps_eta])

theorem State.fwAccept_keeps {s : State} {m : Nat} {bs : List Byte} {badPens : BitVec 64} {badInk : BitVec 128}
    {badRsv : BitVec 32} (hk : Keeps pq s) :
    Keeps pq (State.fwAccept s m bs badPens badInk badRsv) := by
  unfold State.fwAccept
  with_reducible
    repeat' (first
      | assumption | apply State.forAll_keeps | apply State.testPen_keeps | apply State.testRsvs_keeps
      | apply State.testInks_keeps | apply State.closeLocks_keeps | apply State.fenceRsvs_keeps
      | apply State.finish_keeps | simp only [keeps_mk, keeps_eta] | (intro _ _ _; beta_reduce))

theorem State.fwLoad_keeps {s : State} {m : Nat} {d : HostData} {badPens : BitVec 64} {badInk : BitVec 128}
    {badRsv : BitVec 32} (hk : Keeps pq s) :
    Keeps pq (State.fwLoad s m d badPens badInk badRsv) := by
  unfold State.fwLoad
  with_reducible
    repeat' (first
      | assumption | apply State.finish_keeps | apply State.fwReject_keeps | apply State.fwAccept_keeps
      | apply keeps_ite | simp only [keeps_mk, keeps_eta] | split)

theorem execFwLoad_keeps {m : MbN} {image : HostData} {badPens : BitVec 64} {badInk : BitVec 128}
    {badRsv : BitVec 32} {s : State} (hk : Keeps pq s) :
    OutKeeps pq (execFwLoad m image badPens badInk badRsv s) := by
  unfold execFwLoad
  with_reducible
    repeat' (first
      | assumption | apply runCommand_keeps | apply State.fwLoad_keeps | (intro _ _; beta_reduce))

theorem State.putImage_keeps {s : State} {lineBase hoBase hos : Nat} {lines hoWs : List Word} (hk : Keeps pq s) :
    Keeps pq (State.putImage s lineBase hoBase hos lines hoWs) := by
  unfold State.putImage
  with_reducible
    repeat' (first
      | assumption | apply State.storePut_keeps)

theorem State.loadImage_keeps {s : State} {m k len : Nat} {d : HostData} {lim : Option Nat} {h : List Word}
    (hk : Keeps pq s) :
    Keeps pq (State.loadImage s m k len d lim h) := by
  unfold State.loadImage
  with_reducible
    repeat' (first
      | assumption | apply State.finish_keeps | apply State.modSlot_keeps | apply State.putImage_keeps
      | apply State.holdCmd_keeps | apply keeps_ite | simp only [keeps_mk, keeps_eta] | split)

theorem State.rulingLoad_keeps {s : State} {m : Nat} {d : HostData} {lim : Option Nat} (hk : Keeps pq s) :
    Keeps pq (State.rulingLoad s m d lim) := by
  unfold State.rulingLoad
  with_reducible
    repeat' (first
      | assumption | apply State.finish_keeps | apply State.loadImage_keeps | apply keeps_ite | split)

theorem execRulingLoad_keeps {m : MbN} {data : HostData} {run : CmdRun} {s : State} (hk : Keeps pq s) :
    OutKeeps pq (execRulingLoad m data run s) := by
  unfold execRulingLoad
  with_reducible
    repeat' (first
      | assumption | apply stepCommand_keeps | apply State.rulingLoad_keeps | (intro _ _ _; beta_reduce))

theorem State.rulingVerify_keeps {s : State} {m : Nat} {lim : Option Nat} (hk : Keeps pq s) :
    Keeps pq (State.rulingVerify s m lim) := by
  unfold State.rulingVerify
  with_reducible
    repeat' (first
      | assumption | apply State.finish_keeps | apply State.holdCmd_keeps | apply State.storeReads_keeps
      | apply State.modSlot_keeps | apply keeps_ite | simp only [keeps_mk, keeps_eta] | split)

theorem execRulingVerify_keeps {m : MbN} {run : CmdRun} {s : State} (hk : Keeps pq s) :
    OutKeeps pq (execRulingVerify m run s) := by
  unfold execRulingVerify
  with_reducible
    repeat' (first
      | assumption | apply stepCommand_keeps | apply State.rulingVerify_keeps | (intro _ _ _; beta_reduce))

theorem State.rulingUnload_keeps {s : State} {m : Nat} (hk : Keeps pq s) :
    Keeps pq (State.rulingUnload s m) := by
  unfold State.rulingUnload
  with_reducible
    repeat' (first
      | assumption | apply State.finish_keeps | apply State.modSlot_keeps | apply keeps_ite)

theorem execRulingUnload_keeps {m : MbN} {s : State} (hk : Keeps pq s) :
    OutKeeps pq (execRulingUnload m s) := by
  unfold execRulingUnload
  with_reducible
    repeat' (first
      | assumption | apply runCommand_keeps | apply State.rulingUnload_keeps | (intro _ _; beta_reduce))

theorem State.reloadTlbs_keeps {s : State} (hk : Keeps pq s) :
    Keeps pq (State.reloadTlbs s) := by
  unfold State.reloadTlbs
  with_reducible
    repeat' (first
      | assumption | apply State.forAll_keeps | apply State.modPen_keeps | apply State.lslotLoad_keeps
      | apply keeps_ite | simp only [keeps_mk, keeps_eta] | (intro _ _ _; beta_reduce))

theorem State.activate_keeps {s : State} {m : Nat} (hk : Keeps pq s) :
    Keeps pq (State.activate s m) := by
  unfold State.activate
  with_reducible
    repeat' (first
      | assumption | apply State.finish_keeps | apply State.stepCounter_keeps | apply State.modSlot_keeps
      | apply State.reloadTlbs_keeps | apply State.waitFor_keeps | apply keeps_ite | simp only [keeps_mk, keeps_eta])

theorem execActivate_keeps {m : MbN} {s : State} (hk : Keeps pq s) :
    OutKeeps pq (execActivate m s) := by
  unfold execActivate
  with_reducible
    repeat' (first
      | assumption | apply runCommand_keeps | apply State.activate_keeps | (intro _ _; beta_reduce))

theorem State.armSwitch_keeps {s : State} {m : Nat} (hk : Keeps pq s) :
    Keeps pq (State.armSwitch s m) := by
  unfold State.armSwitch
  with_reducible
    repeat' (first
      | assumption | apply State.finish_keeps | apply keeps_ite | simp only [keeps_mk, keeps_eta])

theorem execSwitchArm_keeps {m : MbN} {s : State} (hk : Keeps pq s) :
    OutKeeps pq (execSwitchArm m s) := by
  unfold execSwitchArm
  with_reducible
    repeat' (first
      | assumption | apply runCommand_keeps | apply State.armSwitch_keeps | (intro _ _; beta_reduce))

theorem State.abandon_keeps {s : State} {q : Nat} (hk : Keeps pq s) :
    Keeps pq (State.abandon s q) := by
  unfold State.abandon
  with_reducible
    repeat' (first
      | assumption | apply State.loseQueue_keeps | simp only [keeps_mk, keeps_eta])

theorem State.setContext_keeps {s : State} {q : Nat} {w0 w1 w2 : Word} (hk : Keeps pq s) :
    Keeps pq (State.setContext s q w0 w1 w2) := by
  unfold State.setContext
  with_reducible
    repeat' (first
      | assumption | apply State.abandon_keeps | apply State.modQueue_keeps | apply keeps_ite)

theorem State.queueSet_keeps {s : State} {m : Nat} (hk : Keeps pq s) :
    Keeps pq (State.queueSet s m) := by
  unfold State.queueSet
  with_reducible
    repeat' (first
      | assumption | apply State.finish_keeps | apply State.setContext_keeps | apply State.modQueue_keeps
      | apply keeps_ite)

theorem execQueueSet_keeps {m : MbN} {s : State} (hk : Keeps pq s) :
    OutKeeps pq (execQueueSet m s) := by
  unfold execQueueSet
  with_reducible
    repeat' (first
      | assumption | apply runCommand_keeps | apply State.queueSet_keeps | (intro _ _; beta_reduce))

theorem State.shareSet_keeps {s : State} {m : Nat} (hk : Keeps pq s) :
    Keeps pq (State.shareSet s m) := by
  unfold State.shareSet
  with_reducible
    repeat' (first
      | assumption | apply State.finish_keeps | apply keeps_ite | simp only [keeps_mk, keeps_eta])

theorem execShareSet_keeps {m : MbN} {s : State} (hk : Keeps pq s) :
    OutKeeps pq (execShareSet m s) := by
  unfold execShareSet
  with_reducible
    repeat' (first
      | assumption | apply runCommand_keeps | apply State.shareSet_keeps | (intro _ _; beta_reduce))

theorem State.defineSet_keeps {s : State} {k part : Nat} {ds : List Desc} (hk : Keeps pq s) :
    Keeps pq (State.defineSet s k part ds) := by
  unfold State.defineSet
  with_reducible
    repeat' (first
      | assumption | apply State.gpioSafe_keeps | apply keeps_ite | simp only [keeps_mk, keeps_eta])

theorem State.chansetImage_keeps {s : State} {m k : Nat} {ws : List Word} (hk : Keeps pq s) :
    Keeps pq (State.chansetImage s m k ws) := by
  unfold State.chansetImage
  with_reducible
    repeat' (first
      | assumption | apply State.finish_keeps | apply State.defineSet_keeps | apply keeps_ite
      | simp only [keeps_mk, keeps_eta] | split)

theorem State.withImage_keeps {s : State} {m : Nat} {d : HostData} {lenOk : Nat → Bool} {f : List Word → State}
    (hk : Keeps pq s) (hf : ∀ ws, Keeps pq (f ws)) :
    Keeps pq (State.withImage s m d lenOk f) := by
  unfold State.withImage
  with_reducible
    repeat' (first
      | assumption | apply hf | apply State.finish_keeps | apply keeps_ite | split)

theorem State.chansetSet_keeps {s : State} {m : Nat} {d : HostData} (hk : Keeps pq s) :
    Keeps pq (State.chansetSet s m d) := by
  unfold State.chansetSet
  with_reducible
    repeat' (first
      | assumption | apply State.finish_keeps | apply State.withImage_keeps | apply State.chansetImage_keeps
      | apply keeps_ite | (intro _; beta_reduce))

theorem execChansetSet_keeps {m : MbN} {data : HostData} {s : State} (hk : Keeps pq s) :
    OutKeeps pq (execChansetSet m data s) := by
  unfold execChansetSet
  with_reducible
    repeat' (first
      | assumption | apply guarded_keeps | apply State.command_keeps | apply State.chansetSet_keeps
      | (intro _ _; beta_reduce))

theorem State.setPorts_keeps {s : State} {ws : List Word} (hk : Keeps pq s) :
    Keeps pq (State.setPorts s ws) := by
  unfold State.setPorts
  with_reducible
    repeat' (first
      | assumption | apply State.forAll_keeps | apply State.portMac_keeps | apply State.portCluster_keeps
      | apply State.gpioSafe_keeps | apply keeps_ite | simp only [keeps_mk, keeps_eta] | (intro _ _ _; beta_reduce))

theorem State.portRecord_keeps {s : State} {m : Nat} {d : HostData} (hk : Keeps pq s) :
    Keeps pq (State.portRecord s m d) := by
  unfold State.portRecord
  with_reducible
    repeat' (first
      | assumption | apply State.withImage_keeps | apply State.finish_keeps | apply State.setPorts_keeps
      | apply keeps_ite | (intro _; beta_reduce))

theorem execPortRecordLoad_keeps {m : MbN} {data : HostData} {s : State} (hk : Keeps pq s) :
    OutKeeps pq (execPortRecordLoad m data s) := by
  unfold execPortRecordLoad
  with_reducible
    repeat' (first
      | assumption | apply guarded_keeps | apply State.command_keeps | apply State.portRecord_keeps
      | (intro _ _; beta_reduce))

theorem State.pairUp_keeps {s : State} {mode pct wd : Nat} {peer : Word} {l : List TrcEntry} (hk : Keeps pq s) :
    Keeps pq (State.pairUp s mode pct wd peer l) := by
  unfold State.pairUp
  with_reducible
    repeat' (first
      | assumption | simp only [keeps_mk, keeps_eta])

theorem State.tracePair_keeps {s : State} {m : Nat} (hk : Keeps pq s) :
    Keeps pq (State.tracePair s m) := by
  unfold State.tracePair
  with_reducible
    repeat' (first
      | assumption | apply State.finish_keeps | apply State.pairUp_keeps | apply State.raise_keeps
      | apply State.trcEvent_keeps | apply keeps_ite)

theorem execTracePair_keeps {m : MbN} {s : State} (hk : Keeps pq s) :
    OutKeeps pq (execTracePair m s) := by
  unfold execTracePair
  with_reducible
    repeat' (first
      | assumption | apply runCommand_keeps | apply State.tracePair_keeps | (intro _ _; beta_reduce))

theorem State.traceDetach_keeps {s : State} {m : Nat} (hk : Keeps pq s) :
    Keeps pq (State.traceDetach s m) := by
  unfold State.traceDetach
  with_reducible
    repeat' (first
      | assumption | apply State.finish_keeps | apply State.waitFor_keeps | apply keeps_ite)

theorem execTraceDetach_keeps {m : MbN} {s : State} (hk : Keeps pq s) :
    OutKeeps pq (execTraceDetach m s) := by
  unfold execTraceDetach
  with_reducible
    repeat' (first
      | assumption | apply runCommand_keeps | apply State.traceDetach_keeps | (intro _ _; beta_reduce))

theorem State.takeover_keeps {s : State} {m : Nat} (hk : Keeps pq s) :
    Keeps pq (State.takeover s m) := by
  unfold State.takeover
  with_reducible
    repeat' (first
      | assumption | apply State.finish_keeps | apply State.waitFor_keeps | apply State.declareLost_keeps
      | apply keeps_ite)

theorem execTakeover_keeps {m : MbN} {s : State} (hk : Keeps pq s) :
    OutKeeps pq (execTakeover m s) := by
  unfold execTakeover
  with_reducible
    repeat' (first
      | assumption | apply runCommand_keeps | apply State.takeover_keeps | (intro _ _; beta_reduce))

theorem State.mainReset_keeps {s : State} {d : DevState} (hk : Keeps pq s) :
    Keeps pq (State.mainReset s d) :=
  ⟨hk.1, rfl, rfl⟩

theorem State.resetCause_keeps {s : State} {i : Nat} (hk : Keeps pq s) :
    Keeps pq (State.resetCause s i) := by
  unfold State.resetCause
  with_reducible
    repeat' (first
      | assumption | simp only [keeps_mk, keeps_eta])

theorem execVaonPowerOn_keeps {s : State} (hk : Keeps pq s) :
    OutKeeps pq (execVaonPowerOn s) :=
  outKeeps_next ⟨hk.1, rfl, rfl⟩

theorem execMainRailsUp_keeps {s : State} (hk : Keeps pq s) :
    OutKeeps pq (execMainRailsUp s) := by
  unfold execMainRailsUp
  with_reducible
    repeat' (first
      | assumption | apply guarded_keeps | apply State.resetCause_keeps | apply keeps_ite
      | simp only [keeps_mk, keeps_eta] | (intro _ _; beta_reduce))

theorem execMainPowerReset_keeps {s : State} (hk : Keeps pq s) :
    OutKeeps pq (execMainPowerReset s) := by
  unfold execMainPowerReset
  with_reducible
    repeat' (first
      | assumption | apply guarded_keeps | apply State.resetCause_keeps | apply State.mainReset_keeps
      | (intro _ _; beta_reduce))

theorem execResetNAssert_keeps {s : State} (hk : Keeps pq s) :
    OutKeeps pq (execResetNAssert s) := by
  unfold execResetNAssert
  with_reducible
    repeat' (first
      | assumption | apply guarded_keeps | apply State.resetCause_keeps | apply State.mainReset_keeps
      | apply keeps_ite | simp only [keeps_mk, keeps_eta] | (intro _ _; beta_reduce))

theorem execResetNRelease_keeps {s : State} (hk : Keeps pq s) :
    OutKeeps pq (execResetNRelease s) := by
  unfold execResetNRelease
  with_reducible
    repeat' (first
      | assumption | apply guarded_keeps | simp only [keeps_mk, keeps_eta] | (intro _ _; beta_reduce))

theorem execJtagTrst_keeps {s : State} (hk : Keeps pq s) :
    OutKeeps pq (execJtagTrst s) := by
  unfold execJtagTrst
  with_reducible
    repeat' (first
      | assumption | apply answer_keeps)

theorem execClockFail_keeps {s : State} (hk : Keeps pq s) :
    OutKeeps pq (execClockFail s) := by
  unfold execClockFail
  with_reducible
    repeat' (first
      | assumption | apply guarded_keeps | apply State.resetCause_keeps | apply State.mainReset_keeps
      | simp only [keeps_mk, keeps_eta] | (intro _ _; beta_reduce))

theorem execClockReturn_keeps {s : State} (hk : Keeps pq s) :
    OutKeeps pq (execClockReturn s) := by
  unfold execClockReturn
  with_reducible
    repeat' (first
      | assumption | apply guarded_keeps | simp only [keeps_mk, keeps_eta] | (intro _ _; beta_reduce))

theorem execPllEthUnlock_keeps {s : State} (hk : Keeps pq s) :
    OutKeeps pq (execPllEthUnlock s) := by
  unfold execPllEthUnlock
  with_reducible
    repeat' (first
      | assumption | apply guarded_keeps | apply State.forAll_keeps | apply State.ethDown_keeps | apply keeps_ite
      | (intro _ _ _; beta_reduce) | (intro _ _; beta_reduce))

theorem execPcieClockLoss_keeps {s : State} (hk : Keeps pq s) :
    OutKeeps pq (execPcieClockLoss s) := by
  unfold execPcieClockLoss
  with_reducible
    repeat' (first
      | assumption | apply guarded_keeps | apply State.linkLost_keeps | (intro _ _; beta_reduce))

theorem execXtalStop_keeps {s : State} (hk : Keeps pq s) :
    OutKeeps pq (execXtalStop s) := by
  unfold execXtalStop
  with_reducible
    repeat' (first
      | assumption | apply guarded_keeps | simp only [keeps_mk, keeps_eta] | (intro _ _; beta_reduce))

theorem execXtalStart_keeps {s : State} (hk : Keeps pq s) :
    OutKeeps pq (execXtalStart s) := by
  unfold execXtalStart
  with_reducible
    repeat' (first
      | assumption | apply guarded_keeps | simp only [keeps_mk, keeps_eta] | (intro _ _; beta_reduce))

theorem execFuseLoad_keeps {good : Bool} {s : State} (hk : Keeps pq s) :
    OutKeeps pq (execFuseLoad good s) := by
  unfold execFuseLoad
  with_reducible
    repeat' (first
      | assumption | apply guarded_keeps | apply State.resetCause_keeps | simp only [keeps_mk, keeps_eta] | split
      | (intro _ _; beta_reduce))

theorem State.filled_keeps {s : State} {cmpFail : BitVec 5} (hk : Keeps pq s) :
    Keeps pq (State.filled s cmpFail) :=
  ⟨hk.1, rfl, rfl⟩

theorem State.endFill_keeps {s : State} {cmpFail : BitVec 5} (hk : Keeps pq s) :
    Keeps pq (State.endFill s cmpFail) := by
  unfold State.endFill
  with_reducible
    repeat' (first
      | assumption | apply State.forAll_keeps | apply State.modPen_keeps | apply State.filled_keeps
      | apply State.modRsv_keeps | (intro _ _ _; beta_reduce))

theorem execFillDone_keeps {cmpFail : BitVec 5} {s : State} (hk : Keeps pq s) :
    OutKeeps pq (execFillDone cmpFail s) := by
  unfold execFillDone
  with_reducible
    repeat' (first
      | assumption | apply guarded_keeps | apply State.endFill_keeps | (intro _ _; beta_reduce))

theorem State.romChecked_keeps {s : State} {pass : BitVec 3} (hk : Keeps pq s) :
    Keeps pq (State.romChecked s pass) := by
  unfold State.romChecked
  with_reducible
    repeat' (first
      | assumption | apply State.forAll_keeps | apply State.raise_keeps | apply State.huvasStop_keeps
      | apply keeps_ite | simp only [keeps_mk, keeps_eta] | (intro _ _ _; beta_reduce))

theorem execRomCheckDone_keeps {pass : BitVec 3} {s : State} (hk : Keeps pq s) :
    OutKeeps pq (execRomCheckDone pass s) := by
  unfold execRomCheckDone
  with_reducible
    repeat' (first
      | assumption | apply guarded_keeps | apply State.romChecked_keeps | (intro _ _; beta_reduce))

theorem State.powerEvent_keeps {s : State} {bit cls : Nat} (hk : Keeps pq s) :
    Keeps pq (State.powerEvent s bit cls) := by
  unfold State.powerEvent
  with_reducible
    repeat' (first
      | assumption | apply State.raise_keeps | simp only [keeps_mk, keeps_eta])

theorem State.avsRequest_keeps {s : State} {mv : Nat} (hk : Keeps pq s) :
    Keeps pq (State.avsRequest s mv) := by
  unfold State.avsRequest
  with_reducible
    repeat' (first
      | assumption | apply State.emit_keeps | apply keeps_ite | simp only [keeps_mk, keeps_eta])

theorem State.avsJudge_keeps {s : State} {n : Nat} (hk : Keeps pq s) :
    Keeps pq (State.avsJudge s n) := by
  unfold State.avsJudge
  with_reducible
    repeat' (first
      | assumption | apply State.powerEvent_keeps | apply State.avsRequest_keeps | apply keeps_ite
      | simp only [keeps_mk, keeps_eta])

theorem execAvsInterval_keeps {margin : BitVec 8} {s : State} (hk : Keeps pq s) :
    OutKeeps pq (execAvsInterval margin s) := by
  unfold execAvsInterval
  with_reducible
    repeat' (first
      | assumption | apply guarded_keeps | apply State.avsJudge_keeps | simp only [keeps_mk, keeps_eta]
      | (intro _ _; beta_reduce))

theorem execAvsAcknowledge_keeps {readback : BitVec 16} {s : State} (hk : Keeps pq s) :
    OutKeeps pq (execAvsAcknowledge readback s) := by
  unfold execAvsAcknowledge
  with_reducible
    repeat' (first
      | assumption | apply guarded_keeps | simp only [keeps_mk, keeps_eta] | (intro _ _; beta_reduce))

theorem execAvsTimeout_keeps {s : State} (hk : Keeps pq s) :
    OutKeeps pq (execAvsTimeout s) := by
  unfold execAvsTimeout
  with_reducible
    repeat' (first
      | assumption | apply guarded_keeps | apply State.powerEvent_keeps | apply State.emit_keeps | apply keeps_ite
      | simp only [keeps_mk, keeps_eta] | (intro _ _; beta_reduce))

theorem execSupplyExcursion_keeps {cmp : Fin 4} {outside : Bool} {s : State} (hk : Keeps pq s) :
    OutKeeps pq (execSupplyExcursion cmp outside s) := by
  unfold execSupplyExcursion
  with_reducible
    repeat' (first
      | assumption | apply guarded_keeps | apply State.powerEvent_keeps | simp only [keeps_mk, keeps_eta] | split
      | (intro _ _; beta_reduce))

theorem State.tempJudge_keeps {s : State} {tj : Int} (hk : Keeps pq s) :
    Keeps pq (State.tempJudge s tj) := by
  unfold State.tempJudge
  with_reducible
    repeat' (first
      | assumption | apply State.powerEvent_keeps | apply keeps_ite | simp only [keeps_mk, keeps_eta])

theorem execTempConversion_keeps {tj : BitVec 16} {s : State} (hk : Keeps pq s) :
    OutKeeps pq (execTempConversion tj s) := by
  unfold execTempConversion
  with_reducible
    repeat' (first
      | assumption | apply guarded_keeps | apply State.tempJudge_keeps | simp only [keeps_mk, keeps_eta]
      | (intro _ _; beta_reduce))

theorem execDormantEnter_keeps {s : State} (hk : Keeps pq s) :
    OutKeeps pq (execDormantEnter s) := by
  unfold execDormantEnter
  with_reducible
    repeat' (first
      | assumption | apply guarded_keeps | apply State.resetCause_keeps | apply State.mainReset_keeps
      | simp only [keeps_mk, keeps_eta] | (intro _ _; beta_reduce))

theorem State.wakeUp_keeps {s : State} {f : BitVec 3} (hk : Keeps pq s) :
    Keeps pq (State.wakeUp s f) := by
  unfold State.wakeUp
  with_reducible
    repeat' (first
      | assumption | apply State.resetCause_keeps | apply keeps_ite | simp only [keeps_mk, keeps_eta])

theorem execWake_keeps {fired : BitVec 3} {s : State} (hk : Keeps pq s) :
    OutKeeps pq (execWake fired s) := by
  unfold execWake
  with_reducible
    repeat' (first
      | assumption | apply guarded_keeps | apply State.wakeUp_keeps | (intro _ _; beta_reduce))

end Sys2Proof.Machine
end

