-- ==== Sys2Proof/Laws/State.lean ====
section
/-! SUPPORT. The named updates of the state: what each leaves alone, field by field and read by read, and that a read of
what it wrote gives what it wrote. The first part says it of a plain field update with a variable as the new value, so
that the kernel never compares the old and the new tables. -/

namespace Sys2Proof.Machine

/-! ### Plain field updates -/

section out
variable {s : State} {v : List Out}
theorem State.with_out_pending : { s with out := v }.pending = s.pending := rfl
theorem State.with_out_free : { s with out := v }.free = s.free := rfl
theorem State.with_out_cyc : { s with out := v }.cyc = s.cyc := rfl
theorem State.with_out_dev : { s with out := v }.dev = s.dev := rfl
theorem State.with_out_activated : { s with out := v }.activated = s.activated := rfl
theorem State.with_out_folio : { s with out := v }.folio = s.folio := rfl
theorem State.with_out_rul : { s with out := v }.rul = s.rul := rfl
theorem State.with_out_vt : { s with out := v }.vt = s.vt := rfl
theorem State.with_out_px : { s with out := v }.px = s.px := rfl
theorem State.with_out_pt : { s with out := v }.pt = s.pt := rfl
theorem State.with_out_parts : { s with out := v }.parts = s.parts := rfl
theorem State.with_out_pens : { s with out := v }.pens = s.pens := rfl
theorem State.with_out_ipiFly : { s with out := v }.ipiFly = s.ipiFly := rfl
theorem State.with_out_flight : { s with out := v }.flight = s.flight := rfl
theorem State.with_out_mem : { s with out := v }.mem = s.mem := rfl
theorem State.with_out_rsv : { s with out := v }.rsv = s.rsv := rfl
theorem State.with_out_blot : { s with out := v }.blot = s.blot := rfl
theorem State.with_out_feed : { s with out := v }.feed = s.feed := rfl
theorem State.with_out_trc : { s with out := v }.trc = s.trc := rfl
theorem State.with_out_hif : { s with out := v }.hif = s.hif := rfl
theorem State.with_out_huv : { s with out := v }.huv = s.huv := rfl
theorem State.with_out_pwr : { s with out := v }.pwr = s.pwr := rfl
theorem State.with_out_aon : { s with out := v }.aon = s.aon := rfl
theorem State.with_out_macs : { s with out := v }.macs = s.macs := rfl
theorem State.with_out_cans : { s with out := v }.cans = s.cans := rfl
theorem State.with_out_gpio : { s with out := v }.gpio = s.gpio := rfl
end out

section pens
variable {s : State} {v : Table Pen}
theorem State.with_pens_pending : { s with pens := v }.pending = s.pending := rfl
theorem State.with_pens_free : { s with pens := v }.free = s.free := rfl
theorem State.with_pens_out : { s with pens := v }.out = s.out := rfl
theorem State.with_pens_cyc : { s with pens := v }.cyc = s.cyc := rfl
theorem State.with_pens_dev : { s with pens := v }.dev = s.dev := rfl
theorem State.with_pens_activated : { s with pens := v }.activated = s.activated := rfl
theorem State.with_pens_folio : { s with pens := v }.folio = s.folio := rfl
theorem State.with_pens_rul : { s with pens := v }.rul = s.rul := rfl
theorem State.with_pens_vt : { s with pens := v }.vt = s.vt := rfl
theorem State.with_pens_px : { s with pens := v }.px = s.px := rfl
theorem State.with_pens_pt : { s with pens := v }.pt = s.pt := rfl
theorem State.with_pens_parts : { s with pens := v }.parts = s.parts := rfl
theorem State.with_pens_ipiFly : { s with pens := v }.ipiFly = s.ipiFly := rfl
theorem State.with_pens_flight : { s with pens := v }.flight = s.flight := rfl
theorem State.with_pens_mem : { s with pens := v }.mem = s.mem := rfl
theorem State.with_pens_rsv : { s with pens := v }.rsv = s.rsv := rfl
theorem State.with_pens_blot : { s with pens := v }.blot = s.blot := rfl
theorem State.with_pens_feed : { s with pens := v }.feed = s.feed := rfl
theorem State.with_pens_trc : { s with pens := v }.trc = s.trc := rfl
theorem State.with_pens_hif : { s with pens := v }.hif = s.hif := rfl
theorem State.with_pens_huv : { s with pens := v }.huv = s.huv := rfl
theorem State.with_pens_pwr : { s with pens := v }.pwr = s.pwr := rfl
theorem State.with_pens_aon : { s with pens := v }.aon = s.aon := rfl
theorem State.with_pens_macs : { s with pens := v }.macs = s.macs := rfl
theorem State.with_pens_cans : { s with pens := v }.cans = s.cans := rfl
theorem State.with_pens_gpio : { s with pens := v }.gpio = s.gpio := rfl
end pens

section mem
variable {s : State} {v : Table Code}
theorem State.with_mem_pending : { s with mem := v }.pending = s.pending := rfl
theorem State.with_mem_free : { s with mem := v }.free = s.free := rfl
theorem State.with_mem_out : { s with mem := v }.out = s.out := rfl
theorem State.with_mem_cyc : { s with mem := v }.cyc = s.cyc := rfl
theorem State.with_mem_dev : { s with mem := v }.dev = s.dev := rfl
theorem State.with_mem_activated : { s with mem := v }.activated = s.activated := rfl
theorem State.with_mem_folio : { s with mem := v }.folio = s.folio := rfl
theorem State.with_mem_rul : { s with mem := v }.rul = s.rul := rfl
theorem State.with_mem_vt : { s with mem := v }.vt = s.vt := rfl
theorem State.with_mem_px : { s with mem := v }.px = s.px := rfl
theorem State.with_mem_pt : { s with mem := v }.pt = s.pt := rfl
theorem State.with_mem_parts : { s with mem := v }.parts = s.parts := rfl
theorem State.with_mem_pens : { s with mem := v }.pens = s.pens := rfl
theorem State.with_mem_ipiFly : { s with mem := v }.ipiFly = s.ipiFly := rfl
theorem State.with_mem_flight : { s with mem := v }.flight = s.flight := rfl
theorem State.with_mem_rsv : { s with mem := v }.rsv = s.rsv := rfl
theorem State.with_mem_blot : { s with mem := v }.blot = s.blot := rfl
theorem State.with_mem_feed : { s with mem := v }.feed = s.feed := rfl
theorem State.with_mem_trc : { s with mem := v }.trc = s.trc := rfl
theorem State.with_mem_hif : { s with mem := v }.hif = s.hif := rfl
theorem State.with_mem_huv : { s with mem := v }.huv = s.huv := rfl
theorem State.with_mem_pwr : { s with mem := v }.pwr = s.pwr := rfl
theorem State.with_mem_aon : { s with mem := v }.aon = s.aon := rfl
theorem State.with_mem_macs : { s with mem := v }.macs = s.macs := rfl
theorem State.with_mem_cans : { s with mem := v }.cans = s.cans := rfl
theorem State.with_mem_gpio : { s with mem := v }.gpio = s.gpio := rfl
end mem

section rsv
variable {s : State} {v : Table Rsv}
theorem State.with_rsv_pending : { s with rsv := v }.pending = s.pending := rfl
theorem State.with_rsv_free : { s with rsv := v }.free = s.free := rfl
theorem State.with_rsv_out : { s with rsv := v }.out = s.out := rfl
theorem State.with_rsv_cyc : { s with rsv := v }.cyc = s.cyc := rfl
theorem State.with_rsv_dev : { s with rsv := v }.dev = s.dev := rfl
theorem State.with_rsv_activated : { s with rsv := v }.activated = s.activated := rfl
theorem State.with_rsv_folio : { s with rsv := v }.folio = s.folio := rfl
theorem State.with_rsv_rul : { s with rsv := v }.rul = s.rul := rfl
theorem State.with_rsv_vt : { s with rsv := v }.vt = s.vt := rfl
theorem State.with_rsv_px : { s with rsv := v }.px = s.px := rfl
theorem State.with_rsv_pt : { s with rsv := v }.pt = s.pt := rfl
theorem State.with_rsv_parts : { s with rsv := v }.parts = s.parts := rfl
theorem State.with_rsv_pens : { s with rsv := v }.pens = s.pens := rfl
theorem State.with_rsv_ipiFly : { s with rsv := v }.ipiFly = s.ipiFly := rfl
theorem State.with_rsv_flight : { s with rsv := v }.flight = s.flight := rfl
theorem State.with_rsv_mem : { s with rsv := v }.mem = s.mem := rfl
theorem State.with_rsv_blot : { s with rsv := v }.blot = s.blot := rfl
theorem State.with_rsv_feed : { s with rsv := v }.feed = s.feed := rfl
theorem State.with_rsv_trc : { s with rsv := v }.trc = s.trc := rfl
theorem State.with_rsv_hif : { s with rsv := v }.hif = s.hif := rfl
theorem State.with_rsv_huv : { s with rsv := v }.huv = s.huv := rfl
theorem State.with_rsv_pwr : { s with rsv := v }.pwr = s.pwr := rfl
theorem State.with_rsv_aon : { s with rsv := v }.aon = s.aon := rfl
theorem State.with_rsv_macs : { s with rsv := v }.macs = s.macs := rfl
theorem State.with_rsv_cans : { s with rsv := v }.cans = s.cans := rfl
theorem State.with_rsv_gpio : { s with rsv := v }.gpio = s.gpio := rfl
end rsv

section vt
variable {s : State} {v : Table VSlot}
theorem State.with_vt_pending : { s with vt := v }.pending = s.pending := rfl
theorem State.with_vt_free : { s with vt := v }.free = s.free := rfl
theorem State.with_vt_out : { s with vt := v }.out = s.out := rfl
theorem State.with_vt_cyc : { s with vt := v }.cyc = s.cyc := rfl
theorem State.with_vt_dev : { s with vt := v }.dev = s.dev := rfl
theorem State.with_vt_activated : { s with vt := v }.activated = s.activated := rfl
theorem State.with_vt_folio : { s with vt := v }.folio = s.folio := rfl
theorem State.with_vt_rul : { s with vt := v }.rul = s.rul := rfl
theorem State.with_vt_px : { s with vt := v }.px = s.px := rfl
theorem State.with_vt_pt : { s with vt := v }.pt = s.pt := rfl
theorem State.with_vt_parts : { s with vt := v }.parts = s.parts := rfl
theorem State.with_vt_pens : { s with vt := v }.pens = s.pens := rfl
theorem State.with_vt_ipiFly : { s with vt := v }.ipiFly = s.ipiFly := rfl
theorem State.with_vt_flight : { s with vt := v }.flight = s.flight := rfl
theorem State.with_vt_mem : { s with vt := v }.mem = s.mem := rfl
theorem State.with_vt_rsv : { s with vt := v }.rsv = s.rsv := rfl
theorem State.with_vt_blot : { s with vt := v }.blot = s.blot := rfl
theorem State.with_vt_feed : { s with vt := v }.feed = s.feed := rfl
theorem State.with_vt_trc : { s with vt := v }.trc = s.trc := rfl
theorem State.with_vt_hif : { s with vt := v }.hif = s.hif := rfl
theorem State.with_vt_huv : { s with vt := v }.huv = s.huv := rfl
theorem State.with_vt_pwr : { s with vt := v }.pwr = s.pwr := rfl
theorem State.with_vt_aon : { s with vt := v }.aon = s.aon := rfl
theorem State.with_vt_macs : { s with vt := v }.macs = s.macs := rfl
theorem State.with_vt_cans : { s with vt := v }.cans = s.cans := rfl
theorem State.with_vt_gpio : { s with vt := v }.gpio = s.gpio := rfl
end vt

section rul
variable {s : State} {v : Rul}
theorem State.with_rul_pending : { s with rul := v }.pending = s.pending := rfl
theorem State.with_rul_free : { s with rul := v }.free = s.free := rfl
theorem State.with_rul_out : { s with rul := v }.out = s.out := rfl
theorem State.with_rul_cyc : { s with rul := v }.cyc = s.cyc := rfl
theorem State.with_rul_dev : { s with rul := v }.dev = s.dev := rfl
theorem State.with_rul_activated : { s with rul := v }.activated = s.activated := rfl
theorem State.with_rul_folio : { s with rul := v }.folio = s.folio := rfl
theorem State.with_rul_vt : { s with rul := v }.vt = s.vt := rfl
theorem State.with_rul_px : { s with rul := v }.px = s.px := rfl
theorem State.with_rul_pt : { s with rul := v }.pt = s.pt := rfl
theorem State.with_rul_parts : { s with rul := v }.parts = s.parts := rfl
theorem State.with_rul_pens : { s with rul := v }.pens = s.pens := rfl
theorem State.with_rul_ipiFly : { s with rul := v }.ipiFly = s.ipiFly := rfl
theorem State.with_rul_flight : { s with rul := v }.flight = s.flight := rfl
theorem State.with_rul_mem : { s with rul := v }.mem = s.mem := rfl
theorem State.with_rul_rsv : { s with rul := v }.rsv = s.rsv := rfl
theorem State.with_rul_blot : { s with rul := v }.blot = s.blot := rfl
theorem State.with_rul_feed : { s with rul := v }.feed = s.feed := rfl
theorem State.with_rul_trc : { s with rul := v }.trc = s.trc := rfl
theorem State.with_rul_hif : { s with rul := v }.hif = s.hif := rfl
theorem State.with_rul_huv : { s with rul := v }.huv = s.huv := rfl
theorem State.with_rul_pwr : { s with rul := v }.pwr = s.pwr := rfl
theorem State.with_rul_aon : { s with rul := v }.aon = s.aon := rfl
theorem State.with_rul_macs : { s with rul := v }.macs = s.macs := rfl
theorem State.with_rul_cans : { s with rul := v }.cans = s.cans := rfl
theorem State.with_rul_gpio : { s with rul := v }.gpio = s.gpio := rfl
end rul

section hif
variable {s : State} {v : Hif}
theorem State.with_hif_pending : { s with hif := v }.pending = s.pending := rfl
theorem State.with_hif_free : { s with hif := v }.free = s.free := rfl
theorem State.with_hif_out : { s with hif := v }.out = s.out := rfl
theorem State.with_hif_cyc : { s with hif := v }.cyc = s.cyc := rfl
theorem State.with_hif_dev : { s with hif := v }.dev = s.dev := rfl
theorem State.with_hif_activated : { s with hif := v }.activated = s.activated := rfl
theorem State.with_hif_folio : { s with hif := v }.folio = s.folio := rfl
theorem State.with_hif_rul : { s with hif := v }.rul = s.rul := rfl
theorem State.with_hif_vt : { s with hif := v }.vt = s.vt := rfl
theorem State.with_hif_px : { s with hif := v }.px = s.px := rfl
theorem State.with_hif_pt : { s with hif := v }.pt = s.pt := rfl
theorem State.with_hif_parts : { s with hif := v }.parts = s.parts := rfl
theorem State.with_hif_pens : { s with hif := v }.pens = s.pens := rfl
theorem State.with_hif_ipiFly : { s with hif := v }.ipiFly = s.ipiFly := rfl
theorem State.with_hif_flight : { s with hif := v }.flight = s.flight := rfl
theorem State.with_hif_mem : { s with hif := v }.mem = s.mem := rfl
theorem State.with_hif_rsv : { s with hif := v }.rsv = s.rsv := rfl
theorem State.with_hif_blot : { s with hif := v }.blot = s.blot := rfl
theorem State.with_hif_feed : { s with hif := v }.feed = s.feed := rfl
theorem State.with_hif_trc : { s with hif := v }.trc = s.trc := rfl
theorem State.with_hif_huv : { s with hif := v }.huv = s.huv := rfl
theorem State.with_hif_pwr : { s with hif := v }.pwr = s.pwr := rfl
theorem State.with_hif_aon : { s with hif := v }.aon = s.aon := rfl
theorem State.with_hif_macs : { s with hif := v }.macs = s.macs := rfl
theorem State.with_hif_cans : { s with hif := v }.cans = s.cans := rfl
theorem State.with_hif_gpio : { s with hif := v }.gpio = s.gpio := rfl
end hif

section huv
variable {s : State} {v : Huv}
theorem State.with_huv_pending : { s with huv := v }.pending = s.pending := rfl
theorem State.with_huv_free : { s with huv := v }.free = s.free := rfl
theorem State.with_huv_out : { s with huv := v }.out = s.out := rfl
theorem State.with_huv_cyc : { s with huv := v }.cyc = s.cyc := rfl
theorem State.with_huv_dev : { s with huv := v }.dev = s.dev := rfl
theorem State.with_huv_activated : { s with huv := v }.activated = s.activated := rfl
theorem State.with_huv_folio : { s with huv := v }.folio = s.folio := rfl
theorem State.with_huv_rul : { s with huv := v }.rul = s.rul := rfl
theorem State.with_huv_vt : { s with huv := v }.vt = s.vt := rfl
theorem State.with_huv_px : { s with huv := v }.px = s.px := rfl
theorem State.with_huv_pt : { s with huv := v }.pt = s.pt := rfl
theorem State.with_huv_parts : { s with huv := v }.parts = s.parts := rfl
theorem State.with_huv_pens : { s with huv := v }.pens = s.pens := rfl
theorem State.with_huv_ipiFly : { s with huv := v }.ipiFly = s.ipiFly := rfl
theorem State.with_huv_flight : { s with huv := v }.flight = s.flight := rfl
theorem State.with_huv_mem : { s with huv := v }.mem = s.mem := rfl
theorem State.with_huv_rsv : { s with huv := v }.rsv = s.rsv := rfl
theorem State.with_huv_blot : { s with huv := v }.blot = s.blot := rfl
theorem State.with_huv_feed : { s with huv := v }.feed = s.feed := rfl
theorem State.with_huv_trc : { s with huv := v }.trc = s.trc := rfl
theorem State.with_huv_hif : { s with huv := v }.hif = s.hif := rfl
theorem State.with_huv_pwr : { s with huv := v }.pwr = s.pwr := rfl
theorem State.with_huv_aon : { s with huv := v }.aon = s.aon := rfl
theorem State.with_huv_macs : { s with huv := v }.macs = s.macs := rfl
theorem State.with_huv_cans : { s with huv := v }.cans = s.cans := rfl
theorem State.with_huv_gpio : { s with huv := v }.gpio = s.gpio := rfl
end huv

section feed
variable {s : State} {v : Feed}
theorem State.with_feed_pending : { s with feed := v }.pending = s.pending := rfl
theorem State.with_feed_free : { s with feed := v }.free = s.free := rfl
theorem State.with_feed_out : { s with feed := v }.out = s.out := rfl
theorem State.with_feed_cyc : { s with feed := v }.cyc = s.cyc := rfl
theorem State.with_feed_dev : { s with feed := v }.dev = s.dev := rfl
theorem State.with_feed_activated : { s with feed := v }.activated = s.activated := rfl
theorem State.with_feed_folio : { s with feed := v }.folio = s.folio := rfl
theorem State.with_feed_rul : { s with feed := v }.rul = s.rul := rfl
theorem State.with_feed_vt : { s with feed := v }.vt = s.vt := rfl
theorem State.with_feed_px : { s with feed := v }.px = s.px := rfl
theorem State.with_feed_pt : { s with feed := v }.pt = s.pt := rfl
theorem State.with_feed_parts : { s with feed := v }.parts = s.parts := rfl
theorem State.with_feed_pens : { s with feed := v }.pens = s.pens := rfl
theorem State.with_feed_ipiFly : { s with feed := v }.ipiFly = s.ipiFly := rfl
theorem State.with_feed_flight : { s with feed := v }.flight = s.flight := rfl
theorem State.with_feed_mem : { s with feed := v }.mem = s.mem := rfl
theorem State.with_feed_rsv : { s with feed := v }.rsv = s.rsv := rfl
theorem State.with_feed_blot : { s with feed := v }.blot = s.blot := rfl
theorem State.with_feed_trc : { s with feed := v }.trc = s.trc := rfl
theorem State.with_feed_hif : { s with feed := v }.hif = s.hif := rfl
theorem State.with_feed_huv : { s with feed := v }.huv = s.huv := rfl
theorem State.with_feed_pwr : { s with feed := v }.pwr = s.pwr := rfl
theorem State.with_feed_aon : { s with feed := v }.aon = s.aon := rfl
theorem State.with_feed_macs : { s with feed := v }.macs = s.macs := rfl
theorem State.with_feed_cans : { s with feed := v }.cans = s.cans := rfl
theorem State.with_feed_gpio : { s with feed := v }.gpio = s.gpio := rfl
end feed

section macs
variable {s : State} {v : Table Mac}
theorem State.with_macs_pending : { s with macs := v }.pending = s.pending := rfl
theorem State.with_macs_free : { s with macs := v }.free = s.free := rfl
theorem State.with_macs_out : { s with macs := v }.out = s.out := rfl
theorem State.with_macs_cyc : { s with macs := v }.cyc = s.cyc := rfl
theorem State.with_macs_dev : { s with macs := v }.dev = s.dev := rfl
theorem State.with_macs_activated : { s with macs := v }.activated = s.activated := rfl
theorem State.with_macs_folio : { s with macs := v }.folio = s.folio := rfl
theorem State.with_macs_rul : { s with macs := v }.rul = s.rul := rfl
theorem State.with_macs_vt : { s with macs := v }.vt = s.vt := rfl
theorem State.with_macs_px : { s with macs := v }.px = s.px := rfl
theorem State.with_macs_pt : { s with macs := v }.pt = s.pt := rfl
theorem State.with_macs_parts : { s with macs := v }.parts = s.parts := rfl
theorem State.with_macs_pens : { s with macs := v }.pens = s.pens := rfl
theorem State.with_macs_ipiFly : { s with macs := v }.ipiFly = s.ipiFly := rfl
theorem State.with_macs_flight : { s with macs := v }.flight = s.flight := rfl
theorem State.with_macs_mem : { s with macs := v }.mem = s.mem := rfl
theorem State.with_macs_rsv : { s with macs := v }.rsv = s.rsv := rfl
theorem State.with_macs_blot : { s with macs := v }.blot = s.blot := rfl
theorem State.with_macs_feed : { s with macs := v }.feed = s.feed := rfl
theorem State.with_macs_trc : { s with macs := v }.trc = s.trc := rfl
theorem State.with_macs_hif : { s with macs := v }.hif = s.hif := rfl
theorem State.with_macs_huv : { s with macs := v }.huv = s.huv := rfl
theorem State.with_macs_pwr : { s with macs := v }.pwr = s.pwr := rfl
theorem State.with_macs_aon : { s with macs := v }.aon = s.aon := rfl
theorem State.with_macs_cans : { s with macs := v }.cans = s.cans := rfl
theorem State.with_macs_gpio : { s with macs := v }.gpio = s.gpio := rfl
end macs

section cans
variable {s : State} {v : Table Can}
theorem State.with_cans_pending : { s with cans := v }.pending = s.pending := rfl
theorem State.with_cans_free : { s with cans := v }.free = s.free := rfl
theorem State.with_cans_out : { s with cans := v }.out = s.out := rfl
theorem State.with_cans_cyc : { s with cans := v }.cyc = s.cyc := rfl
theorem State.with_cans_dev : { s with cans := v }.dev = s.dev := rfl
theorem State.with_cans_activated : { s with cans := v }.activated = s.activated := rfl
theorem State.with_cans_folio : { s with cans := v }.folio = s.folio := rfl
theorem State.with_cans_rul : { s with cans := v }.rul = s.rul := rfl
theorem State.with_cans_vt : { s with cans := v }.vt = s.vt := rfl
theorem State.with_cans_px : { s with cans := v }.px = s.px := rfl
theorem State.with_cans_pt : { s with cans := v }.pt = s.pt := rfl
theorem State.with_cans_parts : { s with cans := v }.parts = s.parts := rfl
theorem State.with_cans_pens : { s with cans := v }.pens = s.pens := rfl
theorem State.with_cans_ipiFly : { s with cans := v }.ipiFly = s.ipiFly := rfl
theorem State.with_cans_flight : { s with cans := v }.flight = s.flight := rfl
theorem State.with_cans_mem : { s with cans := v }.mem = s.mem := rfl
theorem State.with_cans_rsv : { s with cans := v }.rsv = s.rsv := rfl
theorem State.with_cans_blot : { s with cans := v }.blot = s.blot := rfl
theorem State.with_cans_feed : { s with cans := v }.feed = s.feed := rfl
theorem State.with_cans_trc : { s with cans := v }.trc = s.trc := rfl
theorem State.with_cans_hif : { s with cans := v }.hif = s.hif := rfl
theorem State.with_cans_huv : { s with cans := v }.huv = s.huv := rfl
theorem State.with_cans_pwr : { s with cans := v }.pwr = s.pwr := rfl
theorem State.with_cans_aon : { s with cans := v }.aon = s.aon := rfl
theorem State.with_cans_macs : { s with cans := v }.macs = s.macs := rfl
theorem State.with_cans_gpio : { s with cans := v }.gpio = s.gpio := rfl
end cans


/-! ### `setPen` -/

section setPen
variable {s : State} {n : Nat} {x : Pen}

@[simp] theorem State.setPen_pending : (s.setPen n x).pending = s.pending := State.with_pens_pending
@[simp] theorem State.setPen_free : (s.setPen n x).free = s.free := State.with_pens_free
@[simp] theorem State.setPen_out : (s.setPen n x).out = s.out := State.with_pens_out
@[simp] theorem State.setPen_cyc : (s.setPen n x).cyc = s.cyc := State.with_pens_cyc
@[simp] theorem State.setPen_dev : (s.setPen n x).dev = s.dev := State.with_pens_dev
@[simp] theorem State.setPen_activated : (s.setPen n x).activated = s.activated := State.with_pens_activated
@[simp] theorem State.setPen_folio : (s.setPen n x).folio = s.folio := State.with_pens_folio
@[simp] theorem State.setPen_rul : (s.setPen n x).rul = s.rul := State.with_pens_rul
@[simp] theorem State.setPen_vt : (s.setPen n x).vt = s.vt := State.with_pens_vt
@[simp] theorem State.setPen_px : (s.setPen n x).px = s.px := State.with_pens_px
@[simp] theorem State.setPen_pt : (s.setPen n x).pt = s.pt := State.with_pens_pt
@[simp] theorem State.setPen_parts : (s.setPen n x).parts = s.parts := State.with_pens_parts
@[simp] theorem State.setPen_ipiFly : (s.setPen n x).ipiFly = s.ipiFly := State.with_pens_ipiFly
@[simp] theorem State.setPen_flight : (s.setPen n x).flight = s.flight := State.with_pens_flight
@[simp] theorem State.setPen_mem : (s.setPen n x).mem = s.mem := State.with_pens_mem
@[simp] theorem State.setPen_rsv : (s.setPen n x).rsv = s.rsv := State.with_pens_rsv
@[simp] theorem State.setPen_blot : (s.setPen n x).blot = s.blot := State.with_pens_blot
@[simp] theorem State.setPen_feed : (s.setPen n x).feed = s.feed := State.with_pens_feed
@[simp] theorem State.setPen_trc : (s.setPen n x).trc = s.trc := State.with_pens_trc
@[simp] theorem State.setPen_hif : (s.setPen n x).hif = s.hif := State.with_pens_hif
@[simp] theorem State.setPen_huv : (s.setPen n x).huv = s.huv := State.with_pens_huv
@[simp] theorem State.setPen_pwr : (s.setPen n x).pwr = s.pwr := State.with_pens_pwr
@[simp] theorem State.setPen_aon : (s.setPen n x).aon = s.aon := State.with_pens_aon
@[simp] theorem State.setPen_macs : (s.setPen n x).macs = s.macs := State.with_pens_macs
@[simp] theorem State.setPen_cans : (s.setPen n x).cans = s.cans := State.with_pens_cans
@[simp] theorem State.setPen_gpio : (s.setPen n x).gpio = s.gpio := State.with_pens_gpio
@[simp] theorem State.setPen_rsvOf {k : Nat} : (s.setPen n x).rsvOf k = s.rsvOf k := by simp only [State.rsvOf, State.setPen_rsv]
@[simp] theorem State.setPen_vslot {k : Nat} : (s.setPen n x).vslot k = s.vslot k := by simp only [State.vslot, State.setPen_vt]
@[simp] theorem State.setPen_slotOf {k : Nat} : (s.setPen n x).slotOf k = s.slotOf k := by simp only [State.slotOf, State.setPen_rul]
@[simp] theorem State.setPen_queue {k : Nat} : (s.setPen n x).queue k = s.queue k := by simp only [State.queue, State.setPen_hif]
@[simp] theorem State.setPen_msixOf {k : Nat} : (s.setPen n x).msixOf k = s.msixOf k := by simp only [State.msixOf, State.setPen_hif]
@[simp] theorem State.setPen_mbox {k : Nat} : (s.setPen n x).mbox k = s.mbox k := by simp only [State.mbox, State.setPen_huv]
@[simp] theorem State.setPen_desc {k : Nat} : (s.setPen n x).desc k = s.desc k := by simp only [State.desc, State.setPen_feed]
@[simp] theorem State.setPen_mac {k : Nat} : (s.setPen n x).mac k = s.mac k := by simp only [State.mac, State.setPen_macs]
@[simp] theorem State.setPen_can {k : Nat} : (s.setPen n x).can k = s.can k := by simp only [State.can, State.setPen_cans]
@[simp] theorem State.setPen_peekCode {k : Nat} : (s.setPen n x).peekCode k = s.peekCode k := by simp only [State.peekCode, State.setPen_mem]
@[simp] theorem State.setPen_partOf {k : Nat} : (s.setPen n x).partOf k = s.partOf k := by simp only [State.partOf, State.setPen_parts]
@[simp] theorem State.setPen_pen_same : (s.setPen n x).pen n = x := by
  simp [State.setPen, State.pen]
theorem State.setPen_pen_other {k : Nat} (h : k ≠ n) : (s.setPen n x).pen k = s.pen k := by
  simp [State.setPen, State.pen, Table.get_set_other _ _ _ h]
end setPen

/-! ### `modPen` -/

section modPen
variable {s : State} {n : Nat} {f : Pen → Pen}

@[simp] theorem State.modPen_pending : (s.modPen n f).pending = s.pending := State.with_pens_pending
@[simp] theorem State.modPen_free : (s.modPen n f).free = s.free := State.with_pens_free
@[simp] theorem State.modPen_out : (s.modPen n f).out = s.out := State.with_pens_out
@[simp] theorem State.modPen_cyc : (s.modPen n f).cyc = s.cyc := State.with_pens_cyc
@[simp] theorem State.modPen_dev : (s.modPen n f).dev = s.dev := State.with_pens_dev
@[simp] theorem State.modPen_activated : (s.modPen n f).activated = s.activated := State.with_pens_activated
@[simp] theorem State.modPen_folio : (s.modPen n f).folio = s.folio := State.with_pens_folio
@[simp] theorem State.modPen_rul : (s.modPen n f).rul = s.rul := State.with_pens_rul
@[simp] theorem State.modPen_vt : (s.modPen n f).vt = s.vt := State.with_pens_vt
@[simp] theorem State.modPen_px : (s.modPen n f).px = s.px := State.with_pens_px
@[simp] theorem State.modPen_pt : (s.modPen n f).pt = s.pt := State.with_pens_pt
@[simp] theorem State.modPen_parts : (s.modPen n f).parts = s.parts := State.with_pens_parts
@[simp] theorem State.modPen_ipiFly : (s.modPen n f).ipiFly = s.ipiFly := State.with_pens_ipiFly
@[simp] theorem State.modPen_flight : (s.modPen n f).flight = s.flight := State.with_pens_flight
@[simp] theorem State.modPen_mem : (s.modPen n f).mem = s.mem := State.with_pens_mem
@[simp] theorem State.modPen_rsv : (s.modPen n f).rsv = s.rsv := State.with_pens_rsv
@[simp] theorem State.modPen_blot : (s.modPen n f).blot = s.blot := State.with_pens_blot
@[simp] theorem State.modPen_feed : (s.modPen n f).feed = s.feed := State.with_pens_feed
@[simp] theorem State.modPen_trc : (s.modPen n f).trc = s.trc := State.with_pens_trc
@[simp] theorem State.modPen_hif : (s.modPen n f).hif = s.hif := State.with_pens_hif
@[simp] theorem State.modPen_huv : (s.modPen n f).huv = s.huv := State.with_pens_huv
@[simp] theorem State.modPen_pwr : (s.modPen n f).pwr = s.pwr := State.with_pens_pwr
@[simp] theorem State.modPen_aon : (s.modPen n f).aon = s.aon := State.with_pens_aon
@[simp] theorem State.modPen_macs : (s.modPen n f).macs = s.macs := State.with_pens_macs
@[simp] theorem State.modPen_cans : (s.modPen n f).cans = s.cans := State.with_pens_cans
@[simp] theorem State.modPen_gpio : (s.modPen n f).gpio = s.gpio := State.with_pens_gpio
@[simp] theorem State.modPen_rsvOf {k : Nat} : (s.modPen n f).rsvOf k = s.rsvOf k := by simp only [State.rsvOf, State.modPen_rsv]
@[simp] theorem State.modPen_vslot {k : Nat} : (s.modPen n f).vslot k = s.vslot k := by simp only [State.vslot, State.modPen_vt]
@[simp] theorem State.modPen_slotOf {k : Nat} : (s.modPen n f).slotOf k = s.slotOf k := by simp only [State.slotOf, State.modPen_rul]
@[simp] theorem State.modPen_queue {k : Nat} : (s.modPen n f).queue k = s.queue k := by simp only [State.queue, State.modPen_hif]
@[simp] theorem State.modPen_msixOf {k : Nat} : (s.modPen n f).msixOf k = s.msixOf k := by simp only [State.msixOf, State.modPen_hif]
@[simp] theorem State.modPen_mbox {k : Nat} : (s.modPen n f).mbox k = s.mbox k := by simp only [State.mbox, State.modPen_huv]
@[simp] theorem State.modPen_desc {k : Nat} : (s.modPen n f).desc k = s.desc k := by simp only [State.desc, State.modPen_feed]
@[simp] theorem State.modPen_mac {k : Nat} : (s.modPen n f).mac k = s.mac k := by simp only [State.mac, State.modPen_macs]
@[simp] theorem State.modPen_can {k : Nat} : (s.modPen n f).can k = s.can k := by simp only [State.can, State.modPen_cans]
@[simp] theorem State.modPen_peekCode {k : Nat} : (s.modPen n f).peekCode k = s.peekCode k := by simp only [State.peekCode, State.modPen_mem]
@[simp] theorem State.modPen_partOf {k : Nat} : (s.modPen n f).partOf k = s.partOf k := by simp only [State.partOf, State.modPen_parts]
@[simp] theorem State.modPen_pen_same : (s.modPen n f).pen n = f (s.pen n) := by
  simp [State.modPen, State.pen, State.setPen]
theorem State.modPen_pen_other {k : Nat} (h : k ≠ n) : (s.modPen n f).pen k = s.pen k := by
  simp [State.modPen, State.pen, State.setPen, Table.get_set_other _ _ _ h]
end modPen

/-! ### `modRsv` -/

section modRsv
variable {s : State} {n : Nat} {f : Rsv → Rsv}

@[simp] theorem State.modRsv_pending : (s.modRsv n f).pending = s.pending := State.with_rsv_pending
@[simp] theorem State.modRsv_free : (s.modRsv n f).free = s.free := State.with_rsv_free
@[simp] theorem State.modRsv_out : (s.modRsv n f).out = s.out := State.with_rsv_out
@[simp] theorem State.modRsv_cyc : (s.modRsv n f).cyc = s.cyc := State.with_rsv_cyc
@[simp] theorem State.modRsv_dev : (s.modRsv n f).dev = s.dev := State.with_rsv_dev
@[simp] theorem State.modRsv_activated : (s.modRsv n f).activated = s.activated := State.with_rsv_activated
@[simp] theorem State.modRsv_folio : (s.modRsv n f).folio = s.folio := State.with_rsv_folio
@[simp] theorem State.modRsv_rul : (s.modRsv n f).rul = s.rul := State.with_rsv_rul
@[simp] theorem State.modRsv_vt : (s.modRsv n f).vt = s.vt := State.with_rsv_vt
@[simp] theorem State.modRsv_px : (s.modRsv n f).px = s.px := State.with_rsv_px
@[simp] theorem State.modRsv_pt : (s.modRsv n f).pt = s.pt := State.with_rsv_pt
@[simp] theorem State.modRsv_parts : (s.modRsv n f).parts = s.parts := State.with_rsv_parts
@[simp] theorem State.modRsv_pens : (s.modRsv n f).pens = s.pens := State.with_rsv_pens
@[simp] theorem State.modRsv_ipiFly : (s.modRsv n f).ipiFly = s.ipiFly := State.with_rsv_ipiFly
@[simp] theorem State.modRsv_flight : (s.modRsv n f).flight = s.flight := State.with_rsv_flight
@[simp] theorem State.modRsv_mem : (s.modRsv n f).mem = s.mem := State.with_rsv_mem
@[simp] theorem State.modRsv_blot : (s.modRsv n f).blot = s.blot := State.with_rsv_blot
@[simp] theorem State.modRsv_feed : (s.modRsv n f).feed = s.feed := State.with_rsv_feed
@[simp] theorem State.modRsv_trc : (s.modRsv n f).trc = s.trc := State.with_rsv_trc
@[simp] theorem State.modRsv_hif : (s.modRsv n f).hif = s.hif := State.with_rsv_hif
@[simp] theorem State.modRsv_huv : (s.modRsv n f).huv = s.huv := State.with_rsv_huv
@[simp] theorem State.modRsv_pwr : (s.modRsv n f).pwr = s.pwr := State.with_rsv_pwr
@[simp] theorem State.modRsv_aon : (s.modRsv n f).aon = s.aon := State.with_rsv_aon
@[simp] theorem State.modRsv_macs : (s.modRsv n f).macs = s.macs := State.with_rsv_macs
@[simp] theorem State.modRsv_cans : (s.modRsv n f).cans = s.cans := State.with_rsv_cans
@[simp] theorem State.modRsv_gpio : (s.modRsv n f).gpio = s.gpio := State.with_rsv_gpio
@[simp] theorem State.modRsv_pen {k : Nat} : (s.modRsv n f).pen k = s.pen k := by simp only [State.pen, State.modRsv_pens]
@[simp] theorem State.modRsv_vslot {k : Nat} : (s.modRsv n f).vslot k = s.vslot k := by simp only [State.vslot, State.modRsv_vt]
@[simp] theorem State.modRsv_slotOf {k : Nat} : (s.modRsv n f).slotOf k = s.slotOf k := by simp only [State.slotOf, State.modRsv_rul]
@[simp] theorem State.modRsv_queue {k : Nat} : (s.modRsv n f).queue k = s.queue k := by simp only [State.queue, State.modRsv_hif]
@[simp] theorem State.modRsv_msixOf {k : Nat} : (s.modRsv n f).msixOf k = s.msixOf k := by simp only [State.msixOf, State.modRsv_hif]
@[simp] theorem State.modRsv_mbox {k : Nat} : (s.modRsv n f).mbox k = s.mbox k := by simp only [State.mbox, State.modRsv_huv]
@[simp] theorem State.modRsv_desc {k : Nat} : (s.modRsv n f).desc k = s.desc k := by simp only [State.desc, State.modRsv_feed]
@[simp] theorem State.modRsv_mac {k : Nat} : (s.modRsv n f).mac k = s.mac k := by simp only [State.mac, State.modRsv_macs]
@[simp] theorem State.modRsv_can {k : Nat} : (s.modRsv n f).can k = s.can k := by simp only [State.can, State.modRsv_cans]
@[simp] theorem State.modRsv_peekCode {k : Nat} : (s.modRsv n f).peekCode k = s.peekCode k := by simp only [State.peekCode, State.modRsv_mem]
@[simp] theorem State.modRsv_partOf {k : Nat} : (s.modRsv n f).partOf k = s.partOf k := by simp only [State.partOf, State.modRsv_parts]
@[simp] theorem State.modRsv_rsvOf_same : (s.modRsv n f).rsvOf n = f (s.rsvOf n) := by
  simp [State.modRsv, State.rsvOf]
theorem State.modRsv_rsvOf_other {k : Nat} (h : k ≠ n) : (s.modRsv n f).rsvOf k = s.rsvOf k := by
  simp [State.modRsv, State.rsvOf, Table.get_set_other _ _ _ h]
end modRsv

/-! ### `modVslot` -/

section modVslot
variable {s : State} {n : Nat} {f : VSlot → VSlot}

@[simp] theorem State.modVslot_pending : (s.modVslot n f).pending = s.pending := State.with_vt_pending
@[simp] theorem State.modVslot_free : (s.modVslot n f).free = s.free := State.with_vt_free
@[simp] theorem State.modVslot_out : (s.modVslot n f).out = s.out := State.with_vt_out
@[simp] theorem State.modVslot_cyc : (s.modVslot n f).cyc = s.cyc := State.with_vt_cyc
@[simp] theorem State.modVslot_dev : (s.modVslot n f).dev = s.dev := State.with_vt_dev
@[simp] theorem State.modVslot_activated : (s.modVslot n f).activated = s.activated := State.with_vt_activated
@[simp] theorem State.modVslot_folio : (s.modVslot n f).folio = s.folio := State.with_vt_folio
@[simp] theorem State.modVslot_rul : (s.modVslot n f).rul = s.rul := State.with_vt_rul
@[simp] theorem State.modVslot_px : (s.modVslot n f).px = s.px := State.with_vt_px
@[simp] theorem State.modVslot_pt : (s.modVslot n f).pt = s.pt := State.with_vt_pt
@[simp] theorem State.modVslot_parts : (s.modVslot n f).parts = s.parts := State.with_vt_parts
@[simp] theorem State.modVslot_pens : (s.modVslot n f).pens = s.pens := State.with_vt_pens
@[simp] theorem State.modVslot_ipiFly : (s.modVslot n f).ipiFly = s.ipiFly := State.with_vt_ipiFly
@[simp] theorem State.modVslot_flight : (s.modVslot n f).flight = s.flight := State.with_vt_flight
@[simp] theorem State.modVslot_mem : (s.modVslot n f).mem = s.mem := State.with_vt_mem
@[simp] theorem State.modVslot_rsv : (s.modVslot n f).rsv = s.rsv := State.with_vt_rsv
@[simp] theorem State.modVslot_blot : (s.modVslot n f).blot = s.blot := State.with_vt_blot
@[simp] theorem State.modVslot_feed : (s.modVslot n f).feed = s.feed := State.with_vt_feed
@[simp] theorem State.modVslot_trc : (s.modVslot n f).trc = s.trc := State.with_vt_trc
@[simp] theorem State.modVslot_hif : (s.modVslot n f).hif = s.hif := State.with_vt_hif
@[simp] theorem State.modVslot_huv : (s.modVslot n f).huv = s.huv := State.with_vt_huv
@[simp] theorem State.modVslot_pwr : (s.modVslot n f).pwr = s.pwr := State.with_vt_pwr
@[simp] theorem State.modVslot_aon : (s.modVslot n f).aon = s.aon := State.with_vt_aon
@[simp] theorem State.modVslot_macs : (s.modVslot n f).macs = s.macs := State.with_vt_macs
@[simp] theorem State.modVslot_cans : (s.modVslot n f).cans = s.cans := State.with_vt_cans
@[simp] theorem State.modVslot_gpio : (s.modVslot n f).gpio = s.gpio := State.with_vt_gpio
@[simp] theorem State.modVslot_pen {k : Nat} : (s.modVslot n f).pen k = s.pen k := by simp only [State.pen, State.modVslot_pens]
@[simp] theorem State.modVslot_rsvOf {k : Nat} : (s.modVslot n f).rsvOf k = s.rsvOf k := by simp only [State.rsvOf, State.modVslot_rsv]
@[simp] theorem State.modVslot_slotOf {k : Nat} : (s.modVslot n f).slotOf k = s.slotOf k := by simp only [State.slotOf, State.modVslot_rul]
@[simp] theorem State.modVslot_queue {k : Nat} : (s.modVslot n f).queue k = s.queue k := by simp only [State.queue, State.modVslot_hif]
@[simp] theorem State.modVslot_msixOf {k : Nat} : (s.modVslot n f).msixOf k = s.msixOf k := by simp only [State.msixOf, State.modVslot_hif]
@[simp] theorem State.modVslot_mbox {k : Nat} : (s.modVslot n f).mbox k = s.mbox k := by simp only [State.mbox, State.modVslot_huv]
@[simp] theorem State.modVslot_desc {k : Nat} : (s.modVslot n f).desc k = s.desc k := by simp only [State.desc, State.modVslot_feed]
@[simp] theorem State.modVslot_mac {k : Nat} : (s.modVslot n f).mac k = s.mac k := by simp only [State.mac, State.modVslot_macs]
@[simp] theorem State.modVslot_can {k : Nat} : (s.modVslot n f).can k = s.can k := by simp only [State.can, State.modVslot_cans]
@[simp] theorem State.modVslot_peekCode {k : Nat} : (s.modVslot n f).peekCode k = s.peekCode k := by simp only [State.peekCode, State.modVslot_mem]
@[simp] theorem State.modVslot_partOf {k : Nat} : (s.modVslot n f).partOf k = s.partOf k := by simp only [State.partOf, State.modVslot_parts]
@[simp] theorem State.modVslot_vslot_same : (s.modVslot n f).vslot n = f (s.vslot n) := by
  simp [State.modVslot, State.vslot]
theorem State.modVslot_vslot_other {k : Nat} (h : k ≠ n) : (s.modVslot n f).vslot k = s.vslot k := by
  simp [State.modVslot, State.vslot, Table.get_set_other _ _ _ h]
end modVslot

/-! ### `modSlot` -/

section modSlot
variable {s : State} {n : Nat} {f : RulSlot → RulSlot}

@[simp] theorem State.modSlot_pending : (s.modSlot n f).pending = s.pending := State.with_rul_pending
@[simp] theorem State.modSlot_free : (s.modSlot n f).free = s.free := State.with_rul_free
@[simp] theorem State.modSlot_out : (s.modSlot n f).out = s.out := State.with_rul_out
@[simp] theorem State.modSlot_cyc : (s.modSlot n f).cyc = s.cyc := State.with_rul_cyc
@[simp] theorem State.modSlot_dev : (s.modSlot n f).dev = s.dev := State.with_rul_dev
@[simp] theorem State.modSlot_activated : (s.modSlot n f).activated = s.activated := State.with_rul_activated
@[simp] theorem State.modSlot_folio : (s.modSlot n f).folio = s.folio := State.with_rul_folio
@[simp] theorem State.modSlot_vt : (s.modSlot n f).vt = s.vt := State.with_rul_vt
@[simp] theorem State.modSlot_px : (s.modSlot n f).px = s.px := State.with_rul_px
@[simp] theorem State.modSlot_pt : (s.modSlot n f).pt = s.pt := State.with_rul_pt
@[simp] theorem State.modSlot_parts : (s.modSlot n f).parts = s.parts := State.with_rul_parts
@[simp] theorem State.modSlot_pens : (s.modSlot n f).pens = s.pens := State.with_rul_pens
@[simp] theorem State.modSlot_ipiFly : (s.modSlot n f).ipiFly = s.ipiFly := State.with_rul_ipiFly
@[simp] theorem State.modSlot_flight : (s.modSlot n f).flight = s.flight := State.with_rul_flight
@[simp] theorem State.modSlot_mem : (s.modSlot n f).mem = s.mem := State.with_rul_mem
@[simp] theorem State.modSlot_rsv : (s.modSlot n f).rsv = s.rsv := State.with_rul_rsv
@[simp] theorem State.modSlot_blot : (s.modSlot n f).blot = s.blot := State.with_rul_blot
@[simp] theorem State.modSlot_feed : (s.modSlot n f).feed = s.feed := State.with_rul_feed
@[simp] theorem State.modSlot_trc : (s.modSlot n f).trc = s.trc := State.with_rul_trc
@[simp] theorem State.modSlot_hif : (s.modSlot n f).hif = s.hif := State.with_rul_hif
@[simp] theorem State.modSlot_huv : (s.modSlot n f).huv = s.huv := State.with_rul_huv
@[simp] theorem State.modSlot_pwr : (s.modSlot n f).pwr = s.pwr := State.with_rul_pwr
@[simp] theorem State.modSlot_aon : (s.modSlot n f).aon = s.aon := State.with_rul_aon
@[simp] theorem State.modSlot_macs : (s.modSlot n f).macs = s.macs := State.with_rul_macs
@[simp] theorem State.modSlot_cans : (s.modSlot n f).cans = s.cans := State.with_rul_cans
@[simp] theorem State.modSlot_gpio : (s.modSlot n f).gpio = s.gpio := State.with_rul_gpio
@[simp] theorem State.modSlot_pen {k : Nat} : (s.modSlot n f).pen k = s.pen k := by simp only [State.pen, State.modSlot_pens]
@[simp] theorem State.modSlot_rsvOf {k : Nat} : (s.modSlot n f).rsvOf k = s.rsvOf k := by simp only [State.rsvOf, State.modSlot_rsv]
@[simp] theorem State.modSlot_vslot {k : Nat} : (s.modSlot n f).vslot k = s.vslot k := by simp only [State.vslot, State.modSlot_vt]
@[simp] theorem State.modSlot_queue {k : Nat} : (s.modSlot n f).queue k = s.queue k := by simp only [State.queue, State.modSlot_hif]
@[simp] theorem State.modSlot_msixOf {k : Nat} : (s.modSlot n f).msixOf k = s.msixOf k := by simp only [State.msixOf, State.modSlot_hif]
@[simp] theorem State.modSlot_mbox {k : Nat} : (s.modSlot n f).mbox k = s.mbox k := by simp only [State.mbox, State.modSlot_huv]
@[simp] theorem State.modSlot_desc {k : Nat} : (s.modSlot n f).desc k = s.desc k := by simp only [State.desc, State.modSlot_feed]
@[simp] theorem State.modSlot_mac {k : Nat} : (s.modSlot n f).mac k = s.mac k := by simp only [State.mac, State.modSlot_macs]
@[simp] theorem State.modSlot_can {k : Nat} : (s.modSlot n f).can k = s.can k := by simp only [State.can, State.modSlot_cans]
@[simp] theorem State.modSlot_peekCode {k : Nat} : (s.modSlot n f).peekCode k = s.peekCode k := by simp only [State.peekCode, State.modSlot_mem]
@[simp] theorem State.modSlot_partOf {k : Nat} : (s.modSlot n f).partOf k = s.partOf k := by simp only [State.partOf, State.modSlot_parts]
@[simp] theorem State.modSlot_slotOf_same : (s.modSlot n f).slotOf n = f (s.slotOf n) := by
  simp [State.modSlot, State.slotOf]
theorem State.modSlot_slotOf_other {k : Nat} (h : k ≠ n) : (s.modSlot n f).slotOf k = s.slotOf k := by
  simp [State.modSlot, State.slotOf, Table.get_set_other _ _ _ h]
end modSlot

/-! ### `modQueue` -/

section modQueue
variable {s : State} {n : Nat} {f : Queue → Queue}

@[simp] theorem State.modQueue_pending : (s.modQueue n f).pending = s.pending := State.with_hif_pending
@[simp] theorem State.modQueue_free : (s.modQueue n f).free = s.free := State.with_hif_free
@[simp] theorem State.modQueue_out : (s.modQueue n f).out = s.out := State.with_hif_out
@[simp] theorem State.modQueue_cyc : (s.modQueue n f).cyc = s.cyc := State.with_hif_cyc
@[simp] theorem State.modQueue_dev : (s.modQueue n f).dev = s.dev := State.with_hif_dev
@[simp] theorem State.modQueue_activated : (s.modQueue n f).activated = s.activated := State.with_hif_activated
@[simp] theorem State.modQueue_folio : (s.modQueue n f).folio = s.folio := State.with_hif_folio
@[simp] theorem State.modQueue_rul : (s.modQueue n f).rul = s.rul := State.with_hif_rul
@[simp] theorem State.modQueue_vt : (s.modQueue n f).vt = s.vt := State.with_hif_vt
@[simp] theorem State.modQueue_px : (s.modQueue n f).px = s.px := State.with_hif_px
@[simp] theorem State.modQueue_pt : (s.modQueue n f).pt = s.pt := State.with_hif_pt
@[simp] theorem State.modQueue_parts : (s.modQueue n f).parts = s.parts := State.with_hif_parts
@[simp] theorem State.modQueue_pens : (s.modQueue n f).pens = s.pens := State.with_hif_pens
@[simp] theorem State.modQueue_ipiFly : (s.modQueue n f).ipiFly = s.ipiFly := State.with_hif_ipiFly
@[simp] theorem State.modQueue_flight : (s.modQueue n f).flight = s.flight := State.with_hif_flight
@[simp] theorem State.modQueue_mem : (s.modQueue n f).mem = s.mem := State.with_hif_mem
@[simp] theorem State.modQueue_rsv : (s.modQueue n f).rsv = s.rsv := State.with_hif_rsv
@[simp] theorem State.modQueue_blot : (s.modQueue n f).blot = s.blot := State.with_hif_blot
@[simp] theorem State.modQueue_feed : (s.modQueue n f).feed = s.feed := State.with_hif_feed
@[simp] theorem State.modQueue_trc : (s.modQueue n f).trc = s.trc := State.with_hif_trc
@[simp] theorem State.modQueue_huv : (s.modQueue n f).huv = s.huv := State.with_hif_huv
@[simp] theorem State.modQueue_pwr : (s.modQueue n f).pwr = s.pwr := State.with_hif_pwr
@[simp] theorem State.modQueue_aon : (s.modQueue n f).aon = s.aon := State.with_hif_aon
@[simp] theorem State.modQueue_macs : (s.modQueue n f).macs = s.macs := State.with_hif_macs
@[simp] theorem State.modQueue_cans : (s.modQueue n f).cans = s.cans := State.with_hif_cans
@[simp] theorem State.modQueue_gpio : (s.modQueue n f).gpio = s.gpio := State.with_hif_gpio
@[simp] theorem State.modQueue_pen {k : Nat} : (s.modQueue n f).pen k = s.pen k := by simp only [State.pen, State.modQueue_pens]
@[simp] theorem State.modQueue_rsvOf {k : Nat} : (s.modQueue n f).rsvOf k = s.rsvOf k := by simp only [State.rsvOf, State.modQueue_rsv]
@[simp] theorem State.modQueue_vslot {k : Nat} : (s.modQueue n f).vslot k = s.vslot k := by simp only [State.vslot, State.modQueue_vt]
@[simp] theorem State.modQueue_slotOf {k : Nat} : (s.modQueue n f).slotOf k = s.slotOf k := by simp only [State.slotOf, State.modQueue_rul]
@[simp] theorem State.modQueue_mbox {k : Nat} : (s.modQueue n f).mbox k = s.mbox k := by simp only [State.mbox, State.modQueue_huv]
@[simp] theorem State.modQueue_desc {k : Nat} : (s.modQueue n f).desc k = s.desc k := by simp only [State.desc, State.modQueue_feed]
@[simp] theorem State.modQueue_mac {k : Nat} : (s.modQueue n f).mac k = s.mac k := by simp only [State.mac, State.modQueue_macs]
@[simp] theorem State.modQueue_can {k : Nat} : (s.modQueue n f).can k = s.can k := by simp only [State.can, State.modQueue_cans]
@[simp] theorem State.modQueue_peekCode {k : Nat} : (s.modQueue n f).peekCode k = s.peekCode k := by simp only [State.peekCode, State.modQueue_mem]
@[simp] theorem State.modQueue_partOf {k : Nat} : (s.modQueue n f).partOf k = s.partOf k := by simp only [State.partOf, State.modQueue_parts]
@[simp] theorem State.modQueue_queue_same : (s.modQueue n f).queue n = f (s.queue n) := by
  simp [State.modQueue, State.queue]
theorem State.modQueue_queue_other {k : Nat} (h : k ≠ n) : (s.modQueue n f).queue k = s.queue k := by
  simp [State.modQueue, State.queue, Table.get_set_other _ _ _ h]
end modQueue

/-! ### `modMsix` -/

section modMsix
variable {s : State} {n : Nat} {f : MsixEntry → MsixEntry}

@[simp] theorem State.modMsix_pending : (s.modMsix n f).pending = s.pending := State.with_hif_pending
@[simp] theorem State.modMsix_free : (s.modMsix n f).free = s.free := State.with_hif_free
@[simp] theorem State.modMsix_out : (s.modMsix n f).out = s.out := State.with_hif_out
@[simp] theorem State.modMsix_cyc : (s.modMsix n f).cyc = s.cyc := State.with_hif_cyc
@[simp] theorem State.modMsix_dev : (s.modMsix n f).dev = s.dev := State.with_hif_dev
@[simp] theorem State.modMsix_activated : (s.modMsix n f).activated = s.activated := State.with_hif_activated
@[simp] theorem State.modMsix_folio : (s.modMsix n f).folio = s.folio := State.with_hif_folio
@[simp] theorem State.modMsix_rul : (s.modMsix n f).rul = s.rul := State.with_hif_rul
@[simp] theorem State.modMsix_vt : (s.modMsix n f).vt = s.vt := State.with_hif_vt
@[simp] theorem State.modMsix_px : (s.modMsix n f).px = s.px := State.with_hif_px
@[simp] theorem State.modMsix_pt : (s.modMsix n f).pt = s.pt := State.with_hif_pt
@[simp] theorem State.modMsix_parts : (s.modMsix n f).parts = s.parts := State.with_hif_parts
@[simp] theorem State.modMsix_pens : (s.modMsix n f).pens = s.pens := State.with_hif_pens
@[simp] theorem State.modMsix_ipiFly : (s.modMsix n f).ipiFly = s.ipiFly := State.with_hif_ipiFly
@[simp] theorem State.modMsix_flight : (s.modMsix n f).flight = s.flight := State.with_hif_flight
@[simp] theorem State.modMsix_mem : (s.modMsix n f).mem = s.mem := State.with_hif_mem
@[simp] theorem State.modMsix_rsv : (s.modMsix n f).rsv = s.rsv := State.with_hif_rsv
@[simp] theorem State.modMsix_blot : (s.modMsix n f).blot = s.blot := State.with_hif_blot
@[simp] theorem State.modMsix_feed : (s.modMsix n f).feed = s.feed := State.with_hif_feed
@[simp] theorem State.modMsix_trc : (s.modMsix n f).trc = s.trc := State.with_hif_trc
@[simp] theorem State.modMsix_huv : (s.modMsix n f).huv = s.huv := State.with_hif_huv
@[simp] theorem State.modMsix_pwr : (s.modMsix n f).pwr = s.pwr := State.with_hif_pwr
@[simp] theorem State.modMsix_aon : (s.modMsix n f).aon = s.aon := State.with_hif_aon
@[simp] theorem State.modMsix_macs : (s.modMsix n f).macs = s.macs := State.with_hif_macs
@[simp] theorem State.modMsix_cans : (s.modMsix n f).cans = s.cans := State.with_hif_cans
@[simp] theorem State.modMsix_gpio : (s.modMsix n f).gpio = s.gpio := State.with_hif_gpio
@[simp] theorem State.modMsix_pen {k : Nat} : (s.modMsix n f).pen k = s.pen k := by simp only [State.pen, State.modMsix_pens]
@[simp] theorem State.modMsix_rsvOf {k : Nat} : (s.modMsix n f).rsvOf k = s.rsvOf k := by simp only [State.rsvOf, State.modMsix_rsv]
@[simp] theorem State.modMsix_vslot {k : Nat} : (s.modMsix n f).vslot k = s.vslot k := by simp only [State.vslot, State.modMsix_vt]
@[simp] theorem State.modMsix_slotOf {k : Nat} : (s.modMsix n f).slotOf k = s.slotOf k := by simp only [State.slotOf, State.modMsix_rul]
@[simp] theorem State.modMsix_mbox {k : Nat} : (s.modMsix n f).mbox k = s.mbox k := by simp only [State.mbox, State.modMsix_huv]
@[simp] theorem State.modMsix_desc {k : Nat} : (s.modMsix n f).desc k = s.desc k := by simp only [State.desc, State.modMsix_feed]
@[simp] theorem State.modMsix_mac {k : Nat} : (s.modMsix n f).mac k = s.mac k := by simp only [State.mac, State.modMsix_macs]
@[simp] theorem State.modMsix_can {k : Nat} : (s.modMsix n f).can k = s.can k := by simp only [State.can, State.modMsix_cans]
@[simp] theorem State.modMsix_peekCode {k : Nat} : (s.modMsix n f).peekCode k = s.peekCode k := by simp only [State.peekCode, State.modMsix_mem]
@[simp] theorem State.modMsix_partOf {k : Nat} : (s.modMsix n f).partOf k = s.partOf k := by simp only [State.partOf, State.modMsix_parts]
@[simp] theorem State.modMsix_msixOf_same : (s.modMsix n f).msixOf n = f (s.msixOf n) := by
  simp [State.modMsix, State.msixOf]
theorem State.modMsix_msixOf_other {k : Nat} (h : k ≠ n) : (s.modMsix n f).msixOf k = s.msixOf k := by
  simp [State.modMsix, State.msixOf, Table.get_set_other _ _ _ h]
end modMsix

/-! ### `modMbox` -/

section modMbox
variable {s : State} {n : Nat} {f : Mailbox → Mailbox}

@[simp] theorem State.modMbox_pending : (s.modMbox n f).pending = s.pending := State.with_huv_pending
@[simp] theorem State.modMbox_free : (s.modMbox n f).free = s.free := State.with_huv_free
@[simp] theorem State.modMbox_out : (s.modMbox n f).out = s.out := State.with_huv_out
@[simp] theorem State.modMbox_cyc : (s.modMbox n f).cyc = s.cyc := State.with_huv_cyc
@[simp] theorem State.modMbox_dev : (s.modMbox n f).dev = s.dev := State.with_huv_dev
@[simp] theorem State.modMbox_activated : (s.modMbox n f).activated = s.activated := State.with_huv_activated
@[simp] theorem State.modMbox_folio : (s.modMbox n f).folio = s.folio := State.with_huv_folio
@[simp] theorem State.modMbox_rul : (s.modMbox n f).rul = s.rul := State.with_huv_rul
@[simp] theorem State.modMbox_vt : (s.modMbox n f).vt = s.vt := State.with_huv_vt
@[simp] theorem State.modMbox_px : (s.modMbox n f).px = s.px := State.with_huv_px
@[simp] theorem State.modMbox_pt : (s.modMbox n f).pt = s.pt := State.with_huv_pt
@[simp] theorem State.modMbox_parts : (s.modMbox n f).parts = s.parts := State.with_huv_parts
@[simp] theorem State.modMbox_pens : (s.modMbox n f).pens = s.pens := State.with_huv_pens
@[simp] theorem State.modMbox_ipiFly : (s.modMbox n f).ipiFly = s.ipiFly := State.with_huv_ipiFly
@[simp] theorem State.modMbox_flight : (s.modMbox n f).flight = s.flight := State.with_huv_flight
@[simp] theorem State.modMbox_mem : (s.modMbox n f).mem = s.mem := State.with_huv_mem
@[simp] theorem State.modMbox_rsv : (s.modMbox n f).rsv = s.rsv := State.with_huv_rsv
@[simp] theorem State.modMbox_blot : (s.modMbox n f).blot = s.blot := State.with_huv_blot
@[simp] theorem State.modMbox_feed : (s.modMbox n f).feed = s.feed := State.with_huv_feed
@[simp] theorem State.modMbox_trc : (s.modMbox n f).trc = s.trc := State.with_huv_trc
@[simp] theorem State.modMbox_hif : (s.modMbox n f).hif = s.hif := State.with_huv_hif
@[simp] theorem State.modMbox_pwr : (s.modMbox n f).pwr = s.pwr := State.with_huv_pwr
@[simp] theorem State.modMbox_aon : (s.modMbox n f).aon = s.aon := State.with_huv_aon
@[simp] theorem State.modMbox_macs : (s.modMbox n f).macs = s.macs := State.with_huv_macs
@[simp] theorem State.modMbox_cans : (s.modMbox n f).cans = s.cans := State.with_huv_cans
@[simp] theorem State.modMbox_gpio : (s.modMbox n f).gpio = s.gpio := State.with_huv_gpio
@[simp] theorem State.modMbox_pen {k : Nat} : (s.modMbox n f).pen k = s.pen k := by simp only [State.pen, State.modMbox_pens]
@[simp] theorem State.modMbox_rsvOf {k : Nat} : (s.modMbox n f).rsvOf k = s.rsvOf k := by simp only [State.rsvOf, State.modMbox_rsv]
@[simp] theorem State.modMbox_vslot {k : Nat} : (s.modMbox n f).vslot k = s.vslot k := by simp only [State.vslot, State.modMbox_vt]
@[simp] theorem State.modMbox_slotOf {k : Nat} : (s.modMbox n f).slotOf k = s.slotOf k := by simp only [State.slotOf, State.modMbox_rul]
@[simp] theorem State.modMbox_queue {k : Nat} : (s.modMbox n f).queue k = s.queue k := by simp only [State.queue, State.modMbox_hif]
@[simp] theorem State.modMbox_msixOf {k : Nat} : (s.modMbox n f).msixOf k = s.msixOf k := by simp only [State.msixOf, State.modMbox_hif]
@[simp] theorem State.modMbox_desc {k : Nat} : (s.modMbox n f).desc k = s.desc k := by simp only [State.desc, State.modMbox_feed]
@[simp] theorem State.modMbox_mac {k : Nat} : (s.modMbox n f).mac k = s.mac k := by simp only [State.mac, State.modMbox_macs]
@[simp] theorem State.modMbox_can {k : Nat} : (s.modMbox n f).can k = s.can k := by simp only [State.can, State.modMbox_cans]
@[simp] theorem State.modMbox_peekCode {k : Nat} : (s.modMbox n f).peekCode k = s.peekCode k := by simp only [State.peekCode, State.modMbox_mem]
@[simp] theorem State.modMbox_partOf {k : Nat} : (s.modMbox n f).partOf k = s.partOf k := by simp only [State.partOf, State.modMbox_parts]
@[simp] theorem State.modMbox_mbox_same : (s.modMbox n f).mbox n = f (s.mbox n) := by
  simp [State.modMbox, State.mbox]
theorem State.modMbox_mbox_other {k : Nat} (h : k ≠ n) : (s.modMbox n f).mbox k = s.mbox k := by
  simp [State.modMbox, State.mbox, Table.get_set_other _ _ _ h]
end modMbox

/-! ### `modDesc` -/

section modDesc
variable {s : State} {n : Nat} {f : Desc → Desc}

@[simp] theorem State.modDesc_pending : (s.modDesc n f).pending = s.pending := State.with_feed_pending
@[simp] theorem State.modDesc_free : (s.modDesc n f).free = s.free := State.with_feed_free
@[simp] theorem State.modDesc_out : (s.modDesc n f).out = s.out := State.with_feed_out
@[simp] theorem State.modDesc_cyc : (s.modDesc n f).cyc = s.cyc := State.with_feed_cyc
@[simp] theorem State.modDesc_dev : (s.modDesc n f).dev = s.dev := State.with_feed_dev
@[simp] theorem State.modDesc_activated : (s.modDesc n f).activated = s.activated := State.with_feed_activated
@[simp] theorem State.modDesc_folio : (s.modDesc n f).folio = s.folio := State.with_feed_folio
@[simp] theorem State.modDesc_rul : (s.modDesc n f).rul = s.rul := State.with_feed_rul
@[simp] theorem State.modDesc_vt : (s.modDesc n f).vt = s.vt := State.with_feed_vt
@[simp] theorem State.modDesc_px : (s.modDesc n f).px = s.px := State.with_feed_px
@[simp] theorem State.modDesc_pt : (s.modDesc n f).pt = s.pt := State.with_feed_pt
@[simp] theorem State.modDesc_parts : (s.modDesc n f).parts = s.parts := State.with_feed_parts
@[simp] theorem State.modDesc_pens : (s.modDesc n f).pens = s.pens := State.with_feed_pens
@[simp] theorem State.modDesc_ipiFly : (s.modDesc n f).ipiFly = s.ipiFly := State.with_feed_ipiFly
@[simp] theorem State.modDesc_flight : (s.modDesc n f).flight = s.flight := State.with_feed_flight
@[simp] theorem State.modDesc_mem : (s.modDesc n f).mem = s.mem := State.with_feed_mem
@[simp] theorem State.modDesc_rsv : (s.modDesc n f).rsv = s.rsv := State.with_feed_rsv
@[simp] theorem State.modDesc_blot : (s.modDesc n f).blot = s.blot := State.with_feed_blot
@[simp] theorem State.modDesc_trc : (s.modDesc n f).trc = s.trc := State.with_feed_trc
@[simp] theorem State.modDesc_hif : (s.modDesc n f).hif = s.hif := State.with_feed_hif
@[simp] theorem State.modDesc_huv : (s.modDesc n f).huv = s.huv := State.with_feed_huv
@[simp] theorem State.modDesc_pwr : (s.modDesc n f).pwr = s.pwr := State.with_feed_pwr
@[simp] theorem State.modDesc_aon : (s.modDesc n f).aon = s.aon := State.with_feed_aon
@[simp] theorem State.modDesc_macs : (s.modDesc n f).macs = s.macs := State.with_feed_macs
@[simp] theorem State.modDesc_cans : (s.modDesc n f).cans = s.cans := State.with_feed_cans
@[simp] theorem State.modDesc_gpio : (s.modDesc n f).gpio = s.gpio := State.with_feed_gpio
@[simp] theorem State.modDesc_pen {k : Nat} : (s.modDesc n f).pen k = s.pen k := by simp only [State.pen, State.modDesc_pens]
@[simp] theorem State.modDesc_rsvOf {k : Nat} : (s.modDesc n f).rsvOf k = s.rsvOf k := by simp only [State.rsvOf, State.modDesc_rsv]
@[simp] theorem State.modDesc_vslot {k : Nat} : (s.modDesc n f).vslot k = s.vslot k := by simp only [State.vslot, State.modDesc_vt]
@[simp] theorem State.modDesc_slotOf {k : Nat} : (s.modDesc n f).slotOf k = s.slotOf k := by simp only [State.slotOf, State.modDesc_rul]
@[simp] theorem State.modDesc_queue {k : Nat} : (s.modDesc n f).queue k = s.queue k := by simp only [State.queue, State.modDesc_hif]
@[simp] theorem State.modDesc_msixOf {k : Nat} : (s.modDesc n f).msixOf k = s.msixOf k := by simp only [State.msixOf, State.modDesc_hif]
@[simp] theorem State.modDesc_mbox {k : Nat} : (s.modDesc n f).mbox k = s.mbox k := by simp only [State.mbox, State.modDesc_huv]
@[simp] theorem State.modDesc_mac {k : Nat} : (s.modDesc n f).mac k = s.mac k := by simp only [State.mac, State.modDesc_macs]
@[simp] theorem State.modDesc_can {k : Nat} : (s.modDesc n f).can k = s.can k := by simp only [State.can, State.modDesc_cans]
@[simp] theorem State.modDesc_peekCode {k : Nat} : (s.modDesc n f).peekCode k = s.peekCode k := by simp only [State.peekCode, State.modDesc_mem]
@[simp] theorem State.modDesc_partOf {k : Nat} : (s.modDesc n f).partOf k = s.partOf k := by simp only [State.partOf, State.modDesc_parts]
@[simp] theorem State.modDesc_desc_same : (s.modDesc n f).desc n = f (s.desc n) := by
  simp [State.modDesc, State.desc]
theorem State.modDesc_desc_other {k : Nat} (h : k ≠ n) : (s.modDesc n f).desc k = s.desc k := by
  simp [State.modDesc, State.desc, Table.get_set_other _ _ _ h]
end modDesc

/-! ### `modMac` -/

section modMac
variable {s : State} {n : Nat} {f : Mac → Mac}

@[simp] theorem State.modMac_pending : (s.modMac n f).pending = s.pending := State.with_macs_pending
@[simp] theorem State.modMac_free : (s.modMac n f).free = s.free := State.with_macs_free
@[simp] theorem State.modMac_out : (s.modMac n f).out = s.out := State.with_macs_out
@[simp] theorem State.modMac_cyc : (s.modMac n f).cyc = s.cyc := State.with_macs_cyc
@[simp] theorem State.modMac_dev : (s.modMac n f).dev = s.dev := State.with_macs_dev
@[simp] theorem State.modMac_activated : (s.modMac n f).activated = s.activated := State.with_macs_activated
@[simp] theorem State.modMac_folio : (s.modMac n f).folio = s.folio := State.with_macs_folio
@[simp] theorem State.modMac_rul : (s.modMac n f).rul = s.rul := State.with_macs_rul
@[simp] theorem State.modMac_vt : (s.modMac n f).vt = s.vt := State.with_macs_vt
@[simp] theorem State.modMac_px : (s.modMac n f).px = s.px := State.with_macs_px
@[simp] theorem State.modMac_pt : (s.modMac n f).pt = s.pt := State.with_macs_pt
@[simp] theorem State.modMac_parts : (s.modMac n f).parts = s.parts := State.with_macs_parts
@[simp] theorem State.modMac_pens : (s.modMac n f).pens = s.pens := State.with_macs_pens
@[simp] theorem State.modMac_ipiFly : (s.modMac n f).ipiFly = s.ipiFly := State.with_macs_ipiFly
@[simp] theorem State.modMac_flight : (s.modMac n f).flight = s.flight := State.with_macs_flight
@[simp] theorem State.modMac_mem : (s.modMac n f).mem = s.mem := State.with_macs_mem
@[simp] theorem State.modMac_rsv : (s.modMac n f).rsv = s.rsv := State.with_macs_rsv
@[simp] theorem State.modMac_blot : (s.modMac n f).blot = s.blot := State.with_macs_blot
@[simp] theorem State.modMac_feed : (s.modMac n f).feed = s.feed := State.with_macs_feed
@[simp] theorem State.modMac_trc : (s.modMac n f).trc = s.trc := State.with_macs_trc
@[simp] theorem State.modMac_hif : (s.modMac n f).hif = s.hif := State.with_macs_hif
@[simp] theorem State.modMac_huv : (s.modMac n f).huv = s.huv := State.with_macs_huv
@[simp] theorem State.modMac_pwr : (s.modMac n f).pwr = s.pwr := State.with_macs_pwr
@[simp] theorem State.modMac_aon : (s.modMac n f).aon = s.aon := State.with_macs_aon
@[simp] theorem State.modMac_cans : (s.modMac n f).cans = s.cans := State.with_macs_cans
@[simp] theorem State.modMac_gpio : (s.modMac n f).gpio = s.gpio := State.with_macs_gpio
@[simp] theorem State.modMac_pen {k : Nat} : (s.modMac n f).pen k = s.pen k := by simp only [State.pen, State.modMac_pens]
@[simp] theorem State.modMac_rsvOf {k : Nat} : (s.modMac n f).rsvOf k = s.rsvOf k := by simp only [State.rsvOf, State.modMac_rsv]
@[simp] theorem State.modMac_vslot {k : Nat} : (s.modMac n f).vslot k = s.vslot k := by simp only [State.vslot, State.modMac_vt]
@[simp] theorem State.modMac_slotOf {k : Nat} : (s.modMac n f).slotOf k = s.slotOf k := by simp only [State.slotOf, State.modMac_rul]
@[simp] theorem State.modMac_queue {k : Nat} : (s.modMac n f).queue k = s.queue k := by simp only [State.queue, State.modMac_hif]
@[simp] theorem State.modMac_msixOf {k : Nat} : (s.modMac n f).msixOf k = s.msixOf k := by simp only [State.msixOf, State.modMac_hif]
@[simp] theorem State.modMac_mbox {k : Nat} : (s.modMac n f).mbox k = s.mbox k := by simp only [State.mbox, State.modMac_huv]
@[simp] theorem State.modMac_desc {k : Nat} : (s.modMac n f).desc k = s.desc k := by simp only [State.desc, State.modMac_feed]
@[simp] theorem State.modMac_can {k : Nat} : (s.modMac n f).can k = s.can k := by simp only [State.can, State.modMac_cans]
@[simp] theorem State.modMac_peekCode {k : Nat} : (s.modMac n f).peekCode k = s.peekCode k := by simp only [State.peekCode, State.modMac_mem]
@[simp] theorem State.modMac_partOf {k : Nat} : (s.modMac n f).partOf k = s.partOf k := by simp only [State.partOf, State.modMac_parts]
@[simp] theorem State.modMac_mac_same : (s.modMac n f).mac n = f (s.mac n) := by
  simp [State.modMac, State.mac]
theorem State.modMac_mac_other {k : Nat} (h : k ≠ n) : (s.modMac n f).mac k = s.mac k := by
  simp [State.modMac, State.mac, Table.get_set_other _ _ _ h]
end modMac

/-! ### `modCan` -/

section modCan
variable {s : State} {n : Nat} {f : Can → Can}

@[simp] theorem State.modCan_pending : (s.modCan n f).pending = s.pending := State.with_cans_pending
@[simp] theorem State.modCan_free : (s.modCan n f).free = s.free := State.with_cans_free
@[simp] theorem State.modCan_out : (s.modCan n f).out = s.out := State.with_cans_out
@[simp] theorem State.modCan_cyc : (s.modCan n f).cyc = s.cyc := State.with_cans_cyc
@[simp] theorem State.modCan_dev : (s.modCan n f).dev = s.dev := State.with_cans_dev
@[simp] theorem State.modCan_activated : (s.modCan n f).activated = s.activated := State.with_cans_activated
@[simp] theorem State.modCan_folio : (s.modCan n f).folio = s.folio := State.with_cans_folio
@[simp] theorem State.modCan_rul : (s.modCan n f).rul = s.rul := State.with_cans_rul
@[simp] theorem State.modCan_vt : (s.modCan n f).vt = s.vt := State.with_cans_vt
@[simp] theorem State.modCan_px : (s.modCan n f).px = s.px := State.with_cans_px
@[simp] theorem State.modCan_pt : (s.modCan n f).pt = s.pt := State.with_cans_pt
@[simp] theorem State.modCan_parts : (s.modCan n f).parts = s.parts := State.with_cans_parts
@[simp] theorem State.modCan_pens : (s.modCan n f).pens = s.pens := State.with_cans_pens
@[simp] theorem State.modCan_ipiFly : (s.modCan n f).ipiFly = s.ipiFly := State.with_cans_ipiFly
@[simp] theorem State.modCan_flight : (s.modCan n f).flight = s.flight := State.with_cans_flight
@[simp] theorem State.modCan_mem : (s.modCan n f).mem = s.mem := State.with_cans_mem
@[simp] theorem State.modCan_rsv : (s.modCan n f).rsv = s.rsv := State.with_cans_rsv
@[simp] theorem State.modCan_blot : (s.modCan n f).blot = s.blot := State.with_cans_blot
@[simp] theorem State.modCan_feed : (s.modCan n f).feed = s.feed := State.with_cans_feed
@[simp] theorem State.modCan_trc : (s.modCan n f).trc = s.trc := State.with_cans_trc
@[simp] theorem State.modCan_hif : (s.modCan n f).hif = s.hif := State.with_cans_hif
@[simp] theorem State.modCan_huv : (s.modCan n f).huv = s.huv := State.with_cans_huv
@[simp] theorem State.modCan_pwr : (s.modCan n f).pwr = s.pwr := State.with_cans_pwr
@[simp] theorem State.modCan_aon : (s.modCan n f).aon = s.aon := State.with_cans_aon
@[simp] theorem State.modCan_macs : (s.modCan n f).macs = s.macs := State.with_cans_macs
@[simp] theorem State.modCan_gpio : (s.modCan n f).gpio = s.gpio := State.with_cans_gpio
@[simp] theorem State.modCan_pen {k : Nat} : (s.modCan n f).pen k = s.pen k := by simp only [State.pen, State.modCan_pens]
@[simp] theorem State.modCan_rsvOf {k : Nat} : (s.modCan n f).rsvOf k = s.rsvOf k := by simp only [State.rsvOf, State.modCan_rsv]
@[simp] theorem State.modCan_vslot {k : Nat} : (s.modCan n f).vslot k = s.vslot k := by simp only [State.vslot, State.modCan_vt]
@[simp] theorem State.modCan_slotOf {k : Nat} : (s.modCan n f).slotOf k = s.slotOf k := by simp only [State.slotOf, State.modCan_rul]
@[simp] theorem State.modCan_queue {k : Nat} : (s.modCan n f).queue k = s.queue k := by simp only [State.queue, State.modCan_hif]
@[simp] theorem State.modCan_msixOf {k : Nat} : (s.modCan n f).msixOf k = s.msixOf k := by simp only [State.msixOf, State.modCan_hif]
@[simp] theorem State.modCan_mbox {k : Nat} : (s.modCan n f).mbox k = s.mbox k := by simp only [State.mbox, State.modCan_huv]
@[simp] theorem State.modCan_desc {k : Nat} : (s.modCan n f).desc k = s.desc k := by simp only [State.desc, State.modCan_feed]
@[simp] theorem State.modCan_mac {k : Nat} : (s.modCan n f).mac k = s.mac k := by simp only [State.mac, State.modCan_macs]
@[simp] theorem State.modCan_peekCode {k : Nat} : (s.modCan n f).peekCode k = s.peekCode k := by simp only [State.peekCode, State.modCan_mem]
@[simp] theorem State.modCan_partOf {k : Nat} : (s.modCan n f).partOf k = s.partOf k := by simp only [State.partOf, State.modCan_parts]
@[simp] theorem State.modCan_can_same : (s.modCan n f).can n = f (s.can n) := by
  simp [State.modCan, State.can]
theorem State.modCan_can_other {k : Nat} (h : k ≠ n) : (s.modCan n f).can k = s.can k := by
  simp [State.modCan, State.can, Table.get_set_other _ _ _ h]
end modCan

/-! ### `emit` -/

section emit
variable {s : State} {o : Out}

@[simp] theorem State.emit_pending : (s.emit o).pending = s.pending := State.with_out_pending
@[simp] theorem State.emit_free : (s.emit o).free = s.free := State.with_out_free
@[simp] theorem State.emit_cyc : (s.emit o).cyc = s.cyc := State.with_out_cyc
@[simp] theorem State.emit_dev : (s.emit o).dev = s.dev := State.with_out_dev
@[simp] theorem State.emit_activated : (s.emit o).activated = s.activated := State.with_out_activated
@[simp] theorem State.emit_folio : (s.emit o).folio = s.folio := State.with_out_folio
@[simp] theorem State.emit_rul : (s.emit o).rul = s.rul := State.with_out_rul
@[simp] theorem State.emit_vt : (s.emit o).vt = s.vt := State.with_out_vt
@[simp] theorem State.emit_px : (s.emit o).px = s.px := State.with_out_px
@[simp] theorem State.emit_pt : (s.emit o).pt = s.pt := State.with_out_pt
@[simp] theorem State.emit_parts : (s.emit o).parts = s.parts := State.with_out_parts
@[simp] theorem State.emit_pens : (s.emit o).pens = s.pens := State.with_out_pens
@[simp] theorem State.emit_ipiFly : (s.emit o).ipiFly = s.ipiFly := State.with_out_ipiFly
@[simp] theorem State.emit_flight : (s.emit o).flight = s.flight := State.with_out_flight
@[simp] theorem State.emit_mem : (s.emit o).mem = s.mem := State.with_out_mem
@[simp] theorem State.emit_rsv : (s.emit o).rsv = s.rsv := State.with_out_rsv
@[simp] theorem State.emit_blot : (s.emit o).blot = s.blot := State.with_out_blot
@[simp] theorem State.emit_feed : (s.emit o).feed = s.feed := State.with_out_feed
@[simp] theorem State.emit_trc : (s.emit o).trc = s.trc := State.with_out_trc
@[simp] theorem State.emit_hif : (s.emit o).hif = s.hif := State.with_out_hif
@[simp] theorem State.emit_huv : (s.emit o).huv = s.huv := State.with_out_huv
@[simp] theorem State.emit_pwr : (s.emit o).pwr = s.pwr := State.with_out_pwr
@[simp] theorem State.emit_aon : (s.emit o).aon = s.aon := State.with_out_aon
@[simp] theorem State.emit_macs : (s.emit o).macs = s.macs := State.with_out_macs
@[simp] theorem State.emit_cans : (s.emit o).cans = s.cans := State.with_out_cans
@[simp] theorem State.emit_gpio : (s.emit o).gpio = s.gpio := State.with_out_gpio
@[simp] theorem State.emit_pen {k : Nat} : (s.emit o).pen k = s.pen k := by simp only [State.pen, State.emit_pens]
@[simp] theorem State.emit_rsvOf {k : Nat} : (s.emit o).rsvOf k = s.rsvOf k := by simp only [State.rsvOf, State.emit_rsv]
@[simp] theorem State.emit_vslot {k : Nat} : (s.emit o).vslot k = s.vslot k := by simp only [State.vslot, State.emit_vt]
@[simp] theorem State.emit_slotOf {k : Nat} : (s.emit o).slotOf k = s.slotOf k := by simp only [State.slotOf, State.emit_rul]
@[simp] theorem State.emit_queue {k : Nat} : (s.emit o).queue k = s.queue k := by simp only [State.queue, State.emit_hif]
@[simp] theorem State.emit_msixOf {k : Nat} : (s.emit o).msixOf k = s.msixOf k := by simp only [State.msixOf, State.emit_hif]
@[simp] theorem State.emit_mbox {k : Nat} : (s.emit o).mbox k = s.mbox k := by simp only [State.mbox, State.emit_huv]
@[simp] theorem State.emit_desc {k : Nat} : (s.emit o).desc k = s.desc k := by simp only [State.desc, State.emit_feed]
@[simp] theorem State.emit_mac {k : Nat} : (s.emit o).mac k = s.mac k := by simp only [State.mac, State.emit_macs]
@[simp] theorem State.emit_can {k : Nat} : (s.emit o).can k = s.can k := by simp only [State.can, State.emit_cans]
@[simp] theorem State.emit_peekCode {k : Nat} : (s.emit o).peekCode k = s.peekCode k := by simp only [State.peekCode, State.emit_mem]
@[simp] theorem State.emit_partOf {k : Nat} : (s.emit o).partOf k = s.partOf k := by simp only [State.partOf, State.emit_parts]
end emit

/-! ### `pokeCode` -/

section pokeCode
variable {s : State} {a : Nat} {c : Code}

@[simp] theorem State.pokeCode_pending : (s.pokeCode a c).pending = s.pending := State.with_mem_pending
@[simp] theorem State.pokeCode_free : (s.pokeCode a c).free = s.free := State.with_mem_free
@[simp] theorem State.pokeCode_out : (s.pokeCode a c).out = s.out := State.with_mem_out
@[simp] theorem State.pokeCode_cyc : (s.pokeCode a c).cyc = s.cyc := State.with_mem_cyc
@[simp] theorem State.pokeCode_dev : (s.pokeCode a c).dev = s.dev := State.with_mem_dev
@[simp] theorem State.pokeCode_activated : (s.pokeCode a c).activated = s.activated := State.with_mem_activated
@[simp] theorem State.pokeCode_folio : (s.pokeCode a c).folio = s.folio := State.with_mem_folio
@[simp] theorem State.pokeCode_rul : (s.pokeCode a c).rul = s.rul := State.with_mem_rul
@[simp] theorem State.pokeCode_vt : (s.pokeCode a c).vt = s.vt := State.with_mem_vt
@[simp] theorem State.pokeCode_px : (s.pokeCode a c).px = s.px := State.with_mem_px
@[simp] theorem State.pokeCode_pt : (s.pokeCode a c).pt = s.pt := State.with_mem_pt
@[simp] theorem State.pokeCode_parts : (s.pokeCode a c).parts = s.parts := State.with_mem_parts
@[simp] theorem State.pokeCode_pens : (s.pokeCode a c).pens = s.pens := State.with_mem_pens
@[simp] theorem State.pokeCode_ipiFly : (s.pokeCode a c).ipiFly = s.ipiFly := State.with_mem_ipiFly
@[simp] theorem State.pokeCode_flight : (s.pokeCode a c).flight = s.flight := State.with_mem_flight
@[simp] theorem State.pokeCode_rsv : (s.pokeCode a c).rsv = s.rsv := State.with_mem_rsv
@[simp] theorem State.pokeCode_blot : (s.pokeCode a c).blot = s.blot := State.with_mem_blot
@[simp] theorem State.pokeCode_feed : (s.pokeCode a c).feed = s.feed := State.with_mem_feed
@[simp] theorem State.pokeCode_trc : (s.pokeCode a c).trc = s.trc := State.with_mem_trc
@[simp] theorem State.pokeCode_hif : (s.pokeCode a c).hif = s.hif := State.with_mem_hif
@[simp] theorem State.pokeCode_huv : (s.pokeCode a c).huv = s.huv := State.with_mem_huv
@[simp] theorem State.pokeCode_pwr : (s.pokeCode a c).pwr = s.pwr := State.with_mem_pwr
@[simp] theorem State.pokeCode_aon : (s.pokeCode a c).aon = s.aon := State.with_mem_aon
@[simp] theorem State.pokeCode_macs : (s.pokeCode a c).macs = s.macs := State.with_mem_macs
@[simp] theorem State.pokeCode_cans : (s.pokeCode a c).cans = s.cans := State.with_mem_cans
@[simp] theorem State.pokeCode_gpio : (s.pokeCode a c).gpio = s.gpio := State.with_mem_gpio
@[simp] theorem State.pokeCode_pen {k : Nat} : (s.pokeCode a c).pen k = s.pen k := by simp only [State.pen, State.pokeCode_pens]
@[simp] theorem State.pokeCode_rsvOf {k : Nat} : (s.pokeCode a c).rsvOf k = s.rsvOf k := by simp only [State.rsvOf, State.pokeCode_rsv]
@[simp] theorem State.pokeCode_vslot {k : Nat} : (s.pokeCode a c).vslot k = s.vslot k := by simp only [State.vslot, State.pokeCode_vt]
@[simp] theorem State.pokeCode_slotOf {k : Nat} : (s.pokeCode a c).slotOf k = s.slotOf k := by simp only [State.slotOf, State.pokeCode_rul]
@[simp] theorem State.pokeCode_queue {k : Nat} : (s.pokeCode a c).queue k = s.queue k := by simp only [State.queue, State.pokeCode_hif]
@[simp] theorem State.pokeCode_msixOf {k : Nat} : (s.pokeCode a c).msixOf k = s.msixOf k := by simp only [State.msixOf, State.pokeCode_hif]
@[simp] theorem State.pokeCode_mbox {k : Nat} : (s.pokeCode a c).mbox k = s.mbox k := by simp only [State.mbox, State.pokeCode_huv]
@[simp] theorem State.pokeCode_desc {k : Nat} : (s.pokeCode a c).desc k = s.desc k := by simp only [State.desc, State.pokeCode_feed]
@[simp] theorem State.pokeCode_mac {k : Nat} : (s.pokeCode a c).mac k = s.mac k := by simp only [State.mac, State.pokeCode_macs]
@[simp] theorem State.pokeCode_can {k : Nat} : (s.pokeCode a c).can k = s.can k := by simp only [State.can, State.pokeCode_cans]
@[simp] theorem State.pokeCode_partOf {k : Nat} : (s.pokeCode a c).partOf k = s.partOf k := by simp only [State.partOf, State.pokeCode_parts]
end pokeCode

/-! ### `poke` -/

section poke
variable {s : State} {a : Nat} {w : TWord}

@[simp] theorem State.poke_pending : (s.poke a w).pending = s.pending := State.with_mem_pending
@[simp] theorem State.poke_free : (s.poke a w).free = s.free := State.with_mem_free
@[simp] theorem State.poke_out : (s.poke a w).out = s.out := State.with_mem_out
@[simp] theorem State.poke_cyc : (s.poke a w).cyc = s.cyc := State.with_mem_cyc
@[simp] theorem State.poke_dev : (s.poke a w).dev = s.dev := State.with_mem_dev
@[simp] theorem State.poke_activated : (s.poke a w).activated = s.activated := State.with_mem_activated
@[simp] theorem State.poke_folio : (s.poke a w).folio = s.folio := State.with_mem_folio
@[simp] theorem State.poke_rul : (s.poke a w).rul = s.rul := State.with_mem_rul
@[simp] theorem State.poke_vt : (s.poke a w).vt = s.vt := State.with_mem_vt
@[simp] theorem State.poke_px : (s.poke a w).px = s.px := State.with_mem_px
@[simp] theorem State.poke_pt : (s.poke a w).pt = s.pt := State.with_mem_pt
@[simp] theorem State.poke_parts : (s.poke a w).parts = s.parts := State.with_mem_parts
@[simp] theorem State.poke_pens : (s.poke a w).pens = s.pens := State.with_mem_pens
@[simp] theorem State.poke_ipiFly : (s.poke a w).ipiFly = s.ipiFly := State.with_mem_ipiFly
@[simp] theorem State.poke_flight : (s.poke a w).flight = s.flight := State.with_mem_flight
@[simp] theorem State.poke_rsv : (s.poke a w).rsv = s.rsv := State.with_mem_rsv
@[simp] theorem State.poke_blot : (s.poke a w).blot = s.blot := State.with_mem_blot
@[simp] theorem State.poke_feed : (s.poke a w).feed = s.feed := State.with_mem_feed
@[simp] theorem State.poke_trc : (s.poke a w).trc = s.trc := State.with_mem_trc
@[simp] theorem State.poke_hif : (s.poke a w).hif = s.hif := State.with_mem_hif
@[simp] theorem State.poke_huv : (s.poke a w).huv = s.huv := State.with_mem_huv
@[simp] theorem State.poke_pwr : (s.poke a w).pwr = s.pwr := State.with_mem_pwr
@[simp] theorem State.poke_aon : (s.poke a w).aon = s.aon := State.with_mem_aon
@[simp] theorem State.poke_macs : (s.poke a w).macs = s.macs := State.with_mem_macs
@[simp] theorem State.poke_cans : (s.poke a w).cans = s.cans := State.with_mem_cans
@[simp] theorem State.poke_gpio : (s.poke a w).gpio = s.gpio := State.with_mem_gpio
@[simp] theorem State.poke_pen {k : Nat} : (s.poke a w).pen k = s.pen k := by simp only [State.pen, State.poke_pens]
@[simp] theorem State.poke_rsvOf {k : Nat} : (s.poke a w).rsvOf k = s.rsvOf k := by simp only [State.rsvOf, State.poke_rsv]
@[simp] theorem State.poke_vslot {k : Nat} : (s.poke a w).vslot k = s.vslot k := by simp only [State.vslot, State.poke_vt]
@[simp] theorem State.poke_slotOf {k : Nat} : (s.poke a w).slotOf k = s.slotOf k := by simp only [State.slotOf, State.poke_rul]
@[simp] theorem State.poke_queue {k : Nat} : (s.poke a w).queue k = s.queue k := by simp only [State.queue, State.poke_hif]
@[simp] theorem State.poke_msixOf {k : Nat} : (s.poke a w).msixOf k = s.msixOf k := by simp only [State.msixOf, State.poke_hif]
@[simp] theorem State.poke_mbox {k : Nat} : (s.poke a w).mbox k = s.mbox k := by simp only [State.mbox, State.poke_huv]
@[simp] theorem State.poke_desc {k : Nat} : (s.poke a w).desc k = s.desc k := by simp only [State.desc, State.poke_feed]
@[simp] theorem State.poke_mac {k : Nat} : (s.poke a w).mac k = s.mac k := by simp only [State.mac, State.poke_macs]
@[simp] theorem State.poke_can {k : Nat} : (s.poke a w).can k = s.can k := by simp only [State.can, State.poke_cans]
@[simp] theorem State.poke_partOf {k : Nat} : (s.poke a w).partOf k = s.partOf k := by simp only [State.partOf, State.poke_parts]
end poke

/-! ### Only the pens differ -/

theorem State.withPens_back (s : State) (v : Table Pen) : { { s with pens := v } with pens := s.pens } = s := rfl
theorem State.setPen_back (s : State) (p : Nat) (x : Pen) : { s.setPen p x with pens := s.pens } = s :=
  State.withPens_back s _
theorem State.modPen_back (s : State) (p : Nat) (f : Pen → Pen) : { s.modPen p f with pens := s.pens } = s :=
  State.setPen_back s p _

/-! ### Reads and writes of stored words -/

/-- The word just stored reads back. -/
@[simp] theorem State.pokeCode_peekCode_same {s : State} {a : Nat} {c : Code} : (s.pokeCode a c).peekCode a = c := by
  simp [State.pokeCode, State.peekCode]

/-- A store leaves every other word alone. -/
theorem State.pokeCode_peekCode_other {s : State} {a b : Nat} {c : Code} (h : b / 8 ≠ a / 8) :
    (s.pokeCode a c).peekCode b = s.peekCode b := by
  simp [State.pokeCode, State.peekCode, Table.get_set_other _ _ _ h]

theorem State.poke_peekCode_same {s : State} {a : Nat} {w : TWord} :
    (s.poke a w).peekCode a = encodeCode (cpaFold a) w := by
  simp [State.poke]

theorem State.poke_peekCode_other {s : State} {a b : Nat} {w : TWord} (h : b / 8 ≠ a / 8) :
    (s.poke a w).peekCode b = s.peekCode b := by
  simp [State.poke, State.pokeCode_peekCode_other h]

end Sys2Proof.Machine
end

