-- ==== Sys2Proof/Laws/Pens.lean ====
section
/-! SUPPORT. Registers, status words and the issue of an instruction: what a write of a register or of the flags changes,
and what an ALU instruction can do. -/

namespace Sys2Proof.Machine

/-! ### Registers -/

/-- A register read after a register write: W0 discards (R131). -/
theorem Pen.getB_putB (x : Pen) (k j : Nat) (w : TWord) :
    (x.putB k w).getB j = if k ≠ 0 ∧ j = k then w else x.getB j := by
  unfold Pen.putB Pen.getB
  by_cases h0 : k = 0
  · simp [h0]
  by_cases e : j = k
  · subst e
    by_cases h1 : j = 31
    · simp [h1]
    by_cases h2 : j = 32
    · simp [h2]
    simp [h0, h1, h2]
  by_cases h1 : k = 31
  · subst h1; simp [e]
  by_cases h2 : k = 32
  · subst h2; simp [e]
  simp only [h0, h1, h2, if_false, e, and_false]
  rw [Table.get_set_other _ _ _ e]

theorem Pen.bank_eq_zero (x : Pen) (r : Reg) : x.bank r.val = 0 ↔ r = 0 := by
  unfold Pen.bank
  constructor
  · intro h
    split at h
    · split at h <;> simp at h
    · exact Fin.ext h
  · rintro rfl; rfl

@[simp] theorem Pen.setFlags_getB (x : Pen) (f : Flags) (k : Nat) : (x.setFlags f).getB k = x.getB k := rfl

theorem Pen.writeB_getB (x : Pen) (k j : Nat) (w : TWord) :
    (x.writeB k w).getB j = if k ≠ 0 ∧ j = k then w else x.getB j := Pen.getB_putB x k j w

@[simp] theorem Pen.keepOld_getB (x : Pen) (p : Bool) (k j : Nat) : (x.keepOld p k).getB j = x.getB j := by
  unfold Pen.keepOld; split <;> rfl

@[simp] theorem Pen.keepOld_late (x : Pen) (p : Bool) (k : Nat) : (x.keepOld p k).late = x.late := by
  unfold Pen.keepOld; split <;> rfl

/-- What a register write leaves: the registers. -/
theorem Pen.write_regs (x : Pen) (p : Bool) (r : Reg) (w : TWord) : x.RegsAfter (x.write p r w) r w := by
  intro j
  unfold Pen.write
  rw [Pen.writeB_getB, Pen.keepOld_getB]
  have h := x.bank_eq_zero r
  by_cases hr : r = 0
  · rw [if_neg (by simp [h.2 hr]), if_neg (by simp [hr])]
  · have : x.bank r.val ≠ 0 := fun e => hr (h.1 e)
    simp [hr, this]

/-- A register write changes registers, late results and what the pair remembers, and nothing else. -/
theorem Pen.write_rest (x : Pen) (p : Bool) (r : Reg) (w : TWord) :
    { x.write p r w with
      regs := x.regs, spTask := x.spTask, spExec := x.spExec, late := x.late, pair := x.pair } = x := by
  unfold Pen.write Pen.writeB Pen.putB Pen.keepOld
  cases p <;> simp only [] <;> split_ifs <;> rfl

theorem Pen.write_late (x : Pen) (p : Bool) (r : Reg) (w : TWord) :
    (x.write p r w).late = x.late.filter (fun l => l.reg ≠ x.bank r.val) := by
  unfold Pen.write Pen.writeB
  simp

/-! ### The status word -/

theorem bitAt_setBits (w : Word) (lo len v i : Nat) (h : lo + len ≤ 64) :
    bitAt (setBits w lo len v) i =
      if lo ≤ i ∧ i < lo + len then (v % 2 ^ len).testBit (i - lo) else bitAt w i := by
  unfold bitAt setBits maskOf
  simp only [BitVec.getLsbD_or, BitVec.getLsbD_and, BitVec.getLsbD_not, BitVec.getLsbD_ofNat]
  rw [Nat.testBit_mul_two_pow, Nat.testBit_mul_two_pow, Nat.testBit_two_pow_sub_one, Nat.testBit_mod_two_pow]
  by_cases h64 : i < 64
  · by_cases h1 : lo ≤ i
    · by_cases h2 : i - lo < len
      · have : i < lo + len := by omega
        simp [h1, h2, h64, this]
      · have : ¬ i < lo + len := by omega
        simp [h1, h2, h64, this]
    · simp [h1, h64]
  · have : ¬ (lo ≤ i ∧ i < lo + len) := by omega
    simp [h64, this, BitVec.getLsbD_of_ge w i (by omega)]

/-- The flags just written are read, and every other status bit is as before. -/
theorem Pen.setFlags_flags (x : Pen) (f : Flags) : (x.setFlags f).flags = f := by
  apply BitVec.eq_of_getLsbD_eq
  intro i hi
  have := bitAt_setBits x.status 0 4 f.toNat i (by omega)
  unfold bitAt at this
  simp only [Pen.setFlags, Pen.flags, BitVec.getLsbD_setWidth, this]
  have h2 : f.toNat % 16 = f.toNat := Nat.mod_eq_of_lt f.isLt
  simp [hi, h2, BitVec.getLsbD]

theorem Pen.setFlags_control (x : Pen) (f : Flags) : x.SameControl (x.setFlags f) := by
  intro i hi
  have := bitAt_setBits x.status 0 4 f.toNat i (by omega)
  rw [Pen.setFlags, this, if_neg (by omega)]

/-! ### The issue of an instruction -/

theorem OnlyPens.trans {l : List Nat} {s t u : State} (h : OnlyPens l s t) (h' : OnlyPens l t u) : OnlyPens l s u := by
  refine ⟨?_, fun q hq => (h'.2 q hq).trans (h.2 q hq)⟩
  have := congrArg (fun x : State => { x with pens := s.pens }) h'.1
  exact this.trans h.1

theorem onlyPens_modPen {s : State} {p : Nat} {f : Pen → Pen} : OnlyPens [p] s (s.modPen p f) :=
  ⟨State.modPen_back s p f, fun _ hq => State.modPen_pen_other (by simpa using hq)⟩

theorem onlyPens_setPen {s : State} {p : Nat} {x : Pen} : OnlyPens [p] s (s.setPen p x) :=
  ⟨State.setPen_back s p x, fun _ hq => State.setPen_pen_other (by simpa using hq)⟩

/-- An instruction that is admitted, in the state `a` after its fetch, and ends normally. -/
theorem State.issueOne_ok {s a t : State} {i : Iss} {u : Uses} {f : Bool → State → Res (Pen → Pen)} {g : Pen → Pen}
    (ha : s.admitted i.pen.val (s.issuing i u).1 = some a)
    (h : f (s.issuing i u).1 (a.modPen i.pen.val (fun y => y.issue (s.issuing i u).1 u)) = .ok g t) :
    s.issueOne i u f = t.modPen i.pen.val g := by
  unfold State.issuing at ha h
  unfold State.issueOne
  simp only [] at ha h ⊢
  rw [ha]
  simp only []
  rw [h]

/-- One that takes an exception. -/
theorem State.issueOne_exc {s a t : State} {i : Iss} {u : Uses} {f : Bool → State → Res (Pen → Pen)} {e : Exc}
    (ha : s.admitted i.pen.val (s.issuing i u).1 = some a)
    (h : f (s.issuing i u).1 (a.modPen i.pen.val (fun y => y.issue (s.issuing i u).1 u)) = .exc e t) :
    s.issueOne i u f = (t.takeExc i.pen.val e).getD s := by
  unfold State.issuing at ha h
  unfold State.issueOne
  simp only [] at ha h ⊢
  rw [ha]
  simp only []
  rw [h]

/-- One that is held. -/
theorem State.issueOne_hold {s a t : State} {i : Iss} {u : Uses} {f : Bool → State → Res (Pen → Pen)} {x : Hold}
    (ha : s.admitted i.pen.val (s.issuing i u).1 = some a)
    (h : f (s.issuing i u).1 (a.modPen i.pen.val (fun y => y.issue (s.issuing i u).1 u)) = .hold x t) :
    s.issueOne i u f = t.modPen i.pen.val (fun y => y.unissue (s.pen i.pen.val) x) := by
  unfold State.issuing at ha h
  unfold State.issueOne
  simp only [] at ha h ⊢
  rw [ha]
  simp only []
  rw [h]

/-- One that is not admitted: an interrupt comes first, or its fetch is not served (R201, R226). -/
theorem State.issueOne_none {s : State} {i : Iss} {u : Uses} {f : Bool → State → Res (Pen → Pen)}
    (ha : s.admitted i.pen.val (s.issuing i u).1 = none) : s.issueOne i u f = s := by
  unfold State.issuing at ha
  unfold State.issueOne
  simp only [] at ha ⊢
  rw [ha]

/-- What an ALU result leaves of the pen. -/
theorem Pen.writeAlu_done (x : Pen) (p : Bool) (rd : Reg) (o : AluOut) :
    x.Wrote ((x.writeAlu p rd o).done p) rd o.1 (o.2.getD x.flags) := by
  have hs : (x.write p rd o.1).status = x.status := by
    have := congrArg (fun y => y.status) (x.write_rest p rd o.1)
    exact this
  have hp : (x.write p rd o.1).pc = x.pc := by
    have := congrArg (fun y => y.pc) (x.write_rest p rd o.1)
    exact this
  unfold Pen.writeAlu Pen.done
  cases h : o.2 with
  | none =>
    refine ⟨x.write_regs p rd o.1, congrArg (BitVec.setWidth 4) hs, ?_, congrArg (· + 4) hp, x.write_late p rd o.1, ?_⟩
    · intro i _; exact congrArg (bitAt · i) hs
    · have := congrArg (fun y : Pen => { y with status := x.status, pc := x.pc }) (x.write_rest p rd o.1)
      exact this
  | some f =>
    refine ⟨x.write_regs p rd o.1, ?_, ?_, congrArg (· + 4) hp, x.write_late p rd o.1, ?_⟩
    · exact (x.write p rd o.1).setFlags_flags f
    · intro i hi
      have := (x.write p rd o.1).setFlags_control f i hi
      rw [← hs]; exact this
    · have := congrArg (fun y : Pen => { y with status := x.status, pc := x.pc }) (x.write_rest p rd o.1)
      exact this

/-- The state in which an instruction does its work is the state after its issue. -/
theorem State.issued_eq {s0 s : State} {i : Iss} {u : Uses} (h : s0.Issues s i u) :
    s.modPen i.pen.val (fun y => y.issue (s0.issuing i u).1 u) = s.issued i u := by
  rw [← h.2.2]
  rfl

/-- An ALU instruction whose operands pass writes its result. -/
theorem State.doAlu_ok {s0 s : State} {i : Iss} {u : Uses} {rd : Reg} {f : (Reg → TWord) → Except Exc AluOut} {o : AluOut}
    (hi : s0.Issues s i u) (h : f ((s.issuing i u).2.read (s.issuing i u).1) = .ok o) :
    (s.issuing i u).2.Wrote ((s0.doAlu i u rd f).pen i.pen.val) rd o.1 (o.2.getD (s.issuing i u).2.flags) ∧
      OnlyPens [i.pen.val] s (s0.doAlu i u rd f) := by
  have e : s0.doAlu i u rd f = (s.issued i u).modPen i.pen.val
      (fun x => (x.writeAlu (s0.issuing i u).1 rd o).done (s0.issuing i u).1) := by
    unfold State.doAlu
    apply State.issueOne_ok hi.2.1
    rw [State.issued_eq hi]
    unfold State.issued
    rw [State.setPen_pen_same, ← hi.2.2, h]
  rw [e]
  unfold State.issued
  refine ⟨?_, onlyPens_setPen.trans onlyPens_modPen⟩
  rw [State.modPen_pen_same, State.setPen_pen_same]
  exact Pen.writeAlu_done _ _ _ _

/-- An ALU instruction whose operands fail takes their exception. -/
theorem State.doAlu_exc {s0 s : State} {i : Iss} {u : Uses} {rd : Reg} {f : (Reg → TWord) → Except Exc AluOut} {e : Exc}
    (hi : s0.Issues s i u) (h : f ((s.issuing i u).2.read (s.issuing i u).1) = .error e) :
    s0.doAlu i u rd f = s0.excFrom (s.issued i u) i e := by
  unfold State.doAlu State.excFrom
  apply State.issueOne_exc hi.2.1
  rw [State.issued_eq hi]
  unfold State.issued
  rw [State.setPen_pen_same, ← hi.2.2, h]

end Sys2Proof.Machine
end

