-- ==== Sys2Proof/WellFormed.lean ====
section
/-! DEFINITION. Well-formed commands: the operands are ones that the manual gives the operation or event. An instruction
form that the manual calls illegal is refused here; its meaning takes the exception that the manual names. -/

namespace Sys2Proof

/-- A load that updates its base does not load into it (R175). -/
def wfLoad (rt rb : Reg) : AMode → Bool
  | .off _ | .index _ _ => true
  | .postInc _ | .preDec _ => rt ≠ rb

/-- ATADD and ATSWP take an offset only (R178). -/
def wfAtomic : AMode → Bool
  | .off _ => true
  | .postInc _ | .preDec _ | .index _ _ => false

/-- The three registers of a block instruction differ (R179). -/
def wfBlock (ra rb rc : Reg) : Bool := ra ≠ rb && rb ≠ rc && ra ≠ rc

/-- A divergence names at least one group (R100). -/
def wfReport : PenReport → Bool
  | .diverge g => g ≠ 0
  | .comparatorSelf | .fabricCrc => true

/-- An offset lies within its base address register's window: 64 KiB or 128 KiB (R328). -/
def wfBar (bar2 : Bool) (off : Nat) : Bool := bar2 || off < 65536

/-- A rate and width that the part trains to (R322). -/
def wfLink (speed width : Nat) : Bool := 1 ≤ speed && speed ≤ 6 && [1, 2, 4, 8, 16].contains width

/-- A CAN frame that the standard allows: an 11-bit identifier unless IDE is set, at most 8 data bytes, or one of the FD
lengths, BRS and ESI in FD frames only, and no FD remote frame (R399). -/
def CanFrame.wf (f : CanFrame) : Bool :=
  (f.ide || f.id.toNat < 2048) && (f.fdf || (!f.brs && !f.esi)) && !(f.fdf && f.rtr) &&
    (f.data.length ≤ 8 || (f.fdf && [12, 16, 20, 24, 32, 48, 64].contains f.data.length))

/-- The operands of a command are in the ranges of its row. -/
def Instr.wf : Instr → Bool
  | .add .. | .addt .. | .sub .. | .subt .. | .neg .. | .negt .. | .mul .. | .mulh .. | .mulWriteback ..
  | .div .. | .divt .. | .rem .. | .divideComplete .. | .and .. | .or .. | .xor .. | .shl .. | .shr ..
  | .sar .. | .rol .. | .clz .. => true
  | .bfx _ _ _ pos len1 => pos.toNat + len1.toNat + 1 ≤ 64
  | .bfi _ _ _ pos len1 => pos.toNat + len1.toNat + 1 ≤ 64
  | .perm .. | .tag .. | .tagof .. | .chk .. | .poison .. => true
  | .ld _ rt rb m => wfLoad rt rb m
  | .st .. => true
  | .ldb _ rt rb m => wfLoad rt rb m
  | .ldh _ rt rb m => wfLoad rt rb m
  | .ldw _ rt rb m => wfLoad rt rb m
  | .stb .. | .sth .. | .stw .. => true
  | .atadd _ _ _ m => wfAtomic m
  | .atswp _ _ _ m => wfAtomic m
  | .loadWriteback .. | .fabricResponse .. | .storeDrain .. | .storeAck .. | .draftCopyComplete ..
  | .tableWalkDone .. => true
  | .blkcpy _ ra rb rc => wfBlock ra rb rc
  | .blkfill _ ra rb rc => wfBlock ra rb rc
  | .blkcmp _ ra rb rc => wfBlock ra rb rc
  | .blkcrc _ ra rb rc => wfBlock ra rb rc
  | .b .. => true
  | .bcc _ cond _ => cond.toNat < 14
  | .call .. | .bRegister .. | .callRegister .. | .ret .. | .eret .. | .gret .. | .gate .. | .mask ..
  | .feat .. | .sealReg .. | .tlbinvUnlocked .. | .tlbinvAll .. | .tlbinvPage .. => true
  | .ipi _ _ level => level ≠ 0
  | .fence .. | .linend .. | .interruptEntry .. => true
  | .ipiArrive _ level => level ≠ 0
  | .penFault _ r both => wfReport r && both.all wfReport
  | .crosslinkDisagree .. | .folioTick .. | .runStart .. | .recoveryRunStart .. | .runBudgetEnd ..
  | .commit .. | .windowOpen .. | .windowClose .. | .fetchMessage .. | .postMessage .. | .queueInterrupt ..
  | .marchSegment .. | .selftestStart .. | .selftestVerdict .. | .resilverComplete .. | .redraftCompute ..
  | .rulingStoreScrub .. | .tickinEdge .. | .tickinMiss .. | .ppsEdge .. | .gptpSync .. | .pdelayRequest ..
  | .holdoverEntry .. | .rubricFirmwareReaction .. | .voterMismatch .. | .huvasNibCheck ..
  | .huvasResync .. | .mailboxGo .. | .mailboxAbort .. | .identify .. | .fwLoad .. | .timeConfig ..
  | .memLoad .. | .memRead .. | .vslotSet .. | .partSetup .. | .mirrorSet .. | .lslotSet .. | .seqSel ..
  | .rulingLoad .. | .rulingVerify .. | .rulingUnload .. | .activate .. | .switchArm .. | .quiesce ..
  | .rubricSet .. | .eventRead .. | .bankHandover .. | .scrub .. | .march .. | .marginRead ..
  | .checkerTest .. | .queueSet .. | .shareSet .. | .chansetSet .. | .portRecordLoad .. | .tracePair ..
  | .traceDetach .. | .takeover .. | .penControl .. | .power .. | .dormant .. | .superviseSet ..
  | .debugEnable .. | .rulingEntryWrite .. | .vtSlotWrite .. | .pxRecordWrite .. | .ptRecordWrite ..
  | .folioSwitchWrite .. | .penCtrlRestart .. | .penCtrlFence .. | .penInjectArm .. | .mmuInvAll ..
  | .mmuLslotLoad .. | .checkerInjectWrite .. | .blotScrubStart .. | .blotScrubAbort .. | .scrubPassEnd ..
  | .blotMlClear .. | .huvEqPop .. | .hifQpWrite .. | .trcListWrite .. | .feedDescWrite ..
  | .submissionRequest .. | .domainRequestWrite .. | .domainSwitchOff .. | .domainSwitchOn ..
  | .bankFillDone .. => true
  | .registerWrite cpa _ _ _ => cpa.toNat % 8 = 0
  | .registerReadClear cpa _ _ => cpa.toNat % 8 = 0
  | .doorbell .. => true
  | .inboundWrite bar2 off _ _ _ _ => wfBar bar2 off.toNat
  | .inboundRead bar2 off _ _ => wfBar bar2 off.toNat
  | .hostCompletion .. | .completionTimeout .. | .msixUnmask .. | .d3hotWrite .. | .d0Write ..
  | .linkDown .. => true
  | .linkUp speed width _ => wfLink speed.toNat width.toNat
  | .ideCheckFail .. | .ideKeySetGo .. | .doeRequest .. | .doeAbort .. => true
  | .recordBegin raw => raw.length = 32
  | .recordUnit raw _ => raw.length = 576
  | .recordEnd raw => raw.length = 32
  | .recordAck raw => raw.length = 32
  | .recordDigest raw => raw.length = 544
  | .recordFarewell raw => raw.length = 32
  | .traceWatchdog .. | .ethFrameReceive .. | .ethFrameTransmit .. | .ethLinkDown .. | .ethLinkUp .. => true
  | .canFrameReceive _ f _ => f.wf
  | .canFrameTransmit .. | .canBusOffRecovery .. | .feedRecordWrite .. | .gpioCapture .. | .gpioSample ..
  | .gpioReadback .. | .vaonPowerOn .. | .mainRailsUp .. | .mainPowerReset .. | .resetNAssert ..
  | .jtagTrst .. | .clockFail .. | .pllEthUnlock .. | .pcieClockLoss .. | .xtalStop .. | .fuseLoad ..
  | .fillDone .. | .romCheckDone .. | .avsInterval .. | .avsTimeout .. | .supplyExcursion ..
  | .tempConversion .. | .dormantEnter .. | .wake .. | .illegalEncoding .. | .instructionBusFault ..
  | .avsAcknowledge .. | .resetNRelease .. | .clockReturn .. | .xtalStart .. => true
  | .linkRetrain speed width => wfLink speed.toNat width.toNat
  | .configWrite .. | .pdelayReceive .. => true

end Sys2Proof
end

