-- ==== Sys2Proof/Tests/Slice0.lean ====
section
/-! SUPPORT. Small tests: ill-formed operands are refused, worked examples of the manual come out, and for every statement
with hypotheses a concrete state and operands that meet them. -/

namespace Sys2Proof.Tests

-- Each theorem waits for the one before it.
set_option Elab.async false

open Sys2Proof.Machine

/-- Issue slot 1 and slot 2 of pen 0. -/
def i0 : Iss := ⟨0, false⟩

/-! ### Ill-formed operands -/

theorem test_wf_field_leaves_word : Instr.wf (.bfx i0 1 2 60 4) = false ∧ Instr.wf (.bfi i0 1 2 1 63) = false ∧
    Instr.wf (.bfx i0 1 2 60 3) = true := by decide
theorem test_wf_base_is_destination : Instr.wf (.ld i0 3 3 (.postInc 1)) = false ∧ Instr.wf (.ldb i0 3 3 (.preDec 1)) = false ∧
    Instr.wf (.ldh i0 3 3 (.postInc 1)) = false ∧ Instr.wf (.ldw i0 3 3 (.preDec 1)) = false ∧
    Instr.wf (.ld i0 3 3 (.off 1)) = true := by decide
theorem test_wf_atomic_mode : Instr.wf (.atadd i0 1 2 (.index 3 0)) = false ∧ Instr.wf (.atswp i0 1 2 (.postInc 0)) = false := by
  decide
theorem test_wf_block_registers : Instr.wf (.blkcpy i0 1 1 2) = false ∧ Instr.wf (.blkfill i0 1 2 2) = false ∧
    Instr.wf (.blkcmp i0 1 2 1) = false ∧ Instr.wf (.blkcrc i0 4 4 4) = false := by decide
theorem test_wf_condition : Instr.wf (.bcc i0 14 0) = false ∧ Instr.wf (.bcc i0 13 0) = true := by decide
theorem test_wf_ipi_level : Instr.wf (.ipi i0 1 0) = false ∧ Instr.wf (.ipiArrive 0 0) = false := by decide
theorem test_wf_divergence_group : Instr.wf (.penFault 0 (.diverge 0) none) = false := by decide
theorem test_wf_register_alignment : Instr.wf (.registerWrite 0x40000004 TWord.uninit false 0) = false ∧
    Instr.wf (.registerReadClear 4 false 0) = false := by decide
theorem test_wf_window_offset : Instr.wf (.inboundWrite false 0x10000 0 0 0 false) = false ∧
    Instr.wf (.inboundRead false 0x1FFFF 0 0) = false ∧ Instr.wf (.inboundRead true 0x1FFFF 0 0) = true := by decide
theorem test_wf_link_rate : Instr.wf (.linkUp 0 16 true) = false ∧ Instr.wf (.linkRetrain 6 3) = false ∧
    Instr.wf (.linkRetrain 6 8) = true := by decide
theorem test_wf_record_lengths : Instr.wf (.recordBegin []) = false ∧ Instr.wf (.recordUnit [] false) = false ∧
    Instr.wf (.recordEnd []) = false ∧ Instr.wf (.recordAck []) = false ∧ Instr.wf (.recordDigest []) = false ∧
    Instr.wf (.recordFarewell []) = false := by decide
theorem test_wf_can_frames :
    Instr.wf (.canFrameReceive 0 ⟨2048, false, false, false, false, false, []⟩ .ok) = false ∧
    Instr.wf (.canFrameReceive 0 ⟨0, false, false, true, false, false, []⟩ .ok) = false ∧
    Instr.wf (.canFrameReceive 0 ⟨0, false, true, false, false, true, []⟩ .ok) = false ∧
    Instr.wf (.canFrameReceive 0 ⟨0, false, true, false, false, false, List.replicate 9 0⟩ .ok) = false ∧
    Instr.wf (.canFrameReceive 0 ⟨2048, true, true, true, false, false, List.replicate 12 0⟩ .ok) = true := by decide

/-! ### Worked examples of the manual -/

/-- R159's two encodings are instructions, and the word of zeros is none. -/
theorem test_encodings : illegalDetail 0x40A60002 = none ∧ illegalDetail 0x04E50800 = none ∧ illegalDetail 0 = some 1 := by
  decide +kernel
/-- No row of the table has bits of its own. -/
theorem test_decode_none : decodeTableWord 0 0 = none ∧ decodeTableWord 32 0x04E50800 = none := by decide
/-- R159's two encodings: LD W5, [W6, #16] and ADD W7, W5, W1; and a word of zeros, which is no instruction. -/
theorem test_decode_word : decodeWord i0 0x40A60002 = some (.ld i0 5 6 (.off 2)) ∧
    decodeWord i0 0x04E50800 = some (.add i0 7 5 (.reg 1)) ∧ decodeWord i0 0 = none := by decide +kernel

/-- The examples of R172. -/
theorem test_shift_examples :
    aluShift arithTags shlOf (TWord.raw 1) (.imm 63) (fun _ => TWord.uninit) =
      .ok (TWord.raw 0x8000000000000000, some (mkFlags true false false false)) ∧
    aluShift arithTags shlOf (TWord.raw 1) (.reg 2) (fun _ => TWord.int (-1)) =
      .ok (TWord.raw 0, some (mkFlags false true false false)) ∧
    aluShift arithTags sarOf (TWord.int 0x8000000000000000) (.reg 2) (fun _ => TWord.uint 64) =
      .ok (TWord.int (-1), some (mkFlags true false false false)) ∧
    aluShift bitTags rolOf (TWord.raw 0x8000000000000001) (.reg 2) (fun _ => TWord.int (-1)) =
      .ok (TWord.raw 0xC000000000000000, some (mkFlags true false false false)) := by decide +kernel

/-- The example of R285: INT 1 in the second word of reservoir 0. -/
theorem test_codeword_example : checkByte (cpaFold 0x10000008) 1 1 = 0x5C ∧
    judge (cpaFold 0x10000018) (encodeCode (cpaFold 0x10000008) (TWord.int 1)) = .address ∧
    judge (cpaFold 0x10000010) (encodeCode (cpaFold 0x10000008) (TWord.int 1)) = .clean (TWord.int 1) := by decide +kernel

/-! ### A small machine -/

/-- A TLB entry with every permission at both stages and D set. -/
def page (vpn : Nat) (kind : FrameKind) (frame : Nat) (slot : Nat := 0) : TlbEntry :=
  { valid := true, vpn := vpn, part := 1, kind := kind, frame := frame, slot := slot
    r1 := true, w1 := true, x1 := true, u1 := true, d1 := true, d2 := true, r2 := true, w2 := true, x2 := true }

/-- The run of line 3 on pen 0. -/
def run0 : Run := { line := 3, part := 1, home := 0, start := 0, budget := 100000, winEnd := 100000 }

/-- Pages 0 and 1 are the pen's own inkwell pages 16 and 0x3E, page 2 the version slot 5, page 3 the first page of
reservoir 0. -/
def tlb0 : Table TlbEntry :=
  [(0, page 0 .loc 16), (1, page 1 .loc 0x3E), (2, page 2 .versioned 17 5), (3, page 3 .cpa 0x10000)]

def regs0 : Table TWord :=
  [(1, TWord.int 7), (2, TWord.int 5), (3, TWord.raw 0xF0), (4, TWord.raw 0x0F), (5, TWord.uint 2), (6, TWord.uint 1),
   (7, TWord.ptr 0x100), (8, TWord.ptr 0x3000), (9, TWord.uint 0), (10, TWord.cptr 0x200), (11, TWord.ptr 0x200),
   (12, TWord.int 0x7FFFFFFFFFFFFFFF), (13, TWord.int 0), (14, TWord.ptr 0x2000), (15, TWord.ptr 0x9000),
   (16, TWord.ptr 0x100)]

/-- Pen 0 at address 0x80 of that run, at TASK, with its next instructions fetched. -/
def pen0 : Pen :=
  { st := .run, status := 0, pc := 0x80, run := some run0, regs := regs0, spTask := TWord.ptr 0x800
    spExec := TWord.ptr 0x1E00, filling0 := false, filling1 := false, tlb := tlb0
    fbuf := some ⟨8, some (TWord.raw 0), some (TWord.raw 0)⟩ }

/-- Pen 0 runs in RUN. -/
def demo : State :=
  { dev := .run, folio := { running := true }, pens := [(0, pen0)], rsv := [(0, { owner := 0, filling := false })] }

/-- The same at EXEC. -/
def demoExec : State := demo.setPen 0 { pen0 with status := 0x100 }

/-- The operation has no exception. -/
def isOk {ε α : Type} : Except ε α → Bool
  | .ok _ => true
  | .error _ => false

/-- An instruction issues with its code in the fetch buffer. -/
theorem issues_of {s : State} {i : Iss} {u : Uses}
    (h : s.ready i.pen.val = true ∧ s.admitted i.pen.val (s.issuing i u).1 = some s) : s.Issues s i u := ⟨h.1, h.2, rfl⟩

theorem test_demo_ready : demo.ready 0 = true ∧ demoExec.ready 0 = true := by decide +kernel

/-! ### Commands and steps -/

theorem witness_StepRunsFrontCommand : ({ demo with pending := [Instr.add i0 1 2 (.reg 3)] } : State).pending =
    Instr.add i0 1 2 (.reg 3) :: [] := by decide
theorem witness_IdleStepPassesCycle : demo.pending = [] ∧ demo.dev ≠ .off ∧ demo.dev ≠ .dormant ∧ demo.aon.steer = 0 ∧
    ({ demo with flight := [⟨0, 0, 3, 0x10000000, none, 0⟩] } : State).flight.all (fun f => 0 + 1 < f.since + 6 * hops f.pen f.cpa) = true := by
  decide
/-- The step of this state writes a word of a bank. -/
def storing : State :=
  { demo with
    pending := [Instr.storeDrain 0 false]
    pens := [(0, { pen0 with sb := [⟨[⟨0x10008, true, 0xFF, TWord.int 7⟩], none⟩] })] }
theorem witness_StepKeepsMemoryCanonical : storing.Inv ∧ (∃ t, step storing = .next t) ∧
    (∀ t, step storing = .next t → t.peek 0x10008 = .clean (TWord.int 7)) := by
  refine ⟨⟨by decide +kernel, by decide +kernel⟩, ⟨_, rfl⟩, ?_⟩
  intro t h
  cases h
  decide +kernel
theorem witness_CommandsLeaveQueue : storing.Inv ∧ ∃ t, exec (.storeDrain 0 false) storing = .next t :=
  ⟨⟨by decide +kernel, by decide +kernel⟩, ⟨_, rfl⟩⟩
theorem witness_StoredWordsAreProtected : (0 : Fin 76) ≠ 75 ∧ (8 : Nat) / 8 ≠ 0 / 8 ∧ State.reset.Inv :=
  ⟨by decide, by decide, by decide +kernel, by decide +kernel⟩

/-! ### Arithmetic and logic -/

/-- What the instruction reads in a register of pen 0. -/
def rd0 (s : State) (u : Uses) : Reg → TWord := (s.issuing i0 u).2.read (s.issuing i0 u).1

/-- Operands that pass and operands that fail, for the instructions that write flags. -/
theorem witness_AluInstructionsComplete : demo.Issues demo i0 (useAlu [1, 2, 3] true) ∧ (
    let r := rd0 demo (useAlu [1, 2, 3] true)
    [aluAdd (r 1) (.reg 2) r, aluAddt (r 1) (.reg 2) r, aluSub (r 1) (.imm 1) r, aluSubt (r 1) (.imm 1) r, aluNeg false (r 1),
     aluNeg true (r 1), aluAnd (r 3) (.reg 4) r, aluOr (r 3) (.reg 4) r, aluXor (r 3) (.imm 1) r,
     aluShift arithTags shlOf (r 3) (.imm 63) r, aluShift bitTags shrOf (r 3) (.reg 5) r,
     aluShift arithTags sarOf (r 1) (.imm 0) r, aluShift bitTags rolOf (r 3) (.imm 63) r, aluClz (r 3),
     aluBfx 60 4 (r 3), aluBfi 0 64 (r 3) (r 4), aluPerm (r 3) (r 4), aluTag false Tag.int (r 3)].all isOk = true ∧
    [aluAdd (r 1) (.reg 3) r, aluAddt (r 12) (.reg 2) r, aluSub (r 1) (.reg 7) r, aluSubt (r 20) (.imm 1) r, aluNeg false (r 20),
     aluNeg true (r 3), aluAnd (r 1) (.reg 4) r, aluOr (r 3) (.reg 1) r, aluXor (r 3) (.reg 20) r,
     aluShift arithTags shlOf (r 7) (.imm 63) r, aluShift bitTags shrOf (r 1) (.reg 5) r,
     aluShift arithTags sarOf (r 10) (.imm 0) r, aluShift bitTags rolOf (r 3) (.reg 7) r, aluClz (r 7),
     aluBfx 60 4 (r 1), aluBfi 0 64 (r 3) (r 1), aluPerm (r 3) (r 1), aluTag false Tag.ptr (r 3)].all (fun x => !isOk x) =
       true) ∧
    64 < (60 : BitVec 6).toNat + (4 : BitVec 6).toNat + 1 ∧ (63 : BitVec 6).toNat + (0 : BitVec 6).toNat + 1 ≤ 64 :=
  ⟨issues_of (by decide +kernel), by decide +kernel⟩

/-- A second source in a register and an immediate of value −1; each row of tags. -/
theorem witness_AdditiveTable : SecondIs (TWord.int 0) (.reg 2) (fun _ => TWord.int 5) (TWord.int 5) ∧
    SecondIs (TWord.raw 0) (.imm 0xFFFF) (fun _ => TWord.uninit) (TWord.raw (-1)) ∧
    (∀ t ∈ [Tag.int, Tag.uint, Tag.fixq, Tag.raw, Tag.ptr, Tag.cptr, Tag.time],
      SecondIs ⟨t, 9⟩ (.reg 2) (fun _ => ⟨t, 5⟩) ⟨t, 5⟩) ∧
    (∀ t ∈ [Tag.ptr, Tag.cptr, Tag.time], SecondIs ⟨t, 9⟩ (.imm 0x8000) (fun _ => TWord.uninit)
      (TWord.int 0xFFFFFFFFFFFF8000)) ∧
    (∀ t ∈ [Tag.ptr, Tag.time], SecondIs (TWord.int 9) (.reg 2) (fun _ => ⟨t, 5⟩) ⟨t, 5⟩) := by
  simp only [SecondIs]; decide +kernel

/-- Amounts 63, 64 and one beyond every width; the accepted tags. -/
theorem witness_ShiftResults : AmountIs (.imm 63) (fun _ => TWord.uninit) 63 ∧ AmountIs (.reg 5) (fun _ => TWord.uint 64) 64 ∧
    AmountIs (.reg 5) (fun _ => TWord.int (-1)) (2 ^ 64 - 1) ∧ Tag.int ∈ [Tag.int, Tag.uint, Tag.raw, Tag.fixq] ∧
    Tag.raw ∈ [Tag.uint, Tag.raw] ∧ Tag.int ∈ [Tag.int, Tag.uint, Tag.raw] := by
  simp only [AmountIs]; decide +kernel

/-- Each clause of the table of conversions has a word, at the boundary that it names. -/
theorem witness_TagConversions : (TWord.int 3).tag = Tag.int ∧ (TWord.int 3).tag ≠ Tag.raw ∧
    (TWord.status 1).tag ∈ [Tag.int, Tag.uint, Tag.sbool, Tag.ptr, Tag.cptr, Tag.time, Tag.fixq, Tag.status] ∧
    (TWord.raw 0x5A5AA5A55A5AA5A5).val = 0x5A5AA5A55A5AA5A5 ∧ (TWord.raw 6).val.toNat % 4 ≠ 0 ∧
    (TWord.raw 0x3FF).val.getLsbD 7 = true ∧ (TWord.raw 0x37F).val.toNat / 2 ^ 10 = 0 ∧
    TWord.uninit.tag ≠ Tag.int ∧ Tag.int ∉ [Tag.ptr, Tag.cptr, Tag.status] ∧
    (9 ≤ (9 : Tag).toNat ∧ (13 : Tag).toNat ≤ 13) ∧
    Tag.poison ∉ [Tag.int, Tag.uint, Tag.time, Tag.fixq, Tag.sbool, Tag.ptr, Tag.cptr, Tag.status] := by decide +kernel

theorem witness_CheckTag : demo.Issues demo i0 (useAlu [1] false) ∧
    (2 : BitVec 16).getLsbD (rd0 demo (useAlu [1] false) 1).tag.toNat = true ∧
    (1 : BitVec 16).getLsbD (rd0 demo (useAlu [1] false) 1).tag.toNat = false :=
  ⟨issues_of (by decide +kernel), by decide +kernel⟩

/-- A multiply in flight, and a divide that holds the pen, without and with DIVT's overflow. -/
theorem witness_MultiplyAndDivideComplete : (demo.Issues demo i0 ⟨.mul, [1, 2], true⟩ ∧
    demo.Issues demo i0 ⟨.ser, [3, 1, 2], true⟩) ∧ (
    let u : Uses := ⟨.mul, [1, 2], true⟩
    let r := rd0 demo u
    (∃ w fl, aluMul (r 1) (.reg 2) r = .ok (w, some fl)) ∧ isOk (aluMul (r 1) (.reg 7) r) = false ∧
    (∃ w fl, aluMulh (r 1) 2 r = .ok (w, some fl)) ∧ isOk (aluMulh (r 7) 2 r) = false ∧
    isOk (aluDiv false (r 1) (r 2)) = true ∧ isOk (aluDiv true (r 1) (r 13)) = false ∧ isOk (aluRem (r 1) (r 2)) = true ∧
    isOk (aluRem (r 1) (r 3)) = false) ∧
    (let s := demo.setPen 0 { pen0 with mul := some ⟨3, TWord.int 1, 0⟩ }
     (s.runs 0).isSome = true ∧ (s.pen 0).mul = some ⟨3, TWord.int 1, 0⟩) ∧
    (let s := demo.setPen 0 { pen0 with hold := .divide 3 (TWord.int 1) 0 false }
     (s.runs 0).isSome = true ∧ (s.pen 0).hold = .divide 3 (TWord.int 1) 0 false) ∧
    (let s := demo.setPen 0 { pen0 with hold := .divide 3 (TWord.int 1) 0 true }
     (s.runs 0).isSome = true ∧ (s.pen 0).hold = .divide 3 (TWord.int 1) 0 true) := by
  refine ⟨⟨issues_of (by decide +kernel), issues_of (by decide +kernel)⟩, ⟨?_, by decide +kernel, ?_, by decide +kernel, by decide +kernel, by decide +kernel,
    by decide +kernel, by decide +kernel⟩, by decide +kernel, by decide +kernel, by decide +kernel⟩
  · exact ⟨TWord.int 35, mkFlags false false false false, by decide +kernel⟩
  · exact ⟨TWord.int 0, mkFlags false true false false, by decide +kernel⟩

/-- Each row of tags, with a divisor 0, and the most negative number by −1. -/
theorem witness_MulDivResults :
    (∀ t ∈ [Tag.int, Tag.uint, Tag.raw, Tag.fixq], SecondIs ⟨t, 9⟩ (.reg 2) (fun _ => ⟨t, 0⟩) ⟨t, 0⟩) ∧
    SecondIs (TWord.int minWord) (.imm 0xFFFF) (fun _ => TWord.int (-1)) (TWord.int (-1)) ∧
    SecondIs ⟨Tag.fixq, 9⟩ (.reg 2) (fun _ => TWord.int 3) (TWord.int 3) ∧
    SecondIs (TWord.int 9) (.reg 2) (fun _ => ⟨Tag.fixq, 3⟩) ⟨Tag.fixq, 3⟩ := by
  simp only [SecondIs]; decide +kernel

/-! ### Loads, stores and atomics -/

/-- A data read is served: `State.Serves`, as a check. -/
def serves (t : State) (c : Ctx) (r : Run) (fab : Bool) (va : Word) (w : TWord) : Bool :=
  match t.xlat c va .read with
  | .hit e =>
    decide (((isInk (t.frameCpa c e va) = true ∧ inkPen (t.frameCpa c e va) = c.home ∧
        (r.mode = .duplex ∨ t.mirrored (t.frameCpa c e va) = true)) ∨
      (fab = true ∧ isRsv (t.frameCpa c e va) = true ∧ t.bankReady (t.frameCpa c e va) = true ∧
        ((t.rsvOf (rsvNum (t.frameCpa c e va))).owner = c.home ∨
          bitAt (t.rsvOf (rsvNum (t.frameCpa c e va))).grant c.home = true))) ∧
    (t.pen c.pen).sb = [] ∧ t.peek (ownCopy c.pen c.home (t.frameCpa c e va)) = .clean w ∧ t.isJoined c.pen = false)
  | .miss | .fault _ _ => false

theorem serves_sound {t : State} {c : Ctx} {r : Run} {fab : Bool} {va : Word} {w : TWord}
    (h : serves t c r fab va w = true) : t.Serves c r fab va w := by
  unfold serves at h
  split at h
  · next e hx =>
    have hd := of_decide_eq_true h
    exact ⟨e, hx, hd.1, hd.2.1, hd.2.2.1, fun hj => by rw [hd.2.2.2] at hj; cases hj⟩
  · cases h
  · cases h

/-- What a load of `va` needs on pen 0, as a check. -/
def loadOk (s : State) (rt rb : Reg) (m : AMode) (fab : Bool) (w : TWord) : Bool :=
  let u : Uses := ⟨.mem, rt :: rb :: modeRegs m, false⟩
  let x := s.issuing i0 u
  let t := s.issued i0 u
  let a := modeAddr m 8 (x.2.read x.1 rb).val (modeIdx m (x.2.read x.1))
  match t.runs 0 with
  | some r => decide ((modeUpdates m = true → rt ≠ rb) ∧ checkAddr m rb (x.2.read x.1) = .ok () ∧ bitsOf a.1 0 3 = 0) &&
      serves t (t.ctxOf 0 r x.1) r fab a.1 w
  | none => false

theorem loadOk_sound {s : State} {rt rb : Reg} {m : AMode} {fab : Bool} {w : TWord} (h : loadOk s rt rb m fab w = true) :
    s.LoadGoes i0 rt rb m fab w := by
  unfold loadOk at h
  dsimp only at h
  split at h
  · next r hr =>
    rw [Bool.and_eq_true] at h
    have hd := of_decide_eq_true h.1
    exact ⟨r, hr, hd.1, hd.2.1, hd.2.2, serves_sound h.2⟩
  · cases h

/-- Two words of page 0 hold RAW data, and one of reservoir 0. -/
def loaded : State :=
  ((demo.poke 0x10100 (TWord.raw 0x1122334455667788)).poke 0x10108 (TWord.raw 0x99AABBCCDDEEFF00)).poke 0x10000000
    (TWord.int 5)

/-- What those two words hold, by virtual address. -/
def words (va : Word) : Word := if va = 0x100 then 0x1122334455667788 else 0x99AABBCCDDEEFF00

/-- An offset and an update of the base; a word access across two words. -/
theorem witness_LoadsComplete : loaded.Issues loaded i0 ⟨.mem, [5, 7], false⟩ ∧
    loaded.LoadGoes i0 5 7 (.off 1) false (TWord.raw 0x99AABBCCDDEEFF00) ∧
    loaded.LoadGoes i0 5 7 (.postInc 1) false (TWord.raw 0x1122334455667788) ∧ (
    let u : Uses := ⟨.mem, [5, 7], false⟩
    let x := loaded.issuing i0 u
    let t := loaded.issued i0 u
    let c := t.ctxOf 0 run0 x.1
    let a := modeAddr (.off 5) 1 (x.2.read x.1 7).val (modeIdx (.off 5) (x.2.read x.1))
    t.runs 0 = some run0 ∧ checkAddr (.off 5) 7 (x.2.read x.1) = .ok () ∧ (narrowParts a.1 4).length = 2 ∧
    ∀ q ∈ narrowParts a.1 4, t.Serves c run0 false q.1 (TWord.raw (words q.1))) := by
  refine ⟨issues_of (by decide +kernel), loadOk_sound (by decide +kernel), loadOk_sound (by decide +kernel), by decide +kernel,
    by decide +kernel, by decide +kernel, ?_⟩
  intro q hq
  apply serves_sound
  revert q
  decide +kernel

/-- A run that has drafted the versioned page. -/
def drafting : State :=
  { demo with
    pens := [(0, { pen0 with run := some { run0 with drafts := [5] } })]
    vt := [(5, { frame0 := 17, frame1 := 18, valid := true, part := 1, st := .drafted })] }

/-- A store, its word waiting to be drained; one to a reservoir, with an acknowledgement that is owed, before and after its
request has arrived. -/
theorem witness_StoresComplete :
    (demo.Issues demo i0 ⟨.mem, [1, 7], false⟩ ∧ demo.StoreGoes i0 1 7 (.preDec 1) run0 (page 0 .loc 16) 0x100F8) ∧
    (drafting.Issues drafting i0 ⟨.mem, [1, 14], false⟩ ∧
      drafting.StoreGoes i0 1 14 (.off 0) { run0 with drafts := [5] } (page 2 .versioned 17 5) 0x12000) ∧
    (loaded.Issues loaded i0 ⟨.mem, [3, 7], false⟩ ∧ (
      let u : Uses := ⟨.mem, [3, 7], false⟩
      let x := loaded.issuing i0 u
      let t := loaded.issued i0 u
      let c := t.ctxOf 0 run0 x.1
      let a := modeAddr (.off 7) 1 (x.2.read x.1 7).val (modeIdx (.off 7) (x.2.read x.1))
      let g (second : Bool) : TlbEntry × Nat × Word :=
        (page 0 .loc 16, if second then 0x10108 else 0x10100,
          if second then 0x99AABBCCDDEEFF00 else 0x1122334455667788)
      t.runs 0 = some run0 ∧ checkAddr (.off 7) 7 (x.2.read x.1) = .ok () ∧ (x.2.read x.1 3).tag = Tag.raw ∧ x.2.sb = [] ∧
      ∀ q ∈ narrowParts a.1 2, (t.Takes c run0 q.1 (g q.2.2.2).1 (g q.2.2.2).2.1 ∧
        t.peek (ownCopy c.pen c.home (g q.2.2.2).2.1) = .clean (TWord.raw (g q.2.2.2).2.2)) ∧ t.isJoined c.pen = false ∧
        (g q.2.2.2).1.d1 = true ∧ (g q.2.2.2).1.d2 = true)) ∧
    (let h : SbHalf := ⟨0x10100, false, 0x03, TWord.raw 0xFFFF⟩
     let s := loaded.setPen 0 { pen0 with sb := [⟨[h], none⟩] }
     s.runs 0 = some run0 ∧ (s.pen 0).sb = [⟨[h], none⟩] ∧ isInk h.cpa = true ∧ s.bankReady h.cpa = true ∧
     ∀ a ∈ s.runCopies 0 0 h.cpa, s.peek a = .clean (TWord.raw 0x1122334455667788)) ∧
    (let s := demo.setPen 0 { pen0 with sb := [⟨[⟨0x10000000, true, 0xFF, TWord.int 9⟩], none⟩] }
     s.runs 0 = some run0 ∧ (s.pen 0).sb = [⟨[⟨0x10000000, true, 0xFF, TWord.int 9⟩], none⟩] ∧ isInk 0x10000000 = false) ∧
    (let s := demo.setPen 0 { pen0 with acks := 1 }
     (s.runs 0).isSome = true ∧ (s.pen 0).acks ≠ 0 ∧ (s.flight.filter (fun f => f.pen = 0)).length < (s.pen 0).acks) ∧
    (let h : SbHalf := ⟨0x10000000, true, 0xFF, TWord.int 9⟩
     let f : Flight := ⟨0, 0, 3, 0x10000000, some h, 0⟩
     let s := { demo.setPen 0 { pen0 with acks := 1 } with flight := [f] }
     (s.runs 0).isSome = true ∧ s.flight.filter (fun f => f.pen = 0) = [f] ∧ (s.pen 0).acks = 1 ∧ h.cpa = f.cpa ∧
     isRsv h.cpa = true ∧ s.bankReady h.cpa = true ∧ (s.rsvOf (rsvNum h.cpa)).owner = f.home) := by
  refine ⟨⟨issues_of (by decide +kernel), ?_⟩, ⟨issues_of (by decide +kernel), ?_⟩, ⟨issues_of (by decide +kernel), ?_⟩,
    by decide +kernel, by decide +kernel, by decide +kernel,
    by decide +kernel⟩
  · unfold State.StoreGoes State.Takes; decide +kernel
  · unfold State.StoreGoes State.Takes; decide +kernel
  · unfold State.Takes; decide +kernel

theorem witness_AtomicsComplete :
    let s := demo.poke 0x10100 (TWord.int 4)
    let u : Uses := ⟨.mem, [1, 7], false⟩
    let x := s.issuing i0 u
    let t := s.issued i0 u
    let c := t.ctxOf 0 run0 x.1
    let va := (x.2.read x.1 7).val + BitVec.ofInt 64 ((0 : BitVec 14).toInt * 8)
    s.Issues s i0 u ∧ t.runs 0 = some run0 ∧ (x.2.read x.1 7).tag = Tag.ptr ∧ bitsOf va 0 3 = 0 ∧
    t.Takes c run0 va (page 0 .loc 16) 0x10100 ∧ x.2.sb = [] ∧ s.flight = [] ∧
    t.peek (ownCopy c.pen c.home 0x10100) = .clean (TWord.int 4) ∧ t.isJoined c.pen = false ∧ (x.2.read x.1 1).tag = Tag.int := by
  refine ⟨issues_of (by decide +kernel), ?_⟩
  unfold State.Takes; decide +kernel

/-- Tables of partition 1 that map its addresses as they stand, in pages 24 and 25 of the inkwell, and a load that waits
for their walk. -/
def walking : State :=
  (({ demo with
      pt := [(1, [0, 0x19000, 0, 0, 1, 0x180000001])]
      pens := [(0, { pen0 with
        regs := [(15, TWord.ptr 0x10300)], hold := .walk 0x10300 .read false (.ld i0 5 15 (.off 0)) })] } : State).poke
    0x18000 (TWord.raw 0xFF)).poke 0x19000 (TWord.raw 0x3F)

/-- A load in flight and its neighbours; a load that waits for the fabric, with the answer and with its word moving past a
collision; one that waits for a walk that fails; one whose walk finds its page; one that misses and one that
goes to a reservoir. -/
theorem witness_LoadsInFlight :
    (let x : Pen := { pen0 with late := [⟨4, TWord.int 1, 0⟩, ⟨3, TWord.int 9, 0⟩] }
     (3 : Nat) ≠ 0 ∧ x.late = [⟨4, TWord.int 1, 0⟩] ++ [⟨3, TWord.int 9, 0⟩] ∧
     ∀ e ∈ [(⟨4, TWord.int 1, 0⟩ : Late)], e.reg ≠ 3) ∧
    (let s := demo.setPen 0 { pen0 with late := [⟨3, TWord.int 9, 1⟩] }
     (s.runs 0).isSome = true ∧ (s.pen 0).hold.betweenPairs = true ∧ ∃ e ∈ (s.pen 0).late, 1 ≤ e.age) ∧
    (let h : Hold := .fabric 0x10000000 true (.ld i0 5 8 (.off 0))
     let s := loaded.setPen 0 { pen0 with hold := h }
     (s.runs 0).isSome = true ∧ (s.pen 0).hold = h ∧ ∀ col ∈ [false, true],
     let t := ((s.arriveTo 0 0).staleRead 0 0x10000000 true).collide col 0x10000000
     (t.pen 0).hold = h ∧ t.LoadGoes i0 5 8 (.off 0) true (TWord.int 5)) ∧
    (let s := demo.setPen 0 { pen0 with hold := .walk 0x9000 .read false (.ld i0 5 15 (.off 0)) }
     s.arriveTo 0 0 = s ∧ s.runs 0 = some run0 ∧ isOk (s.walkFor (s.ctxOf 0 run0 false) 0x9000 .read).1 = false) ∧
    (let x := walking.walkFor (walking.ctxOf 0 run0 false) 0x10300 .read
     let t := x.2.modPen 0 (fun x => { x with hold := .none })
     walking.arriveTo 0 0 = walking ∧ walking.runs 0 = some run0 ∧ isOk x.1 = true ∧
     t.admitted 0 ((t.issuing i0 ⟨.mem, [5, 15], false⟩).1) = some t ∧ t.LoadGoes i0 5 15 (.off 0) false TWord.uninit) ∧
    (∀ rb ∈ [(15 : Reg), 8],
      let u : Uses := ⟨.mem, [5, rb], false⟩
      let x := demo.issuing i0 u
      let t := demo.issued i0 u
      let va := (x.2.read x.1 rb).val
      demo.Issues demo i0 u ∧ t.runs 0 = some run0 ∧ checkAddr (.off 0) rb (x.2.read x.1) = .ok () ∧
      modeAddr (.off 0) 8 va 0 = (va, none) ∧ bitsOf va 0 3 = 0 ∧
      (rb = 15 → t.xlat (t.ctxOf 0 run0 x.1) va .read = .miss) ∧
      (rb = 8 → t.xlat (t.ctxOf 0 run0 x.1) va .read = .hit (page 3 .cpa 0x10000) ∧
        isRsv (t.frameCpa (t.ctxOf 0 run0 x.1) (page 3 .cpa 0x10000) va) = true ∧ x.2.sb = [])) := by
  refine ⟨by decide +kernel, ⟨by decide +kernel, by decide +kernel, ⟨3, TWord.int 9, 1⟩, by decide +kernel, by decide +kernel⟩,
    ⟨by decide +kernel, by decide +kernel, ?_⟩, by decide +kernel,
    ⟨by decide +kernel, by decide +kernel, by decide +kernel, by decide +kernel, loadOk_sound (by decide +kernel)⟩, ?_⟩
  · intro col hc
    refine ⟨?_, loadOk_sound ?_⟩ <;> revert col <;> decide +kernel
  · intro rb hr
    refine ⟨issues_of ?_, ?_⟩ <;> revert rb <;> decide +kernel

theorem peek_empty {s : State} (h : s.mem = []) (a : Nat) : s.peek a = .clean TWord.uninit := by
  simp only [State.peek, State.peekCode, h, Table.get, fillCode]
  rw [show cpaFold a = parityN 45 (a / 8) from rfl]
  generalize parityN 45 (a / 8) = b
  revert b
  decide +kernel

theorem poke_empty {s : State} (h : s.mem = []) (a : Nat) : s.poke a TWord.uninit = s := by
  have : Table.set fillCode s.mem (a / 8) (encodeCode (cpaFold a) TWord.uninit) = s.mem := by
    rw [h, Table.set, if_pos (show encodeCode (cpaFold a) TWord.uninit = fillCode (a / 8) from rfl)]
    rfl
  simp only [State.poke, State.pokeCode, this]

theorem copyWords_empty {s : State} (h : s.mem = []) (source : Nat) (cls : Option Nat) (line n src dst : Nat) :
    s.copyWords source cls line n src dst = s := by
  induction n generalizing src dst with
  | zero => rfl
  | succ n ih => rw [State.copyWords, peek_empty h]; dsimp only; rw [poke_empty h, ih]

/-- A store to a page that is not drafted yet waits for its copy. -/
def copying : State :=
  { demo with
    pens := [(0, { pen0 with hold := .copy 5 (.st i0 1 14 (.off 0)) })]
    vt := [(5, { frame0 := 17, frame1 := 18, valid := true, part := 1, st := .copying })] }

/-- That state once the page is drafted. -/
def copied : State :=
  (copying.modVslot 5 (fun v => { v with st := .drafted, feedDraft := false, drafter := 0 })).modPen 0
    (fun x => { x with run := x.run.map (fun r => { r with drafts := r.drafts ++ [5] }) })

theorem copying_draftCopy : copying.draftCopy 0 5 run0 = copied := by
  unfold State.draftCopy
  dsimp only
  rw [show (copying.runCopies 0 run0.home ((copying.vslot 5).fairFrame * 4096)).zip
    (copying.runCopies 0 run0.home ((copying.vslot 5).draftFrame * 4096)) = [(0x11000, 0x12000)] by decide +kernel]
  rw [List.foldl_cons, List.foldl_nil]
  generalize 512 = n
  exact (congrArg (fun t => State.noteWrote t 0 _) (copyWords_empty (s := copied) rfl _ _ _ _ _ _)).trans
    (by decide +kernel : copied.noteWrote 0 0x12000 = copied)

theorem witness_DraftCopyCompletes :
    ((copying.pen 0).run = some run0 ∧ isInk ((copying.vslot 5).fairFrame * 4096) = true ∧
      isInk ((copying.vslot 5).draftFrame * 4096) = true ∧ inkPen ((copying.vslot 5).draftFrame * 4096) = 0 ∧
      (copying.vslot 5).frame0 ≠ (copying.vslot 5).frame1 ∧
      ∀ j, j < 512 → ∃ w, copying.peek ((copying.vslot 5).fairFrame * 4096 + 8 * j) = .clean w) ∧
    ((copying.runs 0).isSome = true ∧ (copying.pen 0).hold = .copy 5 (.st i0 1 14 (.off 0)) ∧
      (let t := (((copying.arriveTo 0 0).collide false 0x11000).draftCopy 0 5 run0).modPen 0 (fun x => { x with hold := .none })
       t.admitted 0 ((t.issuing i0 ⟨.mem, [1, 14], false⟩).1) = some t ∧
       t.StoreGoes i0 1 14 (.off 0) { run0 with drafts := [5] } (page 2 .versioned 17 5) 0x12000)) ∧
    (let s : State := { copying with vt := [(5, { frame0 := 0x10000, frame1 := 18, valid := true, st := .copying })] }
     (s.runs 0).isSome = true ∧ (s.pen 0).hold = .copy 5 (.st i0 1 14 (.off 0)) ∧ (s.pen 0).run = some run0 ∧
     isRsv ((s.vslot 5).fairFrame * 4096) = true) := by
  refine ⟨⟨by decide +kernel, by decide +kernel, by decide +kernel, by decide +kernel, by decide +kernel, ?_⟩,
    ⟨by decide +kernel, by decide +kernel, ?_⟩, by decide +kernel⟩
  · exact fun j _ => ⟨_, peek_empty rfl _⟩
  · rw [show (copying.arriveTo 0 0).collide false 0x11000 = copying by decide +kernel, copying_draftCopy]
    unfold State.StoreGoes State.Takes
    decide +kernel

/-- Pen 0 with 20 words to go in the CRC, and the same at the sampling point after eight. -/
def crcOf (d : Nat) (h : Hold) : State :=
  demo.setPen 0 { pen0 with
    regs := [(7, TWord.ptr (0x100 + BitVec.ofNat 64 (8 * d))), (3, TWord.raw 0), (5, TWord.uint (20 - BitVec.ofNat 64 d))]
    blkDone := d, hold := h }

/-- A count of 0, 1 and 2, and a ninth word from the sampling point on; all words pass, and the first pair differs. -/
theorem witness_BlockInstructionsComplete :
    (let u : Uses := ⟨.ser, [7, 11, 9], false⟩
     let t := demo.modPen 0 (fun x => x.issue false u)
     let x := t.pen 0
     demo.BlockGoes t 0 u (.blkcpy i0 7 11 9) 0 ∧ demo.BlockGoes t 0 u (.blkfill i0 7 11 9) 0 ∧ t.runs 0 = some run0 ∧
     (x.getB 7).tag = Tag.ptr ∧ bitsOf (x.getB 7).val 0 3 = 0 ∧ x.getB 9 = TWord.uint 0 ∧
     (x.getB 11).tag = Tag.ptr ∧ bitsOf (x.getB 11).val 0 3 = 0) ∧
    (let u : Uses := ⟨.ser, [7, 3, 5], false⟩
     let t := loaded.modPen 0 (fun x => x.issue false u)
     let x := t.pen 0
     loaded.BlockGoes t 0 u (.blkcrc i0 7 3 5) 0 ∧ t.runs 0 = some run0 ∧ x.getB 5 = TWord.uint 2 ∧
     (x.getB 3).tag = Tag.raw ∧
     ∀ j, j < 2 → t.Serves (t.ctxOf 0 run0 false) run0 false ((x.getB 7).val + BitVec.ofNat 64 (8 * j))
       (TWord.raw (words ((x.getB 7).val + BitVec.ofNat 64 (8 * j))))) ∧
    (let u : Uses := ⟨.ser, [7, 3, 5], false⟩
     let s := crcOf 8 (.block (.blkcrc i0 7 3 5))
     let t := s.modPen 0 (fun x => { x with hold := .none })
     s.BlockGoes t 0 u (.blkcrc i0 7 3 5) 8 ∧ t.runs 0 = some run0 ∧ ((t.pen 0).getB 5).val = 12) ∧
    (∀ rb ∈ [(16 : Reg), 11],
     let u : Uses := ⟨.ser, [7, rb, 6], true⟩
     let t := loaded.modPen 0 (fun x => x.issue false u)
     let x := t.pen 0
     loaded.BlockGoes t 0 u (.blkcmp i0 7 rb 6) 0 ∧ t.runs 0 = some run0 ∧
     t.Serves (t.ctxOf 0 run0 false) run0 false (x.getB 7).val (TWord.raw 0x1122334455667788) ∧
     t.Serves (t.ctxOf 0 run0 false) run0 false (x.getB rb.val).val
       (if rb = 16 then TWord.raw 0x1122334455667788 else TWord.uninit)) ∧
    (let u : Uses := ⟨.ser, [7, 11, 6], false⟩
     let t := loaded.modPen 0 (fun x => x.issue false u)
     let x := t.pen 0
     let c := t.ctxOf 0 run0 false
     (loaded.BlockGoes t 0 u (.blkfill i0 7 11 6) 0 ∧ loaded.BlockGoes t 0 u (.blkcpy i0 7 11 6) 0) ∧ t.runs 0 = some run0 ∧
     x.getB 6 = TWord.uint 1 ∧ t.Takes c run0 (x.getB 7).val (page 0 .loc 16) 0x10100 ∧ x.sb = [] ∧
     t.Serves c run0 false (x.getB 11).val TWord.uninit) := by
  have goes {s : State} {u : Uses} {c : Instr} (h : (s.pen 0).blkDone = 0 ∧ s.ready 0 = true ∧ s.admitted 0 false = some s) :
      s.BlockGoes (s.modPen 0 (fun x => x.issue false u)) 0 u c 0 := ⟨h.1, .inl ⟨rfl, s, h.2, rfl⟩⟩
  refine ⟨⟨goes (by decide +kernel), goes (by decide +kernel), by decide +kernel⟩,
    ⟨goes (by decide +kernel), by decide +kernel, by decide +kernel, by decide +kernel, ?_⟩,
    ⟨⟨by decide +kernel, .inr ⟨by decide, by decide +kernel, by decide +kernel, by decide +kernel, rfl⟩⟩, by decide +kernel⟩,
    ?_, ⟨⟨goes (by decide +kernel), goes (by decide +kernel)⟩, by decide +kernel, by decide +kernel, ?_, by decide +kernel,
      serves_sound (by decide +kernel)⟩⟩
  · intro j hj
    apply serves_sound
    revert j
    decide +kernel
  · intro rb hr
    refine ⟨goes ?_, ?_, serves_sound ?_, serves_sound ?_⟩ <;> revert rb <;> decide +kernel
  · unfold State.Takes; decide +kernel

/-! ### Control transfer and system instructions -/

theorem witness_BranchesComplete : (demo.Issues demo i0 ⟨.ctl, [], false⟩ ∧ demo.Issues demo i0 ⟨.ctl, [], true⟩ ∧
      demo.Issues demo i0 ⟨.ctl, [10], false⟩) ∧
    (demo.issuing i0 ⟨.ctl, [], true⟩).2.flags = mkFlags false false false false ∧ (13 : BitVec 4).toNat < 14 ∧
    14 ≤ (14 : BitVec 4).toNat ∧
    (let w := rd0 demo ⟨.ctl, [10], false⟩ 10
     w.tag = Tag.cptr ∧ bitsOf w.val 0 2 = 0) ∧
    (let s := demo.setPen 0 { pen0 with regs := [(10, TWord.cptr 0x203)] }
     let w := rd0 s ⟨.ctl, [10], false⟩ 10
     s.Issues s i0 ⟨.ctl, [10], false⟩ ∧ w.tag = Tag.cptr ∧ bitsOf w.val 0 2 ≠ 0) :=
  ⟨⟨issues_of (by decide +kernel), issues_of (by decide +kernel), issues_of (by decide +kernel)⟩, by decide +kernel,
    by decide +kernel, by decide +kernel, by decide +kernel, issues_of (by decide +kernel), by decide +kernel⟩

/-- Partition 1 has two gates from offset 0x20000 of bank 0: the first lets everything through, the second is not enabled;
its set of pens for IPI is pens 1 and 2. The vectors lead to address 0x400. -/
def gated : State :=
  let s : State := { demoExec with px := [(1, [0x200020000, 0, 6, 0])] }
  let s := ((((s.poke 0x20000 (TWord.cptr 0x400)).poke 0x20008 (TWord.raw (-1))).poke 0x20010 (TWord.raw 0x27)).poke 0x20018
    (TWord.raw 0))
  let s := ((((s.poke 0x20020 (TWord.cptr 0x400)).poke 0x20028 (TWord.raw (-1))).poke 0x20030 (TWord.raw 0)).poke 0x20038
    (TWord.raw 0))
  (s.poke 0x3EE00 (TWord.status 0x34)).poke 0x3EE08 (TWord.cptr 0x300)

/-- The same at TASK. -/
def gatedTask : State := gated.setPen 0 pen0

theorem witness_CallsAndReturnsComplete :
    (∀ q ∈ [(Instr.call i0 4, [(31 : Reg)]), (.callRegister i0 10, [10, 31])],
      let u : Uses := ⟨.callret, q.2, false⟩
      let x := demo.issuing i0 u
      let t := demo.issued i0 u
      let sp := x.2.read x.1 31
      demo.Issues demo i0 u ∧ t.runs 0 = some run0 ∧ sp.tag = Tag.ptr ∧ bitsOf sp.val 0 3 = 0 ∧ x.2.task = true ∧
      t.Takes (t.ctxOf 0 run0 x.1) run0 (sp.val - 8) (page 0 .loc 16) 0x107F8 ∧ x.2.sbUsed + 1 ≤ 4 ∧
      (x.2.read x.1 10).tag = Tag.cptr ∧ bitsOf (x.2.read x.1 10).val 0 2 = 0) ∧
    (let s := demo.poke 0x10800 (TWord.cptr 0x300)
     let u : Uses := ⟨.callret, [31], false⟩
     let x := s.issuing i0 u
     let t := s.issued i0 u
     s.Issues s i0 u ∧ t.runs 0 = some run0 ∧ (x.2.read x.1 31).tag = Tag.ptr ∧
     t.Serves (t.ctxOf 0 run0 x.1) run0 false (x.2.read x.1 31).val (TWord.cptr 0x300)) ∧
    (demo.issuing i0 ⟨.ser, [31], true⟩).2.task = true ∧
    (let u : Uses := ⟨.ser, [31], true⟩
     let x := gated.issuing i0 u
     let t := gated.issued i0 u
     gated.Issues gated i0 u ∧ demo.Issues demo i0 u ∧ x.2.task = false ∧ t.runs 0 = some run0 ∧ x.2.spExec.tag = Tag.ptr ∧
     bitsOf x.2.spExec.val 0 3 = 0 ∧
     t.Serves (t.ctxOf 0 run0 x.1) run0 false x.2.spExec.val (TWord.status 0x34) ∧
     t.Serves (t.ctxOf 0 run0 x.1) run0 false (x.2.spExec.val + 8) (TWord.cptr 0x300)) := by
  refine ⟨?_, ⟨issues_of (by decide +kernel), by decide +kernel, by decide +kernel, serves_sound (by decide +kernel)⟩,
    by decide +kernel, issues_of (by decide +kernel), issues_of (by decide +kernel), by decide +kernel, by decide +kernel,
    by decide +kernel, by decide +kernel, serves_sound (by decide +kernel), serves_sound (by decide +kernel)⟩
  intro q hq
  refine ⟨issues_of ?_, ?_⟩
  · revert q; decide +kernel
  · unfold State.Takes; revert q; decide +kernel

/-- A gate beyond the table, an entry that cannot be read, one that is not enabled, and one that is entered. -/
theorem witness_CallsAndReturnsComplete_gate :
    let issue (s : State) : State := s.modPen 0 (fun x => x.issue false ⟨.ser, [1, 2, 3, 4, 31], true⟩)
    gated.IssuesAlone gated 0 ∧ (issue gated).runs 0 = some run0 ∧ bitsOf ((issue gated).pxWord 1 0) 32 9 = 2 ∧
    (let t := issue { gated with mem := [] }
     1 < bitsOf (t.pxWord 1 0) 32 9 ∧ (t.readGate 0 1 1).1 = none) ∧
    (let t := issue gated
     let x := t.pen 0
     t.readGate 0 1 1 = (some ⟨0x400, -1, 0, 0⟩, t) ∧
     gateChecks ⟨0x400, -1, 0, 0⟩ x.task (fun k => x.getB k) = some (3, 0) ∧
     t.readGate 0 1 0 = (some ⟨0x400, -1, 0x27, 0⟩, t) ∧
     gateChecks ⟨0x400, -1, 0x27, 0⟩ x.task (fun k => x.getB k) = none ∧ x.sb = [] ∧ t.flySpent 0 1 16 = false ∧
     t.stackCheck 0 run0 = (.good (page 1 .loc 0x3E) (page 1 .loc 0x3E), t)) := by
  unfold State.IssuesAlone
  decide +kernel

/-- MASK, SEAL, TLBINV and IPI at both levels. -/
theorem witness_SystemInstructionsComplete :
    (∀ s ∈ [demo, demoExec], s.Issues s i0 (useAlu [1] false) ∧ s.Issues s i0 (useAlu [1, 5] false) ∧
      s.Issues s i0 (useAlu [1, 3] false) ∧ s.Issues s i0 ⟨.ser, [7], false⟩ ∧ s.Issues s i0 ⟨.mem, [5], false⟩) ∧
    gated.Issues gated i0 ⟨.mem, [5], false⟩ ∧
    (demo.issuing i0 (useAlu [1, 5] false)).2.task = true ∧ (demoExec.issuing i0 (useAlu [1, 5] false)).2.task = false ∧
    (rd0 demoExec (useAlu [1, 5] false) 5).tag = Tag.uint ∧ (demo.issued i0 (useAlu [1] false)).runs 0 = some run0 ∧
    ((rd0 demo (useAlu [1, 3] false) 3).tag = Tag.raw ∧
      (demo.issuing i0 (useAlu [1, 3] false)).2.sealed &&& ~~~ (rd0 demo (useAlu [1, 3] false) 3).val &&&
        0x7777777777777777 = 0) ∧
    (let s := demo.setPen 0 { pen0 with sealed := 0x7000 }
     s.Issues s i0 (useAlu [1, 3] false) ∧ (s.issuing i0 (useAlu [1, 3] false)).2.sealed &&& ~~~ (rd0 s (useAlu [1, 3] false) 3).val &&&
       0x7777777777777777 ≠ 0) ∧
    (demo.issuing i0 ⟨.ser, [7], false⟩).2.task = true ∧ (demoExec.issuing i0 ⟨.ser, [7], false⟩).2.task = false ∧
    (demoExec.issued i0 ⟨.ser, [7], false⟩).runs 0 = some run0 ∧ (rd0 demoExec ⟨.ser, [7], false⟩ 7).tag = Tag.ptr ∧
    (let u : Uses := ⟨.mem, [5], false⟩
     (gated.issuing i0 u).2.task = false ∧ (rd0 gated u 5).tag = Tag.uint ∧ (gated.issued i0 u).runs 0 = some run0 ∧
     (rd0 gated u 5).val &&& ~~~ BitVec.ofNat 64 (2 ^ 0) &&& ~~~ gated.pxWord 1 2 = 0 ∧
     (rd0 gated ⟨.mem, [3], false⟩ 3).val &&& ~~~ BitVec.ofNat 64 (2 ^ 0) &&& ~~~ gated.pxWord 1 2 ≠ 0) := by
  simp only [State.Issues]
  decide +kernel

/-- A run past LINEND at its commit point, with an output page drafted. -/
def committing : State :=
  { demo with
    cyc := 14
    pens := [(0, { pen0 with run := some { run0 with linend := some 10, drafts := [5] } })]
    vt := [(5, { frame0 := 17, frame1 := 18, valid := true, part := 1, kind := .output, st := .committing })] }

theorem witness_FenceAndLinendComplete :
    (demo.Issues demo i0 ⟨.ser, [], false⟩ ∧ (demo.issuing i0 ⟨.ser, [], false⟩).2.sb = [] ∧
      (demo.issuing i0 ⟨.ser, [], false⟩).2.acks = 0) ∧
    (let s := demo.setPen 0 { pen0 with acks := 1 }
     s.Issues s i0 ⟨.ser, [], false⟩ ∧ (s.issuing i0 ⟨.ser, [], false⟩).2.acks ≠ 0) ∧
    demo.Issues demo i0 ⟨.fin, [], false⟩ ∧ demoExec.Issues demoExec i0 ⟨.fin, [], false⟩ ∧
    (let x := (demoExec.setPen 0 { pen0 with status := 0x100, acks := 1 }).issuing i0 ⟨.fin, [], false⟩
     x.1 = false ∧ x.2.task = false ∧ x.2.acks ≠ 0) ∧
    (demo.issuing i0 ⟨.fin, [], false⟩).2.task = true ∧
    (let x := demoExec.issuing i0 ⟨.fin, [], false⟩
     x.2.task = false ∧ x.2.sb = [] ∧ x.2.acks = 0 ∧ (demoExec.issued i0 ⟨.fin, [], false⟩).runs 0 = some run0 ∧
     demoExec.folioCyc < run0.winEnd ∧ run0.drainBad = false ∧ run0.mode ≠ .joined) ∧
    (committing.folio.running = true ∧ (committing.pen 0).st = .run ∧ (committing.pen 0).ending = none ∧
      (committing.pen 0).run = some { run0 with linend := some 10, drafts := [5] } ∧ committing.folioCyc = 10 + 4 ∧
      ([5] : List Nat).Nodup ∧ (committing.vslot 5).commitLine = 0x7FFF) := by
  simp only [State.Issues]
  decide +kernel

/-! ### Exceptions, interrupts and pen faults -/

/-- A state with the handler 0x400 in every vector of the list. -/
def vectored (s : State) (vs : List Nat) : State := s.forAll vs (fun v t => t.poke (0x3FE00 + 8 * v) (TWord.cptr 0x400))

theorem witness_ExceptionEntry :
    (vectored demo [2]).CanEnter 0 run0 2 0x400 (page 1 .loc 0x3E) (page 1 .loc 0x3E) ∧
    (let s := (vectored demo [12]).setPen 0 { pen0 with spExec := TWord.ptr 0x1E04 }
     let t := s.modPen 0 Pen.complete
     s.runs 0 = some run0 ∧ t.flySpent 0 1 16 = false ∧ t.stackCheck 0 run0 = (.bad 0 false 0x1DF4, t) ∧
     bitAt (s.pen 0).complete.status 10 = false ∧ t.readVector 0 12 = (some 0x400, t) ∧ (s.pen 0).complete.sb = [] ∧
     t.peek (inkBase 0 + 0x3FFF8) = .clean TWord.uninit ∧ t.peek (inkBase 0 + 0x3FFF0) = .clean TWord.uninit) := by
  unfold State.CanEnter
  decide +kernel

/-- An interrupt below MASK stays pending. -/
theorem witness_InterruptAcceptance : Pen.irqLevel { pen0 with status := 0x50, ipiPend := 0x10 } = none ∧
    Pen.irqLevel { pen0 with status := 0x70, ipiPend := 0x80 } = some 7 ∧ (demo.pen 0).irqLevel = none := by decide +kernel

theorem witness_InterruptsComplete :
    (let s := (vectored demo [19]).setPen 0 { pen0 with ipiPend := 8 }
     let t := (s.modPen 0 (fun x => { x with hold := .none })).modPen 0
       (fun x => { x with ipiPend := x.ipiPend &&& ~~~ BitVec.ofNat 8 (2 ^ 3) })
     (s.pen 0).irqLevel = some 3 ∧ (s.pen 0).hold = .none ∧ (s.pen 0).blkDone = 0 ∧
     t.CanEnter 0 run0 (16 + 3) 0x400 (page 1 .loc 0x3E) (page 1 .loc 0x3E)) ∧
    (let s : State := { demo with ipiFly := [⟨2, 0, 3, 0⟩, ⟨2, 1, 3, 1⟩], cyc := 11 }
     s.ipiFly = [] ++ ⟨2, 0, 3, 0⟩ :: [⟨2, 1, 3, 1⟩] ∧ 0 + 11 ≤ s.cyc ∧ ¬(1 + 11 ≤ s.cyc) ∧ s.runLive (s.ipiTarget 0) = true ∧ s.runLive (s.ipiTarget 1) = false) := by
  unfold State.CanEnter
  decide +kernel

/-- Nothing is fetched yet: the next instructions lie in page 0, in reservoir 0, in the host window, and in a page that no
entry translates. -/
def unfetched (pc : Word) (r : Run := run0) : State := demo.setPen 0 { pen0 with fbuf := none, pc := pc, run := some r }

theorem witness_InstructionFetch :
    (demo.pen 0).fbuf = some ⟨(demo.pen 0).pc.toNat / 16, some (TWord.raw 0), some (TWord.raw 0)⟩ ∧
    (let s := unfetched 0x80
     let a := s.frameCpa (s.ctxOf 0 run0 false) (page 0 .loc 16) 0x80
     (s.pen 0).fbuf = none ∧ s.xlat (s.ctxOf 0 run0 false) 0x80 .fetch = .hit (page 0 .loc 16) ∧ isInk a = true ∧
     isHostWin a = false ∧ inkPen a = 0 ∧ run0.mode = .duplex ∧ s.isJoined 0 = false ∧
     s.peek (ownCopy 0 0 (a / 16 * 16)) = .clean TWord.uninit ∧ s.peek (ownCopy 0 0 (a / 16 * 16 + 8)) = .clean TWord.uninit) ∧
    (let s := unfetched 0x80 { run0 with mode := .solo }
     s.mirrored (s.frameCpa (s.ctxOf 0 run0 false) (page 0 .loc 16) 0x80) = false) ∧
    (let s := unfetched 0x3000
     s.xlat (s.ctxOf 0 run0 false) 0x3000 .fetch = .hit (page 3 .cpa 0x10000) ∧
     isInk (s.frameCpa (s.ctxOf 0 run0 false) (page 3 .cpa 0x10000) 0x3000) = false) ∧
    (let s := unfetched 0x9000
     s.xlat (s.ctxOf 0 run0 false) 0x9000 .fetch = .miss) ∧
    (let s := (unfetched 0x80).pokeCode 0x10080 (encodeCode (cpaFold 0x10080) TWord.uninit ^^^ 3)
     s.peek (ownCopy 0 0 0x10080) = .uncorrectable (0x07 ^^^ 0x0B)) ∧
    (let s := demo.setPen 0 { pen0 with ipiPend := 0x80 }
     (s.pen 0).irqLevel ≠ none ∧ (s.pen 0).hold = .none) ∧
    (Pen.codeWord { pen0 with fbuf := some ⟨8, some (TWord.int 0x04E50800), none⟩ } = some (TWord.int 0x04E50800)) := by
  decide +kernel

/-- A word that is no instruction, a fetch outside the inkwells, and a word with two wrong bits. -/
theorem witness_FetchFaultsComplete :
    (let s := vectored demo [1]
     s.runs 0 = some run0 ∧ (s.pen 0).hold = .none ∧ (s.pen 0).irqLevel = none ∧ s.fetch 0 run0 false = .served s ∧
     (s.pen 0).illegal = some 1 ∧ s.CanEnter 0 run0 1 0x400 (page 1 .loc 0x3E) (page 1 .loc 0x3E)) ∧
    (let s := vectored (unfetched 0x3000) [8]
     (s.pen 0).hold = .none ∧ s.fetch 0 run0 false = .bus 0x0C s ∧
     s.CanEnter 0 run0 8 0x400 (page 1 .loc 0x3E) (page 1 .loc 0x3E)) ∧
    (let o := (vectored ((unfetched 0x80).pokeCode 0x10080 (encodeCode (cpaFold 0x10080) TWord.uninit ^^^ 3)) [8]).fetch 0 run0 false
     let t : State := match o with
       | .bus _ t => t
       | .served t => t
       | .untranslated => demo
     o = .bus 2 t ∧ t.CanEnter 0 run0 8 0x400 (page 1 .loc 0x3E) (page 1 .loc 0x3E)) := by
  unfold State.CanEnter
  decide +kernel

/-- The words of a DUPLEX line on pen 0 from cycle 0, with a recovery column on pen 1 at cycle 500. -/
def line3 : RLine := ⟨0x4001000000000000, 0x1234000500000064, 0x81000000000001F4, 0⟩

/-- `s` with that line as line 3 of the active ruling. -/
def ruled (s : State) : State :=
  let code (i : Nat) (w : Word) : Nat × Code := (i, encodeCode (parityN 18 i) (TWord.raw w))
  { s with
    rul := { s.rul with
      slots := [(0, { st := .active, lines := 4 })]
      store := [code 12 line3.w0, code 13 line3.w1, code 14 line3.w2] } }

/-- Both pens of pair 0 in a JOINED run. -/
def joined : State :=
  demo.setPen 0 { pen0 with run := some { run0 with mode := .joined } } |>.setPen 1
    { pen0 with run := some { run0 with mode := .joined } }

/-- A pen in a state, in a state of the device. -/
def penIn (d : DevState) (st : PenSt) : State := { dev := d, pens := [(0, { st := st })] }

theorem witness_PenFaultsComplete :
    (demo.Reports 0 (.diverge 4) 1 4 ∧ demo.Reports 0 .fabricCrc 3 0 ∧
      State.Reports { dev := .loaded, pens := [(0, { st := .idle, inject := 0x102 })] } 0 (.diverge 4) 6 4) ∧
    ((penIn .loaded .idle).powered = true ∧ ((penIn .loaded .idle).pen 0).ending = none ∧
      (penIn .loaded .idle).hasMirror 0 = false ∧ ((penIn .loaded .idle).pen 0).st = .idle ∧
      ((penIn .loaded .idle).pen 0).run = none ∧ (penIn .loaded .idle).dev ≠ .run) ∧
    (let s := { ruled demo with folio := { demo.folio with rdCtrl := 0 } }
     s.powered = true ∧ s.hasMirror 0 = false ∧ (s.pen 0).st = .run ∧ (s.pen 0).run = some run0 ∧ (s.pen 0).hold = .none ∧
     s.dev = .run ∧ bitsOf s.folio.rdCtrl 24 4 = 0 ∧ s.line 3 = some line3 ∧ line3.isLig = false ∧
     (s.placeOf 3 line3).recValid = true ∧ s.folioCyc + 14 ≤ (s.placeOf 3 line3).recStart) ∧
    (let s := { joined with folio := { demo.folio with rdCtrl := 0 } }
     (s.pen 0).st = .run ∧ (s.pen 1).st = .run ∧ (s.pen 0).run = some { run0 with mode := .joined } ∧
     (s.pen 1).run = some { run0 with mode := .joined } ∧ (s.pen 0).ending = none ∧ (s.pen 1).ending = none ∧
     (s.pen 0).hold = .none ∧ s.dev = .run ∧ bitsOf s.folio.rdCtrl 24 4 = 0 ∧ s.Reports 0 .comparatorSelf 2 0 ∧
     s.Reports 1 (.diverge 1) 1 1) ∧
    ((penIn .loaded .stopped).dev = .loaded ∧ ((penIn .loaded .stopped).pen 0).st = .stopped) ∧
    ((penIn .loaded .idle).blot.marching = none) ∧
    (let s : State := { dev := .loaded, pens := [(0, { st := .idle, penLock := false })] }
     (s.pen 0).penLock = false ∧ (s.pen 0).st = .idle) ∧
    (let s : State := { dev := .run, pens := [(0, { st := .stopped, penLock := false })] }
     (s.pen 0).penLock = false ∧ (s.pen 0).st ≠ .idle) := by
  refine ⟨⟨?_, ?_, ?_⟩, by decide +kernel, by decide +kernel, ?_, by decide +kernel⟩ <;>
    simp only [State.Reports] <;> decide +kernel

/-! ### The folio engine -/

/-- At the tick instant of 1 ms, with an INPUT page drafted. -/
def ticking : State :=
  { dev := .run, aon := { time := 1000000 }, folio := { en := true, running := true, counted := true }
    vt := [(5, { valid := true, kind := .input, st := .drafted }), (6, { valid := true })] }

theorem witness_FolioTickCompletes : ticking.tickDue = true ∧ ticking.folio.running = true ∧ ticking.folio.counted = true ∧
    (∀ p, p < 64 → (ticking.pen p).run = none ∧ (ticking.pen p).ending = none) ∧ ticking.huv.waiting = [] ∧
    ticking.hif.qps = [] ∧ ticking.feed.descs = [] ∧ ticking.feed.dropNext = [] ∧ ticking.folio.shedDue = [] ∧
    ticking.folio.swArm = false ∧ ticking.trc = {} ∧ (ticking.vt.map (·.1)).Nodup ∧ (ticking.vslot 5).kind = .input ∧
    (ticking.vslot 5).st = .drafted ∧ (ticking.vslot 6).kind ≠ .input := by decide +kernel

/-- Line 3 at its start, on a pen that is free and on one that is not. -/
def starting (st : PenSt) : State := ruled { penIn .run st with folio := { running := true } }

theorem nothingEnds_of {s : State} (h : (∀ p, p < 64 → (s.pen p).run = none) ∧ s.folio.wins = []) : s.NothingEnds :=
  ⟨fun p r hp _ hr => (by rw [h.1 p hp] at hr; cases hr), fun w hw => (by rw [h.2] at hw; cases hw)⟩

/-- Line 3 before and after the handovers of its start; a recovery run; and a line with a word of two wrong bits. -/
theorem witness_RunsStart :
    ((starting .idle).NothingEnds ∧ (starting .idle).active.lines = 4 ∧
      (∀ j, j < 4 → j ≠ 3 → (starting .idle).startDue j = false ∧ (starting .idle).recoveryDue j = none) ∧
      (starting .idle).line 3 = some line3 ∧ ((starting .idle).lineWords (starting .idle).active 3).all (starting .idle).storeGood =
        true ∧ (starting .idle).startDue 3 = true ∧ (starting .idle).recoveryDue 3 = none ∧
      (starting .idle).startsOn 3 line3 = some 0 ∧ (3, false) ∉ (starting .idle).folio.handed) ∧
    (let s := starting .idle
     let u := (s.boundary.readLine 3).2
     s.Plays 3 line3 u ∧ line3.isLig = false ∧ u.startDue 3 = true ∧ u.penFree (u.placeOf 3 line3).pen = true ∧
     (3, false) ∈ u.folio.handed) ∧
    (let s := ruled { dev := .run, pens := [(1, { st := .idle })], folio := { running := true, armed := [⟨3, 1, 0⟩] } }
     let u := (s.boundary.readLine 3).2
     s.Plays 3 line3 u ∧ s.recoveryDue 3 = some ⟨3, 1, 0⟩ ∧ u.recoveryDue 3 = some ⟨3, 1, 0⟩ ∧
     u.recoveryFree ⟨3, 1, 0⟩ = true ∧ (3, true) ∈ u.folio.handed) ∧
    (let s := starting .idle
     let s : State := { s with rul := { s.rul with store := s.rul.store ++ [(15, encodeCode (parityN 18 15) (TWord.raw 0) ^^^ 3)] } }
     (s.boundary.readLine 3).1 = none ∧ s.startDue 3 = true) := by
  refine ⟨⟨nothingEnds_of (by decide +kernel), by decide +kernel⟩, by unfold State.Plays; decide +kernel,
    by unfold State.Plays; decide +kernel, by decide +kernel⟩

theorem witness_FailedRuns :
    (let s := { demo with cyc := 100000 }
     s.folio.running = true ∧ (s.pen 0).st = .run ∧ (s.pen 0).run = some run0 ∧ run0.winEnd = s.folioCyc ∧
     (s.pen 0).hold = .none ∧ ∀ q, q < 64 → q ≠ 0 → (s.pen q).run = none) ∧
    (let s := starting .stopped
     let u := (s.boundary.readLine 3).2
     s.Plays 3 line3 u ∧ s.startDue 3 = true ∧ u.startDue 3 = true ∧ u.penFree (u.placeOf 3 line3).pen = false ∧
      (u.placeOf 3 line3).recValid = true) ∧
    (let s : State := { starting .stopped with folio := { running := true, place := [⟨3, .ruled, 0, 0, 100, false, 0, 0, false⟩] } }
     let u := (s.boundary.readLine 3).2
     s.Plays 3 line3 u ∧ s.startDue 3 = true ∧ u.startDue 3 = true ∧ u.penFree 0 = false ∧
       (u.placeOf 3 line3).recValid = false) := by
  unfold State.Plays
  decide +kernel

/-- A window line of type `w` with an argument, at cycle 0 for 100 cycles, as line 3 of the active ruling. -/
def windowed (w arg : Nat) : State :=
  let code (i : Nat) (w : Word) : Nat × Code := (i, encodeCode (parityN 18 i) (TWord.raw w))
  { demo with rul := { demo.rul with
      slots := [(0, { st := .active, lines := 4 })]
      store := [code 12 (BitVec.ofNat 64 (2 ^ 63 + w * 2 ^ 58 + 2 ^ 48)), code 13 (BitVec.ofNat 64 (arg * 2 ^ 32 + 100))] } }

/-- A line of each kind of window, the same with a word of two wrong bits, and a window at its end. -/
theorem witness_WindowsComplete :
    (∀ w ∈ [1, 4, 5],
      let s := windowed w 3
      let x := s.boundary.readLine 3
      x.1 = s.line 3 ∧ (s.line 3).map RLine.wtype = some w ∧ s.openDue 3 = true ∧ x.2.openDue 3 = true) ∧
    (let s := windowed 1 3
     let s : State := { s with rul := { s.rul with store := s.rul.store ++ [(15, encodeCode (parityN 18 15) (TWord.raw 0) ^^^ 3)] } }
     (s.boundary.readLine 3).1 = none ∧ s.openDue 3 = true) ∧
    (let s : State := { demo with folio := { running := true, wins := [⟨3, 1, 1, 7, 0, 0⟩] } }
     s.folio.wins.find? (fun w => w.line = 3 ∧ w.start + w.len = s.folioCyc) = some ⟨3, 1, 1, 7, 0, 0⟩ ∧
     s.killLate.folio.wins.contains ⟨3, 1, 1, 7, 0, 0⟩ = true) := by decide +kernel

/-- Channel set 7 has one QUEUE_IN channel of queue 9 for 16 words of slot 5, in an open FETCH window; the queue has one
entry. -/
def fetching (c : Queue) : State :=
  { demo with
    folio := { running := true, wins := [⟨3, 1, 1, 7, 0, 1000⟩] }
    vt := [(5, { frame0 := 17, frame1 := 18, valid := true, part := 1, kind := .input, st := .drafted })]
    hif := { up := true, busMaster := true, qps := [(9, c)] }
    feed := { sets := [(7, { part := 1, count := 1, valid := true })]
              descs := [(0, { words := [0x51802, 0x100000, 9, 0, 0, 0, 0, 0] })] } }

def inQueue : Queue := { w0 := 0x10004, w1 := 0x20004, w2 := 0x101, dTail := 1 }
def inMessage : QMsg := { desc := 7, reading := true }

/-- A message to fetch; one whose first entry has been asked for: a failed read, a POINTER entry, and one of 8 bytes. -/
theorem witness_FetchAndCompletions :
    (let s := fetching inQueue
     s.dev = .run ∧ s.linkOk = true ∧ s.fetchSets.find? (fun k => (s.setQueues k).contains 9) = some 7 ∧
     s.fetching 7 = false ∧ s.nextQueue 7 = some 9 ∧ (s.queue 9).dHead < 65536 ∧ (s.queue 9).dTail < 65536 ∧ s.grant 9 ≠ 0) ∧
    (let s := fetching { inQueue with msgs := [inMessage] }
     (s.queue 9).msgs = [inMessage] ∧ inMessage.reading = true ∧ (s.queue 9).toHost = false ∧ inMessage.ptr = none ∧
     inMessage.bad = 0 ∧ inMessage.posted = 0 ∧
     (let ws : List Word := [0x1C0, 0x8000, 128, 0, 0, 0, 0, 0]
      ws.length = 8 ∧ pointerOk ws = true ∧ bitAt (ws.getD 0 0) 8 = true ∧
      inMessage.len + 128 ≤ (s.inPlaces 7 9).length ∧ s.fetchSets.contains 7 = true ∧ s.linkOk = true ∧
      s.grant 9 ≠ 0) ∧
     (let ws : List Word := [0xC8, 0x1234, 0, 0, 0, 0, 0, 0]
      let h := ws.getD 0 0
      let v := s.vslot 5
      let cpa := v.draftFrame * 4096 + 8 * 0
      bitAt h 8 = false ∧ bitAt h 6 = true ∧ bitAt h 7 = true ∧ bitsOf h 0 6 = 8 ∧ bitsOf h 9 7 = 0 ∧ bitsOf h 32 31 = 0 ∧
      ((s.inPlaces 7 9).drop inMessage.len).take 8 = (List.range 8).map (fun b => (5, 8 * 0 + b)) ∧ v.st = .drafted ∧
      s.draftReady 5 = true ∧ s.bankReady cpa = true ∧ s.mirrored cpa = false)) ∧
    (let s := fetching { inQueue with msgs := [inMessage] }
     let t : State := { s with hif := { s.hif with ecrcChk := true } }
     t.hif.ecrcChk = true ∧ (t.queue 9).msgs = [inMessage]) := by decide +kernel

/-- A gathered message of one word for a queue to the host, and a moderation count that has been reached. -/
theorem witness_PostAndInterruptComplete :
    (let m : QMsg := { desc := 1, elems := 1, frame := 17, slot := 5 }
     let s : State := { demo with
       mem := [(0x11000 / 8, encodeCode (cpaFold 0x11000) (TWord.int 0x1122334455667788))]
       vt := [(5, { frame0 := 17, frame1 := 18, valid := true, part := 1, kind := .output })]
       hif := { up := true, busMaster := true, qps := [(9, { inQueue with w2 := 3, dTail := 0, msgs := [m] })] }
       feed := { descs := [(1, { words := [0x51801, 0x10000, 9, 0, 0, 0, 0, 0] })] } }
     let c := s.queue 9
     s.dev = .run ∧ s.linkOk = true ∧ c.en = true ∧ c.toHost = true ∧ c.msgs = [m] ∧ m.bytes = none ∧ m.bad = 0 ∧ m.posted = 0 ∧
     s.overtaken m = false ∧ State.gatherMsgs [] s = ([], s) ∧
     64 ≤ (s.modQueue 9 (fun c => { c with msgs := [{ m with bytes := some [0x88, 0x77, 0x66, 0x55, 0x44, 0x33, 0x22, 0x11], len := 8 }] })).grant 9 ∧
     s.gather (s.desc 1) (17 * 4096) 1 =
       (.ok [0x88, 0x77, 0x66, 0x55, 0x44, 0x33, 0x22, 0x11] [TWord.int 0x1122334455667788], s) ∧
     c.dTail < 65536 ∧ c.dUsed < c.dSize) ∧
    (let s : State := { demo with hif := { qps := [(9, { w2 := 0x8000000, mod := 1 })] } }
     (s.queue 9).vecEn = true ∧ 0 < (s.queue 9).mod ∧ max 1 (s.queue 9).modCount ≤ (s.queue 9).mod) := by decide +kernel

/-- A MARCH window over reservoir 0, a MARCH command at the last row and before it, a stopped pen that is handed over with
a free port and without one, a pen under test, and one that is being resilvered. -/
theorem witness_MarchAndSelftests :
    (let s : State := { demo with folio := { running := true, wins := [⟨3, 4, 1, 1, 0, 1000⟩] } }
     s.blotOn = true ∧ s.blot.ports.length < 2 ∧ s.bankReady (rsvBase 0) = true ∧
     (∃ w ∈ s.folio.wins, w.wtype = 4 ∧ w.arg.testBit 0 = true) ∧ 0 ∉ s.blot.stopped ∧ 2047 ∉ s.blot.skipSeen ∧
     ∀ j, j < 64 → ∃ w, s.peek (0x10000000 + 512 * 2047 + 8 * j) = .clean w) ∧
    (∀ row ∈ [510, 511],
      let s : State := { dev := .loaded, pens := [(0, { filling0 := false })], blot := { marching := some ⟨2, 0, 0, row⟩ } }
      s.blotOn = true ∧ s.blot.ports.length < 2 ∧ s.bankReady 0 = true ∧ s.blot.marching = some ⟨2, 0, 0, row⟩ ∧
      s.ligatureWindow 0 = false ∧ (s.pen 0).noBorrow = false ∧ ∀ j, j < 64 → ∃ w, s.peek (512 * row + 8 * j) = .clean w) ∧
    (∀ ports ∈ [[1], [1, 2]],
      let s : State := { dev := .run, pens := [(0, { st := .stopped, handAt := some 0 })], blot := { ports := ports } }
      (s.pen 0).handAt = some 0 ∧ 0 ≤ s.cyc ∧ (s.pen 0).st = .stopped ∧ s.blotOn = true ∧ s.blot.waitQ = []) ∧
    (let s : State := { dev := .run, folio := { running := true }, pens := [(0, { st := .test })], blot := { ports := [0] } }
     (s.pen 0).st = .test ∧ (s.pen 0).passAt = none ∧ (s.pen 0).stale = false ∧ s.folio.running = true ∧
     (s.pen 0).run = none ∧ (s.pen 0).ending = none ∧ s.hasMirror 0 = false ∧ s.blot.marching = none) ∧
    (let s : State := { dev := .run, folio := { running := true }, pens := [(0, { st := .resilver, mirror0 := 2 })] }
     (s.pen 0).st = .resilver ∧ (s.pen 0).passAt = none ∧ s.blotOn = true ∧ s.ligatureWindow 1 = false ∧ s.copyValid 1 = true ∧
     s.folio.running = true ∧ s.mirrorPages 0 = [1] ∧
     ∀ g ∈ s.mirrorPages 0, ∀ i, i < 512 → ∃ w, s.peek (1 * 0x80000 + 4096 * g + 8 * i) = .clean w) := by
  refine ⟨⟨by decide +kernel, by decide +kernel, by decide +kernel, by decide +kernel, by decide +kernel, by decide +kernel,
    fun j _ => ⟨_, peek_empty rfl _⟩⟩, fun row hr => ⟨?_, ?_, ?_, rfl, ?_, ?_,
    fun j _ => ⟨_, peek_empty rfl _⟩⟩, by decide +kernel, by decide +kernel, by decide +kernel, by decide +kernel,
    by decide +kernel, by decide +kernel, by decide +kernel, by decide +kernel, by decide +kernel,
    fun g _ i _ => ⟨_, peek_empty rfl _⟩⟩ <;>
  · revert row; decide +kernel

/-- A word of reservoir 0 and a word of the ruling store with one wrong bit; a running pass; an armed injection; banks that
fill. -/
theorem witness_ScrubsAndFills :
    (let s : State := { demo with
       mem := [(0x10000000 / 8, encodeCode (cpaFold 0x10000000) (TWord.raw 5) ^^^ 1)], blot := { pass := some { base := 0x10000000, len := 1, mb := none } } }
     s.bankReady 0x10000000 = true ∧ s.bankReady (s.readAt 0x10000000) = true ∧ 0 < s.scrubPorts ∧ isInk 0x10000000 = false ∧
     s.peek (s.readAt 0x10000000) = .corrected (TWord.raw 5) 7 ∧
     s.blot.ml.length < 64) ∧
    (let s : State := { demo with rul := { store := [(147455, encodeCode (parityN 18 147455) (TWord.raw 5) ^^^ 1)] } }
     s.blotOn = true ∧ s.dev = .run ∧ s.blot.ml.length < 64 ∧
     judge (parityN 18 147455) (Table.get fillStore s.rul.store 147455) = .corrected (TWord.raw 5) 7) ∧
    (let s : State := { dev := .loaded, blot := { pass := some { base := 0x10000000, len := 3, mb := none } } }
     s.huvasUp = true ∧ s.blotOn = true ∧ s.blot.pass = some { base := 0x10000000, len := 3, mb := none } ∧
     { s with blot := {} }.blot.pass = none ∧ ∀ j, j < 3 → ∃ w, s.peek (s.readAt (0x10000000 + 8 * j)) = .clean w) ∧
    (let s : State := { demo with
       rsv := [(0, { filling := false, injFlip1 := 0x10000 })]
       pens := [(0, { filling1 := false, injFlip1 := 0x10000, injAddr := 0x17FFF })] }
     s.huvasUp = true ∧ s.bankArmed (.rsv 0) = true ∧ s.bankReady (bankBase (.rsv 0)) = true ∧ s.bankArmed (.ink 0 1) = true ∧
     s.bankReady (bankBase (.ink 0 1)) = true ∧ bitsOf (s.pen 0).injAddr 0 16 < 32768) ∧
    (let s := { demo.pokeCode 0x10100 (encodeCode (cpaFold 0x10100) TWord.uninit ^^^ 3) with blot := { injected := [0x10100] } }
     0x10100 ∈ s.blot.injected ∧ s.peek 0x10100 = .uncorrectable (0x07 ^^^ 0x0B)) ∧
    (let s : State := { dev := .run, pens := [(0, { st := .idle })] }
     s.rsvOn 31 = true ∧ (s.rsvOf 31).filling = true ∧ s.huv.waiting = [] ∧ s.penOn 0 = true ∧ (s.pen 0).st ≠ .off ∧
     (s.pen 0).filling0 = true ∧ (s.pen 0).filling1 = true) := by
  refine ⟨by decide +kernel, by decide +kernel, ⟨by decide +kernel, by decide +kernel, by decide +kernel, by decide +kernel,
    fun j _ => ⟨_, peek_empty rfl _⟩⟩, by decide +kernel, by decide +kernel, by decide +kernel⟩

theorem witness_RedraftKeepsRuledPlaces :
    let s := { starting .idle with folio := { running := true, rd := .computing ⟨0, 0, []⟩ } }
    s.folio.rd = .computing ⟨0, 0, []⟩ ∧ (s.imageOf 0).lines.length = 4 ∧ (3, line3) ∈ (s.imageOf 0).lines ∧
    ∀ e ∈ (s.imageOf 0).lines, e.2.isDuplex = true → (s.pen e.2.pen).st ≠ .fenced := by decide +kernel

/-- With a time source, at a counter time. -/
def timed (src time : Nat) (f : Folio) : State :=
  { dev := .run, aon := { time := BitVec.ofNat 64 time }, folio := { f with tsrc := src } }

/-- An edge at the limits of the half second; TICK_IN's edge in its window, at its first instant, second and early; a missed
one; a Sync; path delay frames; the losses of the sources. -/
theorem witness_TimeSourcesComplete :
    (let s := timed 2 1500000000 {}
     s.powered = true ∧ s.folio.tsrc = 2 ∧ (timed 2 1499999999 {}).aon.time.toNat < 1000000000 + 500000000 ∧
     2000000000 ≤ s.aon.time.toNat + 500000000 ∧ s.aon.time.toNat < 2000000000 + 500000000) ∧
    (let f : Folio := { en := true, running := true }
     let s := timed 3 999750 f
     let e := s.expectedTick
     s.powered = true ∧ s.folio.en = true ∧ e = 1000000 ∧ s.folio.edgeAt.isSome = false ∧
     ¬(s.aon.time.toNat < s.folio.tickTime.toNat + s.folio.tolNs) ∧ e ≤ s.aon.time.toNat + s.folio.tolNs ∧
     s.aon.time.toNat < e + s.folio.tolNs ∧ (timed 3 249 f).folio.running = true ∧
     (timed 3 249 f).aon.time.toNat < s.folio.tickTime.toNat + s.folio.tolNs ∧
     ¬(e ≤ (timed 3 999749 f).aon.time.toNat + s.folio.tolNs) ∧ (timed 3 1000250 f).folio.edgeAt = none ∧
     e + s.folio.tolNs ≤ (timed 3 1000250 f).aon.time.toNat) ∧
    (let s := timed 3 5 {}
     s.powered = true ∧ s.folio.tsrc = 3 ∧ s.folio.en = false) ∧
    (let s : State := { timed 1 5 {} with macs := [(0, { ctrl := 1, ptpCfg := 0x3010001, link := true, reqOut := true })] }
     s.ptpUp 0 = true ∧ s.folio.gptpPort = 0 ∧ s.pdelayUp 0 = true ∧ bitsOf (s.mac 0).ptpCfg 24 4 = 3 ∧
     (s.mac 0).reqAt ≤ s.aon.time.toNat ∧ (s.mac 0).reqOut = true) ∧
    (let s : State := { timed 0 5 {} with macs := [(0, { ctrl := 1, ptpCfg := 0x3010001, link := true })] }
     s.ptpUp 0 = true ∧ s.folio.tsrc ≠ 1 ∧ s.pdelayUp 0 = true ∧ (s.mac 0).reqOut = false) ∧
    (let s (time : Nat) : State := { timed 1 time {} with macs := [(0, { link := true })] }
     let until_ := max (s 0).folio.ppsAt ((s 0).mac 0).syncAt + 3 * logNs ((s 0).mac 0).syncLog
     (s 5).folio.gptpPort = 0 ∧ ((s 5).mac 0).link = true ∧ until_ = 375000000 ∧ (s 374999999).aon.time.toNat < until_ ∧
     until_ ≤ (s 375000000).aon.time.toNat) ∧
    ((timed 1 5 {}).powered = true ∧ (timed 1 5 {}).folio.holdover = false ∧ ((timed 1 5 {}).mac 0).link = false ∧
      (timed 2 2000000000 {}).folio.ppsAt + 2000000000 ≤ (timed 2 2000000000 {}).aon.time.toNat ∧
      0 < (timed 3 5 { consecMiss := 8 }).folio.consecMiss ∧
      (timed 3 5 { consecMiss := 8 }).folio.missMax ≤ (timed 3 5 { consecMiss := 8 }).folio.consecMiss) := by decide +kernel

/-! ### The Huvas -/

/-- The Huvas in a state of its own, in LOADED. -/
def loadedHuv (h : Huv) : State := { dev := .loaded, huv := h }

theorem witness_HuvasVoteAndReactions :
    (let s := loadedHuv { checked := true }
     s.huvasUp = true ∧ s.huv.checked = true ∧ s.huv.nibIn = 7) ∧
    (let s := loadedHuv { checked := true, nibIn := 5 }
     s.huvasUp = true ∧ s.huv.nibIn ≠ 7 ∧ ((1 : Nat) < 3 ∧ s.huv.nibIn.getLsbD 1 = false) ∧
     (∀ m, m < 3 → s.huv.nibIn.getLsbD m = false → m = 1) ∧ s.huv.nibFailed = false ∧ s.huv.reintEn = true ∧
     s.huv.reintCnt < s.huv.reintMax ∧ s.huv.nibReady = false) ∧
    (let s := loadedHuv { checked := true, nibIn := 5, nibReady := true }
     s.huv.nibReady = true ∧ s.huv.fw = [] ∧ s.huv.nibFailed = false) ∧
    (loadedHuv { fw := [.msix1] }).huv.fw = .msix1 :: [] ∧
    ((loadedHuv { fw := [.fenceRsv 31] }).huv.fw = .fenceRsv 31 :: [] ∧ 31 / 2 = (15 : Fin 16).val) ∧
    (let s := loadedHuv { fw := [.endCmd 2 2], mb := [(2, { st := .running })] }
     s.huvasUp = true ∧ s.huv.fw = .endCmd 2 2 :: [] ∧ (s.mbox 2).st = .running ∧ (s.mbox 3).st ≠ .running ∧
     ({ s with huv := { s.huv with fw := [.endCmd 3 2] } } : State).huv.fw = .endCmd 3 2 :: []) := by
  decide +kernel

/-- `s` with command `op` and its arguments at the front, in mailbox 2. -/
def mail (s : State) (op : Nat) (args : List Word) : State :=
  { s with
    huv := { s.huv with
      checked := true, foreQ := [2]
      mb := [(2, { st := .queued, curOp := op, latch := args.zipIdx.map (fun e => (e.2, e.1)) })] }
    hif := { s.hif with up := true, busMaster := true, memSpace := true } }

/-- That mailbox in another state, while a march test runs for it. -/
def boxed (st : MbSt) (lost : Bool) : State :=
  { dev := .loaded, huv := { lost := lost, mb := [(2, { st := st })] }, hif := { up := true, memSpace := true }
    blot := { marching := some ⟨2, 0, 0, 0⟩ } }

theorem witness_MailboxSubmission : (boxed .idle false).barOpen = true ∧ ((boxed .idle false).mbox 2).st = .idle ∧
    ((boxed .idle true).barOpen = true ∧ (boxed .idle true).huv.lost = true) ∧
    ((boxed .queued false).barOpen = true ∧ ((boxed .queued false).mbox 2).st = .queued) ∧
    ((boxed .done false).mbox 2).st = .done ∧ (0x61 : BitVec 16).toNat ∈ opcodes ∧ (0 : BitVec 16).toNat ∉ opcodes ∧
    (((boxed .running false).mbox 2).st = .running ∧ (boxed .running false).blot.pass = none ∧
      (boxed .running false).blot.marching = some ⟨2, 0, 0, 0⟩) ∧
    (let s (p : Option (Nat × Nat)) : State := { boxed .running false with
       blot := {}, huv := { prog := p, mb := [(2, { st := .running })] } }
     (s none).blot.marching = none ∧ ((s none).mbox 2).st = .running ∧ (s (some (2, 5))).huv.prog = some (2, 5) ∧
     (s none).huv.prog = none) := by decide +kernel

/-- A class with reaction LOG and IRQ, without and just below its threshold. -/
theorem witness_RubricLogs :
    (∀ c ∈ [({ entry := 0x9 } : RbClass), { entry := 0x309, win := 1 }],
      let s : State := { demo with huv := { rb := [(0x3F, c)] } }
      s.dev = .run ∧ s.huv.eqOver = false ∧ s.huv.eq.length < 511 ∧ s.folio.actSlot < 16 ∧
      bitsOf (s.rbClass 0x3F).entry 0 3 = 1 ∧
      (bitsOf (s.rbClass 0x3F).entry 8 8 = 0 ∨ (s.rbClass 0x3F).win + 1 < bitsOf (s.rbClass 0x3F).entry 8 8)) ∧
    (let e : Event := { cls := 0x3F, utype := 15, unit := 255 }
     e.cls ≠ 0x38 ∧ e.cls ≠ 0x81 ∧ e.cls < 256 ∧ e.utype < 16 ∧ e.unit < 256 ∧ e.slot = none) := by decide +kernel

theorem witness_CommandsNeedTheirState :
    (commandOf (.partSetup 2)).isSome = true ∧ (mail demo 0x23 []).cmdDue 2 0x23 = true ∧ permits 0x23 .run = false := by
  decide +kernel

/-- LOADED, with the banks of pen 0 and reservoir 0 filled. -/
def filled : State :=
  { dev := .loaded, pens := [(0, { st := .idle, filling0 := false, filling1 := false })], rsv := [(0, { filling := false })] }

/-- `s` with the command of that mailbox running, `n` steps done. -/
def held (s : State) (n : Nat) : State :=
  { s with huv := { s.huv with prog := some (2, n), mb := s.huv.mb.map (fun e => (e.1, { e.2 with st := .running })) } }

/-- A load of the last word of the inkwells, and of the second of two words after a pause; a read; the queue of events. -/
theorem witness_MemoryCommandsComplete :
    (mail filled 0x01 []).Begins 2 0x01 ∧
    (let s := mail filled 0x20 [0x8000, 8, 0x7FFF8 + 2 ^ 48, 1]
     let a := s.memArgs 2
     s.Works 2 0x20 0 ∧ s.memCheck 2 true = 0 ∧ s.hif.busMaster = true ∧ a.len / 8 = 1 ∧ a.badTag [5] = none ∧
     s.parts = [] ∧ a.places = [(0x7FFF8, 0)] ∧
     ∀ d ∈ s.writeAt 0x7FFF8, s.bankReady d = true ∧ (s.armAt d).isNone = true) ∧
    (let s := held (mail filled 0x20 [0x8000, 16, 0x100 + 2 ^ 48, 1]) 1
     let a := s.memArgs 2
     s.Works 2 0x20 1 ∧ s.memCheck 2 true = 0 ∧ a.len / 8 = 2 ∧ a.places.drop 1 = [(0x108, 1)]) ∧
    (let s := mail filled 0x21 [0x8000, 8, 0x10000000, 0]
     let a := s.memArgs 2
     s.Works 2 0x21 0 ∧ s.memCheck 2 false = 0 ∧ s.hostWritable ∧ a.bases = [0x10000000] ∧ a.words = 1 ∧
     s.bankReady (s.readAt 0x10000000) = true ∧ s.readAt 0x10000000 ∉ s.blot.injected ∧
     s.peek (s.readAt 0x10000000) = .clean TWord.uninit) ∧
    (let s := mail filled 0x53 [0xF00000000000 - 1024, 1]
     s.Begins 2 0x53 ∧ s.Args 2 [0xF00000000000 - 1024, 1] ∧ s.hostWritable) ∧
    (∀ s ∈ [mail filled 0x41 [0x8000, 512], held (mail filled 0x41 [0x8000, 512]) 7],
     (s.Works 2 0x41 0 ∨ s.Works 2 0x41 7) ∧ s.Args 2 [0x8000, BitVec.ofNat 64 512] ∧ s.hostWritable) := by
  unfold State.Begins State.Works State.Args State.hostWritable
  refine ⟨by decide +kernel, by decide +kernel, by decide +kernel, by decide +kernel, by decide +kernel, ?_⟩
  intro s hs
  refine ⟨?_, ?_, ?_⟩ <;> revert s <;> decide +kernel

/-- Tables of partition 1 in pen 0's inkwells that map VA 0x1000 through one stage-1 page and three stage-2 pages to the top
page of bank 0; the words of those pages are given by `word`. -/
def trRecord : List Word := [0x20000, 0x21008, 0, 0, 0x20001, 0x200010001, 0, 0, 0, 0, 0, 0]
def exRecord : List Word := [0, 0x1000, 0, 0]
def tableWords : List (Nat × Word) :=
  [(0x20000, 0x20001), (0x20008, 0x3F0FF), (0x21000, 0x22081), (0x22000, 0x23081), (0x23100, 0x20087), (0x231F8, 0x3F09F)]

/-- LOADED with those words and that record. -/
def mapped : State :=
  { filled.forAll tableWords (fun e t => t.poke e.1 (TWord.raw e.2)) with pt := [(1, trRecord)] }

/-- The pair's domains on, both idle. -/
def pairIdle : State := { dev := .loaded, pens := [(0, { st := .idle }), (1, { st := .idle })] }

theorem witness_SetupCommandsComplete :
    (let s := mail filled 0x40 [0xFF + 1 * 256, 0x8000]
     s.Begins 2 0x40 ∧ s.Args 2 [BitVec.ofNat 64 (0xFF + 1 * 256), 0x8000] ∧ s.hif.busMaster = true ∧
     rubricFault 0xFF [0x100000] = none) ∧
    (let s := mail filled 0x22 [BitVec.ofNat 64 (8191 + 65536), 0x8000]
     s.Begins 2 0x22 ∧ s.Args 2 [BitVec.ofNat 64 (8191 + 1 * 65536), 0x8000] ∧ s.hif.busMaster = true ∧
     vslotRsvd 0x18000010011 18 = false ∧ s.parts = []) ∧
    (let s := mail pairIdle 0x24 [0, 0, 0x8000000000000000]
     s.Begins 2 0x24 ∧ s.Args 2 [BitVec.ofNat 64 0, 0, 0x8000000000000000] ∧ s.penOn 0 = true ∧ s.penOn 1 = true ∧
     s.mem = []) ∧
    (let s := mail pairIdle 0x25 [3, 7, 0x1000]
     s.Begins 2 0x25 ∧ s.Args 2 [3, BitVec.ofNat 64 (7 : Fin 8).val, 0x1000] ∧
     ∀ p, p < 64 → bitAt (3 : Word) p = true → (s.pen p).st = .idle) ∧
    (let s := mail mapped 0x25 [1, 0x108, 0x1000]
     let t := s.forAll [0] (fun p t => t.setLslot p 0 (BitVec.ofNat 64 (1 + 1 * 4 + 1 * 4096)))
     s.Begins 2 0x25 ∧ s.Args 2 [1, 0x108, 0x1000] ∧ bitAt (0x108 : Word) 3 = true ∧ (0x108 : Word) &&& ~~~ 0xFF0F = 0 ∧
     (∀ p, p < 64 → bitAt (1 : Word) p = true → (s.pen p).st = .idle) ∧
     (List.range 64).filter (fun p => bitAt (1 : Word) p) = [0] ∧ bitAt (t.pen 0).lslotStat 8 = false ∧
     (t.pen 0).tlb.length = 1) ∧
    (let s := mail { filled with vt := [(8191, { valid := true, kind := .input })] } 0x26
       [-1, BitVec.ofNat 64 (15 + 8191 * 2 ^ 16 + 2 ^ 31)]
     s.Begins 2 0x26 ∧
     s.Args 2 [-1, BitVec.ofNat 64 ((15 : Fin 16).val + (8191 : Fin 8192).val * 2 ^ 16 + bitN true * 2 ^ 31)] ∧
     (s.vslot 8191).valid = true ∧ (s.vslot 8191).kind = .input) ∧
    (let s := mail filled 0x10 [2, 1000000, 999999, 0x80000, 0x10000000C8]
     s.Begins 2 0x10 ∧ s.timeCheck 2 = 0) ∧
    (let s := mail filled 0x83 [0xA3004031, 0x31]
     s.Begins 2 0x83 ∧ s.Args 2 [0xA3004031, 0x31] ∧ (0xA3004031 : Word) &&& ~~~ 0xFFFFFFF1 = 0 ∧
     (0x31 : Word) &&& ~~~ 0xF1 = 0) := by
  unfold State.Begins State.Args
  decide +kernel

/-- A ruling with one reserved window, resident in slot 4 in a state. -/
def header4 : List Word := [0x156454C52, 1000000, 1, 1006809617] ++ List.replicate 4 0x4040404040404040 ++ List.replicate 56 0
def resident (st : SlotSt) : State :=
  let code (i : Nat) (w : Word) : Nat × Code := (i, encodeCode (parityN 18 i) (TWord.raw w))
  { filled with rul := {
      slots := [(4, { st := st, lines := 1, header := header4 })]
      store := [code 0 0x6000000000000000, code 1 100, code 2 0, code 3 0] } }

/-- Apply a function to a number that is worked out first. -/
def forced (f : Nat → Nat) : Nat → Nat
  | 0 => f 0
  | k + 1 => f (k + 1)

theorem forced_eq (f : Nat → Nat) (n : Nat) : forced f n = f n := by cases n <;> rfl

/-- The CRC fold over words, each step carried out before the next one. -/
def crcForced : List Word → Nat → Nat
  | [], c => c
  | w :: t, c => forced (crcForced t) (crcWordN 8 c w.toNat)

theorem crcForced_eq (l : List Word) (c : Nat) : crcForced l c = l.foldl (fun c w => crcWordN 8 c w.toNat) c := by
  induction l generalizing c with
  | nil => rfl
  | cons w t ih => rw [crcForced, forced_eq, List.foldl_cons, ih]

theorem crcForced_append (a b : List Word) (c : Nat) : crcForced (a ++ b) c = crcForced b (crcForced a c) := by
  rw [crcForced_eq, crcForced_eq, crcForced_eq, List.foldl_append]

/-- Word `i` of that ruling's image as the CRC takes it. -/
def image4 : Image := (mail (resident .loaded) 0x31 [4]).imageOf 4
def word4 (i : Nat) : Word := let w := image4.header.getD i 0; if i = 3 then setBits w 0 32 0 else w

theorem image4_crc :
    crcForced ([0, 1, 2, 3, 4, 5, 6, 7].map word4) 0xFFFFFFFF = 1603704323 ∧
    crcForced ([8, 9, 10, 11, 12, 13, 14, 15].map word4) 1603704323 = 781348364 ∧
    crcForced ([16, 17, 18, 19, 20, 21, 22, 23].map word4) 781348364 = 586953557 ∧
    crcForced ([24, 25, 26, 27, 28, 29, 30, 31].map word4) 586953557 = 519331259 ∧
    crcForced ([32, 33, 34, 35, 36, 37, 38, 39].map word4) 519331259 = 840446380 ∧
    crcForced ([40, 41, 42, 43, 44, 45, 46, 47].map word4) 840446380 = 3369737791 ∧
    crcForced ([48, 49, 50, 51, 52, 53, 54, 55].map word4) 3369737791 = 2457919540 ∧
    crcForced ([56, 57, 58, 59, 60, 61, 62, 63].map word4) 2457919540 = 2258380420 ∧
    crcForced (image4.lines.flatMap (fun e => [e.2.w0, e.2.w1, e.2.w2, e.2.w3])) 2258380420 = 3288157678 := by
  refine ⟨?_, ?_, ?_, ?_, ?_, ?_, ?_, ?_, ?_⟩ <;> decide +kernel

theorem image4_words : imageWords image4 = ([0, 1, 2, 3, 4, 5, 6, 7] ++ ([8, 9, 10, 11, 12, 13, 14, 15] ++
      ([16, 17, 18, 19, 20, 21, 22, 23] ++ ([24, 25, 26, 27, 28, 29, 30, 31] ++ ([32, 33, 34, 35, 36, 37, 38, 39] ++
      ([40, 41, 42, 43, 44, 45, 46, 47] ++ ([48, 49, 50, 51, 52, 53, 54, 55] ++ [56, 57, 58, 59, 60, 61, 62, 63]))))))).map
      word4 ++ image4.lines.flatMap (fun e => [e.2.w0, e.2.w1, e.2.w2, e.2.w3]) := by
  unfold imageWords
  rw [show hoWords image4.hos (image4.header.getD 64 0).toNat = [] from rfl, List.append_nil]
  rfl

theorem badCrc_forced (im : Image) : badCrc im =
    decide ((crcForced (imageWords im) 0xFFFFFFFF ^^^ 0xFFFFFFFF) ≠ bitsOf (im.header.getD 3 0) 0 32) := by
  rw [crcForced_eq]; rfl

theorem image4_good : badCrc image4 = false := by
  obtain ⟨h0, h1, h2, h3, h4, h5, h6, h7, h8⟩ := image4_crc
  rw [badCrc_forced, image4_words]
  simp only [List.map_append, crcForced_append, h0, h1, h2, h3, h4, h5, h6, h7, h8]
  decide +kernel

/-- The reservoir rules find nothing in it. -/
theorem image4_owners : allFailures image4 = [] := by
  obtain ⟨l, hl, hr, hw⟩ : ∃ l, image4.lines = [(0, l)] ∧ l.runs = false ∧ l.isWindow 4 = false :=
    ⟨⟨0x6000000000000000, 100, 0, 0⟩, by decide +kernel, by decide +kernel, by decide +kernel⟩
  simp [allFailures, scenarios, ownerFailures, ownerGo, startTimes, sortBy, hl, hr, hw]

theorem verify_none {s : State} {k : Nat} {im : Image} (hi : s.imageOf k = im) (h : ∀ c ∈ ruleCodes, s.ruleCases im c = [])
    (ho : allFailures im = []) : s.verify k = none := by
  have hf : s.firstFailing im ruleCodes = none := by
    unfold State.firstFailing
    rw [List.findSome?_eq_none_iff]
    intro c hc
    rw [h c hc]
    rfl
  unfold State.verify
  rw [hi]
  dsimp only
  rw [hf, ho]
  rfl

theorem ruleCases_crc (s : State) (im : Image) : s.ruleCases im 0x0102 = one (badCrc im) := rfl

theorem resident_verify : ((mail (resident .loaded) 0x31 [4]).unpaused.storeReads
    (mail (resident .loaded) 0x31 [4] |>.slotOf 4).words).2.verify 4 = none := by
  rw [show ((mail (resident .loaded) 0x31 [4]).unpaused.storeReads
    (mail (resident .loaded) 0x31 [4] |>.slotOf 4).words).2 = mail (resident .loaded) 0x31 [4] by decide +kernel]
  refine verify_none (im := image4) (by unfold image4; rfl) ?_ image4_owners
  intro c hc
  by_cases h : c = 0x0102
  · rw [h, ruleCases_crc, image4_good]
    rfl
  · have : ∀ c ∈ ruleCodes.filter (fun c => c ≠ 0x0102), (mail (resident .loaded) 0x31 [4]).ruleCases image4 c = [] := by
      decide +kernel
    exact this c (List.mem_filter.mpr ⟨hc, by simpa using h⟩)

/-- A load and a check begun and gone on with; a ruling that is accepted, one that is not, and one with an unreadable word; the
limits of the slot and of an armed target. PART_SETUP's check is carried out by `witness_RulingCommandsComplete_partSetup`. -/
theorem witness_RulingCommandsComplete :
    (let ws := header4 ++ [0x6000000000000000, 100, 0, 0]
     let s := mail filled 0x30 [15, 0x8000, 68]
     (s.Works 2 0x30 0 ∧ (held s 60).Works 2 0x30 60) ∧
     s.Args 2 [BitVec.ofNat 64 15, 0x8000, BitVec.ofNat 64 ws.length] ∧ s.hif.busMaster = true ∧
     s.slotHeld 15 = false ∧ (∀ j, j < 16 → j ≠ 15 → (s.slotOf j).st = .empty) ∧ bitsOf (ws.getD 2 0) 0 16 = 1 ∧
     bitsOf (ws.getD 2 0) 16 15 = 0 ∧ ws.length = 64 + 4 * 1 + (0 + 1) / 2) ∧
    (∀ st ∈ [SlotSt.empty, .active, .loaded, .verified],
      let s := mail (resident st) 0x31 [4]
      s.Works 2 0x31 0 ∧ (held s 3).Works 2 0x31 3 ∧ s.Args 2 [BitVec.ofNat 64 4] ∧ (s.slotOf 4).st = st ∧
      ∀ i ∈ (s.slotOf 4).words, s.storeGood i = true) ∧
    (let s := mail (resident .loaded) 0x31 [4]
     let s : State := { s with rul := { s.rul with store := s.rul.store.map (fun e => (e.1, e.2 ^^^ 3)) } }
     ∃ i ∈ (s.slotOf 4).words, s.storeGood i = false) ∧
    (let s := mail { filled with rul := { slots := [(4, { st := .verified, lines := 1 })] } } 0x31 [4]
     ((s.unpaused.storeReads (s.slotOf 4).words).2.verify 4).isSome = true) ∧
    (∀ st ∈ [SlotSt.active, .loaded],
      let s := mail (resident st) 0x32 [4]
      s.Begins 2 0x32 ∧ s.Args 2 [BitVec.ofNat 64 4] ∧ s.slotHeld 4 = decide (st = .active)) ∧
    (let s := mail (resident .verified) 0x33 [4 + 256]
     s.Begins 2 0x33 ∧ s.Args 2 [BitVec.ofNat 64 (4 + bitN true * 256)] ∧ s.folio.en = false ∧ (s.slotOf 4).st = .verified ∧
     s.mayActivate 4 = (0, []) ∧
     ∀ p i, p < 64 → i < 8 → bitAt (Table.get (fun _ => (0 : Word)) (s.pen p).lslot i) 0 = false) ∧
    (let s := mail { resident .verified with dev := .run } 0x34 [4]
     s.Begins 2 0x34 ∧ s.Args 2 [BitVec.ofNat 64 4]) ∧
    (let s := mail { resident .verified with dev := .run } 0x34 [20, 1000000]
     s.Begins 2 0x34 ∧ s.Args 2 [BitVec.ofNat 64 (4 + 16), 1000000] ∧ (s.slotOf 4).st = .verified ∧ s.mayActivate 4 = (0, []) ∧
     s.tickAtOrAfter 1000000 = 1000000 ∧ s.farAhead 1000000 = true) := by
  unfold State.Begins State.Works State.Args
  refine ⟨by decide +kernel, by decide +kernel, by decide +kernel, by decide +kernel, by decide +kernel,
    ⟨by decide +kernel, by decide +kernel, by decide +kernel, by decide +kernel, by decide +kernel, ?_⟩, by decide +kernel,
    by decide +kernel⟩
  intro p i hp _
  have h : ∀ p, p < 64 → ((mail (resident .verified) 0x33 [4 + 256]).pen p).lslot = [] := by decide +kernel
  rw [h p hp]
  show bitAt (0 : Word) 0 = false
  decide

/-- RUN or another state, with the named command, and what each needs. -/
theorem witness_ControlCommandsComplete :
    (∀ d ∈ [DevState.run, .safe], (mail { filled with dev := d } 0x35 []).Begins 2 0x35 ∧ (mail filled 0x35 []).trc.mode = 0) ∧
    (∀ d ∈ [DevState.run, .loaded],
      (mail { filled with dev := d } 0x82 [7]).Begins 2 0x82 ∧ (mail { filled with dev := d } 0x82 [7]).Args 2 [BitVec.ofNat 64 7] ∧
      (mail { filled with dev := d } 0x82 [7]).hif.msixEn = false) ∧
    (∀ d ∈ [DevState.run, .loaded],
      let s := mail { filled with dev := d } 0x90 [BitVec.ofNat 64 (bitsOf Config.fuses.serial 0 32), 0x44424745]
      s.Begins 2 0x90 ∧ s.Args 2 [BitVec.ofNat 64 (bitsOf Config.fuses.serial 0 32), 0x44424745] ∧ s.blot.pass = none ∧
      s.blot.marching = none ∧ s.huv.prog = none) ∧
    (∀ d ∈ [DevState.run, .loaded],
      let s := mail { filled with dev := d } 0x50 [BitVec.ofNat 64 (31 + 64 * 256 + 65536)]
      s.Begins 2 0x50 ∧ s.Args 2 [BitVec.ofNat 64 (31 + 64 * 256 + bitN true * 65536)] ∧
      ({ s with rul := { slots := [(0, { st := .active, header := List.replicate 8 0x4040404040404040 })] } }.handoverUsed 31 =
        false) ∧ s.handoverUsed 31 = true) ∧
    (let s := mail filled 0x51 [0x10000008, 1 + 2 ^ 24]
     s.Begins 2 0x51 ∧ s.Args 2 [BitVec.ofNat 64 0x10000008, BitVec.ofNat 64 (1 + bitN true * 2 ^ 24)] ∧
     (bankOf 0x10000008).isSome = true ∧ bankOf (0x10000008 + 8 * (1 - 1)) = bankOf 0x10000008 ∧ s.blotOn = true ∧
     s.blot.pass = none ∧ s.bankOn 0x10000008 = true) ∧
    (let s := mail filled 0x52 [256]
     s.Begins 2 0x52 ∧ s.Args 2 [BitVec.ofNat 64 ((0 : PenN).val + (1 : Fin 2).val * 256)] ∧ s.blotOn = true ∧
     s.blot.marching = none ∧ (s.pen 0).st ∉ [PenSt.testWait, .test, .resilver] ∧ s.penOn 0 = true) ∧
    (let s := mail (penIn .loaded .stopped) 0x80 [256]
     s.Begins 2 0x80 ∧ s.Args 2 [BitVec.ofNat 64 ((0 : PenN).val + 256)] ∧ s.dev = .loaded ∧ (s.pen 0).st = .stopped ∧
     (s.pen 0).stale = false) ∧
    (let s := mail (penIn .loaded .stopped) 0x80 [512]
     s.Begins 2 0x80 ∧ s.Args 2 [BitVec.ofNat 64 ((0 : PenN).val + 512)]) ∧
    (∀ on ∈ [true, false],
      let s := mail { filled with pwr := { reqOther := if on then 0x7F7FFF else 0x7FFFFF } } 0x81 [0, 0x8000, if on then 1 else 0]
      s.Begins 2 0x81 ∧ s.Args 2 [0, BitVec.ofNat 64 (2 ^ (15 : Fin 16).val), if on = true then 1 else 0] ∧
      (s.dev = .run → on = true) ∧ s.pwr.reqOther &&& ~~~ 0x7FFFFF = 0 ∧
      s.pwr.reqPen &&& s.penMask (fun p => p.st = .fenced) = 0 ∧ bitAt s.pwr.reqOther 15 = !on) := by
  unfold State.Begins State.Args
  refine ⟨by decide +kernel, by decide +kernel, fun d hd => ⟨?_, ?_, rfl, rfl, rfl⟩, by decide +kernel, by decide +kernel,
    by decide +kernel, by decide +kernel, by decide +kernel, by decide +kernel⟩
  · revert d; decide +kernel
  · intro i hi
    match i with
    | 0 => rfl
    | 1 => rfl

/-! The CRC of any words fits 32 bits, so that a digest can stand in an argument. -/

theorem crcBits_lt (n : Nat) {c : Nat} (h : c < 2 ^ 32) : crcBits n c < 2 ^ 32 := by
  induction n generalizing c with
  | zero => exact h
  | succ n ih =>
    rw [crcBits]
    apply ih
    split
    · exact Nat.xor_lt_two_pow (by omega) (by decide)
    · omega

theorem crcWordN_lt (n w : Nat) {c : Nat} (h : c < 2 ^ 32) : crcWordN n c w < 2 ^ 32 := by
  induction n generalizing c w with
  | zero => exact h
  | succ n ih =>
    rw [crcWordN]
    exact ih _ (crcBits_lt 8 (Nat.xor_lt_two_pow h (by omega)))

theorem crc32c_lt (ws : List Word) : crc32c ws < 2 ^ 32 := by
  have : ∀ (l : List Word) (c : Nat), c < 2 ^ 32 → l.foldl (fun c w => crcWordN 8 c w.toNat) c < 2 ^ 32 := by
    intro l
    induction l with
    | nil => exact fun c h => h
    | cons w t ih => exact fun c h => ih _ (crcWordN_lt 8 _ h)
  exact Nat.xor_lt_two_pow (this ws _ (by decide)) (by decide)

theorem cfgDigest_lt (s : State) : s.cfgDigest < 2 ^ 32 := crc32c_lt _

/-! The configuration digest does not depend on the mailboxes and the host interface. -/

theorem s2Visit_congr (s t : State) (hp : ∀ a, t.peekVal a = s.peekVal a) (home l : Nat) :
    ∀ a v, t.s2Visit home l a v = s.s2Visit home l a v := by
  induction l with
  | zero => intro a v; simp only [State.s2Visit]
  | succ l ih => intro a v; simp only [State.s2Visit, hp, ih]

theorem digestSlot_box (s : State) (h i) (k) : ({ s with huv := h, hif := i } : State).digestSlot k = s.digestSlot k := rfl

theorem s2Tables_box (s : State) (h i) (a b) : ({ s with huv := h, hif := i } : State).s2Tables a b = s.s2Tables a b :=
  s2Visit_congr s { s with huv := h, hif := i } (fun _ => rfl) b (2 + s.s2Mode a) (s.s2Root a b) []

theorem digestPart_box (s : State) (h i) (k) : ({ s with huv := h, hif := i } : State).digestPart k = s.digestPart k := by
  generalize ht : ({ s with huv := h, hif := i } : State) = t
  have e1 : t.partOf k = s.partOf k := by subst ht; rfl
  have e2 : t.ptWord k = s.ptWord k := by subst ht; rfl
  have e3 : t.pxWord k = s.pxWord k := by subst ht; rfl
  have e4 : ∀ a, t.peekVal a = s.peekVal a := by subst ht; exact fun _ => rfl
  have e5 : ∀ a b, t.s2Tables a b = s.s2Tables a b := by subst ht; exact s2Tables_box s h i
  unfold State.digestPart
  simp only [e1, e2, e3, e4, e5]

theorem cfgDigest_box (s : State) (h i) : ({ s with huv := h, hif := i } : State).cfgDigest = s.cfgDigest := by
  generalize ht : ({ s with huv := h, hif := i } : State) = t
  have e1 : t.vslot = s.vslot := by subst ht; rfl
  have e2 : t.pen = s.pen := by subst ht; rfl
  have e3 : t.folio = s.folio := by subst ht; rfl
  have e4 : t.trc = s.trc := by subst ht; rfl
  have e5 : t.digestSlot = s.digestSlot := by subst ht; exact funext (digestSlot_box s h i)
  have e6 : t.digestPart = s.digestPart := by subst ht; exact funext (digestPart_box s h i)
  unfold State.cfgDigest
  simp only [e1, e2, e3, e4, e5, e6]

theorem mail_cfgDigest (s : State) (op : Nat) (args : List Word) : (mail s op args).cfgDigest = s.cfgDigest :=
  cfgDigest_box s _ _

theorem low_word {d : Nat} (h : d < 2 ^ 32) : BitVec.ofNat 64 d &&& ~~~ BitVec.ofNat 64 0xFFFFFFFF = 0 := by
  have hd : d % 2 ^ 64 = d := Nat.mod_eq_of_lt (by omega)
  ext i hi
  by_cases hb : i < 32
  · have : (~~~ BitVec.ofNat 64 0xFFFFFFFF)[i] = false := by
      have hk : ∀ k, k < 32 → (~~~ (BitVec.ofNat 64 0xFFFFFFFF)).getLsbD k = false := by decide
      rw [← BitVec.getLsbD_eq_getElem]
      exact hk i hb
    rw [BitVec.getElem_and, this, Bool.and_false]
    simp
  · have : (BitVec.ofNat 64 d)[i] = false := by
      rw [← BitVec.getLsbD_eq_getElem, BitVec.getLsbD_ofNat]
      rw [Nat.testBit_lt_two_pow (Nat.lt_of_lt_of_le h (Nat.pow_le_pow_right (by decide) (by omega))), Bool.and_false]
    rw [BitVec.getElem_and, this, Bool.false_and]
    simp

/-- A pairing with the part's own digest. -/
def pairing : State := mail filled 0x70 [0x6401, 0x1000, 0x9C40, 0x10101, BitVec.ofNat 64 filled.cfgDigest]

theorem pairing_arg4 : pairing.arg 2 4 = BitVec.ofNat 64 filled.cfgDigest := rfl

theorem pairing_passes : pairing.pairCheck 2 = 0 := by
  have h0 : argRsvd pairing 2 0 0x7F07 = false := by decide +kernel
  have h2 : argRsvd pairing 2 2 0xFFFFFFF = false := by decide +kernel
  have h4 : argRsvd pairing 2 4 0xFFFFFFFF = false := by
    unfold argRsvd
    rw [pairing_arg4, low_word (cfgDigest_lt filled)]
    rfl
  have hd : (pairing.arg 2 4).toNat = pairing.cfgDigest := by
    rw [pairing_arg4, pairing, mail_cfgDigest, BitVec.toNat_ofNat]
    have := cfgDigest_lt filled
    exact Nat.mod_eq_of_lt (by omega)
  have hv : pairing.sameVersion (pairing.arg 2 3) = true := by decide +kernel
  have ht : pairing.traceList.length = 0 := by decide +kernel
  have hs : ¬ 100 < pairing.otherShares 16 + bitsOf (pairing.arg 2 0) 8 7 := by decide +kernel
  unfold State.pairCheck
  dsimp only
  rw [h0, h2, h4, hv, ht, if_neg (by decide), if_neg (by decide +kernel), if_neg (by decide +kernel), if_neg (by decide),
    if_neg (by rw [hd]; exact fun h => h rfl), if_neg (by decide +kernel), if_neg hs, if_neg (by decide)]

/-- Queue 16383, a share at its limit, a channel set, the port record, tracing at each mode, and an image for the firmware. -/
theorem witness_QueueTraceAndTestCommands :
    (∀ en ∈ [true, false],
      let w2 : Word := 0x100101 -- vector 16, partition 1
      let s := mail { filled with parts := [(1, { up := true, penMask := 1 })] } 0x60 [16383, 4, 4, w2]
      let s := { s with hif := { s.hif with qps := [(16383, { w2 := if en then 1 else 0 })] } }
      s.Begins 2 0x60 ∧ s.Args 2 [BitVec.ofNat 64 16383, 4, 4, w2] ∧ s.contextRefused 4 4 w2 = false ∧
      (s.queue 16383).en = en ∧ ¬((4 : Word) = (s.queue 16383).w0 ∧ (4 : Word) = (s.queue 16383).w1 ∧
        w2 = setBit (s.queue 16383).w2 0 false)) ∧
    (let s := mail { filled with parts := [(1, { up := true, penMask := 1 })] } 0x60 [16383, 4, 4, 0x100100]
     let s := { s with hif := { s.hif with qps := [(16383, { w0 := 4, w1 := 4, w2 := 0x100101 })] } }
     s.Begins 2 0x60 ∧ s.Args 2 [BitVec.ofNat 64 16383, 4, 4, 0x100100] ∧ s.contextRefused 4 4 0x100100 = false ∧
     (s.queue 16383).en = true ∧ (s.queue 16383).msgs = [] ∧ (0x100100 : Word) = setBit (s.queue 16383).w2 0 false) ∧
    (∀ pct ∈ [100, 101],
      let s := mail filled 0x61 [BitVec.ofNat 64 (15 + pct * 256)]
      s.Begins 2 0x61 ∧ pct < 128 ∧ s.Args 2 [BitVec.ofNat 64 ((15 : Fin 16).val + pct * 256)] ∧
      ((List.range 16).map (fun k => if k = 15 then 0 else Table.get (fun _ => 0) s.hif.share k)).sum = 0) ∧
    (let ws : List Word := [0x10100014353, 0, 0, 0, 0, 0, 0, 0, 0x51802, 0x100000, 9, 0, 0, 0, 0, 0]
     let s := mail { filled with
       parts := [(1, { up := true, penMask := 1 })], vt := [(5, { frame0 := 17, frame1 := 18, valid := true, part := 1, kind := .input })] }
       0x62 [1023, 0x8000, 128]
     s.cmdDue 2 0x62 = true ∧ s.dev = .loaded ∧ s.Args 2 [BitVec.ofNat 64 1023, 0x8000, BitVec.ofNat 64 (8 * ws.length)] ∧
     ws.length % 8 = 0 ∧ 2 ≤ ws.length / 8 ∧ s.hif.busMaster = true ∧ s.otherSets 1023 = [] ∧ s.activated = false ∧
     s.setHeaderBad 1023 ws = false ∧ s.firstBad 1 1023 (descsOf 1 (ws.drop 8)) = none) ∧
    (let ws : List Word := (List.replicate 4 [0, 0, 0x10000, 0x64]).flatten ++ (List.replicate 8 [0x20, 0x1F1F7E00, 0x89091C00]).flatten ++
       [0, 0, 4, 1500, 0, 0, 0, 0]
     let s := mail filled 0x62 [0xFFFF, 0x8000, 384]
     s.cmdDue 2 0x62 = true ∧ s.dev = .loaded ∧ s.Args 2 [0xFFFF, 0x8000, 384] ∧ s.hif.busMaster = true ∧
     portRecordBad ws = false ∧ s.activated = false) ∧
    (pairing.Begins 2 0x70 ∧ pairing.pairCheck 2 = 0) ∧
    (∀ mode ∈ [0, 1], let s := mail { filled with dev := .run, trc := { mode := mode } } 0x71 []
      s.Begins 2 0x71 ∧ s.trc.mode = mode) ∧
    (∀ mode ∈ [0, 2], let s := mail { filled with dev := .run, trc := { mode := mode, st := .current } } 0x72 []
      s.Begins 2 0x72 ∧ s.trc.mode = mode ∧ s.trc.st = .current) ∧
    (let s := mail filled 0x54 [1, BitVec.ofNat 64 (131071 + 75 * 2 ^ 24)]
     s.Begins 2 0x54 ∧ s.Args 2 [BitVec.ofNat 64 (1 + 0 * 256), BitVec.ofNat 64 (131071 + 75 * 2 ^ 24)] ∧
     s.mayInjectRsv 0 = true ∧ s.rsvOn 0 = true ∧ s.blot.ml.length < 64 ∧
     s.peek (0x10000000 + 0 * 0x100000 + 8 * 131071) = .clean TWord.uninit ∧
     bitsOf ((7 : BitVec 8).setWidth 64) 0 3 = 7) ∧
    (let s := mail { filled with dev := .boot } 0x02 [0x8000, 9, 1]
     s.Begins 2 0x02 ∧ s.Args 2 [0x8000, BitVec.ofNat 64 9, BitVec.ofNat 64 1] ∧ s.hif.busMaster = true ∧
     ([1, 2] : List Word).length = (9 + 7) / 8) := by
  unfold State.Begins State.Args
  refine ⟨by decide +kernel, by decide +kernel, by decide +kernel, by decide +kernel, by decide +kernel,
    ⟨by decide +kernel, pairing_passes⟩, by decide +kernel, by decide +kernel, by decide +kernel, by decide +kernel⟩

/-! ### Registers and domains -/

/-- LOADED with every lock open. -/
def unlocked : State :=
  { filled with
    folio := { lock := false }, rul := { lock := false, idx := 32767 }, trc := { lock := false, listIdx := 16383 }
    feed := { lock := false, descIdx := 4095 }, hif := { lock := false, qpIdx := 16383 }, pwr := { lock := false } }

theorem witness_RecordWritesComplete : unlocked.huvasUp = true ∧ (TWord.raw 5).tag ≠ Tag.uninit ∧ (TWord.raw 5).tag ≠ Tag.poison ∧
    unlocked.rul.lock = false ∧ unlocked.rul.idx < 32768 ∧ unlocked.folio.lock = false ∧ unlocked.folio.en = false ∧
    unlocked.trc.lock = false ∧ unlocked.feed.lock = false ∧ unlocked.dev = .loaded ∧ unlocked.hif.lock = false ∧
    (unlocked.queue unlocked.hif.qpIdx).en = false := by decide +kernel

theorem witness_RegisterOperationsComplete :
    (let s := { unlocked with rul := { slots := [(15, { st := .verified })] }, folio := { lock := false, swAt := 1000000 } }
     s.huvasUp = true ∧ bitAt (0xF : Word) 4 = false ∧ bitAt (0x1F : Word) 4 = true ∧
     (s.slotOf (bitsOf (0x1F : Word) 0 4)).st = .verified ∧ s.tickAtOrAfter s.folio.swAt.toNat = s.folio.swAt.toNat ∧
     s.farAhead s.folio.swAt.toNat = true ∧ (s.pen 0).st = .idle ∧ s.dev = .loaded) ∧
    (∀ i, i < 8 → bitAt (Table.get (fun _ => (0 : Word)) (unlocked.pen 0).lslot i) 0 = false) ∧
    State.reset.folio.lock = true ∧ isReg (0x40080FFF : BitVec 48).toNat = true ∧
    ((0x7FFFFE : Word) = setBit unlocked.pwr.reqOther 0 (!bitAt unlocked.pwr.reqOther 0) ∧
      unlocked.pwr.reqOther &&& ~~~ 0x7FFFFF = 0 ∧
      (0xFFFFFFFFFFFFFFFE : Word) = setBit unlocked.pwr.reqPen 0 (!bitAt unlocked.pwr.reqPen 0) ∧
      (0xFFFFFFFFFFFFFFFE : Word) &&& unlocked.penMask (fun x => x.st = .fenced) = 0) ∧
    ((demo.pen 0).st = .run ∧ (demo.pen 0).run = some run0 ∧ run0.linend = none) ∧
    (filled.huvasUp = true ∧ TWord.uninit.tag = Tag.uninit ∧ filled.folio.lock = true) ∧
    ((boxed .idle false).huvasUp = true ∧ (boxed .idle false).barOpen = true ∧ bitAt (0x100000001 : Word) 32 = true) := by
  decide +kernel

/-- Every kind of domain, on and off. -/
theorem witness_DomainSwitchesComplete :
    (∀ e ∈ [(Domain.rsvPair 15, true), (.rsvPair 15, false), (.security, true), (.security, false), (.blotter, true),
        (.blotter, false), (.mac 3, true), (.mac 3, false), (.canGpio, true), (.canGpio, false), (.pen 0, true), (.pen 0, false)],
      let s : State := { pairIdle with pwr := {
        queue := [e], otherOn := if e.2 then 0 else 0xFFFFFF, penOn := if e.2 then 0 else BitVec.ofNat 64 (2 ^ 64 - 1) } }
      s.powered = true ∧ s.pwr.queue = e :: [] ∧ s.huv.waiting = [] ∧ s.domainOn e.1 ≠ e.2 ∧ s.blot.pass = none ∧
      s.blot.marching = none ∧ (∀ p, p < 64 → (s.pen p).st ≠ .test ∧ (s.pen p).st ≠ .testWait) ∧ (s.mac 3).link = false ∧
      (s.mac 3).txq = [] ∧ s.feed.portSet = false ∧ (s.pen 0).st = .idle ∧ (s.pen 0).run = none ∧ (s.pen 0).ending = none ∧
      s.hasMirror 0 = false) ∧
    (let s : State := { pairIdle with pwr := { queue := [(.security, true)] } }
     s.pwr.queue = (.security, true) :: [] ∧ s.domainOn .security = true) ∧
    (let s : State := { penIn .loaded .fenced with pwr := { queue := [(.pen 0, true)], penOn := 0 } }
     s.domainOn (.pen 0) = false ∧ (s.pen 0).st = .fenced) ∧
    (∀ e ∈ [(Domain.rsvPair 0, 0x10000008), (.pen 0, 0x40000)],
      let s : State := { pairIdle with
        blot := { pass := some { base := e.2, len := 4, mb := some 2 } }
        pwr := { queue := [(e.1, false)], otherOn := 0xFFFFFF, penOn := BitVec.ofNat 64 (2 ^ 64 - 1) } }
      s.blot.pass.any (fun p => inDomain p.base e.1) = true ∧ s.domainOn e.1 = true) := by decide +kernel

/-! ### The host -/

/-- RUN with the link up and open to the host. -/
def hosted (h : Hif) : State :=
  { dev := .run, huv := { checked := true }, hif := { h with up := true, busMaster := true, memSpace := true } }

/-- A FROM_HOST queue whose indices wrap, and a TO_HOST queue. -/
def fromQ (en : Bool) : Queue :=
  { w0 := 4, w1 := 4, w2 := if en then 1 else 0, dHead := 65530, dTail := 65535, sHead := 65530, sTail := 65532 }
def toQ : Queue := { w0 := 4, w1 := 4, w2 := 3, dHead := 65530, dTail := 2 }

/-- Indices at and one past their limits, at queues 0 and 16383; words beyond the mailboxes; the last argument and result words;
the last vector, pending. -/
theorem witness_HostRequestsComplete :
    (∀ e ∈ [(fromQ true, false, 10, true), (fromQ true, false, 65530, true), (fromQ true, false, 11, false),
        (fromQ true, false, 65529, false), (fromQ true, true, 65516, true), (fromQ true, true, 65532, true),
        (fromQ true, true, 65515, false), (toQ, false, 2, true), (toQ, false, 65522, true), (toQ, false, 65521, false),
        (toQ, false, 3, false),
        (fromQ false, false, 10, true)], ∀ k ∈ [0, 16383],
      let s := hosted { qps := [(k, e.1)] }
      let w : Word := BitVec.ofNat 64 (k + bitN e.2.1 * 2 ^ 14 + e.2.2.1 * 2 ^ 16)
      let n := bitsOf w 0 14
      let q := s.queue n
      let idx := bitsOf w 16 16
      s.barOpen = true ∧ n = k ∧ q = e.1 ∧ bitAt w 14 = e.2.1 ∧ idx = e.2.2.1 ∧
      ((if bitAt w 14 = true then (q.sTail + 65536 - idx) % 65536 ≤ q.sSize
        else if q.toHost = true then (q.dTail + 65536 - idx) % 65536 ≤ q.dSize
        else (idx + 65536 - q.dHead) % 65536 ≤ q.dSize) ↔ e.2.2.2 = true)) ∧
    ((hosted { ecrcChk := true }).barOpen = true ∧ (hosted { ecrcChk := true }).hif.ecrcChk = true ∧
      0x2000 ≤ (0x2000 : BitVec 17).toNat ∧ (0x3FF8 : BitVec 17).toNat < 0x4000) ∧
    (∀ m, m < 16 → ((hosted {}).mbox m).taken = false) ∧
    (let s := hosted { msix := [(2047, { addr := 0xEFFFFFFFFFFC, pend := true })], msixEn := true }
     s.barOpen = true ∧ (s.msixOf 2047).addr.toNat < 0xF00000000000 ∧ (s.msixOf 2047).pend = true ∧ s.hif.msixEn = true ∧
     s.hif.funcMask = false ∧ s.linkOk = true) := by decide +kernel

theorem witness_HostRequestsComplete_vectors (j : Nat) (h : j ≠ 2047) :
    ((hosted { msix := [(2047, { addr := 0xEFFFFFFFFFFC, pend := true })], msixEn := true }).msixOf j).pend = false := by
  simp [State.msixOf, hosted, Table.get, h]

/-- Every speed and width at its ends; queues with messages in both directions; both power states; each stream; the sessions. -/
theorem witness_LinkAndSecurityComplete :
    (let s : State := { dev := .run }
     s.powered = true ∧ s.pcieOn = true ∧ s.hif.up = false ∧ 1 ≤ (6 : BitVec 3).toNat ∧ (6 : BitVec 3).toNat ≤ 6 ∧
     (16 : BitVec 5).toNat ∈ [1, 2, 4, 8, 16]) ∧
    (∀ d ∈ [DevState.run, DevState.debug, DevState.loaded], ∀ d3 ∈ [true, false],
      let s : State := { hosted { d3 := d3, qps := [(3, { fromQ true with msgs := [{ pages := [7] }] })] } with dev := d }
      s.powered = true ∧ s.hif.up = true ∧ s.released = true ∧ s.hif.d3 = d3 ∧ (s.queue 3).toHost = false ∧
      { pages := [7] } ∈ (s.queue 3).msgs) ∧
    (let s := hosted { ide := [(3, { enabled := true, staged := some true, go := true })] }
     s.powered = true ∧ s.hif.up = true ∧ s.secOn = true ∧ (s.ideOf 3).enabled = true ∧ (s.ideOf 3).go = true ∧
     (s.ideOf 3).staged = some true) ∧
    (∀ n ∈ [0, 1, 2], let s := hosted { session := n }
      s.powered = true ∧ s.hif.up = true ∧ s.secOn = true ∧ s.dev ≠ .fill ∧ s.huv.checked = true ∧ s.hif.session = n ∧
      s.breakWindow = s) ∧
    (0 : BitVec 8).toNat ∉ spdmCodes ∧ 4 ≤ (4 : BitVec 8).toNat := by decide +kernel

theorem witness_LinkAndSecurityComplete_vectors (v : Nat) : ((hosted {}).msixOf v).pend = false := rfl

/-! ### Tracing records -/

theorem map_getD (pre l : List Word) :
    (upTo l.length).map (fun i => (pre ++ l).getD (pre.length + i) 0) = l := by
  apply List.ext_getElem
  · simp [upTo]
  · intro i h1 h2
    simp [upTo, h2]

theorem map_getD_head (l post : List Word) : (upTo l.length).map (fun i => (l ++ post).getD i 0) = l := by
  apply List.ext_getElem
  · simp [upTo]
  · intro i h1 h2
    simp [upTo, List.getElem?_append_left h2, List.getElem?_eq_getElem h2]

/-- A word that holds `a` in its low 32 bits and `b` above. -/
theorem pair_high {a b : Nat} (ha : a < 2 ^ 32) (hb : b < 2 ^ 32) : bitsOf (BitVec.ofNat 64 (a + b * 2 ^ 32)) 32 32 = b := by
  unfold bitsOf
  rw [BitVec.toNat_ofNat, Nat.mod_eq_of_lt (by omega)]
  omega

theorem low_bits {a : Nat} (ha : a < 2 ^ 32) : bitsOf (BitVec.ofNat 64 a) 0 32 = a := by
  unfold bitsOf
  rw [BitVec.toNat_ofNat, Nat.mod_eq_of_lt (by omega)]
  omega

/-- A record with the checks that a sender computes. -/
def mkRec (s : State) (type slot w3 w4 w6 : Nat) (data : List Word) : List Word :=
  recHeader type s.trc.rxSeq 9 slot false s.cfgDigest w3 w4 (crc32c data) w6 ++ data

theorem word0_fields {type seq : Nat} (ht : type < 256) (hq : seq < 2 ^ 32) :
    let w := BitVec.ofNat 64 (0x5452 + type * 2 ^ 16 + 2 ^ 24 + seq % 2 ^ 32 * 2 ^ 32)
    bitsOf w 0 16 = 0x5452 ∧ bitsOf w 24 8 = 1 ∧ bitsOf w 16 8 = type ∧ bitsOf w 32 32 = seq := by
  intro w
  have : w.toNat = 0x5452 + type * 2 ^ 16 + 2 ^ 24 + seq % 2 ^ 32 * 2 ^ 32 := by
    rw [BitVec.toNat_ofNat, Nat.mod_eq_of_lt (by omega)]
  unfold bitsOf
  rw [this]
  omega

theorem header_ok (l data : List Word) (type : Nat) (hl : l.length = 31) (hc : crc32c l < 2 ^ 32)
    (h0 : bitsOf (l.getD 0 0) 0 16 = 0x5452) (h1 : bitsOf (l.getD 0 0) 24 8 = 1) (h2 : bitsOf (l.getD 0 0) 16 8 = type) :
    headerOk type (l ++ [BitVec.ofNat 64 (crc32c l)] ++ data) = true := by
  have e : ∀ i, i < 31 → (l ++ [BitVec.ofNat 64 (crc32c l)] ++ data).getD i 0 = l.getD i 0 := by
    intro i hi
    simp [List.getElem?_append_left, hl, hi, List.append_assoc]
  have e31 : (l ++ [BitVec.ofNat 64 (crc32c l)] ++ data).getD 31 0 = BitVec.ofNat 64 (crc32c l) := by
    simp [hl, List.append_assoc]
  have em := map_getD_head l ([BitVec.ofNat 64 (crc32c l)] ++ data)
  rw [hl] at em
  unfold headerOk rawType
  rw [e 0 (by decide), e31, h0, h1, h2, List.append_assoc, em, BitVec.toNat_ofNat, Nat.mod_eq_of_lt (by omega)]
  simp

theorem mkRec_accepted (s : State) (type slot w3 w4 w6 : Nat) (data : List Word)
    (hn : s.trc.send = none) (hp : s.paired = true) (hi : s.trc.ignore = false) (hs : s.dev ≠ .safe) (hd : s.dev ≠ .debug) (hu : s.hif.up = true)
    (hq : s.trc.rxSeq < 2 ^ 32) (ht : type < 256) (hk : slot < 16) (hl : data.length = recordWords type - 32) :
    AcceptedRecord s type (mkRec s type slot w3 w4 w6 data) := by
  have hf := word0_fields ht hq
  have hc := cfgDigest_lt s
  have h2 : (BitVec.ofNat 64 (slot + bitN false * 16 + s.cfgDigest * 2 ^ 32)).toNat = slot + s.cfgDigest * 2 ^ 32 := by
    rw [BitVec.toNat_ofNat, Nat.mod_eq_of_lt (by show slot + 0 * 16 + _ < _; omega)]
    show slot + 0 * 16 + _ = _
    omega
  have hm : s.sendDue = s := by simp [State.sendDue, hn]
  unfold AcceptedRecord
  rw [hm]
  refine ⟨hp, hi, hs, hd, hu, ?_, hf.2.2.2, ?_, ?_, ?_⟩
  · exact header_ok _ data type rfl (crc32c_lt _) hf.1 hf.2.1 hf.2.2.1
  · show bitsOf (BitVec.ofNat 64 (slot + bitN false * 16 + s.cfgDigest * 2 ^ 32)) 32 32 = s.cfgDigest
    unfold bitsOf
    rw [h2]
    omega
  · show bitAt (BitVec.ofNat 64 (slot + bitN false * 16 + s.cfgDigest * 2 ^ 32)) 4 = false
    unfold bitAt
    rw [BitVec.getLsbD, h2, Nat.testBit_eq_decide_div_mod_eq]
    simp
    omega
  · have hm := map_getD (recHeader type s.trc.rxSeq 9 slot false s.cfgDigest w3 w4 (crc32c data) w6) data
    have hh : (recHeader type s.trc.rxSeq 9 slot false s.cfgDigest w3 w4 (crc32c data) w6).length = 32 := rfl
    rw [hh, hl] at hm
    unfold dataOk mkRec
    rw [hm]
    have h5 : (recHeader type s.trc.rxSeq 9 slot false s.cfgDigest w3 w4 (crc32c data) w6 ++ data).getD 5 0
        = BitVec.ofNat 64 (crc32c data) := rfl
    rw [h5, low_bits (crc32c_lt _)]
    simp

/-- A paired part: its mode, the partner's state, its open window, watchdogs and the time. -/
def partner (mode : Nat) (st : TrcSt) (x : Trc) : State :=
  { dev := .run, rsv := [(0, { owner := 0, filling := false })]
    vt := [(5, { frame0 := 0x10000, frame1 := 0x10001, valid := true, part := 1 })]
    hif := { up := true, busMaster := true }
    trc := { x with mode := mode, st := st, rxSeq := 7 } }

theorem partner_accepted (mode : Nat) (st : TrcSt) (x : Trc) (type slot w3 w4 w6 : Nat) (data : List Word)
    (hn : x.send = none) (hp : (partner mode st x).paired = true) (hi : x.ignore = false) (ht : type < 256) (hk : slot < 16)
    (hl : data.length = recordWords type - 32) :
    AcceptedRecord (partner mode st x) type (mkRec (partner mode st x) type slot w3 w4 w6 data) :=
  mkRec_accepted _ _ _ _ _ _ _ hn hp hi (by simp [partner]) (by simp [partner]) rfl (by simp [partner]) ht hk hl

/-- Reservoir 0 is there and never mirrored. -/
theorem rsv0_ready (s : State) (h0 : s.rsvOn 0 = true) (h1 : (s.rsvOf 0).filling = false) (a : Nat) (lo : 0x10000000 ≤ a)
    (hi : a < 0x10100000) : s.bankReady a = true ∧ s.mirrored a = false := by
  have hk : isInk a = false := by unfold isInk; simp; omega
  have hr : isRsv a = true := by unfold isRsv; simp; omega
  have hn : rsvNum a = 0 := by unfold rsvNum; omega
  unfold State.bankReady State.mirrored
  simp [hk, hr, hn, h0, h1]

theorem partner_ready (mode : Nat) (st : TrcSt) (x : Trc) (i : Nat) (h : i < 512) :
    ∀ d ∈ (partner mode st x).writeAt (0x10001000 + 8 * i), (partner mode st x).bankReady d = true := by
  have hr := rsv0_ready (partner mode st x) (by show bitAt ({} : Pwr).otherOn 0 = true; decide +kernel) rfl
    (0x10001000 + 8 * i) (by omega) (by omega)
  intro d hd
  simp only [State.writeAt, hr.2, Bool.false_eq_true, if_false, List.mem_singleton] at hd
  rw [hd]
  exact hr.1

/-- Records of every type that pass: at a receiver, with a slot written; at a sender; at a twin; the last one ends a pairing. -/
theorem witness_TracingRecordsComplete :
    (let s := partner 2 .current { winOpen := true, winSlots := [(5, 3)], winUnits := 1 }
     let u := mkRec s recUnit 0 (5 + 2 ^ 48) 3 0 (List.replicate 544 0)
     let e := mkRec s recEnd 15 0 0 1 []
     AcceptedRecord s recBegin (mkRec s recBegin 0 0 0 0 []) ∧ s.receives = true ∧ AcceptedRecord s recUnit u ∧
     s.trc.winOpen = true ∧ s.unitSlot u = some 5 ∧ 4096 * (s.vslot 5).draftFrame = 0x10001000 ∧
     (∀ i, i < 512 → ∀ d ∈ s.writeAt (0x10001000 + 8 * i), s.bankReady d = true) ∧
     (∃ d ∈ ({ s with rsv := [] } : State).writeAt 0x10001000, ({ s with rsv := [] } : State).bankReady d = false) ∧
     AcceptedRecord s recEnd e ∧ bitAt (e.getD 6 0) 16 = false ∧ bitAt (e.getD 6 0) 19 = false ∧
     rawCount e = s.trc.winUnits ∧ s.trc.winSlots = [(5, 3)] ∧ s.linkOk = true ∧
     (let f := mkRec s recFarewell 0 0 0 (2 ^ 24) []
      AcceptedRecord s recFarewell f ∧ bitsOf (f.getD 6 0) 24 8 = 1)) ∧
    (∀ type ∈ [recUnit, recEnd], ∃ r, AcceptedRecord (partner 2 .current {}) type r ∧ (partner 2 .current {}).trc.winOpen = false) ∧
    (let s := partner 1 .current {}
     let r := mkRec s recAck 0 0 0 0 []
     AcceptedRecord s recAck r ∧ s.sendsWindows = true ∧ bitAt (r.getD 6 0) 18 = false ∧ s.trc.doneAt ≠ some (rawFolio r)) ∧
    (let s := partner 1 .stale {}
     let r := mkRec s recAck 0 0 0 (2 ^ 18) []
     AcceptedRecord s recAck r ∧ s.sendsWindows = true ∧ bitAt (r.getD 6 0) 18 = true ∧ s.trc.st = .stale) ∧
    (∃ r, AcceptedRecord (partner 2 .current {}) recAck r ∧ (partner 2 .current {}).sendsWindows = false ∧
      (partner 2 .current {}).isTwin = false) ∧
    (∃ r, AcceptedRecord (partner 3 .current {}) recAck r ∧ bitAt (r.getD 6 0) 18 = false ∧ (partner 3 .current {}).isTwin = true) ∧
    (∃ r, AcceptedRecord (partner 3 .current {}) recDigest r ∧ (partner 3 .current {}).isTwin = true ∧
      (partner 3 .current {}).trc.mine = none ∧ (partner 3 .current {}).trc.theirs = none) ∧
    (∃ r, AcceptedRecord (partner 3 .resync {}) recDigest r ∧ (partner 3 .resync {}).isTwin = false) ∧
    (∀ e ∈ [(1, TrcSt.current), (2, .current), (2, .resync)], let s := partner e.1 e.2 { watch := [(9, 0)] }
      s.paired = true ∧ (∃ w ∈ s.trc.watch, w.2 ≤ s.cyc) ∧ s.receives = decide (e.1 = 2)) := by
  refine ⟨⟨?_, by decide +kernel, ?_, by decide +kernel, by decide +kernel, by decide +kernel,
      partner_ready _ _ _, by decide +kernel, ?_, by decide +kernel, by decide +kernel, by decide +kernel, by decide +kernel, by decide +kernel,
      ?_, by decide +kernel⟩, ?_, ⟨?_, by decide +kernel, by decide +kernel, by decide +kernel⟩,
    ⟨?_, by decide +kernel, by decide +kernel, by decide +kernel⟩, ⟨mkRec (partner 2 .current {}) recAck 0 0 0 0 [], ?_, by decide +kernel⟩,
    ⟨mkRec (partner 3 .current {}) recAck 0 0 0 0 [], ?_, by decide +kernel, by decide +kernel⟩,
    ⟨mkRec (partner 3 .current {}) recDigest 0 0 0 0 (List.replicate 512 0), ?_, by decide +kernel, by decide +kernel, by decide +kernel⟩,
    ⟨mkRec (partner 3 .resync {}) recDigest 0 0 0 0 (List.replicate 512 0), ?_, by decide +kernel⟩, by decide +kernel⟩
  case refine_5 =>
    intro type h
    simp only [List.mem_cons, List.not_mem_nil, or_false] at h
    obtain rfl | rfl := h
    · exact ⟨mkRec _ recUnit 0 0 0 0 (List.replicate 544 0),
        partner_accepted _ _ _ _ _ _ _ _ _ rfl (by decide +kernel) rfl (by decide) (by decide) (List.length_replicate ..), rfl⟩
    · exact ⟨mkRec _ recEnd 0 0 0 0 [],
        partner_accepted _ _ _ _ _ _ _ _ _ rfl (by decide +kernel) rfl (by decide) (by decide) rfl, rfl⟩
  all_goals exact partner_accepted _ _ _ _ _ _ _ _ _ rfl (by decide +kernel) rfl (by decide) (by decide) (by decide +kernel)

/-! ### Train network and local I/O -/

/-- MAC 3 with its link up, a defined set of one descriptor, and the device state. -/
def netted (dev : DevState) (d : List Word) (x : Mac) : State :=
  { dev := dev, macs := [(3, { x with ctrl := 1, link := true })]
    feed := { sets := [(0, { part := 1, count := 1, first := 9, valid := true })], descs := [(9, { words := d })] } }

/-- A frame of 60 bytes for group 01-00-00-00-00-02 with EtherType 0801, and its channel with another address. -/
def frame60 : List Byte := [1, 0, 0, 0, 0, 2] ++ List.replicate 6 7 ++ [8, 1] ++ List.replicate 46 5
def ethIn (group : Word) : List Word := [0x50034, 0x80000, group, 0x801, 0, 0, 0, 0]

/-- The frame arrives for a channel of group `w`. -/
def EthCase (dev : DevState) (w : Word) (hit : Bool) : Prop :=
  let s := netted dev (ethIn w) {}
  s.powered = true ∧ s.macUp 3 = true ∧ s.dev = dev ∧ s.ethChannels 3 = [(9, { words := ethIn w })] ∧
  dType { words := ethIn w } = 4 ∧ dCb { words := ethIn w } = false ∧
  ethMatches { words := ethIn w } frame60 (ethParse frame60) = hit

theorem frame60_passes : ethMalformed frame60 = false ∧ (ethParse frame60).type ≠ 0x88F7 := by decide +kernel

/-- A frame that matches and one that does not; two classes of a transmit queue; the link of the gPTP port and of another. -/
theorem witness_EthernetCompletes :
    EthCase .run 0x010000000002 true ∧ EthCase .run 0x010000000003 false ∧ EthCase .safe 0x010000000002 true ∧
    ethMalformed (frame60.take 59) = true ∧ ethMalformed (frame60.take 12 ++ [0x88, 0xF7] ++ List.replicate 46 5) = false ∧
    (ethParse (frame60.take 12 ++ [0x88, 0xF7] ++ List.replicate 46 5)).type = 0x88F7 ∧
    (netted .run [] {}).nextFrame 3 = none ∧
    (let g : EthTx := ⟨7, frame60, 9, 0⟩
     let s := netted .run [] { txq := [⟨0, frame60, 8, 0⟩, g] }
     s.macUp 3 = true ∧ s.nextFrame 3 = some g ∧ (s.desc g.desc).newStatus = none) ∧
    (∀ link ∈ [true, false],
      let s : State := { dev := .safe, macs := [(3, { link := link })] }
      s.powered = true ∧ s.macOn 3 = true ∧ (s.mac 3).link = link ∧ (s.mac 3).txq = [] ∧ (s.mac 3).notSent ≤ 0xFFFFFFFF ∧
      (let u := ({ s with macs := [(3, { link := false, event := 1 })] } : State).raise { cls := 0x70, utype := 4, unit := 3, detail := 0 }
       (u.mac 3).ptpSync = false ∧ u.folio.tsrc ≠ 1)) := by
  unfold EthCase
  refine ⟨?_, ?_, ?_, by decide +kernel, by decide +kernel, by decide +kernel, by decide +kernel, by decide +kernel,
    by decide +kernel⟩
  all_goals exact ⟨by decide +kernel, by decide +kernel, by decide +kernel, by decide +kernel, by decide +kernel,
    by decide +kernel, by decide +kernel⟩

/-- CAN controller 7, with a defined set of one descriptor. -/
def bussed (dev : DevState) (x : Can) : State :=
  { dev := dev, cans := [(7, { x with ctrl := 0x21 })]
    feed := { sets := [(0, { part := 1, count := 1, first := 9, valid := true })]
              descs := [(9, { words := [0x50078, 0x80000, 0x20000123, 0x1FFFFFFF, 0, 0, 0, 0] })] } }

def canFd : CanFrame := ⟨0x123, true, true, true, false, false, List.replicate 64 5⟩

/-- Both counters at their limits, each state, and errors that lead to each. -/
theorem witness_CanCompletes :
    ((bussed .run { st := 2 }).powered = true ∧ (bussed .run { st := 2 }).canOn = true ∧
      ((bussed .run { st := 2 }).can 7).st = 2) ∧
    (let s := bussed .run { st := 0, tec := 127, recv := 127 }
     (s.can 7).st = 0 ∧ (s.can 7).tec ≤ 127 ∧ (s.can 7).recv ≤ 127 ∧ s.dev = .run ∧ canFd.rtr = false ∧ canFd.data.length ≤ 64 ∧
     s.canHits 7 canFd = [(9, s.desc 9)] ∧ dType (s.desc 9) = 8) ∧
    (let s := bussed .safe { st := 1, tec := 127, recv := 128 }
     (s.can 7).st = 1 ∧ (s.can 7).tec ≤ 127 ∧ 127 < (s.can 7).recv ∧ s.dev ≠ .run) ∧
    (∀ st ∈ [0, 1], ∀ e ∈ [(256, 0, 2), (255, 0, 1), (128, 0, 1), (127, 128, 1), (127, 127, 0)],
      let s := bussed .run { st := st, txq := [⟨canFd, 9⟩] }
      (s.can 7).st < 2 ∧ s.canNormal 7 = true ∧ (s.can 7).txq ≠ [] ∧
      (if 255 < (BitVec.ofNat 9 e.1).toNat then 2
       else if 127 < (BitVec.ofNat 9 e.1).toNat ∨ 127 < (BitVec.ofNat 9 e.2.1).toNat then 1 else 0) = e.2.2) ∧
    (let g : CanTx := ⟨canFd, 9⟩
     let h : CanTx := ⟨{ canFd with id := 0x124 }, 8⟩
     let s := bussed .run { st := 0, txq := [h, g] }
     s.canNormal 7 = true ∧ g ∈ (s.can 7).txq ∧ (∀ x ∈ (s.can 7).txq, x ≠ g → canKey g.frame < canKey x.frame)) ∧
    ((bussed .run { st := 0 }).can 7).txq = [] := by decide +kernel

/-- The slot 5 of a channel has an INPUT draft in the second page of reservoir 0; a record waits for it. -/
def feeding (d : Desc) (body : RxBody) : State :=
  { dev := .run, folio := { running := true }, rsv := [(0, { owner := 0, filling := false })]
    vt := [(5, { frame0 := 0x10000, frame1 := 0x10001, valid := true, part := 1, kind := .input, st := .drafted })]
    feed := { sets := [(0, { part := 1, count := 1, first := 9, valid := true })], descs := [(9, d)], rxq := [⟨9, 77, 0, body⟩] } }

theorem feeding_ready (d : Desc) (body : RxBody) (o : Nat) (h : o < 4096) :
    (feeding d body).bankReady (0x10001000 + o) = true ∧ (feeding d body).mirrored (0x10001000 + o) = false :=
  rsv0_ready _ (by show bitAt ({} : Pwr).otherOn 0 = true; decide +kernel) rfl _ (by omega) (by omega)

theorem foldl_stays {α β : Type} (f : α → β → α) (a : α) (l : List β) (h : ∀ b, f a b = a) : l.foldl f a = a := by
  induction l with
  | nil => rfl
  | cons b l ih => rw [List.foldl_cons, h, ih]

/-- No pin is driven where the only set has no GPIO_OUT channel. -/
theorem undriven (s : State) (d : Desc) (h : s.feed.sets = [(0, { part := 1, count := 1, first := 9, valid := true })])
    (hd : s.feed.descs = [(9, d)]) (ht : bitsOf (d.words.getD 0 0) 0 4 ≠ 9) : s.gpioDrive = 0 := by
  have hg : s.gpioDir = 0 := by
    apply foldl_stays
    intro k
    by_cases hk : k = 0
    · subst hk
      have : s.chanSet 0 = { part := 1, count := 1, first := 9, valid := true } := by unfold State.chanSet; rw [h]; rfl
      have h9 : s.desc 9 = d := by unfold State.desc; rw [hd]; rfl
      have h1 : upTo 1 = [0] := rfl
      simp only [this, h1, List.foldl_cons, List.foldl_nil, Nat.add_zero, h9, if_neg ht, if_true]
    · have : s.chanSet k = {} := by unfold State.chanSet; rw [h]; simp [Table.get, hk]
      simp [this]
  unfold State.gpioDrive
  rw [hg]
  simp

theorem nothing_off (s : State) (lv want : Word) (h : s.gpioDrive = 0) (l : List Nat) :
    l.filter (fun n => bitAt s.gpioDrive n && bitAt lv n != bitAt want n) = [] := by
  rw [h]
  have : ∀ n, bitAt 0#64 n = false := fun n => by simp [bitAt]
  simp [this]

/-- A frame record at the end of its page; samples at the first and the last place of their ring; captured pins of an INPUT
channel, some of them driven; a sample due; a driven pin that does not follow. -/
theorem witness_FeedRecordsAndGpio :
    (∀ j ∈ [0, 508],
      let d : Desc := { words := [0x50004, BitVec.ofNat 64 (8 * j + 0x80000), 0, 0, 0, 0, 0, 0] }
      let s := feeding d (.frame 8 9 (List.replicate 8 3))
      s.feed.rxq = [⟨9, 77, 0, .frame 8 9 (List.replicate 8 3)⟩] ∧ s.desc 9 = d ∧ s.dev = .run ∧ s.folio.running = true ∧
      (0 : Word).toNat ≤ s.folio.tickTime.toNat ∧ dSlot d = 5 ∧ (s.vslot 5).draftFrame * 4096 = 0x10001000 ∧
      (s.vslot 5).st = .drafted ∧ s.draftReady 5 = true ∧ ({ s with rsv := [] } : State).draftReady 5 = false ∧ j + 4 ≤ 512 ∧ dOffset d = 8 * j ∧ dMode d = 0 ∧ dCount d = 8 ∧ dElem d = 1 ∧ dStep d = 1 ∧
      (List.replicate 8 (3 : Byte)).length = 8) ∧
    (∀ k ∈ [0, 3],
      let d : Desc := { words := [0x5037B, 0x00080010000400D0, 0, 0, 0, 0, 0, 0] }
      let s : State := let s := feeding d (.sample 7 [6]); { s with feed := { s.feed with samples := [(7, k)] } }
      let a := (elemAddr d (dOffset d) k 0).toNat
      (s.feed.rxq.head?.map (·.body)) = some (.sample 7 [6]) ∧ Table.get (fun _ => (0 : Nat)) s.feed.samples 7 = k ∧
      a = 0xD0 + 16 * k ∧ a % 8 = 0 ∧ dIdxOff d % 8 = 0 ∧ a + 16 ≤ 4096 ∧ dIdxOff d / 8 ≠ a / 8 ∧ dIdxOff d / 8 ≠ a / 8 + 1) ∧
    (let d : Desc := { words := [0x5037B, 0x0008001000040FF8, 0, 0, 0, 0, 0, 0] }
     let s : State := feeding d (.sample 7 [6])
     s.desc 9 = d ∧ (elemAddr d (dOffset d) (Table.get (fun _ => (0 : Nat)) s.feed.samples 7) 0).toNat = 0xFF8 ∧ dIdxOff d = 8) ∧
    (∀ dev ∈ [DevState.run, .safe],
      let s : State := { dev := dev, activated := true, folio := { running := true }, aon := { time := 999936 } }
      s.powered = true ∧ s.canOn = true ∧ s.captureTime ≤ s.aon.time.toNat ∧ s.gpio.capFor ≠ s.nextTick ∧ s.allChannels = []) ∧
    (let d : Desc := { words := [0x5000A, 0, 0x20, 0, 0, 0, 0, 0] }
     let s : State := { feeding d (.sample 0 []) with aon := { time := 999936 } }
     s.powered = true ∧ s.canOn = true ∧ s.dev = .run ∧ s.captureTime ≤ s.aon.time.toNat ∧ s.gpio.capFor ≠ s.nextTick ∧
     (let lv := (0x30 : Word) &&& ~~~ s.timePins
      let want := s.gpio.outReg ^^^ s.gpio.pol
      ((List.range 64).filter (fun n => !s.inDelay n)).filter (fun n => bitAt s.gpioDrive n && bitAt lv n != bitAt want n) = []) ∧
     s.allChannels.filter (fun e => dType e.2 = 10) = [(9, d)] ∧ pinsOf (dWord d 2) = [5] ∧
     (s.vslot (dSlot d)).draftFrame * 4096 + dOffset d = 0x10001000 ∧ (s.vslot (dSlot d)).st = .drafted ∧
     s.draftReady (dSlot d) = true ∧ ({ s with rsv := [] } : State).draftReady (dSlot d) = false) ∧
    (let d : Desc := { words := [0x5007B, 0x40000, 0x3E80000, 0xFF, 0, 0, 0, 0] }
     let s : State := { feeding d (.sample 0 []) with feed := { (feeding d (.sample 0 [])).feed with rxq := [] }, cyc := 2000 }
     s.powered = true ∧ s.canOn = true ∧ s.sampleChannel 7 = some (9, d) ∧ s.sampleDue d = true ∧
     (∀ r ∈ s.feed.rxq, r.desc ≠ 9)) ∧
    (let s : State := { dev := .run, gpio := { changed := [(3, 0), (4, 7)] }, cyc := 1500 }
     (s.gpio.changed.filter (fun (c : Nat × Nat) => c.2 + bitsOf s.gpio.rbDly 0 16 ≤ s.cyc)).map (·.1) = [3]) := by
  refine ⟨by decide +kernel, by decide +kernel, by decide +kernel, by decide +kernel, ⟨by decide +kernel, by decide +kernel,
    by decide +kernel, by decide +kernel, by decide +kernel, nothing_off _ _ _ (undriven _ _ rfl rfl (by decide +kernel)) _, by decide +kernel,
    by decide +kernel, by decide +kernel, by decide +kernel⟩, by decide +kernel, by decide +kernel⟩

/-! ### Power, clocks and reset -/

theorem witness_ResetsAndFillComplete :
    (∀ d ∈ [DevState.off, .dormant], ({ dev := d } : State).powered = false) ∧
    (({ dev := .run } : State).dev ≠ .dormant ∧ ({ dev := .run } : State).powered = true ∧
      ({ dev := .run } : State).pwr.resetN = false ∧ ({ dev := .run } : State).pwr.clkGood = true ∧
      ({ dev := .run } : State).released = true ∧ ∀ m, m < 4 → (({ dev := .run } : State).mac m).link = false) ∧
    (({ dev := .run, pwr := { resetN := true, clkGood := false } } : State).pwr.resetN = true ∧
      ({ dev := .run, pwr := { resetN := true, clkGood := false } } : State).pwr.clkGood = false) ∧
    (∀ x ∈ [true, false], ({ dev := .run, aon := { xtalOk := x } } : State).aon.xtalOk = x) ∧
    (let s : State := { dev := .run, macs := [(3, { link := true })] }
     s.released = true ∧ (∀ m, m < 3 → (s.mac m).link = false) ∧ (s.mac 3).link = true ∧ s.macOn 3 = true) ∧
    (let s : State := { dev := .safe, aon := { enter := true } }
     s.powered = true ∧ s.aon.enter = true) ∧
    (∀ e ∈ [(0, 0), (1, 1), (2, 0), (7, 5)],
      let s : State := { dev := .dormant, aon := { wakeCfg := 0x0A75 }, pwr := { pwrEn := false } }
      s.dev = .dormant ∧ s.pwr.pwrEn = false ∧ (BitVec.ofNat 3 e.1) &&& BitVec.ofNat 3 (bitsOf s.aon.wakeCfg 0 3) = BitVec.ofNat 3 e.2) ∧
    (∀ f ∈ [true, false], let s : State := { dev := .fill, pwr := { fuseDone := f } }
      s.released = true ∧ s.dev = .fill ∧ s.pwr.fuseDone = f ∧ s.pwr.fuseHold = false) ∧
    (∀ c ∈ [0, 31], let s : State := { dev := .boot, pwr := { selfFail := c } }
      s.released = true ∧ s.dev = .boot ∧ s.huv.checked = false ∧ s.huv.lost = false ∧ s.pwr.selfFail = c) ∧
    (∀ h, h < 3 → let n : BitVec 3 := 7 ^^^ BitVec.ofNat 3 (2 ^ h)
      (∀ k, k < 3 → n.getLsbD k = decide (k ≠ h)) ∧
      (({ dev := .boot, huv := { checked := true, nibIn := n, nibFailed := true, lastOut := h } } : State).raise
        { cls := 0x21, utype := 7, unit := h }).pwr.selfFail = 0) := by decide +kernel

theorem witness_VoltageAndSupervision :
    (let p : Pwr := { active := true }
     ({ dev := .run, pwr := p } : State).released = true ∧ p.request = none ∧ (7 : BitVec 8).toNat < p.guardCrit ∧
     p.guardCrit ≤ (8 : BitVec 8).toNat ∧ (19 : BitVec 8).toNat < p.guardLo ∧ p.target < p.vmax ∧
     p.guardLo ≤ (20 : BitVec 8).toNat ∧ (40 : BitVec 8).toNat ≤ p.guardHi ∧ p.guardHi < (41 : BitVec 8).toNat ∧ p.hiRun < 15) ∧
    (∀ n ∈ [0, 2, 3], let p : Pwr := { active := true, target := 850, loRun := n }
      p.request = none ∧ p.vmax ≤ p.target ∧ p.loRun = n) ∧
    (let p : Pwr := { active := true, hiRun := 15 }
     p.request = none ∧ p.hiRun = 15) ∧
    (∀ r ∈ [true, false], let s : State := { dev := .run, pwr := { active := true, request := some 805, repeated := r } }
      s.released = true ∧ s.pwr.request = some 805 ∧ s.pwr.repeated = r) ∧
    (∀ hot ∈ [true, false],
      let s : State := { dev := .run, pwr := { tempOver := hot }, aon := { tempCfg := 0x55A } } -- 90 and 5 degrees
      let hi := 16 * (BitVec.ofNat 8 (bitsOf s.aon.tempCfg 0 8)).toInt
      let hyst : Int := 16 * bitsOf s.aon.tempCfg 8 4
      s.released = true ∧ s.pwr.tempOver = hot ∧ (1359 : BitVec 16).toInt < hi - hyst ∧ hi - hyst ≤ (1360 : BitVec 16).toInt ∧
      (1440 : BitVec 16).toInt ≤ hi ∧ hi < (1441 : BitVec 16).toInt ∧ (2559 : BitVec 16).toInt < 2560 ∧
      2560 ≤ (2560 : BitVec 16).toInt ∧ hi < (2560 : BitVec 16).toInt) := by decide +kernel

/-! ### PART_SETUP carried out -/

/-- The words of the four table pages: stage 1 at LOCAL offset 20000, and the stage-2 tables at 21000, 22000 and 23000. -/
def tabVal (i : Nat) : Word :=
  if i = 0 then 0x20001 else if i = 1 then 0x3F0FF else if i = 512 then 0x22081 else if i = 1024 then 0x23081
  else if i = 1568 then 0x20087 else if i = 1599 then 0x3F09F else 0

theorem tabVal_zero (i : Nat) (h0 : i ≠ 0) (h1 : i ≠ 1) (h2 : i ≠ 512) (h3 : i ≠ 1024) (h4 : i ≠ 1568) (h5 : i ≠ 1599) :
    tabVal i = 0 := by
  simp [tabVal, h0, h1, h2, h3, h4, h5]

def tabCode (i : Nat) : Code := encodeCode (parityN 45 (0x4000 + i)) (TWord.raw (tabVal i))

/-- LOADED with every word of those pages RAW. -/
def tabled (m : Table Code) : State := { filled with mem := m }
def tabMem : Table Code := (List.range 2048).map (fun i => (0x4000 + i, tabCode i))

/-- PART_SETUP of partition 1 for pen 0 with the records of `mapped`, and the state that it checks. -/
def settingUp : State := mail (tabled tabMem) 0x23 ([1] ++ trRecord ++ exRecord ++ [1])
def checking : State := settingUp.setRecords 1 trRecord exRecord

theorem get_listed {α : Type} (d : Nat → α) (c : Nat) (f : Nat → α) (l : List Nat) (i : Nat) (h : i ∈ l) :
    Table.get d (l.map (fun i => (c + i, f i))) (c + i) = f i := by
  induction l with
  | nil => cases h
  | cons j l ih =>
    by_cases e : i = j
    · subst e
      simp [Table.get]
    · have hm : i ∈ l := by simpa [e] using h
      simp [Table.get, e, ih hm]

theorem judge_zero (f : Bool) : judge f (encodeCode f (TWord.raw 0)) = .clean (TWord.raw 0) := by
  cases f <;> decide +kernel

theorem judge_tab (i : Nat) : judge (parityN 45 (0x4000 + i)) (tabCode i) = .clean (TWord.raw (tabVal i)) := by
  have hz : ∀ w, w = (0 : Word) → judge (parityN 45 (0x4000 + i)) (encodeCode (parityN 45 (0x4000 + i)) (TWord.raw w))
      = .clean (TWord.raw w) := fun w h => h ▸ judge_zero _
  by_cases h0 : i = 0; · subst h0; decide +kernel
  by_cases h1 : i = 1; · subst h1; decide +kernel
  by_cases h2 : i = 512; · subst h2; decide +kernel
  by_cases h3 : i = 1024; · subst h3; decide +kernel
  by_cases h4 : i = 1568; · subst h4; decide +kernel
  by_cases h5 : i = 1599; · subst h5; decide +kernel
  exact hz _ (tabVal_zero i h0 h1 h2 h3 h4 h5)

/-- A state whose table pages read so, in banks that are there. -/
def Reads (s : State) : Prop :=
  ∀ i, i < 2048 → s.readAt (0x20000 + 8 * i) = 0x20000 + 8 * i ∧ s.bankReady (0x20000 + 8 * i) = true ∧
    s.peek (0x20000 + 8 * i) = .clean (TWord.raw (tabVal i))

theorem checking_mem_of (m : Table Code) (op : Nat) (args : List Word) :
    ((mail (tabled m) op args).setRecords 1 trRecord exRecord).mem = m := rfl

theorem checking_reads : Reads checking := by
  intro i hi
  have hk : isInk (0x20000 + 8 * i) = true := by unfold isInk; simp; omega
  have hp : inkPen (0x20000 + 8 * i) = 0 := by unfold inkPen; omega
  have hb : inkBank (0x20000 + 8 * i) = 0 := by unfold inkBank; omega
  have hon : checking.penOn 0 = true := by decide +kernel
  have hf : (checking.pen 0).filling0 = false := by decide +kernel
  have hm0 : (checking.pen 0).mirror0 = 0 := by decide +kernel
  have hm : checking.mirrored (0x20000 + 8 * i) = false := by
    unfold State.mirrored
    simp [hp, hb, evenOf, hm0, bitAt]
  have hd : (0x20000 + 8 * i) / 8 = 0x4000 + i := by omega
  refine ⟨?_, ?_, ?_⟩
  · unfold State.readAt
    simp [hm]
  · unfold State.bankReady
    simp [hk, hp, hb, hon, hf]
  · unfold State.peek State.peekCode cpaFold
    have hg := get_listed fillCode 0x4000 tabCode (List.range 2048) i (List.mem_range.2 hi)
    rw [hd, checking, settingUp, checking_mem_of, tabMem, hg, judge_tab]

theorem Reads.rawWord {s : State} (h : Reads s) (i : Nat) (hi : i < 2048) :
    s.rawWord (0x20000 + 8 * i) = (.ok (tabVal i), s) := by
  obtain ⟨h1, h2, h3⟩ := h i hi
  have ht : (TWord.raw (tabVal i)).tag = Tag.raw := rfl
  have hv : (TWord.raw (tabVal i)).val = tabVal i := rfl
  unfold State.rawWord State.readWord
  simp only [h1, h2, h3, ht, hv, Bool.not_true, Bool.false_eq_true, if_false, if_true]

theorem Reads.s2Word {s : State} (h : Reads s) (home l i : Nat) (hi : i < 2048) :
    s.s2Word home l (0x20000 + 8 * i) =
      (if !bitAt (tabVal i) 0 then .ok 0
       else if malformed2 (tabVal i) l || (!bitAt (tabVal i) 1 && !pointsToBank home (tabVal i)) then .error 0x0702
       else .ok (tabVal i), s) := by
  unfold State.s2Word
  simp only [h.rawWord i hi]

theorem Reads.zero {s : State} (h : Reads s) (part home : Nat) (mask : Word) (l i ia : Nat) (hi : i < 2048)
    (hz : tabVal i = 0) : s.tableWord part home mask l (0x20000 + 8 * i) ia = (.ok none, s) := by
  unfold State.tableWord
  simp only [h.s2Word home l i hi, hz]
  rfl

theorem foldl_skip {α β : Type} (f : β → α → β) (r : β) (l : List α) (h : ∀ a ∈ l, f r a = r) : l.foldl f r = r := by
  induction l with
  | nil => rfl
  | cons a l ih =>
    rw [List.foldl_cons, h a (by simp)]
    exact ih (fun b hb => h b (by simp [hb]))

theorem Reads.leaf {s : State} (h : Reads s) (part home : Nat) (mask : Word) (l i ia : Nat) (hi : i < 2048)
    (hw : (if !bitAt (tabVal i) 0 then .ok 0
       else if malformed2 (tabVal i) l || (!bitAt (tabVal i) 1 && !pointsToBank home (tabVal i)) then .error 0x0702
       else .ok (tabVal i) : Except Nat Word) = .ok (tabVal i))
    (h0 : bitAt (tabVal i) 0 = true) (h1 : bitAt (tabVal i) 1 = true) (hc : s.leafCode part home mask l (tabVal i) = 0) :
    s.tableWord part home mask l (0x20000 + 8 * i) ia = (.ok none, s) := by
  unfold State.tableWord
  rw [h.s2Word home l i hi, hw]
  simp [h0, h1, hc]

theorem Reads.table {s : State} (h : Reads s) (part home : Nat) (mask : Word) (l i ia : Nat) (hi : i < 2048)
    (hw : (if !bitAt (tabVal i) 0 then .ok 0
       else if malformed2 (tabVal i) l || (!bitAt (tabVal i) 1 && !pointsToBank home (tabVal i)) then .error 0x0702
       else .ok (tabVal i) : Except Nat Word) = .ok (tabVal i))
    (h0 : bitAt (tabVal i) 0 = true) (h1 : bitAt (tabVal i) 1 = false) :
    s.tableWord part home mask l (0x20000 + 8 * i) ia = (.ok (some (tabVal i)), s) := by
  unfold State.tableWord
  rw [h.s2Word home l i hi, hw]
  simp [h0, h1]

/-- A pass over a table whose first word alone is not zero, a pointer. -/
theorem Reads.passOne {s : State} (h : Reads s) (part home : Nat) (mask : Word) (l c ipa : Nat)
    (down : Word → Nat → Visited → State → WalkRes) (v u : Visited) (hc : c + 512 ≤ 2048)
    (hv : v.any (fun x => x.1 = 0x20000 + 8 * c && x.2.1 = l) = false)
    (hz : ∀ i, 0 < i → i < 512 → tabVal (c + i) = 0)
    (ht : s.tableWord part home mask l (0x20000 + 8 * c) ipa = (.ok (some (tabVal c)), s))
    (hd : down (tabVal c) ipa (v ++ [(0x20000 + 8 * c, l, ipa)]) s = (.ok u, s)) :
    tablePass part home mask l (0x20000 + 8 * c) ipa down v s = (.ok u, s) := by
  unfold tablePass upTo
  rw [hv, List.range_succ_eq_map, List.foldl_cons]
  simp only [walkOn, Nat.zero_mul, Nat.mul_zero, Nat.add_zero, ht, hd, Bool.false_eq_true, if_false]
  apply foldl_skip
  intro i hi
  obtain ⟨k, hk, rfl⟩ := List.mem_map.1 hi
  have hk := List.mem_range.1 hk
  have e : 0x20000 + 8 * c + 8 * (k + 1) = 0x20000 + 8 * (c + (k + 1)) := by omega
  simp only [Nat.succ_eq_add_one, e, h.zero part home mask l _ _ (by omega) (hz (k + 1) (by omega) (by omega))]

theorem checking_walks (s : State) (h : Reads s) (hc : ∀ i ∈ [1568, 1599], s.leafCode 1 0 1 0 (tabVal i) = 0) :
    s2Walk 1 0 1 2 0x21000 0 [] s = (.ok [(0x21000, 2, 0), (0x22000, 1, 0), (0x23000, 0, 0)], s) := by
  have z1 : ∀ i, 0 < i → i < 512 → tabVal (512 + i) = 0 := fun i h0 h1 =>
    tabVal_zero _ (by omega) (by omega) (by omega) (by omega) (by omega) (by omega)
  have z2 : ∀ i, 0 < i → i < 512 → tabVal (1024 + i) = 0 := fun i h0 h1 =>
    tabVal_zero _ (by omega) (by omega) (by omega) (by omega) (by omega) (by omega)
  have last : tablePass 1 0 1 0 0x23000 0 (fun _ _ v s => (.ok v, s)) [(0x21000, 2, 0), (0x22000, 1, 0)] s
      = (.ok [(0x21000, 2, 0), (0x22000, 1, 0), (0x23000, 0, 0)], s) := by
    unfold tablePass upTo
    rw [if_neg (by decide)]
    apply foldl_skip
    intro i hi
    have hi := List.mem_range.1 hi
    have e : 0x23000 + 8 * i = 0x20000 + 8 * (1536 + i) := by omega
    have hw : s.tableWord 1 0 1 0 (0x23000 + 8 * i) (0 + i * leafSize 0) = (.ok none, s) := by
      rw [e]
      by_cases h1 : i = 32
      · subst h1; exact h.leaf _ _ _ _ _ _ (by decide) (by decide +kernel) (by decide +kernel) (by decide +kernel) (hc _ (by simp))
      by_cases h2 : i = 63
      · subst h2; exact h.leaf _ _ _ _ _ _ (by decide) (by decide +kernel) (by decide +kernel) (by decide +kernel) (hc _ (by simp))
      exact h.zero _ _ _ _ _ _ (by omega)
        (tabVal_zero _ (by omega) (by omega) (by omega) (by omega) (by omega) (by omega))
    simp only [walkOn, hw, List.cons_append, List.nil_append]
  refine h.passOne 1 0 1 2 512 0 _ _ _ (by decide) (by decide) z1
    (h.table _ _ _ _ _ _ (by decide) (by decide +kernel) (by decide +kernel) (by decide +kernel)) ?_
  refine h.passOne 1 0 1 1 1024 0 _ _ _ (by decide) (by decide) z2
    (h.table _ _ _ _ _ _ (by decide) (by decide +kernel) (by decide +kernel) (by decide +kernel)) ?_
  exact last

/-- No pen but the lowest: nothing to compare. -/
theorem copies_none (s : State) (v : Visited) : s.copiesCheck 1 0 1 v = (none, s) := by
  have hp : (pensIn 1).filter (fun q => q ≠ 0) = [] := by decide +kernel
  unfold State.copiesCheck
  rw [hp]
  rfl

theorem checking_passes (s : State) (hw : s.windowsCheck 1 0 = (none, s)) (hr : s.s2Root 1 0 = 0x21000) (hm : s.s2Mode 1 = 0)
    (hs : s2Walk 1 0 1 2 0x21000 0 [] s = (.ok [(0x21000, 2, 0), (0x22000, 1, 0), (0x23000, 0, 0)], s))
    (hf : s.flyCheck 1 0 = (none, s)) (hg : s.gateCheck 1 = none) : s.setupCheck 1 1 = (none, s) := by
  have hh : lowestPen 1 = 0 := by decide +kernel
  have hb : (isInk 0x21000 || isRsv 0x21000) = true := by decide +kernel
  unfold State.setupCheck State.walkChecks State.lastChecks State.rootWalk
  simp only [hh, hw, hr, hm, hb, if_true, Nat.add_zero, hs, copies_none, hf, hg]

theorem checking_facts : checking.s2Root 1 0 = 0x21000 ∧ checking.s2Mode 1 = 0 ∧ checking.gateCheck 1 = none ∧
    ∀ i ∈ [1568, 1599], checking.leafCode 1 0 1 0 (tabVal i) = 0 := by decide +kernel

/-- Stage 2 of the IPA of page 32 or 63. -/
theorem Reads.found {s : State} (h : Reads s) (k : Nat) (hk : k = 32 ∨ k = 63) :
    s2Find 0 (4096 * k) 2 0x21000 s = (.ok ⟨0, tabVal (1536 + k), 0x23000 + 8 * k⟩, s) := by
  have h2 := h.rawWord 512 (by decide)
  have h1 := h.rawWord 1024 (by decide)
  have h0 := h.rawWord (1536 + k) (by omega)
  have e : 0x20000 + 8 * (1536 + k) = 0x23000 + 8 * k := by omega
  rw [e] at h0
  obtain rfl | rfl := hk
  all_goals
    simp only [s2Find, show (0x21000 : Nat) + 8 * levelIndex (4096 * 32) 2 = 0x20000 + 8 * 512 by decide +kernel,
      show (0x21000 : Nat) + 8 * levelIndex (4096 * 63) 2 = 0x20000 + 8 * 512 by decide +kernel, h2,
      show (!bitAt (tabVal 512) 0 || malformed2 (tabVal 512) 2) = false by decide +kernel,
      show bitAt (tabVal 512) 1 = false by decide +kernel,
      show (s2Addr 0 (tabVal 512)) = 0x22000 by decide +kernel,
      show (0x22000 : Nat) + 8 * levelIndex (4096 * 32) 1 = 0x20000 + 8 * 1024 by decide +kernel,
      show (0x22000 : Nat) + 8 * levelIndex (4096 * 63) 1 = 0x20000 + 8 * 1024 by decide +kernel, h1,
      show (!bitAt (tabVal 1024) 0 || malformed2 (tabVal 1024) 1) = false by decide +kernel,
      show bitAt (tabVal 1024) 1 = false by decide +kernel,
      show (s2Addr 0 (tabVal 1024)) = 0x23000 by decide +kernel,
      show (0x23000 : Nat) + 8 * levelIndex (4096 * 32) 0 = 0x23000 + 8 * 32 by decide +kernel,
      show (0x23000 : Nat) + 8 * levelIndex (4096 * 63) 0 = 0x23000 + 8 * 63 by decide +kernel, h0,
      show (!bitAt (tabVal (1536 + 32)) 0 || malformed2 (tabVal (1536 + 32)) 0) = false by decide +kernel,
      show (!bitAt (tabVal (1536 + 63)) 0 || malformed2 (tabVal (1536 + 63)) 0) = false by decide +kernel,
      show bitAt (tabVal (1536 + 32)) 1 = true by decide +kernel, show bitAt (tabVal (1536 + 63)) 1 = true by decide +kernel,
      Bool.false_eq_true, if_false, if_true]

theorem Reads.ipaLeaf {s : State} (h : Reads s) (hr : s.s2Root 1 0 = 0x21000) (hm : s.s2Mode 1 = 0) (k : Nat)
    (hk : k = 32 ∨ k = 63) : s.ipaLeaf 1 0 (4096 * k) = (.ok ⟨0, tabVal (1536 + k), 0x23000 + 8 * k⟩, s) := by
  unfold State.ipaLeaf
  simp only [hm, hr]
  rw [if_neg (by omega)]
  exact h.found k hk

/-- Step 3 finds nothing and notes no error. -/
theorem checking_windows : checking.windowsCheck 1 0 = (none, checking) := by
  have hw : checking.tabWins 1 = [⟨true, 0x20000, 1, true, 0x20000⟩] := by decide +kernel
  have hl := checking_reads.ipaLeaf (by decide +kernel) (by decide +kernel) 32 (.inl rfl)
  have hp : pageCheck 1 0 ⟨true, 0x20000, 1, true, 0x20000⟩ 0 checking = (none, checking) := by
    unfold pageCheck
    simp only [show 0x20000 + 4096 * 0 = 4096 * 32 from rfl, hl]
    rfl
  unfold State.windowsCheck
  rw [hw]
  simp only [List.length_singleton, show upTo 1 = [0] from rfl, scan, windowCheck, List.getD_cons_zero,
    List.take_zero, List.any_nil, Bool.or_false, show TabWin.placed ⟨true, 0x20000, 1, true, 0x20000⟩ = true by decide +kernel,
    Bool.not_true, Bool.false_eq_true, if_false, hp]

/-- Stage 1 of FLY_VA. -/
theorem checking_stage1 : s1Find 1 0 0x1000 2 0x20000 checking = (.ok ⟨0, 0x3F0FF, 0x20008⟩, checking) := by
  have h0 := checking_reads.rawWord 0 (by decide)
  have h1 := checking_reads.rawWord 1 (by decide)
  have w0 : checking.tableWindow 1 0 0x20000 = some 0x20000 := by decide +kernel
  have w1 : checking.tableWindow 1 0 0x20008 = some 0x20008 := by decide +kernel
  simp only [s1Find, show (0x20000 : Nat) + 8 * levelIndex 0x1000 2 = 0x20000 by decide +kernel, w0,
    show checking.rawWord 0x20000 = (.ok (tabVal 0), checking) from h0,
    show (!bitAt (tabVal 0) 0 || malformed1 (tabVal 0) 2) = false by decide +kernel,
    show (!bitAt (tabVal 0) 0 || malformed1 (tabVal 0) 1) = false by decide +kernel,
    show bitAt (tabVal 0) 1 = false by decide +kernel, show bitsOf (tabVal 0) 12 45 * 4096 = 0x20000 by decide +kernel,
    show (0x20000 : Nat) + 8 * levelIndex 0x1000 1 = 0x20000 by decide +kernel,
    show (0x20000 : Nat) + 8 * levelIndex 0x1000 0 = 0x20008 by decide +kernel, w1,
    show checking.rawWord 0x20008 = (.ok (tabVal 1), checking) from h1,
    show (!bitAt (tabVal 1) 0 || malformed1 (tabVal 1) 0) = false by decide +kernel,
    show bitAt (tabVal 1) 1 = true by decide +kernel, Bool.false_eq_true, if_false, if_true]
  rfl

/-- Step 6 finds nothing and notes no error. -/
theorem checking_fly : checking.flyCheck 1 0 = (none, checking) := by
  have hl := checking_reads.ipaLeaf (by decide +kernel) (by decide +kernel) 63 (.inr rfl)
  have hv : (checking.pxWord 1 1).toNat = 0x1000 := by decide +kernel
  have hc : (decide (0x1000 % 4096 ≠ 0) || !canonical (checking.pxWord 1 1) (39 + 9 * checking.s1Mode 1)) = false := by
    decide +kernel
  have hm : 2 + checking.s1Mode 1 = 2 := by decide +kernel
  have hr : bitsOf (checking.ptWord 1 0) 12 45 * 4096 = 0x20000 := by decide +kernel
  have ha : bitsOf (0x3F0FF : Word) 12 45 * 4096 + 0x1000 % leafSize 0 = 4096 * 63 := by decide +kernel
  unfold State.flyCheck
  simp only [hv, hm, hr, checking_stage1]
  simp only [hc, Bool.false_eq_true, if_false, show (!bitAt (0x3F0FF : Word) 3) = false by decide +kernel, ha, hl]
  rfl

/-- PART_SETUP is carried out: steps 3 to 7 find nothing, in this state. -/
theorem witness_RulingCommandsComplete_partSetup :
    settingUp.Begins 2 0x23 ∧ trRecord.length = 12 ∧ exRecord.length = 4 ∧
    settingUp.Args 2 ([BitVec.ofNat 64 (1 : Fin 256).val] ++ trRecord ++ exRecord ++ [1]) ∧ (1 : Word) ≠ 0 ∧
    bitsOf (trRecord.getD 0 0) 0 2 ≠ 3 ∧ bitsOf (trRecord.getD 1 0) 0 2 ≠ 3 ∧ recordRsvd trRecord exRecord = false ∧
    (settingUp.setRecords 1 trRecord exRecord).setupCheck 1 1 = (none, settingUp.setRecords 1 trRecord exRecord) := by
  have h : checking.setupCheck 1 1 = (none, checking) := by
    obtain ⟨hr, hm, hg, hc⟩ := checking_facts
    exact checking_passes checking checking_windows hr hm (checking_walks checking checking_reads hc) checking_fly hg
  refine ⟨by unfold State.Begins; decide +kernel, rfl, rfl, by unfold State.Args; decide +kernel, by decide, by decide +kernel,
    by decide +kernel, by decide +kernel, h⟩

end Sys2Proof.Tests
end

section
/-! The tag instructions: CHK (R141). -/

namespace Sys2Proof.Machine

/-- CHK passes exactly the tags whose bit its mask holds (R141). -/
theorem aluChk_ok {mask : BitVec 16} {w : TWord} (h : mask.getLsbD w.tag.toNat = true) : aluChk mask w = .ok () := by
  rw [aluChk, if_pos h]

theorem aluChk_error {mask : BitVec 16} {w : TWord} (h : mask.getLsbD w.tag.toNat = false) :
    aluChk mask w = .error (excTag tdCheck 0) := by
  rw [aluChk, if_neg (by simp [h])]

/-- A command that is due answers its effect. -/
theorem guarded_of_due {due : Bool} {s : State} {f : State → State} (h : due = true) :
    guarded due s f = .next (f s) := by
  rw [guarded, if_pos h]

/-- The pen that an issued instruction works on is the pen after issue. -/
theorem State.issued_pen (s : State) (i : Iss) (u : Uses) : (s.issued i u).pen i.pen.val = (s.issuing i u).2 :=
  State.setPen_pen_same

/-- The end of an instruction moves the program counter on, and leaves the rest but for the pair. -/
theorem Pen.done_advanced (x : Pen) (paired : Bool) : x.Advanced (x.done paired) := ⟨rfl, rfl⟩

/-- What CHK is dispatched to. -/
theorem exec_chk (i : Iss) (rs : Reg) (mask : BitVec 16) (s : State) : exec (.chk i rs mask) s = execChk i rs mask s := rfl

/-- What a register reads for an instruction, in the slot in which it issues (R163). -/
def State.readIssuing (s : State) (i : Iss) (u : Uses) (r : Reg) : TWord := (s.issuing i u).2.read (s.issuing i u).1 r

/-- The state in which the instruction does its work gives it that word. -/
theorem State.Issues.read_issued {s0 s : State} {i : Iss} {u : Uses} (h : s0.Issues s i u) (r : Reg) :
    ((s.issued i u).pen i.pen.val).read (s0.issuing i u).1 r = s.readIssuing i u r := by
  obtain ⟨-, -, hslot⟩ := h
  rw [State.issued_pen, State.readIssuing, hslot]

/-- CHK of a tag that the mask holds ends in the state after its issue. -/
theorem exec_chk_ok {s0 s : State} {i : Iss} {rs : Reg} {mask : BitVec 16} (hi : s0.Issues s i (useAlu [rs] false))
    (hm : mask.getLsbD (s.readIssuing i (useAlu [rs] false) rs).tag.toNat = true) :
    exec (.chk i rs mask) s0 = .next ((s.issued i (useAlu [rs] false)).modPen i.pen.val
      (fun x => x.done (s0.issuing i (useAlu [rs] false)).1)) := by
  have ⟨hready, hadm, _⟩ := hi
  rw [exec_chk, execChk, guarded_of_due hready]
  refine congrArg _ (State.issueOne_ok hadm ?_)
  rw [State.issued_eq hi, hi.read_issued, aluChk_ok hm]

/-- CHK of any other tag takes its tag fault there. -/
theorem exec_chk_error {s0 s : State} {i : Iss} {rs : Reg} {mask : BitVec 16} (hi : s0.Issues s i (useAlu [rs] false))
    (hm : mask.getLsbD (s.readIssuing i (useAlu [rs] false) rs).tag.toNat = false) :
    exec (.chk i rs mask) s0 = .next (s0.excFrom (s.issued i (useAlu [rs] false)) i (excTag tdCheck 0)) := by
  have ⟨hready, hadm, _⟩ := hi
  rw [exec_chk, execChk, guarded_of_due hready]
  refine congrArg _ (State.issueOne_exc hadm ?_)
  rw [State.issued_eq hi, hi.read_issued, aluChk_error hm]

end Sys2Proof.Machine
end

section
/-! The additive operations (R136): the checks of their operands, the second source, the rows of the table of tags, the
carry and overflow of each row, and the T forms. -/

namespace Sys2Proof.Machine

/-! ### Operands of an additive tag -/

/-- The tags of which two operands of one tag give a result of that tag. -/
def SameTag (t : Tag) : Prop := t = Tag.int ∨ t = Tag.uint ∨ t = Tag.fixq ∨ t = Tag.raw

/-- The tags of addresses and of TIME. -/
def AddrTag (t : Tag) : Prop := t = Tag.ptr ∨ t = Tag.cptr ∨ t = Tag.time

variable {t : Tag}

/-- No additive tag is one that every checking role refuses, nor SBOOL. -/
theorem not_refused_of_mem_addTags (h : t ∈ addTags) : refusedTag t = none ∧ t ≠ Tag.sbool := by
  revert t; decide

/-- An operand of an additive tag passes where its role lists the tag. -/
theorem checkTag_of_mem {n : Nat} {l : List Tag} {w : TWord} (hw : w.tag ∈ addTags) (hl : w.tag ∈ l) :
    checkTag n l w = .ok () := by
  obtain ⟨href, hsb⟩ := not_refused_of_mem_addTags hw
  simp [checkTag, href, hsb, tagIn, hl]

/-- An operand of an additive tag that its role does not list is a mismatch. -/
theorem checkTag_of_not_mem {n : Nat} {l : List Tag} {w : TWord} (hw : w.tag ∈ addTags) (hl : w.tag ∉ l) :
    checkTag n l w = .error (excTag tdMismatch n) := by
  obtain ⟨href, -⟩ := not_refused_of_mem_addTags hw
  simp [checkTag, href, tagIn, hl]

/-! ### The second source (R138) -/

theorem immFor_of_secondIs {a b : TWord} {k : BitVec 16} {read : Reg → TWord} (h : SecondIs a (.imm k) read b) :
    immFor a.tag k = .ok b := by
  obtain ⟨ta, va⟩ := a
  obtain ⟨tb, vb⟩ := b
  obtain ⟨rfl, ⟨ht, rfl⟩ | ⟨ht, rfl⟩⟩ := h
  · simp only [List.mem_cons, List.not_mem_nil, or_false] at ht
    obtain rfl | rfl | rfl | rfl := ht <;> rfl
  · simp only [List.mem_cons, List.not_mem_nil, or_false] at ht
    obtain rfl | rfl := ht <;> rfl

/-- Beside a first operand that is neither UINT nor RAW, a second source that is no INT is in a register. -/
theorem SecondIs.is_reg {a b : TWord} {op : Src} {read : Reg → TWord} (h : SecondIs a op read b)
    (ha : a.tag ∉ [Tag.uint, Tag.raw]) (hb : b.tag ≠ Tag.int) : ∃ r, op = .reg r ∧ read r = b := by
  cases op with
  | reg r => exact ⟨r, rfl, h⟩
  | imm k =>
    obtain ⟨-, ⟨-, hint⟩ | ⟨htag, -⟩⟩ := h
    · exact absurd hint hb
    · exact absurd htag ha

variable {α : Type} {l0 l1 : List Tag} {a b : TWord} {op : Src} {read : Reg → TWord} {f : TWord → TWord → Option α}

/-- Two operands that pass give what the operation makes of them. -/
theorem binary_of_some {x : α} (hb : SecondIs a op read b) (ha : checkTag 0 l0 a = .ok ()) (h1 : checkTag 1 l1 b = .ok ())
    (hf : f a b = some x) : binary l0 l1 a op read f = .ok x := by
  cases op with
  | reg r =>
    obtain rfl : read r = b := hb
    simp [binary, ha, h1, hf, bind, Except.bind, pure, Except.pure]
  | imm k => simp [binary, ha, immFor_of_secondIs hb, hf, bind, Except.bind, pure, Except.pure]

/-- A first operand that its role refuses. -/
theorem binary_of_first_error {e : Exc} (ha : checkTag 0 l0 a = .error e) : binary l0 l1 a op read f = .error e := by
  simp [binary, ha, bind, Except.bind]

/-- A second register whose tag the operation does not combine with the first operand is a mismatch, whether or not its
role lists the tag. -/
theorem binary_reg_mismatch {r : Reg} (ha : checkTag 0 l0 a = .ok ()) (hr : (read r).tag ∈ addTags)
    (hf : f a (read r) = none) : binary l0 l1 a (.reg r) read f = .error (excTag tdMismatch 1) := by
  by_cases hl : (read r).tag ∈ l1
  · simp [binary, ha, checkTag_of_mem hr hl, hf, bind, Except.bind, pure, Except.pure, Second.code]
  · simp [binary, ha, checkTag_of_not_mem hr hl, bind, Except.bind]

/-! ### Carry and overflow -/

/-- The model's signed overflow is the library's: the exact sum or difference leaves [−2^63, 2^63). -/
theorem addV_eq (x y : Word) : addV x y = x.saddOverflow y := by
  rw [Bool.eq_iff_iff]
  simp only [addV, BitVec.saddOverflow, Bool.not_eq_true', Bool.and_eq_false_iff, Bool.or_eq_true,
    decide_eq_true_iff, decide_eq_false_iff_not]
  omega

theorem subV_eq (x y : Word) : subV x y = x.ssubOverflow y := by
  rw [Bool.eq_iff_iff]
  simp only [subV, BitVec.ssubOverflow, Bool.not_eq_true', Bool.and_eq_false_iff, Bool.or_eq_true,
    decide_eq_true_iff, decide_eq_false_iff_not]
  omega

theorem addMixedC_iff (u i : Word) :
    addMixedC u i = true ↔ ¬(0 ≤ (u.toNat : Int) + i.toInt ∧ (u.toNat : Int) + i.toInt < 2 ^ 64) := by
  rw [addMixedC, Bool.not_eq_true', ← Bool.not_eq_true, Bool.and_eq_true, decide_eq_true_iff, decide_eq_true_iff]

theorem subMixedC_iff (u i : Word) :
    subMixedC u i = true ↔ ¬(0 ≤ (u.toNat : Int) - i.toInt ∧ (u.toNat : Int) - i.toInt < 2 ^ 64) := by
  rw [subMixedC, Bool.not_eq_true', ← Bool.not_eq_true, Bool.and_eq_true, decide_eq_true_iff, decide_eq_true_iff]

/-- The word and the flags that a result writes. -/
theorem SumOut.out_eq {x : SumOut} {c v : Prop} [Decidable c] [Decidable v] (hc : x.c = true ↔ c) (hv : x.v = true ↔ v) :
    x.out = (x.res, some (FlagsAre x.res.val c v)) := by
  have ec : x.c = decide c := by rw [Bool.eq_iff_iff, hc, decide_eq_true_iff]
  have ev : x.v = decide v := by rw [Bool.eq_iff_iff, hv, decide_eq_true_iff]
  simp only [SumOut.out, flagsNzcv, FlagsAre, ec, ev, bitAt, BitVec.msb_eq_getLsbD_last]

/-- A T form traps on V where the result is INT or FIXQ. -/
theorem SumOut.overflows_iff_v {x : SumOut} (h : x.res.tag = Tag.int ∨ x.res.tag = Tag.fixq) :
    x.overflows = true ↔ x.v = true := by
  simp [SumOut.overflows, h]

/-- A T form traps on C where the result is UINT, an address or a TIME. -/
theorem SumOut.overflows_iff_c {x : SumOut} (h : x.res.tag = Tag.uint ∨ AddrTag x.res.tag) :
    x.overflows = true ↔ x.c = true := by
  obtain ⟨⟨t, w⟩, c, v⟩ := x
  obtain rfl | rfl | rfl | rfl := h <;> exact Iff.rfl

/-! ### The rows of the table -/

variable (x y : Word)

theorem sumOf_same (h : SameTag t) : sumOf ⟨t, x⟩ ⟨t, y⟩ = some ⟨⟨t, x + y⟩, addC x y, addV x y⟩ := by
  obtain rfl | rfl | rfl | rfl := h <;> rfl

theorem diffOf_same (h : SameTag t) : diffOf ⟨t, x⟩ ⟨t, y⟩ = some ⟨⟨t, x - y⟩, subC x y, subV x y⟩ := by
  obtain rfl | rfl | rfl | rfl := h <;> rfl

theorem sumOf_addr_int (h : AddrTag t) : sumOf ⟨t, x⟩ ⟨Tag.int, y⟩ = some ⟨⟨t, x + y⟩, addMixedC x y, addV x y⟩ := by
  obtain rfl | rfl | rfl := h <;> rfl

theorem diffOf_addr_int (h : AddrTag t) : diffOf ⟨t, x⟩ ⟨Tag.int, y⟩ = some ⟨⟨t, x - y⟩, subMixedC x y, subV x y⟩ := by
  obtain rfl | rfl | rfl := h <;> rfl

theorem sumOf_int_addr (h : t = Tag.ptr ∨ t = Tag.time) :
    sumOf ⟨Tag.int, x⟩ ⟨t, y⟩ = some ⟨⟨t, x + y⟩, addMixedC y x, addV x y⟩ := by
  obtain rfl | rfl := h <;> rfl

theorem diffOf_int_addr (h : t = Tag.ptr ∨ t = Tag.time) : diffOf ⟨Tag.int, x⟩ ⟨t, y⟩ = none := by
  obtain rfl | rfl := h <;> rfl

theorem sumOf_addr_addr (h : AddrTag t) : sumOf ⟨t, x⟩ ⟨t, y⟩ = none := by
  obtain rfl | rfl | rfl := h <;> rfl

theorem diffOf_addr_addr (h : AddrTag t) : diffOf ⟨t, x⟩ ⟨t, y⟩ = some ⟨⟨Tag.int, x - y⟩, subC x y, subV x y⟩ := by
  obtain rfl | rfl | rfl := h <;> rfl

/-! ### The four instructions on a row of the table -/

theorem SameTag.mem_addTags (h : SameTag t) : t ∈ addTags ∧ t ∈ addTags2 := by
  obtain rfl | rfl | rfl | rfl := h <;> decide

theorem SameTag.mem_noRaw (h : SameTag t) (hraw : t ≠ Tag.raw) : t ∈ noRaw addTags ∧ t ∈ noRaw addTags2 := by
  obtain ⟨h1, h2⟩ := h.mem_addTags
  exact ⟨List.mem_filter.2 ⟨h1, decide_eq_true hraw⟩, List.mem_filter.2 ⟨h2, decide_eq_true hraw⟩⟩

theorem AddrTag.mem_noRaw (h : AddrTag t) : t ∈ noRaw addTags := by
  obtain rfl | rfl | rfl := h <;> decide

theorem AddrTag.ne_int (h : AddrTag t) : t ≠ Tag.int := by
  obtain rfl | rfl | rfl := h <;> decide

/-- The second operand of a sum may be a PTR or a TIME, not a CPTR. -/
theorem ptr_or_time_mem_noRaw (h : t = Tag.ptr ∨ t = Tag.time) : t ∈ noRaw addTags2 := by
  obtain rfl | rfl := h <;> decide

theorem mem_of_mem_noRaw {l : List Tag} (h : t ∈ noRaw l) : t ∈ l := (List.mem_filter.1 h).1

theorem mem_addTags_of_mem_addTags2 (h : t ∈ addTags2) : t ∈ addTags := by
  revert t; decide

section rows

variable {w : Word} {c v : Bool} {o : SumOut} {C V O : Prop} [Decidable C] [Decidable V] [Decidable O]

theorem aluAdd_of_row (hb : SecondIs a op read b) (ha : a.tag ∈ addTags) (h2 : b.tag ∈ addTags2)
    (hs : sumOf a b = some ⟨⟨t, w⟩, c, v⟩) (hc : c = true ↔ C) (hv : v = true ↔ V) :
    aluAdd a op read = .ok (⟨t, w⟩, some (FlagsAre w C V)) := by
  have hbin := binary_of_some hb (checkTag_of_mem ha ha) (checkTag_of_mem (mem_addTags_of_mem_addTags2 h2) h2) hs
  rw [aluAdd, hbin]
  exact congrArg Except.ok (SumOut.out_eq hc hv)

theorem aluSub_of_row (hb : SecondIs a op read b) (ha : a.tag ∈ addTags) (h2 : b.tag ∈ addTags)
    (hs : diffOf a b = some ⟨⟨t, w⟩, c, v⟩) (hc : c = true ↔ C) (hv : v = true ↔ V) :
    aluSub a op read = .ok (⟨t, w⟩, some (FlagsAre w C V)) := by
  have hbin := binary_of_some hb (checkTag_of_mem ha ha) (checkTag_of_mem h2 h2) hs
  rw [aluSub, hbin]
  exact congrArg Except.ok (SumOut.out_eq hc hv)

/-- ADDT is ADD but for its overflow. -/
theorem aluAddt_of_row (hb : SecondIs a op read b) (ha : a.tag ∈ noRaw addTags) (h2 : b.tag ∈ noRaw addTags2)
    (hs : sumOf a b = some o) (ho : o.overflows = true ↔ O) :
    aluAddt a op read = if O then .error excOverflow else aluAdd a op read := by
  have ha' := mem_of_mem_noRaw ha
  have h2' := mem_of_mem_noRaw h2
  have hb2 := mem_addTags_of_mem_addTags2 h2'
  rw [aluAddt, aluAdd, binary_of_some hb (checkTag_of_mem ha' ha) (checkTag_of_mem hb2 h2) hs,
    binary_of_some hb (checkTag_of_mem ha' ha') (checkTag_of_mem hb2 h2') hs]
  exact if_congr ho rfl rfl

/-- SUBT is SUB but for its overflow. -/
theorem aluSubt_of_row (hb : SecondIs a op read b) (ha : a.tag ∈ noRaw addTags) (h2 : b.tag ∈ noRaw addTags)
    (hs : diffOf a b = some o) (ho : o.overflows = true ↔ O) :
    aluSubt a op read = if O then .error excOverflow else aluSub a op read := by
  have ha' := mem_of_mem_noRaw ha
  have h2' := mem_of_mem_noRaw h2
  rw [aluSubt, aluSub, binary_of_some hb (checkTag_of_mem ha' ha) (checkTag_of_mem h2' h2) hs,
    binary_of_some hb (checkTag_of_mem ha' ha') (checkTag_of_mem h2' h2') hs]
  exact if_congr ho rfl rfl

end rows

/-! ### The combinations that the table refuses -/

/-- The T forms refuse RAW as their first operand. -/
theorem aluAddt_aluSubt_of_raw (ha : a.tag = Tag.raw) :
    aluAddt a op read = .error (excTag tdMismatch 0) ∧ aluSubt a op read = .error (excTag tdMismatch 0) := by
  have hck : checkTag 0 (noRaw addTags) a = .error (excTag tdMismatch 0) :=
    checkTag_of_not_mem (by rw [ha]; decide) (by rw [ha]; decide)
  rw [aluAddt, aluSubt, binary_of_first_error hck, binary_of_first_error hck]
  exact ⟨rfl, rfl⟩

/-- First operands beside which an immediate stands for an INT. -/
theorem mem_noRaw_of_int_or_addr (h : t = Tag.int ∨ AddrTag t) : t ∈ noRaw addTags ∧ t ∉ [Tag.uint, Tag.raw] := by
  obtain rfl | rfl | rfl | rfl := h <;> decide

/-- The second operand of a refused combination is in a register, which the fault names. -/
theorem aluAdd_mismatch (hb : SecondIs a op read b) (ha : a.tag = Tag.int ∨ AddrTag a.tag) (hbt : AddrTag b.tag)
    (hs : sumOf a b = none) :
    aluAdd a op read = .error (excTag tdMismatch 1) ∧ aluAddt a op read = .error (excTag tdMismatch 1) := by
  obtain ⟨hT, himm⟩ := mem_noRaw_of_int_or_addr ha
  have haT := mem_of_mem_noRaw hT
  have hbT := mem_of_mem_noRaw hbt.mem_noRaw
  obtain ⟨r, rfl, rfl⟩ := hb.is_reg himm hbt.ne_int
  rw [aluAdd, aluAddt, binary_reg_mismatch (checkTag_of_mem haT haT) hbT hs,
    binary_reg_mismatch (checkTag_of_mem haT hT) hbT hs]
  exact ⟨rfl, rfl⟩

theorem aluSub_mismatch (hb : SecondIs a op read b) (ha : a.tag = Tag.int ∨ AddrTag a.tag) (hbt : AddrTag b.tag)
    (hs : diffOf a b = none) :
    aluSub a op read = .error (excTag tdMismatch 1) ∧ aluSubt a op read = .error (excTag tdMismatch 1) := by
  obtain ⟨hT, himm⟩ := mem_noRaw_of_int_or_addr ha
  have haT := mem_of_mem_noRaw hT
  have hbT := mem_of_mem_noRaw hbt.mem_noRaw
  obtain ⟨r, rfl, rfl⟩ := hb.is_reg himm hbt.ne_int
  rw [aluSub, aluSubt, binary_reg_mismatch (checkTag_of_mem haT haT) hbT hs,
    binary_reg_mismatch (checkTag_of_mem haT hT) hbT hs]
  exact ⟨rfl, rfl⟩

end Sys2Proof.Machine
end

section
/-! The obligations of the programming model's arithmetic and tags. -/

namespace Sys2Proof.ProgrammingModel

open Sys2Proof.Machine

/-- Settles O12: CHK does its one check in the state after its issue, and either ends there or takes the exception. -/
theorem checkTag : Obligations.CheckTag := by
  intro s0 s i rs mask hi
  refine ⟨fun hm => ⟨_, exec_chk_ok hi hm, ?_, onlyPens_setPen.trans onlyPens_modPen⟩, fun hm => exec_chk_error hi hm⟩
  rw [State.modPen_pen_same, State.issued_pen]
  exact Pen.done_advanced _ _

/-- Settles O9, row by row of the table: the operands pass, the row gives the result with its carry, and a T form traps on
the carry or the overflow as the result's tag says. -/
theorem additiveTable : Obligations.AdditiveTable := by
  rintro ⟨ta, x⟩ ⟨tb, y⟩ op read hb mixed apart out add sub
  have hadd : addV x y = true ↔ x.saddOverflow y = true := by rw [addV_eq]
  have hsub : subV x y = true ↔ x.ssubOverflow y = true := by rw [subV_eq]
  have ⟨intT, intT2⟩ := SameTag.mem_noRaw (t := Tag.int) (.inl rfl) (by decide)
  refine ⟨?same, ?signed, ?unsigned, ?raw, ?addrInt, ?intAddr, ?addrAddr⟩
  case same =>
    rintro ⟨rfl : ta = tb, ht : SameTag ta⟩
    obtain ⟨h1, h2⟩ := ht.mem_addTags
    exact ⟨aluAdd_of_row hb h1 h2 (sumOf_same x y ht) Iff.rfl hadd,
      aluSub_of_row hb h1 h1 (diffOf_same x y ht) Iff.rfl hsub⟩
  case signed =>
    rintro ⟨rfl : ta = tb, ht : ta = Tag.int ∨ ta = Tag.fixq⟩
    have hs : SameTag ta := ht.imp_right fun h => .inr (.inl h)
    obtain ⟨h1, h2⟩ := hs.mem_noRaw (by rintro rfl; revert ht; decide)
    exact ⟨aluAddt_of_row hb h1 h2 (sumOf_same x y hs) ((SumOut.overflows_iff_v ht).trans hadd),
      aluSubt_of_row hb h1 h1 (diffOf_same x y hs) ((SumOut.overflows_iff_v ht).trans hsub)⟩
  case unsigned =>
    rintro ⟨rfl : ta = Tag.uint, rfl : tb = Tag.uint⟩
    have hs : SameTag Tag.uint := .inr (.inl rfl)
    obtain ⟨h1, h2⟩ := hs.mem_noRaw (by decide)
    exact ⟨aluAddt_of_row hb h1 h2 (sumOf_same x y hs) (SumOut.overflows_iff_c (.inl rfl)),
      aluSubt_of_row hb h1 h1 (diffOf_same x y hs) (SumOut.overflows_iff_c (.inl rfl))⟩
  case raw =>
    rintro ⟨ha, -⟩
    exact aluAddt_aluSubt_of_raw ha
  case addrInt =>
    rintro ⟨ht : AddrTag ta, rfl : tb = Tag.int⟩
    have h1 := ht.mem_noRaw
    have hsum := sumOf_addr_int x y ht
    have hdiff := diffOf_addr_int x y ht
    have hc := addMixedC_iff x y
    have hd := subMixedC_iff x y
    exact ⟨aluAdd_of_row hb (mem_of_mem_noRaw h1) (mem_of_mem_noRaw intT2) hsum hc hadd,
      aluSub_of_row hb (mem_of_mem_noRaw h1) (mem_of_mem_noRaw intT) hdiff hd hsub,
      aluAddt_of_row hb h1 intT2 hsum ((SumOut.overflows_iff_c (.inr ht)).trans hc),
      aluSubt_of_row hb h1 intT hdiff ((SumOut.overflows_iff_c (.inr ht)).trans hd)⟩
  case intAddr =>
    rintro ⟨rfl : ta = Tag.int, ht : tb = Tag.ptr ∨ tb = Tag.time⟩
    have hb2 := ptr_or_time_mem_noRaw ht
    have haddr : AddrTag tb := ht.imp_right .inr
    have hsum := sumOf_int_addr x y ht
    have hc := addMixedC_iff y x
    exact ⟨aluAdd_of_row hb (mem_of_mem_noRaw intT) (mem_of_mem_noRaw hb2) hsum hc hadd,
      aluAddt_of_row hb intT hb2 hsum ((SumOut.overflows_iff_c (.inr haddr)).trans hc),
      aluSub_mismatch hb (.inl rfl) haddr (diffOf_int_addr x y ht)⟩
  case addrAddr =>
    rintro ⟨rfl : ta = tb, ht : AddrTag ta⟩
    have h1 := ht.mem_noRaw
    have hdiff := diffOf_addr_addr x y ht
    exact ⟨aluSub_of_row hb (mem_of_mem_noRaw h1) (mem_of_mem_noRaw h1) hdiff Iff.rfl hsub,
      aluSubt_of_row hb h1 h1 hdiff ((SumOut.overflows_iff_v (.inl rfl)).trans hsub),
      aluAdd_mismatch hb (.inr ht) ht (sumOf_addr_addr x y ht)⟩

end Sys2Proof.ProgrammingModel
end

section
/-! Shifts and CLZ (R137, R172): the flags NZ, the checks of the value and the amount, what each shift computes, and the
count of leading zeros. -/

namespace Sys2Proof.Machine

/-- Pattern NZCV takes N from bit 63 (R164). -/
theorem flagsNzcv_eq (w : Word) (c v : Bool) : flagsNzcv w c v = FlagsAre w (c = true) (v = true) := by
  simp only [flagsNzcv, FlagsAre, bitAt, BitVec.msb_eq_getLsbD_last, Bool.decide_eq_true]

theorem flagsNz_eq (w : Word) : flagsNz w = mkFlags w.msb (w = 0) false false := flagsNzcv_eq w false false

/-! ### The shifts -/

/-- The tags of arithmetic on bare numbers, among which R172 lists those of each shift, are additive tags. -/
theorem checkTag_of_mem_arithTags {l : List Tag} {n : Nat} {w : TWord} (hl : l ⊆ arithTags) (hw : w.tag ∈ l) :
    checkTag n l w = .ok () :=
  checkTag_of_mem ((by decide : arithTags ⊆ addTags) (hl hw)) hw

/-- A shift of a value of an accepted tag by an amount of an accepted tag. -/
theorem aluShift_of_amountIs {l : List Tag} {a : TWord} {n : Amt} {read : Reg → TWord} {k : Nat}
    {f : Word → Nat → Word} {w : Word} (hn : AmountIs n read k) (ha : checkTag 0 l a = .ok ()) (hf : f a.val k = w) :
    aluShift l f a n read = .ok (⟨a.tag, w⟩, some (mkFlags w.msb (w = 0) false false)) := by
  rw [← flagsNz_eq, ← hf]
  cases n with
  | imm i =>
    obtain rfl : k = i.toNat := hn
    rw [aluShift, ha]; rfl
  | reg r =>
    obtain ⟨ht, rfl⟩ := hn
    have hr : checkTag 1 [Tag.int, Tag.uint, Tag.raw] (read r) = .ok () :=
      checkTag_of_mem_arithTags (by decide) (by simpa using ht)
    simp only [aluShift, ha, hr]; rfl

theorem shlOf_eq (w : Word) (k : Nat) : shlOf w k = if k < 64 then BitVec.ofNat 64 (w.toNat * 2 ^ k) else 0 := by
  refine if_congr Iff.rfl (BitVec.eq_of_toNat_eq ?_) rfl
  rw [BitVec.toNat_shiftLeft, BitVec.toNat_ofNat, Nat.shiftLeft_eq]

theorem shrOf_eq (w : Word) (k : Nat) : shrOf w k = if k < 64 then BitVec.ofNat 64 (w.toNat / 2 ^ k) else 0 := by
  refine if_congr Iff.rfl (BitVec.eq_of_toNat_eq ?_) rfl
  rw [BitVec.toNat_ushiftRight, BitVec.toNat_ofNat, Nat.shiftRight_eq_div_pow,
    Nat.mod_eq_of_lt ((Nat.div_le_self _ _).trans_lt w.isLt)]

/-- By 64 places an arithmetic shift leaves copies of bit 63 alone. -/
theorem sshiftRight_64 (w : Word) : w.sshiftRight 64 = if w.msb then BitVec.allOnes 64 else 0 := by
  ext i hi
  rw [BitVec.getElem_sshiftRight, dif_neg (by omega)]
  cases w.msb with
  | false => exact (BitVec.getElem_zero hi).symm
  | true => exact (BitVec.getElem_allOnes i hi).symm

theorem sarOf_eq (w : Word) (k : Nat) :
    sarOf w k = if k < 64 then BitVec.ofInt 64 (w.toInt / 2 ^ k) else if w.msb then BitVec.allOnes 64 else 0 := by
  rw [sarOf]
  split
  · next hk =>
    rw [Nat.min_eq_left hk.le, BitVec.sshiftRight_eq, Int.shiftRight_eq_div_pow]
    norm_cast
  · next hk => rw [Nat.min_eq_right (by omega), sshiftRight_64]

/-- A rotation is the sum of the bits moved up and the bits that come round, which do not overlap. -/
theorem rolOf_eq (w : Word) (k : Nat) :
    rolOf w k = BitVec.ofNat 64 (w.toNat * 2 ^ (k % 64) + w.toNat / 2 ^ (64 - k % 64)) := by
  have hm : k % 64 < 64 := Nat.mod_lt _ (by decide)
  have hround : w.toNat / 2 ^ (64 - k % 64) < 2 ^ (k % 64) := by
    rw [Nat.div_lt_iff_lt_mul (by positivity), ← pow_add, Nat.add_sub_cancel' hm.le]
    exact w.isLt
  have hsmall : w.toNat / 2 ^ (64 - k % 64) < 2 ^ 64 := (Nat.div_le_self _ _).trans_lt w.isLt
  refine BitVec.eq_of_toNat_eq ?_
  rw [rolOf, BitVec.toNat_rotateLeft, Nat.mod_mod, BitVec.toNat_ofNat, Nat.shiftRight_eq_div_pow, ← Nat.shiftLeft_eq,
    Nat.shiftLeft_add_eq_or_of_lt hround, Nat.or_mod_two_pow, Nat.mod_eq_of_lt hsmall]

/-! ### Leading zeros -/

/-- The model's count says where the highest 1 of the low `n` bits stands: only zeros lie above it. -/
theorem clzGo_spec (n w : Nat) : clzGo n w ≤ n ∧ (∀ j, j < clzGo n w → w.testBit (n - 1 - j) = false) ∧
    (clzGo n w < n → w.testBit (n - 1 - clzGo n w) = true) := by
  induction n with
  | zero => exact ⟨le_rfl, fun j hj => absurd hj (Nat.not_lt_zero j), fun h => absurd h (Nat.lt_irrefl 0)⟩
  | succ n ih =>
    obtain ⟨hle, hzero, hone⟩ := ih
    cases htop : w.testBit n with
    | true => simp [clzGo, htop]
    | false =>
      have hgo : clzGo (n + 1) w = clzGo n w + 1 := by rw [clzGo, htop, if_neg Bool.false_ne_true, Nat.add_comm]
      refine ⟨by omega, fun j hj => ?_, fun h => ?_⟩
      · cases j with
        | zero => exact htop
        | succ j =>
          rw [show n + 1 - 1 - (j + 1) = n - 1 - j by omega]
          exact hzero j (by omega)
      · rw [hgo, show n + 1 - 1 - (clzGo n w + 1) = n - 1 - clzGo n w by omega]
        exact hone (by omega)

/-- A count of at most 64 has bit 63 clear, and is 0 as a word where it is 0. -/
theorem flagsNz_ofNat_of_le {n : Nat} (h : n ≤ 64) :
    flagsNz (BitVec.ofNat 64 n) = mkFlags false (n = 0) false false := by
  have hmsb : (BitVec.ofNat 64 n).msb = false := by rw [BitVec.msb_eq_false_iff_two_mul_lt, BitVec.toNat_ofNat]; omega
  have hzero : BitVec.ofNat 64 n = 0 ↔ n = 0 := by
    rw [← BitVec.toNat_inj, BitVec.toNat_ofNat]
    exact iff_of_eq (congrArg (· = 0) (Nat.mod_eq_of_lt (by omega)))
  rw [flagsNz_eq, hmsb, decide_eq_decide.2 hzero]

theorem aluClz_of_checkTag {a : TWord} (ha : checkTag 0 [Tag.int, Tag.uint, Tag.raw] a = .ok ()) :
    aluClz a = .ok (TWord.uint (BitVec.ofNat 64 (clzGo 64 a.val.toNat)),
      some (mkFlags false (clzGo 64 a.val.toNat = 0) false false)) := by
  rw [← flagsNz_ofNat_of_le (clzGo_spec 64 a.val.toNat).1, aluClz, ha]; rfl

end Sys2Proof.Machine
end

section
/-! Multiply and divide (R168, R169): the exact products and quotients, when they fit, and the instructions on a row of the
table. -/

namespace Sys2Proof.Machine

/-! ### Exact results -/

theorem fitsInt_eq (p : Int) : fitsInt p = decide (-(2 ^ 63) ≤ p ∧ p < 2 ^ 63) := by
  rw [fitsInt, Bool.decide_and]

/-- A quotient is in magnitude at most the dividend, so it leaves the signed range only as 2^63. -/
theorem tdiv_fits_iff {a : Int} (b : Int) (ha : -(2 ^ 63) ≤ a ∧ a < 2 ^ 63) :
    (-(2 ^ 63) ≤ a.tdiv b ∧ a.tdiv b < 2 ^ 63) ↔ ¬(a = -(2 ^ 63) ∧ b = -1) := by
  have hquot : (a.tdiv b).natAbs = a.natAbs / b.natAbs := Int.natAbs_tdiv a b
  by_cases hbig : 2 ≤ b.natAbs
  · have hhalf : a.natAbs / b.natAbs ≤ a.natAbs / 2 := Nat.div_le_div_left hbig (by decide)
    omega
  · obtain rfl | rfl | rfl : b = 0 ∨ b = 1 ∨ b = -1 := by omega
    · rw [Int.tdiv_zero]; omega
    · rw [Int.tdiv_one]; omega
    · rw [Int.tdiv_neg, Int.tdiv_one]; omega

/-- A signed quotient overflows only for the most negative value divided by −1 (R169). -/
theorem not_fitsInt_tdiv (x y : Word) :
    (!fitsInt (x.toInt.tdiv y.toInt)) = decide (x = 0x8000000000000000 ∧ y.toInt = -1) := by
  have hmin : x = 0x8000000000000000 ↔ x.toInt = -(2 ^ 63) := BitVec.toInt_inj.symm
  have hx : -(2 ^ 63) ≤ x.toInt ∧ x.toInt < 2 ^ 63 := ⟨BitVec.le_toInt x, BitVec.toInt_lt⟩
  rw [fitsInt_eq, ← decide_not, decide_eq_decide, tdiv_fits_iff _ hx, not_not, hmin]

/-! ### The rows of the table (R169) -/

section rows

variable (x y : Word)

theorem mulOf_int : mulOf ⟨Tag.int, x⟩ ⟨Tag.int, y⟩ =
    some ⟨⟨Tag.int, BitVec.ofInt 64 (x.toInt * y.toInt)⟩, false, !fitsInt (x.toInt * y.toInt)⟩ := rfl

theorem mulOf_uint : mulOf ⟨Tag.uint, x⟩ ⟨Tag.uint, y⟩ =
    some ⟨⟨Tag.uint, BitVec.ofInt 64 (x.toNat * y.toNat)⟩, decide (2 ^ 64 ≤ x.toNat * y.toNat), false⟩ := by
  rw [← Nat.cast_mul, BitVec.ofInt_natCast]; rfl

theorem mulOf_raw : mulOf ⟨Tag.raw, x⟩ ⟨Tag.raw, y⟩ =
    some ⟨⟨Tag.raw, BitVec.ofInt 64 (x.toNat * y.toNat)⟩, false, false⟩ := by
  rw [← Nat.cast_mul, BitVec.ofInt_natCast]; rfl

theorem mulOf_fixq : mulOf ⟨Tag.fixq, x⟩ ⟨Tag.fixq, y⟩ =
    some ⟨⟨Tag.fixq, BitVec.ofInt 64 (x.toInt * y.toInt / 2 ^ 32)⟩, false, !fitsInt (x.toInt * y.toInt / 2 ^ 32)⟩ := rfl

theorem mulOf_fixq_int {ta tb : Tag} (h : (ta = Tag.fixq ∧ tb = Tag.int) ∨ (ta = Tag.int ∧ tb = Tag.fixq)) :
    mulOf ⟨ta, x⟩ ⟨tb, y⟩ =
      some ⟨⟨Tag.fixq, BitVec.ofInt 64 (x.toInt * y.toInt)⟩, false, !fitsInt (x.toInt * y.toInt)⟩ := by
  obtain ⟨rfl, rfl⟩ | ⟨rfl, rfl⟩ := h <;> rfl

theorem mulhOf_int : mulhOf ⟨Tag.int, x⟩ ⟨Tag.int, y⟩ =
    some ⟨Tag.int, BitVec.ofInt 64 (x.toInt * y.toInt / 2 ^ 64)⟩ := rfl

theorem mulhOf_uint_or_raw {t : Tag} (h : t = Tag.uint ∨ t = Tag.raw) : mulhOf ⟨t, x⟩ ⟨t, y⟩ =
    some ⟨t, BitVec.ofInt 64 (x.toNat * y.toNat / 2 ^ 64)⟩ := by
  have hcast : (x.toNat * y.toNat / 2 ^ 64 : Int) = (x.toNat * y.toNat / 2 ^ 64 : Nat) := by norm_cast
  rw [hcast, BitVec.ofInt_natCast]
  obtain rfl | rfl := h <;> rfl

theorem divOf_int {t : Tag} (h : t = Tag.int ∨ t = Tag.fixq) : divOf ⟨t, x⟩ ⟨Tag.int, y⟩ =
    some (⟨t, BitVec.ofInt 64 (x.toInt.tdiv y.toInt)⟩, decide (x = 0x8000000000000000 ∧ y.toInt = -1)) := by
  rw [← not_fitsInt_tdiv]
  obtain rfl | rfl := h <;> rfl

theorem divOf_uint : divOf ⟨Tag.uint, x⟩ ⟨Tag.uint, y⟩ =
    some (⟨Tag.uint, BitVec.ofInt 64 (x.toNat / y.toNat : Nat)⟩, false) := by
  rw [BitVec.ofInt_natCast]; rfl

theorem divOf_fixq : divOf ⟨Tag.fixq, x⟩ ⟨Tag.fixq, y⟩ =
    some (⟨Tag.fixq, BitVec.ofInt 64 ((x.toInt * 2 ^ 32).tdiv y.toInt)⟩,
      !fitsInt ((x.toInt * 2 ^ 32).tdiv y.toInt)) := rfl

/-- The remainder is what the truncated quotient leaves. -/
theorem remOf_int : remOf ⟨Tag.int, x⟩ ⟨Tag.int, y⟩ =
    some (⟨Tag.int, BitVec.ofInt 64 (x.toInt - x.toInt.tdiv y.toInt * y.toInt)⟩,
      decide (x = 0x8000000000000000 ∧ y.toInt = -1)) := by
  rw [← not_fitsInt_tdiv, ← eq_sub_of_add_eq (Int.tmod_add_tdiv_mul x.toInt y.toInt)]; rfl

theorem remOf_uint : remOf ⟨Tag.uint, x⟩ ⟨Tag.uint, y⟩ =
    some (⟨Tag.uint, BitVec.ofInt 64 (x.toNat % y.toNat : Nat)⟩, false) := by
  rw [BitVec.ofInt_natCast]; rfl

end rows

/-! ### The instructions on a row of the table -/

variable {a b : TWord} {op : Src} {r : Reg} {read : Reg → TWord} {t : Tag} {w : Word} {c v : Bool}

theorem aluMul_of_row (hb : SecondIs a op read b) (ha : checkTag 0 mulTags a = .ok ()) (h1 : checkTag 1 mulTags b = .ok ())
    (hs : mulOf a b = some ⟨⟨t, w⟩, c, v⟩) :
    aluMul a op read = .ok (⟨t, w⟩, some (FlagsAre w (c = true) (v = true))) := by
  rw [aluMul, binary_of_some hb ha h1 hs]
  exact congrArg Except.ok (SumOut.out_eq Iff.rfl Iff.rfl)

theorem aluMulh_of_row (hr : read r = b) (ha : checkTag 0 mulhTags a = .ok ()) (h1 : checkTag 1 mulhTags b = .ok ())
    (hs : mulhOf a b = some ⟨t, w⟩) : aluMulh a r read = .ok (⟨t, w⟩, some (FlagsAre w False False)) := by
  have hb : SecondIs a (.reg r) read b := hr
  have hfl : flagsNz w = FlagsAre w False False := flagsNz_eq w
  rw [aluMulh, binary_of_some hb ha h1 hs, ← hfl]; rfl

/-- A divide whose operands pass ends in DIVZERO, or in its row's result with C clear. -/
theorem divide_of_row {l0 l1 : List Tag} {f : TWord → TWord → Option (TWord × Bool)} {trap : Bool}
    (ha : checkTag 0 l0 a = .ok ()) (h1 : checkTag 1 l1 b = .ok ()) (hf : f a b = some (⟨t, w⟩, v)) :
    divide l0 l1 f trap a b =
      if b.val = 0 then .error excDivzero else .ok ⟨⟨t, w⟩, FlagsAre w False (v = true), trap && v⟩ := by
  have hfl : flagsNzcv w false v = FlagsAre w False (v = true) := flagsNzcv_eq w false v
  rw [divide, ha, h1, ← hfl]
  simp only [hf]; rfl

end Sys2Proof.Machine
end

section
/-! The obligations of the instructions' results. -/

namespace Sys2Proof.MarkaiInstructions

open Sys2Proof.Machine

/-- Settles O10: each operation passes its tags, then computes what R172 gives for the amount. -/
theorem shiftResults : Obligations.ShiftResults := by
  refine ⟨fun a n read k hn => ⟨fun ha => ?_, fun ha => ?_⟩, fun a ha => ?_⟩
  · have hck := checkTag_of_mem_arithTags (n := 0) (l := arithTags) (by decide) ha
    exact ⟨aluShift_of_amountIs hn hck (shlOf_eq a.val k), aluShift_of_amountIs hn hck (sarOf_eq a.val k)⟩
  · have hck := checkTag_of_mem_arithTags (n := 0) (l := bitTags) (by decide) ha
    exact ⟨aluShift_of_amountIs hn hck (shrOf_eq a.val k), aluShift_of_amountIs hn hck (rolOf_eq a.val k)⟩
  · obtain ⟨hle, hzero, hone⟩ := clzGo_spec 64 a.val.toNat
    exact ⟨_, hle, hzero, hone, aluClz_of_checkTag (checkTag_of_mem_arithTags (by decide) ha)⟩

/-- Settles O14, row by row of R169's table: the operands pass, the row gives the exact result reduced to 64 bits with its C
and V, and a divisor 0 is DIVZERO. -/
theorem mulDivResults : Obligations.MulDivResults := by
  rintro ⟨ta, x⟩ ⟨tb, y⟩ op r read hb hr A B fits mul mulh res
  have hfits (p : Int) : fitsInt p = fits p := fitsInt_eq p
  refine ⟨?mulInt, ?mulUint, ?mulRaw, ?mulFixq, ?mulMixed, ?divInt, ?divUint, ?divFixq, ?remInt⟩
  case mulInt =>
    rintro ⟨rfl : ta = Tag.int, rfl : tb = Tag.int⟩
    exact ⟨aluMul_of_row hb rfl rfl (hfits _ ▸ mulOf_int x y), aluMulh_of_row hr rfl rfl (mulhOf_int x y)⟩
  case mulUint =>
    rintro ⟨rfl : ta = Tag.uint, rfl : tb = Tag.uint⟩
    exact ⟨aluMul_of_row hb rfl rfl (mulOf_uint x y), aluMulh_of_row hr rfl rfl (mulhOf_uint_or_raw x y (.inl rfl))⟩
  case mulRaw =>
    rintro ⟨rfl : ta = Tag.raw, rfl : tb = Tag.raw⟩
    exact ⟨aluMul_of_row hb rfl rfl (mulOf_raw x y), aluMulh_of_row hr rfl rfl (mulhOf_uint_or_raw x y (.inr rfl))⟩
  case mulFixq =>
    rintro ⟨rfl : ta = Tag.fixq, rfl : tb = Tag.fixq⟩
    exact aluMul_of_row hb rfl rfl (hfits _ ▸ mulOf_fixq x y)
  case mulMixed =>
    intro ht
    have hrow := hfits _ ▸ mulOf_fixq_int x y ht
    obtain ⟨rfl : ta = Tag.fixq, rfl : tb = Tag.int⟩ | ⟨rfl : ta = Tag.int, rfl : tb = Tag.fixq⟩ := ht
    · exact aluMul_of_row hb rfl rfl hrow
    · exact aluMul_of_row hb rfl rfl hrow
  case divInt =>
    rintro (⟨rfl : ta = Tag.int, rfl : tb = Tag.int⟩ | ⟨rfl : ta = Tag.fixq, rfl : tb = Tag.int⟩) trap
    · exact divide_of_row rfl rfl (divOf_int x y (.inl rfl))
    · exact divide_of_row rfl rfl (divOf_int x y (.inr rfl))
  case divUint =>
    rintro ⟨rfl : ta = Tag.uint, rfl : tb = Tag.uint⟩
    refine ⟨fun trap => ?_, divide_of_row rfl rfl (remOf_uint x y)⟩
    rw [aluDiv, divide_of_row rfl rfl (divOf_uint x y), Bool.and_false]
  case divFixq =>
    rintro ⟨rfl : ta = Tag.fixq, rfl : tb = Tag.fixq⟩ trap
    exact divide_of_row rfl rfl (hfits _ ▸ divOf_fixq x y)
  case remInt =>
    rintro ⟨rfl : ta = Tag.int, rfl : tb = Tag.int⟩
    exact divide_of_row rfl rfl (remOf_int x y)

end Sys2Proof.MarkaiInstructions
end

section
/-! The step and the queue of waiting commands (R24, R211): every command keeps the queue and the canonical form of the two
memories, and an empty queue lets one cycle pass. -/

namespace Sys2Proof.Machine

/-- Every command keeps the queue of waiting commands and the canonical form, row by row of the table. -/
theorem exec_keeps {pq : List Instr} {c : Instr} {s : State} (hk : Keeps pq s) : OutKeeps pq (exec c s) :=
  match c with
  | .add .. => execAdd_keeps hk
  | .addt .. => execAddt_keeps hk
  | .sub .. => execSub_keeps hk
  | .subt .. => execSubt_keeps hk
  | .neg .. => execNeg_keeps hk
  | .negt .. => execNegt_keeps hk
  | .mul .. => execMul_keeps hk
  | .mulh .. => execMulh_keeps hk
  | .mulWriteback .. => execMulWriteback_keeps hk
  | .div .. => execDiv_keeps hk
  | .divt .. => execDivt_keeps hk
  | .rem .. => execRem_keeps hk
  | .divideComplete .. => execDivideComplete_keeps hk
  | .and .. => execAnd_keeps hk
  | .or .. => execOr_keeps hk
  | .xor .. => execXor_keeps hk
  | .shl .. => execShl_keeps hk
  | .shr .. => execShr_keeps hk
  | .sar .. => execSar_keeps hk
  | .rol .. => execRol_keeps hk
  | .clz .. => execClz_keeps hk
  | .bfx .. => execBfx_keeps hk
  | .bfi .. => execBfi_keeps hk
  | .perm .. => execPerm_keeps hk
  | .tag .. => execTag_keeps hk
  | .tagof .. => execTagof_keeps hk
  | .chk .. => execChk_keeps hk
  | .poison .. => execPoison_keeps hk
  | .ld .. => execLd_keeps hk
  | .st .. => execSt_keeps hk
  | .ldb .. => execLdb_keeps hk
  | .ldh .. => execLdh_keeps hk
  | .ldw .. => execLdw_keeps hk
  | .stb .. => execStb_keeps hk
  | .sth .. => execSth_keeps hk
  | .stw .. => execStw_keeps hk
  | .atadd .. => execAtadd_keeps hk
  | .atswp .. => execAtswp_keeps hk
  | .loadWriteback .. => execLoadWriteback_keeps hk
  | .fabricResponse .. => execFabricResponse_keeps hk
  | .storeDrain .. => execStoreDrain_keeps hk
  | .storeAck .. => execStoreAck_keeps hk
  | .draftCopyComplete .. => execDraftCopyComplete_keeps hk
  | .tableWalkDone .. => execTableWalkDone_keeps hk
  | .blkcpy .. => execBlkcpy_keeps hk
  | .blkfill .. => execBlkfill_keeps hk
  | .blkcmp .. => execBlkcmp_keeps hk
  | .blkcrc .. => execBlkcrc_keeps hk
  | .b .. => execB_keeps hk
  | .bcc .. => execBcc_keeps hk
  | .call .. => execCall_keeps hk
  | .bRegister .. => execBRegister_keeps hk
  | .callRegister .. => execCallRegister_keeps hk
  | .ret .. => execRet_keeps hk
  | .eret .. => execEret_keeps hk
  | .gret .. => execGret_keeps hk
  | .gate .. => execGate_keeps hk
  | .mask .. => execMask_keeps hk
  | .feat .. => execFeat_keeps hk
  | .sealReg .. => execSealReg_keeps hk
  | .tlbinvUnlocked .. => execTlbinvUnlocked_keeps hk
  | .tlbinvAll .. => execTlbinvAll_keeps hk
  | .tlbinvPage .. => execTlbinvPage_keeps hk
  | .ipi .. => execIpi_keeps hk
  | .fence .. => execFence_keeps hk
  | .linend .. => execLinend_keeps hk
  | .interruptEntry .. => execInterruptEntry_keeps hk
  | .ipiArrive .. => execIpiArrive_keeps hk
  | .penFault .. => execPenFault_keeps hk
  | .crosslinkDisagree .. => execCrosslinkDisagree_keeps hk
  | .folioTick => execFolioTick_keeps hk
  | .runStart .. => execRunStart_keeps hk
  | .recoveryRunStart .. => execRecoveryRunStart_keeps hk
  | .runBudgetEnd .. => execRunBudgetEnd_keeps hk
  | .commit .. => execCommit_keeps hk
  | .windowOpen .. => execWindowOpen_keeps hk
  | .windowClose .. => execWindowClose_keeps hk
  | .fetchMessage .. => execFetchMessage_keeps hk
  | .postMessage .. => execPostMessage_keeps hk
  | .queueInterrupt .. => execQueueInterrupt_keeps hk
  | .marchSegment .. => execMarchSegment_keeps hk
  | .selftestStart .. => execSelftestStart_keeps hk
  | .selftestVerdict .. => execSelftestVerdict_keeps hk
  | .resilverComplete .. => execResilverComplete_keeps hk
  | .redraftCompute => execRedraftCompute_keeps hk
  | .rulingStoreScrub .. => execRulingStoreScrub_keeps hk
  | .tickinEdge => execTickinEdge_keeps hk
  | .tickinMiss => execTickinMiss_keeps hk
  | .ppsEdge => execPpsEdge_keeps hk
  | .gptpSync .. => execGptpSync_keeps hk
  | .pdelayRequest .. => execPdelayRequest_keeps hk
  | .holdoverEntry => execHoldoverEntry_keeps hk
  | .rubricFirmwareReaction => execRubricFirmwareReaction_keeps hk
  | .voterMismatch .. => execVoterMismatch_keeps hk
  | .huvasNibCheck .. => execHuvasNibCheck_keeps hk
  | .huvasResync => execHuvasResync_keeps hk
  | .mailboxGo .. => execMailboxGo_keeps hk
  | .mailboxAbort .. => execMailboxAbort_keeps hk
  | .identify .. => execIdentify_keeps hk
  | .fwLoad .. => execFwLoad_keeps hk
  | .timeConfig .. => execTimeConfig_keeps hk
  | .memLoad .. => execMemLoad_keeps hk
  | .memRead .. => execMemRead_keeps hk
  | .vslotSet .. => execVslotSet_keeps hk
  | .partSetup .. => execPartSetup_keeps hk
  | .mirrorSet .. => execMirrorSet_keeps hk
  | .lslotSet .. => execLslotSet_keeps hk
  | .seqSel .. => execSeqSel_keeps hk
  | .rulingLoad .. => execRulingLoad_keeps hk
  | .rulingVerify .. => execRulingVerify_keeps hk
  | .rulingUnload .. => execRulingUnload_keeps hk
  | .activate .. => execActivate_keeps hk
  | .switchArm .. => execSwitchArm_keeps hk
  | .quiesce .. => execQuiesce_keeps hk
  | .rubricSet .. => execRubricSet_keeps hk
  | .eventRead .. => execEventRead_keeps hk
  | .bankHandover .. => execBankHandover_keeps hk
  | .scrub .. => execScrub_keeps hk
  | .march .. => execMarch_keeps hk
  | .marginRead .. => execMarginRead_keeps hk
  | .checkerTest .. => execCheckerTest_keeps hk
  | .queueSet .. => execQueueSet_keeps hk
  | .shareSet .. => execShareSet_keeps hk
  | .chansetSet .. => execChansetSet_keeps hk
  | .portRecordLoad .. => execPortRecordLoad_keeps hk
  | .tracePair .. => execTracePair_keeps hk
  | .traceDetach .. => execTraceDetach_keeps hk
  | .takeover .. => execTakeover_keeps hk
  | .penControl .. => execPenControl_keeps hk
  | .power .. => execPower_keeps hk
  | .dormant .. => execDormant_keeps hk
  | .superviseSet .. => execSuperviseSet_keeps hk
  | .debugEnable .. => execDebugEnable_keeps hk
  | .rulingEntryWrite .. => execRulingEntryWrite_keeps hk
  | .vtSlotWrite .. => execVtSlotWrite_keeps hk
  | .pxRecordWrite .. => execPxRecordWrite_keeps hk
  | .ptRecordWrite .. => execPtRecordWrite_keeps hk
  | .folioSwitchWrite .. => execFolioSwitchWrite_keeps hk
  | .penCtrlRestart .. => execPenCtrlRestart_keeps hk
  | .penCtrlFence .. => execPenCtrlFence_keeps hk
  | .penInjectArm .. => execPenInjectArm_keeps hk
  | .mmuInvAll .. => execMmuInvAll_keeps hk
  | .mmuLslotLoad .. => execMmuLslotLoad_keeps hk
  | .checkerInjectWrite .. => execCheckerInjectWrite_keeps hk
  | .blotScrubStart => execBlotScrubStart_keeps hk
  | .blotScrubAbort => execBlotScrubAbort_keeps hk
  | .scrubPassEnd .. => execScrubPassEnd_keeps hk
  | .blotMlClear => execBlotMlClear_keeps hk
  | .huvEqPop => execHuvEqPop_keeps hk
  | .hifQpWrite .. => execHifQpWrite_keeps hk
  | .trcListWrite .. => execTrcListWrite_keeps hk
  | .feedDescWrite .. => execFeedDescWrite_keeps hk
  | .submissionRequest .. => execSubmissionRequest_keeps hk
  | .domainRequestWrite .. => execDomainRequestWrite_keeps hk
  | .domainSwitchOff .. => execDomainSwitchOff_keeps hk
  | .domainSwitchOn .. => execDomainSwitchOn_keeps hk
  | .bankFillDone .. => execBankFillDone_keeps hk
  | .registerWrite .. => execRegisterWrite_keeps hk
  | .registerReadClear .. => execRegisterReadClear_keeps hk
  | .doorbell .. => execDoorbell_keeps hk
  | .inboundWrite .. => execInboundWrite_keeps hk
  | .inboundRead .. => execInboundRead_keeps hk
  | .hostCompletion .. => execHostCompletion_keeps hk
  | .completionTimeout .. => execCompletionTimeout_keeps hk
  | .msixUnmask .. => execMsixUnmask_keeps hk
  | .d3hotWrite => execD3hotWrite_keeps hk
  | .d0Write => execD0Write_keeps hk
  | .linkDown .. => execLinkDown_keeps hk
  | .linkUp .. => execLinkUp_keeps hk
  | .ideCheckFail .. => execIdeCheckFail_keeps hk
  | .ideKeySetGo .. => execIdeKeySetGo_keeps hk
  | .doeRequest .. => execDoeRequest_keeps hk
  | .doeAbort => execDoeAbort_keeps hk
  | .recordBegin .. => execRecordBegin_keeps hk
  | .recordUnit .. => execRecordUnit_keeps hk
  | .recordEnd .. => execRecordEnd_keeps hk
  | .recordAck .. => execRecordAck_keeps hk
  | .recordDigest .. => execRecordDigest_keeps hk
  | .recordFarewell .. => execRecordFarewell_keeps hk
  | .traceWatchdog => execTraceWatchdog_keeps hk
  | .ethFrameReceive .. => execEthFrameReceive_keeps hk
  | .ethFrameTransmit .. => execEthFrameTransmit_keeps hk
  | .ethLinkDown .. => execEthLinkDown_keeps hk
  | .ethLinkUp .. => execEthLinkUp_keeps hk
  | .canFrameReceive .. => execCanFrameReceive_keeps hk
  | .canFrameTransmit .. => execCanFrameTransmit_keeps hk
  | .canBusOffRecovery .. => execCanBusOffRecovery_keeps hk
  | .feedRecordWrite .. => execFeedRecordWrite_keeps hk
  | .gpioCapture .. => execGpioCapture_keeps hk
  | .gpioSample .. => execGpioSample_keeps hk
  | .gpioReadback .. => execGpioReadback_keeps hk
  | .vaonPowerOn => execVaonPowerOn_keeps hk
  | .mainRailsUp => execMainRailsUp_keeps hk
  | .mainPowerReset => execMainPowerReset_keeps hk
  | .resetNAssert => execResetNAssert_keeps hk
  | .jtagTrst => execJtagTrst_keeps hk
  | .clockFail => execClockFail_keeps hk
  | .pllEthUnlock => execPllEthUnlock_keeps hk
  | .pcieClockLoss => execPcieClockLoss_keeps hk
  | .xtalStop => execXtalStop_keeps hk
  | .fuseLoad .. => execFuseLoad_keeps hk
  | .fillDone .. => execFillDone_keeps hk
  | .romCheckDone .. => execRomCheckDone_keeps hk
  | .avsInterval .. => execAvsInterval_keeps hk
  | .avsTimeout => execAvsTimeout_keeps hk
  | .supplyExcursion .. => execSupplyExcursion_keeps hk
  | .tempConversion .. => execTempConversion_keeps hk
  | .dormantEnter => execDormantEnter_keeps hk
  | .wake .. => execWake_keeps hk
  | .illegalEncoding .. => execIllegalEncoding_keeps hk
  | .instructionBusFault .. => execInstructionBusFault_keeps hk
  | .avsAcknowledge .. => execAvsAcknowledge_keeps hk
  | .resetNRelease => execResetNRelease_keeps hk
  | .clockReturn => execClockReturn_keeps hk
  | .xtalStart => execXtalStart_keeps hk
  | .linkRetrain .. => execLinkRetrain_keeps hk
  | .configWrite .. => execConfigWrite_keeps hk
  | .pdelayReceive .. => execPdelayReceive_keeps hk
theorem keeps_of_inv {s : State} (h : s.Inv) : Keeps s.pending s := ⟨rfl, h.1, h.2⟩

theorem Keeps.inv {pq : List Instr} {s : State} (h : Keeps pq s) : s.Inv := ⟨h.mem, h.store⟩

theorem step_of_pending_nil {s : State} (h : s.pending = []) : step s = .next s.passCycle := by rw [step, h]

theorem step_of_pending_cons {s : State} {c : Instr} {cs : List Instr} (h : s.pending = c :: cs) :
    step s = exec c { s with pending := cs } := by rw [step, h]

/-- Without steering the increment of a cycle is the nominal one (R441). -/
theorem steeredInc_zero : steeredInc 0 = 2863311531 := by decide

/-- Requests that have had less than their time do not arrive (R211). -/
theorem State.arriveDue_of_none_due {s : State} (h : ∀ f ∈ s.flight, s.cyc < f.since + 6 * hops f.pen f.cpa) :
    s.arriveDue = s := by
  have hnil : s.flight.filter (fun f => f.since + 6 * hops f.pen f.cpa ≤ s.cyc) = [] := by
    rw [List.filter_eq_nil_iff]
    intro f hf
    have := h f hf
    simp only [decide_eq_true_eq]
    omega
  rw [State.arriveDue, hnil]
  rfl

/-- In the states with a running core clock a core cycle passes. -/
theorem State.passCycle_of_clocked {s : State} (hoff : s.dev ≠ .off) (hdor : s.dev ≠ .dormant) :
    s.passCycle = { s with cyc := s.cyc + 1, aon := s.aon.coreCycle }.arriveDue := by
  rw [State.passCycle]
  cases h : s.dev
  case off => exact absurd h hoff
  case dormant => exact absurd h hdor
  all_goals rfl

end Sys2Proof.Machine
end

section
/-! The obligations of the step. -/

namespace Sys2Proof.Architecture

open Sys2Proof.Machine

/-- Settles O1: both forms are the step's own equation for a queue that holds a command. -/
theorem stepRunsFrontCommand : Obligations.StepRunsFrontCommand := fun _ _ _ =>
  ⟨fun h => step_of_pending_cons h, step_of_pending_cons rfl⟩

/-- Settles O2: no request is due, so the cycle only counts and the counter gains its nominal increment. -/
theorem idleStepPassesCycle : Obligations.IdleStepPassesCycle := by
  intro s hpend hoff hdor hsteer hflight
  have hdue : { s with cyc := s.cyc + 1, aon := s.aon.coreCycle }.arriveDue =
      { s with cyc := s.cyc + 1, aon := s.aon.coreCycle } := State.arriveDue_of_none_due hflight
  refine ⟨{ s with cyc := s.cyc + 1, aon := s.aon.coreCycle }, ?_, rfl, ?_, ?_, rfl⟩
  · rw [step_of_pending_nil hpend, State.passCycle_of_clocked hoff hdor, hdue]
  · simp only [Aon.coreCycle, hsteer, steeredInc_zero]
  · simp only [Aon.coreCycle, hsteer, steeredInc_zero]

/-- Settles O3: each row answers its next state as it stands, but for three that choose between two next states by what the
state holds: an open window, a computation in progress and a sampled channel. -/
theorem everyCommandAnswers : Obligations.EveryCommandAnswers := by
  intro c s
  cases c
  case windowClose line =>
    rw [show exec (.windowClose line) s = execWindowClose line s from rfl, execWindowClose]
    split <;> exact ⟨_, rfl⟩
  case redraftCompute =>
    rw [show exec .redraftCompute s = execRedraftCompute s from rfl, execRedraftCompute]
    split <;> exact ⟨_, rfl⟩
  case gpioSample k levels =>
    rw [show exec (.gpioSample k levels) s = execGpioSample k levels s from rfl, execGpioSample]
    split <;> exact ⟨_, rfl⟩
  all_goals exact ⟨_, rfl⟩

/-- Settles O4: with a command in front the row's own lemma keeps the memories; with none a cycle passes, which keeps them. -/
theorem stepKeepsMemoryCanonical : Obligations.StepKeepsMemoryCanonical := by
  intro s t hs ht
  cases hq : s.pending with
  | nil =>
    rw [step_of_pending_nil hq] at ht
    cases ht
    exact (State.passCycle_keeps (keeps_of_inv hs)).inv
  | cons c cs =>
    rw [step_of_pending_cons hq] at ht
    have hk : Keeps cs { s with pending := cs } := ⟨rfl, hs.1, hs.2⟩
    exact (exec_keeps hk t ht).inv

/-- Settles O5: the empty tables are in canonical form. -/
theorem resetMemoryCanonical : Obligations.ResetMemoryCanonical := ⟨⟨rfl, rfl⟩, rfl, rfl, rfl⟩

/-- Settles O6: the queue is part of what every row keeps. -/
theorem commandsLeaveQueue : Obligations.CommandsLeaveQueue := fun _ _ t hs ht =>
  (exec_keeps (keeps_of_inv hs) t ht).pending

end Sys2Proof.Architecture
end

section
/-! The stored codeword (R283 to R285): the check byte is linear, so an error pattern has a syndrome of its own. -/

namespace Sys2Proof.Machine

/-! ### Linearity -/

theorem checkGo_xor (l : List Nat) (a b x y : Nat) : checkGo l (a ^^^ b) (x ^^^ y) = checkGo l a x ^^^ checkGo l b y := by
  induction l generalizing a b x y with
  | nil => rfl
  | cons c l ih =>
    have hacc : (if (a ^^^ b) % 2 = 1 then x ^^^ y ^^^ c else x ^^^ y) =
        (if a % 2 = 1 then x ^^^ c else x) ^^^ (if b % 2 = 1 then y ^^^ c else y) := by
      have hpar : (a ^^^ b) % 2 = a % 2 ^^^ b % 2 := Nat.xor_mod_two_pow (n := 1)
      obtain ha | ha := Nat.mod_two_eq_zero_or_one a <;> obtain hb | hb := Nat.mod_two_eq_zero_or_one b <;>
        simp [hpar, ha, hb, Nat.xor_comm, Nat.xor_left_comm]
    rw [checkGo, checkGo, checkGo, hacc, Nat.xor_div_two, ih]

/-- The columns fit in a byte, and so does what they add up to. -/
theorem checkGo_lt (l : List Nat) (hl : ∀ c ∈ l, c < 256) (d x : Nat) (hx : x < 256) : checkGo l d x < 256 := by
  induction l generalizing d x with
  | nil => exact hx
  | cons c l ih =>
    have hc : c < 256 := hl c List.mem_cons_self
    refine ih (fun c' h => hl c' (List.mem_cons_of_mem _ h)) _ _ ?_
    split
    · exact Nat.xor_lt_two_pow (n := 8) hx hc
    · exact hx

theorem checkByte_lt (fold : Bool) (tag val : Nat) : checkByte fold tag val < 256 :=
  checkGo_lt columns (by decide) _ 0 (by decide)

/-! ### Fields of a codeword -/

theorem encodeCode_toNat (fold : Bool) (w : TWord) :
    (encodeCode fold w).toNat = w.val.toNat + w.tag.toNat * 2 ^ 64 + checkByte fold w.tag.toNat w.val.toNat * 2 ^ 68 := by
  have hc := checkByte_lt fold w.tag.toNat w.val.toNat
  have hv := w.val.isLt
  have ht := w.tag.isLt
  rw [encodeCode, BitVec.toNat_ofNat]
  omega

theorem codeVal_toNat (c : Code) : (codeVal c).toNat = c.toNat % 2 ^ 64 := BitVec.toNat_setWidth ..

theorem codeTag_toNat (c : Code) : (codeTag c).toNat = c.toNat / 2 ^ 64 % 16 := BitVec.toNat_ofNat ..

theorem codeWord_encodeCode (fold : Bool) (w : TWord) : codeWord (encodeCode fold w) = w := by
  have hv := w.val.isLt
  have ht := w.tag.isLt
  have htag : codeTag (encodeCode fold w) = w.tag :=
    BitVec.eq_of_toNat_eq (by rw [codeTag_toNat, encodeCode_toNat]; omega)
  have hval : codeVal (encodeCode fold w) = w.val :=
    BitVec.eq_of_toNat_eq (by rw [codeVal_toNat, encodeCode_toNat]; omega)
  rw [codeWord, htag, hval]

/-- The data bits of a codeword without the fold, as the columns see them. -/
theorem codeData_eq (c : Code) : (codeVal c).toNat + (codeTag c).toNat * 2 ^ 64 = c.toNat % 2 ^ 68 := by
  rw [codeVal_toNat, codeTag_toNat]
  omega

/-- The fold bit lies above the data bits. -/
theorem add_fold_eq_xor {d : Nat} (hd : d < 2 ^ 68) (fold : Bool) :
    d + bitN fold * 2 ^ 68 = d ^^^ bitN fold * 2 ^ 68 := by
  cases fold with
  | false => simp [bitN]
  | true =>
    refine Nat.eq_of_testBit_eq fun i => ?_
    have h1 : bitN true * 2 ^ 68 = 2 ^ 68 := rfl
    rw [h1, Nat.testBit_xor, Nat.add_comm, Nat.testBit_two_pow]
    by_cases hi : i = 68
    · subst hi
      rw [Nat.testBit_two_pow_add_eq, Nat.testBit_lt_two_pow hd]
      rfl
    · obtain hlt | hgt := Nat.lt_or_gt_of_ne hi
      · rw [Nat.testBit_two_pow_add_gt hlt]
        simp [Ne.symm hi]
      · have hz : ∀ {n : Nat}, n < 2 ^ 69 → n.testBit i = false := fun hn =>
          Nat.testBit_lt_two_pow (hn.trans_le (Nat.pow_le_pow_right (by decide) hgt))
        rw [hz (by omega), hz (by omega)]
        simp [Ne.symm hi]

/-- The syndrome as a sum of parts: check bits, data bits and fold. -/
theorem syndrome_eq (fold : Bool) (c : Code) :
    syndrome fold c = c.toNat / 2 ^ 68 ^^^ checkGo columns (c.toNat % 2 ^ 68) 0 ^^^
      checkGo columns (bitN fold * 2 ^ 68) 0 := by
  have hcheck : codeCheck c = c.toNat / 2 ^ 68 := by
    have := c.isLt
    rw [codeCheck]
    omega
  have hgo := checkGo_xor columns (c.toNat % 2 ^ 68) (bitN fold * 2 ^ 68) 0 0
  rw [syndrome, hcheck, checkByte, codeData_eq, add_fold_eq_xor (Nat.mod_lt _ (by decide)), Nat.xor_assoc, ← hgo]
  rfl

/-- An error pattern adds its own syndrome. -/
theorem syndrome_xor (fold : Bool) (c e : Code) : syndrome fold (c ^^^ e) = syndrome fold c ^^^ syndrome false e := by
  have hgo := checkGo_xor columns (c.toNat % 2 ^ 68) (e.toNat % 2 ^ 68) 0 0
  have hz : checkGo columns (bitN false * 2 ^ 68) 0 = 0 := by decide
  have hdiv : (c.toNat ^^^ e.toNat) / 2 ^ 68 = c.toNat / 2 ^ 68 ^^^ e.toNat / 2 ^ 68 := Nat.xor_div_two_pow
  rw [Nat.xor_zero] at hgo
  rw [syndrome_eq, syndrome_eq, syndrome_eq, BitVec.toNat_xor, hdiv, Nat.xor_mod_two_pow, hgo, hz]
  ac_nf

theorem syndrome_encodeCode (fold : Bool) (w : TWord) : syndrome fold (encodeCode fold w) = 0 := by
  have hcw := codeWord_encodeCode fold w
  have htag : codeTag (encodeCode fold w) = w.tag := congrArg TWord.tag hcw
  have hval : codeVal (encodeCode fold w) = w.val := congrArg TWord.val hcw
  have hcheck : codeCheck (encodeCode fold w) = checkByte fold w.tag.toNat w.val.toNat := by
    have hc := checkByte_lt fold w.tag.toNat w.val.toNat
    have hv := w.val.isLt
    have ht := w.tag.isLt
    rw [codeCheck, encodeCode_toNat]
    omega
  rw [syndrome, htag, hval, hcheck, Nat.xor_self]

/-- A read at an address of the other fold has the fold's column as its syndrome. -/
theorem syndrome_otherFold (fold : Bool) (w : TWord) : syndrome (!fold) (encodeCode fold w) = 0x6B := by
  have h := syndrome_encodeCode fold w
  have hcol : checkGo columns (bitN (!fold) * 2 ^ 68) 0 = checkGo columns (bitN fold * 2 ^ 68) 0 ^^^ 0x6B := by
    cases fold <;> decide
  rw [syndrome_eq] at h
  rw [syndrome_eq, hcol, ← Nat.xor_assoc, h, Nat.zero_xor]

/-! ### Error patterns -/

/-- One inverted bit. -/
def oneBit (i : Fin 76) : Code := BitVec.ofNat 76 (2 ^ i.val)

/-- One inverted bit is a check bit, and has its own bit as syndrome, or a data bit, and has its column. -/
theorem syndrome_oneBit (i : Fin 76) : syndrome false (oneBit i) ≠ 0 ∧
    (68 ≤ i.val → weightN 8 (syndrome false (oneBit i)) = 1) ∧
    (i.val < 68 → weightN 8 (syndrome false (oneBit i)) ≠ 1 ∧ colIndex (syndrome false (oneBit i)) = some i.val) := by
  revert i
  decide +kernel

/-- A syndrome of one inverted bit points to its bit. -/
theorem idxOf_syndrome_oneBit (i : Fin 76) :
    (columns.take 68 ++ [1, 2, 4, 8, 16, 32, 64, 128]).idxOf (syndrome false (oneBit i)) = i.val := by
  revert i
  decide +kernel

theorem parityN_xor (n a b : Nat) : parityN n (a ^^^ b) = (parityN n a != parityN n b) := by
  induction n generalizing a b with
  | zero => rfl
  | succ n ih =>
    have hpar : (a ^^^ b) % 2 = a % 2 ^^^ b % 2 := Nat.xor_mod_two_pow (n := 1)
    rw [parityN, parityN, parityN, hpar, Nat.xor_div_two, ih]
    obtain ha | ha := Nat.mod_two_eq_zero_or_one a <;> obtain hb | hb := Nat.mod_two_eq_zero_or_one b <;>
      cases parityN n (a / 2) <;> cases parityN n (b / 2) <;> simp [ha, hb]

theorem parityN_eq_weightN (n x : Nat) : parityN n x = (weightN n x % 2 == 1) := by
  induction n generalizing x with
  | zero => rfl
  | succ n ih =>
    rw [parityN, weightN, ih]
    obtain hx | hx := Nat.mod_two_eq_zero_or_one x <;> obtain hw | hw := Nat.mod_two_eq_zero_or_one (weightN n (x / 2)) <;>
      simp [hx, hw, Nat.add_mod]

/-- Every column and every check bit is of odd weight. -/
theorem parityN_syndrome_oneBit (i : Fin 76) : parityN 8 (syndrome false (oneBit i)) = true := by
  revert i
  decide +kernel

/-- A syndrome of even weight is neither one of a single bit nor the fold's. -/
theorem not_single_of_even {x : Nat} (h : parityN 8 x = false) : weightN 8 x ≠ 1 ∧ colIndex x = none ∧ x ≠ 0x6B := by
  have hcol : ∀ c ∈ columns, parityN 8 c = true := by decide
  refine ⟨fun hw => ?_, List.findIdx?_eq_none_iff.2 fun c hc => ?_, fun hx => ?_⟩
  · rw [parityN_eq_weightN, hw] at h
    exact absurd h (by decide)
  · refine decide_eq_false fun e => ?_
    rw [← e, hcol c (List.mem_of_mem_take hc)] at h
    exact absurd h (by decide)
  · rw [hx] at h
    exact absurd h (by decide)

/-- Two inverted bits have a syndrome of even weight that is not 0. -/
theorem syndrome_twoBits (i j : Fin 76) (h : i ≠ j) :
    let x := syndrome false (oneBit i) ^^^ syndrome false (oneBit j)
    x ≠ 0 ∧ weightN 8 x ≠ 1 ∧ colIndex x = none ∧ x ≠ 0x6B := by
  refine ⟨fun hz => h (Fin.ext ?_), not_single_of_even ?_⟩
  · rw [← idxOf_syndrome_oneBit i, ← idxOf_syndrome_oneBit j, Nat.xor_eq_zero_iff.1 hz]
  · rw [parityN_xor, parityN_syndrome_oneBit, parityN_syndrome_oneBit]
    rfl

/-- A check bit belongs neither to the tag nor to the payload. -/
theorem codeWord_xor_checkBit (c : Code) (i : Fin 76) (h : 68 ≤ i.val) : codeWord (c ^^^ oneBit i) = codeWord c := by
  have hbit : (oneBit i).toNat % 2 ^ 68 = 0 := by
    revert i
    decide +kernel
  have hdata : (c ^^^ oneBit i).toNat % 2 ^ 68 = c.toNat % 2 ^ 68 := by
    rw [BitVec.toNat_xor, Nat.xor_mod_two_pow, hbit, Nat.xor_zero]
  have htag : codeTag (c ^^^ oneBit i) = codeTag c :=
    BitVec.eq_of_toNat_eq (by rw [codeTag_toNat, codeTag_toNat]; omega)
  have hval : codeVal (c ^^^ oneBit i) = codeVal c :=
    BitVec.eq_of_toNat_eq (by rw [codeVal_toNat, codeVal_toNat]; omega)
  rw [codeWord, codeWord, htag, hval]

/-! ### What a read makes of them (R285) -/

@[simp] theorem judge_encodeCode (fold : Bool) (w : TWord) : judge fold (encodeCode fold w) = .clean w := by
  rw [judge, syndrome_encodeCode, codeWord_encodeCode]
  rfl

theorem judge_oneBit (fold : Bool) (w : TWord) (i : Fin 76) :
    judge fold (encodeCode fold w ^^^ oneBit i) = .corrected w (syndrome false (oneBit i)) := by
  obtain ⟨hne, hcheck, hdata⟩ := syndrome_oneBit i
  rw [judge, syndrome_xor, syndrome_encodeCode, Nat.zero_xor, if_neg hne]
  by_cases hi : 68 ≤ i.val
  · rw [if_pos (hcheck hi), codeWord_xor_checkBit _ _ hi, codeWord_encodeCode]
  · obtain ⟨hw, hcol⟩ := hdata (by omega)
    have hback : encodeCode fold w ^^^ oneBit i ^^^ oneBit i = encodeCode fold w := by
      rw [BitVec.xor_assoc, BitVec.xor_self, BitVec.xor_zero]
    rw [if_neg hw, hcol]
    exact congrArg (fun v => Judged.corrected v _) ((congrArg codeWord hback).trans (codeWord_encodeCode fold w))

theorem judge_twoBits (fold : Bool) (w : TWord) (i j : Fin 76) (h : i ≠ j) :
    judge fold (encodeCode fold w ^^^ oneBit i ^^^ oneBit j) =
      .uncorrectable (syndrome false (oneBit i) ^^^ syndrome false (oneBit j)) := by
  obtain ⟨hne, hw, hcol, hfold⟩ := syndrome_twoBits i j h
  rw [judge, syndrome_xor, syndrome_xor, syndrome_encodeCode, Nat.zero_xor, if_neg hne, if_neg hw, hcol]
  exact if_neg hfold

theorem judge_otherFold (fold : Bool) (w : TWord) : judge (!fold) (encodeCode fold w) = .address := by
  rw [judge, syndrome_otherFold]
  rfl

/-! ### Stores (R275) -/

@[simp] theorem State.poke_peek_same {s : State} {a : Nat} {w : TWord} : (s.poke a w).peek a = .clean w := by
  rw [State.peek, State.poke_peekCode_same, judge_encodeCode]

theorem State.poke_peek_other {s : State} {a b : Nat} {w : TWord} (h : b / 8 ≠ a / 8) :
    (s.poke a w).peek b = s.peek b := by
  rw [State.peek, State.poke_peekCode_other h, State.peek]

theorem State.withMem_back (s : State) (v : Table Code) : { { s with mem := v } with mem := s.mem } = s := rfl

/-- A store changes the banks alone. -/
theorem State.poke_back (s : State) (a : Nat) (w : TWord) : { s.poke a w with mem := s.mem } = s := State.withMem_back s _

end Sys2Proof.Machine
end

section
/-! The obligation of the stored words. -/

namespace Sys2Proof.Memories

open Sys2Proof.Machine

/-- Settles O7: an error pattern has its own syndrome, that of one bit points to the bit, and that of two to none. -/
theorem storedWordsAreProtected : Obligations.StoredWordsAreProtected :=
  ⟨judge_encodeCode,
    fun fold w i => ⟨_, judge_oneBit fold w i, (syndrome_oneBit i).1⟩,
    fun fold w i j h => ⟨_, judge_twoBits fold w i j h⟩,
    judge_otherFold,
    fun _ _ _ _ => ⟨State.poke_peek_same, State.poke_peek_other, fun h => (State.poke_keeps (keeps_of_inv h)).inv, State.poke_back ..⟩⟩

end Sys2Proof.Memories
end

section
/-! The conversions of TAG (R140): which pairs of tags convert, and the fault of each other pair. -/

namespace Sys2Proof.Machine

variable {a : TWord} {t : Tag} {exec : Bool}

/-- The tags whose words hold a value, RAW apart. -/
def typedTags : List Tag := [Tag.int, Tag.uint, Tag.sbool, Tag.ptr, Tag.cptr, Tag.time, Tag.fixq, Tag.status]

theorem aluTag_same (h : a.tag = t) : aluTag exec t a = .ok (⟨t, a.val⟩, none) := by
  subst h
  simp [aluTag]

/-- A change that is permitted is judged by the table alone. -/
theorem aluTag_of_change (hne : a.tag ≠ t) (hp : exec = true ∨ t ∉ [Tag.ptr, Tag.cptr, Tag.status]) :
    aluTag exec t a = match refusedTag a.tag with
      | some d => .error (excTag d 0)
      | none =>
        if t = Tag.raw then .ok (⟨t, a.val⟩, none)
        else if a.tag ≠ Tag.raw then .error (excTag tdConvert 0)
        else if t = Tag.int || t = Tag.uint || t = Tag.time || t = Tag.fixq || t = Tag.ptr then .ok (⟨t, a.val⟩, none)
        else if t = Tag.sbool then
          (if sbCanonical a.val then .ok (⟨t, a.val⟩, none) else .error (excTag tdConvert 0))
        else if t = Tag.cptr then
          (if bitsOf a.val 0 2 = 0 then .ok (⟨t, a.val⟩, none) else .error (excTag tdConvert 0))
        else if t = Tag.status then
          (if bitAt a.val 7 || bitsOf a.val 10 54 ≠ 0 then .error (excTag tdConvert 0) else .ok (⟨t, a.val⟩, none))
        else .error (excTag tdConvert 0) := by
  have hpriv : (tagPrivileged t && !exec) = false := by
    obtain rfl | hn := hp
    · rw [Bool.not_true, Bool.and_false]
    · simp only [List.mem_cons, List.not_mem_nil, or_false, not_or] at hn
      simp [tagPrivileged, hn]
  rw [aluTag, if_neg hne, hpriv]
  rfl

theorem refusedTag_of_typed {u : Tag} (h : u ∈ typedTags) : refusedTag u = none ∧ u ≠ Tag.raw := by
  revert u
  decide

/-- Words of the typed tags become RAW. -/
theorem aluTag_toRaw (ht : t = Tag.raw) (h : a.tag ∈ typedTags) : aluTag exec t a = .ok (⟨t, a.val⟩, none) := by
  subst ht
  obtain ⟨href, hne⟩ := refusedTag_of_typed h
  rw [aluTag_of_change hne (.inr (by decide)), href]
  rfl

/-- A change of a tag that every checking role refuses. -/
theorem aluTag_refused {d : Nat} (hne : a.tag ≠ t) (hp : exec = true ∨ t ∉ [Tag.ptr, Tag.cptr, Tag.status])
    (h : refusedTag a.tag = some d) : aluTag exec t a = .error (excTag d 0) := by
  rw [aluTag_of_change hne hp, h]

theorem refusedTag_of_reserved {u : Tag} (h : 9 ≤ u.toNat ∧ u.toNat ≤ 13) : refusedTag u = some 3 := by
  revert u
  decide

/-- A typed tag becomes nothing but RAW. -/
theorem aluTag_typed (hne : a.tag ≠ t) (hp : exec = true ∨ t ∉ [Tag.ptr, Tag.cptr, Tag.status]) (ha : a.tag ∈ typedTags)
    (ht : t ≠ Tag.raw) : aluTag exec t a = .error (excTag 8 0) := by
  obtain ⟨href, hraw⟩ := refusedTag_of_typed ha
  rw [aluTag_of_change hne hp, href]
  simp only [if_neg ht, if_pos hraw]
  rfl

/-- A privileged change at TASK is refused before anything else. -/
theorem aluTag_privileged (hne : a.tag ≠ t) (ht : t ∈ [Tag.ptr, Tag.cptr, Tag.status]) :
    aluTag false t a = .error excPrivilege := by
  have hpriv : tagPrivileged t = true := by
    simp only [List.mem_cons, List.not_mem_nil, or_false] at ht
    simp [tagPrivileged, or_assoc, ht]
  rw [aluTag, if_neg hne, hpriv]
  rfl

/-- What the table makes of a RAW word, by the target. -/
theorem aluTag_fromRaw (ha : a.tag = Tag.raw) :
    (t ∈ [Tag.int, Tag.uint, Tag.time, Tag.fixq] → aluTag exec t a = .ok (⟨t, a.val⟩, none)) ∧
    (t = Tag.sbool → aluTag exec t a = if sbCanonical a.val then .ok (⟨t, a.val⟩, none) else .error (excTag 8 0)) ∧
    (t = Tag.ptr → aluTag true t a = .ok (⟨t, a.val⟩, none)) ∧
    (t = Tag.cptr → aluTag true t a = if bitsOf a.val 0 2 = 0 then .ok (⟨t, a.val⟩, none) else .error (excTag 8 0)) ∧
    (t = Tag.status → aluTag true t a =
      if bitAt a.val 7 || bitsOf a.val 10 54 ≠ 0 then .error (excTag 8 0) else .ok (⟨t, a.val⟩, none)) ∧
    (t ∉ Tag.raw :: Tag.int :: Tag.uint :: Tag.time :: [Tag.fixq, Tag.sbool, Tag.ptr, Tag.cptr, Tag.status] →
      aluTag exec t a = .error (excTag 8 0)) := by
  obtain ⟨ta, v⟩ := a
  obtain rfl : ta = Tag.raw := ha
  refine ⟨fun h => ?_, ?_, ?_, ?_, ?_, fun h => ?_⟩
  · simp only [List.mem_cons, List.not_mem_nil, or_false] at h
    obtain rfl | rfl | rfl | rfl := h <;> exact aluTag_of_change (by change Tag.raw ≠ _; decide) (.inr (by decide))
  · rintro rfl
    exact aluTag_of_change (by change Tag.raw ≠ _; decide) (.inr (by decide))
  · rintro rfl
    exact aluTag_of_change (by change Tag.raw ≠ _; decide) (.inl rfl)
  · rintro rfl
    exact aluTag_of_change (by change Tag.raw ≠ _; decide) (.inl rfl)
  · rintro rfl
    exact aluTag_of_change (by change Tag.raw ≠ _; decide) (.inl rfl)
  · have hne : Tag.raw ≠ t := fun e => h (e ▸ List.mem_cons_self)
    have hp : t ∉ [Tag.ptr, Tag.cptr, Tag.status] := fun hm => h (by
      simp only [List.mem_cons, List.not_mem_nil, or_false] at hm ⊢
      tauto)
    rw [aluTag_of_change hne (.inr hp)]
    simp only [List.mem_cons, List.not_mem_nil, or_false, not_or] at h
    simp [h, refusedTag]
    rfl

/-- The reserved bits of a status word and FLY are clear. -/
theorem statusForm_iff (w : Word) :
    (bitAt w 7 || decide (bitsOf w 10 54 ≠ 0)) = true ↔ ¬(w.getLsbD 7 = false ∧ w.toNat / 2 ^ 10 = 0) := by
  have hlt := w.isLt
  have hdiv : w.toNat / 2 ^ 10 % 2 ^ 54 = w.toNat / 2 ^ 10 := Nat.mod_eq_of_lt (by omega)
  simp only [bitAt, bitsOf, hdiv, Bool.or_eq_true, decide_eq_true_eq, not_and_or, Bool.not_eq_false]

end Sys2Proof.Machine
end

section
/-! The obligation of the tag conversions. -/

namespace Sys2Proof.ProgrammingModel

open Sys2Proof.Machine

/-- Settles O11, by the source tag: the same, to RAW, from RAW by its target, and the changes that are refused. -/
theorem tagConversions : Obligations.TagConversions := by
  intro a t exec keep fault privileged
  refine ⟨aluTag_same, aluTag_toRaw, fun ha => ?_, fun hne hp => ?_⟩
  · obtain ⟨hplain, hsbool, hptr, hcptr, hstatus, -⟩ := aluTag_fromRaw (t := t) (exec := exec) ha
    have hpriv : t ∈ [Tag.ptr, Tag.cptr, Tag.status] → ∀ x, aluTag true t a = x → aluTag exec t a = privileged x := by
      rintro ht x rfl
      cases exec with
      | true => rfl
      | false =>
        refine aluTag_privileged (fun e => ?_) ht
        rw [← e, ha] at ht
        exact absurd ht (by decide)
    refine ⟨hplain, fun ht => (hsbool ht).trans (if_congr ?_ rfl rfl), fun ht => ?_, fun ht => ?_, fun ht => ?_⟩
    · rw [sbCanonical, Bool.or_eq_true, decide_eq_true_iff, decide_eq_true_iff]; rfl
    · exact hpriv (by simp [ht]) _ (hptr ht)
    · refine hpriv (by simp [ht]) _ ((hcptr ht).trans (if_congr ?_ rfl rfl))
      simp [bitsOf]
    · refine hpriv (by simp [ht]) _ ((hstatus ht).trans ?_)
      rw [if_congr (statusForm_iff a.val) rfl rfl, ite_not]
  · refine ⟨fun ha => ?_, fun ha => ?_, fun ha => ?_, fun ha ht => aluTag_typed hne hp ha ht, fun ha ht => ?_⟩
    · exact aluTag_refused hne hp (by rw [ha]; rfl)
    · exact aluTag_refused hne hp (by rw [ha]; rfl)
    · exact aluTag_refused hne hp (refusedTag_of_reserved ha)
    · refine (aluTag_fromRaw ha).2.2.2.2.2 ?_
      simp only [List.mem_cons, List.not_mem_nil, or_false, not_or] at ht ⊢
      exact ⟨fun e => hne (ha.trans e.symm), ht.1, ht.2.1, ht.2.2.1, ht.2.2.2.1, ht.2.2.2.2⟩

end Sys2Proof.ProgrammingModel
end

section
/-! The issue of an instruction (R163), in terms of the state after its fetch, and what the multiplier and the divider do in
it (R167, R168). -/

namespace Sys2Proof.Machine

/-- A command whose row is guarded answers its effect where it is due. -/
theorem exec_of_due {c : Instr} {s : State} {due : Bool} {f : State → State} (hc : exec c s = guarded due s f)
    (h : due = true) : exec c s = .next (f s) := hc.trans (guarded_of_due h)

section issues

variable {s0 s t : State} {i : Iss} {u : Uses} {f : Bool → State → Res (Pen → Pen)}

/-- An instruction that issues and ends normally. -/
theorem State.Issues.issueOne_ok {g : Pen → Pen} (hi : s0.Issues s i u) (h : f (s.issuing i u).1 (s.issued i u) = .ok g t) :
    s0.issueOne i u f = t.modPen i.pen.val g := by
  have ⟨_, hadm, hslot⟩ := hi
  refine State.issueOne_ok hadm ?_
  rw [State.issued_eq hi, ← hslot, h]

/-- One that takes an exception. -/
theorem State.Issues.issueOne_exc {e : Exc} (hi : s0.Issues s i u) (h : f (s.issuing i u).1 (s.issued i u) = .exc e t) :
    s0.issueOne i u f = s0.excFrom t i e := by
  have ⟨_, hadm, hslot⟩ := hi
  refine State.issueOne_exc hadm ?_
  rw [State.issued_eq hi, ← hslot, h]

/-- One that is held. -/
theorem State.Issues.issueOne_hold {x : Hold} (hi : s0.Issues s i u)
    (h : f (s.issuing i u).1 (s.issued i u) = .hold x t) :
    s0.issueOne i u f = t.modPen i.pen.val (fun y => y.unissue (s0.pen i.pen.val) x) := by
  have ⟨_, hadm, hslot⟩ := hi
  refine State.issueOne_hold hadm ?_
  rw [State.issued_eq hi, ← hslot, h]

end issues

/-- What the end of an issued instruction makes of its pen. -/
theorem State.issued_modPen (s : State) (i : Iss) (u : Uses) (g : Pen → Pen) :
    ((s.issued i u).modPen i.pen.val g).pen i.pen.val = g (s.issuing i u).2 := by
  rw [State.modPen_pen_same, State.issued_pen]

theorem State.onlyPens_issued (s : State) (i : Iss) (u : Uses) (g : Pen → Pen) :
    OnlyPens [i.pen.val] s ((s.issued i u).modPen i.pen.val g) :=
  onlyPens_setPen.trans onlyPens_modPen

/-- A serial instruction takes no slot 2 (R195). -/
theorem State.issuing_ser (s : State) (i : Iss) (regs : List Reg) (fl : Bool) : (s.issuing i ⟨.ser, regs, fl⟩).1 = false := by
  simp only [State.issuing, Pen.pairs]
  cases (s.pen i.pen.val).pair with
  | none => exact Bool.and_false _
  | some c =>
    have : pairOk c.cls .ser = false := by cases c.cls <;> rfl
    simp [this]

/-! ### Multiply (R167) -/

section mul

variable {s0 s : State} {i : Iss} {regs : List Reg} {rd : Reg} {f : (Reg → TWord) → Except Exc AluOut}

/-- A multiply whose operands pass leaves its result and flags beside the pipeline. -/
theorem State.Issues.doMul_ok {w : TWord} {fl : Flags} (hi : s0.Issues s i ⟨.mul, regs, true⟩)
    (h : f ((s.issuing i ⟨.mul, regs, true⟩).2.read (s.issuing i ⟨.mul, regs, true⟩).1) = .ok (w, some fl)) :
    s0.doMul i regs rd f = (s.issued i ⟨.mul, regs, true⟩).modPen i.pen.val (fun x =>
      { x.done (s.issuing i ⟨.mul, regs, true⟩).1 with mul := some ⟨x.bank rd.val, w, fl⟩ }) := by
  refine hi.issueOne_ok ?_
  rw [State.issued_pen, h]
  rfl

theorem State.Issues.doMul_exc {e : Exc} (hi : s0.Issues s i ⟨.mul, regs, true⟩)
    (h : f ((s.issuing i ⟨.mul, regs, true⟩).2.read (s.issuing i ⟨.mul, regs, true⟩).1) = .error e) :
    s0.doMul i regs rd f = s0.excFrom (s.issued i ⟨.mul, regs, true⟩) i e := by
  refine hi.issueOne_exc ?_
  rw [State.issued_pen, h]

/-- A multiply instruction, in both ends. -/
theorem doMul_row {c : Instr} (hc : exec c s0 = guarded (s0.ready i.pen.val) s0 (fun s => s.doMul i regs rd f))
    (hi : s0.Issues s i ⟨.mul, regs, true⟩) :
    let x := s.issuing i ⟨.mul, regs, true⟩
    (∀ w fl, f (x.2.read x.1) = .ok (w, some fl) →
      ∃ t, exec c s0 = .next t ∧ (t.pen i.pen.val).mul = some ⟨x.2.bank rd.val, w, fl⟩ ∧
        x.2.Advanced { t.pen i.pen.val with mul := x.2.mul } ∧ OnlyPens [i.pen.val] s t) ∧
    (∀ e, f (x.2.read x.1) = .error e → exec c s0 = .next (s0.excFrom (s.issued i ⟨.mul, regs, true⟩) i e)) := by
  rw [hc, guarded_of_due hi.1]
  refine ⟨fun w fl h => ⟨_, congrArg _ (hi.doMul_ok h), ?_, ?_, State.onlyPens_issued ..⟩,
    fun e h => congrArg _ (hi.doMul_exc h)⟩
  · rw [State.issued_modPen]
  · rw [State.issued_modPen]
    exact ⟨rfl, rfl⟩

end mul

/-! ### A result and its flags, written together -/

/-- A register write in program order leaves all but registers and late results. -/
theorem Pen.writeB_rest (x : Pen) (k : Nat) (w : TWord) :
    { x.writeB k w with regs := x.regs, spTask := x.spTask, spExec := x.spExec, late := x.late } = x := by
  unfold Pen.writeB Pen.putB
  split_ifs <;> rfl

theorem Pen.writeB_status (x : Pen) (k : Nat) (w : TWord) : (x.writeB k w).status = x.status :=
  (congrArg Pen.status (x.writeB_rest k w) :)
theorem Pen.writeB_pc (x : Pen) (k : Nat) (w : TWord) : (x.writeB k w).pc = x.pc := (congrArg Pen.pc (x.writeB_rest k w) :)
theorem Pen.writeB_pair (x : Pen) (k : Nat) (w : TWord) : (x.writeB k w).pair = x.pair :=
  (congrArg Pen.pair (x.writeB_rest k w) :)
theorem Pen.writeB_late (x : Pen) (k : Nat) (w : TWord) : (x.writeB k w).late = x.late.filter (fun l => l.reg ≠ k) := rfl

/-- What a result and its flags leave of a pen. -/
theorem Pen.writeFlags_rest (x : Pen) (k : Nat) (w : TWord) (fl : Flags) :
    { (x.writeB k w).setFlags fl with
      regs := x.regs, spTask := x.spTask, spExec := x.spExec, late := x.late, status := x.status } = x :=
  congrArg (fun y : Pen => { y with status := x.status }) (x.writeB_rest k w)

theorem Pen.writeFlags_control (x : Pen) (k : Nat) (w : TWord) (fl : Flags) :
    x.SameControl ((x.writeB k w).setFlags fl) := by
  intro j hj
  rw [(x.writeB k w).setFlags_control fl j hj, Pen.writeB_status]

theorem Pen.writeMul_of_some {x : Pen} {m : MulPend} (h : x.mul = some m) :
    x.writeMul = { (x.writeB m.reg m.val).setFlags m.flags with mul := none } := by
  rw [Pen.writeMul, h]

/-- The multiply that is written leaves its result and flags, and is in flight no longer. -/
theorem Pen.writeMul_done {x : Pen} {m : MulPend} (h : x.mul = some m) :
    (∀ k, x.writeMul.getB k = if m.reg ≠ 0 ∧ k = m.reg then m.val else x.getB k) ∧ x.writeMul.flags = m.flags ∧
    x.SameControl x.writeMul ∧ x.writeMul.late = x.late.filter (fun l => l.reg ≠ m.reg) ∧ x.writeMul.mul = none ∧
    x.writeMul.pc = x.pc ∧ x.writeMul.pair = x.pair ∧ x.SameRest { x.writeMul with mul := x.mul } := by
  have hrest := x.writeFlags_rest m.reg m.val m.flags
  rw [Pen.writeMul_of_some h]
  exact ⟨fun k => x.writeB_getB m.reg k m.val, (x.writeB m.reg m.val).setFlags_flags m.flags,
    x.writeFlags_control m.reg m.val m.flags, rfl, rfl, (congrArg Pen.pc hrest :), (congrArg Pen.pair hrest :),
    (congrArg (fun y : Pen => ({ y with pc := x.pc, pair := x.pair, mul := x.mul } : Pen)) hrest :)⟩

/-! ### Divide (R168) -/

section div

variable {s0 s : State} {i : Iss} {rd ra rb : Reg} {f : TWord → TWord → Except Exc DivOut}

/-- A divide whose operands pass holds its pen with the result. -/
theorem State.Issues.doDiv_ok {o : DivOut} (hi : s0.Issues s i ⟨.ser, [rd, ra, rb], true⟩)
    (h : f (s.readIssuing i ⟨.ser, [rd, ra, rb], true⟩ ra) (s.readIssuing i ⟨.ser, [rd, ra, rb], true⟩ rb) = .ok o) :
    s0.doDiv i rd ra rb f = (s.issued i ⟨.ser, [rd, ra, rb], true⟩).modPen i.pen.val (fun x =>
      { x with hold := .divide (x.bank rd.val) o.res o.fl o.trap }) := by
  refine hi.issueOne_ok ?_
  rw [State.issued_pen]
  simp only [State.readIssuing] at h
  simp only [h]

theorem State.Issues.doDiv_exc {e : Exc} (hi : s0.Issues s i ⟨.ser, [rd, ra, rb], true⟩)
    (h : f (s.readIssuing i ⟨.ser, [rd, ra, rb], true⟩ ra) (s.readIssuing i ⟨.ser, [rd, ra, rb], true⟩ rb) = .error e) :
    s0.doDiv i rd ra rb f = s0.excFrom (s.issued i ⟨.ser, [rd, ra, rb], true⟩) i e := by
  refine hi.issueOne_exc ?_
  rw [State.issued_pen]
  simp only [State.readIssuing] at h
  simp only [h]

/-- A divide instruction, in both ends of its issue. -/
theorem doDiv_row {c : Instr} (hc : exec c s0 = guarded (s0.ready i.pen.val) s0 (fun s => s.doDiv i rd ra rb f))
    (hi : s0.Issues s i ⟨.ser, [rd, ra, rb], true⟩) :
    let x := s.issuing i ⟨.ser, [rd, ra, rb], true⟩
    (∀ o, f (x.2.read x.1 ra) (x.2.read x.1 rb) = .ok o →
      ∃ t, exec c s0 = .next t ∧ t.pen i.pen.val = { x.2 with hold := .divide (x.2.bank rd.val) o.res o.fl o.trap } ∧
        OnlyPens [i.pen.val] s t) ∧
    (∀ e, f (x.2.read x.1 ra) (x.2.read x.1 rb) = .error e →
      exec c s0 = .next (s0.excFrom (s.issued i ⟨.ser, [rd, ra, rb], true⟩) i e)) := by
  rw [hc, guarded_of_due hi.1]
  exact ⟨fun o h => ⟨_, congrArg _ (hi.doDiv_ok h), State.issued_modPen .., State.onlyPens_issued ..⟩,
    fun e h => congrArg _ (hi.doDiv_exc h)⟩

end div

theorem State.divideEnd_of_hold {s : State} {p k : Nat} {v : TWord} {fl : Flags} {trap : Bool}
    (h : (s.pen p).hold = .divide k v fl trap) : s.divideEnd p =
      if trap then (s.takeExc p excOverflow).getD s
      else s.modPen p (fun x => { (x.writeB k v).setFlags fl with pc := x.pc + 4, hold := .none }) := by
  rw [State.divideEnd, h]

/-- The pen after the last cycle of a divide. -/
theorem Pen.divideEnd_done (x : Pen) (k : Nat) (v : TWord) (fl : Flags) :
    let y : Pen := { (x.writeB k v).setFlags fl with pc := x.pc + 4, hold := .none }
    (∀ j, y.getB j = if k ≠ 0 ∧ j = k then v else x.getB j) ∧ y.flags = fl ∧ x.SameControl y ∧ y.pc = x.pc + 4 ∧
      y.hold = .none ∧ y.late = x.late.filter (fun l => l.reg ≠ k) ∧ y.pair = x.pair ∧
      x.SameRest { y with hold := x.hold } := by
  have hrest := x.writeFlags_rest k v fl
  exact ⟨fun j => x.writeB_getB k j v, (x.writeB k v).setFlags_flags fl, x.writeFlags_control k v fl, rfl, rfl, rfl,
    (congrArg Pen.pair hrest :), (congrArg (fun y : Pen => ({ y with pc := x.pc, pair := x.pair, hold := x.hold } : Pen)) hrest :)⟩

end Sys2Proof.Machine
end

section
/-! The obligation of the multiplier and the divider. -/

namespace Sys2Proof.MarkaiInstructions

open Sys2Proof.Machine

/-- Settles O13: the issue leaves the result beside the pipeline or in the hold, and the later cycle writes it. -/
theorem multiplyAndDivideComplete : Obligations.MultiplyAndDivideComplete := by
  refine ⟨⟨fun i rd ra rb b s0 s => ⟨doMul_row (f := fun read => aluMul (read ra) b read) rfl,
      doMul_row (f := fun read => aluMulh (read ra) rb read) rfl⟩, fun p s m hrun hmul => ?_⟩,
    fun i rd ra rb s0 s hi => ⟨doDiv_row rfl hi, doDiv_row rfl hi, doDiv_row rfl hi⟩, fun p s k v fl hrun => ?_⟩
  · obtain ⟨hreg, hfl, hctl, hlate, hnone, hpc, hpair, hrest⟩ := Pen.writeMul_done hmul
    have hdue : ((s.runs p.val).isSome && (s.pen p.val).mul.isSome) = true := by rw [hrun, hmul]; rfl
    refine ⟨s.modPen p.val Pen.writeMul, exec_of_due (f := fun s => s.modPen p.val Pen.writeMul) rfl hdue, onlyPens_modPen, ?_⟩
    rw [State.modPen_pen_same]
    exact ⟨hreg, hfl, hctl, hlate, hnone, hpc, hpair, hrest⟩
  · have hexec : exec (.divideComplete p) s = .next (s.divideEnd p.val) := exec_of_due (f := fun s => s.divideEnd p.val) rfl hrun
    refine ⟨fun hhold => ?_, fun hhold => ?_⟩
    · rw [State.divideEnd_of_hold hhold, if_neg Bool.false_ne_true] at hexec
      refine ⟨_, hexec, onlyPens_modPen, ?_⟩
      rw [State.modPen_pen_same]
      exact Pen.divideEnd_done _ k v fl
    · exact hexec.trans (congrArg _ (State.divideEnd_of_hold hhold))

end Sys2Proof.MarkaiInstructions
end

section
/-! The status word through an instruction's fetch (R201, R286): whatever fault a read of a pen's own copies raises, and
whatever the rubric makes of it, the pen's status word stays. Only an even pen that leaves a JOINED run hands its status to
another pen, the odd one of its pair (R109), and no event of such a read fences it. -/

namespace Sys2Proof.Machine

/-! ### Loops -/

/-- A loop keeps a predicate that each of its turns keeps. -/
theorem State.forAll_of_turn {α : Type} {P : State → Prop} {l : List α} {f : α → State → State} {s : State}
    (hf : ∀ a t, P t → P (f a t)) (h : P s) : P (s.forAll l f) := by
  induction l generalizing s with
  | nil => exact h
  | cons a l ih => exact ih (hf a s h)

/-- A loop leaves what each of its turns leaves. -/
theorem State.forAll_eq {α β : Type} (g : State → β) {l : List α} {f : α → State → State} {s : State}
    (hf : ∀ a t, g (f a t) = g t) : g (s.forAll l f) = g s :=
  State.forAll_of_turn (P := fun t => g t = g s) (fun a t ht => (hf a t).trans ht) rfl

/-! ### What leaves the pens alone -/

theorem State.discardDraft_pens {s : State} {n : Nat} : (s.discardDraft n).pens = s.pens := State.modVslot_pens

theorem State.setDescStatus_pens {s : State} {d st : Nat} : (s.setDescStatus d st).pens = s.pens := State.modDesc_pens

theorem State.dropCopy_pens {s : State} {p : Nat} : (s.dropCopy p).pens = s.pens := by
  unfold State.dropCopy
  split
  · exact State.discardDraft_pens
  all_goals rfl

theorem State.dropRequest_pens {s : State} {p : Nat} {r : Run} : (s.dropRequest p r).pens = s.pens := by
  unfold State.dropRequest
  split
  all_goals rfl

theorem State.wantRedraft_pens {s : State} : s.wantRedraft.pens = s.pens := by
  unfold State.wantRedraft
  split
  all_goals rfl

theorem State.dropMarch_pens {s : State} {p : Nat} : (s.dropMarch p).pens = s.pens := by
  unfold State.dropMarch
  split
  · rfl
  · split
    all_goals rfl

theorem State.loseRun_pens {s : State} {r : Run} : (s.loseRun r).1.pens = s.pens := by
  unfold State.loseRun
  split
  · rfl
  · dsimp only
    split_ifs
    all_goals rfl

theorem State.postStatus_pens {s : State} {q a b c d e : Nat} {w : Word} : (s.postStatus q a b c d e w).pens = s.pens :=
  State.modQueue_pens

theorem State.gpioSafe_pens {s : State} : s.gpioSafe.pens = s.pens := rfl

theorem State.canWithdraw_pens {s : State} {c : Nat} : (s.canWithdraw c).pens = s.pens := by
  unfold State.canWithdraw
  rw [State.modCan_pens]
  exact State.forAll_eq State.pens fun _ _ => State.setDescStatus_pens

theorem State.canSafe_pens {s : State} : s.canSafe.pens = s.pens := by
  unfold State.canSafe
  refine State.forAll_eq State.pens fun c t => ?_
  rw [State.modCan_pens, State.canWithdraw_pens]

theorem State.ethWithdraw_pens {s : State} {m st : Nat} : (s.ethWithdraw m st).pens = s.pens := by
  unfold State.ethWithdraw
  rw [State.modMac_pens]
  exact State.forAll_eq State.pens fun _ _ => State.setDescStatus_pens

theorem State.endMessages_pens {s : State} {st : Nat} : (s.endMessages st).pens = s.pens := by
  unfold State.endMessages
  refine State.forAll_eq State.pens fun q t => ?_
  rw [State.modQueue_pens]
  refine State.forAll_eq State.pens fun m u => ?_
  have hdrop : (u.forAll m.pages (fun n v => v.discardDraft n)).pens = u.pens :=
    State.forAll_eq State.pens fun _ _ => State.discardDraft_pens
  dsimp only
  rw [State.postStatus_pens]
  cases (t.queue q).toHost
  · simp only [Bool.false_eq_true, if_false, State.modQueue_pens, hdrop]
  · simp only [if_true, State.setDescStatus_pens, hdrop]

theorem State.safeOutputs_pens {s : State} : s.safeOutputs.pens = s.pens := by
  have heth (t : State) : (t.forAll (upTo 4) (fun m t => t.ethWithdraw m 0xA)).pens = t.pens :=
    State.forAll_eq State.pens fun _ _ => State.ethWithdraw_pens
  unfold State.safeOutputs
  dsimp only
  rw [State.endMessages_pens, heth, State.canSafe_pens, State.gpioSafe_pens]

theorem State.msixNow_pens {s : State} {v : Nat} : (s.msixNow v).1.pens = s.pens := by
  unfold State.msixNow
  dsimp only
  split_ifs
  all_goals rfl

theorem State.rateCheck_pens {s : State} : s.rateCheck.1.pens = s.pens := by
  unfold State.rateCheck
  split
  · rfl
  · dsimp only
    split_ifs
    all_goals rfl

theorem State.cutTrace_pens {s : State} : s.cutTrace.1.pens = s.pens := by
  have hrate := State.rateCheck_pens (s := s)
  unfold State.cutTrace
  dsimp only
  split
  · exact hrate
  · split_ifs
    · exact hrate
    · exact State.msixNow_pens.trans hrate

theorem State.sendRecord_pens {s : State} {ty a b c : Nat} {f : Word} {d : List Word} :
    (s.sendRecord ty f a b c d).pens = s.pens := by
  unfold State.sendRecord
  dsimp only
  split_ifs
  all_goals rfl

theorem State.farewell_pens {s : State} {r : Nat} : (s.farewell r).pens = s.pens := by
  unfold State.farewell
  split_ifs
  · rfl
  · exact State.sendRecord_pens

theorem State.queueEvent_pens {s : State} {e : Event} {a : Nat} {esc irq : Bool} :
    (s.queueEvent e a esc irq).1.pens = s.pens := by
  have hirq (t : State) : (t.irqVector1 irq).pens = t.pens := by
    unfold State.irqVector1
    split_ifs <;> rfl
  have hco (t : State) : t.coalesce.pens = t.pens := by
    unfold State.coalesce
    split <;> rfl
  unfold State.queueEvent
  dsimp only
  split_ifs
  · exact hco _
  · exact hirq _
  · exact hirq _
  · exact hco _
  · rfl

theorem State.shedLine_pens {s : State} {i : Nat} : (s.shedLine i).pens = s.pens := by
  unfold State.shedLine
  split_ifs <;> rfl

/-! ### The status word of one pen -/

/-- A pen still has the registers of `w`, and while it has a run its pair and its results in flight. -/
def Pen.GoesOn (w x : Pen) : Prop :=
  x.status = w.status ∧ x.pc = w.pc ∧ (x.regs = w.regs ∧ x.spTask = w.spTask ∧ x.spExec = w.spExec) ∧
  (x.run = none ∨ x.pair = w.pair ∧ x.mul = w.mul ∧ x.late = w.late)

/-- A pen shows what `w` does, and an odd one executes no JOINED run. -/
def Pen.Shows (p : Nat) (x w : Pen) : Prop :=
  w.GoesOn x ∧ (p % 2 = 1 → ∀ r, x.run = some r → r.mode ≠ .joined)

/-- A pen without a run. -/
theorem Pen.GoesOn.ended {w x y : Pen} (h : w.GoesOn x) (hst : y.status = x.status) (hpc : y.pc = x.pc)
    (hregs : y.regs = x.regs) (htask : y.spTask = x.spTask) (hexec : y.spExec = x.spExec) (hrun : y.run = none) : w.GoesOn y := by
  obtain ⟨hst', hpc', ⟨hregs', htask', hexec'⟩, -⟩ := h
  exact ⟨hst.trans hst', hpc.trans hpc', ⟨hregs.trans hregs', htask.trans htask', hexec.trans hexec'⟩, .inl hrun⟩

/-- Pen `p` of a state does. -/
def State.Shows (p : Nat) (w : Pen) (s : State) : Prop := (s.pen p).Shows p w

section shows

variable {p q : Nat} {w : Pen} {s t : State}

theorem State.Shows.of_pens (h : s.Shows p w) (ht : t.pens = s.pens) : t.Shows p w := by
  unfold State.Shows State.pen
  rw [ht]
  exact h

theorem State.Shows.modPen {f : Pen → Pen} (h : s.Shows p w) (hf : ∀ x : Pen, x.Shows p w → (f x).Shows p w) :
    (s.modPen q f).Shows p w := by
  unfold State.Shows
  by_cases hq : p = q
  · subst hq
    rw [State.modPen_pen_same]
    exact hf _ h
  · rw [State.modPen_pen_other hq]
    exact h

theorem State.Shows.modPen_other {f : Pen → Pen} (h : s.Shows p w) (hq : q ≠ p) : (s.modPen q f).Shows p w := by
  unfold State.Shows
  rw [State.modPen_pen_other hq.symm]
  exact h

theorem Pen.Shows.clearRun {x : Pen} (h : x.Shows p w) : x.clearRun.Shows p w :=
  ⟨h.1.ended rfl rfl rfl rfl rfl rfl, fun _ _ hr => nomatch hr⟩

theorem Pen.Shows.oweCopy {x : Pen} {r : Run} (h : x.Shows p w) : (x.oweCopy r).Shows p w := by
  unfold Pen.oweCopy
  split <;> exact h

/-- Of its partner's JOINED run a pen drops what it holds: a run that waits for its commit point, and the present one. -/
theorem Pen.dropJoined_eq (x : Pen) (n : Nat) : ∃ a b : Bool,
    x.dropJoined n = if b then (if a then { x with ending := none } else x).clearRun
      else if a then { x with ending := none } else x :=
  ⟨_, _, rfl⟩

theorem Pen.Shows.dropJoined {x : Pen} {n : Nat} (h : x.Shows p w) : (x.dropJoined n).Shows p w := by
  obtain ⟨a, b, e⟩ := x.dropJoined_eq n
  have ha : Pen.Shows p (if a then { x with ending := none } else x) w := by cases a <;> exact h
  rw [e]
  cases b
  · exact ha
  · exact ha.clearRun

/-- A run that goes on SOLO is not JOINED. -/
theorem Pen.Shows.solo {x : Pen} (h : x.Shows p w) :
    Pen.Shows p { x with run := x.run.map (fun r => { r with mode := .solo }) } w := by
  obtain ⟨⟨hst, hpc, hregs, hrun⟩, -⟩ := h
  refine ⟨⟨hst, hpc, hregs, hrun.imp (fun h => by rw [h]; rfl) id⟩, fun _ r hr => ?_⟩
  obtain ⟨r', -, rfl⟩ := Option.map_eq_some_iff.1 hr
  exact nofun

theorem State.Shows.discardAll {l : List Nat} (h : s.Shows p w) : (s.forAll l (fun n t => t.discardDraft n)).Shows p w :=
  h.of_pens (State.forAll_eq State.pens fun _ _ => State.discardDraft_pens)

theorem State.Shows.killRun (h : s.Shows p w) : (s.killRun q).Shows p w := by
  unfold State.killRun
  split
  · exact h
  · next r _ =>
    have hkill := ((h.discardAll (l := r.drafts)).of_pens (State.dropCopy_pens (p := q))).of_pens
      (State.dropRequest_pens (p := q) (r := r))
    have hclear := hkill.modPen (q := q) (fun x hx => Pen.Shows.oweCopy (r := r) (Pen.Shows.clearRun hx))
    dsimp only
    split
    · exact hclear.modPen fun x hx => hx.dropJoined
    · exact hclear

theorem State.Shows.killEnding (h : s.Shows p w) : (s.killEnding q).Shows p w := by
  unfold State.killEnding
  split
  · exact h
  · next r _ =>
    have hclear := (h.discardAll (l := r.drafts)).modPen (q := q) (f := fun x => { x with ending := none }.oweCopy r)
      (fun x hx => Pen.Shows.oweCopy (x := { x with ending := none }) hx)
    dsimp only
    split
    · exact hclear.modPen fun x hx => hx.dropJoined
    · exact hclear

/-- A change of every listed pen's TLB. -/
theorem State.Shows.mapPens {f : Pen → Pen} (h : s.Shows p w) (h0 : ∀ x, { f x with tlb := x.tlb } = x) :
    State.Shows p w { s with pens := s.pens.map (fun e => (e.1, f e.2)) } := by
  have hget : ∀ l : Table Pen, (Table.get (fun _ => {}) l p).Shows p w →
      (Table.get (fun _ => ({} : Pen)) (l.map (fun e => (e.1, f e.2))) p).Shows p w := by
    intro l
    induction l with
    | nil => exact id
    | cons e l ih =>
      rw [List.map_cons, Table.get, Table.get]
      split
      · intro hx
        have hback := h0 e.2
        rw [← hback] at hx
        exact hx
      · exact ih
  exact hget s.pens h

theorem State.Shows.rewriteTlb {n : Nat} (h : s.Shows p w) : (s.rewriteTlb n).Shows p w := by
  unfold State.rewriteTlb
  exact h.mapPens (f := fun x => { x with tlb := x.tlb.map _ }) fun _ => rfl

theorem State.Shows.commitPage {r : Run} {n : Nat} (h : s.Shows p w) : (s.commitPage r n).Shows p w := by
  unfold State.commitPage
  dsimp only
  have hmod (f : VSlot → VSlot) : (s.modVslot n f).Shows p w := h.of_pens State.modVslot_pens
  have htlb (f : VSlot → VSlot) : (((s.modVslot n f).rewriteTlb n).noteCommit n).Shows p w :=
    (hmod f).rewriteTlb.of_pens rfl
  split
  · exact (htlb _).of_pens rfl
  · exact htlb _

theorem State.Shows.commitRun {r : Run} {c : Nat} (h : s.Shows p w) : (s.commitRun r c).1.Shows p w := by
  have hpages : (s.forAll r.drafts (fun n t => t.commitPage r n)).Shows p w :=
    State.forAll_of_turn (P := State.Shows p w) (fun _ _ ht => State.Shows.commitPage ht) h
  refine hpages.of_pens ?_
  unfold State.commitRun State.noteHwm
  dsimp only
  split <;> rfl

theorem State.Shows.commitPen (h : s.Shows p w) : (s.commitPen q).1.Shows p w := by
  unfold State.commitPen
  split
  · next r _ =>
    have hc := (h.commitRun (r := r) (c := r.linend.getD 0)).modPen (q := q)
      (f := fun y => { y with ending := none }.oweCopy r) (fun x hx => Pen.Shows.oweCopy (x := { x with ending := none }) hx)
    dsimp only
    split
    · exact hc.modPen fun x hx => hx.dropJoined
    · exact hc
  · split
    · exact h
    · next r _ =>
      have hc := (h.commitRun (r := r) (c := r.linend.getD 0)).modPen (q := q)
        (fun x hx => Pen.Shows.oweCopy (r := r) (Pen.Shows.clearRun hx))
      dsimp only
      split
      · exact hc.modPen fun x hx => hx.dropJoined
      · exact hc

/-! ### Events that fence no even partner of an odd pen -/

/-- Pen `q` is not the even partner of the odd pen `p`. -/
def Spares (p q : Nat) : Prop := ¬(q % 2 = 0 ∧ q + 1 = p)

theorem spares_self : Spares p p := by unfold Spares; omega
theorem spares_of_even (h : p % 2 = 0) : Spares p q := by unfold Spares; omega

/-- The event's FENCE spares the even partner of pen `p` (R420). -/
def Event.Spares (p : Nat) (e : Event) : Prop :=
  (e.utype = 1 → Machine.Spares p e.unit) ∧ (e.utype = 2 → Machine.Spares p (e.unit / 2))

/-- An event without a pen or a bank fences none. -/
theorem Event.spares_of_utype {e : Event} (h1 : e.utype ≠ 1) (h2 : e.utype ≠ 2) : e.Spares p :=
  ⟨fun h => absurd h h1, fun h => absurd h h2⟩

theorem State.Shows.setMirror {m : Mirror} (h : s.Shows p w) : (s.setMirror q m).Shows p w := h.modPen fun _ hx => hx

theorem State.Shows.soleFor (h : s.Shows p w) : (s.soleFor q).Shows p w := by
  unfold State.soleFor
  split
  · exact h.setMirror
  · exact h

theorem State.Shows.leavePair (h : s.Shows p w) (hq : Spares p q) : (s.leavePair q).Shows p w := by
  unfold State.leavePair
  dsimp only
  refine State.Shows.soleFor (State.Shows.modPen ?_ fun x hx => ⟨hx.1.ended rfl rfl rfl rfl rfl rfl, fun _ _ hr => nomatch hr⟩)
  split
  · next he =>
    have hne : otherOf q ≠ p := by rw [otherOf, if_pos he]; exact fun e => hq ⟨he, e⟩
    exact (h.modPen_other hne).of_pens rfl
  · exact h.modPen fun x hx => hx.solo

theorem State.Shows.toFenced (h : s.Shows p w) : (s.toFenced q).Shows p w := by
  have hfree : (s.freeBlotter q).Shows p w := (h.modPen (q := q)
    (f := fun x => { x with testPort := none, handAt := none, passAt := none }) fun _ hx => hx).of_pens rfl
  have hcut : (((s.freeBlotter q).dropMarch q).cutPass q).Shows p w := (hfree.of_pens State.dropMarch_pens).of_pens rfl
  exact (hcut.modPen (q := q) (f := fun x => { x.clearRun with st := .fenced, ending := none })
    (fun _ hx => ⟨hx.1.ended rfl rfl rfl rfl rfl rfl, fun _ _ hr => nomatch hr⟩)).of_pens rfl

theorem State.Shows.mirrorAfterLoss (h : s.Shows p w) : (s.mirrorAfterLoss q).Shows p w := by
  unfold State.mirrorAfterLoss
  split
  · exact h
  · have hst := h.modPen (q := q) (f := fun x => { x with stale := true }) fun _ hx => hx
    dsimp only
    split
    · exact hst.soleFor
    · split
      · exact hst.setMirror
      · exact hst
    · split
      · exact hst.setMirror
      · exact hst
    · exact hst

theorem State.loseRun_spares {r : Run} : ∀ e ∈ (s.loseRun r).2, e.Spares p := by
  have hline (c : Nat) : ∀ e ∈ [lineEvent c r.line], e.Spares p := by
    intro e he
    rw [List.mem_singleton] at he
    subst he
    exact Event.spares_of_utype nofun nofun
  unfold State.loseRun
  split
  · exact nofun
  · dsimp only
    split_ifs
    · exact nofun
    · exact hline _
    · exact hline _
    · exact hline _
    · exact nofun

theorem State.Shows.fencePen (h : s.Shows p w) (hq : Spares p q) :
    (s.fencePen q).1.Shows p w ∧ ∀ e ∈ (s.fencePen q).2, e.Spares p := by
  have hpen (l : Nat) : (penEvent 0x09 q l).Spares p := ⟨fun _ => hq, nofun⟩
  have hend := h.killEnding (q := q)
  unfold State.fencePen
  split
  · exact ⟨h, nofun⟩
  · have hfin {t : State} (ht : t.Shows p w) : ((t.toFenced q).mirrorAfterLoss q).wantRedraft.Shows p w :=
      (ht.toFenced.mirrorAfterLoss).of_pens State.wantRedraft_pens
    dsimp only
    split
    · exact ⟨hfin hend, fun e he => by rw [List.mem_singleton] at he; exact he ▸ hpen _⟩
    · next r _ =>
      split
      · exact ⟨hfin (hend.leavePair hq), fun e he => by rw [List.mem_singleton] at he; exact he ▸ hpen _⟩
      · refine ⟨hfin hend.killRun, fun e he => ?_⟩
        rw [List.mem_cons, List.mem_singleton] at he
        obtain rfl | rfl := he
        · exact hpen _
        · exact Event.spares_of_utype nofun nofun
      · refine ⟨hfin (hend.killRun.of_pens State.loseRun_pens), fun e he => ?_⟩
        obtain rfl | he := List.mem_cons.1 he
        · exact hpen _
        · exact State.loseRun_spares e he

/-! ### The entry to SAFE -/

theorem State.supersededBy_spares {r : Run} : ∀ e ∈ s.supersededBy r, e.Spares p := by
  intro e he
  obtain ⟨n, -, rfl⟩ := List.mem_map.1 he
  exact Event.spares_of_utype nofun nofun

theorem State.commitPen_spares : ∀ e ∈ (s.commitPen q).2, e.Spares p := by
  unfold State.commitPen
  split
  · exact State.supersededBy_spares
  · split
    · exact nofun
    · exact State.supersededBy_spares

/-- A turn that keeps the status word and adds only events that spare the partner. -/
def TurnKeeps (p : Nat) (w : Pen) (x : State × List Event) : Prop := x.1.Shows p w ∧ ∀ e ∈ x.2, e.Spares p

theorem TurnKeeps.commit {x : State × List Event} (h : TurnKeeps p w x) :
    TurnKeeps p w ((x.1.commitPen q).1, x.2 ++ (x.1.commitPen q).2) :=
  ⟨h.1.commitPen, fun e he => (List.mem_append.1 he).elim (h.2 e) (State.commitPen_spares e)⟩

theorem foldl_turnKeeps {l : List Nat} {f : State × List Event → Nat → State × List Event} {x : State × List Event}
    (hf : ∀ y n, TurnKeeps p w y → TurnKeeps p w (f y n)) (h : TurnKeeps p w x) : TurnKeeps p w (l.foldl f x) := by
  induction l generalizing x with
  | nil => exact h
  | cons n l ih => exact ih (hf x n h)

theorem State.Shows.endRuns (h : s.Shows p w) : TurnKeeps p w s.endRuns := by
  unfold State.endRuns
  extract_lets now due x
  have hfold : TurnKeeps p w x := by
    refine foldl_turnKeeps (fun y q hy => ?_) ⟨h, nofun⟩
    extract_lets pen y1 z y2
    have hz : TurnKeeps p w z := by
      unfold z
      split
      · split
        · exact hy.commit (q := q)
        · exact ⟨hy.1.killEnding, hy.2⟩
      · exact hy
    split
    · split
      · exact hz.commit (q := q)
      · exact ⟨hz.1.killRun, hz.2⟩
    · exact hz
  clear_value x
  exact ⟨hfold.1.of_pens rfl, hfold.2⟩

theorem State.msixNow_spares {v : Nat} : ∀ e ∈ (s.msixNow v).2, e.Spares p := by
  unfold State.msixNow
  dsimp only
  split_ifs
  · exact nofun
  · exact nofun
  · intro e he
    rw [List.mem_singleton] at he
    subst he
    exact Event.spares_of_utype nofun nofun
  · exact nofun
  · exact nofun

theorem State.rateCheck_spares : ∀ e ∈ s.rateCheck.2, e.Spares p := by
  unfold State.rateCheck
  split
  · exact nofun
  · dsimp only
    split_ifs
    · intro e he
      rw [List.mem_singleton] at he
      subst he
      exact Event.spares_of_utype nofun nofun
    · exact nofun

theorem State.cutTrace_spares : ∀ e ∈ s.cutTrace.2, e.Spares p := by
  have hrate := State.rateCheck_spares (s := s) (p := p)
  unfold State.cutTrace
  dsimp only
  split
  · exact hrate
  · split_ifs
    · exact hrate
    · intro e he
      rw [List.mem_append, List.mem_append, List.mem_singleton] at he
      obtain (he | he) | rfl := he
      · exact hrate e he
      · exact State.msixNow_spares e he
      · exact Event.spares_of_utype nofun nofun

/-- Beyond the runs that it ends the entry to SAFE leaves the pens alone. -/
theorem State.enterSafe_pens (s : State) : s.enterSafe.1.pens = s.endRuns.1.pens := by
  have hcut (t : State) : t.cutCommands.pens = t.pens := rfl
  have hclose (t : State) : t.closeAll.pens = t.pens := rfl
  have hrel (t : State) : t.releaseActive.pens = t.pens := State.modSlot_pens
  unfold State.enterSafe
  dsimp only
  split
  · rw [hcut, State.farewell_pens, hclose, State.cutTrace_pens, State.safeOutputs_pens]
  · rw [hrel, hcut, State.farewell_pens, hclose, State.cutTrace_pens, State.safeOutputs_pens]

theorem State.Shows.enterSafe (h : s.Shows p w) : TurnKeeps p w s.enterSafe := by
  obtain ⟨hruns, hev⟩ := h.endRuns
  exact ⟨hruns.of_pens s.enterSafe_pens, fun e he => (List.mem_append.1 he).elim (hev e) (State.cutTrace_spares e)⟩

/-! ### The rubric -/

theorem State.queueEvent_spares {e : Event} {a : Nat} {esc irq : Bool} :
    ∀ f ∈ (s.queueEvent e a esc irq).2, f.Spares p := by
  unfold State.queueEvent
  dsimp only
  split_ifs
  · exact nofun
  · exact nofun
  · exact nofun
  · exact nofun
  · intro f hf
    rw [List.mem_singleton] at hf
    subst hf
    exact Event.spares_of_utype nofun nofun

theorem State.Shows.react {e : Event} {a : Nat} (h : s.Shows p w) (he : e.Spares p) : TurnKeeps p w (s.react e a) := by
  unfold State.react
  split_ifs with _ h1 h2
  · exact h.fencePen (he.1 h1)
  · exact h.fencePen (he.2 h2)
  · exact ⟨h.of_pens rfl, nofun⟩
  · exact ⟨h, nofun⟩
  · exact ⟨h.of_pens State.shedLine_pens, nofun⟩
  · exact ⟨h, nofun⟩
  · exact h.enterSafe
  · exact ⟨h, nofun⟩

/-- What judging an event can do (R412, R420): nothing without power; else it counts it, and may queue it and react. -/
theorem State.judgeEvent_eq (s : State) (e : Event) : s.judgeEvent e = (s, []) ∨ ∃ f a esc irq,
    s.judgeEvent e = (s.modRb e.cls f, []) ∨
    s.judgeEvent e =
      (let x := (s.modRb e.cls f).queueEvent e a esc irq
       let y := x.1.react e a
       (y.1, x.2 ++ y.2)) := by
  unfold State.judgeEvent
  split
  · exact .inl rfl
  · exact .inr ⟨_, _, _, _, (Classical.em _).imp (fun h => if_pos h) (fun h => if_neg h)⟩

theorem State.Shows.judgeEvent {e : Event} (h : s.Shows p w) (he : e.Spares p) : TurnKeeps p w (s.judgeEvent e) := by
  obtain hnone | ⟨f, a, esc, irq, hcount | hreact⟩ := s.judgeEvent_eq e
  · exact hnone ▸ ⟨h, nofun⟩
  · exact hcount ▸ ⟨h.of_pens rfl, nofun⟩
  · have hq : ((s.modRb e.cls f).queueEvent e a esc irq).1.Shows p w :=
      State.Shows.of_pens (s := s.modRb e.cls f) (h.of_pens rfl) State.queueEvent_pens
    obtain ⟨hst, hev⟩ := hq.react (a := a) he
    exact hreact ▸ ⟨hst, fun g hg => (List.mem_append.1 hg).elim (State.queueEvent_spares g) (hev g)⟩

theorem State.Shows.raiseN {n : Nat} {es : List Event} (h : s.Shows p w) (he : ∀ e ∈ es, e.Spares p) :
    (State.raiseN n es s).Shows p w := by
  induction n generalizing s es with
  | zero => exact h
  | succ n ih =>
    cases es with
    | nil => exact h
    | cons e es =>
      obtain ⟨hst, hev⟩ := h.judgeEvent (he e List.mem_cons_self)
      exact ih hst fun f hf => (List.mem_append.1 hf).elim (hev f) fun hf => he f (List.mem_cons_of_mem _ hf)

theorem State.Shows.raise {e : Event} (h : s.Shows p w) (he : e.Spares p) : (s.raise e).Shows p w :=
  State.Shows.raiseN h fun f hf => by rw [List.mem_singleton] at hf; exact hf ▸ he

/-! ### Reads -/

theorem State.Shows.modErr {a : Nat} {f : Word → Word} (h : s.Shows p w) : (s.modErr a f).Shows p w := by
  unfold State.modErr
  split
  · exact h.modPen fun _ hx => hx
  · exact h.of_pens State.modRsv_pens

/-- The event of a bank names the pen of an inkwell's bank. -/
theorem bankEvent_spares {cls a n : Nat} (ha : isInk a = true → Spares p (inkPen a)) :
    Event.Spares p { bankEvent cls a with line := n } := by
  unfold bankEvent
  split
  · next hi =>
    have hunit : (2 * inkPen a + inkBank a) / 2 = inkPen a := by
      have hb : inkBank a < 2 := Nat.mod_lt _ (by decide)
      omega
    refine ⟨nofun, fun _ => ?_⟩
    dsimp only
    rw [hunit]
    exact ha hi
  · exact Event.spares_of_utype nofun nofun

theorem State.Shows.marginAdd {a syn source : Nat} (h : s.Shows p w) : (s.marginAdd a syn source).Shows p w := by
  unfold State.marginAdd
  dsimp only
  split_ifs
  · exact h.of_pens rfl
  · exact h.of_pens rfl
  · exact h.of_pens rfl
  · refine State.Shows.raise (State.Shows.of_pens h ?_) (Event.spares_of_utype nofun nofun)
    rfl

theorem State.Shows.readWord {a source : Nat} {cls : Option Nat} (h : s.Shows p w)
    (ha : isInk a = true → Spares p (inkPen a)) : (s.readWord a source cls).2.Shows p w := by
  unfold State.readWord
  split
  · exact h
  · exact h.modErr.marginAdd
  · exact h.modErr.raise (bankEvent_spares ha)
  · exact h.modErr.raise (bankEvent_spares ha)

theorem inkPen_ownCopy {home a : Nat} (h : isInk a = true) (hh : inkPen a = home) : inkPen (ownCopy p home a) = p := by
  have hown : ownCopy p home a = inkBase p + a % 0x80000 := if_pos (by simp [h, hh])
  rw [hown, inkPen, inkBase]
  omega

/-- A run reads its home pen's inkwell from its own pen's copies. -/
theorem State.Shows.readRun {home a source : Nat} (h : s.Shows p w) (ha : isInk a = true) (hh : inkPen a = home) :
    (s.readRun p home a source).2.Shows p w := by
  have hown : isInk (ownCopy p home a) = true → Spares p (inkPen (ownCopy p home a)) := fun _ => by
    rw [inkPen_ownCopy ha hh]
    exact spares_self
  unfold State.readRun
  dsimp only
  split
  · next hj =>
    refine (h.readWord hown).readWord fun _ => spares_of_even ?_
    by_contra hodd
    rw [Bool.and_eq_true, State.isJoined] at hj
    cases hr : (s.pen p).run with
    | none => simp [hr] at hj
    | some r => exact h.2 (by omega) r hr (by simpa [hr] using hj.1)
  · exact h.readWord hown

theorem State.Shows.fetchBlock {r : Run} {a : Nat} (h : s.Shows p w) (ha : isInk a = true) (hh : inkPen a = r.home) :
    (s.fetchBlock p r a).Shows p w := by
  have hlo : isInk (a / 16 * 16) = true ∧ inkPen (a / 16 * 16) = r.home := by
    simp only [isInk, inkPen, decide_eq_true_eq] at *
    omega
  have hhi : isInk (a / 16 * 16 + 8) = true ∧ inkPen (a / 16 * 16 + 8) = r.home := by
    simp only [isInk, inkPen, decide_eq_true_eq] at *
    omega
  exact ((h.readRun hlo.1 hlo.2).readRun hhi.1 hhi.2).modPen fun _ hx => hx

/-- A block that may be fetched lies in an inkwell of the run's home pen (R201). -/
theorem State.fetchRefusal_none {r : Run} {a : Nat} (h : s.fetchRefusal r a = none) :
    isInk a = true ∧ inkPen a = r.home := by
  unfold State.fetchRefusal at h
  split_ifs at h with h1 h2 h3
  · simpa using h2

/-- A fetch that is served leaves its pen's status word. -/
theorem State.Shows.fetch {r : Run} {b : Bool} (h : s.Shows p w) (ht : s.fetch p r b = .served t) : t.Shows p w := by
  have hfrom {u : State} (hu : u.Shows p w)
      (e : (if (u.pen p).codeWord.isSome then FetchOut.served u else .bus 0x02 u) = .served t) : t.Shows p w := by
    split at e
    · cases e
      exact hu
    · cases e
  unfold State.fetch at ht
  dsimp only at ht
  split at ht
  · exact hfrom h ht
  · split at ht
    · cases ht
    · cases ht
    · split at ht
      · cases ht
      · next hnone =>
        obtain ⟨ha, hh⟩ := State.fetchRefusal_none hnone
        exact hfrom (h.fetchBlock ha hh) ht

end shows

/-- The run that executes on a pen is JOINED only on an even one. -/
theorem State.shows_of_runs {s : State} {p : Nat} (h : (s.runs p).isSome = true) : s.Shows p (s.pen p) := by
  refine ⟨⟨rfl, rfl, ⟨rfl, rfl, rfl⟩, .inr ⟨rfl, rfl, rfl⟩⟩, fun hp r hr hm => ?_⟩
  rw [State.runs, hr] at h
  simp [hm, hp] at h

/-- A pen whose next instruction is admitted goes on as it was before the fetch. -/
theorem State.admitted_shows {s t : State} {p : Nat} {b : Bool} (hr : (s.runs p).isSome = true) (h : s.admitted p b = some t) :
    t.Shows p (s.pen p) := by
  have hshow := State.shows_of_runs hr
  unfold State.admitted at h
  split at h
  · cases h
    exact hshow
  all_goals
    split at h
    · cases h
    · split at h
      · cases h
      · split at h
        · next hf =>
          cases h
          exact hshow.fetch hf
        · cases h
        · cases h

/-- An instruction that issues finds its pen's status word as it was before the fetch. -/
theorem State.Issues.status_eq {s0 s : State} {i : Iss} {u : Uses} (h : s0.Issues s i u) :
    (s.pen i.pen.val).status = (s0.pen i.pen.val).status := by
  obtain ⟨hready, hadm, -⟩ := h
  rw [State.ready, Bool.and_eq_true] at hready
  obtain ⟨⟨hst, -⟩, -⟩ := State.admitted_shows hready.1 hadm
  exact hst

end Sys2Proof.Machine
end

section
/-! The ALU instructions: each row of the table is one operation on the registers. -/

namespace Sys2Proof.Machine

/-- An instruction whose row does an ALU operation where its pen is ready. -/
theorem aluAt_of_doAlu {c : Instr} {i : Iss} {u : Uses} {rd : Reg} {f : (Reg → TWord) → Except Exc AluOut} {s0 s : State}
    (hc : exec c s0 = guarded (s0.ready i.pen.val) s0 (fun s => s.doAlu i u rd f)) : AluAt c i u rd f s0 s := by
  intro hi
  have hready : s0.ready i.pen.val = true := hi.1
  rw [hc, guarded_of_due hready]
  exact ⟨fun o h => ⟨_, rfl, State.doAlu_ok hi h⟩, fun e h => congrArg _ (State.doAlu_exc hi h)⟩

/-- A bit field that leaves the word (R173). -/
theorem bfOk_false {pos len1 : BitVec 6} (h : 64 < pos.toNat + len1.toNat + 1) : bfOk pos len1 = false :=
  decide_eq_false (by omega)

theorem bfOk_true {pos len1 : BitVec 6} (h : pos.toNat + len1.toNat + 1 ≤ 64) : bfOk pos len1 = true :=
  decide_eq_true h

/-- BFX and BFI raise the illegal encoding before they look at a register. -/
theorem aluAt_bf_illegal {i : Iss} {rd ra : Reg} {pos len1 : BitVec 6} {s0 s : State}
    (h : 64 < pos.toNat + len1.toNat + 1) :
    AluAt (.bfx i rd ra pos len1) i (useAlu [rd, ra] true) rd (fun _ => .error (excIllegal 3)) s0 s ∧
    AluAt (.bfi i rd ra pos len1) i (useAlu [rd, ra] true) rd (fun _ => .error (excIllegal 3)) s0 s := by
  have hok := bfOk_false h
  constructor
  · refine aluAt_of_doAlu ?_
    rw [show exec (.bfx i rd ra pos len1) s0 = execBfx i rd ra pos len1 s0 from rfl, execBfx]
    simp only [hok, Bool.not_false, if_true]
  · refine aluAt_of_doAlu ?_
    rw [show exec (.bfi i rd ra pos len1) s0 = execBfi i rd ra pos len1 s0 from rfl, execBfi]
    simp only [hok, Bool.not_false, if_true]

theorem aluAt_bf {i : Iss} {rd ra : Reg} {pos len1 : BitVec 6} {s0 s : State} (h : pos.toNat + len1.toNat + 1 ≤ 64) :
    AluAt (.bfx i rd ra pos len1) i (useAlu [rd, ra] true) rd
      (fun read => aluBfx pos.toNat (len1.toNat + 1) (read ra)) s0 s ∧
    AluAt (.bfi i rd ra pos len1) i (useAlu [rd, ra] true) rd
      (fun read => aluBfi pos.toNat (len1.toNat + 1) (read ra) (read rd)) s0 s := by
  have hok := bfOk_true h
  constructor
  · refine aluAt_of_doAlu ?_
    rw [show exec (.bfx i rd ra pos len1) s0 = execBfx i rd ra pos len1 s0 from rfl, execBfx]
    simp only [hok, Bool.not_true, Bool.false_eq_true, if_false]
  · refine aluAt_of_doAlu ?_
    rw [show exec (.bfi i rd ra pos len1) s0 = execBfi i rd ra pos len1 s0 from rfl, execBfi]
    simp only [hok, Bool.not_true, Bool.false_eq_true, if_false]

/-- TAG judges the privilege with which its pen executes, which its fetch leaves alone. -/
theorem aluAt_tag (i : Iss) (rd ra : Reg) (t : Tag) (s0 s : State) :
    AluAt (.tag i rd ra t) i (useAlu [rd, ra] false) rd
      (fun read => aluTag (!(s.pen i.pen.val).task) t (read ra)) s0 s := by
  intro hi
  have htask : (s.pen i.pen.val).task = (s0.pen i.pen.val).task := by rw [Pen.task, Pen.task, hi.status_eq]
  rw [htask]
  have hrow : AluAt (.tag i rd ra t) i (useAlu [rd, ra] false) rd
      (fun read => aluTag (!(s0.pen i.pen.val).task) t (read ra)) s0 s := aluAt_of_doAlu rfl
  exact hrow hi

end Sys2Proof.Machine
end

section
/-! The obligation of the ALU instructions. -/

namespace Sys2Proof.MarkaiInstructions

open Sys2Proof.Machine

/-- Settles O8: each row is one ALU operation; TAG's depends on the privilege, which the fetch leaves alone. -/
theorem aluInstructionsComplete : Obligations.AluInstructionsComplete := by
  refine ⟨fun i rd ra b => ⟨?add, ?addt, ?sub, ?subt, ?neg, ?negt⟩,
    fun i rd ra rb b a pos len1 => ⟨?and, ?or, ?xor, ?shl, ?shr, ?sar, ?rol, ?clz,
      fun h => ⟨fun _ _ => (aluAt_bf_illegal h).1, fun _ _ => (aluAt_bf_illegal h).2⟩,
      fun h => ⟨fun _ _ => (aluAt_bf h).1, fun _ _ => (aluAt_bf h).2⟩, ?perm⟩,
    fun i rd ra t => ⟨aluAt_tag i rd ra t, ?tagof, ?poison⟩⟩
  all_goals exact fun _ _ => aluAt_of_doAlu rfl

end Sys2Proof.MarkaiInstructions
end

section
/-! What an instruction's issue leaves of its pen (R163), the branches (R165, R182), and the interrupt that a pen accepts
(R223, R226). -/

namespace Sys2Proof.Machine

/-! ### Writes of results in flight, and the issue -/

/-- A pen but for what a write of registers, flags and results in flight, or the issue of an instruction, may change. -/
def Pen.Same (x y : Pen) : Prop :=
  { y with
    regs := x.regs, spTask := x.spTask, spExec := x.spExec, status := x.status, late := x.late, mul := x.mul, pair := x.pair
    hold := x.hold } = x

theorem Pen.Same.trans {x y z : Pen} (h : x.Same y) (h' : y.Same z) : x.Same z :=
  (congrArg (fun w : Pen => ({ w with
    regs := x.regs, spTask := x.spTask, spExec := x.spExec, status := x.status, late := x.late, mul := x.mul
    pair := x.pair, hold := x.hold } : Pen)) h' :).trans h

theorem Pen.putB_same (x : Pen) (k : Nat) (w : TWord) : x.Same (x.putB k w) := by
  unfold Pen.putB
  split_ifs <;> rfl

/-- A loop of register writes. -/
theorem Pen.foldl_putB_same (l : List Late) (x : Pen) : x.Same (l.foldl (fun y e => y.putB e.reg e.val) x) := by
  induction l generalizing x with
  | nil => rfl
  | cons e l ih => exact (x.putB_same e.reg e.val).trans (ih _)

theorem Pen.writeLate_same (x : Pen) (due : Late → Bool) : x.Same (x.writeLate due) :=
  x.foldl_putB_same (x.late.filter due)

theorem Pen.writeMul_same (x : Pen) : x.Same x.writeMul := by
  unfold Pen.writeMul
  split
  · rfl
  · next m _ => exact x.putB_same m.reg m.val

theorem Pen.openPair_same (x : Pen) (u : Uses) : x.Same (x.openPair u) := x.writeLate_same _

theorem Pen.issue_same (x : Pen) (b : Bool) (u : Uses) : x.Same (x.issue b u) := by
  have hopen : x.Same (if b then x else x.openPair u) := by
    split
    · rfl
    · exact x.openPair_same u
  unfold Pen.issue
  dsimp only
  generalize (if b then x else x.openPair u) = y at hopen ⊢
  have hmul : y.Same (if y.mulDep u then y.writeMul else y) := by
    split
    · exact y.writeMul_same
    · rfl
  exact hopen.trans hmul

theorem Pen.Same.pc_eq {x y : Pen} (h : x.Same y) : y.pc = x.pc := (congrArg Pen.pc h :)

theorem State.issuing_same (s : State) (i : Iss) (u : Uses) : (s.pen i.pen.val).Same (s.issuing i u).2 :=
  Pen.issue_same ..

theorem State.issuing_pc (s : State) (i : Iss) (u : Uses) : (s.issuing i u).2.pc = (s.pen i.pen.val).pc :=
  (s.issuing_same i u).pc_eq

/-! ### Branches -/

/-- A transfer changes the program counter, the fetch buffer and the pair. -/
theorem Pen.goto_back (x : Pen) (b : Bool) (w : Word) :
    { x.goto b w with pc := x.pc, pair := x.pair, fbuf := x.fbuf } = x := rfl

/-- What a branch that is taken, and one that is not, leave. -/
def BranchGoes (c : Instr) (i : Iss) (u : Uses) (s0 s : State) (taken : Bool) (pc : Word) : Prop :=
  ∃ t, exec c s0 = .next t ∧ OnlyPens [i.pen.val] s t ∧ (t.pen i.pen.val).pc = pc ∧
    (t.pen i.pen.val).fbuf = (if taken = true then none else (s.issuing i u).2.fbuf) ∧
    { t.pen i.pen.val with
      pc := (s.issuing i u).2.pc, pair := (s.issuing i u).2.pair, fbuf := (s.issuing i u).2.fbuf } = (s.issuing i u).2

section branch

variable {c : Instr} {i : Iss} {u : Uses} {s0 s : State} {f : Bool → State → Res (Pen → Pen)}

theorem branchGoes_goto {target : Pen → Word} (hc : exec c s0 = guarded (s0.ready i.pen.val) s0 (fun s => s.issueOne i u f))
    (hi : s0.Issues s i u)
    (h : f (s.issuing i u).1 (s.issued i u) = .ok (fun x => x.goto (s.issuing i u).1 (target x)) (s.issued i u)) :
    BranchGoes c i u s0 s true (target (s.issuing i u).2) := by
  refine ⟨_, (exec_of_due hc hi.1).trans (congrArg _ (hi.issueOne_ok h)), State.onlyPens_issued .., ?_, ?_, ?_⟩
  all_goals rw [State.issued_modPen]
  · rfl
  · rfl
  · exact Pen.goto_back ..

theorem branchGoes_done (hc : exec c s0 = guarded (s0.ready i.pen.val) s0 (fun s => s.issueOne i u f))
    (hi : s0.Issues s i u)
    (h : f (s.issuing i u).1 (s.issued i u) = .ok (fun x => x.done (s.issuing i u).1) (s.issued i u)) :
    BranchGoes c i u s0 s false ((s.issuing i u).2.pc + 4) := by
  refine ⟨_, (exec_of_due hc hi.1).trans (congrArg _ (hi.issueOne_ok h)), State.onlyPens_issued .., ?_, ?_, ?_⟩
  all_goals rw [State.issued_modPen]
  · rfl
  · rfl
  · rfl

/-- An instruction that takes an exception where its pen is ready. -/
theorem exec_exc {e : Exc} (hc : exec c s0 = guarded (s0.ready i.pen.val) s0 (fun s => s.issueOne i u f))
    (hi : s0.Issues s i u) (h : f (s.issuing i u).1 (s.issued i u) = .exc e (s.issued i u)) :
    exec c s0 = .next (s0.excFrom (s.issued i u) i e) :=
  (exec_of_due hc hi.1).trans (congrArg _ (hi.issueOne_exc h))

end branch

/-- The condition codes of R165, by their numbers. -/
theorem condHolds_mkFlags (cond : BitVec 4) (n z c v : Bool) (h : cond.toNat < 14) :
    condHolds cond (mkFlags n z c v) = some ([z, !z, !c, c, n, !n, v, !v, !c && !z, c || z, n == v, n != v, !z && n == v,
      z || n != v].getD cond.toNat false) := by
  revert cond n z c v
  decide

theorem condHolds_none (cond : BitVec 4) (f : Flags) (h : 14 ≤ cond.toNat) : condHolds cond f = none := by
  have hcases : cond = 14 ∨ cond = 15 := by
    have hlt := cond.isLt
    obtain h14 | h15 : cond.toNat = 14 ∨ cond.toNat = 15 := by omega
    · exact .inl (BitVec.eq_of_toNat_eq h14)
    · exact .inr (BitVec.eq_of_toNat_eq h15)
  obtain rfl | rfl := hcases <;> rfl

/-! ### Interrupts -/

/-- Where a pen finds its interrupt: pending, and not masked or of level 7. -/
def Pen.offers (x : Pen) (l : Nat) : Bool := x.ipiPend.getLsbD l && (x.maskLevel ≤ l || l = 7)

/-- The first of falling numbers that passes a test is the greatest. -/
theorem find?_eq_some_iff_of_falling {l : List Nat} (hl : l.Pairwise (· > ·)) (f : Nat → Bool) (k : Nat) :
    l.find? f = some k ↔ (k ∈ l ∧ f k = true) ∧ ∀ m ∈ l, k < m → f m = false := by
  induction l with
  | nil => simp
  | cons a l ih =>
    obtain ⟨hgt, hl⟩ := List.pairwise_cons.1 hl
    rw [List.find?_cons]
    cases ha : f a with
    | true =>
      simp only [Option.some.injEq, List.mem_cons]
      refine ⟨?_, fun ⟨⟨hk, _⟩, hmax⟩ => ?_⟩
      · rintro rfl
        refine ⟨⟨.inl rfl, ha⟩, fun m hm hlt => ?_⟩
        obtain rfl | hm := hm
        · omega
        · have := hgt m hm
          omega
      · obtain rfl | hk := hk
        · rfl
        · have h1 := hmax a (.inl rfl) (hgt k hk)
          rw [ha] at h1
          cases h1
    | false =>
      dsimp only
      rw [ih hl]
      simp only [List.mem_cons]
      refine ⟨fun ⟨⟨hk, hfk⟩, hmax⟩ => ⟨⟨.inr hk, hfk⟩, fun m hm hlt => ?_⟩, fun ⟨⟨hk, hfk⟩, hmax⟩ => ⟨⟨?_, hfk⟩, fun m hm => hmax m (.inr hm)⟩⟩
      · obtain rfl | hm := hm
        · exact ha
        · exact hmax m hm hlt
      · obtain rfl | hk := hk
        · rw [ha] at hfk
          cases hfk
        · exact hk

theorem Pen.irqLevel_eq_some_iff (x : Pen) (l : Nat) : x.irqLevel = some l ↔
    (1 ≤ l ∧ l ≤ 7 ∧ x.offers l = true) ∧ ∀ m, l < m → m ≤ 7 → ¬x.offers m = true := by
  have hmem (m : Nat) : m ∈ [7, 6, 5, 4, 3, 2, 1] ↔ 1 ≤ m ∧ m ≤ 7 := by
    simp only [List.mem_cons, List.not_mem_nil, or_false]
    omega
  have hfind := find?_eq_some_iff_of_falling (l := [7, 6, 5, 4, 3, 2, 1]) (by decide) x.offers l
  refine hfind.trans ?_
  simp only [hmem, and_assoc, Bool.not_eq_true]
  refine and_congr_right fun h1 => and_congr_right fun _ => and_congr_right fun _ => ?_
  exact ⟨fun h m hlt hle => h m ⟨by omega, hle⟩ hlt, fun h m hm hlt => h m hlt hm.2⟩

theorem Pen.offers_iff (x : Pen) (l : Nat) :
    x.offers l = true ↔ x.ipiPend.getLsbD l = true ∧ (x.maskLevel ≤ l ∨ l = 7) := by
  rw [Pen.offers, Bool.and_eq_true, Bool.or_eq_true, decide_eq_true_iff, decide_eq_true_iff]

end Sys2Proof.Machine
end

section
/-! The obligations of the branches and of the acceptance of interrupts. -/

namespace Sys2Proof.MarkaiInstructions

open Sys2Proof.Machine

/-- Settles O21: a branch that is taken goes to its target, one that is not passes, and the refused forms take their exception. -/
theorem branchesComplete : Obligations.BranchesComplete := by
  intro s0 s i holds goes
  refine ⟨?b, ?bcc, ?register⟩
  case b =>
    intro disp hi
    have h := branchGoes_goto (c := .b i disp) (target := fun x => relTarget x.pc disp.toInt) rfl hi rfl
    rw [State.issuing_pc] at h
    exact h
  case bcc =>
    intro cond disp u hi
    refine ⟨fun n z c v hfl hcond => ?_, fun hcond => ?_⟩
    case refine_2 =>
      refine exec_exc (c := .bcc i cond disp) rfl hi ?_
      rw [condHolds_none _ _ hcond]
      rfl
    have hholds : condHolds cond ((s.issued i u).pen i.pen.val).flags = some (holds cond n z c v) := by
      rw [State.issued_pen, hfl]
      exact condHolds_mkFlags cond n z c v hcond
    have hpc := State.issuing_pc s i u
    cases hb : holds cond n z c v with
    | true =>
      rw [← hpc]
      refine branchGoes_goto (c := .bcc i cond disp) (target := fun x => relTarget x.pc disp.toInt) rfl hi ?_
      rw [hholds, hb]
    | false =>
      rw [← hpc]
      refine branchGoes_done (c := .bcc i cond disp) rfl hi ?_
      rw [hholds, hb]
  case register =>
    intro rs u w hi
    refine ⟨fun ht ha => ?_, fun ht ha => ?_⟩
    · have hok : (do Sys2Proof.Machine.checkTag 0 [Tag.cptr] w; checkTarget w.val : Except Exc Unit) = .ok () := by
        rw [checkTag_of_mem (by rw [ht]; decide) (by rw [ht]; decide)]
        simp [checkTarget, ha, bind, Except.bind]
      refine branchGoes_goto (c := .bRegister i rs) (target := fun _ => w.val) rfl hi ?_
      rw [State.issued_pen]
      simp only [w] at hok
      simp only [hok]
      rfl
    · have hbad : (do Sys2Proof.Machine.checkTag 0 [Tag.cptr] w; checkTarget w.val : Except Exc Unit) =
          .error { vector := 4, level := 4, addr := w.val } := by
        rw [checkTag_of_mem (by rw [ht]; decide) (by rw [ht]; decide)]
        simp [checkTarget, ha, bind, Except.bind, excAlign]
      refine exec_exc (c := .bRegister i rs) rfl hi ?_
      rw [State.issued_pen]
      simp only [w] at hbad
      simp only [hbad]
      rfl

end Sys2Proof.MarkaiInstructions

namespace Sys2Proof.Exceptions

open Sys2Proof.Machine

/-- Settles O26: the pen looks through the levels from the highest, and an entry without an interrupt is not due. -/
theorem interruptAcceptance : Obligations.InterruptAcceptance := by
  intro x l
  refine ⟨?_, fun s p hnone => ?_⟩
  · simp only [Pen.irqLevel_eq_some_iff, Pen.offers_iff]
  · have hdue : ((s.runs p.val).isSome && (s.pen p.val).irqLevel.isSome && (s.pen p.val).yields) = false := by
      rw [hnone]
      simp
    exact congrArg Host.Outcome.next (if_neg (ne_true_of_eq_false hdue))

end Sys2Proof.Exceptions
end

section
/-! Rules of the Huvas's commands: how a command ends (R350), when one is carried out (R352, R359), and the words that it
reads and writes in host memory. -/

namespace Sys2Proof.Machine

/-- A table filled at the numbers below `n` reads what was written there. -/
theorem Table.get_foldl_set {α : Type} [DecidableEq α] (d : Nat → α) (t : Table α) (f : Nat → α) (n k : Nat) :
    Table.get d ((List.range n).foldl (fun t i => Table.set d t i (f i)) t) k = if k < n then f k else Table.get d t k := by
  induction n with
  | zero => simp
  | succ n ih =>
    rw [List.range_succ, List.foldl_append]
    simp only [List.foldl_cons, List.foldl_nil]
    by_cases hk : k = n
    · subst hk
      simp
    · rw [Table.get_set_other d _ _ hk, ih]
      have : k < n + 1 ↔ k < n := by omega
      simp only [this]

theorem State.raised_nil (s : State) : raised (s, []) = s := rfl

/-- A request for a vector does what MSI-X makes of it (R339). -/
theorem State.sendMsix_asked (s : State) (v : Nat) : s.MsixAsked v (.next (s.sendMsix v)) := by
  refine ⟨_, rfl, ?_⟩
  rw [State.sendMsix, State.msixNow]
  dsimp only
  cases hen : s.hif.msixEn with
  | false => exact ⟨fun _ => State.raised_nil s, nofun, nofun, nofun⟩
  | true =>
    simp only [Bool.not_true, Bool.false_eq_true, if_false, Bool.or_eq_true]
    by_cases hmask : s.hif.funcMask = true ∨ (s.msixOf v).ctrl.getLsbD 0 = true
    · rw [if_pos hmask, State.raised_nil]
      exact ⟨nofun, fun _ _ => ⟨State.modMsix_msixOf_same, fun j hj => State.modMsix_msixOf_other hj, rfl⟩,
        fun _ h => absurd hmask h, fun _ h => absurd hmask h⟩
    · rw [if_neg hmask]
      refine ⟨nofun, fun _ h => absurd h hmask, fun _ _ hfar => ?_, fun _ _ hnear => ?_⟩
      · rw [if_pos hfar]
        rfl
      · rw [if_neg (Nat.not_le.mpr hnear), State.raised_nil]
        rfl

/-- The state whose mailbox `m` has its answer, before the request for vector 0. -/
def State.answering (s : State) (m code : Nat) (res : List Word) : State :=
  let t := s.modMbox m (fun b => { b with
    st := .done, code := code, tokenR := b.token
    res := (upTo res.length).foldl (fun t i => Table.set (fun _ => 0) t i (res.getD i 0)) [] })
  { t with huv := { t.huv with foreQ := t.huv.foreQ.filter (· ≠ m) } }

theorem State.answering_mbox (s : State) (m code : Nat) (res : List Word) (j : Nat) :
    (s.answering m code res).mbox j = if j = m then { s.mbox m with
      st := .done, code := code, tokenR := (s.mbox m).token
      res := (upTo res.length).foldl (fun t i => Table.set (fun _ => 0) t i (res.getD i 0)) [] } else s.mbox j := by
  split
  case isTrue h =>
    subst h
    exact Table.get_set_same _ _ _ _
  case isFalse h => exact Table.get_set_other _ _ _ h

theorem State.answering_answered (s : State) (m code : Nat) (res : List Word) :
    s.Answered (s.answering m code res) m code res := by
  have hm := s.answering_mbox m code res m
  rw [if_pos rfl] at hm
  refine ⟨?_, fun i => ?_, fun j hj => (s.answering_mbox m code res j).trans (if_neg hj), rfl, rfl, rfl⟩
  · rw [hm]
  · rw [hm]
    refine (Table.get_foldl_set (fun _ => (0 : Word)) [] (fun i => res.getD i 0) res.length i).trans ?_
    by_cases hi : i < res.length
    · rw [if_pos hi]
    · rw [if_neg hi, List.getD_eq_default _ _ (Nat.le_of_not_lt hi)]
      rfl

/-- The end of a command answers its mailbox and asks for vector 0. -/
theorem State.finish_ends (s : State) (m code : Nat) (res : List Word) :
    s.Ends m code res (.next (s.finish m code res)) :=
  ⟨_, s.answering_answered m code res, State.sendMsix_asked _ 0⟩

/-- A command that is due, in a state in which it runs, has its effect. -/
theorem runCommand_of_begins {s : State} {m : MbN} {op : Nat} (h : s.Begins m op) (body : State → State) :
    runCommand m.val op s body = .next (body s) := by
  obtain ⟨hdue, hperm⟩ := h
  rw [runCommand, guarded_of_due hdue, State.command, if_pos hperm]

theorem runCommand_of_denied {s : State} {m op : Nat} (hdue : s.cmdDue m op = true) (hperm : permits op s.dev = false)
    (body : State → State) : runCommand m op s body = .next (s.finish m 2) := by
  rw [runCommand, guarded_of_due hdue, State.command, if_neg (by simp [hperm])]

theorem stepCommand_of_denied {s : State} {m op : Nat} (hdue : s.cmdDue m op = true) (hperm : permits op s.dev = false)
    (run : CmdRun) (f : Option Nat → Nat → State → State) : stepCommand m op run s f = .next (s.finish m 2) := by
  rw [stepCommand, guarded_of_due (by rw [hdue]; rfl)]
  simp only [hperm, Bool.not_false, if_true, if_pos hdue]

/-- How many steps the Huvas has behind it when it begins or goes on with a command. -/
def doneSteps (m : Nat) (prog : Option (Nat × Nat)) : Nat :=
  match prog with
  | some (k, n) => if k = m then n else 0
  | none => 0

/-- A command that begins or goes on does its steps, with no command part done. -/
theorem stepCommand_of_works {s : State} {m : MbN} {op done : Nat} (h : s.Works m op done)
    (f : Option Nat → Nat → State → State) :
    stepCommand m.val op .whole s f = .next (f none done s.unpaused) ∧
    ∀ k, stepCommand m.val op (.pause k) s f = .next (f (some k) done s.unpaused) := by
  obtain ⟨hperm, hgo⟩ := h
  have hdue : (s.cmdDue m.val op || s.cmdGoes m.val op) = true := by
    obtain ⟨hd, -, -⟩ | ⟨hg, -⟩ := hgo
    · rw [hd, Bool.true_or]
    · rw [hg, Bool.or_true]
  have hdone : doneSteps m.val s.huv.prog = done := by
    obtain ⟨-, hp, hd⟩ | ⟨-, hp⟩ := hgo
    · rw [hp, hd]
      rfl
    · rw [hp]
      exact if_pos rfl
  refine ⟨?_, fun k => ?_⟩
  all_goals
    rw [stepCommand, guarded_of_due hdue]
    simp only [hperm, Bool.not_true, Bool.false_eq_true, if_false]
    rw [← hdone]
    rfl

/-- Each command of a mailbox is carried out whole or in steps. -/
theorem commandOf_row {c : Instr} {m : MbN} {op : Nat} (h : commandOf c = some (m, op)) :
    (∃ body : State → State, ∀ s, exec c s = runCommand m.val op s body) ∨
    ∃ run f, ∀ s, exec c s = stepCommand m.val op run s f := by
  unfold commandOf at h
  split at h
  case h_4 _ k data run =>
    obtain ⟨rfl, rfl⟩ := Prod.mk.inj (Option.some.inj h)
    exact .inr ⟨run, fun lim done s => s.memLoad k.val data lim done, fun _ => rfl⟩
  case h_5 _ k linkFails run =>
    obtain ⟨rfl, rfl⟩ := Prod.mk.inj (Option.some.inj h)
    exact .inr ⟨run, fun lim _ s => s.memRead k.val linkFails lim, fun _ => rfl⟩
  case h_11 _ k data run =>
    obtain ⟨rfl, rfl⟩ := Prod.mk.inj (Option.some.inj h)
    exact .inr ⟨run, fun lim _ s => s.rulingLoad k.val data lim, fun _ => rfl⟩
  case h_12 _ k run =>
    obtain ⟨rfl, rfl⟩ := Prod.mk.inj (Option.some.inj h)
    exact .inr ⟨run, fun lim _ s => s.rulingVerify k.val lim, fun _ => rfl⟩
  case h_18 _ k linkFails run =>
    obtain ⟨rfl, rfl⟩ := Prod.mk.inj (Option.some.inj h)
    exact .inr ⟨run, fun lim done s => s.eventRead k.val linkFails lim done, fun _ => rfl⟩
  case h_34 => exact nomatch h
  all_goals
    obtain ⟨rfl, rfl⟩ := Prod.mk.inj (Option.some.inj h)
    exact .inl ⟨_, fun _ => rfl⟩

/-- A command answered as done, from a stated row. -/
theorem State.Ends.of_eq {s : State} {m code : Nat} {res : List Word} {o : Host.Outcome State Fault Refusal}
    (h : o = .next (s.finish m code res)) : s.Ends m code res o := h ▸ s.finish_ends m code res

end Sys2Proof.Machine
end

section
/-! The obligation of the commands that need their device state. -/

namespace Sys2Proof.HuvasCommands

open Sys2Proof.Machine

/-- Settles O44: in a state that does not permit it a command is answered before its effect, whole or in steps. -/
theorem commandsNeedTheirState : Obligations.CommandsNeedTheirState := by
  intro s c m op hc hdue hperm
  obtain ⟨body, hrow⟩ | ⟨run, f, hrow⟩ := commandOf_row hc
  · exact .of_eq ((hrow s).trans (runCommand_of_denied hdue hperm body))
  · exact .of_eq ((hrow s).trans (stepCommand_of_denied hdue hperm run f))

end Sys2Proof.HuvasCommands
end

section
/-! Fields of words that are put together from numbers (R6). -/

namespace Sys2Proof

theorem bitsOf_ofNat (n lo len : Nat) (h : lo + len ≤ 64) :
    bitsOf (BitVec.ofNat 64 n) lo len = n / 2 ^ lo % 2 ^ len := by
  rw [bitsOf, BitVec.toNat_ofNat, ← Nat.sub_add_cancel (show lo ≤ 64 by omega), Nat.add_comm, Nat.pow_add,
    Nat.mod_mul_right_div_self, Nat.mod_mod_of_dvd _ (Nat.pow_dvd_pow 2 (by omega))]

theorem bitAt_ofNat (n i : Nat) (h : i < 64) : bitAt (BitVec.ofNat 64 n) i = decide (n / 2 ^ i % 2 = 1) := by
  rw [bitAt, BitVec.getLsbD_ofNat, Nat.testBit_eq_decide_div_mod_eq]
  simp [h]

theorem bitN_le (b : Bool) : bitN b ≤ 1 := by cases b <;> decide

@[simp] theorem decide_bitN (b : Bool) : decide (bitN b = 1) = b := by cases b <;> decide

/-- Bit `i` of an assembled word, from the number above it. -/
theorem bitAt_ofNat_of_div {n i : Nat} {b : Bool} (h : i < 64) (hb : n / 2 ^ i % 2 = bitN b) :
    bitAt (BitVec.ofNat 64 n) i = b := by
  rw [bitAt_ofNat n i h, hb, decide_bitN]

end Sys2Proof
end

section
/-! The CAN controllers (R399 to R401): error confinement, the frames received and transmitted. -/

namespace Sys2Proof.Machine

/-- Error confinement from the new counters: the mode, its event bit, and the report of an entry. -/
theorem State.canErrors_eq (s : State) (c tec rec : Nat) :
    let st : Nat := if 255 < tec then 2 else if 127 < tec ∨ 127 < rec then 1 else 0
    let bit : BitVec 4 := if st = (s.can c).st then 0 else if st = 2 then 1 else if st = 1 then 2 else 0
    let t := s.modCan c (fun x => { x with
      tec := min 255 tec, recv := min 255 rec, st := st, event := x.event ||| bit })
    s.canErrors c tec rec = if bit = 0 then t
      else t.raise { cls := if st = 2 then 0x71 else 0x72, utype := 5, unit := c
                     detail := st + min 255 tec * 2 ^ 8 + min 255 rec * 2 ^ 16 } := by
  intro st bit
  rw [State.canErrors]
  simp only [Bool.or_eq_true, decide_eq_true_iff]
  change (let n := if st = (s.can c).st then 0 else if st = 2 then 1 else if st = 1 then 2 else 0; _) = _
  by_cases h : st = (s.can c).st
  · have hb : bit = 0 := if_pos h
    rw [hb, if_pos h]
    rfl
  by_cases h2 : st = 2
  · have hb : bit = 1 := (if_neg h).trans (if_pos h2)
    rw [hb, if_neg h, if_pos h2]
    rfl
  by_cases h1 : st = 1
  · have hb : bit = 2 := (if_neg h).trans ((if_neg h2).trans (if_pos h1))
    rw [hb, if_neg h, if_neg h2, if_pos h1]
    rfl
  · have hb : bit = 0 := (if_neg h).trans ((if_neg h2).trans (if_neg h1))
    rw [hb, if_neg h, if_neg h2, if_neg h1]
    rfl

/-- Counters of at most 127 leave a controller error-active, and nothing is reported. -/
theorem State.canErrors_active (s : State) (c : Nat) {tec rec : Nat} (ht : tec ≤ 127) (hr : rec ≤ 127) :
    s.canErrors c tec rec = s.modCan c (fun x => { x with tec := tec, recv := rec, st := 0 }) := by
  have hst : (if 255 < tec then 2 else if (decide (127 < tec) || decide (127 < rec)) = true then 1 else 0 : Nat) = 0 := by
    rw [if_neg (by omega), if_neg (by simp; omega)]
  have hbit (old : Nat) : (if 0 = old then 0 else if 0 = 2 then 1 else if 0 = 1 then 2 else 0 : Nat) = 0 := by
    split <;> rfl
  rw [State.canErrors, hst, hbit, Nat.min_eq_right (by omega), Nat.min_eq_right (by omega)]
  refine (if_pos rfl).trans ?_
  exact congrArg (s.modCan c) (funext fun x => by rw [show BitVec.ofNat 4 0 = 0#4 from rfl, BitVec.or_zero])

/-- Nothing but the record of controller `c` differs, and that is `y`. -/
def CanIs (s t : State) (c : Nat) (y : Can) : Prop :=
  t.can c = y ∧ (∀ j, j ≠ c → t.can j = s.can j) ∧ { t with cans := s.cans } = s

theorem CanIs.refl (s : State) (c : Nat) : CanIs s s c (s.can c) := ⟨rfl, fun _ _ => rfl, rfl⟩

theorem CanIs.modCan {s t : State} {c : Nat} {y : Can} (h : CanIs s t c y) (f : Can → Can) :
    CanIs s (t.modCan c f) c (f y) := by
  obtain ⟨hc, hother, hback⟩ := h
  exact ⟨State.modCan_can_same.trans (congrArg f hc), fun j hj => (State.modCan_can_other hj).trans (hother j hj), hback⟩

theorem CanIs.of_eq {s t : State} {c : Nat} {y z : Can} (h : CanIs s t c y) (e : y = z) : CanIs s t c z := e ▸ h

/-- A good frame below the limit lowers the receive error counter by one. -/
theorem State.canGood_low (s : State) (c : Nat) (ht : (s.can c).tec ≤ 127) (hr : (s.can c).recv ≤ 127) :
    s.canGood c = s.modCan c (fun x => { x with tec := (s.can c).tec, recv := (s.can c).recv - 1, st := 0 }) := by
  rw [State.canGood]
  dsimp only
  rw [if_pos hr]
  exact s.canErrors_active c ht (by omega)

/-- A good frame above the limit sets the receive error counter to a free value from 119 to 127. -/
theorem State.canGood_high (s : State) (c : Nat) (ht : (s.can c).tec ≤ 127) (hr : 127 < (s.can c).recv) :
    ∃ r, 119 ≤ r ∧ r ≤ 127 ∧ s.canGood c = ({ s with free := s.free + 1 } : State).modCan c
      (fun x => { x with tec := (s.can c).tec, recv := r, st := 0 }) := by
  refine ⟨119 + (Config.freeWord s.free).toNat % 9, by omega, by omega, ?_⟩
  rw [State.canGood]
  dsimp only
  rw [if_neg (by omega)]
  exact State.canErrors_active _ c ht (show 119 + (Config.freeWord s.free).toNat % 9 ≤ 127 by omega)

theorem State.canDeliver_dropped (s : State) (c : Nat) (f : CanFrame) (h : s.dev ≠ .run ∨ f.rtr = true) :
    s.canDeliver c f = s.modCan c (fun x => { x with cntDrop := satInc 0xFFFF x.cntDrop }) := by
  have hno : (decide (s.dev = .run) && !f.rtr) = false := by
    obtain h | h := h <;> simp [h]
  rw [State.canDeliver, hno]
  rfl

/-- A pushed record awaits its page, and nothing but the feed differs. -/
theorem State.pushRecord_feed (s : State) (di t : Nat) (body : RxBody) :
    ∃ F, s.pushRecord di t body = { s with feed := F } ∧ ∀ u : State, u.feed = F → s.Awaits u di t body :=
  ⟨_, rfl, fun _ h => h⟩

theorem State.canDeliver_one (s : State) (c : Nat) (f : CanFrame) {di : Nat} {d : Desc} (hdev : s.dev = .run)
    (hrtr : f.rtr = false) (hhits : s.canHits c f = [(di, d)]) :
    s.canDeliver c f = (s.pushRecord di s.aon.time.toNat (canBody d f)).modCan c
      (fun x => { x with cntRx := satInc 0xFFFF x.cntRx }) := by
  rw [State.canDeliver, hdev, hrtr, hhits]
  rfl

/-- An error reported by the bus, without a protocol exception. -/
theorem State.canError_plain (s : State) (c : Nat) (tec rec : BitVec 9) :
    s.canError c tec rec false = s.canErrors c tec.toNat rec.toNat := rfl

/-- A pending frame wins the arbitration. -/
theorem nextCan_ne_none {q : List CanTx} (h : q ≠ []) : ∃ t, nextCan q = some t := by
  obtain ⟨x, hx⟩ := List.exists_mem_of_ne_nil q h
  obtain ⟨t, ht, hmin⟩ := q.toFinset.exists_min_image (fun t => canKey t.frame) ⟨x, List.mem_toFinset.mpr hx⟩
  refine Option.isSome_iff_exists.mp (List.find?_isSome.mpr ⟨t, List.mem_toFinset.mp ht, ?_⟩)
  exact List.all_eq_true.mpr fun u hu => decide_eq_true (hmin u (List.mem_toFinset.mpr hu))

/-- A frame below all others wins it. -/
theorem nextCan_of_least {q : List CanTx} {g : CanTx} (hg : g ∈ q)
    (hmin : ∀ h ∈ q, h ≠ g → canKey g.frame < canKey h.frame) : nextCan q = some g := by
  obtain ⟨t, ht⟩ := nextCan_ne_none (List.ne_nil_of_mem hg)
  have hall := List.all_eq_true.mp (List.find?_some (p := fun t : CanTx => q.all _) ht) g hg
  by_cases hne : t = g
  · rw [ht, hne]
  · have := hmin t (List.mem_of_find?_eq_some ht) hne
    simp only [decide_eq_true_iff] at hall
    omega

/-- The frame that wins is sent: its controller counts it, and its publication is OK. -/
theorem State.canTransmit_sent (s : State) (c : Nat) {g : CanTx} (hg : nextCan (s.can c).txq = some g)
    (ht : (s.can c).tec ≤ 127) (hr : (s.can c).recv ≤ 127) :
    s.canTransmit c .ok = ((((s.modCan c (fun x => { x with
        txq := x.txq.erase g, cntTx := satInc 0xFFFF x.cntTx })).modCan c (fun x => { x with
          tec := (s.can c).tec - 1, recv := (s.can c).recv, st := 0 })).emit (.canFrame c g.frame)).setDescStatus g.desc stOk) := by
  rw [State.canTransmit, hg]
  dsimp only
  rw [State.modCan_can_same, State.canErrors_active _ c (by dsimp only; omega) (by exact hr)]

end Sys2Proof.Machine
end

section
/-! The obligation of the CAN controllers. -/

namespace Sys2Proof.TrainIo

open Sys2Proof.Machine

/-- Settles O57: error confinement is judged once; receipt and transmission are the rows around it. -/
theorem canCompletes : Obligations.CanCompletes := by
  intro s c hpow hon x only
  have hup (h : x.st < 2) : s.canUp c.val = true := by
    rw [State.canUp, hpow, hon, show (s.can c.val).st = x.st from rfl]
    simp [h]
  have honly {ins : Instr} {t : State} {y : Can} (h : exec ins s = .next t) (ht : CanIs s t c.val y) : only ins y := ⟨t, h, ht⟩
  have hreceive (f : CanFrame) (o : CanOutcome) (hst : x.st < 2) :=
    exec_of_due (c := .canFrameReceive c f o) (f := fun s => match o with
      | .ok => (s.canGood c.val).canDeliver c.val f
      | .arbLost => s
      | .error tec rec pex => s.canError c.val tec rec pex) rfl (hup hst)
  have htransmit (o : CanOutcome) (hst : x.st < 2) (hnorm : s.canNormal c.val = true) :=
    exec_of_due (c := .canFrameTransmit c o) (f := fun s => s.canTransmit c.val o) rfl
      (show (s.canUp c.val && s.canNormal c.val) = true by rw [hup hst, hnorm]; rfl)
  refine ⟨?recovery, ?active, ?high, ?busError, ?transmit⟩
  case recovery =>
    intro hst
    have hdue : (s.powered && s.canOn && decide ((s.can c.val).st = 2)) = true := by
      rw [hpow, hon, decide_eq_true (show (s.can c.val).st = 2 from hst)]
      rfl
    exact honly (exec_of_due (c := .canBusOffRecovery c)
      (f := fun s => s.modCan c.val (fun x => { x with st := 0, tec := 0, recv := 0, event := x.event ||| 4 })) rfl hdue)
      ((CanIs.refl s c.val).modCan _)
  case active =>
    intro hst htec f
    refine ⟨hreceive f .arbLost (by omega), fun hdrop hrec => ?_, fun hrec hdev hrtr hlen di d hhit htype => ?_⟩
    · refine honly (hreceive f .ok (by omega)) ?_
      dsimp only
      rw [s.canGood_low c.val htec hrec, State.canDeliver_dropped _ _ _ (by simpa using hdrop)]
      refine (((CanIs.refl s c.val).modCan _).modCan _).of_eq ?_
      show ({ x with recv := x.recv - 1, st := 0, cntDrop := satInc 0xFFFF x.cntDrop } : Can) = _
      rw [← hst]
    · have hstate : exec (.canFrameReceive c f .ok) s = _ := hreceive f .ok (by omega)
      dsimp only at hstate
      rw [s.canGood_low c.val htec hrec, State.canDeliver_one (State.modCan _ _ _) c.val f (di := di) (d := d) hdev hrtr
        (hhit ▸ rfl), canBody, if_pos htype] at hstate
      obtain ⟨F, hpush, hawait⟩ := State.pushRecord_feed (s.modCan c.val
        (fun x => { x with tec := (s.can c.val).tec, recv := (s.can c.val).recv - 1, st := 0 })) di s.aon.time.toNat
        (.frame (BitVec.ofNat 64 (f.data.length + bitN (dCount d * dElem d < f.data.length) * 2 ^ 24))
          (BitVec.ofNat 64 (canHeader f)) f.data)
      have hcan := ((CanIs.refl { s with feed := F } c.val).modCan (fun x => { x with
        tec := (s.can c.val).tec, recv := (s.can c.val).recv - 1, st := 0 })).modCan
          (fun x => { x with cntRx := satInc 0xFFFF x.cntRx })
      have hstay : ({ x with recv := x.recv - 1, st := 0, cntRx := satInc 0xFFFF x.cntRx } : Can) =
          { x with recv := x.recv - 1, cntRx := satInc 0xFFFF x.cntRx } := by rw [← hst]
      obtain ⟨hc, hother, hback⟩ := hcan.of_eq hstay
      rw [State.modCan_aon, hpush] at hstate
      have hfree : bitN f.ide ≤ 1 ∧ bitN f.fdf ≤ 1 ∧ bitN f.brs ≤ 1 ∧ bitN f.esi ≤ 1 :=
        ⟨bitN_le _, bitN_le _, bitN_le _, bitN_le _⟩
      have htrunc := bitN_le (decide (dCount d * dElem d < f.data.length))
      have hid := f.id.isLt
      refine ⟨_, BitVec.ofNat 64 (f.data.length + bitN (dCount d * dElem d < f.data.length) * 2 ^ 24),
        BitVec.ofNat 64 (canHeader f), hstate, hawait _ rfl, ?_, ?_, ?_, ?_, ?_, ?_, ?_, hc, hother,
        congrArg (fun u : State => ({ u with feed := s.feed } : State)) hback⟩
      · rw [bitsOf_ofNat _ _ _ (by omega)]
        omega
      · exact bitAt_ofNat_of_div (by omega) (by omega)
      · rw [bitsOf_ofNat _ _ _ (by omega), canHeader]
        omega
      all_goals
        refine bitAt_ofNat_of_div (by omega) ?_
        rw [canHeader]
        omega
  case high =>
    intro hst htec hrec hdev f
    obtain ⟨r, hlo, hhi, hgood⟩ := s.canGood_high c.val htec hrec
    have hstate := hreceive f .ok (by omega)
    dsimp only at hstate
    rw [hgood, State.canDeliver_dropped (State.modCan { s with free := s.free + 1 } _ _) c.val f (.inl hdev)] at hstate
    obtain ⟨hc, hother, hback⟩ := ((CanIs.refl { s with free := s.free + 1 } c.val).modCan
      (fun x => { x with tec := (s.can c.val).tec, recv := r, st := 0 })).modCan
        (fun x => { x with cntDrop := satInc 0xFFFF x.cntDrop })
    exact ⟨_, r, hstate, hlo, hhi, hc, hother, hback⟩
  case busError =>
    intro hst f tec rec ins hins st bit
    have herr : exec ins s = .next (s.canErrors c.val tec.toNat rec.toNat) := by
      obtain rfl | ⟨rfl, hnorm, hq⟩ := hins
      · exact hreceive f _ hst
      · obtain ⟨t, ht⟩ := nextCan_ne_none hq
        refine (htransmit _ hst hnorm).trans (congrArg Host.Outcome.next ?_)
        rw [State.canTransmit, ht]
        rfl
    obtain ⟨hc, hother, hback⟩ := (CanIs.refl s c.val).modCan (fun x => { x with
      tec := min 255 tec.toNat, recv := min 255 rec.toNat, st := st, event := x.event ||| bit })
    exact ⟨_, hc, hother, hback, herr.trans (congrArg Host.Outcome.next (s.canErrors_eq c.val tec.toNat rec.toNat))⟩
  case transmit =>
    intro hst hnorm
    have hrow (o : CanOutcome) := htransmit o hst hnorm
    refine ⟨?_, fun hq => ?_, fun g hst0 htec hrec hg hmin => ?_⟩
    · refine (hrow .arbLost).trans (congrArg Host.Outcome.next ?_)
      rw [State.canTransmit]
      split <;> rfl
    · refine (hrow .ok).trans (congrArg Host.Outcome.next ?_)
      rw [State.canTransmit, show (s.can c.val).txq = [] from hq]
      rfl
    · have hq := nextCan_of_least hg hmin
      have hsent := CanIs.modCan ((CanIs.refl s c.val).modCan (fun x => { x with
        txq := x.txq.erase g, cntTx := satInc 0xFFFF x.cntTx })) (fun y => { y with tec := x.tec - 1, recv := x.recv, st := 0 })
      have hstay : ({ x with txq := x.txq.erase g, cntTx := satInc 0xFFFF x.cntTx, tec := x.tec - 1, st := 0 } : Can) =
          { x with txq := x.txq.erase g, cntTx := satInc 0xFFFF x.cntTx, tec := x.tec - 1 } := by rw [← hst0]
      obtain ⟨hc, hother, hback⟩ := hsent.of_eq hstay
      have hstate := (hrow .ok).trans (congrArg Host.Outcome.next (s.canTransmit_sent c.val hq htec hrec))
      refine ⟨_, hstate, ?_, ?_, ?_, ?_, ?_, ?_⟩
      · refine State.modDesc_out.trans ?_
        rw [State.emit, State.modCan_out, State.modCan_out]
      · exact hc
      · exact hother
      · refine State.modDesc_desc_same.trans ?_
        rw [State.emit_desc, State.modCan_desc, State.modCan_desc]
        rfl
      · intro j hj
        refine (State.modDesc_desc_other hj).trans ?_
        rw [State.emit_desc, State.modCan_desc, State.modCan_desc]
      · exact hback

end Sys2Proof.TrainIo
end

section
/-! Voltage and supervision (R434 to R436, R442): what the AVS loop does with a margin, by the band it lies in, and a
temperature conversion. -/

namespace Sys2Proof.Machine

/-- The loop asks for a voltage where no write is unacknowledged, unless it is the target. -/
theorem State.avsRequest_of_idle {s : State} {mv : Nat} (h : s.pwr.request = none) :
    s.avsRequest mv = if mv = s.pwr.target then s
      else { s with pwr := { s.pwr with request := some mv, repeated := false }, out := s.out ++ [.avsWrite mv] } := by
  rw [State.avsRequest, h]
  by_cases hmv : mv = s.pwr.target
  · rw [if_pos hmv, if_pos (by simp [hmv])]
  · rw [if_neg hmv, if_neg (by simp [hmv])]
    rfl

section avs

variable {s : State} {n : Nat}

theorem State.avsJudge_critical (h : n < s.pwr.guardCrit) :
    s.avsJudge n = (State.avsRequest { s with pwr := { s.pwr with hiRun := 0, loRun := 0 } } s.pwr.vmax).powerEvent 5 0x82 := by
  rw [State.avsJudge]
  exact if_pos h

theorem State.avsJudge_low (h : ¬n < s.pwr.guardCrit) (hlo : n < s.pwr.guardLo) (hmax : s.pwr.target < s.pwr.vmax) :
    s.avsJudge n = State.avsRequest { s with pwr := { s.pwr with hiRun := 0, loRun := 0 } }
      (min (s.pwr.target + 5) s.pwr.vmax) := by
  rw [State.avsJudge]
  refine (if_neg h).trans ((if_pos hlo).trans ?_)
  simp only [Nat.not_le.mpr hmax, if_false]
  rfl

theorem State.avsJudge_low_at_max (h : ¬n < s.pwr.guardCrit) (hlo : n < s.pwr.guardLo) (hmax : s.pwr.vmax ≤ s.pwr.target) :
    let t : State := { s with pwr := { s.pwr with hiRun := 0, loRun := min (s.pwr.loRun + 1) 5 } }
    s.avsJudge n = if s.pwr.loRun + 1 = 4 then t.powerEvent 5 0x82 else t := by
  rw [State.avsJudge]
  refine (if_neg h).trans ((if_pos hlo).trans ?_)
  simp only [hmax, if_true]

theorem State.avsJudge_high (h : ¬n < s.pwr.guardCrit) (hlo : ¬n < s.pwr.guardLo) (hhi : s.pwr.guardHi < n) :
    s.avsJudge n = if min (s.pwr.hiRun + 1) 16 = 16 ∧ s.pwr.request = none then
        State.avsRequest { s with pwr := { s.pwr with hiRun := 0, loRun := 0 } } (max (s.pwr.target - 5) s.pwr.vmin)
      else { s with pwr := { s.pwr with hiRun := min (s.pwr.hiRun + 1) 16, loRun := 0 } } := by
  rw [State.avsJudge]
  refine (if_neg h).trans ((if_neg hlo).trans ((if_pos hhi).trans ?_))
  simp only [Bool.and_eq_true, decide_eq_true_iff, Option.isNone_iff_eq_none]

theorem State.avsJudge_between (h : ¬n < s.pwr.guardCrit) (hlo : ¬n < s.pwr.guardLo) (hhi : ¬s.pwr.guardHi < n) :
    s.avsJudge n = { s with pwr := { s.pwr with hiRun := 0, loRun := 0 } } := by
  rw [State.avsJudge]
  exact (if_neg h).trans ((if_neg hlo).trans (if_neg hhi))

end avs

section temperature

variable {s : State} {tj : Int}

theorem State.tempJudge_hot (h : 16 * s.aon.tempHi < tj) :
    s.tempJudge tj =
      let t : State := { s with pwr := { s.pwr with tempOver := true } }
      let u := if s.pwr.tempOver then t else t.powerEvent 6 0x83
      if 2560 ≤ tj then u.powerEvent 7 0x82 else u := by
  rw [State.tempJudge]
  simp only [if_pos h]

theorem State.tempJudge_cool (h : ¬16 * s.aon.tempHi < tj) (hlim : tj < 2560) :
    s.tempJudge tj = if tj < 16 * s.aon.tempHi - 16 * s.aon.tempHyst then { s with pwr := { s.pwr with tempOver := false } }
      else s := by
  rw [State.tempJudge]
  simp only [if_neg h, if_neg (Int.not_le.mpr hlim)]

end temperature

end Sys2Proof.Machine
end

section
/-! The obligation of the AVS loop and the comparators. -/

namespace Sys2Proof.PowerReset

open Sys2Proof.Machine

/-- Settles O60: the bands of the margin and of the temperature, each by its own rule. -/
theorem voltageAndSupervision : Obligations.VoltageAndSupervision := by
  refine ⟨fun s hrel => ⟨fun hact hreq n => ?avs, fun mv hreq => ?request⟩, fun s hrel => ⟨fun c => ?supply, fun tj => ?temp⟩⟩
  case avs =>
    intro k q ask
    have hdue : (s.released && s.pwr.active) = true := by rw [hrel, hact]; rfl
    let v : State := { s with pwr := q }
    have hrow := exec_of_due (c := .avsInterval n) (s := s) (f := fun s =>
      ({ s with pwr := { s.pwr with margin := n.toNat } } : State).avsJudge n.toNat) rfl hdue
    have hask (hi lo mv : Nat) : State.avsRequest { s with pwr := { q with hiRun := hi, loRun := lo } } mv =
        ask { q with hiRun := hi, loRun := lo } mv := State.avsRequest_of_idle hreq
    refine ⟨fun h => ?_, fun h hlo hmax => ?_, fun h hlo hmax hrun => ?_, fun h hlo hmax hrun => ?_, fun h hlo hhi => ?_,
      fun h hlo hhi hrun => ?_, fun h hlo hhi hrun => ?_⟩
    all_goals refine hrow.trans (congrArg Host.Outcome.next ?_)
    · exact (State.avsJudge_critical (s := v) h).trans (congrArg (fun t => State.powerEvent t 5 0x82) (hask 0 0 _))
    · exact (State.avsJudge_low (s := v) (Nat.not_lt.mpr h) hlo hmax).trans (hask 0 0 _)
    · refine (State.avsJudge_low_at_max (s := v) (Nat.not_lt.mpr h) hlo hmax).trans ((if_neg ?_).trans ?_)
      · show ¬s.pwr.loRun + 1 = 4
        omega
      · rw [Nat.min_eq_left (show s.pwr.loRun + 1 ≤ 5 by omega)]
    · refine (State.avsJudge_low_at_max (s := v) (Nat.not_lt.mpr h) hlo hmax).trans ((if_pos ?_).trans ?_)
      · exact congrArg (· + 1) hrun
      · dsimp only
        rw [hrun]
        rfl
    · exact State.avsJudge_between (s := v) (Nat.not_lt.mpr h) (Nat.not_lt.mpr hlo) (Nat.not_lt.mpr hhi)
    · refine (State.avsJudge_high (s := v) (Nat.not_lt.mpr h) (Nat.not_lt.mpr hlo) hhi).trans ((if_neg ?_).trans ?_)
      · show ¬(min (s.pwr.hiRun + 1) 16 = 16 ∧ _)
        omega
      · rw [Nat.min_eq_left (show s.pwr.hiRun + 1 ≤ 16 by omega)]
    · refine (State.avsJudge_high (s := v) (Nat.not_lt.mpr h) (Nat.not_lt.mpr hlo) hhi).trans ((if_pos ⟨?_, hreq⟩).trans ?_)
      · exact hask 0 0 _
      · show min (s.pwr.hiRun + 1) 16 = 16
        omega
  case request =>
    have hdue : (s.released && s.pwr.request.isSome) = true := by rw [hrel, hreq]; rfl
    have htimeout := exec_of_due (c := .avsTimeout) (s := s) (f := fun s =>
      let s := { s with pwr := { s.pwr with errCnt := satInc 255 s.pwr.errCnt } }
      if s.pwr.repeated then
        ({ s with pwr := { s.pwr with active := false, request := none, repeated := false } } : State).powerEvent 4 0x82
      else State.emit { s with pwr := { s.pwr with repeated := true } } (.avsWrite (s.pwr.request.getD 0))) rfl hdue
    refine ⟨fun r => ?_, fun hrep => ?_, fun hrep => ?_⟩
    · refine (exec_of_due (c := .avsAcknowledge r) (s := s) (f := fun s => { s with pwr := { s.pwr with
        target := s.pwr.request.getD s.pwr.target, readback := r.toNat, request := none, repeated := false } })
        rfl hdue).trans ?_
      rw [hreq]
      rfl
    · refine htimeout.trans (congrArg Host.Outcome.next ((if_neg (ne_true_of_eq_false hrep)).trans ?_))
      rw [show (s.pwr.request.getD 0) = mv by rw [hreq]; rfl]
      rfl
    · exact htimeout.trans (congrArg Host.Outcome.next (if_pos hrep))
  case supply =>
    have hrow (out : Bool) := exec_of_due (c := .supplyExcursion c out) (s := s) (f := fun s =>
      if out then
        ({ s with pwr := { s.pwr with inRange := s.pwr.inRange &&& ~~~ BitVec.ofNat 4 (2 ^ c.val) } } : State).powerEvent
          c.val 0x82
      else { s with pwr := { s.pwr with inRange := s.pwr.inRange ||| BitVec.ofNat 4 (2 ^ c.val) } }) rfl hrel
    exact ⟨hrow true, hrow false⟩
  case temp =>
    intro hi hyst at'
    let v : State := { s with aon := { s.aon with tj := tj } }
    have hrow := exec_of_due (c := .tempConversion tj) (s := s) (f := fun s =>
      ({ s with aon := { s.aon with tj := tj } } : State).tempJudge tj.toInt) rfl hrel
    refine ⟨fun hlim => ⟨fun hcool hclear => ?_, fun hcool hstay => ?_, fun hhot hwas => ?_, fun hhot hwas => ?_⟩,
      fun hlim hhot hwas => ?_⟩
    all_goals refine hrow.trans (congrArg Host.Outcome.next ?_)
    · exact (State.tempJudge_cool (s := v) (Int.not_lt.mpr hcool) hlim).trans (if_pos hclear)
    · exact (State.tempJudge_cool (s := v) (Int.not_lt.mpr hcool) hlim).trans (if_neg (Int.not_lt.mpr hstay))
    · exact (State.tempJudge_hot (s := v) hhot).trans ((if_neg (Int.not_le.mpr hlim)).trans (if_pos hwas))
    · exact (State.tempJudge_hot (s := v) hhot).trans ((if_neg (Int.not_le.mpr hlim)).trans (if_neg (ne_true_of_eq_false hwas)))
    · exact (State.tempJudge_hot (s := v) hhot).trans ((if_pos hlim).trans
        (congrArg (fun t => State.powerEvent t 7 0x82) (if_pos hwas)))

end Sys2Proof.PowerReset
end

section
/-! Loops over numbered records, and the resets and the FILL (R28, R438, R443 to R447). -/

namespace Sys2Proof.Machine

/-- A loop that changes one numbered record at each turn has changed each listed record once. -/
theorem State.forAll_get {β : Type} {l : List Nat} {upd : Nat → State → State} (get : State → Nat → β) (f : Nat → β → β)
    (hsame : ∀ n t, get (upd n t) n = f n (get t n)) (hother : ∀ n k t, k ≠ n → get (upd n t) k = get t k)
    (hl : l.Nodup) (s : State) (k : Nat) : get (s.forAll l upd) k = if k ∈ l then f k (get s k) else get s k := by
  induction l generalizing s with
  | nil => rfl
  | cons a l ih =>
    obtain ⟨ha, hl⟩ := List.nodup_cons.mp hl
    refine (ih hl (upd a s)).trans ?_
    by_cases hk : k = a
    · subst hk
      rw [if_neg ha, if_pos List.mem_cons_self, hsame]
    · rw [hother a k s hk]
      simp only [List.mem_cons, hk, false_or]

/-- A loop over pens changes each listed pen once, and nothing else. -/
theorem State.forAll_modPen {l : List Nat} (f : Nat → Pen → Pen) (hl : l.Nodup) (s : State) :
    ∃ u, s.forAll l (fun n t => t.modPen n (f n)) = u ∧ { u with pens := s.pens } = s ∧
      ∀ k, u.pen k = if k ∈ l then f k (s.pen k) else s.pen k :=
  ⟨_, rfl, State.forAll_of_turn (P := fun t => { t with pens := s.pens } = s) (fun _ _ h => h) rfl,
    State.forAll_get State.pen f (fun _ _ => State.modPen_pen_same) (fun _ _ _ h => State.modPen_pen_other h) hl s⟩

theorem State.forAll_modRsv {l : List Nat} (f : Nat → Rsv → Rsv) (hl : l.Nodup) (s : State) :
    ∃ u, s.forAll l (fun n t => t.modRsv n (f n)) = u ∧ { u with rsv := s.rsv } = s ∧
      ∀ k, u.rsvOf k = if k ∈ l then f k (s.rsvOf k) else s.rsvOf k :=
  ⟨_, rfl, State.forAll_of_turn (P := fun t => { t with rsv := s.rsv } = s) (fun _ _ h => h) rfl,
    State.forAll_get State.rsvOf f (fun _ _ => State.modRsv_rsvOf_same) (fun _ _ _ h => State.modRsv_rsvOf_other h) hl s⟩

/-- What the end of FILL leaves. -/
theorem State.endFill_spec (s : State) (cmp : BitVec 5) :
    ∃ t, s.endFill cmp = t ∧
      (∀ p, p < 64 → t.pen p = { s.pen p with st := .idle, filling0 := false, filling1 := false }) ∧
      (∀ r, r < 32 → t.rsvOf r = { s.rsvOf r with filling := false }) ∧ t.mem = [] ∧ t.rul.store = [] ∧
      { t.rul with store := s.rul.store } = s.rul ∧
      { t with mem := s.mem, rul := s.rul, pens := s.pens, rsv := s.rsv } = { s with
        dev := .boot, pwr := { s.pwr with selfFail := cmp, inRange := 15, active := true } } := by
  obtain ⟨u, hu, hub, hpen⟩ := State.forAll_modPen (l := upTo 64)
    (fun _ x => { x with st := .idle, filling0 := false, filling1 := false }) List.nodup_range s
  obtain ⟨v, hv, hvb, hrsv⟩ := State.forAll_modRsv (l := upTo 32) (fun _ x => { x with filling := false })
    List.nodup_range u
  have hback : ({ v with pens := s.pens, rsv := s.rsv } : State) = s := by
    have h : u.rsv = s.rsv := (congrArg State.rsv hub :)
    rw [← h]
    exact (congrArg (fun w : State => ({ w with pens := s.pens } : State)) hvb).trans hub
  refine ⟨v.filled cmp, ?_, fun p hp => ?_, fun r hr => ?_, rfl, rfl, ?_, ?_⟩
  · exact congrArg (fun t => State.filled t cmp)
      ((congrArg (State.forAll (upTo 32) (fun r t => t.modRsv r (fun x => { x with filling := false }))) hu).trans hv)
  · have h : v.pens = u.pens := (congrArg State.pens hvb :)
    refine (congrArg (fun ps => Table.get (fun _ => ({} : Pen)) ps p) h).trans ?_
    exact (hpen p).trans (if_pos (List.mem_range.mpr hp))
  · have h : u.rsv = s.rsv := (congrArg State.rsv hub :)
    refine (hrsv r).trans ((if_pos (List.mem_range.mpr hr)).trans ?_)
    exact congrArg (fun rs => ({ Table.get (fun _ => ({} : Rsv)) rs r with filling := false } : Rsv)) h
  · have h : v.rul = s.rul := (congrArg State.rul hback :)
    exact (congrArg (fun r : Rul => ({ r with store := s.rul.store } : Rul)) h :)
  · exact congrArg (fun w : State => ({ w with
      mem := s.mem, rul := s.rul, dev := .boot
      pwr := { w.pwr with selfFail := cmp, inRange := 15, active := true } } : State)) hback

end Sys2Proof.Machine
end

section
/-! The obligation of the resets and the FILL. -/

namespace Sys2Proof.Machine

theorem State.powered_of_released {s : State} (h : s.released = true) : s.powered = true := by
  rw [State.released, Bool.and_eq_true, Bool.and_eq_true] at h
  exact h.1.1

/-- The checked nibs of the vote with nib `h` alone out of it. -/
theorem romChecked_out (h : Fin 3) (n : BitVec 3) (hn : ∀ k, k < 3 → n.getLsbD k = decide (k ≠ h.val)) :
    (upTo 3).filter (fun k => !bitAt (n.setWidth 64) k) = [h.val] ∧ n ≠ 7 := by
  have hbit (k : Nat) (hk : k < 3) : (!bitAt (n.setWidth 64) k) = decide (k = h.val) := by
    rw [bitAt, BitVec.getLsbD_setWidth, hn k hk]
    simp [show k < 64 by omega]
  constructor
  · rw [upTo, List.filter_congr fun k hk => hbit k (List.mem_range.mp hk)]
    fin_cases h <;> rfl
  · rintro rfl
    have := hn h.val h.isLt
    fin_cases h <;> simp at this

end Sys2Proof.Machine

namespace Sys2Proof.PowerReset

open Sys2Proof.Machine

/-- Settles O59: each reset source is its own row; the fill is two loops and a clearing of the banks. -/
theorem resetsAndFillComplete : Obligations.ResetsAndFillComplete := by
  refine ⟨fun s => ?resets, fun s hrel => ⟨fun hdev hdone hhold => ?fuse, fun hdev hdone cmp => ?fill, fun hdev hchk hlost => ?rom⟩⟩
  case resets =>
    intro after marked
    have hunlock (hrel : s.released = true) := exec_of_due (c := .pllEthUnlock) (s := s) (f := fun s =>
      s.forAll (upTo 4) (fun m t => if t.macOn m && (t.mac m).link then t.ethDown m else t)) rfl hrel
    refine ⟨rfl, fun hpow => ?_, fun hdev => ?_, fun hres => ?_, fun hres => ?_, rfl, fun hpow => ?_, fun hclk => ?_,
      fun hx => ?_, fun hx => ?_, fun hrel hlink => ?_, fun hrel hlink hlast hon => ?_, fun hpow hent => ?_,
      fun hdev hen fired => ?wake⟩
    · refine (exec_of_due (c := .mainRailsUp) (s := s) (f := fun s =>
        let t := if s.pwr.pwrEn then s else s.resetCause 5
        { t with dev := .fill, pwr := { t.pwr with pwrEn := true } }) rfl (by rw [hpow]; rfl)).trans ?_
      cases hen : s.pwr.pwrEn <;> rfl
    · exact exec_of_due (c := .mainPowerReset) (s := s) (f := fun s => (s.mainReset .dormant).resetCause 1) rfl
        (decide_eq_true hdev)
    · refine (exec_of_due (c := .resetNAssert) (s := s) (f := fun s =>
        let t := (if s.powered then s.mainReset .fill else s).resetCause 2
        { t with pwr := { t.pwr with resetN := true } }) rfl (by rw [hres]; rfl)).trans ?_
      cases hp : s.powered <;> rfl
    · exact exec_of_due (c := .resetNRelease) (s := s) (f := fun s => { s with pwr := { s.pwr with resetN := false } }) rfl hres
    · exact exec_of_due (c := .clockFail) (s := s) (f := fun s =>
        let t := (s.mainReset .fill).resetCause 3
        { t with pwr := { t.pwr with clkGood := false } }) rfl hpow
    · exact exec_of_due (c := .clockReturn) (s := s) (f := fun s => { s with pwr := { s.pwr with clkGood := true } }) rfl
        (by rw [hclk]; rfl)
    · refine (exec_of_due (c := .xtalStop) (s := s) (f := fun s =>
        { s with aon := { s.aon with xtalOk := false, valid := s.aon.valid && s.dev ≠ .dormant } }) rfl hx).trans ?_
      by_cases hd : s.dev = .dormant <;> simp [hd]
    · exact exec_of_due (c := .xtalStart) (s := s) (f := fun s => { s with aon := { s.aon with xtalOk := true } }) rfl
        (by rw [hx]; rfl)
    · refine (hunlock hrel).trans (congrArg Host.Outcome.next ?_)
      simp only [upTo, List.range, List.range.loop, State.forAll, List.foldl, hlink 0 (by omega), hlink 1 (by omega),
        hlink 2 (by omega), hlink 3 (by omega), Bool.and_false, Bool.false_eq_true, if_false]
    · refine (hunlock hrel).trans ?_
      simp only [upTo, List.range, List.range.loop, State.forAll, List.foldl, hlink 0 (by omega), hlink 1 (by omega),
        hlink 2 (by omega), Bool.and_false, Bool.false_eq_true, if_false, hlast, hon, Bool.and_true, if_true]
      exact (exec_of_due (c := .ethLinkDown 3) (s := s) (f := fun s => s.ethDown 3) rfl
        (show (s.powered && s.macOn 3 && (s.mac 3).link) = true by
          rw [State.powered_of_released hrel, hon, hlast]; rfl)).symm
    · exact exec_of_due (c := .dormantEnter) (s := s) (f := fun s =>
        let t := (s.mainReset .dormant).resetCause 1
        { t with pwr := { t.pwr with pwrEn := false } }) rfl (by rw [hpow, hent]; rfl)
    case wake =>
      intro f t
      have hrow (h : f ≠ 0 ∨ fired = 0) := exec_of_due (c := .wake fired) (s := s) (f := fun s => s.wakeUp f) rfl
        (show (decide (s.dev = .dormant) && !s.pwr.pwrEn && (decide (f ≠ 0) || decide (fired = 0))) = true by
          have hor : (decide (f ≠ 0) || decide (fired = 0)) = true := by
            rw [Bool.or_eq_true, decide_eq_true_iff, decide_eq_true_iff]
            exact h
          rw [decide_eq_true hdev, hen, hor]
          rfl)
      refine ⟨fun hz => ?_, fun hfired hz => ?_, fun hf => ?_⟩
      · have hfz : f = 0 := by
          rw [show f = fired &&& _ from rfl, hz]
          exact BitVec.zero_and
        exact (hrow (.inr hz)).trans (congrArg Host.Outcome.next (if_pos hfz))
      · have hnot : (decide (s.dev = .dormant) && !s.pwr.pwrEn && (decide (f ≠ 0) || decide (fired = 0))) = false := by
          rw [decide_eq_false (not_not.mpr hz), decide_eq_false hfired]
          exact Bool.and_false _
        exact congrArg Host.Outcome.next (if_neg (ne_true_of_eq_false hnot))
      · exact (hrow (.inl hf)).trans (congrArg Host.Outcome.next (if_neg hf))
  case fuse =>
    have hrow (good : Bool) := exec_of_due (c := .fuseLoad good) (s := s) (f := fun s =>
      if good then { s with pwr := { s.pwr with fuseDone := true } }
      else State.resetCause { s with pwr := { s.pwr with fuseHold := true } } 4) rfl
      (show (decide (s.dev = .fill) && s.released && !s.pwr.fuseDone && !s.pwr.fuseHold) = true by
        simp [hdev, hrel, hdone, hhold])
    exact ⟨hrow true, hrow false⟩
  case fill =>
    obtain ⟨t, ht, hpens, hrsv, hmem, hstore, hrul, hback⟩ := s.endFill_spec cmp
    have hdue : (decide (s.dev = .fill) && s.released && s.pwr.fuseDone) = true := by simp [hdev, hrel, hdone]
    refine ⟨t, (exec_of_due (c := .fillDone cmp) (s := s) (f := fun s => s.endFill cmp) rfl hdue).trans
      (congrArg Host.Outcome.next ht), fun a => ?_, fun i => ?_, hpens, hrsv, hback, hrul⟩
    · rw [State.peekCode, hmem]
      rfl
    · rw [hstore]
      rfl
  case rom =>
    intro judged
    have hrow (n : BitVec 3) := exec_of_due (c := .romCheckDone n) (s := s) (f := fun s => s.romChecked n) rfl
      (show (decide (s.dev = .boot) && !s.huv.checked && !s.huv.lost) = true by simp [hdev, hchk, hlost])
    refine ⟨fun n hn => ?_, fun h n hn => ?_⟩
    · subst hn
      refine (hrow 7).trans (congrArg Host.Outcome.next ?_)
      by_cases hf : s.pwr.selfFail = 0
      · rw [if_pos hf]
        exact if_neg (not_not.mpr hf)
      · rw [if_neg hf]
        exact if_pos hf
    · intro u hu
      obtain ⟨hbad, hn7⟩ := romChecked_out h n hn
      have hout : u = State.raise { s with huv := { s.huv with
          checked := true, nibIn := n, nibFailed := true, lastOut := h.val } } { cls := 0x21, utype := 7, unit := h.val } :=
        congrArg (fun b => State.raise { s with huv := { s.huv with
          checked := true, nibIn := n, nibFailed := b, lastOut := h.val } } { cls := 0x21, utype := 7, unit := h.val })
          (decide_eq_true hn7)
      refine (hrow n).trans (congrArg Host.Outcome.next ?_)
      rw [State.romChecked, hbad]
      refine (if_neg (by simp)).trans ((if_neg (not_not.mpr ?_)).trans ?_)
      · exact (congrArg (fun t => t.pwr.selfFail) hout).symm.trans hu
      · exact hout.symm

end Sys2Proof.PowerReset
end

section
/-! Time sources (R32 to R35, R394): a measurement of the counter, the edges of TICK_IN and the loss of a source. -/

namespace Sys2Proof.Machine

/-- The slew turns against the offset, never faster than the permitted rate, and at that rate beyond the limit. -/
theorem slewTo_against (maxPpm limit : Nat) (last off : Int) :
    let full : Int := 1000 * maxPpm
    let r := slewTo maxPpm limit last off
    (0 < off → -full ≤ r ∧ r ≤ 0 ∧ (limit < off.natAbs → r = -full)) ∧
    (off < 0 → 0 ≤ r ∧ r ≤ full ∧ (limit < off.natAbs → r = full)) ∧
    (off = 0 → r = max (-full) (min full last)) := by
  intro full r
  refine ⟨fun h => ?_, fun h => ?_, fun h => ?_⟩
  · have hr : r = -((if limit < off.natAbs then 1000 * maxPpm else min (1000 * maxPpm) (Config.slewRate off) : Nat) : Int) :=
      if_pos h
    rw [hr]
    split <;> omega
  · have hr : r = ((if limit < off.natAbs then 1000 * maxPpm else min (1000 * maxPpm) (Config.slewRate off) : Nat) : Int) :=
      (if_neg (by omega)).trans (if_pos h)
    rw [hr]
    split <;> omega
  · have hr : r = clipRate maxPpm last := (if_neg (by omega)).trans (if_neg (by omega))
    rw [hr, clipRate]
    push_cast
    rfl

/-- A measurement of the counter against its source (R33, R34). -/
theorem State.measure_measures (s : State) (off : Int) : s.Measures off (.next (s.measure off)) := by
  obtain ⟨hpos, hneg, hzero⟩ := slewTo_against s.folio.maxPpm s.folio.stepLim s.aon.steer off
  by_cases hbad : s.folio.stepLim < off.natAbs ∧ s.dev = .run
  · refine ⟨{ s with
      aon := { s.aon with steer := slewTo s.folio.maxPpm s.folio.stepLim s.aon.steer off }
      folio := { s.folio with
        offset := BitVec.ofInt 64 off, synced := !decide (s.folio.stepLim < off.natAbs), holdover := false
        event := s.folio.event ||| 8 } }, ?_, ?_, hpos, hneg, hzero, rfl, rfl⟩
    · rw [if_pos hbad, State.measure]
      exact congrArg Host.Outcome.next (if_pos (by simpa using hbad))
    · rw [if_pos hbad]
      simp only [decide_not]
  · refine ⟨{ s with
      aon := { s.aon with steer := slewTo s.folio.maxPpm s.folio.stepLim s.aon.steer off }
      folio := { s.folio with
        offset := BitVec.ofInt 64 off, synced := !decide (s.folio.stepLim < off.natAbs), holdover := false } },
      ?_, ?_, hpos, hneg, hzero, rfl, rfl⟩
    · rw [if_neg hbad, State.measure]
      exact congrArg Host.Outcome.next (if_neg (by simpa using hbad))
    · rw [if_neg hbad]
      simp only [decide_not]

/-- A measurement, from the row of its command. -/
theorem State.Measures.of_eq {s : State} {off : Int} {o : Host.Outcome State Fault Refusal}
    (h : o = .next (s.measure off)) : s.Measures off o := h ▸ s.measure_measures off

theorem nearestSecond_of_near {t sec : Nat} (hsec : sec % 1000000000 = 0) (hlo : sec ≤ t + 500000000)
    (hhi : t < sec + 500000000) : nearestSecond t = sec := by
  rw [nearestSecond]
  omega

/-- The edge lies in the window of a tick already made (R35). -/
theorem State.secondEdge_iff (s : State) (t : Nat) : s.secondEdge t = true ↔
    s.folio.edgeAt.isSome = true ∨ (s.folio.running = true ∧ t < s.folio.tickTime.toNat + s.folio.tolNs) := by
  simp [State.secondEdge]

/-- One MAC's record changes. -/
theorem onlyMac_modMac (s : State) (m : Nat) (f : Mac → Mac) :
    OnlyMac m s (s.modMac m f) ∧ (s.modMac m f).mac m = f (s.mac m) :=
  ⟨⟨rfl, fun _ hj => State.modMac_mac_other hj⟩, State.modMac_mac_same⟩

/-- The source is lost: holdover is entered where the part is not in it. -/
theorem State.enterHoldover_of_not {s : State} (h : s.folio.holdover = false) : s.enterHoldover =
    State.raise { s with folio := { s.folio with holdover := true, event := s.folio.event ||| 4 } } { cls := 0x41 } :=
  if_neg (ne_true_of_eq_false h)

theorem State.enterHoldover_of_in {s : State} (h : s.folio.holdover = true) : s.enterHoldover = s := if_pos h

end Sys2Proof.Machine
end

section
/-! The obligation of the time sources. -/

namespace Sys2Proof.FolioRuling

open Sys2Proof.Machine

/-- Settles O40: every source ends in a measurement or in the loss of it. -/
theorem timeSourcesComplete : Obligations.TimeSourcesComplete := by
  refine ⟨fun s sec hpow hsrc => ?pps, fun s hpow hsrc hen => ?tick, fun s hpow hsrc hen => ?measured,
    fun s m w k hup => ?sync, fun s m d hup => ?delay, fun s hpow hhold => ?holdover⟩
  case pps =>
    intro t hsec hlo hhi
    refine .of_eq ((exec_of_due (c := .ppsEdge) (s := s) (f := fun s =>
      State.measure { s with folio := { s.folio with ppsAt := s.aon.time.toNat } }
        ((s.aon.time.toNat : Int) - (nearestSecond s.aon.time.toNat : Int))) rfl
        (show (s.powered && decide (s.folio.tsrc = 2)) = true by simp [hpow, hsrc])).trans ?_)
    rw [nearestSecond_of_near hsec hlo hhi]
  case tick =>
    intro t e second early
    have hdue : (s.powered && decide (s.folio.tsrc = 3)) = true := by simp [hpow, hsrc]
    have hrow := exec_of_due (c := .tickinEdge) (s := s) (f := State.tickinEdge) rfl hdue
    have hnot : ¬(!s.folio.en) = true := by simp [hen]
    refine ⟨fun hsec => ?_, fun hsec hearly => .of_eq ?_, fun hsec hearly => ?_, fun hedge hmiss => ?_⟩
    · refine hrow.trans (congrArg Host.Outcome.next ?_)
      exact (if_neg hnot).trans (if_pos ((s.secondEdge_iff t).mpr hsec))
    · refine hrow.trans (congrArg Host.Outcome.next ?_)
      refine (if_neg hnot).trans ((if_neg (fun h => hsec ((s.secondEdge_iff t).mp h))).trans (if_pos ?_))
      simpa using hearly
    · refine hrow.trans (congrArg Host.Outcome.next ?_)
      refine (if_neg hnot).trans ((if_neg (fun h => hsec ((s.secondEdge_iff t).mp h))).trans (if_neg ?_))
      rw [Bool.and_eq_true, decide_eq_true_iff, decide_eq_true_iff]
      exact hearly
    · intro u
      have hmiss' : s.missDue = true := by
        simp only [State.missDue, hpow, hsrc, hen, hedge, Option.isNone_none, decide_true, Bool.and_true, Bool.true_and]
        exact decide_eq_true hmiss
      refine (exec_of_due (c := .tickinMiss) (s := s) (f := State.tickinMiss) rfl hmiss').trans
        (congrArg Host.Outcome.next ?_)
      change (if u.folio.missMax ≤ u.folio.consecMiss then u.enterHoldover else u) = _
      by_cases hmax : u.folio.missMax ≤ u.folio.consecMiss
      · cases hin : u.folio.holdover with
        | false => rw [if_pos hmax, if_pos ⟨hmax, rfl⟩, State.enterHoldover_of_not hin]
        | true => rw [if_pos hmax, if_neg (by simp), State.enterHoldover_of_in hin]
      · rw [if_neg hmax, if_neg (fun h => hmax h.1)]
  case measured =>
    refine .of_eq ((exec_of_due (c := .tickinEdge) (s := s) (f := State.tickinEdge) rfl
      (show (s.powered && decide (s.folio.tsrc = 3)) = true by simp [hpow, hsrc])).trans (congrArg Host.Outcome.next ?_))
    exact if_pos (by simp [hen])
  case sync =>
    intro x
    have hrow := exec_of_due (c := .gptpSync m w k) (s := s) (f := fun s => s.gptpSync m.val w k) rfl hup
    obtain ⟨honly, hmac⟩ := onlyMac_modMac s m.val (fun x => { x with
      ptpSync := true, syncAt := s.aon.time.toNat, syncLog := k })
    refine ⟨_, honly, hmac, fun hsrc hport => .of_eq (hrow.trans (congrArg Host.Outcome.next ?_)), fun hno =>
      hrow.trans (congrArg Host.Outcome.next ?_)⟩
    · exact if_pos (by simpa using ⟨hsrc, hport⟩)
    · refine if_neg ?_
      simpa [Decidable.imp_iff_not_or] using hno
  case delay =>
    have hrow (f : PdelayFrame) := exec_of_due (c := .pdelayReceive m f) (s := s) (f := fun s => s.pdelayReceive m.val f)
      rfl hup
    refine ⟨fun k hk hlt hat => ?_, hrow .request, fun hout => ?_, fun hout => ?_⟩
    · obtain ⟨⟨hback, hother⟩, hmac⟩ := onlyMac_modMac { s with out := s.out ++ [.pdelay m.val false] } m.val (fun x => { x with
        reqOut := true, reqAt := s.aon.time.toNat + pdelayNs x.ptpCfg })
      have hns : pdelayNs (s.mac m.val).ptpCfg = 1000000000 * 2 ^ k := by
        rw [pdelayNs, hk]
        exact if_pos hlt
      refine ⟨_, exec_of_due (c := .pdelayRequest m) (s := s) (f := fun s => s.pdelayRequest m.val) rfl
        (show (s.pdelayUp m.val && decide ((s.mac m.val).reqAt ≤ s.aon.time.toNat)) = true by simp [hup, hat]),
        ⟨hback, hother⟩, hmac.trans ?_⟩
      rw [← hns]
      rfl
    · obtain ⟨honly, hmac⟩ := onlyMac_modMac s m.val (fun x => { x with reqOut := false, pathNs := d.toNat })
      exact ⟨_, (hrow (.response d)).trans (congrArg Host.Outcome.next (if_pos hout)), honly, hmac⟩
    · exact (hrow (.response d)).trans (congrArg Host.Outcome.next (if_neg (ne_true_of_eq_false hout)))
  case holdover =>
    intro lost x until_
    have hrow (h : s.sourceLost = true) := exec_of_due (c := .holdoverEntry) (s := s) (f := fun s =>
      (if s.folio.tsrc = 1 then s.syncLost s.folio.gptpPort else s).enterHoldover) rfl h
    refine ⟨fun hsrc hlink hfresh => ?_, fun hsrc hgone => ?_, fun hgone => ?_⟩
    · have hno : s.sourceLost = false := by
        rw [State.sourceLost, State.gptpLost, hsrc, show (s.mac s.folio.gptpPort).link = true from hlink,
          show s.syncFresh s.folio.gptpPort s.folio.ppsAt = true from decide_eq_true hfresh]
        simp
      exact congrArg Host.Outcome.next (if_neg (ne_true_of_eq_false hno))
    · obtain ⟨honly, hmac⟩ := onlyMac_modMac s s.folio.gptpPort (fun x => { x with ptpSync := false, event := x.event ||| 4 })
      have hgl : s.gptpLost = true := by
        rw [State.gptpLost, decide_eq_true hsrc, Bool.true_and, Bool.or_eq_true]
        refine hgone.imp (fun h => ?_) (fun h => ?_)
        · rw [show (s.mac s.folio.gptpPort).link = false from h]
          rfl
        · rw [show s.syncFresh s.folio.gptpPort s.folio.ppsAt = false from decide_eq_false (Nat.not_lt.mpr h)]
          rfl
      refine ⟨_, honly, hmac, (hrow (by simp [State.sourceLost, hpow, hhold, hgl])).trans
        (congrArg Host.Outcome.next ?_)⟩
      rw [if_pos hsrc]
      exact State.enterHoldover_of_not (s := s.syncLost s.folio.gptpPort) hhold
    · have hsrc : s.folio.tsrc ≠ 1 := by
        obtain ⟨h, -⟩ | ⟨h, -⟩ := hgone <;> omega
      have hlost : s.sourceLost = true := by
        obtain ⟨h, ht⟩ | ⟨h, ht⟩ := hgone <;> simp [State.sourceLost, hpow, hhold, h, ht]
      refine (hrow hlost).trans (congrArg Host.Outcome.next ?_)
      rw [if_neg hsrc]
      exact State.enterHoldover_of_not hhold

end Sys2Proof.FolioRuling
end

section
/-! The rubric's reaction LOG (R412 to R427). -/

namespace Sys2Proof.Machine

theorem State.modRb_rbClass_same (s : State) (c : Nat) (f : RbClass → RbClass) : (s.modRb c f).rbClass c = f (s.rbClass c) :=
  Table.get_set_same _ _ _ _

theorem State.modRb_rbClass_other (s : State) {c k : Nat} (f : RbClass → RbClass) (h : k ≠ c) :
    (s.modRb c f).rbClass k = s.rbClass k := Table.get_set_other _ _ _ h

/-- An event that gives rise to no other is judged once. -/
theorem State.raise_of_judged {s t : State} {e : Event} (h : s.judgeEvent e = (t, [])) : s.raise e = t := by
  have hn : State.raiseN 100000 [e] s = State.raiseN 99999 ((s.judgeEvent e).2 ++ []) (s.judgeEvent e).1 := rfl
  rw [State.raise, State.raiseAll, hn, h]
  rfl

/-- In RUN the reaction LOG stays LOG, and is not escalated (R418 to R420). -/
theorem State.effective_log {s : State} {e : Event} (hdev : s.dev = .run) (hcls : e.cls ≠ 0x38) :
    s.effective e 1 false = (1, false) := by
  rw [State.effective, hdev]
  simp [hcls]

/-- An event of reaction LOG is queued last, where the queue has room (R425). -/
theorem State.queueEvent_log {s : State} {e : Event} {irq : Bool} (hover : s.huv.eqOver = false)
    (hroom : s.huv.eq.length < 511) (hcls : e.cls ≠ 0x81) :
    s.queueEvent e 1 false irq = (State.irqVector1 { s with huv := { s.huv with
      nextSeq := (s.huv.nextSeq + 1) % 65536, eq := s.huv.eq ++ [s.eqEntry e 1 false s.huv.nextSeq] } } irq, []) := by
  rw [State.queueEvent]
  refine (if_neg hcls).trans ((if_pos ?_).trans ?_)
  · dsimp only
    omega
  · rw [State.pushEvent]
    dsimp only
    rw [hover]
    rfl

/-- The request for vector 1, with the vector's arming and the waiting actions. -/
theorem State.irqVector1_eq (s : State) (irq : Bool) : s.irqVector1 irq = { s with huv := { s.huv with
    vec1Armed := s.huv.vec1Armed && !(irq && s.huv.vec1Armed)
    fw := if irq && s.huv.vec1Armed then s.huv.fw ++ [.msix1] else s.huv.fw } } := by
  rw [State.irqVector1]
  cases h : (irq && s.huv.vec1Armed)
  · simp only [Bool.false_eq_true, if_false, Bool.not_false, Bool.and_true]
  · simp only [if_true, Bool.not_true, Bool.and_false]

/-- The rubric's judgement of an event in RUN whose reaction is LOG and does not escalate. -/
theorem State.judgeEvent_log {s : State} {e : Event} (hdev : s.dev = .run) (hover : s.huv.eqOver = false)
    (hroom : s.huv.eq.length < 511) (h38 : e.cls ≠ 0x38) (h81 : e.cls ≠ 0x81) (hlog : bitsOf (s.rbClass e.cls).entry 0 3 = 1)
    (hesc : bitsOf (s.rbClass e.cls).entry 8 8 = 0 ∨
      (s.rbClass e.cls).win + 1 < bitsOf (s.rbClass e.cls).entry 8 8) :
    let u := s.modRb e.cls (fun c => { c with count := satInc (2 ^ 48 - 1) c.count, win := min 255 (c.win + 1) })
    s.judgeEvent e = (State.irqVector1 { u with huv := { u.huv with
      nextSeq := (s.huv.nextSeq + 1) % 65536, eq := s.huv.eq ++ [s.eqEntry e 1 false s.huv.nextSeq] } }
        (bitAt (s.rbClass e.cls).entry 3), []) := by
  intro u
  have hfires : (decide (bitsOf (s.rbClass e.cls).entry 8 8 ≠ 0) &&
      decide (bitsOf (s.rbClass e.cls).entry 8 8 ≤ (s.rbClass e.cls).win + 1)) = false := by
    rw [Bool.and_eq_false_iff, decide_eq_false_iff_not, decide_eq_false_iff_not]
    omega
  have heff (f : RbClass → RbClass) : (s.modRb e.cls f).effective e 1 false = (1, false) :=
    State.effective_log (s := s.modRb e.cls f) hdev h38
  rw [State.judgeEvent, if_neg (by rw [hdev]; decide)]
  simp only [hfires, Bool.false_eq_true, if_false, hlog, heff, Nat.one_ne_zero]
  have hwin : (s.modRb e.cls fun c => { c with count := satInc (2 ^ 48 - 1) c.count, win := min 255 ((s.rbClass e.cls).win + 1) }) = u := rfl
  rw [hwin, State.queueEvent_log (s := u) hover hroom h81]
  rfl

end Sys2Proof.Machine
end

section
/-! The obligation of the rubric's log. -/

namespace Sys2Proof.Rubric

open Sys2Proof.Machine

/-- Settles O43: the judgement of the event, and the fields of its entry. -/
theorem rubricLogs : Obligations.RubricLogs := by
  intro s e hdev hover hroom h38 h81 hcls hutype hunit hslot hact c hlog hesc irq
  refine ⟨_, s.eqEntry e 1 false s.huv.nextSeq,
    State.raise_of_judged (State.judgeEvent_log hdev hover hroom h38 h81 hlog hesc), ?_⟩
  rw [State.irqVector1_eq]
  let f (c : RbClass) : RbClass := { c with count := satInc (2 ^ 48 - 1) c.count, win := min 255 (c.win + 1) }
  refine ⟨rfl, rfl, State.modRb_rbClass_same s e.cls f, fun k hk => State.modRb_rbClass_other s f hk, ?_⟩
  have h15 := Nat.mod_lt e.line (show 0 < 2 ^ 15 by decide)
  have h16 := Nat.mod_lt s.huv.nextSeq (show 0 < 65536 by decide)
  have hw0 : (s.eqEntry e 1 false s.huv.nextSeq).w0 = BitVec.ofNat 64 (e.cls + 1 * 2 ^ 8 + 0 * 2 ^ 11 + e.utype * 2 ^ 12 +
      e.unit * 2 ^ 16 + e.line % 2 ^ 15 * 2 ^ 24 + s.folio.actSlot * 2 ^ 39 + s.huv.nextSeq % 65536 * 2 ^ 48) := by
    rw [State.eqEntry, hslot]
    rfl
  have hw2 : (s.eqEntry e 1 false s.huv.nextSeq).w2 =
      BitVec.ofNat 64 (s.folioCyc % 2 ^ 28 + e.detail % 2 ^ 32 * 2 ^ 32) := rfl
  have hw3 : (s.eqEntry e 1 false s.huv.nextSeq).w3 = BitVec.ofNat 64 (e.addr % 2 ^ 48 + 0 * 2 ^ 48) := rfl
  rw [hw0, hw2, hw3]
  refine ⟨?_, ?_, ?_, ?_, ?_, ?_, ?_, ?_, rfl, ?_, ?_, ?_, ?_⟩
  case refine_3 => exact bitAt_ofNat_of_div (b := false) (by decide) (by show _ = 0; omega)
  all_goals
    rw [bitsOf_ofNat _ _ _ (by decide)]
    omega

end Sys2Proof.Rubric
end

section
/-! The mailboxes and the vote of the Huvas (R115 to R118, R350 to R353). -/

namespace Sys2Proof.Machine

/-- A map of the values that keeps the default maps every entry. -/
theorem Table.get_mapV {α : Type} (d : Nat → α) {f : α → α} (hd : ∀ k, f (d k) = d k) (t : Table α) (k : Nat) :
    Table.get d (Table.mapV f t) k = f (Table.get d t k) := by
  induction t with
  | nil => exact (hd k).symm
  | cons e t ih =>
    rw [Table.mapV, List.map_cons, Table.get, Table.get]
    split
    · rfl
    · exact ih

/-- The slot table after a running command stops: a ruling that was being copied is gone, one that was being verified is
LOADED. -/
def RulSlot.afterStop (op : Nat) (r : RulSlot) : RulSlot :=
  if op = 0x30 then {} else if op = 0x31 ∧ r.st = .verified then { r with st := .loaded } else r

/-- A running command stops between its steps (R351, R353). -/
theorem State.stopCmd_stops (s : State) (m code : Nat) : s.StopsCmd m code (.next (s.stopCmd m code)) := by
  let k := bitsOf (s.arg m 0) 0 4
  let v : State := { s with huv := { s.huv with
    prog := if s.huv.prog.any (fun (p : Nat × Nat) => p.1 = m) then none else s.huv.prog } }
  have hv : v.huv = { s.huv with prog := if s.huv.prog.any (fun p => p.1 = m) = true then none else s.huv.prog } := rfl
  by_cases h30 : (s.mbox m).curOp = 0x30
  · refine ⟨v.modSlot k (fun _ => {}), ?_, rfl, hv, rfl, fun j hj => State.modSlot_slotOf_other (s := v) hj, ?_⟩
    · rw [State.stopCmd]
      simp only [h30, if_true]
      exact State.finish_ends _ m code []
    · rw [if_pos h30]
      exact State.modSlot_slotOf_same (s := v)
  by_cases h31 : (s.mbox m).curOp = 0x31
  · refine ⟨v.modSlot k (fun r => if r.st = .verified then { r with st := .loaded } else r), ?_, rfl, hv, rfl,
      fun j hj => State.modSlot_slotOf_other (s := v) hj, ?_⟩
    · rw [State.stopCmd]
      simp only [h31, if_true, show ¬(0x31 = 0x30) by decide, if_false]
      exact State.finish_ends _ m code []
    · rw [if_neg h30]
      simp only [h31, true_and]
      exact State.modSlot_slotOf_same (s := v)
  · refine ⟨v, ?_, rfl, hv, rfl, fun _ _ => rfl, ?_⟩
    · rw [State.stopCmd]
      simp only [h30, h31, if_false]
      exact State.finish_ends _ m code []
    · rw [if_neg h30, if_neg (fun h => h31 h.1)]
      rfl

/-- A nib that alone is out of the vote. -/
theorem outNib_of_alone : ∀ v : BitVec 3, ∀ n < 3, v.getLsbD n = false → (∀ m < 3, v.getLsbD m = false → m = n) →
    outNib v = n ∧ weightN 3 v.toNat = 2 := by decide

/-- The vote without nib `h`. -/
theorem vote_without : ∀ h : Fin 3, ∀ n < 3, (7#3 &&& ~~~ BitVec.ofNat 3 (2 ^ h.val)).getLsbD n = decide (n ≠ h.val) := by
  decide

theorem lostMailbox_default : lostMailbox {} = {} := rfl

end Sys2Proof.Machine
end

section
/-! The obligations of the vote, the firmware's reactions and the mailboxes. -/

namespace Sys2Proof.PensLigaturesHuvas

open Sys2Proof.Machine

/-- Settles O41: the voter by the number of nibs, the reactions by their actions. -/
theorem huvasVoteAndReactions : Obligations.HuvasVoteAndReactions := by
  refine ⟨fun s hup hchk => ?vote, fun s rest hup => ?reaction⟩
  case vote =>
    intro d out
    have hrow (odd : Option (Fin 3)) := exec_of_due (c := .voterMismatch odd) (s := s) (f := fun s => s.voterMismatch odd)
      rfl (show (s.huvasUp && s.huv.checked) = true by rw [hup, hchk]; rfl)
    refine ⟨fun h hall => ?_, fun odd hodd => ?_, fun n hn halone hfailed => ⟨fun hen hcnt hready => ?_, fun hready hfw => ?_⟩⟩
    · refine ⟨_, vote_without h, (hrow (some h)).trans (congrArg Host.Outcome.next ?_)⟩
      rw [State.voterMismatch]
      refine (if_pos hall).trans ?_
      rw [State.nibOut]
      dsimp only
      rw [hall]
      rfl
    · have hstop : exec (.voterMismatch odd) s = .next (State.huvasStop { s with huv := { s.huv with disagree := d } }) := by
        refine (hrow odd).trans (congrArg Host.Outcome.next ?_)
        cases odd with
        | none => rfl
        | some h => exact if_neg (hodd.resolve_left nofun)
      have hmb (m : Nat) : Table.get (fun _ => {}) (Table.mapV lostMailbox s.huv.mb) m = lostMailbox (s.mbox m) :=
        Table.get_mapV (fun _ => {}) (fun _ => lostMailbox_default) s.huv.mb m
      exact ⟨_, hstop, rfl, rfl, rfl, hmb⟩
    · obtain ⟨hout, hweight⟩ := outNib_of_alone s.huv.nibIn n hn.1 hn.2 fun m hm hoff => halone m ⟨hm, hoff⟩
      have hdue : s.reintDue = true := by
        simp [State.reintDue, hup, hchk, hweight, hen, hcnt, hready, hfailed]
      have hrow (pass : Bool) := exec_of_due (c := .huvasNibCheck pass) (s := s) (f := fun s =>
        if pass then { s with huv := { s.huv with nibReady := true } }
        else State.raise { s with huv := { s.huv with nibFailed := true } } (nibEvent 0x21 (outNib s.huv.nibIn))) rfl hdue
      rw [hout] at hrow
      exact ⟨hrow true, hrow false⟩
    · obtain ⟨hout, -⟩ := outNib_of_alone s.huv.nibIn n hn.1 hn.2 fun m hm hoff => halone m ⟨hm, hoff⟩
      refine (exec_of_due (c := .huvasResync) (s := s) (f := fun s => State.raise { s with huv := { s.huv with
        nibIn := 7, nibReady := false, reintCnt := s.huv.reintCnt + 1 } } (nibEvent 0x22 (outNib s.huv.nibIn))) rfl
        (show (s.huvasUp && s.huv.nibReady && decide (s.huv.fw = [])) = true by rw [hup, hready, hfw]; rfl)).trans ?_
      rw [hout]
      rfl
  case reaction =>
    intro t
    have hrow {a : FwAct} (hfw : s.huv.fw = a :: rest) : exec .rubricFirmwareReaction s = .next (t.fwAct a) := by
      refine (exec_of_due (c := .rubricFirmwareReaction) (s := s) (f := fun s => match s.huv.fw with
        | [] => s
        | a :: t => State.fwAct { s with huv := { s.huv with fw := t } } a) rfl
        (show (s.huvasUp && decide (s.huv.fw ≠ [])) = true by rw [hup, hfw]; rfl)).trans (congrArg Host.Outcome.next ?_)
      rw [hfw]
    refine ⟨fun hfw => ?_, fun r k hfw hr => ?_, fun m c hfw => ⟨fun hst => ?_, fun hst => ?_⟩⟩
    · rw [hrow hfw]
      exact t.sendMsix_asked 1
    · have hk : Fin.ofNat 16 (r / 2) = k := Fin.ext (by rw [Fin.val_ofNat, hr]; omega)
      rw [hrow hfw, State.fwAct, hk]
      rfl
    · rw [hrow hfw, State.fwAct]
      refine (?_ : t.StopsCmd m c (.next (if (s.mbox m).st = .running then t.stopCmd m c else t)))
      rw [if_pos hst]
      exact t.stopCmd_stops m c
    · rw [hrow hfw, State.fwAct]
      exact congrArg Host.Outcome.next (if_neg hst)

end Sys2Proof.PensLigaturesHuvas

namespace Sys2Proof.HuvasCommands

open Sys2Proof.Machine

/-- Settles O42: a GO by the state of its mailbox, an ABORT by what runs. -/
theorem mailboxSubmission : Obligations.MailboxSubmission := by
  intro s m hopen b later
  have hgo (op token : BitVec 16) (upper : Bool) := exec_of_due (c := .mailboxGo m op token upper) (s := s)
    (f := fun s => s.goWrite m.val op token upper) rfl hopen
  have habort := exec_of_due (c := .mailboxAbort m) (s := s) (f := fun s => s.abortWrite m.val) rfl hopen
  have hrun (hst : b.st = .running) (hpass : s.blot.pass = none) : exec (.mailboxAbort m) s =
      .next (if s.blot.marching.any (fun r => r.mb = m.val) then s.endMarch 7
        else if s.huv.prog.any (fun (p : Nat × Nat) => p.1 = m.val) then s.stopCmd m.val 7 else s) := by
    refine habort.trans (congrArg Host.Outcome.next ((if_neg ?_).trans ((if_pos hst).trans (if_neg ?_))))
    · rw [show (s.mbox m.val).st = .running from hst]
      nofun
    · rw [hpass]
      nofun
  refine ⟨fun op token upper => ?go, fun hst => ?queued, fun r hst hpass hmarch hmb => ?march,
    fun n hst hpass hmarch hprog => ?stop, fun hst hpass hmarch hprog => ?none, fun hst => ?free⟩
  case go =>
    intro taken
    have htaken : (s.mbox m.val).taken = true ↔ taken := by
      rw [Mailbox.taken, Bool.or_eq_true, decide_eq_true_iff, decide_eq_true_iff]
    have hsubmit (op token : BitVec 16) (upper : Bool) : exec (.mailboxGo m op token upper) s =
        .next (s.submit m.val (if upper = true then b.opcode else op) (if upper = true then b.token else token)) := by
      refine (hgo op token upper).trans (congrArg Host.Outcome.next ?_)
      cases upper <;> rfl
    refine ⟨fun ht => ⟨s.discardWrite m.val, ?_, ?_, ?_, rfl⟩, fun ht => ?_⟩
    · exact (hsubmit op token upper).trans (congrArg Host.Outcome.next (if_pos (htaken.mpr ht)))
    · exact State.modMbox_mbox_same
    · exact fun j hj => State.modMbox_mbox_other hj
    · intro o
      let t := s.modMbox m.val (fun b => { b with
        opcode := o, token := if upper = true then b.token else token, curOp := o.toNat, latch := b.arg, res := []
        st := .queued, goAt := s.cyc })
      have hrow : exec (.mailboxGo m op token upper) s = .next (if t.huv.lost then t.finish m.val 8
          else if !opcodes.contains o.toNat then t.finish m.val 1 else t.enqueue m.val) :=
        (hsubmit op token upper).trans (congrArg Host.Outcome.next (if_neg (fun h => ht (htaken.mp h))))
      refine ⟨t, State.modMbox_mbox_same, fun j hj => State.modMbox_mbox_other hj, rfl, fun hlost => .of_eq ?_,
        fun hlost hop => .of_eq ?_, fun hlost hop => ?_⟩
      · exact hrow.trans (congrArg Host.Outcome.next (if_pos hlost))
      · refine hrow.trans (congrArg Host.Outcome.next ((if_neg (ne_true_of_eq_false hlost)).trans (if_pos ?_)))
        simpa using hop
      · refine hrow.trans (congrArg Host.Outcome.next ((if_neg (ne_true_of_eq_false hlost)).trans ((if_neg ?_).trans ?_)))
        · simpa using hop
        · let after (n : Nat) : Bool := (t.mbox n).st = .queued && (t.mbox n).goAt = t.cyc && m.val < n
          have hafter : after = later := by
            funext n
            by_cases hn : n = m.val
            · simp [after, later, hn]
            · simp only [after, later, show t.mbox n = s.mbox n from State.modMbox_mbox_other hn]
              rfl
          change ({ t with huv := { t.huv with
            foreQ := t.huv.foreQ.takeWhile (fun n => !after n) ++ m.val :: t.huv.foreQ.dropWhile (fun n => !after n) } } : State) = _
          rw [hafter]
          rfl
  case queued => exact .of_eq (habort.trans (congrArg Host.Outcome.next (if_pos hst)))
  case march =>
    refine .of_eq ((hrun hst hpass).trans (congrArg Host.Outcome.next ?_))
    rw [State.endMarch, hmarch]
    simp only [Option.any_some, hmb, decide_true, if_true]
    rfl
  case stop =>
    rw [(hrun hst hpass).trans (congrArg Host.Outcome.next (if_neg (by simp [hmarch])))]
    rw [if_pos (by simp [hprog])]
    exact s.stopCmd_stops m.val 7
  case none =>
    refine (hrun hst hpass).trans (congrArg Host.Outcome.next ((if_neg (by simp [hmarch])).trans (if_neg ?_)))
    cases hp : s.huv.prog with
    | none => nofun
    | some e =>
      intro h
      have hk : e.1 = m.val := of_decide_eq_true h
      exact hprog e.2 (hp.trans (congrArg (fun k => some (k, e.2)) hk))
  case free =>
    refine habort.trans (congrArg Host.Outcome.next ((if_neg ?_).trans (if_neg ?_)))
    all_goals
      intro h
      rw [show (s.mbox m.val).st = b.st from rfl] at h
      obtain hst | hst := hst <;> rw [hst] at h <;> nomatch h

end Sys2Proof.HuvasCommands
end

section
/-! Argument words, transfers with host memory, and loops over numbered records (R350, R354). -/

namespace Sys2Proof.Machine

/-! ### Reserved bits of arguments -/

/-- A number with no bit set outside a mask. -/
def Within (n mask : Nat) : Prop := n &&& mask = n

theorem Within.of_lt {n k : Nat} (h : n < 2 ^ k) : Within n (2 ^ k - 1) := by
  rw [Within, Nat.and_two_pow_sub_one_eq_mod, Nat.mod_eq_of_lt h]

/-- Two fields side by side. -/
theorem Within.add {a ma b mb k : Nat} (ha : Within a ma) (hb : Within b mb) (hak : a < 2 ^ k) (hmk : ma < 2 ^ k) :
    Within (a + b * 2 ^ k) (ma + mb * 2 ^ k) := by
  rw [Within, Nat.add_comm a, Nat.add_comm ma, Nat.mul_comm b, Nat.mul_comm mb]
  refine Nat.eq_of_testBit_eq fun i => ?_
  rw [Nat.testBit_and, Nat.testBit_two_pow_mul_add _ hak, Nat.testBit_two_pow_mul_add _ hmk]
  split
  · rw [← Nat.testBit_and, ha]
  · rw [← Nat.testBit_and, hb]

theorem Within.clean {n mask : Nat} (h : Within n mask) : BitVec.ofNat 64 n &&& ~~~BitVec.ofNat 64 mask = 0 := by
  refine BitVec.eq_of_getLsbD_eq fun i hi => ?_
  have hbit : (n.testBit i && mask.testBit i) = n.testBit i := by rw [← Nat.testBit_and, h]
  rw [BitVec.getLsbD_and, BitVec.getLsbD_not, BitVec.getLsbD_ofNat, BitVec.getLsbD_ofNat, decide_eq_true hi]
  cases hn : n.testBit i <;> cases hm : mask.testBit i
  all_goals
    rw [hn, hm] at hbit
    first | exact BitVec.getLsbD_zero.symm | exact nomatch hbit

theorem argRsvd_of_clean {s : State} {m i mask : Nat} {w : Word} (hw : s.arg m i = w)
    (h : w &&& ~~~BitVec.ofNat 64 mask = 0) : argRsvd s m i mask = false := by
  rw [argRsvd, hw, h]
  rfl

theorem argRsvd_of_within {s : State} {m i mask n : Nat} (hw : s.arg m i = BitVec.ofNat 64 n) (h : Within n mask) :
    argRsvd s m i mask = false := argRsvd_of_clean hw h.clean

/-! ### Host memory -/

theorem State.hostGet_ok {s : State} {n : Nat} {ws : List Word} (hb : s.hif.busMaster = true) (hl : n ≤ ws.length) :
    s.hostGet (.ok ws) n = .got (ws.take n) := by
  rw [State.hostGet, hb]
  exact if_neg (Nat.not_lt.mpr hl)

theorem State.hostPut_ok {s : State} (h : s.hostWritable) (addr : Nat) (ws : List Word) :
    s.hostPut addr ws false = (0, { s with out := s.out ++ [.hostWrite addr ws (s.ideStream addr)] }) := by
  obtain ⟨hb, hu⟩ := h
  rw [State.hostPut, hb, hu]
  rfl

/-! ### Loops whose turns are numbered from a first record -/

theorem State.forAll_map {α β : Type} (g : α → β) (l : List α) (f : β → State → State) (s : State) :
    s.forAll (l.map g) f = s.forAll l (fun a => f (g a)) := List.foldl_map

/-- A loop over the records from `first` on changes each of them once. -/
theorem State.forAll_get_from {β : Type} {upd : Nat → State → State} (get : State → Nat → β) (f : Nat → β → β)
    (hsame : ∀ n t, get (upd n t) n = f n (get t n)) (hother : ∀ n k t, k ≠ n → get (upd n t) k = get t k)
    (first n : Nat) (s : State) (k : Nat) : get (s.forAll (upTo n) (fun i => upd (first + i))) k =
      if first ≤ k ∧ k < first + n then f k (get s k) else get s k := by
  have hmem : k ∈ (upTo n).map (first + ·) ↔ first ≤ k ∧ k < first + n := by
    simp only [upTo, List.mem_map, List.mem_range]
    exact ⟨fun ⟨i, hi, h⟩ => by omega, fun h => ⟨k - first, by omega, by omega⟩⟩
  have hnodup : ((upTo n).map (first + ·)).Nodup := List.nodup_range.map fun a b h => Nat.add_left_cancel h
  rw [← State.forAll_map (first + ·) (upTo n) upd, State.forAll_get get f hsame hother hnodup]
  simp only [hmem]

theorem mem_pensIn {w : Word} {p : Nat} : p ∈ pensIn w ↔ p < 64 ∧ bitAt w p = true := by
  simp [pensIn, upTo]

theorem nodup_pensIn (w : Word) : (pensIn w).Nodup := List.nodup_range.filter _

end Sys2Proof.Machine
end

section
/-! The commands that set the part up (R362, R364, R365, R370, R472), where their arguments pass. -/

namespace Sys2Proof.Machine

section commands

variable {s : State} {m : MbN}

theorem State.Args.word {a : List Word} (h : s.Args m a) (i : Nat) (hi : i < a.length := by simp) : s.arg m.val i = a[i] := by
  rw [h i hi, List.getD_eq_getElem _ _ hi]

theorem State.rubricSet_passes {ws : List Word} {first n : Nat} {host : Word}
    (hargs : s.Args m [BitVec.ofNat 64 (first + n * 256), host]) (hf : first < 256) (hn : 1 ≤ n) (hfn : first + n ≤ 256)
    (hhost : host.toNat + 8 * n ≤ 0xF00000000000) (hbus : s.hif.busMaster = true) (hlen : ws.length = n)
    (hgood : rubricFault first ws = none) :
    s.rubricSet m.val (.ok ws) = (s.forAll (upTo n) (fun i t => t.modRb (first + i) (fun c =>
      { c with entry := only 0xFFF7F (ws.getD i 0) ||| (c.entry &&& 0x100000) }))).finish m.val 0 := by
  have h0 : s.arg m.val 0 = BitVec.ofNat 64 (first + n * 256) := hargs.word 0
  have h1 : s.arg m.val 1 = host := hargs.word 1
  have hfirst : bitsOf (s.arg m.val 0) 0 8 = first := by rw [h0, bitsOf_ofNat _ _ _ (by decide)]; omega
  have hcount : bitsOf (s.arg m.val 0) 8 9 = n := by rw [h0, bitsOf_ofNat _ _ _ (by decide)]; omega
  have hrsvd : argRsvd s m.val 0 0x1FFFF = false := argRsvd_of_within h0 (Within.of_lt (k := 17) (by omega))
  rw [State.rubricSet]
  simp only [hfirst, hcount, h1, hrsvd, Bool.false_eq_true, if_false, State.hostGet_ok hbus (Nat.le_of_eq hlen.symm)]
  refine (if_neg ?_).trans ?_
  · simp only [Bool.or_eq_true, decide_eq_true_iff]
    rw [hostTop]
    omega
  · rw [← hlen, List.take_length]
    simp only [hgood]

theorem VSlot.load_eq (v : VSlot) {w0 w1 : Word} (h : vslotRsvd w0 w1 = false) : v.load w0 w1 = { v with
    frame0 := bitsOf w0 0 36, frame1 := bitsOf w1 0 36, fair := false, valid := bitAt w0 39, part := bitsOf w0 40 8
    kind := if bitsOf w0 37 2 = 0 then .state else if bitsOf w0 37 2 = 1 then .output else .input } := by
  have hkind : vkindOf (bitsOf w0 37 2) = if bitsOf w0 37 2 = 0 then .state else if bitsOf w0 37 2 = 1 then .output else .input := by
    have hlt : bitsOf w0 37 2 < 4 := Nat.mod_lt _ (by decide)
    have h3 : bitsOf w0 37 2 ≠ 3 := by
      rw [vslotRsvd] at h
      simp only [Bool.or_eq_false_iff, decide_eq_false_iff_not] at h
      exact h.1.2
    generalize bitsOf w0 37 2 = x at *
    interval_cases x <;> first | rfl | exact absurd rfl h3
  rw [VSlot.load, hkind]

/-- The slots that VSLOT_SET writes. -/
def State.vslotsLoaded (s : State) (first n : Nat) (ws : List Word) : State :=
  s.forAll (upTo n) (fun i t => t.modVslot (first + i) (fun v => v.load (ws.getD (2 * i) 0) (ws.getD (2 * i + 1) 0)))

theorem State.namesSlot_of_down {q first n : Nat} (h : (s.partOf q).up = false) : s.namesSlot q first n = false := by
  rw [State.namesSlot, h]
  rfl

theorem State.vslotSet_passes {ws : List Word} {first n : Nat} {host : Word}
    (hargs : s.Args m [BitVec.ofNat 64 (first + n * 65536), host]) (hf : first < 8192) (hn : 1 ≤ n) (hfn : first + n ≤ 8192)
    (hhost : host.toNat + 16 * n ≤ 0xF00000000000) (hbus : s.hif.busMaster = true) (hlen : ws.length = 2 * n)
    (hrsv : ∀ i, i < n → vslotRsvd (ws.getD (2 * i) 0) (ws.getD (2 * i + 1) 0) = false) (hdown : ∀ q, (s.partOf q).up = false)
    (hgood : ∀ k, (s.vslotsLoaded first n ws).slotBroken k = false) :
    s.vslotSet m.val (.ok ws) = (s.vslotsLoaded first n ws).finish m.val 0 := by
  have h0 : s.arg m.val 0 = BitVec.ofNat 64 (first + n * 65536) := hargs.word 0
  have h1 : s.arg m.val 1 = host := hargs.word 1
  have hfirst : bitsOf (s.arg m.val 0) 0 13 = first := by rw [h0, bitsOf_ofNat _ _ _ (by decide)]; omega
  have hcount : bitsOf (s.arg m.val 0) 16 14 = n := by rw [h0, bitsOf_ofNat _ _ _ (by decide)]; omega
  have hrsvd : argRsvd s m.val 0 0x3FFF1FFF = false := argRsvd_of_within h0
    (Within.add (k := 16) (Within.of_lt (k := 13) (by omega)) (Within.of_lt (k := 14) (by omega)) (by omega) (by omega))
  have hnone : (upTo n).find? (fun i => vslotRsvd (ws.getD (2 * i) 0) (ws.getD (2 * i + 1) 0)) = none :=
    List.find?_eq_none.mpr fun i hi => ne_true_of_eq_false (hrsv i (List.mem_range.mp hi))
  have hbroken (l : List Nat) : l.find? (s.vslotsLoaded first n ws).slotBroken = none :=
    List.find?_eq_none.mpr fun k _ => ne_true_of_eq_false (hgood k)
  have hgone : (upTo 256).filter (fun q => s.namesSlot q first n) = [] :=
    List.filter_eq_nil_iff.mpr fun q _ => ne_true_of_eq_false (State.namesSlot_of_down (hdown q))
  rw [State.vslotSet]
  simp only [hfirst, hcount, h1, hrsvd, Bool.false_eq_true, if_false, State.hostGet_ok hbus (Nat.le_of_eq hlen.symm)]
  refine (if_neg ?_).trans ?_
  · simp only [Bool.or_eq_true, decide_eq_true_iff]
    rw [hostTop]
    omega
  · rw [← hlen, List.take_length]
    simp only [hnone, hgone]
    change (match List.find? (s.vslotsLoaded first n ws).slotBroken _ with
      | some k => s.finish m.val 0x0708 [wordN k]
      | none => (s.vslotsLoaded first n ws).finish m.val 0) = _
    rw [hbroken]

/-! ### MIRROR_SET -/

theorem mem_insertBy {key : Nat → Nat} {a b : Nat} {l : List Nat} : b ∈ insertBy key a l ↔ b = a ∨ b ∈ l := by
  induction l with
  | nil => simp [insertBy]
  | cons c l ih =>
    rw [insertBy]
    split
    · simp
    · rw [List.mem_cons, ih, List.mem_cons]
      tauto

theorem mem_sortBy {key : Nat → Nat} {b : Nat} {l : List Nat} : b ∈ sortBy key l ↔ b ∈ l := by
  induction l with
  | nil => rfl
  | cons a l ih => exact mem_insertBy.trans (by rw [List.mem_cons]; exact or_congr_right ih)

/-- A word listed in a page that starts at a multiple of 8 lies at one of its word offsets. -/
theorem State.listedIn_offset {base o n : Nat} (hb : base % 8 = 0) (h : o ∈ (s.listedIn base n).map (· - base)) :
    ∃ i, i < n ∧ o = 8 * i := by
  simp only [State.listedIn, List.map_map, List.mem_map, List.mem_filter, Bool.and_eq_true, decide_eq_true_iff] at h
  obtain ⟨e, ⟨-, hlo, hhi⟩, rfl⟩ := h
  exact ⟨e.1 - base / 8, by omega, by simp only [Function.comp]; omega⟩

theorem State.huvasGet_clean {a : Nat} {w : TWord} (hinj : a ∉ s.blot.injected) (h : s.peek a = .clean w) :
    s.huvasGet a = (some w, s) := by
  rw [State.huvasGet, if_neg (by simpa using hinj), State.readWord, h]

/-- Two copies that are clean and equal at some offsets do not differ there, and nothing is counted. -/
theorem State.compareAt_equal {e : Nat} {l : List Nat} (h : ∀ o ∈ l, ∃ w, s.huvasGet (e + o) = (some w, s) ∧
    s.huvasGet (e + 0x80000 + o) = (some w, s)) : State.compareAt e l s = (none, s) := by
  induction l with
  | nil => rfl
  | cons o l ih =>
    obtain ⟨w, hx, hy⟩ := h o List.mem_cons_self
    rw [State.compareAt, hx]
    dsimp only
    rw [hy]
    exact (if_pos rfl).trans (ih fun o ho => h o (List.mem_cons_of_mem _ ho))

theorem State.copiesDiffer_equal {p : Nat} {l : List Nat} (h : ∀ g ∈ l, ∀ i < 512,
    ∃ w, s.huvasGet (inkBase p + 4096 * g + 8 * i) = (some w, s) ∧
      s.huvasGet (inkBase p + 4096 * g + 0x80000 + 8 * i) = (some w, s)) : State.copiesDiffer p l s = (none, s) := by
  induction l with
  | nil => rfl
  | cons g l ih =>
    have hbase : (inkBase p + 4096 * g) % 8 = 0 := by rw [inkBase]; omega
    have hpage : State.compareAt (inkBase p + 4096 * g)
        (sortBy id ((s.listedIn (inkBase p + 4096 * g) 512).map (· - (inkBase p + 4096 * g)) ++
          (s.listedIn (inkBase p + 4096 * g + 0x80000) 512).map (· - (inkBase p + 4096 * g + 0x80000)))).eraseDups s =
        (none, s) := by
      refine State.compareAt_equal fun o ho => ?_
      rw [List.mem_eraseDups, mem_sortBy, List.mem_append] at ho
      obtain ⟨i, hi, rfl⟩ := ho.elim (State.listedIn_offset hbase) (State.listedIn_offset (by omega))
      exact h g List.mem_cons_self i hi
    rw [State.copiesDiffer, hpage]
    exact ih fun g hg => h g (List.mem_cons_of_mem _ hg)

theorem OnlyPens.refl (l : List Nat) (s : State) : OnlyPens l s s := ⟨rfl, fun _ _ => rfl⟩

/-- A change of one more pen of the list. -/
theorem OnlyPens.modPen {l : List Nat} {s t : State} {p : Nat} {f : Pen → Pen} (h : OnlyPens l s t) (hp : p ∈ l) :
    OnlyPens l s (t.modPen p f) := by
  obtain ⟨hback, hother⟩ := h
  refine ⟨Eq.trans rfl hback, fun q hq => ?_⟩
  rw [State.modPen_pen_other (by rintro rfl; exact hq hp), hother q hq]

/-- The masks of a pair. -/
theorem State.setMasks_spec (p : Nat) (w0 w1 : Word) :
    let t := s.setMasks p w0 w1
    let x := s.pen p
    OnlyPens [p, p + 1] s t ∧
      t.pen p = (if w0 = 0 ∧ w1 = 0
        then { x with mirror0 := w0, mirror1 := w1, mirror := .mirrored, stale := false, recopy := [] }
        else { x with mirror0 := w0, mirror1 := w1 }) ∧
      t.pen (p + 1) = (if w0 = 0 ∧ w1 = 0 then { s.pen (p + 1) with stale := false, recopy := [] } else s.pen (p + 1)) := by
  intro t x
  by_cases h : w0 = 0 ∧ w1 = 0
  · have ht : t = ((s.modPen p (fun x => { x with mirror0 := w0, mirror1 := w1 })).modPen p
        (fun x => { x with mirror := .mirrored, stale := false, recopy := [] })).modPen (p + 1)
          (fun x => { x with stale := false, recopy := [] }) := if_pos (by simpa using h)
    rw [if_pos h, if_pos h, ht]
    refine ⟨(((OnlyPens.refl _ s).modPen ?_).modPen ?_).modPen ?_, ?_, ?_⟩
    · exact List.mem_cons_self
    · exact List.mem_cons_self
    · exact List.mem_cons_of_mem _ List.mem_cons_self
    · rw [State.modPen_pen_other (by omega), State.modPen_pen_same, State.modPen_pen_same]
    · rw [State.modPen_pen_same, State.modPen_pen_other (by omega), State.modPen_pen_other (by omega)]
  · have ht : t = s.modPen p (fun x => { x with mirror0 := w0, mirror1 := w1 }) := if_neg (by simpa using h)
    rw [if_neg h, if_neg h, ht]
    exact ⟨(OnlyPens.refl _ s).modPen List.mem_cons_self, State.modPen_pen_same, State.modPen_pen_other (by omega)⟩

theorem State.mirrorSet_passes {p : Nat} {w0 w1 : Word} (hp : p % 2 = 0) (hp64 : p < 64)
    (hargs : s.Args m [BitVec.ofNat 64 p, w0, w1]) (hon : s.penOn p = true) (hon1 : s.penOn (p + 1) = true)
    (hcopies : ∀ g i, g < 128 → i < 512 →
      (if g < 64 then bitAt w0 g && !bitAt (s.pen p).mirror0 g else bitAt w1 (g - 64) && !bitAt (s.pen p).mirror1 (g - 64)) = true →
      let x := p * 0x80000 + 4096 * g + 8 * i
      x ∉ s.blot.injected ∧ x + 0x80000 ∉ s.blot.injected ∧ ∃ w, s.peek x = .clean w ∧ s.peek (x + 0x80000) = .clean w) :
    s.mirrorSet m.val = (s.setMasks p w0 w1).finish m.val 0 := by
  have h0 : s.arg m.val 0 = BitVec.ofNat 64 p := hargs.word 0
  have h1 : s.arg m.val 1 = w0 := hargs.word 1
  have h2 : s.arg m.val 2 = w1 := hargs.word 2
  have hpen : bitsOf (s.arg m.val 0) 0 6 = p := by rw [h0, bitsOf_ofNat _ _ _ (by decide)]; omega
  have hrsvd : argRsvd s m.val 0 0x3F = false := argRsvd_of_within h0 (Within.of_lt (k := 6) (by omega))
  have hequal : State.copiesDiffer p (pensIn (w0 &&& ~~~(s.pen p).mirror0) ++
      (pensIn (w1 &&& ~~~(s.pen p).mirror1)).map (· + 64)) s = (none, s) := by
    refine State.copiesDiffer_equal fun g hg i hi => ?_
    have hnew : g < 128 ∧ (if g < 64 then bitAt w0 g && !bitAt (s.pen p).mirror0 g
        else bitAt w1 (g - 64) && !bitAt (s.pen p).mirror1 (g - 64)) = true := by
      have hbit {a b : Word} {k : Nat} (hk : k < 64) (h : bitAt (a &&& ~~~b) k = true) : (bitAt a k && !bitAt b k) = true := by
        simpa [bitAt, hk] using h
      rw [List.mem_append, mem_pensIn] at hg
      obtain ⟨hlt, hg⟩ | hg := hg
      · exact ⟨by omega, by rw [if_pos hlt]; exact hbit hlt hg⟩
      · obtain ⟨k, hk, rfl⟩ := List.mem_map.mp hg
        obtain ⟨hlt, hk⟩ := mem_pensIn.mp hk
        exact ⟨by omega, by rw [if_neg (by omega), Nat.add_sub_cancel]; exact hbit hlt hk⟩
    obtain ⟨hx, hy, w, hwx, hwy⟩ := hcopies g i hnew.1 hi hnew.2
    refine ⟨w, State.huvasGet_clean hx hwx, ?_⟩
    rw [inkBase, show p * 0x80000 + 4096 * g + 0x80000 + 8 * i = p * 0x80000 + 4096 * g + 8 * i + 0x80000 by omega]
    exact State.huvasGet_clean hy hwy
  rw [State.mirrorSet]
  simp only [hpen, hrsvd, h1, h2, hp, hon, hon1, hequal, Bool.false_eq_true, if_false, Nat.zero_ne_one, Bool.and_self,
    Bool.not_true, Bool.and_false]

/-! ### LSLOT_SET and SEQ_SEL -/

/-- A lock slot that is not switched on is only written. -/
theorem State.setLslot_off {p i : Nat} {w : Word} (h : bitAt w 0 = false) :
    s.setLslot p i w = s.modPen p (fun x => x.setLslot i w) := if_neg (ne_true_of_eq_false h)

theorem State.lslotSet_idle {mask w va : Word} (hargs : s.Args m [mask, w, va]) (hclean : w &&& ~~~BitVec.ofNat 64 0xFF0F = 0)
    (hidle : ∀ p, p < 64 → bitAt mask p = true → (s.pen p).st = .idle) :
    let i := bitsOf w 0 3
    let t := s.forAll (pensIn mask) (fun p t => t.setLslot p i
      (wordN (bitN (bitAt w 3) + bitsOf w 8 8 * 4 + bitsOf va 12 45 * 4096)))
    (bitAt w 3 = true → ∀ p ∈ pensIn mask, bitAt (t.pen p).lslotStat (8 + i) = false) →
    s.lslotSet m.val = t.finish m.val 0 := by
  intro i t hgood
  have h0 : s.arg m.val 0 = mask := hargs.word 0
  have h1 : s.arg m.val 1 = w := hargs.word 1
  have h2 : s.arg m.val 2 = va := hargs.word 2
  have hbusy : (pensIn mask).any (fun p => decide ((s.pen p).st ≠ .idle)) = false :=
    List.any_eq_false.mpr fun p hp => by
      obtain ⟨hlt, hbit⟩ := mem_pensIn.mp hp
      simp [hidle p hlt hbit]
  have hbad : (if bitAt w 3 then (pensIn mask).filter (fun p => bitAt (t.pen p).lslotStat (8 + i)) else []) = [] := by
    split
    case isTrue hen => exact List.filter_eq_nil_iff.mpr fun p hp => ne_true_of_eq_false (hgood hen p hp)
    case isFalse => rfl
  rw [State.lslotSet]
  simp only [h0, h1, h2, argRsvd_of_clean h1 hclean, hbusy, Bool.false_eq_true, if_false]
  change (match (if bitAt w 3 then (pensIn mask).filter (fun p => bitAt (t.pen p).lslotStat (8 + i)) else []) with
    | [] => t.finish m.val 0
    | p :: _ => _) = _
  rw [hbad]

theorem State.seqSel_passes {mask : Word} {k slot : Nat} {age : Bool} (hk : k < 16) (hslot : slot < 8192)
    (hargs : s.Args m [mask, BitVec.ofNat 64 (k + slot * 2 ^ 16 + bitN age * 2 ^ 31)])
    (hvalid : (s.vslot slot).valid = true) (hkind : (s.vslot slot).kind = .input) :
    s.seqSel m.val = (s.forAll (pensIn mask) (fun p t => t.modPen p (fun x => { x with
      seqSel := Table.set (fun _ => 0) x.seqSel k (BitVec.ofNat 64 (slot + bitN age * 2 ^ 15)) }))).finish m.val 0 := by
  have hage := bitN_le age
  have h0 : s.arg m.val 0 = mask := hargs.word 0
  have h1 : s.arg m.val 1 = BitVec.ofNat 64 (k + slot * 2 ^ 16 + bitN age * 2 ^ 31) := hargs.word 1
  have hk' : bitsOf (s.arg m.val 1) 0 4 = k := by rw [h1, bitsOf_ofNat _ _ _ (by decide)]; omega
  have hslot' : bitsOf (s.arg m.val 1) 16 13 = slot := by rw [h1, bitsOf_ofNat _ _ _ (by decide)]; omega
  have hage' : bitAt (s.arg m.val 1) 31 = age := by
    rw [h1]
    exact bitAt_ofNat_of_div (by decide) (by omega)
  have hwithin : Within (k + (slot + bitN age * 2 ^ 15) * 2 ^ 16) 0x9FFF000F :=
    Within.add (k := 16) (Within.of_lt (k := 4) hk) (Within.add (k := 15) (Within.of_lt (k := 13) (by omega))
      (Within.of_lt (k := 1) (by omega)) (by omega) (by decide)) (by omega) (by decide)
  have hrsvd : argRsvd s m.val 1 0x9FFF000F = false := argRsvd_of_within
    (h1.trans (congrArg (BitVec.ofNat 64) (by omega))) hwithin
  rw [State.seqSel]
  simp only [hk', hslot', hage', h0, hrsvd, hvalid, hkind, decide_true, Bool.and_self, Bool.not_true, Bool.false_eq_true,
    if_false]
  rfl

/-! ### TIME_CONFIG and SUPERVISE_SET -/

theorem State.supervise_passes {rd v : Word} (hargs : s.Args m [rd, v]) (hrd : rd &&& ~~~BitVec.ofNat 64 0xFFFFFFF1 = 0)
    (hv : v &&& ~~~BitVec.ofNat 64 0xF1 = 0) : s.supervise m.val = State.finish { s with
      folio := { s.folio with rdCtrl := rd }
      huv := { s.huv with reintEn := bitAt v 0, reintMax := bitsOf v 4 4 } } m.val 0 [rd, v] := by
  have h0 : s.arg m.val 0 = rd := hargs.word 0
  have h1 : s.arg m.val 1 = v := hargs.word 1
  rw [State.supervise]
  simp only [h0, h1, argRsvd_of_clean h0 hrd, argRsvd_of_clean h1 hv, Bool.or_self, Bool.false_eq_true, if_false]
  exact congrArg (fun w => State.finish _ m.val 0 [w, v]) h0

end commands

end Sys2Proof.Machine
end

section
/-! The obligation of the commands that set the part up. -/

namespace Sys2Proof.HuvasCommands

open Sys2Proof.Machine

/-- Settles O46: each command by the lemma of its passing arguments, and what its loop has changed. -/
theorem setupCommandsComplete : Obligations.SetupCommandsComplete := by
  refine ⟨fun s m ws first n host hb hargs hf hn hfn hhost hbus hlen hgood => ?rubric,
    fun s m ws first n host hb hargs hf hn hfn hhost hbus hlen hrsv hdown => ?vslot, fun s m k w0 w1 hb => ?mirror,
    fun s m mask va i hb hargs hidle => ?lslotOff, fun s m mask w va hb hargs hen hclean hidle => ?lslotOn,
    fun s m mask k slot age hb hargs hvalid hkind => ?seq, fun s m hb hcheck => ?time, fun s m rd v hb hargs hrd hv => ?supervise⟩
  case rubric =>
    refine ⟨_, .of_eq ((runCommand_of_begins hb _).trans (congrArg Host.Outcome.next
      (State.rubricSet_passes hargs hf hn hfn hhost hbus hlen hgood))), fun c => ?_, ?_⟩
    · refine (State.forAll_get_from (upd := fun k t => t.modRb k (fun c =>
        { c with entry := only 0xFFF7F (ws.getD (k - first) 0) ||| (c.entry &&& 0x100000) })) State.rbClass
        (fun k c => { c with entry := only 0xFFF7F (ws.getD (k - first) 0) ||| (c.entry &&& 0x100000) })
        (fun n t => t.modRb_rbClass_same n _) (fun n k t h => t.modRb_rbClass_other _ h) first n s c).symm.trans ?_ |>.symm
      simp only [Nat.add_sub_cancel_left]
    · exact State.forAll_of_turn (P := fun t => { t with huv := { t.huv with rb := s.huv.rb } } = s) (fun _ _ h => h) rfl
  case vslot =>
    refine ⟨s.vslotsLoaded first n ws, State.forAll_of_turn (P := fun t => { t with vt := s.vt } = s) (fun _ _ h => h) rfl,
      fun k => ?_, fun hbroken => .of_eq ((runCommand_of_begins hb _).trans (congrArg Host.Outcome.next
        (State.vslotSet_passes hargs hf hn hfn hhost hbus hlen hrsv hdown hbroken)))⟩
    have hslot := State.forAll_get_from (upd := fun k t => t.modVslot k (fun v =>
      v.load (ws.getD (2 * (k - first)) 0) (ws.getD (2 * (k - first) + 1) 0))) State.vslot
      (fun k v => v.load (ws.getD (2 * (k - first)) 0) (ws.getD (2 * (k - first) + 1) 0))
      (fun n t => State.modVslot_vslot_same) (fun n k t h => State.modVslot_vslot_other h) first n s k
    simp only [Nat.add_sub_cancel_left] at hslot
    refine hslot.trans ?_
    split
    case isTrue hk => exact VSlot.load_eq _ (hrsv (k - first) (by omega))
    case isFalse => rfl
  case mirror =>
    intro p x hargs hon hon1 hcopies
    refine ⟨s.setMasks p w0 w1, .of_eq ((runCommand_of_begins hb _).trans (congrArg Host.Outcome.next
      (State.mirrorSet_passes (by omega) (by omega) hargs hon hon1 hcopies))), State.setMasks_spec p w0 w1⟩
  case lslotOff =>
    have hi : bitsOf (BitVec.ofNat 64 i.val) 0 3 = i.val := by rw [bitsOf_ofNat _ _ _ (by decide)]; omega
    have hoff : bitAt (BitVec.ofNat 64 i.val) 3 = false := bitAt_ofNat_of_div (by decide) (by show _ = 0; omega)
    have hfield : bitsOf (BitVec.ofNat 64 i.val) 8 8 = 0 := by rw [bitsOf_ofNat _ _ _ (by decide)]; omega
    have hclean : BitVec.ofNat 64 i.val &&& ~~~BitVec.ofNat 64 0xFF0F = 0 := Within.clean
      (Within.add (k := 8) (b := 0) (mb := 0xFF) (Within.of_lt (k := 4) (by omega)) (Within.of_lt (k := 8) (by decide))
        (by omega) (by decide) : Within (i.val + 0 * 2 ^ 8) 0xFF0F)
    let w : Word := BitVec.ofNat 64 (bitsOf va 12 45 * 4096)
    have hw : bitAt w 0 = false := bitAt_ofNat_of_div (by decide) (by show _ = 0; omega)
    have hrow := State.lslotSet_idle hargs hclean hidle (by rw [hoff]; nofun)
    rw [hi, hoff, hfield] at hrow
    have hword : wordN (bitN false + 0 * 4 + bitsOf va 12 45 * 4096) = w := congrArg (BitVec.ofNat 64) (by show 0 + _ + _ = _; omega)
    rw [hword] at hrow
    have hpen := State.forAll_get (upd := fun p t => t.setLslot p i.val w) State.pen (fun _ x => x.setLslot i.val w)
      (fun n t => by rw [State.setLslot_off hw, State.modPen_pen_same])
      (fun n k t h => by rw [State.setLslot_off hw, State.modPen_pen_other h]) (nodup_pensIn mask) s
    refine ⟨_, .of_eq ((runCommand_of_begins hb _).trans (congrArg Host.Outcome.next hrow)), ?_, fun p => ?_⟩
    · refine State.forAll_of_turn (P := fun t => { t with pens := s.pens } = s) (fun p t h => ?_) rfl
      rw [State.setLslot_off hw]
      exact h
    · split
      case isTrue hp =>
        have hx := (hpen p).trans (if_pos (mem_pensIn.mpr hp))
        rw [hx, Pen.setLslot, if_neg (ne_true_of_eq_false hw)]
        refine ⟨rfl, fun j => ?_⟩
        by_cases hj : j = i.val
        · rw [if_pos hj, hj]
          exact Table.get_set_same _ _ _ _
        · rw [if_neg hj]
          exact Table.get_set_other _ _ _ hj
      case isFalse hp => exact (hpen p).trans (if_neg (fun h => hp (mem_pensIn.mp h)))
  case lslotOn =>
    intro i ps t hgood
    refine .of_eq ((runCommand_of_begins hb _).trans (congrArg Host.Outcome.next ?_))
    have hrow := State.lslotSet_idle hargs hclean hidle
    rw [hen] at hrow
    exact hrow fun _ => hgood
  case seq =>
    refine ⟨_, .of_eq ((runCommand_of_begins hb _).trans (congrArg Host.Outcome.next
      (State.seqSel_passes k.isLt slot.isLt hargs hvalid hkind))), ?_, fun p => ?_⟩
    · exact State.forAll_of_turn (P := fun t => { t with pens := s.pens } = s) (fun _ _ h => h) rfl
    · have hpen := State.forAll_get (upd := fun p t => t.modPen p (fun x => { x with
          seqSel := Table.set (fun _ => 0) x.seqSel k.val (BitVec.ofNat 64 (slot.val + bitN age * 2 ^ 15)) })) State.pen
        (fun _ x => { x with
          seqSel := Table.set (fun _ => 0) x.seqSel k.val (BitVec.ofNat 64 (slot.val + bitN age * 2 ^ 15)) })
        (fun _ _ => State.modPen_pen_same) (fun _ _ _ h => State.modPen_pen_other h) (nodup_pensIn mask) s p
      split
      case isTrue hp =>
        rw [hpen, if_pos (mem_pensIn.mpr hp)]
        refine ⟨rfl, fun j => ?_⟩
        by_cases hj : j = k.val
        · rw [if_pos hj, hj]
          exact Table.get_set_same _ _ _ _
        · rw [if_neg hj]
          exact Table.get_set_other _ _ _ hj
      case isFalse hp => exact hpen.trans (if_neg (fun h => hp (mem_pensIn.mp h)))
  case time =>
    intro a most
    refine .of_eq ((runCommand_of_begins hb _).trans (congrArg Host.Outcome.next ((if_pos hcheck).trans ?_)))
    have hclip : clipRate (bitsOf (a 4) 0 8) s.aon.steer = max (-most) (min most s.aon.steer) := by
      rw [clipRate]
      push_cast
      rfl
    rw [State.setTime, State.boundSteer]
    dsimp only
    rw [hclip]
  case supervise =>
    exact .of_eq ((runCommand_of_begins hb _).trans (congrArg Host.Outcome.next (State.supervise_passes hargs hrd hv)))

end Sys2Proof.HuvasCommands
end

section
/-! The commands that stop the part, its pens, banks and domains (R369, R371, R372, R376 to R378). -/

namespace Sys2Proof.Machine

/-! ### How a command waits -/

theorem State.startCmd_mbox_same (s : State) (m : Nat) : (s.startCmd m).mbox m = { s.mbox m with st := .running } :=
  State.modMbox_mbox_same

theorem State.startCmd_mbox_other (s : State) {m j : Nat} (h : j ≠ m) : (s.startCmd m).mbox j = s.mbox j :=
  State.modMbox_mbox_other h

theorem State.waitFor_waits (s : State) (m : MbN) (w : Waiting) : s.NowWaits (s.waitFor m.val w) m w :=
  ⟨s.startCmd_mbox_same m.val, fun _ hj => s.startCmd_mbox_other hj, rfl⟩

theorem State.goBackground_runs (s : State) (m : MbN) : s.NowRuns (s.goBackground m.val) m :=
  ⟨s.startCmd_mbox_same m.val, fun _ hj => s.startCmd_mbox_other hj, rfl⟩

theorem State.holdCmd_held (s : State) (m : MbN) (n : Nat) : s.NowHeld (s.holdCmd m.val n) m n :=
  ⟨s.startCmd_mbox_same m.val, fun _ hj => s.startCmd_mbox_other hj, rfl⟩

/-- Without MSI-X a command only answers its mailbox. -/
theorem State.finish_of_msix_off {s : State} (h : s.hif.msixEn = false) (m code : Nat) (res : List Word) :
    s.finish m code res = s.answering m code res := by
  have hoff : (s.answering m code res).hif.msixEn = false := h
  refine (?_ : (s.answering m code res).sendMsix 0 = _)
  rw [State.sendMsix, State.msixNow, hoff]
  rfl

/-- An unpaired part tells nobody. -/
theorem State.farewell_of_unpaired {s : State} (h : s.trc.mode = 0) (reason : Nat) : s.farewell reason = s :=
  if_pos (by simp [h])

theorem State.quiesceStart_of_unpaired {s : State} (h : s.trc.mode = 0) (reason : Nat) :
    s.quiesceStart reason = { s with folio := { s.folio with swArm := false } } :=
  State.farewell_of_unpaired (s := { s with folio := { s.folio with swArm := false } }) h reason

/-- Nothing runs in the background or between its steps. -/
theorem State.endBackground_of_none {s : State} (hpass : s.blot.pass = none) (hprog : s.huv.prog = none)
    (hmarch : s.blot.marching = none) : s.endBackground = s := by
  simp only [State.endBackground, hpass, hprog, hmarch, Option.bind]

section commands

variable {s : State} {m : MbN}

theorem State.handover_args {r own : Nat} {pin : Bool} (hr : r < 32) (hown : own ≤ 64)
    (hargs : s.Args m [BitVec.ofNat 64 (r + own * 256 + bitN pin * 65536)]) :
    bitsOf (s.arg m.val 0) 0 5 = r ∧ bitsOf (s.arg m.val 0) 8 7 = own ∧ bitAt (s.arg m.val 0) 16 = pin ∧
      argRsvd s m.val 0 0x17F1F = false := by
  have hpin := bitN_le pin
  have h0 : s.arg m.val 0 = BitVec.ofNat 64 (r + own * 256 + bitN pin * 65536) := hargs.word 0
  refine ⟨?_, ?_, ?_, ?_⟩
  · rw [h0, bitsOf_ofNat _ _ _ (by decide)]
    omega
  · rw [h0, bitsOf_ofNat _ _ _ (by decide)]
    omega
  · rw [h0]
    exact bitAt_ofNat_of_div (by decide) (by omega)
  · have hw : Within (r + (own + bitN pin * 2 ^ 8) * 2 ^ 8) 0x17F1F :=
      Within.add (k := 8) (Within.of_lt (k := 5) hr) (Within.add (k := 8) (Within.of_lt (k := 7) (by omega))
        (Within.of_lt (k := 1) (by omega)) (by omega) (by decide)) (by omega) (by decide)
    exact argRsvd_of_within (h0.trans (congrArg (BitVec.ofNat 64) (by omega))) hw

/-- The reservoir's record after BANK_HANDOVER (R371). -/
def Rsv.handedOver (x : Rsv) (loaded : Bool) (own cyc : Nat) (pin : Bool) : Rsv :=
  let po := if pin = true then own else x.pinOwner
  if loaded = true then { x with owner := own, pin := pin, pinOwner := po, pinOld := (pin, po), pinAt := cyc }
  else { x with
    pin := pin, pinOwner := po, pinAt := cyc
    pinOld := if x.pinAt + 4096 ≤ cyc then (x.pin, x.pinOwner) else x.pinOld }

theorem State.handover_passes {r own : Nat} {pin : Bool} (hr : r < 32) (hown : own ≤ 64)
    (hargs : s.Args m [BitVec.ofNat 64 (r + own * 256 + bitN pin * 65536)]) :
    s.handover m.val = if s.dev = .loaded ∨ s.handoverUsed r = false
      then (s.modRsv r (fun x => x.handedOver (decide (s.dev = .loaded)) own s.cyc pin)).finish m.val 0
      else s.finish m.val 0x0901 := by
  obtain ⟨hr', hown', hpin, hrsvd⟩ := State.handover_args hr hown hargs
  rw [State.handover]
  simp only [hr', hown', hpin, hrsvd, Bool.false_eq_true, if_false, if_neg (Nat.not_lt.mpr hown)]
  by_cases hdev : s.dev = .loaded
  · rw [if_pos hdev, if_pos (.inl hdev), decide_eq_true hdev]
    rfl
  · cases hused : s.handoverUsed r with
    | true => rw [if_neg hdev, if_pos rfl, if_neg (by simp [hdev])]
    | false =>
      rw [if_neg hdev, if_neg (by simp), if_pos (.inr rfl), decide_eq_false hdev]
      rfl

theorem State.scrubStart_idle (hpass : s.blot.pass = none) (hblot : s.blotOn = true) (mb : Option Nat) :
    s.scrubStart mb = { s with blot := { s.blot with
      pass := some ⟨bitsOf s.blot.scrBase 3 45 * 8, bitsOf s.blot.scrLen 0 18, mb, false⟩, sum0 := 0, sum1 := 0, sum2 := 0 } } :=
  if_neg (by rw [hpass, hblot]; nofun)

theorem State.scrubCmd_passes {cpa n : Nat} {poison : Bool} (ha : cpa % 8 = 0) (hc : cpa < 2 ^ 48) (hn : 1 ≤ n)
    (hn' : n < 2 ^ 18) (hargs : s.Args m [BitVec.ofNat 64 cpa, BitVec.ofNat 64 (n + bitN poison * 2 ^ 24)])
    (hbank : (bankOf cpa).isSome = true) (hsame : bankOf (cpa + 8 * (n - 1)) = bankOf cpa) (hblot : s.blotOn = true)
    (hpass : s.blot.pass = none) (hon : s.bankOn cpa = true) :
    s.scrubCmd m.val = State.goBackground { s with blot := { s.blot with
      scrBase := BitVec.ofNat 64 cpa, scrLen := BitVec.ofNat 64 n, poisonUe := poison
      pass := some { base := cpa, len := n, mb := some m.val }, sum0 := 0, sum1 := 0, sum2 := 0 } } m.val := by
  have hpoison := bitN_le poison
  have h0 : s.arg m.val 0 = BitVec.ofNat 64 cpa := hargs.word 0
  have h1 : s.arg m.val 1 = BitVec.ofNat 64 (n + bitN poison * 2 ^ 24) := hargs.word 1
  have hbase : bitsOf (BitVec.ofNat 64 cpa) 3 45 * 8 = cpa := by rw [bitsOf_ofNat _ _ _ (by decide)]; omega
  have hlen : bitsOf (s.arg m.val 1) 0 18 = n := by rw [h1, bitsOf_ofNat _ _ _ (by decide)]; omega
  have hlen' : bitsOf (BitVec.ofNat 64 n) 0 18 = n := by rw [bitsOf_ofNat _ _ _ (by decide)]; omega
  have hue : bitAt (s.arg m.val 1) 24 = poison := by rw [h1]; exact bitAt_ofNat_of_div (by decide) (by omega)
  have hrsvd0 : argRsvd s m.val 0 0xFFFFFFFFFFF8 = false := by
    have hw : Within (0 + cpa / 8 * 2 ^ 3) 0xFFFFFFFFFFF8 :=
      Within.add (k := 3) (ma := 0) (Within.of_lt (k := 0) (by decide)) (Within.of_lt (k := 45) (by omega)) (by decide) (by decide)
    exact argRsvd_of_within (h0.trans (congrArg (BitVec.ofNat 64) (by omega))) hw
  have hrsvd1 : argRsvd s m.val 1 0x103FFFF = false := argRsvd_of_within h1
    (Within.add (k := 24) (Within.of_lt (k := 18) hn') (Within.of_lt (k := 1) (by omega)) (by omega) (by decide))
  have hnone : (bankOf cpa).isNone = false := by rw [← Option.not_isSome, hbank]; rfl
  have hzero : (decide (n = 0) || (bankOf cpa).isNone) = false := by rw [decide_eq_false (by omega), hnone]; rfl
  rw [State.scrubCmd]
  simp only [h0, hbase, hlen, hue, hrsvd0, hrsvd1, hzero, hsame, hblot, hpass, hon, Bool.or_self, Bool.false_eq_true, if_false,
    ne_eq, not_true_eq_false, Bool.not_true, Option.isSome_none]
  refine congrArg (fun t => State.goBackground t m.val) ?_
  rw [State.scrubStart_idle]
  case hpass => rfl
  case hblot => exact hblot
  dsimp only [wordN]
  rw [hbase, hlen']

theorem State.marchCmd_passes {p b : Nat} (hp : p < 64) (hb : b < 2) (hargs : s.Args m [BitVec.ofNat 64 (p + b * 256)])
    (hblot : s.blotOn = true) (hfree : s.marchBusy p = false) (hon : s.penOn p = true) :
    s.marchCmd m.val = State.goBackground { s with blot := { s.blot with
      marching := some { mb := m.val, pen := p, bank := b } } } m.val := by
  have h0 : s.arg m.val 0 = BitVec.ofNat 64 (p + b * 256) := hargs.word 0
  have hpen : bitsOf (s.arg m.val 0) 0 6 = p := by rw [h0, bitsOf_ofNat _ _ _ (by decide)]; omega
  have hbank : bitsOf (s.arg m.val 0) 8 1 = b := by rw [h0, bitsOf_ofNat _ _ _ (by decide)]; omega
  have hrsvd : argRsvd s m.val 0 0x13F = false := argRsvd_of_within h0
    (Within.add (k := 8) (Within.of_lt (k := 6) hp) (Within.of_lt (k := 1) (by omega)) (by omega) (by decide))
  rw [State.marchCmd]
  simp only [hpen, hbank, hrsvd, hblot, hfree, hon, Bool.false_eq_true, if_false, Bool.not_true]

/-! ### POWER of one reservoir pair -/

theorem bitAt_and_not {a b : Word} {i : Nat} (hi : i < 64) : bitAt (a &&& ~~~b) i = (bitAt a i && !bitAt b i) := by
  simp [bitAt, hi]

theorem bitAt_two_pow (k i : Nat) (hi : i < 64) : bitAt (BitVec.ofNat 64 (2 ^ k)) i = decide (k = i) := by
  rw [bitAt, BitVec.getLsbD_ofNat, Nat.testBit_two_pow, decide_eq_true hi, Bool.true_and]

theorem bitAt_setBit (w : Word) {k : Nat} (b : Bool) (hk : k < 64) (i : Nat) :
    bitAt (setBit w k b) i = if k = i then b else bitAt w i := by
  rw [setBit, bitAt_setBits w k 1 (bitN b) i (by omega)]
  by_cases h : k = i
  · rw [if_pos (by omega), if_pos h, h, Nat.sub_self]
    cases b <;> rfl
  · rw [if_neg (by omega), if_neg h]

/-- The request bits with bit `k` switched on or off. -/
theorem requested_eq_setBit (w : Word) {k : Nat} (hk : k < 64) (on : Bool) :
    (if on then w ||| BitVec.ofNat 64 (2 ^ k) else w &&& ~~~BitVec.ofNat 64 (2 ^ k)) = setBit w k on := by
  refine BitVec.eq_of_getLsbD_eq fun i hi => ?_
  refine Eq.trans ?_ (bitAt_setBit w on hk i).symm
  have hpow := bitAt_two_pow k i hi
  cases on with
  | true =>
    rw [if_pos rfl, BitVec.getLsbD_or, show (BitVec.ofNat 64 (2 ^ k)).getLsbD i = decide (k = i) from hpow]
    by_cases h : k = i <;> simp [h, bitAt]
  | false =>
    refine (bitAt_and_not hi).trans ?_
    rw [hpow]
    by_cases h : k = i <;> simp [h]

/-- The only domain whose bit is `k` is reservoir pair `k`. -/
theorem pairOrder_of_bit : ∀ k : Fin 16, pairOrder.filter (fun d => decide (domainBit d = k.val)) = [.rsvPair k] := by decide

/-- A request for the pens as they stand queues nothing. -/
theorem State.domainRequest_same (hlock : s.pwr.lock = false)
    (hpen : s.pwr.reqPen &&& s.penMask (fun p => p.st = .fenced) = 0) : s.domainRequest false s.pwr.reqPen = s := by
  have hkeep : s.pwr.reqPen &&& ~~~s.penMask (fun p => p.st = .fenced) = s.pwr.reqPen := by
    refine BitVec.eq_of_getLsbD_eq fun i hi => ?_
    have h := congrArg (fun w : Word => w.getLsbD i) hpen
    simp only [BitVec.getLsbD_and, BitVec.getLsbD_not, hi, decide_true, Bool.true_and] at h ⊢
    cases hr : s.pwr.reqPen.getLsbD i <;> simp_all
  have hnone : (List.finRange 64).filter (fun n : Fin 64 => decide (bitAt s.pwr.reqPen n.val ≠ bitAt s.pwr.reqPen n.val)) = [] :=
    List.filter_eq_nil_iff.mpr fun n _ => by simp
  rw [State.domainRequest, rwl, if_neg (ne_true_of_eq_false hlock)]
  simp only [Bool.false_eq_true, if_false, hkeep, hnone, List.map_nil, List.append_nil]

/-- A request that changes the bit of one reservoir pair queues that domain. -/
theorem State.domainRequest_pair (hlock : s.pwr.lock = false) (hother : s.pwr.reqOther &&& ~~~0x7FFFFF = 0) (k : Fin 16)
    (on : Bool) (hbit : bitAt s.pwr.reqOther k.val = !on) :
    s.domainRequest true (setBit s.pwr.reqOther k.val on) = { s with pwr := { s.pwr with
      reqOther := setBit s.pwr.reqOther k.val on, queue := s.pwr.queue ++ [(.rsvPair k, on)] } } := by
  have hset (i : Nat) := bitAt_setBit s.pwr.reqOther on (k := k.val) (by omega) i
  have honly : only 0x7FFFFF (setBit s.pwr.reqOther k.val on) = setBit s.pwr.reqOther k.val on := by
    refine BitVec.eq_of_getLsbD_eq fun i hi => ?_
    have hmask : (BitVec.ofNat 64 0x7FFFFF).getLsbD i = decide (i < 23) := by
      rw [BitVec.getLsbD_ofNat, decide_eq_true hi, Bool.true_and]
      exact Nat.testBit_two_pow_sub_one 23 i
    have h : (bitAt s.pwr.reqOther i && !decide (i < 23)) = false := by
      rw [← hmask]
      refine (bitAt_and_not hi).symm.trans ?_
      exact (congrArg (fun w : Word => bitAt w i) hother).trans BitVec.getLsbD_zero
    rw [only, BitVec.getLsbD_and, hmask]
    refine Eq.trans (congrArg (· && decide (i < 23)) (hset i)) (Eq.trans ?_ (hset i).symm)
    by_cases hk : k.val = i
    · rw [decide_eq_true (show i < 23 by omega), Bool.and_true]
    · rw [if_neg hk]
      cases hw : bitAt s.pwr.reqOther i <;> simp_all
  have hch : pairOrder.filter (fun d => decide (bitAt (setBit s.pwr.reqOther k.val on) (domainBit d) ≠
      bitAt s.pwr.reqOther (domainBit d))) = [.rsvPair k] := by
    rw [← pairOrder_of_bit k]
    refine List.filter_congr fun d _ => decide_eq_decide.mpr ?_
    rw [hset]
    by_cases h : k.val = domainBit d
    · rw [if_pos h, ← h, hbit]
      cases on <;> simp
    · rw [if_neg h]
      simp [Ne.symm h]
  have hk : bitAt (setBit s.pwr.reqOther k.val on) (domainBit (.rsvPair k)) = on := (hset k.val).trans (if_pos rfl)
  rw [State.domainRequest, rwl, if_neg (ne_true_of_eq_false hlock)]
  simp only [if_true, honly, hch, List.map_cons, List.map_nil, hk]

theorem State.requestDomains_pair (hargs0 : s.arg m.val 0 = 0) (k : Fin 16) (on : Bool)
    (hargs1 : s.arg m.val 1 = BitVec.ofNat 64 (2 ^ k.val)) (hother : s.pwr.reqOther &&& ~~~0x7FFFFF = 0)
    (hpen : s.pwr.reqPen &&& s.penMask (fun p => p.st = .fenced) = 0) (hbit : bitAt s.pwr.reqOther k.val = !on) :
    s.requestDomains m.val on = { s with pwr := { s.pwr with
      lock := true, reqOther := setBit s.pwr.reqOther k.val on, queue := s.pwr.queue ++ [(Domain.rsvPair k, on)] } } := by
  have hpens : (if on then s.pwr.reqPen ||| s.arg m.val 0 else s.pwr.reqPen &&& ~~~s.arg m.val 0) = s.pwr.reqPen := by
    rw [hargs0]
    cases on
    · exact (congrArg (s.pwr.reqPen &&& ·) BitVec.not_zero).trans BitVec.and_allOnes
    · exact BitVec.or_zero
  have hothers : (if on then s.pwr.reqOther ||| s.arg m.val 1 else s.pwr.reqOther &&& ~~~s.arg m.val 1) =
      setBit s.pwr.reqOther k.val on := by
    rw [hargs1]
    exact requested_eq_setBit _ (by omega) on
  rw [State.requestDomains, hpens, hothers]
  have hopen := State.domainRequest_same (s := { s with pwr := { s.pwr with lock := false } }) rfl hpen
  have hpair := State.domainRequest_pair (s := { s with pwr := { s.pwr with lock := false } }) rfl hother k on hbit
  refine (congrArg (fun t : State => ({ t with pwr := { t.pwr with lock := true } } : State))
    ((congrArg (fun t => State.domainRequest t true _) hopen).trans hpair)).trans rfl

theorem State.powerCmd_pair (k : Fin 16) (on : Bool)
    (hargs : s.Args m [0, BitVec.ofNat 64 (2 ^ k.val), if on = true then 1 else 0]) (hrun : s.dev = .run → on = true)
    (hother : s.pwr.reqOther &&& ~~~0x7FFFFF = 0) (hpen : s.pwr.reqPen &&& s.penMask (fun p => p.st = .fenced) = 0)
    (hbit : bitAt s.pwr.reqOther k.val = !on) :
    s.powerCmd m.val = State.waitFor { s with pwr := { s.pwr with
      lock := true, reqOther := setBit s.pwr.reqOther k.val on
      queue := s.pwr.queue ++ [(Domain.rsvPair k, on)] } } m.val (.power m.val) := by
  have h0 : s.arg m.val 0 = 0 := hargs.word 0
  have h1 : s.arg m.val 1 = BitVec.ofNat 64 (2 ^ k.val) := hargs.word 1
  have h2 : s.arg m.val 2 = BitVec.ofNat 64 (bitN on) := (hargs.word 2).trans (by cases on <;> rfl)
  have hon := bitN_le on
  have hrsvd1 : argRsvd s m.val 1 0x7FFFFF = false :=
    argRsvd_of_within h1 (Within.of_lt (k := 23) (Nat.pow_lt_pow_right (by decide) (by omega)))
  have hrsvd2 : argRsvd s m.val 2 1 = false := argRsvd_of_within h2 (Within.of_lt (k := 1) (by omega))
  have hon' : bitAt (s.arg m.val 2) 0 = on := by rw [h2]; exact bitAt_ofNat_of_div (by decide) (by omega)
  have hnamed : s.namedDomains m.val = [.rsvPair k] := by
    have hpens : (List.finRange 64).filter (fun n => bitAt (0 : Word) n.val) = [] :=
      List.filter_eq_nil_iff.mpr fun n _ => ne_true_of_eq_false BitVec.getLsbD_zero
    have hbound : ∀ d ∈ pairOrder, domainBit d < 64 := by decide
    rw [State.namedDomains, h0, h1, hpens, ← pairOrder_of_bit k, List.map_nil, List.nil_append]
    refine List.filter_congr fun d hd => (bitAt_two_pow k.val _ (hbound d hd)).trans ?_
    exact decide_eq_decide.mpr eq_comm
  have hfenced : (on && (List.finRange 64).any (fun n => bitAt (s.arg m.val 0) n.val && decide ((s.pen n.val).st = .fenced))) = false := by
    rw [h0, Bool.and_eq_false_iff]
    exact .inr (List.any_eq_false.mpr fun n _ => by simp [bitAt])
  have hused : (!on && [Domain.rsvPair k].any s.domainInUse) = false := by
    cases on with
    | true => rfl
    | false =>
      have hdev : s.dev ≠ .run := fun h => nomatch hrun h
      simp [State.domainInUse, hdev]
  rw [State.powerCmd]
  simp only [hrsvd1, hrsvd2, hon', hnamed, hfenced, hused, Bool.or_self, Bool.false_eq_true, if_false,
    State.requestDomains_pair h0 k on h1 hother hpen hbit]
  refine if_pos ?_
  rw [Bool.or_eq_true, decide_eq_true_iff]
  exact .inl (List.append_ne_nil_of_right_ne_nil _ (List.cons_ne_nil _ _))

/-- A pen that does not hold a valid copy of a stale partner returns to service as IDLE. -/
theorem State.restartPen_spec {p : Nat} (hdev : s.dev = .loaded) (hst : (s.pen p).st = .stopped)
    (hfresh : (s.pen p).stale = false ∨ s.hasMirror p = false) :
    OnlyPens [p] s (s.restartPen p) ∧ (s.restartPen p).pen p = { s.pen p with st := .idle, handAt := none } := by
  let t := s.modPen p (fun x => { x with handAt := none })
  have hmirror : t.hasMirror p = s.hasMirror p := by
    rw [State.hasMirror, State.hasMirror]
    by_cases he : evenOf p = p
    · rw [he, State.modPen_pen_same]
    · rw [State.modPen_pen_other he]
  have hno : ((t.pen p).stale && t.hasMirror p && t.copyValid (otherOf p)) = false := by
    rw [hmirror, show (t.pen p).stale = (s.pen p).stale by rw [State.modPen_pen_same]]
    obtain h | h := hfresh <;> simp [h]
  have ht : s.restartPen p = t.modPen p (fun x => { x with st := .idle }) :=
    (if_pos (by simp [hdev, hst])).trans (if_neg (ne_true_of_eq_false hno))
  rw [ht]
  refine ⟨((OnlyPens.refl _ s).modPen List.mem_cons_self).modPen List.mem_cons_self, ?_⟩
  rw [State.modPen_pen_same, State.modPen_pen_same]

theorem State.penControl_args {p k : Nat} (hp : p < 64) (hk : k = 1 ∨ k = 2)
    (hargs : s.Args m [BitVec.ofNat 64 (p + k * 256)]) : bitsOf (s.arg m.val 0) 0 6 = p ∧
      bitAt (s.arg m.val 0) 8 = decide (k = 1) ∧ bitAt (s.arg m.val 0) 9 = decide (k = 2) ∧ argRsvd s m.val 0 0x33F = false := by
  have h0 : s.arg m.val 0 = BitVec.ofNat 64 (p + k * 256) := hargs.word 0
  refine ⟨?_, ?_, ?_, argRsvd_of_within h0 (Within.add (k := 8) (Within.of_lt (k := 6) hp) (Within.of_lt (k := 2) (by omega))
    (by omega) (by decide))⟩
  · rw [h0, bitsOf_ofNat _ _ _ (by decide)]
    omega
  · rw [h0, bitAt_ofNat _ _ (by decide)]
    exact decide_eq_decide.mpr (by omega)
  · rw [h0, bitAt_ofNat _ _ (by decide)]
    exact decide_eq_decide.mpr (by omega)

end commands

end Sys2Proof.Machine
end

section
/-! The obligation of the control commands. -/

namespace Sys2Proof.HuvasCommands

open Sys2Proof.Machine

/-- Settles O48: each command by the lemma of its passing arguments and of how it waits. -/
theorem controlCommandsComplete : Obligations.ControlCommandsComplete := by
  refine ⟨fun s m en hmode => ?stops, fun s m r own pin hb hown hargs => ?handover,
    fun s m cpa n poison hb ha hc hn hn' hargs hbank hsame hblot hpass hon => ?scrub,
    fun s m p b hb hargs hblot hmarch hst hon => ?march, fun s m p hb => ?pen, fun s m k on hb hargs hrun hother hpen hbit => ?power⟩
  case stops =>
    intro u
    have hstart (reason : Nat) : s.quiesceStart reason = u := State.quiesceStart_of_unpaired hmode reason
    refine ⟨fun hb hdev => ?_, fun hb hdev => .of_eq ?_, fun hb hargs => ?dormant, fun hb hargs => ?debug⟩
    · refine ⟨u.waitFor m.val _, (runCommand_of_begins hb _).trans (congrArg Host.Outcome.next ?_), u.waitFor_waits m _⟩
      rw [State.quiesceCmd, if_pos hdev, hstart]
    · refine (runCommand_of_begins hb _).trans (congrArg Host.Outcome.next (if_neg ?_))
      rw [hdev]
      nofun
    case dormant =>
      have h0 : s.arg m.val 0 = BitVec.ofNat 64 en.val := hargs.word 0
      have hrsvd : argRsvd s m.val 0 7 = false := argRsvd_of_within h0 (Within.of_lt (k := 3) (by omega))
      have hen : bitsOf (s.arg m.val 0) 0 3 = en.val := by rw [h0, bitsOf_ofNat _ _ _ (by decide)]; omega
      refine ⟨fun hdev => ?_, fun hdev hmsix => ?_⟩
      · refine ⟨u.waitFor m.val _, (runCommand_of_begins hb _).trans (congrArg Host.Outcome.next ?_), u.waitFor_waits m _⟩
        rw [State.dormantCmd, if_neg (ne_true_of_eq_false hrsvd), if_pos hdev, hstart]
      · refine ⟨_, s.answering_answered m.val 0 [], (runCommand_of_begins hb _).trans (congrArg Host.Outcome.next ?_)⟩
        rw [State.dormantCmd, if_neg (ne_true_of_eq_false hrsvd), if_neg hdev, State.goDormant, hen,
          State.finish_of_msix_off hmsix]
        rfl
    case debug =>
      have h0 : s.arg m.val 0 = BitVec.ofNat 64 (bitsOf Config.fuses.serial 0 32) := hargs.word 0
      have h1 : s.arg m.val 1 = 0x44424745 := hargs.word 1
      have hkey : (decide (bitsOf Config.fuses.serial 0 32 ≠ (s.arg m.val 0).toNat) || decide (s.arg m.val 1 ≠ 0x44424745)) = false := by
        have hlt : bitsOf Config.fuses.serial 0 32 < 2 ^ 32 := Nat.mod_lt _ (by decide)
        rw [h0, h1, BitVec.toNat_ofNat, Nat.mod_eq_of_lt (by omega)]
        simp
      refine ⟨fun hdev => ?_, fun hdev hpass hmarch hprog => .of_eq ?_⟩
      · refine ⟨u.waitFor m.val _, (runCommand_of_begins hb _).trans (congrArg Host.Outcome.next ?_), u.waitFor_waits m _⟩
        rw [State.debugCmd, if_neg (ne_true_of_eq_false hkey), if_pos hdev, hstart]
      · refine (runCommand_of_begins hb _).trans (congrArg Host.Outcome.next ?_)
        rw [State.debugCmd, if_neg (ne_true_of_eq_false hkey), if_neg hdev, State.farewell_of_unpaired hmode]
        exact congrArg (fun t => State.finish t m.val 0) (State.endBackground_of_none (s := { s with dev := .debug }) hpass hprog hmarch)
  case handover =>
    intro x po
    have hrow := (runCommand_of_begins hb (fun s => s.handover m.val)).trans (congrArg Host.Outcome.next (State.handover_passes r.isLt hown hargs))
    refine ⟨fun hdev hused => .of_eq (hrow.trans ?_), fun hfree => ?_⟩
    · rw [if_neg (by simp [hdev, hused])]
    · rw [if_pos hfree] at hrow
      refine ⟨_, .of_eq hrow, rfl, fun j hj => State.modRsv_rsvOf_other hj, State.modRsv_rsvOf_same.trans ?_⟩
      rw [Rsv.handedOver]
      simp only [decide_eq_true_iff]
      rfl
  case scrub =>
    exact ⟨_, (runCommand_of_begins hb _).trans (congrArg Host.Outcome.next
      (State.scrubCmd_passes ha hc hn hn' hargs hbank hsame hblot hpass hon)), State.goBackground_runs _ m⟩
  case march =>
    have hfree : s.marchBusy p.val = false := by
      rw [State.marchBusy, hmarch]
      cases h : (s.pen p.val).st <;> simp [h] at hst ⊢
    exact ⟨_, (runCommand_of_begins hb _).trans (congrArg Host.Outcome.next
      (State.marchCmd_passes p.isLt b.isLt hargs hblot hfree hon)), State.goBackground_runs _ m⟩
  case pen =>
    refine ⟨fun hargs hdev hst hfresh => ?_, fun hargs => .of_eq ?_⟩
    · obtain ⟨hp, h8, h9, hrsvd⟩ := State.penControl_args (k := 1) p.isLt (.inl rfl) hargs
      obtain ⟨honly, hpen⟩ := State.restartPen_spec hdev hst hfresh
      refine ⟨_, .of_eq ((runCommand_of_begins hb _).trans (congrArg Host.Outcome.next ?_)), honly, hpen⟩
      rw [State.penControl]
      simp only [hp, h8, h9, hrsvd, hdev, hst, decide_true, Bool.false_eq_true, if_false, if_true, ne_eq, not_true_eq_false]
      rfl
    · obtain ⟨hp, h8, h9, hrsvd⟩ := State.penControl_args (k := 2) p.isLt (.inr rfl) hargs
      refine (runCommand_of_begins hb _).trans (congrArg Host.Outcome.next ?_)
      rw [State.penControl]
      simp only [hp, h8, h9, hrsvd, Bool.false_eq_true, if_false]
      rfl
  case power =>
    exact ⟨_, (runCommand_of_begins hb (fun s => s.powerCmd m.val)).trans (congrArg Host.Outcome.next
      (State.powerCmd_pair k on hargs hrun hother hpen hbit)), State.waitFor_waits _ m _⟩

end Sys2Proof.HuvasCommands
end

section
/-! Words that the Huvas stores and reads (R105, R297, R361). -/

namespace Sys2Proof.Machine

theorem State.peek_of_div {s : State} {a b : Nat} (h : a / 8 = b / 8) : s.peek a = s.peek b := by
  rw [State.peek, State.peek, State.peekCode, State.peekCode, cpaFold, cpaFold, h]

/-- A run of stores of the Huvas at single copies. -/
def State.puts (s : State) (l : List (Nat × TWord)) : State := l.foldl (fun t x => t.huvasPut x.1 x.2) s

/-- Nothing but the banks, and which of their words wait for the judgement of an injection, differs. -/
def OnlyBanks (s t : State) : Prop :=
  { t with mem := s.mem, blot := s.blot } = s ∧ { t.blot with injected := s.blot.injected } = s.blot

theorem OnlyBanks.refl (s : State) : OnlyBanks s s := ⟨rfl, rfl⟩

theorem OnlyBanks.trans {s t u : State} (h : OnlyBanks s t) (h' : OnlyBanks t u) : OnlyBanks s u := by
  obtain ⟨hs, hb⟩ := h
  obtain ⟨ht, hb'⟩ := h'
  refine ⟨(congrArg (fun v : State => ({ v with mem := s.mem, blot := s.blot } : State)) ht).trans hs, ?_⟩
  exact (congrArg (fun v : Blot => ({ v with injected := s.blot.injected } : Blot)) hb').trans hb

/-- What an access finds of a bank depends on neither. -/
theorem OnlyBanks.same {s t : State} (h : OnlyBanks s t) :
    t.bankReady = s.bankReady ∧ t.armAt = s.armAt ∧ t.writeAt = s.writeAt := by
  obtain ⟨hs, -⟩ := h
  exact ⟨(congrArg State.bankReady hs :), (congrArg State.armAt hs :), (congrArg State.writeAt hs :)⟩

theorem State.huvasPut_plain {s : State} {a : Nat} {w : TWord} (hr : s.bankReady a = true) (ha : s.armAt a = none) :
    s.huvasPut a w = (s.poke a w).markInjected a false := by
  rw [State.huvasPut, hr, ha]
  rfl

theorem onlyBanks_poke (s : State) (a : Nat) (w : TWord) : OnlyBanks s (s.poke a w) := by
  refine ⟨congrArg (fun v : State => ({ v with blot := s.blot } : State)) (State.poke_back s a w), ?_⟩
  rw [State.poke_blot]

theorem onlyBanks_markInjected (s : State) (a : Nat) (v : Bool) : OnlyBanks s (s.markInjected a v) := ⟨rfl, rfl⟩

theorem State.huvasPut_onlyBanks {s : State} {a : Nat} {w : TWord} (hr : s.bankReady a = true) (ha : s.armAt a = none) :
    OnlyBanks s (s.huvasPut a w) := by
  rw [State.huvasPut_plain hr ha]
  exact (onlyBanks_poke s a w).trans (onlyBanks_markInjected _ a false)

@[simp] theorem State.markInjected_peekCode {s : State} {a c : Nat} {v : Bool} :
    (s.markInjected a v).peekCode c = s.peekCode c := rfl

theorem State.puts_cons (s : State) (x : Nat × TWord) (l : List (Nat × TWord)) :
    s.puts (x :: l) = (s.huvasPut x.1 x.2).puts l := rfl

theorem State.peek_of_code {s t : State} {a : Nat} (h : t.peekCode a = s.peekCode a) : t.peek a = s.peek a := by
  rw [State.peek, h, State.peek]

/-- A run of stores into ready, unarmed banks that agree where they meet. -/
theorem State.puts_spec {l : List (Nat × TWord)} {s : State} (hready : ∀ x ∈ l, s.bankReady x.1 = true ∧ s.armAt x.1 = none)
    (hagree : ∀ x ∈ l, ∀ y ∈ l, x.1 / 8 = y.1 / 8 → x.2 = y.2) :
    OnlyBanks s (s.puts l) ∧ (∀ x ∈ l, (s.puts l).peek x.1 = .clean x.2) ∧
      ∀ c, (∀ x ∈ l, c / 8 ≠ x.1 / 8) → (s.puts l).peekCode c = s.peekCode c := by
  induction l generalizing s with
  | nil => exact ⟨OnlyBanks.refl s, nofun, fun _ _ => rfl⟩
  | cons x l ih =>
    obtain ⟨hr, ha⟩ := hready x List.mem_cons_self
    have honly : OnlyBanks s (s.huvasPut x.1 x.2) := State.huvasPut_onlyBanks hr ha
    obtain ⟨hready', harm', -⟩ := honly.same
    rw [State.puts_cons]
    obtain ⟨hl, hpeek, hcode⟩ := ih (s := s.huvasPut x.1 x.2)
      (fun y hy => by rw [hready', harm']; exact hready y (List.mem_cons_of_mem _ hy))
      (fun y hy z hz => hagree y (List.mem_cons_of_mem _ hy) z (List.mem_cons_of_mem _ hz))
    refine ⟨honly.trans hl, fun y hy => ?_, fun c hc => ?_⟩
    · obtain rfl | hy := List.mem_cons.mp hy
      · by_cases hlater : ∃ z ∈ l, y.1 / 8 = z.1 / 8
        · obtain ⟨z, hz, hdiv⟩ := hlater
          rw [State.peek_of_div hdiv, hpeek z hz, hagree y List.mem_cons_self z (List.mem_cons_of_mem _ hz) hdiv]
        · have hkeep := hcode y.1 fun z hz hdiv => hlater ⟨z, hz, hdiv⟩
          have hput : (s.huvasPut y.1 y.2).peek y.1 = .clean y.2 := by
            rw [State.huvasPut_plain hr ha]
            exact (State.peek_of_code State.markInjected_peekCode).trans State.poke_peek_same
          exact (State.peek_of_code hkeep).trans hput
      · exact hpeek y hy
    · rw [hcode c fun z hz => hc z (List.mem_cons_of_mem _ hz), State.huvasPut_plain hr ha,
        State.markInjected_peekCode, State.poke_peekCode_other (hc x List.mem_cons_self)]

/-- A list of Huvas stores, copy by copy. -/
theorem State.forAll_huvasStore (g : Nat × Nat → TWord) {l : List (Nat × Nat)} {s : State}
    (hready : ∀ e ∈ l, ∀ d ∈ s.writeAt e.1, s.bankReady d = true ∧ s.armAt d = none) :
    s.forAll l (fun e u => u.huvasStore e.1 (g e)) = s.puts (l.flatMap (fun e => (s.writeAt e.1).map (fun d => (d, g e)))) := by
  induction l generalizing s with
  | nil => rfl
  | cons e l ih =>
    have hstep : s.huvasStore e.1 (g e) = s.puts ((s.writeAt e.1).map (fun d => (d, g e))) := by
      rw [State.puts, List.foldl_map]
      rfl
    have honly : OnlyBanks s (s.huvasStore e.1 (g e)) := by
      rw [hstep]
      refine (State.puts_spec (fun x hx => ?_) fun x hx y hy _ => ?_).1
      · obtain ⟨d, hd, rfl⟩ := List.mem_map.mp hx
        exact hready e List.mem_cons_self d hd
      · obtain ⟨d, -, rfl⟩ := List.mem_map.mp hx
        obtain ⟨d', -, rfl⟩ := List.mem_map.mp hy
        rfl
    obtain ⟨hready', harm', hwrite'⟩ := honly.same
    have hrest := ih (s := s.huvasStore e.1 (g e)) (fun a ha d hd => by
      rw [hready', harm']
      exact hready a (List.mem_cons_of_mem _ ha) d (hwrite' ▸ hd))
    refine Eq.trans (b := (s.huvasStore e.1 (g e)).forAll l (fun e u => u.huvasStore e.1 (g e))) rfl (hrest.trans ?_)
    rw [hwrite', List.flatMap_cons, State.puts, State.puts, List.foldl_append, hstep]
    rfl

/-- The Huvas reads clean words that wait for no judgement: nothing is counted. -/
theorem State.readRange_clean {s : State} {base n : Nat} {f : Nat → TWord}
    (h : ∀ i, i < n → s.huvasRead (base + 8 * i) = (some (f i), s)) :
    s.readRange base n = (some ((List.range n).map f), s) := by
  have hfold : ∀ k, k ≤ n → (List.range k).foldl (fun (x : List TWord × Bool × State) i =>
      let r := x.2.2.huvasRead (base + 8 * i)
      match r.1 with
      | some w => (w :: x.1, x.2.1, r.2)
      | none => (x.1, false, r.2)) ([], true, s) = (((List.range k).map f).reverse, true, s) := by
    intro k hk
    induction k with
    | zero => rfl
    | succ k ih =>
      rw [List.range_succ, List.foldl_append, ih (by omega)]
      simp only [List.foldl_cons, List.foldl_nil, h k (by omega), List.map_append, List.map_cons, List.map_nil,
        List.reverse_append, List.reverse_cons, List.reverse_nil, List.nil_append, List.singleton_append]
  have hn := hfold n (Nat.le_refl n)
  unfold State.readRange
  refine (congrArg (fun x : List TWord × Bool × State => (if x.2.1 then some x.1.reverse else none, x.2.2)) hn).trans ?_
  rw [if_pos rfl, List.reverse_reverse]

theorem State.huvasRead_clean {s : State} {a : Nat} {w : TWord} (hr : s.bankReady (s.readAt a) = true)
    (hinj : s.readAt a ∉ s.blot.injected) (h : s.peek (s.readAt a) = .clean w) : s.huvasRead a = (some w, s) := by
  rw [State.huvasRead, hr]
  exact State.huvasGet_clean hinj h

/-! ### The places of a transfer (R361) -/

/-- Every copy of the word that a load writes at an index lies at that index's offset of its bank or pen. -/
theorem State.writeAt_offset {s : State} {a : MemArgs} (hin : a.inRange = true) {e : Nat × Nat} (he : e ∈ a.places) {d : Nat}
    (hd : d ∈ s.writeAt e.1) :
    if a.loc = true ∨ isInk a.target = true then d % 0x80000 = a.target % 0x80000 + 8 * e.2 else d = a.target + 8 * e.2 := by
  obtain ⟨b, hb, i, hi, rfl⟩ : ∃ b ∈ a.bases, ∃ i, i < a.words ∧ (b + 8 * i, i) = e := by
    simpa [MemArgs.places, upTo] using he
  have hcopy : d % 0x80000 = (b + 8 * i) % 0x80000 ∧ (isInk (b + 8 * i) = false → d = b + 8 * i) := by
    rw [State.writeAt] at hd
    split at hd
    case isTrue hm =>
      have hink : isInk (b + 8 * i) = true := (Bool.and_eq_true_iff.mp hm).1
      rw [hink]
      simp only [List.mem_cons, List.not_mem_nil, or_false, evenCpa, oddCpa, inkBase] at hd
      exact ⟨by omega, nofun⟩
    case isFalse => exact ⟨by rw [List.mem_singleton.mp hd], fun _ => List.mem_singleton.mp hd⟩
  obtain ⟨hmod, hout⟩ := hcopy
  rw [MemArgs.inRange] at hin
  rw [MemArgs.bases] at hb
  dsimp only
  cases hloc : a.loc with
  | true =>
    rw [hloc, if_pos rfl] at hin hb
    obtain ⟨p, -, rfl⟩ := List.mem_map.mp hb
    have hlast : a.target + 8 * a.words - 8 < 0x80000 := of_decide_eq_true hin
    rw [if_pos (.inl rfl), hmod, inkBase]
    omega
  | false =>
    rw [hloc, if_neg nofun] at hin hb
    obtain rfl := List.mem_singleton.mp hb
    simp only [Bool.or_eq_true, Bool.and_eq_true, decide_eq_true_iff] at hin
    simp only [isInk, isRsv, inkPen, rsvNum, decide_eq_true_iff, Bool.and_eq_true] at hin
    split
    case isTrue hc =>
      have hink : a.target < 0x2000000 := of_decide_eq_true (hc.resolve_left nofun)
      rw [hmod]
      omega
    case isFalse hc =>
      have hink : ¬a.target < 0x2000000 := fun h => hc (.inr (decide_eq_true h))
      exact hout (decide_eq_false (by omega))

/-- Two copies at one address belong to one index. -/
theorem State.places_agree {s : State} {a : MemArgs} (hin : a.inRange = true) (halign : a.target % 8 = 0)
    {e e' : Nat × Nat} (he : e ∈ a.places) (he' : e' ∈ a.places) {d d' : Nat} (hd : d ∈ s.writeAt e.1)
    (hd' : d' ∈ s.writeAt e'.1) (hdiv : d / 8 = d' / 8) : e.2 = e'.2 := by
  have h := s.writeAt_offset hin he hd
  have h' := s.writeAt_offset hin he' hd'
  split at h
  case isTrue hc =>
    rw [if_pos hc] at h'
    omega
  case isFalse hc =>
    rw [if_neg hc] at h'
    omega

/-! ### IDENTIFY -/

/-- A bit of a mask of pens. -/
theorem State.bitAt_penMask {s : State} (f : Pen → Bool) {n : Nat} (hn : n < 64) : bitAt (s.penMask f) n = f (s.pen n) := by
  have hfold : ∀ k, k ≤ 64 → bitAt ((List.range k).foldl (fun w n => if f (s.pen n) then w ||| BitVec.ofNat 64 (2 ^ n) else w) 0) n =
      (decide (n < k) && f (s.pen n)) := by
    intro k hk
    induction k with
    | zero => simp [bitAt]
    | succ k ih =>
      rw [List.range_succ, List.foldl_append]
      simp only [List.foldl_cons, List.foldl_nil]
      have hpow := bitAt_two_pow k n hn
      have hlt : n < k + 1 ↔ n < k ∨ k = n := by omega
      cases hf : f (s.pen k) with
      | true =>
        rw [if_pos rfl, bitAt, BitVec.getLsbD_or]
        refine (congrArg₂ (· || ·) (ih (by omega)) hpow).trans ?_
        by_cases h : k = n
        · subst h
          simp [hf]
        · simp [h, hlt]
      | false =>
        rw [if_neg nofun, ih (by omega)]
        by_cases h : k = n
        · subst h
          simp [hf]
        · simp [h, hlt]
  rw [State.penMask, upTo, hfold 64 (Nat.le_refl _), decide_eq_true hn, Bool.true_and]

/-! ### MEM_LOAD and MEM_READ -/

theorem State.partsOver_of_down {s : State} {l : List Nat} (h : ∀ q, (s.partOf q).up = false) : s.partsOver l = [] :=
  List.filter_eq_nil_iff.mpr fun q _ => by rw [h]; nofun

/-- A check that finds nothing has not found what its second clause asks for. -/
theorem not_of_check_zero {a b c : Prop} [Decidable a] [Decidable b] [Decidable c] {i j k : Nat}
    (h : (if a then i + 1 else if b then j + 1 else if c then k + 1 else 0) = 0) : ¬b := by
  intro hb
  by_cases ha : a
  · simp [ha] at h
  · simp [ha, hb] at h

/-- The arguments of a transfer that passes its checks. -/
theorem State.memCheck_zero {s : State} {m : Nat} {load : Bool} (h : s.memCheck m load = 0) :
    (s.memArgs m).inRange = true ∧ (s.memArgs m).target % 8 = 0 := by
  have hno := not_of_check_zero (i := 3) (j := 2) (k := 0x0B03) h
  simp only [Bool.or_eq_true, decide_eq_true_iff, not_or, Bool.not_eq_true'] at hno
  obtain ⟨⟨⟨⟨-, halign⟩, hin⟩, -⟩, -⟩ := hno
  refine ⟨by simpa using hin, ?_⟩
  by_cases hf : (s.memArgs m).format = 1
  · rw [if_pos hf] at halign
    omega
  · rw [if_neg hf] at halign
    omega

/-- The stores of a transfer's words, copy by copy. -/
def State.loadPuts (s : State) (a : MemArgs) (ws : List Word) (l : List (Nat × Nat)) : List (Nat × TWord) :=
  l.flatMap (fun e => (s.writeAt e.1).map (fun d => (d, a.wordAt ws e.2)))

theorem State.mem_loadPuts {s : State} {a : MemArgs} {ws : List Word} {l : List (Nat × Nat)} {x : Nat × TWord} :
    x ∈ s.loadPuts a ws l ↔ ∃ e ∈ l, ∃ d ∈ s.writeAt e.1, (d, a.wordAt ws e.2) = x := by
  simp only [State.loadPuts, List.mem_flatMap, List.mem_map]

/-- The words of a load into ready, unarmed banks (R361). -/
theorem State.loadWords_spec {s : State} {a : MemArgs} {ws : List Word} {l : List (Nat × Nat)} (hin : a.inRange = true)
    (halign : a.target % 8 = 0) (hl : ∀ e ∈ l, e ∈ a.places) (hdown : ∀ q, (s.partOf q).up = false)
    (hready : ∀ e ∈ l, ∀ d ∈ s.writeAt e.1, s.bankReady d = true ∧ s.armAt d = none) :
    OnlyBanks s (s.loadWords a ws l) ∧
      (∀ e ∈ l, ∀ d ∈ s.writeAt e.1, (s.loadWords a ws l).peek d = .clean (a.wordAt ws e.2)) ∧
      ∀ c, (∀ e ∈ l, ∀ d ∈ s.writeAt e.1, c / 8 ≠ d / 8) → (s.loadWords a ws l).peekCode c = s.peekCode c := by
  have heq : s.loadWords a ws l = s.puts (s.loadPuts a ws l) := by
    rw [State.loadWords]
    simp only [State.partsOver_of_down hdown]
    exact State.forAll_huvasStore (fun e => a.wordAt ws e.2) hready
  rw [heq]
  obtain ⟨honly, hpeek, hcode⟩ := State.puts_spec (l := s.loadPuts a ws l) (s := s)
    (fun x hx => by
      obtain ⟨e, he, d, hd, rfl⟩ := State.mem_loadPuts.mp hx
      exact hready e he d hd)
    (fun x hx y hy hdiv => by
      obtain ⟨e, he, d, hd, rfl⟩ := State.mem_loadPuts.mp hx
      obtain ⟨e', he', d', hd', rfl⟩ := State.mem_loadPuts.mp hy
      exact congrArg (a.wordAt ws) (State.places_agree hin halign (hl e he) (hl e' he') hd hd' hdiv))
  refine ⟨honly, fun e he d hd => hpeek _ (State.mem_loadPuts.mpr ⟨e, he, d, hd, rfl⟩), fun c hc => hcode c fun x hx => ?_⟩
  obtain ⟨e, he, d, hd, rfl⟩ := State.mem_loadPuts.mp hx
  exact hc e he d hd

/-- The words of `now` are written, and the load ends or is held with more to write (R351, R361). -/
def State.loadNow (s : State) (m done : Nat) (ws : List Word) (now : List (Nat × Nat)) : State :=
  let a := s.memArgs m
  let t := s.loadWords a ws now
  if now.length < (a.places.drop done).length then t.holdCmd m (done + now.length) else t.finish m 0 [wordN a.len]

/-- MEM_LOAD past its checks, with an image whose tags may all be loaded (R361). -/
theorem State.memLoad_passes {s : State} {m : Nat} {ws : List Word} (hcheck : s.memCheck m true = 0)
    (hbus : s.hif.busMaster = true) (hlen : ws.length = (s.memArgs m).len / 8) (htag : (s.memArgs m).badTag ws = none)
    (done : Nat) :
    s.memLoad m (.ok ws) none done = s.loadNow m done ws ((s.memArgs m).places.drop done) ∧
    ∀ k, s.memLoad m (.ok ws) (some k) done = s.loadNow m done ws (((s.memArgs m).places.drop done).take k) := by
  refine ⟨?_, fun k => ?_⟩
  all_goals
    rw [State.memLoad]
    simp only [hcheck, ne_eq, not_true_eq_false, if_false, State.hostGet_ok hbus (Nat.le_of_eq hlen.symm)]
    rw [← hlen, List.take_length]
    simp only [htag]
    rfl

/-- MEM_READ of words that are all clean, in its last step (R361). -/
theorem State.memRead_passes {s : State} {m : Nat} {f : Nat → TWord} (hcheck : s.memCheck m false = 0) (hhost : s.hostWritable)
    (hclean : ∀ i, i < (s.memArgs m).words → s.huvasRead ((s.memArgs m).bases.getD 0 0 + 8 * i) = (some (f i), s)) :
    s.memRead m false none = ({ s with out := s.out ++ [Out.hostWrite (s.memArgs m).host (if (s.memArgs m).format = 1
        then hostImage true ((s.memArgs m).words / 512) ((List.range (s.memArgs m).words).map f)
        else (List.range (s.memArgs m).words).map (fun i => (f i).val)) (s.ideStream (s.memArgs m).host)] }).finish m 0 := by
  have hread := State.readRange_clean hclean
  rw [State.memRead]
  simp only [hcheck, ne_eq, not_true_eq_false, if_false, Option.isSome_none, Bool.false_eq_true, hread]
  rw [State.hostPut_ok hhost]
  by_cases hf : (s.memArgs m).format = 1
  · simp only [hf, decide_true, if_true]
  · simp only [hf, decide_false, if_false, hostImage, Bool.not_false, if_true, List.map_map]
    rfl

/-- EVENT_READ past its checks, in its last step: the entries read leave the queue (R370, R427). -/
theorem State.eventRead_passes {s : State} {m n : Nat} {host : Word} (h0 : s.arg m 0 = host)
    (hcount : bitsOf (s.arg m 1) 0 10 = n) (hrsvd : argRsvd s m 1 0x3FF = false) (hn : 1 ≤ n) (hn' : n ≤ 512)
    (htop : host.toNat + 32 * n ≤ 0xF00000000000) (hhost : s.hostWritable) (done : Nat) :
    s.eventRead m false none done =
      (let k := min (n - done) s.huv.eq.length
       let dest := host.toNat + 32 * done
       { s with
         out := s.out ++ [Out.hostWrite dest
           ((s.huv.eq.take k).flatMap (fun (e : EqEntry) => [e.w0, e.w1, e.w2, e.w3])) (s.ideStream dest)]
         huv := { s.huv with
           eq := s.huv.eq.drop k, eqOver := s.huv.eqOver && !(s.huv.eq.drop k).isEmpty
           vec1Armed := true } }.finish m 0 [wordN (done + k), wordN (s.huv.eq.length - k)]) := by
  have hpast : ¬(n = 0 || 512 < n || hostTop < host.toNat + 32 * n) = true := by
    simp only [Bool.or_eq_true, decide_eq_true_iff]
    rw [hostTop]
    omega
  obtain ⟨k, hk⟩ : ∃ k, k = min (n - done) s.huv.eq.length := ⟨_, rfl⟩
  obtain ⟨ws, hws⟩ : ∃ ws, ws = (s.huv.eq.take k).flatMap (fun (e : EqEntry) => [e.w0, e.w1, e.w2, e.w3]) := ⟨_, rfl⟩
  obtain ⟨u, hu⟩ : ∃ u : State, u = { s with
    out := s.out ++ [Out.hostWrite (host.toNat + 32 * done) ws (s.ideStream (host.toNat + 32 * done))] } := ⟨_, rfl⟩
  have hput := State.hostPut_ok hhost (host.toNat + 32 * done) ws
  rw [← hu] at hput
  rw [State.eventRead]
  simp only [hrsvd, Bool.false_eq_true, if_false, h0, hcount, ← hk, ← hws, if_neg hpast, hput, ne_eq, not_true_eq_false,
    Nat.lt_irrefl, List.length_drop]
  rw [hu]

end Sys2Proof.Machine

namespace Sys2Proof.HuvasCommands

open Sys2Proof.Machine

/-- Settles O45: each command past its checks; MEM_LOAD by its stores, copy by copy. -/
theorem memoryCommandsComplete : Obligations.MemoryCommandsComplete := by
  refine ⟨?identify, ?load, ?read, ?margin, ?event⟩
  case identify =>
    intro s m h
    refine ⟨s.identity, .of_eq (runCommand_of_begins h _), rfl, rfl, fun n hn => ⟨?_, ?_⟩, fun hboot => ?_⟩
    · exact State.bitAt_penMask (fun p => p.st.out) hn
    · exact State.bitAt_penMask (fun p => decide (p.st = .fenced)) hn
    · exact if_pos hboot
  case load =>
    intro s m ws run done k h hcheck hbus a rest hrun hlen htag hdown hready
    obtain ⟨hin, halign⟩ := State.memCheck_zero hcheck
    obtain ⟨honly, hpeek, hcode⟩ := State.loadWords_spec (s := s.unpaused) (a := a) (ws := ws) (l := rest.take k) hin halign
      (fun e he => List.mem_of_mem_drop (List.mem_of_mem_take he)) hdown
      (fun e he => hready e (List.mem_of_mem_take he))
    obtain ⟨hback, hblot⟩ := honly
    have hexec : exec (.memLoad m (.ok ws) run) s = .next (s.unpaused.loadNow m.val done ws (rest.take k)) := by
      obtain ⟨hwhole, hpause⟩ := stepCommand_of_works h (fun lim done s => s.memLoad m.val (.ok ws) lim done)
      have hpasses := State.memLoad_passes (s := s.unpaused) (m := m.val) hcheck hbus hlen htag done
      obtain ⟨rfl, rfl⟩ | rfl := hrun
      · rw [List.take_length]
        exact hwhole.trans (congrArg Host.Outcome.next hpasses.1)
      · exact (hpause k).trans (congrArg Host.Outcome.next (hpasses.2 k))
    refine ⟨s.unpaused.loadWords a ws (rest.take k), hback, hblot, hpeek, hcode, fun hk => ?_, fun hk => ?_⟩
    · refine .of_eq (hexec.trans (congrArg Host.Outcome.next (if_neg ?_)))
      rw [List.take_of_length_le hk]
      exact Nat.lt_irrefl _
    · have hnow : (rest.take k).length = k := List.length_take_of_le (Nat.le_of_lt hk)
      have hheld : s.unpaused.loadNow m.val done ws (rest.take k) =
          (s.unpaused.loadWords a ws (rest.take k)).holdCmd m.val (done + k) := by
        refine (if_pos ?_).trans (congrArg (fun n => State.holdCmd _ m.val (done + n)) hnow)
        rw [hnow]
        exact hk
      exact ⟨_, hexec, hheld ▸ State.holdCmd_held _ _ _⟩
  case read =>
    intro s m f done h hcheck hhost a b u hclean
    refine .of_eq (((stepCommand_of_works h (fun lim _ s => s.memRead m.val false lim)).1).trans
      (congrArg Host.Outcome.next ?_))
    refine State.memRead_passes (s := u) hcheck hhost fun i hi => ?_
    obtain ⟨hready, hinj, hpeek⟩ := hclean i hi
    exact State.huvasRead_clean (s := u) hready hinj hpeek
  case margin =>
    intro s m host clear h hargs htop hhost
    have h0 : s.arg m.val 0 = host := hargs.word 0
    have h1 : s.arg m.val 1 = if clear = true then 1 else 0 := hargs.word 1
    have hrsvd : argRsvd s m.val 1 1 = false := argRsvd_of_clean h1 (by cases clear <;> rfl)
    have hbit : bitAt (s.arg m.val 1) 0 = clear := by
      rw [h1]
      cases clear <;> rfl
    refine .of_eq ((runCommand_of_begins h _).trans (congrArg Host.Outcome.next ?_))
    rw [State.marginRead]
    simp only [hrsvd, Bool.false_eq_true, if_false, h0, State.hostPut_ok hhost, hbit]
    refine (if_neg (by rw [hostTop]; omega)).trans ?_
    cases clear <;> rfl
  case event =>
    intro s m host n done h hargs hn hn' htop hhost k dest
    have h0 : s.arg m.val 0 = host := hargs.word 0
    have h1 : s.arg m.val 1 = BitVec.ofNat 64 n := hargs.word 1
    have hrsvd : argRsvd s m.val 1 0x3FF = false := argRsvd_of_within h1 (Within.of_lt (k := 10) (by omega))
    have hcount : bitsOf (s.arg m.val 1) 0 10 = n := by
      rw [h1, bitsOf_ofNat n 0 10 (by omega)]
      omega
    refine .of_eq (((stepCommand_of_works h (fun lim done s => s.eventRead m.val false lim done)).1).trans
      (congrArg Host.Outcome.next ?_))
    exact State.eventRead_passes (s := s.unpaused) h0 hcount hrsvd hn hn' htop hhost done

end Sys2Proof.HuvasCommands
end

section
/-! Register writes that store a record (R66, R68, R94, R245, R273, R321, R331, R408). -/

namespace Sys2Proof.Machine

/-- The Huvas writes a register that answers reads. -/
theorem State.huvasWrite_of_read {s : State} {cpa : Nat} {w : TWord} (hun : w.tag ≠ Tag.uninit) (hpo : w.tag ≠ Tag.poison)
    (hread : ∃ v, s.regRead none cpa = .val v) : s.huvasWrite cpa w = s.regWriteAt none cpa w.val := by
  obtain ⟨v, hv⟩ := hread
  have htag : ¬(w.tag = Tag.uninit || w.tag = Tag.poison) = true := by simp [hun, hpo]
  rw [State.huvasWrite, State.regWrite, if_neg htag, hv]
  exact Option.getD_some

theorem rwl_of_unlocked {cpa : Nat} {lock : Bool} {s : State} {f : State → State} (h : lock = false) : rwl cpa lock s f = f s := by
  rw [rwl, h]
  rfl

/-! ### The ruling store (R39, R66) -/

theorem State.storePayload_clean {s : State} {i : Nat} {w : Word}
    (h : Table.get fillStore s.rul.store i = encodeCode (parityN 18 i) (TWord.raw w)) : s.storePayload i = w := by
  rw [State.storePayload, State.storeJudged, h, judge_encodeCode]
  rfl

theorem State.storePayload_of_get {s t : State} {i : Nat}
    (h : Table.get fillStore t.rul.store i = Table.get fillStore s.rul.store i) : t.storePayload i = s.storePayload i := by
  rw [State.storePayload, State.storeJudged, h, State.storePayload, State.storeJudged]

/-- One codeword of the ruling store is replaced. -/
def State.withStored (s : State) (i : Nat) (c : Code) : State :=
  { s with rul := { s.rul with store := Table.set fillStore s.rul.store i c } }

theorem State.withStored_back (s : State) (i : Nat) (c : Code) : { s.withStored i c with rul := s.rul } = s := rfl

theorem State.withStored_rul (s : State) (i : Nat) (c : Code) :
    { (s.withStored i c).rul with store := s.rul.store } = s.rul := rfl

theorem State.withStored_same (s : State) (i : Nat) (c : Code) :
    Table.get fillStore (s.withStored i c).rul.store i = c := Table.get_set_same fillStore s.rul.store i c

theorem State.withStored_other (s : State) (i : Nat) (c : Code) {j : Nat} (h : j ≠ i) :
    Table.get fillStore (s.withStored i c).rul.store j = Table.get fillStore s.rul.store j :=
  Table.get_set_other fillStore s.rul.store c h

theorem State.storePut_cons (s : State) (i : Nat) (w : Word) (ws : List Word) :
    s.storePut i (w :: ws) = (s.withStored i (encodeCode (parityN 18 i) (TWord.raw w))).storePut (i + 1) ws := by
  rw [State.storePut, State.withStored]

/-- Words put into the ruling store stand there, and no other word differs. -/
theorem State.storePut_spec (ws : List Word) (s : State) (i : Nat) :
    { s.storePut i ws with rul := s.rul } = s ∧ { (s.storePut i ws).rul with store := s.rul.store } = s.rul ∧
      ∀ j, (s.storePut i ws).storePayload j = if i ≤ j ∧ j < i + ws.length then ws.getD (j - i) 0 else s.storePayload j := by
  induction ws generalizing s i with
  | nil => exact ⟨rfl, rfl, fun j => (if_neg (by simp)).symm⟩
  | cons w ws ih =>
    obtain ⟨c, hc⟩ : ∃ c, c = encodeCode (parityN 18 i) (TWord.raw w) := ⟨_, rfl⟩
    have hsame : (s.withStored i c).storePayload i = w :=
      State.storePayload_clean ((State.withStored_same s i c).trans hc)
    have hother {j : Nat} (hj : j ≠ i) : (s.withStored i c).storePayload j = s.storePayload j :=
      State.storePayload_of_get (s.withStored_other i c hj)
    obtain ⟨hback', hrul', hword⟩ := ih (s.withStored i c) (i + 1)
    rw [State.storePut_cons, ← hc]
    refine ⟨(congrArg (fun v : State => ({ v with rul := s.rul } : State)) hback').trans (s.withStored_back i c),
      (congrArg (fun v : Rul => ({ v with store := s.rul.store } : Rul)) hrul').trans (s.withStored_rul i c), fun j => ?_⟩
    rw [hword j]
    by_cases hj : j = i
    · rw [hj, if_neg (by omega), if_pos (by simp), hsame, Nat.sub_self, List.getD_cons_zero]
    · rw [hother hj]
      by_cases hin : i + 1 ≤ j ∧ j < i + 1 + ws.length
      · have hsub : j - i = j - (i + 1) + 1 := by omega
        rw [if_pos hin, if_pos (by rw [List.length_cons]; omega), hsub, List.getD_cons_succ]
      · rw [if_neg hin, if_neg (by rw [List.length_cons]; omega)]

/-! ### Records with masked words -/

theorem maskWords_getD (ms : List Nat) (ws : List Word) (h : ws.length ≤ ms.length) (i : Nat) :
    (maskWords ms ws).getD i 0 = ws.getD i 0 &&& BitVec.ofNat 64 (ms.getD i 0) := by
  induction ws generalizing ms i with
  | nil => cases ms <;> simp [maskWords]
  | cons w ws ih =>
    cases ms with
    | nil => exact nomatch h
    | cons m ms =>
      cases i with
      | zero => rfl
      | succ i => exact ih ms (Nat.le_of_succ_le_succ h) i

theorem maskWords_length (ms : List Nat) (ws : List Word) (h : ws.length ≤ ms.length) :
    (maskWords ms ws).length = ws.length := by
  induction ws generalizing ms with
  | nil => cases ms <;> rfl
  | cons w ws ih =>
    cases ms with
    | nil => exact nomatch h
    | cons m ms => exact congrArg Nat.succ (ih ms (Nat.le_of_succ_le_succ h))

/-- The words of a table of records after one has been stored. -/
theorem getD_set (t : Table (List Word)) (n : Nat) (ws : List Word) (p i : Nat) :
    (Table.get (fun _ => []) (Table.set (fun _ => []) t n ws) p).getD i 0 =
      if p = n then ws.getD i 0 else (Table.get (fun _ => []) t p).getD i 0 := by
  by_cases h : p = n
  · rw [if_pos h, h, Table.get_set_same]
  · rw [if_neg h, Table.get_set_other _ _ _ h]

/-- The staged words, and the one whose write stores the record. -/
theorem staged_getD (g : Nat → Word) (n : Nat) (w : Word) (i : Nat) :
    ((upTo n).map g ++ [w]).getD i 0 = if i < n then g i else if i = n then w else 0 := by
  have hlen : ((upTo n).map g).length = n := by rw [upTo, List.length_map, List.length_range]
  by_cases hi : i < n
  · rw [if_pos hi, List.getD_append _ _ _ _ (by omega)]
    simp [upTo, hi]
  · rw [if_neg hi, List.getD_append_right _ _ _ _ (by omega), hlen]
    by_cases he : i = n
    · rw [if_pos he, he, Nat.sub_self]
      rfl
    · rw [if_neg he]
      exact List.getD_eq_default _ _ (by simp; omega)

/-! ### The records -/

/-- Where the record at INDEX begins in the ruling store, and its words (R66). -/
def Rul.entryAt (u : Rul) : Nat := if u.sel then hoBaseIdx + u.idx % 16384 else 4 * u.idx
def Rul.entryWords (u : Rul) (w : Word) : List Word :=
  if u.sel then [BitVec.ofNat 64 (u.data0.toNat % 2 ^ 32)] else [u.data0, u.data1, u.data2, w]

theorem State.storeEntry_eq (s : State) (w : Word) :
    s.storeEntry w = (fun t : State => ({ t with rul := { t.rul with idx := (s.rul.idx + 1) % 32768 } } : State))
      (s.storePut s.rul.entryAt (s.rul.entryWords w)) := by
  rw [State.storeEntry, Rul.entryAt, Rul.entryWords]
  cases s.rul.sel <;> rfl

/-- A line or a handover entry goes into the ruling store (R66). -/
theorem State.storeEntry_spec (s : State) (w : Word) :
    { s.storeEntry w with rul := s.rul } = s ∧
    { (s.storeEntry w).rul with store := s.rul.store } = { s.rul with idx := (s.rul.idx + 1) % 32768 } ∧
    ∀ j, (s.storeEntry w).storePayload j =
      if s.rul.entryAt ≤ j ∧ j < s.rul.entryAt + (s.rul.entryWords w).length
      then (s.rul.entryWords w).getD (j - s.rul.entryAt) 0 else s.storePayload j := by
  obtain ⟨hback, hrul, hword⟩ := State.storePut_spec (s.rul.entryWords w) s s.rul.entryAt
  rw [State.storeEntry_eq]
  refine ⟨hback, congrArg (fun u : Rul => ({ u with idx := (s.rul.idx + 1) % 32768 } : Rul)) hrul, fun j => ?_⟩
  exact (State.storePayload_of_get rfl).trans (hword j)

/-- Which word of a stored record stands at an index. -/
theorem Rul.entry_getD (u : Rul) (w x : Word) (j : Nat) :
    (if u.entryAt ≤ j ∧ j < u.entryAt + (u.entryWords w).length then (u.entryWords w).getD (j - u.entryAt) 0 else x) =
      if u.sel = true then (if j = 131072 + u.idx % 16384 then BitVec.ofNat 64 (u.data0.toNat % 2 ^ 32) else x)
      else if j / 4 = u.idx then [u.data0, u.data1, u.data2, w].getD (j % 4) 0 else x := by
  rw [Rul.entryAt, Rul.entryWords]
  cases u.sel with
  | true =>
    rw [if_pos rfl, if_pos rfl, if_pos rfl, hoBaseIdx, List.length_singleton]
    by_cases hj : j = 131072 + u.idx % 16384
    · rw [if_pos hj, if_pos (by omega), hj, Nat.sub_self, List.getD_cons_zero]
    · rw [if_neg hj, if_neg (by omega)]
  | false =>
    rw [if_neg Bool.false_ne_true, if_neg Bool.false_ne_true, if_neg Bool.false_ne_true]
    simp only [List.length_cons, List.length_nil]
    by_cases hj : j / 4 = u.idx
    · have hoff : j - 4 * u.idx = j % 4 := by omega
      rw [if_pos hj, if_pos (by omega), hoff]
    · rw [if_neg hj, if_neg (by omega)]

/-- The first word of a record is staged. -/
def State.staging (s : State) (d : Word) : State := { s with rul := { s.rul with data0 := d } }

theorem State.staging_back (s : State) (d : Word) : { s.staging d with rul := s.rul } = s := rfl

@[simp] theorem State.staging_word (s : State) (d : Word) (j : Nat) : (s.staging d).storePayload j = s.storePayload j := rfl

/-- A record stored after a first word `d` (R66). -/
theorem State.storeEntry_staging (s : State) (d w : Word) :
    { (s.staging d).storeEntry w with rul := s.rul } = s ∧
    { ((s.staging d).storeEntry w).rul with store := s.rul.store } =
      { s.rul with idx := (s.rul.idx + 1) % 32768, data0 := d } ∧
    ∀ j, ((s.staging d).storeEntry w).storePayload j =
      if s.rul.sel = true then (if j = 131072 + s.rul.idx % 16384 then BitVec.ofNat 64 (d.toNat % 2 ^ 32) else s.storePayload j)
      else if j / 4 = s.rul.idx then [d, s.rul.data1, s.rul.data2, w].getD (j % 4) 0 else s.storePayload j := by
  obtain ⟨hback, hrul, hword⟩ := (s.staging d).storeEntry_spec w
  refine ⟨(congrArg (fun v : State => ({ v with rul := s.rul } : State)) hback).trans (s.staging_back d), hrul, fun j => ?_⟩
  rw [hword j, Rul.entry_getD, State.staging_word]
  rfl

/-- A virtual slot's two words, the next index (R68, R94). -/
theorem State.vtStore_spec {s : State} (w1 : Word) (hlock : s.folio.lock = false) (hen : s.folio.en = false) :
    { s.vtStore w1 with vt := s.vt } = { s with folio := { s.folio with vtIdx := (s.folio.vtIdx + 1) % 8192 } } ∧
    (∀ k, k ≠ s.folio.vtIdx → (s.vtStore w1).vslot k = s.vslot k) ∧
    (s.vtStore w1).vslot s.folio.vtIdx = { s.vslot s.folio.vtIdx with
      frame0 := bitsOf s.folio.vtData0 0 36, fair := bitAt s.folio.vtData0 36
      kind := [VKind.state, .output, .input, .rsvd].getD (bitsOf s.folio.vtData0 37 2) .rsvd
      valid := bitAt s.folio.vtData0 39, part := bitsOf s.folio.vtData0 40 8, frame1 := bitsOf w1 0 36 } := by
  rw [State.vtStore, hlock, hen, Bool.or_false, if_neg Bool.false_ne_true]
  refine ⟨rfl, fun k hk => Table.get_set_other _ _ _ hk, (Table.get_set_same _ _ _ _).trans ?_⟩
  have hkind : bitsOf s.folio.vtData0 37 2 < 4 := Nat.mod_lt _ (by decide)
  generalize bitsOf s.folio.vtData0 37 2 = k at hkind
  match k with
  | 0 | 1 | 2 | 3 => rfl

/-- A partition's exception record, and the next index (R245). -/
theorem State.pxStore_spec {s : State} (w : Word) (hlock : s.folio.lock = false) (hen : s.folio.en = false) :
    { s.pxStore w with px := s.px } = { s with folio := { s.folio with pxIdx := (s.folio.pxIdx + 1) % 256 } } ∧
    ∀ p i, (s.pxStore w).pxWord p i = if p = s.folio.pxIdx
      then (if i < 3 then Table.get (fun _ => 0) s.folio.pxStage i else if i = 3 then w else 0)
        &&& BitVec.ofNat 64 (pxMasks.getD i 0)
      else s.pxWord p i := by
  rw [State.pxStore, hlock, hen, Bool.or_false, if_neg Bool.false_ne_true]
  refine ⟨rfl, fun p i => (getD_set s.px s.folio.pxIdx (maskWords pxMasks
    ((upTo 3).map (fun k => Table.get (fun _ => 0) s.folio.pxStage k) ++ [w])) p i).trans ?_⟩
  rw [maskWords_getD _ _ (by simp [pxMasks, upTo]), staged_getD]
  rfl

/-- A partition's translation record, and the next index (R273). -/
theorem State.ptStore_spec {s : State} (w : Word) (hlock : s.folio.lock = false) (hen : s.folio.en = false) :
    { s.ptStore w with pt := s.pt } = { s with folio := { s.folio with ptIdx := (s.folio.ptIdx + 1) % 256 } } ∧
    ∀ p i, (s.ptStore w).ptWord p i = if p = s.folio.ptIdx
      then (if i < 11 then Table.get (fun _ => 0) s.folio.ptStage i else if i = 11 then w else 0)
        &&& BitVec.ofNat 64 (ptMasks.getD i 0)
      else s.ptWord p i := by
  rw [State.ptStore, hlock, hen, Bool.or_false, if_neg Bool.false_ne_true]
  refine ⟨rfl, fun p i => (getD_set s.pt s.folio.ptIdx (maskWords ptMasks
    ((upTo 11).map (fun k => Table.get (fun _ => 0) s.folio.ptStage k) ++ [w])) p i).trans ?_⟩
  rw [maskWords_getD _ _ (by simp [ptMasks, upTo]), staged_getD]
  rfl

/-- An entry of the list of pages to send, and the next index (R321). -/
theorem State.listStore_spec {s : State} (w : Word) (hlock : s.trc.lock = false) :
    { s.listStore w with trc := s.trc } = s ∧
    { (s.listStore w).trc with list := s.trc.list } = { s.trc with listIdx := (s.trc.listIdx + 1) % 16384 } ∧
    ∀ i, Table.get (fun _ => ({} : TrcEntry)) (s.listStore w).trc.list i = if i = s.trc.listIdx
      then ⟨s.trc.stage0, w &&& 0xFFFFFFFFFFFF⟩ else Table.get (fun _ => {}) s.trc.list i := by
  rw [State.listStore, rwl_of_unlocked hlock]
  refine ⟨rfl, rfl, fun i => ?_⟩
  by_cases h : i = s.trc.listIdx
  · rw [if_pos h, h]
    exact Table.get_set_same _ _ _ _
  · rw [if_neg h]
    exact Table.get_set_other _ _ _ h

/-- The words of a list of eight, one by one. -/
theorem eq_map_range_of_length {l : List Word} {n : Nat} (h : l.length = n) : l = (List.range n).map (fun k => l.getD k 0) := by
  refine List.ext_getElem (by simp [h]) fun i hi _ => ?_
  rw [List.getElem_map, List.getElem_range, List.getD_eq_getElem _ _ hi]

/-- A descriptor's words, and the next index (R408). -/
theorem State.descStore_spec {s : State} (w : Word) (hlock : s.feed.lock = false) (hdev : s.dev = .loaded) :
    let ws := (List.range 7).map (fun k => Table.get (fun _ => 0) s.feed.stage k) ++ [w]
    { s.descStore w with feed := s.feed } = s ∧
    { (s.descStore w).feed with descs := s.feed.descs } = { s.feed with descIdx := (s.feed.descIdx + 1) % 4096 } ∧
    (∀ d, d ≠ s.feed.descIdx → (s.descStore w).desc d = s.desc d) ∧
    (s.descStore w).desc s.feed.descIdx = { s.desc s.feed.descIdx with
      words := (List.range 8).map (fun k => ws.getD k 0 &&& BitVec.ofNat 64 ((descMasks { words := ws }).getD k 0)) } := by
  intro ws
  have hopen : (s.feed.lock || decide (s.dev ≠ .loaded)) = false := by
    rw [hlock, hdev]
    rfl
  have hlen : ws.length ≤ (descMasks { words := ws }).length := by simp [ws, descMasks]
  rw [State.descStore, hopen, if_neg Bool.false_ne_true]
  refine ⟨rfl, rfl, fun d hd => Table.get_set_other _ _ _ hd, (Table.get_set_same _ _ _ _).trans ?_⟩
  have hwords : maskWords (descMasks { words := ws }) ws =
      (List.range 8).map (fun k => ws.getD k 0 &&& BitVec.ofNat 64 ((descMasks { words := ws }).getD k 0)) := by
    refine (eq_map_range_of_length (n := 8) ((maskWords_length _ _ hlen).trans (by simp [ws]))).trans ?_
    exact List.map_congr_left fun k _ => maskWords_getD _ _ hlen k
  exact congrArg (fun l => ({ s.desc s.feed.descIdx with words := l } : Desc)) hwords

/-- A queue's context, its indices where it is enabled, and the next queue (R331, R347). -/
theorem State.qpStore_spec {s : State} (hlock : s.hif.lock = false) (hen : (s.queue s.hif.qpIdx).en = false) :
    let word (k : Nat) : Word := Table.get (fun _ => 0) s.hif.qpStage k
    let q : Queue := { s.queue s.hif.qpIdx with
      w0 := word 0 &&& 0xFFFFFFFFFFFFFFCF, w1 := word 1, w2 := word 2 &&& 0xFFFFFF0FFFFFF3 }
    (∀ j, j ≠ s.hif.qpIdx → s.qpStore.queue j = s.queue j) ∧
    { s.qpStore with hif := { s.qpStore.hif with qps := s.hif.qps } } =
      { s with hif := { s.hif with qpIdx := (s.hif.qpIdx + 1) % 16384 } } ∧
    s.qpStore.queue s.hif.qpIdx =
      if bitAt (word 2) 0 = true then { q with dHead := 0, dTail := 0, sHead := 0, sTail := 0 } else q := by
  intro word q
  have hbit : bitAt (only qp2Mask (word 2)) 0 = bitAt (word 2) 0 := by simp [only, qp2Mask, bitAt]
  have hqueue : s.qpStore = (fun t : State => ({ t with hif := { t.hif with qpIdx := (s.hif.qpIdx + 1) % 16384 } } : State))
      (s.modQueue s.hif.qpIdx (fun _ =>
        if bitAt (word 2) 0 = true then { q with dHead := 0, dTail := 0, sHead := 0, sTail := 0 } else q)) := by
    rw [State.qpStore, rwl_of_unlocked hlock]
    simp only [hen, Bool.false_and, Bool.false_eq_true, if_false]
    rw [← hbit]
    rfl
  rw [hqueue]
  exact ⟨fun j hj => Table.get_set_other _ _ _ hj, rfl, Table.get_set_same _ _ _ _⟩

end Sys2Proof.Machine

namespace Sys2Proof.Registers

open Sys2Proof.Machine

/-- The word that the Huvas writes stands where it stores a record (R66). -/
theorem rulingEntryWrite_stores {s : State} {w : TWord} (hup : s.huvasUp = true) (hun : w.tag ≠ Tag.uninit)
    (hpo : w.tag ≠ Tag.poison) (hlock : s.rul.lock = false) :
    exec (.rulingEntryWrite w) s =
      .next ((s.staging (if s.rul.sel = true then w.val else s.rul.data0)).storeEntry w.val) := by
  have hexec : exec (.rulingEntryWrite w) s =
      .next (s.huvasWrite (if s.rul.sel then 0x40010110 else 0x40010128) w) :=
    exec_of_due (c := .rulingEntryWrite w) (s := s)
      (f := fun s => s.huvasWrite (if s.rul.sel then 0x40010110 else 0x40010128) w) rfl hup
  cases hsel : s.rul.sel with
  | true =>
    obtain ⟨n, v, hread⟩ : ∃ n v, s.regRead none 0x40010110 = regVal (if s.rul.sel then rawN n else v) := ⟨_, _, rfl⟩
    have hrow : s.regWriteAt none 0x40010110 w.val = rwl 0x40010110 s.rul.lock s (fun s =>
      (fun t : State => if t.rul.sel then t.storeEntry w.val else t) { s with rul := { s.rul with data0 := w.val } }) := rfl
    rw [hsel, if_pos rfl] at hread hexec
    rw [hexec, State.huvasWrite_of_read hun hpo ⟨_, hread.trans rfl⟩, hrow, rwl_of_unlocked hlock]
    exact congrArg Host.Outcome.next (if_pos hsel)
  | false =>
    obtain ⟨v, x, hread⟩ : ∃ v x, s.regRead none 0x40010128 = regVal (if s.rul.sel then v else rawW x) := ⟨_, _, rfl⟩
    have hrow : s.regWriteAt none 0x40010128 w.val = rwl 0x40010128 s.rul.lock s (fun s => s.storeEntry w.val) := rfl
    rw [hsel, if_neg Bool.false_ne_true] at hread hexec
    rw [hexec, State.huvasWrite_of_read hun hpo ⟨_, hread.trans rfl⟩, hrow, rwl_of_unlocked hlock]
    rfl

/-- Settles O50: each row writes its register, whose record it stores. -/
theorem recordWritesComplete : Obligations.RecordWritesComplete := by
  intro s w hup hun hpo
  have hwrite {cpa : Nat} (hread : ∃ v, s.regRead none cpa = .val v) :
      guarded s.huvasUp s (fun s => s.huvasWrite cpa w) = .next (s.regWriteAt none cpa w.val) := by
    rw [guarded_of_due hup, State.huvasWrite_of_read hun hpo hread]
  refine ⟨fun hlock _ => ?ruling, fun hlock hen => ⟨?vslot, ?exc, ?trans⟩, fun hlock => ?list, fun hlock hdev => ?desc,
    fun hlock hen => ?queue⟩
  case ruling =>
    obtain ⟨hback, hrul, hword⟩ := s.storeEntry_staging (if s.rul.sel = true then w.val else s.rul.data0) w.val
    refine ⟨_, rulingEntryWrite_stores hup hun hpo hlock, hback, hrul, fun j => (hword j).trans ?_⟩
    cases s.rul.sel <;> rfl
  case vslot => exact ⟨s.vtStore w.val, hwrite ⟨_, rfl⟩, State.vtStore_spec w.val hlock hen⟩
  case exc =>
    obtain ⟨hback, hword⟩ := State.pxStore_spec w.val hlock hen
    refine ⟨s.pxStore w.val, hwrite ⟨_, rfl⟩, hback, fun p i => (hword p i).trans ?_⟩
    match i with
    | 0 | 1 | 2 | 3 => rfl
    | i + 4 => simp [show ¬i + 4 < 3 by omega]
  case trans =>
    obtain ⟨hback, hword⟩ := State.ptStore_spec w.val hlock hen
    refine ⟨s.ptStore w.val, hwrite ⟨_, rfl⟩, hback, fun p i => (hword p i).trans ?_⟩
    match i with
    | 0 | 1 | 2 | 3 | 4 | 5 | 6 | 7 | 8 | 9 | 10 | 11 => rfl
    | i + 12 => simp [show ¬i + 12 < 11 by omega]
  case list => exact ⟨s.listStore w.val, hwrite ⟨_, rfl⟩, State.listStore_spec w.val hlock⟩
  case desc => exact ⟨s.descStore w.val, hwrite ⟨_, rfl⟩, State.descStore_spec w.val hlock hdev⟩
  case queue => exact ⟨s.qpStore, hwrite ⟨_, rfl⟩, State.qpStore_spec hlock hen⟩

end Sys2Proof.Registers
end

section
/-! Register operations of the Huvas, refused writes and clearing reads (R8 to R13, R20, R440). -/

namespace Sys2Proof.Machine

/-- A write of UNINIT or POISON changes nothing (R11). -/
theorem State.huvasWrite_of_badTag {s : State} {cpa : Nat} {w : TWord} (h : w.tag = Tag.uninit ∨ w.tag = Tag.poison) :
    s.huvasWrite cpa w = s := by
  rw [State.huvasWrite, State.regWrite, if_pos (by simpa using h)]
  exact Option.getD_none

theorem rwl_of_locked {cpa : Nat} {lock : Bool} {s : State} {f : State → State} (h : lock = true) :
    rwl cpa lock s f = s.lockedWrite cpa := by
  rw [rwl, h]
  exact if_pos rfl

/-- REGISTER_WRITE of a register that answers reads. -/
theorem State.registerWrite_of_read {s : State} {cpa : BitVec 48} {n : Nat} {w : TWord} {same : Word} (hup : s.huvasUp = true)
    (hun : w.tag ≠ Tag.uninit) (hpo : w.tag ≠ Tag.poison) (hcpa : cpa.toNat = n) (hreg : isReg n = true)
    (hread : ∃ v, s.regRead none n = .val v) :
    exec (.registerWrite cpa w false same) s = .next (s.regWriteAt none n (clearing n w.val same)) := by
  subst hcpa
  have hdue : (s.huvasUp && isReg cpa.toNat) = true := by rw [hup, hreg]; rfl
  refine (exec_of_due (c := .registerWrite cpa w false same) (s := s)
    (f := fun s => s.huvasWrite cpa.toNat { w with val := clearing cpa.toNat w.val same }) rfl hdue).trans ?_
  exact congrArg Host.Outcome.next
    (State.huvasWrite_of_read (w := { w with val := clearing cpa.toNat w.val same }) hun hpo hread)

/-- REGISTER_READ_CLEAR of a register that answers reads. -/
theorem State.registerReadClear_of_read {s : State} {cpa : BitVec 48} {n : Nat} {same : Word} (hup : s.huvasUp = true)
    (hcpa : cpa.toNat = n) (hread : s.regReadable n = true) :
    exec (.registerReadClear cpa false same) s = .next (s.regClear n same) := by
  subst hcpa
  have hexec : exec (.registerReadClear cpa false same) s = execRegisterReadClear cpa false same s := rfl
  rw [hexec, execRegisterReadClear, hup, hread, guarded_of_due (Bool.and_self true), if_neg Bool.false_ne_true]

/-- A word without the bits of a mask that it does not meet. -/
theorem and_not_of_and_zero {w m : Word} (h : w &&& m = 0) : w &&& ~~~m = w := by
  refine BitVec.eq_of_getLsbD_eq fun i hi => ?_
  have h := congrArg (fun w : Word => w.getLsbD i) h
  simp only [BitVec.getLsbD_and, BitVec.getLsbD_not, hi, decide_true, Bool.true_and] at h ⊢
  cases hr : w.getLsbD i <;> simp_all

theorem finRange_filter_eq : ∀ p : Fin 64, (List.finRange 64).filter (fun n => decide (n = p)) = [p] := by decide

/-- A request that changes the bit of one pen queues that domain (R440). -/
theorem State.domainRequest_pen {s : State} {p : Fin 64} {on : Bool} (hlock : s.pwr.lock = false)
    (hfenced : setBit s.pwr.reqPen p.val on &&& s.penMask (fun x => x.st = .fenced) = 0)
    (hbit : bitAt s.pwr.reqPen p.val = !on) :
    s.domainRequest false (setBit s.pwr.reqPen p.val on) = { s with pwr := { s.pwr with
      reqPen := setBit s.pwr.reqPen p.val on, queue := s.pwr.queue ++ [(.pen p, on)] } } := by
  have hset (i : Nat) := bitAt_setBit s.pwr.reqPen on p.isLt i
  have hch : (List.finRange 64).filter (fun n : Fin 64 => decide (bitAt (setBit s.pwr.reqPen p.val on) n.val ≠
      bitAt s.pwr.reqPen n.val)) = [p] := by
    rw [← finRange_filter_eq p]
    refine List.filter_congr fun n _ => decide_eq_decide.mpr ?_
    rw [hset]
    by_cases h : p.val = n.val
    · rw [if_pos h, ← h, hbit]
      cases on <;> simp [Fin.ext_iff, h]
    · rw [if_neg h]
      simp [Fin.ext_iff, Ne.symm h]
  have hp : bitAt (setBit s.pwr.reqPen p.val on) p.val = on := (hset p.val).trans (if_pos rfl)
  rw [State.domainRequest, rwl_of_unlocked hlock]
  simp only [Bool.false_eq_true, if_false, and_not_of_and_zero hfenced, hch, List.map_cons, List.map_nil, hp]

/-! ### The MMU's registers (R272) -/

/-- The window and the offset of an address in the MMU window of a pen. -/
theorem mmu_window {n off : Nat} (hoff : off < 0x10000) :
    (0x40800000 + n * 0x10000 + off - 0x40000000) / 0x10000 = 128 + n ∧ (0x40800000 + n * 0x10000 + off) % 0x10000 = off := by
  omega

theorem State.regWriteAt_mmu (s : State) {n off : Nat} (hn : n < 64) (hoff : off < 0x10000) (v : Word) :
    s.regWriteAt none (0x40800000 + n * 0x10000 + off) v = s.mmuWrite n off v := by
  obtain ⟨hw, ho⟩ := mmu_window (n := n) hoff
  unfold State.regWriteAt
  simp only [hw, ho]
  simp (disch := omega) only [Nat.add_sub_cancel_left, if_neg, if_pos, Bool.and_eq_true, decide_eq_true_iff]

theorem State.regRead_mmu (s : State) {n off : Nat} (hn : n < 64) (hoff : off < 0x10000) (h8 : off % 8 = 0) :
    s.regRead none (0x40800000 + n * 0x10000 + off) = regVal (s.mmuReg n off) := by
  obtain ⟨hw, ho⟩ := mmu_window (n := n) hoff
  unfold State.regRead
  simp only [hw, ho]
  simp (disch := omega) only [Nat.add_sub_cancel_left, if_neg, if_pos, Bool.and_eq_true, decide_eq_true_iff]

/-- The Huvas writes a register of a pen's MMU. -/
theorem State.huvasWrite_mmu {s : State} {n off : Nat} {w : TWord} (hn : n < 64) (hoff : off < 0x10000) (h8 : off % 8 = 0)
    (hun : w.tag ≠ Tag.uninit) (hpo : w.tag ≠ Tag.poison) (hread : ∃ v, regVal (s.mmuReg n off) = .val v) :
    s.huvasWrite (0x40800000 + off + n * 0x10000) w = s.mmuWrite n off w.val := by
  rw [Nat.add_right_comm, State.huvasWrite_of_read hun hpo (by rw [State.regRead_mmu s hn hoff h8]; exact hread),
    State.regWriteAt_mmu s hn hoff]

/-- Lock slots whose word does not enable them load nothing (R266). -/
theorem State.lslotLoad_of_off {s : State} {n i : Nat} (h : bitAt (Table.get (fun _ => (0 : Word)) (s.pen n).lslot i) 0 = false) :
    s.lslotLoad n i = s := by
  unfold State.lslotLoad
  simp only [h, Bool.not_false, if_true]

/-- A loop each of whose turns leaves the state. -/
theorem State.forAll_same {α : Type} {l : List α} {f : α → State → State} {s : State} (h : ∀ a ∈ l, f a s = s) :
    s.forAll l f = s := by
  induction l with
  | nil => rfl
  | cons a l ih =>
    refine Eq.trans (congrArg (fun t : State => t.forAll l f) (h a List.mem_cons_self)) ?_
    exact ih fun b hb => h b (List.mem_cons_of_mem _ hb)

/-- The slots of a written mask of one slot. -/
theorem lslotMask_filter : ∀ i : Fin 8, (upTo 8).filter
    (fun j => (bitsOf ((BitVec.ofNat 8 (2 ^ i.val)).setWidth 64) 0 8).testBit j) = [i.val] := by decide

theorem lslotMask_testBit (m : BitVec 8) (j : Nat) : (bitsOf (m.setWidth 64) 0 8).testBit j = m.getLsbD j := by
  have hval : bitsOf (m.setWidth 64) 0 8 = m.toNat := by
    rw [bitsOf, BitVec.toNat_setWidth]
    omega
  rw [hval]
  rfl

/-! ### The mailbox page (R24) -/

/-- A write of a command word with GO is a submission. -/
theorem State.cmdWrite_go (s : State) {w : Word} (m : Nat) (hgo : bitAt w 32 = true) :
    s.cmdWrite m 0 8 w = s.goWrite m (w.setWidth 16) (BitVec.ofNat 16 (bitsOf w 16 16)) false := by
  have hbit : (bitsOf w 32 32).testBit 0 = true := by
    rw [bitsOf, Nat.testBit_mod_two_pow, Nat.testBit_div_two_pow]
    exact hgo
  have hop : BitVec.ofNat 16 w.toNat = w.setWidth 16 := by
    refine BitVec.eq_of_toNat_eq ?_
    rw [BitVec.toNat_ofNat, BitVec.toNat_setWidth]
  have htoken : BitVec.ofNat 16 (w.toNat / 65536) = BitVec.ofNat 16 (bitsOf w 16 16) := by
    refine BitVec.eq_of_toNat_eq ?_
    rw [BitVec.toNat_ofNat, BitVec.toNat_ofNat, bitsOf, Nat.mod_mod]
    rfl
  rw [State.cmdWrite]
  simp only [if_true, hbit, hop, htoken]
  rfl

/-- The window and the offset of a mailbox's command word. -/
theorem cmd_window (m : MbN) : (0x40060000 + 512 * m.val - 0x40000000) / 0x10000 = 6 ∧
    (0x40060000 + 512 * m.val) % 0x10000 = 512 * m.val := by omega

theorem State.regWriteAt_cmd (s : State) (m : MbN) (w : Word) :
    s.regWriteAt none (0x40060000 + 512 * m.val) w = s.cmdWrite m.val 0 8 w := by
  obtain ⟨hw, ho⟩ := cmd_window m
  have hm : 512 * m.val / 0x200 = m.val := by omega
  have hlo : 512 * m.val % 8 = 0 := by omega
  have hin : 512 * m.val < 0x1000 := by omega
  have hpage : ¬0x800 ≤ 512 * m.val := by omega
  have hword : 512 * m.val % 0x200 < 8 := by omega
  unfold State.regWriteAt
  simp only [hw, ho]
  unfold State.huvWrite State.pageWrite
  simp only [hm, hlo, if_pos hin, if_neg hpage, if_pos hword]
  rfl

theorem State.regRead_cmd (s : State) (m : MbN) : ∃ v, s.regRead none (0x40060000 + 512 * m.val) = .val v := by
  obtain ⟨hw, ho⟩ := cmd_window m
  have h8 : ¬(0x40060000 + 512 * m.val) % 8 ≠ 0 := by omega
  have hin : 512 * m.val < 0x1000 := by omega
  have hpage : 512 * m.val < 0x800 := by omega
  have hword : 512 * m.val % 0x200 = 0 := by omega
  unfold State.regRead
  simp only [hw, ho, if_neg h8]
  unfold State.huvReg State.mailboxReg
  simp only [if_pos hin, if_pos hpage, hword]
  exact ⟨_, rfl⟩

theorem clearing_cmd (m : MbN) (v same : Word) : clearing (0x40060000 + 512 * m.val) v same = v := by
  obtain ⟨hw, ho⟩ := cmd_window m
  refine if_neg ?_
  simp only [isW1c, hw, ho, Bool.or_eq_true, Bool.and_eq_true, decide_eq_true_iff]
  omega

theorem cmd_addr : ∀ m : MbN, (BitVec.ofNat 48 (0x40060000 + 512 * m.val)).toNat = 0x40060000 + 512 * m.val := by decide

theorem cmd_isReg : ∀ m : MbN, isReg (0x40060000 + 512 * m.val) = true := by decide

/-! ### Refused writes of record registers (R11, R13) -/

/-- A row whose write is refused while `lock` is closed, at its register's address. -/
def RefusedRow (s : State) (w : TWord) (e : Instr × Bool × Nat) : Prop :=
  ((w.tag = Tag.uninit ∨ w.tag = Tag.poison) → exec e.1 s = .next s) ∧
  (w.tag ≠ Tag.uninit → w.tag ≠ Tag.poison → e.2.1 = true → exec e.1 s = .next (s.raise { cls := 0x80, addr := e.2.2 }))

theorem refusedRow_of_write {s : State} {w : TWord} {c : Instr} {lock : Bool} {cpa : Nat}
    (hexec : exec c s = .next (s.huvasWrite cpa w)) (hread : ∃ v, s.regRead none cpa = .val v)
    (hlocked : lock = true → s.regWriteAt none cpa w.val = s.lockedWrite cpa) : RefusedRow s w (c, lock, cpa) := by
  refine ⟨fun htag => ?_, fun hun hpo hlock => ?_⟩
  · rw [hexec, State.huvasWrite_of_badTag htag]
  · rw [hexec, State.huvasWrite_of_read hun hpo hread, hlocked hlock]
    rfl

theorem rulingEntryWrite_refused {s : State} {w : TWord} (hup : s.huvasUp = true) :
    RefusedRow s w (.rulingEntryWrite w, s.rul.lock, if s.rul.sel = true then 0x40010110 else 0x40010128) := by
  refine refusedRow_of_write (exec_of_due (c := .rulingEntryWrite w) (s := s)
    (f := fun s => s.huvasWrite (if s.rul.sel then 0x40010110 else 0x40010128) w) rfl hup) ?_ fun hlock => ?_
  · cases hsel : s.rul.sel with
    | true =>
      obtain ⟨n, v, hread⟩ : ∃ n v, s.regRead none 0x40010110 = regVal (if s.rul.sel then rawN n else v) := ⟨_, _, rfl⟩
      rw [hsel] at hread
      exact ⟨_, hread⟩
    | false =>
      obtain ⟨v, x, hread⟩ : ∃ v x, s.regRead none 0x40010128 = regVal (if s.rul.sel then v else rawW x) := ⟨_, _, rfl⟩
      rw [hsel] at hread
      exact ⟨_, hread⟩
  · cases hsel : s.rul.sel with
    | true =>
      have hrow : s.regWriteAt none 0x40010110 w.val = rwl 0x40010110 s.rul.lock s (fun s =>
        (fun t : State => if t.rul.sel then t.storeEntry w.val else t) { s with rul := { s.rul with data0 := w.val } }) := rfl
      exact hrow.trans (rwl_of_locked hlock)
    | false =>
      have hrow : s.regWriteAt none 0x40010128 w.val = rwl 0x40010128 s.rul.lock s (fun s => s.storeEntry w.val) := rfl
      exact hrow.trans (rwl_of_locked hlock)

theorem registerRows_refused {s : State} {w : TWord} (hup : s.huvasUp = true) :
    ∀ e ∈ ([(.vtSlotWrite w, s.folio.lock || s.folio.en, 0x40000210), (.pxRecordWrite w, s.folio.lock || s.folio.en, 0x40000320),
        (.ptRecordWrite w, s.folio.lock || s.folio.en, 0x40000460), (.folioSwitchWrite w, s.folio.lock, 0x40000068),
        (.rulingEntryWrite w, s.rul.lock, if s.rul.sel = true then 0x40010110 else 0x40010128),
        (.trcListWrite w, s.trc.lock, 0x40040110), (.hifQpWrite w, s.hif.lock, 0x40050120),
        (.feedDescWrite w, s.feed.lock || s.dev ≠ .loaded, 0x40030050),
        (.domainRequestWrite false w, s.pwr.lock, 0x40070010), (.domainRequestWrite true w, s.pwr.lock, 0x40070018)] :
        List (Instr × Bool × Nat)), RefusedRow s w e := by
  have hwrite (cpa : Nat) : guarded s.huvasUp s (fun s => s.huvasWrite cpa w) = .next (s.huvasWrite cpa w) := guarded_of_due hup
  simp only [List.forall_mem_cons, List.not_mem_nil, false_implies, implies_true, and_true]
  refine ⟨?vt, ?px, ?pt, ?switch, rulingEntryWrite_refused hup, ?list, ?queue, ?desc, ?pen, ?other⟩
  case vt => exact refusedRow_of_write (hwrite 0x40000210) ⟨_, rfl⟩ fun h => if_pos h
  case px => exact refusedRow_of_write (hwrite 0x40000320) ⟨_, rfl⟩ fun h => if_pos h
  case pt => exact refusedRow_of_write (hwrite 0x40000460) ⟨_, rfl⟩ fun h => if_pos h
  case switch =>
    have hrow : s.regWriteAt none 0x40000068 w.val = s.switchWrite w.val := rfl
    exact refusedRow_of_write (hwrite 0x40000068) ⟨_, rfl⟩ fun h => hrow.trans (rwl_of_locked h)
  case list =>
    have hrow : s.regWriteAt none 0x40040110 w.val = s.listStore w.val := rfl
    exact refusedRow_of_write (hwrite 0x40040110) ⟨_, rfl⟩ fun h => hrow.trans (rwl_of_locked h)
  case queue =>
    have hrow : s.regWriteAt none 0x40050120 w.val = s.qpStore := rfl
    exact refusedRow_of_write (hwrite 0x40050120) ⟨_, rfl⟩ fun h => hrow.trans (rwl_of_locked h)
  case desc => exact refusedRow_of_write (hwrite 0x40030050) ⟨_, rfl⟩ fun h => if_pos h
  case pen =>
    have hrow : s.regWriteAt none 0x40070010 w.val = s.domainRequest false w.val := rfl
    exact refusedRow_of_write (hwrite 0x40070010) ⟨_, rfl⟩ fun h => hrow.trans (rwl_of_locked h)
  case other =>
    have hrow : s.regWriteAt none 0x40070018 w.val = s.domainRequest true w.val := rfl
    exact refusedRow_of_write (hwrite 0x40070018) ⟨_, rfl⟩ fun h => hrow.trans (rwl_of_locked h)

/-! ### The rows of their own -/

/-- FOLIO_SWITCH with ARM = 1 (R59, R60). -/
theorem State.switchWrite_arm {s : State} {v : Word} (hlock : s.folio.lock = false) (harm : bitAt v 4 = true) :
    let may := (s.slotOf (bitsOf v 0 4)).st = .verified ∧ (s.mayActivate (bitsOf v 0 4)).1 = 0 ∧ (s.folio.swAt = 0 ∨
      (s.tickAtOrAfter s.folio.swAt.toNat = s.folio.swAt.toNat ∧ s.farAhead s.folio.swAt.toNat = true))
    (may → s.switchWrite v = { s with folio := { s.folio with swSlot := bitsOf v 0 4, swArm := true, swSince := s.cyc } }) ∧
    (¬may → s.switchWrite v = s) := by
  intro may
  have hmay : ((s.slotOf (bitsOf v 0 4)).st = .verified && (s.mayActivate (bitsOf v 0 4)).1 = 0 &&
      s.switchTimeOk s.folio.swAt) = true ↔ may := by
    simp only [State.switchTimeOk, Bool.and_eq_true, Bool.or_eq_true, decide_eq_true_iff, and_assoc, may]
  rw [State.switchWrite, rwl_of_unlocked hlock]
  simp only [harm, Bool.not_true, Bool.false_eq_true, if_false]
  exact ⟨fun h => if_pos (hmay.mpr h), fun h => if_neg (fun hc => h (hmay.mp hc))⟩

/-- SUBMISSION_REQUEST of a run that has not ended (R386). -/
theorem State.subPend_spec {s : State} {p k : Nat} {w : Word} {r : Run} (hrun : (s.pen p).run = some r) :
    ∃ r' : Run, OnlyPens [p] s (s.subPend p k w) ∧ (s.subPend p k w).pen p = { s.pen p with run := some r' } ∧
      { r' with subs := r.subs } = r ∧
      ∀ j, Table.get (fun _ => (0 : Word)) r'.subs j = if j = k then w &&& 0x11FFF
        else Table.get (fun _ => 0) r.subs j := by
  refine ⟨{ r with subs := Table.set (fun _ => 0) r.subs k (subMask w) }, onlyPens_modPen,
    State.modPen_pen_same.trans ?_, rfl, fun j => ?_⟩
  · rw [hrun]
    rfl
  · by_cases h : j = k
    · rw [if_pos h, h]
      exact Table.get_set_same _ _ _ _
    · rw [if_neg h]
      exact Table.get_set_other _ _ _ h

end Sys2Proof.Machine

namespace Sys2Proof.Registers

open Sys2Proof.Machine

/-- A register access whose fabric transfer fails twice (R20). -/
theorem registerWrite_fabric {s : State} {cpa : BitVec 48} (w : TWord) (same : Word) (hup : s.huvasUp = true)
    (hreg : isReg cpa.toNat = true) :
    exec (.registerWrite cpa w true same) s = .next (s.raise { cls := 0x24, addr := cpa.toNat }) := by
  have hexec : exec (.registerWrite cpa w true same) s = execRegisterWrite cpa w true same s := rfl
  rw [hexec, execRegisterWrite, hup, hreg, guarded_of_due (Bool.and_self true), if_pos rfl]
  rfl

theorem registerReadClear_fabric {s : State} {cpa : BitVec 48} {n : Nat} (same : Word) (hup : s.huvasUp = true)
    (hcpa : cpa.toNat = n) (hread : s.regReadable n = true) :
    exec (.registerReadClear cpa true same) s = .next (s.raise { cls := 0x24, addr := n }) := by
  subst hcpa
  have hexec : exec (.registerReadClear cpa true same) s = execRegisterReadClear cpa true same s := rfl
  rw [hexec, execRegisterReadClear, hup, hread, guarded_of_due (Bool.and_self true), if_pos rfl]
  rfl

/-- Settles O51: each row by the register it writes or clears. -/
theorem registerOperationsComplete : Obligations.RegisterOperationsComplete := by
  refine ⟨fun s => ⟨fun hup => ⟨?switch, ?mmu, ?pop, ?plain, ?domain, ?clear⟩, ?request⟩, fun s w hup => registerRows_refused hup⟩
  case switch =>
    intro w hun hpo hlock k
    have hrow : s.regWriteAt none 0x40000068 w.val = s.switchWrite w.val := rfl
    have hexec : exec (.folioSwitchWrite w) s = .next (s.switchWrite w.val) := by
      rw [← hrow, ← State.huvasWrite_of_read hun hpo ⟨_, rfl⟩]
      exact guarded_of_due hup
    refine ⟨fun harm => hexec.trans (congrArg Host.Outcome.next ?_), ?_⟩
    · rw [State.switchWrite, rwl_of_unlocked hlock]
      exact if_pos (by rw [harm]; rfl)
    · intro may
      refine ⟨fun harm h => ?_, fun harm h => ?_⟩
      · rw [hexec, (State.switchWrite_arm hlock harm).1 h]
      · rw [hexec, (State.switchWrite_arm hlock harm).2 h]
  case mmu =>
    intro p hdev
    have hinv : exec (.mmuInvAll p) s = .next (s.modPen p.val (fun x => { x with tlb := [] })) := by
      refine (exec_of_due (c := .mmuInvAll p) (s := s)
        (f := fun s => s.huvasWrite (0x40800020 + p.val * 0x10000) (TWord.raw 1)) rfl hup).trans (congrArg Host.Outcome.next ?_)
      refine (State.huvasWrite_mmu (off := 0x20) p.isLt (by decide) rfl (by decide) (by decide) ⟨_, rfl⟩).trans ?_
      exact if_pos hdev
    have hload (hidle : (s.pen p.val).st = .idle) (m : BitVec 8) : exec (.mmuLslotLoad p m) s =
        .next (s.forAll ((upTo 8).filter (fun i => (bitsOf (m.setWidth 64) 0 8).testBit i)) (fun i t => t.lslotLoad p.val i)) := by
      refine (exec_of_due (c := .mmuLslotLoad p m) (s := s)
        (f := fun s => s.huvasWrite (0x40800140 + p.val * 0x10000) (TWord.raw (m.setWidth 64))) rfl hup).trans
        (congrArg Host.Outcome.next ?_)
      refine (State.huvasWrite_mmu (off := 0x140) p.isLt (by decide) rfl (by decide : Tag.raw ≠ _) (by decide : Tag.raw ≠ _)
        ⟨_, rfl⟩).trans ?_
      exact if_pos (by rw [hdev, hidle]; rfl)
    refine ⟨⟨_, hinv, onlyPens_modPen, State.modPen_pen_same⟩, fun hidle m hoff => ?_, fun hidle i => ?_⟩
    · rw [hload hidle m]
      refine congrArg Host.Outcome.next (State.forAll_same fun i hi => ?_)
      obtain ⟨hlt, hbit⟩ := List.mem_filter.mp hi
      exact State.lslotLoad_of_off (hoff i (List.mem_range.mp hlt) ((lslotMask_testBit m i).symm.trans hbit))
    · rw [hload hidle, lslotMask_filter i]
      rfl
  case pop =>
    have hexec := exec_of_due (c := .huvEqPop) (s := s) (f := fun s => s.huvasWrite 0x40062050 (TWord.raw 1)) rfl hup
    rw [hexec, State.huvasWrite_of_read (by decide) (by decide) ⟨_, rfl⟩]
    rfl
  case plain =>
    intro w same hun hpo
    have hwrite {cpa : BitVec 48} (n : Nat) (hcpa : cpa.toNat = n) (hreg : isReg n = true)
        (hread : ∃ v, s.regRead none n = .val v) :=
      State.registerWrite_of_read (same := same) hup hun hpo hcpa hreg hread
    have hperiod : s.regWriteAt none 0x40000008 (clearing 0x40000008 w.val same) = rwl 0x40000008 s.folio.lock s (fun s =>
        { s with folio := { s.folio with period := bitsOf w.val 0 27 } }) := rfl
    refine ⟨?_, fun hlock => ?_, fun hlock => ?_, ?_, fun hbar hgo m => ?_⟩
    · exact hwrite 0x40000200 (by decide) rfl ⟨_, rfl⟩
    · exact (hwrite 0x40000008 (by decide) rfl ⟨_, rfl⟩).trans (congrArg Host.Outcome.next (hperiod.trans (rwl_of_unlocked hlock)))
    · exact (hwrite 0x40000008 (by decide) rfl ⟨_, rfl⟩).trans (congrArg Host.Outcome.next (hperiod.trans (rwl_of_locked hlock)))
    · exact hwrite 0x40000050 (by decide) rfl ⟨_, rfl⟩
    · rw [hwrite _ (cmd_addr m) (cmd_isReg m) (State.regRead_cmd s m), clearing_cmd, State.regWriteAt_cmd,
        State.cmdWrite_go s m.val hgo]
      exact (exec_of_due (c := .mailboxGo m (w.val.setWidth 16) (BitVec.ofNat 16 (bitsOf w.val 16 16)) false) (s := s)
        (f := fun s => s.goWrite m.val (w.val.setWidth 16) (BitVec.ofNat 16 (bitsOf w.val 16 16)) false) rfl hbar).symm
  case domain =>
    intro w hun hpo hlock
    refine ⟨fun k hw hother => ?_, fun p hw hfenced => ?_⟩
    · have hbit : bitAt s.pwr.reqOther k.val = !!bitAt s.pwr.reqOther k.val := (Bool.not_not _).symm
      have hon : bitAt w.val k.val = !bitAt s.pwr.reqOther k.val := by
        rw [hw, bitAt_setBit _ _ (by omega), if_pos rfl]
      have hrow : s.regWriteAt none 0x40070018 w.val = s.domainRequest true w.val := rfl
      refine (exec_of_due (c := .domainRequestWrite true w) (s := s)
        (f := fun s => s.huvasWrite 0x40070018 w) rfl hup).trans (congrArg Host.Outcome.next ?_)
      rw [State.huvasWrite_of_read hun hpo ⟨_, rfl⟩, hrow, hon, hw]
      exact State.domainRequest_pair hlock hother k _ hbit
    · have hbit : bitAt s.pwr.reqPen p.val = !!bitAt s.pwr.reqPen p.val := (Bool.not_not _).symm
      have hon : bitAt w.val p.val = !bitAt s.pwr.reqPen p.val := by
        rw [hw, bitAt_setBit _ _ p.isLt, if_pos rfl]
      have hrow : s.regWriteAt none 0x40070010 w.val = s.domainRequest false w.val := rfl
      refine (exec_of_due (c := .domainRequestWrite false w) (s := s)
        (f := fun s => s.huvasWrite 0x40070010 w) rfl hup).trans (congrArg Host.Outcome.next ?_)
      rw [State.huvasWrite_of_read hun hpo ⟨_, rfl⟩, hrow, hon, hw]
      exact State.domainRequest_pen hlock (hw ▸ hfenced) hbit
  case clear =>
    intro same late
    refine ⟨?_, ?_, ?_, fun cpa w hreg => registerWrite_fabric w same hup hreg, registerReadClear_fabric same hup (by decide) rfl⟩
    · exact State.registerReadClear_of_read (cpa := 0x40000058) (n := 0x40000058) hup (by decide) rfl
    · exact State.registerReadClear_of_read (cpa := 0x40050308) (n := 0x40050308) hup (by decide) rfl
    · exact State.registerReadClear_of_read (cpa := 0x40000028) (n := 0x40000028) hup (by decide) rfl
  case request =>
    intro p k w r hst hrun hend
    have hdue : s.submits p.val = true := by
      simp only [State.submits, hst, hrun, hend, decide_true, Bool.and_self]
    obtain ⟨r', hspec⟩ := State.subPend_spec (k := k.toNat) (w := w) hrun
    exact ⟨_, r', exec_of_due (c := .submissionRequest p k w) (s := s) (f := fun s => s.subPend p.val k.toNat w) rfl hdue, hspec⟩

end Sys2Proof.Registers
end

section
/-! The power controller's switching of domains (R26, R288, R440). -/

namespace Sys2Proof.Machine

/-- With nothing waiting for the power controller its last request only ends (R377). -/
theorem State.powerDone_of_none {s : State} (h : s.huv.waiting = []) : s.powerDone = s := by
  rw [State.powerDone, h]
  exact ite_self _

theorem State.setDomain_huv (s : State) (d : Domain) (v : Bool) : (s.setDomain d v).huv = s.huv := by cases d <;> rfl

theorem State.passDown_of_not {s : State} {d : Domain} (h : ¬s.blot.pass.any (fun p => inDomain p.base d) = true) :
    s.passDown d = s := if_neg h

/-- The switch of a domain that is off, and of one that is on. -/
theorem domainSwitch_exec {s : State} {d : Domain} {on : Bool} {rest : List (Domain × Bool)} (hpow : s.powered = true)
    (hq : s.pwr.queue = (d, on) :: rest) :
    exec (if on = true then .domainSwitchOn d else .domainSwitchOff d) s =
      .next (if on = true then (({ s with pwr := { s.pwr with queue := rest } } : State).switchOn d).powerDone
        else (({ s with pwr := { s.pwr with queue := rest } } : State).switchOff d).powerDone) := by
  have hpop : s.popRequest = { s with pwr := { s.pwr with queue := rest } } := by
    rw [State.popRequest, hq, List.drop_one, List.tail_cons]
  have hdue : (s.powered && s.pwr.queue.head? = some (d, on)) = true := by
    rw [hpow, hq]
    simp
  cases on with
  | true =>
    refine (exec_of_due (c := .domainSwitchOn d) (s := s) (f := fun s => (s.popRequest.switchOn d).powerDone) rfl hdue).trans ?_
    rw [hpop]
    rfl
  | false =>
    refine (exec_of_due (c := .domainSwitchOff d) (s := s) (f := fun s => (s.popRequest.switchOff d).powerDone) rfl hdue).trans ?_
    rw [hpop]
    rfl

/-- What a domain's loss of power takes with it. -/
def State.domainLost (s : State) : Domain → State
  | .pen n => s.penDown n.val
  | .rsvPair _ => s
  | .mac m => s.macDown m.val
  | .canGpio => s.clusterDown
  | .blotter => s.blotterDown
  | .security => s.securityDown

/-- The domain of a pen that is fenced. -/
def State.fencedDomain (s : State) : Domain → Prop
  | .pen n => (s.pen n.val).st = .fenced
  | .rsvPair _ | .mac _ | .canGpio | .blotter | .security => False

/-- What a domain that leaves reset begins with. -/
def State.domainUp (s : State) : Domain → State
  | .pen n => s.modPen n.val (fun x => { x with filling0 := true, filling1 := true })
  | .rsvPair k =>
    (s.modRsv (2 * k.val) (fun x => { x with filling := true })).modRsv (2 * k.val + 1) (fun x => { x with filling := true })
  | .mac m => s.portMac m.val
  | .canGpio => s.portCluster
  | .blotter | .security => s

theorem State.switchOff_eq {s : State} {d : Domain} (h : s.domainOn d = true) :
    s.switchOff d = ((s.passDown d).setDomain d false).domainLost d := by
  rw [State.switchOff, h, Bool.not_true, if_neg Bool.false_ne_true]
  cases d <;> rfl

theorem State.setDomain_pwr (s : State) (d : Domain) (v : Bool) : ∃ pw, s.setDomain d v = { s with pwr := pw } := by
  cases d <;> exact ⟨_, rfl⟩

theorem State.switchOn_eq {s : State} {d : Domain} (h : s.domainOn d = false) (hf : ¬s.fencedDomain d) :
    s.switchOn d = (s.setDomain d true).domainUp d := by
  unfold State.switchOn
  rw [h, if_neg Bool.false_ne_true]
  cases d with
  | pen n => exact if_neg hf
  | rsvPair k => rfl
  | mac m => rfl
  | canGpio => rfl
  | blotter => rfl
  | security => rfl

theorem State.switchOn_fenced {s : State} {n : Fin 64} (h : (s.pen n.val).st = .fenced) : s.switchOn (.pen n) = s := by
  unfold State.switchOn
  exact (congrArg (fun t => if s.domainOn (.pen n) = true then s else t) (if_pos h)).trans (ite_self _)

/-! ### What goes off with a domain -/

/-- A MAC's record is as after reset. -/
def State.macReset (s : State) (m : Nat) : State := { s with macs := Table.set (fun _ => {}) s.macs m {} }

theorem State.macReset_spec (s : State) (m : Nat) : OnlyMac m s (s.macReset m) ∧ (s.macReset m).mac m = {} :=
  ⟨⟨rfl, fun _ hj => Table.get_set_other (fun _ => ({} : Mac)) s.macs {} hj⟩,
    Table.get_set_same (fun _ => ({} : Mac)) s.macs m {}⟩

theorem OnlyMac.trans {m : Nat} {s t u : State} (h : OnlyMac m s t) (h' : OnlyMac m t u) : OnlyMac m s u := by
  obtain ⟨hs, ho⟩ := h
  obtain ⟨ht, ho'⟩ := h'
  exact ⟨(congrArg (fun v : State => ({ v with macs := s.macs } : State)) ht).trans hs,
    fun j hj => (ho' j hj).trans (ho j hj)⟩

/-- A MAC without a link and with an empty queue only loses its registers. -/
theorem State.macDown_spec {s : State} {m : Nat} (hlink : (s.mac m).link = false) (hq : (s.mac m).txq = []) :
    OnlyMac m s (s.macDown m) ∧ (s.macDown m).mac m = {} := by
  obtain ⟨f, hf⟩ : ∃ f, s.ethWithdraw m stPortDown = s.modMac m f := by
    rw [State.ethWithdraw, hq]
    exact ⟨_, rfl⟩
  have hdown : s.macDown m = (s.modMac m f).macReset m := by
    rw [State.macDown, if_neg (ne_true_of_eq_false hlink), hf, State.macReset]
  obtain ⟨honly, hmac⟩ := (s.modMac m f).macReset_spec m
  rw [hdown]
  exact ⟨(onlyMac_modMac s m f).1.trans honly, hmac⟩

/-- Nothing but the controllers and the status of descriptors differs. -/
def OnlyCans (s t : State) : Prop := { t with cans := s.cans, feed := { t.feed with descs := s.feed.descs } } = s

theorem onlyCans_withdraw {s t : State} (c : Nat) (h : OnlyCans s t) : OnlyCans s (t.canWithdraw c) := by
  have hdesc : OnlyCans s (t.forAll (t.can c).txq (fun f u => u.setDescStatus f.desc 0xA)) :=
    State.forAll_of_turn (P := OnlyCans s) (fun _ u hu => hu) h
  exact hdesc

/-- The CAN/GPIO cluster loses its controllers and pins; the descriptors of frames not sent say so. -/
theorem State.clusterDown_spec (s : State) : s.clusterDown.huv = s.huv ∧ s.clusterDown.cans = [] ∧ s.clusterDown.gpio = {} ∧
    { s.clusterDown with cans := s.cans, gpio := s.gpio, feed := { s.clusterDown.feed with descs := s.feed.descs } } = s := by
  obtain ⟨u, hu⟩ : ∃ u, u = s.forAll (upTo 8) (fun c t => t.canWithdraw c) := ⟨_, rfl⟩
  have hloop : OnlyCans s u := hu ▸ State.forAll_of_turn (P := OnlyCans s) (fun c _ ht => onlyCans_withdraw c ht) rfl
  rw [State.clusterDown, ← hu]
  exact ⟨(congrArg State.huv hloop :), rfl, rfl, congrArg (fun v : State => ({ v with gpio := s.gpio } : State)) hloop⟩

/-- The blotter goes off with nothing in its hands. -/
theorem State.blotterDown_idle {s : State} (hpass : s.blot.pass = none) (hmarch : s.blot.marching = none)
    (hpens : ∀ p, p < 64 → (s.pen p).st ≠ .test ∧ (s.pen p).st ≠ .testWait) : s.blotterDown = s := by
  have hnopass : ¬s.blot.pass.isSome = true := by rw [hpass]; nofun
  have hnomarch : s.endMarchOf none 0x0903 = s := by rw [State.endMarchOf, hmarch]
  rw [State.blotterDown]
  simp only [if_neg hnopass, hnomarch]
  refine State.forAll_same fun p hp => if_neg ?_
  obtain ⟨htest, hwait⟩ := hpens p (List.mem_range.mp hp)
  simp [htest, hwait]

theorem State.killRun_of_none {s : State} {p : Nat} (h : (s.pen p).run = none) : s.killRun p = s := by
  rw [State.killRun, h]

theorem State.killEnding_of_none {s : State} {p : Nat} (h : (s.pen p).ending = none) : s.killEnding p = s := by
  rw [State.killEnding, h]

/-- A pen is out of the blotter's hands. -/
def Pen.leftBlotter (x : Pen) : Pen := { x with testPort := none, handAt := none, passAt := none }

/-- A pen without power. -/
def Pen.offNow (x : Pen) : Pen := { x.clearRun with st := .off, ending := none, tlb := [] }

theorem State.freeBlotter_pen (s : State) (p q : Nat) : (s.freeBlotter p).pen q = (s.modPen p Pen.leftBlotter).pen q := rfl

theorem State.freeBlotter_back (s : State) (p : Nat) :
    { s.freeBlotter p with pens := s.pens, blot := { (s.freeBlotter p).blot with
      ports := s.blot.ports, waitQ := s.blot.waitQ, resilver := s.blot.resilver } } = s := rfl

theorem State.hasMirror_of_pens {s t : State} (h : ∀ q, (t.pen q).mirror0 = (s.pen q).mirror0 ∧ (t.pen q).mirror1 = (s.pen q).mirror1)
    (p : Nat) : t.hasMirror p = s.hasMirror p := by
  rw [State.hasMirror, State.hasMirror, (h _).1, (h _).2]

/-- A pen that goes off gives up the blotter's ports, and nothing of a run is left on it. -/
theorem State.freeBlotter_off (s : State) (p : Nat) :
    (∀ q, q ≠ p → ((s.freeBlotter p).modPen p Pen.offNow).pen q = s.pen q) ∧
    ((s.freeBlotter p).modPen p Pen.offNow).pen p = (s.pen p).leftBlotter.offNow ∧
    { (s.freeBlotter p).modPen p Pen.offNow with
      pens := s.pens, blot := { ((s.freeBlotter p).modPen p Pen.offNow).blot with
        ports := s.blot.ports, waitQ := s.blot.waitQ, resilver := s.blot.resilver } } = s := by
  refine ⟨fun q hq => ?_, ?_, s.freeBlotter_back p⟩
  · rw [State.modPen_pen_other hq, State.freeBlotter_pen, State.modPen_pen_other hq]
  · rw [State.modPen_pen_same, State.freeBlotter_pen, State.modPen_pen_same]

/-- An idle pen without mirrored pages goes off. -/
theorem State.penDown_idle {s : State} {p : Nat} (hst : (s.pen p).st = .idle) (hrun : (s.pen p).run = none)
    (hend : (s.pen p).ending = none) (hmirror : s.hasMirror p = false) (hmarch : s.blot.marching = none) :
    s.penDown p = (s.freeBlotter p).modPen p Pen.offNow := by
  have hnot : ¬(s.pen p).st = .fenced := by rw [hst]; nofun
  obtain ⟨hother, hsame, hback⟩ := s.freeBlotter_off p
  have hoff : s.penDown p = (((s.freeBlotter p).modPen p Pen.offNow).mirrorAfterLoss p).endMarchOf (some p) 0x0B04 := by
    rw [State.penDown, if_neg hnot, State.killEnding_of_none hend, State.killRun_of_none hrun]
    rfl
  rw [hoff]
  generalize (s.freeBlotter p).modPen p Pen.offNow = v at hother hsame hback
  have hnomirror : v.hasMirror p = false := by
    refine (State.hasMirror_of_pens (s := s) (fun q => ?_) p).trans hmirror
    by_cases hq : q = p
    · rw [hq, hsame]
      exact ⟨rfl, rfl⟩
    · rw [hother q hq]
      exact ⟨rfl, rfl⟩
  have hnomarch : v.blot.marching = none := (congrArg (fun w : State => w.blot.marching) hback).trans hmarch
  rw [State.mirrorAfterLoss, hnomirror, Bool.not_false, if_pos rfl, State.endMarchOf, hnomarch]

/-- What is left of an idle pen without mirrored pages that goes off. -/
theorem State.penDown_idle_spec {s : State} {p : Nat} (hst : (s.pen p).st = .idle) (hrun : (s.pen p).run = none)
    (hend : (s.pen p).ending = none) (hmirror : s.hasMirror p = false) (hmarch : s.blot.marching = none) :
    (s.penDown p).huv = s.huv ∧ (∀ q, q ≠ p → (s.penDown p).pen q = s.pen q) ∧
    (s.penDown p).pen p = { (s.pen p).clearRun with
      st := .off, tlb := [], testPort := none, handAt := none, passAt := none } ∧
    { s.penDown p with pens := s.pens, blot := { (s.penDown p).blot with
      ports := s.blot.ports, waitQ := s.blot.waitQ, resilver := s.blot.resilver } } = s := by
  obtain ⟨hother, hsame, hback⟩ := s.freeBlotter_off p
  rw [State.penDown_idle hst hrun hend hmirror hmarch]
  generalize (s.freeBlotter p).modPen p Pen.offNow = v at hother hsame hback
  refine ⟨(congrArg State.huv hback :), hother, hsame.trans ?_, hback⟩
  exact congrArg (fun e => ({ (s.pen p).clearRun with
    st := .off, ending := e, tlb := [], testPort := none, handAt := none, passAt := none } : Pen)) hend.symm

/-- The port record's words of one MAC (R391). -/
theorem State.portMac_spec (s : State) (m : Nat) : OnlyMac m s (s.portMac m) ∧ (s.portMac m).mac m =
    if s.feed.portSet = true then { s.mac m with
      ctrl := s.portWord (4 * m), phyDly := s.portWord (4 * m + 1), ptpCfg := s.portWord (4 * m + 2)
      cbCfg := s.portWord (4 * m + 3) } else s.mac m := by
  rw [State.portMac]
  cases s.feed.portSet with
  | true =>
    rw [Bool.not_true, if_neg Bool.false_ne_true, if_pos rfl]
    exact onlyMac_modMac s m _
  | false => exact ⟨⟨rfl, fun _ _ => rfl⟩, rfl⟩

/-- Both reservoirs of a pair begin their fill. -/
theorem State.fillPair_spec (s : State) (k : Nat) :
    let v := (s.modRsv (2 * k) (fun x => { x with filling := true })).modRsv (2 * k + 1) (fun x => { x with filling := true })
    { v with rsv := s.rsv } = s ∧
    ∀ r, v.rsvOf r = if r / 2 = k then { s.rsvOf r with filling := true } else s.rsvOf r := by
  intro v
  refine ⟨rfl, fun r => ?_⟩
  by_cases h1 : r = 2 * k + 1
  · subst h1
    rw [if_pos (by omega)]
    refine State.modRsv_rsvOf_same.trans ?_
    rw [State.modRsv_rsvOf_other (by omega)]
  · refine (State.modRsv_rsvOf_other h1).trans ?_
    by_cases h0 : r = 2 * k
    · subst h0
      rw [if_pos (by omega)]
      exact State.modRsv_rsvOf_same
    · rw [if_neg (by omega)]
      exact State.modRsv_rsvOf_other h0

end Sys2Proof.Machine

namespace Sys2Proof.Registers

open Sys2Proof.Machine

/-- Settles O52: each domain by what its switch leaves. -/
theorem domainSwitchesComplete : Obligations.DomainSwitchesComplete := by
  intro s d on rest hpow hq hwait c t u passes
  have hexec : exec c s = .next (if on = true then (t.switchOn d).powerDone else (t.switchOff d).powerDone) :=
    domainSwitch_exec hpow hq
  have hu : u.huv.waiting = [] := by rw [State.setDomain_huv]; exact hwait
  have hton : t.domainOn d = s.domainOn d := by cases d <;> rfl
  refine ⟨fun h => ?same, fun hne hpass => ?passes, fun hne hno => ?rest⟩
  case same =>
    have hdone : t.powerDone = t := State.powerDone_of_none hwait
    cases on with
    | true =>
      have h1 : t.switchOn d = t := if_pos (hton.trans h)
      rw [hexec, if_pos rfl, h1, hdone]
    | false =>
      have h1 : t.switchOff d = t := if_pos (by rw [hton, h]; rfl)
      rw [hexec, if_neg Bool.false_ne_true, h1, hdone]
  case passes =>
    obtain ⟨hany, hoff⟩ := hpass
    have hlost : exec c s = .next (((t.passEnd .powerOff).setDomain d false).domainLost d).powerDone := by
      have hpass : t.passDown d = t.passEnd .powerOff := if_pos hany
      have hd : t.domainOn d = true := by
        rw [hton]
        simpa [hoff] using hne
      rw [hexec, hoff, if_neg Bool.false_ne_true, State.switchOff_eq hd, hpass]
    refine ⟨fun k hk => ?_, fun n hn => ?_⟩
    · subst hk
      exact hlost
    · subst hn
      exact hlost
  case rest =>
    have hgo {v : State} (hf : on = true → ¬s.fencedDomain d) (hv : (if on = true then u.domainUp d else u.domainLost d) = v)
        (hw : v.huv.waiting = []) : exec c s = .next v := by
      cases on with
      | true =>
        have hd : t.domainOn d = false := by
          rw [hton]
          simpa using hne
        have hf' : ¬t.fencedDomain d := by cases d <;> exact hf rfl
        rw [hexec, if_pos rfl, State.switchOn_eq hd hf', ← State.powerDone_of_none hw, ← hv]
        rfl
      | false =>
        have hpass : t.passDown d = t := State.passDown_of_not fun hany => hno ⟨hany, rfl⟩
        have hd : t.domainOn d = true := by
          rw [hton]
          simpa using hne
        rw [hexec, if_neg Bool.false_ne_true, State.switchOff_eq hd, hpass, ← State.powerDone_of_none hw, ← hv]
        rfl
    obtain ⟨pw, hpw⟩ : ∃ pw, u = { s with pwr := pw } := by
      obtain ⟨pw, hpw⟩ := t.setDomain_pwr d on
      exact ⟨pw, hpw⟩
    clear_value u
    subst hpw
    refine ⟨?_, ?_, ?_, ?_, ?_, ?_⟩
    · rintro k rfl
      obtain ⟨hback, hrsv⟩ := State.fillPair_spec { s with pwr := pw } k.val
      cases on with
      | true => exact ⟨_, hgo nofun rfl hwait, hback, fun r => (hrsv r).trans (by simp; rfl)⟩
      | false => exact ⟨_, hgo nofun rfl hwait, rfl, fun r => (if_neg (by simp)).symm⟩
    · rintro rfl
      cases on with
      | true => exact hgo nofun rfl hwait
      | false => exact hgo nofun rfl hwait
    · rintro rfl hfree
      cases on with
      | true => exact hgo nofun rfl hwait
      | false =>
        obtain ⟨hpass, hmarch, hpens⟩ := hfree.resolve_left nofun
        exact hgo nofun (State.blotterDown_idle (s := { s with pwr := pw }) hpass hmarch hpens) hwait
    · rintro m rfl hlink hq'
      cases on with
      | true =>
        obtain ⟨honly, hmac⟩ := State.portMac_spec { s with pwr := pw } m.val
        exact ⟨_, hgo nofun rfl ((congrArg (fun v : State => v.huv.waiting) honly.1).trans hwait), honly, hmac⟩
      | false =>
        obtain ⟨honly, hmac⟩ := State.macDown_spec (s := { s with pwr := pw }) hlink hq'
        exact ⟨_, hgo nofun rfl ((congrArg (fun v : State => v.huv.waiting) honly.1).trans hwait), honly, hmac⟩
    · rintro rfl
      refine ⟨fun hon hport => ?_, fun hoff => ?_⟩
      · refine hgo nofun ((if_pos hon).trans (if_pos ?_)) hwait
        rw [hport]
        rfl
      · obtain ⟨hhuv, hcans, hgpio, hback⟩ := State.clusterDown_spec { s with pwr := pw }
        cases hoff
        exact ⟨_, hgo nofun rfl ((congrArg Huv.waiting hhuv).trans hwait), hcans, hgpio, hback⟩
    · rintro n rfl
      refine ⟨fun hst => ?_, fun hst hon => ?_, fun hst hoff hrun hend hmirror hmarch => ?_⟩
      · cases on with
        | true => exact hexec.trans (congrArg Host.Outcome.next
            ((congrArg State.powerDone (State.switchOn_fenced (s := t) hst)).trans (State.powerDone_of_none hwait)))
        | false => exact hgo nofun (if_pos hst) hwait
      · exact ⟨_, hgo (fun _ => hst) (if_pos hon) hwait, onlyPens_modPen, State.modPen_pen_same⟩
      · obtain ⟨hhuv, hspec⟩ := State.penDown_idle_spec (s := { s with pwr := pw }) hst hrun hend hmirror hmarch
        cases hoff
        exact ⟨_, hgo nofun rfl ((congrArg Huv.waiting hhuv).trans hwait), hspec⟩

end Sys2Proof.Registers
end

section
/-! Requests of the host: doorbells, inbound accesses and the MSI-X table (R326, R329, R334, R335, R339, R349). -/

namespace Sys2Proof.Machine

/-! ### Doorbells (R334, R335) -/

/-- The use of a ring after a doorbell stays within its size. -/
def Queue.bellGood (q : Queue) (w : Word) : Prop :=
  if bitAt w 14 = true then (q.sTail + 65536 - bitsOf w 16 16) % 65536 ≤ q.sSize
  else if q.toHost = true then (q.dTail + 65536 - bitsOf w 16 16) % 65536 ≤ q.dSize
  else (bitsOf w 16 16 + 65536 - q.dHead) % 65536 ≤ q.dSize

/-- A queue whose ring's index a doorbell moves. -/
def Queue.rung (q : Queue) (w : Word) : Queue :=
  if bitAt w 14 = true then { q with sHead := bitsOf w 16 16 }
  else if q.toHost = true then { q with dHead := bitsOf w 16 16 }
  else { q with dTail := bitsOf w 16 16 }

theorem State.ringDoorbell_good {s : State} {w : Word} (hen : (s.queue (bitsOf w 0 14)).en = true)
    (hgood : (s.queue (bitsOf w 0 14)).bellGood w) :
    s.ringDoorbell w = s.modQueue (bitsOf w 0 14) (fun _ => (s.queue (bitsOf w 0 14)).rung w) := by
  rw [Queue.bellGood] at hgood
  rw [State.ringDoorbell, Queue.rung]
  simp only [hen, Bool.not_true, Bool.false_eq_true, if_false]
  by_cases h14 : bitAt w 14 = true
  · rw [if_pos h14] at hgood
    rw [if_pos h14, if_pos hgood, if_pos h14]
    rfl
  · rw [if_neg h14] at hgood
    rw [if_neg h14, if_neg h14]
    by_cases hto : (s.queue (bitsOf w 0 14)).toHost = true
    · rw [if_pos hto] at hgood
      rw [if_pos hto, if_pos hgood, if_pos hto]
      rfl
    · rw [if_neg hto] at hgood
      rw [if_neg hto, if_pos hgood, if_neg hto]
      rfl

theorem State.ringDoorbell_bad {s : State} {w : Word}
    (h : (s.queue (bitsOf w 0 14)).en = false ∨ ¬(s.queue (bitsOf w 0 14)).bellGood w) :
    s.ringDoorbell w = s.badDoorbell (bitsOf w 0 14) := by
  rw [State.ringDoorbell]
  cases hen : (s.queue (bitsOf w 0 14)).en with
  | false => exact if_pos rfl
  | true =>
    have hbad := h.resolve_left (by rw [hen]; nofun)
    rw [Queue.bellGood] at hbad
    simp only [Bool.not_true, Bool.false_eq_true, if_false]
    by_cases h14 : bitAt w 14 = true
    · rw [if_pos h14] at hbad
      rw [if_pos h14, if_neg hbad]
    · rw [if_neg h14] at hbad
      rw [if_neg h14]
      by_cases hto : (s.queue (bitsOf w 0 14)).toHost = true
      · rw [if_pos hto] at hbad
        rw [if_pos hto, if_neg hbad]
      · rw [if_neg hto] at hbad
        rw [if_neg hto, if_neg hbad]

/-! ### AER (R326) -/

/-- The errors logged after one more. -/
def Aer.noting (a : Aer) (e : AerError) : Aer := if a.logged.contains e then a else { a with logged := a.logged ++ [e] }

theorem Aer.mem_noting (a : Aer) (e x : AerError) : x ∈ (a.noting e).logged ↔ x ∈ a.logged ∨ x = e := by
  rw [Aer.noting]
  by_cases h : a.logged.contains e = true
  · rw [if_pos h]
    have hmem : e ∈ a.logged := by simpa using h
    exact ⟨.inl, fun hx => hx.elim id fun he => he ▸ hmem⟩
  · rw [if_neg h]
    simp

theorem Aer.noting_first (a : Aer) (e : AerError) : (a.noting e).first = a.first := by
  rw [Aer.noting]
  split <;> rfl

theorem State.noteAer_noted (s : State) (e : AerError) : s.AerNoted (s.noteAer e) e := by
  have hlogged := s.hif.aer.mem_noting e
  have hfirst := s.hif.aer.noting_first e
  have hnote : s.noteAer e = if (s.hif.aer.noting e).first.isSome then { s with hif := { s.hif with aer := s.hif.aer.noting e } }
      else { s with free := s.free + 1 + 1 + 1, hif := { s.hif with aer := { s.hif.aer.noting e with
        first := some e, header := (Config.freeWord s.free, Config.freeWord (s.free + 1))
        tlpPrefix := Config.freeWord (s.free + 1 + 1) } } } := rfl
  rw [hnote, hfirst]
  by_cases h : s.hif.aer.first.isSome = true
  · rw [if_pos h]
    exact ⟨rfl, hlogged, hfirst.trans (if_pos h).symm⟩
  · rw [if_neg h]
    exact ⟨rfl, hlogged, (if_neg h).symm⟩

/-! ### MSI-X (R339) -/

/-- An index whose content is not the default is listed. -/
theorem Table.mem_keys_of_get {α : Type} {d : Nat → α} {t : Table α} {k : Nat} (h : Table.get d t k ≠ d k) : k ∈ t.map (·.1) := by
  induction t with
  | nil => exact absurd rfl h
  | cons e t ih =>
    obtain ⟨j, v⟩ := e
    by_cases hk : k = j
    · simp [hk]
    · rw [List.map_cons]
      refine List.mem_cons_of_mem _ (ih ?_)
      simpa [Table.get, hk] using h

/-- A message for one vector, whose entry is no longer pending. -/
def State.msixSent (s : State) (v : Nat) : State :=
  { s.modMsix v (fun e => { e with pend := false }) with out := if s.linkOk = true then s.out ++ [.msix v] else s.out }

/-- What the flush of the pending vectors does for one of them. -/
def State.flushTurn (v : Nat) (t : State) : State :=
  let e := t.msixOf v
  if e.pend && t.hif.msixEn && !t.hif.funcMask && !e.ctrl.getLsbD 0 then
    (t.modMsix v (fun e => { e with pend := false })).sendMsix v
  else t

theorem State.flushTurn_idle {s : State} {v : Nat} (h : (s.msixOf v).pend = false) : s.flushTurn v = s := by
  rw [State.flushTurn, h]
  rfl

theorem State.sendMsix_open {s : State} {v : Nat} (hen : s.hif.msixEn = true) (hmask : s.hif.funcMask = false)
    (hctrl : (s.msixOf v).ctrl = 0) (haddr : (s.msixOf v).addr.toNat < 0xF00000000000) :
    s.sendMsix v = if s.linkOk = true then { s with out := s.out ++ [.msix v] } else s := by
  obtain ⟨u, hu, -, -, -, hsent⟩ := s.sendMsix_asked v
  rw [Host.Outcome.next.inj hu]
  exact hsent hen (by rw [hmask, hctrl]; simp) haddr

theorem State.flushTurn_sends {s : State} {v : Nat} (hpend : (s.msixOf v).pend = true) (hen : s.hif.msixEn = true)
    (hmask : s.hif.funcMask = false) (hctrl : (s.msixOf v).ctrl = 0) (haddr : (s.msixOf v).addr.toNat < 0xF00000000000) :
    s.flushTurn v = s.msixSent v := by
  have hmod : (s.modMsix v (fun e => { e with pend := false })).msixOf v = { s.msixOf v with pend := false } :=
    State.modMsix_msixOf_same
  have hsend := State.sendMsix_open (s := s.modMsix v (fun e => { e with pend := false })) (v := v) hen hmask
    (by rw [hmod]; exact hctrl) (by rw [hmod]; exact haddr)
  have hturn : s.flushTurn v = (s.modMsix v (fun e => { e with pend := false })).sendMsix v := by
    refine if_pos ?_
    rw [hpend, hen, hmask, hctrl]
    rfl
  rw [hturn, hsend, State.msixSent]
  have hlink : (s.modMsix v (fun e => { e with pend := false })).linkOk = s.linkOk := rfl
  rw [hlink]
  cases s.linkOk <;> rfl

theorem State.msixSent_msixOf (s : State) (v j : Nat) :
    (s.msixSent v).msixOf j = if j = v then { s.msixOf v with pend := false } else s.msixOf j := by
  refine Eq.trans (b := (s.modMsix v (fun e => { e with pend := false })).msixOf j) rfl ?_
  by_cases h : j = v
  · rw [if_pos h, h]
    exact State.modMsix_msixOf_same
  · rw [if_neg h]
    exact State.modMsix_msixOf_other h

/-- The flush of a table in which one vector at most is pending. -/
theorem State.flushMsix_one {s : State} {v : Nat} (hother : ∀ j, j ≠ v → (s.msixOf j).pend = false)
    (hctrl : (s.msixOf v).ctrl = 0) (haddr : (s.msixOf v).addr.toNat < 0xF00000000000) :
    s.flushMsix = if (s.msixOf v).pend = true ∧ s.hif.msixEn = true ∧ s.hif.funcMask = false then s.msixSent v else s := by
  have hflush : s.flushMsix = s.forAll (s.hif.msix.map (·.1)) State.flushTurn := rfl
  have hdone (l : List Nat) : (s.msixSent v).forAll l State.flushTurn = s.msixSent v := by
    refine State.forAll_same fun j _ => State.flushTurn_idle ?_
    rw [s.msixSent_msixOf v j]
    by_cases h : j = v
    · rw [if_pos h]
    · rw [if_neg h, hother j h]
  rw [hflush]
  by_cases hsent : (s.msixOf v).pend = true ∧ s.hif.msixEn = true ∧ s.hif.funcMask = false
  · rw [if_pos hsent]
    obtain ⟨hpend, hen, hmask⟩ := hsent
    have hmem : v ∈ s.hif.msix.map (·.1) := by
      refine Table.mem_keys_of_get (d := fun _ => ({} : MsixEntry)) fun h => ?_
      rw [State.msixOf, h] at hpend
      exact nomatch hpend
    generalize s.hif.msix.map (·.1) = l at hmem
    induction l with
    | nil => exact nomatch hmem
    | cons j l ih =>
      by_cases hj : j = v
      · subst hj
        refine Eq.trans (congrArg (fun t : State => t.forAll l State.flushTurn) ?_) (hdone l)
        exact State.flushTurn_sends hpend hen hmask hctrl haddr
      · refine Eq.trans (congrArg (fun t : State => t.forAll l State.flushTurn) (State.flushTurn_idle (hother j hj))) ?_
        exact ih ((List.mem_cons.mp hmem).resolve_left (Ne.symm hj))
  · rw [if_neg hsent]
    refine State.forAll_same fun j _ => ?_
    by_cases hj : j = v
    · subst hj
      refine if_neg fun h => hsent ?_
      simp only [Bool.and_eq_true, Bool.not_eq_true'] at h
      obtain ⟨⟨⟨hpend, hen⟩, hmask⟩, -⟩ := h
      exact ⟨hpend, hen, hmask⟩
    · exact State.flushTurn_idle (hother j hj)

end Sys2Proof.Machine

namespace Sys2Proof.HostInterface

open Sys2Proof.Machine

section requests

variable {s : State}

theorem inboundWrite_exec (hbar : s.barOpen = true) (bar2 : Bool) (off : BitVec 17) (size : BitVec 13) (w : Word)
    (poisoned : Bool) : exec (.inboundWrite bar2 off size w poisoned false) s =
      .next (s.hostWrite bar2 off.toNat size.toNat w poisoned) := by
  have hexec : exec (.inboundWrite bar2 off size w poisoned false) s = execInboundWrite bar2 off size w poisoned false s := rfl
  rw [hexec, execInboundWrite, guarded_of_due hbar, Bool.false_and, if_neg Bool.false_ne_true]

theorem inboundRead_exec (hbar : s.barOpen = true) (bar2 : Bool) (off : BitVec 17) (size : BitVec 13) :
    exec (.inboundRead bar2 off size false) s = .next (s.hostRead bar2 off.toNat size.toNat) := by
  have hexec : exec (.inboundRead bar2 off size false) s = execInboundRead bar2 off size false s := rfl
  rw [hexec, execInboundRead, guarded_of_due hbar, Bool.false_and, if_neg Bool.false_ne_true]

theorem doorbell_exec (hbar : s.barOpen = true) (w : Word) : exec (.doorbell w) s = .next (s.ringDoorbell w) :=
  exec_of_due (c := .doorbell w) (s := s) (f := fun s => s.ringDoorbell w) rfl hbar

theorem inboundWrite_ecrc (hbar : s.barOpen = true) (hchk : s.hif.ecrcChk = true) (off : BitVec 17) (size : BitVec 13) (w : Word)
    (poisoned : Bool) : exec (.inboundWrite false off size w poisoned true) s = .next (s.noteAer .ecrc) := by
  have hexec : exec (.inboundWrite false off size w poisoned true) s = execInboundWrite false off size w poisoned true s := rfl
  rw [hexec, execInboundWrite, guarded_of_due hbar, hchk, if_pos (Bool.and_self true)]

theorem inboundRead_ecrc (hbar : s.barOpen = true) (hchk : s.hif.ecrcChk = true) (off : BitVec 17) (size : BitVec 13) :
    exec (.inboundRead false off size true) s = .next (s.noteAer .ecrc) := by
  have hexec : exec (.inboundRead false off size true) s = execInboundRead false off size true s := rfl
  rw [hexec, execInboundRead, guarded_of_due hbar, hchk, if_pos (Bool.and_self true)]

/-- What is logged under AER leaves the output and the count of unsupported requests. -/
theorem noteAer_keeps (e : AerError) : (s.noteAer e).out = s.out ∧ (s.noteAer e).hif.cntUr = s.hif.cntUr := by
  obtain ⟨hback, -, -⟩ := s.noteAer_noted e
  exact ⟨(congrArg State.out hback :), (congrArg (fun t : State => t.hif.cntUr) hback :)⟩

/-- The completion of a read that is refused. -/
theorem emit_refused : (s.noteAer .unsupported).emit (.completion false 0) =
    { s.noteAer .unsupported with out := s.out ++ [.completion false 0] } := by
  rw [State.emit, (noteAer_keeps .unsupported).1]

/-! ### The mailbox page (R349) -/

/-- An argument word's place in the mailbox page. -/
theorem arg_place (m : MbN) {i : Nat} (hi : i < 30) : (BitVec.ofNat 17 (512 * m.val + 16 + 8 * i)).toNat = 512 * m.val + 16 + 8 * i := by
  rw [BitVec.toNat_ofNat]
  omega

/-- A result word's place in the mailbox page. -/
theorem res_place (m : MbN) {i k : Nat} (hi : i < 32) (hk : k < 8) :
    (BitVec.ofNat 17 (512 * m.val + 256 + k + 8 * i)).toNat = 512 * m.val + 256 + k + 8 * i := by
  rw [BitVec.toNat_ofNat]
  omega

theorem putHalf_whole (old w : Word) : putHalf old 0 8 w = w := by
  refine BitVec.eq_of_getLsbD_eq fun i hi => ?_
  refine (bitAt_setBits old 0 64 w.toNat i (by decide)).trans ?_
  rw [if_pos ⟨Nat.zero_le i, by omega⟩, Nat.mod_eq_of_lt w.isLt]
  rfl

/-- An argument word written while the mailbox is free (R349, R350). -/
theorem pageWrite_arg (m : MbN) {i : Nat} (hi : i < 30) (w : Word) (hfree : (s.mbox m.val).taken = false) :
    s.pageWrite (512 * m.val + 16 + 8 * i) 8 w =
      s.modMbox m.val (fun b => { b with arg := Table.set (fun _ => 0) b.arg i w }) := by
  have hm : (512 * m.val + 16 + 8 * i) / 0x200 = m.val := by omega
  have hlo : (512 * m.val + 16 + 8 * i) % 8 = 0 := by omega
  have ho : (512 * m.val + 16 + 8 * i) % 0x200 = 16 + 8 * i := by omega
  have hidx : (16 + 8 * i - 16) / 8 = i := by omega
  have hpage : ¬0x800 ≤ 512 * m.val + 16 + 8 * i := by omega
  have hcmd : ¬16 + 8 * i < 8 := by omega
  have hstat : ¬16 + 8 * i = 8 := by omega
  have hin : ¬(16 + 8 * i < 16 || 0x100 ≤ 16 + 8 * i) = true := by
    simp only [Bool.or_eq_true, decide_eq_true_iff]
    omega
  unfold State.pageWrite
  simp only [hm, hlo, ho, if_neg hpage, if_neg hcmd, if_neg hstat, if_neg hin, hfree, Bool.false_eq_true, if_false, hidx,
    putHalf_whole]

theorem mailboxReg_arg (m : MbN) {i : Nat} (hi : i < 30) :
    s.mailboxReg (512 * m.val + 16 + 8 * i) = rawW (Table.get (fun _ => 0) (s.mbox m.val).arg i) := by
  have hm : (512 * m.val + 16 + 8 * i) / 0x200 = m.val := by omega
  have ho : (512 * m.val + 16 + 8 * i) % 0x200 = 16 + 8 * i := by omega
  have hpage : 512 * m.val + 16 + 8 * i < 0x800 := by omega
  have h0 : ¬16 + 8 * i = 0 := by omega
  have h8 : ¬16 + 8 * i = 8 := by omega
  have harg : 16 + 8 * i < 0x100 := by omega
  have hidx : (16 + 8 * i - 0x10) / 8 = i := by omega
  unfold State.mailboxReg
  simp only [hm, ho, if_pos hpage, if_neg h0, if_neg h8, if_pos harg, hidx]

theorem mailboxReg_res (m : MbN) {i : Nat} (hi : i < 32) :
    s.mailboxReg (512 * m.val + 256 + 8 * i) = rawW (Table.get (fun _ => 0) (s.mbox m.val).res i) := by
  have hm : (512 * m.val + 256 + 8 * i) / 0x200 = m.val := by omega
  have ho : (512 * m.val + 256 + 8 * i) % 0x200 = 256 + 8 * i := by omega
  have hpage : 512 * m.val + 256 + 8 * i < 0x800 := by omega
  have h0 : ¬256 + 8 * i = 0 := by omega
  have h8 : ¬256 + 8 * i = 8 := by omega
  have hres : ¬256 + 8 * i < 0x100 := by omega
  have hidx : (256 + 8 * i - 0x100) / 8 = i := by omega
  unfold State.mailboxReg
  simp only [hm, ho, if_pos hpage, if_neg h0, if_neg h8, if_neg hres, hidx]

/-- An aligned access to the mailbox page at a word that it holds (R329). -/
theorem barHit_mailbox {off n : Nat} {w : TWord} (hoff : off < 0x1000) (hreg : s.mailboxReg (off / 8 * 8) = some w)
    (hn : n = 4 ∨ n = 8) (halign : off % n = 0) : s.barHit off n = true := by
  rw [State.barHit, State.barOccupied, hreg]
  simp only [Bool.and_eq_true, Bool.or_eq_true, decide_eq_true_iff, Option.isSome_some]
  exact ⟨⟨⟨hn, halign⟩, by omega⟩, .inl (.inl (.inl ⟨hoff, trivial⟩))⟩

/-- A read of a result word, or of its upper half. -/
theorem hostRead_res (m : MbN) {i : Nat} (hi : i < 32) :
    s.hostRead false (512 * m.val + 256 + 8 * i) 8 =
      s.emit (.completion true (Table.get (fun _ => 0) (s.mbox m.val).res i)) ∧
    s.hostRead false (512 * m.val + 260 + 8 * i) 4 =
      s.emit (.completion true (BitVec.ofNat 64 (bitsOf (Table.get (fun _ => 0) (s.mbox m.val).res i) 32 32))) := by
  have hreg := mailboxReg_res (s := s) m hi
  have hword : s.barWord (512 * m.val + 256 + 8 * i) = Table.get (fun _ => 0) (s.mbox m.val).res i := by
    rw [State.barWord, if_pos (by omega), hreg]
    rfl
  refine ⟨?_, ?_⟩
  · have h8 : (512 * m.val + 256 + 8 * i) / 8 * 8 = 512 * m.val + 256 + 8 * i := by omega
    have hhit : s.barHit (512 * m.val + 256 + 8 * i) 8 = true :=
      barHit_mailbox (by omega) (h8.symm ▸ hreg) (.inr rfl) (by omega)
    rw [State.hostRead, hhit, if_neg (by decide), h8, hword]
    rfl
  · have h8 : (512 * m.val + 260 + 8 * i) / 8 * 8 = 512 * m.val + 256 + 8 * i := by omega
    have hlo : (512 * m.val + 260 + 8 * i) % 8 = 4 := by omega
    have hhit : s.barHit (512 * m.val + 260 + 8 * i) 4 = true :=
      barHit_mailbox (by omega) (h8.symm ▸ hreg) (.inl rfl) (by omega)
    rw [State.hostRead, hhit, if_neg (by decide), h8, hword, hlo]
    rfl

end requests

/-- Settles O53: each request by what it finds in the BAR. -/
theorem hostRequestsComplete : Obligations.HostRequestsComplete := by
  intro s hbar
  refine ⟨fun w => ?_, fun off size w poisoned => ?_, fun m i w hi => ?_, fun m i hi => ?_, fun v hother => ?_⟩
  · intro n q idx good
    refine ⟨fun hen hgood => ?_, fun hbad => ?_, ?_, ?_⟩
    · exact ⟨_, (doorbell_exec hbar w).trans (congrArg Host.Outcome.next (State.ringDoorbell_good hen hgood)),
        fun j hj => State.modQueue_queue_other hj, rfl, State.modQueue_queue_same⟩
    · exact (doorbell_exec hbar w).trans (congrArg Host.Outcome.next (State.ringDoorbell_bad hbad))
    · rw [inboundWrite_exec hbar, doorbell_exec hbar]
      rfl
    · rw [inboundWrite_exec hbar, doorbell_exec hbar]
      rfl
  · intro refused
    refine ⟨fun hlo hhi => ?_, fun hp => ?_, fun hp => ?_, ?_, fun hchk => ?_⟩
    · have hmiss : ¬s.barHit off.toNat size.toNat = true := by
        rw [State.barHit, State.barOccupied]
        simp only [Bool.and_eq_true, Bool.or_eq_true, decide_eq_true_iff]
        omega
      refine ⟨_, s.noteAer_noted .unsupported, ?_, ?_⟩
      · rw [inboundWrite_exec hbar, State.hostWrite, if_neg Bool.false_ne_true, if_pos (by simp [hmiss])]
      · rw [inboundRead_exec hbar, State.hostRead, if_pos (by simp [hmiss]), emit_refused]
    · rw [inboundWrite_exec hbar, hp]
      rfl
    · exact ⟨_, s.noteAer_noted .poisoned, by rw [inboundWrite_exec hbar, hp]; rfl⟩
    · refine ⟨_, s.noteAer_noted .unsupported, ?_⟩
      rw [inboundRead_exec hbar]
      exact congrArg Host.Outcome.next emit_refused
    · exact ⟨_, s.noteAer_noted .ecrc, inboundWrite_ecrc hbar hchk off size w poisoned, inboundRead_ecrc hbar hchk off size⟩
  · intro off
    have hoff : off.toNat = 512 * m.val + 16 + 8 * i := arg_place m hi
    have h8 : off.toNat / 8 * 8 = 512 * m.val + 16 + 8 * i := by omega
    have hhit : s.barHit off.toNat (8 : BitVec 13).toNat = true :=
      barHit_mailbox (by omega) (h8.symm ▸ mailboxReg_arg m hi) (.inr rfl) (by change off.toNat % 8 = 0; omega)
    have hwrite (p : Bool) : exec (.inboundWrite false off 8 w p false) s =
        .next (if p then s.noteAer .poisoned else s.pageWrite off.toNat 8 w) := by
      rw [inboundWrite_exec hbar, State.hostWrite, if_neg Bool.false_ne_true, hhit, if_neg (by decide)]
      cases p with
      | true => rfl
      | false => exact congrArg Host.Outcome.next (if_pos (by omega : off.toNat < 0x1000))
    refine ⟨⟨_, s.noteAer_noted .poisoned, hwrite true⟩, fun hfree => ?_⟩
    have hexec : exec (.inboundWrite false off 8 w false false) s =
        .next (s.modMbox m.val (fun b => { b with arg := Table.set (fun _ => 0) b.arg i w })) := by
      refine (hwrite false).trans (congrArg Host.Outcome.next ?_)
      rw [if_neg Bool.false_ne_true, hoff, pageWrite_arg m hi w hfree]
    refine ⟨_, hexec, fun j hj => State.modMbox_mbox_other hj, rfl, ?_, fun j => ?_⟩
    · rw [State.modMbox_mbox_same]
    · rw [State.modMbox_mbox_same]
      by_cases hj : j = i
      · rw [if_pos hj, hj]
        exact Table.get_set_same _ _ _ _
      · rw [if_neg hj]
        exact Table.get_set_other _ _ _ hj
  · intro w
    obtain ⟨hwhole, hhalf⟩ := hostRead_res (s := s) m hi
    have h0 : (BitVec.ofNat 17 (512 * m.val + 256 + 8 * i)).toNat = 512 * m.val + 256 + 8 * i := res_place (k := 0) m hi (by decide)
    have h4 : (BitVec.ofNat 17 (512 * m.val + 260 + 8 * i)).toNat = 512 * m.val + 260 + 8 * i := res_place (k := 4) m hi (by decide)
    refine ⟨?_, ?_⟩
    · rw [inboundRead_exec hbar, h0]
      exact congrArg Host.Outcome.next hwhole
    · rw [inboundRead_exec hbar, h4]
      exact congrArg Host.Outcome.next hhalf
  · intro e haddr sent
    obtain ⟨u, hu⟩ : ∃ u, u = s.modMsix v.val (fun e => { e with ctrl := 0 }) := ⟨_, rfl⟩
    have hsame : u.msixOf v.val = { e with ctrl := 0 } := by rw [hu]; exact State.modMsix_msixOf_same
    have hkeep (j : Nat) (hj : j ≠ v.val) : u.msixOf j = s.msixOf j := by rw [hu]; exact State.modMsix_msixOf_other hj
    have hexec : exec (.msixUnmask v) s = .next u.flushMsix := by
      rw [hu]
      exact exec_of_due (c := .msixUnmask v) (s := s)
        (f := fun s => (s.modMsix v.val (fun e => { e with ctrl := 0 })).flushMsix) rfl hbar
    have hback : { u with hif := { u.hif with msix := s.hif.msix } } = s := by rw [hu]; rfl
    have hflush := State.flushMsix_one (s := u) (v := v.val) (fun j hj => by rw [hkeep j hj]; exact hother j hj)
      (by rw [hsame]) (by rw [hsame]; exact haddr)
    have hpend : (u.msixOf v.val).pend = e.pend := by rw [hsame]
    have hen : u.hif.msixEn = s.hif.msixEn := (congrArg (fun t : State => t.hif.msixEn) hback :)
    have hmask : u.hif.funcMask = s.hif.funcMask := (congrArg (fun t : State => t.hif.funcMask) hback :)
    have hlink : u.linkOk = s.linkOk := (congrArg State.linkOk hback :)
    have hout : u.out = s.out := (congrArg State.out hback :)
    rw [hpend, hen, hmask] at hflush
    clear hu
    refine ⟨_, hexec, ?_⟩
    rw [hflush]
    by_cases hsent : e.pend = true ∧ s.hif.msixEn = true ∧ s.hif.funcMask = false
    · rw [if_pos hsent]
      refine ⟨fun j hj => ?_, ?_, congrArg (fun t : State => ({ t with out := s.out } : State)) hback, ?_⟩
      · rw [u.msixSent_msixOf, if_neg hj, hkeep j hj]
      · obtain ⟨hp, he, hf⟩ := hsent
        rw [u.msixSent_msixOf, if_pos rfl, hsame, he, hf, hp]
        rfl
      · have hmsg : (u.msixSent v.val).out = if u.linkOk = true then u.out ++ [.msix v.val] else u.out := rfl
        rw [hmsg, hlink, hout]
        cases s.linkOk with
        | true => rw [if_pos rfl, if_pos ⟨hsent, rfl⟩]
        | false => rw [if_neg Bool.false_ne_true, if_neg (fun h => Bool.false_ne_true h.2)]
    · rw [if_neg hsent]
      refine ⟨hkeep, ?_, (congrArg (fun t : State => ({ t with out := s.out } : State)) hback :), ?_⟩
      · rw [hsame]
        have hstill : (e.pend && !(s.hif.msixEn && !s.hif.funcMask)) = e.pend := by
          cases hp : e.pend with
          | false => rfl
          | true =>
            rw [Bool.true_and, Bool.not_eq_true', Bool.and_eq_false_iff, Bool.not_eq_false']
            cases he : s.hif.msixEn with
            | false => exact .inl rfl
            | true =>
              cases hf : s.hif.funcMask with
              | true => exact .inr rfl
              | false => exact absurd ⟨hp, he, hf⟩ hsent
        rw [hstill]
      · rw [if_neg (fun h => hsent h.1), hout]

end Sys2Proof.HostInterface
end

section
/-! The system instructions (R151 to R156, R185 to R187, R267, R270, R271). -/

namespace Sys2Proof.Machine

section issued

variable {c : Instr} {i : Iss} {u : Uses} {s0 s t : State} {f : Bool → State → Res (Pen → Pen)}

/-- An instruction that ends normally where its pen is ready. -/
theorem exec_issued {g : Pen → Pen} (hc : exec c s0 = guarded (s0.ready i.pen.val) s0 (fun s => s.issueOne i u f))
    (hi : s0.Issues s i u) (h : f (s.issuing i u).1 (s.issued i u) = .ok g t) : exec c s0 = .next (t.modPen i.pen.val g) :=
  (exec_of_due hc hi.1).trans (congrArg _ (hi.issueOne_ok h))

end issued

/-! ### MASK (R185) -/

theorem Pen.write_status (x : Pen) (p : Bool) (r : Reg) (w : TWord) : (x.write p r w).status = x.status :=
  (congrArg Pen.status (x.write_rest p r w) :)
theorem Pen.write_pc (x : Pen) (p : Bool) (r : Reg) (w : TWord) : (x.write p r w).pc = x.pc :=
  (congrArg Pen.pc (x.write_rest p r w) :)

/-- The status word's level after it is set. -/
theorem bitsOf_setBits (w : Word) {lo len v : Nat} (h : lo + len ≤ 64) (hv : v < 2 ^ len) : bitsOf (setBits w lo len v) lo len = v := by
  refine Nat.eq_of_testBit_eq fun j => ?_
  rw [bitsOf, Nat.testBit_mod_two_pow, Nat.testBit_div_two_pow]
  by_cases hj : j < len
  · have hbit := bitAt_setBits w lo len v (j + lo) h
    rw [if_pos ⟨by omega, by omega⟩, Nat.mod_eq_of_lt hv, Nat.add_sub_cancel] at hbit
    rw [decide_eq_true hj, Bool.true_and]
    exact hbit
  · rw [decide_eq_false hj, Bool.false_and, Nat.testBit_lt_two_pow (Nat.lt_of_lt_of_le hv (Nat.pow_le_pow_right (by decide) (by omega)))]

/-- The pen after MASK. -/
def Pen.masked (x : Pen) (paired : Bool) (rd : Reg) (l : Nat) : Pen :=
  let y := x.write paired rd (TWord.uint (BitVec.ofNat 64 x.maskLevel))
  { y with status := setBits y.status 4 3 l }.done paired

theorem Pen.masked_done (x : Pen) (paired : Bool) (rd : Reg) {l : Nat} (hl : l < 8) :
    let y := x.masked paired rd l
    x.RegsAfter y rd (TWord.uint (BitVec.ofNat 64 x.maskLevel)) ∧ y.maskLevel = l ∧
    (∀ b, b < 4 ∨ 7 ≤ b → bitAt y.status b = bitAt x.status b) ∧ y.pc = x.pc + 4 ∧
    y.late = x.late.filter (fun e => e.reg ≠ x.bank rd.val) ∧ x.SameRest y := by
  have hst := x.write_status paired rd (TWord.uint (BitVec.ofNat 64 x.maskLevel))
  have hpc := x.write_pc paired rd (TWord.uint (BitVec.ofNat 64 x.maskLevel))
  refine ⟨x.write_regs paired rd _, bitsOf_setBits _ (by decide) hl, fun b hb => ?_, congrArg (· + 4) hpc, x.write_late paired rd (TWord.uint (BitVec.ofNat 64 x.maskLevel)), ?_⟩
  · have hbit := bitAt_setBits x.status 4 3 l b (by decide)
    rw [if_neg (by omega)] at hbit
    refine Eq.trans ?_ hbit
    exact congrArg (fun w => bitAt (setBits w 4 3 l) b) hst
  · exact (congrArg (fun y : Pen => ({ y with status := x.status, pc := x.pc } : Pen)) (x.write_rest paired rd _) :)

/-- The level that MASK sets, from the pen as it issues on it (R185). -/
def maskLevelOf (src : MaskSrc) (paired : Bool) (x : Pen) : Except Exc Nat :=
  if x.task then .error excPrivilege
  else match src with
    | .imm l => .ok l.toNat
    | .reg r => do
        Sys2Proof.Machine.checkTag 0 [Tag.uint] (x.read paired r)
        pure (bitsOf (x.read paired r).val 0 3)

/-- What MASK makes of its pen. -/
def maskRes (i : Iss) (rd : Reg) (src : MaskSrc) (paired : Bool) (t : State) : Res (Pen → Pen) :=
  match maskLevelOf src paired (t.pen i.pen.val) with
  | .error e => .exc e t
  | .ok l => .ok (fun x => x.masked paired rd l) t

theorem exec_mask_imm (i : Iss) (rd : Reg) (n : BitVec 3) (s : State) : exec (.mask i rd (.imm n)) s =
    guarded (s.ready i.pen.val) s (fun s => s.issueOne i (useAlu [rd] false) (maskRes i rd (.imm n))) := rfl

theorem exec_mask_reg (i : Iss) (rd r : Reg) (s : State) : exec (.mask i rd (.reg r)) s =
    guarded (s.ready i.pen.val) s (fun s => s.issueOne i (useAlu [rd, r] false) (maskRes i rd (.reg r))) := rfl

theorem maskLevelOf_task {src : MaskSrc} {paired : Bool} {x : Pen} (h : x.task = true) : maskLevelOf src paired x = .error excPrivilege :=
  if_pos h

theorem maskLevelOf_imm {n : BitVec 3} {paired : Bool} {x : Pen} (h : x.task = false) :
    maskLevelOf (.imm n) paired x = .ok n.toNat := if_neg (ne_true_of_eq_false h)

theorem maskLevelOf_reg {r : Reg} {paired : Bool} {x : Pen} (h : x.task = false) (htag : (x.read paired r).tag = Tag.uint) :
    maskLevelOf (.reg r) paired x = .ok ((x.read paired r).val.toNat % 8) := by
  have hok : Sys2Proof.Machine.checkTag 0 [Tag.uint] (x.read paired r) = .ok () :=
    checkTag_of_mem (by rw [htag]; decide) (by rw [htag]; decide)
  refine (if_neg (ne_true_of_eq_false h)).trans ?_
  simp only [hok, bitsOf, Nat.pow_zero, Nat.div_one]
  rfl

/-! ### FEAT (R151 to R156) -/

/-- Five fields packed into a word. -/
theorem pk_five (e0 a0 e1 a1 e2 a2 e3 a3 e4 a4 : Nat) : pk [(e0, a0), (e1, a1), (e2, a2), (e3, a3), (e4, a4)] =
    BitVec.ofNat 64 (0 + a0 * 2 ^ e0 + a1 * 2 ^ e1 + a2 * 2 ^ e2 + a3 * 2 ^ e3 + a4 * 2 ^ e4) := rfl

/-- FEAT0: the architecture's versions, and those of the accepted firmware (R152). -/
theorem pk_version (a b : Nat) : pk [(0, 1), (8, 1), (16, 1), (32, a), (40, b)] =
    BitVec.ofNat 64 (0x10101 + a * 2 ^ 32 + b * 2 ^ 40) := by
  have hlow : 0 + 1 * 2 ^ 0 + 1 * 2 ^ 8 + 1 * 2 ^ 16 = 0x10101 := by decide
  exact (pk_five 0 1 8 1 16 1 32 a 40 b).trans (congrArg (fun n => BitVec.ofNat 64 (n + a * 2 ^ 32 + b * 2 ^ 40)) hlow)

/-- FEAT5: the partition, its stage-1 mode and a bit of its translation record (R156). -/
theorem pk_part (part mode : Nat) (b : Bool) : pk [(0, part), (8, mode), (10, bitN b)] =
    BitVec.ofNat 64 (part + mode * 2 ^ 8 + (if b = true then 2 ^ 10 else 0)) := by
  unfold pk
  cases b <;> simp [bitN]

/-- What FEAT reads, register by register (R152 to R156). -/
theorem State.featReg_zero (s : State) (part : Nat) : s.featReg part 0 =
    pk [(0, 1), (8, 1), (16, 1), (32, bitsOf s.huv.fwVersion 16 8), (40, bitsOf s.huv.fwVersion 24 8)] := rfl
theorem State.featReg_five (s : State) (part : Nat) : s.featReg part 5 =
    pk [(0, part), (8, s.s1Mode part), (10, bitN (bitAt (s.ptWord part 0) 2))] := rfl
theorem State.featReg_one (s : State) (part : Nat) : s.featReg part 1 = 0x6FF := by simp only [State.featReg]
theorem State.featReg_reserved (s : State) (part n : Nat) : s.featReg part (n + 6) = 0 := by simp only [State.featReg]

/-- What FEAT makes of its pen. -/
def featRes (i : Iss) (rd : Reg) (n : BitVec 4) (paired : Bool) (t : State) : Res (Pen → Pen) :=
  match t.runs i.pen.val with
  | none => .wait
  | some r => .ok (fun x => (x.writeAlu paired rd (TWord.raw (t.featReg r.part n.toNat), none)).done paired) t

theorem exec_feat (i : Iss) (rd : Reg) (n : BitVec 4) (s : State) : exec (.feat i rd n) s =
    guarded (s.ready i.pen.val) s (fun s => s.issueOne i (useAlu [rd] false) (featRes i rd n)) := rfl

/-- FEAT leaves the feature register's word in its destination. -/
theorem feat_aluAt {s0 s : State} {i : Iss} {rd : Reg} {n : BitVec 4} {r : Run} {want : Word}
    (hrun : (s.issued i (useAlu [rd] false)).runs i.pen.val = some r)
    (hwant : (s.issued i (useAlu [rd] false)).featReg r.part n.toNat = want) :
    AluAt (.feat i rd n) i (useAlu [rd] false) rd (fun _ => .ok (TWord.raw want, none)) s0 s := by
  intro hi
  refine ⟨fun o ho => ?_, fun e he => nomatch he⟩
  obtain rfl := Except.ok.inj ho
  refine ⟨_, exec_issued (exec_feat i rd n s0) (t := s.issued i (useAlu [rd] false))
    (g := fun x => (x.writeAlu (s.issuing i (useAlu [rd] false)).1 rd (TWord.raw want, none)).done
      (s.issuing i (useAlu [rd] false)).1) hi ?_, ?_, State.onlyPens_issued s i _ _⟩
  · subst hwant
    rw [featRes, hrun]
  · rw [State.issued_modPen]
    exact Pen.writeAlu_done ..

theorem featSizes : pk [(0, 7), (4, 7), (8, 0x40), (16, 8), (20, 4), (24, 0x0C), (32, 0x80), (40, 0x10), (48, 0x20)] =
    0x20_10_80_0C_48_40_77 := by decide

theorem featTimes : pk [(0, 2), (4, 2), (8, 2), (12, 3), (16, 4), (20, 6), (24, 4), (28, 2), (32, 0x22), (40, 9), (44, 1),
    (48, 0x200)] = 0x0200_19_22_24_64_32_22 := by decide

theorem featLimits : pk [(0, 8), (4, 0x0C), (12, 0xFF), (20, 4)] = 0x4FF0C8 := by decide

/-! ### SEAL (R270, R271) -/

/-- The pen after SEAL. -/
def Pen.sealedTo (x : Pen) (paired : Bool) (rd : Reg) (v : Word) : Pen :=
  let y := x.write paired rd (TWord.raw x.sealed)
  { y with
    sealed := v, pair := y.pair.map (fun c => if paired then c else { c with oldSeal := some x.sealed }) }.done paired

theorem Pen.sealedTo_done (x : Pen) (paired : Bool) (rd : Reg) (v : Word) :
    let y := x.sealedTo paired rd v
    y.sealed = v ∧ x.RegsAfter y rd (TWord.raw x.sealed) ∧ y.status = x.status ∧ y.pc = x.pc + 4 ∧
    x.SameRest { y with sealed := x.sealed } := by
  have hst := x.write_status paired rd (TWord.raw x.sealed)
  have hpc := x.write_pc paired rd (TWord.raw x.sealed)
  refine ⟨rfl, x.write_regs paired rd _, hst, congrArg (· + 4) hpc, ?_⟩
  exact (congrArg (fun y : Pen => ({ y with status := x.status, pc := x.pc, sealed := x.sealed } : Pen))
    (x.write_rest paired rd (TWord.raw x.sealed)) :)

/-- The key that SEAL leaves, from the pen as it issues on it (R130, R270, R271). -/
def sealNew (rs : Reg) (paired : Bool) (x : Pen) : Except Exc Word :=
  if rs = 0 then .ok x.sealed
  else do
    if x.task && widening x.sealed (x.read paired rs).val then throw excPrivilege
    Sys2Proof.Machine.checkTag 0 [Tag.raw] (x.read paired rs)
    pure ((x.read paired rs).val &&& sealMask)

/-- What SEAL makes of its pen. -/
def sealRes (i : Iss) (rd rs : Reg) (paired : Bool) (t : State) : Res (Pen → Pen) :=
  match sealNew rs paired (t.pen i.pen.val) with
  | .error e => .exc e t
  | .ok v => .ok (fun x => x.sealedTo paired rd v) t

theorem exec_sealReg (i : Iss) (rd rs : Reg) (s : State) : exec (.sealReg i rd rs) s =
    guarded (s.ready i.pen.val) s (fun s => s.issueOne i (useAlu [rd, rs] false) (sealRes i rd rs)) := rfl

theorem sealNew_widens {rs : Reg} {paired : Bool} {x : Pen} (hrs : rs ≠ 0) (htask : x.task = true)
    (hwide : x.sealed &&& ~~~(x.read paired rs).val &&& 0x7777777777777777 ≠ 0) : sealNew rs paired x = .error excPrivilege := by
  have hw : widening x.sealed (x.read paired rs).val = true := decide_eq_true hwide
  rw [sealNew, if_neg hrs, htask, hw]
  rfl

theorem sealNew_ok {rs : Reg} {paired : Bool} {x : Pen} (h : rs = 0 ∨ ((x.read paired rs).tag = Tag.raw ∧
    (x.task = false ∨ x.sealed &&& ~~~(x.read paired rs).val &&& 0x7777777777777777 = 0))) :
    sealNew rs paired x = .ok (if rs = 0 then x.sealed else (x.read paired rs).val &&& 0x7777777777777777) := by
  rw [sealNew]
  by_cases hrs : rs = 0
  · rw [if_pos hrs, if_pos hrs]
  · obtain ⟨htag, hwide⟩ := h.resolve_left hrs
    have hok : Sys2Proof.Machine.checkTag 0 [Tag.raw] (x.read paired rs) = .ok () :=
      checkTag_of_mem (by rw [htag]; decide) (by rw [htag]; decide)
    have hnarrow : (x.task && widening x.sealed (x.read paired rs).val) = false := by
      obtain htask | hzero := hwide
      · rw [htask, Bool.false_and]
      · rw [Bool.and_eq_false_iff]
        exact .inr (decide_eq_false (not_not_intro hzero))
    rw [if_neg hrs, if_neg hrs, hnarrow, hok]
    rfl

/-! ### TLBINV (R267) -/

/-- Entries go from the pens that execute the run, and nothing else differs. -/
theorem State.invalidate_spec {s : State} {p : Nat} {r : Run} (hrun : (s.pen p).run = some r) (f : Nat → TlbEntry → Bool) :
    OnlyPens [p, otherOf p] s (s.modRun p (fun y => y.invalidate f)) ∧
    (s.modRun p (fun y => y.invalidate f)).pen p = (s.pen p).invalidate f ∧
    (s.modRun p (fun y => y.invalidate f)).pen (otherOf p) =
      if r.mode = .joined then (s.pen (otherOf p)).invalidate f else s.pen (otherOf p) := by
  have hne : otherOf p ≠ p := by
    rw [otherOf]
    split <;> omega
  have hjoined : s.isJoined p = decide (r.mode = .joined) := by rw [State.isJoined, hrun]
  have honly {l : List Nat} {t : State} {q : Nat} (h : q ∈ l) (g : Pen → Pen) : OnlyPens l t (t.modPen q g) :=
    OnlyPens.modPen (OnlyPens.refl _ _) h
  rw [State.modRun, hjoined]
  by_cases hm : r.mode = .joined
  · simp only [hm, decide_true, if_true]
    refine ⟨(honly (by simp) _).trans (honly (by simp) _), ?_, ?_⟩
    · rw [State.modPen_pen_other (Ne.symm hne), State.modPen_pen_same]
    · rw [State.modPen_pen_same, State.modPen_pen_other hne]
  · simp only [hm, decide_false, Bool.false_eq_true, if_false]
    exact ⟨honly (by simp) _, State.modPen_pen_same, State.modPen_pen_other hne⟩

theorem State.run_of_runs {s : State} {p : Nat} {r : Run} (h : s.runs p = some r) : (s.pen p).run = some r := by
  rw [State.runs] at h
  cases hr : (s.pen p).run with
  | none =>
    rw [hr] at h
    exact nomatch h
  | some r' =>
    simp only [hr] at h
    split at h
    · exact h
    · exact nomatch h

section tlbinv

variable {c : Instr} {i : Iss} {regs : List Reg} {pre : (Reg → TWord) → Except Exc Unit}
  {f : Nat → (Reg → TWord) → Nat → TlbEntry → Bool} {s0 s : State}

/-- What TLBINV makes of its pens. -/
def tlbinvRes (i : Iss) (pre : (Reg → TWord) → Except Exc Unit) (f : Nat → (Reg → TWord) → Nat → TlbEntry → Bool)
    (paired : Bool) (t : State) : Res (Pen → Pen) :=
  match (if (t.pen i.pen.val).task then .error excPrivilege else pre ((t.pen i.pen.val).read paired) : Except Exc Unit),
    t.runs i.pen.val with
  | .error e, _ => .exc e t
  | .ok (), none => .wait
  | .ok (), some r =>
    .ok (fun y => y.done paired) (t.modRun i.pen.val (fun y => y.invalidate (f r.part ((t.pen i.pen.val).read paired))))

theorem tlbinv_task (hc : exec c s0 = guarded (s0.ready i.pen.val) s0 (fun s => s.doTlbinv i regs pre f))
    (hi : s0.Issues s i ⟨.ser, regs, false⟩) (htask : (s.issuing i ⟨.ser, regs, false⟩).2.task = true) :
    exec c s0 = .next (s0.excFrom (s.issued i ⟨.ser, regs, false⟩) i excPrivilege) := by
  have hrow : exec c s0 = guarded (s0.ready i.pen.val) s0 (fun s => s.issueOne i ⟨.ser, regs, false⟩ (tlbinvRes i pre f)) := hc
  refine exec_exc hrow hi ?_
  rw [tlbinvRes, State.issued_pen, htask]
  rfl

/-- TLBINV at EXEC drops the entries that `f` picks from the run's pens. -/
theorem tlbinv_exec {r : Run} (hc : exec c s0 = guarded (s0.ready i.pen.val) s0 (fun s => s.doTlbinv i regs pre f))
    (hi : s0.Issues s i ⟨.ser, regs, false⟩) (htask : (s.issuing i ⟨.ser, regs, false⟩).2.task = false)
    (hrun : (s.issued i ⟨.ser, regs, false⟩).runs i.pen.val = some r)
    (hpre : pre ((s.issuing i ⟨.ser, regs, false⟩).2.read (s.issuing i ⟨.ser, regs, false⟩).1) = .ok ()) :
    let x := s.issuing i ⟨.ser, regs, false⟩
    let goes := f r.part (x.2.read x.1)
    let o := otherOf i.pen.val
    ∃ t, exec c s0 = .next t ∧ OnlyPens [i.pen.val, o] s t ∧
      x.2.Advanced { t.pen i.pen.val with tlb := x.2.tlb } ∧
      (t.pen i.pen.val).tlb = x.2.tlb.filter (fun e => !goes e.1 e.2) ∧
      t.pen o = if r.mode = .joined then { s.pen o with tlb := (s.pen o).tlb.filter (fun e => !goes e.1 e.2) } else s.pen o := by
  intro x goes o
  have hne : o ≠ i.pen.val := by
    simp only [o, otherOf]
    split <;> omega
  have hrow : exec c s0 = guarded (s0.ready i.pen.val) s0 (fun s => s.issueOne i ⟨.ser, regs, false⟩ (tlbinvRes i pre f)) := hc
  obtain ⟨honly, hsame, hother⟩ := State.invalidate_spec (State.run_of_runs hrun) goes
  have hissued : (s.issued i ⟨.ser, regs, false⟩).pen i.pen.val = x.2 := State.issued_pen ..
  have hleft : (s.issued i ⟨.ser, regs, false⟩).pen o = s.pen o := State.setPen_pen_other hne
  rw [hissued] at hsame
  rw [hleft] at hother
  have hres : tlbinvRes i pre f x.1 (s.issued i ⟨.ser, regs, false⟩) =
      .ok (fun y => y.done x.1) ((s.issued i ⟨.ser, regs, false⟩).modRun i.pen.val (fun y => y.invalidate goes)) := by
    rw [tlbinvRes, hissued, htask, hrun]
    rw [if_neg Bool.false_ne_true, hpre]
  have hin : OnlyPens [i.pen.val, o] s (s.issued i ⟨.ser, regs, false⟩) := by
    obtain ⟨hback, hkeep⟩ := onlyPens_setPen (s := s) (p := i.pen.val) (x := x.2)
    exact ⟨hback, fun q hq => hkeep q fun h => hq (List.mem_cons.mpr (.inl (List.mem_singleton.mp h)))⟩
  refine ⟨_, exec_issued hrow hi hres, (hin.trans honly).modPen List.mem_cons_self, ?_, ?_, ?_⟩
  · rw [State.modPen_pen_same, hsame]
    exact ⟨rfl, rfl⟩
  · rw [State.modPen_pen_same, hsame]
    rfl
  · rw [State.modPen_pen_other hne]
    exact hother

end tlbinv

/-! ### IPI (R187) -/

/-- What IPI makes of its pen. -/
def ipiRes (i : Iss) (rs : Reg) (level : Nat) (paired : Bool) (t : State) : Res (Pen → Pen) :=
  if level = 0 then .exc (excIllegal 3) t
  else
    match (if (t.pen i.pen.val).task then .error excPrivilege
      else Sys2Proof.Machine.checkTag 0 [Tag.raw, Tag.uint] ((t.pen i.pen.val).read paired rs) : Except Exc Unit),
      t.runs i.pen.val with
    | .error e, _ => .exc e t
    | .ok (), none => .wait
    | .ok (), some r =>
      let m := ((t.pen i.pen.val).read paired rs).val &&& ~~~ ownBits i.pen.val r
      if m &&& ~~~ t.pxWord r.part 2 ≠ 0 then .exc (excBus bcIpiSet 0) t
      else .ok (fun y => y.done paired)
        { t with ipiFly := t.ipiFly ++ ((upTo 64).filter (fun n => bitAt m n)).map (fun n => ⟨i.pen.val, n, level, t.cyc⟩) }

theorem exec_ipi (i : Iss) (rs : Reg) (level : BitVec 3) (s : State) : exec (.ipi i rs level) s =
    guarded (s.ready i.pen.val) s (fun s => s.issueOne i ⟨.mem, [rs], false⟩ (ipiRes i rs level.toNat)) := rfl

theorem State.ipi_onlyPens (s : State) (i : Iss) (u : Uses) (l : List IpiFly) (g : Pen → Pen) :
    OnlyPens [i.pen.val] { s with ipiFly := l } (({ s.issued i u with ipiFly := l } : State).modPen i.pen.val g) := by
  obtain ⟨hback, hkeep⟩ := State.onlyPens_issued s i u g
  exact ⟨(congrArg (fun t : State => ({ t with ipiFly := l } : State)) hback :), hkeep⟩

section ipi

variable {i : Iss} {rs : Reg} {level : Nat} {paired : Bool} {t : State}

theorem ipiRes_task (hl : level ≠ 0) (htask : (t.pen i.pen.val).task = true) :
    ipiRes i rs level paired t = .exc excPrivilege t := by
  rw [ipiRes, if_neg hl, htask]
  rfl

/-- IPI at EXEC with a good set (R187): refused where it reaches beyond the partition's, else sent. -/
theorem ipiRes_exec {r : Run} (hl : level ≠ 0) (htask : (t.pen i.pen.val).task = false)
    (htag : ((t.pen i.pen.val).read paired rs).tag = Tag.raw ∨ ((t.pen i.pen.val).read paired rs).tag = Tag.uint)
    (hrun : t.runs i.pen.val = some r) :
    let m := ((t.pen i.pen.val).read paired rs).val &&& ~~~ ownBits i.pen.val r
    ipiRes i rs level paired t = if m &&& ~~~ t.pxWord r.part 2 ≠ 0 then .exc (excBus bcIpiSet 0) t
      else .ok (fun y => y.done paired)
        { t with ipiFly := t.ipiFly ++ ((upTo 64).filter (fun n => bitAt m n)).map (fun n => ⟨i.pen.val, n, level, t.cyc⟩) } := by
  have hok : Sys2Proof.Machine.checkTag 0 [Tag.raw, Tag.uint] ((t.pen i.pen.val).read paired rs) = .ok () := by
    obtain h | h := htag
    · exact checkTag_of_mem (by rw [h]; decide) (by rw [h]; decide)
    · exact checkTag_of_mem (by rw [h]; decide) (by rw [h]; decide)
  rw [ipiRes, if_neg hl, htask, hok, hrun]
  rfl

end ipi

end Sys2Proof.Machine

namespace Sys2Proof.MarkaiInstructions

open Sys2Proof.Machine

/-- Settles O23: instruction by instruction, from what each makes of its pen as it issues. -/
theorem systemInstructionsComplete : Obligations.SystemInstructionsComplete := by
  refine ⟨?mask, ?feat, ?sealed, ?tlbinv, ?ipi⟩
  case mask =>
    intro s0 s i rd src regs x hi
    cases src with
    | imm n =>
      refine ⟨fun htask => exec_exc (exec_mask_imm i rd n s0) hi ?_, fun l htask hl => ?_⟩
      · rw [maskRes, State.issued_pen, maskLevelOf_task htask]
        rfl
      · subst hl
        refine ⟨_, exec_issued (exec_mask_imm i rd n s0) (g := fun y => y.masked x.1 rd n.toNat) hi ?_,
          State.onlyPens_issued s i (useAlu [rd] false) _, ?_⟩
        · rw [maskRes, State.issued_pen, maskLevelOf_imm htask]
        · rw [State.issued_modPen]
          exact Pen.masked_done _ _ rd n.isLt
    | reg r =>
      refine ⟨fun htask => exec_exc (exec_mask_reg i rd r s0) hi ?_, fun l htask hl => ?_⟩
      · rw [maskRes, State.issued_pen, maskLevelOf_task htask]
        rfl
      · obtain ⟨htag, rfl⟩ := hl
        refine ⟨_, exec_issued (exec_mask_reg i rd r s0) (g := fun y => y.masked x.1 rd ((x.2.read x.1 r).val.toNat % 8)) hi ?_,
          State.onlyPens_issued s i (useAlu [rd, r] false) _, ?_⟩
        · rw [maskRes, State.issued_pen, maskLevelOf_reg htask htag]
        · rw [State.issued_modPen]
          exact Pen.masked_done _ _ rd (Nat.mod_lt _ (by decide))
  case feat =>
    intro s0 s i rd n r u hrun want
    refine feat_aluAt hrun ?_
    simp only [want]
    generalize n.toNat = k
    match k with
    | 0 => exact (State.featReg_zero _ _).trans (pk_version _ _)
    | 1 => exact State.featReg_one _ _
    | 2 => exact featSizes
    | 3 => exact featTimes
    | 4 => exact featLimits
    | 5 => exact (State.featReg_five _ _).trans (pk_part _ _ _)
    | n + 6 => exact State.featReg_reserved _ _ n
  case sealed =>
    intro s0 s i rd rs hi u x w wide
    refine ⟨fun hrs htask hwide => exec_exc (exec_sealReg i rd rs s0) hi ?_, fun hgo => ?_⟩
    · rw [sealRes, State.issued_pen, sealNew_widens hrs htask hwide]
      rfl
    · refine ⟨_, exec_issued (exec_sealReg i rd rs s0) (t := s.issued i u) (g := fun y => y.sealedTo x.1 rd
        (if rs = 0 then x.2.sealed else w.val &&& 0x7777777777777777)) hi ?_, State.onlyPens_issued s i u _, ?_⟩
      · rw [sealRes, State.issued_pen, sealNew_ok hgo]
      · rw [State.issued_modPen]
        exact Pen.sealedTo_done _ _ rd _
  case tlbinv =>
    intro s0 s i rs r ins kind hmem u hi x w goes
    simp only [List.mem_cons, Prod.mk.injEq, List.not_mem_nil, or_false] at hmem
    obtain ⟨rfl, rfl⟩ | ⟨rfl, rfl⟩ | ⟨rfl, rfl⟩ := hmem
    · exact ⟨fun htask => tlbinv_task rfl hi htask, fun htask hrun _ => tlbinv_exec (c := .tlbinvUnlocked i) (regs := [])
        (pre := fun _ => .ok ()) (f := fun _ _ _ e => !e.locked) rfl hi htask hrun rfl⟩
    · exact ⟨fun htask => tlbinv_task rfl hi htask, fun htask hrun _ => tlbinv_exec (c := .tlbinvAll i) (regs := [])
        (pre := fun _ => .ok ()) (f := invAll) rfl hi htask hrun rfl⟩
    · refine ⟨fun htask => tlbinv_task rfl hi htask, fun htask hrun htag => tlbinv_exec (c := .tlbinvPage i rs) (regs := [rs])
        (pre := fun read => Sys2Proof.Machine.checkTag 0 [Tag.ptr] (read rs))
        (f := fun part read _ e => e.hits part (vpnOf (read rs).val)) rfl hi htask hrun ?_⟩
      have hptr : ((s.issuing i ⟨.ser, [rs], false⟩).2.read (s.issuing i ⟨.ser, [rs], false⟩).1 rs).tag = Tag.ptr := htag rfl
      exact checkTag_of_mem (by rw [hptr]; decide) (by rw [hptr]; decide)
  case ipi =>
    intro s0 s i rs level r hi u x w m
    have hlevel0 (h : level ≠ 0) : level.toNat ≠ 0 := fun h0 => h (BitVec.eq_of_toNat_eq h0)
    refine ⟨fun hlevel => exec_exc (exec_ipi i rs level s0) hi ?_, fun hlevel htask => exec_exc (exec_ipi i rs level s0) hi ?_,
      fun hlevel htask htag hrun => ?_⟩
    · rw [hlevel]
      rfl
    · refine ipiRes_task (hlevel0 hlevel) ?_
      rw [State.issued_pen]
      exact htask
    · have hres := ipiRes_exec (paired := x.1) (rs := rs) (hlevel0 hlevel) (t := s.issued i u) (by rw [State.issued_pen]; exact htask)
        (by rw [State.issued_pen]; exact htag) hrun
      rw [State.issued_pen] at hres
      refine ⟨fun hbad => exec_exc (exec_ipi i rs level s0) hi (hres.trans (if_pos hbad)), fun hgood => ?_⟩
      refine ⟨_, exec_issued (exec_ipi i rs level s0) hi (hres.trans (if_neg (not_not_intro hgood))),
        State.ipi_onlyPens .., ?_, rfl⟩
      rw [State.modPen_pen_same]
      exact State.issued_pen s i u ▸ Pen.done_advanced _ _

end Sys2Proof.MarkaiInstructions
end

section
/-! FENCE and LINEND (R75, R188, R189), and the commit of a run (R70, R75, R76). -/

namespace Sys2Proof.Machine

section waits

variable {c : Instr} {i : Iss} {u : Uses} {s0 s : State} {f : Bool → State → Res (Pen → Pen)}

theorem State.Issues.issueOne_wait (hi : s0.Issues s i u) (h : f (s.issuing i u).1 (s.issued i u) = .wait) :
    s0.issueOne i u f = s0 := by
  have ⟨_, hadm, hslot⟩ := hi
  have hf : f (s0.issuing i u).1 (s.modPen i.pen.val (fun y => y.issue (s0.issuing i u).1 u)) = .wait := by
    rw [State.issued_eq hi, ← hslot, h]
  unfold State.issuing at hadm hf
  unfold State.issueOne
  simp only [] at hadm hf ⊢
  rw [hadm]
  simp only [hf]

/-- An instruction that waits changes nothing. -/
theorem exec_waits (hc : exec c s0 = guarded (s0.ready i.pen.val) s0 (fun s => s.issueOne i u f)) (hi : s0.Issues s i u)
    (h : f (s.issuing i u).1 (s.issued i u) = .wait) : exec c s0 = .next s0 :=
  (exec_of_due hc hi.1).trans (congrArg _ (hi.issueOne_wait h))

end waits

theorem Pen.quiet_iff (x : Pen) : x.quiet = true ↔ x.sb = [] ∧ x.acks = 0 := by
  rw [Pen.quiet, Bool.and_eq_true, decide_eq_true_iff, decide_eq_true_iff]

/-! ### FENCE -/

/-- What FENCE makes of its pen. -/
def fenceRes (i : Iss) (paired : Bool) (t : State) : Res (Pen → Pen) :=
  if (t.pen i.pen.val).quiet then .ok (fun x => x.done paired) t else .wait

theorem exec_fence (i : Iss) (s : State) : exec (.fence i) s =
    guarded (s.ready i.pen.val) s (fun s => s.issueOne i ⟨.ser, [], false⟩ (fenceRes i)) := rfl

/-! ### LINEND -/

/-- What LINEND makes of its pen. -/
def linendRes (i : Iss) (paired : Bool) (t : State) : Res (Pen → Pen) :=
  if (t.pen i.pen.val).task then .exc excPrivilege t
  else if !(t.pen i.pen.val).quiet then (if paired then .ok (fun x => { x with pair := none }) t else .wait)
  else match t.runs i.pen.val with
    | none => .wait
    | some r => .ok id (t.linend i.pen.val r)

theorem exec_linend (i : Iss) (s : State) : exec (.linend i) s =
    guarded (s.ready i.pen.val) s (fun s => s.issueOne i ⟨.fin, [], false⟩ (linendRes i)) := rfl

/-- A pen whose run has issued LINEND in a cycle. -/
def Pen.ended (x : Pen) (c : Nat) : Pen := { x with
  late := [], mul := none, pair := none, hold := .none, ipiPend := 0, run := x.run.map (fun r => { r with linend := some c }) }

section endRun

variable {s : State} {p : Nat} {r : Run}

theorem State.modPen_id_pen (s : State) (p q : Nat) : (s.modPen p id).pen q = s.pen q := by
  by_cases h : q = p
  · rw [h, State.modPen_pen_same]
    rfl
  · exact State.modPen_pen_other h

/-- A loop that gives each record a value fixed by the record leaves a record that it names twice as one that it names once. -/
theorem State.forAll_vslot_idem {f : VSlot → VSlot} (hf : ∀ v, f (f v) = f v) (l : List Nat) (s : State) (n : Nat) :
    (s.forAll l (fun n t => t.modVslot n f)).vslot n = if n ∈ l then f (s.vslot n) else s.vslot n := by
  induction l generalizing s with
  | nil => rfl
  | cons a l ih =>
    refine (ih (s.modVslot a f)).trans ?_
    by_cases ha : n = a
    · subst ha
      rw [State.modVslot_vslot_same, hf, ite_self, if_pos List.mem_cons_self]
    · rw [State.modVslot_vslot_other ha]
      exact if_congr (by simp [ha]) rfl rfl

/-- The end of a run by LINEND (R70, R189): the pages wait for the commit point, and the pen has nothing in flight. -/
theorem State.endRun_spec (hj : r.mode ≠ .joined) :
    let v := s.endRun p r
    { v with pens := s.pens, vt := s.vt } = s ∧ v.pen p = (s.pen p).ended s.folioCyc ∧ (∀ q, q ≠ p → v.pen q = s.pen q) ∧
    ∀ n, v.vslot n = if n ∈ r.drafts then { s.vslot n with st := .committing } else s.vslot n := by
  let u := s.forAll r.drafts (fun n t => t.modVslot n (fun v => { v with st := .committing }))
  have hv : s.endRun p r = u.modPen p (fun x => x.ended s.folioCyc) := if_neg hj
  have hu : { u with vt := s.vt } = s :=
    State.forAll_of_turn (P := fun t => { t with vt := s.vt } = s) (fun _ _ h => h) rfl
  have hpen (q : Nat) : u.pen q = s.pen q := (congrArg (fun t : State => t.pen q) hu :)
  refine hv ▸ ⟨(congrArg (fun t : State => ({ t with pens := s.pens } : State)) hu :), ?_, fun q hq => ?_, ?_⟩
  · rw [State.modPen_pen_same, hpen]
  · rw [State.modPen_pen_other hq, hpen]
  · exact State.forAll_vslot_idem (f := fun v => { v with st := .committing }) (fun _ => rfl) r.drafts s

theorem State.linend_goes (hwin : s.folioCyc < r.winEnd) (hbad : r.drainBad = false) : s.linend p r = s.endRun p r := by
  rw [State.linend, if_neg (Nat.not_le.mpr hwin), hbad, if_neg Bool.false_ne_true]

end endRun

/-- What differs by pens and slots from a state that differs by pens. -/
theorem State.pensAndSlots_trans {s t v : State} (ht : { t with pens := s.pens } = s)
    (hv : { v with pens := t.pens, vt := t.vt } = t) (p : Nat) (g : Pen → Pen) :
    { v.modPen p g with pens := s.pens, vt := s.vt } = s :=
  calc ({ v.modPen p g with pens := s.pens, vt := s.vt } : State)
      = { { v with pens := t.pens, vt := t.vt } with pens := s.pens, vt := s.vt } := rfl
    _ = { { t with pens := s.pens } with vt := s.vt } := by rw [hv]
    _ = s := by rw [ht]

/-! ### COMMIT -/

section commit

/-- A slot whose draft of run `r` becomes its fair copy in a folio (R70, R82, R386). -/
def VSlot.committed (v : VSlot) (r : Run) (number cyc : Nat) : VSlot :=
  { v with
    fair := !v.fair, st := .fair, feedDraft := false, drafter := 0, published := false
    eligible := v.kind = .output, seq := BitVec.ofNat 16 number
    reqs := if v.kind = .output then r.subs else []
    commitCyc := cyc, commitFolio := number, commitLine := r.line }

/-- No TLB entry names another frame for slot `n` than its fair copy (R71). -/
def State.TlbFair (s : State) (n : Nat) : Prop :=
  ∀ q e, e ∈ (s.pen q).tlb → e.2.valid = true → e.2.kind = .versioned → e.2.slot = n → e.2.frame = (s.vslot n).fairFrame

/-- A TLB entry after its slot has a new fair frame. -/
def TlbEntry.rewritten (n f : Nat) (x : Nat × TlbEntry) : Nat × TlbEntry :=
  if x.2.valid && x.2.kind = .versioned && x.2.slot = n then (x.1, { x.2 with frame := f }) else x

def Pen.rewritten (n f : Nat) (x : Pen) : Pen := { x with tlb := x.tlb.map (TlbEntry.rewritten n f) }

theorem State.rewriteTlb_pen (s : State) (n q : Nat) : (s.rewriteTlb n).pen q = (s.pen q).rewritten n (s.vslot n).fairFrame :=
  Table.get_mapV (fun _ => ({} : Pen)) (f := Pen.rewritten n (s.vslot n).fairFrame) (fun _ => rfl) s.pens q

/-- A page that was never published would be superseded by a commit; this one is not. -/
def VSlot.kept (v : VSlot) : Prop := v.kind = .output → v.published = true ∨ v.commitLine = 0x7FFF

theorem VSlot.kept_iff (v : VSlot) : (v.kind = .output && !v.published && v.commitLine ≠ 0x7FFF) = false ↔ v.kept := by
  rw [VSlot.kept]
  by_cases hk : v.kind = .output <;> by_cases hp : v.published <;> by_cases hc : v.commitLine = 0x7FFF <;> simp [hk, hp, hc]

variable {s t : State} {r : Run} {n : Nat}

/-- The commit of a page that supersedes nothing. -/
theorem State.commitPage_spec (hkeep : (t.vslot n).kept) :
    let v := t.commitPage r n
    { v with vt := t.vt, pens := t.pens, trc := t.trc } = t ∧
    v.trc = { t.trc with send := t.trc.send.map (fun w => { w with again := n :: w.again }) } ∧
    v.vslot n = (t.vslot n).committed r t.folio.number.toNat t.folioCyc ∧
    (∀ m, m ≠ n → v.vslot m = t.vslot m) ∧
    (∀ q, v.pen q = (t.pen q).rewritten n (v.vslot n).fairFrame) := by
  let g (v : VSlot) : VSlot := { v.swap t.folio16 with
    published := false,
    eligible := v.kind = .output,
    commitCyc := t.folioCyc, commitFolio := t.folio.number.toNat, commitLine := r.line,
    reqs := if v.kind = .output then r.subs else [] }
  intro v
  have hv : v = ((t.modVslot n g).rewriteTlb n).noteCommit n :=
    if_neg (ne_true_of_eq_false ((VSlot.kept_iff _).mpr hkeep))
  clear_value v
  subst hv
  have hsame : (t.modVslot n g).vslot n = g (t.vslot n) := State.modVslot_vslot_same
  have hother (m : Nat) (hm : m ≠ n) : (t.modVslot n g).vslot m = t.vslot m := State.modVslot_vslot_other hm
  have hpen (q : Nat) : (t.modVslot n g).pen q = t.pen q := State.modVslot_pen
  have hback : { t.modVslot n g with vt := t.vt } = t := rfl
  have htrc : (t.modVslot n g).trc = t.trc := rfl
  have hg : g (t.vslot n) = (t.vslot n).committed r t.folio.number.toNat t.folioCyc := by
    have hseq : BitVec.ofNat 16 t.folio16 = BitVec.ofNat 16 t.folio.number.toNat := by
      rw [State.folio16]
      exact BitVec.eq_of_toNat_eq (by simp)
    exact congrArg (fun q => ({ (t.vslot n).committed r t.folio.number.toNat t.folioCyc with seq := q } : VSlot)) hseq
  generalize t.modVslot n g = x at hsame hother hpen hback htrc
  refine ⟨(congrArg (fun y : State => ({ y with pens := t.pens, trc := t.trc } : State)) hback :), ?_, hsame.trans hg, hother,
    fun q => (State.rewriteTlb_pen x n q).trans (by rw [hpen]; rfl)⟩
  rw [← htrc]
  rfl

theorem State.TlbFair.of_rewritten {f : Nat} (hpen : ∀ q, (s.pen q).tlb = (t.pen q).tlb.map (TlbEntry.rewritten n f))
    (hf : (s.vslot n).fairFrame = f) : s.TlbFair n := by
  intro q e he hval hkind hslot
  rw [hpen, List.mem_map] at he
  obtain ⟨x, -, rfl⟩ := he
  rw [hf]
  unfold TlbEntry.rewritten at *
  split
  · rfl
  · rename_i h
    rw [if_neg h] at hval hkind hslot
    exact absurd (by simp [hval, hkind, hslot]) h

theorem State.TlbFair.rewritten_other {m f : Nat} (hpen : ∀ q, (s.pen q).tlb = (t.pen q).tlb.map (TlbEntry.rewritten n f))
    (hm : m ≠ n) (hv : s.vslot m = t.vslot m) (h : t.TlbFair m) : s.TlbFair m := by
  intro q e he hval hkind hslot
  rw [hpen, List.mem_map] at he
  obtain ⟨x, hx, rfl⟩ := he
  unfold TlbEntry.rewritten at *
  split at hval
  · rename_i hc
    rw [if_pos hc] at hslot
    simp only [Bool.and_eq_true, decide_eq_true_eq] at hc
    exact absurd (hslot.symm.trans hc.2) hm
  · rename_i hc
    rw [if_neg hc] at hkind hslot ⊢
    exact hv ▸ h q x hx hval hkind hslot

/-- The pages of `l` have been committed from the state `s` on. -/
def State.Committed (s t : State) (r : Run) (l : List Nat) : Prop :=
  { t with vt := s.vt, pens := s.pens, trc := s.trc } = s ∧
  t.trc = { s.trc with send := s.trc.send.map (fun w => { w with again := l.reverse ++ w.again }) } ∧
  (∀ n, t.vslot n = if n ∈ l then (s.vslot n).committed r s.folio.number.toNat s.folioCyc else s.vslot n) ∧
  (∀ m ∈ l, t.TlbFair m) ∧
  ∀ q, { t.pen q with tlb := (s.pen q).tlb } = s.pen q

theorem State.Committed.snoc {l : List Nat} (h : s.Committed t r l) (hn : n ∉ l) (hkeep : (s.vslot n).kept) :
    s.Committed (t.commitPage r n) r (l ++ [n]) := by
  obtain ⟨hback, htrc, hvs, hfair, hpens⟩ := h
  have hslot : t.vslot n = s.vslot n := (hvs n).trans (if_neg hn)
  obtain ⟨uback, utrc, usame, uother, upen⟩ := State.commitPage_spec (r := r) (hslot.symm ▸ hkeep : (t.vslot n).kept)
  have hfolio : t.folio = s.folio := (congrArg State.folio hback :)
  have hcyc : t.folioCyc = s.folioCyc := (congrArg State.folioCyc hback :)
  have htlb (q : Nat) := congrArg Pen.tlb (upen q)
  refine ⟨?_, ?_, fun m => ?_, fun m hm => ?_, fun q => ?_⟩
  · exact (congrArg (fun x : State => ({ x with vt := s.vt, pens := s.pens, trc := s.trc } : State)) uback).trans hback
  · rw [utrc, htrc]
    simp only [List.reverse_append, List.reverse_cons, List.reverse_nil, List.nil_append, List.singleton_append]
    cases s.trc.send <;> rfl
  · by_cases hm : m = n
    · subst hm
      rw [usame, hslot, hfolio, hcyc, if_pos (by simp)]
    · rw [uother m hm, hvs]
      exact if_congr (by simp [hm]) rfl rfl
  · by_cases hmn : m = n
    · subst hmn
      exact .of_rewritten htlb rfl
    · refine .rewritten_other htlb hmn (uother m hmn) (hfair m ?_)
      exact (List.mem_append.mp hm).resolve_right (by simpa using hmn)
  · exact (congrArg (fun x : Pen => ({ x with tlb := (s.pen q).tlb } : Pen)) (upen q)).trans (hpens q)

/-- Every page of a run is committed, one after the other. -/
theorem State.forAll_commitPage {l : List Nat} (hl : l.Nodup) (hkeep : ∀ n ∈ l, (s.vslot n).kept) :
    s.Committed (s.forAll l (fun n t => t.commitPage r n)) r l := by
  induction l using List.reverseRecOn with
  | nil =>
    refine ⟨rfl, ?_, fun n => rfl, fun m hm => absurd hm List.not_mem_nil, fun q => rfl⟩
    have hid : s.trc.send.map (fun w => ({ w with again := [].reverse ++ w.again } : TrcSend)) = s.trc.send := by
      cases s.trc.send <;> rfl
    exact (congrArg (fun o => ({ s.trc with send := o } : Trc)) hid).symm
  | append_singleton l n ih =>
    obtain ⟨hl', -, hdis⟩ := List.nodup_append.mp hl
    have hstep : s.forAll (l ++ [n]) (fun n t => t.commitPage r n) = (s.forAll l (fun n t => t.commitPage r n)).commitPage r n := by
      rw [State.forAll, List.foldl_append]
      rfl
    exact hstep ▸ (ih hl' fun m hm => hkeep m (by simp [hm])).snoc (fun h => hdis n h n (by simp) rfl) (hkeep n (by simp))

/-- The commit of a DUPLEX run that supersedes nothing, on a pen that has not gone on (R75, R76). -/
theorem State.commitPen_spec {p c : Nat} (hst : (s.pen p).st = .run) (hend : (s.pen p).ending = none)
    (hrun : (s.pen p).run = some r) (hc : r.linend = some c) (hmode : r.mode = .duplex) (hl : r.drafts.Nodup)
    (hkeep : ∀ n ∈ r.drafts, (s.vslot n).kept) :
    ∃ u v, s.Committed u r r.drafts ∧ s.commitPen p = (v, []) ∧ { v with folio := u.folio, pens := u.pens } = u ∧
      v.folio.armed = s.folio.armed.filter (fun a => a.line ≠ r.line) ∧ (v.pen p).run = none ∧ (v.pen p).st = .idle ∧
      ∀ q, (v.pen q).tlb = (u.pen q).tlb := by
  have hu := State.forAll_commitPage (r := r) hl hkeep
  have hnone : s.supersededBy r = [] := by
    rw [State.supersededBy, List.filter_eq_nil_iff.mpr fun n hn =>
      ne_true_of_eq_false ((VSlot.kept_iff _).mpr (hkeep n hn))]
    rfl
  obtain ⟨hback, -, -, -, hpens⟩ := id hu
  generalize hudef : s.forAll r.drafts (fun n t => t.commitPage r n) = u at hu hback hpens
  obtain ⟨h, hhwm⟩ : ∃ h, u.noteHwm r c = { u with folio := { u.folio with hwm := h } } := by
    rw [State.noteHwm]
    split
    · exact ⟨_, rfl⟩
    · exact ⟨_, rfl⟩
  have hfolio : u.folio.armed = s.folio.armed := (congrArg (fun x : State => x.folio.armed) hback :)
  have hstu : (u.pen p).st = .run := ((congrArg Pen.st (hpens p) :) : (u.pen p).st = (s.pen p).st).trans hst
  let w : State := { u with folio := { u.folio with hwm := h, armed := u.folio.armed.filter (fun a => a.line ≠ r.line) } }
  have hcommit : s.commitRun r c = (w, []) := by
    rw [State.commitRun, hnone, hudef, hhwm]
  have hpen : s.commitPen p = (w.modPen p (fun y => y.clearRun.oweCopy r), []) := by
    have hj : ¬r.mode = .joined := by rw [hmode]; decide
    simp only [State.commitPen, hend, hrun, hc, Option.getD_some, hcommit, if_neg hj]
  have howe (y : Pen) : y.oweCopy r = y := if_neg (by rw [hmode]; decide)
  refine ⟨u, _, hu, hpen, rfl, congrArg _ hfolio, ?_, ?_, fun q => ?_⟩
  · rw [State.modPen_pen_same, howe]
    rfl
  · rw [State.modPen_pen_same, howe]
    exact if_pos hstu
  · by_cases hq : q = p
    · subst hq
      rw [State.modPen_pen_same, howe]
      rfl
    · rw [State.modPen_pen_other hq]
      rfl

end commit

end Sys2Proof.Machine

namespace Sys2Proof.MarkaiInstructions

open Sys2Proof.Machine

/-- Settles O24: FENCE and LINEND from what they make of their pen, and the commit page by page. -/
theorem fenceAndLinendComplete : Obligations.FenceAndLinendComplete := by
  refine ⟨?fence, ?linend, ?commit⟩
  case fence =>
    intro s0 s i hi x
    refine ⟨fun hq => ?_, fun hq => ?_⟩
    · have hres : fenceRes i x.1 (s.issued i ⟨.ser, [], false⟩) = .ok (fun y => y.done x.1) (s.issued i ⟨.ser, [], false⟩) := by
        rw [fenceRes, State.issued_pen, (Pen.quiet_iff _).mpr hq, if_pos rfl]
      refine ⟨_, exec_issued (exec_fence i s0) hi hres, ?_, State.onlyPens_issued s i _ _⟩
      rw [State.issued_modPen]
      exact Pen.done_advanced _ _
    · refine exec_waits (exec_fence i s0) hi ?_
      rw [fenceRes, State.issued_pen, if_neg (mt (Pen.quiet_iff _).mp hq)]
  case linend =>
    intro s0 s i r hi x t p
    refine ⟨fun htask => ?_, fun hslot htask hq => ?_, fun htask hsb hacks hrun hwin hbad hmode => ?_⟩
    · refine exec_exc (exec_linend i s0) hi ?_
      rw [linendRes, State.issued_pen, if_pos htask]
      rfl
    · refine exec_waits (exec_linend i s0) hi ?_
      rw [linendRes, State.issued_pen, if_neg (ne_true_of_eq_false htask),
        Bool.eq_false_iff.mpr (mt (Pen.quiet_iff _).mp hq), Bool.not_false, if_pos rfl]
      exact if_neg (ne_true_of_eq_false hslot)
    · have hpen : t.pen p = x.2 := State.issued_pen ..
      have hcyc : t.folioCyc = s.folioCyc := rfl
      have hres : linendRes i x.1 t = .ok id (t.endRun p r) := by
        rw [linendRes, hpen, if_neg (ne_true_of_eq_false htask), (Pen.quiet_iff _).mpr ⟨hsb, hacks⟩, Bool.not_true,
          if_neg Bool.false_ne_true, hrun]
        exact congrArg (Res.ok id) (State.linend_goes (s := t) hwin hbad)
      obtain ⟨hback, hp, hother, hvs⟩ := State.endRun_spec (s := t) (p := p) hmode
      have hin : { t with pens := s.pens } = s := rfl
      generalize t.endRun p r = v at hback hp hother hvs hres
      refine ⟨_, exec_issued (exec_linend i s0) hi hres, ?_, ?_, fun q hq => ?_, fun n => hvs n⟩
      · exact State.pensAndSlots_trans hin hback p id
      · have hrunx : x.2.run = some r := hpen ▸ State.run_of_runs hrun
        rw [State.modPen_id_pen, hp, hpen, hcyc, Pen.ended, hrunx]
        rfl
      · rw [State.modPen_id_pen, hother q hq]
        exact State.setPen_pen_other hq
  case commit =>
    intro s p r c hf hst hend hrun hlin hcyc hmode hl hkeep
    have hdue : s.commitDue p.val = true := by
      simp only [State.commitDue, hf, hend, hst, hrun, hlin, hcyc, hmode]
      simp
    obtain ⟨u, v, ⟨hback, htrc, hvs, hfair, hpens⟩, hv, hvu, harm, hidle, hst', htlb⟩ :=
      State.commitPen_spec hst hend hrun hlin hmode hl hkeep
    have hvslot (n : Nat) : v.vslot n = u.vslot n := (congrArg (fun x : State => x.vslot n) hvu :)
    refine ⟨v, (exec_of_due (c := .commit p) (s := s) (f := fun s => raised (s.commitPen p.val)) rfl hdue).trans ?_, fun n => ?_,
      fun q e he hval hkind hslot => ?_, hidle, hst', harm, ?_, ?_⟩
    · rw [hv]
      exact congrArg _ (State.raised_nil v)
    · rw [hvslot, hvs, hcyc]
      rfl
    · rw [htlb] at he
      rw [hvslot]
      exact hfair _ hslot q e he hval hkind rfl
    · have h1 := congrArg (fun x : State => ({ x with vt := s.vt, pens := s.pens, folio := s.folio, trc := s.trc } : State)) hvu
      have h2 := congrArg (fun x : State => ({ x with vt := s.vt, pens := s.pens, folio := s.folio, trc := s.trc } : State)) hback
      exact h1.trans h2
    · have ht : v.trc = u.trc := (congrArg State.trc hvu :)
      exact ht.trans htrc

end Sys2Proof.MarkaiInstructions
end

section
/-! What the engines write into the banks: runs of words, and the bytes of a whole word (R26, R287, R385). -/

namespace Sys2Proof.Machine

/-! ### Bytes of a word -/

theorem leNat_append_singleton (l : List Byte) (b : Byte) : leNat (l ++ [b]) = leNat l + 2 ^ (8 * l.length) * b.toNat := by
  induction l with
  | nil => simp [leNat]
  | cons a l ih =>
    rw [List.cons_append, leNat, leNat, ih, List.length_cons, Nat.mul_succ, Nat.pow_add]
    ring

theorem leNat_lt (l : List Byte) : leNat l < 2 ^ (8 * l.length) := by
  induction l with
  | nil => exact Nat.one_pos
  | cons a l ih =>
    rw [leNat, List.length_cons, Nat.mul_succ, Nat.pow_add]
    have ha : a.toNat < 256 := a.isLt
    omega

/-- Bits set above a number. -/
theorem toNat_setBits_above {v lo len b : Nat} (hv : v < 2 ^ lo) (h : lo + len ≤ 64) (hb : b < 2 ^ len) :
    (setBits (BitVec.ofNat 64 v) lo len b).toNat = v + 2 ^ lo * b := by
  refine Nat.eq_of_testBit_eq fun i => ?_
  have hbit : ((setBits (BitVec.ofNat 64 v) lo len b).toNat).testBit i = bitAt (setBits (BitVec.ofNat 64 v) lo len b) i := rfl
  rw [hbit, bitAt_setBits _ _ _ _ _ h, Nat.add_comm v, Nat.testBit_two_pow_mul_add _ hv, Nat.mod_eq_of_lt hb]
  by_cases hlo : i < lo
  · rw [if_neg (by omega), if_pos hlo, bitAt, BitVec.getLsbD_ofNat, decide_eq_true (by omega : i < 64), Bool.true_and]
  · rw [if_neg hlo]
    by_cases hi : i < lo + len
    · rw [if_pos ⟨by omega, hi⟩]
    · have hvi : v.testBit i = false := Nat.testBit_lt_two_pow (Nat.lt_of_lt_of_le hv (Nat.pow_le_pow_right (by decide) (by omega)))
      have hbi : b.testBit (i - lo) = false :=
        Nat.testBit_lt_two_pow (Nat.lt_of_lt_of_le hb (Nat.pow_le_pow_right (by decide) (by omega)))
      rw [if_neg (by omega), hbi, bitAt, BitVec.getLsbD_ofNat, hvi, Bool.and_false]

/-- The first bytes of word `j`, in order: their mask and their payload. -/
theorem groupBytes_word (j : Nat) {bs : List Byte} (hne : bs ≠ []) (hlen : bs.length ≤ 8) :
    groupBytes (((List.range bs.length).map (8 * j + ·)).zip bs) = [(j, 2 ^ bs.length - 1, leNat bs)] := by
  induction bs using List.reverseRecOn with
  | nil => exact absurd rfl hne
  | append_singleton cs b ih =>
    have hn : cs.length < 8 := by simpa using hlen
    have hmask : ∀ n, n < 8 → (2 ^ n - 1) ||| 2 ^ n = 2 ^ (n + 1) - 1 := by decide
    have hdiv : (8 * j + cs.length) / 8 = j := by omega
    have hmod : (8 * j + cs.length) % 8 = cs.length := by omega
    have hval : (setBits (BitVec.ofNat 64 (leNat cs)) (8 * cs.length) 8 b.toNat).toNat = leNat (cs ++ [b]) := by
      rw [toNat_setBits_above (leNat_lt cs) (by omega) b.isLt, leNat_append_singleton]
    have hzip : ((List.range (cs ++ [b]).length).map (8 * j + ·)).zip (cs ++ [b]) =
        ((List.range cs.length).map (8 * j + ·)).zip cs ++ [(8 * j + cs.length, b)] := by
      rw [List.length_append, List.length_singleton, List.range_succ, List.map_append, List.zip_append (by simp)]
      rfl
    have hprev : Table.get (fun _ => (0, 0)) (groupBytes (((List.range cs.length).map (8 * j + ·)).zip cs)) j =
          (2 ^ cs.length - 1, leNat cs) ∧
        ∀ v, Table.ins (groupBytes (((List.range cs.length).map (8 * j + ·)).zip cs)) j v = [(j, v)] := by
      by_cases hcs : cs = []
      · subst hcs
        exact ⟨rfl, fun _ => rfl⟩
      · rw [ih hcs (by omega)]
        exact ⟨if_pos rfl, fun v => by rw [Table.ins, if_neg (Nat.lt_irrefl j), if_pos rfl]⟩
    obtain ⟨hget, hins⟩ := hprev
    rw [hzip, groupBytes, List.foldl_append]
    simp only [groupBytes] at hget hins
    simp only [List.foldl_cons, List.foldl_nil, hdiv, hmod, hget, hins, hval, hmask _ hn, List.length_append, List.length_singleton]

/-- All eight bytes of a word are written as one RAW word. -/
theorem State.writeBytes_word (s : State) (base j : Nat) {bs : List Byte} (hlen : bs.length = 8) :
    s.writeBytes base (((List.range 8).map (8 * j + ·)).zip bs) =
      (true, s.engineWrite (base + 8 * j) (TWord.raw (BitVec.ofNat 64 (leNat bs)))) := by
  have hgroup := groupBytes_word j (bs := bs) (fun h => by simp [h] at hlen) (Nat.le_of_eq hlen)
  rw [hlen] at hgroup
  rw [State.writeBytes, hgroup, List.foldl_cons, List.foldl_nil]
  simp only [Nat.reducePow, Nat.reduceSub, State.enginePartial]
  rfl

/-! ### Runs of words -/

/-- Stores of words at single copies. -/
def State.pokes (s : State) (l : List (Nat × TWord)) : State := l.foldl (fun t x => t.poke x.1 x.2) s

theorem State.pokes_append (s : State) (l l' : List (Nat × TWord)) : s.pokes (l ++ l') = (s.pokes l).pokes l' := List.foldl_append

theorem State.pokes_back (s : State) (l : List (Nat × TWord)) : { s.pokes l with mem := s.mem } = s := by
  induction l generalizing s with
  | nil => rfl
  | cons x l ih =>
    have h := congrArg (fun t : State => ({ t with mem := s.mem } : State)) (ih (s.poke x.1 x.2))
    exact h.trans (State.poke_back s x.1 x.2)

/-- What a run of stores to different words leaves. -/
theorem State.pokes_spec {l : List (Nat × TWord)} (hl : (l.map (fun x => x.1 / 8)).Nodup) (s : State) :
    (∀ x ∈ l, (s.pokes l).peek x.1 = .clean x.2) ∧ ∀ c, c / 8 ∉ l.map (fun x => x.1 / 8) → (s.pokes l).peekCode c = s.peekCode c := by
  induction l generalizing s with
  | nil => exact ⟨nofun, fun _ _ => rfl⟩
  | cons x l ih =>
    obtain ⟨hx, hl⟩ := List.nodup_cons.mp hl
    obtain ⟨hpeek, hcode⟩ := ih hl (s.poke x.1 x.2)
    refine ⟨fun y hy => ?_, fun c hc => ?_⟩
    · obtain rfl | hy := List.mem_cons.mp hy
      · exact (State.peek_of_code (hcode y.1 hx)).trans State.poke_peek_same
      · exact hpeek y hy
    · obtain ⟨hne, hc⟩ := not_or.mp (mt List.mem_cons.mpr hc)
      exact (hcode c hc).trans (State.poke_peekCode_other hne)

theorem State.engineWrite_plain {s : State} {a : Nat} {w : TWord} (hr : s.bankReady a = true) (hm : s.mirrored a = false) :
    s.engineWrite a w = s.poke a w := by
  rw [State.engineWrite, State.writeAt, hm, if_neg Bool.false_ne_true, List.foldl_cons, List.foldl_nil, if_pos hr]

/-- What the accesses to the banks ask of the state does not depend on their words. -/
theorem State.access_of_mem {s t : State} (h : { t with mem := s.mem } = s) :
    t.bankReady = s.bankReady ∧ t.mirrored = s.mirrored ∧ t.draftReady = s.draftReady :=
  ⟨(congrArg State.bankReady h :), (congrArg State.mirrored h :), (congrArg State.draftReady h :)⟩

/-- Words from an address on. -/
def wordsAt : Nat → List TWord → List (Nat × TWord)
  | _, [] => []
  | a, w :: ws => (a, w) :: wordsAt (a + 8) ws

/-- Words of a record land in an unmirrored draft whose bank is on. -/
theorem State.putWords_plain {ws : List TWord} {s : State} {slot off : Nat}
    (h : ∀ o, off ≤ o → o < off + 8 * ws.length →
      s.bankReady ((s.vslot slot).draftFrame * 4096 + o) = true ∧ s.mirrored ((s.vslot slot).draftFrame * 4096 + o) = false) :
    s.putWords slot off ws = s.pokes (wordsAt ((s.vslot slot).draftFrame * 4096 + off) ws) := by
  induction ws generalizing s off with
  | nil => rfl
  | cons w ws ih =>
    have hlen : (w :: ws).length = ws.length + 1 := rfl
    obtain ⟨hr, hm⟩ := h off (Nat.le_refl _) (by omega)
    rw [State.putWords, State.draftCpa, State.engineWrite_plain hr hm, ih]
    · rw [State.poke_vslot, ← Nat.add_assoc, wordsAt, State.pokes, State.pokes, List.foldl_cons]
    · intro o ho ho'
      obtain ⟨hready, hmirror, -⟩ := State.access_of_mem (State.poke_back s ((s.vslot slot).draftFrame * 4096 + off) w)
      rw [State.poke_vslot, hready, hmirror]
      exact h o (by omega) (by omega)

/-- A drafted page takes the feed's words as it is (R70). -/
theorem State.feedDraft_drafted {s : State} {n : Nat} (h : (s.vslot n).st = .drafted) : s.feedDraft n = s := by
  rw [State.feedDraft, h]
  exact if_neg nofun

end Sys2Proof.Machine
end

section
/-! The feed's records and the pins (R389, R390, R402 to R406). -/

namespace Sys2Proof.Machine

theorem wordsAt_index (a : Nat) (ws : List TWord) :
    (wordsAt a ws).map (fun x => x.1 / 8) = (List.range ws.length).map (a / 8 + ·) := by
  induction ws generalizing a with
  | nil => rfl
  | cons w ws ih =>
    rw [wordsAt, List.map_cons, ih, List.length_cons, List.range_succ_eq_map, List.map_cons, List.map_map]
    refine congrArg (a / 8 :: ·) (List.map_congr_left fun i _ => ?_)
    show (a + 8) / 8 + i = a / 8 + (i + 1)
    omega

theorem mem_wordsAt {a i : Nat} {ws : List TWord} {w : TWord} (h : ws[i]? = some w) : (a + 8 * i, w) ∈ wordsAt a ws := by
  induction ws generalizing a i with
  | nil => exact nomatch h
  | cons x ws ih =>
    cases i with
    | zero =>
      obtain rfl := Option.some.inj h
      exact List.mem_cons_self
    | succ i =>
      refine List.mem_cons_of_mem _ ?_
      have hmem := ih (a := a + 8) (i := i) h
      rwa [Nat.add_assoc, Nat.add_comm 8, ← Nat.mul_succ] at hmem

/-- A run of words in memory, and nothing else. -/
theorem State.pokes_wordsAt (s : State) (a : Nat) (ws : List TWord) :
    (∀ i w, ws[i]? = some w → (s.pokes (wordsAt a ws)).peek (a + 8 * i) = .clean w) ∧
    ∀ c, c / 8 < a / 8 ∨ a / 8 + ws.length ≤ c / 8 → (s.pokes (wordsAt a ws)).peekCode c = s.peekCode c := by
  have hnodup : ((wordsAt a ws).map (fun x => x.1 / 8)).Nodup := by
    rw [wordsAt_index]
    exact List.nodup_range.map fun i j h => Nat.add_left_cancel h
  obtain ⟨hpeek, hcode⟩ := State.pokes_spec hnodup s
  refine ⟨fun i w h => hpeek _ (mem_wordsAt h), fun c hc => hcode c fun hmem => ?_⟩
  rw [wordsAt_index, List.mem_map] at hmem
  obtain ⟨i, hi, hci⟩ := hmem
  rw [List.mem_range] at hi
  omega

/-! ### FEED_RECORD_WRITE -/

section records

variable {s : State} {r : RxRec} {rest : List RxRec} {d : Desc}

theorem State.writeOldest_eq (hq : s.feed.rxq = r :: rest) (crc : Bool) :
    s.writeOldest crc = ({ s with feed := { s.feed with rxq := rest } } : State).writeRecord r crc := by
  rw [State.writeOldest, hq]

theorem exec_feedRecordWrite (hq : s.feed.rxq = r :: rest) (hdev : s.dev = .run) (hrun : s.folio.running = true)
    (hdue : r.notBefore.toNat ≤ s.folio.tickTime.toNat) (crc : Bool) :
    exec (.feedRecordWrite crc) s = .next (({ s with feed := { s.feed with rxq := rest } } : State).writeRecord r crc) := by
  have hready : s.recordReady = true := by
    rw [State.recordReady, hq]
    simp [hdev, hrun, hdue]
  exact (exec_of_due (c := .feedRecordWrite crc) (s := s) (f := fun s => s.writeOldest crc) rfl hready).trans
    (congrArg _ (State.writeOldest_eq hq crc))

theorem State.writeRecord_off (hoff : s.draftReady (dSlot (s.desc r.desc)) = false) :
    s.writeRecord r false = s.setDescStatus r.desc stMemError := by
  rw [State.writeRecord, hoff]
  rfl

/-- A frame of eight single bytes in order: TIME, LEN with NEW, the header word and the data, word after word (R384, R389). -/
theorem State.putFrame_plain {di j base new : Nat} {time w8 w16 : Word} {data : List Byte} (hoff : dOffset d = 8 * j)
    (hmode : dMode d = 0) (hcount : dCount d = 8) (helem : dElem d = 1) (hstep : dStep d = 1) (hlen : data.length = 8)
    (hbase : (s.vslot (dSlot d)).draftFrame * 4096 = base) (hj : j + 4 ≤ 512)
    (hnew : min 255 (Table.get (fun _ => 0) s.feed.newCnt di + 1) = new)
    (hbank : ∀ o, o < 4096 → s.bankReady (base + o) = true ∧ s.mirrored (base + o) = false) :
    s.putFrame di d time w8 w16 data =
      (true, ({ s with feed := { s.feed with newCnt := Table.set (fun _ => 0) s.feed.newCnt di new } } : State).pokes
        (wordsAt (base + 8 * j) [TWord.time time, TWord.uint (setBits w8 16 8 new), TWord.raw w16,
          TWord.raw (BitVec.ofNat 64 (leNat data))])) := by
  have hplaces : (upTo (dCount d)).flatMap (fun i =>
      (upTo (dElem d)).map (fun b => (elemAddr d (dOffset d + 24) i 0).toNat + b)) = (List.range 8).map (8 * (j + 3) + ·) := by
    have haddr (i : Nat) : (elemAddr d (dOffset d + 24) i 0).toNat = 8 * j + 24 + i := by
      rw [elemAddr, hmode, hoff, hstep]
      exact (Int.toNat_natCast _).trans (congrArg (8 * j + 24 + ·) (Nat.mul_one i))
    rw [hcount, helem]
    simp only [haddr, upTo, List.range_one, List.map_cons, List.map_nil, Nat.add_zero, ← List.map_eq_flatMap, Nat.mul_add]
  have hbytes : data.take (dCount d * dElem d) ++ List.replicate (dCount d * dElem d - data.length) 0 = data := by
    rw [hcount, helem, hlen]
    simp [hlen]
  let u : State := { s with feed := { s.feed with newCnt := Table.set (fun _ => 0) s.feed.newCnt di new } }
  have hput : u.putWords (dSlot d) (dOffset d) [TWord.time time, TWord.uint (setBits w8 16 8 new), TWord.raw w16] =
      u.pokes (wordsAt (base + 8 * j) [TWord.time time, TWord.uint (setBits w8 16 8 new), TWord.raw w16]) := by
    rw [hoff, ← hbase]
    refine State.putWords_plain fun o _ ho => ?_
    have hlt : o < 4096 := Nat.lt_of_lt_of_le ho (by simp only [List.length_cons, List.length_nil]; omega)
    exact hbase ▸ hbank o hlt
  obtain ⟨v, hv⟩ : ∃ v, v = u.pokes (wordsAt (base + 8 * j) [TWord.time time, TWord.uint (setBits w8 16 8 new), TWord.raw w16]) :=
    ⟨_, rfl⟩
  have hback : { v with mem := u.mem } = u := hv ▸ State.pokes_back u _
  obtain ⟨hready, hmirror, -⟩ := State.access_of_mem hback
  have hslot : v.draftCpa (dSlot d) 0 = base := by
    rw [State.draftCpa, ← hbase, Nat.add_zero]
    exact congrArg (fun n => n * 4096) (congrArg (fun t : State => (t.vslot (dSlot d)).draftFrame) hback :)
  obtain ⟨hr, hm⟩ := hbank (8 * (j + 3)) (by omega)
  have hwrite : v.writeBytes base (((List.range 8).map (8 * (j + 3) + ·)).zip data) =
      (true, v.poke (base + 8 * (j + 3)) (TWord.raw (BitVec.ofNat 64 (leNat data)))) := by
    rw [State.writeBytes_word v base (j + 3) hlen, State.engineWrite_plain]
    · rw [hready]
      exact hr
    · rw [hmirror]
      exact hm
  have hall : s.putFrame di d time w8 w16 data =
      (u.putWords (dSlot d) (dOffset d) [TWord.time time, TWord.uint (setBits w8 16 8 new), TWord.raw w16]).writeBytes
        ((u.putWords (dSlot d) (dOffset d) [TWord.time time, TWord.uint (setBits w8 16 8 new), TWord.raw w16]).draftCpa (dSlot d) 0)
        (((upTo (dCount d)).flatMap (fun i => (upTo (dElem d)).map (fun b => (elemAddr d (dOffset d + 24) i 0).toNat + b))).zip
          (data.take (dCount d * dElem d) ++ List.replicate (dCount d * dElem d - data.length) 0)) := by
    simp only [u, ← hnew]
    rfl
  rw [hall, hput, ← hv, hslot, hplaces, hbytes, hwrite, hv, Nat.mul_add]
  rfl

/-- A sample that fits its page: TIME and its word at their place, then the new index (R406). -/
theorem State.putSample_fits {di unit base k a : Nat} {time w : Word} (hk : Table.get (fun _ => 0) s.feed.samples unit = k)
    (ha : (elemAddr d (dOffset d) k 0).toNat = a) (hbase : (s.vslot (dSlot d)).draftFrame * 4096 = base)
    (hfit : a % 8 = 0 ∧ dIdxOff d % 8 = 0 ∧ a + 16 ≤ 4096)
    (hbank : ∀ o, o < 4096 → s.bankReady (base + o) = true ∧ s.mirrored (base + o) = false) :
    s.putSample di d unit time [w] =
      (({ s with feed := { s.feed with samples := Table.set (fun _ => 0) s.feed.samples unit (k + 1) } } : State).pokes
        (wordsAt (base + a) [TWord.time time, TWord.raw w])).poke (base + dIdxOff d) (TWord.uint (BitVec.ofNat 64 (k + 1))) := by
  obtain ⟨ha8, hi8, hroom⟩ := hfit
  have hidx : dIdxOff d + 8 ≤ 4096 := by
    have hlt : dIdxOff d < 4096 := Nat.mod_lt _ (by decide)
    omega
  have hno : ¬((a % 8 ≠ 0 || dIdxOff d % 8 ≠ 0 || decide (4096 < a + 8 * ([w].length + 1))) = true) := by
    simp [ha8, hi8]
    omega
  let u : State := { s with feed := { s.feed with samples := Table.set (fun _ => 0) s.feed.samples unit (k + 1) } }
  have hput : u.putWords (dSlot d) a [TWord.time time, TWord.raw w] =
      u.pokes (wordsAt (base + a) [TWord.time time, TWord.raw w]) := by
    rw [← hbase]
    refine State.putWords_plain fun o _ ho => ?_
    have hlt : o < 4096 := Nat.lt_of_lt_of_le ho (by simp only [List.length_cons, List.length_nil]; omega)
    exact hbase ▸ hbank o hlt
  have hall : s.putSample di d unit time [w] =
      (u.putWords (dSlot d) a [TWord.time time, TWord.raw w]).putWords (dSlot d) (dIdxOff d)
        [TWord.uint (BitVec.ofNat 64 (k + 1))] := by
    simp only [State.putSample, hk, ha, if_neg hno]
    rfl
  rw [hall, hput]
  obtain ⟨v, hv⟩ : ∃ v, v = u.pokes (wordsAt (base + a) [TWord.time time, TWord.raw w]) := ⟨_, rfl⟩
  have hback : { v with mem := u.mem } = u := hv ▸ State.pokes_back u _
  obtain ⟨hready, hmirror, -⟩ := State.access_of_mem hback
  have hslot : (v.vslot (dSlot d)).draftFrame * 4096 = base := by
    rw [← hbase]
    exact congrArg (fun n => n * 4096) (congrArg (fun t : State => (t.vslot (dSlot d)).draftFrame) hback :)
  rw [← hv, ← hslot]
  refine State.putWords_plain fun o _ ho => ?_
  have hlt : o < 4096 := Nat.lt_of_lt_of_le ho (by simp only [List.length_cons, List.length_nil]; omega)
  rw [hready, hmirror, hslot]
  exact hbank o hlt

/-- One that does not is refused with RANGE. -/
theorem State.putSample_range {di unit k a : Nat} {time w : Word} (hk : Table.get (fun _ => 0) s.feed.samples unit = k)
    (ha : (elemAddr d (dOffset d) k 0).toNat = a) (hfit : ¬(a % 8 = 0 ∧ dIdxOff d % 8 = 0 ∧ a + 16 ≤ 4096)) :
    s.putSample di d unit time [w] =
      ({ s with feed := { s.feed with samples := Table.set (fun _ => 0) s.feed.samples unit (k + 1) } } : State).setDescStatus di
        stRange := by
  have hyes : (a % 8 ≠ 0 || dIdxOff d % 8 ≠ 0 || decide (4096 < a + 8 * ([w].length + 1))) = true := by
    simp only [List.length_singleton, Bool.or_eq_true, decide_eq_true_eq]
    omega
  simp only [State.putSample, hk, ha, if_pos hyes]

/-- A frame that was written whole, on a drafted page whose banks are on. -/
theorem State.writeRecord_frame {w8 w16 : Word} {data : List Byte} {t : State} (hd : s.desc r.desc = d)
    (hon : s.draftReady (dSlot d) = true) (hst : (s.vslot (dSlot d)).st = .drafted) (hbody : r.body = .frame w8 w16 data)
    (hput : s.putFrame r.desc d r.time w8 w16 data = (true, t)) : s.writeRecord r false = t := by
  subst hd
  rw [State.writeRecord, hon, State.feedDraft_drafted hst, hbody]
  simp only [hput]
  rfl

/-- A sample on such a page. -/
theorem State.writeRecord_sample {unit : Nat} {ws : List Word} (hd : s.desc r.desc = d)
    (hon : s.draftReady (dSlot d) = true) (hst : (s.vslot (dSlot d)).st = .drafted) (hbody : r.body = .sample unit ws) :
    s.writeRecord r false = s.putSample r.desc d unit r.time ws := by
  subst hd
  rw [State.writeRecord, hon, State.feedDraft_drafted hst, hbody]
  rfl

end records

/-! ### The pins -/

section pins

/-- The driven pins of a list whose level is not that of their output register. -/
def State.pinsOff (s : State) (pins : List Nat) (lv : Word) : List Nat :=
  pins.filter (fun n => bitAt s.gpioDrive n && bitAt lv n != bitAt (s.gpio.outReg ^^^ s.gpio.pol) n)

theorem bitAt_foldl_setBit {l : List Nat} (hl : ∀ n ∈ l, n < 64) (w : Word) (i : Nat) :
    bitAt (l.foldl (fun w n => setBit w n true) w) i = (bitAt w i || l.contains i) := by
  induction l generalizing w with
  | nil => exact (Bool.or_false _).symm
  | cons a l ih =>
    rw [List.foldl_cons, ih fun n hn => hl n (List.mem_cons_of_mem _ hn), bitAt_setBit w true (hl a List.mem_cons_self),
      List.contains_cons]
    by_cases h : a = i
    · subst h
      simp
    · have hne : (i == a) = false := beq_eq_false_iff_ne.mpr (Ne.symm h)
      rw [if_neg h, hne, Bool.false_or]

/-- What the readback of some pins makes of a state (R404). -/
theorem State.readback_spec (s : State) (pins : List Nat) (lv : Word) :
    ∃ t : State, s.readback pins lv =
        t.raiseAll ((s.pinsOff pins lv).map (fun n => { cls := 0x73, utype := 6, unit := n })) ∧
      (∀ n, n < 64 → bitAt t.gpio.rbErr n = (bitAt s.gpio.rbErr n || (s.pinsOff pins lv).contains n)) ∧
      { t.gpio with rbErr := s.gpio.rbErr } = s.gpio ∧ { t with gpio := s.gpio } = s := by
  refine ⟨{ s with gpio := { s.gpio with rbErr := (s.pinsOff pins lv).foldl (fun w n => setBit w n true) s.gpio.rbErr } },
    rfl, fun n _ => bitAt_foldl_setBit (fun m hm => ?_) _ n, rfl, rfl⟩
  have hdrive := (List.mem_filter.mp hm).2
  rw [Bool.and_eq_true] at hdrive
  exact BitVec.lt_of_getLsbD hdrive.1

theorem State.readback_clean {s : State} {pins : List Nat} {lv : Word} (h : s.pinsOff pins lv = []) : s.readback pins lv = s := by
  have hfold : s.readback pins lv = ({ s with gpio := { s.gpio with
      rbErr := (s.pinsOff pins lv).foldl (fun w n => setBit w n true) s.gpio.rbErr } } : State).raiseAll
        ((s.pinsOff pins lv).map (fun n => { cls := 0x73, utype := 6, unit := n })) := rfl
  rw [hfold, h]
  rfl

theorem State.pinsOff_of_mem {s t : State} (h : { t with mem := s.mem } = s) (pins : List Nat) (lv : Word) :
    t.pinsOff pins lv = s.pinsOff pins lv := (congrArg (fun u : State => u.pinsOff pins lv) h :)

theorem State.inDelay_of_gpio {s t : State} (hg : t.gpio = s.gpio) (hc : t.cyc = s.cyc) : t.inDelay = s.inDelay := by
  funext n
  rw [State.inDelay, State.inDelay, hg, hc]

theorem State.setDescStatus_words (s : State) (di st k : Nat) : ((s.setDescStatus di st).desc k).words = (s.desc k).words := by
  by_cases h : k = di
  · subst h
    rw [State.setDescStatus, State.modDesc_desc_same]
  · rw [State.setDescStatus, State.modDesc_desc_other h]

/-- The status of a channel does not bear on which pins are driven (R402). -/
theorem State.pinsOff_setDescStatus (s : State) (di st : Nat) (pins : List Nat) (lv : Word) :
    (s.setDescStatus di st).pinsOff pins lv = s.pinsOff pins lv := by
  have hset (k : Nat) : (s.setDescStatus di st).chanSet k = s.chanSet k := rfl
  have hdir : (s.setDescStatus di st).gpioDir = s.gpioDir := by
    simp only [State.gpioDir, State.setDescStatus_words, hset]
  have hdrive : (s.setDescStatus di st).gpioDrive = s.gpioDrive := by
    simp only [State.gpioDrive, hdir]
    rfl
  rw [State.pinsOff, hdrive]
  rfl

/-- A GPIO_IN channel of one pin takes its level (R405). -/
theorem State.putPins_one {s : State} {di n base time : Nat} {d : Desc} {lv : Word} (hpins : pinsOf (dWord d 2) = [n])
    (hst : (s.vslot (dSlot d)).st = .drafted) (hon : s.draftReady (dSlot d) = true)
    (hbase : (s.vslot (dSlot d)).draftFrame * 4096 + dOffset d = base)
    (hbank : ∀ o, o < 16 → s.bankReady (base + o) = true ∧ s.mirrored (base + o) = false) :
    s.putPins di d time lv = s.pokes (wordsAt base [TWord.time (BitVec.ofNat 64 time), TWord.bool (bitAt lv n)]) := by
  rw [State.putPins, hon, Bool.not_true, if_neg Bool.false_ne_true, State.feedDraft_drafted hst, hpins, List.map_singleton, ← hbase]
  refine State.putWords_plain fun o ho ho' => ?_
  have hlt : o < dOffset d + 16 := Nat.lt_of_lt_of_le ho' (by simp only [List.length_cons, List.length_nil]; omega)
  have hb := hbank (o - dOffset d) (by omega)
  rwa [← hbase, Nat.add_assoc, Nat.add_sub_cancel' ho] at hb

theorem State.capturePins_none {s : State} {time : Nat} {lv : Word} {crc : Bool} (h : ∀ e ∈ s.allChannels, dType e.2 ≠ 10) :
    s.capturePins time lv crc = s := by
  have hnil : s.allChannels.filter (fun e => dType e.2 = 10) = [] :=
    List.filter_eq_nil_iff.mpr fun e he => by simpa using h e he
  rw [State.capturePins, hnil]

theorem State.capturePins_one {s : State} {time di : Nat} {lv : Word} {crc : Bool} {d : Desc}
    (h : s.allChannels.filter (fun e => dType e.2 = 10) = [(di, d)]) :
    s.capturePins time lv crc = if crc then s.setDescStatus di stFabricError else s.putPins di d time lv := by
  rw [State.capturePins, h]
  rfl

/-- The state of the pins' levels at a capture. -/
def State.captured (s : State) (lv : Word) : State := { s with gpio := { s.gpio with level := lv, capFor := s.nextTick } }

/-- The state after the GPIO_IN channels have taken them. -/
def State.taken (s : State) (lv : Word) (crc : Bool) : State :=
  if s.dev = .run then (s.captured lv).capturePins s.captureTime lv crc else s.captured lv

/-- A capture that is due. -/
theorem exec_gpioCapture {s : State} (hdev : s.dev = .run ∨ s.dev = .safe) (hrun : s.folio.running = true) (hcan : s.canOn = true)
    (htime : s.captureTime ≤ s.aon.time.toNat) (hfor : s.gpio.capFor ≠ s.nextTick) (levels : Word) (crc : Bool) :
    let lv := levels &&& ~~~ s.timePins
    exec (.gpioCapture levels crc) s =
      .next ((s.taken lv crc).readback ((upTo 64).filter (fun n => !(s.taken lv crc).inDelay n)) lv) := by
  refine exec_of_due (c := .gpioCapture levels crc) (s := s) (f := fun s => s.gpioCapture levels crc) rfl ?_
  have hd : (decide (s.dev = .run) || decide (s.dev = .safe)) = true := by
    rw [Bool.or_eq_true, decide_eq_true_iff, decide_eq_true_iff]
    exact hdev
  rw [hd, hrun, hcan, decide_eq_true htime, decide_eq_true hfor]
  rfl

end pins

end Sys2Proof.Machine

namespace Sys2Proof.TrainIo

open Sys2Proof.Machine

/-- Settles O58: the oldest record by its body, and the pins by what a readback makes of a state. -/
theorem feedRecordsAndGpio : Obligations.FeedRecordsAndGpio := by
  refine ⟨?records, ?pins⟩
  case records =>
    intro s r rest hq hdev hrun hdue d v base drop
    have hexec := exec_feedRecordWrite hq hdev hrun hdue
    refine ⟨hexec true, fun hoff => (hexec false).trans (congrArg _ (State.writeRecord_off (s := drop) hoff)), fun hst hon hbank => ?_⟩
    have hdrop : drop.desc r.desc = d := rfl
    refine ⟨?frame, ?sample⟩
    case frame =>
      intro w8 w16 data j hbody hj hoff hmode hcount helem hstep hlen new
      have hput := State.putFrame_plain (s := drop) (di := r.desc) (time := r.time) (w8 := w8) (w16 := w16) hoff hmode hcount
        helem hstep hlen (base := base) rfl hj (new := new) rfl hbank
      have hwrote := (hexec false).trans (congrArg _ (State.writeRecord_frame (s := drop) hdrop hon hst hbody hput))
      generalize hu : ({ drop with feed := { drop.feed with newCnt := Table.set (fun _ => 0) drop.feed.newCnt r.desc new } } : State) = u
        at hwrote
      obtain ⟨hpeek, hcode⟩ := State.pokes_wordsAt u (base + 8 * j)
        [TWord.time r.time, TWord.uint (setBits w8 16 8 new), TWord.raw w16, TWord.raw (BitVec.ofNat 64 (leNat data))]
      have hback := State.pokes_back u (wordsAt (base + 8 * j)
        [TWord.time r.time, TWord.uint (setBits w8 16 8 new), TWord.raw w16, TWord.raw (BitVec.ofNat 64 (leNat data))])
      generalize u.pokes (wordsAt (base + 8 * j) [TWord.time r.time, TWord.uint (setBits w8 16 8 new), TWord.raw w16,
        TWord.raw (BitVec.ofNat 64 (leNat data))]) = t at hwrote hpeek hcode hback
      clear_value base
      have hfeed : t.feed = u.feed := (congrArg State.feed hback :)
      refine ⟨t, hwrote, hpeek 0 _ rfl, hpeek 1 _ rfl, hpeek 2 _ rfl, hpeek 3 _ rfl, fun b hb => (hcode b ?_).trans ?_, ?_, ?_, ?_⟩
      · simp only [List.length_cons, List.length_nil]
        omega
      · rw [← hu]
        rfl
      · rw [hfeed, ← hu]
      · rw [hfeed, ← hu]
        exact Table.get_set_same ..
      · refine (congrArg (fun v : State => ({ v with mem := s.mem, feed := { v.feed with
          rxq := s.feed.rxq, newCnt := s.feed.newCnt } } : State)) hback).trans ?_
        rw [← hu]
    case sample =>
      intro unit w hbody k a
      have hwrote := (hexec false).trans (congrArg _ (State.writeRecord_sample (s := drop) hdrop hon hst hbody))
      refine ⟨fun hbad => ?_, fun ha8 hi8 hroom hi0 hi1 => ?_⟩
      · rw [State.putSample_range (s := drop) (k := k) rfl rfl hbad] at hwrote
        exact ⟨_, hwrote, rfl, Table.get_set_same (fun _ => 0) s.feed.samples unit (k + 1), rfl⟩
      · rw [State.putSample_fits (s := drop) (k := k) rfl rfl (base := base) rfl ⟨ha8, hi8, hroom⟩ hbank] at hwrote
        have hbase8 : base % 8 = 0 := by omega
        generalize hu : ({ drop with feed := { drop.feed with samples := Table.set (fun _ => 0) drop.feed.samples unit (k + 1) } } :
          State) = u at hwrote
        obtain ⟨hpeek, hcode⟩ := State.pokes_wordsAt u (base + a) [TWord.time r.time, TWord.raw w]
        have hback := State.pokes_back u (wordsAt (base + a) [TWord.time r.time, TWord.raw w])
        generalize u.pokes (wordsAt (base + a) [TWord.time r.time, TWord.raw w]) = t at hwrote hpeek hcode hback
        clear_value base a
        have hback' := (congrArg (fun x : State => ({ x with mem := u.mem } : State))
          (State.poke_back t (base + dIdxOff d) (TWord.uint (BitVec.ofNat 64 (k + 1))))).trans hback
        refine ⟨_, hwrote, ?_, ?_, State.poke_peek_same, fun b hb0 hb1 hbi => ?_, ?_, ?_, ?_⟩
        · exact (State.poke_peek_other (by omega)).trans (hpeek 0 _ rfl)
        · exact (State.poke_peek_other (by omega)).trans (hpeek 1 _ rfl)
        · refine (State.poke_peekCode_other hbi).trans ((hcode b ?_).trans ?_)
          · simp only [List.length_cons, List.length_nil]
            omega
          · rw [← hu]
            rfl
        · refine (congrArg (fun x : State => x.feed.rxq) hback' :).trans ?_
          rw [← hu]
        · refine (congrArg (fun x : State => Table.get (fun _ => 0) x.feed.samples unit) hback' :).trans ?_
          rw [← hu]
          exact Table.get_set_same (fun _ => 0) s.feed.samples unit (k + 1)
        · refine (congrArg (fun v : State => ({ v with mem := s.mem, feed := { v.feed with
            rxq := s.feed.rxq, samples := s.feed.samples } } : State)) hback').trans ?_
          rw [← hu]
  case pins =>
    intro s levels hpow hcan lv want off judged
    refine ⟨?capture, ?channel, ?sample, ?readback⟩
    case capture =>
      intro hdev hrun htime hfor hnone crc
      have htaken : s.taken lv crc = s.captured lv := by
        rw [State.taken]
        split
        · exact State.capturePins_none (s := s.captured lv) (hnone ‹_›)
        · rfl
      obtain ⟨t, ht, hbits, hgpio, hback⟩ := State.readback_spec (s.captured lv) ((upTo 64).filter (fun n => !s.inDelay n)) lv
      refine ⟨t, ⟨hbits, ?_, ?_⟩, ?_⟩
      · exact (congrArg (fun g : Gpio => ({ g with rbErr := s.gpio.rbErr } : Gpio)) hgpio :)
      · refine (exec_gpioCapture hdev hrun hcan htime hfor levels crc).trans ?_
        rw [htaken]
        exact congrArg Host.Outcome.next ht
      · exact (congrArg (fun x : State => ({ x with gpio := s.gpio } : State)) hback :)
    case channel =>
      intro hdev hrun htime hfor hoff di d n hch hpins u base
      have hexec := exec_gpioCapture (.inl hdev) hrun hcan htime hfor levels
      have htaken (crc : Bool) : s.taken lv crc = if crc then u.setDescStatus di stFabricError else u.putPins di d s.captureTime lv :=
        (if_pos hdev).trans (State.capturePins_one (s := s.captured lv) hch)
      have hread {t : State} {crc : Bool} (ht : s.taken lv crc = t) (hclean : t.pinsOff ((upTo 64).filter (fun n => !t.inDelay n)) lv = []) :
          exec (.gpioCapture levels crc) s = .next t := by
        refine (hexec crc).trans (congrArg _ ?_)
        rw [ht]
        exact State.readback_clean hclean
      have hclean : u.pinsOff ((upTo 64).filter (fun n => !u.inDelay n)) lv = [] := hoff
      have hstatus (st : Nat) : (u.setDescStatus di st).pinsOff
          ((upTo 64).filter (fun n => !(u.setDescStatus di st).inDelay n)) lv = [] := by
        have hdelay : (u.setDescStatus di st).inDelay = u.inDelay := rfl
        rw [hdelay, State.pinsOff_setDescStatus]
        exact hclean
      refine ⟨hread (htaken true) (hstatus _), fun hrdy => hread ((htaken false).trans ?_) (hstatus _), fun hst hrdy hbank => ?_⟩
      · exact (if_neg Bool.false_ne_true).trans (if_pos (by rw [show u.draftReady (dSlot d) = false from hrdy]; rfl))
      · have hput := (htaken false).trans ((if_neg Bool.false_ne_true).trans (State.putPins_one (s := u) (time := s.captureTime) (di := di)
          (lv := lv) (base := base) hpins hst hrdy rfl hbank))
        have hback := State.pokes_back u (wordsAt base [TWord.time (BitVec.ofNat 64 s.captureTime), TWord.bool (bitAt lv n)])
        obtain ⟨hpeek, hcode⟩ := State.pokes_wordsAt u base [TWord.time (BitVec.ofNat 64 s.captureTime), TWord.bool (bitAt lv n)]
        generalize u.pokes (wordsAt base [TWord.time (BitVec.ofNat 64 s.captureTime), TWord.bool (bitAt lv n)]) = t
          at hput hback hpeek hcode
        clear_value base
        have hmem (b : Nat) : u.peekCode b = s.peekCode b := congrArg (fun m => Table.get fillCode m (b / 8)) (rfl : u.mem = s.mem)
        refine ⟨t, hread hput ?_, hpeek 0 _ rfl, hpeek 1 _ rfl, fun b hb0 hb1 => (hcode b ?_).trans (hmem b), hback⟩
        · have hdelay : t.inDelay = u.inDelay := State.inDelay_of_gpio (congrArg State.gpio hback :) (congrArg State.cyc hback :)
          rw [hdelay, State.pinsOff_of_mem hback]
          exact hclean
        · simp only [List.length_cons, List.length_nil]
          omega
    case sample =>
      intro k di d hdev hrun hch hdue hfree
      have hexec : exec (.gpioSample k levels) s = .next (s.pushRecord di s.sampleTime (.sample k.val [lv &&& dWord d 3])) := by
        have hrow : exec (.gpioSample k levels) s = execGpioSample k levels s := rfl
        rw [hrow, execGpioSample, hch]
        refine guarded_of_due ?_
        have hall : (s.feed.rxq.all fun r => r.desc ≠ di || r.time.toNat ≠ s.sampleTime) = true :=
          List.all_eq_true.mpr fun r hr => by rw [decide_eq_true (hfree r hr), Bool.true_or]
        rw [decide_eq_true hdev, hrun, hcan, hdue, hall]
        rfl
      obtain ⟨F, hF, hawait⟩ := State.pushRecord_feed s di s.sampleTime (.sample k.val [lv &&& dWord d 3])
      exact ⟨_, hexec, by rw [hF], hawait _ (by rw [hF])⟩
    case readback =>
      intro due hdue
      have hrow : s.rbDue = due := rfl
      obtain ⟨t, ht, hbits, hgpio, hback⟩ := State.readback_spec ({ s with gpio := { s.gpio with
        level := lv, changed := s.gpio.changed.filter (fun (c : Nat × Nat) => !due.contains c.1) } } : State) due lv
      refine ⟨t, ⟨hbits, ?_, ?_⟩, ?_⟩
      · exact (congrArg (fun g : Gpio => ({ g with rbErr := s.gpio.rbErr } : Gpio)) hgpio :)
      · have hready : (s.canOn && s.powered && s.rbDue ≠ []) = true := by
          rw [hcan, hpow, hrow, decide_eq_true hdue]
          rfl
        exact (exec_of_due (c := .gpioReadback levels) (s := s) (f := fun s =>
          let pins := s.rbDue
          let lv := levels &&& ~~~ s.timePins
          ({ s with gpio := { s.gpio with
            level := lv, changed := s.gpio.changed.filter (fun (c : Nat × Nat) => !pins.contains c.1) } } : State).readback pins lv)
          rfl hready).trans (congrArg Host.Outcome.next ht)
      · exact (congrArg (fun x : State => ({ x with gpio := s.gpio } : State)) hback :)

end Sys2Proof.TrainIo
end

section
/-! Queue pairs: messages, status entries and the link (R332, R333, R336, R337, R340, R341). -/

namespace Sys2Proof.Machine

section posting

variable {s u : State} {pre : List Out} {q : Nat} {c : Queue}

/-- A queue's work so far from the state `s` on: it has written `pre`, the queue's context is `c`, and nothing else has changed
but the arbiter's account of link time. -/
def State.Posting (s u : State) (pre : List Out) (q : Nat) (c : Queue) : Prop :=
  u.out = s.out ++ pre ∧ u.queue q = c ∧ (∀ j, j ≠ q → u.queue j = s.queue j) ∧
  { u.hif with qps := s.hif.qps, arb := s.hif.arb } = s.hif ∧ { u with out := s.out, hif := s.hif } = s

theorem State.Posting.refl (s : State) (q : Nat) : s.Posting s [] q (s.queue q) :=
  ⟨(List.append_nil _).symm, rfl, fun _ _ => rfl, rfl, rfl⟩

theorem State.Posting.modQueue (h : s.Posting u pre q c) (f : Queue → Queue) : s.Posting (u.modQueue q f) pre q (f c) := by
  obtain ⟨hout, hq, hother, hhif, hback⟩ := h
  exact ⟨hout, by rw [State.modQueue_queue_same, hq], fun j hj => (State.modQueue_queue_other hj).trans (hother j hj), hhif, hback⟩

theorem State.Posting.modMsg {m : QMsg} {ms : List QMsg} (h : s.Posting u pre q c) (hc : c.msgs = m :: ms) (f : QMsg → QMsg) :
    s.Posting (u.modMsg q f) pre q { c with msgs := f m :: ms } := by
  have hmod := h.modQueue (fun c => { c with msgs := match c.msgs with
    | [] => []
    | m :: t => f m :: t })
  simp only [hc] at hmod
  exact hmod

theorem State.Posting.chargeLink (h : s.Posting u pre q c) (g n : Nat) : s.Posting (u.chargeLink g n) pre q c := h

theorem State.Posting.useLink (h : s.Posting u pre q c) (n : Nat) : s.Posting (u.useLink q n) pre q c := h

theorem State.Posting.ideStream (h : s.Posting u pre q c) (a : Nat) : u.ideStream a = s.ideStream a := by
  obtain ⟨-, -, -, hhif, -⟩ := h
  have hide : u.hif.ide = s.hif.ide := (congrArg Hif.ide hhif :)
  rw [State.ideStream, State.ideStream, hide]

theorem State.Posting.emitTo (h : s.Posting u pre q c) (a : Nat) (f : Option Nat → Out) :
    s.Posting (u.emitTo a f) (pre ++ [f (s.ideStream a)]) q c := by
  have hide := h.ideStream a
  obtain ⟨hout, hq, hother, hhif, hback⟩ := h
  refine ⟨?_, hq, hother, hhif, hback⟩
  rw [State.emitTo, hide, ← List.append_assoc, ← hout]
  rfl

theorem phaseOf_le (i n : Nat) : phaseOf i n ≤ 1 := Nat.sub_le _ _

/-- The phase bit of an entry (R332). -/
theorem bitAt_phase {w : Nat} (i n : Nat) (hw : w < 2 ^ 63) :
    bitAt (BitVec.ofNat 64 (w + phaseOf i n * 2 ^ 63)) 63 = decide (i / n % 2 = 0) := by
  refine bitAt_ofNat_of_div (by decide) ?_
  rw [Nat.add_mul_div_right _ _ (by decide), Nat.div_eq_of_lt hw, Nat.zero_add, phaseOf]
  have hmod := Nat.mod_two_eq_zero_or_one (i / n)
  obtain h | h := hmod
  · rw [h]
    rfl
  · rw [h]
    rfl

/-- The status entry of a message (R333). -/
theorem State.Posting.postStatus (h : s.Posting u pre q c) {status : Nat} (hst : status < 16) (len idx entries msgSeq : Nat)
    (folio : Word) :
    s.StatusPosted (u.postStatus q status len idx entries msgSeq folio) pre q c status len idx entries msgSeq folio ∧
    { u.postStatus q status len idx entries msgSeq folio with out := s.out, hif := s.hif } = s := by
  have htime : u.aon.time = s.aon.time := by
    obtain ⟨-, -, -, -, hback⟩ := h
    exact (congrArg (fun t : State => t.aon.time) hback :)
  have hq : u.queue q = c := h.2.1
  let w0 := len % 2 ^ 19 + status * 2 ^ 20 + idx % 65536 * 2 ^ 24 + entries % 65536 * 2 ^ 40
  let w1 := folio.toNat % 2 ^ 48 + msgSeq % 65536 * 2 ^ 48
  let addr := c.sBase + c.sTail % c.sSize * 16
  let f (c : Queue) : Queue := { c with
    sTail := (c.sTail + 1) % 65536, mod := c.mod + 1, modAt := if c.mod = 0 then u.aon.time else c.modAt }
  have hpost : u.postStatus q status len idx entries msgSeq folio =
      ((u.emitTo addr (Out.hostWrite addr [BitVec.ofNat 64 (w0 + phaseOf c.sTail c.sSize * 2 ^ 63), BitVec.ofNat 64 w1])).chargeLink
        c.group 16).modQueue q f := by
    rw [State.postStatus, hq]
    rfl
  obtain ⟨hout, hqueue, hother, hhif, hback⟩ := ((h.emitTo addr (Out.hostWrite addr
    [BitVec.ofNat 64 (w0 + phaseOf c.sTail c.sSize * 2 ^ 63), BitVec.ofNat 64 w1])).chargeLink c.group 16).modQueue f
  rw [hpost]
  have hphase := phaseOf_le c.sTail c.sSize
  have hbit := bitAt_phase (w := w0) c.sTail c.sSize (by simp only [w0]; omega)
  generalize phaseOf c.sTail c.sSize = ph at hphase hbit hout hqueue hother hhif hback
  refine ⟨⟨⟨_, _, (List.append_assoc ..).symm ▸ hout, ?_, ?_, ?_, ?_, hbit, ?_, ?_⟩, ?_, hother, hhif⟩, hback⟩
  · rw [bitsOf_ofNat _ _ _ (by decide)]
    simp only [w0]
    omega
  · rw [bitsOf_ofNat _ _ _ (by decide)]
    simp only [w0]
    omega
  · rw [bitsOf_ofNat _ _ _ (by decide)]
    simp only [w0]
    omega
  · rw [bitsOf_ofNat _ _ _ (by decide)]
    simp only [w0]
    omega
  · rw [bitsOf_ofNat _ _ _ (by decide)]
    simp only [w1]
    omega
  · rw [bitsOf_ofNat _ _ _ (by decide)]
    simp only [w1]
    omega
  · rw [hqueue]
    simp only [f, htime]

/-- The end of a message to the host with a status that has an entry (R337, R338, R388). -/
theorem State.Posting.endPost {m : QMsg} {ms : List QMsg} {status : Nat} (h : s.Posting u pre q c) (hc : c.msgs = m :: ms)
    (hst : status < 8) :
    let t := u.endPost q status
    s.StatusPosted t pre q { c with msgs := ms } status (min m.len (56 * m.posted)) (if m.posted = 0 then c.dTail else m.first)
      m.posted m.msgSeq m.folio ∧
    t.desc m.desc = { s.desc m.desc with newStatus := some (status, s.folio16) } ∧ (∀ d, d ≠ m.desc → t.desc d = s.desc d) ∧
    { t with out := s.out, hif := s.hif, feed := { t.feed with descs := s.feed.descs } } = s := by
  intro t
  have hq : (u.queue q).msgs = m :: ms := by rw [h.2.1, hc]
  have hmod := h.modQueue (fun c => { c with msgs := ms })
  have htail : ((u.modQueue q (fun c => { c with msgs := ms })).queue q).dTail = c.dTail := by rw [hmod.2.1]
  obtain ⟨hpost, hback⟩ := hmod.postStatus (status := status) (by omega) (min m.len (56 * m.posted))
    (if m.posted = 0 then c.dTail else m.first) m.posted m.msgSeq m.folio
  have ht : t = ((u.modQueue q (fun c => { c with msgs := ms })).postStatus q status (min m.len (56 * m.posted))
      (if m.posted = 0 then c.dTail else m.first) m.posted m.msgSeq m.folio).setDescStatus m.desc status := by
    simp only [t, State.endPost, hq, htail, if_pos hst]
  clear_value t
  subst ht
  generalize (u.modQueue q (fun c => { c with msgs := ms })).postStatus q status (min m.len (56 * m.posted))
      (if m.posted = 0 then c.dTail else m.first) m.posted m.msgSeq m.folio = v at hpost hback
  have hdesc (d : Nat) : v.desc d = s.desc d := (congrArg (fun x : State => x.desc d) hback :)
  have hfolio : v.folio16 = s.folio16 := (congrArg State.folio16 hback :)
  refine ⟨hpost, ?_, fun d hd => ?_, ?_⟩
  · rw [State.setDescStatus, State.modDesc_desc_same, hdesc, hfolio]
  · rw [State.setDescStatus, State.modDesc_desc_other hd, hdesc]
  · exact (congrArg (fun x : State => ({ x with feed := { x.feed with descs := s.feed.descs } } : State)) hback :)

/-! ### POST_MESSAGE -/

variable {m : QMsg} {rest : List QMsg} {bs : List Byte}

/-- A message gathers its bytes. -/
theorem State.gatherMsg_ok {ws : List TWord} (hbytes : m.bytes = none) (hbad : m.bad = 0) (hover : s.overtaken m = false)
    (hg : s.gather (s.desc m.desc) (m.frame * 4096) m.elems = (.ok bs ws, s)) :
    s.gatherMsg m = ({ m with bytes := some bs, len := bs.length }, s) := by
  rw [State.gatherMsg, hbytes, hbad, hover, hg]
  rfl

/-- A message of one data entry is written whole where its queue may write it (R337, R341). -/
theorem State.postEntries_one (hq : (u.queue q) = c) (hm : m.posted = 0) (h1 : 1 ≤ bs.length) (h56 : bs.length ≤ 56)
    (htail : c.dTail < 65536) (hroom : c.dUsed < c.dSize) (hgrant : 64 ≤ u.grant q) :
    let a := c.dBase + c.dTail % c.dSize * 64
    u.postEntries q m bs = ((((u.emitTo a (Out.hostWrite a (postEntry m bs 0 c.dTail c.dSize))).useLink q 64).modQueue q
      (fun c => { c with dTail := (c.dTail + 1) % 65536 })).modMsg q
        (fun m => { m with posted := m.posted + 1, first := if m.posted = 0 then c.dTail else m.first })).endPost q stOk := by
  intro a
  have htotal : (bs.length + 55) / 56 = 1 := by omega
  have hk : min (min ((bs.length + 55) / 56 - m.posted) (c.dSize - c.dUsed)) (u.grant q / 64) = 1 := by omega
  have hsum : m.posted + 1 = (bs.length + 55) / 56 := by omega
  have hidx : (c.dTail + 0) % 65536 = c.dTail := by omega
  simp only [State.postEntries, hq, hk]
  rw [if_neg Nat.one_ne_zero, if_pos hsum, upTo, List.range_one, State.forAll, List.foldl_cons, List.foldl_nil, hidx, hm]

/-- It leaves the queue with its data entry and its status. -/
theorem State.Posting.postEntries_one {ms : List QMsg} (hu : s.Posting u [] q c) (hc : c.msgs = m :: ms) (hm : m.posted = 0)
    (hlen : m.len = bs.length) (h1 : 1 ≤ bs.length) (h56 : bs.length ≤ 56) (htail : c.dTail < 65536) (hroom : c.dUsed < c.dSize)
    (hgrant : 64 ≤ u.grant q) :
    let a := c.dBase + c.dTail % c.dSize * 64
    let t := u.postEntries q m bs
    s.StatusPosted t [.hostWrite a (postEntry m bs 0 c.dTail c.dSize) (s.ideStream a)] q
      { c with msgs := ms, dTail := (c.dTail + 1) % 65536 } 0 bs.length c.dTail 1 m.msgSeq m.folio ∧
    t.desc m.desc = { s.desc m.desc with newStatus := some (0, s.folio16) } ∧ (∀ d, d ≠ m.desc → t.desc d = s.desc d) ∧
    { t with out := s.out, hif := s.hif, feed := { t.feed with descs := s.feed.descs } } = s := by
  intro a t
  let f (m : QMsg) : QMsg := { m with posted := m.posted + 1, first := if m.posted = 0 then c.dTail else m.first }
  have hposted : (f m).posted = 1 := congrArg (· + 1) hm
  have hfirst : (f m).first = c.dTail := if_pos hm
  have hmin : min (f m).len (56 * 1) = bs.length := by
    rw [show (f m).len = bs.length from hlen]
    omega
  have hwrote := (((hu.emitTo a (Out.hostWrite a (postEntry m bs 0 c.dTail c.dSize))).useLink 64).modQueue
    (fun c => { c with dTail := (c.dTail + 1) % 65536 })).modMsg (m := m) (ms := ms) hc f
  obtain ⟨ht, hdesc⟩ := hwrote.endPost (m := f m) (ms := ms) (status := 0) rfl (by decide)
  rw [hposted, hfirst, hmin, if_neg Nat.one_ne_zero, List.nil_append] at ht
  have hone : t = ((((u.emitTo a (Out.hostWrite a (postEntry m bs 0 c.dTail c.dSize))).useLink q 64).modQueue q
      (fun c => { c with dTail := (c.dTail + 1) % 65536 })).modMsg q f).endPost q 0 :=
    State.postEntries_one hu.2.1 hm h1 h56 htail hroom hgrant
  rw [← hone] at ht hdesc
  exact ⟨ht, hdesc⟩

/-- The header of a message's only data entry (R332). -/
theorem postEntry_one {idx size : Nat} (h1 : 1 ≤ bs.length) (h56 : bs.length ≤ 56) :
    ∃ h : Word, postEntry m bs 0 idx size = h :: bytesWords 7 (bs ++ List.replicate (56 - bs.length) 0) ∧
      bitsOf h 0 6 = bs.length ∧ bitAt h 6 = true ∧ bitAt h 7 = true ∧ bitAt h 8 = false ∧
      bitsOf h 16 16 = m.msgSeq % 65536 ∧ bitAt h 63 = decide (idx / size % 2 = 0) := by
  have hpart : (bs.drop (56 * 0)).take 56 = bs := List.take_of_length_le h56
  have hlast : decide (bs.length ≤ 56 * (0 + 1)) = true := decide_eq_true h56
  have hfirst : bitN (decide (0 = 0)) = 1 := rfl
  have hphase := phaseOf_le idx size
  refine ⟨BitVec.ofNat 64 (bs.length + 1 * 2 ^ 6 + 1 * 2 ^ 7 + m.msgSeq % 65536 * 2 ^ 16 + phaseOf idx size * 2 ^ 63), ?_, ?_,
    bitAt_ofNat_of_div (by decide) ?_, bitAt_ofNat_of_div (by decide) ?_, bitAt_ofNat_of_div (by decide) ?_, ?_,
    bitAt_phase idx size (by omega)⟩
  · rw [postEntry, hpart, hlast]
    rfl
  · rw [bitsOf_ofNat _ _ _ (by decide)]
    omega
  · rw [show bitN true = 1 from rfl]
    omega
  · rw [show bitN true = 1 from rfl]
    omega
  · rw [show bitN false = 0 from rfl]
    omega
  · rw [bitsOf_ofNat _ _ _ (by decide)]
    omega

end posting

end Sys2Proof.Machine

namespace Sys2Proof.HostInterface

open Sys2Proof.Machine

/-- Settles O36: a message of one entry, and the request for a queue's vector. -/
theorem postAndInterruptComplete : Obligations.PostAndInterruptComplete := by
  refine ⟨?post, ?interrupt⟩
  case post =>
    intro s q m rest bs ws hdev hlink c hen hto hmsgs hbytes hbad hposted hover hg h1 h56 htail hroom a
    have hdue : (decide (s.dev = .run) && s.linkOk && (s.queue q.val).en && (s.queue q.val).toHost) = true := by
      rw [decide_eq_true hdev, hlink, show (s.queue q.val).en = true from hen, show (s.queue q.val).toHost = true from hto]
      rfl
    have hexec (crc : Bool) : exec (.postMessage q crc) s = .next (s.postMessage q.val crc) :=
      exec_of_due (c := .postMessage q crc) (s := s) (f := fun s => s.postMessage q.val crc) rfl hdue
    have hstart := State.Posting.refl s q.val
    have hmsgs' : (s.queue q.val).msgs = m :: rest := hmsgs
    refine ⟨?sent, ?failed⟩
    case sent =>
      intro rest' hrest u hgrant
      have hpost : s.postMessage q.val false = u.postEntries q.val { m with bytes := some bs, len := bs.length } bs := by
        simp only [State.postMessage, hmsgs', State.gatherMsgs, State.gatherMsg_ok hbytes hbad hover hg, hrest]
        rw [Bool.false_and, if_neg Bool.false_ne_true, if_neg (not_not_intro hbad)]
      have hu := hstart.modQueue (fun c => { c with msgs := { m with bytes := some bs, len := bs.length } :: rest' })
      obtain ⟨h, hentry, hlen, hfirst, hlast, hptr, hseq, hphase⟩ := postEntry_one (m := { m with bytes := some bs, len := bs.length }) (idx := c.dTail)
        (size := c.dSize) h1 h56
      obtain ⟨ht, hdesc⟩ := hu.postEntries_one (m := { m with bytes := some bs, len := bs.length }) (ms := rest') rfl hposted rfl h1 h56
        htail hroom hgrant
      refine ⟨_, h, (hexec false).trans (congrArg _ hpost), hlen, hfirst, hlast, hptr, hseq, hphase, ?_,
        hdesc⟩
      rw [← hentry]
      exact ht
    case failed =>
      have hpost : s.postMessage q.val true = s.endPost q.val stFabricError := by
        simp only [State.postMessage, hmsgs', hbytes]
        rfl
      obtain ⟨ht, hdesc⟩ := hstart.endPost (status := stFabricError) hmsgs' (by decide)
      rw [hposted, if_pos rfl, Nat.mul_zero, Nat.min_zero] at ht
      exact ⟨_, (hexec true).trans (congrArg _ hpost), ht, hdesc⟩
  case interrupt =>
    intro s q c hvec hmod hdue
    have hirq : s.irqDue q.val = true := by
      rw [State.irqDue, Bool.and_eq_true, Bool.and_eq_true, Bool.or_eq_true, Bool.and_eq_true, decide_eq_true_iff, decide_eq_true_iff,
        decide_eq_true_iff, decide_eq_true_iff]
      exact ⟨⟨hvec, hmod⟩, hdue⟩
    refine ⟨s.modQueue q.val (fun c => { c with mod := 0 }), _, State.modQueue_queue_same, fun j hj => State.modQueue_queue_other hj,
      rfl, State.sendMsix_asked _ _, ?_⟩
    exact exec_of_due (c := .queueInterrupt q) (s := s) (f := fun s =>
      let c := s.queue q.val
      ((s.modQueue q.val (fun c => { c with mod := 0 })).sendMsix c.vector).chargeLink c.group 4) rfl hirq

end Sys2Proof.HostInterface
end

section
/-! Messages to the part: reads, data entries and their ends (R20, R326, R332, R336, R341). -/

namespace Sys2Proof.Machine

/-- The bytes of a word spell it. -/
theorem leNat_wordBytes (w : Word) : BitVec.ofNat 64 (leNat (wordBytes w)) = w := by
  refine BitVec.eq_of_toNat_eq ?_
  have hw : w.toNat < 2 ^ 64 := w.isLt
  simp only [wordBytes, upTo, List.range, List.range.loop, List.map_cons, List.map_nil, leNat, BitVec.toNat_ofNat]
  omega

theorem length_wordBytes (w : Word) : (wordBytes w).length = 8 := by
  rw [wordBytes, List.length_map, upTo, List.length_range]

theorem Table.ins_ins {α : Type} (t : Table α) (k : Nat) (v w : α) : Table.ins (Table.ins t k v) k w = Table.ins t k w := by
  induction t with
  | nil => simp [Table.ins]
  | cons e t ih =>
    obtain ⟨j, x⟩ := e
    simp only [Table.ins]
    by_cases hlt : k < j
    · rw [if_pos hlt, if_pos hlt, Table.ins, if_neg (Nat.lt_irrefl k), if_pos rfl]
    · rw [if_neg hlt, if_neg hlt]
      by_cases heq : k = j
      · rw [if_pos heq, if_pos heq, Table.ins, if_neg (Nat.lt_irrefl k), if_pos rfl]
      · rw [if_neg heq, if_neg heq, Table.ins, if_neg hlt, if_neg heq, ih]

/-- A queue that has a message is listed once however often it changes. -/
theorem State.modQueue_modQueue {s : State} {q : Nat} {f g : Queue → Queue} (hg : (g (s.queue q)).msgs ≠ [])
    (hf : (f (g (s.queue q))).msgs ≠ []) : (s.modQueue q g).modQueue q f = s.modQueue q (fun c => f (g c)) := by
  have hne {c : Queue} (h : c.msgs ≠ []) : c ≠ ({} : Queue) := fun e => h (by rw [e])
  have hq : (s.modQueue q g).queue q = g (s.queue q) := State.modQueue_queue_same
  have hset : Table.set (fun _ => ({} : Queue)) (Table.set (fun _ => {}) s.hif.qps q (g (s.queue q))) q (f (g (s.queue q))) =
      Table.set (fun _ => {}) s.hif.qps q (f (g (s.queue q))) := by
    rw [Table.set, if_neg (hne hf), Table.set, if_neg (hne hg), Table.ins_ins, Table.set, if_neg (hne hf)]
  rw [State.modQueue, hq]
  exact congrArg (fun t => ({ s with hif := { s.hif with qps := t } } : State)) hset

section fetching

variable {s u : State} {pre : List Out} {q : Nat} {c : Queue} {m : QMsg} {ms : List QMsg}

/-- The read that a message needs next goes out where the arbiter lets the queue. -/
theorem State.Posting.issueRead {a n : Nat} (h : s.Posting u pre q c) (hc : c.msgs = m :: ms)
    (hnext : u.nextRead q m = some (a, n)) (hgrant : u.grant q ≠ 0) :
    s.Posting (u.issueRead q) (pre ++ [Out.hostRead a n (s.ideStream a)]) q
      { c with msgs := { m with reading := true, asked := n, folio := s.folio.number } :: ms } := by
  have hmsgs : (u.queue q).msgs = m :: ms := by rw [h.2.1, hc]
  have hfolio : u.folio = s.folio := by
    obtain ⟨-, -, -, -, hback⟩ := h
    exact (congrArg State.folio hback :)
  have hread : u.issueRead q = ((u.emitTo a (Out.hostRead a n)).useLink q n).modMsg q
      (fun m => { m with reading := true, asked := n, folio := s.folio.number }) := by
    simp only [State.issueRead, hmsgs, hnext, if_neg hgrant, hfolio]
  rw [hread]
  exact ((h.emitTo a (Out.hostRead a n)).useLink n).modMsg hc _

theorem State.issueRead_refused {a n : Nat} (hmsgs : (u.queue q).msgs = m :: ms) (hnext : u.nextRead q m = some (a, n))
    (hgrant : u.grant q = 0) : u.issueRead q = u := by
  simp only [State.issueRead, hmsgs, hnext, if_pos hgrant]

/-- The end of a message to the part. -/
theorem State.Posting.endFetch {status : Nat} (h : s.Posting u pre q c) (hc : c.msgs = m :: ms) (hst : status < 16) :
    let past := (m.first + m.posted) % 65536
    let t := u.endFetch q status
    s.StatusPosted t pre q { c with msgs := [], dHead := past } status m.len past m.posted m.msgSeq m.folio ∧
    { t with out := s.out, hif := s.hif } = s := by
  intro past t
  have hmsgs : (u.queue q).msgs = m :: ms := by rw [h.2.1, hc]
  have ht : t = (u.modQueue q (fun c => { c with msgs := [], dHead := past })).postStatus q status m.len past m.posted m.msgSeq
      m.folio := by
    simp only [t, State.endFetch, hmsgs]
    rfl
  rw [ht]
  exact (h.modQueue (fun c => { c with msgs := [], dHead := past })).postStatus hst m.len past m.posted m.msgSeq m.folio

/-- A message that has just been taken ends with FABRIC_ERROR (R20). -/
theorem State.Posting.fetchCrc {k : Nat} (h : s.Posting u pre q c) (hc : c.msgs = m :: ms) (hp : m.posted = 0) :
    ∃ t : State, u.fetchCrc q k = t.raise { cls := 0x17, detail :=
        ((s.channels k).find? (fun e => dType e.2 = 2 && dQueue e.2 = q)).elim 0 (·.1) + 7 * 4096 } ∧
      s.StatusPosted t pre q { c with msgs := [], dHead := (m.first + 1) % 65536 } 7 m.len ((m.first + 1) % 65536) 1 m.msgSeq m.folio ∧
      { t with out := s.out, hif := s.hif } = s := by
  let f (m : QMsg) : QMsg := { m with posted := if m.posted = 0 then 1 else m.posted }
  have hf : (f m).posted = 1 := if_pos hp
  have hmod := h.modMsg hc f
  have hch : (u.modMsg q f).channels k = s.channels k := by
    obtain ⟨-, -, -, -, hback⟩ := hmod
    exact (congrArg (fun x : State => x.channels k) hback :)
  obtain ⟨ht, hback⟩ := hmod.endFetch (status := 7) rfl (by decide)
  rw [hf] at ht
  refine ⟨(u.modMsg q f).endFetch q 7, ?_, ht, hback⟩
  rw [← hch]
  rfl

/-- A read that fails ends the message with HOST_ERROR. -/
theorem State.hostError_fails (hmsgs : (s.queue q).msgs = [m]) (hptr : m.ptr = none) :
    let past := (m.first + m.posted + 1) % 65536
    ∃ t : State, s.hostError q = t.raise { cls := 0x63, detail := q } ∧
      s.StatusPosted t [] q { s.queue q with msgs := [], dHead := past } 6 m.len past (m.posted + 1) m.msgSeq m.folio ∧
      { t with out := s.out, hif := s.hif } = s := by
  intro past
  let f (m : QMsg) : QMsg := { m with posted := if m.ptr.isSome then m.posted else m.posted + 1 }
  have hf : (f m).posted = m.posted + 1 := if_neg (by rw [hptr]; decide)
  obtain ⟨ht, hback⟩ := ((State.Posting.refl s q).modMsg hmsgs f).endFetch (status := 6) rfl (by decide)
  rw [hf] at ht
  exact ⟨_, rfl, ht, hback⟩

/-! ### Completions, by what comes in -/

section completions

theorem State.completion_poisoned (h : (s.queue q).msgs = m :: ms) :
    s.completion q .poisoned = (s.noteAer .poisoned).hostError q := by rw [State.completion, h]

theorem State.completion_unsupported (h : (s.queue q).msgs = m :: ms) : s.completion q .unsupported = s.hostError q := by
  rw [State.completion, h]

theorem State.completion_abort (h : (s.queue q).msgs = m :: ms) : s.completion q .abort = s.hostError q := by
  rw [State.completion, h]

theorem State.completion_ecrcBad (h : (s.queue q).msgs = m :: ms) (ws : List Word) :
    s.completion q (.ecrcBad ws) = (s.noteAer .ecrc).hostError q := by rw [State.completion, h]

theorem State.completion_entry (h : (s.queue q).msgs = m :: ms) (hptr : m.ptr = none) {ws : List Word} (hlen : ws.length = 8) :
    s.completion q (.data ws) = s.takeEntry q m ws := by
  rw [State.completion, h]
  simp only [hptr]
  exact if_pos (decide_eq_true hlen)

end completions

/-! ### Delivery -/

theorem State.Posting.poke (h : s.Posting u pre q c) (a : Nat) (w : TWord) : (s.poke a w).Posting (u.poke a w) pre q c := by
  obtain ⟨hout, hq, hother, hhif, hback⟩ := h
  have hmem : u.mem = s.mem := (congrArg State.mem hback :)
  obtain ⟨M, hu, hs⟩ : ∃ M, u.poke a w = { u with mem := M } ∧ s.poke a w = { s with mem := M } :=
    ⟨_, rfl, by rw [hmem]; rfl⟩
  rw [hu, hs]
  exact ⟨hout, hq, hother, hhif, (congrArg (fun x : State => ({ x with mem := M } : State)) hback :)⟩

/-- What a status entry says does not rest on the banks. -/
theorem State.StatusPosted.of_mem {t : State} {M : Table Code} {status len idx entries msgSeq : Nat} {folio : Word}
    (h : ({ s with mem := M } : State).StatusPosted t pre q c status len idx entries msgSeq folio) :
    s.StatusPosted t pre q c status len idx entries msgSeq folio := h

/-- The payload places of one word are of one page, and follow each other. -/
theorem places_word (slot j : Nat) {bs : List Byte} (hlen : bs.length = 8) :
    let ps := ((List.range 8).map (fun b => (slot, 8 * j + b))).zip bs
    (ps.map (fun e => e.1.1)).eraseDups = [slot] ∧
    (ps.filter (fun e => e.1.1 = slot)).map (fun e => (e.1.2, e.2)) = ((List.range 8).map (8 * j + ·)).zip bs := by
  match bs, hlen with
  | [b0, b1, b2, b3, b4, b5, b6, b7], _ =>
    exact ⟨by simp [List.range, List.range.loop, List.eraseDups_cons], by simp [List.range, List.range.loop]⟩

theorem State.access_of_hif {s t : State} (h : { t with hif := s.hif } = s) :
    t.bankReady = s.bankReady ∧ t.mirrored = s.mirrored := ⟨(congrArg State.bankReady h :), (congrArg State.mirrored h :)⟩

/-- A message that has written into a page. -/
def QMsg.touch (slot : Nat) (m : QMsg) : QMsg :=
  { m with pages := if m.pages.contains slot then m.pages else m.pages ++ [slot] }

/-- Eight payload bytes that fill one word of a drafted page whose bank is on. -/
theorem State.deliver_word {slot j cpa : Nat} {w : Word}
    (hplaces : ((s.inPlaces m.desc q).drop m.len).take 8 = (List.range 8).map (fun b => (slot, 8 * j + b)))
    (hst : (s.vslot slot).st = .drafted) (hon : s.draftReady slot = true) (hcpa : (s.vslot slot).draftFrame * 4096 + 8 * j = cpa)
    (hr : s.bankReady cpa = true) (hm : s.mirrored cpa = false) :
    s.deliver q m (wordBytes w) = (true, (((s.modMsg q (QMsg.touch slot)).poke cpa (TWord.raw w)).modMsg q
        (fun m => { m with len := m.len + 8 }))) := by
  have hzip : ((s.inPlaces m.desc q).drop m.len).zip (wordBytes w) =
      ((List.range 8).map (fun b => (slot, 8 * j + b))).zip (wordBytes w) := by
    rw [← hplaces]
    have hle : (((s.inPlaces m.desc q).drop m.len).zip (wordBytes w)).length ≤ 8 := by
      rw [List.length_zip, length_wordBytes]
      exact Nat.min_le_right _ _
    refine (List.take_of_length_le hle).symm.trans ?_
    rw [List.zip, List.take_zipWith, List.take_of_length_le (Nat.le_of_eq (length_wordBytes w))]
  obtain ⟨hslots, hbytes⟩ := places_word slot j (length_wordBytes w)
  let f := QMsg.touch slot
  have hbase : (s.modMsg q f).draftCpa slot 0 + 8 * j = cpa := by
    have hslot : (s.modMsg q f).vslot slot = s.vslot slot := rfl
    rw [State.draftCpa, hslot, Nat.add_zero, hcpa]
  obtain ⟨hbank, hmirror⟩ := State.access_of_hif (s := s) (t := s.modMsg q f) rfl
  have hready : (s.modMsg q f).bankReady cpa = true := by rw [hbank, hr]
  have hmir : (s.modMsg q f).mirrored cpa = false := by rw [hmirror, hm]
  have hwrite : (s.modMsg q f).writeBytes ((s.modMsg q f).draftCpa slot 0) (((List.range 8).map (8 * j + ·)).zip (wordBytes w)) =
      (true, (s.modMsg q f).poke cpa (TWord.raw w)) := by
    rw [State.writeBytes_word _ _ _ (length_wordBytes w), hbase, leNat_wordBytes, State.engineWrite_plain hready hmir]
  rw [State.deliver]
  simp only [hzip, hslots, List.foldl_cons, List.foldl_nil, hon, hbytes, State.feedDraft_drafted hst, length_wordBytes]
  have htouch : (fun m : QMsg => ({ m with
      pages := if m.pages.contains slot then m.pages else m.pages ++ [slot] } : QMsg)) = QMsg.touch slot := rfl
  rw [Bool.not_true, if_neg Bool.false_ne_true, htouch, hwrite]
  rfl

/-! ### Data entries -/

/-- A message whose read has come in; the first entry names its sequence number. -/
def QMsg.read (h : Word) (m : QMsg) : QMsg :=
  { m with reading := false, msgSeq := if m.posted = 0 then bitsOf h 16 16 else m.msgSeq }

section entry

variable {ws : List Word}

/-- A well-formed POINTER entry that fits (R332). -/
theorem State.takeEntry_pointer (hbad : m.bad = 0) (hposted : m.posted = 0) (hptr : bitAt (ws.getD 0 0) 8 = true)
    (hok : pointerOk ws = true) (hfits : s.tooLong q m (bitsOf (ws.getD 2 0) 0 32) = false) :
    s.takeEntry q m ws = ((s.modMsg q (QMsg.read (ws.getD 0 0))).modMsg q (fun m => { m with
      posted := m.posted + 1, ptr := some ((ws.getD 1 0).toNat, bitsOf (ws.getD 2 0) 0 32) })).goOn q := by
  have hfits' : (s.modMsg q (QMsg.read (ws.getD 0 0))).tooLong q m (bitsOf (ws.getD 2 0) 0 32) = false := hfits
  have hfirst : (decide (m.posted ≠ 0) && bitAt (ws.getD 0 0) 6) = false := by
    rw [decide_eq_false (not_not_intro hposted), Bool.false_and]
  rw [State.takeEntry]
  simp only [hfirst, hptr, hok]
  rw [if_neg Bool.false_ne_true, if_neg (not_not_intro hbad), if_pos trivial, Bool.not_true, if_neg Bool.false_ne_true]
  exact if_neg (ne_true_of_eq_false hfits')

/-- A whole message of eight bytes in one data entry. -/
theorem State.takeEntry_last (hbad : m.bad = 0) (hposted : m.posted = 0) (hptr : bitAt (ws.getD 0 0) 8 = false)
    (hfirst : bitAt (ws.getD 0 0) 6 = true) (hlast : bitAt (ws.getD 0 0) 7 = true) (hn : bitsOf (ws.getD 0 0) 0 6 = 8)
    (hres : entryReserved (ws.getD 0 0) = false) (hfits : s.tooLong q m 8 = false) {v : State}
    (hdel : (s.modMsg q (QMsg.read (ws.getD 0 0))).deliver q m (((ws.drop 1).flatMap wordBytes).take 8) = (true, v)) :
    s.takeEntry q m ws = (v.modMsg q (fun m => { m with posted := m.posted + 1 })).endFetch q stOk := by
  have hfits' : (s.modMsg q (QMsg.read (ws.getD 0 0))).tooLong q m 8 = false := hfits
  have hno : (decide (m.posted ≠ 0) && true) = false := by
    rw [decide_eq_false (not_not_intro hposted), Bool.false_and]
  have hform : (decide ((8 : Nat) = 0) || decide (56 < 8) || false || (decide (m.posted = 0) && !true)) = false := by
    simp
  rw [State.takeEntry]
  simp only [hfirst, hptr, hlast, hn, hres]
  rw [hno, if_neg Bool.false_ne_true, if_neg (not_not_intro hbad), if_neg Bool.false_ne_true, hform, if_neg Bool.false_ne_true]
  refine (if_neg (ne_true_of_eq_false hfits')).trans ?_
  rw [show s.modMsg q (fun m => { m with
    reading := false, msgSeq := if m.posted = 0 then bitsOf (ws.getD 0 0) 16 16 else m.msgSeq }) =
      s.modMsg q (QMsg.read (ws.getD 0 0)) from rfl, hdel]
  rfl

/-- Two steps of a message in a queue are one. -/
theorem State.modMsg_modMsg {f g : QMsg → QMsg} {m' : QMsg} (hq : s.queue q = c) (hc : c.msgs = [m]) (hm : f (g m) = m') :
    (s.modMsg q g).modMsg q f = s.modQueue q (fun c => { c with msgs := [m'] }) := by
  subst hm
  let F (f : QMsg → QMsg) (c : Queue) : Queue := { c with msgs := match c.msgs with
    | [] => []
    | m :: t => f m :: t }
  have hg : F g (s.queue q) = { c with msgs := [g m] } := by
    rw [hq]
    simp only [F, hc]
  have hf : F f (F g (s.queue q)) = { c with msgs := [f (g m)] } := by rw [hg]
  have htwo : (s.modMsg q g).modMsg q f = s.modQueue q (fun c => F f (F g c)) :=
    State.modQueue_modQueue (f := F f) (g := F g) (by rw [hg]; exact List.cons_ne_nil _ _) (by rw [hf]; exact List.cons_ne_nil _ _)
  rw [htwo, State.modQueue, hf, State.modQueue, hq]

theorem State.tooLong_of_le {n : Nat} (h : m.len + n ≤ 262144) (hroom : m.len + n ≤ (s.inPlaces m.desc q).length) :
    s.tooLong q m n = false := by
  rw [State.tooLong, decide_eq_false (Nat.not_lt.mpr h), decide_eq_false (Nat.not_lt.mpr hroom)]
  rfl

/-- An open window's message goes on with its next read. -/
theorem State.goOn_open (hq : (u.queue q).msgs = m :: ms) (hopen : u.fetchSets.contains m.desc = true) (hlink : u.linkOk = true) :
    u.goOn q = u.issueRead q := by
  rw [State.goOn, hq]
  simp only [hopen, hlink]
  rfl

/-- The first payload word of an entry, as bytes. -/
theorem entryBytes_first (hlen : ws.length = 8) : ((ws.drop 1).flatMap wordBytes).take 8 = wordBytes (ws.getD 1 0) := by
  match ws, hlen with
  | _ :: w :: ws, _ =>
    rw [List.drop_succ_cons, List.drop_zero, List.flatMap_cons, List.take_append_of_le_length (Nat.le_of_eq (length_wordBytes w).symm),
      List.take_of_length_le (Nat.le_of_eq (length_wordBytes w))]
    rfl

/-- A POINTER entry makes the part read its buffer, a step at a time (R322, R332). -/
theorem State.takeEntry_read (hmsgs : (s.queue q).msgs = [m]) (hbad : m.bad = 0) (hposted : m.posted = 0)
    (hptr : bitAt (ws.getD 0 0) 8 = true) (hok : pointerOk ws = true)
    (hfits : s.tooLong q m (bitsOf (ws.getD 2 0) 0 32) = false) (hopen : s.fetchSets.contains m.desc = true)
    (hlink : s.linkOk = true) :
    let a := (ws.getD 1 0).toNat
    let n := bitsOf (ws.getD 2 0) 0 32
    let size := min (min 4096 (128 * 2 ^ s.hif.maxRead)) n
    let m' : QMsg := { m with reading := false, msgSeq := bitsOf (ws.getD 0 0) 16 16, posted := 1, ptr := some (a, n) }
    let u := s.modQueue q (fun c => { c with msgs := [m'] })
    u.grant q ≠ 0 →
    s.takeEntry q m ws = u.issueRead q ∧ s.Posting (u.issueRead q) [Out.hostRead a size (s.ideStream a)] q
      { s.queue q with msgs := [{ m' with reading := true, asked := size, folio := s.folio.number }] } := by
  intro a n size m' u hgrant
  have hposted' : m.posted + 1 = 1 := by rw [hposted]
  have hseq : (if m.posted = 0 then bitsOf (ws.getD 0 0) 16 16 else m.msgSeq) = bitsOf (ws.getD 0 0) 16 16 := if_pos hposted
  have hm : ({ QMsg.read (ws.getD 0 0) m with posted := (QMsg.read (ws.getD 0 0) m).posted + 1, ptr := some (a, n) } : QMsg) = m' :=
    congrArg₂ (fun p k => ({ m with reading := false, msgSeq := k, posted := p, ptr := some (a, n) } : QMsg)) hposted' hseq
  have hgo := State.takeEntry_pointer hbad hposted hptr hok hfits
  have hu := (State.Posting.refl s q).modQueue (fun c => { c with msgs := [m'] })
  rw [State.modMsg_modMsg (f := fun m => { m with posted := m.posted + 1, ptr := some (a, n) }) rfl hmsgs hm] at hgo
  exact ⟨hgo.trans (State.goOn_open (u := u) (q := q) (m := m') (ms := []) (by rw [hu.2.1]) hopen hlink),
    hu.issueRead (m := m') (ms := []) (a := a) (n := size) rfl rfl hgrant⟩

/-- The last entry's eight bytes land in the draft, and the message is OK. -/
theorem State.takeEntry_word {slot j cpa : Nat} (hmsgs : (s.queue q).msgs = [m]) (hbad : m.bad = 0) (hposted : m.posted = 0)
    (hlen : ws.length = 8) (hptr : bitAt (ws.getD 0 0) 8 = false) (hfirst : bitAt (ws.getD 0 0) 6 = true)
    (hlast : bitAt (ws.getD 0 0) 7 = true) (hn : bitsOf (ws.getD 0 0) 0 6 = 8) (hres : entryReserved (ws.getD 0 0) = false)
    (hfits : s.tooLong q m 8 = false)
    (hplaces : ((s.inPlaces m.desc q).drop m.len).take 8 = (List.range 8).map (fun b => (slot, 8 * j + b)))
    (hst : (s.vslot slot).st = .drafted) (hon : s.draftReady slot = true) (hcpa : (s.vslot slot).draftFrame * 4096 + 8 * j = cpa)
    (hr : s.bankReady cpa = true) (hm : s.mirrored cpa = false) :
    let past := (m.first + m.posted + 1) % 65536
    ∃ t, s.takeEntry q m ws = t ∧ t.peek cpa = .clean (TWord.raw (ws.getD 1 0)) ∧
      (∀ b, b / 8 ≠ cpa / 8 → t.peekCode b = s.peekCode b) ∧
      s.StatusPosted t [] q { s.queue q with msgs := [], dHead := past } 0 (m.len + 8) past 1 (bitsOf (ws.getD 0 0) 16 16) m.folio ∧
      { t with out := s.out, hif := s.hif, mem := s.mem } = s := by
  intro past
  have hread := (State.Posting.refl s q).modMsg hmsgs (QMsg.read (ws.getD 0 0))
  have hslot : ((s.modMsg q (QMsg.read (ws.getD 0 0))).vslot slot).draftFrame * 4096 + 8 * j = cpa := hcpa
  have hdel := State.deliver_word (s := s.modMsg q (QMsg.read (ws.getD 0 0))) (m := m) (w := ws.getD 1 0) hplaces hst hon hslot hr hm
  rw [← entryBytes_first hlen] at hdel
  have hgo := State.takeEntry_last hbad hposted hptr hfirst hlast hn hres hfits hdel
  have hpost := (((hread.modMsg rfl (QMsg.touch slot)).poke cpa (TWord.raw (ws.getD 1 0))).modMsg rfl
    (fun m => { m with len := m.len + 8 })).modMsg rfl (fun m => { m with posted := m.posted + 1 })
  obtain ⟨ht, hback⟩ := hpost.endFetch (status := stOk) rfl (by decide)
  have hposted' : m.posted + 1 = 1 := by rw [hposted]
  have hseq : (if m.posted = 0 then bitsOf (ws.getD 0 0) 16 16 else m.msgSeq) = bitsOf (ws.getD 0 0) 16 16 := if_pos hposted
  generalize ((((s.modMsg q (QMsg.read (ws.getD 0 0))).modMsg q (QMsg.touch slot)).poke cpa (TWord.raw (ws.getD 1 0))).modMsg q
    (fun m => { m with len := m.len + 8 })).modMsg q (fun m => { m with posted := m.posted + 1 }) = v at hgo ht hback
  generalize v.endFetch q stOk = t at hgo ht hback
  have ht' : (s.poke cpa (TWord.raw (ws.getD 1 0))).StatusPosted t [] q { s.queue q with msgs := [], dHead := past } 0 (m.len + 8)
      past (m.posted + 1) (if m.posted = 0 then bitsOf (ws.getD 0 0) 16 16 else m.msgSeq) m.folio := ht
  rw [hposted', hseq] at ht'
  have hpeek : t.peek cpa = (s.poke cpa (TWord.raw (ws.getD 1 0))).peek cpa := (congrArg (fun x : State => x.peek cpa) hback :)
  have hcode (b : Nat) : t.peekCode b = (s.poke cpa (TWord.raw (ws.getD 1 0))).peekCode b :=
    (congrArg (fun x : State => x.peekCode b) hback :)
  refine ⟨t, hgo, hpeek.trans State.poke_peek_same,
    fun b hb => (hcode b).trans (State.poke_peekCode_other hb), ?_, ?_⟩
  · obtain ⟨M, hM⟩ : ∃ M, s.poke cpa (TWord.raw (ws.getD 1 0)) = { s with mem := M } := ⟨_, rfl⟩
    rw [hM] at ht'
    exact ht'.of_mem
  · obtain ⟨M, hM⟩ : ∃ M, s.poke cpa (TWord.raw (ws.getD 1 0)) = { s with mem := M } := ⟨_, rfl⟩
    rw [hM] at hback
    exact (congrArg (fun x : State => ({ x with mem := s.mem } : State)) hback :)

end entry

end fetching

/-- The message that a FETCH window opens on a queue: its first entry is the one at DHEAD. -/
def State.firstMsg (s : State) (q k : Nat) : QMsg := { first := (s.queue q).dHead, desc := k, folio := s.folio.number }

/-- The state in which set `k`, its turn gone on to `next`, has opened a message of queue `q`. -/
def State.openFetch (s : State) (q k next : Nat) : State :=
  ({ s with feed := { s.feed with rr := Table.set (fun _ => 0) s.feed.rr k next } }).modQueue q
    (fun c => { c with msgs := [s.firstMsg q k] })

section opened

variable {s : State} {q k next : Nat}

theorem State.openFetch_posting :
    ({ s with feed := { s.feed with rr := Table.set (fun _ => 0) s.feed.rr k next } } : State).Posting
      (s.openFetch q k next) [] q { s.queue q with msgs := [s.firstMsg q k] } :=
  (State.Posting.refl { s with feed := { s.feed with rr := Table.set (fun _ => 0) s.feed.rr k next } } q).modQueue
    (fun c => { c with msgs := [s.firstMsg q k] })

/-- A fabric CRC error ends the message at its first entry (R20). -/
theorem State.openFetch_crc (hempty : (s.queue q).msgs = []) :
    ∃ t : State, (s.openFetch q k next).fetchCrc q k = t.raise { cls := 0x17, detail :=
        ((s.channels k).find? (fun e => dType e.2 = 2 && dQueue e.2 = q)).elim 0 (·.1) + 7 * 4096 } ∧
      s.StatusPosted t [] q { s.queue q with dHead := ((s.queue q).dHead + 1) % 65536 } 7 0 (((s.queue q).dHead + 1) % 65536) 1 0
        s.folio.number ∧
      { t with out := s.out, hif := s.hif, feed := s.feed } = s := by
  obtain ⟨t, ht, hposted, hback⟩ := State.openFetch_posting.fetchCrc (k := k) (m := s.firstMsg q k) (ms := []) rfl rfl
  refine ⟨t, ht, ?_, (congrArg (fun x : State => ({ x with feed := s.feed } : State)) hback :)⟩
  have hq : ({ s.queue q with msgs := [], dHead := ((s.firstMsg q k).first + 1) % 65536 } : Queue) =
      { s.queue q with dHead := ((s.queue q).dHead + 1) % 65536 } := by
    rw [← hempty]
    rfl
  rw [← hq]
  exact hposted

/-- The read of the first entry, where the arbiter lets the queue (R336, R341). -/
theorem State.openFetch_read {a n : Nat} (hread : (s.openFetch q k next).nextRead q (s.firstMsg q k) = some (a, n))
    (hgrant : (s.openFetch q k next).grant q ≠ 0) :
    ((s.openFetch q k next).issueRead q).out = s.out ++ [.hostRead a n (s.ideStream a)] ∧
      ((s.openFetch q k next).issueRead q).queue q =
        { s.queue q with msgs := [{ s.firstMsg q k with reading := true, asked := n }] } ∧
      (∀ j, j ≠ q → ((s.openFetch q k next).issueRead q).queue j = s.queue j) ∧
      { (s.openFetch q k next).issueRead q with
        out := s.out
        hif := { ((s.openFetch q k next).issueRead q).hif with
          qps := (s.openFetch q k next).hif.qps, arb := (s.openFetch q k next).hif.arb } } = s.openFetch q k next := by
  obtain ⟨-, hq0, hother0, -, -⟩ := State.openFetch_posting (s := s) (q := q) (k := k) (next := next)
  have hmsgs : ((s.openFetch q k next).queue q).msgs = [s.firstMsg q k] := by rw [hq0]
  obtain ⟨hout, hq, hother, hhif, hback⟩ := (State.Posting.refl (s.openFetch q k next) q).issueRead hmsgs hread hgrant
  refine ⟨hout, ?_, fun j hj => (hother j hj).trans (hother0 j hj), ?_⟩
  · rw [hq, hq0]
    rfl
  · rw [hhif]
    exact hback

end opened

end Sys2Proof.Machine

namespace Sys2Proof.HostInterface

open Sys2Proof.Machine

/-- Settles O35: the reads that go out, and the completions by what comes in. -/
theorem fetchAndCompletions : Obligations.FetchAndCompletions := by
  refine ⟨?fetch, ?complete⟩
  case fetch =>
    intro s q k hdev hlink hfind hidle hnext c hhead htail m next u a
    have hcan : s.canFetch q.val = true := List.find?_some hnext
    simp only [State.canFetch, Bool.and_eq_true, decide_eq_true_eq, Bool.not_eq_true'] at hcan
    obtain ⟨⟨⟨⟨hen, -⟩, hempty⟩, hsome⟩, -⟩ := hcan
    have hdue : (decide (s.dev = .run) && s.linkOk && (s.queue q.val).en) = true := by
      rw [decide_eq_true hdev, hlink, hen]
      rfl
    have hu : s.openFetch q.val k next = u := rfl
    have hexec (crc : Bool) : exec (.fetchMessage q crc) s = .next (if crc then u.fetchCrc q.val k else u.issueRead q.val) := by
      refine (exec_of_due (c := .fetchMessage q crc) (s := s) (f := fun s => s.fetchMessage q.val crc) rfl hdue).trans (congrArg _ ?_)
      simp only [State.fetchMessage, hfind, hempty, hidle, hnext]
      exact if_neg (by simp)
    obtain ⟨-, hqu, -, -, -⟩ := State.openFetch_posting (s := s) (q := q.val) (k := k) (next := next)
    rw [hu] at hqu
    have hread : u.nextRead q.val m = some (a, 64) := by
      have hno : ¬(c.dTail + 65536 - c.dHead) % 65536 ≤ 0 := by
        have hne : c.dHead ≠ c.dTail := hsome
        omega
      have hidx : (c.dHead + 0) % 65536 = c.dHead := by omega
      simp only [State.nextRead, hqu, m, hidx]
      exact if_neg hno
    refine ⟨fun hgrant => ?_, fun hgrant => ⟨u.issueRead q.val, hexec false, State.openFetch_read hread hgrant⟩, ?_⟩
    · exact (hexec false).trans (congrArg _ (State.issueRead_refused (m := m) (ms := []) (by rw [hqu]; rfl) hread hgrant))
    · obtain ⟨t, ht, hposted, hback⟩ := State.openFetch_crc (k := k) (next := next) hempty
      rw [hu] at ht
      have hcrc := hexec true
      rw [if_pos rfl, ht] at hcrc
      exact ⟨t, hcrc, hposted, hback⟩
  case complete =>
    intro s q m hmsgs hread hto c past fails
    have hpending (u : State) (hu : u.queue q.val = c) : u.readPending q.val = true := by
      rw [State.readPending, hu, show c.msgs = [m] from hmsgs]
      simp only [hread]
      rw [show c.toHost = false from hto]
      rfl
    have hexec (x : Completion) : exec (.hostCompletion q x) s = .next (s.completion q.val (s.checkEcrc x)) := by
      have hrow : exec (.hostCompletion q x) s = execHostCompletion q x s := rfl
      rw [hrow, execHostCompletion, hpending s rfl]
      rfl
    have hmsgs' : (s.queue q.val).msgs = [m] := hmsgs
    have hfails {u : State} {o : Host.Outcome State Fault Refusal} (hq : u.queue q.val = c) (hptr : m.ptr = none)
        (ho : o = .next (u.hostError q.val)) : fails u o := by
      obtain ⟨t, ht, hposted, hback⟩ := State.hostError_fails (s := u) (q := q.val) (m := m) (by rw [hq]; exact hmsgs) hptr
      rw [hq] at hposted
      exact ⟨t, ho.trans (congrArg Host.Outcome.next ht), hposted, hback⟩
    have hnoted (e : AerError) : (s.noteAer e).queue q.val = c := by
      obtain ⟨hback, -⟩ := State.noteAer_noted s e
      exact (congrArg (fun x : State => x.queue q.val) hback :)
    refine ⟨?failed, ?unseen, ?data⟩
    case failed =>
      intro hptr
      have hok {x : Completion} {v : State} (hx : s.checkEcrc x = x) (hv : s.completion q.val x = v) :
          exec (.hostCompletion q x) s = .next v := by rw [hexec, hx, hv]
      refine ⟨hfails (hnoted .poisoned) hptr (hok rfl (State.completion_poisoned hmsgs')),
        hfails rfl hptr (hok rfl (State.completion_unsupported hmsgs')), hfails rfl hptr (hok rfl (State.completion_abort hmsgs')),
        hfails (hnoted .completionTimeout) hptr ?_, fun ws hchk =>
          hfails (hnoted .ecrc) hptr (hok (if_pos hchk) (State.completion_ecrcBad hmsgs' ws))⟩
      exact exec_of_due (c := .completionTimeout q) (s := s) (f := fun s => (s.noteAer .completionTimeout).hostError q.val) rfl
        (hpending s rfl)
    case unseen =>
      intro ws hchk
      have hseen : s.checkEcrc (.ecrcBad ws) = .data ws := if_neg (ne_true_of_eq_false hchk)
      rw [hexec, hexec, hseen]
      rfl
    case data =>
      intro ws hptr hbad hposted hlen h
      have htake : exec (.hostCompletion q (.data ws)) s = .next (s.takeEntry q.val m ws) := by
        rw [hexec]
        exact congrArg _ (State.completion_entry hmsgs' hptr hlen)
      refine ⟨?pointer, ?word⟩
      case pointer =>
        intro hok h8 a n size m' u hfit hroom hopen hlink hgrant
        obtain ⟨hgo, hout, hq, hother, hhif, hback⟩ := State.takeEntry_read hmsgs' hbad hposted h8 hok (State.tooLong_of_le hfit hroom)
          hopen hlink hgrant
        refine ⟨_, htake.trans (congrArg _ hgo), hout, hq, hother, ?_⟩
        rw [hhif]
        exact hback
      case word =>
        intro slot j h8 h6 h7 hn hres hres' hfit hj hplaces v cpa hst hon hr hmir
        have hroom : m.len + 8 ≤ (s.inPlaces m.desc q.val).length := by
          have hlen8 := congrArg List.length hplaces
          simp only [List.length_take, List.length_drop, List.length_map, List.length_range] at hlen8
          omega
        obtain ⟨t, ht, hpeek, hcode, hposts, hback⟩ := State.takeEntry_word hmsgs' hbad hposted hlen h8 h6 h7 hn
          (by rw [entryReserved, decide_eq_false (not_not_intro hres), decide_eq_false (not_not_intro hres')]; rfl)
          (State.tooLong_of_le hfit hroom) hplaces hst hon rfl hr hmir
        exact ⟨t, htake.trans (congrArg _ ht), hpeek, hcode, hposts, hback⟩

end Sys2Proof.HostInterface
end

section
/-! Lines that are played, and their windows (R39, R47, R49, R50, R51). -/

namespace Sys2Proof.Machine

section play

variable {s u w : State} {i : Nat} {l : RLine} {due : State → Bool} {f : RLine → State → State}

/-- A line with an unreadable word is not played (R39). -/
theorem State.play_unreadable (h : s.boundary.readLine i = (none, u)) : s.play i due f = u := by
  rw [State.play, h]

/-- A line that is still due after the boundary actions of its cycle is played (R51). -/
theorem State.play_due (h : s.Plays i l w) (hdue : due w = true) : s.play i due f = f l w := by
  have hread : s.boundary.readLine i = (some l, w) := h
  rw [State.play, hread]
  exact if_pos hdue

end play

section windows

variable {s w : State} {i reach : Nat} {l : RLine} {crc : Bool}

/-- The state in which a line is marked as played in its folio. -/
def State.spend (w : State) (i : Nat) : State := { w with folio := { w.folio with spent := i :: w.folio.spent } }

theorem State.openWindow_fetch (h : l.wtype = 1) : w.openWindow i l reach crc = (w.spend i).listWindow i l := by
  rw [State.openWindow, if_neg (by rw [h]; decide), h]
  rfl

theorem State.openWindow_gate (h : l.wtype = 5) : w.openWindow i l reach crc = { w.spend i with folio := { (w.spend i).folio with
    gates := Table.set (fun _ => 255) w.folio.gates l.unit (l.arg % 256) } } := by
  rw [State.openWindow, if_pos h]
  rfl

/-- The blotter at the opening of a MARCH window: the named reservoirs march again, and their skipped rows begin a new window. -/
def Blot.march (b : Blot) (arg : Nat) : Blot := { b with
  stopped := b.stopped.filter (fun r => !arg.testBit r),
  skipRun := b.skipRun.filter (fun e => !arg.testBit (e.1 / 2048) || b.skipSeen.contains e.1),
  skipSeen := b.skipSeen.filter (fun k => !arg.testBit (k / 2048)) }

theorem State.openWindow_march (h : l.wtype = 4) : w.openWindow i l reach crc =
    { (w.spend i).listWindow i l with blot := w.blot.march l.arg } := by
  rw [State.openWindow, if_neg (by rw [h]; decide), h]
  rfl

theorem Blot.march_spec (b : Blot) (arg : Nat) :
    { b.march arg with stopped := b.stopped, skipSeen := b.skipSeen, skipRun := b.skipRun } = b ∧
    (∀ r, r ∈ (b.march arg).stopped ↔ r ∈ b.stopped ∧ arg.testBit r = false) ∧
    (∀ k, k ∈ (b.march arg).skipSeen ↔ k ∈ b.skipSeen ∧ arg.testBit (k / 2048) = false) ∧
    ∀ e, e ∈ (b.march arg).skipRun ↔ e ∈ b.skipRun ∧ (arg.testBit (e.1 / 2048) = true → e.1 ∈ b.skipSeen) := by
  refine ⟨rfl, fun r => ?_, fun k => ?_, fun e => ?_⟩
  · rw [Blot.march, List.mem_filter, Bool.not_eq_true']
  · rw [Blot.march, List.mem_filter, Bool.not_eq_true']
  · rw [Blot.march, List.mem_filter, Bool.or_eq_true, Bool.not_eq_true', List.contains_iff_mem]
    refine and_congr_right fun _ => ?_
    cases arg.testBit (e.1 / 2048) <;> simp

theorem State.closeNow_open {x : Win} (h : s.killLate.folio.wins.contains x = true) (hx : x.wtype ≠ 2) :
    s.closeNow x = { s.killLate with folio := { s.killLate.folio with
      wins := s.killLate.folio.wins.filter (fun y => y.line ≠ x.line) } } := by
  rw [State.closeNow, if_pos h, State.closeWindow, if_neg hx]

end windows

end Sys2Proof.Machine

namespace Sys2Proof.FolioRuling

open Sys2Proof.Machine

/-- Settles O34: what a played window line does, by its type. -/
theorem windowsComplete : Obligations.WindowsComplete := by
  have hexec (s : State) (i : LineN) (reach : Nat) (crc : Bool) (hdue : s.openDue i.val = true) :
      exec (.windowOpen i reach crc) s = .next (s.play i.val (fun t => t.openDue i.val)
        (fun l t => t.openWindow i.val l reach crc)) :=
    exec_of_due (c := .windowOpen i reach crc) (s := s) (f := fun s => s.play i.val (fun t => t.openDue i.val)
      (fun l t => t.openWindow i.val l reach crc)) rfl hdue
  refine ⟨fun s u i reach crc hread hdue => ?_, ?opened, ?closed⟩
  · rw [hexec s i reach crc hdue, State.play_unreadable hread]
  case opened =>
    intro s w i l reach crc hplays hdue hdue' t u
    have hplay : exec (.windowOpen i reach crc) s = .next (w.openWindow i.val l reach crc) := by
      rw [hexec s i reach crc hdue, State.play_due hplays hdue']
    refine ⟨fun hfetch => ?_, fun hmarch => ?_, fun hgate => ?_⟩
    · exact hplay.trans (congrArg _ (State.openWindow_fetch hfetch))
    · obtain ⟨hrest, hstopped, hseen, hrun⟩ := w.blot.march_spec l.arg
      exact ⟨_, hplay.trans (congrArg _ (State.openWindow_march hmarch)), rfl, hrest, hstopped, hseen, hrun⟩
    · refine ⟨_, hplay.trans (congrArg _ (State.openWindow_gate hgate)), rfl, rfl, fun m => ?_⟩
      by_cases hm : m = l.unit
      · rw [if_pos hm, hm]
        exact Table.get_set_same (fun _ => 255) w.folio.gates l.unit (l.arg % 256)
      · rw [if_neg hm]
        exact Table.get_set_other (fun _ => 255) w.folio.gates (l.arg % 256) hm
  case closed =>
    intro s i w hfind hopen htype
    have hfound := List.find?_some hfind
    have hline : w.line = i.val := (of_decide_eq_true hfound).1
    have hrow : exec (.windowClose i) s = execWindowClose i s := rfl
    have hfind' : s.folio.wins.find? (fun w => w.line = i.val && w.start + w.len = s.folioCyc) = some w := by
      simpa only [Bool.decide_and] using hfind
    have hclose : exec (.windowClose i) s = .next (s.closeNow w) := by
      rw [hrow, execWindowClose, hfind']
    exact ⟨_, hclose.trans (congrArg _ (State.closeNow_open hopen htype)), by rw [hline], rfl⟩

end Sys2Proof.FolioRuling
end

section
/-! The ruling commands (R363, R366 to R368). -/

namespace Sys2Proof.Machine

section rulings

variable {s : State} {m : MbN} {k : Fin 16}

/-- A slot number as an argument word. -/
theorem slotArg (h : s.arg m.val 0 = BitVec.ofNat 64 k.val) :
    bitsOf (s.arg m.val 0) 0 4 = k.val ∧ argRsvd s m.val 0 0xF = false := by
  refine ⟨?_, argRsvd_of_within h (Within.of_lt (k := 4) k.isLt)⟩
  rw [h, bitsOf_ofNat _ _ _ (by decide)]
  omega

/-! ### PART_SETUP -/

theorem State.partSetup_passes {part : Fin 256} {tr ex : List Word} {mask : Word} (hlt : tr.length = 12) (hle : ex.length = 4)
    (hargs : s.Args m ([BitVec.ofNat 64 part.val] ++ tr ++ ex ++ [mask])) (hmask : mask ≠ 0)
    (h1 : bitsOf (tr.getD 0 0) 0 2 ≠ 3) (h2 : bitsOf (tr.getD 1 0) 0 2 ≠ 3) (hrec : recordRsvd tr ex = false)
    (hcheck : (s.setRecords part.val tr ex).setupCheck part.val mask = (none, s.setRecords part.val tr ex)) :
    s.partSetup m.val = ({ s.setRecords part.val tr ex with
      parts := Table.set (fun _ => {}) s.parts part.val ⟨true, mask⟩ } : State).finish m.val 0 := by
  have hlen : ([BitVec.ofNat 64 part.val] ++ tr ++ ex ++ [mask]).length = 18 := by simp [hlt, hle]
  have harg (i : Nat) (hi : i < 18) : s.arg m.val i = ([BitVec.ofNat 64 part.val] ++ tr ++ ex ++ [mask]).getD i 0 :=
    hargs i (by omega)
  have htr : (upTo 12).map (fun i => s.arg m.val (1 + i)) = tr := by
    refine List.ext_getElem (by simp [upTo, hlt]) fun i hi hi' => ?_
    have hi12 : i < 12 := by omega
    simp only [List.getElem_map, upTo, List.getElem_range]
    rw [harg _ (by omega), List.getD_eq_getElem?_getD]
    simp [Nat.add_comm 1 i, List.getElem?_append, hlt, hi12]
  have hex : (upTo 4).map (fun i => s.arg m.val (13 + i)) = ex := by
    refine List.ext_getElem (by simp [upTo, hle]) fun i hi hi' => ?_
    have hi4 : i < 4 := by omega
    simp only [List.getElem_map, upTo, List.getElem_range]
    rw [harg _ (by omega), List.getD_eq_getElem?_getD]
    have hplace : 13 + i = tr.length + i + 1 := by omega
    rw [hplace, List.append_assoc, List.append_assoc, List.singleton_append, List.getElem?_cons_succ,
      List.getElem?_append_right (Nat.le_add_right _ _), Nat.add_sub_cancel_left, List.getElem?_append_left hi',
      List.getElem?_eq_getElem hi']
    rfl
  have h0 : s.arg m.val 0 = BitVec.ofNat 64 part.val := harg 0 (by decide)
  have h17 : s.arg m.val 17 = mask := by
    rw [harg 17 (by decide), List.getD_eq_getElem?_getD]
    simp [hlt, hle]
  have hpart : bitsOf (BitVec.ofNat 64 part.val) 0 8 = part.val := by
    rw [bitsOf_ofNat _ _ _ (by decide)]
    omega
  have hrsv : argRsvd s m.val 0 0xFF = false := argRsvd_of_within h0 (Within.of_lt (k := 8) part.isLt)
  have hmodes : (decide (bitsOf (tr.getD 0 0) 0 2 = 3) || decide (bitsOf (tr.getD 1 0) 0 2 = 3)) = false := by
    rw [decide_eq_false h1, decide_eq_false h2]
    rfl
  simp only [State.partSetup, htr, hex, h0, h17, hpart, hcheck]
  rw [if_neg hmask, hmodes, if_neg Bool.false_ne_true, hrsv, hrec, Bool.or_false, if_neg Bool.false_ne_true]
  rfl

/-! ### RULING_LOAD -/

/-- In an empty store an image goes to the lowest places. -/
theorem lowestFit_nil {n cap : Nat} (h : n ≤ cap) : lowestFit [] n cap = some 0 := by
  rw [lowestFit, List.map_nil, List.filter_cons_of_pos (by simpa using h), List.filter_nil, lowest, lowest]

theorem hoHalves_getD (ws : List Word) (e : Nat) :
    (ws.flatMap hoHalves).getD e 0 = wordN (bitsOf (ws.getD (e / 2) 0) (32 * (e % 2)) 32) := by
  induction ws generalizing e with
  | nil =>
    have hzero : bitsOf (0 : Word) (32 * (e % 2)) 32 = 0 := by simp [bitsOf]
    rw [List.getD_nil, hzero]
    rfl
  | cons w ws ih =>
    match e with
    | 0 => rfl
    | 1 => rfl
    | e + 2 =>
      have hdiv : (e + 2) / 2 = e / 2 + 1 := by omega
      have hmod : (e + 2) % 2 = e % 2 := by omega
      rw [hdiv, hmod, List.getD_cons_succ, ← ih]
      rfl

/-- The record of a slot that an image has been loaded into. -/
def loadedSlot (ws : List Word) (lines hos : Nat) : RulSlot :=
  { lineBase := 0, lines := lines, hoBase := 0, hos := hos,
    header := ws.take 64 ++ [if hos % 2 = 1 then wordN (bitsOf (ws.getD (ws.length - 1) 0) 32 32) else 0], st := .loaded }

/-- An image that passes, into an empty store (R366). -/
theorem State.rulingLoad_passes {ws : List Word} {host : Word} {lines hos : Nat}
    (hargs : s.Args m [BitVec.ofNat 64 k.val, host, BitVec.ofNat 64 ws.length]) (halign : host.toNat % 8 = 0)
    (htop : host.toNat + 8 * ws.length ≤ 0xF00000000000) (hbus : s.hif.busMaster = true) (hheld : s.slotHeld k.val = false)
    (hempty : ∀ j, j < 16 → j ≠ k.val → (s.slotOf j).st = .empty) (hlines : bitsOf (ws.getD 2 0) 0 16 = lines)
    (hhos : bitsOf (ws.getD 2 0) 16 15 = hos) (h1 : 1 ≤ lines) (h2 : lines ≤ 32768) (h3 : hos ≤ 16384)
    (hlen : ws.length = 64 + 4 * lines + (hos + 1) / 2) :
    s.rulingLoad m.val (.ok ws) none = ((s.putImage 0 0 hos ((ws.drop 64).take (4 * lines)) ((ws.drop 64).drop (4 * lines))).modSlot
      k.val (fun _ => loadedSlot ws lines hos)).finish m.val 0 [0, 0] := by
  have hshort : ws.length < 2 ^ 64 := by omega
  have h0 : s.arg m.val 0 = BitVec.ofNat 64 k.val := hargs.word 0
  have ha1 : s.arg m.val 1 = host := hargs.word 1
  have ha2 : (s.arg m.val 2).toNat = ws.length := by
    have h := hargs.word 2
    rw [h]
    exact Nat.mod_eq_of_lt hshort
  obtain ⟨hk, hrsv⟩ := slotArg h0
  have hget (n : Nat) (hn : n ≤ ws.length) : s.hostGet (.ok ws) n = .got (ws.take n) := State.hostGet_ok hbus hn
  have hothers : s.otherSlots k.val = [] := by
    rw [State.otherSlots, List.map_eq_nil_iff, List.filter_eq_nil_iff]
    intro j hj
    rw [upTo, List.mem_range] at hj
    by_cases hjk : j = k.val
    · simp [hjk]
    · simp [hjk, hempty j hj hjk]
  have hhead : (ws.take 64).getD 2 0 = ws.getD 2 0 := by
    rw [List.getD_eq_getElem?_getD, List.getD_eq_getElem?_getD, List.getElem?_take_of_lt (by decide)]
  have hrange : (decide (host.toNat % 8 ≠ 0) || decide (ws.length < 64) || decide (139328 < ws.length) ||
      decide (hostTop < host.toNat + 8 * ws.length)) = false := by
    simp only [Bool.or_eq_false_iff, decide_eq_false_iff_not, hostTop]
    exact ⟨⟨⟨not_not_intro halign, by omega⟩, by omega⟩, decide_eq_false (Nat.not_lt.mpr htop)⟩
  have hsize : (decide (lines = 0) || decide (32768 < lines) || decide (16384 < hos) ||
      decide (ws.length ≠ 64 + 4 * lines + (hos + 1) / 2)) = false := by
    simp only [Bool.or_eq_false_iff, decide_eq_false_iff_not]
    omega
  have hho : (if hos = 0 then some 0 else lowestFit [] hos 16384) = some 0 := by
    split
    · rfl
    · exact lowestFit_nil h3
  have hload : s.loadImage m.val k.val ws.length (.ok ws) none (ws.take 64) =
      ((s.putImage 0 0 hos ((ws.drop 64).take (4 * lines)) ((ws.drop 64).drop (4 * lines))).modSlot
        k.val (fun _ => loadedSlot ws lines hos)).finish m.val 0 [0, 0] := by
    simp only [State.loadImage, hhead, hlines, hhos, hothers, List.map_nil, List.filter_nil, lowestFit_nil h2, hho,
      hget _ (Nat.le_refl _), List.take_length]
    rw [hsize, if_neg Bool.false_ne_true]
    rfl
  have hin : 64 ≤ ws.length := by omega
  simp only [State.rulingLoad, hk, hrsv, ha1, ha2, hheld, hget _ hin, hload]
  rw [if_neg Bool.false_ne_true, hrange, if_neg Bool.false_ne_true, if_neg Bool.false_ne_true]

/-- What a loaded image has put into the ruling store. -/
theorem State.putImage_spec {hos lines : Nat} {ls hs : List Word} (hls : ls.length = 4 * lines) (hhs : hs.length = (hos + 1) / 2)
    (h2 : lines ≤ 32768) :
    let u := s.putImage 0 0 hos ls hs
    { u with rul := s.rul } = s ∧ { u.rul with store := s.rul.store } = s.rul ∧
    (∀ i, i < 4 * lines → u.storePayload i = ls.getD i 0) ∧
    ∀ e, e < hos → (u.storePayload (hoBaseIdx + e)).toNat % 2 ^ 32 = bitsOf (hs.getD (e / 2) 0) (32 * (e % 2)) 32 := by
  let v := s.storePut 0 ls
  let ws := (hs.flatMap hoHalves).take hos
  have hu : s.putImage 0 0 hos ls hs = v.storePut hoBaseIdx ws := rfl
  obtain ⟨hback, hrul, hword⟩ := State.storePut_spec ls s 0
  obtain ⟨hback', hrul', hword'⟩ := State.storePut_spec ws v hoBaseIdx
  have hflat : (hs.flatMap hoHalves).length = 2 * hs.length := by
    rw [List.length_flatMap]
    simp [hoHalves, Nat.mul_comm]
  have hlen : ws.length = hos := by
    simp only [ws, List.length_take, hflat, hhs]
    omega
  have hho : hoBaseIdx = 131072 := rfl
  refine hu ▸ ⟨?_, ?_, fun i hi => ?_, fun e he => ?_⟩
  · exact (congrArg (fun x : State => ({ x with rul := s.rul } : State)) hback').trans hback
  · exact (congrArg (fun x : Rul => ({ x with store := s.rul.store } : Rul)) hrul').trans hrul
  · rw [hword', if_neg (by omega), hword, if_pos (by omega), Nat.sub_zero]
  · rw [hword', if_pos (by omega), Nat.add_sub_cancel_left, List.getD_eq_getElem?_getD, List.getElem?_take_of_lt he,
      ← List.getD_eq_getElem?_getD, hoHalves_getD, wordN, BitVec.toNat_ofNat]
    have hlt : bitsOf (hs.getD (e / 2) 0) (32 * (e % 2)) 32 < 2 ^ 32 := Nat.mod_lt _ (by decide)
    omega

/-- The lines and handover entries of an image that has been copied. -/
theorem State.putImage_read {ws : List Word} {lines hos : Nat} {f : RulSlot → RulSlot} (h2 : lines ≤ 32768)
    (hlen : ws.length = 64 + 4 * lines + (hos + 1) / 2) :
    let v := s.putImage 0 0 hos ((ws.drop 64).take (4 * lines)) ((ws.drop 64).drop (4 * lines))
    let t := v.modSlot k.val f
    { v with rul := s.rul } = s ∧ { v.rul with store := s.rul.store } = s.rul ∧
    (∀ e, e < lines → t.storeLine e =
      ⟨ws.getD (64 + 4 * e) 0, ws.getD (65 + 4 * e) 0, ws.getD (66 + 4 * e) 0, ws.getD (67 + 4 * e) 0⟩) ∧
    ∀ (r : RulSlot) e, r.hoBase = 0 → e < hos → t.hoOf r e = bitsOf (ws.getD (64 + 4 * lines + e / 2) 0) (32 * (e % 2)) 32 := by
  intro v t
  have hls : ((ws.drop 64).take (4 * lines)).length = 4 * lines := by
    simp only [List.length_take, List.length_drop]
    omega
  have hhs : ((ws.drop 64).drop (4 * lines)).length = (hos + 1) / 2 := by
    simp only [List.length_drop]
    omega
  obtain ⟨hback, hrul, hline, hho⟩ := State.putImage_spec (s := s) hls hhs h2
  have hread (i : Nat) : t.storePayload i = v.storePayload i := rfl
  have hat (i : Nat) (hi : i < 4 * lines) : t.storePayload i = ws.getD (64 + i) 0 := by
    rw [hread, hline i hi, List.getD_eq_getElem?_getD, List.getElem?_take_of_lt hi, List.getElem?_drop, ← List.getD_eq_getElem?_getD]
  refine ⟨hback, hrul, fun e he => ?_, fun r e hr he => ?_⟩
  · rw [State.storeLine, hat _ (by omega), hat _ (by omega), hat _ (by omega), hat _ (by omega), Nat.add_comm (4 * e) 1,
      Nat.add_comm (4 * e) 2, Nat.add_comm (4 * e) 3, ← Nat.add_assoc, ← Nat.add_assoc, ← Nat.add_assoc]
  · rw [State.hoOf, hr, hread, Nat.add_zero, hho e he, List.getD_eq_getElem?_getD, List.getElem?_drop, List.getElem?_drop,
      ← List.getD_eq_getElem?_getD]
    simp only [Nat.add_assoc]

/-! ### RULING_VERIFY and RULING_UNLOAD -/

theorem State.rulingVerify_whole (h : s.arg m.val 0 = BitVec.ofNat 64 k.val) :
    (((s.slotOf k.val).st = .empty ∨ (s.slotOf k.val).st = .active) → s.rulingVerify m.val none = s.finish m.val 0x0804) ∧
    (((s.slotOf k.val).st = .loaded ∨ (s.slotOf k.val).st = .verified) →
      s.rulingVerify m.val none =
        if !(s.storeReads (s.slotOf k.val).words).1 then (s.storeReads (s.slotOf k.val).words).2.finish m.val 0xA
        else match (s.storeReads (s.slotOf k.val).words).2.verify k.val with
          | none => ((s.storeReads (s.slotOf k.val).words).2.modSlot k.val (fun r => { r with st := .verified })).finish m.val 0 [0]
          | some r => ((s.storeReads (s.slotOf k.val).words).2.modSlot k.val (fun x => { x with st := .loaded })).finish m.val
              0x0808 r.words) := by
  obtain ⟨hk, hrsv⟩ := slotArg h
  constructor <;> rintro (hst | hst) <;> simp only [State.rulingVerify, hk, hrsv, hst] <;> rfl

theorem State.rulingUnload_slot (h : s.arg m.val 0 = BitVec.ofNat 64 k.val) :
    s.rulingUnload m.val = if s.slotHeld k.val then s.finish m.val 0x0801 else (s.modSlot k.val (fun _ => {})).finish m.val 0 := by
  obtain ⟨hk, hrsv⟩ := slotArg h
  simp only [State.rulingUnload, hk, hrsv]
  rfl

/-! ### ACTIVATE and SWITCH_ARM -/

/-- Two loops agree where their turns do, in the states that the loop comes through. -/
theorem State.forAll_congr_of {α : Type} {P : State → Prop} {f g : α → State → State} {l : List α} {s : State}
    (hfg : ∀ a ∈ l, ∀ t, P t → f a t = g a t) (hg : ∀ a t, P t → P (g a t)) (h : P s) : s.forAll l f = s.forAll l g := by
  induction l generalizing s with
  | nil => rfl
  | cons a l ih =>
    refine Eq.trans (congrArg (fun t : State => t.forAll l f) (hfg a List.mem_cons_self s h)) ?_
    exact ih (fun b hb => hfg b (List.mem_cons_of_mem _ hb)) (hg a s h)

/-- No lock slot of pen `p` is valid. -/
def Pen.Unlocked (x : Pen) : Prop := ∀ i, i < 8 → bitAt (Table.get (fun _ => (0 : Word)) x.lslot i) 0 = false

/-- Without lock slots the TLBs are only emptied (R367, step 6). -/
theorem State.reloadTlbs_unlocked (h : ∀ p, p < 64 → (s.pen p).Unlocked) :
    { s.reloadTlbs with pens := s.pens } = s ∧ ∀ p, p < 64 → s.reloadTlbs.pen p = { s.pen p with tlb := [] } := by
  have hturn : s.reloadTlbs = s.forAll (upTo 64) (fun n t => t.modPen n (fun x => { x with tlb := [] })) := by
    refine State.forAll_congr_of (P := fun t => ∀ p, p < 64 → (t.pen p).Unlocked) (fun n hn t ht => ?_) (fun n t ht p hp => ?_) h
    · rw [upTo, List.mem_range] at hn
      have hfree : (upTo 8).filter (fun i => bitAt (Table.get (fun _ => (0 : Word))
          ((t.modPen n (fun x => { x with tlb := [] })).pen n).lslot i) 0) = [] := by
        rw [List.filter_eq_nil_iff]
        intro i hi
        rw [upTo, List.mem_range] at hi
        rw [State.modPen_pen_same, ht n hn i hi]
        exact Bool.false_ne_true
      simp only [hfree]
      exact ite_self _
    · by_cases hpn : p = n
      · rw [hpn, State.modPen_pen_same]
        exact hpn ▸ ht p hp
      · rw [State.modPen_pen_other hpn]
        exact ht p hp
  obtain ⟨u, hu, hback, hpen⟩ := State.forAll_modPen (l := upTo 64) (fun _ x => { x with tlb := [] }) List.nodup_range s
  rw [hturn, hu]
  exact ⟨hback, fun p hp => (hpen p).trans (if_pos (List.mem_range.mpr hp))⟩

/-- ACTIVATE's effect before its mailbox: the TLBs are emptied, the slot becomes ACTIVE, folios are enabled. -/
def State.enableFolios (s : State) (k : Nat) : State :=
  let s := s.reloadTlbs.modSlot k (fun r => { r with st := .active })
  { s with folio := { s.folio with
      en := true, edgeTick := s.tickAhead, actSlot := k, missed := 0, consecMiss := 0, minLen := 0xFFFFFFFF } }

theorem State.activate_passes {step : Bool} (h : s.arg m.val 0 = BitVec.ofNat 64 (k.val + bitN step * 256)) (hen : s.folio.en = false)
    (hst : (s.slotOf k.val).st = .verified) (hmay : s.mayActivate k.val = (0, [])) :
    s.activate m.val = ((if step then s.stepCounter else s).enableFolios k.val).waitFor m.val (.activate m.val k.val) := by
  have hb := bitN_le step
  have hk : bitsOf (s.arg m.val 0) 0 4 = k.val := by
    rw [h, bitsOf_ofNat _ _ _ (by decide)]
    omega
  have hstep : bitAt (s.arg m.val 0) 8 = step := by
    rw [h]
    exact bitAt_ofNat_of_div (by decide) (by omega)
  have hrsv : argRsvd s m.val 0 0x10F = false := argRsvd_of_within h
    ((Within.of_lt (k := 4) k.isLt).add (Within.of_lt (k := 1) (Nat.lt_succ_of_le hb)) (k := 8) (by omega) (by decide))
  simp only [State.activate, hk, hrsv, hstep, hen, hst, hmay]
  rfl

theorem State.enableFolios_spec (h : ∀ p, p < 64 → (s.pen p).Unlocked) :
    { s.enableFolios k.val with pens := s.pens, rul := s.rul } = { s with folio := { s.folio with
        en := true, edgeTick := s.tickAhead, actSlot := k.val, missed := 0, consecMiss := 0, minLen := 0xFFFFFFFF } } ∧
      { (s.enableFolios k.val).rul with slots := s.rul.slots } = s.rul ∧
      (s.enableFolios k.val).slotOf k.val = { s.slotOf k.val with st := .active } ∧
      (∀ j, j ≠ k.val → (s.enableFolios k.val).slotOf j = s.slotOf j) ∧
      ∀ p, p < 64 → (s.enableFolios k.val).pen p = { s.pen p with tlb := [] } := by
  obtain ⟨hback, hpen⟩ := State.reloadTlbs_unlocked h
  generalize hw : s.reloadTlbs = w at hback hpen
  have hact : s.enableFolios k.val = { w.modSlot k.val (fun r => { r with st := .active }) with
      folio := { w.folio with
        en := true, edgeTick := w.tickAhead, actSlot := k.val, missed := 0, consecMiss := 0, minLen := 0xFFFFFFFF } } := by
    rw [State.enableFolios, hw]
    rfl
  have hfolio : w.folio = s.folio := (congrArg State.folio hback :)
  have hahead : w.tickAhead = s.tickAhead := (congrArg State.tickAhead hback :)
  have hrul : w.rul = s.rul := (congrArg State.rul hback :)
  have hslot (j : Nat) : w.slotOf j = s.slotOf j := (congrArg (fun x : State => x.slotOf j) hback :)
  rw [hfolio, hahead] at hact
  rw [hact]
  refine ⟨?_, ?_, ?_, fun j hj => ?_, fun p hp => hpen p hp⟩
  · exact (congrArg (fun x : State => ({ x with rul := s.rul, folio := { s.folio with
      en := true, edgeTick := s.tickAhead, actSlot := k.val, missed := 0, consecMiss := 0, minLen := 0xFFFFFFFF } } : State)) hback :)
  · rw [← hrul]
    rfl
  · have hsame : (w.modSlot k.val (fun r => { r with st := .active })).slotOf k.val = { w.slotOf k.val with st := .active } :=
      State.modSlot_slotOf_same
    rw [hslot] at hsame
    exact hsame
  · have hother : (w.modSlot k.val (fun r => { r with st := .active })).slotOf j = w.slotOf j := State.modSlot_slotOf_other hj
    exact hother.trans (hslot j)

theorem State.armSwitch_off (h : s.arg m.val 0 = BitVec.ofNat 64 k.val) :
    s.armSwitch m.val = ({ s with folio := { s.folio with swSlot := k.val, swArm := false } } : State).finish m.val 0 := by
  have hk := (slotArg h).1
  have hoff : bitAt (s.arg m.val 0) 4 = false := by
    rw [h]
    rw [bitAt_ofNat _ _ (by decide)]
    exact decide_eq_false (by omega)
  have hrsv : argRsvd s m.val 0 0x1F = false := argRsvd_of_within h (Within.of_lt (k := 5) (by omega))
  simp only [State.armSwitch, hk, hrsv, hoff]
  rfl

theorem State.armSwitch_passes {time : Word} (hargs : s.Args m [BitVec.ofNat 64 (k.val + 16), time])
    (hst : (s.slotOf k.val).st = .verified) (hmay : s.mayActivate k.val = (0, [])) (htime : s.switchTimeOk time = true) :
    s.armSwitch m.val =
      ({ s with folio := { s.folio with swAt := time, swSlot := k.val, swArm := true, swSince := s.cyc } } : State).finish m.val 0 := by
  have h0 : s.arg m.val 0 = BitVec.ofNat 64 (k.val + 16) := hargs.word 0
  have h1 : s.arg m.val 1 = time := hargs.word 1
  have hk : bitsOf (s.arg m.val 0) 0 4 = k.val := by
    rw [h0, bitsOf_ofNat _ _ _ (by decide)]
    omega
  have hon : bitAt (s.arg m.val 0) 4 = true := by
    rw [h0]
    rw [bitAt_ofNat _ _ (by decide)]
    exact decide_eq_true (by omega)
  have hrsv : argRsvd s m.val 0 0x1F = false := argRsvd_of_within h0 (Within.of_lt (k := 5) (by omega))
  simp only [State.armSwitch, hk, hrsv, hon, hst, hmay, h1, htime]
  rfl

end rulings

end Sys2Proof.Machine

namespace Sys2Proof.HuvasCommands

open Sys2Proof.Machine

/-- Settles O47: each ruling command where its checks pass. -/
theorem rulingCommandsComplete : Obligations.RulingCommandsComplete := by
  refine ⟨?setup, ?load, ?verify, ?unload, ?activate, ?switch⟩
  case setup =>
    intro s m part tr ex mask hb hlt hle hargs hmask h1 h2 hrec hcheck
    refine ⟨{ s.setRecords part.val tr ex with parts := Table.set (fun _ => {}) s.parts part.val ⟨true, mask⟩ },
      .of_eq ((runCommand_of_begins hb _).trans (congrArg Host.Outcome.next
        (State.partSetup_passes hlt hle hargs hmask h1 h2 hrec hcheck))), rfl, ?_, fun i _ => ?_, fun i _ => ?_,
      fun q hq => ⟨?_, fun i => ?_, fun i => ?_⟩⟩
    · exact Table.get_set_same (fun _ => ({} : PartSet)) s.parts part.val ⟨true, mask⟩
    · exact congrArg (fun l : List Word => l.getD i 0) (Table.get_set_same ..)
    · exact congrArg (fun l : List Word => l.getD i 0) (Table.get_set_same ..)
    · exact Table.get_set_other (fun _ => ({} : PartSet)) s.parts ⟨true, mask⟩ hq
    · exact congrArg (fun l : List Word => l.getD i 0) (Table.get_set_other _ _ _ hq)
    · exact congrArg (fun l : List Word => l.getD i 0) (Table.get_set_other _ _ _ hq)
  case load =>
    intro s m ws k host done h hargs halign htop hbus hheld hempty lines hos h1 h2 h3 hlen
    have hload := State.rulingLoad_passes (s := s.unpaused) hargs halign htop hbus hheld hempty rfl rfl h1 h2 h3 hlen
    obtain ⟨hback, hrul, hline, hho⟩ := State.putImage_read (s := s.unpaused) (k := k) (f := fun _ => loadedSlot ws lines hos) h2 hlen
    have hexec := (stepCommand_of_works h (fun lim _ s => s.rulingLoad m.val (.ok ws) lim)).1.trans (congrArg Host.Outcome.next hload)
    generalize s.unpaused.putImage 0 0 hos ((ws.drop 64).take (4 * lines)) ((ws.drop 64).drop (4 * lines)) = v at *
    have hslots : v.rul.slots = s.rul.slots := (congrArg Rul.slots hrul :)
    have hslot : (v.modSlot k.val (fun _ => loadedSlot ws lines hos)).slotOf k.val = loadedSlot ws lines hos := State.modSlot_slotOf_same
    refine ⟨v.modSlot k.val (fun _ => loadedSlot ws lines hos), .of_eq hexec, hback, ?_, ?_⟩
    · rw [← hslots]
      exact hrul
    · rw [hslot]
      refine ⟨rfl, rfl, rfl, rfl, rfl, ?_, fun j hj => ?_, hline, fun e he => hho _ e rfl he⟩
      · rw [loadedSlot, List.take_left' (by simp; omega)]
      · refine (State.modSlot_slotOf_other hj).trans ?_
        exact congrArg (fun x => Table.get (fun _ => ({} : RulSlot)) x j) hslots
  case verify =>
    intro s m k done h hargs u words v put
    obtain ⟨hno, hyes⟩ := State.rulingVerify_whole (s := u) (m := m) (k := k) (hargs.word 0)
    have hexec : exec (.rulingVerify m .whole) s = .next (u.rulingVerify m.val none) :=
      (stepCommand_of_works h (fun lim _ s => s.rulingVerify m.val lim)).1
    have hput (st : SlotSt) : put st (v.modSlot k.val (fun r => { r with st := st })) :=
      ⟨State.modSlot_slotOf_same, fun j hj => State.modSlot_slotOf_other hj, rfl⟩
    have hread (hst : (s.slotOf k.val).st = .loaded ∨ (s.slotOf k.val).st = .verified) (hgood : ∀ i ∈ words, s.storeGood i = true) :
        u.rulingVerify m.val none = match v.verify k.val with
          | none => (v.modSlot k.val (fun r => { r with st := .verified })).finish m.val 0 [0]
          | some r => (v.modSlot k.val (fun x => { x with st := .loaded })).finish m.val 0x0808 r.words := by
      refine (hyes hst).trans (if_neg ?_)
      have hall : (u.storeReads (u.slotOf k.val).words).1 = true := List.all_eq_true.mpr hgood
      rw [hall]
      exact Bool.false_ne_true
    refine ⟨fun hst => .of_eq (hexec.trans (congrArg _ (hno hst))), fun hst => ⟨fun hbad => .of_eq (hexec.trans (congrArg _ ((hyes hst).trans (if_pos ?_)))),
      fun hgood => ⟨fun hver => ⟨v.modSlot k.val (fun r => { r with st := .verified }), ?_, .of_eq (hexec.trans (congrArg _ ?_))⟩,
        fun r hver => ⟨v.modSlot k.val (fun r => { r with st := .loaded }), ?_, .of_eq (hexec.trans (congrArg _ ?_))⟩⟩⟩⟩
    · obtain ⟨i, hi, hbad⟩ := hbad
      rw [Bool.not_eq_true', State.storeReads, List.all_eq_false]
      exact ⟨i, hi, ne_true_of_eq_false hbad⟩
    · exact hput _
    · exact (hread hst hgood).trans (by simp only [hver])
    · exact hput _
    · exact (hread hst hgood).trans (by simp only [hver])
  case unload =>
    intro s m k hb hargs
    have hexec := (runCommand_of_begins hb (fun s => s.rulingUnload m.val)).trans
      (congrArg Host.Outcome.next (State.rulingUnload_slot (k := k) (hargs.word 0)))
    refine ⟨fun hheld => .of_eq (hexec.trans (congrArg _ (if_pos hheld))), fun hfree => ⟨s.modSlot k.val (fun _ => {}),
      .of_eq (hexec.trans (congrArg _ (if_neg (ne_true_of_eq_false hfree)))), ?_, fun j hj => State.modSlot_slotOf_other hj, rfl⟩⟩
    rw [State.modSlot_slotOf_same]
  case activate =>
    intro s m k step hb hargs hen hst hmay hlocks u
    have hu : (if step = true then s.stepCounter else s) = u := rfl
    have hexec := (runCommand_of_begins hb (fun s => s.activate m.val)).trans
      (congrArg Host.Outcome.next (State.activate_passes (hargs.word 0) hen hst hmay))
    rw [hu] at hexec
    have hpens : u.pens = s.pens ∧ u.rul = s.rul := by
      rw [← hu]
      split
      · exact ⟨rfl, rfl⟩
      · exact ⟨rfl, rfl⟩
    obtain ⟨hpens, hrul⟩ := hpens
    have hpen (p : Nat) : u.pen p = s.pen p := congrArg (fun x => Table.get (fun _ => ({} : Pen)) x p) hpens
    have hslot (j : Nat) : u.slotOf j = s.slotOf j := congrArg (fun x : Rul => Table.get (fun _ => ({} : RulSlot)) x.slots j) hrul
    clear_value u
    obtain ⟨hback, hslots, hsame, hother, htlb⟩ := State.enableFolios_spec (s := u) (k := k) fun p hp i hi => by
      rw [hpen]
      exact hlocks p i hp hi
    refine ⟨u.enableFolios k.val, _, hexec, State.waitFor_waits _ m _, ?_, ?_, ?_, fun j hj => ?_, fun p hp => ?_⟩
    · rw [← hpens, ← hrul, hback]
    · rw [← hrul, hslots]
    · rw [hsame, hslot]
    · rw [hother j hj, hslot]
    · rw [htlb p hp, hpen]
  case switch =>
    intro s m k time hb
    have hexec {t : State} (h : s.armSwitch m.val = t.finish m.val 0) : t.Ends m.val 0 [] (exec (.switchArm m) s) :=
      .of_eq ((runCommand_of_begins hb (fun s => s.armSwitch m.val)).trans (congrArg Host.Outcome.next h))
    refine ⟨fun hargs => hexec (State.armSwitch_off (hargs.word 0)), fun hargs hst hmay htime =>
      hexec (State.armSwitch_passes hargs hst hmay ?_)⟩
    obtain h0 | ⟨htick, hfar⟩ := htime
    · rw [State.switchTimeOk, h0]
      rfl
    · rw [State.switchTimeOk, decide_eq_true htick, hfar]
      simp

end Sys2Proof.HuvasCommands
end

section
/-! The redraft where no fenced pen is in use (R90, R91): every line keeps its ruled place. -/

namespace Sys2Proof.Machine

section ruled

variable {i : RdIn}

theorem ruledPlan_mem {x : PlLine} (h : x ∈ ruledPlan i []) :
    ∃ e ∈ i.im.lines, e.2.runs = true ∧ x = ⟨primaryRun e, .ruled, false⟩ := by
  simp only [ruledPlan, List.mem_map, List.mem_filter, Bool.and_eq_true] at h
  obtain ⟨e, ⟨he, ⟨hruns, -⟩, -⟩, rfl⟩ := h
  exact ⟨e, he, hruns, rfl⟩

theorem RLine.isTask_of_isDuplex {l : RLine} (h : l.isDuplex = true) : l.runs = true ∧ l.isLig = false := by
  simp only [RLine.isDuplex, Bool.and_eq_true, decide_eq_true_eq] at h
  obtain ⟨htask, hmode⟩ := h
  simp [RLine.runs, RLine.isLig, htask, hmode]

/-- A DUPLEX line of a pen that is not fenced keeps its place. -/
theorem mem_ruledPlan_of_duplex {e : Nat × RLine} (he : e ∈ i.im.lines) (hd : e.2.isDuplex = true)
    (hfree : bitAt i.fenced e.2.pen = false) : (⟨primaryRun e, .ruled, false⟩ : PlLine) ∈ ruledPlan i [] := by
  obtain ⟨hruns, hlig⟩ := RLine.isTask_of_isDuplex hd
  refine List.mem_map.mpr ⟨e, List.mem_filter.mpr ⟨he, ?_⟩, rfl⟩
  rw [hruns, hlig, if_neg Bool.false_ne_true, hfree]
  rfl

theorem fencedLines_nil (h : ∀ e ∈ i.im.lines, e.2.isDuplex = true → bitAt i.fenced e.2.pen = false) : fencedLines i = [] := by
  have hnone : i.im.lines.filter (fun e => e.2.isDuplex && bitAt i.fenced e.2.pen) = [] := by
    rw [List.filter_eq_nil_iff]
    intro e he hboth
    rw [Bool.and_eq_true] at hboth
    exact ne_true_of_eq_false (h e he hboth.1) hboth.2
  rw [fencedLines, hnone]
  rfl

/-- With no line to place the loop of R90 ends at once. -/
theorem redraftLoop_ruled (h : fencedLines i = []) (n : Nat) : redraftLoop i (n + 1) [] = .placed (ruledPlan i []) [] := by
  rw [redraftLoop, h]
  rfl

/-- A finished placement keeps the pen, the start, the budget and the clipping of every line. -/
theorem finishPlan_placed {pl : List PlLine} {y : Placed} (hy : y ∈ (finishPlan i pl []).1) :
    ∃ x ∈ pl, y.line = x.run.line ∧ y.how = x.how ∧ y.pen = x.run.pen ∧ y.start = x.run.s ∧ y.budget = x.run.e - x.run.s ∧
      y.clipped = x.clipped := by
  have hshed : (i.im.lines.filter (fun e => ([] : List Nat).contains e.1)) = [] := by
    rw [List.filter_eq_nil_iff]
    intro e _
    simp
  simp only [finishPlan, hshed, List.map_nil, List.append_nil, List.mem_map] at hy
  obtain ⟨x, hx, hy⟩ := hy
  refine ⟨x, hx, ?_⟩
  split at hy <;> subst hy <;> exact ⟨rfl, rfl, rfl, rfl, rfl, rfl⟩

theorem finishPlan_lines {pl : List PlLine} {x : PlLine} (hx : x ∈ pl) : ∃ y ∈ (finishPlan i pl []).1, y.line = x.run.line := by
  refine ⟨_, List.mem_append_left _ (List.mem_map_of_mem hx), ?_⟩
  split <;> rfl

/-- Only a line of class 0 to 2 whose ruled recovery window a primary overlaps can be left unprotected in a ruled placement. -/
theorem finishPlan_unprotected {pl : List PlLine} {n : Nat} (hn : n ∈ (finishPlan i pl []).2) :
    ∃ x ∈ pl, x.run.line = n ∧ x.run.l.isDuplex = true ∧ x.run.l.crit < 3 ∧ (x.how = .ruled → x.run.l.recEn = true) := by
  simp only [finishPlan, List.mem_map, List.mem_filter] at hn
  obtain ⟨x, ⟨⟨hx, hseeks⟩, -⟩, hline⟩ := hn
  simp only [seeks, Bool.and_eq_true, Bool.or_eq_true, decide_eq_true_eq] at hseeks
  obtain ⟨⟨hdup, hcrit⟩, hwhy⟩ := hseeks
  refine ⟨x, hx, hline, hdup, hcrit, fun hruled => ?_⟩
  obtain hmoved | hhit := hwhy
  · exact absurd hruled hmoved
  · simp only [columnHit, RLine.hasRec, Bool.and_eq_true] at hhit
    exact hhit.1.2

end ruled

end Sys2Proof.Machine

namespace Sys2Proof.CommittedExecution

open Sys2Proof.Machine

/-- Settles O39: with no line to place, the placement is the ruled one, and only an exposed recovery window is reported. -/
theorem redraftKeepsRuledPlaces : Obligations.RedraftKeepsRuledPlaces := by
  intro s f hrd lines hfree
  let i := s.rdInput f
  have hbit : ∀ e ∈ i.im.lines, e.2.isDuplex = true → bitAt i.fenced e.2.pen = false := by
    intro e he hd
    have hpen : e.2.pen < 64 := Nat.mod_lt _ (by decide)
    exact (State.bitAt_penMask (fun p => decide (p.st = .fenced)) hpen).trans (decide_eq_false (hfree e he hd))
  have hloop := redraftLoop_ruled (fencedLines_nil hbit) i.im.lines.length
  refine ⟨(finishPlan i (ruledPlan i []) []).1, (finishPlan i (ruledPlan i []) []).2, ?_, ?_, ?_, ?_⟩
  · have hrow : exec .redraftCompute s = execRedraftCompute s := rfl
    rw [hrow, execRedraftCompute, hrd]
    refine congrArg Host.Outcome.next ?_
    simp only [State.redraftCompute]
    rw [hloop]
    rfl
  · intro y hy
    obtain ⟨x, hx, hline, hhow, hpen, hstart, hbudget, hclip⟩ := finishPlan_placed hy
    obtain ⟨e, he, hruns, rfl⟩ := ruledPlan_mem hx
    refine ⟨e.2, ?_, hruns, hhow, hpen, hstart, hbudget.trans (Nat.add_sub_cancel_left _ _), hclip⟩
    rw [hline]
    exact he
  · intro e he hd
    exact finishPlan_lines (mem_ruledPlan_of_duplex he hd (hbit e he hd))
  · intro n hn
    obtain ⟨x, hx, hline, hdup, hcrit, hrec⟩ := finishPlan_unprotected hn
    obtain ⟨e, he, -, rfl⟩ := ruledPlan_mem hx
    exact ⟨e.2, hline ▸ he, hdup, hcrit, hrec rfl⟩

end Sys2Proof.CommittedExecution
end

section
/-! The boundary actions of a cycle and the start of a run (R39, R43, R45, R46, R51). -/

namespace Sys2Proof.Machine

section boundary

variable {s t u : State} {i : Nat} {l : RLine}

/-- The line whose run on pen `p` ends in this cycle without LINEND. -/
def State.lateOn (s : State) (p : Nat) : Option Nat := match (s.pen p).run with
  | some r => if (s.pen p).st = .run && r.linend = none && r.winEnd = s.folioCyc then some r.line else none
  | none => none

theorem State.killLate_eq : s.killLate =
    s.forAll (sortBy id ((upTo 64).filterMap s.lateOn).eraseDups) (fun i t => t.budgetEnd i) := rfl

theorem State.lateOn_iff {p j : Nat} : s.lateOn p = some j ↔
    ∃ r, (s.pen p).run = some r ∧ (s.pen p).st = .run ∧ r.linend = none ∧ r.winEnd = s.folioCyc ∧ r.line = j := by
  rw [State.lateOn]
  split
  next r hr =>
    rw [hr]
    simp [and_assoc]
  next hr => simp [hr]

/-- Where no run is LATE step 2 changes nothing. -/
theorem State.killLate_none
    (h : ∀ p r, p < 64 → (s.pen p).st = .run → (s.pen p).run = some r → r.linend = none → r.winEnd ≠ s.folioCyc) :
    s.killLate = s := by
  have hnone : (upTo 64).filterMap s.lateOn = [] := by
    rw [List.filterMap_eq_nil_iff]
    intro p hp
    rw [upTo, List.mem_range] at hp
    refine Option.eq_none_iff_forall_not_mem.mpr fun j hj => ?_
    obtain ⟨r, hr, hst, hend, hwin, -⟩ := State.lateOn_iff.mp hj
    exact h p r hp hst hr hend hwin
  rw [State.killLate_eq, hnone]
  rfl

theorem State.closeDue_none (h : ∀ w ∈ s.folio.wins, w.start + w.len ≠ s.folioCyc) : s.closeDue = s := by
  have hnone : s.folio.wins.filter (fun w => w.start + w.len = s.folioCyc) = [] :=
    List.filter_eq_nil_iff.mpr fun w hw hdue => h w hw (of_decide_eq_true hdue)
  rw [State.closeDue, hnone]
  rfl

theorem State.boundary_of_nothingEnds (h : s.NothingEnds) : s.boundary = s.forAll (upTo s.active.lines) State.handLine := by
  rw [State.boundary, State.killLate_none h.1, State.closeDue_none h.2]

theorem State.handLine_notDue (h1 : s.startDue i = false) (h2 : s.recoveryDue i = none) : State.handLine i s = s := by
  rw [State.handLine]
  split
  · rfl
  · split
    · rfl
    · simp only [h1, Bool.false_eq_true, if_false, h2]

theorem State.handLine_starts {p : Nat} (hline : s.line i = some l) (hgood : (s.lineWords s.active i).all s.storeGood = true)
    (hdue : s.startDue i = true) (hpen : s.startsOn i l = some p) (hrec : (s.handOnce i false l p).recoveryDue i = none) :
    State.handLine i s = s.handOnce i false l p := by
  simp only [State.handLine, hline, hgood, hdue, hpen, Bool.not_true, Bool.false_eq_true, if_false, if_true, hrec]

/-- A loop of which one turn acts. -/
theorem State.forAll_one {α : Type} {f : α → State → State} {ls : List α} {a : α} (hl : ls.Nodup) (ha : a ∈ ls)
    (hbefore : ∀ b ∈ ls, b ≠ a → f b s = s) (hafter : ∀ b ∈ ls, b ≠ a → f b (f a s) = f a s) : s.forAll ls f = f a s := by
  induction ls with
  | nil => exact absurd ha List.not_mem_nil
  | cons c ls ih =>
    obtain ⟨hc, hl⟩ := List.nodup_cons.mp hl
    by_cases hca : c = a
    · subst hca
      exact State.forAll_same fun b hb => hafter b (List.mem_cons_of_mem _ hb) fun h => hc (h ▸ hb)
    · have hmem : a ∈ ls := (List.mem_cons.mp ha).resolve_left fun h => hca h.symm
      refine Eq.trans (congrArg (fun t : State => t.forAll ls f) (hbefore c List.mem_cons_self hca)) ?_
      exact ih hl hmem (fun b hb => hbefore b (List.mem_cons_of_mem _ hb)) fun b hb => hafter b (List.mem_cons_of_mem _ hb)

/-! ### Handover lists -/

/-- Owner and grant of reservoir `r` after one handover entry. -/
def handedBy (linePen p : Nat) (h : Handover) (y : Nat × Word) : Nat × Word :=
  let q := if h.pen = linePen then p else h.pen
  if h.action = 0 then (p, y.2) else if h.action = 1 then (q, y.2)
  else if h.action = 2 then (y.1, setBit y.2 q true) else (y.1, setBit y.2 q false)

theorem State.applyHo_rsvOf {linePen p : Nat} (h : Handover) (r : Nat) :
    (s.applyHo linePen p h).rsvOf r = if h.rsv = r then { s.rsvOf r with
      owner := (handedBy linePen p h ((s.rsvOf r).owner, (s.rsvOf r).grant)).1
      grant := (handedBy linePen p h ((s.rsvOf r).owner, (s.rsvOf r).grant)).2 } else s.rsvOf r := by
  by_cases hr : h.rsv = r
  · subst hr
    rw [if_pos rfl, State.applyHo, State.modRsv_rsvOf_same, handedBy]
    split
    · rfl
    · split
      · rfl
      · split <;> rfl
  · rw [if_neg hr, State.applyHo, State.modRsv_rsvOf_other fun h => hr h.symm]

theorem State.forAll_applyHo {linePen p : Nat} (hs : List Handover) (r : Nat) :
    (s.forAll hs (fun h t => t.applyHo linePen p h)).rsvOf r = { s.rsvOf r with
      owner := (handedOver hs linePen p r ((s.rsvOf r).owner, (s.rsvOf r).grant)).1
      grant := (handedOver hs linePen p r ((s.rsvOf r).owner, (s.rsvOf r).grant)).2 } := by
  induction hs generalizing s with
  | nil => rfl
  | cons h hs ih =>
    refine (ih (s := s.applyHo linePen p h)).trans ?_
    rw [State.applyHo_rsvOf]
    by_cases hr : h.rsv = r
    · have hstep (x : Nat × Word) : handedOver (h :: hs) linePen p r x = handedOver hs linePen p r (handedBy linePen p h x) := by
        rw [handedOver, List.filter_cons_of_pos (by simpa using hr)]
        rfl
      rw [if_pos hr, hstep]
    · have hstep (x : Nat × Word) : handedOver (h :: hs) linePen p r x = handedOver hs linePen p r x := by
        rw [handedOver, List.filter_cons_of_neg (by simpa using hr)]
        rfl
      rw [if_neg hr, hstep]

theorem State.handOnce_spec {p : Nat} (h : (i, false) ∉ s.folio.handed) :
    { s.handOnce i false l p with rsv := s.rsv, folio := s.folio } = s ∧
    (s.handOnce i false l p).folio = { s.folio with handed := (i, false) :: s.folio.handed } ∧
    ∀ r, (s.handOnce i false l p).rsvOf r = { s.rsvOf r with
      owner := (handedOver (s.handovers s.active l) l.pen p r ((s.rsvOf r).owner, (s.rsvOf r).grant)).1
      grant := (handedOver (s.handovers s.active l) l.pen p r ((s.rsvOf r).owner, (s.rsvOf r).grant)).2 } := by
  have honce : s.handOnce i false l p = { s.applyHandovers l p with
      folio := { (s.applyHandovers l p).folio with handed := (i, false) :: (s.applyHandovers l p).folio.handed } } :=
    if_neg (by simpa using h)
  have hback : { s.applyHandovers l p with rsv := s.rsv } = s :=
    State.forAll_of_turn (P := fun t => { t with rsv := s.rsv } = s) (fun _ _ ht => ht) rfl
  have hrsv (r : Nat) := State.forAll_applyHo (s := s) (linePen := l.pen) (p := p) (s.handovers s.active l) r
  have hfolio : (s.applyHandovers l p).folio = s.folio := (congrArg State.folio hback :)
  rw [honce, hfolio]
  exact ⟨(congrArg (fun x : State => ({ x with folio := s.folio } : State)) hback :), rfl, hrsv⟩

theorem State.handOnce_done {b : Bool} {p : Nat} (h : (i, b) ∈ s.folio.handed) : s.handOnce i b l p = s :=
  if_pos (by simpa using h)

/-- What is due depends neither on the reservoirs nor on the handovers that were made. -/
theorem State.due_of_like (h : { t with rsv := s.rsv, folio := { t.folio with handed := s.folio.handed } } = s) (j : Nat) :
    t.startDue j = s.startDue j ∧ t.recoveryDue j = s.recoveryDue j :=
  ⟨(congrArg (fun x : State => x.startDue j) h :), (congrArg (fun x : State => x.recoveryDue j) h :)⟩

theorem State.line_lt (h : s.line i = some l) : i < s.active.lines := by
  rw [State.line] at h
  split at h
  · assumption
  · exact nomatch h

/-- Where one run starts in a cycle and nothing ends, its handover list is the boundary's work. -/
theorem State.boundary_starts {p : Nat} (hn : s.NothingEnds)
    (hothers : ∀ j, j < s.active.lines → j ≠ i → s.startDue j = false ∧ s.recoveryDue j = none) (hline : s.line i = some l)
    (hgood : (s.lineWords s.active i).all s.storeGood = true) (hdue : s.startDue i = true) (hrec : s.recoveryDue i = none)
    (hpen : s.startsOn i l = some p) (hfresh : (i, false) ∉ s.folio.handed) : s.boundary = s.handOnce i false l p := by
  obtain ⟨hback, hfolio, -⟩ := State.handOnce_spec (l := l) (p := p) hfresh
  have hlike : { s.handOnce i false l p with
      rsv := s.rsv, folio := { (s.handOnce i false l p).folio with handed := s.folio.handed } } = s := by
    rw [hfolio]
    exact hback
  have hsame := State.due_of_like hlike
  have hturn : State.handLine i s = s.handOnce i false l p := State.handLine_starts hline hgood hdue hpen ((hsame i).2.trans hrec)
  rw [State.boundary_of_nothingEnds hn, ← hturn]
  refine State.forAll_one List.nodup_range (List.mem_range.mpr (State.line_lt hline)) (fun j hj hji => ?_) fun j hj hji => ?_
  · obtain ⟨h1, h2⟩ := hothers j (List.mem_range.mp hj) hji
    exact State.handLine_notDue h1 h2
  · obtain ⟨h1, h2⟩ := hothers j (List.mem_range.mp hj) hji
    rw [hturn]
    exact State.handLine_notDue ((hsame j).1.trans h1) ((hsame j).2.trans h2)

/-! ### The start of a run -/

/-- The pen of a run in its first cycle (R43, R132). -/
theorem State.startPen_start (r : Run) (x : Pen) (hu : u.folio.tickTime = s.folio.tickTime ∧ u.folio.number = s.folio.number)
    (hpx : u.px = s.px) : StartState s l r.line (u.startPen l r x) := by
  obtain ⟨htime, hnum⟩ := hu
  have hword (a b : Nat) : u.pxWord a b = s.pxWord a b := congrArg (fun x => (Table.get (fun _ => ([] : List Word)) x a).getD b 0) hpx
  have hstatus : u.startStatus l.part = BitVec.ofNat 64 (256 + bitsOf (s.pxWord l.part 0) 48 3 * 16) := by
    rw [State.startStatus, hword]
  refine ⟨rfl, rfl, ?_, ?_, fun k hk => ?_, rfl, fun e he => (List.mem_filter.mp he).2, ?_, hstatus, hword _ _⟩
  · exact congrArg TWord.time htime
  · exact congrArg TWord.uint hnum
  · rw [Pen.getB, if_neg (by omega)]
    split
    · rfl
    · split
      · rfl
      · have hget : (u.startPen l r x).regs = u.startRegs r.line l.task := rfl
        rw [hget, State.startRegs]
        have h1 : k ≠ 1 := by omega
        have h2 : k ≠ 2 := by omega
        have h3 : k ≠ 3 := by omega
        have h4 : k ≠ 4 := by omega
        simp [Table.get, h1, h2, h3, h4]
  · have hsix : bitsOf (s.pxWord l.part 0) 48 3 < 8 := Nat.mod_lt _ (by decide)
    have hst : (u.startPen l r x).status = u.startStatus l.part := rfl
    rw [hst, hstatus, bitAt_ofNat _ _ (by decide)]
    exact decide_eq_true (by omega)

theorem State.startOn_handed {p start budget : Nat} {b : Bool} (h : (i, b) ∈ s.folio.handed) :
    s.startOn i l p start budget b = s.modPen p (s.startPen l (startedRun i l.part p start budget b)) := by
  rw [State.startOn, State.handOnce_done h]
  rfl

end boundary

end Sys2Proof.Machine

namespace Sys2Proof.FolioRuling

open Sys2Proof.Machine

/-- Settles O32: the boundary's handovers, a line that cannot be read, and the first cycle of a run. -/
theorem runsStart : Obligations.RunsStart := by
  refine ⟨fun s hn => ⟨fun hnone => ?_, fun i l p hothers hline hgood hdue hrec hpen hfresh => ?_⟩, fun s u i hread => ⟨fun hdue => ?_,
    fun hdue => ?_⟩, fun s u i l hplays hlig => ⟨?primary, ?recovery⟩⟩
  · rw [State.boundary_of_nothingEnds hn]
    refine State.forAll_same fun j hj => ?_
    obtain ⟨h1, h2⟩ := hnone j (List.mem_range.mp hj)
    exact State.handLine_notDue h1 h2
  · intro t
    have ht : t = s.handOnce i false l p := State.boundary_starts hn hothers hline hgood hdue hrec hpen hfresh
    rw [ht]
    exact State.handOnce_spec hfresh
  · refine (exec_of_due (c := .runStart i) (s := s) (f := fun s => s.play i.val (fun t => t.startDue i.val) (State.runStart i.val))
      rfl hdue).trans (congrArg _ (State.play_unreadable hread))
  · refine (exec_of_due (c := .recoveryRunStart i) (s := s) (f := fun s => s.play i.val (fun t => (t.recoveryDue i.val).isSome)
      (State.recoveryStart i.val)) rfl hdue).trans (congrArg _ (State.play_unreadable hread))
  case primary =>
    intro hdue hdue' hfree hhanded q
    let v : State := { u with folio := { u.folio with spent := i.val :: u.folio.spent } }
    have hstart : State.runStart i.val l u = v.modPen q (v.startPen l
        (startedRun i.val l.part q (u.placeOf i.val l).start (u.placeOf i.val l).budget false)) := by
      rw [State.runStart, if_neg (ne_true_of_eq_false hlig)]
      exact (if_pos hfree).trans (State.startOn_handed (s := v) hhanded)
    have hexec := (exec_of_due (c := .runStart i) (s := s) (f := fun s => s.play i.val (fun t => t.startDue i.val)
      (State.runStart i.val)) rfl hdue).trans (congrArg _ ((State.play_due hplays hdue').trans hstart))
    refine ⟨_, hexec, ?_⟩
    rw [State.modPen_pen_same]
    exact ⟨State.startPen_start _ _ ⟨rfl, rfl⟩ rfl, rfl, rfl, rfl, rfl, rfl, rfl, onlyPens_modPen⟩
  case recovery =>
    intro a hdue hrec hfree hhanded
    let v : State := { u with folio := { u.folio with armed := u.folio.armed.filter (fun b => b.line ≠ i.val) } }
    have hstart : State.recoveryStart i.val l u = v.modPen a.pen (v.startPen l
        (startedRun i.val l.part a.pen a.start l.budget true)) := by
      simp only [State.recoveryStart, hrec]
      exact (if_pos hfree).trans (State.startOn_handed (s := v) hhanded)
    have hexec := (exec_of_due (c := .recoveryRunStart i) (s := s) (f := fun s => s.play i.val
      (fun t => (t.recoveryDue i.val).isSome) (State.recoveryStart i.val)) rfl hdue).trans
      (congrArg _ ((State.play_due hplays (Option.isSome_of_mem hrec)).trans hstart))
    refine ⟨_, hexec, ?_⟩
    rw [State.modPen_pen_same]
    exact ⟨State.startPen_start _ _ ⟨rfl, rfl⟩ rfl, rfl, rfl, onlyPens_modPen⟩

end Sys2Proof.FolioRuling
end

section
/-! Runs that fail: the late run that is killed, and the line whose pen is out (R52 to R54, R87). -/

namespace Sys2Proof.Machine

section late

variable {s : State} {p i : Nat} {r : Run}

theorem VSlot.discard_discard (v : VSlot) : v.discard.discard = v.discard := rfl

/-- A DUPLEX run that is killed (R79): its drafts return to FAIR, its pen is cleared. -/
theorem State.killRun_duplex (hrun : (s.pen p).run = some r) (hmode : r.mode = .duplex) (hhold : (s.pen p).hold = .none) :
    { s.killRun p with pens := s.pens, vt := s.vt } = s ∧ (s.killRun p).pen p = (s.pen p).clearRun ∧
    (∀ q, q ≠ p → (s.killRun p).pen q = s.pen q) ∧
    ∀ n, (s.killRun p).vslot n = if n ∈ r.drafts then (s.vslot n).discard else s.vslot n := by
  let v := s.forAll r.drafts (fun n t => t.modVslot n VSlot.discard)
  have hback : { v with vt := s.vt } = s :=
    State.forAll_of_turn (P := fun t => { t with vt := s.vt } = s) (fun _ _ ht => ht) rfl
  have hvslot (n : Nat) : v.vslot n = if n ∈ r.drafts then (s.vslot n).discard else s.vslot n :=
    State.forAll_vslot_idem VSlot.discard_discard r.drafts s n
  have hpen (q : Nat) : v.pen q = s.pen q := (congrArg (fun x : State => x.pen q) hback :)
  have hcopy : v.dropCopy p = v := by rw [State.dropCopy, hpen, hhold]
  have hreq : v.dropRequest p r = v := by rw [State.dropRequest, hpen, hhold]
  have howe (x : Pen) : x.clearRun.oweCopy r = x.clearRun := if_neg (by rw [hmode]; decide)
  have hkill : s.killRun p = v.modPen p (fun x => x.clearRun.oweCopy r) := by
    have hv : s.forAll r.drafts (fun n t => t.discardDraft n) = v := rfl
    simp only [State.killRun, hrun, hv, hcopy, hreq]
    exact if_neg (by rw [hmode]; decide)
  have hv : ∀ n, (v.modPen p (fun x => x.clearRun.oweCopy r)).vslot n = v.vslot n := fun n => rfl
  rw [hkill]
  refine ⟨?_, ?_, fun q hq => ?_, fun n => ?_⟩
  · exact (congrArg (fun x : State => ({ x with pens := s.pens } : State)) hback :)
  · rw [State.modPen_pen_same, howe, hpen]
  · rw [State.modPen_pen_other hq, hpen]
  · rw [hv, hvslot]

theorem Pen.clearRun_late (x : Pen) : x.clearRun.run = none ∧ x.clearRun.sb = [] ∧ (x.st = .run → x.clearRun.st = .idle) :=
  ⟨rfl, rfl, fun h => if_pos h⟩

/-- The state after a late run has been killed and counted (R53). -/
def State.lateKilled (s : State) (p : Nat) : State :=
  { s.killRun p with folio := { (s.killRun p).folio with
      lateCnt := satInc 0xFFFFFFFF (s.killRun p).folio.lateCnt, event := (s.killRun p).folio.event ||| 0x10 } }

/-- The run of line `i` on pen `p` is LATE in this cycle. -/
def State.LateOn (s : State) (p i : Nat) : Prop :=
  ∃ r, (s.pen p).run = some r ∧ (s.pen p).st = .run ∧ r.linend = none ∧ r.winEnd = s.folioCyc ∧ r.line = i

theorem filter_range_eq_singleton {n a : Nat} {f : Nat → Bool} (ha : a < n) (h : ∀ k, k < n → (f k = true ↔ k = a)) :
    (List.range n).filter f = [a] := by
  have hf : (List.range n).filter f = (List.range n).filter (fun k => k == a) := by
    refine List.filter_congr fun k hk => ?_
    rw [Bool.eq_iff_iff, beq_iff_eq]
    exact h k (List.mem_range.mp hk)
  rw [hf, List.filter_beq, List.nodup_range.count, if_pos (List.mem_range.mpr ha)]
  rfl

theorem State.budgetEnd_late (hp : p < 64) (h : s.LateOn p i)
    (hothers : ∀ q x, q < 64 → q ≠ p → (s.pen q).run = some x → x.line ≠ i) :
    s.budgetEnd i = (s.lateKilled p).raise { cls := 0x10, line := i } := by
  obtain ⟨r, hrun, hst, hend, hwin, hline⟩ := h
  have hpens : s.pensOf i = [p] := by
    refine filter_range_eq_singleton hp fun q hq => ?_
    by_cases hqp : q = p
    · subst hqp
      simp [hrun, hst, hline]
    · refine ⟨fun hyes => ?_, fun h => absurd h hqp⟩
      split at hyes
      next x hx =>
        rw [Bool.and_eq_true, decide_eq_true_eq] at hyes
        exact absurd hyes.1 (hothers q x hq hqp hx)
      next => exact nomatch hyes
  have hlate : s.budgetEnd i = s.lateRun p i := by
    simp [State.budgetEnd, hpens, hrun, hend, hwin]
  exact hlate

/-- Where only the run on pen `p` ends late, step 2 kills it. -/
theorem State.killLate_one (hp : p < 64) (h : s.LateOn p i)
    (hothers : ∀ q x, q < 64 → q ≠ p → (s.pen q).st = .run → (s.pen q).run = some x → x.linend = none → x.winEnd ≠ s.folioCyc) :
    s.killLate = s.budgetEnd i := by
  have hone : (upTo 64).filterMap s.lateOn = [i] := by
    have hnone (q : Nat) (hq : q < 64) (hqp : q ≠ p) : s.lateOn q = none := by
      refine Option.eq_none_iff_forall_not_mem.mpr fun j hj => ?_
      obtain ⟨x, hx, hst, hend, hwin, -⟩ := State.lateOn_iff.mp hj
      exact hothers q x hq hqp hst hx hend hwin
    have hsome : s.lateOn p = some i := State.lateOn_iff.mpr h
    have hfilter : (upTo 64).filter (fun q => q == p) = [p] :=
      filter_range_eq_singleton hp fun q _ => beq_iff_eq
    have hmap : (upTo 64).filterMap s.lateOn = ((upTo 64).filter (fun q => q == p)).filterMap s.lateOn := by
      rw [List.filterMap_filter]
      refine List.filterMap_congr fun q hq => ?_
      by_cases hqp : q = p
      · rw [if_pos (beq_iff_eq.mpr hqp)]
      · rw [if_neg (fun h => hqp (beq_iff_eq.mp h)), hnone q (List.mem_range.mp hq) hqp]
    rw [hmap, hfilter, List.filterMap_cons, hsome]
    rfl
  rw [State.killLate_eq, hone]
  rfl

theorem State.lateKilled_spec (hrun : (s.pen p).run = some r) (hmode : r.mode = .duplex) (hhold : (s.pen p).hold = .none)
    (hst : (s.pen p).st = .run) :
    (s.lateKilled p).folio = { s.folio with lateCnt := satInc 0xFFFFFFFF s.folio.lateCnt, event := s.folio.event ||| 0x10 } ∧
    { s.lateKilled p with pens := s.pens, vt := s.vt, folio := s.folio } = s ∧
    (∀ q, q ≠ p → (s.lateKilled p).pen q = s.pen q) ∧
    ((s.lateKilled p).pen p).st = .idle ∧ ((s.lateKilled p).pen p).run = none ∧ ((s.lateKilled p).pen p).sb = [] ∧
    ∀ n, (s.lateKilled p).vslot n = if n ∈ r.drafts then (s.vslot n).discard else s.vslot n := by
  obtain ⟨hback, hpen, hothers, hvslot⟩ := State.killRun_duplex hrun hmode hhold
  obtain ⟨hrun', hsb, hidle⟩ := (s.pen p).clearRun_late
  unfold State.lateKilled
  generalize s.killRun p = v at *
  have hfolio : v.folio = s.folio := (congrArg State.folio hback :)
  have hp' : ({ v with folio := { v.folio with
      lateCnt := satInc 0xFFFFFFFF v.folio.lateCnt, event := v.folio.event ||| 0x10 } } : State).pen p = (s.pen p).clearRun := hpen
  rw [hp']
  refine ⟨by rw [hfolio], (congrArg (fun x : State => ({ x with folio := s.folio } : State)) hback :), hothers, hidle hst, hrun', hsb,
    hvslot⟩

end late

end Sys2Proof.Machine

namespace Sys2Proof.FolioRuling

open Sys2Proof.Machine

/-- Settles O33: the budget end of a late run, alone and as step 2 of its cycle, and a line that no pen can take. -/
theorem failedRuns : Obligations.FailedRuns := by
  have hexec (s : State) (i : LineN) (h : s.folio.running = true) : exec (.runBudgetEnd i) s = .next (s.budgetEnd i.val) :=
    exec_of_due (c := .runBudgetEnd i) (s := s) (f := fun s => s.budgetEnd i.val) rfl h
  refine ⟨?late, ?step, ?column⟩
  case late =>
    intro s i p r hgo hp hst hrun hline hend hwin hmode hhold hothers
    have hlate := State.budgetEnd_late hp ⟨r, hrun, hst, hend, hwin, hline⟩ hothers
    exact ⟨s.lateKilled p, (hexec s i hgo).trans (congrArg _ hlate), State.lateKilled_spec hrun hmode hhold hst⟩
  case step =>
    intro s i p r hgo hp hst hrun hline hend hwin hothers
    rw [hexec s i hgo, State.killLate_one hp ⟨r, hrun, hst, hend, hwin, hline⟩ hothers]
  case column =>
    intro s u i l hplays hlig hdue hdue' q hbusy t
    have hstart : State.runStart i.val l u = t.toColumn i.val q := by
      rw [State.runStart, if_neg (ne_true_of_eq_false hlig)]
      exact if_neg (ne_true_of_eq_false hbusy)
    have hplay := (exec_of_due (c := .runStart i) (s := s) (f := fun s => s.play i.val (fun t => t.startDue i.val)
      (State.runStart i.val)) rfl hdue).trans (congrArg _ ((State.play_due hplays hdue').trans hstart))
    refine ⟨fun hvalid => hplay.trans (congrArg _ ?_), fun hnone => hplay.trans (congrArg _ ?_)⟩
    · exact if_pos hvalid
    · exact if_neg (ne_true_of_eq_false hnone)

end Sys2Proof.FolioRuling
end

section
/-! Accesses of a run: what its marks change, reads of clean words, stores that its pages take (R105, R176, R205, R262). -/

namespace Sys2Proof.Machine

theorem otherOf_ne (p : Nat) : otherOf p ≠ p := by
  rw [otherOf]
  split <;> omega

/-! ### Marks -/

/-- From `s` to `v` an access of pen `p`'s run has only left its marks: words of memory, TLB entries of the pens of the run,
and the pages that a SOLO run notes (R113, R262). -/
def State.Marks (s v : State) (p : Nat) : Prop :=
  { v with mem := s.mem, pens := s.pens } = s ∧ { v.pen p with tlb := (s.pen p).tlb, run := (s.pen p).run } = s.pen p ∧
  (s.pen p).SameRun (v.pen p) ∧ s.OtherPens v p

/-- What marks leave of a run. -/
def Run.Like (r' r : Run) : Prop := { r' with wrote := [] } = { r with wrote := [] }

section marks

variable {s v w : State} {p : Nat}

theorem Pen.SameRun.run_eq {x y : Pen} {r : Run} (h : x.SameRun y) (hr : x.run = some r) : ∃ r', y.run = some r' ∧ r'.Like r := by
  rw [Pen.SameRun, hr, Option.map_some, Option.map_eq_some_iff] at h
  exact h

theorem Pen.SameRun.joined {x y : Pen} (h : x.SameRun y) : (y.run.any fun r => r.mode = .joined) = x.run.any fun r => r.mode = .joined := by
  have hmode := congrArg (fun o : Option Run => o.any fun r => decide (r.mode = .joined)) h
  simpa only [Option.any_map] using hmode

theorem State.isJoined_eq : s.isJoined p = (s.pen p).run.any fun r => r.mode = .joined := by
  rw [State.isJoined]
  split <;> rename_i h <;> rw [h] <;> rfl

theorem Pen.SameRun.trans {x y z : Pen} (h : x.SameRun y) (h' : y.SameRun z) : x.SameRun z := Eq.trans h' h

theorem State.Marks.refl (s : State) (p : Nat) : s.Marks s p :=
  ⟨rfl, rfl, rfl, fun q hq => by split <;> rfl⟩

theorem State.Marks.isJoined (h : s.Marks v p) : v.isJoined p = s.isJoined p := by
  obtain ⟨-, -, hrun, -⟩ := h
  rw [State.isJoined_eq, State.isJoined_eq, hrun.joined]

theorem State.Marks.trans (h : s.Marks v p) (h' : v.Marks w p) : s.Marks w p := by
  have hj := h.isJoined
  obtain ⟨hback, hpen, hrun, hothers⟩ := h
  obtain ⟨hback', hpen', hrun', hothers'⟩ := h'
  refine ⟨?_, ?_, hrun.trans hrun', fun q hq => ?_⟩
  · exact (congrArg (fun x : State => ({ x with mem := s.mem, pens := s.pens } : State)) hback').trans hback
  · exact (congrArg (fun x : Pen => ({ x with tlb := (s.pen p).tlb, run := (s.pen p).run } : Pen)) hpen').trans hpen
  · rw [hothers' q hq, hothers q hq, hj]
    split <;> rfl

/-- Marks that change no word of memory. -/
theorem State.Marks.onlyPens (h : s.Marks v p) (hmem : v.mem = s.mem) : { v with pens := s.pens } = s := by
  obtain ⟨hback, -⟩ := h
  have hmem' : { v with mem := s.mem, pens := s.pens } = { v with pens := s.pens } := by rw [← hmem]
  exact hmem'.symm.trans hback

theorem State.Marks.pen_of_solo (h : s.Marks v p) (hj : s.isJoined p = false) (q : Nat) (hq : q ≠ p) : v.pen q = s.pen q := by
  obtain ⟨-, -, -, hothers⟩ := h
  rw [hothers q hq, if_neg]
  rw [hj]
  exact fun h => Bool.false_ne_true h.1

theorem State.modPen_drop (u s : State) (p : Nat) (f : Pen → Pen) :
    { u.modPen p f with mem := s.mem, pens := s.pens } = { u with mem := s.mem, pens := s.pens } := rfl

theorem State.marks_modRun {f : Pen → Pen} (hf : ∀ x, { f x with tlb := x.tlb } = x) : s.Marks (s.modRun p f) p := by
  have hrun (x : Pen) : (f x).run = x.run := (congrArg Pen.run (hf x) :)
  by_cases hj : s.isJoined p = true
  · have ho := otherOf_ne p
    have hpen : ((s.modPen p f).modPen (otherOf p) f).pen p = f (s.pen p) := by
      rw [State.modPen_pen_other ho.symm, State.modPen_pen_same]
    have hother : ((s.modPen p f).modPen (otherOf p) f).pen (otherOf p) = f (s.pen (otherOf p)) := by
      rw [State.modPen_pen_same, State.modPen_pen_other ho]
    have hmod : s.modRun p f = (s.modPen p f).modPen (otherOf p) f := if_pos hj
    rw [hmod]
    refine ⟨(State.modPen_drop _ s _ f).trans (State.modPen_drop s s p f), ?_, ?_, fun q hq => ?_⟩
    · rw [hpen, ← hrun]
      exact hf _
    · rw [Pen.SameRun, hpen, hrun]
    · by_cases hqo : q = otherOf p
      · rw [if_pos ⟨hj, hqo⟩, hqo, hother]
        exact (congrArg (fun x : Pen => ({ x with tlb := (f (s.pen (otherOf p))).tlb } : Pen)) (hf (s.pen (otherOf p))) :)
      · rw [if_neg fun h => hqo h.2, State.modPen_pen_other hqo, State.modPen_pen_other hq]
  · have hpen : (s.modPen p f).pen p = f (s.pen p) := State.modPen_pen_same
    have hmod : s.modRun p f = s.modPen p f := if_neg hj
    rw [hmod]
    refine ⟨State.modPen_drop s s p f, ?_, ?_, fun q hq => ?_⟩
    · refine Eq.trans ?_ (hf (s.pen p))
      rw [← hrun]
      exact (congrArg (fun x : Pen => ({ x with tlb := (s.pen p).tlb, run := (f (s.pen p)).run } : Pen)) hpen :)
    · exact (congrArg (fun x : Pen => x.run.map (fun r => ({ r with wrote := [] } : Run))) hpen).trans
        (congrArg (Option.map fun r => ({ r with wrote := [] } : Run)) (hrun _))
    · rw [if_neg fun h => hj h.1]
      exact State.modPen_pen_other hq

theorem State.marks_noteWrote (s : State) (p cpa : Nat) : s.Marks (s.noteWrote p cpa) p ∧ (s.noteWrote p cpa).mem = s.mem ∧
    ((s.noteWrote p cpa).pen p).tlb = (s.pen p).tlb := by
  rw [State.noteWrote]
  split
  · refine ⟨⟨rfl, ?_, ?_, fun q hq => ?_⟩, rfl, ?_⟩
    · rw [State.modPen_pen_same]
    · rw [Pen.SameRun, State.modPen_pen_same, Option.map_map]
      refine congrArg (fun f => Option.map f (s.pen p).run) (funext fun r => ?_)
      simp only [Function.comp]
      split <;> rfl
    · rw [State.modPen_pen_other hq]
      split <;> rfl
    · rw [State.modPen_pen_same]
  · exact ⟨.refl s p, rfl, rfl⟩

theorem State.marks_of_mem (h : { v with mem := s.mem } = s) : s.Marks v p := by
  have hpen (q : Nat) : v.pen q = s.pen q := (congrArg (fun x : State => x.pen q) h :)
  refine ⟨(congrArg (fun x : State => ({ x with pens := s.pens } : State)) h :), ?_, ?_, fun q hq => ?_⟩
  · rw [hpen]
  · rw [Pen.SameRun, hpen]
  · rw [hpen]
    split <;> rfl

theorem State.marks_poke (s : State) (p a : Nat) (w : TWord) : s.Marks (s.poke a w) p := State.marks_of_mem (State.poke_back s a w)

/-- Nothing but the named words of memory differs. -/
def State.SameWords (s v : State) (l : List Nat) : Prop := ∀ b, (∀ a ∈ l, b / 8 ≠ a / 8) → v.peekCode b = s.peekCode b

theorem State.SameWords.of_mem {l : List Nat} (h : v.mem = s.mem) : s.SameWords v l := fun b _ => by
  rw [State.peekCode, State.peekCode, h]

theorem State.SameWords.trans {l l' : List Nat} (h : s.SameWords v l) (h' : v.SameWords w l') : s.SameWords w (l ++ l') :=
  fun b hb => (h' b fun a ha => hb a (List.mem_append_right _ ha)).trans (h b fun a ha => hb a (List.mem_append_left _ ha))

theorem State.SameWords.mono {l l' : List Nat} (h : s.SameWords v l) (hl : ∀ a ∈ l, a ∈ l') : s.SameWords v l' :=
  fun b hb => h b fun a ha => hb a (hl a ha)

/-- Setting a bit of a table word marks its copies only (R261). -/
theorem State.marks_orTable (s : State) (p home cpa bit : Nat) :
    s.Marks (s.orTable p home cpa bit) p ∧ s.SameWords (s.orTable p home cpa bit) (s.runCopies p home cpa) := by
  rw [State.orTable]
  generalize s.runCopies p home cpa = l
  induction l generalizing s with
  | nil => exact ⟨.refl s p, fun _ _ => rfl⟩
  | cons a l ih =>
    rw [List.foldl_cons]
    split
    next w hw =>
      split
      · exact ⟨(ih s).1, (ih s).2.mono fun b hb => List.mem_cons_of_mem _ hb⟩
      · obtain ⟨hm, hw⟩ := ih ((s.poke a ⟨w.tag, setBit w.val bit true⟩).noteWrote p cpa)
        obtain ⟨hn, hmem, -⟩ := State.marks_noteWrote (s.poke a ⟨w.tag, setBit w.val bit true⟩) p cpa
        have hpoke : s.SameWords (s.poke a ⟨w.tag, setBit w.val bit true⟩) [a] := fun b hb =>
          State.poke_peekCode_other (hb a List.mem_cons_self)
        refine ⟨((State.marks_poke s p a _).trans hn).trans hm, ?_⟩
        exact (hpoke.trans ((State.SameWords.of_mem (l := []) hmem).trans hw)).mono fun b hb => by simpa using hb
    · exact ⟨(ih s).1, (ih s).2.mono fun b hb => List.mem_cons_of_mem _ hb⟩

theorem Pen.modHit_tlb (x : Pen) (part : Nat) (va : Word) (f : TlbEntry → TlbEntry) : { x.modHit part va f with tlb := x.tlb } = x := by
  rw [Pen.modHit]
  split <;> rfl

/-- The marks of a store (R262, R263): the D bits of the page's leaf words, and none where both are set. -/
theorem State.marks_postD (s : State) (c : Ctx) (va : Word) (e : TlbEntry) :
    s.Marks (s.postD c va e) c.pen ∧
    s.SameWords (s.postD c va e) (s.runCopies c.pen c.home e.leaf1 ++ s.runCopies c.pen c.home e.leaf2) ∧
    (e.d1 = true → e.d2 = true → (s.postD c va e).mem = s.mem) := by
  let ad := bitAt (s.ptWord c.part 0) 2
  let t := if !e.d1 && !ad then s.orTable c.pen c.home e.leaf1 7 else s
  let u := if !e.d2 then t.orTable c.pen c.home e.leaf2 5 else t
  have hpost : s.postD c va e = u.modRun c.pen (fun x => x.modHit c.part va (fun e => { e with d1 := e.d1 || !ad, d2 := true })) := rfl
  have ht : s.Marks t c.pen ∧ s.SameWords t (s.runCopies c.pen c.home e.leaf1) ∧ (e.d1 = true → t = s) := by
    simp only [t]
    split
    next h => exact ⟨(State.marks_orTable ..).1, (State.marks_orTable ..).2, fun hd => by simp [hd] at h⟩
    next => exact ⟨.refl _ _, fun _ _ => rfl, fun _ => rfl⟩
  have hu : t.Marks u c.pen ∧ t.SameWords u (t.runCopies c.pen c.home e.leaf2) ∧ (e.d2 = true → u = t) := by
    simp only [u]
    split
    next h => exact ⟨(State.marks_orTable ..).1, (State.marks_orTable ..).2, fun hd => by simp [hd] at h⟩
    next => exact ⟨.refl _ _, fun _ _ => rfl, fun _ => rfl⟩
  clear_value t u
  obtain ⟨hmt, hwt, het⟩ := ht
  obtain ⟨hmu, hwu, heu⟩ := hu
  have hcopies (a : Nat) : t.runCopies c.pen c.home a = s.runCopies c.pen c.home a := by
    rw [State.runCopies, State.runCopies, hmt.isJoined]
  have hmem : (s.postD c va e).mem = u.mem := by rw [hpost, State.modRun]; split <;> rfl
  rw [hcopies] at hwu
  refine ⟨?_, ?_, fun h1 h2 => ?_⟩
  · rw [hpost]
    exact (hmt.trans hmu).trans (State.marks_modRun fun x => x.modHit_tlb _ _ _)
  · have hlast : u.SameWords (s.postD c va e) [] := .of_mem hmem
    exact ((hwt.trans hwu).trans hlast).mono fun a ha => by simpa using ha
  · rw [hmem, heu h2, het h1]

/-- The marks of a store to a half. -/
theorem State.marks_wroteTo (s : State) (c : Ctx) (h : Half) :
    s.Marks (s.wroteTo c h) c.pen ∧
    s.SameWords (s.wroteTo c h) (s.runCopies c.pen c.home h.e.leaf1 ++ s.runCopies c.pen c.home h.e.leaf2) ∧
    (h.e.d1 = true → h.e.d2 = true → (s.wroteTo c h).mem = s.mem) := by
  obtain ⟨hm, hw, hd⟩ := s.marks_postD c h.va h.e
  obtain ⟨hn, hmem, -⟩ := (s.postD c h.va h.e).marks_noteWrote c.pen h.cpa
  have hlast : (s.postD c h.va h.e).SameWords (s.wroteTo c h) [] := .of_mem hmem
  exact ⟨hm.trans hn, (hw.trans hlast).mono fun a ha => by simpa using ha, fun h1 h2 => hmem.trans (hd h1 h2)⟩

/-- Marks leave the store buffer and what a run needs. -/
theorem State.Marks.pen_field {β : Type} (h : s.Marks v p) (g : Pen → β)
    (hg : ∀ (x : Pen) tlb run, g { x with tlb := tlb, run := run } = g x := by intros; rfl) : g (v.pen p) = g (s.pen p) := by
  obtain ⟨-, hpen, -⟩ := h
  exact (hg _ _ _).symm.trans (congrArg g hpen)

theorem State.Marks.runs (h : s.Marks v p) {r : Run} (hr : s.runs p = some r) : ∃ r', v.runs p = some r' ∧ r'.Like r := by
  have hst : (v.pen p).st = (s.pen p).st := h.pen_field Pen.st
  obtain ⟨-, -, hrun, -⟩ := h
  simp only [State.runs] at hr
  split at hr
  · exact nomatch hr
  next x hx =>
    split at hr
    next hgo =>
      cases hr
      obtain ⟨r', hr', hlike⟩ := hrun.run_eq hx
      refine ⟨r', ?_, hlike⟩
      have hend : r'.linend = r.linend := (congrArg Run.linend hlike :)
      have hmode : r'.mode = r.mode := (congrArg Run.mode hlike :)
      simp only [State.runs, hr', hend, hmode, hst]
      exact if_pos hgo
    next => exact nomatch hr

end marks

/-! ### Reads of clean words -/

section reads

variable {t : State} {c : Ctx} {r : Run} {va : Word} {w : TWord} {cpa source : Nat} {n : Need}

theorem State.readWord_clean {cls : Option Nat} (h : t.peek cpa = .clean w) : t.readWord cpa source cls = (some w, t) := by
  rw [State.readWord, h]

theorem State.Holds.readRun (h : t.Holds c cpa w) : t.readRun c.pen c.home cpa source = (some w, t) := by
  obtain ⟨hown, hother⟩ := h
  simp only [State.readRun, State.readWord_clean hown]
  split
  next hj =>
    rw [Bool.and_eq_true] at hj
    obtain ⟨v, hv⟩ := hother hj.1 hj.2
    rw [State.readWord_clean hv]
  next => rfl

theorem State.Holds.readBank {hl : Half} {b : Bool} (h : t.Holds c hl.cpa w) : t.readBank c hl b = .ok w t := by
  simp only [State.readBank, h.readRun]

theorem State.resolve_hit {e : TlbEntry} {i : Instr} {kind : Access} {second : Bool} (h : t.xlat c va kind = .hit e) :
    t.resolve c i kind va second = .ok ⟨va, t.frameCpa c e va, e, second⟩ t := by rw [State.resolve, h]

theorem forwardOf_nil (ps : List (Nat × BitVec 8)) : forwardOf [] ps = .memory := rfl

theorem isInk_not (h : isInk cpa = true) : isRsv cpa = false ∧ isReg cpa = false := by
  have hlt : cpa < 0x2000000 := of_decide_eq_true h
  constructor
  · rw [isRsv, decide_eq_false (by omega), Bool.false_and]
  · rw [isReg, decide_eq_false (by omega), Bool.false_and]

theorem isRsv_not (h : isRsv cpa = true) : isInk cpa = false ∧ isReg cpa = false := by
  rw [isRsv, Bool.and_eq_true, decide_eq_true_eq, decide_eq_true_eq] at h
  constructor
  · exact decide_eq_false (by omega)
  · rw [isReg, decide_eq_false (by omega), Bool.false_and]

theorem Run.lig_iff : r.lig = true ↔ r.mode ≠ .duplex := decide_eq_true_iff

/-- An inkwell word that a run may read is not refused. -/
theorem State.refusal_readInk (hink : isInk cpa = true) (hpen : inkPen cpa = c.home)
    (hmir : r.mode = .duplex ∨ t.mirrored cpa = true) (hn : n.write = false) : t.refusal c r.lig n cpa = none := by
  have hlig : (r.lig && !t.mirrored cpa) = false := by
    obtain h | h := hmir
    · rw [Run.lig, decide_eq_false (not_not_intro h), Bool.false_and]
    · rw [h, Bool.not_true, Bool.and_false]
  simp only [State.refusal, hink, if_true, hpen, ne_eq, not_true_eq_false, if_false, hlig, Bool.false_eq_true, hn, Bool.and_false,
    Bool.false_and]

/-- An inkwell word that a run may write is not refused. -/
theorem State.refusal_writeInk (hink : isInk cpa = true) (hpen : inkPen cpa = c.home)
    (hmir : (r.mode = .duplex ∧ t.mirrored cpa = false) ∨ (r.mode ≠ .duplex ∧ t.mirrored cpa = true)) :
    t.refusal c r.lig n cpa = none := by
  have hlig : (r.lig && !t.mirrored cpa) = false ∧ (!r.lig && n.write && t.mirrored cpa) = false := by
    obtain ⟨hm, h⟩ | ⟨hm, h⟩ := hmir
    · rw [h, Run.lig, decide_eq_false (not_not_intro hm)]
      simp
    · rw [h, Run.lig, decide_eq_true hm]
      simp
  simp only [State.refusal, hink, if_true, hpen, ne_eq, not_true_eq_false, if_false, hlig, Bool.false_eq_true]

/-- A reservoir word that a run may read is not refused. -/
theorem State.refusal_readRsv (hrsv : isRsv cpa = true) (hready : t.bankReady cpa = true)
    (hmay : (t.rsvOf (rsvNum cpa)).owner = c.home ∨ bitAt (t.rsvOf (rsvNum cpa)).grant c.home = true) (hn : n.write = false) :
    t.refusal c r.lig n cpa = none := by
  have hmay' : (decide ((t.rsvOf (rsvNum cpa)).owner = c.home) || bitAt (t.rsvOf (rsvNum cpa)).grant c.home) = true := by
    rw [Bool.or_eq_true, decide_eq_true_eq]
    exact hmay
  simp only [State.refusal, (isRsv_not hrsv).1, hrsv, hn, hready, hmay', Bool.false_eq_true, if_false, if_true, Bool.not_true]

variable {fab : Bool}

/-- A word that is served passes its bus check, its store buffer and its bank. -/
theorem State.Serves.spec (h : t.Serves c r fab va w) : ∃ e, t.xlat c va .read = .hit e ∧ (t.pen c.pen).sb = [] ∧
    t.Holds c (t.frameCpa c e va) w ∧ isReg (t.frameCpa c e va) = false ∧
    (isRsv (t.frameCpa c e va) = true → fab = true) ∧
    ∀ n : Need, n.write = false → t.refusal c r.lig n (t.frameCpa c e va) = none := by
  obtain ⟨e, hx, hplace, hsb, hholds⟩ := h
  refine ⟨e, hx, hsb, hholds, ?_⟩
  generalize t.frameCpa c e va = a at hplace ⊢
  obtain ⟨hink, hpen, hmir⟩ | ⟨hfab, hrsv, hready, hmay⟩ := hplace
  · obtain ⟨hnot, hreg⟩ := isInk_not hink
    exact ⟨hreg, fun h => absurd h (ne_true_of_eq_false hnot), fun n => State.refusal_readInk hink hpen hmir⟩
  · exact ⟨(isRsv_not hrsv).2, fun _ => hfab, fun n => State.refusal_readRsv hrsv hready hmay⟩

theorem State.readChecked_ok {hl : Half} {lig : Bool} {rd : Res TWord} {chk : TWord → Except Exc Unit} (href : t.refusal c lig n hl.cpa = none)
    (hrd : rd = .ok w t) (hchk : chk w = .ok ()) : t.readChecked c lig n hl rd chk = .ok w t := by
  rw [State.readChecked, href, hrd]
  simp only [Res.bind, hchk]

/-- The load of a word that is served (R176). -/
theorem State.Serves.loadWord {i : Instr} {chk : TWord → Except Exc Unit} (h : t.Serves c r fab va w) (hchk : chk w = .ok ()) :
    t.loadWord c r.lig fab i va chk = .ok w t := by
  obtain ⟨e, hx, hsb, hholds, hreg, hrsv, href⟩ := h.spec
  have hfab : (onFabric (t.frameCpa c e va) && !fab) = false := by
    rw [onFabric, hreg, Bool.or_false]
    cases hr : isRsv (t.frameCpa c e va)
    · rfl
    · rw [hrsv hr]; rfl
  have htag : t.readTagged c ⟨va, t.frameCpa c e va, e, false⟩ = .ok w t := by
    simp only [State.readTagged, hsb, forwardOf_nil, hreg, reduceCtorEq, if_false, Bool.false_eq_true]
    exact State.Holds.readBank (hl := ⟨va, t.frameCpa c e va, e, false⟩) hholds
  simp only [State.loadWord, State.resolve_hit hx, Res.bind, hsb, forwardOf_nil, hfab, Bool.false_eq_true, if_false]
  exact State.readChecked_ok (href _ rfl) htag hchk

end reads

/-! ### Stores -/

section stores

variable {t : State} {c : Ctx} {r : Run} {va : Word} {cpa : Nat} {e : TlbEntry}

theorem State.Takes.refusal {n : Need} (h : t.Takes c r va e cpa) : t.refusal c r.lig n cpa = none := by
  obtain ⟨-, -, hink, hpen, hmir, -⟩ := h
  exact State.refusal_writeInk hink hpen hmir

theorem State.Takes.resolve {i : Instr} {second : Bool} (h : t.Takes c r va e cpa) :
    t.resolve c i .write va second = .ok ⟨va, cpa, e, second⟩ t := by
  obtain ⟨hx, hcpa, -⟩ := h
  rw [State.resolve_hit hx, hcpa]

/-- A page that is not versioned, or is the run's draft already, needs no first write. -/
theorem State.firstWrite_none {i : Instr} {h : Half} (hd : h.e.kind ≠ .versioned ∨ c.drafts.contains h.e.slot = true) :
    t.draftRefusal c [] h.e = some none ∧ freshSlot c h.e = [] ∧ t.firstWrite c i h = .ok () t := by
  have hnot : (decide (h.e.kind = .versioned) && !c.drafts.contains h.e.slot) = false := by
    obtain hk | hk := hd
    · rw [decide_eq_false hk, Bool.false_and]
    · rw [hk, Bool.not_true, Bool.and_false]
  have href : t.draftRefusal c [] h.e = some none := if_neg (by rw [hnot]; exact Bool.false_ne_true)
  have hfresh : freshSlot c h.e = [] := if_neg (by rw [hnot]; exact Bool.false_ne_true)
  exact ⟨href, hfresh, by rw [State.firstWrite, href]; exact if_pos hfresh⟩

theorem State.pushStore_room {p : Nat} {x : SbEntry} (h : (t.pen p).sbUsed + x.halves.length ≤ 4) :
    t.pushStore p x = t.modPen p (fun y => { y with sb := y.sb ++ [x] }) := by
  rw [State.pushStore, State.makeRoom, if_pos h]

/-- The store of a word to a page that takes it waits in the store buffer (R176, R205). -/
theorem State.Takes.storeWord {i : Instr} {w : TWord} (h : t.Takes c r va e cpa) (hroom : (t.pen c.pen).sbUsed + 1 ≤ 4) :
    t.storeWord c r.lig i va w = .ok () ((t.wroteTo c ⟨va, cpa, e, false⟩).modPen c.pen (fun x => { x with
      sb := x.sb ++ [⟨[⟨cpa, true, 0xFF, w⟩], if e.kind = .versioned then some e.slot else none⟩] })) := by
  have hd : e.kind ≠ .versioned ∨ c.drafts.contains e.slot = true := by
    obtain ⟨-, -, -, -, -, hd⟩ := h
    exact hd
  have hfirst : t.firstWrite c i ⟨va, cpa, e, false⟩ = .ok () t := (State.firstWrite_none hd).2.2
  have hused : ((t.wroteTo c ⟨va, cpa, e, false⟩).pen c.pen).sbUsed = (t.pen c.pen).sbUsed :=
    (State.marks_wroteTo t c ⟨va, cpa, e, false⟩).1.pen_field Pen.sbUsed
  simp only [State.storeWord, h.resolve, Res.bind, State.storeOk, State.judge, h.refusal, hfirst]
  rw [State.pushStore_room (by rw [hused]; exact hroom)]

end stores

end Sys2Proof.Machine
end

section
/-! Frames, exception entries and the flyleaf (R148, R220 to R235). -/

namespace Sys2Proof.Machine

/-! ### The status word of an entry -/

/-- The flags are the low bits of the status word. -/
theorem Pen.flags_of_bits {x y : Pen} (h : ∀ i, i < 4 → bitAt y.status i = bitAt x.status i) : y.flags = x.flags := by
  refine BitVec.eq_of_getLsbD_eq fun i hi => ?_
  rw [Pen.flags, Pen.flags, BitVec.getLsbD_setWidth, BitVec.getLsbD_setWidth]
  exact congrArg _ (h i hi)

/-- Bits of a handler's status word: `w` with EXEC entered, RS clear, FLY as given and a new level field. -/
def handlerStatus (w : Word) (fly : Bool) (level : Nat) : Word := setBits (setBit (setBit (setBit w 8 true) 9 false) 10 fly) 4 3 level

theorem handlerStatus_spec {w : Word} {fly : Bool} {level : Nat} (h : level < 8) :
    bitAt (handlerStatus w fly level) 8 = true ∧ bitAt (handlerStatus w fly level) 9 = false ∧
    bitAt (handlerStatus w fly level) 10 = fly ∧ bitsOf (handlerStatus w fly level) 4 3 = level ∧
    ∀ i, i < 4 → bitAt (handlerStatus w fly level) i = bitAt w i := by
  have hout (i : Nat) (hi : ¬(4 ≤ i ∧ i < 7)) :
      bitAt (handlerStatus w fly level) i = bitAt (setBit (setBit (setBit w 8 true) 9 false) 10 fly) i := by
    rw [handlerStatus, bitAt_setBits _ _ _ _ _ (by decide), if_neg hi]
  refine ⟨?_, ?_, ?_, bitsOf_setBits _ (by decide) h, fun i hi => ?_⟩
  · rw [hout 8 (by decide), bitAt_setBit _ _ (by decide), bitAt_setBit _ _ (by decide), bitAt_setBit _ _ (by decide)]
    rfl
  · rw [hout 9 (by decide), bitAt_setBit _ _ (by decide), bitAt_setBit _ _ (by decide)]
    rfl
  · rw [hout 10 (by decide), bitAt_setBit _ _ (by decide)]
    rfl
  · rw [hout i (by omega), bitAt_setBit _ _ (by decide), bitAt_setBit _ _ (by decide), bitAt_setBit _ _ (by decide),
      if_neg (by omega), if_neg (by omega), if_neg (by omega)]

theorem entryStatus_eq {w : Word} {level : Nat} {fly : Bool} (h : level ≤ 7) :
    entryStatus w level fly = handlerStatus w fly (min 7 (level + 1)) := by
  have hmin : (if level = 7 then 7 else level + 1) = min 7 (level + 1) := by split <;> omega
  rw [entryStatus, hmin, handlerStatus]

/-! ### What is complete -/

theorem Pen.complete_same (x : Pen) : x.Same x.complete :=
  Pen.Same.trans (x.writeLate_same _) (Pen.Same.trans (x.writeLate fun _ => true).writeMul_same rfl)

/-- Nothing is in flight on a completed pen (R227). -/
theorem Pen.complete_done (x : Pen) : x.complete.late = [] ∧ x.complete.mul = none := by
  have hlate : (x.writeLate fun _ => true).late = [] := by
    rw [Pen.writeLate, List.filter_eq_nil_iff]
    simp
  rw [Pen.complete]
  generalize x.writeLate (fun _ => true) = y at hlate
  cases hm : y.mul with
  | none => rw [Pen.writeMul, hm]; exact ⟨hlate, hm⟩
  | some m =>
    rw [Pen.writeMul_of_some hm]
    refine ⟨?_, rfl⟩
    have hfilter : (y.writeB m.reg m.val).late = y.late.filter (fun l => l.reg ≠ m.reg) := rfl
    refine Eq.trans hfilter ?_
    rw [hlate, List.filter_nil]

section frames

variable {s t : State} {p : Nat} {r : Run} {lo hi e : TlbEntry}

/-- A run that is not JOINED goes on in a state in which its pen holds the same run. -/
theorem State.runs_of_pen (h : s.runs p = some r) (hrun : (t.pen p).run = (s.pen p).run) (hst : (t.pen p).st = (s.pen p).st) :
    t.runs p = some r := by
  rw [State.runs] at h ⊢
  rw [hrun, hst]
  exact h

theorem State.isJoined_of_runs (h : s.runs p = some r) (hm : r.mode ≠ .joined) : s.isJoined p = false := by
  rw [State.isJoined_eq, State.run_of_runs h]
  exact decide_eq_false hm

/-! ### Frame pushes (R148, R228) -/

/-- The push of a frame word to a page that is not versioned and has D set. -/
theorem State.pushWord_plain {va : Word} {w : TWord} (hr : t.runs p = some r) (hk : e.kind ≠ .versioned) (h1 : e.d1 = true)
    (h2 : e.d2 = true) (hroom : (t.pen p).sbUsed + 1 ≤ 4) :
    ∃ u, t.Marks u p ∧ u.mem = t.mem ∧ t.pushWord p e va w = u.modPen p (fun x => { x with
      sb := x.sb ++ [⟨[⟨t.frameCpa (t.pushCtx p r) e va, true, 0xFF, w⟩], none⟩] }) := by
  have hplain : (decide (e.kind = .versioned) && !r.drafts.contains e.slot) = false := by
    rw [decide_eq_false hk, Bool.false_and]
  let u := t.wroteTo (t.pushCtx p r) ⟨va, t.frameCpa (t.pushCtx p r) e va, e, false⟩
  obtain ⟨hmarks, -, hmem⟩ := State.marks_wroteTo t (t.pushCtx p r) ⟨va, t.frameCpa (t.pushCtx p r) e va, e, false⟩
  have hmarks : t.Marks u p := hmarks
  have hused : (u.pen p).sbUsed = (t.pen p).sbUsed := hmarks.pen_field Pen.sbUsed
  refine ⟨u, hmarks, hmem h1 h2, ?_⟩
  have hpush : t.pushWord p e va w = u.pushStore p { halves := [⟨t.frameCpa (t.pushCtx p r) e va, true, 0xFF, w⟩] } := by
    simp only [State.pushWord, hr, hplain, Bool.false_eq_true, if_false]
    rfl
  rw [hpush, State.pushStore_room (by rw [hused]; exact hroom)]

/-- The CPA of a frame word on a page that is not versioned. -/
theorem State.frameCpa_of_home {c c' : Ctx} {va : Word} (hk : e.kind ≠ .versioned) (hh : c'.home = c.home) :
    t.frameCpa c' e va = s.frameCpa c e va := by
  cases hkind : e.kind with
  | versioned => exact absurd hkind hk
  | cpa => simp only [State.frameCpa, hkind]
  | loc => simp only [State.frameCpa, hkind, hh]

/-- Two pages that are not versioned and have D set, on which a frame lies. -/
def FramePages (lo hi : TlbEntry) : Prop :=
  lo.kind ≠ .versioned ∧ hi.kind ≠ .versioned ∧ lo.d1 = true ∧ lo.d2 = true ∧ hi.d1 = true ∧ hi.d2 = true

/-- A frame is pushed (R148): both words wait in the store buffer, the stack pointer moves, nothing else but marks. -/
theorem State.pushFrame_plain {ret stat : Word} (hr : t.runs p = some r) (hm : r.mode ≠ .joined) (hsb : (t.pen p).sb = [])
    (hpages : FramePages lo hi) :
    let sp := (t.pen p).spExec.val
    let c := t.pushCtx p r
    { t.pushFrame p lo hi ret stat with pens := t.pens } = t ∧ (∀ q, q ≠ p → (t.pushFrame p lo hi ret stat).pen q = t.pen q) ∧
    (t.pushFrame p lo hi ret stat).isJoined p = false ∧
    { (t.pushFrame p lo hi ret stat).pen p with tlb := (t.pen p).tlb, run := (t.pen p).run } = { t.pen p with
      sb := [⟨[⟨t.frameCpa c hi (sp - 8), true, 0xFF, TWord.cptr ret⟩], none⟩,
        ⟨[⟨t.frameCpa c lo (sp - 16), true, 0xFF, TWord.status stat⟩], none⟩]
      spExec := TWord.ptr (sp - 16) } := by
  intro sp c
  obtain ⟨hlok, hhik, hlo1, hlo2, hhi1, hhi2⟩ := hpages
  have hj := State.isJoined_of_runs hr hm
  let a : SbEntry := ⟨[⟨t.frameCpa c hi (sp - 8), true, 0xFF, TWord.cptr ret⟩], none⟩
  let b : SbEntry := ⟨[⟨t.frameCpa c lo (sp - 16), true, 0xFF, TWord.status stat⟩], none⟩
  obtain ⟨u, hmarks, hmem, hpush⟩ := State.pushWord_plain (va := sp - 8) (w := TWord.cptr ret) hr hhik hhi1 hhi2
    (by rw [Pen.sbUsed, hsb]; decide)
  obtain ⟨r', hr', hlike⟩ := hmarks.runs hr
  have hhome : r'.home = r.home := (congrArg Run.home hlike :)
  have hsb' : (u.pen p).sb = [] := (hmarks.pen_field Pen.sb).trans hsb
  let v := u.modPen p (fun x => { x with sb := x.sb ++ [a] })
  have hvpen : v.pen p = { u.pen p with sb := [a] } := by
    refine State.modPen_pen_same.trans ?_
    rw [hsb']
    rfl
  have hvruns : v.runs p = some r' := State.runs_of_pen hr' (by rw [hvpen]) (by rw [hvpen])
  have hcpa : v.frameCpa (v.pushCtx p r') lo (sp - 16) = t.frameCpa c lo (sp - 16) := State.frameCpa_of_home hlok hhome
  obtain ⟨w, hmarks', hmem', hpush'⟩ := State.pushWord_plain (va := sp - 16) (w := TWord.status stat) hvruns hlok hlo1 hlo2
    (by rw [hvpen, Pen.sbUsed]; exact Nat.le_refl 2 |>.trans (by decide))
  rw [hcpa] at hpush'
  have hframe : t.pushFrame p lo hi ret stat =
      (w.modPen p (fun x => { x with sb := x.sb ++ [b] })).modPen p (fun x => { x with spExec := TWord.ptr (sp - 16) }) := by
    have hv : t.pushWord p hi (sp - 8) (TWord.cptr ret) = v := hpush
    rw [← hpush', ← hv]
    rfl
  have hju : u.isJoined p = false := hmarks.isJoined.trans hj
  have hjv : v.isJoined p = false := by
    rw [State.isJoined_eq, hvpen, ← State.isJoined_eq]
    exact hju
  have hwpen : { w.pen p with tlb := (t.pen p).tlb, run := (t.pen p).run } = { t.pen p with sb := [a] } := by
    obtain ⟨-, hp, -⟩ := hmarks
    obtain ⟨-, hp', -⟩ := hmarks'
    rw [hvpen] at hp'
    exact (congrArg (fun x : Pen => ({ x with tlb := (t.pen p).tlb, run := (t.pen p).run } : Pen)) hp').trans
      (congrArg (fun x : Pen => ({ x with sb := [a] } : Pen)) hp)
  have hwsb : (w.pen p).sb = [a] := (congrArg Pen.sb hwpen :)
  have hlast : (t.pushFrame p lo hi ret stat).pen p = { w.pen p with sb := [a, b], spExec := TWord.ptr (sp - 16) } := by
    rw [hframe, State.modPen_pen_same, State.modPen_pen_same, hwsb]
    rfl
  refine ⟨?_, fun q hq => ?_, ?_, ?_⟩
  · have hw := (hmarks'.onlyPens hmem')
    have hu := (hmarks.onlyPens hmem)
    rw [hframe]
    exact (congrArg (fun x : State => ({ x with pens := t.pens } : State)) hw).trans hu
  · rw [hframe, State.modPen_pen_other hq, State.modPen_pen_other hq, hmarks'.pen_of_solo hjv q hq]
    exact (State.modPen_pen_other hq).trans (hmarks.pen_of_solo hj q hq)
  · have hjw : w.isJoined p = false := hmarks'.isJoined.trans hjv
    rw [State.isJoined_eq] at hjw ⊢
    rw [hlast]
    exact hjw
  · rw [hlast]
    exact (congrArg (fun x : Pen => ({ x with sb := [a, b], spExec := TWord.ptr (sp - 16) } : Pen)) hwpen :)

theorem State.countEntry_solo {fly : Bool} (hj : t.isJoined p = false) : t.countEntry p fly = t.modPen p (fun x => { x with
    excCnt := satInc 0xFFFFFFFF x.excCnt, flyCnt := if fly then satInc 0xFFFFFFFF x.flyCnt else x.flyCnt }) :=
  if_neg (ne_true_of_eq_false hj)

/-! ### Entries -/

/-- An entry whose stack and vector are good (R227, R228). -/
theorem State.enter_good {e : Exc} {level : Nat} {ret h : Word} {rs : Bool} (hcan : s.CanEnter p r e.vector h lo hi) (hl : level ≤ 7) :
    ∃ v, s.enter p r e level ret rs = some v ∧ s.Entered v p r e level ret rs h lo hi := by
  obtain ⟨hr, hm, hsb, hfly, hstack, hvector, hpages⟩ := hcan
  let t := s.modPen p Pen.complete
  have htp : t.pen p = (s.pen p).complete := State.modPen_pen_same
  have hrt : t.runs p = some r := State.runs_of_pen hr
    (by rw [htp]; exact (congrArg Pen.run (s.pen p).complete_same :)) (by rw [htp]; exact (congrArg Pen.st (s.pen p).complete_same :))
  have hsbt : (t.pen p).sb = [] := by
    rw [htp]
    exact (congrArg Pen.sb (s.pen p).complete_same :).trans hsb
  obtain ⟨hlate, hmul⟩ := (s.pen p).complete_done
  obtain ⟨hback, hothers, hj, hpen⟩ := State.pushFrame_plain (ret := ret) (stat := setBit (t.pen p).status 9 rs) hrt hm hsbt hpages
  let w := t.pushFrame p lo hi ret (setBit (t.pen p).status 9 rs)
  let v := (w.countEntry p false).modPen p (fun x => { x.enterAt h level false with
    syn := synWord e.vector level (e.level < level) e, synAddr := e.addr })
  have henter : s.enter p r e level ret rs = some v := by
    have hfly' : (s.modPen p Pen.complete).flySpent p r.part 16 = false := hfly
    simp only [State.enter, hfly', hstack, hvector, Bool.false_eq_true, if_false]
    rfl
  have hcount : w.countEntry p false = w.modPen p (fun x => { x with
      excCnt := satInc 0xFFFFFFFF x.excCnt, flyCnt := if false then satInc 0xFFFFFFFF x.flyCnt else x.flyCnt }) :=
    State.countEntry_solo hj
  have hvpen : v.pen p = { ({ w.pen p with excCnt := satInc 0xFFFFFFFF (w.pen p).excCnt } : Pen).enterAt h level false with
      syn := synWord e.vector level (e.level < level) e, synAddr := e.addr } := by
    refine State.modPen_pen_same.trans ?_
    rw [hcount, State.modPen_pen_same]
    rfl
  have honly : OnlyPens [p] s v := by
    have hvw : OnlyPens [p] w v := by
      have hv : v = (w.modPen p (fun x => { x with
          excCnt := satInc 0xFFFFFFFF x.excCnt, flyCnt := if false then satInc 0xFFFFFFFF x.flyCnt else x.flyCnt })).modPen p
          (fun x => { x.enterAt h level false with syn := synWord e.vector level (e.level < level) e, synAddr := e.addr }) := by
        rw [← hcount]
      rw [hv]
      exact OnlyPens.trans onlyPens_modPen onlyPens_modPen
    have htw : OnlyPens [p] t w := ⟨hback, fun q hq => hothers q (by simpa using hq)⟩
    exact (OnlyPens.trans onlyPens_modPen htw).trans hvw
  have hpen : { w.pen p with tlb := (t.pen p).tlb, run := (t.pen p).run } = _ := hpen
  rw [htp] at hpen
  generalize w.pen p = y at hvpen hpen
  have hst : y.status = (s.pen p).complete.status := (congrArg Pen.status hpen :)
  obtain ⟨h8, h9, h10, hlevel, hlow⟩ := handlerStatus_spec (w := y.status) (fly := false) (level := min 7 (level + 1)) (by omega)
  rw [← entryStatus_eq hl] at h8 h9 h10 hlevel hlow
  refine ⟨v, henter, ?_⟩
  refine ⟨?_, ?_, ?_, ?_, ?_, ?_, ?_, ?_, ?_, ?_, ?_, ?_, ?_, ?_, ?_, ?_, ?_, ?_, ?_, honly⟩
  all_goals rw [hvpen]
  · rfl
  · rfl
  · exact (congrArg Pen.spExec hpen :)
  · exact (congrArg Pen.sb hpen :)
  · exact h8
  · exact h9
  · exact h10
  · exact hlevel
  · refine Pen.flags_of_bits fun i hi => ?_
    rw [← hst]
    exact hlow i hi
  · exact congrArg (satInc 0xFFFFFFFF) (congrArg Pen.excCnt hpen :)
  · rfl
  · exact (congrArg Pen.late hpen :).trans hlate
  · exact (congrArg Pen.mul hpen :).trans hmul
  · exact (congrArg Pen.regs hpen :)
  · exact (congrArg Pen.spTask hpen :)
  · exact (congrArg Pen.sealed hpen :)
  · exact (congrArg Pen.ipiPend hpen :)

/-- A synchronous exception whose stack and vector are good. -/
theorem State.takeExc_good {e : Exc} {h : Word} {rs : Bool} (hcan : s.CanEnter p r e.vector h lo hi) :
    ∃ v, s.takeExc p e rs = some v ∧
      s.Entered v p r e (min 7 (max e.level (s.pen p).maskLevel)) (s.pen p).pc (rs || bitAt (s.pen p).status 9) h lo hi := by
  obtain ⟨v, hv, hentered⟩ := State.enter_good (level := min 7 (max e.level (s.pen p).maskLevel)) (ret := (s.pen p).pc)
    (rs := rs || bitAt (s.pen p).status 9) hcan (Nat.min_le_left _ _)
  refine ⟨v, ?_, hentered⟩
  have hr : s.runs p = some r := hcan.1
  rw [State.takeExc, hr]
  exact hv

end frames

end Sys2Proof.Machine
end

section
/-! The flyleaf entry, interrupts and faults of the fetch (R201, R214, R234, R241). -/

namespace Sys2Proof.Machine

section flyleaf

variable {s t : State} {p : Nat} {r : Run}

theorem State.Marks.px_eq (h : s.Marks t p) : t.px = s.px := by
  obtain ⟨hb, -⟩ := h
  exact (congrArg State.px hb :)

theorem State.Marks.flyVa_eq {part : Nat} (h : s.Marks t p) : t.flyVa part = s.flyVa part := by
  rw [State.flyVa, State.flyVa, State.pxWord, State.pxWord, h.px_eq]

/-- A pen reaches the words of its own inkwells where they lie. -/
theorem ownCopy_self {p off : Nat} (h : off < 0x80000) : ownCopy p p (inkBase p + off) = inkBase p + off := by
  rw [ownCopy]
  split
  next =>
    have hmod : (inkBase p + off) % 0x80000 = off := by rw [inkBase]; omega
    rw [hmod]
  next => rfl

/-- A vector that has been read without an error stands in bank 0 (R222). -/
theorem State.readVector_some {v : Nat} {h : Word} (hj : t.isJoined p = false) (hv : v < 32) (hread : t.readVector p v = (some h, t)) :
    (∃ w, w.tag = Tag.cptr ∧ w.val = h ∧ t.readWord (inkBase p + 0x3FE00 + 8 * v) srcPen = (some w, t)) ∧
    t.peekVal (inkBase p + 0x3FE00 + 8 * v) = h := by
  have hown : ownCopy p p (inkBase p + 0x3FE00 + 8 * v) = inkBase p + 0x3FE00 + 8 * v := by
    rw [Nat.add_assoc]
    exact ownCopy_self (by omega)
  have hrun : t.readRun p p (inkBase p + 0x3FE00 + 8 * v) srcPen = t.readWord (inkBase p + 0x3FE00 + 8 * v) srcPen := by
    simp only [State.readRun, hj, Bool.false_and, hown]
    rfl
  simp only [State.readVector, hrun] at hread
  generalize inkBase p + 0x3FE00 + 8 * v = a at hread ⊢
  cases hw : t.readWord a srcPen with
  | mk o u =>
    rw [hw] at hread
    cases o with
    | none => exact nomatch congrArg Prod.fst hread
    | some w =>
      dsimp only at hread
      split at hread
      next htag =>
        have hval : w.val = h := Option.some.inj (congrArg Prod.fst hread)
        have hu : u = t := congrArg Prod.snd hread
        refine ⟨⟨w, htag, hval, by rw [hu]⟩, ?_⟩
        rw [← hval, State.peekVal]
        rw [State.readWord] at hw
        split at hw
        next x hx => rw [hx, ← Option.some.inj (congrArg Prod.fst hw)]; rfl
        next x _ hx => rw [hx, ← Option.some.inj (congrArg Prod.fst hw)]; rfl
        next => exact nomatch congrArg Prod.fst hw
        next => exact nomatch congrArg Prod.fst hw
      next => exact nomatch congrArg Prod.fst hread

theorem State.badWord_clean {a : Nat} (h : ∃ f, t.peek a = .clean f) : t.badWord a = false := by
  obtain ⟨f, hf⟩ := h
  rw [State.badWord, hf]
  rfl

/-- A flyleaf whose vector and frame words are good (R235). -/
theorem State.flyBad_good {h : Word} (hj : t.isJoined p = false) (hvector : t.readVector p 12 = (some h, t))
    (h8 : ∃ f, t.peek (inkBase p + 0x3FFF8) = .clean f) (h0 : ∃ f, t.peek (inkBase p + 0x3FFF0) = .clean f) :
    t.flyBad p = (false, t) := by
  obtain ⟨⟨w, htag, -, hread⟩, -⟩ := State.readVector_some hj (by decide) hvector
  have hnone : [0x3FFF8, 0x3FFF0].filter (fun o => t.badWord (inkBase p + o)) = [] := by
    rw [List.filter_eq_nil_iff]
    intro o ho
    obtain rfl | rfl : o = 0x3FFF8 ∨ o = 0x3FFF0 := by simpa using ho
    · exact ne_true_of_eq_false (State.badWord_clean h8)
    · exact ne_true_of_eq_false (State.badWord_clean h0)
  simp only [State.flyBad, hread, hnone, htag, ne_eq, not_true_eq_false, decide_false, Bool.or_self]
  rfl

/-- The flyleaf entry of a run that is not JOINED, with an empty store buffer (R234). -/
theorem State.flyEntry_good {y : FlyWhy} {h ret stat : Word} (hr : t.runs p = some r) (hm : r.mode ≠ .joined)
    (hfly : bitAt (t.pen p).status 10 = false) (hsb : (t.pen p).sb = []) (hvector : t.readVector p 12 = (some h, t))
    (h8 : ∃ f, t.peek (inkBase p + 0x3FFF8) = .clean f) (h0 : ∃ f, t.peek (inkBase p + 0x3FFF0) = .clean f) :
    t.flyEntry p r y ret stat = t.flyGo p y ret stat := by
  have hpens : runPens p r = [p] := if_neg hm
  have hdrain : t.drainAll p = t := by
    rw [State.drainAll, hsb]
    rfl
  have hbad := State.flyBad_good (State.isJoined_of_runs hr hm) hvector h8 h0
  simp only [State.flyEntry, hfly, hpens, hdrain, List.foldl_cons, List.foldl_nil, hbad, Bool.false_eq_true, if_false]

/-- The two words of a flyleaf frame (R234). -/
def State.flyWords (t : State) (p : Nat) (ret stat : Word) : State :=
  (t.poke (inkBase p + 0x3FFF8) (TWord.cptr ret)).poke (inkBase p + 0x3FFF0) (TWord.status stat)

theorem State.flyWords_spec {ret stat : Word} :
    { t.flyWords p ret stat with mem := t.mem } = t ∧
    (t.flyWords p ret stat).peek (inkBase p + 0x3FFF8) = .clean (TWord.cptr ret) ∧
    (t.flyWords p ret stat).peek (inkBase p + 0x3FFF0) = .clean (TWord.status stat) ∧
    ∀ c, c / 16 ≠ (inkBase p + 0x3FFF0) / 16 → (t.flyWords p ret stat).peekCode c = t.peekCode c := by
  have hne : (inkBase p + 0x3FFF8) / 8 ≠ (inkBase p + 0x3FFF0) / 8 := by omega
  have hin (c : Nat) (h : c / 16 ≠ (inkBase p + 0x3FFF0) / 16) :
      c / 8 ≠ (inkBase p + 0x3FFF8) / 8 ∧ c / 8 ≠ (inkBase p + 0x3FFF0) / 8 := by
    rw [inkBase] at h ⊢
    omega
  refine ⟨?_, ?_, State.poke_peek_same, fun c hc => ?_⟩
  · have h1 := State.poke_back t (inkBase p + 0x3FFF8) (TWord.cptr ret)
    have h2 := State.poke_back (t.poke (inkBase p + 0x3FFF8) (TWord.cptr ret)) (inkBase p + 0x3FFF0) (TWord.status stat)
    rw [State.flyWords]
    generalize (t.poke (inkBase p + 0x3FFF8) (TWord.cptr ret)).poke (inkBase p + 0x3FFF0) (TWord.status stat) = v at h2 ⊢
    exact (congrArg (fun x : State => ({ x with mem := t.mem } : State)) h2).trans h1
  · rw [State.flyWords, State.poke_peek_other hne, State.poke_peek_same]
  · obtain ⟨h8, h0⟩ := hin c hc
    rw [State.flyWords, State.poke_peekCode_other h0, State.poke_peekCode_other h8]

/-- The syndrome of a flyleaf entry (R231). -/
theorem synWord_fly {orig b : Nat} {esc w : Bool} (ho : orig < 32) (hb : b < 256) :
    let y := synWord orig 7 esc { vector := 12, level := 7, detail := 1, bcause := b, write := w }
    bitsOf y 0 5 = 12 ∧ bitsOf y 5 5 = orig ∧ bitsOf y 10 3 = 7 ∧ bitsOf y 14 4 = 1 ∧ bitsOf y 28 8 = b ∧ bitAt y 63 = true := by
  intro y
  have he := bitN_le esc
  have hw := bitN_le w
  have hf : bitN false = 0 := rfl
  have hy : y = BitVec.ofNat 64 (12 + orig * 2 ^ 5 + 7 * 2 ^ 10 + bitN esc * 2 ^ 13 + 2 ^ 14 + b * 2 ^ 28 + bitN w * 2 ^ 47 + 2 ^ 63) := by
    simp only [y, synWord, hf]
    exact congrArg _ (by omega)
  rw [hy]
  refine ⟨?_, ?_, ?_, ?_, ?_, ?_⟩
  · rw [bitsOf_ofNat _ _ _ (by decide)]; omega
  · rw [bitsOf_ofNat _ _ _ (by decide)]; omega
  · rw [bitsOf_ofNat _ _ _ (by decide)]; omega
  · rw [bitsOf_ofNat _ _ _ (by decide)]; omega
  · rw [bitsOf_ofNat _ _ _ (by decide)]; omega
  · rw [bitAt_ofNat _ _ (by decide)]; exact decide_eq_true (by omega)

/-- A pen that enters the flyleaf's handler `h` (R234), with the stack pointer at `va`. -/
def Pen.flyAt (x : Pen) (y : FlyWhy) (h : Word) (va : Nat) : Pen := { x.enterAt h 7 true with
  spExec := TWord.ptr (BitVec.ofNat 64 va)
  syn := synWord y.orig 7 ((if y.orig = 0 then 4 else vectorLevel y.orig) < 7)
    { vector := 12, level := 7, detail := y.detail, bcause := y.bcause, write := y.write }
  synAddr := y.addr }

/-- The flyleaf entry of a run that is not JOINED, written out. -/
theorem State.flyGo_solo {y : FlyWhy} {ret stat : Word} (hr : t.runs p = some r) (hm : r.mode ≠ .joined) :
    t.flyGo p y ret stat = (((t.flyWords p ret stat).noteWrote p (inkBase p + 0x3FFF0)).countEntry p true).modPen p (fun x =>
      x.flyAt y (t.peekVal (inkBase p + 0x3FE00 + 8 * 12))
        (((t.flyWords p ret stat).noteWrote p (inkBase p + 0x3FFF0)).flyVa r.part + 0xFF0)) := by
  have hpens : runPens p r = [p] := if_neg hm
  unfold State.flyGo
  rw [hr]
  dsimp only
  rw [hpens, List.foldl_cons, List.foldl_nil]
  unfold State.flyWords Pen.flyAt
  with_reducible rfl

/-- A pen whose entry is counted, on the flyleaf too (R246). -/
def Pen.flyCounted (x : Pen) : Pen := { x with excCnt := satInc 0xFFFFFFFF x.excCnt, flyCnt := satInc 0xFFFFFFFF x.flyCnt }

/-- What the entry leaves from the state `u`, in which the frame has been written. -/
theorem State.flyEnter_spec {u : State} {g : Pen → Pen} (hmarks : t.Marks u p) (hj : t.isJoined p = false) :
    let v := (u.countEntry p true).modPen p g
    { v with pens := t.pens, mem := t.mem } = t ∧ (∀ q, q ≠ p → v.pen q = t.pen q) ∧ v.mem = u.mem ∧
    ∃ x : Pen, { x with tlb := (t.pen p).tlb, run := (t.pen p).run } = t.pen p ∧ v.pen p = g x.flyCounted := by
  intro v
  have hju : u.isJoined p = false := hmarks.isJoined.trans hj
  have hv : v = (u.modPen p Pen.flyCounted).modPen p g := congrArg (fun x : State => x.modPen p g) (State.countEntry_solo hju)
  clear_value v
  subst hv
  have hothers := hmarks.pen_of_solo hj
  obtain ⟨hb, hp, -, -⟩ := hmarks
  refine ⟨((State.modPen_drop _ t p g).trans (State.modPen_drop u t p _)).trans hb, fun q hq => ?_, rfl, u.pen p, hp, ?_⟩
  · rw [State.modPen_pen_other hq, State.modPen_pen_other hq]
    exact hothers q hq
  · rw [State.modPen_pen_same, State.modPen_pen_same]

/-- What the flyleaf entry leaves (R234). -/
theorem State.flyGo_spec {y : FlyWhy} {ret stat : Word} (hr : t.runs p = some r) (hm : r.mode ≠ .joined) :
    let v := t.flyGo p y ret stat
    { v with pens := t.pens, mem := t.mem } = t ∧ (∀ q, q ≠ p → v.pen q = t.pen q) ∧ v.mem = (t.flyWords p ret stat).mem ∧
    ∃ x : Pen, { x with tlb := (t.pen p).tlb, run := (t.pen p).run } = t.pen p ∧
      v.pen p = x.flyCounted.flyAt y (t.peekVal (inkBase p + 0x3FE00 + 8 * 12)) (t.flyVa r.part + 0xFF0) := by
  intro v
  have hj := State.isJoined_of_runs hr hm
  have hback := (State.flyWords_spec (t := t) (p := p) (ret := ret) (stat := stat)).1
  have hv : v = _ := State.flyGo_solo hr hm
  generalize t.flyWords p ret stat = w at hback hv ⊢
  obtain ⟨hmarks, hmem, -⟩ := w.marks_noteWrote p (inkBase p + 0x3FFF0)
  have hmarks' := (State.marks_of_mem (p := p) hback).trans hmarks
  generalize w.noteWrote p (inkBase p + 0x3FFF0) = u at hv hmem hmarks'
  rw [hmarks'.flyVa_eq] at hv
  obtain ⟨h1, h2, h3, h4⟩ := State.flyEnter_spec (g := fun x => x.flyAt y (t.peekVal (inkBase p + 0x3FE00 + 8 * 12))
    (t.flyVa r.part + 0xFF0)) hmarks' hj
  rw [← hv] at h1 h2 h3 h4
  exact ⟨h1, h2, h3.trans hmem, h4⟩

end flyleaf

end Sys2Proof.Machine
end

section
/-! The obligations of exception entries, interrupts and faults of the fetch. -/

namespace Sys2Proof.Machine

section entries

variable {s : State} {p : Nat} {r : Run}

/-- An exception whose stack fails its check, with a good flyleaf (R234, R235). -/
theorem State.takeExc_flyleaf {t : State} {e : Exc} {b : Nat} {w : Bool} {a h : Word} (ht : s.modPen p Pen.complete = t)
    (hr : s.runs p = some r) (hm : r.mode ≠ .joined) (hspent : t.flySpent p r.part 16 = false)
    (hstack : t.stackCheck p r = (.bad b w a, t)) (hfly : bitAt (s.pen p).complete.status 10 = false)
    (hvector : t.readVector p 12 = (some h, t)) (hsb : (s.pen p).complete.sb = [])
    (h8 : ∃ f, t.peek (inkBase p + 0x3FFF8) = .clean f) (h0 : ∃ f, t.peek (inkBase p + 0x3FFF0) = .clean f) :
    s.takeExc p e = some (t.flyGo p ⟨e.vector, 1, b, w, a⟩ (s.pen p).pc
      (setBit (s.pen p).complete.status 9 (bitAt (s.pen p).status 9))) ∧ t.runs p = some r := by
  have htp : t.pen p = (s.pen p).complete := by rw [← ht, State.modPen_pen_same]
  have hrt : t.runs p = some r := State.runs_of_pen hr
    (by rw [htp]; exact (congrArg Pen.run (s.pen p).complete_same :)) (by rw [htp]; exact (congrArg Pen.st (s.pen p).complete_same :))
  refine ⟨?_, hrt⟩
  simp only [State.takeExc, hr, State.enter, ht, hspent, hstack, htp, Bool.false_or, Bool.false_eq_true, if_false]
  exact congrArg some (State.flyEntry_good hrt hm (by rw [htp]; exact hfly) (by rw [htp]; exact hsb) hvector h8 h0)

/-- The pen after an entry to the flyleaf. -/
theorem Pen.flyAt_spec {x z : Pen} {y : FlyWhy} {h : Word} {va : Nat} (hx : { x with tlb := z.tlb, run := z.run } = z) :
    let v := x.flyCounted.flyAt y h va
    v.pc = h ∧ v.fbuf = none ∧ v.spExec = TWord.ptr (BitVec.ofNat 64 va) ∧ bitAt v.status 8 = true ∧ bitAt v.status 10 = true ∧
    v.maskLevel = 7 ∧ v.flags = z.flags ∧ v.flyCnt = satInc 0xFFFFFFFF z.flyCnt := by
  intro v
  have hst : x.status = z.status := (congrArg Pen.status hx :)
  have hv : v.status = handlerStatus z.status true 7 := by
    rw [← hst]
    exact entryStatus_eq (w := x.status) (level := 7) (Nat.le_refl 7)
  obtain ⟨h8, -, h10, hlevel, hlow⟩ := handlerStatus_spec (w := z.status) (fly := true) (level := 7) (by decide)
  refine ⟨rfl, rfl, rfl, ?_, ?_, ?_, Pen.flags_of_bits fun i hi => ?_, ?_⟩
  · rw [hv, h8]
  · rw [hv, h10]
  · rw [Pen.maskLevel, hv, hlevel]
  · rw [hv, hlow i hi]
  · have hcnt : x.flyCnt = z.flyCnt := (congrArg Pen.flyCnt hx :)
    rw [← hcnt]
    rfl

/-- The lists of interrupts on their way around the one that arrives. -/
theorem find?_middle {α : Type} [DecidableEq α] {a b : List α} {f : α} {due : α → Bool} (ha : ∀ g ∈ a, due g = false) (hf : due f = true) :
    (a ++ f :: b).find? due = some f ∧ (a ++ f :: b).erase f = a ++ b := by
  have hnone : a.find? due = none := List.find?_eq_none.mpr fun g hg => ne_true_of_eq_false (ha g hg)
  have hnot : f ∉ a := fun h => ne_true_of_eq_false (ha f h) hf
  refine ⟨?_, ?_⟩
  · rw [List.find?_append, hnone, List.find?_cons_of_pos hf]
    rfl
  · rw [List.erase_append_right _ hnot, List.erase_cons_head]

end entries

end Sys2Proof.Machine

namespace Sys2Proof.Exceptions

open Sys2Proof.Machine

/-- Settles O25: the entry with a good stack, and the one that goes to the flyleaf. -/
theorem exceptionEntry : Obligations.ExceptionEntry := by
  refine ⟨fun s p r e rs h lo hi hcan => State.takeExc_good hcan, ?_⟩
  intro s p r e b w a h t x hr hm hspent hstack hfly hvector hvec hb hsb h8 h0
  have htp : t.pen p = x := State.modPen_pen_same
  have hto (q : Nat) (hq : q ≠ p) : t.pen q = s.pen q := State.modPen_pen_other hq
  have htcode (c : Nat) : t.peekCode c = s.peekCode c := rfl
  have htback : { t with pens := s.pens, mem := s.mem } = s := rfl
  have htva : t.flyVa r.part = s.flyVa r.part := rfl
  have ht : s.modPen p Pen.complete = t := rfl
  clear_value t
  obtain ⟨htake, hrt⟩ := State.takeExc_flyleaf (e := e) ht hr hm hspent hstack hfly hvector hsb h8 h0
  have hval : t.peekVal (inkBase p + 0x3FE00 + 8 * 12) = h :=
    (State.readVector_some (State.isJoined_of_runs hrt hm) (by decide) hvector).2
  obtain ⟨hback, hothers, hmem, z, hz, hpen⟩ := State.flyGo_spec (y := ⟨e.vector, 1, b, w, a⟩) (ret := (s.pen p).pc)
    (stat := setBit (s.pen p).complete.status 9 (bitAt (s.pen p).status 9)) hrt hm
  obtain ⟨-, hpeek8, hpeek0, hcode⟩ := State.flyWords_spec (t := t) (p := p) (ret := (s.pen p).pc)
    (stat := setBit (s.pen p).complete.status 9 (bitAt (s.pen p).status 9))
  refine ⟨_, htake, ?_⟩
  rw [hval, htva] at hpen
  rw [htp] at hz
  generalize t.flyGo p ⟨e.vector, 1, b, w, a⟩ (s.pen p).pc (setBit (s.pen p).complete.status 9 (bitAt (s.pen p).status 9)) = v
    at hback hothers hmem hpen ⊢
  generalize t.flyWords p (s.pen p).pc (setBit (s.pen p).complete.status 9 (bitAt (s.pen p).status 9)) = f at hmem hpeek8 hpeek0 hcode
  have hsame (c : Nat) : v.peekCode c = f.peekCode c := by rw [State.peekCode, State.peekCode, hmem]
  obtain ⟨hpc, hfbuf, hsp, hst8, hst10, hlevel, hflags, hcnt⟩ := Pen.flyAt_spec (y := ⟨e.vector, 1, b, w, a⟩) (h := h)
    (va := s.flyVa r.part + 0xFF0) hz
  obtain ⟨hsyn0, hsyn5, hsyn10, hsyn14, hsyn28, hsyn63⟩ := synWord_fly (orig := e.vector)
    (esc := decide ((if e.vector = 0 then 4 else vectorLevel e.vector) < 7)) (w := w) hvec hb
  refine ⟨?_, fun q hq => (hothers q hq).trans (hto q hq), ?_, ?_, fun c hc => ?_, ?_⟩
  · exact (congrArg (fun x : State => ({ x with pens := s.pens, mem := s.mem } : State)) hback).trans htback
  · exact (State.peek_of_code (hsame _)).trans hpeek8
  · exact (State.peek_of_code (hsame _)).trans hpeek0
  · rw [hsame, hcode c hc, htcode]
  · rw [hpen]
    exact ⟨hpc, hfbuf, hsp, hst8, hst10, hlevel, hflags, rfl, hsyn0, hsyn5, hsyn10, hsyn14, hsyn28, hsyn63, hcnt⟩

/-- Settles O27: the entry of an accepted interrupt, and the arrival of the oldest of a level. -/
theorem interruptsComplete : Obligations.InterruptsComplete := by
  refine ⟨?entry, ?arrive⟩
  case entry =>
    intro s p r l h lo hi hirq hhold hblk t hcan
    have hl : l ≤ 7 := ((s.pen p.val).irqLevel_eq_some_iff l).mp hirq |>.1.2.1
    let u := s.modPen p.val (fun x => { x with hold := .none })
    have hup : u.pen p.val = { s.pen p.val with hold := .none } := State.modPen_pen_same
    have htp : t.pen p.val = { s.pen p.val with
        hold := .none, ipiPend := (s.pen p.val).ipiPend &&& ~~~BitVec.ofNat 8 (2 ^ l) } := by
      refine State.modPen_pen_same.trans ?_
      rw [hup]
    have hrt : t.runs p.val = some r := hcan.1
    have hrs : s.runs p.val = some r := State.runs_of_pen hrt (by rw [htp]) (by rw [htp])
    have hru : u.runs p.val = some r := State.runs_of_pen hrs (by rw [hup]) (by rw [hup])
    have hirqu : (u.pen p.val).irqLevel = some l := by
      rw [hup]
      exact hirq
    obtain ⟨v, hv, hentered⟩ := State.enter_good (e := { vector := 16 + l, level := l }) (level := l) (ret := (s.pen p.val).pc)
      (rs := bitAt (s.pen p.val).status 9) hcan hl
    have hdrop : s.dropCopy p.val = s := by rw [State.dropCopy, hhold]
    have haccept : u.acceptIrq p.val false = some v := by
      rw [State.acceptIrq, hru, hirqu]
      dsimp only
      rw [hup, Bool.false_or]
      exact hv
    have hdue : ((s.runs p.val).isSome && (s.pen p.val).irqLevel.isSome && (s.pen p.val).yields) = true := by
      rw [hrs, hirq, Pen.yields, hhold]
      rfl
    have hexec : exec (.interruptEntry p) s = .next v := by
      refine (exec_of_due (c := .interruptEntry p) (s := s) (f := fun s => s.interrupt p.val) rfl hdue).trans (congrArg _ ?_)
      simp only [State.interrupt, hdrop, hblk, ne_eq, not_true_eq_false, decide_false]
      have hu : s.modPen p.val (fun x => { x with hold := .none }) = u := rfl
      rw [hu, haccept]
      rfl
    have htv : OnlyPens [p.val] t v := by
      obtain ⟨-, -, -, -, -, -, -, -, -, -, -, -, -, -, -, -, -, -, -, honly⟩ := hentered
      exact honly
    have hpend : (v.pen p.val).ipiPend = (s.pen p.val).ipiPend &&& ~~~BitVec.ofNat 8 (2 ^ l) := by
      obtain ⟨-, -, -, -, -, -, -, -, -, -, -, -, -, -, -, -, -, -, hpend, -⟩ := hentered
      rw [hpend, htp]
      exact (congrArg Pen.ipiPend (Pen.complete_same _) :)
    refine ⟨v, hexec, hentered, fun m => ?_, (OnlyPens.trans onlyPens_modPen onlyPens_modPen).trans htv⟩
    rw [hpend, BitVec.getLsbD_and, BitVec.getLsbD_not, BitVec.getLsbD_ofNat, Nat.testBit_two_pow]
    by_cases hm : m < 8
    · by_cases hlm : l = m
      · simp [hlm]
      · simp [hm, hlm, Ne.symm hlm]
    · rw [BitVec.getLsbD_of_ge _ _ (by omega), Bool.false_and, Bool.false_and]
  case arrive =>
    intro s p level due
    have hdueEq : s.ipiDue p.val level.toNat = s.ipiFly.find? due := rfl
    refine ⟨?_, fun hnone => ?_⟩
    · intro a b f hfly ha hf q t
      obtain ⟨hfind, herase⟩ := find?_middle (b := b) ha hf
      have hfound : s.ipiDue p.val level.toNat = some f := by rw [hdueEq, hfly, hfind]
      have htarget : f.target = p.val ∧ f.level = level.toNat := by
        simp only [due, Bool.and_eq_true, decide_eq_true_eq] at hf
        exact hf.1
      obtain ⟨htarget, hlevel⟩ := htarget
      have hexec : exec (.ipiArrive p level) s = .next (s.ipiArrive f) := by
        refine (exec_of_due (c := .ipiArrive p level) (s := s) (f := fun s => match s.ipiDue p.val level.toNat with
          | some f => s.ipiArrive f
          | none => s) rfl (by rw [hfound]; rfl)).trans (congrArg _ ?_)
        rw [hfound]
      have ht : ({ s with ipiFly := s.ipiFly.erase f } : State) = t := by rw [hfly, herase]
      have harrive : s.ipiArrive f = if s.runLive q then t.modPen q (fun x => { x with
            ipiPend := x.ipiPend ||| BitVec.ofNat 8 (2 ^ level.toNat) })
          else t.modPen p.val (fun x => { x with ipiDrop := satInc 0xFFFFFFFF x.ipiDrop }) := by
        have hq : t.ipiTarget p.val = q := rfl
        have hlive : t.runLive q = s.runLive q := rfl
        rw [State.ipiArrive, ht, htarget, hlevel, hq, hlive]
      have hpen (k : Nat) : t.pen k = s.pen k := rfl
      refine ⟨s.ipiArrive f, hexec, ?_, fun hlive => ?_, fun hdead => ?_⟩
      · rw [harrive]
        split
        · exact ⟨rfl, fun k hk => State.modPen_pen_other fun h => hk (by simp [h])⟩
        · exact ⟨rfl, fun k hk => State.modPen_pen_other fun h => hk (by simp [h])⟩
      · rw [harrive, if_pos hlive]
        exact ⟨State.modPen_pen_same, fun hne => State.modPen_pen_other (Ne.symm hne)⟩
      · rw [harrive, if_neg (ne_true_of_eq_false hdead)]
        exact ⟨State.modPen_pen_same, fun hne => State.modPen_pen_other hne⟩
    · have hnot : s.ipiDue p.val level.toNat = none := by
        rw [hdueEq, List.find?_eq_none]
        exact fun f hf => ne_true_of_eq_false (hnone f hf)
      exact congrArg Host.Outcome.next (if_neg (by rw [hnot]; exact Bool.false_ne_true))

/-- Settles O29: the two faults of a fetch, at the program counter. -/
theorem fetchFaultsComplete : Obligations.FetchFaultsComplete := by
  intro s t p r h lo hi hr hhold hirq
  have hnext : s.fetchNext p.val = s.fetch p.val r false := by
    have hfree : (decide ((s.pen p.val).hold = .none) && (s.pen p.val).irqLevel.isNone) = true := by
      rw [hhold, hirq]
      rfl
    simp only [State.fetchNext, hr, hfree, if_true]
  refine ⟨fun d hfetch hill hcan => ?_, fun b hfetch hcan => ?_⟩
  · obtain ⟨v, hv, hentered⟩ := State.takeExc_good (e := { vector := 1, level := 5, detail := d }) (rs := false) hcan
    have hat : s.illegalAt p.val = some (d, t) := by
      rw [State.illegalAt, hnext, hfetch]
      exact congrArg (Option.map fun d => (d, t)) hill
    refine ⟨v, ?_, hentered⟩
    refine (exec_of_due (c := .illegalEncoding p) (s := s) (f := fun s => match s.illegalAt p.val with
      | some x => (x.2.takeExc p.val (excIllegal x.1)).getD s
      | none => s) rfl (by rw [hat]; rfl)).trans (congrArg _ ?_)
    rw [hat]
    exact congrArg (fun o => Option.getD o s) hv
  · obtain ⟨v, hv, hentered⟩ := State.takeExc_good (e := { vector := 8, level := 5, bcause := b, addr := (s.pen p.val).pc })
      (rs := false) hcan
    have hat : s.fetchBus p.val = some (b, t) := by rw [State.fetchBus, hnext, hfetch]
    refine ⟨v, ?_, hentered⟩
    refine (exec_of_due (c := .instructionBusFault p) (s := s) (f := fun s' => match s'.fetchBus p.val with
      | some x => (x.2.takeExc p.val { vector := 8, level := 5, bcause := x.1, addr := (s'.pen p.val).pc }).getD s'
      | none => s') rfl (by rw [hat]; rfl)).trans (congrArg _ ?_)
    rw [hat]
    exact congrArg (fun o => Option.getD o s) hv

end Sys2Proof.Exceptions
end

section
/-! Calls, returns and gates (R146, R149, R182 to R184, R237 to R240). -/

namespace Sys2Proof.Machine

/-! ### What an instruction leaves that marks its pages -/

/-- The pen after marks and the stores `l`: all but its TLB entries, the pages that its run notes and the store buffer is as
on `x`. -/
def Pen.MarkedFrom (z x : Pen) (l : List SbEntry) : Prop :=
  { z with sb := x.sb, tlb := x.tlb, run := x.run } = x ∧ z.sb = x.sb ++ l ∧ x.SameRun z

section marked

variable {x z : Pen} {paired : Bool} {l : List SbEntry}

theorem Pen.MarkedFrom.push (h : z.MarkedFrom x l) (e : SbEntry) : ({ z with sb := z.sb ++ [e] } : Pen).MarkedFrom x (l ++ [e]) := by
  obtain ⟨hback, hsb, hrun⟩ := h
  exact ⟨hback, (congrArg (· ++ [e]) hsb).trans (List.append_assoc ..), hrun⟩

/-- A register that is written after marks. -/
theorem Pen.MarkedFrom.write (h : z.MarkedFrom x l) (r : Reg) (w : TWord) :
    let y := z.write paired r w
    x.RegsAfter y r w ∧ y.status = x.status ∧ y.pc = x.pc ∧ y.late = x.late.filter (fun l => l.reg ≠ x.bank r.val) ∧
    y.sb = x.sb ++ l ∧ x.SameRun y ∧ x.SameRest { y with sb := x.sb, tlb := x.tlb, run := x.run } := by
  intro y
  obtain ⟨hback, hsb, hrun⟩ := h
  have hrest := z.write_rest paired r w
  have hregs := z.write_regs paired r w
  have hlate := z.write_late paired r w
  have hbank : z.bank r.val = x.bank r.val := (congrArg (fun y : Pen => y.bank r.val) hback :)
  rw [hbank] at hlate
  refine ⟨fun k => ?_, ?_, ?_, ?_, ?_, ?_, ?_⟩
  · have hk : z.getB k = x.getB k := (congrArg (fun y : Pen => y.getB k) hback :)
    rw [hregs k, hbank, hk]
  · exact (congrArg Pen.status hrest :).trans (congrArg Pen.status hback :)
  · exact (congrArg Pen.pc hrest :).trans (congrArg Pen.pc hback :)
  · exact hlate.trans (congrArg (fun y : Pen => y.late.filter (fun l => l.reg ≠ x.bank r.val)) hback :)
  · exact (congrArg Pen.sb hrest :).trans hsb
  · have hyz : y.run = z.run := (congrArg Pen.run hrest :)
    rw [Pen.SameRun, hyz]
    exact hrun
  · refine Eq.trans ?_ hback
    exact (congrArg (fun y : Pen => ({ y with
      regs := x.regs, spTask := x.spTask, spExec := x.spExec, status := x.status, pc := x.pc, late := x.late, pair := x.pair
      sb := x.sb, tlb := x.tlb, run := x.run } : Pen)) hrest :).trans
      (congrArg (fun y : Pen => ({ z with
        regs := y.regs, spTask := y.spTask, spExec := y.spExec, status := y.status, pc := y.pc, late := y.late, pair := y.pair
        sb := x.sb, tlb := x.tlb, run := x.run } : Pen)) hback :).symm

/-- A transfer after a register is written, as of a call. -/
theorem Pen.MarkedFrom.write_goto (h : z.MarkedFrom x l) (r : Reg) (w : TWord) (target : Word) :
    let y := (z.write paired r w).goto paired target
    x.Jumped { y with sb := x.sb, tlb := x.tlb, run := x.run } target ∧ x.RegsAfter y r w ∧ y.status = x.status ∧
    y.sb = x.sb ++ l ∧ x.SameRun y := by
  intro y
  obtain ⟨hregs, hst, -, -, hsb, hrun, hrest⟩ := h.write (paired := paired) r w
  refine ⟨⟨rfl, rfl, ?_⟩, hregs, hst, hsb, hrun⟩
  have hfbuf : (z.write paired r w).fbuf = x.fbuf := (congrArg Pen.fbuf hrest :)
  refine Eq.trans ?_ hrest
  rw [← hfbuf]
  rfl

end marked

section issued

variable {s v : State} {i : Iss} {u : Uses} {p : Nat} {r : Run} {e : TlbEntry} {cpa : Nat} {va : Word} {c : Ctx}

/-- Marks of an instruction that has issued. -/
theorem State.issued_marks (h : (s.issued i u).Marks v i.pen.val) :
    (v.pen i.pen.val).MarkedFrom (s.issuing i u).2 [] ∧ { v with mem := s.mem, pens := s.pens } = s ∧ s.OtherPens v i.pen.val := by
  have hpen : (s.issued i u).pen i.pen.val = (s.issuing i u).2 := State.issued_pen s i u
  have hjoin : (s.issued i u).isJoined i.pen.val = s.isJoined i.pen.val := by
    have hrun : (s.issuing i u).2.run = (s.pen i.pen.val).run := (congrArg Pen.run (s.issuing_same i u) :)
    rw [State.isJoined_eq, State.isJoined_eq, hpen, hrun]
  have hsb : (v.pen i.pen.val).sb = (s.issuing i u).2.sb := (h.pen_field Pen.sb).trans (congrArg Pen.sb hpen)
  obtain ⟨hback, hown, hrun, hothers⟩ := h
  rw [hpen] at hown hrun
  refine ⟨⟨?_, ?_, hrun⟩, ?_, fun q hq => ?_⟩
  · exact (congrArg (fun y : Pen => ({ y with sb := (s.issuing i u).2.sb } : Pen)) hown :)
  · rw [hsb, List.append_nil]
  · exact (congrArg (fun y : State => ({ y with mem := s.mem, pens := s.pens } : State)) hback).trans
      (State.modPen_drop s s i.pen.val fun _ => (s.issuing i u).2)
  · have hleft : (s.issued i u).pen q = s.pen q := State.setPen_pen_other hq
    refine (hothers q hq).trans ?_
    rw [hleft, hjoin]

theorem State.modPen_dropPens (u s : State) (p : Nat) (f : Pen → Pen) : { u.modPen p f with pens := s.pens } = { u with pens := s.pens } := rfl

theorem State.OtherPens.modPen (h : s.OtherPens v p) (g : Pen → Pen) : s.OtherPens (v.modPen p g) p := fun q hq => by
  rw [State.modPen_pen_other hq]
  exact h q hq

/-! ### CALL (R146) -/

/-- A call whose return address can be stored (R146). -/
theorem State.callTo_ok {t : State} {ins : Instr} {paired : Bool} {sp : TWord} {target : Word} (hr : t.runs p = some r)
    (halign : bitsOf sp.val 0 3 = 0) (hspent : (t.pen p).task = true ∨ t.flySpent p r.part 8 = false)
    (htakes : t.Takes (t.ctxOf p r paired) r (sp.val - 8) e cpa) (hroom : (t.pen p).sbUsed + 1 ≤ 4) :
    t.callTo ins p paired sp target = .ok (fun y => (y.write paired 31 (TWord.ptr (sp.val - 8))).goto paired target)
      ((t.wroteTo (t.ctxOf p r paired) ⟨sp.val - 8, cpa, e, false⟩).modPen p (fun x => { x with
        sb := x.sb ++ [⟨[⟨cpa, true, 0xFF, TWord.cptr ((t.pen p).pc + 4)⟩], if e.kind = .versioned then some e.slot else none⟩] })) := by
  have hfly : (!(t.pen p).task && t.flySpent p r.part 8) = false := by
    obtain h | h := hspent
    · rw [h, Bool.not_true, Bool.false_and]
    · rw [h, Bool.and_false]
  have hstore := htakes.storeWord (i := ins) (w := TWord.cptr ((t.pen p).pc + 4)) hroom
  simp only [State.callTo, State.runCtx, hr, Option.map_some, halign, hfly, ne_eq, not_true_eq_false, if_false,
    Bool.false_eq_true, hstore, Res.bind]
  rfl

/-- What CALL and CALL through a register make of their pen. -/
def callRes (i : Iss) (disp : BitVec 26) (paired : Bool) (t : State) : Res (Pen → Pen) :=
  match Sys2Proof.Machine.checkTag 0 [Tag.ptr] ((t.pen i.pen.val).read paired 31) with
  | .error e => .exc e t
  | .ok () => t.callTo (.call i disp) i.pen.val paired ((t.pen i.pen.val).read paired 31)
      (relTarget (t.pen i.pen.val).pc disp.toInt)

def callRegRes (i : Iss) (rs : Reg) (paired : Bool) (t : State) : Res (Pen → Pen) :=
  match (do
    Sys2Proof.Machine.checkTag 0 [Tag.cptr] ((t.pen i.pen.val).read paired rs)
    Sys2Proof.Machine.checkTag 1 [Tag.ptr] ((t.pen i.pen.val).read paired 31)
    checkTarget ((t.pen i.pen.val).read paired rs).val : Except Exc Unit) with
  | .error e => .exc e t
  | .ok () => t.callTo (.callRegister i rs) i.pen.val paired ((t.pen i.pen.val).read paired 31)
      ((t.pen i.pen.val).read paired rs).val

theorem exec_call (i : Iss) (disp : BitVec 26) (s : State) : exec (.call i disp) s =
    guarded (s.ready i.pen.val) s (fun s => s.issueOne i ⟨.callret, [31], false⟩ (callRes i disp)) := rfl

theorem exec_callRegister (i : Iss) (rs : Reg) (s : State) : exec (.callRegister i rs) s =
    guarded (s.ready i.pen.val) s (fun s => s.issueOne i ⟨.callret, [rs, 31], false⟩ (callRegRes i rs)) := rfl

/-- The tag checks of a call pass. -/
theorem callRes_ok {disp : BitVec 26} {paired : Bool} {t : State} (h : ((t.pen i.pen.val).read paired 31).tag = Tag.ptr) :
    callRes i disp paired t = t.callTo (.call i disp) i.pen.val paired ((t.pen i.pen.val).read paired 31)
      (relTarget (t.pen i.pen.val).pc disp.toInt) := by
  rw [callRes, checkTag_of_mem (by rw [h]; decide) (by rw [h]; decide)]

theorem checkTarget_ok {w : Word} (h : bitsOf w 0 2 = 0) : checkTarget w = .ok () := if_neg (not_not_intro h)

theorem callRegRes_ok {rs : Reg} {paired : Bool} {t : State} (h : ((t.pen i.pen.val).read paired 31).tag = Tag.ptr)
    (hw : ((t.pen i.pen.val).read paired rs).tag = Tag.cptr) (halign : bitsOf ((t.pen i.pen.val).read paired rs).val 0 2 = 0) :
    callRegRes i rs paired t = t.callTo (.callRegister i rs) i.pen.val paired ((t.pen i.pen.val).read paired 31)
      ((t.pen i.pen.val).read paired rs).val := by
  rw [callRegRes, checkTag_of_mem (by rw [hw]; decide) (by rw [hw]; decide),
    checkTag_of_mem (by rw [h]; decide) (by rw [h]; decide), checkTarget_ok halign]
  rfl

/-- What a call leaves (R146): the return address waits in the store buffer, and the pen goes on at the target. -/
def State.Called (s v : State) (i : Iss) (u : Uses) (sp : TWord) (target : Word) (e : TlbEntry) (cpa : Nat) : Prop :=
  let x := s.issuing i u
  let y := v.pen i.pen.val
  { v with pens := s.pens } = s ∧ s.OtherPens v i.pen.val ∧
  x.2.Jumped { y with sb := x.2.sb, tlb := x.2.tlb, run := x.2.run } target ∧ x.2.RegsAfter y 31 (TWord.ptr (sp.val - 8)) ∧
  y.status = x.2.status ∧
  y.sb = x.2.sb ++ [⟨[⟨cpa, true, 0xFF, TWord.cptr (x.2.pc + 4)⟩], if e.kind = .versioned then some e.slot else none⟩] ∧
  x.2.SameRun y

theorem exec_called {ins ins' : Instr} {s0 : State} {f : Bool → State → Res (Pen → Pen)} {sp : TWord} {target : Word}
    (hc : exec ins s0 = guarded (s0.ready i.pen.val) s0 (fun s => s.issueOne i u f)) (hi : s0.Issues s i u)
    (hf : f (s.issuing i u).1 (s.issued i u) = (s.issued i u).callTo ins' i.pen.val (s.issuing i u).1 sp target)
    (hr : (s.issued i u).runs i.pen.val = some r) (halign : bitsOf sp.val 0 3 = 0)
    (hspent : (s.issuing i u).2.task = true ∨ (s.issued i u).flySpent i.pen.val r.part 8 = false)
    (htakes : (s.issued i u).Takes ((s.issued i u).ctxOf i.pen.val r (s.issuing i u).1) r (sp.val - 8) e cpa)
    (h1 : e.d1 = true) (h2 : e.d2 = true) (hroom : (s.issuing i u).2.sbUsed + 1 ≤ 4) :
    ∃ v, exec ins s0 = .next v ∧ s.Called v i u sp target e cpa := by
  have hpen : (s.issued i u).pen i.pen.val = (s.issuing i u).2 := State.issued_pen s i u
  rw [← hpen] at hspent hroom
  have hres := State.callTo_ok (ins := ins') (target := target) hr halign hspent htakes hroom
  rw [hpen] at hres
  obtain ⟨hm, -, hmem⟩ := State.marks_wroteTo (s.issued i u) ((s.issued i u).ctxOf i.pen.val r (s.issuing i u).1)
    ⟨sp.val - 8, cpa, e, false⟩
  have hexec := exec_issued hc hi (hf.trans hres)
  have hm : (s.issued i u).Marks ((s.issued i u).wroteTo ((s.issued i u).ctxOf i.pen.val r (s.issuing i u).1)
    ⟨sp.val - 8, cpa, e, false⟩) i.pen.val := hm
  have hmem : ((s.issued i u).wroteTo ((s.issued i u).ctxOf i.pen.val r (s.issuing i u).1)
    ⟨sp.val - 8, cpa, e, false⟩).mem = s.mem := hmem h1 h2
  generalize (s.issued i u).wroteTo ((s.issued i u).ctxOf i.pen.val r (s.issuing i u).1)
    ⟨sp.val - 8, cpa, e, false⟩ = w at hm hmem hexec
  obtain ⟨hz, hback, hothers⟩ := State.issued_marks hm
  refine ⟨_, hexec, ?_, (hothers.modPen _).modPen _, ?_⟩
  · have hmem' : ({ w with pens := s.pens } : State) = { w with mem := s.mem, pens := s.pens } := by rw [← hmem]
    exact (State.modPen_dropPens ..).trans ((State.modPen_dropPens ..).trans (hmem'.trans hback))
  · rw [State.modPen_pen_same, State.modPen_pen_same]
    exact (hz.push _).write_goto 31 _ target

end issued

end Sys2Proof.Machine
end

section
/-! Returns and gates (R146, R149, R183, R237 to R240). -/

namespace Sys2Proof.Machine

section returns

variable {s s0 t : State} {i : Iss} {r : Run} {w : Word} {paired : Bool}

/-! ### RET (R146) -/

/-- What RET makes of its pen. -/
def retRes (i : Iss) (paired : Bool) (t : State) : Res (Pen → Pen) :=
  let sp := (t.pen i.pen.val).read paired 31
  match Sys2Proof.Machine.checkTag 0 [Tag.ptr] sp, t.runCtx i.pen.val paired with
  | .error e, _ => .exc e t
  | .ok (), none => .wait
  | .ok (), some (r, c) =>
    if bitsOf sp.val 0 3 ≠ 0 then .exc (excAlign sp.val) t
    else (t.loadWord c r.lig false (.ret i) sp.val (checkReturn Tag.cptr)).bind (fun w t =>
      match checkTarget w.val with
      | .error e => .exc e t
      | .ok () => .ok (fun x => (x.write paired 31 (TWord.ptr (sp.val + 8))).goto paired w.val) t)

theorem exec_ret (i : Iss) (s : State) : exec (.ret i) s =
    guarded (s.ready i.pen.val) s (fun s => s.issueOne i ⟨.callret, [31], false⟩ (retRes i)) := rfl

theorem checkTag_single {n : Nat} {g : Tag} {w : TWord} (hg : g ∈ addTags) (h : w.tag = g) :
    Sys2Proof.Machine.checkTag n [g] w = .ok () := by
  subst h
  exact checkTag_of_mem hg List.mem_cons_self

theorem checkReturn_ok {g : Tag} {w : TWord} (h : w.tag = g) : checkReturn g w = .ok () := if_neg (not_not_intro h)

theorem retRes_ok (hr : t.runs i.pen.val = some r) (htag : ((t.pen i.pen.val).read paired 31).tag = Tag.ptr)
    (halign : bitsOf ((t.pen i.pen.val).read paired 31).val 0 3 = 0) (hw : bitsOf w 0 2 = 0)
    (h : t.Serves (t.ctxOf i.pen.val r paired) r false ((t.pen i.pen.val).read paired 31).val (TWord.cptr w)) :
    retRes i paired t = .ok (fun x => (x.write paired 31 (TWord.ptr (((t.pen i.pen.val).read paired 31).val + 8))).goto paired w) t := by
  have hload := h.loadWord (i := .ret i) (chk := checkReturn Tag.cptr) (checkReturn_ok rfl)
  have htarget : checkTarget (TWord.cptr w).val = .ok () := checkTarget_ok hw
  simp only [retRes, checkTag_single (n := 0) (by decide) htag, State.runCtx, hr, Option.map_some, halign,
    ne_eq, not_true_eq_false, if_false, hload, Res.bind, htarget]
  rfl

/-! ### ERET and GRET (R149, R183) -/

/-- The instruction of a return from a handler. -/
def returnInstr (gret : Bool) (i : Iss) : Instr := if gret then .gret i else .eret i

/-- The pen after a return. -/
def Pen.returned (x : Pen) (gret paired : Bool) (sp st pc : Word) : Pen :=
  let y := x.goto paired pc
  { y with
    spExec := TWord.ptr (sp + 16), late := y.late.filter (fun l => l.reg ≠ 32), status := returnStatus gret y.status st }

/-- What ERET and GRET make of their pen. -/
def returnRes (gret : Bool) (i : Iss) (paired : Bool) (t : State) : Res (Pen → Pen) :=
  let x := t.pen i.pen.val
  let sp := x.read paired 31
  if x.task then .exc excPrivilege t
  else match Sys2Proof.Machine.checkTag 0 [Tag.ptr] sp, t.runCtx i.pen.val paired with
    | .error e, _ => .exc e t
    | .ok (), none => .wait
    | .ok (), some (r, c) =>
      if bitsOf sp.val 0 3 ≠ 0 then .exc (excAlign sp.val) t
      else ((t.resolve c (returnInstr gret i) .read sp.val).bind (fun _ t =>
          t.resolve c (returnInstr gret i) .read (sp.val + 8))).bind (fun _ t =>
        (t.loadWord c r.lig false (returnInstr gret i) sp.val (checkReturn Tag.status)).bind (fun st t =>
          (t.loadWord c r.lig false (returnInstr gret i) (sp.val + 8) (checkReturn Tag.cptr)).bind (fun pc t =>
            match checkTarget pc.val with
            | .error e => .exc e t
            | .ok () => .ok (fun x => x.returned gret paired sp.val st.val pc.val) t)))

theorem exec_return (gret : Bool) (i : Iss) (s : State) : exec (returnInstr gret i) s =
    guarded (s.ready i.pen.val) s (fun s => s.issueOne i ⟨.ser, [31], true⟩ (returnRes gret i)) := by
  cases gret <;> rfl

theorem State.Serves.resolve {c : Ctx} {fab : Bool} {va : Word} {w : TWord} {ins : Instr} (h : t.Serves c r fab va w) :
    ∃ hl, t.resolve c ins .read va = .ok hl t := by
  obtain ⟨e, hx, -⟩ := h
  exact ⟨_, State.resolve_hit hx⟩

theorem returnRes_ok {gret : Bool} {sp st pc : Word} (htask : (t.pen i.pen.val).task = false) (hr : t.runs i.pen.val = some r)
    (hsp : (t.pen i.pen.val).read paired 31 = TWord.ptr sp) (halign : bitsOf sp 0 3 = 0) (hpc : bitsOf pc 0 2 = 0)
    (hst : t.Serves (t.ctxOf i.pen.val r paired) r false sp (TWord.status st))
    (hret : t.Serves (t.ctxOf i.pen.val r paired) r false (sp + 8) (TWord.cptr pc)) :
    returnRes gret i paired t = .ok (fun x => x.returned gret paired sp st pc) t := by
  obtain ⟨lo, hlo⟩ := hst.resolve (ins := returnInstr gret i)
  obtain ⟨hi, hhi⟩ := hret.resolve (ins := returnInstr gret i)
  have hload := hst.loadWord (i := returnInstr gret i) (chk := checkReturn Tag.status) (checkReturn_ok rfl)
  have hload' := hret.loadWord (i := returnInstr gret i) (chk := checkReturn Tag.cptr) (checkReturn_ok rfl)
  have htarget : checkTarget (TWord.cptr pc).val = .ok () := checkTarget_ok hpc
  have htag : Sys2Proof.Machine.checkTag 0 [Tag.ptr] (TWord.ptr sp) = .ok () := checkTag_single (by decide) rfl
  have hval : (TWord.ptr sp).val = sp := rfl
  simp only [returnRes, htask, hsp, htag, hval, State.runCtx, hr, Option.map_some, halign, ne_eq, not_true_eq_false, if_false,
    Bool.false_eq_true, hlo, hhi, hload, hload', Res.bind, htarget]
  rfl

theorem bitAt_and (w v : Word) (b : Nat) : bitAt (w &&& v) b = (bitAt w b && bitAt v b) := BitVec.getLsbD_and

/-- The status word that a return leaves (R149, R183). -/
theorem bitAt_returnStatus (gret : Bool) (running frame : Word) (b : Nat) : bitAt (returnStatus gret running frame) b =
    if b < 4 ∧ gret = true then bitAt running b
    else if b = 10 ∧ gret = false then bitAt running b
    else if b = 7 ∨ 10 < b then false
    else bitAt frame b := by
  have hmask : bitAt (0x77F : Word) b = decide (b < 7 ∨ (8 ≤ b ∧ b < 11)) := by
    by_cases hb : b < 64
    · exact (by decide : ∀ b < 64, bitAt (0x77F : Word) b = decide (b < 7 ∨ (8 ≤ b ∧ b < 11))) b hb
    · rw [bitAt, BitVec.getLsbD_of_ge _ _ (by omega), eq_comm, decide_eq_false_iff_not]
      omega
  have hkept : bitAt (frame &&& 0x77F) b = if b = 7 ∨ 10 < b then false else bitAt frame b := by
    rw [bitAt_and, hmask]
    split
    next h => rw [decide_eq_false (by omega), Bool.and_false]
    next h => rw [decide_eq_true (by omega), Bool.and_true]
  cases gret with
  | true =>
    simp only [returnStatus, if_true, and_true, Bool.true_eq_false, and_false, if_false]
    rw [bitAt_setBits _ _ _ _ _ (by decide), hkept]
    by_cases h : b < 4
    · rw [if_pos ⟨Nat.zero_le _, by omega⟩, if_pos h, bitsOf, Nat.mod_mod, Nat.testBit_mod_two_pow, Nat.testBit_div_two_pow]
      simp [h, bitAt, BitVec.testBit_toNat]
    · rw [if_neg (by omega), if_neg h]
  | false =>
    simp only [returnStatus, Bool.false_eq_true, if_false, and_false, and_true]
    rw [bitAt_setBit _ _ (by decide), hkept]
    by_cases h : b = 10
    · rw [if_pos h.symm, if_pos h, h]
    · rw [if_neg (Ne.symm h), if_neg h]

end returns

end Sys2Proof.Machine
end

section
/-! GATE (R184, R237 to R240), and the obligation of calls, returns and gates. -/

namespace Sys2Proof.Machine

section gates

variable {s s0 t u : State} {i : Iss} {r : Run} {n p : Nat} {g : Gate} {lo hi : TlbEntry}

/-- What GATE does once its entry is read. -/
def State.gateOn (s0 t : State) (p : Nat) (r : Run) (n : Nat) (g : Option Gate × State) : State :=
  match g.1 with
  | none => (g.2.takeExc p (excGate n 2 0)).getD s0
  | some e =>
    match gateChecks e (t.pen p).task (fun k => (t.pen p).getB k) with
    | some (d, a) => (g.2.takeExc p (excGate n d a)).getD s0
    | none => (g.2.gateEnter p r e).getD s0

/-- GATE on a pen that issues it: its number is checked, then its entry is read (R239). -/
theorem exec_gate {n : BitVec 8} (hi : s0.IssuesAlone s i.pen.val)
    (ht : s.modPen i.pen.val (fun x => x.issue false ⟨.ser, [1, 2, 3, 4, 31], true⟩) = t) (hr : t.runs i.pen.val = some r) :
    exec (.gate i n) s0 = .next (if bitsOf (t.pxWord r.part 0) 32 9 ≤ n.toNat then
        (t.takeExc i.pen.val (excGate n.toNat 1 0)).getD s0
      else State.gateOn s0 t i.pen.val r n.toNat (t.readGate i.pen.val r.part n.toNat)) := by
  obtain ⟨hready, hadm⟩ := hi
  refine (exec_of_due (c := .gate i n) (s := s0) (f := fun s => s.doGate i n.toNat) rfl hready).trans (congrArg _ ?_)
  simp only [State.doGate, hadm, Option.getD_some, ht, hr]
  rfl

theorem State.gateOn_entry (h : t.readGate p r.part n = (none, u)) :
    State.gateOn s0 t p r n (t.readGate p r.part n) = (u.takeExc p (excGate n 2 0)).getD s0 := by
  rw [h]
  rfl

theorem State.gateOn_checks {d a : Nat} (h : t.readGate p r.part n = (some g, u))
    (hchecks : gateChecks g (t.pen p).task (fun k => (t.pen p).getB k) = some (d, a)) :
    State.gateOn s0 t p r n (t.readGate p r.part n) = (u.takeExc p (excGate n d a)).getD s0 := by
  rw [h]
  simp only [State.gateOn, hchecks]

theorem State.gateOn_enters (h : t.readGate p r.part n = (some g, u))
    (hchecks : gateChecks g (t.pen p).task (fun k => (t.pen p).getB k) = none) :
    State.gateOn s0 t p r n (t.readGate p r.part n) = (u.gateEnter p r g).getD s0 := by
  rw [h]
  simp only [State.gateOn, hchecks]

/-- The pen in a gate's handler (R240). -/
def Pen.gated (x : Pen) (g : Gate) : Pen :=
  let y := x.goto false g.target
  { y with status := gateStatus y.status (bitsOf g.ctrl 4 3), late := y.late.filter (fun l => l.reg ≠ 32) }

theorem gateStatus_eq (w : Word) (mask : Nat) : gateStatus w mask = handlerStatus w false (max (bitsOf w 4 3) mask) := rfl

/-- A gate whose checks have passed enters its handler (R240). -/
theorem State.gateEnter_good (hr : t.runs p = some r) (hm : r.mode ≠ .joined) (hsb : (t.pen p).sb = [])
    (hspent : t.flySpent p r.part 16 = false) (hstack : t.stackCheck p r = (.good lo hi, t)) (hpages : FramePages lo hi) :
    let x := t.pen p
    let sp := x.spExec.val
    let c := t.pushCtx p r
    ∃ v, t.gateEnter p r g = some v ∧ OnlyPens [p] t v ∧
      let y := v.pen p
      y.pc = g.target ∧ y.fbuf = none ∧ y.spExec = TWord.ptr (sp - 16) ∧ y.regs = x.regs ∧ y.spTask = x.spTask ∧
      y.sb = [⟨[⟨t.frameCpa c hi (sp - 8), true, 0xFF, TWord.cptr (x.pc + 4)⟩], none⟩,
              ⟨[⟨t.frameCpa c lo (sp - 16), true, 0xFF, TWord.status x.status⟩], none⟩] ∧
      bitAt y.status 8 = true ∧ bitAt y.status 9 = false ∧ bitAt y.status 10 = false ∧ y.flags = x.flags ∧
      bitsOf y.status 4 3 = max (bitsOf x.status 4 3) (bitsOf g.ctrl 4 3) ∧ y.syn = x.syn ∧ y.synAddr = x.synAddr := by
  intro x sp c
  obtain ⟨hback, hothers, hj, hpen⟩ := State.pushFrame_plain (ret := x.pc + 4) (stat := x.status) hr hm hsb hpages
  have henter : t.gateEnter p r g = some (((t.pushFrame p lo hi (x.pc + 4) x.status).countEntry p false).modPen p (fun y => y.gated g)) := by
    simp only [State.gateEnter, hspent, hstack, Bool.false_eq_true, if_false]
    rfl
  generalize t.pushFrame p lo hi (x.pc + 4) x.status = w at henter hback hothers hj hpen
  rw [State.countEntry_solo hj] at henter
  refine ⟨_, henter, ?_, ?_⟩
  · have htw : OnlyPens [p] t w := ⟨hback, fun q hq => hothers q (by simpa using hq)⟩
    exact htw.trans (OnlyPens.trans onlyPens_modPen onlyPens_modPen)
  rw [State.modPen_pen_same, State.modPen_pen_same]
  generalize w.pen p = y at hpen
  have hst : y.status = x.status := (congrArg Pen.status hpen :)
  have hlevel : max (bitsOf y.status 4 3) (bitsOf g.ctrl 4 3) < 8 :=
    max_lt (Nat.mod_lt _ (by decide)) (Nat.mod_lt _ (by decide))
  obtain ⟨h8, h9, h10, hfield, hlow⟩ := handlerStatus_spec (w := y.status) (fly := false) hlevel
  refine ⟨rfl, rfl, ?_, ?_, ?_, ?_, h8, h9, h10, ?_, ?_, ?_, ?_⟩
  · exact (congrArg Pen.spExec hpen :)
  · exact (congrArg Pen.regs hpen :)
  · exact (congrArg Pen.spTask hpen :)
  · exact (congrArg Pen.sb hpen :)
  · refine Pen.flags_of_bits fun i hi => ?_
    rw [← hst]
    exact hlow i hi
  · rw [← hst]
    exact hfield
  · exact (congrArg Pen.syn hpen :)
  · exact (congrArg Pen.synAddr hpen :)

end gates

end Sys2Proof.Machine

namespace Sys2Proof.MarkaiInstructions

open Sys2Proof.Machine

/-- A transfer after a register is written, as of a return. -/
theorem Pen.write_goto (x : Pen) (paired : Bool) (r : Reg) (w : TWord) (target : Word) :
    let y := (x.write paired r w).goto paired target
    x.Jumped y target ∧ x.RegsAfter y r w ∧ y.status = x.status := by
  intro y
  have hrest := x.write_rest paired r w
  refine ⟨⟨rfl, rfl, ?_⟩, x.write_regs paired r w, x.write_status paired r w⟩
  exact (congrArg (fun z : Pen => ({ z with status := x.status, pc := x.pc, fbuf := x.fbuf } : Pen)) hrest :)

/-- The pen after a return from a handler. -/
theorem Pen.returned_spec (x : Pen) (gret paired : Bool) (sp st pc : Word) :
    let y := x.returned gret paired sp st pc
    x.Jumped y pc ∧ y.spExec = TWord.ptr (sp + 16) ∧ y.regs = x.regs ∧ y.spTask = x.spTask ∧
    (∀ b, bitAt y.status b =
      if b < 4 ∧ gret = true then bitAt x.status b
      else if b = 10 ∧ gret = false then bitAt x.status b
      else if b = 7 ∨ 10 < b then false
      else bitAt st b) :=
  ⟨⟨rfl, rfl, rfl⟩, rfl, rfl, rfl, fun b => bitAt_returnStatus gret x.status st b⟩

section returning

variable {s0 s : State} {i : Iss} {r : Run}

/-- A return from a handler at EXEC whose frame is good (R149, R183). -/
theorem exec_returned {gret : Bool} {st pc : Word} (hi : s0.Issues s i ⟨.ser, [31], true⟩) :
    let x := s.issuing i ⟨.ser, [31], true⟩
    let t := s.issued i ⟨.ser, [31], true⟩
    x.2.task = false → t.runs i.pen.val = some r → x.2.spExec.tag = Tag.ptr → bitsOf x.2.spExec.val 0 3 = 0 →
    bitsOf pc 0 2 = 0 → t.Serves (t.ctxOf i.pen.val r x.1) r false x.2.spExec.val (TWord.status st) →
    t.Serves (t.ctxOf i.pen.val r x.1) r false (x.2.spExec.val + 8) (TWord.cptr pc) →
    exec (returnInstr gret i) s0 = .next (t.modPen i.pen.val (fun y => y.returned gret x.1 x.2.spExec.val st pc)) := by
  intro x t htask hr htag halign hpc hst hret
  have hpen : t.pen i.pen.val = x.2 := State.issued_pen ..
  have hslot : x.1 = false := State.issuing_ser ..
  have hsp : (t.pen i.pen.val).read x.1 31 = TWord.ptr x.2.spExec.val := by
    have hbank : x.2.bank 31 = 32 := by rw [Pen.bank, htask]; rfl
    have hread : x.2.read false 31 = x.2.getB (x.2.bank 31) := rfl
    have hget : x.2.getB 32 = x.2.spExec := rfl
    rw [hpen, hslot, hread, hbank, hget, TWord.ptr, ← htag]
  exact exec_issued (exec_return gret i s0) hi (returnRes_ok (by rw [hpen]; exact htask) hr hsp halign hpc hst hret)

end returning

/-- Settles O22: calls and returns from the access rules of their stack words, gates from the frame's push. -/
theorem callsAndReturnsComplete : Obligations.CallsAndReturnsComplete := by
  refine ⟨⟨?call, ?ret⟩, ?return_, ?gate⟩
  case call =>
    intro s0 s i disp rs r cpa e ins regs hins u hi x t sp w hr hsp halign hspent htakes h1 h2 hroom hw
    have hpen : t.pen i.pen.val = x.2 := State.issued_pen ..
    have hsp' : ((t.pen i.pen.val).read x.1 31).tag = Tag.ptr := by rw [hpen]; exact hsp
    obtain ⟨rfl, rfl⟩ | ⟨rfl, rfl⟩ : (ins = .call i disp ∧ regs = [31]) ∨ (ins = .callRegister i rs ∧ regs = [rs, 31]) := by
      simpa using hins
    · obtain ⟨v, hv, hcalled⟩ := exec_called (exec_call i disp s0) hi
        ((callRes_ok hsp').trans (by rw [hpen])) hr halign hspent htakes h1 h2 hroom
      rw [if_pos rfl]
      exact ⟨v, hv, hcalled⟩
    · obtain ⟨htag, htarget⟩ := hw rfl
      obtain ⟨v, hv, hcalled⟩ := exec_called (exec_callRegister i rs s0) hi
        ((callRegRes_ok hsp' (by rw [hpen]; exact htag) (by rw [hpen]; exact htarget)).trans (by rw [hpen])) hr halign hspent
        htakes h1 h2 hroom
      rw [if_neg (fun h => nomatch h)]
      exact ⟨v, hv, hcalled⟩
  case ret =>
    intro s0 s i r w hi u x t sp hr htag halign hw hserves
    have hpen : t.pen i.pen.val = x.2 := State.issued_pen ..
    have hread : (t.pen i.pen.val).read x.1 31 = sp := by rw [hpen]
    have hres := retRes_ok (paired := x.1) hr (by rw [hread]; exact htag) (by rw [hread]; exact halign) hw (by rw [hread]; exact hserves)
    rw [hread] at hres
    refine ⟨_, exec_issued (exec_ret i s0) hi hres, State.onlyPens_issued .., ?_⟩
    rw [State.issued_modPen]
    exact Pen.write_goto ..
  case return_ =>
    intro s0 s i hi u x t
    have hpen : t.pen i.pen.val = x.2 := State.issued_pen ..
    refine ⟨fun htask ins hins => ?_, ?_⟩
    · have hexc (gret : Bool) : exec (returnInstr gret i) s0 = .next (s0.excFrom t i { vector := 2, level := 5 }) := by
        refine exec_exc (exec_return gret i s0) hi ?_
        simp only [returnRes, State.issued_pen]
        exact if_pos htask
      obtain rfl | rfl : ins = .eret i ∨ ins = .gret i := by simpa using hins
      · exact hexc false
      · exact hexc true
    · intro r st pc htask hr htag halign hpc hst hret ins g hins
      have hins' : ins = returnInstr g i := by
        obtain ⟨rfl, rfl⟩ | ⟨rfl, rfl⟩ : (ins = .eret i ∧ g = false) ∨ (ins = .gret i ∧ g = true) := by simpa using hins
        · rfl
        · rfl
      subst hins'
      refine ⟨_, exec_returned hi htask hr htag halign hpc hst hret, State.onlyPens_issued .., ?_⟩
      rw [State.issued_modPen]
      exact Pen.returned_spec ..
  case gate =>
    intro s0 s i n r hi p t x exc hr
    have hexec := exec_gate (n := n) hi (t := t) rfl hr
    refine ⟨fun hn => ?_, fun hn => ⟨fun u hu => ?_, fun g u hu d a hd => ?_, ?_⟩⟩
    · rw [hexec, if_pos hn]
      rfl
    · rw [hexec, if_neg (by omega), State.gateOn_entry hu]
      rfl
    · rw [hexec, if_neg (by omega), State.gateOn_checks hu hd]
      rfl
    · intro g lo hi' hg hchecks hm hsb hspent hstack hlo hhi hlo1 hlo2 hhi1 hhi2
      obtain ⟨v, hv, honly, hpen⟩ := State.gateEnter_good (g := g) hr hm hsb hspent hstack ⟨hlo, hhi, hlo1, hlo2, hhi1, hhi2⟩
      refine ⟨v, ?_, onlyPens_modPen.trans honly, hpen⟩
      rw [hexec, if_neg (by omega), State.gateOn_enters hg hchecks, hv]
      rfl

end Sys2Proof.MarkaiInstructions
end

section
/-! Loads (R143 to R145, R175 to R177). -/

namespace Sys2Proof.Machine

/-! ### The pen after a load -/

/-- The base update of an addressing mode (R144). -/
theorem Pen.writeBase_spec (x : Pen) (paired : Bool) (rb : Reg) (nb : Option Word) :
    let y := x.writeBase paired rb nb
    x.BaseAfter y rb nb ∧ y.status = x.status ∧ y.pc = x.pc ∧ y.late = x.lateAfter rb nb ∧
    { y with regs := x.regs, spTask := x.spTask, spExec := x.spExec, late := x.late, pair := x.pair } = x := by
  cases nb with
  | none => exact ⟨fun _ => rfl, rfl, rfl, rfl, rfl⟩
  | some w => exact ⟨x.write_regs paired rb _, x.write_status .., x.write_pc .., x.write_late .., x.write_rest ..⟩

/-- The pen after a load (R145). -/
def Pen.afterLoad (x : Pen) (paired : Bool) (rt rb : Reg) (nb : Option Word) (w : TWord) : Pen :=
  ((x.writeBase paired rb nb).addLate rt w).done paired

theorem Pen.addLate_eq (x : Pen) (r : Reg) (w : TWord) :
    x.addLate r w = { x with late := x.late ++ (if r = 0 then [] else [⟨x.bank r.val, w, 0⟩]) } := by
  rw [Pen.addLate]
  split
  · rw [List.append_nil]
  · rfl

theorem Pen.BaseAfter.of_getB {x y z : Pen} {rb : Reg} {nb : Option Word} (h : x.BaseAfter y rb nb)
    (hz : ∀ k, z.getB k = y.getB k) : x.BaseAfter z rb nb := by
  cases nb with
  | none => exact fun k => (hz k).trans (h k)
  | some w => exact fun k => (hz k).trans (h k)

theorem Pen.afterLoad_loaded (x : Pen) (paired : Bool) (rt rb : Reg) (nb : Option Word) (w : TWord) :
    x.Loaded (x.afterLoad paired rt rb nb w) rt rb nb w := by
  obtain ⟨hbase, hst, hpc, hlate, hrest⟩ := x.writeBase_spec paired rb nb
  rw [Pen.afterLoad, Pen.addLate_eq]
  generalize x.writeBase paired rb nb = y at hbase hst hpc hlate hrest
  have hbank : y.bank rt.val = x.bank rt.val := (congrArg (fun z : Pen => z.bank rt.val) hrest :)
  refine ⟨hbase.of_getB fun k => rfl, hst, ?_, ?_, ?_⟩
  · exact congrArg (· + 4) hpc
  · rw [← hbank, ← hlate]
    rfl
  · exact (congrArg (fun z : Pen => ({ z with status := x.status, pc := x.pc } : Pen)) hrest :)

/-! ### LD -/

section ld

variable {s0 s t : State} {i : Iss} {rt rb : Reg} {m : AMode} {r : Run} {w : TWord} {fab paired : Bool}

/-- What LD makes of its pen. -/
def ldRes (fab : Bool) (i : Iss) (rt rb : Reg) (m : AMode) (paired : Bool) (t : State) : Res (Pen → Pen) :=
  if !loadForm rt rb m then .exc (excIllegal 3) t
  else
    let read := (t.pen i.pen.val).read paired
    match checkAddr m rb read, t.runCtx i.pen.val paired with
    | .error e, _ => .exc e t
    | .ok (), none => .wait
    | .ok (), some (r, c) =>
      let a := modeAddr m 8 (read rb).val (modeIdx m read)
      if bitsOf a.1 0 3 ≠ 0 then .exc (excAlign a.1) t
      else (t.loadWord c r.lig fab (.ld i rt rb m) a.1).bind (fun w t => .ok (fun x => x.afterLoad paired rt rb a.2 w) t)

theorem State.doLd_eq (s : State) (fab : Bool) (i : Iss) (rt rb : Reg) (m : AMode) :
    s.doLd fab i rt rb m = s.issueOne i ⟨.mem, rt :: rb :: modeRegs m, false⟩ (ldRes fab i rt rb m) := rfl

theorem exec_ld (i : Iss) (rt rb : Reg) (m : AMode) (s : State) : exec (.ld i rt rb m) s =
    guarded (s.ready i.pen.val) s (fun s => s.issueOne i ⟨.mem, rt :: rb :: modeRegs m, false⟩ (ldRes false i rt rb m)) := rfl

theorem loadForm_ok (h : modeUpdates m = true → rt ≠ rb) : loadForm rt rb m = true := by
  rw [loadForm]
  cases hm : modeUpdates m with
  | false => rfl
  | true => rw [decide_eq_false (h hm)]; rfl

theorem ldRes_eq (hform : modeUpdates m = true → rt ≠ rb) (hr : t.runs i.pen.val = some r)
    (haddr : checkAddr m rb ((t.pen i.pen.val).read paired) = .ok ())
    (halign : bitsOf (modeAddr m 8 ((t.pen i.pen.val).read paired rb).val (modeIdx m ((t.pen i.pen.val).read paired))).1 0 3 = 0) :
    let a := modeAddr m 8 ((t.pen i.pen.val).read paired rb).val (modeIdx m ((t.pen i.pen.val).read paired))
    ldRes fab i rt rb m paired t = (t.loadWord (t.ctxOf i.pen.val r paired) r.lig fab (.ld i rt rb m) a.1).bind
      (fun w t => .ok (fun x => x.afterLoad paired rt rb a.2 w) t) := by
  intro a
  simp only [ldRes, loadForm_ok hform, haddr, State.runCtx, hr, Option.map_some, halign, Bool.not_true, Bool.false_eq_true,
    ne_eq, not_true_eq_false, if_false]
  rfl

/-- LD with all that it needs. -/
theorem State.LoadGoes.res (h : s.LoadGoes i rt rb m fab w) :
    let u : Uses := ⟨.mem, rt :: rb :: modeRegs m, false⟩
    ldRes fab i rt rb m (s.issuing i u).1 (s.issued i u) =
      .ok (fun x => x.afterLoad (s.issuing i u).1 rt rb (s.loadBase i rt rb m) w) (s.issued i u) := by
  intro u
  obtain ⟨r, hr, hform, haddr, halign, hserves⟩ := h
  have hpen : (s.issued i u).pen i.pen.val = (s.issuing i u).2 := State.issued_pen ..
  have hload := hserves.loadWord (i := .ld i rt rb m) (chk := fun _ => .ok ()) rfl
  rw [ldRes_eq hform hr (by rw [hpen]; exact haddr) (by rw [hpen]; exact halign), hpen, hload]
  rfl

/-- What an LD that goes leaves. -/
theorem State.LoadGoes.leaves (s : State) (i : Iss) (rt rb : Reg) (m : AMode) (w : TWord) :
    let u : Uses := ⟨.mem, rt :: rb :: modeRegs m, false⟩
    let v := (s.issued i u).modPen i.pen.val (fun x => x.afterLoad (s.issuing i u).1 rt rb (s.loadBase i rt rb m) w)
    OnlyPens [i.pen.val] s v ∧ (s.loadPen i rt rb m).Loaded (v.pen i.pen.val) rt rb (s.loadBase i rt rb m) w := by
  intro u v
  refine ⟨State.onlyPens_issued .., ?_⟩
  have hv : v.pen i.pen.val = _ := State.issued_modPen ..
  rw [hv]
  exact Pen.afterLoad_loaded ..

end ld

/-! ### Narrow accesses (R143, R177) -/

section narrow

variable {t : State} {c : Ctx} {ins : Instr} {kind : Access} {lig write : Bool} {r : Run} {f : Word → Word}
  {qs : List (Word × Nat × Nat × Bool)} {ps : List Part}

/-- Every part of a narrow access is translated. -/
theorem State.resolveParts_ok {P : Word × Nat × Nat × Bool → Part → Prop}
    (h : ∀ q ∈ qs, ∃ hl, t.resolve c ins kind q.1 q.2.2.2 = .ok hl t ∧ P q ⟨hl, q.2.1, q.2.2.1⟩) :
    ∃ ps, t.resolveParts c ins kind qs = .ok ps t ∧ List.Forall₂ P qs ps := by
  induction qs with
  | nil => exact ⟨[], rfl, .nil⟩
  | cons q qs ih =>
    obtain ⟨hl, hres, hp⟩ := h q List.mem_cons_self
    obtain ⟨ps, hps, hall⟩ := ih fun q' hq' => h q' (List.mem_cons_of_mem _ hq')
    refine ⟨⟨hl, q.2.1, q.2.2.1⟩ :: ps, ?_, .cons hp hall⟩
    simp only [State.resolveParts, hres, Res.bind, hps]

/-- Every part passes its checks. -/
theorem State.checkParts_ok {g : Word × Nat × Nat × Bool → TWord}
    (h : List.Forall₂ (fun q p => t.checkPart c lig write p = (.ok (g q), t)) qs ps) :
    t.checkParts c lig write ps = (qs.map (fun q => .ok (g q)), t) := by
  induction h with
  | nil => rfl
  | cons hp _ ih => simp only [State.checkParts, hp, ih, List.map_cons]

/-- Parts that pass have no fault. -/
theorem firstFault_ok {α : Type} (g : α → TWord) (l : List α) : firstFault (l.map (fun q => .ok (g q))) = none := by
  simp [firstFault, List.filterMap_map]

/-- A RAW word that the run can read passes the check of its part. -/
theorem State.checkPart_ok {p : Part} {w : Word} (href : ∀ n : Need, n.write = write → t.refusal c lig n p.h.cpa = none)
    (hsb : (t.pen c.pen).sb = []) (hholds : t.Holds c p.h.cpa (TWord.raw w)) :
    t.checkPart c lig write p = (.ok (TWord.raw w), t) := by
  have hword : t.partWord c write p = .ok (TWord.raw w) t := by
    rw [State.partWord]
    cases write with
    | true => simp only [hsb, lastHalf, List.flatMap_nil, List.filter_nil, List.getLast?_nil, if_true, hholds.readBank]
    | false => simp only [hsb, forwardOf_nil, Bool.false_eq_true, if_false, hholds.readBank]
  have hchk (second wr : Bool) : (checkRaw (TWord.raw w)).mapError (fun e => { e with second := second, write := wr }) = .ok () := by
    have hraw : checkRaw (TWord.raw w) = .ok () := checkTag_single (g := Tag.raw) (by decide) rfl
    rw [hraw]
    rfl
  rw [State.checkPart, State.readChecked_ok (href _ rfl) hword (hchk _ _)]

/-- Where a part of a narrow load lands: its bytes of its word, not behind the fabric, and readable with the tag RAW. -/
def State.PartServed (t : State) (c : Ctx) (r : Run) (f : Word → Word) (q : Word × Nat × Nat × Bool) (p : Part) : Prop :=
  (p.o = q.2.1 ∧ p.n = q.2.2.1) ∧ isRsv p.h.cpa = false ∧ t.checkPart c r.lig false p = (.ok (TWord.raw (f q.1)), t)

theorem State.Serves.part {q : Word × Nat × Nat × Bool} (h : t.Serves c r false q.1 (TWord.raw (f q.1))) :
    ∃ hl, t.resolve c ins .read q.1 q.2.2.2 = .ok hl t ∧ t.PartServed c r f q ⟨hl, q.2.1, q.2.2.1⟩ := by
  obtain ⟨e, hx, hsb, hholds, -, hrsv, href⟩ := h.spec
  refine ⟨_, State.resolve_hit hx, ⟨rfl, rfl⟩, ?_, ?_⟩
  · exact Bool.eq_false_iff.mpr fun h => Bool.false_ne_true (hrsv h)
  · exact State.checkPart_ok (p := ⟨⟨q.1, t.frameCpa c e q.1, e, q.2.2.2⟩, q.2.1, q.2.2.1⟩) href hsb hholds

theorem partsServed_near (h : List.Forall₂ (t.PartServed c r f) qs ps) : ∀ p ∈ ps, isRsv p.h.cpa = false := by
  induction h with
  | nil => exact fun _ hp => nomatch hp
  | cons hp _ ih =>
    obtain ⟨-, hrsv, -⟩ := hp
    exact List.forall_mem_cons.mpr ⟨hrsv, ih⟩

/-- The bytes of parts, from the words that they touch. -/
def joinWords (f : Word → Word) : List (Word × Nat × Nat × Bool) → Nat → Nat
  | [], _ => 0
  | q :: qs, shift => bitsOf (f q.1) (8 * q.2.1) (8 * q.2.2.1) * 2 ^ shift + joinWords f qs (shift + 8 * q.2.2.1)

theorem joinParts_words (h : List.Forall₂ (t.PartServed c r f) qs ps) (shift : Nat) :
    joinParts ps (qs.map (fun q => .ok (TWord.raw (f q.1)))) shift = joinWords f qs shift := by
  induction h generalizing shift with
  | nil => rfl
  | cons hp _ ih =>
    obtain ⟨⟨ho, hn⟩, -⟩ := hp
    rw [List.map_cons, joinParts, joinWords, ih, ho, hn]
    rfl

/-- The words that a narrow access touches give its bytes (R143, R177). -/
theorem joinWords_narrowParts (f : Word → Word) (va : Word) (n : Nat) : joinWords f (narrowParts va n) 0 = bytesAt f va n := by
  have ho : bitsOf va 0 3 < 8 := Nat.mod_lt _ (by decide)
  rw [narrowParts, bytesAt]
  generalize bitsOf va 0 3 = o at ho
  generalize va - BitVec.ofNat 64 o = base
  have hA : (f base).toNat < 2 ^ 64 := (f base).isLt
  generalize hK : 2 ^ (64 - 8 * o) = K
  have hsplit : 2 ^ 64 = 2 ^ (8 * o) * K := by
    rw [← hK, ← pow_add]
    congr 1
    omega
  have hdiv : ((f base).toNat + (f (base + 8)).toNat * 2 ^ 64) / 2 ^ (8 * o) =
      (f base).toNat / 2 ^ (8 * o) + (f (base + 8)).toNat * K := by
    rw [hsplit, ← mul_assoc, mul_comm _ (2 ^ (8 * o)), mul_assoc, Nat.add_mul_div_left _ _ (by positivity)]
  have hlow : (f base).toNat / 2 ^ (8 * o) < K := by
    rw [Nat.div_lt_iff_lt_mul (by positivity), mul_comm, ← hsplit]
    exact hA
  rw [hdiv]
  split
  next hn =>
    obtain ⟨q, hq⟩ : 2 ^ (8 * n) ∣ K := by
      rw [← hK]
      exact pow_dvd_pow 2 (by omega)
    rw [joinWords, joinWords, bitsOf, hq, mul_left_comm, Nat.add_mul_mod_self_left]
    simp
  next hn =>
    have hprod : 2 ^ (8 * n) = K * 2 ^ (8 * (o + n - 8)) := by
      rw [← hK, ← pow_add]
      congr 1
      omega
    have hK' : 2 ^ (8 * (8 - o)) = K := by
      rw [← hK]
      congr 1
      omega
    have hKpos : 0 < K := by rw [← hK]; positivity
    rw [joinWords, joinWords, joinWords, bitsOf, bitsOf, hprod, Nat.mod_mul, Nat.add_mul_mod_self_right,
      Nat.add_mul_div_right _ _ hKpos, Nat.div_eq_of_lt hlow, hK', Nat.zero_add]
    simp [hK', Nat.mul_comm]

/-- What a narrow load makes of its pen. -/
def loadNRes (fab : Bool) (n : Nat) (ins : Instr) (i : Iss) (rt rb : Reg) (m : AMode) (paired : Bool) (t : State) : Res (Pen → Pen) :=
  if !loadForm rt rb m then .exc (excIllegal 3) t
  else
    let read := (t.pen i.pen.val).read paired
    match checkAddr m rb read, t.runCtx i.pen.val paired with
    | .error e, _ => .exc e t
    | .ok (), none => .wait
    | .ok (), some (r, c) =>
      let a := modeAddr m 1 (read rb).val (modeIdx m read)
      (t.resolveParts c ins .read (narrowParts a.1 n)).bind (fun ps t =>
        match (if fab then none else t.farPart c ps) with
        | some p => .hold (.fabric p.h.cpa (t.onPortA c p.h.cpa) ins) t
        | none =>
          let x := (t.settle c ps).checkParts c r.lig false ps
          match firstFault x.1 with
          | some e => .exc e x.2
          | none => .ok (fun y => y.afterLoad paired rt rb a.2 (TWord.raw (BitVec.ofNat 64 (joinParts ps x.1 0)))) x.2)

theorem State.doLoadN_eq (s : State) (fab : Bool) (n : Nat) (ins : Instr) (i : Iss) (rt rb : Reg) (m : AMode) :
    s.doLoadN fab n ins i rt rb m = s.issueOne i ⟨.mem, rt :: rb :: modeRegs m, false⟩ (loadNRes fab n ins i rt rb m) := rfl

theorem narrowParts_ne_nil (va : Word) (n : Nat) : narrowParts va n ≠ [] := by
  rw [narrowParts]
  split <;> exact List.cons_ne_nil _ _

/-- A narrow load of RAW words that are served. -/
theorem loadNRes_ok {i : Iss} {rt rb : Reg} {m : AMode} {paired : Bool} {n : Nat} (hform : modeUpdates m = true → rt ≠ rb)
    (hr : t.runs i.pen.val = some r) (haddr : checkAddr m rb ((t.pen i.pen.val).read paired) = .ok ()) :
    let a := modeAddr m 1 ((t.pen i.pen.val).read paired rb).val (modeIdx m ((t.pen i.pen.val).read paired))
    (∀ q ∈ narrowParts a.1 n, t.Serves (t.ctxOf i.pen.val r paired) r false q.1 (TWord.raw (f q.1))) →
    loadNRes false n ins i rt rb m paired t =
      .ok (fun y => y.afterLoad paired rt rb a.2 (TWord.raw (BitVec.ofNat 64 (bytesAt f a.1 n)))) t := by
  intro a hserves
  obtain ⟨ps, hps, hall⟩ := State.resolveParts_ok (ins := ins) fun q hq => (hserves q hq).part (ins := ins)
  have hsb : (t.pen i.pen.val).sb = [] := by
    obtain ⟨q, hq⟩ := List.exists_mem_of_ne_nil _ (narrowParts_ne_nil a.1 n)
    obtain ⟨-, -, hsb, -⟩ := (hserves q hq).spec
    exact hsb
  have hfar : t.farPart (t.ctxOf i.pen.val r paired) ps = none := by
    have hnone : ps.find? (fun p => isRsv p.h.cpa) = none :=
      List.find?_eq_none.mpr fun p hp => ne_true_of_eq_false (partsServed_near hall p hp)
    have hsb' : (t.pen (t.ctxOf i.pen.val r paired).pen).sb = [] := hsb
    simp only [State.farPart, hsb', forwardOf_nil, hnone]
  have hsettle : t.settle (t.ctxOf i.pen.val r paired) ps = t := by
    have hsb' : (t.pen (t.ctxOf i.pen.val r paired).pen).sb = [] := hsb
    rw [State.settle, hsb', forwardOf_nil, if_neg (by decide)]
  have hchecks := State.checkParts_ok (g := fun q => TWord.raw (f q.1)) (hall.imp fun q p h => h.2.2)
  have hjoin := (joinParts_words hall 0).trans (joinWords_narrowParts f a.1 n)
  simp only [loadNRes, loadForm_ok hform, haddr, State.runCtx, hr, Option.map_some, Bool.not_true, Bool.false_eq_true, if_false]
  rw [hps]
  simp only [Res.bind, hfar, hsettle, hchecks, firstFault_ok, hjoin]
  rfl

end narrow

end Sys2Proof.Machine

namespace Sys2Proof.MarkaiInstructions

open Sys2Proof.Machine

/-- Settles O15: LD from the load of its word, the narrow loads from those of their parts. -/
theorem loadsComplete : Obligations.LoadsComplete := by
  refine ⟨fun s0 s i rt rb m w hi hgoes => ?_, ?_⟩
  · exact ⟨_, exec_issued (exec_ld i rt rb m s0) hi hgoes.res, State.LoadGoes.leaves s i rt rb m w⟩
  · intro s0 s i rt rb m r f u x t c a hi hr hform haddr ins n hins hserves
    have hpen : t.pen i.pen.val = x.2 := State.issued_pen ..
    have hrow : exec ins s0 = guarded (s0.ready i.pen.val) s0 (fun s => s.issueOne i u (loadNRes false n ins i rt rb m)) := by
      obtain ⟨rfl, rfl⟩ | ⟨rfl, rfl⟩ | ⟨rfl, rfl⟩ :
          (ins = .ldb i rt rb m ∧ n = 1) ∨ (ins = .ldh i rt rb m ∧ n = 2) ∨ (ins = .ldw i rt rb m ∧ n = 4) := by simpa using hins
      all_goals rfl
    have hres := loadNRes_ok (ins := ins) (n := n) (f := f) (paired := x.1) hform hr (by rw [hpen]; exact haddr)
      (by rw [hpen]; exact hserves)
    rw [hpen] at hres
    refine ⟨_, exec_issued hrow hi hres, ?_, State.onlyPens_issued ..⟩
    rw [State.issued_modPen]
    exact Pen.afterLoad_loaded ..

end Sys2Proof.MarkaiInstructions
end

section
/-! Bank atomics (R178, R282). -/

namespace Sys2Proof.Machine

/-- A word that is put at several addresses stands at each of them. -/
theorem State.pokeAll_spec (l : List Nat) (s : State) (w : TWord) :
    let v := l.foldl (fun t a => t.poke a w) s
    { v with mem := s.mem } = s ∧ (∀ a ∈ l, v.peek a = .clean w) ∧ (∀ b, (∀ a ∈ l, b / 8 ≠ a / 8) → v.peekCode b = s.peekCode b) := by
  induction l generalizing s with
  | nil => exact ⟨rfl, nofun, fun _ _ => rfl⟩
  | cons a l ih =>
    obtain ⟨hback, hput, hleft⟩ := ih (s.poke a w)
    rw [List.foldl_cons]
    generalize l.foldl (fun t a => t.poke a w) (s.poke a w) = v at hback hput hleft
    refine ⟨?_, ?_, fun b hb => ?_⟩
    · exact (congrArg (fun x : State => ({ x with mem := s.mem } : State)) hback).trans (State.poke_back s a w)
    · intro b hb
      by_cases hl : ∃ c ∈ l, b / 8 = c / 8
      · obtain ⟨c, hc, hbc⟩ := hl
        rw [State.peek_of_div hbc]
        exact hput c hc
      · have hba : b = a := (List.mem_cons.mp hb).resolve_right fun h => hl ⟨b, h, rfl⟩
        subst hba
        have hsame := hleft b fun c hc h => hl ⟨c, hc, h⟩
        exact (State.peek_of_code hsame).trans State.poke_peek_same
    · rw [List.forall_mem_cons] at hb
      rw [hleft b hb.2, State.poke_peekCode_other hb.1]

/-- Nothing of a pen is on its way. -/
theorem State.settleAll_none {t : State} {p : Nat} (hsb : (t.pen p).sb = []) (hfly : ∀ f ∈ t.flight, f.pen ≠ p) : t.settleAll p = t := by
  have hdrain : t.drainAll p = t := by
    rw [State.drainAll, hsb]
    rfl
  have hnone : t.flight.filter (fun f => f.pen = p) = [] := by
    rw [List.filter_eq_nil_iff]
    exact fun f hf => by simpa using hfly f hf
  rw [State.settleAll, hdrain, State.arriveTo, hnone]
  rfl

section atomic

variable {t : State} {i : Iss} {rt rb : Reg} {imm : BitVec 14} {r : Run} {paired : Bool} {ins : Instr} {cpa : Nat} {e : TlbEntry}
  {old new : TWord} {pre : TWord → Except Exc Unit} {f : TWord → TWord → Except Exc TWord}

/-- What an atomic makes of its pen, where its address has the form of R178. -/
def atomicRes (fab : Bool) (ins : Instr) (i : Iss) (rt rb : Reg) (m : AMode)
    (pre : TWord → Except Exc Unit) (f : TWord → TWord → Except Exc TWord) (paired : Bool) (t : State) : Res (Pen → Pen) :=
  let form : Bool := match m with
    | .off _ => true
    | .postInc _ | .preDec _ | .index _ _ => false
  if !form then .exc (excIllegal 3) t
  else
    let read := (t.pen i.pen.val).read paired
    let ok : Except Exc Unit := do
      checkAddr m rb read
      pre (read rt)
    match ok, t.runCtx i.pen.val paired with
    | .error e, _ => .exc e t
    | .ok (), none => .wait
    | .ok (), some (r, c) =>
      let a := modeAddr m 8 (read rb).val (modeIdx m read)
      if bitsOf a.1 0 3 ≠ 0 then .exc (excAlign a.1 true) t
      else (t.resolve c ins .write a.1).bind (fun h t =>
        if isRsv h.cpa && !fab then .hold (.fabric h.cpa (t.onPortA c h.cpa) ins) t
        else
          let t := t.settleAll c.pen
          let chk (w : TWord) : Except Exc Unit := ((f w (read rt)).map (fun _ => ())).mapError (fun e => { e with write := true })
          (t.readChecked c r.lig { write := true, notReg := true } h (t.readBank c h true) chk).bind (fun old u =>
            (t.firstWrite c ins h).bind (fun _ _ =>
              match f old (read rt) with
              | .error e => .exc e u
              | .ok new => .ok (fun x => (x.addLate rt old).done paired) ((u.wroteTo c h).atomicPut c h.cpa new))))

theorem State.doAtomic_eq (s : State) (fab : Bool) (m : AMode) :
    s.doAtomic fab ins i rt rb m pre f = s.issueOne i ⟨.mem, rt :: rb :: modeRegs m, false⟩ (atomicRes fab ins i rt rb m pre f) := rfl

/-- An atomic on an inkwell word that its run may write and reads clean (R178). -/
theorem atomicRes_ok (hr : t.runs i.pen.val = some r) (htag : ((t.pen i.pen.val).read paired rb).tag = Tag.ptr)
    (hpre : pre ((t.pen i.pen.val).read paired rt) = .ok ()) (hnew : f old ((t.pen i.pen.val).read paired rt) = .ok new) :
    let va := ((t.pen i.pen.val).read paired rb).val + BitVec.ofInt 64 (imm.toInt * 8)
    let c := t.ctxOf i.pen.val r paired
    bitsOf va 0 3 = 0 → t.Takes c r va e cpa → (t.pen i.pen.val).sb = [] → (∀ f ∈ t.flight, f.pen ≠ i.pen.val) →
    t.Holds c cpa old →
    atomicRes false ins i rt rb (.off imm) pre f paired t =
      .ok (fun x => (x.addLate rt old).done paired) ((t.wroteTo c ⟨va, cpa, e, false⟩).atomicPut c cpa new) := by
  intro va c halign htakes hsb hfly hholds
  have hink : isRsv cpa = false := by
    obtain ⟨-, -, hink, -⟩ := htakes
    exact (isInk_not hink).1
  have hsettle : t.settleAll c.pen = t := State.settleAll_none hsb hfly
  have hd : e.kind ≠ .versioned ∨ c.drafts.contains e.slot = true := by
    obtain ⟨-, -, -, -, -, hd⟩ := htakes
    exact hd
  have hfirst : t.firstWrite c ins ⟨va, cpa, e, false⟩ = .ok () t := (State.firstWrite_none hd).2.2
  have hresolve := htakes.resolve (i := ins) (second := false)
  have hread := State.readChecked_ok (hl := ⟨va, cpa, e, false⟩) (n := { write := true, notReg := true }) (w := old)
    (chk := fun w => ((f w ((t.pen i.pen.val).read paired rt)).map (fun _ => ())).mapError (fun e => { e with write := true }))
    htakes.refusal (State.Holds.readBank (hl := ⟨va, cpa, e, false⟩) (b := true) hholds) (by simp only [hnew]; rfl)
  have haddr : checkAddr (.off imm) rb ((t.pen i.pen.val).read paired) = .ok () := by
    simp only [checkAddr, checkTag_single (n := 0) (by decide) htag]
    rfl
  have hok : (do
      checkAddr (.off imm) rb ((t.pen i.pen.val).read paired)
      pre ((t.pen i.pen.val).read paired rt) : Except Exc Unit) = .ok () := by
    rw [haddr, hpre]
    rfl
  have hmode : modeAddr (.off imm) 8 ((t.pen i.pen.val).read paired rb).val
      (modeIdx (.off imm) ((t.pen i.pen.val).read paired)) = (va, none) := rfl
  simp only [atomicRes, hok, State.runCtx, hr, Option.map_some, hmode, halign, Bool.not_true, Bool.false_eq_true, ne_eq,
    not_true_eq_false, if_false]
  simp only [c] at hresolve hsettle hread hfirst ⊢
  simp only [hresolve, Res.bind, hink, Bool.false_and, Bool.false_eq_true, if_false, hsettle, hread, hfirst, hnew]

/-- The state after an atomic: its page is marked, its word replaced in every copy that its run writes. -/
theorem State.atomicPut_spec {c : Ctx} {h : Half} (hink : isInk h.cpa = true) (hd1 : h.e.d1 = true) (hd2 : h.e.d2 = true) :
    let v := (t.wroteTo c h).atomicPut c h.cpa new
    t.Marks v c.pen ∧ (∀ a ∈ t.runCopies c.pen c.home h.cpa, v.peek a = .clean new) ∧
    ∀ b, (∀ a ∈ t.runCopies c.pen c.home h.cpa, b / 8 ≠ a / 8) → v.peekCode b = t.peekCode b := by
  intro v
  obtain ⟨hm, -, hmem⟩ := t.marks_wroteTo c h
  have hmem := hmem hd1 hd2
  have hcopies : (t.wroteTo c h).runCopies c.pen c.home h.cpa = t.runCopies c.pen c.home h.cpa := by
    rw [State.runCopies, State.runCopies, hm.isJoined]
  have hv : v = (t.runCopies c.pen c.home h.cpa).foldl (fun u a => u.poke a new) (t.wroteTo c h) := by
    simp only [v, State.atomicPut, if_pos hink, hcopies]
  generalize t.wroteTo c h = u at hm hmem hv
  obtain ⟨hback, hput, hleft⟩ := State.pokeAll_spec (t.runCopies c.pen c.home h.cpa) u new
  rw [← hv] at hback hput hleft
  refine ⟨hm.trans (State.marks_of_mem hback), hput, fun b hb => (hleft b hb).trans ?_⟩
  rw [State.peekCode, State.peekCode, hmem]

/-- The pen after an atomic. -/
theorem Pen.MarkedFrom.addLate {x z : Pen} (h : z.MarkedFrom x []) (rt rb : Reg) (w : TWord) :
    x.Loaded { (z.addLate rt w).done paired with tlb := x.tlb, run := x.run } rt rb none w ∧
    x.SameRun ((z.addLate rt w).done paired) := by
  obtain ⟨hback, hsb, hrun⟩ := h
  rw [List.append_nil] at hsb
  have hback' : ({ z with tlb := x.tlb, run := x.run } : Pen) = x := by
    rw [← hsb] at hback
    exact hback
  rw [Pen.addLate_eq]
  refine ⟨⟨fun k => ?_, ?_, ?_, ?_, ?_⟩, hrun⟩
  · exact (congrArg (fun y : Pen => y.getB k) hback' :)
  · exact (congrArg Pen.status hback' :)
  · exact (congrArg (fun y : Pen => y.pc + 4) hback' :)
  · exact (congrArg (fun y : Pen => y.late ++ (if rt = 0 then [] else [⟨y.bank rt.val, w, 0⟩])) hback' :)
  · exact (congrArg (fun y : Pen => ({ y with
      regs := x.regs, spTask := x.spTask, spExec := x.spExec, status := x.status, pc := x.pc, late := x.late
      pair := x.pair } : Pen)) hback' :)

/-- The instruction row of an atomic, from its two checks. -/
theorem exec_atomic {s0 s : State} (hc : exec ins s0 = guarded (s0.ready i.pen.val) s0
      (fun s => s.issueOne i ⟨.mem, [rt, rb], false⟩ (atomicRes false ins i rt rb (.off imm) pre f))) :
    let u : Uses := ⟨.mem, [rt, rb], false⟩
    let x := s.issuing i u
    let t := s.issued i u
    let c := t.ctxOf i.pen.val r x.1
    let va := (x.2.read x.1 rb).val + BitVec.ofInt 64 (imm.toInt * 8)
    let d := x.2.read x.1 rt
    s0.Issues s i u → t.runs i.pen.val = some r → (x.2.read x.1 rb).tag = Tag.ptr → bitsOf va 0 3 = 0 →
    t.Takes c r va e cpa → e.d1 = true → e.d2 = true → x.2.sb = [] → (∀ f ∈ s.flight, f.pen ≠ i.pen.val) →
    t.Holds c cpa old → pre d = .ok () → f old d = .ok new →
    ∃ v, exec ins s0 = .next v ∧
      (∀ a ∈ t.runCopies i.pen.val r.home cpa, v.peek a = .clean new) ∧
      (∀ b, (∀ a ∈ t.runCopies i.pen.val r.home cpa, b / 8 ≠ a / 8) → v.peekCode b = s.peekCode b) ∧
      { v with mem := s.mem, pens := s.pens } = s ∧ s.OtherPens v i.pen.val ∧ x.2.SameRun (v.pen i.pen.val) ∧
      x.2.Loaded { v.pen i.pen.val with tlb := x.2.tlb, run := x.2.run } rt rb none old := by
  intro u x t c va d hi hr htag halign htakes hd1 hd2 hsb hfly hholds hpre hnew
  have hpen : t.pen i.pen.val = x.2 := State.issued_pen ..
  have hres := atomicRes_ok (ins := ins) (i := i) (rt := rt) (rb := rb) (imm := imm) (paired := x.1) (pre := pre) (f := f) (e := e)
    (cpa := cpa) (old := old) (new := new) hr (by rw [hpen]; exact htag) (by rw [hpen]; exact hpre) (by rw [hpen]; exact hnew)
    (by rw [hpen]; exact halign) (by rw [hpen]; exact htakes) (by rw [hpen]; exact hsb) hfly hholds
  rw [hpen] at hres
  have hexec := exec_issued hc hi hres
  have hink : isInk cpa = true := by
    obtain ⟨-, -, hink, -⟩ := htakes
    exact hink
  obtain ⟨hm, hput, hleft⟩ := State.atomicPut_spec (t := t) (new := new) (c := c) (h := ⟨va, cpa, e, false⟩) hink hd1 hd2
  generalize (t.wroteTo c ⟨va, cpa, e, false⟩).atomicPut c cpa new = w at hexec hm hput hleft
  obtain ⟨hz, hback, hothers⟩ := State.issued_marks hm
  obtain ⟨hloaded, hrun⟩ := hz.addLate (paired := x.1) rt rb old
  refine ⟨_, hexec, hput, hleft, ?_, hothers.modPen _, ?_, ?_⟩
  · exact (State.modPen_drop ..).trans hback
  · rw [State.modPen_pen_same]
    exact hrun
  · rw [State.modPen_pen_same]
    exact hloaded

end atomic

end Sys2Proof.Machine

namespace Sys2Proof.MarkaiInstructions

open Sys2Proof.Machine

/-- Settles O17: both atomics from the one row, with their own new word. -/
theorem atomicsComplete : Obligations.AtomicsComplete := by
  intro s0 s i rt rb imm r cpa e old u x t c va d hi hr htag halign htakes hd1 hd2 hsb hfly hholds ins new hins
  obtain ⟨rfl, hd, hold, rfl⟩ | ⟨rfl, rfl⟩ := hins
  · have hdtag : d.tag ∈ addTags ∧ d.tag ∈ [Tag.int, Tag.uint] := by
      obtain h | h := hd
      · rw [h]; decide
      · rw [h]; decide
    refine exec_atomic (pre := Sys2Proof.Machine.checkTag 2 [Tag.int, Tag.uint]) (f := atAdd) rfl hi hr htag halign htakes hd1 hd2
      hsb hfly hholds (checkTag_of_mem hdtag.1 hdtag.2) ?_
    rw [atAdd, checkTag_of_mem (by rw [hold]; exact hdtag.1) (by rw [hold]; exact hdtag.2)]
    exact if_pos hold
  · exact exec_atomic (pre := fun _ => .ok ()) (f := fun _ w => .ok w) rfl hi hr htag halign htakes hd1 hd2 hsb hfly hholds rfl rfl

end Sys2Proof.MarkaiInstructions
end

section
/-! Stores (R143, R144, R176, R177, R205). -/

namespace Sys2Proof.Machine

/-! ### The pen after a store -/

section pens

variable {x z : Pen} {paired : Bool} {l : List SbEntry}

theorem Pen.MarkedFrom.base (h : z.MarkedFrom x l) (rb : Reg) (nb : Option Word) :
    let y := (z.writeBase paired rb nb).done paired
    x.BaseAfter y rb nb ∧ y.status = x.status ∧ y.pc = x.pc + 4 ∧ y.late = x.lateAfter rb nb ∧ y.sb = x.sb ++ l ∧ x.SameRun y ∧
    x.SameRest { y with sb := x.sb, tlb := x.tlb, run := x.run } := by
  cases nb with
  | some w =>
    obtain ⟨hregs, hst, hpc, hlate, hsb, hrun, hrest⟩ := h.write (paired := paired) rb (TWord.ptr w)
    refine ⟨hregs, hst, congrArg (· + 4) hpc, hlate, hsb, hrun, ?_⟩
    exact (congrArg (fun y : Pen => ({ y with pc := x.pc, pair := x.pair } : Pen)) hrest :)
  | none =>
    obtain ⟨hback, hsb, hrun⟩ := h
    refine ⟨fun k => ?_, ?_, ?_, ?_, hsb, hrun, ?_⟩
    · exact (congrArg (fun y : Pen => y.getB k) hback :)
    · exact (congrArg Pen.status hback :)
    · exact (congrArg (fun y : Pen => y.pc + 4) hback :)
    · exact (congrArg Pen.late hback :)
    · exact (congrArg (fun y : Pen => ({ y with
        regs := x.regs, spTask := x.spTask, spExec := x.spExec, status := x.status, pc := x.pc, late := x.late
        pair := x.pair } : Pen)) hback :)

theorem Pen.MarkedFrom.stored (h : z.MarkedFrom x []) (rb : Reg) (nb : Option Word) (e : SbEntry) :
    x.Stored ((({ z with sb := z.sb ++ [e] } : Pen).writeBase paired rb nb).done paired) rb nb e :=
  (h.push e).base rb nb

end pens

/-! ### ST -/

section st

variable {s0 s t : State} {i : Iss} {rt rb : Reg} {m : AMode} {r : Run} {cpa : Nat} {e : TlbEntry} {paired : Bool}

/-- What ST makes of its pen. -/
def stRes (i : Iss) (rt rb : Reg) (m : AMode) (paired : Bool) (t : State) : Res (Pen → Pen) :=
  let read := (t.pen i.pen.val).read paired
  match checkAddr m rb read, t.runCtx i.pen.val paired with
  | .error e, _ => .exc e t
  | .ok (), none => .wait
  | .ok (), some (r, c) =>
    let a := modeAddr m 8 (read rb).val (modeIdx m read)
    if bitsOf a.1 0 3 ≠ 0 then .exc (excAlign a.1 true) t
    else (t.storeWord c r.lig (.st i rt rb m) a.1 (read rt)).bind (fun _ t =>
      .ok (fun x => (x.writeBase paired rb a.2).done paired) t)

theorem State.doSt_eq (s : State) (i : Iss) (rt rb : Reg) (m : AMode) :
    s.doSt i rt rb m = s.issueOne i ⟨.mem, rt :: rb :: modeRegs m, false⟩ (stRes i rt rb m) := rfl

theorem exec_st (i : Iss) (rt rb : Reg) (m : AMode) (s : State) : exec (.st i rt rb m) s =
    guarded (s.ready i.pen.val) s (fun s => s.issueOne i ⟨.mem, rt :: rb :: modeRegs m, false⟩ (stRes i rt rb m)) := rfl

theorem stRes_ok (hr : t.runs i.pen.val = some r) (haddr : checkAddr m rb ((t.pen i.pen.val).read paired) = .ok ()) :
    let read := (t.pen i.pen.val).read paired
    let a := modeAddr m 8 (read rb).val (modeIdx m read)
    let c := t.ctxOf i.pen.val r paired
    bitsOf a.1 0 3 = 0 → t.Takes c r a.1 e cpa → (t.pen i.pen.val).sbUsed + 1 ≤ 4 →
    stRes i rt rb m paired t = .ok (fun x => (x.writeBase paired rb a.2).done paired)
      ((t.wroteTo c ⟨a.1, cpa, e, false⟩).modPen i.pen.val (fun x => { x with
        sb := x.sb ++ [⟨[⟨cpa, true, 0xFF, read rt⟩], if e.kind = .versioned then some e.slot else none⟩] })) := by
  intro read a c halign htakes hroom
  have hstore := htakes.storeWord (i := .st i rt rb m) (w := read rt) hroom
  simp only [stRes, haddr, State.runCtx, hr, Option.map_some]
  refine (if_neg (not_not_intro halign)).trans ?_
  rw [hstore]
  rfl

/-- What ST leaves of a state in which it has issued. -/
theorem State.StoreGoes.res (h : s.StoreGoes i rt rb m r e cpa) :
    let u : Uses := ⟨.mem, rt :: rb :: modeRegs m, false⟩
    ∃ (w : State) (g : Pen → Pen), stRes i rt rb m (s.issuing i u).1 (s.issued i u) = .ok g w ∧
      s.StoreLeaves (w.modPen i.pen.val g) i rt rb m r e cpa := by
  intro u
  obtain ⟨hr, haddr, halign, htakes, hroom⟩ := h
  have hpen : (s.issued i u).pen i.pen.val = (s.issuing i u).2 := State.issued_pen ..
  have hres := stRes_ok (rt := rt) hr (by rw [hpen]; exact haddr) (by rw [hpen]; exact halign) (by rw [hpen]; exact htakes)
    (by rw [hpen]; exact hroom)
  rw [hpen] at hres
  refine ⟨_, _, hres, ?_⟩
  obtain ⟨hm, hwords, hmem⟩ := (s.issued i u).marks_wroteTo ((s.issued i u).ctxOf i.pen.val r (s.issuing i u).1)
    ⟨(modeAddr m 8 ((s.issuing i u).2.read (s.issuing i u).1 rb).val (modeIdx m ((s.issuing i u).2.read (s.issuing i u).1))).1, cpa, e, false⟩
  generalize (s.issued i u).wroteTo ((s.issued i u).ctxOf i.pen.val r (s.issuing i u).1)
    ⟨(modeAddr m 8 ((s.issuing i u).2.read (s.issuing i u).1 rb).val (modeIdx m ((s.issuing i u).2.read (s.issuing i u).1))).1, cpa, e, false⟩ = w
    at hm hwords hmem ⊢
  obtain ⟨hz, hback, hothers⟩ := State.issued_marks hm
  refine ⟨?_, ?_, (hothers.modPen _).modPen _, hwords, fun h1 h2 b => ?_⟩
  · rw [State.modPen_pen_same, State.modPen_pen_same]
    exact hz.stored rb _ _
  · exact (State.modPen_drop ..).trans ((State.modPen_drop ..).trans hback)
  · have hmem' : w.mem = s.mem := hmem h1 h2
    exact congrArg (fun v : Table Code => Table.get _ v (b / 8)) hmem'

end st

end Sys2Proof.Machine
end

section
/-! Narrow stores (R143, R176, R177). -/

namespace Sys2Proof.Machine

section narrow

variable {t : State} {c : Ctx} {r : Run} {ins : Instr} {g : Bool → TlbEntry × Nat × Word} {q : Word × Nat × Nat × Bool}
  {qs : List (Word × Nat × Nat × Bool)}

/-- Where a part of a narrow store lands, given the entry, the word's address and its payload for each half. -/
def partAt (g : Bool → TlbEntry × Nat × Word) (q : Word × Nat × Nat × Bool) : Part :=
  ⟨⟨q.1, (g q.2.2.2).2.1, (g q.2.2.2).1, q.2.2.2⟩, q.2.1, q.2.2.1⟩

/-- The page of a part takes it, and its word is a clean RAW word. -/
def State.PartTaken (t : State) (c : Ctx) (r : Run) (g : Bool → TlbEntry × Nat × Word) (q : Word × Nat × Nat × Bool) : Prop :=
  t.Takes c r q.1 (g q.2.2.2).1 (g q.2.2.2).2.1 ∧ t.Holds c (g q.2.2.2).2.1 (TWord.raw (g q.2.2.2).2.2) ∧
    (g q.2.2.2).1.d1 = true ∧ (g q.2.2.2).1.d2 = true

theorem State.resolveParts_takes (h : ∀ q ∈ qs, t.PartTaken c r g q) : t.resolveParts c ins .write qs = .ok (qs.map (partAt g)) t := by
  obtain ⟨ps, hps, hall⟩ := State.resolveParts_ok (t := t) (c := c) (ins := ins) (kind := .write) (P := fun q p => partAt g q = p)
    fun q hq => by
      obtain ⟨htakes, -⟩ := h q hq
      exact ⟨_, htakes.resolve, rfl⟩
  rw [hps]
  have hmap : List.Forall₂ Eq (qs.map (partAt g)) ps := List.forall₂_map_left_iff.mpr hall
  rw [List.forall₂_eq_eq_eq] at hmap
  rw [hmap]

theorem State.checkParts_takes (hsb : (t.pen c.pen).sb = []) (h : ∀ q ∈ qs, t.PartTaken c r g q) :
    t.checkParts c r.lig true (qs.map (partAt g)) = (qs.map (fun q => .ok (TWord.raw (g q.2.2.2).2.2)), t) := by
  refine State.checkParts_ok (g := fun q => TWord.raw (g q.2.2.2).2.2) ?_
  rw [List.forall₂_map_right_iff, List.forall₂_same]
  intro q hq
  obtain ⟨htakes, hholds, -⟩ := h q hq
  exact State.checkPart_ok (p := partAt g q) (fun _ _ => htakes.refusal) hsb hholds

/-- Pages that need no first write make none. -/
theorem State.firstWrites_none (h : ∀ q ∈ qs, t.PartTaken c r g q) : t.firstWrites c ins [] (qs.map (partAt g)) = .ok () t := by
  induction qs with
  | nil => rfl
  | cons q qs ih =>
    obtain ⟨⟨-, -, -, -, -, hd⟩, -⟩ := h q List.mem_cons_self
    obtain ⟨href, hfresh, hfirst⟩ := State.firstWrite_none (t := t) (i := ins) (h := (partAt g q).h) hd
    have ih := ih fun q' hq' => h q' (List.mem_cons_of_mem _ hq')
    rw [List.map_cons, State.firstWrites, href]
    dsimp only
    rw [hfresh, List.nil_append, ih]
    dsimp only
    rw [hfirst]
    exact ih

/-- The marks of a store's parts, with D set on their pages. -/
theorem State.marks_parts (ps : List Part) (hd : ∀ p ∈ ps, p.h.e.d1 = true ∧ p.h.e.d2 = true) (t : State) :
    let v := ps.foldl (fun t p => t.wroteTo c p.h) t
    t.Marks v c.pen ∧ v.mem = t.mem := by
  induction ps generalizing t with
  | nil => exact ⟨.refl _ _, rfl⟩
  | cons p ps ih =>
    obtain ⟨⟨h1, h2⟩, hrest⟩ := List.forall_mem_cons.mp hd
    obtain ⟨hm, -, hmem⟩ := t.marks_wroteTo c p.h
    obtain ⟨hm', hmem'⟩ := ih hrest (t.wroteTo c p.h)
    exact ⟨hm.trans hm', hmem'.trans (hmem h1 h2)⟩

theorem storeHalves_length (ps : List Part) (d : Nat) : (storeHalves ps d).length = ps.length := by
  induction ps generalizing d with
  | nil => rfl
  | cons p ps ih => rw [storeHalves, List.length_cons, List.length_cons, ih]

theorem narrowParts_length (va : Word) (n : Nat) : (narrowParts va n).length ≤ 2 := by
  rw [narrowParts]
  split
  · exact Nat.le_succ 1
  · exact Nat.le_refl 2

/-- What a narrow store of `n` bytes does at its address `a.1`, with the base `a.2` afterwards. -/
def State.storeParts (t : State) (c : Ctx) (lig : Bool) (ins : Instr) (paired : Bool) (rb : Reg) (a : Word × Option Word)
    (n d : Nat) : Res (Pen → Pen) :=
  (t.resolveParts c ins .write (narrowParts a.1 n)).bind (fun ps t =>
    let x := t.checkParts c lig true ps
    match firstFault x.1 with
    | some e => .exc e x.2
    | none => (t.firstWrites c ins [] ps).bind (fun _ _ =>
        let t := ps.foldl (fun t p => t.wroteTo c p.h) x.2
        let t := t.pushStore c.pen { halves := storeHalves ps d }
        .ok (fun x => (x.writeBase paired rb a.2).done paired) t))

/-- What a narrow store makes of its pen. -/
def storeNRes (n : Nat) (ins : Instr) (i : Iss) (rt rb : Reg) (m : AMode) (paired : Bool) (t : State) : Res (Pen → Pen) :=
  let read := (t.pen i.pen.val).read paired
  let ok : Except Exc Unit := do
    checkAddr m rb read
    Sys2Proof.Machine.checkTag 2 [Tag.int, Tag.uint, Tag.raw] (read rt)
  match ok, t.runCtx i.pen.val paired with
  | .error e, _ => .exc e t
  | .ok (), none => .wait
  | .ok (), some (r, c) =>
    t.storeParts c r.lig ins paired rb (modeAddr m 1 (read rb).val (modeIdx m read)) n (read rt).val.toNat

theorem State.doStoreN_eq (s : State) (n : Nat) (i : Iss) (rt rb : Reg) (m : AMode) :
    s.doStoreN n ins i rt rb m = s.issueOne i ⟨.mem, rt :: rb :: modeRegs m, false⟩ (storeNRes n ins i rt rb m) := rfl

/-- A narrow store whose parts are taken waits in the store buffer. -/
theorem State.storeParts_ok {paired : Bool} {rb : Reg} {a : Word × Option Word} {n d : Nat} (hsb : (t.pen c.pen).sb = [])
    (h : ∀ q ∈ narrowParts a.1 n, t.PartTaken c r g q) :
    ∃ w, t.Marks w c.pen ∧ w.mem = t.mem ∧
      t.storeParts c r.lig ins paired rb a n d = .ok (fun x => (x.writeBase paired rb a.2).done paired)
        (w.modPen c.pen (fun x => { x with
          sb := x.sb ++ [{ halves := storeHalves ((narrowParts a.1 n).map (partAt g)) d }] })) := by
  have hd : ∀ p ∈ (narrowParts a.1 n).map (partAt g), p.h.e.d1 = true ∧ p.h.e.d2 = true := by
    intro p hp
    obtain ⟨q, hq, rfl⟩ := List.mem_map.mp hp
    obtain ⟨-, -, hd⟩ := h q hq
    exact hd
  obtain ⟨hm, hmem⟩ := State.marks_parts (c := c) _ hd t
  have hlen : (storeHalves ((narrowParts a.1 n).map (partAt g)) d).length ≤ 2 := by
    rw [storeHalves_length, List.length_map]
    exact narrowParts_length a.1 n
  refine ⟨_, hm, hmem, ?_⟩
  rw [State.storeParts, State.resolveParts_takes h]
  simp only [Res.bind, State.checkParts_takes hsb h, firstFault_ok, State.firstWrites_none h]
  generalize ((narrowParts a.1 n).map (partAt g)).foldl (fun t p => t.wroteTo c p.h) t = w at hm
  have hused : (w.pen c.pen).sbUsed = 0 := by
    have hw : (w.pen c.pen).sb = [] := (hm.pen_field Pen.sb).trans hsb
    rw [Pen.sbUsed, hw]
    rfl
  have hroom : (w.pen c.pen).sbUsed + (storeHalves ((narrowParts a.1 n).map (partAt g)) d).length ≤ 4 := by omega
  rw [State.pushStore_room hroom]

theorem storeNRes_eq {i : Iss} {rt rb : Reg} {m : AMode} {paired : Bool} {n : Nat} (hr : t.runs i.pen.val = some r)
    (haddr : checkAddr m rb ((t.pen i.pen.val).read paired) = .ok ())
    (htag : ((t.pen i.pen.val).read paired rt).tag = Tag.int ∨ ((t.pen i.pen.val).read paired rt).tag = Tag.uint ∨
      ((t.pen i.pen.val).read paired rt).tag = Tag.raw) :
    let read := (t.pen i.pen.val).read paired
    storeNRes n ins i rt rb m paired t = t.storeParts (t.ctxOf i.pen.val r paired) r.lig ins paired rb
      (modeAddr m 1 (read rb).val (modeIdx m read)) n (read rt).val.toNat := by
  intro read
  have htag' : Sys2Proof.Machine.checkTag 2 [Tag.int, Tag.uint, Tag.raw] (read rt) = .ok () := by
    obtain htag | htag | htag := htag
    all_goals exact checkTag_of_mem (by rw [htag]; decide) (by rw [htag]; decide)
  have hok : (do
      checkAddr m rb read
      Sys2Proof.Machine.checkTag 2 [Tag.int, Tag.uint, Tag.raw] (read rt) : Except Exc Unit) = .ok () := by
    rw [haddr, htag']
    rfl
  simp only [storeNRes, State.runCtx, hr, Option.map_some]
  rw [hok]

/-- The halves of a narrow store in the store buffer. -/
theorem storeHalves_narrowParts (g : Bool → TlbEntry × Nat × Word) (va : Word) (n v : Nat) :
    let o := bitsOf va 0 3
    let half (second : Bool) (o n v : Nat) : SbHalf :=
      ⟨(g second).2.1, false, BitVec.ofNat 8 ((2 ^ n - 1) * 2 ^ o), TWord.raw (BitVec.ofNat 64 (v % 2 ^ (8 * n) * 2 ^ (8 * o)))⟩
    storeHalves ((narrowParts va n).map (partAt g)) v =
      if o + n ≤ 8 then [half false o n v] else [half false o (8 - o) v, half true 0 (o + n - 8) (v / 2 ^ (8 * (8 - o)))] := by
  intro o half
  rw [narrowParts]
  split
  · rfl
  · rfl

end narrow

end Sys2Proof.Machine
end

section
/-! The store buffer's drains and acknowledgements (R205, R211, R287). -/

namespace Sys2Proof.Machine

section drains

variable {s t : State} {p home line a : Nat} {h : SbHalf} {r : Run} {slot : Option Nat} {es : List SbEntry}

/-- A half is put at one copy of its word: whole, or merged into it (R287). -/
def State.putHalf (h : SbHalf) (t : State) (a : Nat) : State :=
  if h.full then t.poke a h.data else (t.mergeWord a h.bytes h.data.val).getD t

/-- What the half leaves of a word. -/
def SbHalf.onto (h : SbHalf) (w : TWord) : TWord := if h.full then h.data else ⟨w.tag, mergeBytes h.bytes h.data.val w.val⟩

theorem State.putHalf_eq {w : TWord} (hw : h.full = false → t.peek a = .clean w) : t.putHalf h a = t.poke a (h.onto w) := by
  rw [State.putHalf, SbHalf.onto]
  cases hf : h.full with
  | true => rfl
  | false =>
    simp only [Bool.false_eq_true, if_false, State.mergeWord, hw hf]
    rfl

/-- A half at all copies of its word. -/
theorem State.putHalf_copies (l : List Nat) (hl : (l.map (· / 8)).Nodup) (s : State)
    (hclean : h.full = false → ∀ a ∈ l, ∃ w, s.peek a = .clean w) :
    let v := l.foldl (State.putHalf h) s
    { v with mem := s.mem } = s ∧ (∀ b, (∀ a ∈ l, b / 8 ≠ a / 8) → v.peekCode b = s.peekCode b) ∧
    ∀ a ∈ l, (h.full = true → v.peek a = .clean h.data) ∧
      (h.full = false → ∀ w, s.peek a = .clean w → v.peek a = .clean ⟨w.tag, mergeBytes h.bytes h.data.val w.val⟩) := by
  induction l generalizing s with
  | nil => exact ⟨rfl, fun _ _ => rfl, nofun⟩
  | cons a l ih =>
    rw [List.map_cons, List.nodup_cons] at hl
    obtain ⟨hnot, hl⟩ := hl
    have hne (b : Nat) (hb : b ∈ l) : b / 8 ≠ a / 8 := fun h => hnot (h ▸ List.mem_map_of_mem hb)
    obtain ⟨w, hw⟩ : ∃ w, h.full = false → s.peek a = .clean w := by
      by_cases hf : h.full = false
      · obtain ⟨w, hw⟩ := hclean hf a List.mem_cons_self
        exact ⟨w, fun _ => hw⟩
      · exact ⟨h.data, fun h => absurd h hf⟩
    obtain ⟨hback, hleft, hput⟩ := ih hl (s.poke a (h.onto w)) fun hf b hb => by
      rw [State.poke_peek_other (hne b hb)]
      exact hclean hf b (List.mem_cons_of_mem _ hb)
    rw [List.foldl_cons, State.putHalf_eq hw]
    generalize l.foldl (State.putHalf h) (s.poke a (h.onto w)) = v at hback hleft hput
    have ha : v.peek a = .clean (h.onto w) :=
      (State.peek_of_code (hleft a fun b hb => (hne b hb).symm)).trans State.poke_peek_same
    refine ⟨?_, fun b hb => ?_, List.forall_mem_cons.mpr ⟨⟨fun hf => ?_, fun hf w' hw' => ?_⟩, fun b hb => ?_⟩⟩
    · exact (congrArg (fun x : State => ({ x with mem := s.mem } : State)) hback).trans (State.poke_back s a _)
    · rw [List.forall_mem_cons] at hb
      rw [hleft b hb.2, State.poke_peekCode_other hb.1]
    · rw [ha, SbHalf.onto, if_pos hf]
    · obtain rfl : w' = w := Judged.clean.inj (hw'.symm.trans (hw hf))
      rw [ha, SbHalf.onto, hf]
      rfl
    · obtain ⟨hfull, hnarrow⟩ := hput b hb
      refine ⟨hfull, fun hf w' hw' => hnarrow hf w' ?_⟩
      rw [State.poke_peek_other (hne b hb)]
      exact hw'

/-- The copies of an inkwell word are different words. -/
theorem State.runCopies_nodup (s : State) (p home cpa : Nat) : ((s.runCopies p home cpa).map (· / 8)).Nodup := by
  rw [State.runCopies]
  split
  · have hne : evenCpa cpa / 8 ≠ oddCpa cpa / 8 := by
      rw [evenCpa, oddCpa, inkBase, inkBase, evenOf, oddOf]
      omega
    simpa using hne
  · exact List.nodup_singleton _

/-- A half of a store arrives at its inkwell. -/
theorem State.performHalf_ink (hink : isInk h.cpa = true) (hready : t.bankReady h.cpa = true)
    (hclean : h.full = false → ∀ a ∈ t.runCopies p home h.cpa, ∃ w, t.peek a = .clean w) :
    t.badHalf p home h = none ∧ t.performHalf p home line h = (t.runCopies p home h.cpa).foldl (State.putHalf h) t := by
  obtain ⟨hrsv, hreg⟩ := isInk_not hink
  have hcopies : t.halfCopies p home h = t.runCopies p home h.cpa := if_pos hink
  have hbad : t.badHalf p home h = none := by
    rw [State.badHalf, hcopies, hreg, hready]
    cases hf : h.full with
    | true => rfl
    | false =>
      refine (if_neg (by decide)).trans (List.find?_eq_none.mpr fun a ha => ?_)
      obtain ⟨w, hw⟩ := hclean hf a ha
      rw [State.badWord, hw]
      exact Bool.false_ne_true
  refine ⟨hbad, ?_⟩
  simp only [State.performHalf, hreg, hrsv, hready, hbad, hcopies, Bool.false_eq_true, if_false, Bool.false_and, Bool.not_true]
  rfl

/-- The rest of the store buffer stands on its pen. -/
def State.popped (s : State) (p : Nat) (es : List SbEntry) : State := s.modPen p (fun x => { x with sb := es })

theorem State.popped_bankReady : (s.popped p es).bankReady a = s.bankReady a := by
  have hfill : ((s.popped p es).pen (inkPen a)).filling0 = (s.pen (inkPen a)).filling0 ∧
      ((s.popped p es).pen (inkPen a)).filling1 = (s.pen (inkPen a)).filling1 := by
    by_cases hp : inkPen a = p
    · rw [hp, State.popped, State.modPen_pen_same]
      exact ⟨rfl, rfl⟩
    · rw [State.popped, State.modPen_pen_other hp]
      exact ⟨rfl, rfl⟩
  have hon (n : Nat) : (s.popped p es).penOn n = s.penOn n := rfl
  have hrsv (n : Nat) : (s.popped p es).rsvOn n = s.rsvOn n ∧ (s.popped p es).rsvOf n = s.rsvOf n := ⟨rfl, rfl⟩
  simp only [State.bankReady, hfill, hon, hrsv]

theorem State.popped_runCopies {cpa : Nat} : (s.popped p es).runCopies p home cpa = s.runCopies p home cpa := by
  have hj : (s.popped p es).isJoined p = s.isJoined p := by
    rw [State.isJoined_eq, State.isJoined_eq, State.popped, State.modPen_pen_same]
  rw [State.runCopies, State.runCopies, hj]

/-- The oldest entry drains (R205): a half at an inkwell, and one that leaves as a request. -/
theorem State.drainOne_ink (hr : (s.pen p).run = some r) (hsb : (s.pen p).sb = ⟨[h], slot⟩ :: es) (hink : isInk h.cpa = true)
    (hbad : (s.popped p es).badHalf p r.home h = none) :
    s.drainOne p = ((s.popped p es).performHalf p r.home r.line h).modPen p (fun x => { x with acks := x.acks + 0 }) := by
  have hs : s.modPen p (fun x => { x with sb := es }) = s.popped p es := rfl
  simp only [State.drainOne, hsb, hr, hs, List.filter_cons, List.filter_nil, hink, Bool.not_true, Bool.false_eq_true, if_true,
    if_false, List.findSome?_cons, List.findSome?_nil, hbad, List.map_nil, List.append_nil, List.length_nil]
  rfl

theorem State.drainOne_far (hr : (s.pen p).run = some r) (hsb : (s.pen p).sb = ⟨[h], slot⟩ :: es) (hink : isInk h.cpa = false) :
    s.drainOne p = { (s.popped p es).modPen p (fun x => { x with acks := x.acks + 1 }) with
      flight := s.flight ++ [⟨p, r.home, r.line, h.cpa, some h, s.cyc⟩] } := by
  have hs : s.modPen p (fun x => { x with sb := es }) = s.popped p es := rfl
  simp only [State.drainOne, hsb, hr, hs, List.filter_cons, List.filter_nil, hink, Bool.not_false, Bool.false_eq_true, if_true,
    if_false, List.findSome?_nil, List.map_cons, List.map_nil, List.length_cons, List.length_nil]
  rfl

end drains

end Sys2Proof.Machine
end

section
/-! The obligation of stores: ST, the narrow stores, drains and acknowledgements. -/

namespace Sys2Proof.Machine

section drains

variable {s : State} {p cpa : Nat} {h : SbHalf} {r : Run} {slot : Option Nat} {es : List SbEntry} {col : Bool}

theorem exec_storeDrain {p : PenN} (hr : s.runs p.val = some r) (hsb : (s.pen p.val).sb = ⟨[h], slot⟩ :: es) :
    exec (.storeDrain p col) s = .next ((s.collide col h.cpa).drainOne p.val) := by
  have hcpa : (s.pen p.val).oldestCpa = h.cpa := by rw [Pen.oldestCpa, hsb]
  have hdue : ((s.runs p.val).isSome && decide ((s.pen p.val).sb ≠ [])) = true := by
    rw [hr, hsb]
    rfl
  refine (exec_of_due (c := .storeDrain p col) (s := s) (f := fun s => (s.collide col (s.pen p.val).oldestCpa).drainOne p.val) rfl
    hdue).trans ?_
  rw [hcpa]

/-- A collision changes its reservoir's count only (R281). -/
theorem State.collide_spec (s : State) (col : Bool) (cpa : Nat) : { s.collide col cpa with rsv := s.rsv } = s ∧
    ∀ n, (s.collide col cpa).rsvOf n = if col = true ∧ isRsv cpa = true ∧ n = rsvNum cpa
      then { s.rsvOf n with coll := satInc 0xFFFFFFFF (s.rsvOf n).coll } else s.rsvOf n := by
  by_cases hc : col = true ∧ isRsv cpa = true
  · have hcoll : s.collide col cpa = s.modRsv (rsvNum cpa) (fun r => { r with coll := satInc 0xFFFFFFFF r.coll }) :=
      (if_pos hc.1).trans (if_pos hc.2)
    rw [hcoll]
    refine ⟨rfl, fun n => ?_⟩
    by_cases hn : n = rsvNum cpa
    · rw [if_pos ⟨hc.1, hc.2, hn⟩, hn, State.modRsv_rsvOf_same]
    · rw [if_neg fun h => hn h.2.2, State.modRsv_rsvOf_other hn]
  · have hcoll : s.collide col cpa = s := by
      rw [State.collide]
      split
      next h => exact if_neg fun h' => hc ⟨h, h'⟩
      next => rfl
    rw [hcoll]
    exact ⟨rfl, fun n => (if_neg fun h => hc ⟨h.1, h.2.1⟩).symm⟩

theorem State.collide_ink (hink : isInk cpa = true) : s.collide col cpa = s := by
  have hcount : s.countColl cpa = s := if_neg (ne_true_of_eq_false (isInk_not hink).1)
  rw [State.collide, hcount, ite_self]

/-- The oldest store of an inkwell is performed in every copy that the run writes (R205, R287). -/
theorem State.drainOne_ink_spec (hr : (s.pen p).run = some r) (hsb : (s.pen p).sb = ⟨[h], slot⟩ :: es) (hink : isInk h.cpa = true)
    (hready : s.bankReady h.cpa = true)
    (hclean : h.full = false → ∀ a ∈ s.runCopies p r.home h.cpa, ∃ w, s.peek a = .clean w) :
    let t := s.drainOne p
    { t with mem := s.mem, pens := s.pens } = s ∧ t.pen p = { s.pen p with sb := es } ∧ (∀ q, q ≠ p → t.pen q = s.pen q) ∧
    (∀ b, (∀ a ∈ s.runCopies p r.home h.cpa, b / 8 ≠ a / 8) → t.peekCode b = s.peekCode b) ∧
    (∀ a ∈ s.runCopies p r.home h.cpa,
      (h.full = true → t.peek a = .clean h.data) ∧
      (h.full = false → ∀ w, s.peek a = .clean w → t.peek a = .clean ⟨w.tag, mergeBytes h.bytes h.data.val w.val⟩)) := by
  intro t
  have hcopies : (s.popped p es).runCopies p r.home h.cpa = s.runCopies p r.home h.cpa := State.popped_runCopies
  have hpeek (a : Nat) : (s.popped p es).peek a = s.peek a := rfl
  have hcode (a : Nat) : (s.popped p es).peekCode a = s.peekCode a := rfl
  have hdrop : { s.popped p es with mem := s.mem, pens := s.pens } = s := State.modPen_drop ..
  have hpop : (s.popped p es).pen p = { s.pen p with sb := es } := State.modPen_pen_same
  have hpop' (q : Nat) (hq : q ≠ p) : (s.popped p es).pen q = s.pen q := State.modPen_pen_other hq
  have hclean' : h.full = false → ∀ a ∈ (s.popped p es).runCopies p r.home h.cpa, ∃ w, (s.popped p es).peek a = .clean w := by
    rw [hcopies]
    exact hclean
  obtain ⟨hbad, hperform⟩ := State.performHalf_ink (line := r.line) hink (State.popped_bankReady.trans hready) hclean'
  have ht : t = ((s.popped p es).performHalf p r.home r.line h).modPen p (fun x => { x with acks := x.acks + 0 }) :=
    State.drainOne_ink hr hsb hink hbad
  obtain ⟨hback, hleft, hput⟩ := State.putHalf_copies ((s.popped p es).runCopies p r.home h.cpa)
    (State.runCopies_nodup ..) (s.popped p es) hclean'
  rw [← hperform, hcopies] at hleft hput
  rw [← hperform] at hback
  clear_value t
  subst ht
  generalize (s.popped p es).performHalf p r.home r.line h = v at hback hleft hput ⊢
  generalize s.popped p es = u at hback hleft hput hpeek hcode hdrop hpop hpop' ⊢
  have hvpen (q : Nat) : v.pen q = u.pen q := (congrArg (fun x : State => x.pen q) hback :)
  refine ⟨?_, ?_, fun q hq => ?_, fun b hb => (hleft b hb).trans (hcode b), fun a ha => ?_⟩
  · refine (State.modPen_drop ..).trans (Eq.trans ?_ hdrop)
    exact (congrArg (fun x : State => ({ x with mem := s.mem, pens := s.pens } : State)) hback :)
  · rw [State.modPen_pen_same, hvpen, hpop]
    rfl
  · rw [State.modPen_pen_other hq, hvpen, hpop' q hq]
  · obtain ⟨hfull, hnarrow⟩ := hput a ha
    exact ⟨hfull, fun hf w hw => hnarrow hf w ((hpeek a).trans hw)⟩

theorem State.withFlight_pen (u : State) (l : List Flight) (q : Nat) : ({ u with flight := l } : State).pen q = u.pen q := rfl

theorem State.withFlight_drop (u s : State) (l : List Flight) :
    ({ { u with flight := l } with pens := s.pens, flight := s.flight } : State) = { u with pens := s.pens, flight := s.flight } := rfl

theorem State.modPen_dropFlight (u s : State) (p : Nat) (f : Pen → Pen) :
    { u.modPen p f with pens := s.pens, flight := s.flight } = { u with pens := s.pens, flight := s.flight } := rfl

/-- A store elsewhere leaves as a request (R205, R211). -/
theorem State.drainOne_far_spec (hr : (s.pen p).run = some r) (hsb : (s.pen p).sb = ⟨[h], slot⟩ :: es) (hink : isInk h.cpa = false) :
    let t := s.drainOne p
    { t with pens := s.pens, flight := s.flight } = s ∧ t.pen p = { s.pen p with sb := es, acks := (s.pen p).acks + 1 } ∧
    (∀ q, q ≠ p → t.pen q = s.pen q) ∧ t.flight = s.flight ++ [⟨p, r.home, r.line, h.cpa, some h, s.cyc⟩] := by
  intro t
  have ht : t = _ := State.drainOne_far hr hsb hink
  have hdrop : { s.popped p es with pens := s.pens, flight := s.flight } = s := State.modPen_dropFlight s s p _
  have hpop : (s.popped p es).pen p = { s.pen p with sb := es } := State.modPen_pen_same
  have hpop' (q : Nat) (hq : q ≠ p) : (s.popped p es).pen q = s.pen q := State.modPen_pen_other hq
  clear_value t
  subst ht
  generalize s.popped p es = u at hdrop hpop hpop' ⊢
  refine ⟨?_, ?_, fun q hq => ?_, rfl⟩
  · exact (State.withFlight_drop ..).trans ((State.modPen_dropFlight ..).trans hdrop)
  · rw [State.withFlight_pen, State.modPen_pen_same, hpop]
  · rw [State.withFlight_pen, State.modPen_pen_other hq, hpop' q hq]

end drains

/-! ### Acknowledgements (R211) -/

section acks

variable {s : State} {f : Flight} {rest : List Flight} {h : SbHalf}

theorem exec_storeAck {p : PenN} {crc : Bool} (hr : (s.runs p.val).isSome = true) (ha : (s.pen p.val).acks ≠ 0) :
    exec (.storeAck p crc) s = .next (if crc then raised (s.stopPen p.val pfFabric 0)
      else (s.arriveTo p.val ((s.pen p.val).acks - 1)).modPen p.val (fun x => { x with acks := x.acks - 1 })) := by
  have hdue : ((s.runs p.val).isSome && decide ((s.pen p.val).acks ≠ 0)) = true := by
    rw [hr, decide_eq_true ha]
    rfl
  exact exec_of_due (c := .storeAck p crc) (s := s) (f := fun s => if crc then raised (s.stopPen p.val pfFabric 0)
    else (s.arriveTo p.val ((s.pen p.val).acks - 1)).modPen p.val (fun x => { x with acks := x.acks - 1 })) rfl hdue

/-- Fewer requests are on their way than acknowledgements are awaited: none arrives. -/
theorem State.arriveTo_none {p n : Nat} (h : (s.flight.filter (fun f => f.pen = p)).length ≤ n) : s.arriveTo p n = s := by
  rw [State.arriveTo, Nat.sub_eq_zero_of_le h]
  rfl

theorem State.arriveTo_one {p n : Nat} (h : s.flight.filter (fun f => f.pen = p) = f :: rest) (hn : (f :: rest).length = n + 1) :
    s.arriveTo p n = State.arrive f s := by
  have hone : (f :: rest).length - n = 1 := by omega
  rw [State.arriveTo, h, hone]
  rfl

/-- A store request arrives at a reservoir that its sender still owns (R211, R278). -/
theorem State.arrive_rsv (hhalf : f.half = some h) (hfull : h.full = true) (hrsv : isRsv h.cpa = true)
    (hready : s.bankReady h.cpa = true) (howner : (s.rsvOf (rsvNum h.cpa)).owner = f.home) :
    State.arrive f s = ({ s with flight := s.flight.erase f } : State).poke h.cpa h.data := by
  obtain ⟨hink, hreg⟩ := isRsv_not hrsv
  let u : State := { s with flight := s.flight.erase f }
  have hready' : u.bankReady h.cpa = true := hready
  have howner' : (u.rsvOf (rsvNum h.cpa)).owner = f.home := howner
  have hbad : u.badHalf f.pen f.home h = none := by rw [State.badHalf, hfull]; rfl
  have hcopies : u.halfCopies f.pen f.home h = [h.cpa] := if_neg (ne_true_of_eq_false hink)
  have hu : State.arrive f s = u.performHalf f.pen f.home f.line h := by simp only [State.arrive, hhalf, u]
  rw [hu]
  have hcall : u.performHalf f.pen f.home f.line h = u.poke h.cpa h.data := by
    clear_value u
    simp only [State.performHalf, hreg, hrsv, howner', hready', hbad, hcopies, hfull, Bool.false_eq_true, if_false, if_true,
      ne_eq, not_true_eq_false, decide_false, Bool.and_false, Bool.not_true, List.foldl_cons, List.foldl_nil]
  exact hcall

end acks

end Sys2Proof.Machine
end

section
/-! The obligation of stores. -/

namespace Sys2Proof.MarkaiInstructions

open Sys2Proof.Machine

section narrow

variable {s0 s : State} {i : Iss} {rt rb : Reg} {m : AMode} {r : Run} {g : Bool → TlbEntry × Nat × Word} {ins : Instr} {n : Nat}

/-- A narrow store whose parts are taken, from its issue on. -/
theorem exec_storeN :
    let u : Uses := ⟨.mem, rt :: rb :: modeRegs m, false⟩
    let x := s.issuing i u
    let t := s.issued i u
    let a := modeAddr m 1 (x.2.read x.1 rb).val (modeIdx m (x.2.read x.1))
    let d := x.2.read x.1 rt
    exec ins s0 = guarded (s0.ready i.pen.val) s0 (fun s => s.issueOne i u (storeNRes n ins i rt rb m)) →
    s0.Issues s i u → t.runs i.pen.val = some r → checkAddr m rb (x.2.read x.1) = .ok () →
    (d.tag = Tag.int ∨ d.tag = Tag.uint ∨ d.tag = Tag.raw) → x.2.sb = [] →
    (∀ q ∈ narrowParts a.1 n, t.PartTaken (t.ctxOf i.pen.val r x.1) r g q) →
    ∃ v, exec ins s0 = .next v ∧ { v with pens := s.pens } = s ∧ s.OtherPens v i.pen.val ∧
      x.2.Stored (v.pen i.pen.val) rb a.2 { halves := storeHalves ((narrowParts a.1 n).map (partAt g)) d.val.toNat } := by
  intro u x t a d hc hi hr haddr htag hsb hparts
  have hpen : t.pen i.pen.val = x.2 := State.issued_pen ..
  have heq := storeNRes_eq (ins := ins) (n := n) (rb := rb) (m := m) (rt := rt) (paired := x.1) hr (by rw [hpen]; exact haddr)
    (by rw [hpen]; exact htag)
  rw [hpen] at heq
  obtain ⟨w, hm, hmem, hres⟩ := State.storeParts_ok (ins := ins) (paired := x.1) (rb := rb) (a := a) (n := n) (d := d.val.toNat)
    (by rw [State.ctxOf, hpen]; exact hsb) hparts
  have hexec := exec_issued hc hi (heq.trans hres)
  have hm : t.Marks w i.pen.val := hm
  have hmem : w.mem = s.mem := hmem
  obtain ⟨hz, hback, hothers⟩ := State.issued_marks hm
  refine ⟨_, hexec, ?_, (hothers.modPen _).modPen _, ?_⟩
  · have hmem' : ({ w with pens := s.pens } : State) = { w with mem := s.mem, pens := s.pens } := by rw [← hmem]
    exact (State.modPen_dropPens ..).trans ((State.modPen_dropPens ..).trans (hmem'.trans hback))
  · rw [State.modPen_pen_same]
    have hpush : (w.modPen (t.ctxOf i.pen.val r x.1).pen (fun y => { y with
        sb := y.sb ++ [{ halves := storeHalves ((narrowParts a.1 n).map (partAt g)) d.val.toNat }] })).pen i.pen.val = _ :=
      State.modPen_pen_same
    rw [hpush]
    exact hz.stored rb a.2 _

end narrow

/-- A state whose words and requests alone differ, after one more acknowledgement. -/
theorem State.acked_back {s w : State} {p : Nat} {f : Pen → Pen} (h : { w with mem := s.mem, flight := s.flight } = s) :
    { w.modPen p f with pens := s.pens } = { s with mem := (w.modPen p f).mem, flight := (w.modPen p f).flight } := by
  have hpens : w.pens = s.pens := (congrArg State.pens h :)
  have hself : { w with pens := s.pens } = w := by rw [← hpens]
  rw [State.modPen_dropPens, State.modPen_mem, State.modPen_flight, hself]
  exact (congrArg (fun x : State => ({ x with mem := w.mem, flight := w.flight } : State)) h :)

/-- The state after an acknowledgement whose store has been performed. -/
theorem State.acked_spec {s w : State} {p a : Nat} {d : TWord} {l : List Flight} {f : Pen → Pen}
    (hws : { w with mem := s.mem, flight := s.flight } = s) (hput : w.peek a = .clean d)
    (hleft : ∀ b, b / 8 ≠ a / 8 → w.peekCode b = s.peekCode b) (hfly : w.flight = l) :
    (w.modPen p f).peek a = .clean d ∧ (∀ b, b / 8 ≠ a / 8 → (w.modPen p f).peekCode b = s.peekCode b) ∧
    (w.modPen p f).flight = l ∧ (w.modPen p f).pen p = f (s.pen p) ∧
    OnlyPens [p] { s with mem := (w.modPen p f).mem, flight := (w.modPen p f).flight } (w.modPen p f) := by
  have hwpen (q : Nat) : w.pen q = s.pen q := (congrArg (fun x : State => x.pen q) hws :)
  refine ⟨hput, hleft, hfly, ?_, State.acked_back (s := s) hws, fun q hq => ?_⟩
  · rw [State.modPen_pen_same, hwpen]
  · rw [State.modPen_pen_other (by simpa using hq)]
    exact hwpen q

/-- A word that is put after requests are taken from their list. -/
theorem State.poke_drop {s u : State} {a : Nat} {d : TWord} {l : List Flight} (hu : { s with flight := l } = u) :
    { u.poke a d with mem := s.mem, flight := s.flight } = s ∧ (u.poke a d).flight = l ∧ (∀ b, u.peekCode b = s.peekCode b) := by
  have hmem : u.mem = s.mem := by rw [← hu]
  have hfly : u.flight = l := by rw [← hu]
  have hback : { u with flight := s.flight } = s := by rw [← hu]
  have hw := State.poke_back u a d
  rw [hmem] at hw
  refine ⟨(congrArg (fun x : State => ({ x with flight := s.flight } : State)) hw).trans hback, ?_, fun b => ?_⟩
  · exact (congrArg State.flight hw :).trans hfly
  · rw [State.peekCode, hmem, State.peekCode]

/-- A request that an acknowledgement takes back has arrived at its reservoir. -/
theorem exec_storeAck_rsv {p : PenN} {s : State} {f : Flight} {h : SbHalf} {rest : List Flight} (hr : (s.runs p.val).isSome = true)
    (hacks : (s.pen p.val).acks ≠ 0) (hmine : s.flight.filter (fun f => f.pen = p.val) = f :: rest)
    (hlen : (f :: rest).length = (s.pen p.val).acks) (hhalf : f.half = some h) (hfull : h.full = true)
    (hrsv : isRsv h.cpa = true) (hready : s.bankReady h.cpa = true) (howner : (s.rsvOf (rsvNum h.cpa)).owner = f.home) :
    ∃ t, exec (.storeAck p false) s = .next t ∧ t.peek h.cpa = .clean h.data ∧
      (∀ b, b / 8 ≠ h.cpa / 8 → t.peekCode b = s.peekCode b) ∧ t.flight = s.flight.erase f ∧
      t.pen p.val = { s.pen p.val with acks := (s.pen p.val).acks - 1 } ∧
      OnlyPens [p.val] { s with mem := t.mem, flight := t.flight } t := by
  have harrive := (State.arriveTo_one (n := (s.pen p.val).acks - 1) hmine (by omega)).trans
    (State.arrive_rsv hhalf hfull hrsv hready howner)
  refine ⟨_, (exec_storeAck (crc := false) hr hacks).trans (congrArg _ (if_neg Bool.false_ne_true)), ?_⟩
  rw [harrive]
  obtain ⟨hback, hfly, hcode⟩ := State.poke_drop (s := s) (a := h.cpa) (d := h.data) (l := s.flight.erase f) rfl
  exact State.acked_spec hback State.poke_peek_same (fun b hb => (State.poke_peekCode_other hb).trans (hcode b)) hfly

/-- Settles O16: the stores from their pages' marks, the drains from the copies of their word, the acknowledgements from the
requests on their way. -/
theorem storesComplete : Obligations.StoresComplete := by
  refine ⟨?st, ?narrow, ?drain, ?ack⟩
  case st =>
    intro s0 s i rt rb m r cpa e hi hgoes
    obtain ⟨w, g, hres, hleaves⟩ := hgoes.res
    exact ⟨_, exec_issued (exec_st i rt rb m s0) hi hres, hleaves⟩
  case narrow =>
    intro s0 s i rt rb m r g u x t c a d hi hr haddr htag hsb ins n hins hparts o half
    have hrow : exec ins s0 = guarded (s0.ready i.pen.val) s0 (fun s => s.issueOne i u (storeNRes n ins i rt rb m)) := by
      obtain ⟨rfl, rfl⟩ | ⟨rfl, rfl⟩ | ⟨rfl, rfl⟩ :
          (ins = .stb i rt rb m ∧ n = 1) ∨ (ins = .sth i rt rb m ∧ n = 2) ∨ (ins = .stw i rt rb m ∧ n = 4) := by simpa using hins
      all_goals rfl
    obtain ⟨v, hv, hback, hothers, hstored⟩ := exec_storeN hrow hi hr haddr htag hsb hparts
    rw [storeHalves_narrowParts] at hstored
    exact ⟨v, hv, hback, hothers, hstored⟩
  case drain =>
    intro p s r h slot es col hr hsb
    have hrun := State.run_of_runs hr
    refine ⟨fun hink hready hclean => ?_, fun hink => ?_⟩
    · refine ⟨_, exec_storeDrain hr hsb, ?_⟩
      rw [State.collide_ink hink]
      exact State.drainOne_ink_spec hrun hsb hink hready hclean
    · refine ⟨_, exec_storeDrain hr hsb, ?_⟩
      obtain ⟨hback, hcoll⟩ := s.collide_spec col h.cpa
      generalize s.collide col h.cpa = u at hback hcoll
      have hpen (q : Nat) : u.pen q = s.pen q := (congrArg (fun x : State => x.pen q) hback :)
      have hfly : u.flight = s.flight := (congrArg State.flight hback :)
      have hcyc : u.cyc = s.cyc := (congrArg State.cyc hback :)
      obtain ⟨hdrop, hown, hothers, hflight⟩ := State.drainOne_far_spec (s := u) (by rw [hpen]; exact hrun) (by rw [hpen]; exact hsb) hink
      generalize u.drainOne p.val = t at hdrop hown hothers hflight
      refine ⟨?_, ?_, fun q hq => ?_, ?_, fun n => ?_⟩
      · exact (congrArg (fun x : State => ({ x with pens := s.pens, rsv := s.rsv, flight := s.flight } : State)) hdrop :).trans
          (congrArg (fun x : State => ({ x with pens := s.pens, flight := s.flight } : State)) hback :)
      · rw [hown, hpen]
      · rw [hothers q hq, hpen]
      · rw [hflight, hfly, hcyc]
      · have hrsv : t.rsvOf n = u.rsvOf n := (congrArg (fun x : State => x.rsvOf n) hdrop :)
        rw [hrsv, hcoll]
  case ack =>
    intro p s hr hacks acked mine
    refine ⟨fun hfew => ?_, fun f rest h hmine hlen hhalf _ hfull hrsv hready howner => ?_, ?_⟩
    · refine (exec_storeAck (crc := false) hr hacks).trans (congrArg _ ((if_neg Bool.false_ne_true).trans ?_))
      have hfew' : mine.length ≤ (s.pen p.val).acks - 1 := by omega
      rw [State.arriveTo_none hfew']
    · exact exec_storeAck_rsv hr hacks hmine (by rw [← hmine]; exact hlen) hhalf hfull hrsv hready howner
    · exact (exec_storeAck (crc := true) hr hacks).trans (congrArg _ (if_pos rfl))

end Sys2Proof.MarkaiInstructions
end

section
/-! Loads in flight: the load delay, and loads that hold their pen (R145, R197, R209, R212). -/

namespace Sys2Proof.Machine

/-! ### Late results (R145) -/

section late

variable {x : Pen} {k : Nat} {u : Uses}

/-- The last late result of a register is what a write of them all leaves. -/
theorem Pen.foldl_putB_getB (l : List Late) (x : Pen) (k : Nat) : (l.foldl (fun y e => y.putB e.reg e.val) x).getB k =
    ((l.filter (fun e => e.reg = k)).getLast?.elim (x.getB k) fun e => if k = 0 then x.getB k else e.val) := by
  induction l using List.reverseRecOn with
  | nil => rfl
  | append_singleton l e ih =>
    rw [List.foldl_append, List.foldl_cons, List.foldl_nil, Pen.getB_putB, List.filter_append, ih]
    by_cases he : e.reg = k
    · have hlast : ([e].filter fun e => e.reg = k) = [e] := by simp [he]
      rw [hlast, List.getLast?_append, List.getLast?_singleton, Option.some_or, Option.elim_some]
      by_cases hk : k = 0
      · rw [if_neg (by omega), if_pos hk]
        cases (l.filter (fun e => e.reg = k)).getLast? with
        | none => rfl
        | some d => exact if_pos hk
      · rw [if_pos ⟨by omega, he.symm⟩, if_neg hk]
    · have hnone : ([e].filter fun e => e.reg = k) = [] := by simp [he]
      rw [hnone, List.append_nil, if_neg fun h => he h.2.symm]

theorem Pen.writeLate_getB (x : Pen) (due : Late → Bool) (k : Nat) : (x.writeLate due).getB k =
    ((x.late.filter (fun e => due e && e.reg = k)).getLast?.elim (x.getB k) fun e => if k = 0 then x.getB k else e.val) := by
  have hfilter : (x.late.filter due).filter (fun e => e.reg = k) = x.late.filter (fun e => due e && e.reg = k) := by
    rw [List.filter_filter]
    exact List.filter_congr fun e _ => Bool.and_comm _ _
  rw [← hfilter]
  exact Pen.foldl_putB_getB (x.late.filter due) x k

/-- Results of registers other than `k` leave it. -/
theorem Pen.openPair_getB (h : ∀ e ∈ x.late, 1 ≤ e.age → e.reg ≠ k) : (x.openPair u).getB k = x.getB k := by
  have hnone : x.late.filter (fun e => decide (1 ≤ e.age) && decide (e.reg = k)) = [] := by
    rw [List.filter_eq_nil_iff]
    intro e he
    rw [Bool.and_eq_true, decide_eq_true_eq, decide_eq_true_eq]
    exact fun hk => h e he hk.1 hk.2
  refine (x.writeLate_getB (fun l => 1 ≤ l.age) k).trans ?_
  rw [hnone]
  rfl

theorem Pen.openPair_late (x : Pen) (u : Uses) :
    (x.openPair u).late = (x.late.filter (fun l => !decide (1 ≤ l.age))).map fun l => { l with age := l.age + 1 } := rfl

theorem Pen.openPair_late_reg (h : ∀ e ∈ x.late, e.reg ≠ k) : ∀ e ∈ (x.openPair u).late, e.reg ≠ k := by
  rw [Pen.openPair_late]
  intro e he
  obtain ⟨d, hd, rfl⟩ := List.mem_map.mp he
  exact h d (List.mem_of_mem_filter hd)

/-- A load's word is written at the second pair after its own (R145). -/
theorem Pen.openPair_loaded {w : TWord} {l : List Late} {v : Uses} (hk : k ≠ 0) (hlate : x.late = l ++ [⟨k, w, 0⟩]) :
    ((x.openPair u).openPair v).getB k = w := by
  have hlast : (x.openPair u).late = ((l.filter (fun l => !decide (1 ≤ l.age))).map fun l => { l with age := l.age + 1 }) ++ [⟨k, w, 1⟩] := by
    rw [Pen.openPair_late, hlate, List.filter_append, List.map_append]
    rfl
  refine ((x.openPair u).writeLate_getB (fun l => 1 ≤ l.age) k).trans ?_
  have hone : ([⟨k, w, 1⟩] : List Late).filter (fun e => decide (1 ≤ e.age) && decide (e.reg = k)) = [⟨k, w, 1⟩] := by simp
  rw [hlast, List.filter_append, hone, List.getLast?_append, List.getLast?_singleton, Option.some_or, Option.elim_some, if_neg hk]

/-- A later instruction's write discards the load (R145). -/
theorem Pen.writeB_late_reg (x : Pen) (k : Nat) (w : TWord) : ∀ e ∈ (x.writeB k w).late, e.reg ≠ k := by
  rw [Pen.writeB_late]
  intro e he
  simpa using (List.mem_filter.mp he).2

theorem Pen.writeB_getB_same (w : TWord) (hk : k ≠ 0) : (x.writeB k w).getB k = w := by
  rw [Pen.writeB_getB, if_pos ⟨hk, rfl⟩]

theorem Pen.openPair_writeB {z : TWord} (hk : k ≠ 0) : ((x.writeB k z).openPair u).getB k = z :=
  (Pen.openPair_getB fun e he _ => x.writeB_late_reg k z e he).trans (Pen.writeB_getB_same z hk)

/-- The values that are due are written (R197). -/
theorem Pen.putB_rest (x : Pen) (k : Nat) (w : TWord) :
    { x.putB k w with regs := x.regs, spTask := x.spTask, spExec := x.spExec } = x := by
  unfold Pen.putB
  split_ifs <;> rfl

theorem Pen.foldl_putB_rest (l : List Late) (x : Pen) :
    { l.foldl (fun y e => y.putB e.reg e.val) x with regs := x.regs, spTask := x.spTask, spExec := x.spExec } = x := by
  induction l generalizing x with
  | nil => rfl
  | cons e l ih =>
    exact (congrArg (fun y : Pen => ({ y with regs := x.regs, spTask := x.spTask, spExec := x.spExec } : Pen))
      (ih (x.putB e.reg e.val))).trans (x.putB_rest e.reg e.val)

/-- The pen after LOAD_WRITEBACK. -/
def Pen.lateWritten (x : Pen) : Pen := { x.writeLate (fun l => 1 ≤ l.age) with pair := none }

theorem Pen.lateWritten_spec (x : Pen) :
    (∀ k, x.lateWritten.getB k = (x.late.filter (fun e => 1 ≤ e.age ∧ e.reg = k)).getLast?.elim (x.getB k)
      fun e => if k = 0 then x.getB k else e.val) ∧
    x.lateWritten.late = x.late.filter (fun e => e.age = 0) ∧ x.lateWritten.pair = none ∧ x.lateWritten.status = x.status ∧
    x.lateWritten.pc = x.pc ∧ x.SameRest x.lateWritten := by
  have hrest := Pen.foldl_putB_rest (x.late.filter (fun l => 1 ≤ l.age)) x
  refine ⟨fun k => ?_, ?_, rfl, ?_, ?_, ?_⟩
  · refine (x.writeLate_getB (fun l => 1 ≤ l.age) k).trans ?_
    rw [List.filter_congr fun e _ => (Bool.decide_and ..).symm]
  · refine List.filter_congr fun e _ => ?_
    rw [Bool.eq_iff_iff, Bool.not_eq_true', decide_eq_false_iff_not, decide_eq_true_eq]
    omega
  · exact (congrArg Pen.status hrest :)
  · exact (congrArg Pen.pc hrest :)
  · exact (congrArg (fun y : Pen => ({ y with status := x.status, pc := x.pc, late := x.late, pair := x.pair } : Pen)) hrest :)

end late

/-! ### Loads that hold their pen -/

section held

variable {s t u v : State} {i : Iss} {us : Uses} {f : Bool → State → Res (Pen → Pen)} {g : Pen → Pen}

/-- A pen that executes a run goes on in the slot in which its instruction was admitted. -/
theorem State.slot_of_admitted (hr : (t.runs i.pen.val).isSome = true) (hadm : t.admitted i.pen.val (t.issuing i us).1 = some u)
    {r : Run} (hrun : (u.issued i us).runs i.pen.val = some r) : (u.issuing i us).1 = (t.issuing i us).1 := by
  obtain ⟨⟨hst, -, -, hpair⟩, -⟩ := State.admitted_shows hr hadm
  have hsome : (u.pen i.pen.val).run ≠ none := by
    have hpen : (u.issued i us).pen i.pen.val = (u.issuing i us).2 := State.issued_pen ..
    have hsame : (u.issuing i us).2.run = (u.pen i.pen.val).run := (congrArg Pen.run (u.issuing_same i us) :)
    rw [← hsame, ← hpen, State.run_of_runs hrun]
    exact Option.some_ne_none r
  obtain ⟨hpair, hmul, -⟩ := hpair.resolve_left hsome
  have hbank (r : Reg) : (u.pen i.pen.val).bank r.val = (t.pen i.pen.val).bank r.val := by
    rw [Pen.bank, Pen.bank, Pen.task, Pen.task, hst]
  simp only [State.issuing, Pen.pairs, Pen.mulDep, hpair, hmul, hbank]

/-- An instruction that issues again after a hold, and ends normally. -/
theorem State.reissue_ok (hadm : t.admitted i.pen.val (t.issuing i us).1 = some u) (hslot : (u.issuing i us).1 = (t.issuing i us).1)
    (h : f (u.issuing i us).1 (u.issued i us) = .ok g v) : t.issueOne i us f = v.modPen i.pen.val g := by
  refine State.issueOne_ok hadm ?_
  rw [← hslot]
  exact h

/-- LD goes on where it is admitted again, with all that it needs. -/
theorem State.LoadGoes.doLd {rt rb : Reg} {m : AMode} {fab : Bool} {w : TWord} (h : u.LoadGoes i rt rb m fab w)
    (hadm : t.admitted i.pen.val (t.issuing i ⟨.mem, rt :: rb :: modeRegs m, false⟩).1 = some u)
    (hslot : (u.issuing i ⟨.mem, rt :: rb :: modeRegs m, false⟩).1 = (t.issuing i ⟨.mem, rt :: rb :: modeRegs m, false⟩).1) :
    OnlyPens [i.pen.val] u (t.doLd fab i rt rb m) ∧
    (u.loadPen i rt rb m).Loaded ((t.doLd fab i rt rb m).pen i.pen.val) rt rb (u.loadBase i rt rb m) w := by
  rw [State.doLd_eq, State.reissue_ok hadm hslot h.res]
  exact State.LoadGoes.leaves u i rt rb m w

theorem State.admitted_runs {p : Nat} {b : Bool} (hhold : (t.pen p).hold = .none) (hadm : t.admitted p b = some u) :
    (t.runs p).isSome = true := by
  rw [State.admitted, hhold] at hadm
  dsimp only at hadm
  split at hadm
  · cases hadm
  · split at hadm
    · cases hadm
    next h => rw [h]; rfl

/-- The pen of a load that only holds it. -/
theorem State.unissue_eq {s0 : State} {h : Hold} (hr : (s0.runs i.pen.val).isSome = true)
    (hadm : s0.admitted i.pen.val (s0.issuing i us).1 = some s) {r : Run} (hrun : (s.issued i us).runs i.pen.val = some r) :
    (s.issuing i us).2.unissue (s0.pen i.pen.val) h = { s.pen i.pen.val with hold := h } := by
  obtain ⟨⟨hst, -, ⟨hregs, htask, hexec⟩, hpair⟩, -⟩ := State.admitted_shows hr hadm
  have hsame := s.issuing_same i us
  have hsome : (s.pen i.pen.val).run ≠ none := by
    have hpen : (s.issued i us).pen i.pen.val = (s.issuing i us).2 := State.issued_pen ..
    have hkept : (s.issuing i us).2.run = (s.pen i.pen.val).run := (congrArg Pen.run hsame :)
    rw [← hkept, ← hpen, State.run_of_runs hrun]
    exact Option.some_ne_none r
  obtain ⟨hpair, hmul, hlate⟩ := hpair.resolve_left hsome
  rw [Pen.unissue, ← hst, ← hregs, ← htask, ← hexec, ← hpair, ← hmul, ← hlate]
  exact (congrArg (fun x : Pen => ({ x with hold := h } : Pen)) hsame :)

/-- A load that holds its pen, and changes nothing else. -/
theorem exec_held {c : Instr} {s0 : State} {h : Hold} {r : Run}
    (hc : exec c s0 = guarded (s0.ready i.pen.val) s0 (fun s => s.issueOne i us f)) (hi : s0.Issues s i us)
    (hrun : (s.issued i us).runs i.pen.val = some r) (hf : f (s.issuing i us).1 (s.issued i us) = .hold h (s.issued i us)) :
    ∃ v, exec c s0 = .next v ∧ OnlyPens [i.pen.val] s v ∧ v.pen i.pen.val = { s.pen i.pen.val with hold := h } := by
  have hr : (s0.runs i.pen.val).isSome = true := by
    obtain ⟨hready, -⟩ := hi
    rw [State.ready, Bool.and_eq_true] at hready
    exact hready.1
  refine ⟨_, (exec_of_due hc hi.1).trans (congrArg _ (hi.issueOne_hold hf)), State.onlyPens_issued .., ?_⟩
  rw [State.issued_modPen]
  exact State.unissue_eq hr hi.2.1 hrun

/-- No waiting store writes a word that none names (R207). -/
theorem forwardOf_memory {sb : List SbEntry} {a : Nat} {b : BitVec 8} (h : ∀ y ∈ sb, ∀ h ∈ y.halves, h.cpa ≠ a) :
    forwardOf sb [(a, b)] = .memory := by
  have hnone : (sb.flatMap (·.halves)).filter (fun h => [(a, b)].any fun p => h.cpa = p.1 && (h.full || h.bytes &&& p.2 ≠ 0)) = [] := by
    rw [List.filter_eq_nil_iff]
    intro x hx
    obtain ⟨y, hy, hxy⟩ := List.mem_flatMap.mp hx
    simp [h y hy x hxy]
  rw [forwardOf]
  simp only [hnone, List.getLast?_nil]

end held

end Sys2Proof.Machine
end

section
/-! The obligation of loads in flight. -/

namespace Sys2Proof.Machine

section holds

variable {s : State} {i : Iss} {p : PenN} {rt rb : Reg} {m : AMode} {cpa : Nat} {portA col : Bool} {va : Word}

/-- A response that a load is held for (R20, R209). -/
theorem exec_fabricResponse {c : Instr} (hr : (s.runs p.val).isSome = true) (hhold : (s.pen p.val).hold = .fabric cpa portA c) (crc : Bool) :
    exec (.fabricResponse p crc col) s = .next (if crc then raised (s.stopPen p.val pfFabric 0)
      else (((s.arriveTo p.val 0).staleRead p.val cpa portA).collide col cpa).release p.val true c) := by
  refine (exec_of_due (c := .fabricResponse p crc col) (s := s) (f := fun s => s.fabricResponse p.val crc col) rfl hr).trans
    (congrArg _ ?_)
  simp only [State.fabricResponse, hhold]

/-- A walk that an access is held for has ended (R258). -/
theorem exec_tableWalkDone {s0 : State} {r : Run} {c : Instr} (hr0 : (s0.runs p.val).isSome = true) (hs : s0.arriveTo p.val 0 = s)
    (hr : s.runs p.val = some r) (hhold : (s.pen p.val).hold = .walk va .read false c) :
    exec (.tableWalkDone p) s0 = .next
      (match (s.walkFor (s.ctxOf p.val r false) va .read).1 with
      | .ok () => (s.walkFor (s.ctxOf p.val r false) va .read).2.release p.val false c
      | .error f => ((s.walkFor (s.ctxOf p.val r false) va .read).2.takeExc p.val (excTrans f va .read false)
          ((s.pen p.val).blkDone ≠ 0)).getD s) := by
  refine (exec_of_due (c := .tableWalkDone p) (s := s0) (f := fun s => s.walkDone p.val) rfl hr0).trans (congrArg _ ?_)
  simp only [State.walkDone, hs, hhold, hr] <;> rfl

theorem State.rerun_ld (s : State) (fab : Bool) (i : Iss) (rt rb : Reg) (m : AMode) : s.rerun fab (.ld i rt rb m) = s.doLd fab i rt rb m := rfl

/-- A load in flight for the fabric is admitted as it stands (R209). -/
theorem State.admitted_fabric {t : State} {b : Bool} {q : Nat} {c : Instr} (h : (t.pen q).hold = .fabric cpa portA c) :
    t.admitted q b = some t := by
  rw [State.admitted, h]

end holds

end Sys2Proof.Machine

namespace Sys2Proof.MarkaiInstructions

open Sys2Proof.Machine

/-- Settles O18: late results by the lists in which they wait, held loads by the issue that their hold's end repeats. -/
theorem loadsInFlight : Obligations.LoadsInFlight := by
  refine ⟨⟨?delay, ?writeback⟩, ⟨?fabric, ?walk⟩, ?held⟩
  case delay =>
    intro x u v k w l hk hlate hl
    have hyoung : ∀ e ∈ x.late, 1 ≤ e.age → e.reg ≠ k := by
      rw [hlate]
      intro e he hage
      obtain he | he := List.mem_append.mp he
      · exact hl e he
      · obtain rfl := List.mem_singleton.mp he
        exact absurd hage (Nat.not_succ_le_zero 0)
    refine ⟨Pen.openPair_getB hyoung, Pen.openPair_loaded hk hlate, fun z => ⟨Pen.openPair_writeB hk, ?_⟩⟩
    refine (Pen.openPair_getB fun e he _ => ?_).trans (Pen.openPair_writeB hk)
    exact Pen.openPair_late_reg (x.writeB_late_reg k z) e he
  case writeback =>
    intro p s hr hhold hlate
    have hdue : ((s.runs p.val).isSome && (s.pen p.val).hold.betweenPairs && (s.pen p.val).late.any (fun l => 1 ≤ l.age)) = true := by
      obtain ⟨e, he, hage⟩ := hlate
      have hany : (s.pen p.val).late.any (fun l => 1 ≤ l.age) = true := List.any_eq_true.mpr ⟨e, he, decide_eq_true hage⟩
      rw [hr, hhold, hany]
      rfl
    refine ⟨_, exec_of_due (c := .loadWriteback p) (s := s) (f := fun s => s.modPen p.val Pen.lateWritten) rfl hdue,
      onlyPens_modPen, ?_⟩
    rw [State.modPen_pen_same]
    obtain ⟨hget, hrest⟩ := (s.pen p.val).lateWritten_spec
    refine ⟨fun k => (hget k).trans ?_, hrest⟩
    cases ((s.pen p.val).late.filter (fun e => 1 ≤ e.age ∧ e.reg = k)).getLast? with
    | none => rfl
    | some e => rfl
  case fabric =>
    intro p s second col portA cpa rt rb m w i hr hhold
    refine ⟨(exec_fabricResponse hr hhold true).trans (congrArg _ (if_pos rfl)), ?_⟩
    intro t hthold hgoes
    obtain ⟨honly, hloaded⟩ := hgoes.doLd (t := t) (i := i) (State.admitted_fabric hthold) rfl
    exact ⟨_, (exec_fabricResponse hr hhold false).trans (congrArg _ (if_neg Bool.false_ne_true)), honly, hloaded⟩
  case walk =>
    intro p s0 r second va rt rb m w i s walk t hr0 hr hhold
    have hexec := exec_tableWalkDone hr0 rfl hr hhold
    refine ⟨fun f hf => hexec.trans ?_, fun u hok hadm hgoes => ?_⟩
    · simp only [walk] at hf ⊢
      rw [hf]
      rfl
    · have hthold : (t.pen p.val).hold = .none := by
        have htp : t.pen p.val = { walk.2.pen p.val with hold := .none } := State.modPen_pen_same
        rw [htp]
      have hslot := State.slot_of_admitted (i := i) (State.admitted_runs hthold hadm) hadm hgoes.choose_spec.1
      obtain ⟨honly, hloaded⟩ := hgoes.doLd hadm hslot
      refine ⟨_, hexec.trans ?_, honly, hloaded⟩
      simp only [walk] at hok
      rw [hok]
      rfl
  case held =>
    intro s0 s i rt rb m r u x t c a held hi hr hform haddr halign
    have hpen : t.pen i.pen.val = x.2 := State.issued_pen ..
    have hres := ldRes_eq (fab := false) (rt := rt) (paired := x.1) hform hr (by rw [hpen]; exact haddr) (by rw [hpen]; exact halign)
    rw [hpen] at hres
    refine ⟨fun hmiss => ?_, fun e hhit hrsv hsb => ?_⟩
    · refine exec_held (exec_ld i rt rb m s0) hi hr (hres.trans ?_)
      have hload : t.loadWord c r.lig false (.ld i rt rb m) a.1 = .hold (.walk a.1 .read false (.ld i rt rb m)) t := by
        simp only [State.loadWord, State.resolve, hmiss, Res.bind]
      rw [hload]
      rfl
    · refine exec_held (exec_ld i rt rb m s0) hi hr (hres.trans ?_)
      have hforward : forwardOf (t.pen c.pen).sb [(t.frameCpa c e a.1, 0xFF)] = .memory := by
        have hpen' : t.pen c.pen = x.2 := hpen
        rw [hpen']
        exact forwardOf_memory hsb
      have hport : t.onPortA c (t.frameCpa c e a.1) = decide ((t.rsvOf (rsvNum (t.frameCpa c e a.1))).owner = r.home) := by
        rw [State.onPortA, hrsv, Bool.true_and]
        rfl
      have hload : t.loadWord c r.lig false (.ld i rt rb m) a.1 = .hold (.fabric (t.frameCpa c e a.1)
          (decide ((t.rsvOf (rsvNum (t.frameCpa c e a.1))).owner = r.home)) (.ld i rt rb m)) t := by
        simp only [State.loadWord, State.resolve, hhit, Res.bind, hforward, onFabric, hrsv, hport, Bool.true_or, Bool.not_false,
          Bool.and_true, if_true]
      rw [hload]
      rfl

end Sys2Proof.MarkaiInstructions
end

section
/-! Draft copies (R70, R72, R73). -/

namespace Sys2Proof.Machine

section copies

variable {s : State} {source line n src dst : Nat} {cls : Option Nat}

/-- A copy of clean words to places apart from them. -/
theorem State.copyWords_clean (n : Nat) (src dst : Nat) (s : State) (hclean : ∀ j, j < n → ∃ w, s.peek (src + 8 * j) = .clean w)
    (hapart : ∀ i j, i < n → j < n → (src + 8 * i) / 8 ≠ (dst + 8 * j) / 8) :
    let v := State.copyWords source cls line n src dst s
    { v with mem := s.mem } = s ∧ (∀ j, j < n → v.peek (dst + 8 * j) = s.peek (src + 8 * j)) ∧
    ∀ b, (∀ j, j < n → b / 8 ≠ (dst + 8 * j) / 8) → v.peekCode b = s.peekCode b := by
  induction n generalizing src dst s with
  | zero => exact ⟨rfl, nofun, fun _ _ => rfl⟩
  | succ n ih =>
    obtain ⟨w, hw⟩ := hclean 0 (Nat.succ_pos n)
    have hw : s.peek src = .clean w := hw
    have hstep : State.copyWords source cls line (n + 1) src dst s =
        State.copyWords source cls line n (src + 8) (dst + 8) (s.poke dst w) := by
      rw [State.copyWords, hw]
    have hnext (a j : Nat) : a + 8 + 8 * j = a + 8 * (j + 1) := by omega
    have hleft (i : Nat) (hi : i < n + 1) : (s.poke dst w).peek (src + 8 * i) = s.peek (src + 8 * i) :=
      State.poke_peek_other (hapart i 0 hi (Nat.succ_pos n))
    obtain ⟨hback, hput, hother⟩ := ih (src + 8) (dst + 8) (s.poke dst w)
      (fun j hj => by
        rw [hnext, hleft (j + 1) (by omega)]
        exact hclean (j + 1) (by omega))
      (fun i j hi hj => by
        rw [hnext, hnext]
        exact hapart (i + 1) (j + 1) (by omega) (by omega))
    rw [hstep]
    generalize State.copyWords source cls line n (src + 8) (dst + 8) (s.poke dst w) = v at hback hput hother
    refine ⟨?_, fun j hj => ?_, fun b hb => ?_⟩
    · exact (congrArg (fun x : State => ({ x with mem := s.mem } : State)) hback).trans (State.poke_back s dst w)
    · cases j with
      | zero =>
        have hsame : v.peekCode dst = (s.poke dst w).peekCode dst := hother dst fun j hj => by omega
        exact ((State.peek_of_code hsame).trans State.poke_peek_same).trans hw.symm
      | succ j =>
        rw [← hnext, hput j (by omega), hnext, hleft (j + 1) (by omega)]
    · rw [hother b fun j hj => by rw [hnext]; exact hb (j + 1) (by omega), State.poke_peekCode_other]
      exact hb 0 (Nat.succ_pos n)

end copies

section draft

variable {s : State} {p slot : Nat} {r : Run}

/-- What a draft copy changes beside the words that it copies (R70). -/
def State.draftOpened (s : State) (p slot : Nat) : State :=
  (((s.noteFirst slot).modVslot slot (fun v => { v with st := .drafted, feedDraft := false, drafter := p })).modPen p
    (fun x => { x with run := x.run.map (fun r => { r with drafts := r.drafts ++ [slot] }) }))

theorem State.draftOpened_spec (hr : (s.pen p).run = some r) :
    let t := s.draftOpened p slot
    t.mem = s.mem ∧ t.vslot slot = { s.vslot slot with st := .drafted, feedDraft := false, drafter := p } ∧
    (∀ n, n ≠ slot → t.vslot n = s.vslot n) ∧
    t.pen p = { s.pen p with run := some { r with drafts := r.drafts ++ [slot] } } ∧ (∀ q, q ≠ p → t.pen q = s.pen q) ∧
    { t with mem := s.mem, pens := s.pens, vt := s.vt, trc := s.trc } = s ∧ t.trc = (s.noteFirst slot).trc := by
  intro t
  have hnote : { s.noteFirst slot with trc := s.trc } = s := rfl
  have hvslot (n : Nat) : (s.noteFirst slot).vslot n = s.vslot n := rfl
  have hpen (q : Nat) : (s.noteFirst slot).pen q = s.pen q := rfl
  have ht : t = ((s.noteFirst slot).modVslot slot (fun v => { v with st := .drafted, feedDraft := false, drafter := p })).modPen p
    (fun x => { x with run := x.run.map (fun r => { r with drafts := r.drafts ++ [slot] }) }) := rfl
  clear_value t
  subst ht
  generalize s.noteFirst slot = u at hnote hvslot hpen
  have hmem : u.mem = s.mem := (congrArg State.mem hnote :)
  refine ⟨?_, ?_, fun n hn => ?_, ?_, fun q hq => ?_, ?_, ?_⟩
  · rw [State.modPen_mem, State.modVslot_mem, hmem]
  · rw [State.modPen_vslot, State.modVslot_vslot_same, hvslot]
  · rw [State.modPen_vslot, State.modVslot_vslot_other hn, hvslot]
  · rw [State.modPen_pen_same, State.modVslot_pen, hpen, hr]
    rfl
  · rw [State.modPen_pen_other hq, State.modVslot_pen, hpen]
  · exact (congrArg (fun x : State => ({ x with mem := s.mem, pens := s.pens, vt := s.vt } : State)) hnote :)
  · rw [State.modPen_trc, State.modVslot_trc]

/-- A frame of a run's own inkwells is its own copy. -/
theorem ownCopy_home {cpa : Nat} (hpen : inkPen cpa = p) : ownCopy p p cpa = cpa := by
  rw [ownCopy]
  split
  · rw [inkBase, ← hpen, inkPen]
    omega
  · rfl

theorem State.draftCopy_eq (s : State) (p slot : Nat) (r : Run) : s.draftCopy p slot r =
    (((s.runCopies p r.home ((s.vslot slot).fairFrame * 4096)).zip (s.runCopies p r.home ((s.vslot slot).draftFrame * 4096))).foldl
      (fun (t : State) (e : Nat × Nat) => t.copyWords srcCopy (some 0x15) r.line 512 e.1 e.2) (s.draftOpened p slot)).noteWrote
      p ((s.vslot slot).draftFrame * 4096) := rfl

/-- The draft copy of a DUPLEX run is one copy of 512 words between frames of its own inkwells. -/
theorem State.draftCopy_duplex (hr : (s.pen p).run = some r) (hm : r.mode = .duplex) (hhome : r.home = p)
    (hfair : inkPen ((s.vslot slot).fairFrame * 4096) = p) (hdraft : inkPen ((s.vslot slot).draftFrame * 4096) = p) :
    s.draftCopy p slot r = (State.copyWords srcCopy (some 0x15) r.line 512 ((s.vslot slot).fairFrame * 4096)
      ((s.vslot slot).draftFrame * 4096) (s.draftOpened p slot)).noteWrote p ((s.vslot slot).draftFrame * 4096) := by
  have hj : s.isJoined p = false := by
    rw [State.isJoined_eq, hr]
    simp [hm]
  have hcopies (a : Nat) (ha : inkPen a = p) : s.runCopies p r.home a = [a] := by
    rw [State.runCopies, hj, hhome, ownCopy_home ha]
    rfl
  rw [State.draftCopy_eq, hcopies _ hfair, hcopies _ hdraft, List.zip_cons_cons, List.zip_nil_left, List.foldl_cons, List.foldl_nil]

/-- A run that is not SOLO notes no page that it writes (R113). -/
theorem State.noteWrote_run {v : State} {cpa : Nat} (hr : (v.pen p).run = some r) (hm : r.mode ≠ .solo) :
    (v.noteWrote p cpa).pen p = v.pen p ∧ (∀ q, q ≠ p → (v.noteWrote p cpa).pen q = v.pen q) ∧
    { v.noteWrote p cpa with pens := v.pens } = v := by
  rw [State.noteWrote]
  split
  · refine ⟨?_, fun q hq => State.modPen_pen_other hq, State.modPen_dropPens ..⟩
    rw [State.modPen_pen_same, hr]
    have hmode : (decide (r.mode = .solo) && !r.wrote.contains (cpa % 0x80000 / 4096)) = false := by
      rw [decide_eq_false hm, Bool.false_and]
    have hrun : (some r).map (fun r : Run => if (decide (r.mode = .solo) && !r.wrote.contains (cpa % 0x80000 / 4096)) = true
        then { r with wrote := r.wrote ++ [cpa % 0x80000 / 4096] } else r) = (v.pen p).run := by
      rw [hr, Option.map_some, hmode]
      rfl
    rw [hrun]
  · exact ⟨rfl, fun _ _ => rfl, rfl⟩

/-- What a copy and its note leave of a state. -/
theorem State.copied_back {s u w z : State} (hback : { u with mem := s.mem, pens := s.pens, vt := s.vt, trc := s.trc } = s)
    (hw : { w with mem := u.mem } = u) (hz : { z with pens := w.pens } = w) :
    (∀ q, w.pen q = u.pen q) ∧ (∀ b, z.peekCode b = w.peekCode b) ∧ (∀ n, z.vslot n = u.vslot n) ∧ z.trc = u.trc ∧
    { z with mem := s.mem, pens := s.pens, vt := s.vt, trc := s.trc } = s := by
  have hmem : z.mem = w.mem := (congrArg State.mem hz :)
  refine ⟨fun q => (congrArg (fun x : State => x.pen q) hw :), fun b => ?_, fun n => ?_, ?_, ?_⟩
  · rw [State.peekCode, hmem, State.peekCode]
  · exact (congrArg (fun x : State => x.vslot n) hz :).trans (congrArg (fun x : State => x.vslot n) hw :)
  · exact (congrArg State.trc hz :).trans (congrArg State.trc hw :)
  · exact (congrArg (fun x : State => ({ x with mem := s.mem, pens := s.pens, vt := s.vt, trc := s.trc } : State)) hz :).trans
      ((congrArg (fun x : State => ({ x with mem := s.mem, pens := s.pens, vt := s.vt, trc := s.trc } : State)) hw :).trans hback)

theorem State.pen_of_mem {u w : State} (hw : { w with mem := u.mem } = u) (q : Nat) : w.pen q = u.pen q :=
  (congrArg (fun x : State => x.pen q) hw :)

/-- The draft copy of a page of clean words (R70). -/
theorem State.draftCopy_spec (hr : (s.pen p).run = some r) (hm : r.mode = .duplex) (hhome : r.home = p)
    (hfair : inkPen ((s.vslot slot).fairFrame * 4096) = p) (hdraft : inkPen ((s.vslot slot).draftFrame * 4096) = p)
    (hframes : (s.vslot slot).frame0 ≠ (s.vslot slot).frame1)
    (hclean : ∀ j, j < 512 → ∃ w, s.peek ((s.vslot slot).fairFrame * 4096 + 8 * j) = .clean w) :
    let v := s.vslot slot
    let t := s.draftCopy p slot r
    (∀ j, j < 512 → t.peek (v.draftFrame * 4096 + 8 * j) = s.peek (v.fairFrame * 4096 + 8 * j)) ∧
    (∀ b, b / 4096 ≠ v.draftFrame → t.peekCode b = s.peekCode b) ∧
    t.vslot slot = { v with st := .drafted, feedDraft := false, drafter := p } ∧
    (∀ n, n ≠ slot → t.vslot n = s.vslot n) ∧
    t.pen p = { s.pen p with run := some { r with drafts := r.drafts ++ [slot] } } ∧
    (∀ q, q ≠ p → t.pen q = s.pen q) ∧
    { t with mem := s.mem, pens := s.pens, vt := s.vt, trc := s.trc } = s ∧ t.trc = (s.noteFirst slot).trc := by
  intro v t
  have hne : v.fairFrame ≠ v.draftFrame := by
    rw [VSlot.fairFrame, VSlot.draftFrame]
    split
    · exact hframes.symm
    · exact hframes
  have ht : t = _ := State.draftCopy_duplex hr hm hhome hfair hdraft
  rw [ht]
  obtain ⟨hmem, hslot, hslots, hpen, hpens, hback, htrc⟩ := State.draftOpened_spec (slot := slot) hr
  have hcode (b : Nat) : (s.draftOpened p slot).peekCode b = s.peekCode b := by rw [State.peekCode, hmem, State.peekCode]
  have hpeek (b : Nat) : (s.draftOpened p slot).peek b = s.peek b := State.peek_of_code (hcode b)
  obtain ⟨hw, hput, hleft⟩ := State.copyWords_clean (source := srcCopy) (cls := some 0x15) (line := r.line) 512
    (v.fairFrame * 4096) (v.draftFrame * 4096) (s.draftOpened p slot) (fun j hj => by rw [hpeek]; exact hclean j hj)
    (fun i j hi hj => by omega)
  have hrun := (congrArg Pen.run ((State.pen_of_mem hw p).trans hpen) :)
  obtain ⟨hnpen, hnpens, hz⟩ := State.noteWrote_run (cpa := v.draftFrame * 4096) (r := { r with drafts := r.drafts ++ [slot] }) hrun
    (by rw [hm]; decide)
  obtain ⟨hwpen, hzcode, hzslot, hztrc, hzback⟩ := State.copied_back hback hw hz
  refine ⟨fun j hj => ?_, fun b hb => ?_, ?_, fun n hn => ?_, ?_, fun q hq => ?_, hzback, hztrc.trans htrc⟩
  · exact (State.peek_of_code (hzcode _)).trans ((hput j hj).trans (hpeek _))
  · exact (hzcode b).trans ((hleft b fun j hj => by omega).trans (hcode b))
  · exact (hzslot slot).trans hslot
  · exact (hzslot n).trans (hslots n hn)
  · exact hnpen.trans ((hwpen p).trans hpen)
  · exact (hnpens q hq).trans ((hwpen q).trans (hpens q hq))

end draft

end Sys2Proof.Machine
end

section
/-! The obligation of draft copies. -/

namespace Sys2Proof.Machine

section copyEnd

variable {s : State} {p : PenN} {slot : Nat} {c : Instr} {r : Run} {col : Bool}

/-- A draft copy that ends on a pen that is held for it (R70, R73). -/
theorem exec_draftCopyComplete (hr : (s.runs p.val).isSome = true) (hhold : (s.pen p.val).hold = .copy slot c)
    (hrun : (s.pen p.val).run = some r) (crc : Bool) :
    exec (.draftCopyComplete p crc col) s = .next
      (if crc && isRsv ((s.vslot slot).fairFrame * 4096) then raised (s.stopPen p.val pfFabric 0)
      else (((s.arriveTo p.val 0).collide col ((s.vslot slot).fairFrame * 4096)).draftCopy p.val slot r).release p.val false c) := by
  refine (exec_of_due (c := .draftCopyComplete p crc col) (s := s) (f := fun s => s.copyEnd p.val crc col) rfl hr).trans (congrArg _ ?_)
  simp only [State.copyEnd, hhold, hrun]

/-- ST goes on where it is admitted again, with all that it needs. -/
theorem State.StoreGoes.doSt {t u : State} {i : Iss} {rt rb : Reg} {m : AMode} {q : Run} {e : TlbEntry} {cpa : Nat}
    (h : u.StoreGoes i rt rb m q e cpa) (hadm : t.admitted i.pen.val (t.issuing i ⟨.mem, rt :: rb :: modeRegs m, false⟩).1 = some u)
    (hslot : (u.issuing i ⟨.mem, rt :: rb :: modeRegs m, false⟩).1 = (t.issuing i ⟨.mem, rt :: rb :: modeRegs m, false⟩).1) :
    u.StoreLeaves (t.doSt i rt rb m) i rt rb m q e cpa := by
  obtain ⟨w, g, hres, hleaves⟩ := h.res
  rw [State.doSt_eq, State.reissue_ok hadm hslot hres]
  exact hleaves

end copyEnd

end Sys2Proof.Machine

namespace Sys2Proof.CommittedExecution

open Sys2Proof.Machine

/-- Settles O19: the copy word by word, and the store that goes on with its issue repeated. -/
theorem draftCopyCompletes : Obligations.DraftCopyCompletes := by
  refine ⟨?copy, ?goes, ?stops⟩
  case copy =>
    intro s p slot r hr hm hhome v _ hfair _ hdraft hframes hclean
    exact State.draftCopy_spec hr hm hhome hfair hdraft hframes hclean
  case goes =>
    intro p s slot r second crc col rt rb m q cpa e u i fair t hr hhold hrun hcrc hadm hgoes
    have hthold : (t.pen p.val).hold = .none := by
      have htp : t.pen p.val = { (((s.arriveTo p.val 0).collide col fair).draftCopy p.val slot r).pen p.val with hold := .none } :=
        State.modPen_pen_same
      rw [htp]
    have hslot := State.slot_of_admitted (i := i) (State.admitted_runs hthold hadm) hadm hgoes.1
    have hgood : (crc && isRsv fair) = false := by
      obtain h | h := hcrc
      · rw [h, Bool.false_and]
      · rw [h, Bool.and_false]
    refine ⟨_, (exec_draftCopyComplete hr hhold hrun crc).trans (congrArg _ (if_neg (ne_true_of_eq_false hgood))), ?_⟩
    exact hgoes.doSt hadm hslot
  case stops =>
    intro p s slot r ins col hr hhold hrun hrsv
    refine (exec_draftCopyComplete hr hhold hrun true).trans (congrArg _ (if_pos ?_))
    rw [hrsv]
    rfl

end Sys2Proof.CommittedExecution
end

section
/-! Block instructions (R179 to R181): the registers of a block, its words, and where it ends. -/

namespace Sys2Proof.Machine

/-! ### The registers of a block instruction -/

/-- Different registers stand in different banks. -/
theorem Pen.bank_ne (x : Pen) {r r' : Reg} (h : r ≠ r') : x.bank r.val ≠ x.bank r'.val := by
  have hne : r.val ≠ r'.val := fun e => h (Fin.ext e)
  have hr := r.isLt
  have hr' := r'.isLt
  simp only [Pen.bank]
  split_ifs <;> omega

/-- Three registers of a pen are as named; all else but results in flight is as on `x`. -/
def Pen.BlkRegs (x y : Pen) (ra rb rc : Reg) (a b c : TWord) : Prop :=
  (∀ k, y.getB k = if k = x.bank ra.val then a else if k = x.bank rb.val then b else if k = x.bank rc.val then c else x.getB k) ∧
  { y with regs := x.regs, spTask := x.spTask, spExec := x.spExec, late := x.late } = x

/-- Different registers of a block instruction (R179). -/
def BlkOp.Apart (o : BlkOp) : Prop := o.ra ≠ o.rb ∧ o.rb ≠ o.rc ∧ o.ra ≠ o.rc

section regs

variable {x y : Pen} {ra rb rc : Reg} {a b c w : TWord}

theorem Pen.BlkRegs.refl (x : Pen) (ra rb rc : Reg) :
    x.BlkRegs x ra rb rc (x.getB (x.bank ra.val)) (x.getB (x.bank rb.val)) (x.getB (x.bank rc.val)) := by
  refine ⟨fun k => ?_, rfl⟩
  split_ifs with h1 h2 h3
  · rw [h1]
  · rw [h2]
  · rw [h3]
  · rfl

theorem Pen.BlkRegs.bank (h : x.BlkRegs y ra rb rc a b c) (r : Nat) : y.bank r = x.bank r := by
  obtain ⟨-, hback⟩ := h
  exact (congrArg (fun z : Pen => z.bank r) hback :)

theorem Pen.BlkRegs.writeB_back (h : x.BlkRegs y ra rb rc a b c) (k : Nat) :
    { y.writeB k w with regs := x.regs, spTask := x.spTask, spExec := x.spExec, late := x.late } = x := by
  obtain ⟨-, hback⟩ := h
  have hput := Pen.putB_rest y k w
  exact (congrArg (fun z : Pen => ({ z with regs := x.regs, spTask := x.spTask, spExec := x.spExec, late := x.late } : Pen)) hput).trans hback

theorem Pen.BlkRegs.setA (h : x.BlkRegs y ra rb rc a b c) (hr : ra ≠ 0) :
    x.BlkRegs (y.writeB (y.bank ra.val) w) ra rb rc w b c := by
  refine ⟨fun k => ?_, h.writeB_back _⟩
  have hbank : x.bank ra.val ≠ 0 := fun e => hr ((x.bank_eq_zero ra).mp e)
  rw [Pen.writeB_getB, h.bank, h.1]
  by_cases hk : k = x.bank ra.val
  · rw [if_pos ⟨hbank, hk⟩, if_pos hk]
  · rw [if_neg fun e => hk e.2, if_neg hk, if_neg hk]

theorem Pen.BlkRegs.setB (h : x.BlkRegs y ra rb rc a b c) (hr : rb ≠ 0) (hab : ra ≠ rb) :
    x.BlkRegs (y.writeB (y.bank rb.val) w) ra rb rc a w c := by
  refine ⟨fun k => ?_, h.writeB_back _⟩
  have hbank : x.bank rb.val ≠ 0 := fun e => hr ((x.bank_eq_zero rb).mp e)
  have hne := x.bank_ne hab
  rw [Pen.writeB_getB, h.bank, h.1]
  by_cases hk : k = x.bank rb.val
  · rw [if_pos ⟨hbank, hk⟩, if_neg (by omega), if_pos hk]
  · rw [if_neg fun e => hk e.2, if_neg hk, if_neg hk]

theorem Pen.BlkRegs.setC (h : x.BlkRegs y ra rb rc a b c) (hr : rc ≠ 0) (hac : ra ≠ rc) (hbc : rb ≠ rc) :
    x.BlkRegs (y.writeB (y.bank rc.val) w) ra rb rc a b w := by
  refine ⟨fun k => ?_, h.writeB_back _⟩
  have hbank : x.bank rc.val ≠ 0 := fun e => hr ((x.bank_eq_zero rc).mp e)
  have hne := x.bank_ne hac
  have hne' := x.bank_ne hbc
  rw [Pen.writeB_getB, h.bank, h.1]
  by_cases hk : k = x.bank rc.val
  · rw [if_pos ⟨hbank, hk⟩, if_neg (by omega), if_neg (by omega), if_pos hk]
  · rw [if_neg fun e => hk e.2, if_neg hk, if_neg hk]

/-- The registers as a block instruction reads them. -/
theorem Pen.BlkRegs.read (h : x.BlkRegs y ra rb rc a b c) (hab : ra ≠ rb) (hac : ra ≠ rc) (hbc : rb ≠ rc) :
    y.getB (y.bank ra.val) = a ∧ y.getB (y.bank rb.val) = b ∧ y.getB (y.bank rc.val) = c := by
  have h1 := (x.bank_ne hab).symm
  have h2 := (x.bank_ne hac).symm
  have h3 := (x.bank_ne hbc).symm
  refine ⟨?_, ?_, ?_⟩
  · rw [h.bank, h.1, if_pos rfl]
  · rw [h.bank, h.1, if_neg h1, if_pos rfl]
  · rw [h.bank, h.1, if_neg h2, if_neg h3, if_pos rfl]

end regs

/-! ### The state of a block instruction at work -/

/-- From `t` to `v` a block instruction has changed its registers only. -/
def State.BlkAt (t v : State) (o : BlkOp) (a b c : TWord) : Prop :=
  OnlyPens [o.pen] t v ∧ (t.pen o.pen).BlkRegs (v.pen o.pen) o.ra o.rb o.rc a b c

section blkAt

variable {t v : State} {o : BlkOp} {a b c w : TWord} {r : Run} {va : Word}

theorem State.BlkAt.refl (t : State) (o : BlkOp) : t.BlkAt t o (t.blkReg o o.ra) (t.blkReg o o.rb) (t.blkReg o o.rc) :=
  ⟨.refl _ _, .refl ..⟩

theorem State.BlkAt.regs (h : t.BlkAt v o a b c) (ho : o.Apart) :
    v.blkReg o o.ra = a ∧ v.blkReg o o.rb = b ∧ v.blkReg o o.rc = c := by
  obtain ⟨hab, hbc, hac⟩ := ho
  exact h.2.read hab hac hbc

theorem State.BlkAt.modPen {f : Pen → Pen} {a' b' c' : TWord} (h : t.BlkAt v o a b c)
    (hf : (t.pen o.pen).BlkRegs (f (v.pen o.pen)) o.ra o.rb o.rc a' b' c') : t.BlkAt (v.modPen o.pen f) o a' b' c' := by
  refine ⟨h.1.modPen List.mem_cons_self, ?_⟩
  rw [State.modPen_pen_same]
  exact hf

theorem State.BlkAt.setA (h : t.BlkAt v o a b c) (hr : o.ra ≠ 0) : t.BlkAt (v.blkSet o o.ra w) o w b c := h.modPen (h.2.setA hr)

theorem State.BlkAt.setB (h : t.BlkAt v o a b c) (ho : o.Apart) (hr : o.rb ≠ 0) : t.BlkAt (v.blkSet o o.rb w) o a w c :=
  h.modPen (h.2.setB hr ho.1)

theorem State.BlkAt.setC (h : t.BlkAt v o a b c) (ho : o.Apart) (hr : o.rc ≠ 0) : t.BlkAt (v.blkSet o o.rc w) o a b w :=
  h.modPen (h.2.setC hr ho.2.2 ho.2.1)

theorem State.BlkAt.stepA (h : t.BlkAt v o a b c) (ho : o.Apart) (hr : o.ra ≠ 0) :
    t.BlkAt (v.blkStep o o.ra) o (TWord.ptr (a.val + 8)) b c := by
  rw [State.blkStep, (h.regs ho).1]
  exact h.setA hr

theorem State.BlkAt.stepB (h : t.BlkAt v o a b c) (ho : o.Apart) (hr : o.rb ≠ 0) :
    t.BlkAt (v.blkStep o o.rb) o a (TWord.ptr (b.val + 8)) c := by
  rw [State.blkStep, (h.regs ho).2.1]
  exact h.setB ho hr

theorem State.BlkAt.count (h : t.BlkAt v o a b c) (ho : o.Apart) (hr : o.rc ≠ 0) :
    t.BlkAt (v.blkCount o) o a b (TWord.uint (c.val - 1)) := by
  rw [State.blkCount, (h.regs ho).2.2]
  exact h.setC ho hr

theorem State.BlkAt.field {β : Type} (h : t.BlkAt v o a b c) (g : Pen → β)
    (hg : ∀ (x : Pen) regs st se late, g { x with regs := regs, spTask := st, spExec := se, late := late } = g x := by intros; rfl) :
    g (v.pen o.pen) = g (t.pen o.pen) := by
  obtain ⟨-, -, hback⟩ := h
  exact (hg _ _ _ _ _).symm.trans (congrArg g hback)

/-- The run goes on in its context. -/
theorem State.BlkAt.runCtx (h : t.BlkAt v o a b c) (hr : t.runs o.pen = some r) :
    v.runCtx o.pen false = some (r, t.ctxOf o.pen r false) := by
  have hruns : v.runs o.pen = some r := State.runs_of_pen hr (h.field Pen.run) (h.field Pen.st)
  have htask : (v.pen o.pen).task = (t.pen o.pen).task := h.field Pen.task
  have hsealed : (v.pen o.pen).sealed = (t.pen o.pen).sealed := h.field Pen.sealed
  rw [State.runCtx, hruns, Option.map_some, State.ctxOf, State.ctxOf, htask, hsealed]
  rfl

/-- What a run reads does not turn on its registers. -/
theorem State.BlkAt.serves (h : t.BlkAt v o a b c) {x : Ctx} (hx : x.pen = o.pen) (hs : t.Serves x r false va w) :
    v.Serves x r false va w := by
  obtain ⟨hback, hothers⟩ := h.1
  have htlb : (v.pen x.pen).tlb = (t.pen x.pen).tlb := by rw [hx]; exact h.field Pen.tlb
  have hsb : (v.pen x.pen).sb = (t.pen x.pen).sb := by rw [hx]; exact h.field Pen.sb
  have hrun : (v.pen x.pen).run = (t.pen x.pen).run := by rw [hx]; exact h.field Pen.run
  have hmirror (q : Nat) : (v.pen q).mirror0 = (t.pen q).mirror0 ∧ (v.pen q).mirror1 = (t.pen q).mirror1 := by
    by_cases hq : q = o.pen
    · rw [hq]
      exact ⟨h.field Pen.mirror0, h.field Pen.mirror1⟩
    · rw [hothers q (by simpa using hq)]
      exact ⟨rfl, rfl⟩
  have hxlat : v.xlat x va .read = t.xlat x va .read := by
    have hmode : v.s1Mode x.part = t.s1Mode x.part := (congrArg (fun s : State => s.s1Mode x.part) hback :)
    have hpt : v.ptWord x.part 0 = t.ptWord x.part 0 := (congrArg (fun s : State => s.ptWord x.part 0) hback :)
    simp only [State.xlat, Pen.lookup, htlb, hmode, hpt]
  have hcpa (e : TlbEntry) : v.frameCpa x e va = t.frameCpa x e va := (congrArg (fun s : State => s.frameCpa x e va) hback :)
  have hmir (cpa : Nat) : v.mirrored cpa = t.mirrored cpa := by simp only [State.mirrored, hmirror]
  have hpeek (cpa : Nat) : v.peek cpa = t.peek cpa := (congrArg (fun s : State => s.peek cpa) hback :)
  have hjoin : v.isJoined x.pen = t.isJoined x.pen := by rw [State.isJoined_eq, State.isJoined_eq, hrun]
  obtain ⟨e, he, hplace, hempty, hword, hpair⟩ := hs
  refine ⟨e, hxlat.trans he, ?_, hsb.trans hempty, ?_, ?_⟩
  · obtain hink | ⟨hfab, -⟩ := hplace
    · rw [hcpa, hmir]
      exact .inl hink
    · exact absurd hfab Bool.false_ne_true
  · rw [hcpa, hpeek]
    exact hword
  · rw [hcpa, hjoin]
    intro h1 h2
    rw [hpeek]
    exact hpair h1 h2

end blkAt

end Sys2Proof.Machine
end

section
/-! The words of a block instruction, and how it goes on and ends (R180, R181). -/

namespace Sys2Proof.Machine

/-! ### Words up to the end or the next sampling point -/

section words

variable {P : Nat → State → Prop} {o : BlkOp} {n d j : Nat} {v : State}

/-- The words that a block instruction does now: all that are left, or those up to the next sampling point. -/
def blkNow (n d : Nat) : Nat := min n (8 - d % 8)

theorem blkNow_succ {n d : Nat} (h : ¬(n ≠ 0 ∧ (d + 1) % 8 = 0)) : blkNow (n + 1) d = blkNow n (d + 1) + 1 := by
  rw [blkNow, blkNow]
  omega

/-- One word of a block instruction is done. -/
def State.BlkDoes (P : Nat → State → Prop) (o : BlkOp) (i : Nat) (v : State) : Prop :=
  ∃ r c t, v.runCtx o.pen false = some (r, c) ∧ v.blkWord o r.lig false c = .ok true t ∧ P (i + 1) t

theorem blkRun_succ {r : Run} {c : Ctx} {t : State} (hc : v.runCtx o.pen false = some (r, c))
    (hw : v.blkWord o r.lig false c = .ok true t) : State.blkRun (n + 1) o false d v =
      if n ≠ 0 && (d + 1) % 8 = 0 then .sample (d + 1) t else State.blkRun n o false (d + 1) t := by
  rw [State.blkRun]
  simp only [hc, hw]

/-- A block instruction that does its words stands at the sampling point after them, or ends (R181). -/
theorem blkRun_words (hv : P j v) (hstep : ∀ i u, i < j + blkNow n d → P i u → u.BlkDoes P o i) :
    ∃ u, P (j + blkNow n d) u ∧
      State.blkRun n o false d v = if blkNow n d < n then .sample (d + blkNow n d) u else .finish u := by
  induction n generalizing d j v with
  | zero => exact ⟨v, by rw [blkNow, Nat.zero_min]; exact hv, by rw [if_neg (Nat.not_lt_zero _)]; rfl⟩
  | succ n ih =>
    have hpos : 0 < blkNow (n + 1) d := by rw [blkNow]; omega
    obtain ⟨r, c, t, hc, hw, ht⟩ := hstep j v (by omega) hv
    rw [blkRun_succ hc hw]
    by_cases hlast : n ≠ 0 ∧ (d + 1) % 8 = 0
    · have hone : blkNow (n + 1) d = 1 := by rw [blkNow]; omega
      rw [hone]
      refine ⟨t, ht, ?_⟩
      rw [if_pos (by simpa using hlast), if_pos (by omega)]
    · rw [if_neg (by simpa using hlast)]
      rw [blkNow_succ hlast] at hstep ⊢
      obtain ⟨u, hu, hrun⟩ := ih (d := d + 1) ht fun i u hi => hstep i u (by omega)
      have hadd : j + 1 + blkNow n (d + 1) = j + (blkNow n (d + 1) + 1) := by omega
      rw [hadd] at hu
      refine ⟨u, hu, hrun.trans ?_⟩
      have hadd' : d + 1 + blkNow n (d + 1) = d + (blkNow n (d + 1) + 1) := by omega
      rw [hadd']
      by_cases hlt : blkNow n (d + 1) < n
      · rw [if_pos hlt, if_pos (by omega)]
      · rw [if_neg hlt, if_neg (by omega)]

/-- One that meets a difference stops there (R180). -/
theorem blkRun_stops {m : Nat} (hv : P j v) (hm : m < blkNow n d) (hstep : ∀ i u, i < j + m → P i u → u.BlkDoes P o i)
    (hstop : ∀ u, P (j + m) u → ∃ r c, u.runCtx o.pen false = some (r, c) ∧ u.blkWord o r.lig false c = .ok false u) :
    ∃ u, P (j + m) u ∧ State.blkRun n o false d v = .finish u := by
  induction n generalizing d j v m with
  | zero => rw [blkNow, Nat.zero_min] at hm; exact absurd hm (Nat.not_lt_zero _)
  | succ n ih =>
    cases m with
    | zero =>
      obtain ⟨r, c, hc, hw⟩ := hstop v hv
      refine ⟨v, hv, ?_⟩
      rw [State.blkRun]
      simp only [hc, hw]
    | succ m =>
      obtain ⟨r, c, t, hc, hw, ht⟩ := hstep j v (by omega) hv
      have hlast : ¬(n ≠ 0 ∧ (d + 1) % 8 = 0) := by
        rw [blkNow] at hm
        omega
      rw [blkRun_succ hc hw, if_neg (by simpa using hlast)]
      rw [blkNow_succ hlast] at hm
      have hadd : j + (m + 1) = j + 1 + m := by omega
      rw [hadd] at hstep hstop ⊢
      exact ih ht (by omega) (fun i u hi => hstep i u hi) hstop

end words

/-! ### How a block command goes -/

section goes

variable {s t v : State} {i : Iss} {u : Uses} {ins : Instr} {d : Nat} {k : Blk} {ra rb rc : Reg} {a b c : TWord}

/-- The row of a block command. -/
def BlkRow (ins : Instr) (k : Blk) (i : Iss) (ra rb rc : Reg) : Prop :=
  ∀ s, exec ins s = guarded (s.readyBlk i.pen.val ins) s (fun s => s.doBlk false k i ra rb rc ins)

/-- The tag and alignment checks of a block instruction. -/
def State.blkChecks (t : State) (o : BlkOp) : Except Exc Unit := do
  if o.ra = o.rb || o.rb = o.rc || o.ra = o.rc then throw (excIllegal 3)
  blkTags o.kind (t.blkReg o o.ra) (t.blkReg o o.rb) (t.blkReg o o.rc)
  blkAlign o.kind (t.blkReg o o.ra).val (t.blkReg o o.rb).val

theorem State.BlockGoes.issue (h : s.BlockGoes t i.pen.val u ins d) :
    (s.pen i.pen.val).blkDone = d ∧ s.readyBlk i.pen.val ins = true ∧ s.blkIssue i.pen.val u = some t ∧
    (t.pen i.pen.val).hold = .none := by
  obtain ⟨hd, ⟨hzero, a, ⟨hready, hadm⟩, rfl⟩ | ⟨hpos, hruns, hhold, hirq, rfl⟩⟩ := h
  · refine ⟨hd, ?_, ?_, ?_⟩
    · rw [State.readyBlk, hready, Bool.true_or]
    · rw [State.blkIssue, if_neg (by rw [hd]; omega), hadm]
      rfl
    · rw [State.modPen_pen_same]
      rfl
  · refine ⟨hd, ?_, ?_, ?_⟩
    · rw [State.readyBlk, hruns, hhold, hirq, decide_eq_true rfl]
      exact Bool.or_true _
    · rw [State.blkIssue, if_pos (by rw [hd]; exact hpos)]
    · rw [State.modPen_pen_same]

/-- A block command whose checks pass does its words. -/
theorem exec_blk (hrow : BlkRow ins k i ra rb rc) (hgoes : s.BlockGoes t i.pen.val ⟨.ser, [ra, rb, rc], k = .cmp⟩ ins d)
    (hchecks : t.blkChecks ⟨k, i.pen.val, ra, rb, rc, ins⟩ = .ok ()) :
    exec ins s = .next (t.blkGo ⟨k, i.pen.val, ra, rb, rc, ins⟩ false (s.pen i.pen.val) s) := by
  obtain ⟨-, hready, hissue, -⟩ := hgoes.issue
  refine (exec_of_due (hrow s) hready).trans (congrArg _ ?_)
  simp only [State.doBlk, hissue]
  have hpre : (do
      if ra = rb || rb = rc || ra = rc then throw (excIllegal 3)
      blkTags k (t.blkReg ⟨k, i.pen.val, ra, rb, rc, ins⟩ ra) (t.blkReg ⟨k, i.pen.val, ra, rb, rc, ins⟩ rb)
        (t.blkReg ⟨k, i.pen.val, ra, rb, rc, ins⟩ rc)
      blkAlign k (t.blkReg ⟨k, i.pen.val, ra, rb, rc, ins⟩ ra).val (t.blkReg ⟨k, i.pen.val, ra, rb, rc, ins⟩ rb).val :
        Except Exc Unit) = .ok () := hchecks
  rw [hpre]

theorem State.blkGo_finish {o : BlkOp} (h : State.blkRun (t.blkReg o o.rc).val.toNat o false (s.pen o.pen).blkDone t = .finish v) :
    t.blkGo o false (s.pen o.pen) s = v.blkEnd o := by
  simp only [State.blkGo, h]

theorem State.blkGo_sample {o : BlkOp} {d : Nat} (h : State.blkRun (t.blkReg o o.rc).val.toNat o false (s.pen o.pen).blkDone t = .sample d v)
    (hd : d ≠ (s.pen o.pen).blkDone) :
    t.blkGo o false (s.pen o.pen) s = v.modPen o.pen (fun y => { y with hold := .block o.c, blkDone := d }) := by
  simp only [State.blkGo, h]
  exact if_neg hd

/-! ### The pen where the words end -/

/-- The pen at the end of a block instruction. -/
def Pen.blkEnded (x : Pen) (o : BlkOp) : Pen :=
  let x := if o.kind = .cmp then
      x.setFlags (mkFlags false ((x.getB (x.bank o.rc.val)).val = 0) false false) else x
  { x.done false with blkDone := 0 }

theorem State.blkEnd_eq (o : BlkOp) : v.blkEnd o = v.modPen o.pen (fun x => x.blkEnded o) := rfl

theorem Pen.setFlags_rest (x : Pen) (f : Flags) : { x.setFlags f with status := x.status } = x := rfl

/-- The flags that a block instruction leaves: those of the count for BLKCMP (R180). -/
theorem Pen.blkEnded_spec (x : Pen) (o : BlkOp) :
    (x.blkEnded o).flags = (if o.kind = .cmp then mkFlags false ((x.getB (x.bank o.rc.val)).val = 0) false false else x.flags) ∧
    x.SameControl (x.blkEnded o) ∧ (x.blkEnded o).pc = x.pc + 4 ∧ (x.blkEnded o).blkDone = 0 ∧
    { x.blkEnded o with status := x.status, pc := x.pc, blkDone := x.blkDone } = x := by
  rw [Pen.blkEnded]
  by_cases hk : o.kind = .cmp
  · rw [if_pos hk, if_pos hk]
    exact ⟨Pen.setFlags_flags _ _, Pen.setFlags_control _ _, rfl, rfl, rfl⟩
  · rw [if_neg hk, if_neg hk]
    exact ⟨rfl, fun _ _ => rfl, rfl, rfl, rfl⟩

/-- What a block leaves at its end. -/
theorem Pen.BlkRegs.ended {x y : Pen} {o : BlkOp} {n : Nat} (h : x.BlkRegs y o.ra o.rb o.rc a b (TWord.uint (BitVec.ofNat 64 n)))
    (ho : o.Apart) (hhold : x.hold = .none) :
    BlockLeaves x (y.blkEnded o) o.c false d o.ra o.rb o.rc a b n ∧
    (y.blkEnded o).flags = (if o.kind = .cmp then mkFlags false (BitVec.ofNat 64 n = 0) false false else x.flags) := by
  obtain ⟨hflags, hcontrol, hpc, hdone, hrest⟩ := y.blkEnded_spec o
  obtain ⟨hab, hbc, hac⟩ := ho
  obtain ⟨-, -, hcount⟩ := h.read hab hac hbc
  obtain ⟨hget, hback⟩ := h
  have hst : y.status = x.status := (congrArg Pen.status hback :)
  have hypc : y.pc = x.pc := (congrArg Pen.pc hback :)
  have hyhold : y.hold = x.hold := (congrArg Pen.hold hback :)
  have hyrun : y.run = x.run := (congrArg Pen.run hback :)
  rw [hcount] at hflags
  generalize y.blkEnded o = z at hflags hcontrol hpc hdone hrest ⊢
  have hzget (k : Nat) : z.getB k = y.getB k := (congrArg (fun w : Pen => w.getB k) hrest :)
  have hzrun : z.run = y.run := (congrArg Pen.run hrest :)
  have hzhold : z.hold = y.hold := (congrArg Pen.hold hrest :)
  refine ⟨⟨fun k => (hzget k).trans (hget k), fun j hj => ?_, ?_, ?_, ?_⟩, ?_⟩
  · rw [hcontrol j hj, hst]
  · rw [Pen.SameRun, hzrun, hyrun]
  · exact (congrArg (fun w : Pen => ({ w with
      regs := x.regs, spTask := x.spTask, spExec := x.spExec, status := x.status, pc := x.pc, late := x.late, pair := x.pair
      hold := x.hold, blkDone := x.blkDone, sb := x.sb, tlb := x.tlb, run := x.run } : Pen)) hrest :).trans
      (congrArg (fun w : Pen => ({ w with
        status := x.status, pc := x.pc, pair := x.pair, hold := x.hold, blkDone := x.blkDone, sb := x.sb, tlb := x.tlb
        run := x.run } : Pen)) hback :)
  · rw [if_neg Bool.false_ne_true, hpc, hypc, hzhold, hyhold, hhold, hdone]
    exact ⟨rfl, rfl, rfl⟩
  · rw [hflags]
    have hyflags : y.flags = x.flags := by rw [Pen.flags, hst, Pen.flags]
    rw [hyflags]
    rfl

/-- What a block leaves at a sampling point (R181). -/
theorem Pen.BlkRegs.paused {x y : Pen} {n : Nat} (h : x.BlkRegs y ra rb rc a b (TWord.uint (BitVec.ofNat 64 n))) :
    BlockLeaves x { y with hold := .block ins, blkDone := d } ins true d ra rb rc a b n ∧
    ({ y with hold := .block ins, blkDone := d } : Pen).flags = x.flags := by
  obtain ⟨hget, hback⟩ := h
  have hst : y.status = x.status := (congrArg Pen.status hback :)
  have hypc : y.pc = x.pc := (congrArg Pen.pc hback :)
  have hyrun : y.run = x.run := (congrArg Pen.run hback :)
  refine ⟨⟨hget, fun j _ => ?_, ?_, ?_, ?_⟩, ?_⟩
  · exact congrArg (fun w => bitAt w j) hst
  · exact congrArg (Option.map fun r : Run => ({ r with wrote := [] } : Run)) hyrun
  · exact (congrArg (fun w : Pen => ({ w with
      status := x.status, pc := x.pc, pair := x.pair, hold := x.hold, blkDone := x.blkDone, sb := x.sb, tlb := x.tlb
      run := x.run } : Pen)) hback :)
  · rw [if_pos rfl]
    exact ⟨hypc, rfl, rfl⟩
  · exact congrArg (BitVec.setWidth 4) hst

end goes

end Sys2Proof.Machine
end

section
/-! BLKCRC and BLKCMP: their words, up to the end, a difference or the next sampling point (R180, R181). -/

namespace Sys2Proof.Machine

theorem TWord.of_tag {w : TWord} {g : Tag} (h : w.tag = g) : (⟨g, w.val⟩ : TWord) = w := by
  subst h
  rfl

/-- The checks of a block instruction pass: different registers, a pointer at a word boundary, a count, and the second operand
of its kind (R179). -/
theorem State.blkChecks_ok {t : State} {o : BlkOp} (ho : o.Apart) (ha : (t.blkReg o o.ra).tag = Tag.ptr)
    (halign : bitsOf (t.blkReg o o.ra).val 0 3 = 0) (hc : (t.blkReg o o.rc).tag = Tag.uint)
    (hb : match o.kind with
      | .cpy | .cmp => (t.blkReg o o.rb).tag = Tag.ptr ∧ bitsOf (t.blkReg o o.rb).val 0 3 = 0
      | .crc => (t.blkReg o o.rb).tag = Tag.raw
      | .fill => True) : t.blkChecks o = .ok () := by
  obtain ⟨hab, hbc, hac⟩ := ho
  have hforms : (o.ra = o.rb || o.rb = o.rc || o.ra = o.rc) = false := by
    rw [decide_eq_false hab, decide_eq_false hbc, decide_eq_false hac]
    rfl
  have hta : checkTag 0 [Tag.ptr] (t.blkReg o o.ra) = .ok () := checkTag_single (by decide) ha
  have htc : checkTag 2 [Tag.uint] (t.blkReg o o.rc) = .ok () := checkTag_single (by decide) hc
  cases hk : o.kind <;> rw [hk] at hb
  case fill =>
    simp only [State.blkChecks, hforms, hk, blkTags, hta, htc, blkAlign, halign]
    rfl
  case crc =>
    have htb : checkTag 1 [Tag.raw] (t.blkReg o o.rb) = .ok () := checkTag_single (by decide) hb
    simp only [State.blkChecks, hforms, hk, blkTags, hta, htb, htc, blkAlign, halign]
    rfl
  case cpy =>
    have htb : checkTag 1 [Tag.ptr] (t.blkReg o o.rb) = .ok () := checkTag_single (by decide) hb.1
    simp only [State.blkChecks, hforms, hk, blkTags, hta, htb, htc, blkAlign, halign, hb.2]
    rfl
  case cmp =>
    have htb : checkTag 1 [Tag.ptr] (t.blkReg o o.rb) = .ok () := checkTag_single (by decide) hb.1
    simp only [State.blkChecks, hforms, hk, blkTags, hta, htb, htc, blkAlign, halign, hb.2]
    rfl

section words

variable {t v : State} {o : BlkOp} {r : Run} {j : Nat}

theorem ofNat_next (a : Word) (j : Nat) : a + BitVec.ofNat 64 (8 * j) + 8 = a + BitVec.ofNat 64 (8 * (j + 1)) := by
  rw [Nat.mul_add, BitVec.ofNat_add, BitVec.add_assoc]
  rfl

theorem ofNat_left {n j : Nat} (h : j < n) : BitVec.ofNat 64 (n - j) - 1 = BitVec.ofNat 64 (n - (j + 1)) := by
  have hsucc : n - j = n - (j + 1) + 1 := by omega
  rw [hsucc, BitVec.ofNat_add]
  exact BitVec.add_sub_cancel _ _

/-- The registers after `j` words: the pointer, what the second register then holds, and the count left. -/
def State.BlkPast (t : State) (o : BlkOp) (b : Nat → TWord) (j : Nat) (v : State) : Prop :=
  t.BlkAt v o (TWord.ptr ((t.blkReg o o.ra).val + BitVec.ofNat 64 (8 * j))) (b j)
    (TWord.uint (BitVec.ofNat 64 ((t.blkReg o o.rc).val.toNat - j)))

theorem State.BlkPast.start {b : Nat → TWord} (ha : (t.blkReg o o.ra).tag = Tag.ptr) (hc : (t.blkReg o o.rc).tag = Tag.uint)
    (hb : b 0 = t.blkReg o o.rb) : t.BlkPast o b 0 t := by
  have h := State.BlkAt.refl t o
  rw [← hb, ← TWord.of_tag ha, ← TWord.of_tag hc] at h
  simp only [State.BlkPast, Nat.mul_zero, BitVec.add_zero, Nat.sub_zero, BitVec.ofNat_toNat, BitVec.setWidth_eq]
  exact h

/-- A register that a pointer or a count stands in is not W0. -/
theorem State.blkReg_ne {g : Tag} {q : Reg} (h : (t.blkReg o q).tag = g) (hg : g ≠ Tag.int) : q ≠ 0 := by
  rintro rfl
  exact hg (h.symm.trans (congrArg TWord.tag (show t.blkReg o 0 = TWord.int 0 from rfl)))

/-- The CRC state of the second register after `j` words (R180). -/
def crcAfter (b : Word) (f : Nat → Word) (j : Nat) : Word :=
  (List.range j).foldl (fun acc j => BitVec.ofNat 64 (crcWordN 8 (acc.toNat % 2 ^ 32) (f j).toNat)) b

theorem crcAfter_succ (b : Word) (f : Nat → Word) (j : Nat) :
    crcAfter b f (j + 1) = BitVec.ofNat 64 (crcWordN 8 ((crcAfter b f j).toNat % 2 ^ 32) (f j).toNat) := by
  rw [crcAfter, List.range_succ, List.foldl_append]
  rfl

/-- A word of BLKCRC. -/
theorem State.blkDoes_crc {f : Nat → Word} {b : Word} (ho : o.Apart) (hk : o.kind = .crc) (ha : o.ra ≠ 0) (hb : o.rb ≠ 0) (hc : o.rc ≠ 0)
    (hr : t.runs o.pen = some r) (hj : j < (t.blkReg o o.rc).val.toNat)
    (hserves : t.Serves (t.ctxOf o.pen r false) r false ((t.blkReg o o.ra).val + BitVec.ofNat 64 (8 * j)) (TWord.raw (f j)))
    (hv : t.BlkPast o (fun j => TWord.raw (crcAfter b f j)) j v) :
    v.BlkDoes (t.BlkPast o (fun j => TWord.raw (crcAfter b f j))) o j := by
  obtain ⟨hra, hrb, -⟩ := State.BlkAt.regs hv ho
  have hload := (State.BlkAt.serves hv rfl hserves).loadWord (i := o.c)
    (chk := fun w => if w.tag ≠ Tag.raw then .error (excTag tdMismatch 3) else .ok ()) (if_neg fun h => h rfl)
  refine ⟨r, t.ctxOf o.pen r false, ((v.blkSet o o.rb (TWord.raw (crcAfter b f (j + 1)))).blkStep o o.ra).blkCount o,
    State.BlkAt.runCtx hv hr, ?_, ?_⟩
  · simp only [State.blkWord, hk, hra, hrb, TWord.ptr, hload, Res.bind, crcAfter_succ]
    rfl
  · have hnext := ((State.BlkAt.setB hv ho hb (w := TWord.raw (crcAfter b f (j + 1)))).stepA ho ha).count ho hc
    simp only [TWord.ptr, TWord.uint, ofNat_next, ofNat_left hj, crcAfter_succ] at hnext
    simp only [State.BlkPast, crcAfter_succ]
    exact hnext

/-- A pair of words of BLKCMP that do not differ. -/
theorem State.blkDoes_cmp {f g : Nat → TWord} (ho : o.Apart) (hk : o.kind = .cmp) (ha : o.ra ≠ 0) (hb : o.rb ≠ 0) (hc : o.rc ≠ 0)
    (hr : t.runs o.pen = some r) (hj : j < (t.blkReg o o.rc).val.toNat)
    (hf : t.Serves (t.ctxOf o.pen r false) r false ((t.blkReg o o.ra).val + BitVec.ofNat 64 (8 * j)) (f j))
    (hg : t.Serves (t.ctxOf o.pen r false) r false ((t.blkReg o o.rb).val + BitVec.ofNat 64 (8 * j)) (g j))
    (hv : t.BlkPast o (fun j => TWord.ptr ((t.blkReg o o.rb).val + BitVec.ofNat 64 (8 * j))) j v) :
    ∃ w, v.runCtx o.pen false = some (r, t.ctxOf o.pen r false) ∧
      v.blkWord o r.lig false (t.ctxOf o.pen r false) = (if f j = g j then .ok true w else .ok false v) ∧
      t.BlkPast o (fun j => TWord.ptr ((t.blkReg o o.rb).val + BitVec.ofNat 64 (8 * j))) (j + 1) w := by
  obtain ⟨hra, hrb, -⟩ := State.BlkAt.regs hv ho
  have hloadf := (State.BlkAt.serves hv rfl hf).loadWord (i := o.c) (chk := fun _ => .ok ()) rfl
  have hloadg := (State.BlkAt.serves hv rfl hg).loadWord (i := o.c) (chk := fun _ => .ok ()) rfl
  refine ⟨((v.blkStep o o.ra).blkStep o o.rb).blkCount o, State.BlkAt.runCtx hv hr, ?_, ?_⟩
  · simp only [State.blkWord, hk, hra, hrb, TWord.ptr, hloadf, hloadg, Res.bind]
  · have hnext := ((State.BlkAt.stepA hv ho ha).stepB ho hb).count ho hc
    simp only [TWord.ptr, TWord.uint, ofNat_next, ofNat_left hj] at hnext
    exact hnext

end words

/-! ### The end of the words -/

section ends

variable {s t v : State} {i : Iss} {ins : Instr} {d n : Nat} {k : Blk} {ra rb rc : Reg} {b : Nat → TWord} {m : Nat}

/-- A block command that ends with its words. -/
theorem State.BlkPast.ended {o : BlkOp} (h : t.BlkPast o b m v) (ho : o.Apart) (hhold : (t.pen o.pen).hold = .none) :
    OnlyPens [o.pen] t (v.blkEnd o) ∧
    ((v.blkEnd o).pen o.pen).flags = (if o.kind = .cmp then
      mkFlags false (BitVec.ofNat 64 ((t.blkReg o o.rc).val.toNat - m) = 0) false false else (t.pen o.pen).flags) ∧
    BlockLeaves (t.pen o.pen) ((v.blkEnd o).pen o.pen) o.c false d o.ra o.rb o.rc
      (TWord.ptr ((t.blkReg o o.ra).val + BitVec.ofNat 64 (8 * m))) (b m) ((t.blkReg o o.rc).val.toNat - m) := by
  obtain ⟨hpens, hregs⟩ := h
  rw [State.blkEnd_eq, State.modPen_pen_same]
  obtain ⟨hleaves, hflags⟩ := hregs.ended (d := d) ho hhold
  exact ⟨hpens.modPen List.mem_cons_self, hflags, hleaves⟩

/-- A block command that stands at a sampling point. -/
theorem State.BlkPast.paused {o : BlkOp} (h : t.BlkPast o b m v) :
    let u := v.modPen o.pen (fun y => { y with hold := .block o.c, blkDone := d })
    OnlyPens [o.pen] t u ∧ (u.pen o.pen).flags = (t.pen o.pen).flags ∧
    BlockLeaves (t.pen o.pen) (u.pen o.pen) o.c true d o.ra o.rb o.rc
      (TWord.ptr ((t.blkReg o o.ra).val + BitVec.ofNat 64 (8 * m))) (b m) ((t.blkReg o o.rc).val.toNat - m) := by
  intro u
  obtain ⟨hpens, hregs⟩ := h
  obtain ⟨hleaves, hflags⟩ := hregs.paused (ins := o.c) (d := d)
  have hpen : u.pen o.pen = { v.pen o.pen with hold := .block o.c, blkDone := d } := State.modPen_pen_same
  rw [hpen]
  exact ⟨hpens.modPen List.mem_cons_self, hflags, hleaves⟩

end ends

end Sys2Proof.Machine
end

section
/-! BLKCRC and BLKCMP complete (R180, R181). -/

namespace Sys2Proof.Machine

section whole

variable {s t : State} {i : Iss} {ra rb rc : Reg} {r : Run} {d : Nat}

/-- What a block command leaves whose words end, or stand at a sampling point, after `m` of them. -/
theorem State.BlockGoes.words {k : Blk} {ins : Instr} {b : Nat → TWord} (hrow : BlkRow ins k i ra rb rc)
    (hgoes : s.BlockGoes t i.pen.val ⟨.ser, [ra, rb, rc], k = .cmp⟩ ins d) (ho : BlkOp.Apart ⟨k, i.pen.val, ra, rb, rc, ins⟩)
    (hchecks : t.blkChecks ⟨k, i.pen.val, ra, rb, rc, ins⟩ = .ok ()) (m : Nat) (pause : Bool)
    (hrun : ∃ u, t.BlkPast ⟨k, i.pen.val, ra, rb, rc, ins⟩ b m u ∧
      State.blkRun (t.blkReg ⟨k, i.pen.val, ra, rb, rc, ins⟩ rc).val.toNat ⟨k, i.pen.val, ra, rb, rc, ins⟩ false d t =
        if pause then .sample (d + m) u else .finish u) (hm : pause = true → m ≠ 0) :
    let x := t.pen i.pen.val
    let reg (r : Reg) : TWord := x.getB (x.bank r.val)
    let n := (reg rc).val.toNat
    ∃ v, exec ins s = .next v ∧ OnlyPens [i.pen.val] t v ∧
      (v.pen i.pen.val).flags = (if k = .cmp ∧ pause = false then mkFlags false (BitVec.ofNat 64 (n - m) = 0) false false else x.flags) ∧
      BlockLeaves x (v.pen i.pen.val) ins pause (d + m) ra rb rc (TWord.ptr ((reg ra).val + BitVec.ofNat 64 (8 * m))) (b m) (n - m) := by
  intro x reg n
  obtain ⟨hd, -, -, hhold⟩ := hgoes.issue
  obtain ⟨u, hu, hrun⟩ := hrun
  cases pause with
  | false =>
    rw [if_neg Bool.false_ne_true, ← hd] at hrun
    refine ⟨_, (exec_blk hrow hgoes hchecks).trans (congrArg _ (State.blkGo_finish hrun)), ?_⟩
    obtain ⟨hpens, hflags, hleaves⟩ := hu.ended (d := d + m) ho hhold
    refine ⟨hpens, hflags.trans (if_congr ?_ rfl rfl), hleaves⟩
    exact (and_iff_left rfl).symm
  | true =>
    rw [if_pos rfl] at hrun
    have hm0 := hm rfl
    rw [← hd] at hrun
    refine ⟨_, (exec_blk hrow hgoes hchecks).trans (congrArg _ (State.blkGo_sample hrun fun h => hm0 (Nat.left_eq_add.mp h.symm))), ?_⟩
    rw [hd]
    obtain ⟨hpens, hflags, hleaves⟩ := hu.paused (d := d + m)
    refine ⟨hpens, hflags.trans (if_neg ?_).symm, hleaves⟩
    exact fun h => nomatch h.2

/-- BLKCRC over clean RAW words (R180). -/
theorem exec_blkcrc (f : Nat → Word) :
    let p := i.pen.val
    let ins := Instr.blkcrc i ra rb rc
    let x := t.pen p
    let reg (r : Reg) : TWord := x.getB (x.bank r.val)
    let n := (reg rc).val.toNat
    let m := min n (8 - d % 8)
    s.BlockGoes t p ⟨.ser, [ra, rb, rc], false⟩ ins d → ra ≠ rb → rb ≠ rc → ra ≠ rc → t.runs p = some r →
    (reg ra).tag = Tag.ptr → bitsOf (reg ra).val 0 3 = 0 → (reg rb).tag = Tag.raw → (reg rc).tag = Tag.uint →
    (∀ j, j < m → t.Serves (t.ctxOf p r false) r false ((reg ra).val + BitVec.ofNat 64 (8 * j)) (TWord.raw (f j))) →
    ∃ v, exec ins s = .next v ∧ OnlyPens [p] t v ∧ (v.pen p).flags = x.flags ∧
      BlockLeaves x (v.pen p) ins (decide (m < n)) (d + m) ra rb rc (TWord.ptr ((reg ra).val + BitVec.ofNat 64 (8 * m)))
        (TWord.raw (crcAfter (reg rb).val f m)) (n - m) := by
  intro p ins x reg n m hgoes hab hbc hac hr hta halign htb htc hserves
  have ho : BlkOp.Apart ⟨.crc, p, ra, rb, rc, ins⟩ := ⟨hab, hbc, hac⟩
  have hchecks : t.blkChecks ⟨.crc, p, ra, rb, rc, ins⟩ = .ok () := State.blkChecks_ok ho hta halign htc htb
  have hstart : t.BlkPast ⟨.crc, p, ra, rb, rc, ins⟩ (fun j => TWord.raw (crcAfter (reg rb).val f j)) 0 t :=
    .start hta htc (TWord.of_tag htb)
  have ha0 := State.blkReg_ne (o := ⟨.crc, p, ra, rb, rc, ins⟩) hta (by decide)
  have hb0 := State.blkReg_ne (o := ⟨.crc, p, ra, rb, rc, ins⟩) htb (by decide)
  have hc0 := State.blkReg_ne (o := ⟨.crc, p, ra, rb, rc, ins⟩) htc (by decide)
  have hnow : blkNow n d = m := rfl
  have hrun := blkRun_words (n := n) (d := d) hstart fun j u hj hu =>
    State.blkDoes_crc ho rfl ha0 hb0 hc0 hr (Nat.lt_of_lt_of_le hj (by rw [Nat.zero_add]; exact Nat.min_le_left _ _))
      (hserves j (by rw [Nat.zero_add] at hj; exact hj)) hu
  rw [Nat.zero_add, hnow] at hrun
  obtain ⟨u, hu, hrun⟩ := hrun
  obtain ⟨v, hv, hpens, hflags, hleaves⟩ := State.BlockGoes.words (k := .crc) (fun _ => rfl) hgoes ho hchecks m (decide (m < n))
    ⟨u, hu, hrun.trans (if_congr decide_eq_true_iff.symm rfl rfl)⟩ (fun h => by have := of_decide_eq_true h; omega)
  exact ⟨v, hv, hpens, hflags.trans (if_neg fun h => nomatch h.1), hleaves⟩

/-- BLKCMP stops at the first pair that differs (R180). -/
theorem exec_blkcmp (f g : Nat → TWord) (m : Nat) :
    let p := i.pen.val
    let ins := Instr.blkcmp i ra rb rc
    let x := t.pen p
    let c := t.ctxOf p r false
    let reg (r : Reg) : TWord := x.getB (x.bank r.val)
    let n := (reg rc).val.toNat
    let k := min n (8 - d % 8)
    let pause := decide (m = k ∧ k < n)
    s.BlockGoes t p ⟨.ser, [ra, rb, rc], true⟩ ins d → ra ≠ rb → rb ≠ rc → ra ≠ rc → t.runs p = some r →
    (reg ra).tag = Tag.ptr → bitsOf (reg ra).val 0 3 = 0 → (reg rb).tag = Tag.ptr → bitsOf (reg rb).val 0 3 = 0 →
    (reg rc).tag = Tag.uint → m ≤ k →
    (∀ j, j < k → j ≤ m → t.Serves c r false ((reg ra).val + BitVec.ofNat 64 (8 * j)) (f j) ∧
      t.Serves c r false ((reg rb).val + BitVec.ofNat 64 (8 * j)) (g j)) →
    (∀ j, j < m → f j = g j) → (m < k → f m ≠ g m) →
    ∃ v, exec ins s = .next v ∧ OnlyPens [p] t v ∧
      (v.pen p).flags = (if pause then x.flags else mkFlags false (m = n) false false) ∧
      BlockLeaves x (v.pen p) ins pause (d + m) ra rb rc (TWord.ptr ((reg ra).val + BitVec.ofNat 64 (8 * m)))
        (TWord.ptr ((reg rb).val + BitVec.ofNat 64 (8 * m))) (n - m) := by
  intro p ins x c reg n k pause hgoes hab hbc hac hr hta halign htb halignb htc hmk hserves hsame hdiff
  have ho : BlkOp.Apart ⟨.cmp, p, ra, rb, rc, ins⟩ := ⟨hab, hbc, hac⟩
  have hchecks : t.blkChecks ⟨.cmp, p, ra, rb, rc, ins⟩ = .ok () := State.blkChecks_ok ho hta halign htc ⟨htb, halignb⟩
  have hstart : t.BlkPast ⟨.cmp, p, ra, rb, rc, ins⟩ (fun j => TWord.ptr ((reg rb).val + BitVec.ofNat 64 (8 * j))) 0 t :=
    .start hta htc (by
      rw [Nat.mul_zero]
      exact (congrArg TWord.ptr (BitVec.add_zero _)).trans (TWord.of_tag htb))
  have ha0 := State.blkReg_ne (o := ⟨.cmp, p, ra, rb, rc, ins⟩) hta (by decide)
  have hb0 := State.blkReg_ne (o := ⟨.cmp, p, ra, rb, rc, ins⟩) htb (by decide)
  have hc0 := State.blkReg_ne (o := ⟨.cmp, p, ra, rb, rc, ins⟩) htc (by decide)
  have hkn : k ≤ n := Nat.min_le_left _ _
  have hpair (j : Nat) (u : State) (hj : j < k) (hjm : j ≤ m) := State.blkDoes_cmp (v := u) (j := j) ho rfl ha0 hb0 hc0 hr
    (Nat.lt_of_lt_of_le hj hkn) (hserves j hj hjm).1 (hserves j hj hjm).2
  have hstep (j : Nat) (u : State) (hj : j < m)
      (hu : t.BlkPast ⟨.cmp, p, ra, rb, rc, ins⟩ (fun j => TWord.ptr ((reg rb).val + BitVec.ofNat 64 (8 * j))) j u) :
      u.BlkDoes (t.BlkPast ⟨.cmp, p, ra, rb, rc, ins⟩ (fun j => TWord.ptr ((reg rb).val + BitVec.ofNat 64 (8 * j))))
        ⟨.cmp, p, ra, rb, rc, ins⟩ j := by
    obtain ⟨w, hc, hw, hnext⟩ := hpair j u (by omega) (by omega) hu
    rw [if_pos (hsame j hj)] at hw
    exact ⟨r, _, w, hc, hw, hnext⟩
  have hrun : ∃ u, t.BlkPast ⟨.cmp, p, ra, rb, rc, ins⟩ (fun j => TWord.ptr ((reg rb).val + BitVec.ofNat 64 (8 * j))) m u ∧
      State.blkRun n ⟨.cmp, p, ra, rb, rc, ins⟩ false d t = if pause then .sample (d + m) u else .finish u := by
    obtain hlt | heq := Nat.lt_or_eq_of_le hmk
    · have hpause : pause = false := decide_eq_false fun h => by omega
      rw [hpause]
      have hend := blkRun_stops (m := m) (n := n) (d := d) hstart hlt
        (fun j u hj => hstep j u (by omega)) fun u hu => by
          rw [Nat.zero_add] at hu
          obtain ⟨w, hc, hw, -⟩ := hpair m u hlt (Nat.le_refl m) hu
          rw [if_neg (hdiff hlt)] at hw
          exact ⟨r, _, hc, hw⟩
      rw [Nat.zero_add] at hend
      exact hend
    · have hnow : blkNow n d = m := heq.symm
      have hend := blkRun_words (n := n) (d := d) hstart fun j u hj => hstep j u (by omega)
      rw [Nat.zero_add, hnow] at hend
      have hpause : pause = decide (m < n) := by
        simp only [pause, heq, true_and]
      rw [hpause]
      simpa using hend
  obtain ⟨v, hv, hpens, hflags, hleaves⟩ := State.BlockGoes.words (k := .cmp) (fun _ => rfl) hgoes ho hchecks m pause hrun
    fun h => by have := of_decide_eq_true h; omega
  refine ⟨v, hv, hpens, hflags.trans ?_, hleaves⟩
  have hn : n < 2 ^ 64 := (reg rc).val.isLt
  have hzero : decide (BitVec.ofNat 64 (n - m) = 0) = decide (m = n) := by
    refine decide_eq_decide.mpr ⟨fun h => ?_, fun h => by rw [h, Nat.sub_self]; rfl⟩
    have hval := congrArg BitVec.toNat h
    rw [BitVec.toNat_ofNat, Nat.mod_eq_of_lt (by omega)] at hval
    have hz : (0 : BitVec 64).toNat = 0 := rfl
    omega
  cases pause with
  | true => rw [if_pos rfl, if_neg fun h => nomatch h.2]
  | false => rw [if_neg Bool.false_ne_true, if_pos ⟨rfl, rfl⟩]; exact congrArg (mkFlags false · false false) hzero

end whole

end Sys2Proof.Machine
end

section
/-! BLKFILL and BLKCPY of no word and of one (R180, R205). -/

namespace Sys2Proof.Machine

section pens

variable {x y z : Pen} {l : List SbEntry} {ins : Instr} {pause : Bool} {d n : Nat} {ra rb rc : Reg} {a b c : TWord}

/-- What marks and a store leave to a block instruction. -/
theorem BlockLeaves.of_marked (hz : z.MarkedFrom x l) (h : BlockLeaves z y ins pause d ra rb rc a b n) :
    BlockLeaves x y ins pause d ra rb rc a b n := by
  obtain ⟨hback, -, hrun⟩ := hz
  obtain ⟨hget, hcontrol, hrun', hrest, hpc⟩ := h
  have hbank (r : Nat) : z.bank r = x.bank r := (congrArg (fun w : Pen => w.bank r) hback :)
  have hzget (k : Nat) : z.getB k = x.getB k := (congrArg (fun w : Pen => w.getB k) hback :)
  have hst : z.status = x.status := (congrArg Pen.status hback :)
  have hzpc : z.pc = x.pc := (congrArg Pen.pc hback :)
  refine ⟨fun k => ?_, fun j hj => ?_, hrun.trans hrun', ?_, ?_⟩
  · rw [hget, hbank, hbank, hbank, hzget]
  · rw [hcontrol j hj, hst]
  · exact (congrArg (fun w : Pen => ({ w with
      regs := x.regs, spTask := x.spTask, spExec := x.spExec, status := x.status, pc := x.pc, late := x.late, pair := x.pair
      hold := x.hold, blkDone := x.blkDone, sb := x.sb, tlb := x.tlb, run := x.run } : Pen)) hrest).trans
      (congrArg (fun w : Pen => ({ w with
        regs := x.regs, spTask := x.spTask, spExec := x.spExec, status := x.status, pc := x.pc, late := x.late, pair := x.pair
        hold := x.hold, blkDone := x.blkDone } : Pen)) hback)
  · rw [← hzpc]
    exact hpc

theorem Pen.BlkRegs.ended_sb (o : BlkOp) (h : x.BlkRegs y ra rb rc a b c) : (y.blkEnded o).sb = x.sb := by
  obtain ⟨-, -, -, -, hrest⟩ := y.blkEnded_spec o
  obtain ⟨-, hback⟩ := h
  exact Eq.trans (congrArg Pen.sb hrest :) (congrArg Pen.sb hback :)

end pens

section whole

variable {s t v w u : State} {i : Iss} {ra rb rc : Reg} {r : Run} {d cpa : Nat} {o : BlkOp} {a b c : TWord} {e : TlbEntry}
  {l : List SbEntry} {n : Nat} {ins : Instr} {k : Blk}

/-- The end of a block instruction whose words, all done, lie in the store buffer. -/
theorem State.BlkAt.ended (hu : w.BlkAt u o a b (TWord.uint (BitVec.ofNat 64 n))) (ho : o.Apart) (hk : o.kind ≠ .cmp)
    (hw : { w with pens := t.pens } = t) (hothers : t.OtherPens w o.pen) (hpen : (w.pen o.pen).MarkedFrom (t.pen o.pen) l)
    (hhold : (t.pen o.pen).hold = .none) :
    { u.blkEnd o with pens := t.pens } = t ∧ t.OtherPens (u.blkEnd o) o.pen ∧
    ((u.blkEnd o).pen o.pen).flags = (t.pen o.pen).flags ∧ ((u.blkEnd o).pen o.pen).sb = (t.pen o.pen).sb ++ l ∧
    BlockLeaves (t.pen o.pen) ((u.blkEnd o).pen o.pen) o.c false d o.ra o.rb o.rc a b n := by
  obtain ⟨⟨hback, hsame⟩, hregs⟩ := hu
  obtain ⟨hback', hsb, -⟩ := id hpen
  have hwhold : (w.pen o.pen).hold = .none := (congrArg Pen.hold hback' :).trans hhold
  have hst : (w.pen o.pen).status = (t.pen o.pen).status := (congrArg Pen.status hback' :)
  obtain ⟨hleaves, hflags⟩ := hregs.ended (d := d) ho hwhold
  have hwflags : (w.pen o.pen).flags = (t.pen o.pen).flags := congrArg (BitVec.setWidth 4) hst
  rw [if_neg hk, hwflags] at hflags
  rw [State.blkEnd_eq, State.modPen_pen_same]
  refine ⟨?_, State.OtherPens.modPen (fun q hq => ?_) _, hflags, (hregs.ended_sb o).trans hsb, hleaves.of_marked hpen⟩
  · exact (State.modPen_dropPens ..).trans ((congrArg (fun s : State => ({ s with pens := t.pens } : State)) hback).trans hw)
  · rw [hsame q (by simpa using hq)]
    exact hothers q hq

/-- A store of one word in a block instruction. -/
theorem State.Takes.blkStore {va : Word} {val : TWord} (h : t.Takes (t.ctxOf o.pen r false) r va e cpa) (h1 : e.d1 = true) (h2 : e.d2 = true)
    (hempty : (t.pen o.pen).sb = []) :
    ∃ w, t.storeWord (t.ctxOf o.pen r false) r.lig o.c va val = .ok () w ∧ { w with pens := t.pens } = t ∧ t.OtherPens w o.pen ∧
      (w.pen o.pen).MarkedFrom (t.pen o.pen) [⟨[⟨cpa, true, 0xFF, val⟩], if e.kind = .versioned then some e.slot else none⟩] := by
  have hused : (t.pen o.pen).sbUsed + 1 ≤ 4 := by rw [Pen.sbUsed, hempty]; decide
  have hstore := State.Takes.storeWord (i := o.c) (w := val) h hused
  obtain ⟨hm, -, hmem⟩ := t.marks_wroteTo (t.ctxOf o.pen r false) ⟨va, cpa, e, false⟩
  have hdrop := hm.onlyPens (hmem h1 h2)
  have hsb : (t.wroteTo (t.ctxOf o.pen r false) ⟨va, cpa, e, false⟩ |>.pen o.pen).sb = (t.pen o.pen).sb := hm.pen_field Pen.sb
  obtain ⟨-, hpen, hrun, hothers⟩ := hm
  refine ⟨_, hstore, (State.modPen_dropPens ..).trans hdrop, State.OtherPens.modPen hothers _, ?_⟩
  rw [show (t.ctxOf o.pen r false).pen = o.pen from rfl, State.modPen_pen_same]
  refine Pen.MarkedFrom.push (l := []) ⟨?_, ?_, hrun⟩ _
  · exact (congrArg (fun y : Pen => ({ y with sb := (t.pen o.pen).sb } : Pen)) hpen :)
  · exact hsb.trans (List.append_nil _).symm

theorem State.blkReg_of_marked (h : (w.pen o.pen).MarkedFrom (t.pen o.pen) l) (q : Reg) : w.blkReg o q = t.blkReg o q := by
  obtain ⟨hback, -⟩ := h
  exact (congrArg (fun z : Pen => z.getB (z.bank q.val)) hback :)

/-- BLKFILL and BLKCPY of no word only advance. -/
theorem exec_blk_none (hrow : BlkRow ins k i ra rb rc) (hk : k = .fill ∨ k = .cpy)
    (hgoes : s.BlockGoes t i.pen.val ⟨.ser, [ra, rb, rc], false⟩ ins d) (ho : BlkOp.Apart ⟨k, i.pen.val, ra, rb, rc, ins⟩)
    (hchecks : t.blkChecks ⟨k, i.pen.val, ra, rb, rc, ins⟩ = .ok ()) (hzero : (t.blkReg ⟨k, i.pen.val, ra, rb, rc, ins⟩ rc) = TWord.uint 0) :
    let x := t.pen i.pen.val
    let reg (r : Reg) : TWord := x.getB (x.bank r.val)
    ∃ v, exec ins s = .next v ∧ OnlyPens [i.pen.val] t v ∧ (v.pen i.pen.val).flags = x.flags ∧ (v.pen i.pen.val).sb = x.sb ∧
      BlockLeaves x (v.pen i.pen.val) ins false d ra rb rc (reg ra) (reg rb) 0 := by
  intro x reg
  have hcmp : (k = .cmp : Bool) = false := by
    obtain rfl | rfl := hk <;> rfl
  have hcmp' : k ≠ .cmp := of_decide_eq_false hcmp
  rw [← hcmp] at hgoes
  obtain ⟨-, -, -, hhold⟩ := hgoes.issue
  have hrun : State.blkRun (t.blkReg ⟨k, i.pen.val, ra, rb, rc, ins⟩ rc).val.toNat ⟨k, i.pen.val, ra, rb, rc, ins⟩ false
      (s.pen i.pen.val).blkDone t = .finish t := by
    rw [hzero]
    rfl
  refine ⟨_, (exec_blk hrow hgoes hchecks).trans (congrArg _ (State.blkGo_finish hrun)), ?_⟩
  have hstart := State.BlkAt.refl t ⟨k, i.pen.val, ra, rb, rc, ins⟩
  rw [hzero] at hstart
  obtain ⟨hback, -, hflags, hsb, hleaves⟩ := State.BlkAt.ended (l := []) (n := 0) (d := d) hstart ho hcmp' rfl
    (fun q _ => by split <;> rfl) ⟨rfl, (List.append_nil _).symm, rfl⟩ hhold
  rw [List.append_nil] at hsb
  exact ⟨onlyPens_modPen, hflags, hsb, hleaves⟩

/-- The one word of BLKFILL. -/
theorem State.blkRun_fill {x : State} (hk : o.kind = .fill) (hr : t.runs o.pen = some r)
    (hstore : t.storeWord (t.ctxOf o.pen r false) r.lig o.c (t.blkReg o o.ra).val (t.blkReg o o.rb) = .ok () x) :
    State.blkRun 1 o false d t = .finish ((x.blkStep o o.ra).blkCount o) := by
  rw [State.blkRun]
  simp only [(State.BlkAt.refl t o).runCtx hr, State.blkWord, hk, hstore, Res.bind]
  rfl

/-- The one word of BLKCPY. -/
theorem State.blkRun_cpy {x : State} (hk : o.kind = .cpy) (hr : t.runs o.pen = some r)
    (hload : t.Serves (t.ctxOf o.pen r false) r false (t.blkReg o o.rb).val b)
    (hstore : t.storeWord (t.ctxOf o.pen r false) r.lig o.c (t.blkReg o o.ra).val b = .ok () x) :
    State.blkRun 1 o false d t = .finish (((x.blkStep o o.ra).blkStep o o.rb).blkCount o) := by
  have hload := hload.loadWord (i := o.c) (chk := fun _ => .ok ()) rfl
  rw [State.blkRun]
  simp only [(State.BlkAt.refl t o).runCtx hr, State.blkWord, hk, hload, hstore, Res.bind]
  rfl

end whole

end Sys2Proof.Machine
end

section
/-! The block instructions complete (R179 to R181). -/

namespace Sys2Proof.Machine

section whole

variable {s t : State} {i : Iss} {ra rb rc : Reg} {r : Run} {d cpa : Nat} {e : TlbEntry} {w : TWord}

/-- BLKFILL of one word (R180, R205). -/
theorem exec_blkfill_one :
    let p := i.pen.val
    let x := t.pen p
    let reg (r : Reg) : TWord := x.getB (x.bank r.val)
    ra ≠ rb → rb ≠ rc → ra ≠ rc → t.runs p = some r → (reg ra).tag = Tag.ptr → bitsOf (reg ra).val 0 3 = 0 →
    reg rc = TWord.uint 1 → t.Takes (t.ctxOf p r false) r (reg ra).val e cpa → e.d1 = true → e.d2 = true → x.sb = [] →
    s.BlockGoes t p ⟨.ser, [ra, rb, rc], false⟩ (.blkfill i ra rb rc) d →
    ∃ v, exec (.blkfill i ra rb rc) s = .next v ∧ { v with pens := t.pens } = t ∧ t.OtherPens v p ∧
      (v.pen p).flags = x.flags ∧
      (v.pen p).sb = [⟨[⟨cpa, true, 0xFF, reg rb⟩], if e.kind = .versioned then some e.slot else none⟩] ∧
      BlockLeaves x (v.pen p) (.blkfill i ra rb rc) false (d + 1) ra rb rc (TWord.ptr ((reg ra).val + 8)) (reg rb) 0 := by
  intro p x reg hab hbc hac hr hta halign hone htakes h1 h2 hempty hgoes
  let o : BlkOp := ⟨.fill, p, ra, rb, rc, .blkfill i ra rb rc⟩
  have ho : o.Apart := ⟨hab, hbc, hac⟩
  have htc : (t.blkReg o rc).tag = Tag.uint := congrArg TWord.tag hone
  have hchecks : t.blkChecks o = .ok () := State.blkChecks_ok ho hta halign htc trivial
  obtain ⟨-, -, -, hhold⟩ := hgoes.issue
  obtain ⟨w, hstore, hback, hothers, hpen⟩ := State.Takes.blkStore (o := o) (val := reg rb) htakes h1 h2 hempty
  have hrun := State.blkRun_fill (d := (s.pen p).blkDone) (o := o) rfl hr hstore
  have hcount : (t.blkReg o o.rc).val.toNat = 1 := congrArg (fun w : TWord => w.val.toNat) hone
  rw [← hcount] at hrun
  refine ⟨_, (exec_blk (fun _ => rfl) hgoes hchecks).trans (congrArg _ (State.blkGo_finish hrun)), ?_⟩
  have hstart := State.BlkAt.refl w o
  rw [State.blkReg_of_marked hpen, State.blkReg_of_marked hpen, State.blkReg_of_marked hpen] at hstart
  have hcountW : t.blkReg o o.rc = TWord.uint 1 := hone
  rw [hcountW] at hstart
  have hend := (hstart.stepA ho (State.blkReg_ne (o := o) hta (by decide))).count ho (State.blkReg_ne (o := o) htc (by decide))
  obtain ⟨hv, hothers', hflags, hsb, hleaves⟩ := State.BlkAt.ended (n := 0) (d := d + 1) hend ho nofun hback hothers hpen hhold
  rw [hempty] at hsb
  exact ⟨hv, hothers', hflags, hsb, hleaves⟩

/-- BLKCPY of one word (R180, R205). -/
theorem exec_blkcpy_one :
    let p := i.pen.val
    let x := t.pen p
    let reg (r : Reg) : TWord := x.getB (x.bank r.val)
    ra ≠ rb → rb ≠ rc → ra ≠ rc → t.runs p = some r → (reg ra).tag = Tag.ptr → bitsOf (reg ra).val 0 3 = 0 →
    reg rc = TWord.uint 1 → t.Takes (t.ctxOf p r false) r (reg ra).val e cpa → e.d1 = true → e.d2 = true → x.sb = [] →
    s.BlockGoes t p ⟨.ser, [ra, rb, rc], false⟩ (.blkcpy i ra rb rc) d → (reg rb).tag = Tag.ptr →
    bitsOf (reg rb).val 0 3 = 0 → t.Serves (t.ctxOf p r false) r false (reg rb).val w →
    ∃ v, exec (.blkcpy i ra rb rc) s = .next v ∧ { v with pens := t.pens } = t ∧ t.OtherPens v p ∧
      (v.pen p).flags = x.flags ∧
      (v.pen p).sb = [⟨[⟨cpa, true, 0xFF, w⟩], if e.kind = .versioned then some e.slot else none⟩] ∧
      BlockLeaves x (v.pen p) (.blkcpy i ra rb rc) false (d + 1) ra rb rc (TWord.ptr ((reg ra).val + 8))
        (TWord.ptr ((reg rb).val + 8)) 0 := by
  intro p x reg hab hbc hac hr hta halign hone htakes h1 h2 hempty hgoes htb halignb hserves
  let o : BlkOp := ⟨.cpy, p, ra, rb, rc, .blkcpy i ra rb rc⟩
  have ho : o.Apart := ⟨hab, hbc, hac⟩
  have htc : (t.blkReg o rc).tag = Tag.uint := congrArg TWord.tag hone
  have hchecks : t.blkChecks o = .ok () := State.blkChecks_ok ho hta halign htc ⟨htb, halignb⟩
  obtain ⟨-, -, -, hhold⟩ := hgoes.issue
  obtain ⟨u, hstore, hback, hothers, hpen⟩ := State.Takes.blkStore (o := o) (val := w) htakes h1 h2 hempty
  have hrun := State.blkRun_cpy (d := (s.pen p).blkDone) (o := o) rfl hr hserves hstore
  have hcount : (t.blkReg o o.rc).val.toNat = 1 := congrArg (fun w : TWord => w.val.toNat) hone
  rw [← hcount] at hrun
  refine ⟨_, (exec_blk (fun _ => rfl) hgoes hchecks).trans (congrArg _ (State.blkGo_finish hrun)), ?_⟩
  have hstart := State.BlkAt.refl u o
  rw [State.blkReg_of_marked hpen, State.blkReg_of_marked hpen, State.blkReg_of_marked hpen] at hstart
  have hcountW : t.blkReg o o.rc = TWord.uint 1 := hone
  rw [hcountW] at hstart
  have hend := ((hstart.stepA ho (State.blkReg_ne (o := o) hta (by decide))).stepB ho
    (State.blkReg_ne (o := o) htb (by decide))).count ho (State.blkReg_ne (o := o) htc (by decide))
  obtain ⟨hv, hothers', hflags, hsb, hleaves⟩ := State.BlkAt.ended (n := 0) (d := d + 1) hend ho nofun hback hothers hpen hhold
  rw [hempty] at hsb
  exact ⟨hv, hothers', hflags, hsb, hleaves⟩

end whole

/-- Settles O20: each word of a block instruction keeps the registers in step with the words done (`State.BlkPast`), so
`blkRun_words` and `blkRun_stops` give where the words end. -/
theorem blockInstructionsComplete : Obligations.BlockInstructionsComplete := by
  refine ⟨?crc, ?cmp, ?move⟩
  case crc =>
    intro s t i ra rb rc r f d p ins x reg n m
    exact exec_blkcrc f
  case cmp =>
    intro s t i ra rb rc r f g d m p ins x c reg n k pause
    exact exec_blkcmp f g m
  case move =>
    intro s t i ra rb rc r cpa d e w p x c reg slot hab hbc hac hr hta halign
    refine ⟨fun ins hins hzero hgoes => ?_, fun hone htakes h1 h2 hempty => ⟨?_, ?_⟩⟩
    · have htc : (reg rc).tag = Tag.uint := congrArg TWord.tag hzero
      obtain rfl | ⟨rfl, htb, halignb⟩ := hins
      · exact exec_blk_none (k := .fill) (fun _ => rfl) (.inl rfl) hgoes ⟨hab, hbc, hac⟩
          (State.blkChecks_ok ⟨hab, hbc, hac⟩ hta halign htc trivial) hzero
      · exact exec_blk_none (k := .cpy) (fun _ => rfl) (.inr rfl) hgoes ⟨hab, hbc, hac⟩
          (State.blkChecks_ok ⟨hab, hbc, hac⟩ hta halign htc ⟨htb, halignb⟩) hzero
    · exact exec_blkfill_one hab hbc hac hr hta halign hone htakes h1 h2 hempty
    · exact exec_blkcpy_one hab hbc hac hr hta halign hone htakes h1 h2 hempty

end Sys2Proof.Machine
end

section
/-! The rubric and the notes of reads change no word of memory (R285, R412, R420). -/

namespace Sys2Proof.Machine

/-! ### What leaves memory alone -/

theorem State.discardDraft_mem {s : State} {n : Nat} : (s.discardDraft n).mem = s.mem := State.modVslot_mem

theorem State.discardAll_mem {s : State} {l : List Nat} : (s.forAll l (fun n t => t.discardDraft n)).mem = s.mem :=
  State.forAll_eq State.mem fun _ _ => State.discardDraft_mem

theorem State.setDescStatus_mem {s : State} {d st : Nat} : (s.setDescStatus d st).mem = s.mem := State.modDesc_mem

theorem State.dropCopy_mem {s : State} {p : Nat} : (s.dropCopy p).mem = s.mem := by
  unfold State.dropCopy
  split
  · exact State.discardDraft_mem
  all_goals rfl

theorem State.dropRequest_mem {s : State} {p : Nat} {r : Run} : (s.dropRequest p r).mem = s.mem := by
  unfold State.dropRequest
  split
  all_goals rfl

theorem State.wantRedraft_mem {s : State} : s.wantRedraft.mem = s.mem := by
  unfold State.wantRedraft
  split
  all_goals rfl

theorem State.dropMarch_mem {s : State} {p : Nat} : (s.dropMarch p).mem = s.mem := by
  unfold State.dropMarch
  split
  · rfl
  · split
    all_goals rfl

theorem State.loseRun_mem {s : State} {r : Run} : (s.loseRun r).1.mem = s.mem := by
  unfold State.loseRun
  split
  · rfl
  · dsimp only
    split_ifs
    all_goals rfl

theorem State.canWithdraw_mem {s : State} {c : Nat} : (s.canWithdraw c).mem = s.mem := by
  unfold State.canWithdraw
  rw [State.modCan_mem]
  exact State.forAll_eq State.mem fun _ _ => State.setDescStatus_mem

theorem State.ethWithdraw_mem {s : State} {m st : Nat} : (s.ethWithdraw m st).mem = s.mem := by
  unfold State.ethWithdraw
  rw [State.modMac_mem]
  exact State.forAll_eq State.mem fun _ _ => State.setDescStatus_mem

theorem State.canSafe_mem {s : State} : s.canSafe.mem = s.mem := by
  unfold State.canSafe
  refine State.forAll_eq State.mem fun c t => ?_
  rw [State.modCan_mem, State.canWithdraw_mem]

theorem State.postStatus_mem {s : State} {q a b c d e : Nat} {w : Word} : (s.postStatus q a b c d e w).mem = s.mem :=
  State.modQueue_mem

theorem State.endMessages_mem {s : State} {st : Nat} : (s.endMessages st).mem = s.mem := by
  unfold State.endMessages
  refine State.forAll_eq State.mem fun q t => ?_
  rw [State.modQueue_mem]
  refine State.forAll_eq State.mem fun m u => ?_
  dsimp only
  rw [State.postStatus_mem]
  cases (t.queue q).toHost
  · simp only [Bool.false_eq_true, if_false, State.modQueue_mem, State.discardAll_mem]
  · simp only [if_true, State.setDescStatus_mem, State.discardAll_mem]

theorem State.safeOutputs_mem {s : State} : s.safeOutputs.mem = s.mem := by
  have heth (t : State) : (t.forAll (upTo 4) (fun m t => t.ethWithdraw m 0xA)).mem = t.mem :=
    State.forAll_eq State.mem fun _ _ => State.ethWithdraw_mem
  have hgpio : s.gpioSafe.mem = s.mem := rfl
  unfold State.safeOutputs
  dsimp only
  rw [State.endMessages_mem, heth, State.canSafe_mem, hgpio]

theorem State.msixNow_mem {s : State} {v : Nat} : (s.msixNow v).1.mem = s.mem := by
  unfold State.msixNow
  dsimp only
  split_ifs
  all_goals rfl

theorem State.rateCheck_mem {s : State} : s.rateCheck.1.mem = s.mem := by
  unfold State.rateCheck
  split
  · rfl
  · dsimp only
    split_ifs
    all_goals rfl

theorem State.cutTrace_mem {s : State} : s.cutTrace.1.mem = s.mem := by
  have hrate := State.rateCheck_mem (s := s)
  unfold State.cutTrace
  dsimp only
  split
  · exact hrate
  · split_ifs
    · exact hrate
    · exact State.msixNow_mem.trans hrate

theorem State.farewell_mem {s : State} {r : Nat} : (s.farewell r).mem = s.mem := by
  unfold State.farewell State.sendRecord
  dsimp only
  split_ifs
  all_goals rfl

/-! ### Runs and pens -/

theorem State.killRun_mem {s : State} {q : Nat} : (s.killRun q).mem = s.mem := by
  unfold State.killRun
  split
  · rfl
  · next r _ =>
    have hkill : (((s.forAll r.drafts (fun n t => t.discardDraft n)).dropCopy q).dropRequest q r).mem = s.mem := by
      rw [State.dropRequest_mem, State.dropCopy_mem, State.discardAll_mem]
    dsimp only
    split
    · exact hkill
    · exact hkill

theorem State.killEnding_mem {s : State} {q : Nat} : (s.killEnding q).mem = s.mem := by
  unfold State.killEnding
  split
  · rfl
  · dsimp only
    split
    · exact State.discardAll_mem
    · exact State.discardAll_mem

theorem State.commitPage_mem {s : State} {r : Run} {n : Nat} : (s.commitPage r n).mem = s.mem := by
  have hmod (f : VSlot → VSlot) : (((s.modVslot n f).rewriteTlb n).noteCommit n).mem = s.mem :=
    Eq.trans (b := (s.modVslot n f).mem) rfl State.modVslot_mem
  unfold State.commitPage
  extract_lets v lost t u
  have hu : u.mem = s.mem := hmod _
  clear_value u
  split
  · exact hu
  · exact hu

theorem State.commitRun_mem {s : State} {r : Run} {c : Nat} : (s.commitRun r c).1.mem = s.mem := by
  have hpages : (s.forAll r.drafts (fun n t => t.commitPage r n)).mem = s.mem :=
    State.forAll_eq State.mem fun _ _ => State.commitPage_mem
  refine Eq.trans ?_ hpages
  unfold State.commitRun State.noteHwm
  dsimp only
  split <;> rfl

theorem State.commitPen_mem {s : State} {q : Nat} : (s.commitPen q).1.mem = s.mem := by
  unfold State.commitPen
  split
  · dsimp only
    split
    · exact State.commitRun_mem
    · exact State.commitRun_mem
  · split
    · rfl
    · dsimp only
      split
      · exact State.commitRun_mem
      · exact State.commitRun_mem

theorem State.soleFor_mem {s : State} {q : Nat} : (s.soleFor q).mem = s.mem := by
  unfold State.soleFor
  split <;> rfl

theorem State.leavePair_mem {s : State} {q : Nat} : (s.leavePair q).mem = s.mem := by
  unfold State.leavePair
  dsimp only
  rw [State.soleFor_mem]
  split <;> rfl

theorem State.toFenced_mem {s : State} {q : Nat} : (s.toFenced q).mem = s.mem :=
  State.dropMarch_mem (s := s.freeBlotter q) (p := q)

theorem State.mirrorAfterLoss_mem {s : State} {q : Nat} : (s.mirrorAfterLoss q).mem = s.mem := by
  unfold State.mirrorAfterLoss
  split
  · rfl
  · dsimp only
    split
    · exact State.soleFor_mem
    · split <;> rfl
    · split <;> rfl
    · rfl

theorem State.fencePen_mem {s : State} {q : Nat} : (s.fencePen q).1.mem = s.mem := by
  have hfin {t : State} (ht : t.mem = s.mem) : ((t.toFenced q).mirrorAfterLoss q).wantRedraft.mem = s.mem := by
    rw [State.wantRedraft_mem, State.mirrorAfterLoss_mem, State.toFenced_mem, ht]
  unfold State.fencePen
  split
  · rfl
  · dsimp only
    split
    · exact hfin State.killEnding_mem
    · split
      · exact hfin (State.leavePair_mem.trans State.killEnding_mem)
      · exact hfin (State.killRun_mem.trans State.killEnding_mem)
      · exact hfin (State.loseRun_mem.trans (State.killRun_mem.trans State.killEnding_mem))

theorem foldl_mem {l : List Nat} {f : State × List Event → Nat → State × List Event} {x : State × List Event}
    (hf : ∀ y n, (f y n).1.mem = y.1.mem) : (l.foldl f x).1.mem = x.1.mem := by
  induction l generalizing x with
  | nil => rfl
  | cons n l ih => exact ih.trans (hf x n)

theorem State.endRuns_mem {s : State} : s.endRuns.1.mem = s.mem := by
  unfold State.endRuns
  extract_lets now due x
  have hfold : x.1.mem = s.mem := by
    unfold x
    refine foldl_mem fun y q => ?_
    extract_lets pen y1 z y2
    have hz : z.1.mem = y.1.mem := by
      unfold z
      split
      · split
        · exact State.commitPen_mem
        · exact State.killEnding_mem
      · rfl
    split
    · split
      · exact State.commitPen_mem.trans hz
      · exact State.killRun_mem.trans hz
    · exact hz
  clear_value x
  exact hfold

theorem State.enterSafe_mem {s : State} : s.enterSafe.1.mem = s.mem := by
  have hcut (t : State) : t.cutCommands.mem = t.mem := rfl
  have hclose (t : State) : t.closeAll.mem = t.mem := rfl
  have hrel (t : State) : t.releaseActive.mem = t.mem := State.modSlot_mem
  unfold State.enterSafe
  dsimp only
  split
  · rw [hcut, State.farewell_mem, hclose, State.cutTrace_mem, State.safeOutputs_mem, State.endRuns_mem]
  · rw [hrel, hcut, State.farewell_mem, hclose, State.cutTrace_mem, State.safeOutputs_mem, State.endRuns_mem]

/-! ### Events -/

theorem State.queueEvent_mem {s : State} {e : Event} {a : Nat} {esc irq : Bool} : (s.queueEvent e a esc irq).1.mem = s.mem := by
  have hirq (t : State) : (t.irqVector1 irq).mem = t.mem := by
    unfold State.irqVector1
    split_ifs <;> rfl
  have hco (t : State) : t.coalesce.mem = t.mem := by
    unfold State.coalesce
    split <;> rfl
  unfold State.queueEvent
  dsimp only
  split_ifs
  · exact hco _
  · exact hirq _
  · exact hirq _
  · exact hco _
  · rfl

theorem State.shedLine_mem {s : State} {i : Nat} : (s.shedLine i).mem = s.mem := by
  unfold State.shedLine
  split_ifs <;> rfl

theorem State.react_mem {s : State} {e : Event} {a : Nat} : (s.react e a).1.mem = s.mem := by
  unfold State.react
  split_ifs
  · exact State.fencePen_mem
  · exact State.fencePen_mem
  · rfl
  · rfl
  · exact State.shedLine_mem
  · rfl
  · exact State.enterSafe_mem
  · rfl

theorem State.judgeEvent_mem {s : State} {e : Event} : (s.judgeEvent e).1.mem = s.mem := by
  obtain hnone | ⟨f, a, esc, irq, hcount | hreact⟩ := s.judgeEvent_eq e
  · rw [hnone]
  · rw [hcount]
    rfl
  · rw [hreact]
    exact State.react_mem.trans State.queueEvent_mem

theorem State.raiseN_mem {s : State} {n : Nat} {es : List Event} : (State.raiseN n es s).mem = s.mem := by
  induction n generalizing s es with
  | zero => rfl
  | succ n ih =>
    cases es with
    | nil => rfl
    | cons e es => exact ih.trans State.judgeEvent_mem

theorem State.raise_mem {s : State} {e : Event} : (s.raise e).mem = s.mem := State.raiseN_mem

/-! ### Reads -/

theorem State.modErr_mem {s : State} {a : Nat} {f : Word → Word} : (s.modErr a f).mem = s.mem := by
  unfold State.modErr
  split
  · rfl
  · exact State.modRsv_mem

theorem State.marginAdd_mem {s : State} {a syn source : Nat} : (s.marginAdd a syn source).mem = s.mem := by
  unfold State.marginAdd
  dsimp only
  split_ifs
  · rfl
  · rfl
  · rfl
  · refine State.raise_mem.trans ?_
    rfl

/-- A read changes no word. -/
theorem State.readWord_mem {s : State} {a source : Nat} {cls : Option Nat} : (s.readWord a source cls).2.mem = s.mem := by
  unfold State.readWord
  split
  · rfl
  · exact State.marginAdd_mem.trans State.modErr_mem
  · exact State.raise_mem.trans State.modErr_mem
  · exact State.raise_mem.trans State.modErr_mem

theorem State.readRun_mem {s : State} {p home a source : Nat} : (s.readRun p home a source).2.mem = s.mem := by
  unfold State.readRun
  dsimp only
  split
  · rw [State.readWord_mem, State.readWord_mem]
  · rw [State.readWord_mem]

end Sys2Proof.Machine
end

section
/-! What a pen fetches (R157, R190, R201, R226), and which words are instructions (R158 to R161). -/

namespace Sys2Proof.Machine

/-! ### Which words are instructions -/

section words

variable {i : Iss} {w : Nat}

theorem fieldOf_lt (w lo n : Nat) : fieldOf w lo n < 2 ^ n := Nat.mod_lt _ (Nat.two_pow_pos n)

/-- Reserved fields that are zero leave the rest of a format's judgement. -/
theorem zeroElse_eq_none {ok : Bool} {rest : Option Nat} : zeroElse ok rest = none ↔ ok = true ∧ rest = none := by
  cases ok
  · exact ⟨nofun, nofun⟩
  · exact ⟨fun h => ⟨rfl, h⟩, fun h => h.2⟩

theorem formElse_eq_none {ok : Bool} : formElse ok = none ↔ ok = true := by
  cases ok
  · exact ⟨nofun, nofun⟩
  · exact ⟨fun _ => rfl, fun _ => rfl⟩

theorem decodeR_isSome (h : illegalR w = none) : (decodeR i w).isSome = true := by
  have hf : fieldOf w 5 6 ≤ 0x13 := by
    by_contra hlt
    exact nomatch (if_pos (by omega)).symm.trans h
  unfold decodeR
  generalize fieldOf w 5 6 = f at hf ⊢
  interval_cases f <;> rfl

/-- Formats SH and BF have no word without an instruction; of format T function 3 has none. -/
theorem decodeBits_isSome (hop : fieldOf w 26 6 = 0x0A ∨ fieldOf w 26 6 = 0x0B ∨ fieldOf w 26 6 = 0x0C ∧ illegalT w = none) :
    (decodeBits i w).isSome = true := by
  have hlt := fieldOf_lt w 14 2
  obtain hop | hop | ⟨hop, ht⟩ := hop
  · unfold decodeBits
    rw [hop]
    generalize fieldOf w 14 2 = f at hlt ⊢
    interval_cases f <;> rfl
  · unfold decodeBits
    rw [hop]
    rfl
  · have hf : fieldOf w 14 2 ≠ 3 := fun e => nomatch (if_pos e).symm.trans ht
    unfold decodeBits
    rw [hop]
    generalize fieldOf w 14 2 = f at hlt hf ⊢
    interval_cases f
    · rfl
    · rfl
    · rfl
    · exact absurd rfl hf

theorem decodeM_isSome (hlo : 0x10 ≤ fieldOf w 26 6) (hhi : fieldOf w 26 6 ≤ 0x19) : (decodeM i w).isSome = true := by
  unfold decodeM
  generalize fieldOf w 26 6 = op at hlo hhi ⊢
  interval_cases op <;> rfl

theorem decodeBk_isSome (h : illegalBk w = none) : (decodeBk i w).isSome = true := by
  have hf : fieldOf w 8 3 ≤ 3 := by
    by_contra hlt
    exact nomatch (if_pos (by omega)).symm.trans h
  unfold decodeBk
  generalize fieldOf w 8 3 = f at hf ⊢
  interval_cases f <;> rfl

theorem decodeJr_isSome (h : illegalJr w = none) : (decodeJr i w).isSome = true := by
  have hf : fieldOf w 13 3 ≤ 4 := by
    by_contra hlt
    exact nomatch (if_pos (by omega)).symm.trans h
  unfold decodeJr
  generalize fieldOf w 13 3 = f at hf ⊢
  interval_cases f <;> rfl

theorem decodeS_isSome (h : illegalS w = none) : (decodeS i w).isSome = true := by
  have hkind : fieldOf w 0 2 = fieldOf w 0 12 % 4 := by simp only [fieldOf]; omega
  have hlt := fieldOf_lt w 12 4
  unfold illegalS at h
  unfold decodeS
  rw [hkind]
  generalize fieldOf w 12 4 = f at h hlt ⊢
  obtain hf | rfl | hf | hf : f < 4 ∨ f = 4 ∨ (4 < f ∧ f < 8) ∨ 8 ≤ f := by omega
  · interval_cases f <;> rfl
  · obtain ⟨hzero, hform⟩ := zeroElse_eq_none.mp h
    have himm : fieldOf w 0 12 ≠ 3 := of_decide_eq_true (formElse_eq_none.mp hform)
    simp only [Bool.and_eq_true, decide_eq_true_eq] at hzero
    obtain ⟨⟨-, hsmall⟩, -⟩ := hzero
    generalize fieldOf w 0 12 = imm at himm hsmall ⊢
    obtain hz | rfl : imm < 3 ∨ imm = 3 := by omega
    · interval_cases imm <;> rfl
    · exact absurd rfl himm
  · obtain ⟨hlo, hhi⟩ := hf
    interval_cases f <;> rfl
  · interval_cases f <;> exact nomatch h

theorem illegalDetail_formatR (h : fieldOf w 26 6 = 0x01) : illegalDetail w = illegalR w := by
  unfold illegalDetail
  rw [h]
  rfl

theorem illegalDetail_formatT (h : fieldOf w 26 6 = 0x0C) : illegalDetail w = illegalT w := by
  unfold illegalDetail
  rw [h]
  rfl

theorem illegalDetail_formatBk (h : fieldOf w 26 6 = 0x1A) : illegalDetail w = illegalBk w := by
  unfold illegalDetail
  rw [h]
  rfl

theorem illegalDetail_formatJr (h : fieldOf w 26 6 = 0x23) : illegalDetail w = illegalJr w := by
  unfold illegalDetail
  rw [h]
  rfl

theorem illegalDetail_formatS (h : fieldOf w 26 6 = 0x30) : illegalDetail w = illegalS w := by
  unfold illegalDetail
  rw [h]
  rfl

/-- The opcodes that are not assigned (R160). -/
def Unassigned (op : Nat) : Prop :=
  op = 0 ∨ (0x0E ≤ op ∧ op ≤ 0x0F) ∨ (0x1B ≤ op ∧ op ≤ 0x1F) ∨ (0x25 ≤ op ∧ op ≤ 0x2F) ∨ (0x31 ≤ op ∧ op < 0x40)

theorem illegalDetail_unassigned (h : Unassigned (fieldOf w 26 6)) : illegalDetail w = some 1 := by
  unfold illegalDetail
  generalize fieldOf w 26 6 = op at h ⊢
  obtain rfl | ⟨hlo, hhi⟩ | ⟨hlo, hhi⟩ | ⟨hlo, hhi⟩ | ⟨hlo, hhi⟩ := h
  · rfl
  · interval_cases op <;> rfl
  · interval_cases op <;> rfl
  · interval_cases op <;> rfl
  · interval_cases op <;> rfl

/-- The opcodes of a format that judges its fields. -/
def Judges (op : Nat) : Prop := op = 0x01 ∨ op = 0x0C ∨ op = 0x1A ∨ op = 0x23 ∨ op = 0x30

/-- The opcodes whose words all have an instruction. -/
def Spells (op : Nat) : Prop :=
  (0x02 ≤ op ∧ op ≤ 0x09) ∨ op = 0x0D ∨ (0x20 ≤ op ∧ op ≤ 0x22) ∨ op = 0x24

theorem decodeFields_spells (h : Spells (fieldOf w 26 6)) : (decodeFields i w).isSome = true := by
  unfold decodeFields
  generalize fieldOf w 26 6 = op at h ⊢
  obtain ⟨hlo, hhi⟩ | rfl | ⟨hlo, hhi⟩ | rfl := h
  · interval_cases op <;> rfl
  · rfl
  · interval_cases op <;> rfl
  · rfl

theorem decodeFields_judged (h : Judges (fieldOf w 26 6)) (hd : illegalDetail w = none) : (decodeFields i w).isSome = true := by
  unfold decodeFields
  obtain h | h | h | h | h := h
  · rw [illegalDetail_formatR h] at hd
    rw [h]
    exact decodeR_isSome hd
  · rw [illegalDetail_formatT h] at hd
    rw [h]
    exact decodeBits_isSome (.inr (.inr ⟨h, hd⟩))
  · rw [illegalDetail_formatBk h] at hd
    rw [h]
    exact decodeBk_isSome hd
  · rw [illegalDetail_formatJr h] at hd
    rw [h]
    exact decodeJr_isSome hd
  · rw [illegalDetail_formatS h] at hd
    rw [h]
    exact decodeS_isSome hd

theorem decodeFields_bits (h : fieldOf w 26 6 = 0x0A ∨ fieldOf w 26 6 = 0x0B) : (decodeFields i w).isSome = true := by
  unfold decodeFields
  obtain h | h := h
  · rw [h]
    exact decodeBits_isSome (.inl h)
  · rw [h]
    exact decodeBits_isSome (.inr (.inl h))

theorem decodeFields_mem (hlo : 0x10 ≤ fieldOf w 26 6) (hhi : fieldOf w 26 6 ≤ 0x19) : (decodeFields i w).isSome = true := by
  have hm := decodeM_isSome (i := i) hlo hhi
  unfold decodeFields
  generalize fieldOf w 26 6 = op at hlo hhi ⊢
  interval_cases op <;> exact hm

/-- A word without an illegal detail has an instruction, by the judgement of its format (R160). -/
theorem decodeFields_isSome (h : illegalDetail w = none) : (decodeFields i w).isSome = true := by
  have hlt : fieldOf w 26 6 < 64 := fieldOf_lt w 26 6
  have hop : Spells (fieldOf w 26 6) ∨ Judges (fieldOf w 26 6) ∨ (fieldOf w 26 6 = 0x0A ∨ fieldOf w 26 6 = 0x0B) ∨
      (0x10 ≤ fieldOf w 26 6 ∧ fieldOf w 26 6 ≤ 0x19) ∨ Unassigned (fieldOf w 26 6) := by
    unfold Spells Judges Unassigned
    omega
  obtain hop | hop | hop | ⟨hlo, hhi⟩ | hop := hop
  · exact decodeFields_spells hop
  · exact decodeFields_judged hop h
  · exact decodeFields_bits hop
  · exact decodeFields_mem hlo hhi
  · exact nomatch (illegalDetail_unassigned hop).symm.trans h

/-- A word spells an instruction exactly if it has no illegal detail (R159). -/
theorem decodeWord_isSome_iff : (decodeWord i w).isSome = true ↔ illegalDetail w = none := by
  cases hd : illegalDetail w with
  | none =>
    rw [decodeWord, hd]
    exact ⟨fun _ => rfl, fun _ => decodeFields_isSome hd⟩
  | some d =>
    rw [decodeWord, hd]
    exact ⟨nofun, nofun⟩

end words

end Sys2Proof.Machine
end

section
/-! What a pen fetches (R157, R190, R201, R286). -/

namespace Sys2Proof.Machine

section fetch

variable {s t : State} {p : Nat} {r : Run} {paired : Bool} {b : FetchBlock} {e : TlbEntry} {a : Nat}

/-- A fetch that has its block: served, or with bus cause UNCORRECTABLE (R286). -/
def State.fetchedFrom (t : State) (p : Nat) : FetchOut := if (t.pen p).codeWord.isSome then .served t else .bus 2 t

theorem State.fetch_buffered (h : (s.pen p).buffered = true) : s.fetch p r paired = s.fetchedFrom p := if_pos h

theorem State.fetch_miss (h : (s.pen p).buffered = false) (hx : s.xlat (s.ctxOf p r paired) (s.pen p).pc .fetch = .miss) :
    s.fetch p r paired = .untranslated := by
  simp only [State.fetch, h, hx]
  rfl

theorem State.fetch_refused {k : Nat} (h : (s.pen p).buffered = false)
    (hx : s.xlat (s.ctxOf p r paired) (s.pen p).pc .fetch = .hit e)
    (hk : s.fetchRefusal r (s.frameCpa (s.ctxOf p r paired) e (s.pen p).pc) = some k) : s.fetch p r paired = .bus k s := by
  simp only [State.fetch, h, hx, hk]
  rfl

theorem State.fetch_block (h : (s.pen p).buffered = false)
    (hx : s.xlat (s.ctxOf p r paired) (s.pen p).pc .fetch = .hit e)
    (hk : s.fetchRefusal r (s.frameCpa (s.ctxOf p r paired) e (s.pen p).pc) = none) :
    s.fetch p r paired = (s.fetchBlock p r (s.frameCpa (s.ctxOf p r paired) e (s.pen p).pc)).fetchedFrom p := by
  simp only [State.fetch, h, hx, hk]
  rfl

/-- A page lies at a 16-byte boundary (R258). -/
theorem State.frameCpa_mod (s : State) (c : Ctx) (e : TlbEntry) (va : Word) : s.frameCpa c e va % 16 = va.toNat % 16 := by
  have hsize : leafSize e.size = 16 * 2 ^ (8 + 9 * e.size) := by rw [leafSize, show 12 + 9 * e.size = 4 + (8 + 9 * e.size) by omega, pow_add]; rfl
  have hoff : va.toNat % leafSize e.size % 16 = va.toNat % 16 := by rw [hsize, Nat.mod_mul_right_mod]
  unfold State.frameCpa
  generalize va.toNat % leafSize e.size = off at hoff ⊢
  cases e.kind
  · dsimp only
    omega
  · dsimp only [inkBase]
    omega
  · dsimp only
    omega

/-- The word of a read (R285). -/
theorem State.readWord_word {a source : Nat} {cls : Option Nat} : (s.readWord a source cls).1 = (s.peek a).word? := by
  unfold State.readWord
  cases s.peek a <;> rfl

theorem State.readRun_word {home source : Nat} : (s.readRun p home a source).1 = (s.peek (ownCopy p home a)).word? := by
  unfold State.readRun
  dsimp only
  split
  · rw [State.readWord_word]
  · rw [State.readWord_word]

theorem State.readRun_clean {home source : Nat} {w : TWord} (hj : s.isJoined p = false) (h : s.peek (ownCopy p home a) = .clean w) :
    s.readRun p home a source = (some w, s) := by
  have hread : s.readWord (ownCopy p home a) source = (some w, s) := by simp only [State.readWord, h]
  unfold State.readRun
  rw [hj, hread]
  rfl

/-- A pen outside a JOINED run goes on as it is. -/
theorem State.shows_of_solo (h : s.isJoined p = false) : s.Shows p (s.pen p) := by
  refine ⟨⟨rfl, rfl, ⟨rfl, rfl, rfl⟩, .inr ⟨rfl, rfl, rfl⟩⟩, fun _ r hr hm => ?_⟩
  rw [State.isJoined, hr] at h
  exact of_decide_eq_false h hm

/-- The code word that a fetched block gives the program counter is the one at its address (R201). -/
theorem State.fetchBlock_codeWord (hj : s.isJoined p = false) (ha : isInk a = true) (hh : inkPen a = r.home)
    (hpc : a % 16 = (s.pen p).pc.toNat % 16) :
    ((s.fetchBlock p r a).pen p).codeWord = (s.peek (ownCopy p r.home (a / 8 * 8))).word? := by
  have hshow := (State.shows_of_solo hj).fetchBlock ha hh
  obtain ⟨⟨-, hpc', -⟩, -⟩ := hshow
  have hlo : (s.readRun p r.home (a / 16 * 16) srcPen).1 = (s.peek (ownCopy p r.home (a / 16 * 16))).word? := State.readRun_word
  have hhi : ((s.readRun p r.home (a / 16 * 16) srcPen).2.readRun p r.home (a / 16 * 16 + 8) srcPen).1 =
      (s.peek (ownCopy p r.home (a / 16 * 16 + 8))).word? := by
    rw [State.readRun_word, State.peek, State.peekCode, State.readRun_mem]
    rfl
  have hcode : ((s.fetchBlock p r a).pen p).codeWord = if bitAt ((s.fetchBlock p r a).pen p).pc 3 then
      ((s.readRun p r.home (a / 16 * 16) srcPen).2.readRun p r.home (a / 16 * 16 + 8) srcPen).1 else
      (s.readRun p r.home (a / 16 * 16) srcPen).1 := by
    have hbuf : ((s.fetchBlock p r a).pen p).fbuf = some ⟨blockVa ((s.fetchBlock p r a).pen p).pc,
        (s.readRun p r.home (a / 16 * 16) srcPen).1,
        ((s.readRun p r.home (a / 16 * 16) srcPen).2.readRun p r.home (a / 16 * 16 + 8) srcPen).1⟩ := by
      rw [State.fetchBlock, State.modPen_pen_same]
    rw [Pen.codeWord, hbuf]
  rw [hcode, hpc', hlo, hhi]
  have hbit : bitAt (s.pen p).pc 3 = decide (a / 8 % 2 = 1) := by
    rw [bitAt, ← BitVec.testBit_toNat, Nat.testBit_eq_decide_div_mod_eq]
    exact decide_eq_decide.mpr (by omega)
  rw [hbit]
  obtain h | h := Nat.mod_two_eq_zero_or_one (a / 8)
  · rw [if_neg (by simp [h]), show a / 16 * 16 = a / 8 * 8 by omega]
  · rw [if_pos (by simp [h]), show a / 16 * 16 + 8 = a / 8 * 8 by omega]

/-- The block of two clean words (R201). -/
theorem State.fetchBlock_clean {lo hi : TWord} (hj : s.isJoined p = false) (hlo : s.peek (ownCopy p r.home (a / 16 * 16)) = .clean lo)
    (hhi : s.peek (ownCopy p r.home (a / 16 * 16 + 8)) = .clean hi) :
    (s.fetchBlock p r a).fetchedFrom p =
      .served (s.modPen p (fun x => { x with fbuf := some ⟨(s.pen p).pc.toNat / 16, some lo, some hi⟩ })) := by
  have hblock : s.fetchBlock p r a = s.modPen p (fun x => { x with fbuf := some ⟨(s.pen p).pc.toNat / 16, some lo, some hi⟩ }) := by
    rw [State.fetchBlock]
    rw [State.readRun_clean hj hlo]
    rw [State.readRun_clean hj hhi]
    rfl
  rw [hblock, State.fetchedFrom, State.modPen_pen_same]
  refine if_pos ?_
  rw [Pen.codeWord]
  dsimp only
  split <;> rfl

end fetch

/-- Settles O28: what a read notes keeps the program counter and every word, so the word at the program counter decides how
the fetch ends (`State.fetchBlock_codeWord`); what a word spells follows its format. -/
theorem instructionFetch : Obligations.InstructionFetch := by
  refine ⟨?buffered, ?fetched, ?interrupt, fun i w _ => decodeWord_isSome_iff, ?tag⟩
  case buffered =>
    intro s p r paired b hbuf hva
    have hin : (s.pen p).buffered = true := by
      rw [Pen.buffered, hbuf]
      exact decide_eq_true hva
    have hcode : (s.pen p).codeWord = if bitAt (s.pen p).pc 3 then b.hi else b.lo := by rw [Pen.codeWord, hbuf]
    rw [State.fetch_buffered hin, State.fetchedFrom, hcode]
    cases (if bitAt (s.pen p).pc 3 then b.hi else b.lo) <;> rfl
  case fetched =>
    intro s p r paired hne c
    have hout : (s.pen p).buffered = false := by
      rw [Pen.buffered]
      split
      next b hb => exact decide_eq_false (hne b hb)
      next => rfl
    refine ⟨?_, fun h => State.fetch_miss hout h⟩
    intro e he a
    refine ⟨fun hwin => ?_, fun hwin hink => ?_, fun hink hwin hhome hmode hmir => ?_,
      fun hink hwin hhome hmode hj => ⟨fun lo hi hlo hhi => ?_, fun syn hsyn _ => ?_⟩⟩
    · exact State.fetch_refused hout he (if_pos hwin)
    · refine State.fetch_refused hout he ?_
      rw [State.fetchRefusal, if_neg (by rw [hwin]; exact Bool.false_ne_true), if_pos]
      obtain h | h := hink
      · rw [h]; rfl
      · rw [decide_eq_true h]; exact Bool.or_true _
    · refine State.fetch_refused hout he ?_
      rw [State.fetchRefusal, if_neg (by rw [hwin]; exact Bool.false_ne_true), if_neg (by rw [hink, hhome]; simp), if_pos]
      rw [decide_eq_true hmode, hmir]
      rfl
    all_goals
      have hnone : s.fetchRefusal r a = none := by
        rw [State.fetchRefusal, if_neg (by rw [hwin]; exact Bool.false_ne_true), if_neg (by rw [hink, hhome]; simp), if_neg]
        obtain h | h := hmode
        · simp [h]
        · simp [h]
      rw [State.fetch_block hout he hnone]
    · exact State.fetchBlock_clean hj hlo hhi
    · refine ⟨_, if_neg ?_⟩
      rw [State.fetchBlock_codeWord hj hink hhome (State.frameCpa_mod ..), hsyn]
      exact Bool.false_ne_true
  case interrupt =>
    intro s p hirq hfab
    unfold State.admitted
    split
    next a b c h => exact absurd h (hfab a b c)
    all_goals exact if_pos (by simpa [Option.isSome_iff_ne_none] using hirq)
  case tag =>
    intro x w hw htag
    refine ⟨?_, fun i => ?_⟩
    · rw [Pen.illegal, hw]
      exact if_pos htag
    · rw [Pen.fetched, hw]
      exact if_pos htag

end Sys2Proof.Machine
end

section
/-! March tests (R295, R296). -/

namespace Sys2Proof.Machine

section march

variable {s : State} {base : Nat}

/-- A row of clean words is restored as it is (R296). -/
theorem State.restoreRow_clean (hbase : base % 8 = 0) (h : ∀ j, j < 64 → ∃ w, s.peek (base + 8 * j) = .clean w) : s.restoreRow base = s := by
  refine State.forAll_same fun a ha => ?_
  obtain ⟨e, he, rfl⟩ := List.mem_map.mp ha
  obtain ⟨-, hin⟩ := List.mem_filter.mp he
  simp only [Bool.and_eq_true, decide_eq_true_eq] at hin
  obtain ⟨w, hw⟩ := h (e.1 - base / 8) (by omega)
  have haddr : base + 8 * (e.1 - base / 8) = 8 * e.1 := by omega
  rw [haddr] at hw
  simp only [State.restoreWord, hw]

/-- The effect of a march of clean words. -/
def State.marchOut (s : State) (b : Bank) (row : Nat) (o : MarchOutcome) : State :=
  match o with
  | .good => s.marchGood b row
  | .cellFail => s.marchFail b row
  | .yielded => s.marchYield b row
  | .windowEnd => s
  | .fabricError => s.marchFabric b

/-- The march of a segment of clean words has its outcome's effect. -/
theorem exec_marchSegment {b : Bank} {row : Fin 2048} {o : MarchOutcome} (hdue : s.marchDue b row.val = true)
    (hbase : bankBase b + 512 * row.val = base) (hmod : base % 8 = 0) (h : ∀ j, j < 64 → ∃ w, s.peek (base + 8 * j) = .clean w) :
    exec (.marchSegment b row o) s = .next (s.marchOut b row.val o) := by
  refine (exec_of_due (c := .marchSegment b row o) (s := s) (f := fun s => s.marchSegment b row.val o) rfl hdue).trans (congrArg _ ?_)
  have hrow : s.restoreRow (bankBase b + 512 * row.val) = s := by rw [hbase, State.restoreRow_clean hmod h]
  unfold State.marchSegment
  rw [hrow]
  cases o <;> rfl

theorem State.portFree_of (hon : s.blotOn = true) (hports : s.blot.ports.length < 2) : s.portFree = true := by
  rw [State.portFree, hon, State.marchPorts]
  exact decide_eq_true (by omega)

/-- A row of a reservoir in its MARCH window is due (R295). -/
theorem State.marchDue_rsv {r : Fin 32} {row : Nat} (hon : s.blotOn = true) (hports : s.blot.ports.length < 2)
    (hready : s.bankReady (rsvBase r.val) = true) (hwin : ∃ w ∈ s.folio.wins, w.wtype = 4 ∧ w.arg.testBit r.val = true)
    (hstop : r.val ∉ s.blot.stopped) (hskip : r.val * 2048 + row ∉ s.blot.skipSeen) (hrow : row < 2048) :
    s.marchDue (.rsv r) row = true := by
  have hany : s.folio.wins.any (fun w => w.wtype = 4 && w.arg.testBit r.val) = true := by
    obtain ⟨w, hw, htype, hbit⟩ := hwin
    exact List.any_eq_true.mpr ⟨w, hw, by simp [htype, hbit]⟩
  have hready : s.bankReady (bankBase (.rsv r)) = true := hready
  have hstop : s.blot.stopped.contains r.val = false := by simpa using hstop
  have hskip : s.blot.skipSeen.contains (r.val * 2048 + row) = false := by simpa using hskip
  simp only [State.marchDue, State.portFree_of hon hports, hready, hany, hstop, hskip, bankRows, hrow, decide_true, Bool.and_self,
    Bool.not_false]

/-- The row that a running MARCH command has reached is due (R295). -/
theorem State.marchDue_ink {p : PenN} {b : Fin 2} {row : Nat} {mr : MarchRun} (hon : s.blotOn = true) (hports : s.blot.ports.length < 2)
    (hready : s.bankReady (p.val * 0x80000 + b.val * 0x40000) = true) (hm : s.blot.marching = some mr) (hpen : mr.pen = p.val)
    (hbank : mr.bank = b.val) (hat : mr.row = row) (hrow : row < 512) (hlig : s.ligatureWindow p.val = false)
    (hborrow : (s.pen p.val).noBorrow = false) : s.marchDue (.ink p b) row = true := by
  have hready : s.bankReady (bankBase (.ink p b)) = true := hready
  simp only [State.marchDue, State.portFree_of hon hports, hready, hm, hpen, hbank, hat, hlig, hborrow, bankRows,
    hrow, decide_true, Bool.and_self, Bool.not_false]

theorem get_setZero (t : Table Nat) (k v i : Nat) :
    Table.get (fun _ => 0) (Table.set (fun _ => 0) t k v) i = if i = k then v else Table.get (fun _ => 0) t i := by
  split
  next h => rw [h, Table.get_set_same]
  next h => exact Table.get_set_other _ _ _ h

theorem get_delZero (t : Table Nat) (k i : Nat) :
    Table.get (fun _ => 0) (Table.del t k) i = if i = k then 0 else Table.get (fun _ => 0) t i := by
  split
  next h => rw [h, Table.get_del_same]
  next h => exact Table.get_del_other _ _ h

end march

/-- March tests of a row of clean words in a reservoir (R295, R296). -/
theorem exec_marchSegment_rsv (s : State) (r : Fin 32) (row : Fin 2048) :
    let base := 0x10000000 + r.val * 0x100000 + 512 * row.val
    let k := r.val * 2048 + row.val
    s.blotOn = true → s.blot.ports.length < 2 → s.bankReady (rsvBase r.val) = true →
    (∃ w ∈ s.folio.wins, w.wtype = 4 ∧ w.arg.testBit r.val = true) → r.val ∉ s.blot.stopped → k ∉ s.blot.skipSeen →
    (∀ j, j < 64 → ∃ w, s.peek (base + 8 * j) = .clean w) →
    let n := Table.get (fun _ => 0) s.blot.skipRun k + 1
    (∃ t, exec (.marchSegment (.rsv r) row .good) s = .next t ∧ { t with blot := s.blot } = s ∧
      { t.blot with skipRun := s.blot.skipRun } = { s.blot with tested := satInc 0xFFFF s.blot.tested } ∧
      ∀ i, Table.get (fun _ => 0) t.blot.skipRun i = if i = k then 0 else Table.get (fun _ => 0) s.blot.skipRun i) ∧
    (let t := { s with blot := { s.blot with failed := true, failCpa := base } }.raise
        { cls := 0x34, utype := 3, unit := r.val, addr := base };
      exec (.marchSegment (.rsv r) row .cellFail) s =
        .next { t with blot := { t.blot with stopped := t.blot.stopped ++ [r.val] } }) ∧
    (∃ t, exec (.marchSegment (.rsv r) row .yielded) s = .next t ∧ { t with blot := s.blot } = s ∧
      { t.blot with skipRun := s.blot.skipRun } = { s.blot with
        skipSeen := k :: s.blot.skipSeen
        skipped := if n = 16 then satInc 0xFFFF s.blot.skipped else s.blot.skipped } ∧
      ∀ i, Table.get (fun _ => 0) t.blot.skipRun i =
        if i = k then (if n = 16 then 0 else n) else Table.get (fun _ => 0) s.blot.skipRun i) ∧
    exec (.marchSegment (.rsv r) row .windowEnd) s = .next s ∧
    (let t := { s with blot := { s.blot with failed := true } }.raise { cls := 0x39 };
      exec (.marchSegment (.rsv r) row .fabricError) s =
        .next { t with blot := { t.blot with stopped := t.blot.stopped ++ [r.val] } }) := by
  intro base k hon hports hready hwin hstop hskip hclean n
  have hdue := State.marchDue_rsv hon hports hready hwin hstop hskip row.isLt
  have hexec (o : MarchOutcome) := exec_marchSegment (o := o) hdue (base := base) rfl (by omega) hclean
  have hevent : bankEvent 0x34 base = { cls := 0x34, utype := 3, unit := r.val, addr := base } := by
    have hink : isInk base = false := decide_eq_false (by omega)
    have hnum : rsvNum base = r.val := by rw [rsvNum]; omega
    rw [bankEvent, hink, hnum]
    rfl
  refine ⟨⟨_, hexec .good, rfl, rfl, fun i => get_delZero _ _ _⟩, ?_, ⟨_, hexec .yielded, rfl, rfl, fun i => get_setZero _ _ _ _⟩,
    hexec .windowEnd, hexec .fabricError⟩
  intro t
  refine (hexec .cellFail).trans (congrArg Host.Outcome.next ?_)
  have hraise : ({ s with blot := { s.blot with failed := true, failCpa := base } } : State).raise (bankEvent 0x34 base) = t := by
    rw [hevent]
  rw [← hraise]
  rfl

/-- March tests of a row of clean words in an inkwell (R217, R295, R296). -/
theorem exec_marchSegment_ink (s : State) (p : PenN) (b : Fin 2) (row : Fin 2048) (mr : MarchRun) :
    let base := p.val * 0x80000 + b.val * 0x40000 + 512 * row.val
    s.blotOn = true → s.blot.ports.length < 2 → s.bankReady (p.val * 0x80000 + b.val * 0x40000) = true →
    s.blot.marching = some mr → mr.pen = p.val → mr.bank = b.val → mr.row = row.val → row.val < 512 →
    s.ligatureWindow p.val = false → (s.pen p.val).noBorrow = false → (∀ j, j < 64 → ∃ w, s.peek (base + 8 * j) = .clean w) →
    let t : State := { s with blot := { s.blot with
      tested := satInc 0xFFFF s.blot.tested, marching := some { mr with row := row.val + 1 } } }
    (∃ v, exec (.marchSegment (.ink p b) row .yielded) s = .next v ∧ OnlyPens [p.val] s v ∧
      v.pen p.val = { s.pen p.val with noBorrow := (s.pen p.val).run.isSome }) ∧
    (row.val < 511 → exec (.marchSegment (.ink p b) row .good) s = .next t) ∧
    (row.val = 511 → { t with blot := { t.blot with marching := none } }.Ends mr.mb 0
      [BitVec.ofNat 64 (t.blot.tested + s.blot.skipped * 2 ^ 16 + bitN s.blot.failed * 2 ^ 32),
        BitVec.ofNat 64 s.blot.failCpa] (exec (.marchSegment (.ink p b) row .good) s)) := by
  intro base hon hports hready hm hpen hbank hat hrow hlig hborrow hclean t
  have hdue := State.marchDue_ink hon hports hready hm hpen hbank hat hrow hlig hborrow
  have hexec (o : MarchOutcome) := exec_marchSegment (o := o) hdue (base := base) rfl (by omega) hclean
  have hgood : s.marchGood (.ink p b) row.val = if row.val + 1 = 512 then t.endMarch 0 else t := by
    simp only [State.marchGood, hm, Option.map_some]
    rfl
  have hnext : exec (.marchSegment (.ink p b) row .good) s = .next (s.marchGood (.ink p b) row.val) := hexec .good
  rw [hgood] at hnext
  refine ⟨⟨_, hexec .yielded, onlyPens_modPen, State.modPen_pen_same⟩, fun hlt => ?_, fun hlast => ?_⟩
  · rw [hnext, if_neg (by omega)]
  · rw [hnext, if_pos (by omega)]
    exact State.finish_ends _ _ _ _

end Sys2Proof.Machine
end

section
/-! Self-tests and the copy of mirrored pages (R83, R85, R86, R113). -/

namespace Sys2Proof.Machine

/-! ### Fencing -/

section fence

variable {s : State} {q : Nat}

/-- The blotter holds nothing for a pen (R85, R113). -/
def Blot.freed (b : Blot) (q : Nat) : Blot :=
  { b with ports := b.ports.filter (· ≠ q), waitQ := b.waitQ.filter (· ≠ q), resilver := b.resilver.filter (· ≠ q) }

/-- A scrub pass over the inkwells of a pen has lost its bank (R294). -/
def Blot.cutFor (b : Blot) (q : Nat) : Blot :=
  { b with pass := b.pass.map (fun w => if isInk w.base && inkPen w.base = q then { w with cut := true } else w) }

/-- A pen with no place at the blotter. -/
def Pen.unbound (x : Pen) : Pen := { x with testPort := none, handAt := none, passAt := none }

/-- A fenced pen. -/
def Pen.asFenced (x : Pen) : Pen := { x.clearRun with st := .fenced, ending := none }

theorem State.freeBlotter_eq (s : State) (q : Nat) : s.freeBlotter q = { s.modPen q Pen.unbound with blot := s.blot.freed q } := rfl

theorem State.cutPass_eq (s : State) (q : Nat) : s.cutPass q = { s with blot := s.blot.cutFor q } := rfl

/-- A pen that is fenced while no MARCH command runs (R104). -/
theorem State.toFenced_eq (h : s.blot.marching = none) : s.toFenced q =
    { (s.modPen q Pen.unbound).modPen q Pen.asFenced with
      blot := (s.blot.freed q).cutFor q
      pwr := { s.pwr with penOn := setBit s.pwr.penOn q false, reqPen := setBit s.pwr.reqPen q false } } := by
  have hdrop : (s.freeBlotter q).dropMarch q = s.freeBlotter q := by
    have hm : (s.freeBlotter q).blot.marching = none := h
    simp only [State.dropMarch, hm]
  rw [State.toFenced, hdrop, State.freeBlotter_eq, State.cutPass_eq]
  rfl

theorem State.toFenced_pens (h : s.blot.marching = none) : (s.toFenced q).pen q = (s.pen q).unbound.asFenced ∧
    ∀ r, r ≠ q → (s.toFenced q).pen r = s.pen r := by
  have hpen (r : Nat) : (s.toFenced q).pen r = ((s.modPen q Pen.unbound).modPen q Pen.asFenced).pen r :=
    (congrArg (fun t : State => t.pen r) (State.toFenced_eq h) :)
  refine ⟨?_, fun r hr => ?_⟩
  · rw [hpen, State.modPen_pen_same, State.modPen_pen_same]
  · rw [hpen, State.modPen_pen_other hr, State.modPen_pen_other hr]

theorem State.toFenced_hasMirror (h : s.blot.marching = none) : (s.toFenced q).hasMirror q = s.hasMirror q := by
  obtain ⟨hown, hother⟩ := State.toFenced_pens h
  rw [State.hasMirror, State.hasMirror]
  by_cases he : evenOf q = q
  · rw [he, hown]
    rfl
  · rw [hother _ he]

/-- A pen without a run, a run that ends or mirrored pages is fenced at once (R104). -/
theorem State.fencePen_plain (hst : (s.pen q).st ≠ .fenced) (hrun : (s.pen q).run = none) (hend : (s.pen q).ending = none)
    (hmir : s.hasMirror q = false) (h : s.blot.marching = none) :
    s.fencePen q = ((s.toFenced q).wantRedraft, [penEvent 0x09 q 0x7FFF]) := by
  have hkill : s.killEnding q = s := by simp only [State.killEnding, hend]
  have hloss : (s.toFenced q).mirrorAfterLoss q = s.toFenced q := by
    rw [State.mirrorAfterLoss, State.toFenced_hasMirror h, hmir]
    rfl
  unfold State.fencePen
  rw [if_neg hst, hkill]
  simp only [hrun, hloss]

/-- The folio engine after a pen is fenced: the redraft engine is wanted where it is on (R88). -/
def Folio.redraftWanted (f : Folio) : Folio := if f.running = true ∧ bitAt f.rdCtrl 0 = true then { f with rd := .wanted } else f

theorem State.wantRedraft_eq (s : State) : s.wantRedraft = { s with folio := s.folio.redraftWanted } := by
  rw [State.wantRedraft, Folio.redraftWanted]
  by_cases h : s.folio.running = true ∧ bitAt s.folio.rdCtrl 0 = true
  · rw [if_pos h, if_pos (by rw [h.1, h.2]; rfl)]
  · rw [if_neg h, if_neg (by rw [Bool.and_eq_true]; exact h)]

/-- What fencing such a pen changes. -/
theorem State.fenced_spec (h : s.blot.marching = none) :
    let t := (s.toFenced q).wantRedraft
    { t with pens := s.pens, pwr := s.pwr, folio := s.folio } = { s with blot := (s.blot.freed q).cutFor q } ∧
    (∀ r, r ≠ q → t.pen r = s.pen r) ∧ (t.pen q).st = .fenced ∧
    t.pwr = { s.pwr with penOn := setBit s.pwr.penOn q false, reqPen := setBit s.pwr.reqPen q false } ∧
    t.folio = s.folio.redraftWanted := by
  intro t
  obtain ⟨hown, hother⟩ := State.toFenced_pens (q := q) h
  have heq := State.toFenced_eq (q := q) h
  have ht : t = { s.toFenced q with folio := (s.toFenced q).folio.redraftWanted } := State.wantRedraft_eq _
  clear_value t
  generalize s.toFenced q = u at hown hother heq ht
  subst ht
  refine ⟨?_, hother, congrArg Pen.st hown, ?_, ?_⟩
  · rw [heq]
    exact (congrArg (fun v : State => ({ v with blot := (s.blot.freed q).cutFor q, pwr := s.pwr, folio := s.folio } : State))
      ((State.modPen_dropPens (s.modPen q Pen.unbound) s q Pen.asFenced).trans (State.modPen_dropPens s s q Pen.unbound)) :)
  · rw [heq]
  · rw [heq]
    rfl

end fence

/-! ### Self-tests -/

section tests

variable {s : State} {p : PenN} {c : Nat}

theorem exec_selftestStart (hat : (s.pen p.val).handAt = some c) (hst : (s.pen p.val).st = .stopped) (hdue : c ≤ s.cyc) :
    exec (.selftestStart p) s = .next (s.selftestStart p.val) := by
  refine exec_of_due (c := .selftestStart p) (s := s) (f := fun s => s.selftestStart p.val) rfl ?_
  simp only [State.testDue, hat, hst, decide_eq_true hdue, decide_true, Bool.and_self, Bool.true_or]

/-- A change of one pen and of the blotter. -/
theorem State.modPen_withBlot (s : State) (q : Nat) (f : Pen → Pen) (b : Blot) :
    let t : State := { s.modPen q f with blot := b }
    t.pen q = f (s.pen q) ∧ OnlyPens [q] { s with blot := b } t := by
  intro t
  have hpen (r : Nat) : t.pen r = (s.modPen q f).pen r := rfl
  refine ⟨(hpen q).trans State.modPen_pen_same, rfl, fun r hr => (hpen r).trans (State.modPen_pen_other (by simpa using hr))⟩

/-- The port that a pen takes: the first that no pen has (R85). -/
def State.portOf (s : State) : Nat := if s.blot.ports.any (fun q => (s.pen q).testPort = some 0) then 1 else 0

/-- A stopped pen takes a free port (R85). -/
theorem exec_selftestStart_port (hat : (s.pen p.val).handAt = some c) (hst : (s.pen p.val).st = .stopped) (hdue : c ≤ s.cyc)
    (hon : s.blotOn = true) (hports : s.blot.ports.length < 2) (hempty : s.blot.waitQ = []) :
    ∃ t, exec (.selftestStart p) s = .next t ∧ OnlyPens [p.val] { s with blot := t.blot } t ∧
      t.blot = { s.blot with ports := s.blot.ports ++ [p.val] } ∧
      ∃ k, t.pen p.val = { s.pen p.val with st := .test, handAt := none, testPort := some k } ∧ k < 2 ∧
        (k = 1 ↔ ∃ q ∈ s.blot.ports, (s.pen q).testPort = some 0) := by
  have hfirst : s.firstWaiting p.val = true := by
    rw [State.firstWaiting, hempty]
    rfl
  have hstart : s.selftestStart p.val = s.takePort p.val := by
    rw [State.selftestStart, hon, hfirst, decide_eq_true hports]
    rfl
  rw [exec_selftestStart hat hst hdue, hstart]
  obtain ⟨hpen, honly⟩ := s.modPen_withBlot p.val (fun x => { x with st := .test, handAt := none, testPort := some s.portOf })
    (s.takePort p.val).blot
  refine ⟨_, rfl, honly, ?_, s.portOf, hpen, ?_, ?_⟩
  · have hw : s.blot.waitQ.filter (· ≠ p.val) = s.blot.waitQ := by rw [hempty]; rfl
    exact congrArg (fun w => ({ s.blot with ports := s.blot.ports ++ [p.val], waitQ := w } : Blot)) hw
  · rw [State.portOf]
    split <;> decide
  · rw [State.portOf]
    split
    next h => simpa using h
    next h => simpa using h

/-- One that finds no free port waits (R85). -/
theorem exec_selftestStart_wait (hat : (s.pen p.val).handAt = some c) (hst : (s.pen p.val).st = .stopped) (hdue : c ≤ s.cyc)
    (hon : s.blotOn = true) (hports : 2 ≤ s.blot.ports.length) :
    ∃ t, exec (.selftestStart p) s = .next t ∧ OnlyPens [p.val] { s with blot := t.blot } t ∧
      t.blot = { s.blot with waitQ := s.blot.waitQ ++ [p.val] } ∧
      t.pen p.val = { s.pen p.val with st := .testWait, handAt := none } := by
  have hstart : s.selftestStart p.val = { s.modPen p.val (fun x => { x with st := .testWait, handAt := none }) with
      blot := { s.blot with waitQ := s.blot.waitQ ++ [p.val] } } := by
    rw [State.selftestStart, hon, decide_eq_false (Nat.not_lt.mpr hports)]
    rfl
  rw [exec_selftestStart hat hst hdue, hstart]
  obtain ⟨hpen, honly⟩ := s.modPen_withBlot p.val (fun x => { x with st := .testWait, handAt := none })
    { s.blot with waitQ := s.blot.waitQ ++ [p.val] }
  exact ⟨_, rfl, honly, rfl, hpen⟩

/-- What a verdict does (R86). -/
def State.verdictOut (s : State) (q : Nat) (v : Verdict) : State :=
  match v with
  | .pass => s.testPass q
  | .fail => raised (s.fencePen q)
  | .blotterFault => s.untested q

theorem exec_selftestVerdict {v : Verdict} (hst : (s.pen p.val).st = .test) (hpass : (s.pen p.val).passAt = none) :
    exec (.selftestVerdict p v) s = .next (s.verdictOut p.val v) := by
  have hdue : s.testing p.val = true := by simp only [State.testing, hst, hpass, decide_true, Bool.and_self]
  exact exec_of_due (c := .selftestVerdict p v) (s := s) (f := fun s => s.verdictOut p.val v) rfl hdue

/-- A pass of a pen whose copies are not stale: it returns at a tick (R86). -/
theorem State.testPass_running {q : Nat} (hcopy : (s.pen q).stale = false ∨ s.hasMirror q = false) (hrun : s.folio.running = true) :
    s.testPass q = ((s.freeBlotter q).modPen q (fun x => { x with passAt := some s.cyc })).raise (penEvent 0x08 q 0x7FFF) := by
  have hpen (r : Nat) : (s.freeBlotter q).pen r = if r = q then (s.pen q).unbound else s.pen r := by
    have hmod : (s.freeBlotter q).pen r = (s.modPen q Pen.unbound).pen r := rfl
    split
    next h => rw [hmod, h, State.modPen_pen_same]
    next h => rw [hmod, State.modPen_pen_other h]
  have hno : ((s.freeBlotter q).pen q).stale = false ∨ (s.freeBlotter q).hasMirror q = false := by
    refine hcopy.imp (fun h => ?_) fun h => ?_
    · rw [hpen, if_pos rfl]
      exact h
    · rw [State.hasMirror, hpen]
      split
      next he =>
        rw [State.hasMirror, he] at h
        exact h
      next => exact h
  have hskip : (((s.freeBlotter q).pen q).stale && (s.freeBlotter q).hasMirror q && (s.freeBlotter q).copyValid (otherOf q)) = false := by
    obtain h | h := hno
    · rw [h]
      rfl
    · rw [h, Bool.and_false]
      rfl
  have hrun' : (s.freeBlotter q).folio.running = true := hrun
  rw [State.testPass, hskip, hrun']
  rfl

end tests

end Sys2Proof.Machine
end

section
/-! The copy of mirrored pages (R113), and march tests and self-tests together. -/

namespace Sys2Proof.Machine

section mirror

variable {s : State} {A B : Nat}

theorem State.forAll_flatMap {α β : Type} (l : List α) (g : α → List β) (f : β → State → State) (s : State) :
    s.forAll (l.flatMap g) f = s.forAll l (fun a t => t.forAll (g a) f) := by
  induction l generalizing s with
  | nil => rfl
  | cons a l ih =>
    have happ : s.forAll ((a :: l).flatMap g) f = (s.forAll (g a) f).forAll (l.flatMap g) f := by
      rw [List.flatMap_cons, State.forAll, List.foldl_append]
      rfl
    rw [happ, ih]
    rfl

/-- A copy of clean words, by offsets in words, to places apart from them. -/
theorem State.mirrorWords_clean (l : List Nat) (s : State) (hclean : ∀ k ∈ l, ∃ w, s.peek (A + 8 * k) = .clean w)
    (hapart : ∀ i ∈ l, ∀ j ∈ l, (A + 8 * i) / 8 ≠ (B + 8 * j) / 8) :
    let v := s.forAll l (fun k u => u.mirrorWord (A + 8 * k) (B + 8 * k))
    { v with mem := s.mem } = s ∧ (∀ k ∈ l, v.peek (B + 8 * k) = s.peek (A + 8 * k)) ∧
    ∀ b, (∀ k ∈ l, b / 8 ≠ (B + 8 * k) / 8) → v.peekCode b = s.peekCode b := by
  induction l generalizing s with
  | nil => exact ⟨rfl, nofun, fun _ _ => rfl⟩
  | cons n l ih =>
    obtain ⟨w, hw⟩ := hclean n List.mem_cons_self
    have hstep : s.mirrorWord (A + 8 * n) (B + 8 * n) = s.poke (B + 8 * n) w := by rw [State.mirrorWord, hw]
    have hleft (i : Nat) (hi : i ∈ n :: l) : (s.poke (B + 8 * n) w).peek (A + 8 * i) = s.peek (A + 8 * i) :=
      State.poke_peek_other (hapart i hi n List.mem_cons_self)
    obtain ⟨hback, hput, hother⟩ := ih (s.poke (B + 8 * n) w)
      (fun k hk => by
        rw [hleft k (List.mem_cons_of_mem _ hk)]
        exact hclean k (List.mem_cons_of_mem _ hk))
      fun i hi j hj => hapart i (List.mem_cons_of_mem _ hi) j (List.mem_cons_of_mem _ hj)
    intro v
    have hv : v = (s.poke (B + 8 * n) w).forAll l (fun k u => u.mirrorWord (A + 8 * k) (B + 8 * k)) :=
      congrArg (fun t : State => t.forAll l (fun k u => u.mirrorWord (A + 8 * k) (B + 8 * k))) hstep
    rw [← hv] at hback hput hother
    clear_value v
    refine ⟨?_, fun k hk => ?_, fun b hb => ?_⟩
    · exact (congrArg (fun x : State => ({ x with mem := s.mem } : State)) hback).trans (State.poke_back s _ w)
    · by_cases hin : k ∈ l
      · rw [hput k hin, hleft k hk]
      · obtain rfl := (List.mem_cons.mp hk).resolve_right hin
        have hsame : v.peekCode (B + 8 * k) = (s.poke (B + 8 * k) w).peekCode (B + 8 * k) := hother _ fun j hj he => by
          exact hin ((show k = j by omega) ▸ hj)
        exact ((State.peek_of_code hsame).trans State.poke_peek_same).trans hw.symm
    · rw [hother b fun k hk => hb k (List.mem_cons_of_mem _ hk), State.poke_peekCode_other (hb n List.mem_cons_self)]

/-- The mirrored pages lie in the inkwells of their pen. -/
theorem State.mirrorPages_lt {p g : Nat} (h : g ∈ s.mirrorPages p) : g < 128 := by
  obtain h | h := List.mem_append.mp h
  · have := List.mem_range.mp (List.mem_filter.mp h).1
    omega
  · obtain ⟨i, hi, rfl⟩ := List.mem_map.mp h
    have := List.mem_range.mp (List.mem_filter.mp hi).1
    omega

/-- The copy of the mirrored pages from the other pen of the pair (R113). -/
theorem State.mirrorCopy_clean {p : Nat} (hclean : ∀ g ∈ s.mirrorPages p, ∀ i, i < 512 → ∃ w, s.peek (inkBase (otherOf p) + 4096 * g + 8 * i) = .clean w) :
    let v := s.mirrorCopy p (s.mirrorPages p)
    { v with mem := s.mem } = s ∧
    (∀ g ∈ s.mirrorPages p, ∀ i, i < 512 → v.peek (inkBase p + 4096 * g + 8 * i) = s.peek (inkBase (otherOf p) + 4096 * g + 8 * i)) ∧
    ∀ b, (∀ g ∈ s.mirrorPages p, b / 4096 ≠ p * 128 + g) → v.peekCode b = s.peekCode b := by
  have haddr (A g i : Nat) : A + 8 * (512 * g + i) = A + 4096 * g + 8 * i := by omega
  let offs := (s.mirrorPages p).flatMap (fun g => (upTo 512).map (512 * g + ·))
  have hoff (k : Nat) (hk : k ∈ offs) : ∃ g ∈ s.mirrorPages p, ∃ i, i < 512 ∧ k = 512 * g + i := by
    obtain ⟨g, hg, hk⟩ := List.mem_flatMap.mp hk
    obtain ⟨i, hi, rfl⟩ := List.mem_map.mp hk
    exact ⟨g, hg, i, List.mem_range.mp hi, rfl⟩
  have hin (g : Nat) (hg : g ∈ s.mirrorPages p) (i : Nat) (hi : i < 512) : 512 * g + i ∈ offs :=
    List.mem_flatMap.mpr ⟨g, hg, List.mem_map.mpr ⟨i, List.mem_range.mpr hi, rfl⟩⟩
  have hcopy : s.mirrorCopy p (s.mirrorPages p) =
      s.forAll offs (fun k u => u.mirrorWord (inkBase (otherOf p) + 8 * k) (inkBase p + 8 * k)) := by
    rw [State.forAll_flatMap]
    refine congrArg (fun f => s.forAll (s.mirrorPages p) f) (funext fun g => funext fun t => ?_)
    rw [State.forAll, State.forAll, List.foldl_map]
    simp only [haddr]
  have hne := otherOf_ne p
  obtain ⟨hback, hput, hother⟩ := State.mirrorWords_clean (A := inkBase (otherOf p)) (B := inkBase p) offs s
    (fun k hk => by
      obtain ⟨g, hg, i, hi, rfl⟩ := hoff k hk
      rw [haddr]
      exact hclean g hg i hi)
    (fun k hk j hj => by
      obtain ⟨g, hg, i, hi, rfl⟩ := hoff k hk
      obtain ⟨g', hg', i', hi', rfl⟩ := hoff j hj
      have := State.mirrorPages_lt hg
      have := State.mirrorPages_lt hg'
      rw [inkBase, inkBase]
      omega)
  rw [hcopy]
  refine ⟨hback, fun g hg i hi => ?_, fun b hb => hother b fun k hk he => ?_⟩
  · have h := hput _ (hin g hg i hi)
    rw [haddr, haddr] at h
    exact h
  · obtain ⟨g, hg, i, hi, rfl⟩ := hoff k hk
    have := hb g hg
    rw [inkBase] at he
    omega

/-- The end of the copy beside its words (R113). -/
def State.resilvered (v : State) (p : Nat) : State :=
  ({ v.modPen (otherOf p) (fun x => { x with recopy := [] }) with
    blot := { v.blot with resilver := v.blot.resilver.filter (· ≠ p) } } : State).modPen p (fun x => { x with passAt := some v.cyc })

theorem State.resilvered_spec (v : State) (p : Nat) :
    (v.resilvered p).pen p = { v.pen p with passAt := some v.cyc } ∧
    (v.resilvered p).pen (otherOf p) = { v.pen (otherOf p) with recopy := [] } ∧
    OnlyPens [p, otherOf p] { v with blot := { v.blot with resilver := v.blot.resilver.filter (· ≠ p) } } (v.resilvered p) := by
  have hne := otherOf_ne p
  obtain ⟨hpen, hback, hrest⟩ := v.modPen_withBlot (otherOf p) (fun x => { x with recopy := [] })
    { v.blot with resilver := v.blot.resilver.filter (· ≠ p) }
  rw [State.resilvered]
  generalize ({ v.modPen (otherOf p) (fun x => { x with recopy := [] }) with
    blot := { v.blot with resilver := v.blot.resilver.filter (· ≠ p) } } : State) = u at hpen hback hrest ⊢
  refine ⟨?_, ?_, OnlyPens.modPen ⟨hback, fun q hq => ?_⟩ List.mem_cons_self⟩
  · rw [State.modPen_pen_same, hrest p (by simpa using hne.symm)]
    rfl
  · rw [State.modPen_pen_other hne, hpen]
  · exact hrest q fun h => hq (List.mem_cons_of_mem _ h)

/-- The state after the copy of words that changed memory only. -/
theorem State.resilvered_copied {v : State} {p : Nat} {P : Nat → Nat → Prop} {Q : Nat → Prop} (hback : { v with mem := s.mem } = s)
    (hput : ∀ g i, P g i → v.peek (inkBase p + 4096 * g + 8 * i) = s.peek (inkBase (otherOf p) + 4096 * g + 8 * i))
    (hother : ∀ b, Q b → v.peekCode b = s.peekCode b) :
    let t := v.resilvered p
    (∀ g i, P g i → t.peek (inkBase p + 4096 * g + 8 * i) = s.peek (inkBase (otherOf p) + 4096 * g + 8 * i)) ∧
    (∀ b, Q b → t.peekCode b = s.peekCode b) ∧
    t.pen p = { s.pen p with passAt := some s.cyc } ∧ t.pen (otherOf p) = { s.pen (otherOf p) with recopy := [] } ∧
    OnlyPens [p, otherOf p] { s with mem := t.mem, blot := { s.blot with resilver := s.blot.resilver.filter (· ≠ p) } } t := by
  intro t
  obtain ⟨hown, hpartner, hpens, hrest⟩ := State.resilvered_spec v p
  have hpen (q : Nat) : v.pen q = s.pen q := (congrArg (fun u : State => u.pen q) hback :)
  have hcyc : v.cyc = s.cyc := (congrArg State.cyc hback :)
  have hmem : t.mem = v.mem := (congrArg State.mem hpens :)
  rw [hpen, hcyc] at hown
  rw [hpen] at hpartner
  refine ⟨fun g i h => ?_, fun b h => ?_, hown, hpartner, ?_, fun q hq => (hrest q hq).trans (hpen q)⟩
  · rw [State.peek, State.peekCode, hmem]
    exact hput g i h
  · rw [State.peekCode, hmem]
    exact hother b h
  · rw [hmem]
    refine (congrArg (fun u : State => ({ u with pens := s.pens } : State)) hpens).trans ?_
    exact (congrArg (fun u : State => ({ u with mem := v.mem, pens := s.pens, blot := { u.blot with resilver := u.blot.resilver.filter (· ≠ p) } } : State)) hback :)

/-- The copy to a pen is complete (R113). -/
theorem exec_resilverComplete {p : PenN} (hst : (s.pen p.val).st = .resilver) (hpass : (s.pen p.val).passAt = none) (hon : s.blotOn = true)
    (hlig : s.ligatureWindow (otherOf p.val) = false) (hcopy : s.copyValid (otherOf p.val) = true) (hrun : s.folio.running = true)
    (hback : { s.mirrorCopy p.val (s.mirrorPages p.val) with mem := s.mem } = s) :
    exec (.resilverComplete p) s = .next ((s.mirrorCopy p.val (s.mirrorPages p.val)).resilvered p.val) := by
  have hdue : s.copyDue p.val = true := by
    simp only [State.copyDue, hst, hon, hcopy, hlig, hpass, decide_true, Bool.not_false, Bool.and_self, Bool.true_or]
  refine (exec_of_due (c := .resilverComplete p) (s := s) (f := fun s => s.resilverDone p.val) rfl hdue).trans (congrArg _ ?_)
  have hrun' : (s.mirrorCopy p.val (s.mirrorPages p.val)).folio.running = true := (congrArg (fun t : State => t.folio.running) hback).trans hrun
  rw [State.resilverDone, if_pos hpass]
  exact if_pos hrun'

end mirror

/-- Settles O37: a march of clean words leaves the row as it was; what a verdict and the copy of mirrored pages do is said
part by part. -/
theorem marchAndSelftests : Obligations.MarchAndSelftests := by
  refine ⟨⟨exec_marchSegment_rsv, exec_marchSegment_ink⟩, ?start, ?verdict, ?resilver⟩
  case start =>
    intro s p c hat hst hdue hon
    exact ⟨exec_selftestStart_port hat hst hdue hon, exec_selftestStart_wait hat hst hdue hon⟩
  case verdict =>
    intro s p hst hpass
    refine ⟨fun hcopy hrun => ?_, fun hrun hend hmir hmarch => ?_, exec_selftestVerdict hst hpass⟩
    · refine ⟨(s.freeBlotter p.val).modPen p.val (fun x => { x with passAt := some s.cyc }),
        (exec_selftestVerdict hst hpass).trans (congrArg _ (State.testPass_running hcopy hrun)), ?_, ?_⟩
      · obtain ⟨-, honly⟩ := s.modPen_withBlot p.val Pen.unbound (s.blot.freed p.val)
        exact honly.modPen List.mem_cons_self
      · obtain ⟨hpen, -⟩ := s.modPen_withBlot p.val Pen.unbound (s.blot.freed p.val)
        rw [State.modPen_pen_same, State.freeBlotter_eq, hpen]
        rfl
    · have hfence := State.fencePen_plain (q := p.val) (by rw [hst]; exact nofun) hrun hend hmir hmarch
      refine ⟨(s.toFenced p.val).wantRedraft, (exec_selftestVerdict hst hpass).trans (congrArg _ ?_), ?_⟩
      · exact congrArg raised hfence
      · exact State.fenced_spec hmarch
  case resilver =>
    intro s p o hst hpass hon hlig hcopy hrun hclean
    obtain ⟨hback, hput, hother⟩ := State.mirrorCopy_clean (s := s) (p := p.val) hclean
    refine ⟨_, exec_resilverComplete hst hpass hon hlig hcopy hrun hback, ?_⟩
    obtain ⟨hput', hother', hown, hpartner, hpens⟩ := State.resilvered_copied (P := fun g i => g ∈ s.mirrorPages p.val ∧ i < 512) hback
      (fun g i h => hput g h.1 i h.2) hother
    exact ⟨fun g hg i hi => hput' g i ⟨hg, hi⟩, hother', hown, hpartner, hpens⟩

end Sys2Proof.Machine
end

section
/-! Pen faults: what is noted, and the stop of a pen without a partner (R79, R83, R102 to R104, R121). -/

namespace Sys2Proof.Machine

section noted

variable {s t n : State} {p cause groups line : Nat}

/-- `PEN_FAULT_INFO` of a fault (R121). -/
@[irreducible] def faultWord (cyc cause groups line : Nat) : Word :=
  BitVec.ofNat 64 (cause + groups * 2 ^ 8 + cyc % 2 ^ 28 * 2 ^ 16 + line % 2 ^ 15 * 2 ^ 44 + 2 ^ 63)

theorem faultWord_eq (cyc cause groups line : Nat) : faultWord cyc cause groups line =
    BitVec.ofNat 64 (cause + groups * 2 ^ 8 + cyc % 2 ^ 28 * 2 ^ 16 + line % 2 ^ 15 * 2 ^ 44 + 2 ^ 63) := by
  unfold faultWord
  rfl

/-- A pen with a fault recorded in folio `num` (R121). -/
def Pen.faulted (x : Pen) (num info : Word) : Pen :=
  { x with faultInfo := info, faultFolio := num, faultCnt := satInc 0xFFFFFFFF x.faultCnt, winFaults := x.winFaults + 1 }

theorem State.recordFault_eq (s : State) (p cause groups line : Nat) :
    s.recordFault p cause groups line = s.modPen p (fun x => x.faulted s.folio.number (faultWord s.folioCyc cause groups line)) := by
  rw [faultWord_eq]
  rfl

/-- The fields of a recorded fault (R121). -/
theorem faultNoted_of_fields (hc : cause < 256) (hg : groups < 256)
    (hinfo : (t.pen p).faultInfo = faultWord s.folioCyc cause groups line)
    (hfolio : (t.pen p).faultFolio = s.folio.number) (hcnt : (t.pen p).faultCnt = satInc 0xFFFFFFFF (s.pen p).faultCnt) :
    FaultNoted s t p cause groups line := by
  have hcyc : s.folioCyc % 2 ^ 28 < 2 ^ 28 := Nat.mod_lt _ (Nat.two_pow_pos _)
  have hline : line % 2 ^ 15 < 2 ^ 15 := Nat.mod_lt _ (Nat.two_pow_pos _)
  rw [FaultNoted, hinfo, faultWord_eq]
  generalize s.folioCyc % 2 ^ 28 = a at *
  generalize line % 2 ^ 15 = b at *
  refine ⟨hfolio, ?_, ?_, ?_, ?_, ?_, hcnt⟩
  · rw [bitsOf_ofNat _ _ _ (by decide)]
    omega
  · rw [bitsOf_ofNat _ _ _ (by decide)]
    omega
  · rw [bitsOf_ofNat _ _ _ (by decide)]
    omega
  · rw [bitsOf_ofNat _ _ _ (by decide)]
    omega
  · rw [bitAt_ofNat _ _ (by decide)]
    exact decide_eq_true (by omega)

/-- The causes and groups of reports are bytes (R103). -/
theorem State.Reports.lt {rep : PenReport} (h : s.Reports p rep cause groups) : cause < 256 ∧ groups < 256 := by
  cases rep with
  | diverge g =>
    obtain ⟨-, hg, hc⟩ := h
    refine ⟨?_, hg ▸ g.isLt⟩
    split at hc
    · omega
    · omega
  | comparatorSelf =>
    obtain ⟨hc, hg⟩ := h
    omega
  | fabricCrc =>
    obtain ⟨hc, hg⟩ := h
    omega

theorem State.mayInject_iff : s.mayInject p = true ↔ (s.pen p).st = .idle ∧ (s.dev = .loaded ∨ s.dev = .boot ∧ s.huv.testing = true) := by
  simp only [State.mayInject, Bool.and_eq_true, Bool.or_eq_true, decide_eq_true_eq]

/-- The cause of a report (R103, R123). -/
theorem State.Reports.penCause {rep : PenReport} (h : s.Reports p rep cause groups) : s.penCause p rep = some (cause, groups) := by
  cases rep with
  | diverge g =>
    obtain ⟨hne, rfl, hc⟩ := h
    simp only [State.penCause, if_neg hne]
    split at hc
    next harm =>
      obtain ⟨hidle, hdev, hbit, hgroup⟩ := harm
      have hcond : (s.mayInject p && bitAt (s.pen p).inject 8 && g.toNat = 2 ^ bitsOf (s.pen p).inject 0 3) = true := by
        rw [State.mayInject_iff.mpr ⟨hidle, hdev⟩, hbit, decide_eq_true hgroup]
        rfl
      rw [if_pos hcond, hc]
      rfl
    next harm =>
      have hcond : ¬(s.mayInject p && bitAt (s.pen p).inject 8 && g.toNat = 2 ^ bitsOf (s.pen p).inject 0 3) = true := fun h => by
        simp only [Bool.and_eq_true, decide_eq_true_eq, State.mayInject_iff] at h
        exact harm ⟨h.1.1.1, h.1.1.2, h.1.2, h.2⟩
      rw [if_neg hcond, hc]
      rfl
  | comparatorSelf =>
    obtain ⟨rfl, rfl⟩ := h
    rfl
  | fabricCrc =>
    obtain ⟨rfl, rfl⟩ := h
    rfl

/-- The inter-pen interrupts that a stopping pen keeps (R99, R102). -/
def State.ipisLeft (s : State) (p : Nat) : State := { s with ipiFly := s.ipiFly.filter (fun f => f.src ≠ p ∨ f.since + 3 < s.cyc) }

theorem State.recallIpis_eq (s : State) (p : Nat) : s.recallIpis p = s.ipisLeft p := by
  rw [State.recallIpis, State.ipisLeft]
  refine congrArg (fun l => ({ s with ipiFly := l } : State)) (List.filter_congr fun f _ => ?_)
  rw [Bool.eq_iff_iff]
  simp only [Bool.not_eq_true', Bool.and_eq_false_iff, decide_eq_false_iff_not, decide_eq_true_eq, Nat.not_le]

/-- `n` is `s` with the fault of pen `p` noted: its interrupts are recalled, an injection that was seen is disarmed. -/
def State.Noted (s n : State) (p cause groups line : Nat) : Prop :=
  { n with pens := s.pens } = s.ipisLeft p ∧ (∀ q, q ≠ p → n.pen q = s.pen q) ∧
  ∃ j, n.pen p = ({ s.pen p with inject := j } : Pen).faulted s.folio.number (faultWord s.folioCyc cause groups line)

theorem State.disarmPen_spec (s : State) (p cause : Nat) : OnlyPens [p] s (s.disarmPen p cause) ∧
    ∃ j, (s.disarmPen p cause).pen p = { s.pen p with inject := j } := by
  rw [State.disarmPen]
  split
  · exact ⟨onlyPens_modPen, _, State.modPen_pen_same⟩
  · exact ⟨.refl _ _, (s.pen p).inject, rfl⟩

theorem State.noted (s : State) (p cause groups line : Nat) :
    s.Noted (((s.disarmPen p cause).recallIpis p).recordFault p cause groups line) p cause groups line := by
  obtain ⟨⟨hback, hrest⟩, j, hpen⟩ := s.disarmPen_spec p cause
  rw [State.recallIpis_eq, State.recordFault_eq]
  generalize s.disarmPen p cause = u at hback hrest hpen ⊢
  have hnum : u.folio.number = s.folio.number := (congrArg (fun v : State => v.folio.number) hback :)
  have hcyc : u.folioCyc = s.folioCyc := (congrArg State.folioCyc hback :)
  refine ⟨?_, fun q hq => ?_, j, ?_⟩
  · exact (congrArg (fun v : State => v.ipisLeft p) hback :)
  · exact State.modPen_pen_other hq |>.trans (hrest q (by simpa using hq))
  · rw [State.modPen_pen_same]
    exact (congrArg (fun x : Pen => x.faulted u.folio.number (faultWord u.folioCyc cause groups line)) hpen).trans (by rw [hnum, hcyc])

end noted

end Sys2Proof.Machine
end

section
/-! A pen fault on an IDLE pen, and on one that executes a DUPLEX run (R79, R83, R102 to R104, R110). -/

namespace Sys2Proof.Machine

section stop

variable {s n : State} {p cause groups line : Nat} {r : Run} {l : RLine} {rep : PenReport}

/-- A field that a noted fault leaves. -/
theorem State.Noted.field {β : Type} (h : s.Noted n p cause groups line) (g : Pen → β)
    (hg : ∀ (x : Pen) i j k m w, g { x with inject := i, faultInfo := j, faultFolio := k, faultCnt := m, winFaults := w } = g x := by intros; rfl) :
    g (n.pen p) = g (s.pen p) := by
  obtain ⟨-, -, j, hpen⟩ := h
  rw [hpen]
  exact hg (s.pen p) _ _ _ _ _

theorem State.Noted.faultNoted (h : s.Noted n p cause groups line) (hc : cause < 256) (hg : groups < 256) {t : State}
    (hinfo : (t.pen p).faultInfo = (n.pen p).faultInfo) (hfolio : (t.pen p).faultFolio = (n.pen p).faultFolio)
    (hcnt : (t.pen p).faultCnt = (n.pen p).faultCnt) : FaultNoted s t p cause groups line := by
  obtain ⟨-, -, j, hpen⟩ := h
  rw [hpen] at hinfo hfolio hcnt
  exact faultNoted_of_fields hc hg hinfo hfolio hcnt

theorem State.stopEnding_none (h : (s.pen p).ending = none) : s.stopEnding p = (s, []) := by
  simp only [State.stopEnding, h]

theorem Pen.faulted_ending (x : Pen) (num info : Word) : (x.faulted num info).ending = x.ending := rfl

/-- The stop of a pen in service without mirrored pages, a run that ends or a JOINED run (R102 to R104). -/
theorem State.stopPen_alone (hserv : s.inService p = true) (hend : (s.pen p).ending = none) (hmir : s.hasMirror p = false)
    (hj : s.isJoined p = false) :
    s.stopPen p cause groups =
      let b := ((s.recallIpis p).recordFault p cause groups (s.hitLine p)).stopRun p
      let c := (b.1.modPen p (fun x => { x with st := .stopped })).afterStop p
      (c.1, faultEvent cause p groups (s.hitLine p) :: inOrder ([] ++ b.2 ++ c.2)) := by
  have hend' : (((s.recallIpis p).recordFault p cause groups (s.hitLine p)).pen p).ending = none := by
    rw [State.recordFault_eq, State.modPen_pen_same, Pen.faulted_ending]
    exact hend
  unfold State.stopPen
  rw [hserv, hmir, hj, Bool.not_true, if_neg Bool.false_ne_true]
  dsimp only
  rw [if_neg Bool.false_ne_true, State.stopEnding_none hend']
  rfl

/-- A pen report of which the pen notes a fault. -/
theorem State.penReport_eq (hrep : s.Reports p rep cause groups) :
    s.penReport p rep = raised ((s.disarmPen p cause).stopPen p cause groups) := by
  rw [State.penReport, hrep.penCause]

theorem exec_penFault {q : PenN} (hpow : s.powered = true) (hserv : s.inService q.val = true) (hrep : s.Reports q.val rep cause groups) :
    exec (.penFault q rep none) s = .next (raised ((s.disarmPen q.val cause).stopPen q.val cause groups)) := by
  have hdue : (s.powered && s.inService q.val) = true := by rw [hpow, hserv]; rfl
  have hexec : exec (.penFault q rep none) s = execPenFault q rep none s := rfl
  rw [hexec, execPenFault, guarded_of_due hdue, State.penReport_eq hrep]

/-- What disarming leaves. -/
theorem State.disarmPen_field {β : Type} (g : Pen → β) (hg : ∀ (x : Pen) i, g { x with inject := i } = g x := by intros; rfl) (q : Nat) :
    g ((s.disarmPen p cause).pen q) = g (s.pen q) := by
  obtain ⟨⟨-, hrest⟩, j, hpen⟩ := s.disarmPen_spec p cause
  by_cases hq : q = p
  · rw [hq, hpen]
    exact hg _ _
  · rw [hrest q (by simpa using hq)]

theorem State.disarmPen_stopPen (hserv : s.inService p = true) (hend : (s.pen p).ending = none) (hmir : s.hasMirror p = false)
    (hj : s.isJoined p = false) : ∃ n, s.Noted n p cause groups (s.hitLine p) ∧
    (s.disarmPen p cause).stopPen p cause groups =
      let b := n.stopRun p
      let c := (b.1.modPen p (fun x => { x with st := .stopped })).afterStop p
      (c.1, faultEvent cause p groups (s.hitLine p) :: inOrder ([] ++ b.2 ++ c.2)) := by
  have hst (q : Nat) := State.disarmPen_field (s := s) (p := p) (cause := cause) Pen.st (q := q)
  have hrun (q : Nat) := State.disarmPen_field (s := s) (p := p) (cause := cause) Pen.run (q := q)
  have hending (q : Nat) := State.disarmPen_field (s := s) (p := p) (cause := cause) Pen.ending (q := q)
  have hm0 (q : Nat) := State.disarmPen_field (s := s) (p := p) (cause := cause) Pen.mirror0 (q := q)
  have hm1 (q : Nat) := State.disarmPen_field (s := s) (p := p) (cause := cause) Pen.mirror1 (q := q)
  have hline : (s.disarmPen p cause).hitLine p = s.hitLine p := by simp only [State.hitLine, hending, hrun]
  have hstop := State.stopPen_alone (s := s.disarmPen p cause) (p := p) (cause := cause) (groups := groups)
    (by simpa only [State.inService, hst] using hserv) ((hending p).trans hend)
    (by simpa only [State.hasMirror, hm0, hm1] using hmir) (by simpa only [State.isJoined, hrun] using hj)
  rw [hline] at hstop
  exact ⟨_, s.noted p cause groups (s.hitLine p), hstop⟩

/-- A fault on an IDLE pen outside RUN and SAFE (R104). -/
theorem exec_penFault_idle {q : PenN} (hpow : s.powered = true) (hend : (s.pen q.val).ending = none) (hmir : s.hasMirror q.val = false)
    (hrep : s.Reports q.val rep cause groups) (hst : (s.pen q.val).st = .idle) (hrun : (s.pen q.val).run = none)
    (hdev : s.dev ≠ .run) (hsafe : s.dev ≠ .safe) :
    ∃ t : State, exec (.penFault q rep none) s = .next (t.raise (penEvent cause q.val 0x7FFF (cause + groups * 256))) ∧
      OnlyPens [q.val] (s.ipisLeft q.val) t ∧ (t.pen q.val).st = .stopped ∧ (t.pen q.val).run = none ∧
      FaultNoted s t q.val cause groups 0x7FFF := by
  have hserv : s.inService q.val = true := by rw [State.inService, hst]
  have hj : s.isJoined q.val = false := by rw [State.isJoined, hrun]
  have hline : s.hitLine q.val = 0x7FFF := by rw [State.hitLine, hend, hrun]
  obtain ⟨n, hn, hstop⟩ := State.disarmPen_stopPen (cause := cause) (groups := groups) hserv hend hmir hj
  have hnrun : (n.pen q.val).run = none := (hn.field Pen.run).trans hrun
  have hnstop : n.stopRun q.val = (n, []) := by rw [State.stopRun, hnrun]
  have hndev : n.dev = s.dev := (congrArg State.dev hn.1 :)
  have hafter : (n.modPen q.val (fun x => { x with st := .stopped })).afterStop q.val = (n.modPen q.val (fun x => { x with st := .stopped }), []) := by
    have hd : ((n.modPen q.val (fun x => { x with st := .stopped })).dev ≠ .run && (n.modPen q.val (fun x => { x with st := .stopped })).dev ≠ .safe) = true := by
      rw [State.modPen_dev, hndev, decide_eq_true hdev, decide_eq_true hsafe]
      rfl
    exact if_pos hd
  rw [hnstop] at hstop
  dsimp only at hstop
  rw [hafter, hline] at hstop
  rw [hline] at hn
  refine ⟨n.modPen q.val (fun x => { x with st := .stopped }), (exec_penFault hpow hserv hrep).trans (congrArg _ (congrArg raised hstop)), ?_⟩
  obtain ⟨hc, hg⟩ := hrep.lt
  have hpen : (n.modPen q.val (fun x => { x with st := .stopped })).pen q.val = { n.pen q.val with st := .stopped } := State.modPen_pen_same
  refine ⟨⟨(State.modPen_dropPens ..).trans hn.1, fun k hk => ?_⟩, ?_, ?_, hn.faultNoted hc hg ?_ ?_ ?_⟩
  · rw [State.modPen_pen_other (by simpa using hk)]
    exact hn.2.1 k (by simpa using hk)
  · rw [hpen]
  · rw [hpen]
    exact hnrun
  · rw [hpen]
  · rw [hpen]
  · rw [hpen]

end stop

end Sys2Proof.Machine
end

section
/-! A pen fault on a DUPLEX primary run in RUN, and the writes of `PEN_CTRL` and `PEN_INJECT` (R79, R83, R121 to R123). -/

namespace Sys2Proof.Machine

section duplex

variable {s t n : State} {p cause groups line : Nat} {r : Run} {l : RLine} {rep : PenReport}

/-- The loss of a DUPLEX primary run arms its recovery run (R83). -/
theorem State.loseRun_armed (hl : s.line r.line = some l) (hlig : l.isLig = false) (hrec : r.recovery = false)
    (hvalid : (s.placeOf r.line l).recValid = true) (htime : s.folioCyc + 14 ≤ (s.placeOf r.line l).recStart) :
    s.loseRun r = ({ s with folio := { s.folio with armed := s.folio.armed ++
      [⟨r.line, (s.placeOf r.line l).recPen, (s.placeOf r.line l).recStart⟩] } }, []) := by
  unfold State.loseRun
  simp only [hl, hlig, hrec, hvalid, Bool.false_eq_true, if_false, Bool.not_true]
  exact if_neg (by omega)

/-- Where a stop in RUN leads to the blotter (R83, R110). -/
theorem State.afterStop_run (hdev : s.dev = .run) (hmax : bitsOf s.folio.rdCtrl 24 4 = 0) :
    s.afterStop p = (s.modPen p (fun x => { x with handAt := some (s.handedAt p) }), []) := by
  have hcycle : s.handCycle p = s.handedAt p := by
    simp only [State.handCycle, State.handedAt, Bool.and_eq_true, decide_eq_true_eq]
  unfold State.afterStop
  rw [hdev, hmax, hcycle]
  rfl

/-- The pen that stops in RUN. -/
theorem State.stopped_spec (u : State) (p c : Nat) :
    let t := (u.modPen p (fun x => { x with st := .stopped })).modPen p (fun x => { x with handAt := some c })
    t.pen p = { u.pen p with st := .stopped, handAt := some c } ∧ OnlyPens [p] u t := by
  intro t
  refine ⟨?_, ((OnlyPens.refl _ u).modPen List.mem_cons_self).modPen List.mem_cons_self⟩
  rw [State.modPen_pen_same, State.modPen_pen_same]

theorem State.handedAt_congr (hrun : t.folio.running = s.folio.running) (htick : t.folio.tickCyc = s.folio.tickCyc) (hcyc : t.cyc = s.cyc)
    (hlig : (t.pen p).ligEnd = (s.pen p).ligEnd) : t.handedAt p = s.handedAt p := by
  have hfolio : t.folioCyc = s.folioCyc := by
    rw [State.folioCyc, State.folioCyc, htick, hcyc]
    exact if_congr (by rw [hrun]) rfl rfl
  rw [State.handedAt, State.handedAt, htick, hcyc, hlig, hfolio]
  exact if_congr (by rw [hrun]) rfl rfl

/-- `t` is `s` with the DUPLEX run `r` of pen `p` killed and its recovery run armed as `a`, and the pen stopped (R79, R83). -/
def State.StopsDuplex (s t : State) (p : Nat) (r : Run) (a : Armed) : Prop :=
  { t with pens := s.pens, vt := s.vt, folio := s.folio } = s.ipisLeft p ∧ (∀ q, q ≠ p → t.pen q = s.pen q) ∧
  t.folio = { s.folio with armed := s.folio.armed ++ [a] } ∧
  (∀ n, t.vslot n = if n ∈ r.drafts then { s.vslot n with st := .fair, feedDraft := false, drafter := 0 } else s.vslot n) ∧
  (t.pen p).st = .stopped ∧ (t.pen p).run = none ∧ (t.pen p).sb = [] ∧ (t.pen p).handAt = some (s.handedAt p)

/-- What a noted fault leaves of a state beside its pens. -/
theorem State.Noted.rest {β : Type} (h : s.Noted n p cause groups line) (g : State → β)
    (hg : ∀ (u : State) pens fly, g { u with pens := pens, ipiFly := fly } = g u := by intros; rfl) : g n = g s := by
  obtain ⟨hback, -⟩ := h
  exact (hg n s.pens n.ipiFly).symm.trans ((congrArg g hback).trans (hg s s.pens _))

/-- The run of a pen that stops in RUN (R79, R83). -/
theorem State.Noted.stopDuplex (h : s.Noted n p cause groups line) (hrun : (s.pen p).run = some r)
    (hhold : (s.pen p).hold = .none) (hdev : s.dev = .run) (hmode : r.mode = .duplex) (hrec : r.recovery = false)
    (hmax : bitsOf s.folio.rdCtrl 24 4 = 0) (hl : s.line r.line = some l) (hlig : l.isLig = false)
    (hvalid : (s.placeOf r.line l).recValid = true) (htime : s.folioCyc + 14 ≤ (s.placeOf r.line l).recStart) :
    ∃ t, (n.stopRun p).2 = [] ∧ ((n.stopRun p).1.modPen p (fun x => { x with st := .stopped })).afterStop p = (t, []) ∧
      s.StopsDuplex t p r ⟨r.line, (s.placeOf r.line l).recPen, (s.placeOf r.line l).recStart⟩ ∧
      (t.pen p).faultInfo = (n.pen p).faultInfo ∧ (t.pen p).faultFolio = (n.pen p).faultFolio ∧
      (t.pen p).faultCnt = (n.pen p).faultCnt := by
  have hnrun : (n.pen p).run = some r := (h.field Pen.run).trans hrun
  obtain ⟨hback, hpen, hothers, hvslot⟩ := State.killRun_duplex hnrun hmode ((h.field Pen.hold).trans hhold)
  have hstop : n.stopRun p = (n.killRun p).loseRun r := by simp only [State.stopRun, hnrun, hmode]
  generalize n.killRun p = v at hback hpen hothers hvslot hstop
  have hkeep {β : Type} (g : State → β) (hg : ∀ (u : State) pens vt, g { u with pens := pens, vt := vt } = g u)
      (hg' : ∀ (u : State) pens fly, g { u with pens := pens, ipiFly := fly } = g u) : g v = g s :=
    ((hg v n.pens n.vt).symm.trans (congrArg g hback)).trans (h.rest g hg')
  have hvline : v.line r.line = s.line r.line := hkeep (fun u => u.line r.line) (fun _ _ _ => rfl) fun _ _ _ => rfl
  have hvplace : v.placeOf r.line l = s.placeOf r.line l := hkeep (fun u => u.placeOf r.line l) (fun _ _ _ => rfl) fun _ _ _ => rfl
  have hvcyc : v.folioCyc = s.folioCyc := hkeep State.folioCyc (fun _ _ _ => rfl) fun _ _ _ => rfl
  have hvfolio : v.folio = s.folio := hkeep State.folio (fun _ _ _ => rfl) fun _ _ _ => rfl
  have hvdev : v.dev = s.dev := hkeep State.dev (fun _ _ _ => rfl) fun _ _ _ => rfl
  have hvtick : v.cyc = s.cyc := hkeep State.cyc (fun _ _ _ => rfl) fun _ _ _ => rfl
  have hlose := State.loseRun_armed (s := v) (hvline.trans hl) hlig hrec (by rw [hvplace]; exact hvalid) (by rw [hvcyc, hvplace]; exact htime)
  rw [hvplace, hvfolio] at hlose
  obtain ⟨w, hw⟩ : ∃ w : State, w = { v with folio := { s.folio with armed := s.folio.armed ++
    [⟨r.line, (s.placeOf r.line l).recPen, (s.placeOf r.line l).recStart⟩] } } := ⟨_, rfl⟩
  rw [← hw] at hlose
  have hwpen (q : Nat) : w.pen q = v.pen q := (congrArg (fun u : State => u.pen q) hw :)
  have hwfolio := congrArg State.folio hw
  have hligEnd : (w.pen p).ligEnd = (s.pen p).ligEnd := by
    rw [hwpen, hpen]
    exact h.field Pen.ligEnd
  have hhand : (w.modPen p (fun x => { x with st := .stopped })).handedAt p = s.handedAt p := by
    refine State.handedAt_congr (congrArg (·.running) hwfolio) (congrArg (·.tickCyc) hwfolio) ((congrArg State.cyc hw).trans hvtick) ?_
    rw [State.modPen_pen_same]
    exact hligEnd
  have hafter := State.afterStop_run (p := p) (s := w.modPen p (fun x => { x with st := .stopped }))
    ((congrArg State.dev hw).trans (hvdev.trans hdev)) ((congrArg (fun f => bitsOf f.rdCtrl 24 4) hwfolio).trans hmax)
  rw [hhand] at hafter
  rw [hstop, hlose]
  refine ⟨_, rfl, hafter, ?_⟩
  obtain ⟨htpen, htback, htrest⟩ := State.stopped_spec w p (s.handedAt p)
  have hvback : { v with pens := s.pens, vt := s.vt, folio := s.folio } = s.ipisLeft p := by
    have hvt : n.vt = s.vt := h.rest State.vt
    have h1 := congrArg (fun u : State => ({ u with pens := s.pens, folio := s.folio } : State)) hback
    have h2 := congrArg (fun u : State => ({ u with folio := s.folio } : State)) h.1
    rw [← hvt]
    exact h1.trans h2
  have hnslot (k : Nat) : n.vslot k = s.vslot k := h.rest (fun u => u.vslot k)
  generalize (w.modPen p (fun x => { x with st := .stopped })).modPen p (fun x => { x with handAt := some (s.handedAt p) }) = t
    at htpen htback htrest ⊢
  have htvslot (k : Nat) : t.vslot k = v.vslot k :=
    Eq.trans (congrArg (fun u : State => u.vslot k) htback :) (congrArg (fun u : State => u.vslot k) hw :)
  rw [hwpen, hpen] at htpen
  refine ⟨⟨?_, fun q hq => ?_, (Eq.trans (congrArg State.folio htback :) hwfolio), fun k => ?_, ?_, ?_, ?_, ?_⟩, ?_, ?_, ?_⟩
  · have h1 := congrArg (fun u : State => ({ u with pens := s.pens, vt := s.vt, folio := s.folio } : State)) htback
    have h2 := congrArg (fun u : State => ({ u with pens := s.pens, vt := s.vt, folio := s.folio } : State)) hw
    exact h1.trans (h2.trans hvback)
  · rw [htrest q (by simpa using hq), hwpen, hothers q hq, h.2.1 q hq]
  · rw [htvslot, hvslot, hnslot]
    rfl
  · rw [htpen]
  · rw [htpen]
    rfl
  · rw [htpen]
    rfl
  · rw [htpen]
  · rw [htpen]
    rfl
  · rw [htpen]
    rfl
  · rw [htpen]
    rfl

/-- A fault on a DUPLEX primary run in RUN (R79, R83, R110). -/
theorem exec_penFault_duplex {q : PenN} (hpow : s.powered = true) (hend : (s.pen q.val).ending = none) (hmir : s.hasMirror q.val = false)
    (hrep : s.Reports q.val rep cause groups) (hst : (s.pen q.val).st = .run) (hrun : (s.pen q.val).run = some r)
    (hhold : (s.pen q.val).hold = .none) (hdev : s.dev = .run) (hmode : r.mode = .duplex) (hrec : r.recovery = false)
    (hmax : bitsOf s.folio.rdCtrl 24 4 = 0) (hl : s.line r.line = some l) (hlig : l.isLig = false)
    (hvalid : (s.placeOf r.line l).recValid = true) (htime : s.folioCyc + 14 ≤ (s.placeOf r.line l).recStart) :
    ∃ t : State, exec (.penFault q rep none) s = .next (t.raise (penEvent cause q.val r.line (cause + groups * 256))) ∧
      s.StopsDuplex t q.val r ⟨r.line, (s.placeOf r.line l).recPen, (s.placeOf r.line l).recStart⟩ ∧
      FaultNoted s t q.val cause groups r.line := by
  have hserv : s.inService q.val = true := by rw [State.inService, hst]
  have hj : s.isJoined q.val = false := by
    rw [State.isJoined, hrun]
    exact decide_eq_false (by rw [hmode]; exact nofun)
  have hline : s.hitLine q.val = r.line := by rw [State.hitLine, hend, hrun]
  obtain ⟨n, hn, hstop⟩ := State.disarmPen_stopPen (cause := cause) (groups := groups) hserv hend hmir hj
  rw [hline] at hn hstop
  obtain ⟨t, hnone, hafter, hstops, hinfo, hfolio, hcnt⟩ := hn.stopDuplex hrun hhold hdev hmode hrec hmax hl hlig hvalid htime
  dsimp only at hstop
  rw [hafter, hnone] at hstop
  obtain ⟨hc, hg⟩ := hrep.lt
  exact ⟨t, (exec_penFault hpow hserv hrep).trans (congrArg _ (congrArg raised hstop)), hstops, hn.faultNoted hc hg hinfo hfolio hcnt⟩

end duplex

/-! ### `PEN_CTRL` and `PEN_INJECT` -/

section control

variable {s : State} {p : PenN}

/-- RESTART brings a STOPPED pen back, by a copy from its partner where its own is stale (R113, R121). -/
theorem State.restartPen_stopped {q : Nat} (hdev : s.dev = .loaded ∨ s.dev = .boot ∧ s.huv.testing = true) (hst : (s.pen q).st = .stopped) :
    OnlyPens [q] { s with blot := (s.restartPen q).blot } (s.restartPen q) ∧ ((s.restartPen q).pen q).handAt = none ∧
    (if (s.pen q).stale = true ∧ s.hasMirror q = true ∧ s.copyValid (otherOf q) = true
      then ((s.restartPen q).pen q).st = .resilver ∧
        (s.restartPen q).blot = { s.blot with resilver := s.blot.resilver.filter (· ≠ q) ++ [q] }
      else ((s.restartPen q).pen q).st = .idle ∧ (s.restartPen q).blot = s.blot) := by
  obtain ⟨t, ht⟩ : ∃ t, t = s.modPen q (fun x => { x with handAt := none }) := ⟨_, rfl⟩
  have hown : t.pen q = { s.pen q with handAt := none } := by rw [ht, State.modPen_pen_same]
  have hrest : OnlyPens [q] s t := ht ▸ onlyPens_modPen
  have hfield {β : Type} (g : Pen → β) (hg : g { s.pen q with handAt := none } = g (s.pen q)) (k : Nat) : g (t.pen k) = g (s.pen k) := by
    by_cases hk : k = q
    · rw [hk, hown, hg]
    · rw [hrest.2 k (by simpa using hk)]
  have hmir : t.hasMirror q = s.hasMirror q := by
    rw [State.hasMirror, State.hasMirror, hfield Pen.mirror0 rfl, hfield Pen.mirror1 rfl]
  have hcopy : t.copyValid (otherOf q) = s.copyValid (otherOf q) := by
    rw [State.copyValid, State.copyValid, State.mirrorOf, State.mirrorOf, hfield Pen.mirror rfl]
  have hblot : t.blot = s.blot := (congrArg State.blot hrest.1 :)
  have hdue : ((s.dev = .loaded || (s.dev = .boot && s.huv.testing)) && (s.pen q).st = .stopped) = true := by
    simpa [hst] using hdev
  have hrestart : s.restartPen q = t.toService q := by rw [State.restartPen, if_pos hdue, ht]
  rw [hrestart, State.toService, hfield Pen.stale rfl, hmir, hcopy]
  by_cases hc : (s.pen q).stale = true ∧ s.hasMirror q = true ∧ s.copyValid (otherOf q) = true
  · obtain ⟨h1, h2, h3⟩ := id hc
    obtain ⟨hpen, honly⟩ := t.modPen_withBlot q (fun x => { x with st := .resilver }) { t.blot with
      resilver := t.blot.resilver.filter (· ≠ q) ++ [q] }
    rw [if_pos (by rw [h1, h2, h3]; rfl), if_pos hc, hpen, hown]
    refine ⟨⟨?_, fun k hk => (honly.2 k hk).trans (hrest.2 k hk)⟩, rfl, rfl, by rw [hblot]⟩
    exact (congrArg (fun u : State => ({ u with blot := { t.blot with resilver := t.blot.resilver.filter (· ≠ q) ++ [q] } } : State)) hrest.1 :)
  · have hno : ((s.pen q).stale && s.hasMirror q && s.copyValid (otherOf q)) = false := by
      rw [Bool.eq_false_iff]
      intro h
      simp only [Bool.and_eq_true] at h
      exact hc ⟨h.1.1, h.1.2, h.2⟩
    rw [if_neg (ne_true_of_eq_false hno), if_neg hc, State.modPen_pen_same, hown, State.modPen_blot, hblot]
    exact ⟨hrest.modPen List.mem_cons_self, rfl, rfl, rfl⟩

theorem exec_penCtrlRestart (hpow : s.powered = true) : exec (.penCtrlRestart p) s = .next (s.restartPen p.val) :=
  exec_of_due (c := .penCtrlRestart p) (s := s) (f := fun s => s.restartPen p.val) rfl hpow

theorem exec_penCtrlFence (hpow : s.powered = true) : exec (.penCtrlFence p) s = .next (raised (s.fencePen p.val)) :=
  exec_of_due (c := .penCtrlFence p) (s := s) (f := fun s => raised (s.fencePen p.val)) rfl hpow

/-- FENCE of an IDLE pen (R121, R376). -/
theorem exec_penCtrlFence_idle (hpow : s.powered = true) (hst : (s.pen p.val).st = .idle) (hrun : (s.pen p.val).run = none)
    (hend : (s.pen p.val).ending = none) (hmir : s.hasMirror p.val = false) (hmarch : s.blot.marching = none) :
    ∃ t : State, exec (.penCtrlFence p) s = .next (t.raise (penEvent 0x09 p.val 0x7FFF)) ∧
      { t with pens := s.pens, blot := s.blot, pwr := s.pwr, folio := s.folio } = s ∧
      (∀ q, q ≠ p.val → t.pen q = s.pen q) ∧ (t.pen p.val).st = .fenced ∧
      (∀ w, s.blot.pass = some w → isInk w.base = true → inkPen w.base = p.val → t.blot.pass = some { w with cut := true }) ∧
      t.pwr = { s.pwr with penOn := setBit s.pwr.penOn p.val false, reqPen := setBit s.pwr.reqPen p.val false } ∧
      t.folio = (if s.folio.running = true ∧ bitAt s.folio.rdCtrl 0 = true then { s.folio with rd := .wanted } else s.folio) := by
  have hfence := State.fencePen_plain (q := p.val) (by rw [hst]; exact nofun) hrun hend hmir hmarch
  refine ⟨(s.toFenced p.val).wantRedraft, (exec_penCtrlFence hpow).trans (congrArg _ (congrArg raised hfence)), ?_⟩
  obtain ⟨hback, hothers, hfenced, hpwr, hfolio⟩ := State.fenced_spec (q := p.val) hmarch
  generalize (s.toFenced p.val).wantRedraft = t at hback hothers hfenced hpwr hfolio ⊢
  refine ⟨(congrArg (fun u : State => ({ u with blot := s.blot } : State)) hback :), hothers, hfenced, fun w hw hink hpen => ?_, hpwr, hfolio⟩
  have hblot : t.blot = (s.blot.freed p.val).cutFor p.val := (congrArg State.blot hback :)
  have hpass : t.blot.pass = s.blot.pass.map (fun w => if isInk w.base && inkPen w.base = p.val then { w with cut := true } else w) :=
    congrArg Blot.pass hblot
  rw [hpass, hw, Option.map_some, if_pos (by rw [hink, decide_eq_true hpen]; rfl)]

/-- An injection is armed, or its write is refused (R122, R123). -/
theorem exec_penInjectArm (g : Fin 8) (hpow : s.powered = true) (hlock : (s.pen p.val).penLock = false) :
    exec (.penInjectArm p g) s = .next (if s.mayInject p.val then
      s.modPen p.val (fun x => { x with inject := BitVec.ofNat 64 (256 + g.val) })
      else s.raise { cls := 0x80, addr := 0x404010C0 + p.val * 0x10000 }) := by
  have hbit : ∀ g : Fin 8, bitAt (BitVec.ofNat 64 (256 + g.val)) 8 = true ∧ only 0x107 (BitVec.ofNat 64 (256 + g.val)) = BitVec.ofNat 64 (256 + g.val) := by
    decide
  obtain ⟨hb, honly⟩ := hbit g
  refine (exec_of_due (c := .penInjectArm p g) (s := s) (f := fun s => s.injectWrite p.val (BitVec.ofNat 64 (256 + g.val))) rfl hpow).trans
    (congrArg _ ?_)
  rw [State.injectWrite, rwl, hlock, if_neg Bool.false_ne_true, hb, honly]
  cases s.mayInject p.val <;> rfl

end control

end Sys2Proof.Machine
end

section
/-! Both pens of a JOINED run stop in one cycle (R109), and the pen faults together. -/

namespace Sys2Proof.Machine

section pair

variable {s x t : State} {e q cause groups line : Nat} {r r' : Run}

/-- The partner of a JOINED run drops it (R79, R109). -/
theorem Pen.dropJoined_run {y : Pen} (hend : y.ending = none) (hrun : y.run = some r') (hline : r'.line = r.line) (hmode : r'.mode = .joined) :
    y.dropJoined r.line = y.clearRun := by
  unfold Pen.dropJoined
  simp only [hend, hrun, hline, hmode, decide_true, Bool.and_self, if_true, Bool.false_eq_true, if_false]

/-- A JOINED run that is killed ends on both pens (R79). -/
theorem State.killRun_joined (hrun : (s.pen e).run = some r) (hrun' : (s.pen (otherOf e)).run = some r') (hmode : r.mode = .joined)
    (hmode' : r'.mode = .joined) (hline : r'.line = r.line) (hend : (s.pen (otherOf e)).ending = none) (hhold : (s.pen e).hold = .none) :
    { s.killRun e with pens := s.pens, vt := s.vt } = s ∧
    (∀ q, q = e ∨ q = otherOf e → (s.killRun e).pen q = (s.pen q).clearRun) ∧
    (∀ q, q ≠ e → q ≠ otherOf e → (s.killRun e).pen q = s.pen q) ∧
    ∀ n, (s.killRun e).vslot n = if n ∈ r.drafts then (s.vslot n).discard else s.vslot n := by
  have hne := otherOf_ne e
  let v := s.forAll r.drafts (fun n t => t.modVslot n VSlot.discard)
  have hback : { v with vt := s.vt } = s :=
    State.forAll_of_turn (P := fun t => { t with vt := s.vt } = s) (fun _ _ ht => ht) rfl
  have hvslot (n : Nat) : v.vslot n = if n ∈ r.drafts then (s.vslot n).discard else s.vslot n :=
    State.forAll_vslot_idem VSlot.discard_discard r.drafts s n
  have hpen (q : Nat) : v.pen q = s.pen q := (congrArg (fun x : State => x.pen q) hback :)
  have hcopy : v.dropCopy e = v := by rw [State.dropCopy, hpen, hhold]
  have hreq : v.dropRequest e r = v := by rw [State.dropRequest, hpen, hhold]
  have howe (x : Pen) : x.clearRun.oweCopy r = x.clearRun := if_neg (by rw [hmode]; decide)
  have hkill : s.killRun e = (v.modPen e (fun x => x.clearRun.oweCopy r)).modPen (otherOf e) (Pen.dropJoined r.line) := by
    have hv : s.forAll r.drafts (fun n t => t.discardDraft n) = v := rfl
    simp only [State.killRun, hrun, hv, hcopy, hreq]
    exact if_pos hmode
  rw [hkill]
  refine ⟨?_, fun q hq => ?_, fun q hq hq' => ?_, hvslot⟩
  · exact (congrArg (fun x : State => ({ x with pens := s.pens } : State)) hback :)
  · obtain rfl | rfl := hq
    · rw [State.modPen_pen_other hne.symm, State.modPen_pen_same, howe, hpen]
    · rw [State.modPen_pen_same, State.modPen_pen_other hne, hpen, Pen.dropJoined_run hend hrun' hline hmode']
  · rw [State.modPen_pen_other hq', State.modPen_pen_other hq, hpen]

/-- A pen without a run stops in RUN with a fault word noted (R83, R121). -/
def State.stopOne (x : State) (q : Nat) (info : Word) : State :=
  ((x.modPen q (fun y => y.faulted x.folio.number info)).modPen q (fun y => { y with st := .stopped })).modPen q
    (fun y => { y with handAt := some (x.handedAt q) })

theorem State.stopOne_spec (x : State) (q : Nat) (info : Word) :
    OnlyPens [q] x (x.stopOne q info) ∧
    (x.stopOne q info).pen q = { (x.pen q).faulted x.folio.number info with st := .stopped, handAt := some (x.handedAt q) } := by
  rw [State.stopOne]
  refine ⟨((onlyPens_modPen (s := x)).modPen List.mem_cons_self).modPen List.mem_cons_self, ?_⟩
  rw [State.modPen_pen_same, State.modPen_pen_same, State.modPen_pen_same]

theorem State.afterStop_noted (info : Word) (hdev : x.dev = .run) (hmax : bitsOf x.folio.rdCtrl 24 4 = 0) :
    ((x.modPen q (fun y => y.faulted x.folio.number info)).modPen q (fun y => { y with st := .stopped })).afterStop q =
      (x.stopOne q info, []) := by
  have hhand : ((x.modPen q (fun y => y.faulted x.folio.number info)).modPen q (fun y => { y with st := .stopped })).handedAt q =
      x.handedAt q := by
    refine State.handedAt_congr rfl rfl rfl ?_
    rw [State.modPen_pen_same, State.modPen_pen_same]
    rfl
  rw [State.afterStop_run (by rw [State.modPen_dev, State.modPen_dev]; exact hdev)
    (by rw [State.modPen_folio, State.modPen_folio]; exact hmax), hhand]
  rfl

/-- What the stop of one pen of the pair does (R109). -/
theorem State.stopOne_eq (hdev : x.dev = .run) (hmax : bitsOf x.folio.rdCtrl 24 4 = 0) :
    ((x.recordFault q cause groups line).modPen q (fun y => { y with st := .stopped })).afterStop q =
      (x.stopOne q (faultWord x.folioCyc cause groups line), []) := by
  rw [State.recordFault_eq]
  exact State.afterStop_noted _ hdev hmax

/-- The JOINED run `r` of a pair in RUN, alone on both pens and going on (R107, R108). -/
structure State.PairRuns (s : State) (e : Nat) (r : Run) : Prop where
  even : e % 2 = 0
  live : (s.pen e).st = .run ∧ (s.pen (e + 1)).st = .run
  endings : (s.pen e).ending = none ∧ (s.pen (e + 1)).ending = none
  run : (s.pen e).run = some r
  partner : ∃ r', (s.pen (e + 1)).run = some r' ∧ r'.mode = .joined ∧ r'.line = r.line
  joined : r.mode = .joined
  free : (s.pen e).hold = .none
  dev : s.dev = .run
  max : bitsOf s.folio.rdCtrl 24 4 = 0

/-- The inter-pen interrupts that a stopping pair keeps (R99, R102). -/
def State.pairIpis (s : State) (e : Nat) : State :=
  { s with ipiFly := s.ipiFly.filter (fun f => (f.src ≠ e ∧ f.src ≠ e + 1) ∨ f.since + 3 < s.cyc) }

theorem State.recall_pair (he : e % 2 = 0) : (s.recallIpis e).recallIpis (oddOf e) = s.pairIpis e := by
  have hodd : oddOf e = e + 1 := by rw [oddOf]; omega
  rw [hodd, State.recallIpis_eq, State.recallIpis_eq, State.ipisLeft, State.ipisLeft, State.pairIpis]
  refine congrArg (fun l => ({ s with ipiFly := l } : State)) ?_
  rw [List.filter_filter]
  refine List.filter_congr fun f _ => ?_
  rw [Bool.eq_iff_iff]
  simp only [Bool.and_eq_true, decide_eq_true_eq]
  omega

/-- The pair after its run is killed and both pens have stopped. -/
def State.pairStopped (s : State) (e : Nat) (r : Run) (a b : Nat × Nat) : State :=
  (((s.pairIpis e).killRun e).stopOne e (faultWord s.folioCyc a.1 a.2 r.line)).stopOne (e + 1) (faultWord s.folioCyc b.1 b.2 r.line)

theorem State.PairRuns.kill (h : s.PairRuns e r) :
    let t := (s.pairIpis e).killRun e
    { t with pens := s.pens, vt := s.vt } = s.pairIpis e ∧ (∀ q, q = e ∨ q = e + 1 → t.pen q = (s.pen q).clearRun) ∧
    (∀ q, q ≠ e → q ≠ e + 1 → t.pen q = s.pen q) ∧
    ∀ n, t.vslot n = if n ∈ r.drafts then (s.vslot n).discard else s.vslot n := by
  have ho : otherOf e = e + 1 := by rw [otherOf, if_pos h.even]
  obtain ⟨r', hrun', hmode', hline⟩ := h.partner
  obtain ⟨hback, hown, hothers, hvslot⟩ := State.killRun_joined (s := s.pairIpis e) (e := e) h.run (by rw [ho]; exact hrun') h.joined hmode' hline
    (by rw [ho]; exact h.endings.2) h.free
  rw [ho] at hown hothers
  exact ⟨hback, hown, hothers, hvslot⟩

/-- The stop of a pair, by the killed run and the stop of each pen (R109). -/
theorem State.stopPair_eq (he : e % 2 = 0) (hend : (s.pen e).ending = none) (a b : Nat × Nat) (ev : List Event) {t u v : State}
    (ht : (s.pairIpis e).killRun e = t) (hrun : t.stopRun e = (t, []))
    (hu : ((t.recordFault e a.1 a.2 r.line).modPen e (fun y => { y with st := .stopped })).afterStop e = (u, []))
    (hrun' : u.stopRun (e + 1) = (u, []))
    (hv : ((u.recordFault (e + 1) b.1 b.2 r.line).modPen (e + 1) (fun y => { y with st := .stopped })).afterStop (e + 1) = (v, [])) :
    s.stopPair e r a b ev = (v, ev) := by
  have hodd : oddOf e = e + 1 := by rw [oddOf]; omega
  have hend' : ((s.pairIpis e).pen e).ending = none := hend
  unfold State.stopPair
  dsimp only
  rw [State.recall_pair he]
  simp only [hend', hodd, Bool.false_eq_true, if_false, ht, hrun, hu, hrun', hv, List.nil_append]
  exact congrArg (Prod.mk v) (List.append_nil ev)

theorem State.PairRuns.stopPair (h : s.PairRuns e r) (a b : Nat × Nat) (ev : List Event) :
    s.stopPair e r a b ev = (s.pairStopped e r a b, ev) := by
  obtain ⟨hback, hown, -, -⟩ := h.kill
  obtain ⟨t, ht⟩ : ∃ t, (s.pairIpis e).killRun e = t := ⟨_, rfl⟩
  rw [ht] at hback hown
  have hrun (q : Nat) (hq : q = e ∨ q = e + 1) : (t.pen q).run = none := by rw [hown q hq]; rfl
  have hdev : t.dev = .run := (congrArg State.dev hback :).trans h.dev
  have hmax : bitsOf t.folio.rdCtrl 24 4 = 0 := (congrArg (fun u : State => bitsOf u.folio.rdCtrl 24 4) hback).trans h.max
  have hcyc : t.folioCyc = s.folioCyc := (congrArg State.folioCyc hback :)
  obtain ⟨⟨hback', hrest⟩, -⟩ := t.stopOne_spec e (faultWord s.folioCyc a.1 a.2 r.line)
  have hfirst := State.stopOne_eq (q := e) (cause := a.1) (groups := a.2) (line := r.line) hdev hmax
  rw [hcyc] at hfirst
  have hpair : s.pairStopped e r a b = (t.stopOne e (faultWord s.folioCyc a.1 a.2 r.line)).stopOne (e + 1)
      (faultWord s.folioCyc b.1 b.2 r.line) := by rw [State.pairStopped, ht]
  rw [hpair]
  generalize t.stopOne e (faultWord s.folioCyc a.1 a.2 r.line) = u at hback' hrest hfirst
  have hdev' : u.dev = .run := (congrArg State.dev hback' :).trans hdev
  have hmax' : bitsOf u.folio.rdCtrl 24 4 = 0 := (congrArg (fun u : State => bitsOf u.folio.rdCtrl 24 4) hback').trans hmax
  have hcyc' : u.folioCyc = s.folioCyc := Eq.trans (congrArg State.folioCyc hback' :) hcyc
  have hsecond := State.stopOne_eq (q := e + 1) (cause := b.1) (groups := b.2) (line := r.line) hdev' hmax'
  rw [hcyc'] at hsecond
  refine State.stopPair_eq h.even h.endings.1 a b ev ht ?_ hfirst ?_ hsecond
  · rw [State.stopRun, hrun e (.inl rfl)]
  · rw [State.stopRun, hrest (e + 1) (by simp), hrun (e + 1) (.inr rfl)]

/-- What the stop of both pens changes (R109). -/
theorem State.PairRuns.bothStopped (h : s.PairRuns e r) {a b : Nat × Nat} (ha : a.1 < 256 ∧ a.2 < 256) (hb : b.1 < 256 ∧ b.2 < 256) :
    s.BothStopped (s.pairStopped e r a b) e r a b := by
  obtain ⟨hback, hown, hothers, hvslot⟩ := h.kill
  obtain ⟨infoA, hA⟩ : ∃ i, i = faultWord s.folioCyc a.1 a.2 r.line := ⟨_, rfl⟩
  obtain ⟨infoB, hB⟩ : ∃ i, i = faultWord s.folioCyc b.1 b.2 r.line := ⟨_, rfl⟩
  unfold State.pairStopped
  rw [← hA, ← hB]
  generalize (s.pairIpis e).killRun e = t at hback hown hothers hvslot ⊢
  obtain ⟨⟨hbackU, hrestU⟩, hpenU⟩ := t.stopOne_spec e infoA
  generalize t.stopOne e infoA = u at hbackU hrestU hpenU ⊢
  obtain ⟨⟨hbackV, hrestV⟩, hpenV⟩ := u.stopOne_spec (e + 1) infoB
  generalize u.stopOne (e + 1) infoB = v at hbackV hrestV hpenV ⊢
  have hfolioT : t.folio = s.folio := (congrArg State.folio hback :)
  have hcycT : t.cyc = s.cyc := (congrArg State.cyc hback :)
  have hfolioU : u.folio = s.folio := Eq.trans (congrArg State.folio hbackU :) hfolioT
  have hcycU : u.cyc = s.cyc := Eq.trans (congrArg State.cyc hbackU :) hcycT
  have hve : v.pen e = u.pen e := hrestV e (by simp)
  have hue : u.pen (e + 1) = t.pen (e + 1) := hrestU (e + 1) (by simp)
  have hhandT : t.handedAt e = s.handedAt e :=
    State.handedAt_congr (by rw [hfolioT]) (by rw [hfolioT]) hcycT (by rw [hown e (.inl rfl)]; rfl)
  have hhandU : u.handedAt (e + 1) = s.handedAt (e + 1) :=
    State.handedAt_congr (by rw [hfolioU]) (by rw [hfolioU]) hcycU (by rw [hue, hown (e + 1) (.inr rfl)]; rfl)
  rw [hown e (.inl rfl), hfolioT, hhandT, ← hve] at hpenU
  rw [hue, hown (e + 1) (.inr rfl), hfolioU, hhandU] at hpenV
  refine ⟨?_, fun q hq hq' => ?_, fun n => ?_, by rw [hpenU]; rfl, ?_, ?_, fun q hq => ?_⟩
  · have h1 := congrArg (fun w : State => ({ w with pens := s.pens, vt := s.vt } : State)) hbackV
    have h2 := congrArg (fun w : State => ({ w with pens := s.pens, vt := s.vt } : State)) hbackU
    exact h1.trans (h2.trans hback)
  · rw [hrestV q (by simpa using hq'), hrestU q (by simpa using hq), hothers q hq hq']
  · have h1 : v.vslot n = u.vslot n := (congrArg (fun w : State => w.vslot n) hbackV :)
    have h2 : u.vslot n = t.vslot n := (congrArg (fun w : State => w.vslot n) hbackU :)
    rw [h1, h2, hvslot]
    rfl
  · exact faultNoted_of_fields ha.1 ha.2 (by rw [hpenU, ← hA]; rfl) (by rw [hpenU]; rfl) (by rw [hpenU]; rfl)
  · exact faultNoted_of_fields hb.1 hb.2 (by rw [hpenV, ← hB]; rfl) (by rw [hpenV]; rfl) (by rw [hpenV]; rfl)
  · simp only [List.mem_cons, List.not_mem_nil, or_false] at hq
    obtain rfl | rfl := hq
    · rw [hpenU]
      exact ⟨rfl, rfl, rfl⟩
    · rw [hpenV]
      exact ⟨rfl, rfl, rfl⟩

theorem State.PairRuns.joinedRun (h : s.PairRuns e r) : s.joinedRun e = some r := by
  have hfilter : (some r).filter (fun r => r.mode = .joined) = some r := by
    rw [Option.filter, if_pos (decide_eq_true h.joined)]
  simp only [State.joinedRun, h.endings.1, h.run, hfilter, Option.filter_none]

end pair

end Sys2Proof.Machine
end

section
/-! Pen faults and cross-link disagreements complete (R79, R83, R99 to R104, R109, R110, R121 to R123). -/

namespace Sys2Proof.Machine

section pair

variable {s : State} {e : Nat} {r : Run}

/-- A cross-link disagreement stops both pens (R109). -/
theorem exec_crosslinkDisagree {k : Fin 32} (h : s.PairRuns (2 * k.val) r) :
    exec (.crosslinkDisagree k) s = .next ((s.pairStopped (2 * k.val) r (5, 0) (5, 0)).raise (penEvent 5 (2 * k.val) r.line 5)) := by
  have hdue : (s.joinedRun (2 * k.val)).isSome = true := by rw [h.joinedRun]; rfl
  have hexec : exec (.crosslinkDisagree k) s = execCrosslinkDisagree k s := rfl
  rw [hexec, execCrosslinkDisagree, guarded_of_due hdue, h.joinedRun]
  have hstop : s.crossStop (2 * k.val) r = (s.pairStopped (2 * k.val) r (5, 0) (5, 0), [faultEvent 5 (2 * k.val) 0 r.line]) :=
    h.stopPair (5, 0) (5, 0) _
  exact congrArg (fun x => Host.Outcome.next (raised x)) hstop

/-- A fault of both pens in one cycle stops both (R109). -/
theorem exec_penFault_pair {p : PenN} {x y : PenReport} {a b : Nat × Nat} (h : s.PairRuns p.val r) (hx : s.Reports p.val x a.1 a.2)
    (hy : s.Reports (p.val + 1) y b.1 b.2) :
    exec (.penFault p x (some y)) s = .next ((s.pairStopped p.val r a b).raiseAll [penEvent a.1 p.val r.line (a.1 + a.2 * 256),
      penEvent b.1 (p.val + 1) r.line (b.1 + b.2 * 256), { cls := 0x13, line := r.line }]) := by
  have hodd : oddOf p.val = p.val + 1 := by have := h.even; rw [oddOf]; omega
  have ho : otherOf p.val = p.val + 1 := if_pos h.even
  have hserv : s.inService p.val = true := by rw [State.inService, h.live.1]
  have hserv' : s.inService (p.val + 1) = true := by rw [State.inService, h.live.2]
  have hpow : s.powered = true := by rw [State.powered, h.dev]; rfl
  have hdue : (s.powered && s.inService p.val) = true := by rw [hpow, hserv]; rfl
  have hexec : exec (.penFault p x (some y)) s = execPenFault p x (some y) s := rfl
  rw [hexec, execPenFault, guarded_of_due hdue]
  refine congrArg Host.Outcome.next ?_
  have hpair : s.pairReport p.val x y = raised (s.bothStop p.val r a b) := by
    rw [State.pairReport, h.joinedRun, hx.penCause, hodd, hy.penCause]
  dsimp only
  rw [ho, hserv', Bool.not_true, if_neg Bool.false_ne_true, if_pos h.even, hpair, State.bothStop, hodd, h.stopPair]
  rfl

end pair

/-- Settles O30: each fault is noted first (`State.Noted`); a single pen then stops with its run (`State.StopsDuplex`), a pair
with the run of both (`State.PairRuns.bothStopped`). -/
theorem penFaultsComplete : Obligations.PenFaultsComplete := by
  refine ⟨?one, ?pair, ?control⟩
  case one =>
    intro s p rep cause groups hpow hend hmir hrep u
    refine ⟨fun hst hrun hdev hsafe => exec_penFault_idle hpow hend hmir hrep hst hrun hdev hsafe, ?_⟩
    intro r l hst hrun hhold hdev hmode hrec hmax hl hlig hvalid htime
    obtain ⟨t, hexec, ⟨hback, hothers, hfolio, hvslot, hstopped, hnone, hsb, hhand⟩, hnoted⟩ :=
      exec_penFault_duplex hpow hend hmir hrep hst hrun hhold hdev hmode hrec hmax hl hlig hvalid htime
    exact ⟨t, hexec, hback, hothers, hfolio, hvslot, hstopped, hnone, hsb, hhand, hnoted⟩
  case pair =>
    intro s k r r' e hst hst' hend hend' hrun hrun' hmode hmode' hline hhold hdev hmax
    have h : s.PairRuns e r := ⟨Nat.mul_mod_right 2 _, ⟨hst, hst'⟩, ⟨hend, hend'⟩, hrun, ⟨r', hrun', hmode', hline⟩, hmode, hhold, hdev, hmax⟩
    refine ⟨⟨_, exec_crosslinkDisagree h, h.bothStopped (by decide) (by decide)⟩, fun p x y a b hp hx hy => ?_⟩
    rw [← hp] at h hx hy ⊢
    exact ⟨_, exec_penFault_pair h hx hy, h.bothStopped hx.lt hy.lt⟩
  case control =>
    intro s p hpow
    refine ⟨fun hdev hst => ?_, fun hst => ?_, exec_penCtrlFence_idle hpow, fun g hlock => ?_⟩
    · obtain ⟨honly, hhand, hstate⟩ := State.restartPen_stopped hdev hst
      exact ⟨_, exec_penCtrlRestart hpow, honly, hhand, hstate⟩
    · rw [exec_penCtrlRestart hpow, State.restartPen, if_neg]
      rw [decide_eq_false hst, Bool.and_false]
      exact Bool.false_ne_true
    · refine ⟨fun hmay => ?_, fun hnot => ?_⟩
      · rw [exec_penInjectArm g hpow hlock, if_pos (State.mayInject_iff.mpr hmay)]
        exact ⟨_, rfl, onlyPens_modPen, State.modPen_pen_same⟩
      · rw [exec_penInjectArm g hpow hlock, if_neg fun h => hnot (State.mayInject_iff.mp h)]

end Sys2Proof.Machine
end

section
/-! ### The folio tick (R30, R46, R51, R81) -/

namespace Sys2Proof.Machine

/-- The state without the parts that the closing of a folio and the last stages of a tick may change. -/
def State.tickView (s : State) : State :=
  { s with
    pens := [], macs := [], cans := [], aon := {}, huv := { s.huv with rb := [] }
    feed := { s.feed with newCnt := [], shown := [] }
    folio := { s.folio with gates := [], place := [], rdShed := 0, rdUnprot := 0, rdSeen := false, rd := .idle } }

theorem State.tickView_pens {s : State} {x : Table Pen} : { s with pens := x }.tickView = s.tickView := rfl

/-- What a view of the state shows is equal where the views are equal. -/
theorem State.of_view {α : Type} (g : State → α) {view : State → State} {s t : State} (h : view s = view t)
    (hg : ∀ u : State, g (view u) = g u) : g s = g t := (hg s).symm.trans ((congrArg g h).trans (hg t))

/-- A loop whose turns leave the view leaves it. -/
theorem State.forAll_tickView {α : Type} {l : List α} {f : α → State → State} {s : State}
    (hf : ∀ a t, (f a t).tickView = t.tickView) : (s.forAll l f).tickView = s.tickView :=
  State.forAll_eq State.tickView hf

/-! #### The closing of the folio that ends -/

/-- The folio registers after its windows have closed. -/
def Folio.closed (f : Folio) : Folio := { f with wins := [], armed := [], spent := [], handed := [] }

theorem State.ethWithdraw_tickView {s : State} {m st : Nat} (h : (s.mac m).txq = []) :
    (s.ethWithdraw m st).tickView = s.tickView := by
  rw [State.ethWithdraw, h]
  rfl

theorem State.canWithdraw_tickView {s : State} {c : Nat} (h : (s.can c).txq = []) :
    (s.canWithdraw c).tickView = s.tickView := by
  rw [State.canWithdraw, h]
  rfl

/-- Every MAC's transmit queue is empty. -/
def State.MacsQuiet (s : State) : Prop := ∀ m, (s.mac m).txq = []

/-- Every CAN controller's transmit queue is empty. -/
def State.CansQuiet (s : State) : Prop := ∀ c, (s.can c).txq = []

theorem State.ethWithdraw_quiet {s : State} {m st : Nat} (h : s.MacsQuiet) : (s.ethWithdraw m st).MacsQuiet := by
  intro k
  rw [State.ethWithdraw, h m]
  by_cases hk : k = m
  · rw [hk]
    exact congrArg Mac.txq State.modMac_mac_same
  · exact (congrArg Mac.txq (State.modMac_mac_other hk)).trans (h k)

theorem State.ethWithdraw_cans {s : State} {m st : Nat} (h : (s.mac m).txq = []) : (s.ethWithdraw m st).cans = s.cans := by
  rw [State.ethWithdraw, h]
  rfl

theorem State.canWithdraw_quiet {s : State} {c : Nat} (h : s.CansQuiet) : (s.canWithdraw c).CansQuiet := by
  intro k
  rw [State.canWithdraw, h c]
  by_cases hk : k = c
  · rw [hk]
    exact congrArg Can.txq State.modCan_can_same
  · exact (congrArg Can.txq (State.modCan_can_other hk)).trans (h k)

theorem State.withdrawFrames_tickView {s : State} (hm : s.MacsQuiet) (hc : s.CansQuiet) :
    s.withdrawFrames.tickView = s.tickView := by
  have hmacs := State.forAll_of_turn (l := upTo 4) (f := fun m t => t.ethWithdraw m 0xA) (s := s)
    (P := fun t => t.MacsQuiet ∧ t.cans = s.cans ∧ t.tickView = s.tickView)
    (fun m t ⟨hq, hcans, hview⟩ => ⟨State.ethWithdraw_quiet hq, (State.ethWithdraw_cans (hq m)).trans hcans,
      (State.ethWithdraw_tickView (hq m)).trans hview⟩) ⟨hm, rfl, rfl⟩
  obtain ⟨-, hcans, hview⟩ := hmacs
  rw [State.withdrawFrames]
  generalize s.forAll (upTo 4) (fun m t => t.ethWithdraw m 0xA) = u at hcans hview ⊢
  have hcu : u.CansQuiet := fun c => by rw [State.can, hcans]; exact hc c
  exact (State.forAll_of_turn (P := fun t => t.CansQuiet ∧ t.tickView = s.tickView)
    (fun c t ⟨hq, ht⟩ => ⟨State.canWithdraw_quiet hq, (State.canWithdraw_tickView (hq c)).trans ht⟩) ⟨hcu, hview⟩).2

/-- No pen has a run, in progress or past its LINEND. -/
def State.NoRuns (s : State) : Prop := ∀ p, p < 64 → (s.pen p).run = none ∧ (s.pen p).ending = none

theorem State.killRuns_of_none {s : State} (h : s.NoRuns) :
    s.forAll (upTo 64) (fun p t => (t.killRun p).killEnding p) = s :=
  State.forAll_same fun p hp => by
    obtain ⟨hrun, hend⟩ := h p (List.mem_range.mp hp)
    rw [State.killRun_of_none hrun, State.killEnding_of_none hend]

theorem State.closeTraces_of_none {s : State} (h : ∀ w ∈ s.folio.wins, w.wtype ≠ 2) : s.closeTraces = s := by
  have hnone : s.folio.wins.filter (fun w => w.wtype = 2) = [] :=
    List.filter_eq_nil_iff.mpr fun w hw => by simpa using h w hw
  rw [State.closeTraces, hnone]
  rfl

theorem State.truncMessages_of_none {s : State} (h : s.hif.qps = []) : s.truncMessages = s := by
  rw [State.truncMessages, h]
  rfl

theorem State.finalStatuses_of_none {s : State} (h : s.feed.descs = []) : s.finalStatuses = s := by
  rw [State.finalStatuses, h]
  rfl

theorem State.tickIrqs_of_none {s : State} (h : s.hif.qps = []) : s.tickIrqs = s := by
  rw [State.tickIrqs, h]
  rfl

/-- The state after the windows of the folio have closed and its own lists are empty. -/
def State.emptied (s : State) : State :=
  { s with pens := Table.mapV (fun (x : Pen) => { x with ligEnd := 0 }) s.pens, folio := s.folio.closed }

theorem State.emptied_tickView {s : State} : s.emptied.tickView = { s with folio := s.folio.closed }.tickView :=
  State.tickView_pens (s := { s with folio := s.folio.closed })

/-- Without messages and descriptors only frames are left to withdraw. -/
theorem State.closeMessages_tickView {s : State} (hqps : s.hif.qps = []) (hdescs : s.feed.descs = [])
    (hm : s.MacsQuiet) (hc : s.CansQuiet) :
    s.truncMessages.withdrawFrames.finalStatuses.tickIrqs.tickView = s.tickView := by
  have hq := State.withdrawFrames_tickView hm hc
  have hdescs' : s.withdrawFrames.feed.descs = [] := (State.of_view (·.feed.descs) hq fun _ => rfl).trans hdescs
  have hqps' : s.withdrawFrames.hif.qps = [] := (State.of_view (·.hif.qps) hq fun _ => rfl).trans hqps
  rw [State.truncMessages_of_none hqps, State.finalStatuses_of_none hdescs', State.tickIrqs_of_none hqps']
  exact hq

theorem State.closeFolio_eq {s : State} (hruns : s.NoRuns) (hwins : ∀ w ∈ s.folio.wins, w.wtype ≠ 2) :
    s.closeFolio = s.emptied.truncMessages.withdrawFrames.finalStatuses.tickIrqs := by
  rw [State.closeFolio]
  simp only [State.killRuns_of_none hruns, State.closeTraces_of_none hwins]
  rfl

/-- The folio that ends, where nothing is in progress: its windows close and its own lists empty. -/
theorem State.closeFolio_tickView {s : State} (hruns : s.NoRuns) (hwins : ∀ w ∈ s.folio.wins, w.wtype ≠ 2)
    (hqps : s.hif.qps = []) (hdescs : s.feed.descs = []) (hm : s.MacsQuiet) (hc : s.CansQuiet) :
    s.closeFolio.tickView = { s with folio := s.folio.closed }.tickView := by
  rw [State.closeFolio_eq hruns hwins, ← State.emptied_tickView]
  exact State.closeMessages_tickView hqps hdescs hm hc

/-! #### The last stages of the tick -/

theorem State.modPen_tickView {s : State} {p : Nat} {f : Pen → Pen} : (s.modPen p f).tickView = s.tickView := rfl

theorem State.setMirror_tickView {s : State} {p : Nat} {m : Mirror} : (s.setMirror p m).tickView = s.tickView := rfl

theorem State.penReturns_tickView {s : State} {p : Nat} : (s.penReturns p).tickView = s.tickView := by
  rw [State.penReturns]
  split
  · exact State.setMirror_tickView
  · rfl

theorem State.returnPens_tickView {s : State} {all : Bool} : (s.returnPens all).tickView = s.tickView :=
  State.forAll_tickView fun p t => by
    split
    · split
      · exact State.penReturns_tickView
      · rfl
    · rfl

theorem State.clearWindows_tickView {s : State} {old : Nat} : (s.clearWindows old).tickView = s.tickView := by
  rw [State.clearWindows]
  have hrb := State.forAll_tickView (l := s.huv.rb.map (·.1)) (s := s) (f := fun c t =>
    if newWindow old s.folio.number.toNat (bitsOf (t.rbClass c).entry 16 4) then t.modRb c (fun x => { x with win := 0 }) else t)
    fun c t => by split <;> rfl
  split
  · exact (State.forAll_tickView fun p t => State.modPen_tickView).trans hrb
  · exact hrb

theorem State.tickRedraft_tickView {s : State} : s.tickRedraft.tickView = s.tickView := by
  rw [State.tickRedraft]
  split <;> rfl

theorem State.tickTrim_tickView {s : State} : s.tickTrim.tickView = s.tickView := by
  rw [State.tickTrim]
  split <;> rfl

theorem State.applyShed_of_none {s : State} (h : s.folio.shedDue = []) : s.applyShed.tickView = s.tickView := by
  have hsame : s.applyShed = s := by
    simp only [State.applyShed, h, List.filter_nil, List.map_nil, List.append_nil, State.forAll, List.foldl_nil]
    rw [← h]
  rw [hsame]

theorem State.endWaiting_of_none {s : State} (h : s.huv.waiting = []) : s.endWaiting = s := by
  rw [State.endWaiting, h]
  rfl

theorem State.tickTwin_of_none {s : State} (h : s.trc.startAt = none) : s.tickTwin = s := by
  rw [State.tickTwin, h]

/-- The stages of a tick after the input snapshot. -/
def State.endTick (s : State) (old : Nat) : State :=
  ((((((s.wrapGates.clearWindows old).returnPens false).tickTwin).applyShed).tickRedraft).tickTrim).endWaiting

theorem State.endTick_tickView {s : State} {old : Nat} (htrc : s.trc = {}) (hshed : s.folio.shedDue = [])
    (hwait : s.huv.waiting = []) : (s.endTick old).tickView = s.tickView := by
  rw [State.endTick]
  have h1 : ((s.wrapGates.clearWindows old).returnPens false).tickView = s.tickView :=
    State.returnPens_tickView.trans (State.clearWindows_tickView.trans rfl)
  generalize (s.wrapGates.clearWindows old).returnPens false = u at h1 ⊢
  have hstart : u.trc.startAt = none := (State.of_view (·.trc.startAt) h1 fun _ => rfl).trans (congrArg Trc.startAt htrc)
  have hshed' : u.folio.shedDue = [] := (State.of_view (·.folio.shedDue) h1 fun _ => rfl).trans hshed
  rw [State.tickTwin_of_none hstart]
  have h2 : u.applyShed.tickRedraft.tickTrim.tickView = s.tickView :=
    State.tickTrim_tickView.trans (State.tickRedraft_tickView.trans ((State.applyShed_of_none hshed').trans h1))
  have hwait' : u.applyShed.tickRedraft.tickTrim.huv.waiting = [] := (State.of_view (·.huv.waiting) h2 fun _ => rfl).trans hwait
  rw [State.endWaiting_of_none hwait']
  exact h2

end Sys2Proof.Machine
end

section
namespace Sys2Proof.Machine

/-! #### Owners and grants at the tick -/

/-- The state without its reservoirs, as the view of the tick sees it. -/
def State.ownView (s : State) : State := { s.tickView with rsv := [] }

theorem State.resetOwners_spec (s : State) :
    s.resetOwners.ownView = s.ownView ∧ ∀ r, r < 32 →
      (s.resetOwners.rsvOf r).grant = s.active.header.getD (8 + r) 0 ∧
      (s.resetOwners.rsvOf r).owner = tickOwner s.cyc (s.rsvOf r) (initOwner s.active.header r) := by
  refine ⟨State.forAll_eq State.ownView fun _ _ => rfl, fun r hr => ?_⟩
  have hget := State.forAll_get (upd := fun r t => t.modRsv r (fun x =>
    { x with owner := tickOwner s.cyc x (initOwner s.active.header r), grant := initGrant s.active.header r })) State.rsvOf
    (fun r x => { x with owner := tickOwner s.cyc x (initOwner s.active.header r), grant := initGrant s.active.header r })
    (fun _ _ => State.modRsv_rsvOf_same) (fun _ _ _ h => State.modRsv_rsvOf_other h) (List.nodup_range (n := 32)) s r
  have hrsv : s.resetOwners.rsvOf r = _ := hget.trans (if_pos (List.mem_range.mpr hr))
  rw [hrsv]
  exact ⟨rfl, rfl⟩

/-! #### The input snapshot (R81) -/

/-- What the input snapshot does to a version slot with no message that writes it. -/
def VSlot.snapped (v : VSlot) (seq : Nat) : VSlot :=
  if v.kind = .input && v.valid then
    if v.st = .drafted then { v.swap seq with held := false } else { v with held := false }
  else v

/-- The turn of the input snapshot for slot `n`, where no message writes a page. -/
def State.snapSlot (n seq : Nat) (s : State) : State :=
  let v := s.vslot n
  if v.kind = .input && v.valid then
    if v.st = .drafted then (s.modVslot n (fun v => { v.swap seq with held := false })).rewriteTlb n
    else s.modVslot n (fun v => { v with held := false })
  else s

theorem State.rewriteTlb_vslot {s : State} {n k : Nat} : (s.rewriteTlb n).vslot k = s.vslot k := rfl

theorem State.snapSlot_same (seq n : Nat) (s : State) : (s.snapSlot n seq).vslot n = (s.vslot n).snapped seq := by
  rw [State.snapSlot, VSlot.snapped]
  split
  · split
    · rw [State.rewriteTlb_vslot, State.modVslot_vslot_same]
    · rw [State.modVslot_vslot_same]
  · rfl

theorem State.snapSlot_other (seq n k : Nat) (s : State) (h : k ≠ n) : (s.snapSlot n seq).vslot k = s.vslot k := by
  rw [State.snapSlot]
  split
  · split
    · rw [State.rewriteTlb_vslot, State.modVslot_vslot_other h]
    · rw [State.modVslot_vslot_other h]
  · rfl

/-- The state without its version table, as the view of the tick sees it. -/
def State.snapView (s : State) : State := { s.tickView with vt := [] }

theorem State.snapSlot_snapView {seq n : Nat} {s : State} : (s.snapSlot n seq).snapView = s.snapView := by
  rw [State.snapSlot]
  split
  · split <;> rfl
  · rfl

theorem dHasNew_default : dHasNew {} = false := by decide

theorem State.clearNew_of_none {s : State} {di : Nat} (h : s.feed.descs = []) : s.clearNew di = s := by
  have hdesc : s.desc di = {} := by rw [State.desc, h]; rfl
  rw [State.clearNew, hdesc, dHasNew_default]
  rfl

/-- The input snapshot, with nothing that writes a page and nothing to discard. -/
theorem State.snapshot_plain {s : State} (hqps : s.hif.qps = []) (hdrop : s.feed.dropNext = []) :
    s.snapshot = s.forAll (s.vt.map (·.1)) (fun n t => t.snapSlot n s.folio16) := by
  have hheld : s.heldPages = [] := by rw [State.heldPages, hqps]; rfl
  have hfeed : { s with feed := { s.feed with dropNext := [] } } = s := by rw [← hdrop]
  have hdiscard : s.forAll s.feed.dropNext State.discardDraftOf = s := by rw [hdrop]; rfl
  simp only [State.snapshot, hheld, hdiscard, hfeed, List.contains_nil, Bool.and_false, Bool.false_eq_true, if_false]
  refine State.forAll_congr_of (P := fun t => t.folio16 = s.folio16) (fun n _ t ht => ?_) (fun n t ht => ?_) rfl
  · rw [ht]
    rfl
  · exact (congrArg (fun u : State => u.folio16) (State.snapSlot_snapView (seq := s.folio16) (n := n) (s := t)) :).trans ht

/-- Each slot is treated once; nothing else changes but the pens' TLBs. -/
theorem State.snapshot_spec {s : State} (hqps : s.hif.qps = []) (hdrop : s.feed.dropNext = [])
    (hkeys : (s.vt.map (·.1)).Nodup) :
    s.snapshot.snapView = s.snapView ∧
      ∀ n, s.snapshot.vslot n = if n ∈ s.vt.map (·.1) then (s.vslot n).snapped s.folio16 else s.vslot n := by
  rw [State.snapshot_plain hqps hdrop]
  exact ⟨State.forAll_eq State.snapView fun _ _ => State.snapSlot_snapView,
    State.forAll_get State.vslot (fun _ v => v.snapped s.folio16) (State.snapSlot_same s.folio16)
      (State.snapSlot_other s.folio16) hkeys s⟩

theorem State.turnNew_snapView {s : State} {held gone : List Nat} : (s.turnNew held gone).snapView = s.snapView := rfl

theorem State.snapshotNew_spec {s : State} (hqps : s.hif.qps = []) (hdescs : s.feed.descs = [])
    (hdrop : s.feed.dropNext = []) (hkeys : (s.vt.map (·.1)).Nodup) :
    s.snapshotNew.snapView = s.snapView ∧
      ∀ n, s.snapshotNew.vslot n = if n ∈ s.vt.map (·.1) then (s.vslot n).snapped s.folio16 else s.vslot n := by
  have hclear : s.forAll (s.feed.shown.map (·.1)) State.clearNew = s :=
    State.forAll_same fun di _ => State.clearNew_of_none hdescs
  have heq : s.snapshotNew = s.snapshot.turnNew s.heldPages s.feed.dropNext := by
    simp only [State.snapshotNew, hclear]
  rw [heq]
  obtain ⟨hview, hslots⟩ := State.snapshot_spec hqps hdrop hkeys
  exact ⟨State.turnNew_snapView.trans hview, hslots⟩

end Sys2Proof.Machine
end

section
namespace Sys2Proof.Machine

/-! #### The tick as a whole -/

/-- The folio registers after the length of the folio that ends is noted. -/
def Folio.measured (f : Folio) (len : Nat) : Folio := { f with lastLen := len, minLen := min f.minLen len }

/-- The folio registers with the time of a tick. -/
def Folio.stamped (f : Folio) (tick cyc : Nat) : Folio :=
  { f with tickTime := BitVec.ofNat 64 tick, tickCyc := cyc, edgeAt := none }

/-- The state with the length of the folio that ended. -/
def State.measured (s : State) (len : Nat) : State := { s with folio := s.folio.measured len }

theorem State.measured_huv {s : State} {len : Nat} : (s.measured len).huv = s.huv := rfl

/-- The state with the time of the tick. -/
def State.stamped (s : State) (tick : Nat) : State := { s with folio := s.folio.stamped tick s.cyc }

theorem State.flushRecords_of_none {s : State} (h : s.feed.rxq = []) : s.flushRecords = s := by
  rw [State.flushRecords, h]
  rfl

/-- The state with the next folio number. -/
def State.numbered (s : State) : State := { s with folio := { s.folio with number := s.folio.number + 1 } }

theorem State.numberFolio_counted {s : State} (htrc : s.trc = {}) (h : s.folio.counted = true) :
    s.numberFolio = s.numbered := by
  rw [State.numberFolio]
  split
  · next hadopt => exact nomatch (congrArg Trc.adopt htrc).symm.trans hadopt
  · exact if_pos h

theorem State.tickTrace_idle {s : State} (htrc : s.trc = {}) : s.tickTrace = s := by
  simp only [State.tickTrace, htrc, Bool.false_eq_true, if_false]

theorem State.tickSwitch_idle {s : State} {t : Nat} (h : s.folio.swArm = false) : s.tickSwitch t = s := by
  rw [State.tickSwitch, h]
  rfl

/-- The stages of a tick from its time on. -/
def State.beginAt (s : State) (tick old : Nat) : State :=
  ((((((s.stamped tick).numberFolio).tickTrace).tickSwitch tick).resetOwners).snapshotNew).endTick old

/-- A tick of a running folio with no command waiting. -/
theorem State.beginFolio_running {s : State} (hrun : s.folio.running = true) (hrxq : s.feed.rxq = [])
    (hwait : s.closeFolio.huv.waiting = []) :
    s.beginFolio = (s.closeFolio.measured (s.cyc - s.folio.tickCyc)).beginAt s.thisTick s.folio.number.toNat := by
  have hfind (p : Waiting → Bool) : (s.closeFolio.measured (s.cyc - s.folio.tickCyc)).huv.waiting.find? p = none :=
    by rw [State.measured_huv, hwait, List.find?_nil]
  delta State.beginFolio
  extract_lets tick was old len closed src measured begun
  have hclosed : closed = s.closeFolio :=
    (if_pos hrun).trans (congrArg State.closeFolio (State.flushRecords_of_none hrxq))
  have hmeasured : measured = s.closeFolio.measured len := (if_pos hrun).trans (congrArg (State.measured · len) hclosed)
  have hbegun : begun = measured := by
    simp only [begun, hmeasured, hfind, len]
  change begun.beginAt tick old = _
  rw [hbegun, hmeasured]

/-- The folio registers of the folio that begins, before the redraft engine and the gates are looked at. -/
def Folio.begun (f : Folio) (tick cyc : Nat) : Folio :=
  { (f.closed.measured (cyc - f.tickCyc)).stamped tick cyc with number := f.number + 1 }

/-- What a tick leaves when nothing is in progress: the state before owners and pages change. -/
def State.Ticking (s u : State) : Prop :=
  u.tickView = { s with folio := s.folio.begun s.thisTick s.cyc }.tickView

theorem State.begin_ticking {s u : State} (h : u.tickView = { s with folio := s.folio.closed }.tickView)
    (hcount : s.folio.counted = true) (hsw : s.folio.swArm = false) (htrc : s.trc = {}) :
    s.Ticking ((((u.measured (s.cyc - s.folio.tickCyc)).stamped s.thisTick).numberFolio.tickTrace).tickSwitch s.thisTick) := by
  have hcount' : u.folio.counted = true := (State.of_view (·.folio.counted) h fun _ => rfl).trans hcount
  have hsw' : u.folio.swArm = false := (State.of_view (·.folio.swArm) h fun _ => rfl).trans hsw
  have htrc' : u.trc = {} := (State.of_view (·.trc) h fun _ => rfl).trans htrc
  rw [State.numberFolio_counted (s := (u.measured _).stamped _) htrc' hcount', State.tickTrace_idle (s := ((u.measured _).stamped _).numbered) htrc',
    State.tickSwitch_idle (s := ((u.measured _).stamped _).numbered) hsw']
  exact congrArg (fun v : State => { v with folio :=
    { (v.folio.measured (s.cyc - s.folio.tickCyc)).stamped s.thisTick v.cyc with number := v.folio.number + 1 } }) h

end Sys2Proof.Machine
end

section
namespace Sys2Proof.Machine

/-- A tick is due while a folio runs, and nothing is in progress, waits or is armed. -/
structure State.PlainTick (s : State) : Prop where
  due : s.tickDue = true
  running : s.folio.running = true
  counted : s.folio.counted = true
  runs : s.NoRuns
  waiting : s.huv.waiting = []
  qps : s.hif.qps = []
  descs : s.feed.descs = []
  drop : s.feed.dropNext = []
  shed : s.folio.shedDue = []
  sw : s.folio.swArm = false
  trc : s.trc = {}
  keys : (s.vt.map (·.1)).Nodup
  rxq : s.feed.rxq = []
  wins : ∀ w ∈ s.folio.wins, w.wtype ≠ 2
  macs : s.MacsQuiet
  cans : s.CansQuiet

/-- The state without reservoirs and version table, as the view of the tick sees it. -/
def State.restView (s : State) : State := { s.tickView with rsv := [], vt := [] }

theorem State.restView_of_tickView {s t : State} (h : s.tickView = t.tickView) : s.restView = t.restView :=
  congrArg (fun u : State => { u with rsv := [], vt := [] }) h

theorem State.restView_of_ownView {s t : State} (h : s.ownView = t.ownView) : s.restView = t.restView :=
  congrArg (fun u : State => { u with vt := [] }) h

theorem State.restView_of_snapView {s t : State} (h : s.snapView = t.snapView) : s.restView = t.restView :=
  congrArg (fun u : State => { u with rsv := [] }) h

/-- The state with the folio registers of the folio that begins. -/
def State.begun (s : State) : State := { s with folio := s.folio.begun s.thisTick s.cyc }

theorem State.begun_rul {s : State} : s.begun.rul = s.rul := by rw [State.begun]
theorem State.begun_vt {s : State} : s.begun.vt = s.vt := by rw [State.begun]
theorem State.begun_rsv {s : State} : s.begun.rsv = s.rsv := by rw [State.begun]
theorem State.begun_cyc {s : State} : s.begun.cyc = s.cyc := by rw [State.begun]
theorem State.begun_hif {s : State} : s.begun.hif = s.hif := by rw [State.begun]
theorem State.begun_feed {s : State} : s.begun.feed = s.feed := by rw [State.begun]
theorem State.begun_trc {s : State} : s.begun.trc = s.trc := by rw [State.begun]
theorem State.begun_huv {s : State} : s.begun.huv = s.huv := by rw [State.begun]
theorem State.begun_shedDue {s : State} : s.begun.folio.shedDue = s.folio.shedDue := by rw [State.begun, Folio.begun]; rfl
theorem State.begun_actSlot {s : State} : s.begun.folio.actSlot = s.folio.actSlot := by rw [State.begun, Folio.begun]; rfl
theorem State.begun_number {s : State} : s.begun.folio.number = s.folio.number + 1 := by rw [State.begun, Folio.begun]

theorem VSlot.snapped_mod {v : VSlot} {n : Nat} : v.snapped (n % 65536) = v.snapped n := by
  have hseq : BitVec.ofNat 16 (n % 65536) = BitVec.ofNat 16 n := BitVec.eq_of_toNat_eq (by simp)
  simp only [VSlot.snapped, VSlot.swap, hseq]

/-- The end of a tick that begins in `s`: the rest of the state, and reservoirs and pages. -/
structure State.TickEnds (s t : State) : Prop where
  rest : t.restView = s.begun.restView
  rsv : ∀ r, r < 32 → (t.rsvOf r).grant = s.active.header.getD (8 + r) 0 ∧
    (t.rsvOf r).owner = tickOwner s.cyc (s.rsvOf r) (initOwner s.active.header r)
  slots : ∀ n, t.vslot n = if n ∈ s.vt.map (·.1) then (s.vslot n).snapped (s.folio.number + 1).toNat else s.vslot n

/-- What a tick looks at before its owners and pages change is what the state before it holds. -/
theorem State.begun_active {s u : State} (h : u.tickView = s.begun.tickView) : u.active = s.active := by
  have hrul : u.rul = s.rul := (State.of_view (·.rul) h fun _ => rfl).trans State.begun_rul
  have hslot : u.folio.actSlot = s.folio.actSlot :=
    (State.of_view (·.folio.actSlot) h fun _ => rfl).trans State.begun_actSlot
  rw [State.active, State.active, State.slotOf, State.slotOf, hrul, hslot]

/-- Owners and grants, and then pages. -/
theorem State.PlainTick.snapshot_ends {s u : State} (hs : s.PlainTick) (h : u.tickView = s.begun.tickView) :
    s.TickEnds u.resetOwners.snapshotNew ∧ u.resetOwners.snapshotNew.snapView = u.resetOwners.snapView := by
  obtain ⟨hown, howner⟩ := State.resetOwners_spec u
  have hpages : u.resetOwners.hif.qps = [] ∧ u.resetOwners.feed.descs = [] ∧ u.resetOwners.feed.dropNext = [] := by
    have hhif : u.resetOwners.hif = s.hif := (State.of_view (·.hif) hown fun _ => rfl).trans
      ((State.of_view (·.hif) h fun _ => rfl).trans State.begun_hif)
    have hdescs : u.resetOwners.feed.descs = s.begun.feed.descs :=
      (State.of_view (·.feed.descs) hown fun _ => rfl).trans (State.of_view (·.feed.descs) h fun _ => rfl)
    have hdrop : u.resetOwners.feed.dropNext = s.begun.feed.dropNext :=
      (State.of_view (·.feed.dropNext) hown fun _ => rfl).trans (State.of_view (·.feed.dropNext) h fun _ => rfl)
    rw [hhif, hdescs, hdrop, State.begun_feed]
    exact ⟨hs.qps, hs.descs, hs.drop⟩
  obtain ⟨hqps, hdescs, hdrop⟩ := hpages
  have hvt : u.resetOwners.vt = s.vt := (State.of_view (·.vt) hown fun _ => rfl).trans
    ((State.of_view (·.vt) h fun _ => rfl).trans State.begun_vt)
  have hnum : u.resetOwners.folio.number = s.folio.number + 1 := (State.of_view (·.folio.number) hown fun _ => rfl).trans
    ((State.of_view (·.folio.number) h fun _ => rfl).trans State.begun_number)
  have hcyc : u.cyc = s.cyc := (State.of_view (·.cyc) h fun _ => rfl).trans State.begun_cyc
  have hrsv : u.rsv = s.rsv := (State.of_view (·.rsv) h fun _ => rfl).trans State.begun_rsv
  obtain ⟨hsnap, hslots⟩ := State.snapshotNew_spec hqps hdescs hdrop (by rw [hvt]; exact hs.keys)
  refine ⟨⟨?rest, fun r hr => ?rsv, fun n => ?slots⟩, hsnap⟩
  case rest =>
    exact (State.restView_of_snapView hsnap).trans ((State.restView_of_ownView hown).trans (State.restView_of_tickView h))
  case rsv =>
    have hsame : u.resetOwners.snapshotNew.rsvOf r = u.resetOwners.rsvOf r :=
      State.of_view (·.rsvOf r) hsnap fun _ => rfl
    have howned := howner r hr
    rw [State.begun_active h, hcyc, State.rsvOf, State.rsvOf, hrsv] at howned
    rw [hsame]
    exact howned
  case slots =>
    rw [hslots, hvt, State.folio16, hnum, VSlot.snapped_mod, State.vslot, State.vslot, hvt]

/-- A plain tick, from its stages. -/
theorem State.PlainTick.beginFolio_ends {s : State} (hs : s.PlainTick) : s.TickEnds s.beginFolio := by
  have hclosed := State.closeFolio_tickView hs.runs hs.wins hs.qps hs.descs hs.macs hs.cans
  have hwait : s.closeFolio.huv.waiting = [] := (State.of_view (·.huv.waiting) hclosed fun _ => rfl).trans hs.waiting
  have hbegun := State.begin_ticking hclosed hs.counted hs.sw hs.trc
  rw [State.beginFolio_running hs.running hs.rxq hwait, State.beginAt]
  obtain ⟨⟨hrest, hrsv, hslots⟩, -⟩ := hs.snapshot_ends hbegun
  generalize State.snapshotNew _ = u at hrest hrsv hslots ⊢
  have htrc : u.trc = {} := (State.of_view (·.trc) hrest fun _ => rfl).trans (State.begun_trc.trans hs.trc)
  have hshed : u.folio.shedDue = [] :=
    (State.of_view (·.folio.shedDue) hrest fun _ => rfl).trans (State.begun_shedDue.trans hs.shed)
  have hwaiting : u.huv.waiting = [] :=
    (State.of_view (·.huv.waiting) hrest fun _ => rfl).trans ((congrArg Huv.waiting State.begun_huv).trans hs.waiting)
  have hend := State.endTick_tickView (old := s.folio.number.toNat) htrc hshed hwaiting
  refine ⟨(State.restView_of_tickView hend).trans hrest, fun r hr => ?_, fun n => ?_⟩
  · rw [State.of_view (·.rsvOf r) hend fun _ => rfl]
    exact hrsv r hr
  · rw [State.of_view (·.vslot n) hend fun _ => rfl]
    exact hslots n

theorem State.PlainTick.exec_folioTick {s : State} (hs : s.PlainTick) : exec .folioTick s = .next s.beginFolio := by
  have hstop : s.stopDue = none := by
    rw [State.stopDue, hs.waiting]
    rfl
  have hexec : exec .folioTick s = execFolioTick s := rfl
  rw [hexec, execFolioTick, guarded_of_due hs.due, hstop]

theorem VSlot.snapped_drafted {v : VSlot} {n : Nat} (hkind : v.kind = .input) (hvalid : v.valid = true) (hst : v.st = .drafted) :
    v.snapped n = { v.swap n with held := false } := by
  rw [VSlot.snapped, hkind, hvalid, if_pos (by decide), if_pos hst]

theorem VSlot.snapped_of_other {v : VSlot} {n : Nat} (hkind : v.kind ≠ .input) : v.snapped n = v := by
  rw [VSlot.snapped, decide_eq_false hkind]
  rfl

theorem State.begun_folio {s : State} : s.begun.folio = s.folio.begun s.thisTick s.cyc := by rw [State.begun]

theorem State.begun_mem {s : State} : s.begun.mem = s.mem := by rw [State.begun]

theorem State.begun_pending {s : State} : s.begun.pending = s.pending := by rw [State.begun]

/-- The folio registers of the new folio that later stages of a tick leave. -/
theorem State.TickEnds.of_folio {s t : State} (h : s.TickEnds t) {α : Type} (g : Folio → α)
    (hg : ∀ u : State, g u.restView.folio = g u.folio) : g t.folio = g (s.folio.begun s.thisTick s.cyc) :=
  (State.of_view (g ·.folio) h.rest hg).trans (congrArg g State.begun_folio)

/-- Time, number and length of the folio. -/
theorem State.TickEnds.clock {s t : State} (h : s.TickEnds t) :
    t.folio.tickTime = BitVec.ofNat 64 s.thisTick ∧ t.folio.tickCyc = s.cyc ∧ t.folio.number = s.folio.number + 1 ∧
      t.folio.lastLen = s.cyc - s.folio.tickCyc ∧ t.folio.minLen = min s.folio.minLen (s.cyc - s.folio.tickCyc) := by
  rw [h.of_folio (·.tickTime) fun _ => rfl, h.of_folio (·.tickCyc) fun _ => rfl, h.of_folio (·.number) fun _ => rfl,
    h.of_folio (·.lastLen) fun _ => rfl, h.of_folio (·.minLen) fun _ => rfl]
  simp only [Folio.begun, Folio.stamped, Folio.measured, Folio.closed, and_self]

/-- The lists of the folio, and the ruling that runs. -/
theorem State.TickEnds.lists {s t : State} (h : s.TickEnds t) :
    t.folio.wins = [] ∧ t.folio.armed = [] ∧ t.folio.spent = [] ∧ t.folio.handed = [] ∧
      t.folio.actSlot = s.folio.actSlot := by
  rw [h.of_folio (·.wins) fun _ => rfl, h.of_folio (·.armed) fun _ => rfl, h.of_folio (·.spent) fun _ => rfl,
    h.of_folio (·.handed) fun _ => rfl, h.of_folio (·.actSlot) fun _ => rfl]
  simp only [Folio.begun, Folio.stamped, Folio.measured, Folio.closed, and_self]

/-- An INPUT page that was drafted is swapped. -/
theorem State.TickEnds.input {s t : State} (h : s.TickEnds t) {n : Nat} (hkind : (s.vslot n).kind = .input)
    (hvalid : (s.vslot n).valid = true) (hst : (s.vslot n).st = .drafted) :
    t.vslot n = { (s.vslot n).swap (s.folio.number + 1).toNat with held := false } := by
  have hmem : n ∈ s.vt.map (·.1) := Table.mem_keys_of_get (d := fun _ => ({} : VSlot)) fun hd => by
    rw [State.vslot, hd] at hvalid
    exact Bool.false_ne_true hvalid
  rw [h.slots, if_pos hmem, VSlot.snapped_drafted hkind hvalid hst]

/-- Settles O31: the stages of the tick in their order; those that the statement does not speak of leave the rest of the
state as it is. -/
theorem folioTickCompletes : Obligations.FolioTickCompletes := by
  intro s hdue hrun hcount hruns hwait hqps hdescs hdrop hshed hsw htrc hkeys hrxq hwins hmacs hcans
  have hs : s.PlainTick := ⟨hdue, hrun, hcount, hruns, hwait, hqps, hdescs, hdrop, hshed, hsw, htrc, hkeys, hrxq, hwins,
    hmacs, hcans⟩
  have h := hs.beginFolio_ends
  obtain ⟨htime, hcyc, hnum, hlast, hmin⟩ := h.clock
  obtain ⟨hws, harmed, hspent, hhanded, hact⟩ := h.lists
  have hmem : s.beginFolio.mem = s.mem := (State.of_view (·.mem) h.rest fun _ => rfl).trans State.begun_mem
  have hpend : s.beginFolio.pending = s.pending := (State.of_view (·.pending) h.rest fun _ => rfl).trans State.begun_pending
  refine ⟨s.beginFolio, hs.exec_folioTick, hmem, hpend, htime, hcyc, hnum, hlast, hmin, hws, harmed, hspent, hhanded, hact,
    h.rsv, fun n hkind hvalid hst => h.input hkind hvalid hst, fun n hkind => ?_⟩
  rw [h.slots, VSlot.snapped_of_other hkind, ite_self]

end Sys2Proof.Machine
end

section
/-! ### The queues of a lost link (R342) -/

namespace Sys2Proof.Machine

/-- A queue out of service, its messages counted as lost. -/
def Queue.dropped (c : Queue) : Queue :=
  { c with w2 := setBit c.w2 0 false, msgs := [], lost := min 0xFFFFFFFF (c.lost + c.msgs.length) }

theorem setBit_false_setBit_false (w : Word) : setBit (setBit w 0 false) 0 false = setBit w 0 false := by
  have h (v : Word) : setBit v 0 false = v &&& ~~~ maskOf 0 1 := BitVec.or_zero
  rw [h, h, BitVec.and_assoc, BitVec.and_self]

theorem Queue.dropped_dropped (c : Queue) : c.dropped.dropped = c.dropped := by
  have hlost : min 0xFFFFFFFF (min 0xFFFFFFFF (c.lost + c.msgs.length) + 0) = min 0xFFFFFFFF (c.lost + c.msgs.length) := by
    omega
  simp only [Queue.dropped, setBit_false_setBit_false, List.length_nil, hlost]

/-- The turn of `loseQueues` for queue `q`. -/
def State.loseTurn (q : Nat) (s : State) : State :=
  (s.loseQueue q).modQueue q (fun c => { c with w2 := setBit c.w2 0 false })

/-- What losing a queue's messages does to descriptors and drafts. -/
def State.loseMessages (s : State) (c : Queue) : State :=
  if c.toHost then s.forAll c.msgs (fun m t => t.setDescStatus m.desc stNotSent)
  else { s with feed := { s.feed with dropNext := s.feed.dropNext ++ c.msgs.flatMap (·.pages) } }

theorem State.setDescStatus_hif {s : State} {d st : Nat} : (s.setDescStatus d st).hif = s.hif := rfl

theorem State.loseMessages_hif {s : State} {c : Queue} : (s.loseMessages c).hif = s.hif := by
  rw [State.loseMessages]
  split
  · exact State.forAll_eq State.hif fun _ _ => State.setDescStatus_hif
  · rfl

/-- The state without what the loss of the queues changes. -/
def State.loseView (s : State) : State :=
  { s with hif := { s.hif with qps := [], cntLost := 0 }, feed := { s.feed with descs := [], dropNext := [] } }

theorem State.setDescStatus_loseView {s : State} {d st : Nat} : (s.setDescStatus d st).loseView = s.loseView := rfl

theorem State.loseMessages_loseView {s : State} {c : Queue} : (s.loseMessages c).loseView = s.loseView := by
  rw [State.loseMessages]
  split
  · exact State.forAll_eq State.loseView fun _ _ => State.setDescStatus_loseView
  · rfl

/-- The state with the count of lost messages. -/
def State.countLost (s : State) (n : Nat) : State :=
  { s with hif := { s.hif with cntLost := min 0xFFFFFFFF (s.hif.cntLost + n) } }

theorem State.loseQueue_eq {s : State} {q : Nat} :
    s.loseQueue q = ((s.loseMessages (s.queue q)).countLost (s.queue q).msgs.length).modQueue q (fun c =>
      { c with msgs := [], lost := min 0xFFFFFFFF (c.lost + (s.queue q).msgs.length) }) := rfl

theorem State.countLost_queue {s : State} {n j : Nat} : (s.countLost n).queue j = s.queue j := rfl

theorem State.loseMessages_queue {s : State} {c : Queue} {j : Nat} : (s.loseMessages c).queue j = s.queue j := by
  rw [State.queue, State.loseMessages_hif, State.queue]

theorem State.loseTurn_same {s : State} {q : Nat} : (s.loseTurn q).queue q = (s.queue q).dropped := by
  rw [State.loseTurn, State.modQueue_queue_same, State.loseQueue_eq, State.modQueue_queue_same, State.countLost_queue,
    State.loseMessages_queue]
  rfl

theorem State.loseTurn_other {s : State} {q j : Nat} (h : j ≠ q) : (s.loseTurn q).queue j = s.queue j := by
  rw [State.loseTurn, State.modQueue_queue_other h, State.loseQueue_eq, State.modQueue_queue_other h, State.countLost_queue,
    State.loseMessages_queue]

theorem State.modQueue_loseView {s : State} {q : Nat} {f : Queue → Queue} : (s.modQueue q f).loseView = s.loseView := rfl

theorem State.countLost_loseView {s : State} {n : Nat} : (s.countLost n).loseView = s.loseView := rfl

theorem State.loseTurn_loseView {s : State} {q : Nat} : (s.loseTurn q).loseView = s.loseView := by
  rw [State.loseTurn, State.modQueue_loseView, State.loseQueue_eq, State.modQueue_loseView, State.countLost_loseView,
    State.loseMessages_loseView]

theorem State.countLost_feed {s : State} {n : Nat} : (s.countLost n).feed = s.feed := rfl

theorem State.loseTurn_feed {s : State} {q : Nat} : (s.loseTurn q).feed = (s.loseMessages (s.queue q)).feed := by
  rw [State.loseTurn, State.modQueue_feed, State.loseQueue_eq, State.modQueue_feed, State.countLost_feed]

theorem State.loseMessages_dropNext {s : State} {c : Queue} : (s.loseMessages c).feed.dropNext =
    if c.toHost = true then s.feed.dropNext else s.feed.dropNext ++ c.msgs.flatMap (·.pages) := by
  rw [State.loseMessages]
  by_cases h : c.toHost = true
  · rw [if_pos h, if_pos h]
    exact State.forAll_eq (fun t : State => t.feed.dropNext) fun _ _ => rfl
  · rw [if_neg h, if_neg h]

theorem State.mem_dropNext_loseTurn {s : State} {q p : Nat} (h : p ∈ s.feed.dropNext) : p ∈ (s.loseTurn q).feed.dropNext := by
  rw [State.loseTurn_feed, State.loseMessages_dropNext]
  split
  · exact h
  · exact List.mem_append_left _ h

/-- The drafts of a queue's unfinished FETCH messages are discarded at the next tick. -/
theorem State.mem_dropNext_loseQueues {l : List Nat} {s : State} {q p : Nat} {m : QMsg} (hq : q ∈ l) (hm : m ∈ (s.queue q).msgs)
    (hto : (s.queue q).toHost = false) (hp : p ∈ m.pages) : p ∈ (s.forAll l State.loseTurn).feed.dropNext := by
  induction l generalizing s with
  | nil => exact absurd hq List.not_mem_nil
  | cons a l ih =>
    by_cases ha : q = a
    · subst ha
      refine State.forAll_of_turn (l := l) (s := s.loseTurn q) (P := fun t => p ∈ t.feed.dropNext) (fun _ _ h => State.mem_dropNext_loseTurn h) ?_
      rw [State.loseTurn_feed, State.loseMessages_dropNext, hto, if_neg Bool.false_ne_true]
      exact List.mem_append_right _ (List.mem_flatMap.mpr ⟨m, hm, hp⟩)
    · have hqueue : (s.loseTurn a).queue q = s.queue q := State.loseTurn_other ha
      exact ih ((List.mem_cons.mp hq).resolve_left ha) (by rw [hqueue]; exact hm) (by rw [hqueue]; exact hto)

theorem State.loseTurns_queue {l : List Nat} {s : State} {q : Nat} :
    (s.forAll l State.loseTurn).queue q = if q ∈ l then (s.queue q).dropped else s.queue q := by
  induction l generalizing s with
  | nil => rfl
  | cons a l ih =>
    refine (ih (s := s.loseTurn a)).trans ?_
    by_cases ha : q = a
    · subst ha
      rw [State.loseTurn_same, Queue.dropped_dropped, ite_self, if_pos List.mem_cons_self]
    · rw [State.loseTurn_other ha]
      exact if_congr (by simp [ha]) rfl rfl

theorem Queue.default_dropped : ({} : Queue).dropped = {} := by decide

theorem State.loseQueues_queue {s : State} {q : Nat} : s.loseQueues.queue q = (s.queue q).dropped := by
  refine (State.loseTurns_queue (l := s.hif.qps.map (·.1)) (s := s)).trans ?_
  by_cases hmem : q ∈ s.hif.qps.map (·.1)
  · exact if_pos hmem
  · have hdef : s.queue q = {} := by
      by_contra h
      exact hmem (Table.mem_keys_of_get h)
    rw [if_neg hmem, hdef, Queue.default_dropped]

/-- What the loss of the link leaves of a state: its queues are out of service, and nothing else changes outside them. -/
structure State.Lost (b t : State) : Prop where
  queues : ∀ q, t.queue q = { b.queue q with
    w2 := setBit (b.queue q).w2 0 false
    msgs := [], lost := min 0xFFFFFFFF ((b.queue q).lost + (b.queue q).msgs.length) }
  drafts : ∀ q m, m ∈ (b.queue q).msgs → (b.queue q).toHost = false → ∀ p ∈ m.pages, p ∈ t.feed.dropNext
  rest : { t with hif := b.hif, feed := { t.feed with descs := b.feed.descs, dropNext := b.feed.dropNext } } = b

theorem State.loseQueues_loseView {s : State} : s.loseQueues.loseView = s.loseView :=
  State.forAll_eq State.loseView fun _ _ => State.loseTurn_loseView

theorem State.loseQueues_drafts {s : State} {q p : Nat} {m : QMsg} (hm : m ∈ (s.queue q).msgs)
    (hto : (s.queue q).toHost = false) (hp : p ∈ m.pages) : p ∈ s.loseQueues.feed.dropNext := by
  have hmem : q ∈ s.hif.qps.map (·.1) := Table.mem_keys_of_get (d := fun _ => ({} : Queue)) fun h => by
    rw [State.queue, h] at hm
    exact absurd hm List.not_mem_nil
  exact State.mem_dropNext_loseQueues hmem hm hto hp

/-- The rest of a state whose view has not changed. -/
theorem State.rest_of_loseView {b t : State} (h : t.loseView = b.loseView) :
    { t with hif := b.hif, feed := { t.feed with descs := b.feed.descs, dropNext := b.feed.dropNext } } = b :=
  congrArg (fun u : State => { u with
    hif := b.hif, feed := { u.feed with descs := b.feed.descs, dropNext := b.feed.dropNext } }) h

theorem State.hif_of_loseView {b t : State} (h : t.loseView = b.loseView) :
    { t.hif with qps := b.hif.qps, cntLost := b.hif.cntLost } = b.hif :=
  congrArg (fun u : State => { u.hif with qps := b.hif.qps, cntLost := b.hif.cntLost }) h

theorem State.loseQueues_lost (b : State) : b.Lost b.loseQueues :=
  ⟨fun _ => State.loseQueues_queue, fun _ _ hm hto _ hp => State.loseQueues_drafts hm hto hp,
    State.rest_of_loseView State.loseQueues_loseView⟩

/-- The loss speaks of no register of the host interface but the queues. -/
theorem State.Lost.withHif {b t : State} (h : b.Lost t) {x : Hif} (hx : x.qps = t.hif.qps) : b.Lost { t with hif := x } := by
  have hqueue (q : Nat) : ({ t with hif := x } : State).queue q = t.queue q := by rw [State.queue, State.queue, hx]
  obtain ⟨hq, hd, hrest⟩ := h
  exact ⟨fun q => (hqueue q).trans (hq q), hd, hrest⟩

end Sys2Proof.Machine
end

section
/-! ### The link, the power states and the configuration space (R322 to R325, R342) -/

namespace Sys2Proof.Machine

/-- The interface registers after the loss of the link. -/
def Hif.linkOff (h : Hif) (perst : Bool) : Hif :=
  { h.configReset with up := false, speed := 0, width := 0, flit := false, event := h.event ||| (if perst = true then 0x11 else 0x01) }

/-- The state after the loss of the link, before the event is judged. -/
def State.unlinked (b : State) (perst : Bool) : State :=
  { b.loseQueues with hif := b.loseQueues.hif.linkOff perst }

theorem State.linkLost_eq {s : State} {perst : Bool} :
    s.linkLost perst = (s.breakWindow.unlinked perst).raise { cls := 0x60 } := rfl

theorem Hif.linkOff_rest {h k : Hif} {perst : Bool} (hrest : { h with qps := k.qps, cntLost := k.cntLost } = k) :
    { h.linkOff perst with qps := k.qps, cntLost := k.cntLost } = k.linkOff perst :=
  congrArg (fun x : Hif => x.linkOff perst) hrest

theorem State.unlinked_lost (b : State) (perst : Bool) : b.Lost (b.unlinked perst) :=
  b.loseQueues_lost.withHif rfl

theorem State.unlinked_hif (b : State) (perst : Bool) :
    { (b.unlinked perst).hif with qps := b.hif.qps, cntLost := b.hif.cntLost } = b.hif.linkOff perst :=
  Hif.linkOff_rest (State.hif_of_loseView State.loseQueues_loseView)

section events
variable {s : State}

theorem exec_linkUp {speed : BitVec 3} {width : BitVec 5} {flit : Bool} (hpow : s.powered = true) (hpcie : s.pcieOn = true)
    (hup : s.hif.up = false) (hoffer : linkOffered speed.toNat width.toNat = true) :
    exec (.linkUp speed width flit) s = .next { s with hif := { s.hif with
      up := true, speed := speed.toNat, width := width.toNat, flit := flit, event := s.hif.event ||| 2 } } :=
  exec_of_due (c := .linkUp speed width flit) (s := s) (f := fun s => { s with hif := { s.hif with
    up := true, speed := speed.toNat, width := width.toNat, flit := flit, event := s.hif.event ||| 2 } }) rfl
    (by rw [hpow, hpcie, hup, hoffer]; rfl)

theorem exec_linkRetrain {speed : BitVec 3} {width : BitVec 5} (hpow : s.powered = true) (hup : s.hif.up = true)
    (hoffer : linkOffered speed.toNat width.toNat = true) :
    exec (.linkRetrain speed width) s =
      .next { s with hif := { s.hif with speed := speed.toNat, width := width.toNat } } :=
  exec_of_due (c := .linkRetrain speed width) (s := s)
    (f := fun s => { s with hif := { s.hif with speed := speed.toNat, width := width.toNat } }) rfl
    (by rw [hpow, hup, hoffer]; rfl)

theorem linkOffered_of {speed width : Nat} (h1 : 1 ≤ speed) (h6 : speed ≤ 6) (hw : width ∈ [1, 2, 4, 8, 16]) :
    linkOffered speed width = true := by
  rw [linkOffered, decide_eq_true h1, decide_eq_true h6, List.contains_iff_mem.mpr hw]
  rfl

theorem exec_linkDown_off (hpow : s.powered = true) (hup : s.hif.up = false) :
    exec (.linkDown true) s = .next { s with hif := { s.hif with event := s.hif.event ||| 0x10 } } := by
  have hexec : exec (.linkDown true) s = execLinkDown true s := rfl
  rw [hexec, execLinkDown, guarded_of_due (by rw [hpow, hup]; rfl), hup]
  rfl

theorem exec_linkDown_up (perst : Bool) (hpow : s.powered = true) (hup : s.hif.up = true) :
    exec (.linkDown perst) s = .next (s.linkLost perst) := by
  have hexec : exec (.linkDown perst) s = execLinkDown perst s := rfl
  rw [hexec, execLinkDown, guarded_of_due (by rw [hpow, hup]; rfl), hup]
  rfl

theorem exec_pcieClockLoss (hrel : s.released = true) (hpow : s.powered = true) (hup : s.hif.up = true) :
    exec .pcieClockLoss s = exec (.linkDown false) s := by
  rw [exec_linkDown_up false hpow hup]
  exact exec_of_due (c := .pcieClockLoss) (s := s) (f := fun s => s.linkLost false) rfl (by rw [hrel, hup]; rfl)

theorem exec_d3hotWrite (hpow : s.powered = true) (hup : s.hif.up = true) (hd3 : s.hif.d3 = false) :
    exec .d3hotWrite s = .next s.enterD3 :=
  exec_of_due (c := .d3hotWrite) (s := s) (f := State.enterD3) rfl (by rw [hpow, hup, hd3]; rfl)

/-- The state with the function in D3hot. -/
def State.inD3 (s : State) : State := { s with hif := { s.hif with d3 := true } }

theorem State.enterD3_idle (hrun : s.breakWindow.dev ≠ .run) (hdebug : s.breakWindow.dev ≠ .debug) :
    s.enterD3 = s.breakWindow.inD3 := by
  refine if_neg ?_
  rw [decide_eq_false hrun, decide_eq_false hdebug]
  exact Bool.false_ne_true

/-- The state that enters D3hot in RUN or DEBUG, before the event is judged. -/
def State.suspended (b : State) : State :=
  { b.inD3.loseQueues with hif := { b.inD3.loseQueues.hif with event := b.inD3.loseQueues.hif.event ||| 8 } }

theorem State.enterD3_active (h : s.breakWindow.dev = .run ∨ s.breakWindow.dev = .debug) :
    s.enterD3 = s.breakWindow.suspended.raise { cls := 0x62 } := by
  refine if_pos ?_
  rcases h with h | h <;> simp [h]

theorem State.suspended_hif (b : State) :
    { b.suspended.hif with qps := b.hif.qps, cntLost := b.hif.cntLost } =
      { b.hif with d3 := true, event := b.hif.event ||| 8 } :=
  congrArg (fun x : Hif => { x with event := x.event ||| 8 })
    (State.hif_of_loseView (b := b.inD3) (t := b.inD3.loseQueues) State.loseQueues_loseView)

/-- What is lost in D3hot is what was there before. -/
theorem State.suspended_lost (b : State) : b.Lost b.suspended := by
  obtain ⟨hq, hd, hrest⟩ := b.inD3.loseQueues_lost.withHif (x := b.suspended.hif) rfl
  exact ⟨hq, hd, (congrArg (fun u : State => { u with hif := b.hif }) hrest :)⟩

theorem exec_d0Write (hpow : s.powered = true) (hup : s.hif.up = true) (hd3 : s.hif.d3 = true) :
    exec .d0Write s = .next { s with hif := { s.hif with d3 := false, event := s.hif.event ||| 2 } } :=
  exec_of_due (c := .d0Write) (s := s) (f := fun s => { s with hif := { s.hif with d3 := false, event := s.hif.event ||| 2 } })
    rfl (by rw [hpow, hup, hd3]; rfl)

/-! #### The configuration space -/

theorem State.flushMsix_of_idle (h : ∀ v, (s.msixOf v).pend = false) : s.flushMsix = s :=
  State.forAll_same (f := State.flushTurn) fun _ _ => State.flushTurn_idle (h _)

theorem Hif.config_msix {h : Hif} (w : ConfigWrite) : (h.config w).msix = h.msix := by
  cases w <;> rfl

theorem exec_configWrite (w : ConfigWrite) (hpow : s.powered = true) (hup : s.hif.up = true)
    (hidle : ∀ v, (s.msixOf v).pend = false) : exec (.configWrite w) s = .next { s with hif := s.hif.config w } := by
  refine (exec_of_due (c := .configWrite w) (s := s) (f := fun s => { s with hif := s.hif.config w }.flushMsix) rfl
    (by rw [hpow, hup]; rfl)).trans (congrArg Host.Outcome.next (State.flushMsix_of_idle fun v => ?_))
  rw [State.msixOf, Hif.config_msix]
  exact hidle v

theorem Table.get_set {α : Type} [DecidableEq α] (d : Nat → α) (t : Table α) (i j : Nat) (x : α) :
    Table.get d (Table.set d t i x) j = if j = i then x else Table.get d t j := by
  by_cases h : j = i
  · rw [if_pos h, h, Table.get_set_same]
  · rw [if_neg h, Table.get_set_other _ _ _ h]

end events

end Sys2Proof.Machine
end

section
/-! ### IDE and DOE (R344, R345) -/

namespace Sys2Proof.Machine

/-- Selective IDE stream `i` alone differs, and is `e`. -/
def State.StreamPut (s t : State) (i : Nat) (e : Ide) : Prop :=
  { t with hif := { t.hif with ide := s.hif.ide } } = s ∧ t.ideOf i = e ∧ ∀ j, j ≠ i → t.ideOf j = s.ideOf j

theorem State.modIde_put (s : State) (i : Nat) (f : Ide → Ide) : s.StreamPut (s.modIde i f) i (f (s.ideOf i)) :=
  ⟨rfl, Table.get_set_same _ _ _ _, fun _ hj => Table.get_set_other _ _ _ hj⟩

section streams
variable {s : State}

theorem exec_ideCheckFail {i : Fin 4} (hpow : s.powered = true) (hup : s.hif.up = true) (hsec : s.secOn = true)
    (hen : (s.ideOf i.val).enabled = true) : exec (.ideCheckFail i) s =
      .next ({ s.noteAer .ideCheck with hif := { (s.noteAer .ideCheck).hif with
        event := s.hif.event ||| 0x20 } }.raise { cls := 0x66 }) :=
  exec_of_due (c := .ideCheckFail i) (s := s) (f := fun s => { s.noteAer .ideCheck with hif := { (s.noteAer .ideCheck).hif with
    event := s.hif.event ||| 0x20 } }.raise { cls := 0x66 }) rfl (by rw [hpow, hup, hsec, hen]; rfl)

theorem exec_ideKeySetGo {i : Fin 4} (hpow : s.powered = true) (hup : s.hif.up = true) (hsec : s.secOn = true)
    (hgo : (s.ideOf i.val).go = true) : exec (.ideKeySetGo i) s = .next (s.modIde i.val Ide.takeKey) :=
  exec_of_due (c := .ideKeySetGo i) (s := s) (f := fun s => s.modIde i.val Ide.takeKey) rfl (by rw [hpow, hup, hsec, hgo]; rfl)

theorem Ide.takeKey_staged {e : Ide} {k : Bool} (h : e.staged = some k) :
    e.takeKey = { e with enabled := true, keySet := k, staged := none, go := false } := by
  rw [Ide.takeKey, h]

end streams

/-! #### The DOE mailbox -/

/-- The answer stands in the DOE mailbox. -/
def State.doePut (t : State) (r : DoeReq) (ok : Bool) (b : DoeBody) : State :=
  { t with hif := { t.hif with doe := some ⟨r, ok, b⟩ } }

/-- The state with an SPDM session. -/
def State.withSession (s : State) (n : Nat) : State := { s with hif := { s.hif with session := n } }

theorem State.withSession_self (s : State) : s.withSession s.hif.session = s := rfl

section doe
variable {s : State}

theorem exec_doeRequest {r : DoeReq} (hup : s.doeUp = true) : exec (.doeRequest r) s = .next (s.doeAnswer r) :=
  exec_of_due (c := .doeRequest r) (s := s) (f := fun s => s.doeAnswer r) rfl hup

theorem State.doeUp_of (hpow : s.powered = true) (hlink : s.hif.up = true) (hsec : s.secOn = true) (hdev : s.dev ≠ .fill)
    (hchecked : s.huv.checked = true) : s.doeUp = true := by
  rw [State.doeUp, hpow, decide_eq_true hdev, hchecked, hlink, hsec]
  rfl

/-- A discovery request is answered with the type of its index, where there is one. -/
theorem State.doeAnswer_discovery (s : State) (i : BitVec 8) : s.doeAnswer (.discovery i) =
    if i.toNat < 4 then s.doePut (.discovery i) true
      (.types ([DoeType.discovery, .cma, .securedCma, .ideKm].getD i.toNat .discovery) ((i.toNat + 1) % 4))
    else s.doePut (.discovery i) false .none := by
  by_cases h : i.toNat < 4
  · rw [if_pos h, State.doeAnswer, List.getD_eq_getElem?_getD, ← doeTypes, List.getElem?_eq_getElem (show i.toNat < doeTypes.length from h)]
    rfl
  · rw [if_neg h, State.doeAnswer, List.getElem?_eq_none (show doeTypes.length ≤ i.toNat from Nat.le_of_not_lt h)]
    rfl

theorem State.doeAnswer_spdm_ok {code p : BitVec 8} (h : code.toNat ∈ spdmCodes) : s.doeAnswer (.spdm code p) =
    (s.withSession (sessionAfter s.hif.session code.toNat)).doePut (.spdm code p) true (s.spdmBody code.toNat p.toNat) := by
  rw [State.doeAnswer]
  exact if_pos (List.contains_iff_mem.mpr h)

theorem State.doeAnswer_spdm_refused {code p : BitVec 8} (h : code.toNat ∉ spdmCodes) :
    s.doeAnswer (.spdm code p) = s.doePut (.spdm code p) false .none := by
  rw [State.doeAnswer]
  exact if_neg fun hc => h (List.contains_iff_mem.mp hc)

theorem State.doeAnswer_secured_ok {code p : BitVec 8} (h : code.toNat ∈ spdmCodes) (hs : 0 < s.hif.session) :
    s.doeAnswer (.securedSpdm code p) =
      (s.withSession (sessionAfter s.hif.session code.toNat)).doePut (.securedSpdm code p) true
        (s.spdmBody code.toNat p.toNat) := by
  rw [State.doeAnswer]
  refine if_pos ?_
  rw [List.contains_iff_mem.mpr h, decide_eq_true hs]
  rfl

theorem State.doeAnswer_secured_refused {code p : BitVec 8} (hs : s.hif.session = 0) :
    s.doeAnswer (.securedSpdm code p) = s.doePut (.securedSpdm code p) false .none := by
  rw [State.doeAnswer, hs]
  exact if_neg (by rw [decide_eq_false (Nat.lt_irrefl 0), Bool.and_false]; exact Bool.false_ne_true)

theorem State.doeAnswer_ideKm_ok {code stream : BitVec 8} {k : Bool} (hs : s.hif.session = 2) (hi : stream.toNat < 4) :
    s.doeAnswer (.ideKm code stream k) =
      (s.modIde stream.toNat (fun e => e.km code.toNat k)).doePut (.ideKm code stream k) true .none := by
  have hok : (decide (s.hif.session = 2) && decide (stream.toNat < 4)) = true := by
    rw [decide_eq_true hs, decide_eq_true hi]; rfl
  simp only [State.doeAnswer, hok, if_true]
  rfl

theorem State.doeAnswer_ideKm_refused {code stream : BitVec 8} {k : Bool} (h : s.hif.session ≠ 2 ∨ 4 ≤ stream.toNat) :
    s.doeAnswer (.ideKm code stream k) = s.doePut (.ideKm code stream k) false .none := by
  have hok : (decide (s.hif.session = 2) && decide (stream.toNat < 4)) = false := by
    rcases h with h | h
    · rw [decide_eq_false h, Bool.false_and]
    · rw [decide_eq_false (Nat.not_lt.mpr h), Bool.and_false]
  simp only [State.doeAnswer, hok, Bool.false_eq_true, if_false]
  rfl

/-- The measurement blocks by their index. -/
theorem State.measurement_eq (s : State) (p : BitVec 8) : s.measurement p.toNat =
    (if p = 1 then Config.romHash else if p = 2 then s.huv.fwHash else if p = 3 then Config.fuses.keyHash
      else if p = 4 then BitVec.ofNat 384 s.cfgDigest
      else if p = 5 then BitVec.ofNat 384 (s.devCode + 16 * s.folio.actSlot) else 0) := by
  by_cases h1 : p = 1
  · subst h1; rfl
  by_cases h2 : p = 2
  · subst h2; rfl
  by_cases h3 : p = 3
  · subst h3; rfl
  by_cases h4 : p = 4
  · subst h4; rfl
  by_cases h5 : p = 5
  · subst h5; rfl
  rw [if_neg h1, if_neg h2, if_neg h3, if_neg h4, if_neg h5]
  have hne (n : Nat) (hn : n < 256) (h : p ≠ BitVec.ofNat 8 n) : p.toNat ≠ n := fun he =>
    h (BitVec.eq_of_toNat_eq (by rw [he, BitVec.toNat_ofNat]; omega))
  unfold State.measurement
  split
  · next h => exact absurd h (hne 1 (by decide) h1)
  · next h => exact absurd h (hne 2 (by decide) h2)
  · next h => exact absurd h (hne 3 (by decide) h3)
  · next h => exact absurd h (hne 4 (by decide) h4)
  · next h => exact absurd h (hne 5 (by decide) h5)
  · rfl

end doe

end Sys2Proof.Machine
end

section
namespace Sys2Proof.Machine

section answers
variable {s : State}

/-- A plain SPDM request that leaves the session is answered with its body. -/
theorem exec_doeRequest_spdm {code p : BitVec 8} (hup : s.doeUp = true) {n : Nat} {b : DoeBody} (h : code.toNat ∈ spdmCodes)
    (hn : sessionAfter s.hif.session code.toNat = n) (hb : s.spdmBody code.toNat p.toNat = b) :
    exec (.doeRequest (.spdm code p)) s = .next ((s.withSession n).doePut (.spdm code p) true b) := by
  rw [exec_doeRequest hup, State.doeAnswer_spdm_ok h, hn, hb]

theorem exec_doeRequest_secured {code p : BitVec 8} (hup : s.doeUp = true) {n : Nat} {b : DoeBody}
    (h : code.toNat ∈ spdmCodes) (hs : 0 < s.hif.session)
    (hn : sessionAfter s.hif.session code.toNat = n) (hb : s.spdmBody code.toNat p.toNat = b) :
    exec (.doeRequest (.securedSpdm code p)) s = .next ((s.withSession n).doePut (.securedSpdm code p) true b) := by
  rw [exec_doeRequest hup, State.doeAnswer_secured_ok h hs, hn, hb]

end answers

/-- The answers to plain and secured SPDM requests. -/
theorem spdm_answers {s : State} (hup : s.doeUp = true) (code p : BitVec 8) :
    let reply (t : State) (r : DoeReq) (ok : Bool) (b : DoeBody) : State :=
      { t with hif := { t.hif with doe := some ⟨r, ok, b⟩ } }
    let session (n : Nat) : State := { s with hif := { s.hif with session := n } }
    let chain := Config.certChain Config.fuses.serial
    let measure (p : BitVec 8) : BitVec 384 :=
      if p = 1 then Config.romHash else if p = 2 then s.huv.fwHash else if p = 3 then Config.fuses.keyHash
      else if p = 4 then BitVec.ofNat 384 s.cfgDigest
      else if p = 5 then BitVec.ofNat 384 (s.devCode + 16 * s.folio.actSlot) else 0
    let gives (b : DoeBody) : Prop := exec (.doeRequest (.spdm code p)) s = .next (reply s (.spdm code p) true b)
    (code.toNat ∉ spdmCodes → exec (.doeRequest (.spdm code p)) s = .next (reply s (.spdm code p) false .none)) ∧
    (code = 0xE4 → exec (.doeRequest (.spdm code p)) s = .next (reply (session 1) (.spdm code p) true .none)) ∧
    (code = 0xEC → exec (.doeRequest (.spdm code p)) s = .next (reply (session 0) (.spdm code p) true .none)) ∧
    (code = 0x84 → gives (.versions [0x12, 0x13])) ∧ (code = 0xE3 → gives (.algorithms 384 384)) ∧
    (code = 0x81 → gives (.digest (Config.sha384 chain))) ∧
    (code = 0x82 → gives (.certificate Config.fuses.serial chain)) ∧
    (code = 0x83 → gives (.signature (Config.spdmSign Config.fuses.serial (Config.sha384 chain)))) ∧
    (code = 0xE0 → gives (.measurement (measure p))) ∧
    (s.hif.session = 0 →
      exec (.doeRequest (.securedSpdm code p)) s = .next (reply s (.securedSpdm code p) false .none)) ∧
    (s.hif.session = 1 → code = 0xE5 →
      exec (.doeRequest (.securedSpdm code p)) s = .next (reply (session 2) (.securedSpdm code p) true .none)) ∧
    (0 < s.hif.session → code = 0xE0 → exec (.doeRequest (.securedSpdm code p)) s =
      .next (reply s (.securedSpdm code p) true (.measurement (measure p)))) := by
  intro reply session chain measure gives
  have hmeasure : s.spdmBody 0xE0 p.toNat = .measurement (measure p) := congrArg DoeBody.measurement (s.measurement_eq p)
  refine ⟨fun h => (exec_doeRequest hup).trans (congrArg _ (State.doeAnswer_spdm_refused h)), ?_, ?_, ?_, ?_, ?_, ?_, ?_, ?_,
    fun h => (exec_doeRequest hup).trans (congrArg _ (State.doeAnswer_secured_refused h)), ?_, ?_⟩
  · rintro rfl
    exact exec_doeRequest_spdm hup (by decide) rfl rfl
  · rintro rfl
    exact exec_doeRequest_spdm hup (by decide) rfl rfl
  · rintro rfl
    exact exec_doeRequest_spdm hup (n := s.hif.session) (by decide) rfl rfl
  · rintro rfl
    exact exec_doeRequest_spdm hup (n := s.hif.session) (by decide) rfl rfl
  · rintro rfl
    exact exec_doeRequest_spdm hup (n := s.hif.session) (by decide) rfl rfl
  · rintro rfl
    exact exec_doeRequest_spdm hup (n := s.hif.session) (by decide) rfl rfl
  · rintro rfl
    exact exec_doeRequest_spdm hup (n := s.hif.session) (by decide) rfl rfl
  · rintro rfl
    exact exec_doeRequest_spdm hup (n := s.hif.session) (by decide) rfl hmeasure
  · rintro hs rfl
    exact exec_doeRequest_secured hup (by decide) (by omega) (by rw [hs]; rfl) rfl
  · rintro hs rfl
    exact exec_doeRequest_secured hup (n := s.hif.session) (by decide) hs rfl hmeasure

/-- The effects of the configuration writes. -/
theorem configWrites {s : State} (hpow : s.powered = true) (hup : s.hif.up = true) (hidle : ∀ v, (s.msixOf v).pend = false) :
    (∀ (i : Fin 6) (v : BitVec 32), ∃ t : State, exec (.configWrite (.bar i v)) s = .next t ∧
      { t with hif := { t.hif with bars := s.hif.bars } } = s ∧
      ∀ j, Table.get (fun _ => (0 : BitVec 32)) t.hif.bars j = if j = i.val
        then v &&& (if i = 0 then 0xFFFF0000 else if i = 2 then 0xFFFE0000 else if i.val < 4 then 0xFFFFFFFF else 0)
        else Table.get (fun _ => 0) s.hif.bars j) ∧
    (∀ e, ∃ t : State, exec (.configWrite (.aerClear e)) s = .next t ∧
      { t with hif := { t.hif with aer := s.hif.aer } } = s ∧
      (∀ x, x ∈ t.hif.aer.logged ↔ x ∈ s.hif.aer.logged ∧ x ≠ e) ∧
      t.hif.aer.first = if s.hif.aer.first = some e then none else s.hif.aer.first) := by
  refine ⟨fun i v => ⟨_, exec_configWrite (.bar i v) hpow hup hidle, rfl, fun j => ?_⟩,
    fun e => ⟨_, exec_configWrite (.aerClear e) hpow hup hidle, rfl, fun x => ?_, rfl⟩⟩
  · have hmask : barMask i.val =
        (if i = 0 then 0xFFFF0000 else if i = 2 then 0xFFFE0000 else if i.val < 4 then 0xFFFFFFFF else 0) := by
      rw [barMask]
      exact if_congr (Fin.ext_iff (b := (0 : Fin 6))).symm rfl (if_congr (Fin.ext_iff (b := (2 : Fin 6))).symm rfl rfl)
    rw [← hmask]
    exact Table.get_set _ _ _ _ _
  · exact List.mem_filter.trans (and_congr_right' decide_eq_true_iff)

/-- Settles O54: what each command does to the registers of the host interface, and for the loss of the link to every
queue. -/
theorem linkAndSecurityComplete : Obligations.LinkAndSecurityComplete := by
  refine ⟨fun s hpow => ?link, fun s hpow hup hsec => ?security⟩
  case link =>
    intro b lose
    have hlose {t : State} (h : b.Lost t) : lose t := ⟨h.queues, h.drafts, h.rest⟩
    refine ⟨fun speed width flit h1 h6 hw => ⟨fun hpcie hdown => ?_, fun hup => ?_⟩, exec_linkDown_off hpow, fun hup => ?_⟩
    · exact exec_linkUp hpow hpcie hdown (linkOffered_of h1 h6 hw)
    · exact exec_linkRetrain hpow hup (linkOffered_of h1 h6 hw)
    refine ⟨fun perst => ⟨b.unlinked perst, exec_linkDown_up perst hpow hup, hlose (b.unlinked_lost perst),
        b.unlinked_hif perst⟩, fun hrel => exec_pcieClockLoss hrel hpow hup, fun hd3 hrun hdebug => ?_, fun hd3 h => ?_,
      exec_d0Write hpow hup, fun hidle => ?_⟩
    · rw [exec_d3hotWrite hpow hup hd3, State.enterD3_idle hrun hdebug]
      rfl
    · rw [exec_d3hotWrite hpow hup hd3, State.enterD3_active h]
      exact ⟨_, rfl, hlose b.suspended_lost, b.suspended_hif⟩
    · have hwrite (w : ConfigWrite) := exec_configWrite w hpow hup hidle
      obtain ⟨hbar, haer⟩ := configWrites hpow hup hidle
      refine ⟨fun x => hwrite (.busMaster x), fun x => hwrite (.memSpace x), fun x => hwrite (.ecrcGen x),
        fun x => hwrite (.ecrcCheck x), fun r => hwrite (.complTimeout r), fun x => hwrite (.msixEnable x),
        fun x => hwrite (.msixFuncMask x), hbar, fun n => hwrite (.maxPayload n), fun n => hwrite (.maxReadRequest n), haer,
        fun i x y k v w => ?_, hwrite .absentFeature⟩
      intro put
      refine ⟨⟨_, hwrite (.ideRid i x y), s.modIde_put i.val _⟩, ⟨_, hwrite (.ideAddr i k v w), ?_⟩⟩
      obtain ⟨hrest, hsame, hother⟩ := s.modIde_put i.val (fun e =>
        if k.val = 0 then { e with assoc0 := some (v.toNat, w.toNat) } else { e with assoc1 := some (v.toNat, w.toNat) })
      exact ⟨hrest, hsame.trans (if_congr (Fin.ext_iff (b := (0 : Fin 2))).symm rfl rfl), hother⟩
  case security =>
    refine ⟨fun i hen => ?_, fun i k hgo hstaged => ?_, fun hdev hchecked => ?_⟩
    · have hnoted := s.noteAer_noted .ideCheck
      exact ⟨s.noteAer .ideCheck, hnoted, exec_ideCheckFail hpow hup hsec hen⟩
    · obtain ⟨hrest, hsame, hother⟩ := s.modIde_put i.val Ide.takeKey
      exact ⟨_, exec_ideKeySetGo hpow hup hsec hgo, hsame.trans (Ide.takeKey_staged hstaged), hother, hrest⟩
    · have hdoe : s.doeUp = true := State.doeUp_of hpow hup hsec hdev hchecked
      intro reply session chain measure
      refine ⟨exec_of_due (c := .doeAbort) (s := s) (f := fun s => { s with hif := { s.hif with doe := none } }) rfl hdoe,
        fun i => (exec_doeRequest hdoe).trans (congrArg _ (s.doeAnswer_discovery i)), fun code p => spdm_answers hdoe code p,
        fun code stream k h => (exec_doeRequest hdoe).trans (congrArg _ (State.doeAnswer_ideKm_refused h)), fun i k hs => ?_⟩
      have hi : (BitVec.ofNat 8 i.val).toNat = i.val := by
        rw [BitVec.toNat_ofNat]
        exact Nat.mod_eq_of_lt (by omega)
      obtain ⟨hrest, hsame, hother⟩ := s.modIde_put i.val (fun e => e.km 2 k)
      refine ⟨_, (exec_doeRequest hdoe).trans (congrArg _ (State.doeAnswer_ideKm_ok hs (by rw [hi]; omega))), ?_⟩
      rw [hi]
      exact ⟨hsame, hother, hrest⟩

end Sys2Proof.Machine
end

section
/-! ### Records of the tracing link (R306 to R311) -/

namespace Sys2Proof.Machine

/-! #### The configuration digest does not depend on the link's own registers -/

theorem State.s2Visit_of_mem {s t : State} (h : ∀ a, t.peekVal a = s.peekVal a) (home l : Nat) :
    ∀ a v, t.s2Visit home l a v = s.s2Visit home l a v := by
  induction l with
  | zero => exact fun _ _ => rfl
  | succ l ih => intro a v; simp only [State.s2Visit, h, ih]

section digest
variable {s : State} {x : Trc}

/-- The state with other registers of the tracing engine. -/
def State.withTrc (s : State) (x : Trc) : State := { s with trc := x }

theorem State.withTrc_s2Tables (p home : Nat) : (s.withTrc x).s2Tables p home = s.s2Tables p home :=
  State.s2Visit_of_mem (s := s) (t := s.withTrc x) (fun _ => rfl) home (2 + s.s2Mode p) (s.s2Root p home) []

theorem State.withTrc_digestPart (p : Nat) : (s.withTrc x).digestPart p = s.digestPart p := by
  have hpart : (s.withTrc x).partOf p = s.partOf p := rfl
  have hpt : (s.withTrc x).ptWord p = s.ptWord p := rfl
  have hpx : (s.withTrc x).pxWord p = s.pxWord p := rfl
  have hval (a : Nat) : (s.withTrc x).peekVal a = s.peekVal a := rfl
  simp only [State.digestPart, hpart, hpt, hpx, hval, State.withTrc_s2Tables]

/-- The digest looks at the pairing's state and its trace list alone. -/
theorem State.withTrc_cfgDigest (hst : x.st = s.trc.st) (hlist : x.list = s.trc.list) :
    (s.withTrc x).cfgDigest = s.cfgDigest := by
  have hslot (k : Nat) : (s.withTrc x).digestSlot k = s.digestSlot k := rfl
  have hv (n : Nat) : (s.withTrc x).vslot n = s.vslot n := rfl
  have hpen (n : Nat) : (s.withTrc x).pen n = s.pen n := rfl
  have hfolio : (s.withTrc x).folio = s.folio := rfl
  have htrc : (s.withTrc x).trc = x := rfl
  have hslots : (s.withTrc x).digestSlot = s.digestSlot := funext hslot
  have hparts : (s.withTrc x).digestPart = s.digestPart := funext fun p => State.withTrc_digestPart p
  unfold State.cfgDigest
  simp only [hslots, hparts, hv, hpen, hfolio, htrc, hst, hlist]

end digest

/-! #### An accepted record (R310, R311) -/

/-- The registers after an accepted record's header. -/
def Trc.took (x : Trc) (r : List Word) : Trc := { x with rxSeq := (rawSeq r + 1) % 2 ^ 32, peerCfg := rawCfg r }

/-- The state in which an accepted record is applied: a window whose last record is due has ended. -/
def State.took (s : State) (r : List Word) : State := s.sendDue.withTrc (s.sendDue.trc.took r)

theorem State.record_accepted {s : State} {type : Nat} {r : List Word} {apply : State → State} (h : AcceptedRecord s type r) :
    s.record type r apply = apply (s.took r) := by
  obtain ⟨hpair, hign, hsafe, hdebug, hup, hhdr, hseq, hcfg, hdbg, hdata⟩ := h
  have hgate : (!s.paired || s.trc.ignore || decide (s.dev = .safe) || decide (s.dev = .debug) || !s.hif.up) = false := by
    rw [hpair, hign, decide_eq_false hsafe, decide_eq_false hdebug, hup]
    rfl
  have htrc : { s.sendDue.trc with
      rxSeq := ((if headerOk type r then rawSeq r else s.sendDue.trc.rxSeq) + 1) % 2 ^ 32
      peerCfg := if headerOk type r then rawCfg r else s.sendDue.trc.peerCfg
      peerDebug := s.sendDue.trc.peerDebug || (headerOk type r && rawDebug r) } = s.sendDue.trc.took r := by
    rw [hhdr, hdbg, Bool.and_false, Bool.or_false]
    rfl
  have hdigest : rawCfg r = (s.took r).cfgDigest := hcfg.trans
    (State.withTrc_cfgDigest (s := s.sendDue) (x := s.sendDue.trc.took r) rfl rfl).symm
  have hin : (headerOk type r && decide (rawSeq r = s.sendDue.trc.rxSeq)) = true := by
    rw [hhdr, decide_eq_true hseq]
    rfl
  delta State.record
  rw [hgate]
  rw [if_neg Bool.false_ne_true]
  extract_lets due hdr seq inOrder src st
  have hst : st = s.took r := congrArg s.sendDue.withTrc htrc
  have hord : inOrder = true := hin
  rw [hst, hord, hdbg, hdata]
  rw [if_neg (show ¬ (!true) = true by decide), if_neg (not_not.mpr hdigest), if_neg Bool.false_ne_true,
    if_neg (show ¬ (!true) = true by decide)]

end Sys2Proof.Machine
end

section
namespace Sys2Proof.Machine

/-! #### The words of a unit (R310) -/

/-- A run of writes at the copies of one word. -/
theorem State.engineWrite_ready {s : State} {a : Nat} {w : TWord} (h : ∀ d ∈ s.writeAt a, s.bankReady d = true) :
    s.engineWrite a w = s.pokes ((s.writeAt a).map (·, w)) := by
  have hrun (l : List Nat) (t : State) (ht : ∀ d ∈ l, t.bankReady d = true) :
      l.foldl (fun t a => if t.bankReady a then t.poke a w else t) t = t.pokes (l.map (·, w)) := by
    induction l generalizing t with
    | nil => rfl
    | cons d l ih =>
      rw [List.foldl_cons, if_pos (ht d List.mem_cons_self), List.map_cons, State.pokes, List.foldl_cons, ih]
      · rfl
      · intro c hc
        rw [(State.access_of_mem (t.poke_back d w)).1]
        exact ht c (List.mem_cons_of_mem _ hc)
  exact hrun _ s h

theorem State.writeAt_of_mem {s t : State} (h : { t with mem := s.mem } = s) : t.writeAt = s.writeAt :=
  (congrArg State.writeAt h :)

/-- The copies of words from an address on, with what is stored there. -/
def State.unitPlaces (s : State) (base : Nat) (es : List (TWord × Nat)) : List (Nat × TWord) :=
  es.flatMap (fun e => (s.writeAt (base + 8 * e.2)).map (·, e.1))

/-- The words of a unit are stored one after the other. -/
def State.putUnit (s : State) (base : Nat) (es : List (TWord × Nat)) : State :=
  es.foldl (fun t e => t.engineWrite (base + 8 * e.2) e.1) s

theorem State.putUnit_eq {s : State} {base : Nat} {es : List (TWord × Nat)}
    (h : ∀ e ∈ es, ∀ d ∈ s.writeAt (base + 8 * e.2), s.bankReady d = true) :
    s.putUnit base es = s.pokes (s.unitPlaces base es) := by
  induction es generalizing s with
  | nil => rfl
  | cons e es ih =>
    have hfirst := State.engineWrite_ready (w := e.1) (h e List.mem_cons_self)
    have hback : { s.engineWrite (base + 8 * e.2) e.1 with mem := s.mem } = s := by
      rw [hfirst]
      exact s.pokes_back _
    have hat := State.writeAt_of_mem hback
    have hready := (State.access_of_mem hback).1
    have hplaces : (s.engineWrite (base + 8 * e.2) e.1).unitPlaces base es = s.unitPlaces base es := by
      rw [State.unitPlaces, hat, State.unitPlaces]
    have hrest := ih (s := s.engineWrite (base + 8 * e.2) e.1) fun f hf d hd => by
      rw [hat] at hd
      rw [hready]
      exact h f (List.mem_cons_of_mem _ hf) d hd
    rw [hplaces, hfirst, ← State.pokes_append] at hrest
    exact Eq.trans (congrArg (fun t : State => t.putUnit base es) hfirst) hrest

/-- A word of a page lies at its offset in every copy. -/
theorem State.writeAt_index {s : State} {base i d : Nat} (hbase : base % 4096 = 0) (hi : i < 512)
    (hd : d ∈ s.writeAt (base + 8 * i)) : d / 8 % 512 = i := by
  rw [State.writeAt] at hd
  split at hd
  · simp only [List.mem_cons, List.not_mem_nil, or_false, evenCpa, oddCpa, inkBase] at hd
    omega
  · rw [List.mem_singleton.mp hd]
    omega

/-- The copies of one word lie in different words of the banks. -/
theorem State.writeAt_nodup (s : State) (a : Nat) : ((s.writeAt a).map (· / 8)).Nodup := by
  rw [State.writeAt]
  split
  · refine List.nodup_cons.mpr ⟨fun hmem => ?_, List.nodup_singleton _⟩
    have heq := List.mem_singleton.mp hmem
    simp only [evenCpa, oddCpa, inkBase, evenOf, oddOf] at heq
    omega
  · exact List.nodup_singleton _

theorem State.unitPlaces_nodup (s : State) {base : Nat} {es : List (TWord × Nat)} (hbase : base % 4096 = 0)
    (hidx : es.Pairwise (fun e f => e.2 ≠ f.2)) (hlt : ∀ e ∈ es, e.2 < 512) :
    ((s.unitPlaces base es).map (fun x => x.1 / 8)).Nodup := by
  have hmap : (s.unitPlaces base es).map (fun x => x.1 / 8) =
      es.flatMap (fun e => (s.writeAt (base + 8 * e.2)).map (· / 8)) := by
    simp only [State.unitPlaces, List.map_flatMap, List.map_map]
    rfl
  rw [hmap, List.nodup_flatMap]
  refine ⟨fun e _ => s.writeAt_nodup _, List.Pairwise.imp_of_mem (fun {e f} he hf hne => ?_) hidx⟩
  intro k hk hk'
  obtain ⟨d, hd, rfl⟩ := List.mem_map.mp hk
  obtain ⟨d', hd', heq⟩ := List.mem_map.mp hk'
  have hi := State.writeAt_index hbase (hlt e he) hd
  have hj := State.writeAt_index hbase (hlt f hf) hd'
  exact hne (by rw [← hi, ← hj, heq])

theorem mem_unitPlaces {s : State} {base : Nat} {es : List (TWord × Nat)} {x : Nat × TWord} :
    x ∈ s.unitPlaces base es ↔ ∃ e ∈ es, x.1 ∈ s.writeAt (base + 8 * e.2) ∧ x.2 = e.1 := by
  simp only [State.unitPlaces, List.mem_flatMap, List.mem_map]
  refine exists_congr fun e => and_congr_right fun _ => ⟨?_, fun ⟨hd, hw⟩ => ⟨x.1, hd, by rw [← hw]⟩⟩
  rintro ⟨d, hd, rfl⟩
  exact ⟨hd, rfl⟩

/-- The words of a page that is ready in every copy are stored there, and no other word changes. -/
theorem State.putUnit_spec {s : State} {base : Nat} {ws : List TWord} (hbase : base % 4096 = 0) (hlen : ws.length = 512)
    (h : ∀ i, i < 512 → ∀ d ∈ s.writeAt (base + 8 * i), s.bankReady d = true) :
    (∀ i, i < 512 → ∀ d ∈ s.writeAt (base + 8 * i), (s.putUnit base ws.zipIdx).peek d = .clean (ws.getD i ⟨0, 0⟩)) ∧
    (∀ b, (∀ i, i < 512 → ∀ d ∈ s.writeAt (base + 8 * i), b / 8 ≠ d / 8) →
      (s.putUnit base ws.zipIdx).peekCode b = s.peekCode b) ∧
    { s.putUnit base ws.zipIdx with mem := s.mem } = s := by
  have hlt (e : TWord × Nat) (he : e ∈ ws.zipIdx) : e.2 < 512 := by
    have hget := List.mem_zipIdx_iff_getElem?.mp he
    have := (List.getElem?_eq_some_iff.mp hget).1
    omega
  have hidx : ws.zipIdx.Pairwise (fun e f => e.2 ≠ f.2) := by
    have hnodup : (ws.zipIdx.map Prod.snd).Nodup := by
      rw [List.zipIdx_map_snd]
      exact List.nodup_range'
    exact List.pairwise_map.mp hnodup
  rw [State.putUnit_eq fun e he => h e.2 (hlt e he)]
  obtain ⟨hpeek, hcode⟩ := State.pokes_spec (s.unitPlaces_nodup hbase hidx hlt) s
  refine ⟨fun i hi d hd => ?_, fun b hb => hcode b fun hmem => ?_, s.pokes_back _⟩
  · refine hpeek (d, ws.getD i ⟨0, 0⟩) (mem_unitPlaces.mpr ⟨(ws.getD i ⟨0, 0⟩, i), ?_, hd, rfl⟩)
    refine List.mem_zipIdx_iff_getElem?.mpr ?_
    rw [List.getD_eq_getElem?_getD, List.getElem?_eq_getElem (by omega)]
    rfl
  · obtain ⟨x, hx, heq⟩ := List.mem_map.mp hmem
    obtain ⟨e, he, hd, -⟩ := mem_unitPlaces.mp hx
    exact hb e.2 (hlt e he) x.1 hd heq.symm

end Sys2Proof.Machine
end

section
namespace Sys2Proof.Machine

section accepted
variable {s : State} {r : List Word}

/-! #### The kinds of records -/

theorem exec_recordBegin (h : AcceptedRecord s recBegin r) : exec (.recordBegin r) s = .next (s.took r).applyBegin :=
  congrArg Host.Outcome.next (State.record_accepted h)

theorem exec_recordUnit (h : AcceptedRecord s recUnit r) (crc : Bool) :
    exec (.recordUnit r crc) s = .next ((s.took r).applyUnit r crc) :=
  congrArg Host.Outcome.next (State.record_accepted (apply := fun t => t.applyUnit r crc) h)

theorem exec_recordEnd (h : AcceptedRecord s recEnd r) : exec (.recordEnd r) s = .next ((s.took r).applyEnd r) :=
  congrArg Host.Outcome.next (State.record_accepted (apply := fun t => t.applyEnd r) h)

theorem exec_recordAck (h : AcceptedRecord s recAck r) : exec (.recordAck r) s = .next ((s.took r).applyAck r) :=
  congrArg Host.Outcome.next (State.record_accepted (apply := fun t => t.applyAck r) h)

theorem exec_recordDigest (h : AcceptedRecord s recDigest r) :
    exec (.recordDigest r) s = .next ((s.took r).applyDigest r) :=
  congrArg Host.Outcome.next (State.record_accepted (apply := fun t => t.applyDigest r) h)

theorem exec_recordFarewell (h : AcceptedRecord s recFarewell r) :
    exec (.recordFarewell r) s = .next ((s.took r).applyFarewell r) :=
  congrArg Host.Outcome.next (State.record_accepted (apply := fun t => t.applyFarewell r) h)

end accepted

/-! #### BEGIN -/

section unit
variable {u : State} {r : List Word}

theorem State.applyBegin_eq : u.applyBegin =
    if u.receives = true then { u with trc := { u.trc with winOpen := true, winSlots := [], winUnits := 0 } } else u := by
  rw [State.applyBegin]
  cases u.receives <;> rfl

/-! #### UNIT -/

/-- The frame that a UNIT record is written to. -/
def State.unitFrame (u : State) (r : List Word) : Option Nat → Nat
  | some k => (u.vslot k).draftFrame
  | none => bitsOf (r.getD 3 0) 12 36

/-- The written slots of a window after a UNIT record. -/
def Trc.unitSlots (x : Trc) (r : List Word) : Option Nat → List (Nat × Nat)
  | some k => x.winSlots.filter (fun (e : Nat × Nat) => e.1 ≠ k) ++ [(k, bitsOf (r.getD 4 0) 0 16)]
  | none => x.winSlots

/-- The registers of a window after a UNIT record. -/
def Trc.gotUnit (x : Trc) (r : List Word) (slot : Option Nat) : Trc :=
  { x with units := satInc 0xFFFFFFFF x.units, winUnits := x.winUnits + 1, winSlots := x.unitSlots r slot }

theorem State.applyUnit_closed (h : u.trc.winOpen = false) (crc : Bool) : u.applyUnit r crc = u := by
  rw [State.applyUnit, h]
  rfl

theorem State.applyUnit_crc (h : u.trc.winOpen = true) : u.applyUnit r true = u.recordFails 0x59 (rawSeq r) := by
  rw [State.applyUnit, h]
  rfl

/-- The registers of a window count a UNIT record. -/
def State.countUnit (t : State) (r : List Word) (slot : Option Nat) : State := t.withTrc (t.trc.gotUnit r slot)

theorem State.unitFrame_base (slot : Option Nat) :
    (match slot with
      | some k => (u.vslot k).draftFrame * 4096
      | none => bitsOf (r.getD 3 0) 12 36 * 4096) = 4096 * u.unitFrame r slot := by
  cases slot with
  | some k => exact Nat.mul_comm (u.vslot k).draftFrame 4096
  | none => exact Nat.mul_comm (bitsOf (r.getD 3 0) 12 36) 4096

theorem State.foldl_engineWrite {base : Nat} {es : List (TWord × Nat)} :
    es.foldl (fun (t : State) (e : TWord × Nat) => t.engineWrite (base + 8 * e.2) e.1) u = u.putUnit base es := rfl

theorem State.countUnit_back {v : State} {slot : Option Nat} (h : { v with mem := u.mem } = u) :
    { v.countUnit r slot with mem := u.mem } = u.countUnit r slot := congrArg (State.countUnit · r slot) h

theorem State.applyUnit_open (h : u.trc.winOpen = true) : u.applyUnit r false =
    if u.unitReady (4096 * u.unitFrame r (u.unitSlot r)) = true then
      (u.putUnit (4096 * u.unitFrame r (u.unitSlot r)) (unitWords r).zipIdx).countUnit r (u.unitSlot r)
    else u.recordFails 0x50 (rawSeq r) := by
  delta State.applyUnit
  rw [h, if_neg (show ¬ (!true) = true by decide), if_neg Bool.false_ne_true]
  extract_lets slot base t
  have hbase : base = 4096 * u.unitFrame r slot := State.unitFrame_base slot
  have hput : t = u.putUnit (4096 * u.unitFrame r slot) (unitWords r).zipIdx := by
    rw [← hbase]
    exact State.foldl_engineWrite
  rw [← hput, ← hbase]
  clear_value t
  cases u.unitReady base with
  | true => rfl
  | false => rfl

theorem unitWords_length (r : List Word) : (unitWords r).length = 512 := by
  rw [unitWords, List.length_map, upTo, List.length_range]

/-- A unit whose place no bank in service answers fails the window. -/
theorem State.applyUnit_unready (h : u.trc.winOpen = true)
    (hready : ∃ d ∈ u.writeAt (4096 * u.unitFrame r (u.unitSlot r)), u.bankReady d = false) :
    u.applyUnit r false = u.recordFails 0x50 (rawSeq r) := by
  obtain ⟨d, hd, hoff⟩ := hready
  rw [State.applyUnit_open h, if_neg]
  intro hall
  rw [State.unitReady, List.all_eq_true] at hall
  exact Bool.false_ne_true (hoff.symm.trans (hall d hd))

/-- A unit whose place is ready is stored in every copy. -/
theorem State.applyUnit_ready (h : u.trc.winOpen = true) {base : Nat} (hbase : base = 4096 * u.unitFrame r (u.unitSlot r))
    (hready : ∀ i, i < 512 → ∀ d ∈ u.writeAt (base + 8 * i), u.bankReady d = true) :
    ∃ v, u.applyUnit r false = v ∧
      (∀ i, i < 512 → ∀ d ∈ u.writeAt (base + 8 * i), v.peek d = .clean ((unitWords r).getD i ⟨0, 0⟩)) ∧
      (∀ b, (∀ i, i < 512 → ∀ d ∈ u.writeAt (base + 8 * i), b / 8 ≠ d / 8) → v.peekCode b = u.peekCode b) ∧
      { v with mem := u.mem } = u.countUnit r (u.unitSlot r) := by
  have hmod : base % 4096 = 0 := by omega
  obtain ⟨hpeek, hcode, hback⟩ := State.putUnit_spec hmod (unitWords_length r) hready
  have hfirst : u.unitReady base = true := List.all_eq_true.mpr fun d hd => hready 0 (by decide) d hd
  refine ⟨_, rfl, ?_⟩
  rw [State.applyUnit_open h, ← hbase, if_pos hfirst]
  generalize u.putUnit base (unitWords r).zipIdx = v at hpeek hcode hback ⊢
  exact ⟨hpeek, hcode, State.countUnit_back hback⟩

/-! #### ACK, DIGEST and FAREWELL -/

/-- The answer for folio `f` has come. -/
def Trc.heard (x : Trc) (f : Word) : Trc :=
  { x with got := some f, await := x.await.filter (· ≠ f), watch := x.watch.filter (fun (w : Word × Nat) => w.1 ≠ f) }

theorem State.applyAck_other (hsend : u.sendsWindows = false) (htwin : u.isTwin = false) : u.applyAck r = u := by
  rw [State.applyAck, hsend, htwin]
  rfl

theorem State.isTwin_of_sends (h : u.sendsWindows = true) : u.isTwin = false := by
  simp only [State.sendsWindows, Bool.and_eq_true, Bool.or_eq_true, decide_eq_true_iff] at h
  obtain ⟨-, hmode | ⟨-, hst⟩⟩ := h
  · simp [State.isTwin, hmode]
  · simp [State.isTwin, hst]

theorem State.applyAck_twin (hnak : bitAt (r.getD 6 0) 18 = false) (htwin : u.isTwin = true) : u.applyAck r = u := by
  simp only [State.applyAck, htwin, hnak, Bool.not_true, Bool.and_false, Bool.false_eq_true, if_false, if_true]

theorem State.applyAck_sender (hnak : bitAt (r.getD 6 0) 18 = false) (hsend : u.sendsWindows = true)
    (hdone : u.trc.doneAt ≠ some (rawFolio r)) :
    u.applyAck r = u.withTrc { u.trc.heard (rawFolio r) with lastEnd := rawFolio r } := by
  simp only [State.applyAck, State.isTwin_of_sends hsend, hsend, hnak, hdone, Bool.not_true, Bool.false_and,
    Bool.false_eq_true, if_false]
  rfl

theorem State.applyAck_nak (hnak : bitAt (r.getD 6 0) 18 = true) (h : u.sendsWindows = true ∨ u.isTwin = true) :
    u.applyAck r = (u.withTrc (u.trc.heard (rawFolio r))).markStale (rawSeq r) := by
  have hgate : (!u.sendsWindows && !u.isTwin) = false := by
    rcases h with h | h <;> rw [h] <;> simp
  simp only [State.applyAck, hgate, hnak, Bool.false_eq_true, if_false, if_true]
  rfl

theorem State.applyDigest_other (h : u.isTwin = false) : u.applyDigest r = u := by
  rw [State.applyDigest, h]
  rfl

theorem State.compareDigests_first (h : u.trc.mine = none) : u.compareDigests = u := by
  rw [State.compareDigests, h]

theorem State.applyDigest_first (h : u.isTwin = true) (hmine : u.trc.mine = none) (htheirs : u.trc.theirs = none) :
    u.applyDigest r = u.withTrc { u.trc.heard (rawFolio r) with
      theirs := some ⟨rawFolio r, rawSlot r, rawCount r < 256, bitAt (r.getD 6 0) 16, rawDigests r⟩ } := by
  rw [State.applyDigest, h, if_neg (show ¬ (!true) = true by decide), htheirs]
  exact State.compareDigests_first hmine

theorem State.applyFarewell_detach (h : bitsOf (r.getD 6 0) 24 8 = 1) : u.applyFarewell r =
    (u.withTrc { u.trc with
      offNext := true, winOpen := false, winSlots := [], winUnits := 0, await := [], watch := [], send := none }).raise
        { cls := 0x56, utype := 8, detail := rawSeq r } := by
  rw [State.applyFarewell, if_pos h]
  rfl

end unit

end Sys2Proof.Machine
end

section
namespace Sys2Proof.Machine

/-! #### The header of a record that is sent (R307) -/

theorem crcBits_lt_word (n : Nat) {c : Nat} (h : c < 2 ^ 32) : crcBits n c < 2 ^ 32 := by
  induction n generalizing c with
  | zero => exact h
  | succ n ih =>
    refine ih ?_
    split
    · exact Nat.xor_lt_two_pow (by omega) (by decide)
    · omega

theorem crcWordN_lt_word (n w : Nat) {c : Nat} (h : c < 2 ^ 32) : crcWordN n c w < 2 ^ 32 := by
  induction n generalizing c w with
  | zero => exact h
  | succ n ih => exact ih _ (crcBits_lt_word 8 (Nat.xor_lt_two_pow h (by omega)))

theorem crc32c_lt_word (ws : List Word) : crc32c ws < 2 ^ 32 := by
  have hfold (l : List Word) (c : Nat) (hc : c < 2 ^ 32) : l.foldl (fun c w => crcWordN 8 c w.toNat) c < 2 ^ 32 := by
    induction l generalizing c with
    | nil => exact hc
    | cons w l ih => exact ih _ (crcWordN_lt_word 8 _ hc)
  exact Nat.xor_lt_two_pow (hfold ws _ (by decide)) (by decide)

/-- The words of a header before its CRC. -/
def headWords (w0 w1 w2 w3 w4 w5 w6 : Word) : List Word := [w0, w1, w2, w3, w4, w5, w6] ++ List.replicate 24 0

theorem headerOk_headWords {type : Nat} {w0 w1 w2 w3 w4 w5 w6 : Word} (hmagic : bitsOf w0 0 16 = 0x5452)
    (hversion : bitsOf w0 24 8 = 1) (htype : bitsOf w0 16 8 = type) :
    headerOk type (headWords w0 w1 w2 w3 w4 w5 w6 ++
      [BitVec.ofNat 64 (crc32c (headWords w0 w1 w2 w3 w4 w5 w6))]) = true := by
  have hcrc := crc32c_lt_word (headWords w0 w1 w2 w3 w4 w5 w6)
  generalize hc : crc32c (headWords w0 w1 w2 w3 w4 w5 w6) = c at hcrc
  have hhead : (upTo 31).map (fun i => (headWords w0 w1 w2 w3 w4 w5 w6 ++ [BitVec.ofNat 64 c]).getD i 0) =
      headWords w0 w1 w2 w3 w4 w5 w6 := rfl
  have hlast : (headWords w0 w1 w2 w3 w4 w5 w6 ++ [BitVec.ofNat 64 c]).getD 31 0 = BitVec.ofNat 64 c := rfl
  have hfirst : (headWords w0 w1 w2 w3 w4 w5 w6 ++ [BitVec.ofNat 64 c]).getD 0 0 = w0 := rfl
  have hto : (BitVec.ofNat 64 c).toNat = c := by
    rw [BitVec.toNat_ofNat]
    exact Nat.mod_eq_of_lt (by omega)
  rw [headerOk, rawType, hhead, hlast, hfirst, hmagic, hversion, htype, hto, hc]
  simp

theorem recHeader_eq (type seq : Nat) (folio : Word) (slot : Nat) (debug : Bool) (cfg w3 w4 w5 w6 : Nat) :
    let ws := headWords (BitVec.ofNat 64 (0x5452 + type * 2 ^ 16 + 2 ^ 24 + seq % 2 ^ 32 * 2 ^ 32)) folio
      (BitVec.ofNat 64 (slot + bitN debug * 16 + cfg * 2 ^ 32)) (BitVec.ofNat 64 w3) (BitVec.ofNat 64 w4)
      (BitVec.ofNat 64 w5) (BitVec.ofNat 64 w6)
    recHeader type seq folio slot debug cfg w3 w4 w5 w6 = ws ++ [BitVec.ofNat 64 (crc32c ws)] := rfl

/-- A header that is sent passes its check and names its folio. -/
theorem recHeader_spec {type : Nat} (htype : type < 256) (seq : Nat) (folio : Word) (slot : Nat) (debug : Bool)
    (cfg w3 w4 w5 w6 : Nat) :
    let w := recHeader type seq folio slot debug cfg w3 w4 w5 w6
    w.length = 32 ∧ headerOk type w = true ∧ rawFolio w = folio ∧ w.getD 6 0 = BitVec.ofNat 64 w6 := by
  intro w
  have hw : w = _ := recHeader_eq type seq folio slot debug cfg w3 w4 w5 w6
  have hfield (lo len : Nat) (h : lo + len ≤ 64) := bitsOf_ofNat (0x5452 + type * 2 ^ 16 + 2 ^ 24 + seq % 2 ^ 32 * 2 ^ 32) lo len h
  rw [hw]
  refine ⟨rfl, headerOk_headWords ?_ ?_ ?_, rfl, rfl⟩
  · rw [hfield 0 16 (by decide)]
    omega
  · rw [hfield 24 8 (by decide)]
    omega
  · rw [hfield 16 8 (by decide)]
    omega

/-- A record without data words that the link carries. -/
theorem State.sendRecord_open {s : State} {type w3 w4 w6 : Nat} {folio : Word} (h : s.linkOk = true) :
    let place := s.trc.peer.toNat / 4096 * 4096 + s.trc.txSeq % 16 * 0x2000
    let w := recHeader type s.trc.txSeq folio s.folio.actSlot (s.dev = .debug) s.cfgDigest w3 w4 0 w6
    s.sendRecord type folio w3 w4 w6 [] = { s with
      out := s.out ++ [.record place w (s.ideStream place)]
      trc := { s.trc with txSeq := (s.trc.txSeq + 1) % 2 ^ 32 } } := by
  intro place w
  have hw : w ++ [] = w := List.append_nil w
  rw [← hw]
  exact if_pos h

theorem State.sendRecord_closed {s : State} {type w3 w4 w6 : Nat} {folio : Word} {d : List Word} (h : s.linkOk = false) :
    s.sendRecord type folio w3 w4 w6 d = s := by
  refine if_neg ?_
  rw [h]
  exact Bool.false_ne_true

/-! #### END -/

section ending
variable {u : State} {r : List Word} {k seq : Nat}

theorem State.applyEnd_closed (h : u.trc.winOpen = false) : u.applyEnd r = u := by
  rw [State.applyEnd, h]
  rfl

/-- The registers after an END that is applied. -/
def Trc.ended (x : Trc) (r : List Word) : Trc :=
  { x.heard (rawFolio r) with
    lastEnd := rawFolio r, winOpen := false, winSlots := [], winUnits := 0, adopt := some (rawFolio r, rawSlot r) }

/-- The state after an END that is applied, before the answer is sent. -/
def State.ended (u : State) (r : List Word) (k seq : Nat) : State :=
  ((u.modVslot k (fun v => v.swap seq)).rewriteTlb k).withTrc (u.trc.ended r)

/-- An END with its units complete and one slot written gives that slot its new fair copy, and is acknowledged. -/
theorem State.applyEnd_applied (hopen : u.trc.winOpen = true) (hinc : bitAt (r.getD 6 0) 16 = false)
    (hdone : bitAt (r.getD 6 0) 19 = false) (hcount : rawCount r = u.trc.winUnits) (hslots : u.trc.winSlots = [(k, seq)]) :
    u.applyEnd r = (u.ended r k seq).sendRecord recAck (rawFolio r) 0 0 0 [] := by
  have hgood : (bitAt (r.getD 6 0) 16 || decide (rawCount r ≠ u.trc.winUnits)) = false := by
    rw [hinc, hcount, decide_eq_false (not_not.mpr rfl)]
    rfl
  rw [State.applyEnd, hopen, if_neg (show ¬ (!true) = true by decide), hgood, if_neg Bool.false_ne_true, hdone,
    if_neg Bool.false_ne_true, hslots]
  rfl

theorem State.ended_vslot_same : (u.ended r k seq).vslot k = (u.vslot k).swap seq :=
  (State.rewriteTlb_vslot (n := k) (s := u.modVslot k (fun v => v.swap seq))).trans State.modVslot_vslot_same

theorem State.ended_vslot_other {j : Nat} (h : j ≠ k) : (u.ended r k seq).vslot j = u.vslot j :=
  (State.rewriteTlb_vslot (n := k) (s := u.modVslot k (fun v => v.swap seq))).trans (State.modVslot_vslot_other h)

/-- The answer to an END, sent where the link can carry it. -/
theorem State.answerEnd_spec {e : State} {f : Word} (htx : e.trc.txSeq = u.trc.txSeq) (hpeer : e.trc.peer = u.trc.peer)
    (hlink : e.linkOk = u.linkOk) (hide : e.ideStream = u.ideStream) (hout : e.out = u.out) :
    let v := e.sendRecord recAck f 0 0 0 []
    { v.trc with txSeq := u.trc.txSeq } = e.trc ∧ v.vt = e.vt ∧
      (u.linkOk = false → v.out = u.out ∧ v.trc.txSeq = u.trc.txSeq) ∧
      (u.linkOk = true → v.trc.txSeq = (u.trc.txSeq + 1) % 2 ^ 32 ∧
        let place := u.trc.peer.toNat / 4096 * 4096 + u.trc.txSeq % 16 * 0x2000
        ∃ w : List Word, v.out = u.out ++ [.record place w (u.ideStream place)] ∧ w.length = 32 ∧
          headerOk recAck w = true ∧ rawFolio w = f ∧ bitAt (w.getD 6 0) 18 = false) := by
  rw [← hlink, ← hide, ← hout, ← htx, ← hpeer]
  cases hok : e.linkOk with
  | false =>
    rw [State.sendRecord_closed hok]
    exact ⟨rfl, rfl, fun _ => ⟨rfl, rfl⟩, nofun⟩
  | true =>
    obtain ⟨hlen, hhdr, hfol, h6⟩ := recHeader_spec (type := recAck) (by decide) e.trc.txSeq f e.folio.actSlot
      (e.dev = .debug) e.cfgDigest 0 0 0 0
    rw [State.sendRecord_open hok]
    refine ⟨rfl, rfl, nofun, fun _ => ⟨rfl, _, rfl, hlen, hhdr, hfol, ?_⟩⟩
    rw [h6]
    decide

/-- What an END leaves, where one slot was written. -/
theorem State.applyEnd_spec (hopen : u.trc.winOpen = true) (hinc : bitAt (r.getD 6 0) 16 = false)
    (hdone : bitAt (r.getD 6 0) 19 = false) (hcount : rawCount r = u.trc.winUnits) (hslots : u.trc.winSlots = [(k, seq)]) :
    ∃ v, u.applyEnd r = v ∧ { v.trc with txSeq := u.trc.txSeq } = u.trc.ended r ∧
      v.vslot k = (u.vslot k).swap seq ∧ (∀ j, j ≠ k → v.vslot j = u.vslot j) ∧
      (u.linkOk = false → v.out = u.out ∧ v.trc.txSeq = u.trc.txSeq) ∧
      (u.linkOk = true → v.trc.txSeq = (u.trc.txSeq + 1) % 2 ^ 32 ∧
        let place := u.trc.peer.toNat / 4096 * 4096 + u.trc.txSeq % 16 * 0x2000
        ∃ w : List Word, v.out = u.out ++ [.record place w (u.ideStream place)] ∧ w.length = 32 ∧
          headerOk recAck w = true ∧ rawFolio w = rawFolio r ∧ bitAt (w.getD 6 0) 18 = false) := by
  refine ⟨_, State.applyEnd_applied hopen hinc hdone hcount hslots, ?_⟩
  have hsame := State.ended_vslot_same (u := u) (r := r) (k := k) (seq := seq)
  have hother {j : Nat} (h : j ≠ k) := State.ended_vslot_other (u := u) (r := r) (seq := seq) h
  have htrc : (u.ended r k seq).trc = u.trc.ended r := rfl
  have hlink : (u.ended r k seq).linkOk = u.linkOk := rfl
  have hide : (u.ended r k seq).ideStream = u.ideStream := rfl
  have hout : (u.ended r k seq).out = u.out := rfl
  generalize u.ended r k seq = e at hsame hother htrc hlink hide hout ⊢
  obtain ⟨hback, hvt, hoff, hon⟩ := State.answerEnd_spec (u := u) (f := rawFolio r) (congrArg Trc.txSeq htrc :)
    (congrArg Trc.peer htrc :) hlink hide hout
  have hvslot (j : Nat) : (e.sendRecord recAck (rawFolio r) 0 0 0 []).vslot j = e.vslot j := by
    rw [State.vslot, hvt, State.vslot]
  exact ⟨hback.trans htrc, (hvslot k).trans hsame, fun j hj => (hvslot j).trans (hother hj), hoff, hon⟩

end ending

end Sys2Proof.Machine
end

section
namespace Sys2Proof.Machine

section watchdog
variable {s : State}

/-- The partner is lost: what the engine forgets. -/
def Trc.lostPartner (x : Trc) : Trc :=
  { x with
    st := .lost, watch := [], await := [], winOpen := false, winSlots := [], winUnits := 0, doneAt := none
    mine := none, theirs := none, send := none }

/-- The state after the loss is reported. -/
def State.lostReported (s : State) (seq : Nat) : State :=
  ((s.withTrc s.trc.lostPartner).trcEvent 2).raise { cls := 0x52, utype := 8, detail := seq }

theorem exec_traceWatchdog (hpair : s.paired = true) (hdue : ∃ w ∈ s.trc.watch, w.2 ≤ s.cyc) :
    exec .traceWatchdog s = .next (s.declareLost (s.trc.rxSeq - 1)) := by
  obtain ⟨w, hw, hle⟩ := hdue
  have hany : s.trc.watch.any (fun (w : Word × Nat) => w.2 ≤ s.cyc) = true :=
    List.any_eq_true.mpr ⟨w, hw, decide_eq_true hle⟩
  exact exec_of_due (c := .traceWatchdog) (s := s) (f := fun s => s.declareLost (s.trc.rxSeq - 1)) rfl
    (by rw [hpair, hany]; rfl)

theorem State.declareLost_sender {seq : Nat} (h : s.receives = false) : s.declareLost seq = s.lostReported seq := by
  rw [State.declareLost, h]
  rfl

theorem State.declareLost_waiting {seq : Nat} (h : s.receives = true) (hst : s.trc.st ≠ .current) :
    s.declareLost seq = ((s.lostReported seq).withTrc { (s.lostReported seq).trc with stopped := true }).raise
      { cls := 0x55, utype := 8, detail := seq } := by
  rw [State.declareLost, h, if_neg (show ¬ (!true) = true by decide), if_neg hst]
  rfl

theorem State.declareLost_current {seq : Nat} (h : s.receives = true) (hst : s.trc.st = .current) :
    s.declareLost seq = (((s.lostReported seq).withTrc { (s.lostReported seq).trc with
      takeAt := some ((s.lostReported seq).cyc + 4096) }).trcEvent 3).raise { cls := 0x54, utype := 8, detail := seq } := by
  rw [State.declareLost, h, if_neg (show ¬ (!true) = true by decide), if_pos hst]
  rfl

end watchdog

theorem Trc.unitSlots_match (x : Trc) (r : List Word) (slot : Option Nat) :
    (match slot with
      | some k => x.winSlots.filter (fun (e : Nat × Nat) => e.1 ≠ k) ++ [(k, bitsOf (r.getD 4 0) 0 16)]
      | none => x.winSlots) = x.unitSlots r slot := by
  cases slot <;> rfl

/-- Settles O55: an accepted record is applied to the state after its header, by its kind; the watchdog loses the partner. -/
theorem tracingRecordsComplete : Obligations.TracingRecordsComplete := by
  refine ⟨fun s r => ?_, fun s hpair hdue => ?_⟩
  · intro f n a t heard
    refine ⟨fun h => ?_, fun h => ⟨fun hclosed crc => ?_, fun hopen => ?_⟩, fun h => ⟨fun hclosed => ?_, ?_⟩,
      fun h => ⟨fun hsend htwin => ?_, fun hnak htwin => ?_, fun hnak hsend hdone => ?_, fun hnak hkind => ?_⟩,
      fun h => ⟨fun htwin => ?_, fun htwin hmine htheirs => ?_⟩, fun h hreason => ?_⟩
    · exact (exec_recordBegin h).trans (congrArg _ State.applyBegin_eq)
    · exact (exec_recordUnit h crc).trans (congrArg _ (State.applyUnit_closed (u := t) hclosed crc))
    · intro slot base
      have hbase : base = 4096 * t.unitFrame r slot := by
        refine congrArg (4096 * ·) ?_
        cases slot <;> rfl
      refine ⟨(exec_recordUnit h true).trans (congrArg _ (State.applyUnit_crc (u := t) hopen)), fun hoff => ?_,
        fun hready => ?_⟩
      · rw [hbase] at hoff
        exact (exec_recordUnit h false).trans (congrArg _ (State.applyUnit_unready (u := t) hopen hoff))
      · obtain ⟨v, hv, hpeek, hcode, hrest⟩ := State.applyUnit_ready (u := t) hopen hbase hready
        refine ⟨v, (exec_recordUnit h false).trans (congrArg _ hv), hpeek, hcode, hrest.trans ?_⟩
        exact congrArg (fun l => t.withTrc { t.trc with
          units := satInc 0xFFFFFFFF t.trc.units, winUnits := t.trc.winUnits + 1, winSlots := l })
          (Trc.unitSlots_match a.trc r slot).symm
    · exact (exec_recordEnd h).trans (congrArg _ (State.applyEnd_closed (u := t) hclosed))
    · intro hopen hinc hdone hcount k seq hslots
      obtain ⟨v, hv, htrc, hsame, hother, hclosed, hsent⟩ :=
        State.applyEnd_spec (u := t) hopen hinc hdone hcount hslots
      exact ⟨v, (exec_recordEnd h).trans (congrArg _ hv), htrc, hsame, hother, hclosed, hsent⟩
    · exact (exec_recordAck h).trans (congrArg _ (State.applyAck_other (u := t) hsend htwin))
    · exact (exec_recordAck h).trans (congrArg _ (State.applyAck_twin (u := t) hnak htwin))
    · exact (exec_recordAck h).trans (congrArg _ (State.applyAck_sender (u := t) hnak hsend hdone))
    · exact (exec_recordAck h).trans (congrArg _ (State.applyAck_nak (u := t) hnak hkind))
    · exact (exec_recordDigest h).trans (congrArg _ (State.applyDigest_other (u := t) htwin))
    · exact (exec_recordDigest h).trans (congrArg _ (State.applyDigest_first (u := t) htwin hmine htheirs))
    · exact (exec_recordFarewell h).trans (congrArg _ (State.applyFarewell_detach (u := t) hreason))
  · rw [exec_traceWatchdog hpair hdue]
    exact ⟨fun h => congrArg _ (State.declareLost_sender h), fun h hst => congrArg _ (State.declareLost_waiting h hst),
      fun h hst => congrArg _ (State.declareLost_current h hst)⟩

end Sys2Proof.Machine
end

section
/-! ### QUEUE_SET and SHARE_SET (R331, R341, R374) -/

namespace Sys2Proof.Machine

section queueSet
variable {s : State} {m : MbN} {q : QpN} {w0 w1 w2 : Word}

theorem exec_queueSet (h : s.Begins m 0x60) : exec (.queueSet m) s = .next (s.queueSet m.val) :=
  runCommand_of_begins h (fun s => s.queueSet m.val)

theorem pk_four (a b c d i j k : Nat) :
    pk [(0, a), (i, b), (j, c), (k, d)] = BitVec.ofNat 64 (a + b * 2 ^ i + c * 2 ^ j + d * 2 ^ k) := by
  simp only [pk, List.foldl_cons, List.foldl_nil, Nat.zero_add, Nat.pow_zero, Nat.mul_one]

theorem Queue.stat_eq (c : Queue) :
    c.stat = BitVec.ofNat 64 (c.dHead + c.dTail * 2 ^ 16 + c.sHead * 2 ^ 32 + c.sTail * 2 ^ 48) :=
  pk_four c.dHead c.dTail c.sHead c.sTail 16 32 48

/-- The context that QUEUE_SET writes over a queue. -/
def Queue.context (c : Queue) (w0 w1 w2 : Word) : Queue :=
  if bitAt w2 0 = true then { c with w0 := w0, w1 := w1, w2 := w2, dHead := 0, dTail := 0, sHead := 0, sTail := 0 }
  else { c with w0 := w0, w1 := w1, w2 := w2 }

theorem queueSet_args (hargs : s.Args m [BitVec.ofNat 64 q.val, w0, w1, w2]) :
    argRsvd s m.val 0 0x3FFF = false ∧ bitsOf (s.arg m.val 0) 0 14 = q.val ∧
      s.arg m.val 1 = w0 ∧ s.arg m.val 2 = w1 ∧ s.arg m.val 3 = w2 := by
  have h0 : s.arg m.val 0 = BitVec.ofNat 64 q.val := hargs.word 0
  have hq : q.val < 2 ^ 14 := q.isLt
  refine ⟨argRsvd_of_within h0 (Within.of_lt hq), ?_, hargs.word 1, hargs.word 2, hargs.word 3⟩
  rw [h0, bitsOf_ofNat _ 0 14 (by decide)]
  omega

/-- What QUEUE_SET does once its arguments have passed. -/
theorem State.queueSet_passed (hargs : s.Args m [BitVec.ofNat 64 q.val, w0, w1, w2]) (hok : s.contextRefused w0 w1 w2 = false) :
    s.queueSet m.val = if (s.queue q.val).en = true ∧
        ¬(w0 = (s.queue q.val).w0 ∧ w1 = (s.queue q.val).w1 ∧ w2 = setBit (s.queue q.val).w2 0 false)
      then s.finish m.val 0x0C02
      else ((s.setContext q.val w0 w1 w2).modQueue q.val (fun c => { c with lost := 0 })).finish m.val 0
        [wordN ((s.setContext q.val w0 w1 w2).queue q.val).lost, (s.queue q.val).stat] := by
  obtain ⟨hclean, hq, h1, h2, h3⟩ := queueSet_args hargs
  simp only [State.queueSet, hclean, hq, h1, h2, h3, hok, Bool.false_eq_true, if_false]
  refine if_congr ?_ rfl rfl
  simp only [Bool.and_eq_true, Bool.not_eq_true', Bool.and_eq_false_iff, decide_eq_false_iff_not, not_and_or, or_assoc]

/-- A queue that only its register `q` distinguishes. -/
def OnlyQueue (q : Nat) (s t : State) : Prop :=
  (∀ j, j ≠ q → t.queue j = s.queue j) ∧ { t with hif := { t.hif with qps := s.hif.qps } } = s

theorem State.modQueue_only (s : State) (q : Nat) (f : Queue → Queue) : OnlyQueue q s (s.modQueue q f) :=
  ⟨fun _ h => State.modQueue_queue_other h, rfl⟩

theorem OnlyQueue.trans {q : Nat} {s t u : State} (hst : OnlyQueue q s t) (htu : OnlyQueue q t u) : OnlyQueue q s u := by
  obtain ⟨hq, hrest⟩ := hst
  obtain ⟨hq', hrest'⟩ := htu
  exact ⟨fun j hj => (hq' j hj).trans (hq j hj),
    (congrArg (fun v : State => ({ v with hif := { v.hif with qps := s.hif.qps } } : State)) hrest').trans hrest⟩

theorem State.setContext_idle (h : ((s.queue q.val).en && !bitAt w2 0) = false) :
    s.setContext q.val w0 w1 w2 = s.modQueue q.val (fun c => c.context w0 w1 w2) := by
  rw [State.setContext, h]
  rfl

/-- A queue without messages loses nothing when it goes out of service. -/
theorem State.abandon_idle {k : Nat} (h : (s.queue k).msgs = []) :
    s.abandon k = s.modQueue k (fun c => { c with msgs := [], lost := min 0xFFFFFFFF c.lost }) := by
  have hfeed : { s with feed := { s.feed with dropNext := s.feed.dropNext ++ [] } } = s := by rw [List.append_nil]
  have hmsgs : s.loseMessages (s.queue k) = s := by
    rw [State.loseMessages, h]
    split
    · rfl
    · exact hfeed
  rw [State.abandon, State.loseQueue_eq, hmsgs, h]
  rfl

end queueSet

/-- QUEUE_SET, where its arguments pass. -/
theorem queueSet_completes (s : State) (m : MbN) (q : QpN) (w0 w1 w2 : Word) (hbegin : s.Begins m 0x60)
    (hargs : s.Args m [BitVec.ofNat 64 q.val, w0, w1, w2]) (hok : s.contextRefused w0 w1 w2 = false) :
    let c := s.queue q.val
    (c.en = true → ¬(w0 = c.w0 ∧ w1 = c.w1 ∧ w2 = setBit c.w2 0 false) → s.Ends m.val 0x0C02 [] (exec (.queueSet m) s)) ∧
    (c.en = false → ∃ t : State,
      t.Ends m.val 0 [BitVec.ofNat 64 c.lost, BitVec.ofNat 64
        (c.dHead + c.dTail * 2 ^ 16 + c.sHead * 2 ^ 32 + c.sTail * 2 ^ 48)] (exec (.queueSet m) s) ∧
      (∀ j, j ≠ q.val → t.queue j = s.queue j) ∧ { t with hif := { t.hif with qps := s.hif.qps } } = s ∧
      t.queue q.val = (if bitAt w2 0 = true
        then { c with w0 := w0, w1 := w1, w2 := w2, lost := 0, dHead := 0, dTail := 0, sHead := 0, sTail := 0 }
        else { c with w0 := w0, w1 := w1, w2 := w2, lost := 0 })) ∧
    (c.en = true → c.msgs = [] → w0 = c.w0 → w1 = c.w1 → w2 = setBit c.w2 0 false → ∃ t : State,
      t.Ends m.val 0 [BitVec.ofNat 64 (min 0xFFFFFFFF c.lost), BitVec.ofNat 64
        (c.dHead + c.dTail * 2 ^ 16 + c.sHead * 2 ^ 32 + c.sTail * 2 ^ 48)] (exec (.queueSet m) s) ∧
      (∀ j, j ≠ q.val → t.queue j = s.queue j) ∧ { t with hif := { t.hif with qps := s.hif.qps } } = s ∧
      t.queue q.val = { c with w2 := w2, lost := 0 }) := by
  intro c
  have hexec := exec_queueSet hbegin
  have hset := State.queueSet_passed hargs hok
  rw [← Queue.stat_eq c]
  refine ⟨fun hen hnew => ?_, fun hen => ?_, fun hen hmsgs h0 h1 h2 => ?_⟩
  · rw [if_pos ⟨hen, hnew⟩] at hset
    exact .of_eq (hexec.trans (congrArg _ hset))
  · rw [if_neg fun h => absurd (hen.symm.trans h.1) Bool.false_ne_true, State.setContext_idle (by rw [hen]; rfl)] at hset
    have hlost : ((s.modQueue q.val (fun c => c.context w0 w1 w2)).queue q.val).lost = c.lost := by
      rw [State.modQueue_queue_same, Queue.context]
      split <;> rfl
    rw [hlost] at hset
    obtain ⟨hq, hrest⟩ := (s.modQueue_only q.val (fun c => c.context w0 w1 w2)).trans (State.modQueue_only _ q.val fun c => { c with lost := 0 })
    refine ⟨_, .of_eq (hexec.trans (congrArg _ hset)), hq, hrest, ?_⟩
    rw [State.modQueue_queue_same, State.modQueue_queue_same, Queue.context]
    split <;> rfl
  · have hoff : bitAt w2 0 = false := by
      rw [h2, bitAt_setBit _ _ (by decide) 0, if_pos rfl]
    have hctx : s.setContext q.val w0 w1 w2 =
        (s.modQueue q.val (fun c => { c with msgs := [], lost := min 0xFFFFFFFF c.lost })).modQueue q.val
          (fun c => c.context w0 w1 w2) := by
      rw [State.setContext, show (s.queue q.val).en = true from hen, hoff, if_pos (by decide), State.abandon_idle hmsgs]
      exact congrArg (State.modQueue _ q.val) (funext fun x => by rw [Queue.context, hoff])
    rw [if_neg fun h => h.2 ⟨h0, h1, h2⟩, hctx] at hset
    have hcontext (x : Queue) : x.context w0 w1 w2 = { x with w0 := w0, w1 := w1, w2 := w2 } := by
      rw [Queue.context, hoff]
      rfl
    have hlost : (((s.modQueue q.val (fun c => { c with msgs := [], lost := min 0xFFFFFFFF c.lost })).modQueue q.val
        (fun c => c.context w0 w1 w2)).queue q.val).lost = min 0xFFFFFFFF c.lost := by
      rw [State.modQueue_queue_same, hcontext, State.modQueue_queue_same]
    rw [hlost] at hset
    obtain ⟨hq, hrest⟩ := ((s.modQueue_only q.val fun c => { c with msgs := [], lost := min 0xFFFFFFFF c.lost }).trans
      (State.modQueue_only _ q.val (fun c => c.context w0 w1 w2))).trans (State.modQueue_only _ q.val fun c => { c with lost := 0 })
    refine ⟨_, .of_eq (hexec.trans (congrArg _ hset)), hq, hrest, ?_⟩
    rw [State.modQueue_queue_same, State.modQueue_queue_same, hcontext, State.modQueue_queue_same, h0, h1, ← hmsgs]

/-! #### SHARE_SET -/

theorem State.otherShares_eq (s : State) (g : Nat) : s.otherShares g =
    ((List.range 16).map (fun k => if k = g then 0 else Table.get (fun _ => 0) s.hif.share k)).sum := by
  have hfold (l : List Nat) (n : Nat) : l.foldl (fun n k => if k = g then n else n + Table.get (fun _ => 0) s.hif.share k) n =
      n + (l.map (fun k => if k = g then 0 else Table.get (fun _ => 0) s.hif.share k)).sum := by
    induction l generalizing n with
    | nil => rfl
    | cons k l ih =>
      rw [List.foldl_cons, ih, List.map_cons, List.sum_cons]
      split <;> omega
  exact (hfold (List.range 16) 0).trans (Nat.zero_add _)

theorem shareSet_completes (s : State) (m : MbN) (g : Fin 16) (pct : Nat) (hbegin : s.Begins m 0x61) (hpct : pct < 128)
    (hargs : s.Args m [BitVec.ofNat 64 (g.val + pct * 256)]) :
    let sum := ((List.range 16).map (fun k => if k = g.val then 0 else Table.get (fun _ => 0) s.hif.share k)).sum
    (100 < sum + pct + s.trc.pct → s.Ends m.val 0x0A04 [] (exec (.shareSet m) s)) ∧
    (sum + pct + s.trc.pct ≤ 100 → ∃ t : State, t.Ends m.val 0 [] (exec (.shareSet m) s) ∧
      (∀ k, Table.get (fun _ => 0) t.hif.share k = if k = g.val then pct else Table.get (fun _ => 0) s.hif.share k) ∧
      { t with hif := { t.hif with share := s.hif.share } } = s) := by
  intro sum
  have h0 : s.arg m.val 0 = BitVec.ofNat 64 (g.val + pct * 2 ^ 8) := hargs.word 0
  have hclean : argRsvd s m.val 0 0x7F0F = false :=
    argRsvd_of_within h0 (((Within.of_lt (k := 4) g.isLt).add (Within.of_lt (k := 7) hpct) (by omega) (by decide)))
  have hg : bitsOf (s.arg m.val 0) 0 4 = g.val := by
    rw [h0, bitsOf_ofNat _ 0 4 (by decide)]
    omega
  have hp : bitsOf (s.arg m.val 0) 8 7 = pct := by
    rw [h0, bitsOf_ofNat _ 8 7 (by decide)]
    omega
  have hexec : exec (.shareSet m) s = .next (s.shareSet m.val) := runCommand_of_begins hbegin (fun s => s.shareSet m.val)
  have hset : s.shareSet m.val = if 100 < sum + pct + s.trc.pct then s.finish m.val 0x0A04
      else { s with hif := { s.hif with share := Table.set (fun _ => 0) s.hif.share g.val pct } }.finish m.val 0 := by
    rw [State.shareSet, hclean, if_neg Bool.false_ne_true, hg, hp, State.otherShares_eq]
  rw [hexec, hset]
  refine ⟨fun h => ?_, fun h => ?_⟩
  · rw [if_pos h]
    exact State.finish_ends _ _ _ _
  · rw [if_neg (Nat.not_lt.mpr h)]
    exact ⟨_, State.finish_ends _ _ _ _, fun k => Table.get_set _ _ _ _ _, rfl⟩

end Sys2Proof.Machine
end

section
/-! ### CHANSET_SET and the port record (R374, R379, R391) -/

namespace Sys2Proof.Machine

section images
variable {s : State} {m : MbN}

/-- The image of a command that names an index and a host buffer, where its checks pass. -/
theorem State.withImage_got {i len : Nat} {host : Word} {ws : List Word} {lenOk : Nat → Bool} {f : List Word → State}
    (hargs : s.Args m [BitVec.ofNat 64 i, host, BitVec.ofNat 64 (8 * len)]) (hi : i < 2 ^ 16)
    (htop : host.toNat + 8 * len ≤ 0xF00000000000) (hok : lenOk (8 * len) = true) (hbus : s.hif.busMaster = true)
    (hlen : ws.length = len) : s.withImage m.val (.ok ws) lenOk f = f ws := by
  have h0 : s.arg m.val 0 = BitVec.ofNat 64 i := hargs.word 0
  have h1 : s.arg m.val 1 = host := hargs.word 1
  have h2 : (s.arg m.val 2).toNat = 8 * len := by
    rw [hargs.word 2]
    exact (BitVec.toNat_ofNat _ _).trans (Nat.mod_eq_of_lt (by omega))
  have hclean : argRsvd s m.val 0 0xFFFF = false := argRsvd_of_within h0 (Within.of_lt (k := 16) hi)
  have hget : s.hostGet (.ok ws) (8 * len / 8) = .got ws := by
    rw [State.hostGet_ok hbus (by omega), List.take_of_length_le (by omega)]
  rw [State.withImage, hclean, if_neg Bool.false_ne_true, h1, h2, if_neg (show ¬ hostTop < _ from Nat.not_lt.mpr htop), hok,
    if_neg (show ¬ (!true) = true by decide), hget]

/-- The index of a command as its argument's field. -/
theorem index_of_args {i : Nat} {host n : Word} (hargs : s.Args m [BitVec.ofNat 64 i, host, n]) (hi : i < 2 ^ 16) :
    bitsOf (s.arg m.val 0) 0 16 = i := by
  have h0 : s.arg m.val 0 = BitVec.ofNat 64 i := hargs.word 0
  rw [h0, bitsOf_ofNat _ 0 16 (by decide)]
  omega

theorem State.command_loaded {op : Nat} {body : State → State} (hdev : s.dev = .loaded) (hop : permits op .loaded = true) :
    s.command m.val op body = body s := by
  rw [State.command, hdev]
  exact if_pos hop

end images

/-! #### A set in an empty store -/

theorem moveTable_nil {α : Type} (t : Table α) : moveTable [] [] t = [] := by
  have hfold (l u : Table α) : l.foldl (fun u e => match movedTo [] [] e.1 with
      | some k => Table.ins u k e.2
      | none => u) u = u := by
    induction l with
    | nil => rfl
    | cons e l ih => exact ih
  exact hfold t []

section define
variable {s : State} {k part : Nat} {ds : List Desc}

/-- The feed's stores with one set alone. -/
def Feed.soleSet (f : Feed) (k part : Nat) (ds : List Desc) : Feed :=
  { f with
    sets := Table.set (fun _ => {}) [] k { part := part, count := ds.length, first := 0, valid := true }
    descs := (upTo ds.length).foldl (fun t i => Table.set (fun _ => ({} : Desc)) t (0 + i) (ds.getD i {})) []
    cb := [], newCnt := [], shown := [] }

theorem State.defineSet_empty (hsets : s.otherSets k = []) (hact : s.activated = false) (hn : ds.length ≤ 4096) :
    s.defineSet k part ds = { s with feed := s.feed.soleSet k part ds } := by
  have hplace : s.placeSet k ds.length = ([], 0) := by
    rw [State.placeSet, hsets, List.map_nil, lowestFit_nil hn]
  rw [State.defineSet, hplace, hsets]
  simp only [moveTable_nil, List.foldl_nil]
  refine (if_neg ?_).trans rfl
  exact fun h => Bool.false_ne_true (hact.symm.trans h)

theorem descsOf_length (n : Nat) (ws : List Word) : (descsOf n ws).length = n := by
  induction n generalizing ws with
  | zero => rfl
  | succ n ih => rw [descsOf, List.length_cons, ih]

theorem descsOf_getD {n i : Nat} (ws : List Word) (h : i < n) :
    (descsOf n ws).getD i {} = { words := (ws.drop (8 * i)).take 8 } := by
  induction n generalizing ws i with
  | zero => exact absurd h (Nat.not_lt_zero i)
  | succ n ih =>
    cases i with
    | zero => rfl
    | succ i =>
      rw [descsOf, List.getD_cons_succ, ih _ (Nat.lt_of_succ_lt_succ h), List.drop_drop]
      congr 3
      omega

end define

end Sys2Proof.Machine
end

section
namespace Sys2Proof.Machine

/-- The state with one set alone. -/
def State.withSet (s : State) (k part : Nat) (ds : List Desc) : State := { s with feed := s.feed.soleSet k part ds }

theorem State.withSet_chanSet_same (s : State) (k part : Nat) (ds : List Desc) :
    (s.withSet k part ds).chanSet k = { part := part, count := ds.length, first := 0, valid := true } :=
  Table.get_set_same _ _ _ _

theorem State.withSet_chanSet_other (s : State) {j k : Nat} (part : Nat) (ds : List Desc) (h : j ≠ k) :
    (s.withSet k part ds).chanSet j = {} := Table.get_set_other _ _ _ h

theorem State.withSet_desc (s : State) (k part : Nat) {ds : List Desc} {i : Nat} (h : i < ds.length) :
    (s.withSet k part ds).desc i = ds.getD i {} := by
  have hget := Table.get_foldl_set (fun _ => ({} : Desc)) [] (fun i => ds.getD i {}) ds.length i
  rw [if_pos h] at hget
  rw [← hget]
  simp only [State.desc, State.withSet, Feed.soleSet, Nat.zero_add, upTo]

/-- CHANSET_SET into an empty store, where the checks of its image pass. -/
theorem chansetSet_completes (s : State) (m : MbN) (k : Fin 1024) (host : Word) (ws : List Word)
    (hdue : s.cmdDue m.val 0x62 = true) (hdev : s.dev = .loaded)
    (hargs : s.Args m [BitVec.ofNat 64 k.val, host, BitVec.ofNat 64 (8 * ws.length)]) (hmod : ws.length % 8 = 0)
    (hlow : 2 ≤ ws.length / 8) (hhigh : ws.length / 8 ≤ 65) (htop : host.toNat + 8 * ws.length ≤ 0xF00000000000)
    (hbus : s.hif.busMaster = true) (hsets : s.otherSets k.val = []) (hact : s.activated = false)
    (hhead : s.setHeaderBad k.val ws = false) :
    let n := ws.length / 8 - 1
    let part := bitsOf (ws.getD 0 0) 32 8
    s.firstBad part k.val (descsOf n (ws.drop 8)) = none →
    ∃ t : State, t.Ends m.val 0 [] (exec (.chansetSet m (.ok ws)) s) ∧
      t.chanSet k.val = { part := part, count := n, first := 0, valid := true } ∧
      (∀ j, j ≠ k.val → t.chanSet j = {}) ∧ (∀ i, i < n → t.desc i = { words := (ws.drop (8 * (i + 1))).take 8 }) ∧
      { t with feed := { t.feed with
        sets := s.feed.sets, descs := s.feed.descs, cb := s.feed.cb, newCnt := s.feed.newCnt, shown := s.feed.shown } } = s := by
  intro n part hgood
  have hk : k.val < 1024 := k.isLt
  have hidx : bitsOf (s.arg m.val 0) 0 16 = k.val := index_of_args hargs (by omega)
  have h0 : s.arg m.val 0 = BitVec.ofNat 64 k.val := hargs.word 0
  have hclean : argRsvd s m.val 0 0xFFFF = false := argRsvd_of_within h0 (Within.of_lt (k := 16) (by omega))
  have hport : s.portIndex m.val = false := decide_eq_false (by rw [hidx]; omega)
  have hlen : (decide (8 * ws.length % 64 = 0) && decide (128 ≤ 8 * ws.length) && decide (8 * ws.length ≤ 4160)) = true := by
    rw [decide_eq_true (by omega), decide_eq_true (by omega), decide_eq_true (by omega)]
    rfl
  have himage : s.chansetSet m.val (.ok ws) = s.chansetImage m.val k.val ws := by
    rw [State.chansetSet, hclean, hidx, decide_eq_false (show ¬ 1024 ≤ k.val by omega)]
    exact State.withImage_got (lenOk := fun n => n % 64 = 0 && 128 ≤ n && n ≤ 4160) hargs (by omega) htop hlen hbus rfl
  have hds : (descsOf n (ws.drop 8)).length = n := descsOf_length n _
  have hdef : s.chansetImage m.val k.val ws =
      (s.withSet k.val part (descsOf n (ws.drop 8))).finish m.val 0 := by
    have hgood' : s.firstBad (bitsOf (ws.getD 0 0) 32 8) k.val (descsOf (ws.length / 8 - 1) (ws.drop 8)) = none := hgood
    rw [State.chansetImage, hhead, if_neg Bool.false_ne_true]
    dsimp only
    rw [hgood']
    exact congrArg (State.finish · m.val 0) (State.defineSet_empty hsets hact (Nat.le_trans (Nat.le_of_eq hds) (by omega)))
  have hexec : exec (.chansetSet m (.ok ws)) s = .next (s.chansetSet m.val (.ok ws)) := by
    refine (exec_of_due (c := .chansetSet m (.ok ws)) (s := s)
      (f := fun s => s.command m.val 0x62 (fun s => s.chansetSet m.val (.ok ws))) rfl (by rw [hdue, hport]; rfl)).trans ?_
    rw [State.command_loaded hdev (by decide)]
  refine ⟨_, .of_eq (hexec.trans (congrArg _ (himage.trans hdef))), ?_, fun j hj => ?_, fun i hi => ?_, rfl⟩
  · rw [State.withSet_chanSet_same, hds]
  · exact State.withSet_chanSet_other _ _ _ hj
  · rw [State.withSet_desc s k.val part (by rw [hds]; exact hi), descsOf_getD _ hi, List.drop_drop, Nat.mul_add, Nat.add_comm]

/-! #### The port record (R391) -/

/-- The words of a port record for one MAC. -/
def Mac.withPort (x : Mac) (ws : List Word) (i : Nat) : Mac :=
  { x with ctrl := ws.getD (4 * i) 0, phyDly := ws.getD (4 * i + 1) 0, ptpCfg := ws.getD (4 * i + 2) 0
           cbCfg := ws.getD (4 * i + 3) 0 }

/-- The words of a port record for one CAN controller. -/
def Can.withPort (e : Can) (ws : List Word) (c : Nat) : Can :=
  let v := ws.getD (16 + 3 * c) 0
  { e with
    ctrl := v, nbt := ws.getD (17 + 3 * c) 0, dbt := ws.getD (18 + 3 * c) 0
    st := if bitsOf v 0 2 = 0 then 3 else if e.st = 3 then 0 else e.st
    tec := if bitsOf v 0 2 = 0 then 0 else e.tec, recv := if bitsOf v 0 2 = 0 then 0 else e.recv }

/-- The words of a port record for the pins. -/
def Gpio.withPort (g : Gpio) (ws : List Word) : Gpio :=
  { g with safe := ws.getD 40 0, pol := ws.getD 41 0, filt := ws.getD 42 0, rbDly := ws.getD 43 0 }

/-- The state that keeps a port record. -/
def State.keepPorts (s : State) (ws : List Word) : State := { s with feed := { s.feed with portWords := ws, portSet := true } }

/-- The state whose feed keeps the port record `ws`. -/
def State.HasPorts (t : State) (ws : List Word) : Prop := t.feed.portSet = true ∧ t.feed.portWords = ws

section ports
variable {s t : State} {ws : List Word}

theorem State.portMac_eq {i : Nat} (h : t.HasPorts ws) : t.portMac i = t.modMac i (fun x => x.withPort ws i) := by
  obtain ⟨hset, hws⟩ := h
  rw [State.portMac, hset]
  simp only [State.portWord, hws]
  rfl

theorem State.portCan_eq {c : Nat} (h : t.HasPorts ws) : t.portCan c = t.modCan c (fun x => x.withPort ws c) := by
  obtain ⟨-, hws⟩ := h
  simp only [State.portCan, State.portWord, hws]
  rfl

theorem State.portCluster_eq (h : t.HasPorts ws) : t.portCluster =
    { t.forAll (upTo 8) (fun c u => u.modCan c (fun x => x.withPort ws c)) with gpio := t.gpio.withPort ws } := by
  have hloop : t.forAll (upTo 8) (fun c u => u.portCan c) = t.forAll (upTo 8) (fun c u => u.modCan c (fun x => x.withPort ws c)) :=
    State.forAll_congr_of (P := fun u => u.HasPorts ws) (fun _ _ _ hu => State.portCan_eq hu) (fun _ _ hu => hu) h
  have hfeed : (t.forAll (upTo 8) (fun c u => u.modCan c (fun x => x.withPort ws c))).feed = t.feed :=
    State.forAll_eq State.feed fun _ _ => rfl
  have hgpio : (t.forAll (upTo 8) (fun c u => u.modCan c (fun x => x.withPort ws c))).gpio = t.gpio :=
    State.forAll_eq State.gpio fun _ _ => rfl
  obtain ⟨hset, hws⟩ := h
  rw [State.portCluster, hset, if_neg (show ¬ (!true) = true by decide), hloop]
  simp only [State.portWord, hfeed, hgpio, hws]
  rfl

/-- The words of a port record go to the MACs that are on. -/
theorem State.portMacs_spec :
    let u := (s.keepPorts ws).forAll ((upTo 4).filter s.macOn) (fun i t => t.portMac i)
    { u with macs := s.macs } = s.keepPorts ws ∧
      ∀ i : Fin 4, u.mac i.val = if s.macOn i.val = true then (s.mac i.val).withPort ws i.val else s.mac i.val := by
  intro u
  have hloop : u = (s.keepPorts ws).forAll ((upTo 4).filter s.macOn) (fun i t => t.modMac i (fun x => x.withPort ws i)) :=
    State.forAll_congr_of (P := fun u => u.HasPorts ws) (fun _ _ _ hu => State.portMac_eq hu) (fun _ _ hu => hu) ⟨rfl, rfl⟩
  rw [hloop]
  refine ⟨State.forAll_of_turn (P := fun t => { t with macs := s.macs } = s.keepPorts ws) (fun _ _ h => h) rfl, fun i => ?_⟩
  rw [State.forAll_get (l := (upTo 4).filter s.macOn) State.mac (fun i x => x.withPort ws i) (fun _ _ => State.modMac_mac_same)
    (fun _ _ _ h => State.modMac_mac_other h) (List.Nodup.filter _ (List.nodup_range (n := 4)))]
  refine if_congr ?_ rfl rfl
  rw [List.mem_filter]
  exact and_iff_right (List.mem_range.mpr i.isLt)

theorem State.portCluster_spec (h : t.HasPorts ws) :
    { t.portCluster with cans := t.cans, gpio := t.gpio } = t ∧ t.portCluster.gpio = t.gpio.withPort ws ∧
      ∀ c : Fin 8, (t.portCluster.can c.val).ctrl = ws.getD (16 + 3 * c.val) 0 := by
  have hback : { t.forAll (upTo 8) (fun c u => u.modCan c (fun x => x.withPort ws c)) with cans := t.cans } = t :=
    State.forAll_of_turn (P := fun u => { u with cans := t.cans } = t) (fun _ _ h => h) rfl
  have hcan (c : Nat) (hc : c < 8) : (t.forAll (upTo 8) (fun c u => u.modCan c (fun x => x.withPort ws c))).can c =
      (t.can c).withPort ws c :=
    (State.forAll_get (l := upTo 8) State.can (fun c x => x.withPort ws c) (fun _ _ => State.modCan_can_same)
      (fun _ _ _ h => State.modCan_can_other h) (List.nodup_range (n := 8)) t c).trans (if_pos (List.mem_range.mpr hc))
  rw [State.portCluster_eq h]
  generalize t.forAll (upTo 8) (fun c u => u.modCan c (fun x => x.withPort ws c)) = u at hback hcan ⊢
  refine ⟨(congrArg (fun u : State => ({ u with gpio := t.gpio } : State)) hback :), rfl, fun c => ?_⟩
  exact congrArg Can.ctrl (hcan c.val c.isLt)

end ports

/-- The port record, where its checks pass. -/
theorem portRecord_completes (s : State) (m : MbN) (host : Word) (ws : List Word) (hdue : s.cmdDue m.val 0x62 = true)
    (hdev : s.dev = .loaded) (hargs : s.Args m [0xFFFF, host, 384]) (htop : host.toNat + 384 ≤ 0xF00000000000)
    (hbus : s.hif.busMaster = true) (hgood : portRecordBad ws = false) (hact : s.activated = false) :
    ∃ t : State, t.Ends m.val 0 [] (exec (.portRecordLoad m (.ok ws)) s) ∧
      { t with macs := s.macs, cans := s.cans, gpio := s.gpio } = s.keepPorts ws ∧
      (∀ i : Fin 4, t.mac i.val = if s.macOn i.val = true then (s.mac i.val).withPort ws i.val else s.mac i.val) ∧
      (∀ c : Fin 8, (t.can c.val).ctrl = if s.canOn = true then ws.getD (16 + 3 * c.val) 0 else (s.can c.val).ctrl) ∧
      t.gpio = (if s.canOn = true then s.gpio.withPort ws else s.gpio) := by
  have hargs' : s.Args m [BitVec.ofNat 64 0xFFFF, host, BitVec.ofNat 64 (8 * 48)] := hargs
  have hport : s.portIndex m.val = true := decide_eq_true (index_of_args hargs' (by decide))
  have hlen : ws.length = 48 := by
    by_contra h
    rw [portRecordBad, decide_eq_true h] at hgood
    exact nomatch hgood
  have himage : s.portRecord m.val (.ok ws) = (s.setPorts ws).finish m.val 0 := by
    refine (State.withImage_got (lenOk := fun n => n = 384) hargs' (by decide) htop rfl hbus hlen).trans ?_
    rw [hgood, if_neg Bool.false_ne_true]
  have hexec : exec (.portRecordLoad m (.ok ws)) s = .next (s.portRecord m.val (.ok ws)) := by
    refine (exec_of_due (c := .portRecordLoad m (.ok ws)) (s := s)
      (f := fun s => s.command m.val 0x62 (fun s => s.portRecord m.val (.ok ws))) rfl (by rw [hdue, hport]; rfl)).trans ?_
    rw [State.command_loaded hdev (by decide)]
  refine ⟨s.setPorts ws, .of_eq (hexec.trans (congrArg _ himage)), ?_⟩
  obtain ⟨hback, hmac⟩ := State.portMacs_spec (s := s) (ws := ws)
  have hset : s.setPorts ws =
      let u := (s.keepPorts ws).forAll ((upTo 4).filter s.macOn) (fun i t => t.portMac i)
      let v := if u.canOn then u.portCluster else u
      if v.activated then v.gpioSafe else v := rfl
  rw [hset]
  generalize (s.keepPorts ws).forAll ((upTo 4).filter s.macOn) (fun i t => t.portMac i) = u at hback hmac ⊢
  have hhas : u.HasPorts ws := (congrArg (fun t : State => t.HasPorts ws) hback :).mpr ⟨rfl, rfl⟩
  have hon : u.canOn = s.canOn := (congrArg State.canOn hback :)
  have hgpio : u.gpio = s.gpio := (congrArg State.gpio hback :)
  have hcan (c : Nat) : u.can c = s.can c := (congrArg (fun t : State => t.can c) hback :)
  have hactive : u.activated = false := (congrArg State.activated hback :).trans hact
  obtain ⟨hrest, hpins, hctrl⟩ := State.portCluster_spec hhas
  dsimp only
  rw [hon]
  cases s.canOn with
  | false =>
    rw [if_neg Bool.false_ne_true, hactive, if_neg Bool.false_ne_true]
    exact ⟨(congrArg (fun t : State => ({ t with cans := s.cans, gpio := s.gpio } : State)) hback :), hmac,
      fun c => congrArg Can.ctrl (hcan c.val), hgpio⟩
  | true =>
    have hoff : u.portCluster.activated = false := (congrArg State.activated hrest :).trans hactive
    rw [if_pos rfl, hoff, if_neg Bool.false_ne_true]
    have hmacs (i : Nat) : u.portCluster.mac i = u.mac i := (congrArg (fun t : State => t.mac i) hrest :)
    refine ⟨?_, fun i => (hmacs i.val).trans (hmac i), hctrl, hpins.trans (congrArg (Gpio.withPort · ws) hgpio)⟩
    exact ((congrArg (fun t : State => ({ t with macs := s.macs, cans := s.cans, gpio := s.gpio } : State)) hrest :)).trans
      (congrArg (fun t : State => ({ t with cans := s.cans, gpio := s.gpio } : State)) hback :)

end Sys2Proof.Machine
end

section
/-! ### TRACE_PAIR, TRACE_DETACH and TAKEOVER (R303, R315, R318, R375) -/

namespace Sys2Proof.Machine

/-- A table that lists values from an index on. -/
theorem Table.get_zip_range' {α : Type} (d : α) (l : List α) (k i : Nat) (h : k ≤ i) :
    Table.get (fun _ => d) ((List.range' k l.length).zip l) i = l.getD (i - k) d := by
  induction l generalizing k with
  | nil => rfl
  | cons a l ih =>
    rw [List.length_cons, List.range'_succ, List.zip_cons_cons, Table.get]
    by_cases hk : i = k
    · rw [if_pos hk, hk, Nat.sub_self, List.getD_cons_zero]
    · rw [if_neg hk, ih (k + 1) (by omega), show i - k = i - (k + 1) + 1 by omega, List.getD_cons_succ]

theorem Table.get_zip_upTo {α : Type} (d : α) (l : List α) (i : Nat) :
    Table.get (fun _ => d) ((upTo l.length).zip l) i = l.getD i d := by
  rw [upTo, List.range_eq_range']
  exact Table.get_zip_range' d l 0 i (Nat.zero_le i)

section pairing
variable {s : State} {m : MbN}

/-- The registers of a pairing that comes into force, with its event. -/
def Trc.paired (x : Trc) (mode pct wd : Nat) (peer : Word) (l : List TrcEntry) : Trc :=
  { x with
    mode := mode, pct := pct, peer := peer, wd := wd, list := (upTo l.length).zip l, st := .stale, cursor := 0, txSeq := 0
    rxSeq := 0, winOpen := false, winUnits := 0, winSlots := [], ignore := false, await := [], doneAt := none, watch := []
    mine := none, theirs := none, offNext := false, takeAt := none, startAt := none, stopped := false, adopt := none
    send := none, got := none, event := x.event ||| 1 }

/-- The pairing of a TRACE_PAIR command. -/
def State.nowPaired (s : State) (m : Nat) : State :=
  s.withTrc (s.trc.paired (bitsOf (s.arg m 0) 0 3) (bitsOf (s.arg m 0) 8 7) (bitsOf (s.arg m 2) 0 28) (s.arg m 1) s.traceList)

theorem State.tracePair_passed (h : s.pairCheck m.val = 0) : s.tracePair m.val =
    (((s.nowPaired m.val).sendMsix 2).raise { cls := 0x53, utype := 8 }).finish m.val 0
      [BitVec.ofNat 64 s.cfgDigest, BitVec.ofNat 64 s.traceList.length, BitVec.ofNat 64 s.sweepCount] := by
  rw [State.tracePair, h]
  exact if_neg fun hne => hne rfl

theorem exec_tracePair (hbegin : s.Begins m 0x70) : exec (.tracePair m) s = .next (s.tracePair m.val) :=
  runCommand_of_begins hbegin (fun s => s.tracePair m.val)

theorem exec_traceDetach (hbegin : s.Begins m 0x71) : exec (.traceDetach m) s =
    .next (if s.trc.mode = 0 then s.finish m.val 0x0A06 else s.waitFor m.val (.detach m.val s.cyc)) :=
  runCommand_of_begins hbegin (fun s => s.traceDetach m.val)

theorem exec_takeover (hbegin : s.Begins m 0x72) : exec (.takeover m) s = .next (s.takeover m.val) :=
  runCommand_of_begins hbegin (fun s => s.takeover m.val)

theorem State.takeover_current (hmode : s.trc.mode = 2) (hst : s.trc.st = .current) :
    s.takeover m.val = (s.declareLost (s.trc.rxSeq - 1)).waitFor m.val (.takeover m.val s.cyc) := by
  rw [State.takeover, if_neg (by rw [hmode]; decide), if_neg (not_not.mpr hmode), if_neg (not_not.mpr hst)]

end pairing

/-- The tracing commands, where their checks pass or the part is not paired. -/
theorem traceCommands_complete (s : State) (m : MbN) :
    (s.Begins m 0x70 → s.pairCheck m.val = 0 → ∃ t u : State, t.MsixAsked 2 (.next u) ∧
      (u.raise { cls := 0x53, utype := 8 }).Ends m.val 0
        [BitVec.ofNat 64 s.cfgDigest, BitVec.ofNat 64 s.traceList.length, BitVec.ofNat 64 s.sweepCount]
        (exec (.tracePair m) s) ∧
      { t with trc := s.trc } = s ∧ t.trc.event = s.trc.event ||| 1 ∧ t.trc.st = .stale ∧ t.trc.mode = bitsOf (s.arg m.val 0) 0 3 ∧
      t.trc.pct = bitsOf (s.arg m.val 0) 8 7 ∧ t.trc.peer = s.arg m.val 1 ∧ t.trc.wd = bitsOf (s.arg m.val 2) 0 28 ∧
      t.trc.txSeq = 0 ∧ t.trc.cursor = 0 ∧
      ∀ i, Table.get (fun _ => ({} : TrcEntry)) t.trc.list i = s.traceList.getD i {}) ∧
    (s.Begins m 0x71 → (s.trc.mode = 0 → s.Ends m.val 0x0A06 [] (exec (.traceDetach m) s)) ∧
      (s.trc.mode ≠ 0 → ∃ t : State, exec (.traceDetach m) s = .next t ∧ s.NowWaits t m (.detach m.val s.cyc))) ∧
    (s.Begins m 0x72 → (s.trc.mode = 0 → s.Ends m.val 0x0A06 [] (exec (.takeover m) s)) ∧
      (s.trc.mode = 2 → s.trc.st = .current →
        ∃ t : State, exec (.takeover m) s = .next t ∧
          (s.declareLost (s.trc.rxSeq - 1)).NowWaits t m (.takeover m.val s.cyc))) := by
  refine ⟨fun hbegin hcheck => ?_, fun hbegin => ⟨fun hmode => ?_, fun hmode => ?_⟩, fun hbegin => ⟨fun hmode => ?_, fun hmode hst => ?_⟩⟩
  · refine ⟨s.nowPaired m.val, _, State.sendMsix_asked _ 2,
      .of_eq ((exec_tracePair hbegin).trans (congrArg _ (State.tracePair_passed hcheck))), rfl, rfl, rfl, rfl, rfl, rfl, rfl, rfl,
      rfl, fun i => Table.get_zip_upTo _ _ _⟩
  · rw [exec_traceDetach hbegin, if_pos hmode]
    exact State.finish_ends _ _ _ _
  · rw [exec_traceDetach hbegin, if_neg hmode]
    exact ⟨_, rfl, State.waitFor_waits _ _ _⟩
  · rw [exec_takeover hbegin, State.takeover, if_pos hmode]
    exact State.finish_ends _ _ _ _
  · rw [exec_takeover hbegin, State.takeover_current hmode hst]
    exact ⟨_, rfl, State.waitFor_waits _ _ _⟩

end Sys2Proof.Machine
end

section
/-! ### CHECKER_TEST of a reservoir (R297, R373) -/

namespace Sys2Proof.Machine

/-- The flip masks of a single bit. -/
theorem flip_masks (i : Fin 76) :
    bitAt (wordN (2 ^ i.val / 2 ^ 64 + bitN false * 2 ^ 12)) 12 = false ∧
      BitVec.ofNat 76 ((wordN (2 ^ i.val % 2 ^ 64)).toNat + bitsOf (wordN (2 ^ i.val / 2 ^ 64 + bitN false * 2 ^ 12)) 0 12 * 2 ^ 64) =
        oneBit i := by
  revert i
  decide

/-- The first case of a checker test, one bit flipped, is correctable. -/
theorem judge_testCode {cpa bit : Nat} (w : TWord) (hbit : bit ≤ 75) :
    ∃ syn, judge (cpaFold cpa) (testCode cpa w (flipBits [bit]) false) = .corrected w syn := by
  have hflip : flipBits [bit] = 2 ^ bit := by
    rw [flipBits, List.foldl_cons, List.foldl_nil, Nat.zero_or]
  obtain ⟨hfold, hmask⟩ := flip_masks ⟨bit, by omega⟩
  refine ⟨_, Eq.trans (congrArg (judge (cpaFold cpa)) ?_) (judge_oneBit (cpaFold cpa) w ⟨bit, by omega⟩)⟩
  rw [hflip, testCode, injectCode, hfold, hmask, Bool.bne_false]

section checker
variable {s : State} {r : Nat} {cpa : Nat}

/-- Only mem, the reservoirs, the blotter and the free values may differ. -/
def State.bankRest (s : State) : State := { s with mem := [], rsv := [], blot := {}, free := 0 }

theorem State.marginAdd_room {syn source : Nat} (hroom : s.blot.ml.length < 64) :
    (s.marginAdd cpa syn source).bankRest = s.bankRest ∧ (s.marginAdd cpa syn source).rsv = s.rsv ∧
      (s.marginAdd cpa syn source).mem = s.mem ∧ ∃ x ∈ (s.marginAdd cpa syn source).blot.ml, x.cpa = cpa := by
  rw [State.marginAdd]
  by_cases hany : (s.blot.ml.any fun m => m.cpa = cpa && (m.source = srcStore) = (source = srcStore)) = true
  · obtain ⟨x, hx, hsame⟩ := List.any_eq_true.mp hany
    have hcpa : x.cpa = cpa := of_decide_eq_true (Bool.and_eq_true_iff.mp hsame).1
    rw [if_pos hany]
    refine ⟨rfl, rfl, rfl, _, List.mem_map.mpr ⟨x, hx, rfl⟩, ?_⟩
    rw [if_pos hsame]
    exact hcpa
  · rw [if_neg hany, if_pos hroom]
    exact ⟨rfl, rfl, rfl, _, List.mem_append_right _ List.mem_cons_self, rfl⟩

/-- The injection registers of a reservoir after a test. -/
def Rsv.tested (x : Rsv) (word : Nat) : Rsv := { x with injAddr := wordN word, injFlip0 := 0, injFlip1 := wordN (2 ^ 12) }

theorem State.bankRest_modRsv {f : Rsv → Rsv} : (s.modRsv r f).bankRest = s.bankRest := rfl

theorem State.bankRest_withMem {v : Table Code} : ({ s with mem := v } : State).bankRest = s.bankRest := rfl

theorem State.bankRest_poke {w : TWord} : (s.poke cpa w).bankRest = s.bankRest := by
  rw [State.poke, State.pokeCode]
  exact State.bankRest_withMem

theorem State.modRsv_peek {f : Rsv → Rsv} {a : Nat} : (s.modRsv r f).peek a = s.peek a := rfl

/-- A test whose three cases gave their outcomes: the correctable one is counted and logged, the word written again. -/
theorem State.bankCases_of_corrected {b : Bank} {word bit syn : Nat} {w : TWord} (hcpa : bankBase b + 8 * word = cpa)
    (hsyn : Machine.judge (cpaFold cpa) (testCode cpa w (flipBits [bit]) false) = .corrected w syn) :
    s.bankCases b word bit 7 w =
      (((s.modErr cpa bumpCe).marginAdd cpa syn (enginePort cpa)).poke cpa w).testArmed b word := by
  simp only [State.bankCases, hcpa, show Nat.testBit 7 0 = true from rfl, if_true, hsyn, State.noteCe]

/-- The arm of a reservoir's injection spent. -/
theorem State.testArmed_rsv {r : Fin 32} {word : Nat} :
    s.testArmed (.rsv r) word = s.modRsv r.val (fun x => x.tested word) := rfl

/-- The state after the three cases of a test of reservoir `r`, its word written again. -/
theorem State.bankCases_rsv {r : Fin 32} {word bit : Nat} {w : TWord} (hcpa : bankBase (.rsv r) + 8 * word = cpa)
    (hink : isInk cpa = false) (hnum : rsvNum cpa = r.val) (hbit : bit ≤ 75) (hroom : s.blot.ml.length < 64) :
    ∃ t, s.bankCases (.rsv r) word bit 7 w = t ∧
      t.peek cpa = .clean w ∧ (∀ b, b / 8 ≠ cpa / 8 → t.peekCode b = s.peekCode b) ∧ (∃ x ∈ t.blot.ml, x.cpa = cpa) ∧
      (t.rsvOf r.val).errCnt = bumpCe (s.rsvOf r.val).errCnt ∧ (∀ j, j ≠ r.val → t.rsvOf j = s.rsvOf j) ∧
      t.bankRest = s.bankRest := by
  obtain ⟨syn, hsyn⟩ := judge_testCode (cpa := cpa) w hbit
  have herr : s.modErr cpa bumpCe = s.modRsv r.val (fun x => { x with errCnt := bumpCe x.errCnt }) := by
    rw [State.modErr, hink, if_neg Bool.false_ne_true, hnum]
  refine ⟨_, State.bankCases_of_corrected hcpa hsyn, ?_⟩
  rw [herr, State.testArmed_rsv]
  obtain ⟨hrest, hrsv, hmem, hml⟩ := State.marginAdd_room (s := s.modRsv r.val (fun x => { x with errCnt := bumpCe x.errCnt }))
    (cpa := cpa) (syn := syn) (source := enginePort cpa) (by rw [State.modRsv_blot]; exact hroom)
  generalize (s.modRsv r.val (fun x => { x with errCnt := bumpCe x.errCnt })).marginAdd cpa syn (enginePort cpa) = v
    at hrest hrsv hmem hml ⊢
  refine ⟨State.modRsv_peek.trans State.poke_peek_same, fun b hb => ?_, ?_, ?_, fun j hj => ?_, ?_⟩
  · rw [State.modRsv_peekCode, State.poke_peekCode_other hb, State.peekCode, hmem, State.modRsv_mem, ← State.peekCode]
  · rw [State.modRsv_blot, State.poke_blot]
    exact hml
  · rw [State.modRsv_rsvOf_same, State.poke_rsvOf, State.rsvOf, hrsv, ← State.rsvOf, State.modRsv_rsvOf_same, Rsv.tested]
  · rw [State.modRsv_rsvOf_other hj, State.poke_rsvOf, State.rsvOf, hrsv, ← State.rsvOf, State.modRsv_rsvOf_other hj]
  · rw [State.bankRest_modRsv, State.bankRest_poke, hrest, State.bankRest_modRsv]

end checker

/-- A test of a bank whose word is clean and whose three cases gave their outcomes. -/
theorem State.checkBank_of_clean {s : State} {m word bit seen : Nat} {b : Bank} {w : TWord}
    (hpeek : s.peek (bankBase b + 8 * word) = .clean w) (hseen : seen % 8 = 7) :
    s.checkBank m b word bit seen = (s.bankCases b word bit 7 w).finish m 0 [wordN 7] := by
  simp only [State.checkBank, State.readWord_clean hpeek, hseen, if_true]

/-- CHECKER_TEST of a reservoir, where its arguments pass. -/
theorem State.checkerTest_rsv {s : State} {m seen : Nat} {r : Fin 32} {word bit : Nat}
    (hclean0 : argRsvd s m 0 0x13F03 = false) (hclean1 : argRsvd s m 1 0xFF01FFFF = false)
    (hkind : bitsOf (s.arg m 0) 0 2 = 1) (hnum : bitsOf (s.arg m 0) 8 6 = r.val) (hw : bitsOf (s.arg m 1) 0 17 = word)
    (hb : bitsOf (s.arg m 1) 24 8 = bit) (hbit : bit ≤ 75) (hmay : s.mayInjectRsv r.val = true)
    (hon : s.rsvOn r.val = true) : s.checkerTest m seen = s.checkBank m (.rsv r) word bit seen := by
  have hr : r.val < 32 := r.isLt
  have hrange : (decide (75 < bit) || decide (32 ≤ r.val)) = false :=
    Bool.or_eq_false_iff.mpr ⟨decide_eq_false (by omega), decide_eq_false (by omega)⟩
  have hfin : Fin.ofNat 32 r.val = r := Fin.ext (Nat.mod_eq_of_lt hr)
  simp only [State.checkerTest, hclean0, hclean1, hkind, hnum, hw, hb, hrange, hmay, hon, hfin, Bool.or_self,
    Bool.false_eq_true, Bool.not_true, if_false]

/-- CHECKER_TEST of a reservoir that gives all three outcomes. -/
theorem checkerTest_completes (s : State) (m : MbN) (r : Fin 32) (word bit : Nat) (w : TWord) (seen : BitVec 8)
    (hbegin : s.Begins m 0x54)
    (hargs : s.Args m [BitVec.ofNat 64 (1 + r.val * 256), BitVec.ofNat 64 (word + bit * 2 ^ 24)]) (hword : word < 131072)
    (hbit : bit ≤ 75) (hmay : s.mayInjectRsv r.val = true) (hon : s.rsvOn r.val = true) (hroom : s.blot.ml.length < 64) :
    let cpa := 0x10000000 + r.val * 0x100000 + 8 * word
    s.peek cpa = .clean w → bitsOf (seen.setWidth 64) 0 3 = 7 →
    ∃ t : State, t.Ends m.val 0 [7] (exec (.checkerTest m seen) s) ∧ t.peek cpa = .clean w ∧
      (∀ b, b / 8 ≠ cpa / 8 → t.peekCode b = s.peekCode b) ∧ (∃ x ∈ t.blot.ml, x.cpa = cpa) ∧
      (t.rsvOf r.val).errCnt = setBits (s.rsvOf r.val).errCnt 0 32 (satInc 0xFFFFFFFF (bitsOf (s.rsvOf r.val).errCnt 0 32)) ∧
      (∀ j, j ≠ r.val → t.rsvOf j = s.rsvOf j) ∧
      { t with mem := s.mem, rsv := s.rsv, blot := s.blot, free := s.free } = s := by
  intro cpa hpeek hseen
  have hr : r.val < 32 := r.isLt
  have h0 : s.arg m.val 0 = BitVec.ofNat 64 (1 + r.val * 2 ^ 8) := hargs.word 0
  have h1 : s.arg m.val 1 = BitVec.ofNat 64 (word + bit * 2 ^ 24) := hargs.word 1
  have hfield : Within r.val 0x13F := by
    have h := (Within.of_lt (n := r.val) (k := 6) (by omega)).add (k := 6) (show Within 0 4 from rfl) (by omega) (by decide)
    rwa [Nat.zero_mul, Nat.add_zero] at h
  have hclean0 : argRsvd s m.val 0 0x13F03 = false :=
    argRsvd_of_within h0 ((show Within 1 3 from rfl).add
      hfield (by decide) (by decide))
  have hclean1 : argRsvd s m.val 1 0xFF01FFFF = false :=
    argRsvd_of_within h1 ((Within.of_lt (n := word) (k := 17) (by omega)).add (Within.of_lt (n := bit) (k := 8) (by omega))
      (by omega) (by decide))
  have hkind : bitsOf (s.arg m.val 0) 0 2 = 1 := by
    rw [h0, bitsOf_ofNat _ 0 2 (by decide)]
    omega
  have hnum : bitsOf (s.arg m.val 0) 8 6 = r.val := by
    rw [h0, bitsOf_ofNat _ 8 6 (by decide)]
    omega
  have hw : bitsOf (s.arg m.val 1) 0 17 = word := by
    rw [h1, bitsOf_ofNat _ 0 17 (by decide)]
    omega
  have hb : bitsOf (s.arg m.val 1) 24 8 = bit := by
    rw [h1, bitsOf_ofNat _ 24 8 (by decide)]
    omega
  have hseen' : seen.toNat % 8 = 7 := by
    have hlt := seen.isLt
    rw [bitsOf, BitVec.toNat_setWidth] at hseen
    omega
  have hcpa : bankBase (.rsv r) + 8 * word = cpa := rfl
  have hink : isInk cpa = false := decide_eq_false (by omega)
  have hnum' : rsvNum cpa = r.val := by
    rw [rsvNum]
    omega
  obtain ⟨t, ht, hword', hother, hlog, herr, hrsvs, hrest⟩ :=
    State.bankCases_rsv (w := w) hcpa hink hnum' hbit hroom
  have hbody : s.checkerTest m.val seen.toNat = t.finish m.val 0 [wordN 7] := by
    rw [State.checkerTest_rsv hclean0 hclean1 hkind hnum hw hb hbit hmay hon,
      State.checkBank_of_clean (hcpa ▸ hpeek) hseen', ht]
  refine ⟨t, ?_, hword', hother, hlog, herr, hrsvs,
    congrArg (fun u : State => { u with mem := s.mem, rsv := s.rsv, blot := s.blot, free := s.free }) hrest⟩
  have hrun := runCommand_of_begins hbegin (fun s => s.checkerTest m.val seen.toNat)
  exact .of_eq (hrun.trans (congrArg _ hbody))

end Sys2Proof.Machine
end

section
/-! ### FW_LOAD (R356 to R358) -/

namespace Sys2Proof.Machine

section firmware
variable {s : State} {m : MbN} {bs : List Byte} {badPens : BitVec 64} {badInk : BitVec 128} {badRsv : BitVec 32}

/-- The firmware's start-up tests are over and the part is in LOADED. -/
def State.started (s : State) : State := { s with dev := .loaded, huv := { s.huv with testing := false } }

/-- The part once the new firmware has tested its pens and banks. -/
def State.selfTested (s : State) (bs : List Byte) (badPens : BitVec 64) (badInk : BitVec 128) (badRsv : BitVec 32) : State :=
  ((({ s with huv := { s.huv with
        fwVersion := wordN (leField bs 8 4), fwHash := Config.sha384 (bs.drop 512), testing := true } }.forAll (upTo 64)
      (fun p t => t.testPen p (badPens.getLsbD p))).testInks badInk).testRsvs badRsv)

theorem State.fwAccept_eq : ∃ res, s.fwAccept m.val bs badPens badInk badRsv =
    (s.selfTested bs badPens badInk badRsv).fenceRsvs.closeLocks.started.finish m.val 0 (wordN (leField bs 8 4) :: res) :=
  ⟨_, rfl⟩

/-- Closing every lock closes those of the blocks last. -/
theorem State.closeLocks_eq (t : State) : ∃ u : State, t.closeLocks = u.closeBlockLocks := ⟨_, rfl⟩

/-- Firmware in LOADED finds every lock of the blocks closed. -/
theorem State.started_locked (u : State) :
    u.closeBlockLocks.started.dev = .loaded ∧ u.closeBlockLocks.started.huv.testing = false ∧
      u.closeBlockLocks.started.folio.lock = true ∧ u.closeBlockLocks.started.rul.lock = true ∧
      u.closeBlockLocks.started.blot.lock = true ∧ u.closeBlockLocks.started.huv.rbLock = true ∧
      u.closeBlockLocks.started.hif.lock = true ∧ u.closeBlockLocks.started.feed.lock = true ∧
      u.closeBlockLocks.started.gpio.lock = true ∧ u.closeBlockLocks.started.trc.lock = true ∧
      u.closeBlockLocks.started.pwr.lock = true ∧ u.closeBlockLocks.started.aon.lock = true :=
  ⟨rfl, rfl, rfl, rfl, rfl, rfl, rfl, rfl, rfl, rfl, rfl, rfl⟩

end firmware

/-- What FW_LOAD does once its arguments are in range and its image is read. -/
theorem State.fwLoad_of_read {s : State} {m : Nat} {ws : List Word} {badPens : BitVec 64} {badInk : BitVec 128}
    {badRsv : BitVec 32} {len lowest : Nat} (ha : (s.arg m 0).toNat % 8 = 0) (htop : (s.arg m 0).toNat + len ≤ hostTop)
    (hlen : bitsOf (s.arg m 1) 0 32 = len) (hlow : bitsOf (s.arg m 2) 0 32 = lowest)
    (hclean1 : argRsvd s m 1 0xFFFFFFFF = false) (hclean2 : argRsvd s m 2 0xFFFFFFFF = false)
    (hget : s.hostGet (.ok ws) ((len + 7) / 8) = .got ws) :
    s.fwLoad m (.ok ws) badPens badInk badRsv =
      if 8 ≤ s.huv.fwRejects then s.fwReject m 0x0607
      else if imageCheck (imageBytes ws len) len lowest ≠ 0 then s.fwReject m (imageCheck (imageBytes ws len) len lowest)
      else s.fwAccept m (imageBytes ws len) badPens badInk badRsv := by
  have hrange : (decide ((s.arg m 0).toNat % 8 ≠ 0) || decide (hostTop < (s.arg m 0).toNat + len)) = false :=
    Bool.or_eq_false_iff.mpr ⟨decide_eq_false (by omega), decide_eq_false (by omega)⟩
  rw [State.fwLoad, hlen, hlow, hrange, hclean1, hclean2, hget]
  rfl

/-- FW_LOAD of an image that was read. -/
theorem fwLoad_completes (s : State) (m : MbN) (ws : List Word) (badPens : BitVec 64) (badInk : BitVec 128)
    (badRsv : BitVec 32) (host : Word) (len lowest : Nat) (hbegin : s.Begins m 0x02) (hlen : len < 2 ^ 32)
    (hlow : lowest < 2 ^ 32) (hargs : s.Args m [host, BitVec.ofNat 64 len, BitVec.ofNat 64 lowest])
    (halign : host.toNat % 8 = 0) (htop : host.toNat + len ≤ 0xF00000000000) (hbus : s.hif.busMaster = true)
    (hread : ws.length = (len + 7) / 8) :
    let bs := imageBytes ws len
    let o := exec (.fwLoad m (.ok ws) badPens badInk badRsv) s
    let refused (code : Nat) : Prop :=
      { s with huv := { s.huv with fwRejects := satInc 255 s.huv.fwRejects } }.Ends m.val code [] o
    if 8 ≤ s.huv.fwRejects then refused 0x0607
    else if imageCheck bs len lowest ≠ 0 then refused (imageCheck bs len lowest)
    else ∃ (t : State) (res : List Word), t.Ends m.val 0 res o ∧ t.dev = .loaded ∧ t.huv.testing = false ∧
      res.getD 0 0 = BitVec.ofNat 64 (leField bs 8 4) ∧ t.folio.lock = true ∧ t.rul.lock = true ∧ t.blot.lock = true ∧
      t.huv.rbLock = true ∧ t.hif.lock = true ∧ t.feed.lock = true ∧ t.gpio.lock = true ∧ t.trc.lock = true ∧
      t.pwr.lock = true ∧ t.aon.lock = true := by
  intro bs o refused
  have h0 : s.arg m.val 0 = host := hargs.word 0
  have h1 : s.arg m.val 1 = BitVec.ofNat 64 len := hargs.word 1
  have h2 : s.arg m.val 2 = BitVec.ofNat 64 lowest := hargs.word 2
  have hget : s.hostGet (.ok ws) ((len + 7) / 8) = .got ws := by
    rw [State.hostGet_ok hbus (Nat.le_of_eq hread.symm), List.take_of_length_le (Nat.le_of_eq hread)]
  have hfield {n i : Nat} (hn : n < 2 ^ 32) (h : s.arg m.val i = BitVec.ofNat 64 n) : bitsOf (s.arg m.val i) 0 32 = n := by
    rw [h, bitsOf_ofNat _ 0 32 (by decide)]
    omega
  have hbody : s.fwLoad m.val (.ok ws) badPens badInk badRsv = _ :=
    State.fwLoad_of_read (by rw [h0]; exact halign) (by rw [h0]; exact htop) (hfield hlen h1) (hfield hlow h2)
      (argRsvd_of_within h1 (Within.of_lt (k := 32) hlen)) (argRsvd_of_within h2 (Within.of_lt (k := 32) hlow)) hget
  have ho : o = .next (s.fwLoad m.val (.ok ws) badPens badInk badRsv) :=
    runCommand_of_begins hbegin (fun s => s.fwLoad m.val (.ok ws) badPens badInk badRsv)
  rw [hbody] at ho
  split
  next hrej =>
    rw [if_pos hrej] at ho
    exact .of_eq ho
  next hrej =>
    rw [if_neg hrej] at ho
    split
    next hbad =>
      rw [if_pos hbad] at ho
      exact .of_eq ho
    next hgood =>
      obtain ⟨res, hacc⟩ := State.fwAccept_eq (s := s) (m := m) (bs := bs) (badPens := badPens) (badInk := badInk) (badRsv := badRsv)
      obtain ⟨u, hu⟩ := State.closeLocks_eq (s.selfTested bs badPens badInk badRsv).fenceRsvs
      obtain ⟨hdev, htest, hlocks⟩ := State.started_locked u
      rw [if_neg hgood, hacc, hu] at ho
      exact ⟨_, _, .of_eq ho, hdev, htest, rfl, hlocks⟩

end Sys2Proof.Machine
end

section
namespace Sys2Proof.Machine

/-- Settles O49: each command by its own theorem, from what it does once its arguments pass. -/
theorem queueTraceAndTestCommands : Obligations.QueueTraceAndTestCommands := by
  unfold Obligations.QueueTraceAndTestCommands
  exact ⟨⟨queueSet_completes, shareSet_completes, chansetSet_completes, portRecord_completes, traceCommands_complete⟩,
    checkerTest_completes, fwLoad_completes⟩

end Sys2Proof.Machine
end
